-- ==== Sys2Proof/Word.lean ====
section
/-!
DEFINITION. Sys2Proof/Word.lean: the word and byte types of the machine (R3, R4).
-/

namespace Sys2Proof

/-- A 64-bit word. -/
abbrev Word := BitVec 64

/-- A byte. -/
abbrev Byte := BitVec 8

end Sys2Proof
end

