-- ==== Sys2Proof/Syntax.lean ====
section
/-!
DEFINITION. Sys2Proof/Syntax.lean: the instructions of the three code layers (miller words, stream commands, element
operation words) and the device's events, one constructor per row of spec/opcode_table.json.
-/

namespace Sys2Proof

/-- The guard of a miller instruction: register number and negation (R161, R164). -/
structure Guard where
  q : BitVec 3
  n : Bool
deriving DecidableEq, Repr

/-- The fields of an element operation word beside its EOP (R183). -/
structure ElemFields where
  ina   : BitVec 4
  inb   : BitVec 4
  inc   : BitVec 4
  dirs  : BitVec 4
  md    : BitVec 8
  param : BitVec 32
deriving DecidableEq, Repr

/-- An operand of an element (R183). -/
inductive Opd where
  | a | b | c
deriving DecidableEq, Repr

/-- Where a token waits that leaves for the next slot of its link (R294): an element's output in one direction, the quad
bus, or an input port of the run. -/
inductive LinkEnd where
  | out (elem : Nat) (dir : BitVec 2)
  | quad (elem : Nat)
  | own (elem : Nat)
  | port (p : Nat)
deriving DecidableEq, Repr

/-- What a member of a collective group contributes to the members of another package (R290, R410): the entry of the group table,
the member it comes from, the member list, the operation, and the records. -/
structure CollShare where
  grp     : Nat
  seq     : BitVec 32
  srcPkg  : BitVec 8
  srcFn   : Nat
  srcIdx  : BitVec 32
  members : List Word
  op      : Nat
  nrec    : Nat
  data    : List Byte
deriving DecidableEq, Repr

/-- What a race-link flit carries (R411 to R413, R288, R290): messages of a channel name the peer's function and channel;
`closed` says that the consumer end joined to that channel has closed; `hold` that a package holds so many more handles of an
object. -/
inductive LinkMsg where
  | word (fn : Nat) (ch : BitVec 12) (v : Word)
  | pair (fn : Nat) (ch : BitVec 12) (h : BitVec 128)
  | halo (fn : Nat) (ch : BitVec 12) (tag : BitVec 16) (bytes : List Byte)
  | closed (fn : Nat) (ch : BitVec 12)
  | release (obj : BitVec 40) (count : Nat)
  | hold (obj : BitVec 40) (pkg : BitVec 8) (count : Nat)
  | share (c : CollShare)
  | ack (seq : BitVec 32)
deriving DecidableEq, Repr

/-- A race-link flit (R412): its sender's package, and for a message of a channel the sender's function and channel; `num` is the
place of the message among those of its channel, or of its package, so that one sent again on another port is delivered once. -/
structure Flit where
  seq   : BitVec 32
  crcOk : Bool
  clk   : Nat
  pkg   : BitVec 8
  fn    : Nat
  ch    : BitVec 12
  num   : BitVec 32
  msg   : LinkMsg
deriving DecidableEq, Repr

/-- What the debug port is asked to do (R444). -/
inductive TapOp where
  | bypass (tdi : Bool)
  | idcode
  | sample
  | preload (v : Word)
  | extest (v : Word)
  | mailbox (token : List Byte) (request : List Byte)
deriving DecidableEq, Repr

/-- What an event is about: the operands of the device events, which the agent's place in the agenda gives. `fn` a
function; `n` and `k` numbers (a die, mill, tile, port, line, channel, barrier or location, as the event's meaning says);
`w` a word; `bytes` the bytes of a message. -/
structure EvArg where
  fn    : Nat
  n     : Nat
  k     : Nat
  w     : Word
  wr    : Bool
  opd   : Opd
  lend  : LinkEnd
  flit  : Flit
  tap   : TapOp
  bytes : List Byte
deriving DecidableEq, Repr

/-- An event with no operands. -/
def EvArg.none : EvArg := ⟨0, 0, 0, 0, false, .a, .port 0, ⟨0, true, 0, 0, 0, 0, 0, .ack 0⟩, .idcode, []⟩

/-- The instructions, one constructor per row of the opcode table. A miller instruction and a stream command carry their
operands; an element operation is named here and its fields stand in the element's word (`ElemFields`); an event's
operands are an `EvArg`. -/
inductive Instr where
  -- miller instructions (R161 to R179)
  | add (g : Guard) (d : BitVec 5) (a : BitVec 5) (b : BitVec 5)
  | addW (g : Guard) (d : BitVec 5) (a : BitVec 5) (b : BitVec 5)
  | sub (g : Guard) (d : BitVec 5) (a : BitVec 5) (b : BitVec 5)
  | subW (g : Guard) (d : BitVec 5) (a : BitVec 5) (b : BitVec 5)
  | mul (g : Guard) (d : BitVec 5) (a : BitVec 5) (b : BitVec 5)
  | mulW (g : Guard) (d : BitVec 5) (a : BitVec 5) (b : BitVec 5)
  | mulh (g : Guard) (d : BitVec 5) (a : BitVec 5) (b : BitVec 5)
  | mulhu (g : Guard) (d : BitVec 5) (a : BitVec 5) (b : BitVec 5)
  | div (g : Guard) (d : BitVec 5) (a : BitVec 5) (b : BitVec 5)
  | divW (g : Guard) (d : BitVec 5) (a : BitVec 5) (b : BitVec 5)
  | divu (g : Guard) (d : BitVec 5) (a : BitVec 5) (b : BitVec 5)
  | divuW (g : Guard) (d : BitVec 5) (a : BitVec 5) (b : BitVec 5)
  | rem (g : Guard) (d : BitVec 5) (a : BitVec 5) (b : BitVec 5)
  | remW (g : Guard) (d : BitVec 5) (a : BitVec 5) (b : BitVec 5)
  | remu (g : Guard) (d : BitVec 5) (a : BitVec 5) (b : BitVec 5)
  | remuW (g : Guard) (d : BitVec 5) (a : BitVec 5) (b : BitVec 5)
  | min (g : Guard) (d : BitVec 5) (a : BitVec 5) (b : BitVec 5)
  | max (g : Guard) (d : BitVec 5) (a : BitVec 5) (b : BitVec 5)
  | minu (g : Guard) (d : BitVec 5) (a : BitVec 5) (b : BitVec 5)
  | maxu (g : Guard) (d : BitVec 5) (a : BitVec 5) (b : BitVec 5)
  | and (g : Guard) (d : BitVec 5) (a : BitVec 5) (b : BitVec 5)
  | or (g : Guard) (d : BitVec 5) (a : BitVec 5) (b : BitVec 5)
  | xor (g : Guard) (d : BitVec 5) (a : BitVec 5) (b : BitVec 5)
  | shl (g : Guard) (d : BitVec 5) (a : BitVec 5) (b : BitVec 5)
  | shlW (g : Guard) (d : BitVec 5) (a : BitVec 5) (b : BitVec 5)
  | shr (g : Guard) (d : BitVec 5) (a : BitVec 5) (b : BitVec 5)
  | shrW (g : Guard) (d : BitVec 5) (a : BitVec 5) (b : BitVec 5)
  | sra (g : Guard) (d : BitVec 5) (a : BitVec 5) (b : BitVec 5)
  | sraW (g : Guard) (d : BitVec 5) (a : BitVec 5) (b : BitVec 5)
  | clz (g : Guard) (d : BitVec 5) (a : BitVec 5)
  | clzW (g : Guard) (d : BitVec 5) (a : BitVec 5)
  | ctz (g : Guard) (d : BitVec 5) (a : BitVec 5)
  | ctzW (g : Guard) (d : BitVec 5) (a : BitVec 5)
  | popc (g : Guard) (d : BitVec 5) (a : BitVec 5)
  | popcW (g : Guard) (d : BitVec 5) (a : BitVec 5)
  | sextB (g : Guard) (d : BitVec 5) (a : BitVec 5)
  | sextH (g : Guard) (d : BitVec 5) (a : BitVec 5)
  | sextW (g : Guard) (d : BitVec 5) (a : BitVec 5)
  | zextB (g : Guard) (d : BitVec 5) (a : BitVec 5)
  | zextH (g : Guard) (d : BitVec 5) (a : BitVec 5)
  | zextW (g : Guard) (d : BitVec 5) (a : BitVec 5)
  | addi (g : Guard) (d : BitVec 5) (a : BitVec 5) (imm : BitVec 12)
  | addiW (g : Guard) (d : BitVec 5) (a : BitVec 5) (imm : BitVec 12)
  | andi (g : Guard) (d : BitVec 5) (a : BitVec 5) (imm : BitVec 12)
  | ori (g : Guard) (d : BitVec 5) (a : BitVec 5) (imm : BitVec 12)
  | xori (g : Guard) (d : BitVec 5) (a : BitVec 5) (imm : BitVec 12)
  | shlImm (g : Guard) (d : BitVec 5) (a : BitVec 5) (sh : BitVec 6)
  | shlWImm (g : Guard) (d : BitVec 5) (a : BitVec 5) (sh : BitVec 6)
  | shrImm (g : Guard) (d : BitVec 5) (a : BitVec 5) (sh : BitVec 6)
  | shrWImm (g : Guard) (d : BitVec 5) (a : BitVec 5) (sh : BitVec 6)
  | sraImm (g : Guard) (d : BitVec 5) (a : BitVec 5) (sh : BitVec 6)
  | sraWImm (g : Guard) (d : BitVec 5) (a : BitVec 5) (sh : BitVec 6)
  | li (g : Guard) (d : BitVec 5) (imm : BitVec 17)
  | lih (g : Guard) (d : BitVec 5) (imm : BitVec 17)
  | addpc (g : Guard) (d : BitVec 5) (imm : BitVec 17)
  | cmpEqImm (g : Guard) (d : BitVec 5) (a : BitVec 5) (imm : BitVec 12)
  | cmpNeImm (g : Guard) (d : BitVec 5) (a : BitVec 5) (imm : BitVec 12)
  | cmpLtImm (g : Guard) (d : BitVec 5) (a : BitVec 5) (imm : BitVec 12)
  | cmpLeImm (g : Guard) (d : BitVec 5) (a : BitVec 5) (imm : BitVec 12)
  | cmpLtuImm (g : Guard) (d : BitVec 5) (a : BitVec 5) (imm : BitVec 12)
  | cmpLeuImm (g : Guard) (d : BitVec 5) (a : BitVec 5) (imm : BitVec 12)
  | cmpEq (g : Guard) (d : BitVec 5) (a : BitVec 5) (b : BitVec 5)
  | cmpNe (g : Guard) (d : BitVec 5) (a : BitVec 5) (b : BitVec 5)
  | cmpLt (g : Guard) (d : BitVec 5) (a : BitVec 5) (b : BitVec 5)
  | cmpLe (g : Guard) (d : BitVec 5) (a : BitVec 5) (b : BitVec 5)
  | cmpLtu (g : Guard) (d : BitVec 5) (a : BitVec 5) (b : BitVec 5)
  | cmpLeu (g : Guard) (d : BitVec 5) (a : BitVec 5) (b : BitVec 5)
  | gand (g : Guard) (d : BitVec 5) (a : BitVec 5) (b : BitVec 5)
  | gor (g : Guard) (d : BitVec 5) (a : BitVec 5) (b : BitVec 5)
  | gxor (g : Guard) (d : BitVec 5) (a : BitVec 5) (b : BitVec 5)
  | gnot (g : Guard) (d : BitVec 5) (a : BitVec 5)
  | br (g : Guard) (off : BitVec 22)
  | bl (g : Guard) (off : BitVec 22)
  | bi (g : Guard) (a : BitVec 5) (imm : BitVec 12)
  | rep (g : Guard) (a : BitVec 5) (imm : BitVec 12)
  | waitch (g : Guard) (a : BitVec 5)
  | yield (g : Guard)
  | exit (g : Guard)
  | syncd (g : Guard)
  | wfe (g : Guard)
  | eret (g : Guard)
  | bkpt (g : Guard)
  | bara (g : Guard) (n : BitVec 12)
  | barw (g : Guard) (n : BitVec 12)
  | sel (g : Guard) (d : BitVec 5) (a : BitVec 5) (b : BitVec 5) (p : BitVec 3)
  | ldB (g : Guard) (d : BitVec 5) (a : BitVec 5) (off : BitVec 12)
  | ldBu (g : Guard) (d : BitVec 5) (a : BitVec 5) (off : BitVec 12)
  | ldH (g : Guard) (d : BitVec 5) (a : BitVec 5) (off : BitVec 12)
  | ldHu (g : Guard) (d : BitVec 5) (a : BitVec 5) (off : BitVec 12)
  | ldW (g : Guard) (d : BitVec 5) (a : BitVec 5) (off : BitVec 12)
  | ldWu (g : Guard) (d : BitVec 5) (a : BitVec 5) (off : BitVec 12)
  | ldD (g : Guard) (d : BitVec 5) (a : BitVec 5) (off : BitVec 12)
  | extr (g : Guard) (d : BitVec 5) (a : BitVec 5) (wm1 : BitVec 6) (pos : BitVec 6)
  | stB (g : Guard) (x : BitVec 5) (a : BitVec 5) (off : BitVec 12)
  | stH (g : Guard) (x : BitVec 5) (a : BitVec 5) (off : BitVec 12)
  | stW (g : Guard) (x : BitVec 5) (a : BitVec 5) (off : BitVec 12)
  | stD (g : Guard) (x : BitVec 5) (a : BitVec 5) (off : BitVec 12)
  | ldf (g : Guard) (d : BitVec 5) (a : BitVec 5) (off : BitVec 12)
  | ldfS (g : Guard) (d : BitVec 5) (a : BitVec 5) (off : BitVec 12)
  | stf (g : Guard) (x : BitVec 5) (a : BitVec 5) (off : BitVec 12)
  | stfS (g : Guard) (x : BitVec 5) (a : BitVec 5) (off : BitVec 12)
  | ldcW (g : Guard) (d : BitVec 5) (a : BitVec 5) (off : BitVec 12)
  | ldcWu (g : Guard) (d : BitVec 5) (a : BitVec 5) (off : BitVec 12)
  | ldcD (g : Guard) (d : BitVec 5) (a : BitVec 5) (off : BitVec 12)
  | pref (g : Guard) (lvl : BitVec 5) (a : BitVec 5) (off : BitVec 12)
  | aadd (g : Guard) (d : BitVec 5) (a : BitVec 5) (b : BitVec 5)
  | aaddW (g : Guard) (d : BitVec 5) (a : BitVec 5) (b : BitVec 5)
  | aand (g : Guard) (d : BitVec 5) (a : BitVec 5) (b : BitVec 5)
  | aandW (g : Guard) (d : BitVec 5) (a : BitVec 5) (b : BitVec 5)
  | aor (g : Guard) (d : BitVec 5) (a : BitVec 5) (b : BitVec 5)
  | aorW (g : Guard) (d : BitVec 5) (a : BitVec 5) (b : BitVec 5)
  | axor (g : Guard) (d : BitVec 5) (a : BitVec 5) (b : BitVec 5)
  | axorW (g : Guard) (d : BitVec 5) (a : BitVec 5) (b : BitVec 5)
  | amin (g : Guard) (d : BitVec 5) (a : BitVec 5) (b : BitVec 5)
  | aminW (g : Guard) (d : BitVec 5) (a : BitVec 5) (b : BitVec 5)
  | amax (g : Guard) (d : BitVec 5) (a : BitVec 5) (b : BitVec 5)
  | amaxW (g : Guard) (d : BitVec 5) (a : BitVec 5) (b : BitVec 5)
  | aminu (g : Guard) (d : BitVec 5) (a : BitVec 5) (b : BitVec 5)
  | aminuW (g : Guard) (d : BitVec 5) (a : BitVec 5) (b : BitVec 5)
  | amaxu (g : Guard) (d : BitVec 5) (a : BitVec 5) (b : BitVec 5)
  | amaxuW (g : Guard) (d : BitVec 5) (a : BitVec 5) (b : BitVec 5)
  | aswp (g : Guard) (d : BitVec 5) (a : BitVec 5) (b : BitVec 5)
  | aswpW (g : Guard) (d : BitVec 5) (a : BitVec 5) (b : BitVec 5)
  | acas (g : Guard) (d : BitVec 5) (a : BitVec 5) (b : BitVec 5)
  | acasW (g : Guard) (d : BitVec 5) (a : BitVec 5) (b : BitVec 5)
  | fadd (g : Guard) (d : BitVec 5) (a : BitVec 5) (b : BitVec 5)
  | faddS (g : Guard) (d : BitVec 5) (a : BitVec 5) (b : BitVec 5)
  | fsub (g : Guard) (d : BitVec 5) (a : BitVec 5) (b : BitVec 5)
  | fsubS (g : Guard) (d : BitVec 5) (a : BitVec 5) (b : BitVec 5)
  | fmul (g : Guard) (d : BitVec 5) (a : BitVec 5) (b : BitVec 5)
  | fmulS (g : Guard) (d : BitVec 5) (a : BitVec 5) (b : BitVec 5)
  | fdiv (g : Guard) (d : BitVec 5) (a : BitVec 5) (b : BitVec 5)
  | fdivS (g : Guard) (d : BitVec 5) (a : BitVec 5) (b : BitVec 5)
  | fsqrt (g : Guard) (d : BitVec 5) (a : BitVec 5)
  | fsqrtS (g : Guard) (d : BitVec 5) (a : BitVec 5)
  | ffma (g : Guard) (d : BitVec 5) (a : BitVec 5) (b : BitVec 5)
  | ffmaS (g : Guard) (d : BitVec 5) (a : BitVec 5) (b : BitVec 5)
  | fmin (g : Guard) (d : BitVec 5) (a : BitVec 5) (b : BitVec 5)
  | fminS (g : Guard) (d : BitVec 5) (a : BitVec 5) (b : BitVec 5)
  | fmax (g : Guard) (d : BitVec 5) (a : BitVec 5) (b : BitVec 5)
  | fmaxS (g : Guard) (d : BitVec 5) (a : BitVec 5) (b : BitVec 5)
  | fcmpEq (g : Guard) (d : BitVec 5) (a : BitVec 5) (b : BitVec 5)
  | fcmpEqS (g : Guard) (d : BitVec 5) (a : BitVec 5) (b : BitVec 5)
  | fcmpLt (g : Guard) (d : BitVec 5) (a : BitVec 5) (b : BitVec 5)
  | fcmpLtS (g : Guard) (d : BitVec 5) (a : BitVec 5) (b : BitVec 5)
  | fcmpLe (g : Guard) (d : BitVec 5) (a : BitVec 5) (b : BitVec 5)
  | fcmpLeS (g : Guard) (d : BitVec 5) (a : BitVec 5) (b : BitVec 5)
  | fcmpUn (g : Guard) (d : BitVec 5) (a : BitVec 5) (b : BitVec 5)
  | fcmpUnS (g : Guard) (d : BitVec 5) (a : BitVec 5) (b : BitVec 5)
  | fcvtSD (g : Guard) (d : BitVec 5) (a : BitVec 5)
  | fcvtDS (g : Guard) (d : BitVec 5) (a : BitVec 5)
  | fcvtLD (g : Guard) (d : BitVec 5) (a : BitVec 5)
  | fcvtLuD (g : Guard) (d : BitVec 5) (a : BitVec 5)
  | fcvtLS (g : Guard) (d : BitVec 5) (a : BitVec 5)
  | fcvtLuS (g : Guard) (d : BitVec 5) (a : BitVec 5)
  | fcvtDL (g : Guard) (d : BitVec 5) (a : BitVec 5)
  | fcvtDLu (g : Guard) (d : BitVec 5) (a : BitVec 5)
  | fcvtSL (g : Guard) (d : BitVec 5) (a : BitVec 5)
  | fcvtSLu (g : Guard) (d : BitVec 5) (a : BitVec 5)
  | fclass (g : Guard) (d : BitVec 5) (a : BitVec 5)
  | fclassS (g : Guard) (d : BitVec 5) (a : BitVec 5)
  | fmvg (g : Guard) (d : BitVec 5) (a : BitVec 5)
  | gmvf (g : Guard) (d : BitVec 5) (a : BitVec 5)
  | fli (g : Guard) (d : BitVec 5) (imm : BitVec 16)
  | fliS (g : Guard) (d : BitVec 5) (imm : BitVec 16)
  | ins (g : Guard) (d : BitVec 5) (a : BitVec 5) (wm1 : BitVec 6) (pos : BitVec 6)
  | slnew (g : Guard) (d : BitVec 5) (a : BitVec 5) (b : BitVec 5)
  | slmap (g : Guard) (d : BitVec 5) (a : BitVec 5)
  | sldup (g : Guard) (d : BitVec 5) (a : BitVec 5)
  | sldrop (g : Guard) (a : BitVec 5)
  | hmov (g : Guard) (d : BitVec 5) (a : BitVec 5)
  | slxfer (g : Guard) (d : BitVec 5) (a : BitVec 5)
  | hrecv (g : Guard) (d : BitVec 5) (a : BitVec 5)
  | flnew (g : Guard) (d : BitVec 5) (a : BitVec 5) (b : BitVec 5)
  | flawait (g : Guard) (a : BitVec 5) (b : BitVec 5)
  | flrel (g : Guard) (a : BitVec 5) (b : BitVec 5)
  | chclose (g : Guard) (a : BitVec 5)
  | scm (g : Guard) (d : BitVec 5) (a : BitVec 5)
  | scw (g : Guard) (a : BitVec 5)
  | dlaunch (g : Guard) (d : BitVec 5) (a : BitVec 5)
  | rsvpin (g : Guard) (d : BitVec 5) (a : BitVec 5) (b : BitVec 5)
  | rsvunpin (g : Guard) (a : BitVec 5)
  | ctron (g : Guard) (k : BitVec 5)
  | ctroff (g : Guard) (k : BitVec 5)
  | ctrrd (g : Guard) (d : BitVec 5) (k : BitVec 5)
  | tlbinv (g : Guard) (a : BitVec 5)
  | mfs (g : Guard) (d : BitVec 5) (sr : BitVec 12)
  | mts (g : Guard) (sr : BitVec 12) (a : BitVec 5)
  | nstepi (g : Guard) (imm : BitVec 17)
  | trap (g : Guard) (imm : BitVec 12)
  | ctrsel (g : Guard) (k : BitVec 5) (ev : BitVec 12)
  | mark (g : Guard) (imm : BitVec 12)
  | trig (g : Guard) (line : BitVec 12)
  | chbind (g : Guard) (d : BitVec 5) (ch : BitVec 12)
  | nop (low : BitVec 28)
  | liw (g : Guard) (d : BitVec 5) (two : Bool) (l0 : BitVec 32) (l1 : BitVec 32)
  | sci (g : Guard) (d : BitVec 5) (a : BitVec 5) (cmd : BitVec 128)
  -- stream commands (R180 to R182, R270)
  | scNop
  | scBind (port : BitVec 6) (cls : BitVec 2)
  | scFence
  | scTok (port : BitVec 6) (ch : BitVec 12) (tag : BitVec 64)
  | scDrain (port : BitVec 6)
  | scCopy (port : BitVec 6) (blk : BitVec 24)
  | scRcopy (port : BitVec 6) (blk : BitVec 24) (rop : BitVec 4) (st : BitVec 24)
  | scGath (port : BitVec 6) (blk : BitVec 24) (esz : BitVec 4) (lim : BitVec 24)
  | scScat (port : BitVec 6) (blk : BitVec 24) (esz : BitVec 4) (lim : BitVec 24)
  | scFlume (port : BitVec 6) (nslot : BitVec 32)
  | scSlfill (port : BitVec 6) (blk : BitVec 24)
  | scSlsee (port : BitVec 6) (blk : BitVec 24)
  | scCfg (blk : BitVec 24)
  | scSwap
  | scJob (port : BitVec 6) (blk : BitVec 24)
  | scHalo (port : BitVec 6) (blk : BitVec 24)
  | scColl (port : BitVec 6) (blk : BitVec 24)
  -- element operations (R183 to R186)
  | pdot
  | pdots
  | pdotm
  | accsw
  | drain
  | enc
  | dec
  | padd
  | pscl
  | pneg
  | pmsk
  | eadd
  | esub
  | emul
  | efma
  | emin
  | emax
  | ecmp
  | esel
  | eexp2
  | elog2
  | ercp
  | ersq
  | cvtBf16Fp32
  | cvtFp16Fp32
  | cvtE4m3Fp32
  | cvtE5m2Fp32
  | cvtInt8Fp32
  | cvtI4sFp32
  | cvtFp32Bf16
  | cvtFp32Fp16
  | cvtFp32E4m3
  | cvtFp32E5m2
  | cvtFp32Int8
  | cvtFp32I4s
  | join
  | merge
  | filt
  | agloop
  | agld
  | agst
  | agred
  | aggath
  | repl
  | tokq
  | pass
  -- device events
  | asyncTrapTake
  | sleepingInstructionRetire
  | stallRelease
  | commandRetire
  | jobOvertake
  | tokenChannelPush
  | flumeSlotRetire
  | haloMessageArrival
  | collSum
  | planeDrain
  | controlTokenPass
  | tokenLinkTransfer
  | channelWordArrival
  | spillfull
  | watchdog
  | intervalMerge
  | atomicRoundClose
  | barrierPhaseComplete
  | dieAck
  | launch
  | workBlockWalk
  | allocatorDecision
  | headHoldPreempt
  | taskStart
  | taskRetire
  | preempt
  | preemptSaveDone
  | ingressMeter
  | linkFailure
  | linkFlitReceive
  | handleReleaseMessage
  | bankreq
  | bankModeChangeDone
  | ptctlMode
  | tileModeChangeDone
  | ptctlRunStart
  | ptctlRunStop
  | pushUnit
  | tcopResume
  | tcopKill
  | unmap
  | unmapComplete
  | bar2Access
  | registerWrite
  | attach
  | detach
  | stop
  | go
  | dump
  | wrctl
  | load
  | triggerLineAssert
  | triggerSinkReach
  | trctlUnfreeze
  | samplePeriod
  | millPowerGate
  | millPowerUp
  | counterWrap
  | replayStart
  | replayPassEnd
  | gettel
  | getlife
  | setlim
  | fwstage
  | fwact
  | fwcommit
  | getharv
  | retire
  | setpart
  | setworld
  | setsr
  | loadkey
  | setkmask
  | settrig
  | setig
  | getpart
  | nonce
  | auth
  | unsupportedCommand
  | sessionTimeout
  | limitInterval
  | thermalShutdown
  | lifetimeCommit
  | resetBoot
  | wheelhouseWakeRequest
  | supplyDroop
  | powerLoss
  | tapInstruction
deriving DecidableEq, Repr

end Sys2Proof
end

