-- ==== Sys2Proof/WellFormed.lean ====
section
/-!
DEFINITION. Sys2Proof/WellFormed.lean: the checks of R162, R163, R168, R179, R182, R186 and R299 to R300 on the fields of
an instruction. `Instr.reject` names the first check that fails; the decoder (Decode.lean) refuses by that name.
-/

namespace Sys2Proof

/-- Why a word decodes to no instruction. -/
inductive Reject where
  | short          -- fewer bits than the layer's word
  | major          -- MAJOR unassigned (R172)
  | func           -- function unassigned within its MAJOR (R173 to R178)
  | guardHint      -- the guard `(!q0)`, which is hint space (R164)
  | regClass       -- a register field outside its class (R162)
  | field          -- a field marked 0 is not zero (R163)
  | immRange       -- an immediate outside its range (R168, R174, R176, R179)
  | litCount       -- LCNT unlike the function's (R177)
  | op             -- OP reserved (R181)
  | portZero       -- PORT nonzero for a command that names no port (R182)
  | reservedField  -- a reserved field nonzero (R182, R270)
  | bodyRange      -- a BODY field outside its range (R182, R270)
  | eop            -- EOP reserved (R185)
  | source         -- a source field reserved, unused and nonzero, used and zero, or named twice (R186, R296)
  | modField       -- MOD breaks R299
  | dirs           -- DIRS breaks R300
  | param          -- PARAM outside its entry's range (R186)
deriving DecidableEq, Repr

/-- The first failing check of a list of checks: each names what it refuses when its condition is false. -/
def firstReject : List (Bool × Reject) → Option Reject
  | [] => none
  | (ok, r) :: rest => if ok then firstReject rest else some r

/-- The guard names no hint (R164, R165). -/
def Guard.ok (g : Guard) : Bool := !(g.q == 0 && g.n)

/-- An f-register field: bit 4 is zero (R162). -/
def isF (r : BitVec 5) : Bool := r.toNat < 16
/-- A q- or h-register field: bits 4:3 are zero (R162). -/
def isQ (r : BitVec 5) : Bool := r.toNat < 8
/-- A channel-register field: 28 to 31 (R162). -/
def isC (r : BitVec 5) : Bool := 28 ≤ r.toNat
/-- A constant field below 4 (R172, R177). -/
def isK (r : BitVec 5) : Bool := r.toNat < 4

/-- A system register number of R179. -/
def isSysReg (n : BitVec 12) : Bool :=
  [0, 1, 2, 3, 4, 5, 6, 8, 9, 10, 11, 12, 14, 15, 16].contains n.toNat

/-! ## Element operation words (R183 to R186, R299, R300) -/

/-- Which operands an operation uses: `req` must have a source, `opt` may have one. -/
structure Uses where
  a  : Bool
  b  : Bool
  c  : Bool
  optC : Bool
deriving DecidableEq, Repr

/-- A direction field of DIRS with exactly one bit. -/
def oneDir (d : BitVec 4) : Bool := d == 1 || d == 2 || d == 4 || d == 8

/-- Bits hi to lo of PARAM. -/
def ElemFields.bits (w : ElemFields) (lo len : Nat) : Nat := (w.param.toNat >>> lo) % 2 ^ len

/-- One source field: a code of R184 where the operand is used, and 0 where it is not (R186). -/
def srcOk (used opt : Bool) (s : BitVec 4) : Bool :=
  if used then 1 ≤ s.toNat && s.toNat ≤ 7 else if opt then s.toNat ≤ 7 else s == 0

/-- No two source fields name one direction or both name a port (R296, R299). -/
def srcDistinct (x y : BitVec 4) : Bool := x != y || x == 0 || x == 6 || x == 7

/-- The checks every element word shares; `dirs` is the check on DIRS, `param` that on PARAM. -/
def elemReject (u : Uses) (dirs param : Bool) (w : ElemFields) : Option Reject :=
  firstReject [
    (srcOk u.a false w.ina && srcOk u.b false w.inb && srcOk u.c u.optC w.inc, .source),
    (srcDistinct w.ina w.inb && srcDistinct w.ina w.inc && srcDistinct w.inb w.inc, .source),
    (w.md.toNat < 64 && (w.ina == 5 || w.inb == 5 || w.inc == 5 || w.md == 0), .modField),
    (dirs, .dirs), (param, .param)]

/-- Operand sets. -/
def usesA : Uses := ⟨true, false, false, false⟩
def usesAB : Uses := ⟨true, true, false, false⟩
def usesABC : Uses := ⟨true, true, true, false⟩
def usesABc : Uses := ⟨true, true, false, true⟩

/-- DIRS of a bolter-site operation: one direction, or none where a converter path carries the result (R316). -/
def bolterDirs (w : ElemFields) : Bool := oneDir w.dirs || w.dirs == 0

/-- The DIRS bit of a 2-bit direction code (R302). -/
def dirBit (d : Nat) : BitVec 4 := BitVec.ofNat 4 (2 ^ (d % 4))

/-- PARAM of PDOT, PDOTS and PDOTM (R302). -/
def pdotParam (mask : Bool) (w : ElemFields) : Bool :=
  w.bits 14 18 == 0 && (mask || w.bits 6 8 == 0) &&
  (w.bits 2 1 == 0 || dirBit (w.bits 0 2) != w.dirs) && (w.bits 5 1 == 0 || dirBit (w.bits 3 2) != w.dirs) &&
  (w.bits 2 1 == 0 || w.bits 5 1 == 0 || w.bits 0 2 != w.bits 3 2)

/-- PARAM of the element-wise operations (R317). OVR overrides an output that is encoded, and no other (R87). BPT with OAT 0 is accepted
and counts nothing: R317 says neither that it is refused nor that it is not (DESIGN CHOICE, log 106). -/
def ewParam (useB useC cmp : Bool) (w : ElemFields) : Bool :=
  (useB || w.bits 1 1 == 0) && (useC || w.bits 2 1 == 0) &&
  (if cmp then w.bits 5 3 < 4 else w.bits 5 3 == 0) &&
  (if w.bits 3 1 == 1 then 1 ≤ w.bits 8 16 else w.bits 8 16 == 0 && w.bits 4 1 == 0)

/-- The C operand of an address generator stands exactly where TRIG is 1 (R326). -/
def agUses (a : Bool) (w : ElemFields) : Uses := ⟨a, false, w.bits 9 1 == 1, false⟩

/-- PARAM of an address generator (R326). -/
def agParam (red : Bool) (w : ElemFields) : Bool := w.bits 14 18 == 0 && (!red || w.bits 10 4 ≤ 5)

/-- The amount of PSCL: a signed value from -254 to 254 (R314). -/
def psclParam (w : ElemFields) : Bool := -254 ≤ w.param.toInt && w.param.toInt ≤ 254

/-- The first check the fields of an element operation fail (R186, R296, R299, R300 and the entries of 12). MERGE in mode 0 uses A and B,
and C where it has a source: R323 speaks of its used inputs only (DESIGN CHOICE, log 128). -/
def Instr.elemReject (i : Instr) (w : ElemFields) : Option Reject :=
  match i with
  | .pdot => Sys2Proof.elemReject usesABc (oneDir w.dirs) (pdotParam false w) w
  | .pdots => Sys2Proof.elemReject usesABc (oneDir w.dirs) (pdotParam false w) w
  | .pdotm => Sys2Proof.elemReject usesABc (oneDir w.dirs) (pdotParam true w) w
  | .accsw => Sys2Proof.elemReject usesA (oneDir w.dirs) (1 ≤ w.param.toNat && w.param.toNat ≤ 65536) w
  | .drain => Sys2Proof.elemReject usesA (oneDir w.dirs) (w.bits 0 2 < 3 && 1 ≤ w.bits 2 30 && w.bits 2 30 ≤ 2048) w
  | .enc => Sys2Proof.elemReject usesA (bolterDirs w) (1 ≤ w.bits 0 16) w
  | .dec => Sys2Proof.elemReject usesA (bolterDirs w) (w.param == 0) w
  | .padd => Sys2Proof.elemReject usesAB (bolterDirs w) (1 ≤ w.bits 0 16) w
  | .pscl => Sys2Proof.elemReject usesA (oneDir w.dirs) (psclParam w) w
  | .pneg => Sys2Proof.elemReject usesA (oneDir w.dirs) (w.param == 0) w
  | .pmsk => Sys2Proof.elemReject usesA (bolterDirs w) (w.bits 9 23 == 0) w
  | .eadd => Sys2Proof.elemReject usesAB (bolterDirs w) (ewParam true false false w) w
  | .esub => Sys2Proof.elemReject usesAB (bolterDirs w) (ewParam true false false w) w
  | .emul => Sys2Proof.elemReject usesAB (bolterDirs w) (ewParam true false false w) w
  | .efma => Sys2Proof.elemReject usesABC (bolterDirs w) (ewParam true true false w) w
  | .emin => Sys2Proof.elemReject usesAB (bolterDirs w) (ewParam true false false w) w
  | .emax => Sys2Proof.elemReject usesAB (bolterDirs w) (ewParam true false false w) w
  | .ecmp => Sys2Proof.elemReject usesAB (bolterDirs w) (ewParam true false true w) w
  | .esel => Sys2Proof.elemReject usesABC (bolterDirs w) (ewParam true true false w) w
  | .eexp2 => Sys2Proof.elemReject usesA (bolterDirs w) (ewParam false false false w) w
  | .elog2 => Sys2Proof.elemReject usesA (bolterDirs w) (ewParam false false false w) w
  | .ercp => Sys2Proof.elemReject usesA (bolterDirs w) (ewParam false false false w) w
  | .ersq => Sys2Proof.elemReject usesA (bolterDirs w) (ewParam false false false w) w
  | .cvtBf16Fp32 => Sys2Proof.elemReject usesA (bolterDirs w) (w.bits 1 31 == 0) w
  | .cvtFp16Fp32 => Sys2Proof.elemReject usesA (bolterDirs w) (w.bits 1 31 == 0) w
  | .cvtE4m3Fp32 => Sys2Proof.elemReject usesA (bolterDirs w) (w.bits 1 31 == 0) w
  | .cvtE5m2Fp32 => Sys2Proof.elemReject usesA (bolterDirs w) (w.bits 1 31 == 0) w
  | .cvtInt8Fp32 => Sys2Proof.elemReject usesA (bolterDirs w) (w.bits 1 31 == 0) w
  | .cvtI4sFp32 => Sys2Proof.elemReject usesA (bolterDirs w) (w.bits 1 31 == 0) w
  | .cvtFp32Bf16 => Sys2Proof.elemReject usesA (bolterDirs w) (w.param == 0) w
  | .cvtFp32Fp16 => Sys2Proof.elemReject usesA (bolterDirs w) (w.param == 0) w
  | .cvtFp32E4m3 => Sys2Proof.elemReject usesA (bolterDirs w) (w.param == 0) w
  | .cvtFp32E5m2 => Sys2Proof.elemReject usesA (bolterDirs w) (w.param == 0) w
  | .cvtFp32Int8 => Sys2Proof.elemReject usesA (bolterDirs w) (w.param == 0) w
  | .cvtFp32I4s => Sys2Proof.elemReject usesA (bolterDirs w) (w.param == 0) w
  | .join => Sys2Proof.elemReject usesAB (oneDir w.dirs) (w.bits 2 30 == 0) w
  | .merge => Sys2Proof.elemReject (if w.bits 0 1 == 0 then usesABc else usesAB) (oneDir w.dirs) (w.bits 1 31 == 0) w
  | .filt => Sys2Proof.elemReject usesA (oneDir w.dirs) (w.bits 0 2 != 3) w
  | .agloop => Sys2Proof.elemReject (agUses false w) (oneDir w.dirs) (agParam false w) w
  | .agld => Sys2Proof.elemReject (agUses false w) (oneDir w.dirs) (agParam false w) w
  | .agst => Sys2Proof.elemReject (agUses true w) (w.dirs == 0) (agParam false w) w
  | .agred => Sys2Proof.elemReject (agUses true w) (w.dirs == 0) (agParam true w) w
  | .aggath => Sys2Proof.elemReject (agUses true w) (oneDir w.dirs) (agParam false w) w
  | .repl => Sys2Proof.elemReject usesA (w.dirs != 0) (w.param == 0) w
  | .tokq => Sys2Proof.elemReject usesAB (oneDir w.dirs) (w.param == 0) w
  | .pass => Sys2Proof.elemReject usesA (oneDir w.dirs) (w.param == 0) w
  | _ => some .eop

/-! ## All instructions -/

/-- The first check an instruction's fields fail; `none` for a well-formed one. Element
operations keep their fields apart (`Instr.elemReject`) and events have no encoding. -/
def Instr.reject : Instr → Option Reject
  | .add g _ _ _ => firstReject [(g.ok, .guardHint)]
  | .addW g _ _ _ => firstReject [(g.ok, .guardHint)]
  | .sub g _ _ _ => firstReject [(g.ok, .guardHint)]
  | .subW g _ _ _ => firstReject [(g.ok, .guardHint)]
  | .mul g _ _ _ => firstReject [(g.ok, .guardHint)]
  | .mulW g _ _ _ => firstReject [(g.ok, .guardHint)]
  | .mulh g _ _ _ => firstReject [(g.ok, .guardHint)]
  | .mulhu g _ _ _ => firstReject [(g.ok, .guardHint)]
  | .div g _ _ _ => firstReject [(g.ok, .guardHint)]
  | .divW g _ _ _ => firstReject [(g.ok, .guardHint)]
  | .divu g _ _ _ => firstReject [(g.ok, .guardHint)]
  | .divuW g _ _ _ => firstReject [(g.ok, .guardHint)]
  | .rem g _ _ _ => firstReject [(g.ok, .guardHint)]
  | .remW g _ _ _ => firstReject [(g.ok, .guardHint)]
  | .remu g _ _ _ => firstReject [(g.ok, .guardHint)]
  | .remuW g _ _ _ => firstReject [(g.ok, .guardHint)]
  | .min g _ _ _ => firstReject [(g.ok, .guardHint)]
  | .max g _ _ _ => firstReject [(g.ok, .guardHint)]
  | .minu g _ _ _ => firstReject [(g.ok, .guardHint)]
  | .maxu g _ _ _ => firstReject [(g.ok, .guardHint)]
  | .and g _ _ _ => firstReject [(g.ok, .guardHint)]
  | .or g _ _ _ => firstReject [(g.ok, .guardHint)]
  | .xor g _ _ _ => firstReject [(g.ok, .guardHint)]
  | .shl g _ _ _ => firstReject [(g.ok, .guardHint)]
  | .shlW g _ _ _ => firstReject [(g.ok, .guardHint)]
  | .shr g _ _ _ => firstReject [(g.ok, .guardHint)]
  | .shrW g _ _ _ => firstReject [(g.ok, .guardHint)]
  | .sra g _ _ _ => firstReject [(g.ok, .guardHint)]
  | .sraW g _ _ _ => firstReject [(g.ok, .guardHint)]
  | .clz g _ _ => firstReject [(g.ok, .guardHint)]
  | .clzW g _ _ => firstReject [(g.ok, .guardHint)]
  | .ctz g _ _ => firstReject [(g.ok, .guardHint)]
  | .ctzW g _ _ => firstReject [(g.ok, .guardHint)]
  | .popc g _ _ => firstReject [(g.ok, .guardHint)]
  | .popcW g _ _ => firstReject [(g.ok, .guardHint)]
  | .sextB g _ _ => firstReject [(g.ok, .guardHint)]
  | .sextH g _ _ => firstReject [(g.ok, .guardHint)]
  | .sextW g _ _ => firstReject [(g.ok, .guardHint)]
  | .zextB g _ _ => firstReject [(g.ok, .guardHint)]
  | .zextH g _ _ => firstReject [(g.ok, .guardHint)]
  | .zextW g _ _ => firstReject [(g.ok, .guardHint)]
  | .addi g _ _ _ => firstReject [(g.ok, .guardHint)]
  | .addiW g _ _ _ => firstReject [(g.ok, .guardHint)]
  | .andi g _ _ _ => firstReject [(g.ok, .guardHint)]
  | .ori g _ _ _ => firstReject [(g.ok, .guardHint)]
  | .xori g _ _ _ => firstReject [(g.ok, .guardHint)]
  | .shlImm g _ _ _ => firstReject [(g.ok, .guardHint)]
  | .shlWImm g _ _ sh => firstReject [(g.ok, .guardHint), (sh.toNat < 32, .immRange)]
  | .shrImm g _ _ _ => firstReject [(g.ok, .guardHint)]
  | .shrWImm g _ _ sh => firstReject [(g.ok, .guardHint), (sh.toNat < 32, .immRange)]
  | .sraImm g _ _ _ => firstReject [(g.ok, .guardHint)]
  | .sraWImm g _ _ sh => firstReject [(g.ok, .guardHint), (sh.toNat < 32, .immRange)]
  | .li g _ _ => firstReject [(g.ok, .guardHint)]
  | .lih g _ _ => firstReject [(g.ok, .guardHint)]
  | .addpc g _ _ => firstReject [(g.ok, .guardHint)]
  | .cmpEqImm g d _ _ => firstReject [(g.ok, .guardHint), (isQ d, .regClass)]
  | .cmpNeImm g d _ _ => firstReject [(g.ok, .guardHint), (isQ d, .regClass)]
  | .cmpLtImm g d _ _ => firstReject [(g.ok, .guardHint), (isQ d, .regClass)]
  | .cmpLeImm g d _ _ => firstReject [(g.ok, .guardHint), (isQ d, .regClass)]
  | .cmpLtuImm g d _ _ => firstReject [(g.ok, .guardHint), (isQ d, .regClass)]
  | .cmpLeuImm g d _ _ => firstReject [(g.ok, .guardHint), (isQ d, .regClass)]
  | .cmpEq g d _ _ => firstReject [(g.ok, .guardHint), (isQ d, .regClass)]
  | .cmpNe g d _ _ => firstReject [(g.ok, .guardHint), (isQ d, .regClass)]
  | .cmpLt g d _ _ => firstReject [(g.ok, .guardHint), (isQ d, .regClass)]
  | .cmpLe g d _ _ => firstReject [(g.ok, .guardHint), (isQ d, .regClass)]
  | .cmpLtu g d _ _ => firstReject [(g.ok, .guardHint), (isQ d, .regClass)]
  | .cmpLeu g d _ _ => firstReject [(g.ok, .guardHint), (isQ d, .regClass)]
  | .gand g d a b => firstReject [(g.ok, .guardHint), (isQ d, .regClass), (isQ a, .regClass), (isQ b, .regClass)]
  | .gor g d a b => firstReject [(g.ok, .guardHint), (isQ d, .regClass), (isQ a, .regClass), (isQ b, .regClass)]
  | .gxor g d a b => firstReject [(g.ok, .guardHint), (isQ d, .regClass), (isQ a, .regClass), (isQ b, .regClass)]
  | .gnot g d a => firstReject [(g.ok, .guardHint), (isQ d, .regClass), (isQ a, .regClass)]
  | .br g _ => firstReject [(g.ok, .guardHint)]
  | .bl g _ => firstReject [(g.ok, .guardHint)]
  | .bi g _ _ => firstReject [(g.ok, .guardHint)]
  | .rep g _ imm => firstReject [(g.ok, .guardHint), (imm != 0, .immRange)]
  | .waitch g a => firstReject [(g.ok, .guardHint), (isC a, .regClass)]
  | .yield g => firstReject [(g.ok, .guardHint)]
  | .exit g => firstReject [(g.ok, .guardHint)]
  | .syncd g => firstReject [(g.ok, .guardHint)]
  | .wfe g => firstReject [(g.ok, .guardHint)]
  | .eret g => firstReject [(g.ok, .guardHint)]
  | .bkpt g => firstReject [(g.ok, .guardHint)]
  | .bara g n => firstReject [(g.ok, .guardHint), (n.toNat < 64, .immRange)]
  | .barw g n => firstReject [(g.ok, .guardHint), (n.toNat < 64, .immRange)]
  | .sel g _ _ _ _ => firstReject [(g.ok, .guardHint)]
  | .ldB g _ _ _ => firstReject [(g.ok, .guardHint)]
  | .ldBu g _ _ _ => firstReject [(g.ok, .guardHint)]
  | .ldH g _ _ _ => firstReject [(g.ok, .guardHint)]
  | .ldHu g _ _ _ => firstReject [(g.ok, .guardHint)]
  | .ldW g _ _ _ => firstReject [(g.ok, .guardHint)]
  | .ldWu g _ _ _ => firstReject [(g.ok, .guardHint)]
  | .ldD g _ _ _ => firstReject [(g.ok, .guardHint)]
  | .extr g _ _ wm1 pos => firstReject [(g.ok, .guardHint), (pos.toNat + wm1.toNat + 1 ≤ 64, .immRange)]
  | .stB g _ _ _ => firstReject [(g.ok, .guardHint)]
  | .stH g _ _ _ => firstReject [(g.ok, .guardHint)]
  | .stW g _ _ _ => firstReject [(g.ok, .guardHint)]
  | .stD g _ _ _ => firstReject [(g.ok, .guardHint)]
  | .ldf g d _ _ => firstReject [(g.ok, .guardHint), (isF d, .regClass)]
  | .ldfS g d _ _ => firstReject [(g.ok, .guardHint), (isF d, .regClass)]
  | .stf g x _ _ => firstReject [(g.ok, .guardHint), (isF x, .regClass)]
  | .stfS g x _ _ => firstReject [(g.ok, .guardHint), (isF x, .regClass)]
  | .ldcW g _ _ _ => firstReject [(g.ok, .guardHint)]
  | .ldcWu g _ _ _ => firstReject [(g.ok, .guardHint)]
  | .ldcD g _ _ _ => firstReject [(g.ok, .guardHint)]
  | .pref g lvl _ _ => firstReject [(g.ok, .guardHint), (isK lvl, .immRange)]
  | .aadd g _ _ _ => firstReject [(g.ok, .guardHint)]
  | .aaddW g _ _ _ => firstReject [(g.ok, .guardHint)]
  | .aand g _ _ _ => firstReject [(g.ok, .guardHint)]
  | .aandW g _ _ _ => firstReject [(g.ok, .guardHint)]
  | .aor g _ _ _ => firstReject [(g.ok, .guardHint)]
  | .aorW g _ _ _ => firstReject [(g.ok, .guardHint)]
  | .axor g _ _ _ => firstReject [(g.ok, .guardHint)]
  | .axorW g _ _ _ => firstReject [(g.ok, .guardHint)]
  | .amin g _ _ _ => firstReject [(g.ok, .guardHint)]
  | .aminW g _ _ _ => firstReject [(g.ok, .guardHint)]
  | .amax g _ _ _ => firstReject [(g.ok, .guardHint)]
  | .amaxW g _ _ _ => firstReject [(g.ok, .guardHint)]
  | .aminu g _ _ _ => firstReject [(g.ok, .guardHint)]
  | .aminuW g _ _ _ => firstReject [(g.ok, .guardHint)]
  | .amaxu g _ _ _ => firstReject [(g.ok, .guardHint)]
  | .amaxuW g _ _ _ => firstReject [(g.ok, .guardHint)]
  | .aswp g _ _ _ => firstReject [(g.ok, .guardHint)]
  | .aswpW g _ _ _ => firstReject [(g.ok, .guardHint)]
  | .acas g _ _ _ => firstReject [(g.ok, .guardHint)]
  | .acasW g _ _ _ => firstReject [(g.ok, .guardHint)]
  | .fadd g d a b => firstReject [(g.ok, .guardHint), (isF d, .regClass), (isF a, .regClass), (isF b, .regClass)]
  | .faddS g d a b => firstReject [(g.ok, .guardHint), (isF d, .regClass), (isF a, .regClass), (isF b, .regClass)]
  | .fsub g d a b => firstReject [(g.ok, .guardHint), (isF d, .regClass), (isF a, .regClass), (isF b, .regClass)]
  | .fsubS g d a b => firstReject [(g.ok, .guardHint), (isF d, .regClass), (isF a, .regClass), (isF b, .regClass)]
  | .fmul g d a b => firstReject [(g.ok, .guardHint), (isF d, .regClass), (isF a, .regClass), (isF b, .regClass)]
  | .fmulS g d a b => firstReject [(g.ok, .guardHint), (isF d, .regClass), (isF a, .regClass), (isF b, .regClass)]
  | .fdiv g d a b => firstReject [(g.ok, .guardHint), (isF d, .regClass), (isF a, .regClass), (isF b, .regClass)]
  | .fdivS g d a b => firstReject [(g.ok, .guardHint), (isF d, .regClass), (isF a, .regClass), (isF b, .regClass)]
  | .fsqrt g d a => firstReject [(g.ok, .guardHint), (isF d, .regClass), (isF a, .regClass)]
  | .fsqrtS g d a => firstReject [(g.ok, .guardHint), (isF d, .regClass), (isF a, .regClass)]
  | .ffma g d a b => firstReject [(g.ok, .guardHint), (isF d, .regClass), (isF a, .regClass), (isF b, .regClass)]
  | .ffmaS g d a b => firstReject [(g.ok, .guardHint), (isF d, .regClass), (isF a, .regClass), (isF b, .regClass)]
  | .fmin g d a b => firstReject [(g.ok, .guardHint), (isF d, .regClass), (isF a, .regClass), (isF b, .regClass)]
  | .fminS g d a b => firstReject [(g.ok, .guardHint), (isF d, .regClass), (isF a, .regClass), (isF b, .regClass)]
  | .fmax g d a b => firstReject [(g.ok, .guardHint), (isF d, .regClass), (isF a, .regClass), (isF b, .regClass)]
  | .fmaxS g d a b => firstReject [(g.ok, .guardHint), (isF d, .regClass), (isF a, .regClass), (isF b, .regClass)]
  | .fcmpEq g d a b => firstReject [(g.ok, .guardHint), (isQ d, .regClass), (isF a, .regClass), (isF b, .regClass)]
  | .fcmpEqS g d a b => firstReject [(g.ok, .guardHint), (isQ d, .regClass), (isF a, .regClass), (isF b, .regClass)]
  | .fcmpLt g d a b => firstReject [(g.ok, .guardHint), (isQ d, .regClass), (isF a, .regClass), (isF b, .regClass)]
  | .fcmpLtS g d a b => firstReject [(g.ok, .guardHint), (isQ d, .regClass), (isF a, .regClass), (isF b, .regClass)]
  | .fcmpLe g d a b => firstReject [(g.ok, .guardHint), (isQ d, .regClass), (isF a, .regClass), (isF b, .regClass)]
  | .fcmpLeS g d a b => firstReject [(g.ok, .guardHint), (isQ d, .regClass), (isF a, .regClass), (isF b, .regClass)]
  | .fcmpUn g d a b => firstReject [(g.ok, .guardHint), (isQ d, .regClass), (isF a, .regClass), (isF b, .regClass)]
  | .fcmpUnS g d a b => firstReject [(g.ok, .guardHint), (isQ d, .regClass), (isF a, .regClass), (isF b, .regClass)]
  | .fcvtSD g d a => firstReject [(g.ok, .guardHint), (isF d, .regClass), (isF a, .regClass)]
  | .fcvtDS g d a => firstReject [(g.ok, .guardHint), (isF d, .regClass), (isF a, .regClass)]
  | .fcvtLD g _ a => firstReject [(g.ok, .guardHint), (isF a, .regClass)]
  | .fcvtLuD g _ a => firstReject [(g.ok, .guardHint), (isF a, .regClass)]
  | .fcvtLS g _ a => firstReject [(g.ok, .guardHint), (isF a, .regClass)]
  | .fcvtLuS g _ a => firstReject [(g.ok, .guardHint), (isF a, .regClass)]
  | .fcvtDL g d _ => firstReject [(g.ok, .guardHint), (isF d, .regClass)]
  | .fcvtDLu g d _ => firstReject [(g.ok, .guardHint), (isF d, .regClass)]
  | .fcvtSL g d _ => firstReject [(g.ok, .guardHint), (isF d, .regClass)]
  | .fcvtSLu g d _ => firstReject [(g.ok, .guardHint), (isF d, .regClass)]
  | .fclass g _ a => firstReject [(g.ok, .guardHint), (isF a, .regClass)]
  | .fclassS g _ a => firstReject [(g.ok, .guardHint), (isF a, .regClass)]
  | .fmvg g _ a => firstReject [(g.ok, .guardHint), (isF a, .regClass)]
  | .gmvf g d _ => firstReject [(g.ok, .guardHint), (isF d, .regClass)]
  | .fli g d _ => firstReject [(g.ok, .guardHint), (isF d, .regClass)]
  | .fliS g d _ => firstReject [(g.ok, .guardHint), (isF d, .regClass)]
  | .ins g _ _ wm1 pos => firstReject [(g.ok, .guardHint), (pos.toNat + wm1.toNat + 1 ≤ 64, .immRange)]
  | .slnew g d a _ => firstReject [(g.ok, .guardHint), (isQ d, .regClass), (isQ a, .regClass)]
  | .slmap g _ a => firstReject [(g.ok, .guardHint), (isQ a, .regClass)]
  | .sldup g d a => firstReject [(g.ok, .guardHint), (isQ d, .regClass), (isQ a, .regClass)]
  | .sldrop g a => firstReject [(g.ok, .guardHint), (isQ a, .regClass)]
  | .hmov g d a => firstReject [(g.ok, .guardHint), (isQ d, .regClass), (isQ a, .regClass)]
  | .slxfer g _ a => firstReject [(g.ok, .guardHint), (isQ a, .regClass)]
  | .hrecv g d _ => firstReject [(g.ok, .guardHint), (isQ d, .regClass)]
  | .flnew g _ _ _ => firstReject [(g.ok, .guardHint)]
  | .flawait g _ _ => firstReject [(g.ok, .guardHint)]
  | .flrel g _ _ => firstReject [(g.ok, .guardHint)]
  | .chclose g a => firstReject [(g.ok, .guardHint), (isC a, .regClass)]
  | .scm g _ _ => firstReject [(g.ok, .guardHint)]
  | .scw g _ => firstReject [(g.ok, .guardHint)]
  | .dlaunch g _ _ => firstReject [(g.ok, .guardHint)]
  | .rsvpin g _ _ _ => firstReject [(g.ok, .guardHint)]
  | .rsvunpin g _ => firstReject [(g.ok, .guardHint)]
  | .ctron g k => firstReject [(g.ok, .guardHint), (isK k, .immRange)]
  | .ctroff g k => firstReject [(g.ok, .guardHint), (isK k, .immRange)]
  | .ctrrd g _ k => firstReject [(g.ok, .guardHint), (isK k, .immRange)]
  | .tlbinv g _ => firstReject [(g.ok, .guardHint)]
  | .mfs g _ sr => firstReject [(g.ok, .guardHint), (isSysReg sr, .immRange)]
  | .mts g sr _ => firstReject [(g.ok, .guardHint), (isSysReg sr, .immRange)]
  | .nstepi g _ => firstReject [(g.ok, .guardHint)]
  | .trap g _ => firstReject [(g.ok, .guardHint)]
  | .ctrsel g k _ => firstReject [(g.ok, .guardHint), (isK k, .immRange)]
  | .mark g _ => firstReject [(g.ok, .guardHint)]
  | .trig g line => firstReject [(g.ok, .guardHint), (line.toNat < 32, .immRange)]
  | .chbind g d _ => firstReject [(g.ok, .guardHint), (isC d, .regClass)]
  | .nop _ => none
  | .liw g _ two _ l1 => firstReject [(g.ok, .guardHint), (two || l1 == 0, .immRange)]
  | .sci g _ _ _ => firstReject [(g.ok, .guardHint)]
  | .scNop => none
  | .scBind _ _ => none
  | .scFence => none
  | .scTok _ _ _ => none
  | .scDrain _ => none
  | .scCopy _ _ => none
  | .scRcopy _ _ rop _ => firstReject [(rop.toNat ≤ 5, .bodyRange)]
  | .scGath _ _ esz lim => firstReject [(2 ≤ esz.toNat && esz.toNat ≤ 6, .bodyRange), (lim != 0, .bodyRange)]
  | .scScat _ _ esz lim => firstReject [(2 ≤ esz.toNat && esz.toNat ≤ 6, .bodyRange), (lim != 0, .bodyRange)]
  | .scFlume _ nslot => firstReject [(nslot != 0, .bodyRange)]
  | .scSlfill _ _ => none
  | .scSlsee _ _ => none
  | .scCfg _ => none
  | .scSwap => none
  | .scJob _ _ => none
  | .scHalo _ _ => none
  | .scColl _ _ => none
  | .pdot => none
  | .pdots => none
  | .pdotm => none
  | .accsw => none
  | .drain => none
  | .enc => none
  | .dec => none
  | .padd => none
  | .pscl => none
  | .pneg => none
  | .pmsk => none
  | .eadd => none
  | .esub => none
  | .emul => none
  | .efma => none
  | .emin => none
  | .emax => none
  | .ecmp => none
  | .esel => none
  | .eexp2 => none
  | .elog2 => none
  | .ercp => none
  | .ersq => none
  | .cvtBf16Fp32 => none
  | .cvtFp16Fp32 => none
  | .cvtE4m3Fp32 => none
  | .cvtE5m2Fp32 => none
  | .cvtInt8Fp32 => none
  | .cvtI4sFp32 => none
  | .cvtFp32Bf16 => none
  | .cvtFp32Fp16 => none
  | .cvtFp32E4m3 => none
  | .cvtFp32E5m2 => none
  | .cvtFp32Int8 => none
  | .cvtFp32I4s => none
  | .join => none
  | .merge => none
  | .filt => none
  | .agloop => none
  | .agld => none
  | .agst => none
  | .agred => none
  | .aggath => none
  | .repl => none
  | .tokq => none
  | .pass => none
  | .asyncTrapTake => none
  | .sleepingInstructionRetire => none
  | .stallRelease => none
  | .commandRetire => none
  | .jobOvertake => none
  | .tokenChannelPush => none
  | .flumeSlotRetire => none
  | .haloMessageArrival => none
  | .collSum => none
  | .planeDrain => none
  | .controlTokenPass => none
  | .tokenLinkTransfer => none
  | .channelWordArrival => none
  | .spillfull => none
  | .watchdog => none
  | .intervalMerge => none
  | .atomicRoundClose => none
  | .barrierPhaseComplete => none
  | .dieAck => none
  | .launch => none
  | .workBlockWalk => none
  | .allocatorDecision => none
  | .headHoldPreempt => none
  | .taskStart => none
  | .taskRetire => none
  | .preempt => none
  | .preemptSaveDone => none
  | .ingressMeter => none
  | .linkFailure => none
  | .linkFlitReceive => none
  | .handleReleaseMessage => none
  | .bankreq => none
  | .bankModeChangeDone => none
  | .ptctlMode => none
  | .tileModeChangeDone => none
  | .ptctlRunStart => none
  | .ptctlRunStop => none
  | .pushUnit => none
  | .tcopResume => none
  | .tcopKill => none
  | .unmap => none
  | .unmapComplete => none
  | .bar2Access => none
  | .registerWrite => none
  | .attach => none
  | .detach => none
  | .stop => none
  | .go => none
  | .dump => none
  | .wrctl => none
  | .load => none
  | .triggerLineAssert => none
  | .triggerSinkReach => none
  | .trctlUnfreeze => none
  | .samplePeriod => none
  | .millPowerGate => none
  | .millPowerUp => none
  | .counterWrap => none
  | .replayStart => none
  | .replayPassEnd => none
  | .gettel => none
  | .getlife => none
  | .setlim => none
  | .fwstage => none
  | .fwact => none
  | .fwcommit => none
  | .getharv => none
  | .retire => none
  | .setpart => none
  | .setworld => none
  | .setsr => none
  | .loadkey => none
  | .setkmask => none
  | .settrig => none
  | .setig => none
  | .getpart => none
  | .nonce => none
  | .auth => none
  | .unsupportedCommand => none
  | .sessionTimeout => none
  | .limitInterval => none
  | .thermalShutdown => none
  | .lifetimeCommit => none
  | .resetBoot => none
  | .wheelhouseWakeRequest => none
  | .supplyDroop => none
  | .powerLoss => none
  | .tapInstruction => none

/-- An instruction is well formed when no check refuses it. -/
def Instr.wf (i : Instr) : Bool := i.reject.isNone

end Sys2Proof
end

