-- ==== Sys2Proof/Decode.lean ====
section
/-!
DEFINITION. Sys2Proof/Decode.lean: from words to instructions and back, for the three code layers: 32-bit miller words
with their literals (R161 to R179), 128-bit stream commands (R180 to R182, R270) and 64-bit element operation words
(R183 to R186). Decoding refuses by name (`Reject`).
-/

namespace Sys2Proof

/-- Accept a decoded instruction whose fields pass every check (R163, R182, R186). -/
def checked (i : Instr) : Except Reject Instr :=
  match i.reject with
  | none => .ok i
  | some r => .error r

/-- Accept where fields marked 0 are zero (R163). -/
def zeros (ok : Bool) (i : Instr) : Except Reject Instr := if ok then .ok i else .error .field

/-! ## Miller words (R161) -/

/-- The guard fields. -/
def wGuard (w : BitVec 32) : Guard := ⟨w.extractLsb' 29 3, w.extractLsb' 28 1 == 1⟩
/-- MAJOR. -/
def wMajor (w : BitVec 32) : BitVec 6 := w.extractLsb' 22 6
/-- The d field. -/
def wD (w : BitVec 32) : BitVec 5 := w.extractLsb' 17 5
/-- The a field. -/
def wA (w : BitVec 32) : BitVec 5 := w.extractLsb' 12 5
/-- The b field. -/
def wB (w : BitVec 32) : BitVec 5 := w.extractLsb' 7 5
/-- FUNC7. -/
def wFunc7 (w : BitVec 32) : BitVec 7 := w.extractLsb' 0 7
/-- IMM12. -/
def wImm12 (w : BitVec 32) : BitVec 12 := w.extractLsb' 0 12
/-- IMM17. -/
def wImm17 (w : BitVec 32) : BitVec 17 := w.extractLsb' 0 17
/-- OFF22. -/
def wOff22 (w : BitVec 32) : BitVec 22 := w.extractLsb' 0 22
/-- LCNT. -/
def wLcnt (w : BitVec 32) : BitVec 3 := w.extractLsb' 9 3
/-- FUNC9. -/
def wFunc9 (w : BitVec 32) : BitVec 9 := w.extractLsb' 0 9
/-- Hint space: q0 with N = 1 (R164, R165). -/
def isHint (w : BitVec 32) : Bool := w.extractLsb' 28 4 == 1
/-- Literal words that follow a word that decodes (R164). -/
def litCount (w : BitVec 32) : Nat := if wMajor w == 0x3C then (wLcnt w).toNat else 0

/-- MAJOR 0x00 by FUNC7. -/
def decInt (g : Guard) (d a b : BitVec 5) (f : Nat) : Except Reject Instr :=
  match f with
  | 0x01 => .ok (.add g d a b)
  | 0x02 => .ok (.sub g d a b)
  | 0x03 => .ok (.mul g d a b)
  | 0x04 => .ok (.mulh g d a b)
  | 0x05 => .ok (.mulhu g d a b)
  | 0x06 => .ok (.div g d a b)
  | 0x07 => .ok (.divu g d a b)
  | 0x08 => .ok (.rem g d a b)
  | 0x09 => .ok (.remu g d a b)
  | 0x0A => .ok (.min g d a b)
  | 0x0B => .ok (.max g d a b)
  | 0x0C => .ok (.minu g d a b)
  | 0x0D => .ok (.maxu g d a b)
  | 0x0E => .ok (.and g d a b)
  | 0x0F => .ok (.or g d a b)
  | 0x10 => .ok (.xor g d a b)
  | 0x11 => .ok (.shl g d a b)
  | 0x12 => .ok (.shr g d a b)
  | 0x13 => .ok (.sra g d a b)
  | 0x14 => zeros (b == 0) (.clz g d a)
  | 0x15 => zeros (b == 0) (.ctz g d a)
  | 0x16 => zeros (b == 0) (.popc g d a)
  | 0x18 => zeros (b == 0) (.sextB g d a)
  | 0x19 => zeros (b == 0) (.sextH g d a)
  | 0x1A => zeros (b == 0) (.sextW g d a)
  | 0x1B => zeros (b == 0) (.zextB g d a)
  | 0x1C => zeros (b == 0) (.zextH g d a)
  | 0x1D => zeros (b == 0) (.zextW g d a)
  | 0x41 => .ok (.addW g d a b)
  | 0x42 => .ok (.subW g d a b)
  | 0x43 => .ok (.mulW g d a b)
  | 0x46 => .ok (.divW g d a b)
  | 0x47 => .ok (.divuW g d a b)
  | 0x48 => .ok (.remW g d a b)
  | 0x49 => .ok (.remuW g d a b)
  | 0x51 => .ok (.shlW g d a b)
  | 0x52 => .ok (.shrW g d a b)
  | 0x53 => .ok (.sraW g d a b)
  | 0x54 => zeros (b == 0) (.clzW g d a)
  | 0x55 => zeros (b == 0) (.ctzW g d a)
  | 0x56 => zeros (b == 0) (.popcW g d a)
  | _ => .error .func

/-- MAJOR 0x06 by IMM12<11:9> (R174); IMM12<8:6> is zero. -/
def decShift (g : Guard) (d a : BitVec 5) (i : BitVec 12) : Except Reject Instr :=
  match (i.extractLsb' 6 6).toNat with
  | 0 => .ok (.shlImm g d a (i.extractLsb' 0 6))
  | 8 => .ok (.shlWImm g d a (i.extractLsb' 0 6))
  | 16 => .ok (.shrImm g d a (i.extractLsb' 0 6))
  | 24 => .ok (.shrWImm g d a (i.extractLsb' 0 6))
  | 32 => .ok (.sraImm g d a (i.extractLsb' 0 6))
  | 40 => .ok (.sraWImm g d a (i.extractLsb' 0 6))
  | _ => .error .immRange

/-- MAJOR 0x10 by FUNC7. -/
def decCmp (g : Guard) (d a b : BitVec 5) (f : Nat) : Except Reject Instr :=
  match f with
  | 0x00 => .ok (.cmpEq g d a b)
  | 0x01 => .ok (.cmpNe g d a b)
  | 0x02 => .ok (.cmpLt g d a b)
  | 0x03 => .ok (.cmpLe g d a b)
  | 0x04 => .ok (.cmpLtu g d a b)
  | 0x05 => .ok (.cmpLeu g d a b)
  | 0x08 => .ok (.gand g d a b)
  | 0x09 => .ok (.gor g d a b)
  | 0x0A => .ok (.gxor g d a b)
  | 0x0B => zeros (b == 0) (.gnot g d a)
  | _ => .error .func

/-- MAJOR 0x15 by FUNC7. -/
def decControl (g : Guard) (d a b : BitVec 5) (f : Nat) : Except Reject Instr :=
  match f with
  | 0x01 => zeros (d == 0 && b == 0) (.waitch g a)
  | 0x02 => zeros (d == 0 && a == 0 && b == 0) (.yield g)
  | 0x03 => zeros (d == 0 && a == 0 && b == 0) (.exit g)
  | 0x04 => zeros (d == 0 && a == 0 && b == 0) (.syncd g)
  | 0x05 => zeros (d == 0 && a == 0 && b == 0) (.wfe g)
  | 0x06 => zeros (d == 0 && a == 0 && b == 0) (.eret g)
  | 0x07 => zeros (d == 0 && a == 0 && b == 0) (.bkpt g)
  | _ => .error .func

/-- MAJOR 0x2C by FUNC7. -/
def decAtomic (g : Guard) (d a b : BitVec 5) (f : Nat) : Except Reject Instr :=
  match f with
  | 0x00 => .ok (.aaddW g d a b)
  | 0x01 => .ok (.aandW g d a b)
  | 0x02 => .ok (.aorW g d a b)
  | 0x03 => .ok (.axorW g d a b)
  | 0x04 => .ok (.aminW g d a b)
  | 0x05 => .ok (.amaxW g d a b)
  | 0x06 => .ok (.aminuW g d a b)
  | 0x07 => .ok (.amaxuW g d a b)
  | 0x08 => .ok (.aswpW g d a b)
  | 0x09 => .ok (.acasW g d a b)
  | 0x40 => .ok (.aadd g d a b)
  | 0x41 => .ok (.aand g d a b)
  | 0x42 => .ok (.aor g d a b)
  | 0x43 => .ok (.axor g d a b)
  | 0x44 => .ok (.amin g d a b)
  | 0x45 => .ok (.amax g d a b)
  | 0x46 => .ok (.aminu g d a b)
  | 0x47 => .ok (.amaxu g d a b)
  | 0x48 => .ok (.aswp g d a b)
  | 0x49 => .ok (.acas g d a b)
  | _ => .error .func

/-- MAJOR 0x2D by FUNC7. -/
def decFloat (g : Guard) (d a b : BitVec 5) (f : Nat) : Except Reject Instr :=
  match f with
  | 0x00 => .ok (.fadd g d a b)
  | 0x01 => .ok (.fsub g d a b)
  | 0x02 => .ok (.fmul g d a b)
  | 0x03 => .ok (.fdiv g d a b)
  | 0x04 => zeros (b == 0) (.fsqrt g d a)
  | 0x05 => .ok (.ffma g d a b)
  | 0x06 => .ok (.fmin g d a b)
  | 0x07 => .ok (.fmax g d a b)
  | 0x08 => .ok (.fcmpEq g d a b)
  | 0x09 => .ok (.fcmpLt g d a b)
  | 0x0A => .ok (.fcmpLe g d a b)
  | 0x0B => .ok (.fcmpUn g d a b)
  | 0x10 => zeros (b == 0) (.fcvtSD g d a)
  | 0x11 => zeros (b == 0) (.fcvtDS g d a)
  | 0x12 => zeros (b == 0) (.fcvtLD g d a)
  | 0x13 => zeros (b == 0) (.fcvtLuD g d a)
  | 0x14 => zeros (b == 0) (.fcvtDL g d a)
  | 0x15 => zeros (b == 0) (.fcvtDLu g d a)
  | 0x18 => zeros (b == 0) (.fclass g d a)
  | 0x19 => zeros (b == 0) (.fmvg g d a)
  | 0x1A => zeros (b == 0) (.gmvf g d a)
  | 0x40 => .ok (.faddS g d a b)
  | 0x41 => .ok (.fsubS g d a b)
  | 0x42 => .ok (.fmulS g d a b)
  | 0x43 => .ok (.fdivS g d a b)
  | 0x44 => zeros (b == 0) (.fsqrtS g d a)
  | 0x45 => .ok (.ffmaS g d a b)
  | 0x46 => .ok (.fminS g d a b)
  | 0x47 => .ok (.fmaxS g d a b)
  | 0x48 => .ok (.fcmpEqS g d a b)
  | 0x49 => .ok (.fcmpLtS g d a b)
  | 0x4A => .ok (.fcmpLeS g d a b)
  | 0x4B => .ok (.fcmpUnS g d a b)
  | 0x52 => zeros (b == 0) (.fcvtLS g d a)
  | 0x53 => zeros (b == 0) (.fcvtLuS g d a)
  | 0x54 => zeros (b == 0) (.fcvtSL g d a)
  | 0x55 => zeros (b == 0) (.fcvtSLu g d a)
  | 0x58 => zeros (b == 0) (.fclassS g d a)
  | _ => .error .func

/-- MAJOR 0x30 by FUNC7. -/
def decSystem (g : Guard) (d a b : BitVec 5) (f : Nat) : Except Reject Instr :=
  match f with
  | 0x01 => .ok (.slnew g d a b)
  | 0x02 => zeros (b == 0) (.slmap g d a)
  | 0x03 => zeros (b == 0) (.sldup g d a)
  | 0x04 => zeros (d == 0 && b == 0) (.sldrop g a)
  | 0x05 => zeros (b == 0) (.hmov g d a)
  | 0x06 => zeros (b == 0) (.slxfer g d a)
  | 0x07 => zeros (b == 0) (.hrecv g d a)
  | 0x08 => .ok (.flnew g d a b)
  | 0x09 => zeros (d == 0) (.flawait g a b)
  | 0x0A => zeros (d == 0) (.flrel g a b)
  | 0x0B => zeros (d == 0 && b == 0) (.chclose g a)
  | 0x0C => zeros (b == 0) (.scm g d a)
  | 0x0D => zeros (d == 0 && b == 0) (.scw g a)
  | 0x0E => zeros (b == 0) (.dlaunch g d a)
  | 0x0F => .ok (.rsvpin g d a b)
  | 0x10 => zeros (d == 0 && b == 0) (.rsvunpin g a)
  | 0x11 => zeros (d == 0 && a == 0) (.ctron g b)
  | 0x12 => zeros (d == 0 && a == 0) (.ctroff g b)
  | 0x13 => zeros (a == 0) (.ctrrd g d b)
  | 0x14 => zeros (d == 0 && b == 0) (.tlbinv g a)
  | _ => .error .func

/-- MAJOR 0x3C by FUNC9 and LCNT (R177). -/
def decLit (g : Guard) (d a : BitVec 5) (n f : Nat) (l0 l1 l2 l3 : BitVec 32) : Except Reject Instr :=
  match f with
  | 0x001 =>
    match n with
    | 1 => zeros (a == 0) (.liw g d false l0 0)
    | 2 => zeros (a == 0) (.liw g d true l0 l1)
    | _ => .error .litCount
  | 0x004 =>
    match n with
    | 4 => .ok (.sci g d a (l3 ++ l2 ++ l1 ++ l0))
    | _ => .error .litCount
  | _ => .error .func

/-- The instruction that the maps of R172 to R178 assign to a word outside hint space, before the checks on its fields. -/
def rawMiller (w l0 l1 l2 l3 : BitVec 32) : Except Reject Instr :=
  let g := wGuard w
  let d := wD w
  let a := wA w
  match (wMajor w).toNat with
  | 0x00 => decInt g d a (wB w) (wFunc7 w).toNat
  | 0x01 => .ok (.addi g d a (wImm12 w))
  | 0x02 => .ok (.addiW g d a (wImm12 w))
  | 0x03 => .ok (.andi g d a (wImm12 w))
  | 0x04 => .ok (.ori g d a (wImm12 w))
  | 0x05 => .ok (.xori g d a (wImm12 w))
  | 0x06 => decShift g d a (wImm12 w)
  | 0x07 => .ok (.li g d (wImm17 w))
  | 0x08 => .ok (.lih g d (wImm17 w))
  | 0x09 => .ok (.addpc g d (wImm17 w))
  | 0x0A => .ok (.cmpEqImm g d a (wImm12 w))
  | 0x0B => .ok (.cmpNeImm g d a (wImm12 w))
  | 0x0C => .ok (.cmpLtImm g d a (wImm12 w))
  | 0x0D => .ok (.cmpLeImm g d a (wImm12 w))
  | 0x0E => .ok (.cmpLtuImm g d a (wImm12 w))
  | 0x0F => .ok (.cmpLeuImm g d a (wImm12 w))
  | 0x10 => decCmp g d a (wB w) (wFunc7 w).toNat
  | 0x11 => .ok (.br g (wOff22 w))
  | 0x12 => .ok (.bl g (wOff22 w))
  | 0x13 => zeros (d == 0) (.bi g a (wImm12 w))
  | 0x14 => zeros (d == 0) (.rep g a (wImm12 w))
  | 0x15 => decControl g d a (wB w) (wFunc7 w).toNat
  | 0x16 =>
    if a == 0 && d == 0 then .ok (.bara g (wImm12 w))
    else if a == 0 && d == 1 then .ok (.barw g (wImm12 w)) else .error .field
  | 0x17 => zeros ((wFunc7 w).extractLsb' 3 4 == 0) (.sel g d a (wB w) ((wFunc7 w).extractLsb' 0 3))
  | 0x18 => .ok (.ldB g d a (wImm12 w))
  | 0x19 => .ok (.ldBu g d a (wImm12 w))
  | 0x1A => .ok (.ldH g d a (wImm12 w))
  | 0x1B => .ok (.ldHu g d a (wImm12 w))
  | 0x1C => .ok (.ldW g d a (wImm12 w))
  | 0x1D => .ok (.ldWu g d a (wImm12 w))
  | 0x1E => .ok (.ldD g d a (wImm12 w))
  | 0x1F => .ok (.extr g d a ((wImm12 w).extractLsb' 6 6) ((wImm12 w).extractLsb' 0 6))
  | 0x20 => .ok (.stB g d a (wImm12 w))
  | 0x21 => .ok (.stH g d a (wImm12 w))
  | 0x22 => .ok (.stW g d a (wImm12 w))
  | 0x23 => .ok (.stD g d a (wImm12 w))
  | 0x24 => .ok (.ldf g d a (wImm12 w))
  | 0x25 => .ok (.ldfS g d a (wImm12 w))
  | 0x26 => .ok (.stf g d a (wImm12 w))
  | 0x27 => .ok (.stfS g d a (wImm12 w))
  | 0x28 => .ok (.ldcW g d a (wImm12 w))
  | 0x29 => .ok (.ldcWu g d a (wImm12 w))
  | 0x2A => .ok (.ldcD g d a (wImm12 w))
  | 0x2B => .ok (.pref g d a (wImm12 w))
  | 0x2C => decAtomic g d a (wB w) (wFunc7 w).toNat
  | 0x2D => decFloat g d a (wB w) (wFunc7 w).toNat
  | 0x2E =>
    if (wImm17 w).extractLsb' 16 1 == 0 then .ok (.fli g d ((wImm17 w).extractLsb' 0 16))
    else .ok (.fliS g d ((wImm17 w).extractLsb' 0 16))
  | 0x2F => .ok (.ins g d a ((wImm12 w).extractLsb' 6 6) ((wImm12 w).extractLsb' 0 6))
  | 0x30 => decSystem g d a (wB w) (wFunc7 w).toNat
  | 0x31 => zeros (a == 0) (.mfs g d (wImm12 w))
  | 0x32 => zeros (d == 0) (.mts g (wImm12 w) a)
  | 0x33 => zeros (d == 0) (.nstepi g (wImm17 w))
  | 0x34 => zeros (d == 0 && a == 0) (.trap g (wImm12 w))
  | 0x35 => zeros (a == 0) (.ctrsel g d (wImm12 w))
  | 0x36 => zeros (d == 0 && a == 0) (.mark g (wImm12 w))
  | 0x37 => zeros (d == 0 && a == 0) (.trig g (wImm12 w))
  | 0x38 => zeros (a == 0) (.chbind g d (wImm12 w))
  | 0x3C => decLit g d a (wLcnt w).toNat (wFunc9 w).toNat l0 l1 l2 l3
  | _ => .error .major

/-- Decode a miller word with its literal words (R163 to R165). -/
def decodeMiller (w l0 l1 l2 l3 : BitVec 32) : Except Reject Instr :=
  if isHint w then .ok (.nop (w.extractLsb' 0 28))
  else match rawMiller w l0 l1 l2 l3 with
    | .ok i => checked i
    | .error r => .error r

/-! ## Stream commands (R180 to R182, R270) -/

/-- Field of a command word. -/
def cBlk (c : BitVec 128) : BitVec 24 := c.extractLsb' 88 24
/-- PORT. -/
def cPort (c : BitVec 128) : BitVec 6 := c.extractLsb' 114 6
/-- OP. -/
def cOp (c : BitVec 128) : BitVec 8 := c.extractLsb' 120 8

/-- The command that OP assigns, with `resv` the check that its reserved bits are zero. -/
def reserved (portZero ok : Bool) (p : BitVec 6) (i : Instr) : Except Reject Instr :=
  if portZero && p != 0 then .error .portZero else if ok then .ok i else .error .reservedField

/-- The command of R181 and R270 in a word, before the range checks on its body. -/
def rawCommand (c : BitVec 128) : Except Reject Instr :=
  let p := cPort c
  let z (lo len : Nat) : Bool := c.extractLsb' lo len == 0
  match (cOp c).toNat with
  | 0x01 => reserved true (z 0 114) p .scNop
  | 0x02 => reserved false (z 112 2 && z 0 110) p (.scBind p (c.extractLsb' 110 2))
  | 0x03 => reserved true (z 0 114) p .scFence
  | 0x04 => reserved false (z 112 2 && z 64 36) p (.scTok p (c.extractLsb' 100 12) (c.extractLsb' 0 64))
  | 0x05 => reserved false (z 0 114) p (.scDrain p)
  | 0x08 => reserved false (z 112 2 && z 0 88) p (.scCopy p (cBlk c))
  | 0x09 => reserved false (z 112 2 && z 80 4 && z 0 56) p
      (.scRcopy p (cBlk c) (c.extractLsb' 84 4) (c.extractLsb' 56 24))
  | 0x0A => reserved false (z 112 2 && z 80 4 && z 0 56) p
      (.scGath p (cBlk c) (c.extractLsb' 84 4) (c.extractLsb' 56 24))
  | 0x0B => reserved false (z 112 2 && z 80 4 && z 0 56) p
      (.scScat p (cBlk c) (c.extractLsb' 84 4) (c.extractLsb' 56 24))
  | 0x0C => reserved false (z 88 26 && z 0 56) p (.scFlume p (c.extractLsb' 56 32))
  | 0x0D => reserved false (z 112 2 && z 0 88) p (.scSlfill p (cBlk c))
  | 0x0E => reserved false (z 112 2 && z 0 88) p (.scSlsee p (cBlk c))
  | 0x10 => reserved true (z 112 2 && z 0 88) p (.scCfg (cBlk c))
  | 0x11 => reserved true (z 0 114) p .scSwap
  | 0x12 => reserved false (z 112 2 && z 0 88) p (.scJob p (cBlk c))
  | 0x18 => reserved false (z 112 2 && z 0 88) p (.scHalo p (cBlk c))
  | 0x19 => reserved false (z 112 2 && z 0 88) p (.scColl p (cBlk c))
  | _ => .error .op

/-- Decode a stream command; the checks run in the order of R182. -/
def decodeCommand (c : BitVec 128) : Except Reject Instr :=
  match rawCommand c with
  | .ok i => checked i
  | .error r => .error r

/-- OP of SC.RELATCH, which only the driver's unmap path issues (R181, R291). -/
def opRelatch : BitVec 8 := 0x06

/-! ## Element operation words (R183 to R186) -/

/-- The fields of an element word. -/
def eFields (w : BitVec 64) : ElemFields :=
  ⟨w.extractLsb' 52 4, w.extractLsb' 48 4, w.extractLsb' 44 4, w.extractLsb' 40 4, w.extractLsb' 32 8,
    w.extractLsb' 0 32⟩

/-- EOP. -/
def eOp (w : BitVec 64) : BitVec 8 := w.extractLsb' 56 8

/-- The operation of R185 in a word; 0x00 is NONE, an idle element, and no operation. -/
def rawElement (op : Nat) : Except Reject Instr :=
  match op with
  | 0x01 => .ok .pdot
  | 0x02 => .ok .pdots
  | 0x03 => .ok .pdotm
  | 0x04 => .ok .accsw
  | 0x05 => .ok .drain
  | 0x08 => .ok .enc
  | 0x09 => .ok .dec
  | 0x0A => .ok .padd
  | 0x0B => .ok .pscl
  | 0x0C => .ok .pneg
  | 0x0D => .ok .pmsk
  | 0x10 => .ok .eadd
  | 0x11 => .ok .esub
  | 0x12 => .ok .emul
  | 0x13 => .ok .efma
  | 0x14 => .ok .emin
  | 0x15 => .ok .emax
  | 0x16 => .ok .ecmp
  | 0x17 => .ok .esel
  | 0x18 => .ok .eexp2
  | 0x19 => .ok .elog2
  | 0x1A => .ok .ercp
  | 0x1B => .ok .ersq
  | 0x20 => .ok .cvtBf16Fp32
  | 0x21 => .ok .cvtFp16Fp32
  | 0x22 => .ok .cvtE4m3Fp32
  | 0x23 => .ok .cvtE5m2Fp32
  | 0x24 => .ok .cvtInt8Fp32
  | 0x25 => .ok .cvtI4sFp32
  | 0x28 => .ok .cvtFp32Bf16
  | 0x29 => .ok .cvtFp32Fp16
  | 0x2A => .ok .cvtFp32E4m3
  | 0x2B => .ok .cvtFp32E5m2
  | 0x2C => .ok .cvtFp32Int8
  | 0x2D => .ok .cvtFp32I4s
  | 0x30 => .ok .join
  | 0x31 => .ok .merge
  | 0x32 => .ok .filt
  | 0x38 => .ok .agloop
  | 0x39 => .ok .agld
  | 0x3A => .ok .agst
  | 0x3B => .ok .agred
  | 0x3C => .ok .aggath
  | 0x40 => .ok .repl
  | 0x41 => .ok .tokq
  | 0x42 => .ok .pass
  | _ => .error .eop

/-- Decode an element operation word: the operation, with the checks of R186 on its fields. -/
def decodeElement (w : BitVec 64) : Except Reject Instr :=
  match rawElement (eOp w).toNat with
  | .error r => .error r
  | .ok i =>
    match i.elemReject (eFields w) with
    | none => .ok i
    | some r => .error r

/-! ## Bytes -/

/-- The 32-bit word of four bytes, lowest address first (R4). -/
def word32 (b0 b1 b2 b3 : Byte) : BitVec 32 := b3 ++ b2 ++ b1 ++ b0

/-- The first word of a byte list, and the rest. -/
def takeWord : List Byte → Option (BitVec 32 × List Byte)
  | b0 :: b1 :: b2 :: b3 :: rest => some (word32 b0 b1 b2 b3, rest)
  | _ => none

/-- Up to four literal words of a byte list; absent ones read zero, and `none` where fewer than `n` stand there. -/
def takeLits : Nat → List Byte → Option (List (BitVec 32) × List Byte)
  | 0, bs => some ([], bs)
  | n + 1, bs =>
    match takeWord bs with
    | none => none
    | some (l, rest) => (takeLits n rest).map fun r => (l :: r.1, r.2)

/-- Decode the miller instruction at the head of a byte list, with the bytes that follow it. -/
def decodeBytes (bs : List Byte) : Except Reject (Instr × List Byte) :=
  match takeWord bs with
  | none => .error .short
  | some (w, rest) =>
    match decodeMiller w 0 0 0 0 with
    | .error r => .error r
    | .ok i =>
      match takeLits (if isHint w then 0 else litCount w) rest with
      | none => .error .short
      | some (ls, rest') =>
        if ls.isEmpty then .ok (i, rest')
        else (decodeMiller w (ls.getD 0 0) (ls.getD 1 0) (ls.getD 2 0) (ls.getD 3 0)).map fun j => (j, rest')

/-- The bytes of a number, lowest first. -/
def bytesOf : Nat → Nat → List Byte
  | 0, _ => []
  | n + 1, v => BitVec.ofNat 8 v :: bytesOf n (v / 256)

/-- The instruction the decoder reads from `nbits` bits `w`, numbered as the opcode table numbers them; the literal words
above them are zero. 32 bits are a miller word, 64 an element operation word, 128 a stream command. -/
def decodeTableWord (nbits w : Nat) : Option Instr :=
  if nbits = 64 then (decodeElement (BitVec.ofNat 64 w)).toOption
  else if nbits = 128 then (decodeCommand (BitVec.ofNat 128 w)).toOption
  else (decodeBytes (bytesOf 20 w)).toOption.map (·.1)

/-! ## Encoding -/

/-- The guard bits. -/
def gBit (g : Guard) : BitVec 1 := if g.n then 1 else 0

/-- Format F3. -/
def f3 (g : Guard) (m : BitVec 6) (d a b : BitVec 5) (f : BitVec 7) : BitVec 32 := g.q ++ gBit g ++ m ++ d ++ a ++ b ++ f
/-- Formats FI and FM. -/
def fi (g : Guard) (m : BitVec 6) (d a : BitVec 5) (i : BitVec 12) : BitVec 32 := g.q ++ gBit g ++ m ++ d ++ a ++ i
/-- Format FL. -/
def fl (g : Guard) (m : BitVec 6) (d : BitVec 5) (i : BitVec 17) : BitVec 32 := g.q ++ gBit g ++ m ++ d ++ i
/-- Format FB. -/
def fb (g : Guard) (m : BitVec 6) (o : BitVec 22) : BitVec 32 := g.q ++ gBit g ++ m ++ o
/-- Format FX. -/
def fx (g : Guard) (m : BitVec 6) (d a : BitVec 5) (n : BitVec 3) (f : BitVec 9) : BitVec 32 :=
  g.q ++ gBit g ++ m ++ d ++ a ++ n ++ f

/-- A command word: OP, PORT, two zero bits and the body (R180). -/
def command (op : BitVec 8) (p : BitVec 6) (body : BitVec 112) : BitVec 128 := op ++ p ++ 0#2 ++ body

/-- A body of a block offset and 88 bits. -/
def blkBody (b : BitVec 24) (rest : BitVec 88) : BitVec 112 := b ++ rest

/-- An element word. -/
def elemWord (op : BitVec 8) (w : ElemFields) : BitVec 64 :=
  op ++ w.ina ++ w.inb ++ w.inc ++ w.dirs ++ w.md ++ w.param

/-- The words of a well-formed instruction. -/
inductive Code where
  | miller (w : BitVec 32) (lits : List (BitVec 32))
  | command (c : BitVec 128)
  | element (op : BitVec 8)
  | event
deriving DecidableEq, Repr

/-- The encoding of an instruction (R161 to R186, R226, R270); an event has none. -/
def encode : Instr → Code
  | .add g d a b => .miller (f3 g 0x00 d a b 0x01) []
  | .addW g d a b => .miller (f3 g 0x00 d a b 0x41) []
  | .sub g d a b => .miller (f3 g 0x00 d a b 0x02) []
  | .subW g d a b => .miller (f3 g 0x00 d a b 0x42) []
  | .mul g d a b => .miller (f3 g 0x00 d a b 0x03) []
  | .mulW g d a b => .miller (f3 g 0x00 d a b 0x43) []
  | .mulh g d a b => .miller (f3 g 0x00 d a b 0x04) []
  | .mulhu g d a b => .miller (f3 g 0x00 d a b 0x05) []
  | .div g d a b => .miller (f3 g 0x00 d a b 0x06) []
  | .divW g d a b => .miller (f3 g 0x00 d a b 0x46) []
  | .divu g d a b => .miller (f3 g 0x00 d a b 0x07) []
  | .divuW g d a b => .miller (f3 g 0x00 d a b 0x47) []
  | .rem g d a b => .miller (f3 g 0x00 d a b 0x08) []
  | .remW g d a b => .miller (f3 g 0x00 d a b 0x48) []
  | .remu g d a b => .miller (f3 g 0x00 d a b 0x09) []
  | .remuW g d a b => .miller (f3 g 0x00 d a b 0x49) []
  | .min g d a b => .miller (f3 g 0x00 d a b 0x0A) []
  | .max g d a b => .miller (f3 g 0x00 d a b 0x0B) []
  | .minu g d a b => .miller (f3 g 0x00 d a b 0x0C) []
  | .maxu g d a b => .miller (f3 g 0x00 d a b 0x0D) []
  | .and g d a b => .miller (f3 g 0x00 d a b 0x0E) []
  | .or g d a b => .miller (f3 g 0x00 d a b 0x0F) []
  | .xor g d a b => .miller (f3 g 0x00 d a b 0x10) []
  | .shl g d a b => .miller (f3 g 0x00 d a b 0x11) []
  | .shlW g d a b => .miller (f3 g 0x00 d a b 0x51) []
  | .shr g d a b => .miller (f3 g 0x00 d a b 0x12) []
  | .shrW g d a b => .miller (f3 g 0x00 d a b 0x52) []
  | .sra g d a b => .miller (f3 g 0x00 d a b 0x13) []
  | .sraW g d a b => .miller (f3 g 0x00 d a b 0x53) []
  | .clz g d a => .miller (f3 g 0x00 d a 0 0x14) []
  | .clzW g d a => .miller (f3 g 0x00 d a 0 0x54) []
  | .ctz g d a => .miller (f3 g 0x00 d a 0 0x15) []
  | .ctzW g d a => .miller (f3 g 0x00 d a 0 0x55) []
  | .popc g d a => .miller (f3 g 0x00 d a 0 0x16) []
  | .popcW g d a => .miller (f3 g 0x00 d a 0 0x56) []
  | .sextB g d a => .miller (f3 g 0x00 d a 0 0x18) []
  | .sextH g d a => .miller (f3 g 0x00 d a 0 0x19) []
  | .sextW g d a => .miller (f3 g 0x00 d a 0 0x1A) []
  | .zextB g d a => .miller (f3 g 0x00 d a 0 0x1B) []
  | .zextH g d a => .miller (f3 g 0x00 d a 0 0x1C) []
  | .zextW g d a => .miller (f3 g 0x00 d a 0 0x1D) []
  | .addi g d a imm => .miller (fi g 0x01 d a imm) []
  | .addiW g d a imm => .miller (fi g 0x02 d a imm) []
  | .andi g d a imm => .miller (fi g 0x03 d a imm) []
  | .ori g d a imm => .miller (fi g 0x04 d a imm) []
  | .xori g d a imm => .miller (fi g 0x05 d a imm) []
  | .shlImm g d a sh => .miller (fi g 0x06 d a (0b00#2 ++ 0b0#1 ++ 0b000#3 ++ sh)) []
  | .shlWImm g d a sh => .miller (fi g 0x06 d a (0b00#2 ++ 0b1#1 ++ 0b000#3 ++ sh)) []
  | .shrImm g d a sh => .miller (fi g 0x06 d a (0b01#2 ++ 0b0#1 ++ 0b000#3 ++ sh)) []
  | .shrWImm g d a sh => .miller (fi g 0x06 d a (0b01#2 ++ 0b1#1 ++ 0b000#3 ++ sh)) []
  | .sraImm g d a sh => .miller (fi g 0x06 d a (0b10#2 ++ 0b0#1 ++ 0b000#3 ++ sh)) []
  | .sraWImm g d a sh => .miller (fi g 0x06 d a (0b10#2 ++ 0b1#1 ++ 0b000#3 ++ sh)) []
  | .li g d imm => .miller (fl g 0x07 d imm) []
  | .lih g d imm => .miller (fl g 0x08 d imm) []
  | .addpc g d imm => .miller (fl g 0x09 d imm) []
  | .cmpEqImm g d a imm => .miller (fi g 0x0A d a imm) []
  | .cmpNeImm g d a imm => .miller (fi g 0x0B d a imm) []
  | .cmpLtImm g d a imm => .miller (fi g 0x0C d a imm) []
  | .cmpLeImm g d a imm => .miller (fi g 0x0D d a imm) []
  | .cmpLtuImm g d a imm => .miller (fi g 0x0E d a imm) []
  | .cmpLeuImm g d a imm => .miller (fi g 0x0F d a imm) []
  | .cmpEq g d a b => .miller (f3 g 0x10 d a b 0x00) []
  | .cmpNe g d a b => .miller (f3 g 0x10 d a b 0x01) []
  | .cmpLt g d a b => .miller (f3 g 0x10 d a b 0x02) []
  | .cmpLe g d a b => .miller (f3 g 0x10 d a b 0x03) []
  | .cmpLtu g d a b => .miller (f3 g 0x10 d a b 0x04) []
  | .cmpLeu g d a b => .miller (f3 g 0x10 d a b 0x05) []
  | .gand g d a b => .miller (f3 g 0x10 d a b 0x08) []
  | .gor g d a b => .miller (f3 g 0x10 d a b 0x09) []
  | .gxor g d a b => .miller (f3 g 0x10 d a b 0x0A) []
  | .gnot g d a => .miller (f3 g 0x10 d a 0 0x0B) []
  | .br g off => .miller (fb g 0x11 off) []
  | .bl g off => .miller (fb g 0x12 off) []
  | .bi g a imm => .miller (fi g 0x13 0 a imm) []
  | .rep g a imm => .miller (fi g 0x14 0 a imm) []
  | .waitch g a => .miller (f3 g 0x15 0 a 0 0x01) []
  | .yield g => .miller (f3 g 0x15 0 0 0 0x02) []
  | .exit g => .miller (f3 g 0x15 0 0 0 0x03) []
  | .syncd g => .miller (f3 g 0x15 0 0 0 0x04) []
  | .wfe g => .miller (f3 g 0x15 0 0 0 0x05) []
  | .eret g => .miller (f3 g 0x15 0 0 0 0x06) []
  | .bkpt g => .miller (f3 g 0x15 0 0 0 0x07) []
  | .bara g n => .miller (fi g 0x16 0 0 n) []
  | .barw g n => .miller (fi g 0x16 1 0 n) []
  | .sel g d a b p => .miller (f3 g 0x17 d a b (0b0000#4 ++ p)) []
  | .ldB g d a off => .miller (fi g 0x18 d a off) []
  | .ldBu g d a off => .miller (fi g 0x19 d a off) []
  | .ldH g d a off => .miller (fi g 0x1A d a off) []
  | .ldHu g d a off => .miller (fi g 0x1B d a off) []
  | .ldW g d a off => .miller (fi g 0x1C d a off) []
  | .ldWu g d a off => .miller (fi g 0x1D d a off) []
  | .ldD g d a off => .miller (fi g 0x1E d a off) []
  | .extr g d a wm1 pos => .miller (fi g 0x1F d a (wm1 ++ pos)) []
  | .stB g x a off => .miller (fi g 0x20 x a off) []
  | .stH g x a off => .miller (fi g 0x21 x a off) []
  | .stW g x a off => .miller (fi g 0x22 x a off) []
  | .stD g x a off => .miller (fi g 0x23 x a off) []
  | .ldf g d a off => .miller (fi g 0x24 d a off) []
  | .ldfS g d a off => .miller (fi g 0x25 d a off) []
  | .stf g x a off => .miller (fi g 0x26 x a off) []
  | .stfS g x a off => .miller (fi g 0x27 x a off) []
  | .ldcW g d a off => .miller (fi g 0x28 d a off) []
  | .ldcWu g d a off => .miller (fi g 0x29 d a off) []
  | .ldcD g d a off => .miller (fi g 0x2A d a off) []
  | .pref g lvl a off => .miller (fi g 0x2B lvl a off) []
  | .aadd g d a b => .miller (f3 g 0x2C d a b 0x40) []
  | .aaddW g d a b => .miller (f3 g 0x2C d a b 0x00) []
  | .aand g d a b => .miller (f3 g 0x2C d a b 0x41) []
  | .aandW g d a b => .miller (f3 g 0x2C d a b 0x01) []
  | .aor g d a b => .miller (f3 g 0x2C d a b 0x42) []
  | .aorW g d a b => .miller (f3 g 0x2C d a b 0x02) []
  | .axor g d a b => .miller (f3 g 0x2C d a b 0x43) []
  | .axorW g d a b => .miller (f3 g 0x2C d a b 0x03) []
  | .amin g d a b => .miller (f3 g 0x2C d a b 0x44) []
  | .aminW g d a b => .miller (f3 g 0x2C d a b 0x04) []
  | .amax g d a b => .miller (f3 g 0x2C d a b 0x45) []
  | .amaxW g d a b => .miller (f3 g 0x2C d a b 0x05) []
  | .aminu g d a b => .miller (f3 g 0x2C d a b 0x46) []
  | .aminuW g d a b => .miller (f3 g 0x2C d a b 0x06) []
  | .amaxu g d a b => .miller (f3 g 0x2C d a b 0x47) []
  | .amaxuW g d a b => .miller (f3 g 0x2C d a b 0x07) []
  | .aswp g d a b => .miller (f3 g 0x2C d a b 0x48) []
  | .aswpW g d a b => .miller (f3 g 0x2C d a b 0x08) []
  | .acas g d a b => .miller (f3 g 0x2C d a b 0x49) []
  | .acasW g d a b => .miller (f3 g 0x2C d a b 0x09) []
  | .fadd g d a b => .miller (f3 g 0x2D d a b 0x00) []
  | .faddS g d a b => .miller (f3 g 0x2D d a b 0x40) []
  | .fsub g d a b => .miller (f3 g 0x2D d a b 0x01) []
  | .fsubS g d a b => .miller (f3 g 0x2D d a b 0x41) []
  | .fmul g d a b => .miller (f3 g 0x2D d a b 0x02) []
  | .fmulS g d a b => .miller (f3 g 0x2D d a b 0x42) []
  | .fdiv g d a b => .miller (f3 g 0x2D d a b 0x03) []
  | .fdivS g d a b => .miller (f3 g 0x2D d a b 0x43) []
  | .fsqrt g d a => .miller (f3 g 0x2D d a 0 0x04) []
  | .fsqrtS g d a => .miller (f3 g 0x2D d a 0 0x44) []
  | .ffma g d a b => .miller (f3 g 0x2D d a b 0x05) []
  | .ffmaS g d a b => .miller (f3 g 0x2D d a b 0x45) []
  | .fmin g d a b => .miller (f3 g 0x2D d a b 0x06) []
  | .fminS g d a b => .miller (f3 g 0x2D d a b 0x46) []
  | .fmax g d a b => .miller (f3 g 0x2D d a b 0x07) []
  | .fmaxS g d a b => .miller (f3 g 0x2D d a b 0x47) []
  | .fcmpEq g d a b => .miller (f3 g 0x2D d a b 0x08) []
  | .fcmpEqS g d a b => .miller (f3 g 0x2D d a b 0x48) []
  | .fcmpLt g d a b => .miller (f3 g 0x2D d a b 0x09) []
  | .fcmpLtS g d a b => .miller (f3 g 0x2D d a b 0x49) []
  | .fcmpLe g d a b => .miller (f3 g 0x2D d a b 0x0A) []
  | .fcmpLeS g d a b => .miller (f3 g 0x2D d a b 0x4A) []
  | .fcmpUn g d a b => .miller (f3 g 0x2D d a b 0x0B) []
  | .fcmpUnS g d a b => .miller (f3 g 0x2D d a b 0x4B) []
  | .fcvtSD g d a => .miller (f3 g 0x2D d a 0 0x10) []
  | .fcvtDS g d a => .miller (f3 g 0x2D d a 0 0x11) []
  | .fcvtLD g d a => .miller (f3 g 0x2D d a 0 0x12) []
  | .fcvtLuD g d a => .miller (f3 g 0x2D d a 0 0x13) []
  | .fcvtLS g d a => .miller (f3 g 0x2D d a 0 0x52) []
  | .fcvtLuS g d a => .miller (f3 g 0x2D d a 0 0x53) []
  | .fcvtDL g d a => .miller (f3 g 0x2D d a 0 0x14) []
  | .fcvtDLu g d a => .miller (f3 g 0x2D d a 0 0x15) []
  | .fcvtSL g d a => .miller (f3 g 0x2D d a 0 0x54) []
  | .fcvtSLu g d a => .miller (f3 g 0x2D d a 0 0x55) []
  | .fclass g d a => .miller (f3 g 0x2D d a 0 0x18) []
  | .fclassS g d a => .miller (f3 g 0x2D d a 0 0x58) []
  | .fmvg g d a => .miller (f3 g 0x2D d a 0 0x19) []
  | .gmvf g d a => .miller (f3 g 0x2D d a 0 0x1A) []
  | .fli g d imm => .miller (fl g 0x2E d (0b0#1 ++ imm)) []
  | .fliS g d imm => .miller (fl g 0x2E d (0b1#1 ++ imm)) []
  | .ins g d a wm1 pos => .miller (fi g 0x2F d a (wm1 ++ pos)) []
  | .slnew g d a b => .miller (f3 g 0x30 d a b 0x01) []
  | .slmap g d a => .miller (f3 g 0x30 d a 0 0x02) []
  | .sldup g d a => .miller (f3 g 0x30 d a 0 0x03) []
  | .sldrop g a => .miller (f3 g 0x30 0 a 0 0x04) []
  | .hmov g d a => .miller (f3 g 0x30 d a 0 0x05) []
  | .slxfer g d a => .miller (f3 g 0x30 d a 0 0x06) []
  | .hrecv g d a => .miller (f3 g 0x30 d a 0 0x07) []
  | .flnew g d a b => .miller (f3 g 0x30 d a b 0x08) []
  | .flawait g a b => .miller (f3 g 0x30 0 a b 0x09) []
  | .flrel g a b => .miller (f3 g 0x30 0 a b 0x0A) []
  | .chclose g a => .miller (f3 g 0x30 0 a 0 0x0B) []
  | .scm g d a => .miller (f3 g 0x30 d a 0 0x0C) []
  | .scw g a => .miller (f3 g 0x30 0 a 0 0x0D) []
  | .dlaunch g d a => .miller (f3 g 0x30 d a 0 0x0E) []
  | .rsvpin g d a b => .miller (f3 g 0x30 d a b 0x0F) []
  | .rsvunpin g a => .miller (f3 g 0x30 0 a 0 0x10) []
  | .ctron g k => .miller (f3 g 0x30 0 0 k 0x11) []
  | .ctroff g k => .miller (f3 g 0x30 0 0 k 0x12) []
  | .ctrrd g d k => .miller (f3 g 0x30 d 0 k 0x13) []
  | .tlbinv g a => .miller (f3 g 0x30 0 a 0 0x14) []
  | .mfs g d sr => .miller (fi g 0x31 d 0 sr) []
  | .mts g sr a => .miller (fi g 0x32 0 a sr) []
  | .nstepi g imm => .miller (fl g 0x33 0 imm) []
  | .trap g imm => .miller (fi g 0x34 0 0 imm) []
  | .ctrsel g k ev => .miller (fi g 0x35 k 0 ev) []
  | .mark g imm => .miller (fi g 0x36 0 0 imm) []
  | .trig g line => .miller (fi g 0x37 0 0 line) []
  | .chbind g d ch => .miller (fi g 0x38 d 0 ch) []
  | .nop low => .miller (1#4 ++ low) []
  | .liw g d two l0 l1 =>
    if two then .miller (fx g 0x3C d 0 2 0x001) [l0, l1] else .miller (fx g 0x3C d 0 1 0x001) [l0]
  | .sci g d a cmd =>
    .miller (fx g 0x3C d a 4 0x004)
      [cmd.extractLsb' 0 32, cmd.extractLsb' 32 32, cmd.extractLsb' 64 32, cmd.extractLsb' 96 32]
  | .scNop => .command (command 0x01 0 0)
  | .scBind port cls => .command (command 0x02 port (cls ++ 0#110))
  | .scFence => .command (command 0x03 0 0)
  | .scTok port ch tag => .command (command 0x04 port (ch ++ 0#36 ++ tag))
  | .scDrain port => .command (command 0x05 port 0)
  | .scCopy port blk => .command (command 0x08 port (blkBody blk 0))
  | .scRcopy port blk rop st => .command (command 0x09 port (blkBody blk (rop ++ 0#4 ++ st ++ 0#56)))
  | .scGath port blk esz lim => .command (command 0x0A port (blkBody blk (esz ++ 0#4 ++ lim ++ 0#56)))
  | .scScat port blk esz lim => .command (command 0x0B port (blkBody blk (esz ++ 0#4 ++ lim ++ 0#56)))
  | .scFlume port nslot => .command (command 0x0C port (0#24 ++ nslot ++ 0#56))
  | .scSlfill port blk => .command (command 0x0D port (blkBody blk 0))
  | .scSlsee port blk => .command (command 0x0E port (blkBody blk 0))
  | .scCfg blk => .command (command 0x10 0 (blkBody blk 0))
  | .scSwap => .command (command 0x11 0 0)
  | .scJob port blk => .command (command 0x12 port (blkBody blk 0))
  | .scHalo port blk => .command (command 0x18 port (blkBody blk 0))
  | .scColl port blk => .command (command 0x19 port (blkBody blk 0))
  | .pdot => .element 0x01
  | .pdots => .element 0x02
  | .pdotm => .element 0x03
  | .accsw => .element 0x04
  | .drain => .element 0x05
  | .enc => .element 0x08
  | .dec => .element 0x09
  | .padd => .element 0x0A
  | .pscl => .element 0x0B
  | .pneg => .element 0x0C
  | .pmsk => .element 0x0D
  | .eadd => .element 0x10
  | .esub => .element 0x11
  | .emul => .element 0x12
  | .efma => .element 0x13
  | .emin => .element 0x14
  | .emax => .element 0x15
  | .ecmp => .element 0x16
  | .esel => .element 0x17
  | .eexp2 => .element 0x18
  | .elog2 => .element 0x19
  | .ercp => .element 0x1A
  | .ersq => .element 0x1B
  | .cvtBf16Fp32 => .element 0x20
  | .cvtFp16Fp32 => .element 0x21
  | .cvtE4m3Fp32 => .element 0x22
  | .cvtE5m2Fp32 => .element 0x23
  | .cvtInt8Fp32 => .element 0x24
  | .cvtI4sFp32 => .element 0x25
  | .cvtFp32Bf16 => .element 0x28
  | .cvtFp32Fp16 => .element 0x29
  | .cvtFp32E4m3 => .element 0x2A
  | .cvtFp32E5m2 => .element 0x2B
  | .cvtFp32Int8 => .element 0x2C
  | .cvtFp32I4s => .element 0x2D
  | .join => .element 0x30
  | .merge => .element 0x31
  | .filt => .element 0x32
  | .agloop => .element 0x38
  | .agld => .element 0x39
  | .agst => .element 0x3A
  | .agred => .element 0x3B
  | .aggath => .element 0x3C
  | .repl => .element 0x40
  | .tokq => .element 0x41
  | .pass => .element 0x42
  | .asyncTrapTake => .event
  | .sleepingInstructionRetire => .event
  | .stallRelease => .event
  | .commandRetire => .event
  | .jobOvertake => .event
  | .tokenChannelPush => .event
  | .flumeSlotRetire => .event
  | .haloMessageArrival => .event
  | .collSum => .event
  | .planeDrain => .event
  | .controlTokenPass => .event
  | .tokenLinkTransfer => .event
  | .channelWordArrival => .event
  | .spillfull => .event
  | .watchdog => .event
  | .intervalMerge => .event
  | .atomicRoundClose => .event
  | .barrierPhaseComplete => .event
  | .dieAck => .event
  | .launch => .event
  | .workBlockWalk => .event
  | .allocatorDecision => .event
  | .headHoldPreempt => .event
  | .taskStart => .event
  | .taskRetire => .event
  | .preempt => .event
  | .preemptSaveDone => .event
  | .ingressMeter => .event
  | .linkFailure => .event
  | .linkFlitReceive => .event
  | .handleReleaseMessage => .event
  | .bankreq => .event
  | .bankModeChangeDone => .event
  | .ptctlMode => .event
  | .tileModeChangeDone => .event
  | .ptctlRunStart => .event
  | .ptctlRunStop => .event
  | .pushUnit => .event
  | .tcopResume => .event
  | .tcopKill => .event
  | .unmap => .event
  | .unmapComplete => .event
  | .bar2Access => .event
  | .registerWrite => .event
  | .attach => .event
  | .detach => .event
  | .stop => .event
  | .go => .event
  | .dump => .event
  | .wrctl => .event
  | .load => .event
  | .triggerLineAssert => .event
  | .triggerSinkReach => .event
  | .trctlUnfreeze => .event
  | .samplePeriod => .event
  | .millPowerGate => .event
  | .millPowerUp => .event
  | .counterWrap => .event
  | .replayStart => .event
  | .replayPassEnd => .event
  | .gettel => .event
  | .getlife => .event
  | .setlim => .event
  | .fwstage => .event
  | .fwact => .event
  | .fwcommit => .event
  | .getharv => .event
  | .retire => .event
  | .setpart => .event
  | .setworld => .event
  | .setsr => .event
  | .loadkey => .event
  | .setkmask => .event
  | .settrig => .event
  | .setig => .event
  | .getpart => .event
  | .nonce => .event
  | .auth => .event
  | .unsupportedCommand => .event
  | .sessionTimeout => .event
  | .limitInterval => .event
  | .thermalShutdown => .event
  | .lifetimeCommit => .event
  | .resetBoot => .event
  | .wheelhouseWakeRequest => .event
  | .supplyDroop => .event
  | .powerLoss => .event
  | .tapInstruction => .event

/-- Decode what `encode` writes; an element operation with the fields `f` of its word. -/
def decodeCode (f : ElemFields) : Code → Except Reject Instr
  | .miller w lits => decodeMiller w (lits.getD 0 0) (lits.getD 1 0) (lits.getD 2 0) (lits.getD 3 0)
  | .command c => decodeCommand c
  | .element op => decodeElement (elemWord op f)
  | .event => .error .short

/-- The literal words of an instruction (R164, R177). -/
def Instr.lits : Instr → Nat
  | .liw _ _ two _ _ => if two then 2 else 1
  | .sci _ _ _ _ => 4
  | _ => 0

/-- The low 32 bits of the instruction word, which TRAPINFO holds for ILLOP, PRIV and CHCLOSED (R139). -/
def Instr.word (i : Instr) : BitVec 32 :=
  match encode i with
  | .miller w _ => w
  | _ => 0

end Sys2Proof
end

