-- ==== Sys2Proof/Machine/Bits.lean ====
section
/-!
DEFINITION. Sys2Proof/Machine/Bits.lean: bit fields, byte order, keyed lists and the exact arithmetic the other files
share (R3, R4, R25).
-/

namespace Sys2Proof.Machine

/-! ## Bit fields (R3, R25) -/

/-- Bits `lo + len - 1 : lo` of a word, as a number. -/
def bitsAt (w : Word) (lo len : Nat) : Nat := (w.toNat >>> lo) % 2 ^ len

/-- One bit of a word. -/
def bitAt (w : Word) (i : Nat) : Bool := w.getLsbD i

/-- A word with bits `lo + len - 1 : lo` replaced by the low bits of `v`. -/
def setBits (w : Word) (lo len v : Nat) : Word :=
  let m : Word := BitVec.ofNat 64 ((2 ^ len - 1) <<< lo)
  (w &&& ~~~m) ||| (BitVec.ofNat 64 ((v % 2 ^ len) <<< lo))

/-- A word with one bit set or cleared. -/
def setBit (w : Word) (i : Nat) (b : Bool) : Word := setBits w i 1 (if b then 1 else 0)

/-- A one-bit number of a Boolean. -/
def bool1 (b : Bool) : Nat := if b then 1 else 0

/-- An `n`-bit field read as two's complement. -/
def signed (n v : Nat) : Int := if v % 2 ^ n < 2 ^ (n - 1) then (v % 2 ^ n : Nat) else (v % 2 ^ n : Nat) - (2 ^ n : Nat)

/-- The 64-bit word of an exact integer (R25: exact arithmetic, then narrowed). -/
def wordOf (i : Int) : Word := BitVec.ofInt 64 i

/-- Ceiling of a quotient. -/
def ceilDiv (a b : Nat) : Nat := (a + b - 1) / b

/-! ## Bytes (R4) -/

/-- The little-endian bytes of a number, `n` of them. -/
def leBytes : Nat → Nat → List Byte
  | 0, _ => []
  | n + 1, v => BitVec.ofNat 8 v :: leBytes n (v / 256)

/-- The number whose little-endian bytes these are. -/
def leNat : List Byte → Nat
  | [] => 0
  | b :: bs => b.toNat + 256 * leNat bs

/-- The doubleword at byte offset `o` of a block of bytes. -/
def dword (bs : List Byte) (o : Nat) : Word := BitVec.ofNat 64 (leNat ((bs.drop o).take 8))

/-- The 32-bit word at byte offset `o` of a block of bytes. -/
def word4 (bs : List Byte) (o : Nat) : BitVec 32 := BitVec.ofNat 32 (leNat ((bs.drop o).take 4))

/-- The bytes of a doubleword. -/
def dbytes (w : Word) : List Byte := leBytes 8 w.toNat

/-- The 32-bit words of a list of bytes, in ascending address order (R262). -/
def words32 : List Byte → List (BitVec 32)
  | b0 :: b1 :: b2 :: b3 :: rest => (b3 ++ b2 ++ b1 ++ b0) :: words32 rest
  | _ => []

/-! ## Keyed lists -/

/-- The value of a key, or the default. -/
def aget {α : Type} (d : α) : List (Nat × α) → Nat → α
  | [], _ => d
  | (k, v) :: rest, i => if k = i then v else aget d rest i

/-- The list with a key's value replaced, or added at the end. -/
def aset {α : Type} : List (Nat × α) → Nat → α → List (Nat × α)
  | [], i, x => [(i, x)]
  | (k, v) :: rest, i, x => if k = i then (k, x) :: rest else (k, v) :: aset rest i x

/-- A list with the element at an index changed. -/
def modifyAt {α : Type} : List α → Nat → (α → α) → List α
  | [], _, _ => []
  | x :: xs, 0, f => f x :: xs
  | x :: xs, n + 1, f => x :: modifyAt xs n f

/-- The index of the first element that satisfies a test. -/
def findIdx {α : Type} (p : α → Bool) : List α → Option Nat
  | [] => none
  | x :: xs => if p x then some 0 else (findIdx p xs).map (· + 1)

/-- Insert into a list kept ascending by `lt`. -/
def insertBy {α : Type} (lt : α → α → Bool) (x : α) : List α → List α
  | [] => [x]
  | y :: ys => if lt x y then x :: y :: ys else y :: insertBy lt x ys

/-- Sort by `lt`, keeping the order of equals. -/
def sortBy {α : Type} (lt : α → α → Bool) : List α → List α
  | [] => []
  | x :: xs => insertBy (fun a b => lt a b || !(lt b a)) x (sortBy lt xs)

/-- Sum of numbers. -/
def sumNat (l : List Nat) : Nat := l.foldl (· + ·) 0

/-! ## Loop counters -/

/-- The next iteration of a nest, innermost first, and whether the nest is exhausted. -/
def nextIter : List Nat → List Nat → List Nat × Bool
  | c :: cs, n :: ns =>
    if c + 1 < n then ((c + 1) :: cs, false)
    else
      let r := nextIter cs ns
      (0 :: r.1, r.2)
  | _, _ => ([], true)

/-- Σ counter × stride. -/
def dotCtr : List Nat → List Int → Int
  | c :: cs, t :: ts => (c : Int) * t + dotCtr cs ts
  | _, _ => 0

end Sys2Proof.Machine
end

