-- ==== Sys2Proof/Config.lean ====
section
/-!
DEFINITION. Sys2Proof/Config.lean: what this part fixes (R2, "Headline figures"), and the free values: constants with
no body, for everything the spec leaves open.
-/

namespace Sys2Proof.Config

/-! ## Implementation parameters of the FN-GA2048-H12 -/

/-- Compute dies. -/
def dies : Nat := 8
/-- Physical mills of one compute die. -/
def millsPerDie : Nat := 264
/-- Contexts of a miller (R30). -/
def contexts : Nat := 16
/-- Stones of a mill. -/
def stones : Nat := 16
/-- SRAM banks of a mill. -/
def banks : Nat := 24
/-- Pond tiles of a die (R97). -/
def tilesPerDie : Nat := 64
/-- Functions: PF0 and VF1 to VF32 (R404). -/
def functions : Nat := 33
/-- Race-link ports (R412). -/
def linkPorts : Nat := 18
/-- Entries of a mill's footprint table (R95). -/
def footprints : Nat := 32
/-- Commands of a context accepted and not retired (R248). -/
def cmdDepth : Nat := 16
/-- Entries of a first-level TLB (R402). -/
def tlbEntries : Nat := 192
/-- Objects of the package's sluice object table (R231). -/
def objects : Nat := 1048576
/-- Images of a firmware bank in the order in which they are loaded (R419): wheelhouse firmware, base dies 0 to 3, compute dies 0 to 7. -/
def firmwareImages : Nat := 13
/-- Bytes of HBM (R397: physical addresses 0 to 0x8F_FFFF_FFFF). -/
def hbmTop : Nat := 0x9000000000

/-! ## Free values

Each is applied to the place of the choice in the run's sequence of choices (`State.free`), or to the operands it
depends on. No proof can see a value of one (log 7). -/

/-- The dies that the cut of a launch names, one bit a die, by function and root (R49, R379: where a launch holds its cut is
not stated); at most one: the launch is uncut. -/
opaque launchCut : Nat → Word → BitVec 8
/-- The die that the cut assigns to a node block, by function, root and block (R379). -/
opaque nodeDie : Nat → Word → Word → BitVec 3
/-- Which agent of the agenda moves next within a cycle (R113, R120: no order is specified). -/
opaque pick : Nat → Nat
/-- The ticks of a lease beyond the first; a lease is 1 to 4,096 ticks (R114). -/
opaque lease : Nat → BitVec 12
/-- Whether a TLB that still holds an entry serves it where the tables differ (R402, R403). -/
opaque tlbServes : Nat → Bool
/-- Whether an access hits a cache of its kind, for the event counters only (R435). -/
opaque cacheHit : Nat → Bool
/-- The device check code of a handle over its bits 79:0 (R109). -/
opaque handleCheck : BitVec 80 → BitVec 48
/-- Data of an object that another package holds (R232), by the object, as bits 63:0 of its handles name it (R109), and offset. -/
opaque remoteByte : Word → Nat → Byte
/-- Its size in bytes, less 1 (R231, R232). -/
opaque remoteSize : Word → BitVec 24
/-- The logical time of its drop (R124, R413). -/
opaque remoteTime : Word → Nat
/-- The cycle in which it leaves FILLING there (R110, R125). -/
opaque remoteFills : Word → Nat
/-- Whether it is then ABANDONED. -/
opaque remoteAbandoned : Word → Bool
/-- Whether a channel spill write faults (R157). -/
opaque spillFaults : Nat → Bool
/-- Whether the write of a save image fails (R151). -/
opaque saveFails : Nat → Bool
/-- Where a save image writes bytes whose place in sections 3 to 7 the spec does not fix (R150). -/
opaque imageByte : Nat → Nat → Byte
/-- What a save image restores after its memory key has been replaced, in the sections that are not read word for word (R418). -/
opaque garbled : Nat → Nat → Word
/-- Bytes of a 48-byte nonce and of the controller's public key (R453). -/
opaque nonceByte : Nat → Nat → Byte
/-- Whether an operator token over nonce and keys verifies (R453). -/
opaque tokenVerifies : List Byte → Nat → Bool
/-- Whether a debug-enable token verifies (R444, R419). -/
opaque debugTokenVerifies : List Byte → Bool
/-- AES Key Unwrap under the session key, which derives from the nonce's exchange and the operator's key and token in AUTH: none when
the integrity check fails (R453, R454). -/
opaque unwrapKey : List Byte → Nat → List Byte → Option (BitVec 512)
/-- Whether an image of a firmware bank verifies under R419 with both signatures, by its place in the boot ROM's order. -/
opaque imageVerifies : Nat → List (Nat × Byte) → Bool
/-- The security version of an image of a firmware bank (R419, R461). -/
opaque imageVersion : Nat → List (Nat × Byte) → Nat
/-- What the boot ROM reports over MCTP of an image that fails (R419: no form is given). -/
opaque failureReport : Nat → List Byte
/-- An error of a memory that shows itself in a cycle: 0 corrected, 1 uncorrectable, 2 an uncorrectable one that is gone; the memory key,
and the function and die that a corrected one is put down to (R425, R459; errors come from outside the machine). -/
opaque memoryError : Nat → Option (Nat × Nat × Nat × Nat)
/-- The HBM stack that holds a line (R459: the mapping is not given). -/
opaque hbmStack : Nat → Nat
/-- The line of HBM that storage allocated by the device for a task stands in (R417, R418: where it lies is not given). -/
opaque storageLine : Nat → Nat
/-- The IDCODE of the package (R444: no value is given). -/
opaque idcode : BitVec 32
/-- The mailbox's answer to a request (R444). -/
opaque mailboxReply : List Byte → List Byte
/-- What SAMPLE finds at the pins, in the boundary register's own layout (R444), by place in the run. -/
opaque boundarySample : Nat → Word
/-- Package power and sensors over an interval, by place in the run (R455, R457). -/
opaque sensorTemp : Nat → Nat → Nat
/-- Die power over an interval. -/
opaque sensorPower : Nat → Nat → Nat
/-- Seconds without a request that the device has measured are kept in cycles of the mill clock. -/
def cyclesPerSecond : Nat := 2250000000

end Sys2Proof.Config
end

