-- ==== Sys2Proof/Machine/State.lean ====
section
/-!
DEFINITION. Sys2Proof/Machine/State.lean: every piece of state the spec gives the machine, as plain data, and the state
right after reset. INVENTORY.md, '## State', lists each field with the rule that names it and its reset value.
-/

namespace Sys2Proof.Machine

/-! ## Reasons to stop -/

/-- Why a step can stop the machine. -/
inductive Fault where
  /-- Raised by `step` after POWER_LOSS: the package has no power (R460). Safe: nothing runs. -/
  | powerOff
deriving DecidableEq, Repr

/-- Why a step can refuse an instruction. -/
inductive Refusal where
  /-- Raised by `exec` for a constructor that has no meaning yet. Safe: nothing runs. -/
  | notModelled (mnemonic : String)
deriving DecidableEq, Repr

/-! ## Small closed sets of names -/

/-- The states of a context (R31). -/
inductive CtxSt where
  | free | runnable | sleeping | trapped | swapped
deriving DecidableEq, Repr

/-- For whom a stopped task is stopped (R136, R142, R144, R424). -/
inductive Stop where
  | none | driver | debugger
deriving DecidableEq, Repr

/-- The life of a task (R35 to R37, R148). -/
inductive TaskSt where
  | idle      -- names no task
  | queued    -- not placed yet
  | placed    -- holds a run and a context
  | swapped   -- in a save image
  | draining  -- EXIT has retired; accepted commands still run (R208)
  | exited    -- run and context are free again (R37, R208); its writes are still to be made
  | ended     -- retired
  | killed
deriving DecidableEq, Repr

/-- STATE of a work block, 0x58 3:0 (R40). -/
inductive BlkSt where
  | idle | queued | running | done | faulted | severed | refused
deriving DecidableEq, Repr

/-- STATE of a sluice object (R110). -/
inductive ObjSt where
  | filling | published | abandoned | freed
deriving DecidableEq, Repr

/-- What a sleeping or stalled instruction waits for (R31, R227, R96, R188, R218, R251). -/
inductive WaitOn where
  | none
  | chanWord (c : BitVec 2)                  -- sleeps: a word on the channel bound to g28 + c (R20, R206, HRECV)
  | flumeSlots (hdr : Word) (n : BitVec 32)  -- sleeps: FLAWAIT (R244)
  | seeLoad (obj : Nat)                      -- sleeps: a see-load parked on a FILLING object (R125)
  | remoteLoad (pkg : BitVec 8) (obj : Word)  -- sleeps: a see-load parked on another package's object (R110, R125)
  | barrier (b : BitVec 6)                   -- sleeps: BARW (R218)
  | syncd                                    -- sleeps: SYNCD (R251)
  | atomicRound (loc : Nat)                  -- sleeps: a value-returning atomic in its round (R130)
  | chanRoom (c : BitVec 2) (n : Nat)        -- stalls: room for n words (R188)
  | scoreboard (addr : Word) (n : Nat) (store : Bool)  -- stalls: the range scoreboard (R96)
  | dispatcher (n : Nat)                     -- stalls: queue full, or no room for n footprint entries (R95, R248)
  | scw (n : BitVec 32)                      -- stalls: SCW (R249)
  | fills (obj : Nat)                        -- stalls: fill commands into an object (R235, R237)
  | wfe                                      -- stalls: WFE (R259)
  | barArrive (b : BitVec 6)                 -- stalls: BARA while the previous phase is open (R218)
  | cmdsRetired                              -- stalls: SYNCD until the task's commands have retired (R251)
  | bankBusy                                 -- stalls: a bank or tile mode change is in progress (R94, R99)
  | adepth (loc : Nat)                       -- stalls: opening a round beyond ADEPTH (R44)
  | queueRoom                                -- stalls: a die queue is full at DLAUNCH's walk (R380)
  | start                                    -- the first instruction of a cut launch waits for START (R49)
deriving DecidableEq, Repr

/-! ## Context state -/

/-- REP state (R203); remaining count 0: none held. `stop` is the address at or beyond which the last body word lies. -/
structure RepState where
  first : Word
  stop  : Word
  count : Word
deriving DecidableEq, Repr

/-- One event counter (R254). -/
structure Counter where
  ev  : BitVec 12
  on  : Bool
  val : BitVec 48
  wrapped : Option (BitVec 12)  -- the event of a wrap whose record is still to be written (R436)
deriving DecidableEq, Repr

/-- The channel end bound to one of g28 to g31 (R245). -/
structure Binding where
  ch       : BitVec 12
  consumer : Bool
deriving DecidableEq, Repr

/-- An asynchronous trap that waits for the context's next issue slot (R143). -/
structure Pending where
  cause  : BitVec 8
  origin : BitVec 2
  seq    : BitVec 32
  info   : Word
  sev    : Bool        -- class S: the context stops for the driver
  late   : Bool        -- a trigger stop of a cycle in which the context took STEP: it waits for the next step boundary (R443)
deriving DecidableEq, Repr

/-- Arrivals of a party at one barrier (R217). -/
structure BarCount where
  bar  : BitVec 6
  ara  : Nat          -- BARA phases arrived at
  arw  : Nat          -- latest phase whose BARW has returned
  clk  : Nat          -- the clock held at the latest BARA (R134)
deriving DecidableEq, Repr

/-- A context (R30): everything section 4 of a save image holds. -/
structure Ctx where
  pc     : Word
  g      : Vector Word 32
  f      : Vector Word 16
  q      : Vector Bool 8
  h      : Vector (BitVec 128) 8
  st     : CtxSt
  wait   : WaitOn
  handler : Bool                -- a handler runs: the context is TRAPPED until its ERET, whatever it does (R31, R140)
  nest   : Nat                  -- handlers entered and not yet left by ERET (R141, R142)
  tm     : Bool                 -- STATUS.TM
  fpf    : BitVec 5             -- STATUS.FPF
  fpe    : BitVec 5             -- STATUS.FPE
  nseed  : Word
  nstep  : BitVec 32
  trapPc    : Word
  trapCause : Word
  trapInfo  : Word
  atomFlags : Word
  atomSet : Word                -- the flags of ATOMFLAGS that were set in this cycle (R59)
  dbg    : Word                 -- DBGCTL
  rep    : RepState             -- live REP state
  repSh  : RepState             -- REPSTA, REPLST, REPCNT
  clock  : Nat                  -- logical clock (R114)
  seq    : BitVec 32            -- number of the last command accepted (R247)
  ctrs   : Vector Counter 4
  latch  : Bool                 -- event latch (R259)
  bind   : Vector (Option Binding) 4
  sig    : Word                 -- path signature (R440)
  held   : List (Nat × WaitOn)  -- SYNCDs and atomics that keep their place under a trap, with the depth they wait at (R141)
  parked : Option Instr         -- the sleeping instruction, which is not issued again (R33)
  bars   : List BarCount
  pend   : List Pending
  lastRetire : Nat              -- cycle of the last retirement, for WDOG (R52)
  yield  : Nat                  -- passed over in R32 until this cycle (R207)
  lastIssue : Nat               -- cycle in which it last took an issue slot (R207)
  stepSeq : BitVec 32           -- command whose retirement ends the step under STEPSYNC; 0 none (R155)
deriving DecidableEq, Repr

/-! ## Blocks and nodes -/

/-- The effective fields of a block (R40, R41). -/
structure Eff where
  stones : Nat
  pond   : Nat
  flslots : Nat
  spill  : Nat
  adepth : Nat
  prio   : BitVec 3
  age    : BitVec 4
  det    : Bool
  seed   : Word
  cmills : Nat
  wdog   : Nat
  vf     : BitVec 8
  world  : Bool
  key    : BitVec 7
  khdr   : Word
  tbase  : BitVec 32
  tcount : BitVec 32
deriving DecidableEq, Repr

/-- A kernel header (R350): its addresses, run size in stones, KNET and WIDTH. -/
structure KHdr where
  cfg   : Word
  entry : Word
  trap  : Option Word
  data  : Word
  size  : Nat
  knet  : BitVec 5
  long  : Bool
deriving DecidableEq, Repr

/-- A block the device holds: one node of a launched tree (R40 to R45, R464). -/
structure Blk where
  fn     : Nat
  addr   : Word
  root   : Word
  parent : Word
  level  : Nat
  order  : Nat                  -- place in walk order (R440)
  eff    : Eff
  isNode : Bool
  fd     : Bool
  gone   : Nat                  -- own tasks that have ended
  st     : BlkSt
  cause  : BitVec 8
  retired : BitVec 32
  useStones : Nat
  usePond   : Nat
  useFl     : Nat
  spillB    : Nat               -- bytes charged to SPILL (R373)
  badTask  : Option (BitVec 32 × BitVec 8)  -- lowest-index task that did not exit, with its cause
  pages  : List Nat             -- 64 KiB units of pond pages that its tasks have used (R98)
  sigs   : List (BitVec 32 × Word)          -- path signatures of ended tasks (R440)
  hdr    : Option KHdr           -- the kernel header as checked at the first placement (R351)
  started : Bool                -- START has been broadcast, or the launch is uncut (R49)
  acks   : List Nat             -- dies that have acknowledged (R49)
  cut    : List Nat             -- dies the launch is cut across; empty: uncut
  shadow : Option (Word × Word) -- the doublewords 0x58 and 0x60 last written to the block in memory
deriving DecidableEq, Repr

/-- An entry of a die queue (R378, R380). -/
structure QEntry where
  fn    : Nat
  blk   : Word
  next  : BitVec 32             -- next unplaced task index
  last  : BitVec 32             -- one past the last index of the entry
  prio  : BitVec 3
  age   : BitVec 4
  since : Nat                   -- cycle at which the head task became the head
deriving DecidableEq, Repr

/-- A TLB entry (R402). -/
structure TlbEntry where
  fn   : Nat
  page : Word
  sz   : Nat                  -- 16, 21 or 30: log2 of the page size
  pte  : Word
deriving DecidableEq, Repr

/-- One die: its queue, head hold, ingress bucket and trigger lines (R378 to R393, R425). -/
structure Die where
  queue   : List QEntry
  holder  : Option (Nat × Word × BitVec 32 × Nat)   -- the entry that holds the head: function, block, head task, since cycle (R383)
  igctl   : Word
  igwt    : Word
  tlb2    : List TlbEntry       -- second-level TLB (R402)
  igNext  : Option (Word × Word)  -- IGCTL and IGWT from the next cycle on (R389)
  iglevel : BitVec 48
  igptr   : Nat                 -- the port whose turn it is, mill × 64 + port (R389)
  trig    : List (Nat × Nat × Bool)  -- asserted lines on their way to the sinks: line, sources that held, by SRCDIE alone
  barred  : List (Nat × Word × BitVec 32)  -- entries that may not hold the head until a run on their mills ends (R384)
deriving DecidableEq, Repr

/-! ## The fabric -/

/-- Control tokens (R293). TAG keeps the number and issue PC of its SC.TOK, which R279 needs for CHCLOSED. -/
inductive Ctl where
  | tag (ch : BitVec 12) (tag : Word) (seq : BitVec 32) (ipc : Word)
  | accsw
  | mark (n : BitVec 12)
  | relatch (page : Word) (sz : BitVec 2)
deriving DecidableEq, Repr

/-- Tokens (R293). A header says how many atoms follow it on its link: a dealt port sends every header to eight rows and
each row its share of the atoms (R357); `lone` is a short atom that a dealt port sent in a token of its own. -/
inductive Tok where
  | data (v : Word)
  | lone (v : Word)
  | hdr (h : BitVec 32) (n : Nat)
  | ctl (c : Ctl) (id : BitVec 16)
deriving DecidableEq, Repr

/-- A token in an operand slot, with the cycle of its arrival (R432). -/
structure InTok where
  tok  : Tok
  time : Nat
deriving DecidableEq, Repr

/-- A token in an output slot, with the directions it has still to leave by; `quad`: it leaves over the quad bus; `self`:
it goes to the element's own operand of source 0x7. -/
structure OutTok where
  tok  : Tok
  dirs : BitVec 4
  quad : Bool
  self : Bool
deriving DecidableEq, Repr

/-- One accumulator plane of a pulse cell (R81, R150). -/
structure AccPlane where
  acc    : Vector Int 8
  steps  : Nat
  poison : Bool
deriving DecidableEq, Repr

/-- The stream of one operand as an element sees it: the latched header and what is still due of its burst (R63, R303). -/
structure InState where
  hdr  : BitVec 32
  due  : Nat          -- atoms of the burst still due on this link
  half : Bool         -- the low atom of the packed pair at the head has been consumed
  idx  : Nat          -- elements of the head atom already consumed
  mark : Bool         -- JOIN: the end of an input tile stands at the head (R322)
deriving DecidableEq, Repr

/-- Element state: eight token slots (R294) and what section 3 of a save image keeps (R150). -/
structure Elem where
  a    : List InTok
  b    : List InTok
  c    : List InTok
  out  : List OutTok
  emit : List OutTok      -- tokens of the last firing that wait for output slots
  ia   : InState
  ib   : InState
  ic   : InState
  acc  : AccPlane         -- accumulating plane
  drn  : AccPlane         -- draining plane
  fwdLeft : Nat           -- values of the round still to forward from C (R306)
  queue : List (Option Tok) -- what is to leave behind: none, the value of the draining plane; some, a control token (R305)
  cnt  : Nat              -- atoms counted (ACCSW), values taken (DRAIN), index position (AGGATH)
  bursts : Nat            -- bursts of the tile emitted (R310); passes ended (address generators)
  turn : Nat              -- MERGE mode 0 round-robin turn
  tie  : Bool             -- MERGE mode 1: A of a tie has been taken, B is next (R323)
  lock : Option Nat       -- MERGE mode 0: the input whose burst is being taken
  stage : List Word       -- staged words, atoms or values
  stageB : List Word
  stageHdr : BitVec 32
  stageHdrB : BitVec 32
  pats : List (Option (List Int × Int))   -- encoded results of the burst being formed: none poison, ZERO as ([], 0)
  ctr  : List Nat         -- loop counters, innermost first
  ends : Bool             -- the element has ended its passes; ACCSW: the k-th atom of the count has passed
  waiting : Bool          -- no pass is in progress
  latches : List (Nat × Nat × Word)  -- latched pages: page number, log2 of its size, leaf entry (R328)
  stopped : Bool          -- stopped at its iteration by a class S fault (R144)
  ids  : List (BitVec 16) -- the last eight identities forwarded (R297)
  lastIn : BitVec 4       -- last-arrival latch (R432)
  lastWait : BitVec 32
  roomAt : Nat            -- cycle in which an output slot last fell free
  nseed : Word            -- NSEED and NSTEP read at the start of the pass (R330)
  nstep : BitVec 32
deriving DecidableEq, Repr

/-- A port declaration (R356). -/
structure PortDecl where
  present : Bool
  out  : Bool
  kind : BitVec 2
  edge : BitVec 2
  deal : Bool
  pos  : Nat
deriving DecidableEq, Repr

/-- A loop-table entry (R325). -/
structure LoopEntry where
  levels : Nat
  usz    : Nat
  esz    : Nat
  passes : Nat
  offset : Int
  counts : List Nat
  strides : List Int
  lim    : Nat
deriving DecidableEq, Repr

/-- One pattern: its word as stored in the image, NODE and LOOP (R354, R359). -/
structure Pattern where
  word : Word
  node : BitVec 16
  loop : BitVec 32
deriving DecidableEq, Repr

/-- A configuration plane (R158, R353). -/
structure Plane where
  valid  : Bool
  addr   : Word
  base   : Word               -- ABASE of its address generators (R325)
  id     : Word
  charge : Nat                -- bytes charged to SPILL for its AGST and AGRED elements (R373)
  anchor : Int
  pats   : List Pattern
  cells  : List Nat           -- per element: 0 for NONE, otherwise pattern index + 1
  ports  : List PortDecl
  convs  : List (Nat × Nat)
  loops  : List LoopEntry
  pre    : List (Nat × Nat × Nat × Word)  -- pages its address generators latched at load: element, page, log2 size, entry (R328)
deriving DecidableEq, Repr

/-- A fabric port of a run (R262, R65, R278). -/
structure Port where
  offer : List (Tok × Nat)    -- offered, not yet taken, with the words of it that the ingress meter has still to pass (R389)
  inq   : List (Tok × Nat)    -- the word taken, for the rows of a mask that it has still to reach
  outq  : List Byte           -- bytes of the unit in progress that reached the output port
  ctlq  : List (Nat × Tok)    -- control tokens at the output port, behind so many bytes
  hdr   : Option (BitVec 32)  -- burst state: the latched header
  due   : Nat                 -- atoms of the burst still due
  coord : Option (BitVec 32)  -- tagged port: coordinate word waiting for its atom
  ehdr  : BitVec 32           -- dealt input: the header of the burst being dealt
  row   : Nat                 -- dealt port: the next atom of the burst (R357)
  rowDue : List Nat           -- dealt output: atoms due of each row's burst
  deal  : List (BitVec 16 × Nat)  -- dealt output: identities and rows whose copy has arrived
  half  : Option (BitVec 16)  -- dealt output: the low short atom waiting for its partner
  cls   : BitVec 2            -- ingress token class (R278)
  path  : List (BitVec 16)    -- MARK identities already walked (R434)
  marks : List (BitVec 32 × Tok)  -- MARK tokens behind the commands accepted up to a number (R255)
deriving DecidableEq, Repr

/-- A deposit of a MARK token (R433). -/
structure PathDep where
  id   : BitVec 16
  elem : Nat
  lastIn : BitVec 4
  wait : BitVec 32
deriving DecidableEq, Repr

/-- The run of a task (R26 to R29). -/
structure Run where
  act   : Plane
  inact : Plane
  elems : List Elem
  ports : List Port
  ident : BitVec 16           -- identity counter (R293)
  anc   : List (BitVec 32 × Int × BitVec 2)  -- anchors and drain formats of the jobs that run, by command, latest first (R285)
  deps  : List PathDep
  gated : Bool                -- stopped at a firing boundary (R144, R148, R424)
  grant : List Nat            -- elements that the quad bus has granted in this cycle (R316)
  turns : List (Nat × Nat)    -- the element last granted, by quad (R316)
  stopAt : Option Nat         -- lowest element that matched a node stop in this cycle (R424)
  relq  : List (Nat × Ctl × BitVec 4)  -- re-latch tokens that enter in this cycle (R293): at a port, or from 64 on at an element
deriving DecidableEq, Repr

/-! ## Stream commands -/

/-- One interval of a footprint, at 64-byte granules (R95, R269). -/
structure Foot where
  lo    : Nat
  hi    : Nat
  write : Bool
  window : Bool               -- lies in the task's sluice window: compared within the task only (R96)
deriving DecidableEq, Repr

/-- Where a command stands (R263); finished: its last word has moved, and it has not retired. -/
inductive Phase where
  | accepted | running | finished | done | faulted
deriving DecidableEq, Repr

/-- An accepted command (R247, R248, R264). -/
structure Cmd where
  seq   : BitVec 32
  word  : BitVec 128
  base  : Word
  blk   : Word                -- block address (R264)
  raw   : List Byte           -- the block as read at acceptance
  rawErr : Option (BitVec 8 × Word)  -- the read's cause and VA where it would fault
  ipc   : Word
  phase : Phase
  prior : Phase               -- where it stood when it faulted, for RESUME (R146)
  ctr   : List Nat            -- counters, innermost first: the next iteration
  left  : List Byte           -- bytes of the unit in progress
  foot  : List Foot
  nseed : Word
  nstep : BitVec 32
  wclk  : Nat                 -- largest logical time among its writes (R121)
  psat  : Bool
  cause : BitVec 8            -- cause that ended or stopped it
  sub   : Nat                 -- progress inside the iteration (job, halo, collective)
  freed : List Nat            -- ports of a job that have taken their last word (R263)
  bits  : Nat                 -- completion bitmap of a reducing copy, a bit for each 64-byte chunk (R159)
  tiles : List Nat            -- HOME tiles a reducing copy has reached, live there until it retires (R99, R159)
  mems  : List Word           -- the member list of a collective group as it was read when the member contributed (R410)
  spilt : Bool                -- a job whose planes are spilled in its overtake area (R153)
  acc   : Nat                 -- place in the order of acceptance on the mill (R263)
deriving DecidableEq, Repr

/-! ## Deterministic state -/

/-- An atomic collected or rounded (R130, R131). -/
structure AtomRec where
  idx  : BitVec 32            -- task index
  loc  : Nat                  -- memory key
  va   : Word
  size : Nat
  op   : BitVec 4
  val  : Word
  cmp  : Word
  round : Nat                 -- its round number; 0: non-returning
  res  : Option (Word × Word) -- once its round has closed: what it found, and the value after the round
  nw   : Nat                  -- bytes its task had written in the interval when it issued
deriving DecidableEq, Repr

/-- One reducing-copy element collected in deterministic mode (R277). -/
structure RedRec where
  loc : Nat
  va  : Word
  rop : BitVec 4
  bytes : List Byte
  seq : BitVec 32            -- its command; 0: an element
deriving DecidableEq, Repr

/-- A byte of a write set, with the virtual address it was written at. -/
structure WByte where
  loc : Nat
  va  : Word
  val : Byte
deriving DecidableEq, Repr

/-- Deterministic state of a task: section 7 of a save image (R131, R150). -/
structure DetTask where
  interval : Nat
  arrived  : Bool                -- has reached its SYNCD of the interval
  writes   : List WByte
  atoms    : List AtomRec        -- its non-returning atomics of the interval, in order
  reds     : List RedRec
  stats    : List (BitVec 32 × Nat)  -- status records written at the merge: command, key (R277)
  drops    : List Nat            -- objects its fill drops publish at the merge
  launches : List Word           -- blocks DLAUNCH links at the merge
  conflict : Option Word         -- lowest conflicting byte, to be taken as DETCONFLICT
  charged  : List Nat            -- 64-byte granules charged to SPILL
deriving DecidableEq, Repr

/-- A deterministic group: the tasks of one node block (R127 to R131). -/
structure Group where
  fn     : Nat
  blk    : Word
  interval : Nat
  snap   : List Host.Cell
  rounds : List AtomRec          -- value-returning atomics of the interval, closed ones with their result
  vals   : List (Nat × Nat × Word × Nat)  -- location, size, value after the last closed round, rounds closed
deriving DecidableEq, Repr

/-! ## Tasks -/

/-- Names a task: function, node block and task index (R35). -/
structure TaskId where
  fn  : Nat
  blk : Word
  idx : BitVec 32
deriving DecidableEq, Repr

/-- A slot of a task's sluice window (R232). -/
structure WinSlot where
  slot : Nat
  obj  : Nat
  pkg  : BitVec 8
  gen  : BitVec 16
  fill : Bool
deriving DecidableEq, Repr

/-- A task (R35 to R37). -/
structure Task where
  id    : TaskId
  st    : TaskSt
  mill  : Nat                 -- die × 264 + physical mill
  canon : Nat                 -- canonical mill
  stone : Nat                 -- start stone
  size  : Nat                 -- run size in stones
  ctxNo : BitVec 4
  hdr   : Word                -- kernel header address
  trapEntry : Option Word     -- handler entry, where the header names one
  entry : Word
  dataBase : Word
  knet  : BitVec 5
  long  : Bool
  cfg   : Word                -- address of the task-start image
  eff   : Eff
  nmills : Nat                -- what NMILLS returns (R48)
  ctx   : Ctx
  run   : Run
  cmds  : List Cmd
  window : List WinSlot
  det   : DetTask
  stop  : Stop
  stopCause : BitVec 8        -- cause the task is stopped with
  saving : Bool               -- a pre-emption is in progress (R148)
  moveTo : Option (Nat × Nat) -- compaction moves the task here: mill and start stone (R384)
  restored : Bool             -- restored and not yet issued: the CTXSW record is due (R429)
  placedAt : Nat
  waitsStart : Bool           -- a cut launch's START has not come (R49)
  cause : BitVec 8            -- 0: ended by EXIT; otherwise the cause of the kill
  counted : Bool              -- its end has been counted in its blocks
  merged : Bool               -- the merge of the interval in which it exited has been made (R127)
  sampleAt : Nat              -- cycle of the next SAMPLE record (R421)
  imageSt : BitVec 8          -- STATE in the header of its last save image (R149)
deriving DecidableEq, Repr

/-! ## Channels -/

/-- A word of a channel; `handle`: half of a handle pair (R237). -/
structure ChWord where
  val    : Word
  handle : Bool
  clk    : Nat
deriving DecidableEq, Repr

/-- A halo message (R288). -/
structure HaloMsg where
  tag   : BitVec 16
  bytes : List Byte
  clk   : Nat
  src   : TaskId              -- its sender's command
  seq   : BitVec 32
  held  : Bool                -- it is held at its consumer end; across a link: it has been sent
  spilt : Nat                 -- words of it held in the spill area
deriving DecidableEq, Repr

/-- A channel of a node, from its table entry (R38, R39, R352). -/
structure Chan where
  fn     : Nat
  blk    : Word
  ch     : BitVec 12
  entry  : Word               -- address of the table entry, whose CLOSED count the device adds to
  halo   : Bool
  strict : Bool
  locend : Bool
  peer   : Nat                -- 0, or the launch link entry
  ctask  : BitVec 32
  ptask  : BitVec 32
  wire   : List ChWord        -- pushed, not yet at the consumer
  buf    : List ChWord        -- consumer buffer, at most 8 words
  spill  : List ChWord        -- spill area
  fault  : Bool               -- the spill write at the head of the wire has faulted and waits for RESUME (R157)
  fullSince : Option Nat      -- cycle in which the spill area became full
  reported  : Bool            -- SPILLFULL has been entered
  closed : Bool               -- the consumer end has closed
  peerClosed : Bool           -- producer end: the peer package has said that the consumer end there has closed
  sent   : BitVec 32          -- messages sent over a link, modulo 2^32
  got    : BitVec 32          -- messages taken from a link
  msgWire : List HaloMsg      -- halo messages on the way
  msgs   : List HaloMsg       -- halo messages that have arrived
deriving DecidableEq, Repr

/-! ## Sluice objects and flumes -/

/-- A sluice object of this package (R110, R231). -/
structure Obj where
  id    : Nat
  gen   : BitVec 16
  st    : ObjSt
  size  : Nat
  units : Nat
  tile  : Option Nat          -- pond tile that holds it, die × 64 + tile
  fn    : Nat
  blk   : Word                -- block charged
  handles : Nat               -- handles of the object, wherever they are
  remote  : List (BitVec 8 × Nat)  -- handles held by other packages (R413)
  td    : Nat                 -- logical time of the drop
deriving DecidableEq, Repr

/-- A live flume (R111, R242). -/
structure Flume where
  fn    : Nat
  hdr   : Word                -- header virtual address
  owner : TaskId
  slotsz : Nat
  slots : Nat
  bank  : Option (Nat × Nat)  -- mill and bank when STORE is 1
  base  : Word                -- SLOTBASE, or BACKING
  wr    : BitVec 32
  rd    : BitVec 32
  rd0   : BitVec 32           -- RD as the cycle began (R387)
  wclk  : Nat                 -- largest logical time of the slot writes
  pond  : List Nat            -- 64 KiB units of pond pages that its slots lie on (R98)
  gone  : Bool                -- freed
deriving DecidableEq, Repr

/-! ## Mills, tiles, trace -/

/-- A line of the reservoir (R101, R103): the function that filled it, the key slot, and the retention register whose range
pins it. -/
structure RsvLine where
  line : Nat
  fn   : Nat
  slot : BitVec 7
  pin  : Option Nat
deriving DecidableEq, Repr

/-- A trace record (R428). -/
structure TraceRec where
  fn    : Nat
  words : List Word           -- four doublewords per 32-byte record
  len   : Nat
deriving DecidableEq, Repr

/-- A mill (R92, R32, R402, R430). -/
structure Mill where
  world : Bool
  eworld : Vector Bool 4
  modes : Vector (BitVec 2) 24
  busy  : Option (Nat × BitVec 2)   -- bank change in progress
  code  : BitVec 4
  last  : BitVec 4            -- context that issued last
  tlb   : List TlbEntry
  trace : List TraceRec
  lost  : List (Nat × Nat)    -- records discarded at power gating, per function
  on    : Bool
  accn  : Nat                 -- commands accepted on the mill
  quads : List (Nat × Nat)    -- start stone of the run that each quad bus granted last (R29)
deriving DecidableEq, Repr

/-- A pond tile (R97). -/
structure Tile where
  mode   : BitVec 2
  run    : Bool
  busy   : Option (BitVec 2)  -- the mode of the change in progress
  status : BitVec 4
  owner  : BitVec 8
  world  : Bool
  pat    : Word
  dst    : Word
  used   : Nat                -- 64 KiB units allocated in a HOME tile
  copies : Nat                -- reducing copies live in the tile
  push   : List Byte          -- the pattern block of the push program
  ctr    : List Nat
  pass   : Nat
deriving DecidableEq, Repr

/-! ## Functions -/

/-- One incomplete unmap request (R403). -/
structure Unmap where
  page : Word
  sz   : BitVec 2
  runs : List (TaskId × List (Nat × Bool))   -- runs whose token has not yet emerged: the elements that had latched the page, and
                              -- whether the token has come to them
deriving DecidableEq, Repr

/-- A PCIe function: its BAR0 registers and its partition (R405, R422, R437, R454). -/
structure Fn where
  ptroot : Word
  lcode  : BitVec 4
  launches : List Word        -- queued launches
  live   : List Word          -- roots walked and not yet ended
  tcaddr : Word
  tcbusy : Bool
  tccode : BitVec 4
  tcop   : Word               -- the request in progress
  unmapva : Word
  unmaps : List Unmap
  ucode  : BitVec 4
  flbase : Word
  fllog  : BitVec 5
  flhead : BitVec 32
  fltail : BitVec 32
  fllost : BitVec 32
  ndt    : Word
  fha    : Word
  cgt    : Word
  llt    : Word
  win    : Word
  tag    : BitVec 8
  msel   : Word
  tsel   : Word
  dbgaddr : Word
  dbgop   : Word              -- the request in progress
  dbgdata : Word
  dbgbusy : Bool
  dbgcode : BitVec 4
  attach : List Word          -- blocks with a standing ATTACH of every task
  nstop  : Vector Word 4
  trbase : Word
  tren   : Bool
  frozen : Bool
  frozenDies : List (Nat × Nat)  -- frozen dies with the records discarded since
  trlog  : BitVec 5
  trhead : BitVec 32
  trtail : BitVec 32
  trlost : BitVec 32
  trig   : List (Nat × Word)  -- TRIGCFG by 32 × die + line
  rproot : Word
  rpctl  : Word
  rpcap  : Word
  rpevt  : Word
  rpout  : Word
  rpbusy : Bool
  rpmis  : Bool
  rprbusy : Bool
  rpcode : BitVec 4
  rppass : BitVec 5
  rpfirst : BitVec 5
  rpoutrec : Nat
  rpoutlost : Nat
  rpsig1 : Word
  rpsigl : Word
  rpunits : List Nat          -- captured units, oldest first, as memory keys of their first byte
  rpplan : List Word
  rpfull : Bool
  world  : Bool
  kmask  : BitVec 128
  mills  : List Nat           -- physical mill of each canonical number
  tiles  : List Nat
  lports : BitVec 18
  retain : Vector (Word × Word) 16  -- RSVBASE and RSVLIM
  msix   : BitVec 8           -- vectors fired
deriving DecidableEq, Repr

/-! ## Links, wheelhouse controller, debug port -/

/-- A race-link port (R412). -/
structure Link where
  up    : Bool
  world : Bool
  outq  : List Flit           -- sent, not acknowledged
  next  : BitVec 32           -- sequence number of the next flit to send
  got   : BitVec 32           -- sequence number of the next flit to accept
  replays : Nat               -- flit replays in the present window (R425)
  window  : Nat
deriving DecidableEq, Repr

/-- A firmware bank (R461). -/
structure FwBank where
  image  : List (Nat × Byte)
  valid  : Bool
  version : Nat
deriving DecidableEq, Repr

/-- The wheelhouse controller (R452 to R463). -/
structure Wheel where
  limctl : Word
  tel    : List (Nat × Word)  -- telemetry words by die
  temps  : List (Nat × Nat)   -- hottest sensor by die
  power  : List (Nat × Nat)   -- watts by die over the interval
  life   : List (Nat × Nat)   -- live lifetime items, keyed item × 2^20 + index
  saved  : List (Nat × Nat)   -- committed lifetime items
  lifeAt : Nat                -- when it was last committed, by `clock`
  clock  : Nat                -- time since power came: 720,720 to a mill cycle at STEP 0 (R457)
  ms     : Nat                -- 1 ms boundaries passed (R457)
  banks  : List FwBank        -- banks 0 and 1
  active : Nat                -- bank running
  select : Nat                -- bank the next reset starts
  fwbusy : Bool
  fallbk : Bool
  minver : Nat
  version : Nat               -- security version of the running image
  enabled : List (Nat × BitVec 264)   -- enabled mills by compute die
  retiredM : List (Nat × Nat)  -- die and mill marked for retirement, taken at the next reset
  dead   : List (Nat × Nat)   -- mills retired at earlier resets
  nonce  : Option Nat         -- the nonce last issued, by its place in the free sequence
  session : Bool
  opKey  : List Byte          -- the operator's key and token of the AUTH that opened the session (R453)
  lastReq : Nat               -- when the last request of the session came, by `clock`
  sr     : Vector (Word × Word) 64   -- SRBASE and SRLIM
  keys   : List (Nat × BitVec 512)
  trigOwn : List (Nat × Nat)  -- owner function by 32 × die + line
  pinIn  : List (Nat × Nat)   -- owner function of TRIGIN
  pinOut : List (Nat × Nat)
  recovery : Bool
  shut   : Bool               -- R458
  off    : Bool               -- power lost
  pkg    : BitVec 8           -- this package's id
deriving DecidableEq, Repr

/-- The debug port (R444). -/
structure Tap where
  ir   : BitVec 3             -- 0 BYPASS, 1 IDCODE, 2 SAMPLE, 3 EXTEST, 4 mailbox
  dr   : Word
  bypass : Bool
  boundary : Word             -- boundary register
  mailbox  : Bool             -- a verified debug-enable token has been presented
deriving DecidableEq, Repr

/-! ## Who moves next -/

/-- What the acting agent is about: the command, the element with the fields of its word, the event's operands. -/
structure Cursor where
  seq  : BitVec 32
  elem : Nat
  w    : ElemFields
  arg  : EvArg
deriving DecidableEq, Repr

/-- An entry of the agenda: which agent moves. -/
inductive Act where
  | issue (mill : Nat) (ctx : BitVec 4)      -- the context issues the instruction at its PC
  | cmd (t : TaskId) (seq : BitVec 32)       -- the engine advances a command
  | elem (t : TaskId) (e : Nat)              -- an element fires
  | ev (t : TaskId) (seq : BitVec 32) (e : Nat) (i : Instr) (arg : EvArg)  -- an event of a task
  | dev (i : Instr) (arg : EvArg)            -- an event of the package
deriving DecidableEq, Repr

/-- The machine. -/
structure State where
  me     : Task               -- the acting task
  tasks  : List Task          -- the other tasks
  cur    : Cursor
  agenda : List Act
  later  : List (List Act)    -- what is due later in the cycle, in the order in which it becomes the agenda
  inputs : List (Instr × EvArg)   -- what the outside presents, oldest first
  time   : Nat                -- mill cycles since reset (R428)
  free   : Nat                -- the model's own field: index of the next free value
  mem    : List Host.Cell
  lines  : List (Nat × Nat × Nat)   -- line number, wts, rts (R114)
  tops   : List (Nat × Nat)     -- largest logical time recorded, by function (R114)
  rsv    : List (Nat × List RsvLine)  -- the reservoir by set, most recently used line first (R101, R103)
  lineKeys : List (Nat × BitVec 7)  -- key slot each HBM line was last written under (R417, R418)
  ecc    : List Nat           -- lines with an uncorrectable error
  blks   : List Blk
  groups : List Group
  chans  : List Chan
  objs   : List Obj
  flumes : List Flume
  dies   : List (Nat × Die)
  mills  : List (Nat × Mill)
  tiles  : List (Nat × Tile)
  fns    : List (Nat × Fn)
  links  : List (Nat × Link)
  peers  : List (Nat × BitVec 32 × BitVec 32)  -- by package: messages of no channel sent to it, and taken from it
  shares : List (CollShare × Nat)   -- contributions of members of other packages, with their logical times (R290)
  wh     : Wheel
  tap    : Tap
  dtrace : List (Nat × TraceRec)    -- die buffers: die and record (R430)
  trigSrc : List (Nat × Nat × Nat × Nat)  -- trigger source events of this cycle: function, die, TRIGCFG bit, line (R425)
  pinsIn  : BitVec 4
  pinsOut : BitVec 4
  reply  : List Byte          -- the last MCTP reply
  bar2   : Option (List Byte) -- the last BAR2 completion, with the bytes a read returns; none: Unsupported Request
deriving DecidableEq, Repr

/-! ## Reset

Every field at the value the spec states; where it states none, the value a log entry names (log 1: zero, empty or
idle). -/

/-- No REP state. -/
def RepState.none : RepState := ⟨0, 0, 0⟩

/-- A context of no task, and the file registers of a task at its start: all zero (R36). -/
def Ctx.reset : Ctx where
  pc := 0
  g := Vector.replicate 32 0
  f := Vector.replicate 16 0
  q := Vector.replicate 8 false
  h := Vector.replicate 8 0
  st := .free
  wait := .none
  handler := false
  nest := 0
  tm := false
  fpf := 0
  fpe := 0
  nseed := 0
  nstep := 0
  trapPc := 0
  trapCause := 0
  trapInfo := 0
  atomFlags := 0
  atomSet := 0
  dbg := 0
  rep := .none
  repSh := .none
  clock := 0
  seq := 0
  ctrs := Vector.replicate 4 ⟨0, false, 0, Option.none⟩
  latch := false
  bind := Vector.replicate 4 Option.none
  sig := 0
  held := []
  parked := Option.none
  bars := []
  pend := []
  lastRetire := 0
  yield := 0
  lastIssue := 0
  stepSeq := 0

/-- Effective fields of no block. -/
def Eff.zero : Eff := ⟨0, 0, 0, 0, 1, 0, 0, false, 0, 0, 0, 0, false, 0, 0, 0, 0⟩

/-- A die after reset (R388: every weight is 1). -/
def Die.reset : Die := ⟨[], Option.none, 0, 0x01010101, [], Option.none, 0, 0, [], []⟩

/-- A cleared accumulator plane. -/
def AccPlane.zero : AccPlane := ⟨Vector.replicate 8 0, 0, false⟩

/-- No header latched. -/
def InState.zero : InState := ⟨0, 0, false, 0, false⟩

/-- An element of a plane that has just become active (R283): empty buffers, cleared planes, counters at zero. -/
def Elem.zero : Elem where
  a := []
  b := []
  c := []
  out := []
  emit := []
  ia := .zero
  ib := .zero
  ic := .zero
  acc := .zero
  drn := .zero
  fwdLeft := 0
  queue := []
  cnt := 0
  bursts := 0
  turn := 0
  tie := false
  lock := Option.none
  stage := []
  stageB := []
  stageHdr := 0
  stageHdrB := 0
  pats := []
  ctr := []
  ends := false
  waiting := true
  latches := []
  stopped := false
  ids := []
  lastIn := 0
  lastWait := 0
  roomAt := 0
  nseed := 0
  nstep := 0

/-- An invalid plane. -/
def Plane.empty : Plane := ⟨false, 0, 0, 0, 0, 0, [], [], [], [], [], []⟩

/-- A port that has not been bound since its run was placed (R278). -/
def Port.reset : Port := ⟨[], [], [], [], Option.none, 0, Option.none, 0, 0, [], [], Option.none, 0, [], []⟩

/-- A run of no task. -/
def Run.empty : Run := ⟨.empty, .empty, [], [], 0, [], [], false, [], [], Option.none, []⟩

/-- No deterministic state. -/
def DetTask.zero : DetTask := ⟨0, false, [], [], [], [], [], [], Option.none, []⟩

/-- No task. -/
def Task.idle : Task where
  id := ⟨0, 0, 0⟩
  st := .idle
  mill := 0
  canon := 0
  stone := 0
  size := 1
  ctxNo := 0
  hdr := 0
  trapEntry := Option.none
  entry := 0
  dataBase := 0
  knet := 0
  long := false
  cfg := 0
  eff := .zero
  nmills := 0
  ctx := .reset
  run := .empty
  cmds := []
  window := []
  det := .zero
  stop := .none
  stopCause := 0
  saving := false
  moveTo := Option.none
  restored := false
  placedAt := 0
  waitsStart := false
  cause := 0
  counted := false
  merged := false
  sampleAt := 0
  imageSt := 0

/-- A mill after reset: every bank in CACHE mode, non-secure (R92, R414). -/
def Mill.reset : Mill :=
  ⟨false, Vector.replicate 4 false, Vector.replicate 24 0, Option.none, 0, 15, [], [], [], true, 0, []⟩

/-- A pond tile after reset: CACHE (R97). -/
def Tile.reset : Tile := ⟨0, false, Option.none, 0, 0, false, 0, 0, 0, 0, [], [], 0⟩

/-- A function after reset (R405, R422, R437): every register zero but FLCTL.LOG2N 4 and TRCTL.LOG2N 7. -/
def Fn.reset : Fn where
  ptroot := 0
  lcode := 0
  launches := []
  live := []
  tcaddr := 0
  tcbusy := false
  tccode := 0
  tcop := 0
  unmapva := 0
  unmaps := []
  ucode := 0
  flbase := 0
  fllog := 4
  flhead := 0
  fltail := 0
  fllost := 0
  ndt := 0
  fha := 0
  cgt := 0
  llt := 0
  win := 0
  tag := 0
  msel := 0
  tsel := 0
  dbgaddr := 0
  dbgop := 0
  dbgdata := 0
  dbgbusy := false
  dbgcode := 0
  attach := []
  nstop := Vector.replicate 4 0
  trbase := 0
  tren := false
  frozen := false
  frozenDies := []
  trlog := 7
  trhead := 0
  trtail := 0
  trlost := 0
  trig := []
  rproot := 0
  rpctl := 0
  rpcap := 0
  rpevt := 0
  rpout := 0
  rpbusy := false
  rpmis := false
  rprbusy := false
  rpcode := 0
  rppass := 0
  rpfirst := 0
  rpoutrec := 0
  rpoutlost := 0
  rpsig1 := 0
  rpsigl := 0
  rpunits := []
  rpplan := []
  rpfull := false
  world := false
  kmask := 0
  mills := []
  tiles := []
  lports := 0
  retain := Vector.replicate 16 (0, 0)
  msix := 0

/-- A race-link port after reset. -/
def Link.reset : Link := ⟨true, false, [], 0, 0, 0, 0⟩

/-- The wheelhouse controller after reset: LIMCTL holds PLIM 3,000 and TLIM 105 (R456); mills 0 to 255 of each die are
enabled (log 8). -/
def Wheel.reset : Wheel where
  limctl := 0x00690BB8
  tel := []
  temps := []
  power := []
  life := []
  saved := []
  lifeAt := 0
  clock := 0
  ms := 0
  banks := [⟨[], false, 0⟩, ⟨[], false, 0⟩]
  active := 0
  select := 0
  fwbusy := false
  fallbk := false
  minver := 0
  version := 0
  enabled := (List.range 8).map (fun d => (d, BitVec.ofNat 264 (2 ^ 256 - 1)))
  retiredM := []
  dead := []
  nonce := Option.none
  session := false
  opKey := []
  lastReq := 0
  sr := Vector.replicate 64 (0, 0)
  keys := []
  trigOwn := []
  pinIn := []
  pinOut := []
  recovery := false
  shut := false
  off := false
  pkg := 0

/-- The debug port after reset. -/
def Tap.reset : Tap := ⟨1, 0, false, 0, false⟩

/-- The machine right after reset: no task, nothing queued, memory listing nothing. -/
def State.reset : State where
  me := .idle
  tasks := []
  cur := ⟨0, 0, ⟨0, 0, 0, 0, 0, 0⟩, .none⟩
  agenda := []
  later := []
  inputs := []
  time := 0
  free := 0
  mem := []
  lines := []
  tops := []
  rsv := []
  lineKeys := []
  ecc := []
  blks := []
  groups := []
  chans := []
  objs := []
  flumes := []
  dies := []
  mills := []
  tiles := []
  fns := []
  links := []
  peers := []
  shares := []
  wh := .reset
  tap := .reset
  dtrace := []
  trigSrc := []
  pinsIn := 0
  pinsOut := 0
  reply := []
  bar2 := Option.none

end Sys2Proof.Machine
end

