-- ==== Sys2Proof/Machine/Mem.lean ====
section
/-!
DEFINITION. Sys2Proof/Machine/Mem.lean: memory as one canonical list of cells over the machine's storage spaces, and the
logical times of its lines (R4, R89 to R91, R113, R114, R397).

A key is space × 2^60 + offset. Space 0 is HBM by physical address, 1 the pond by its physical address (die 28:26, tile
25:20, byte 19:0), 2 host memory by PCIe address, 3 the SRAM banks by ((mill × 24 + bank) × 65,536 + byte), 4 sluice
storage by object × 2^24 + byte (log 10). A byte nothing has written reads 0 (log 2).
-/

namespace Sys2Proof.Machine

/-- The storage spaces. -/
def spHbm : Nat := 0
def spPond : Nat := 1
def spHost : Nat := 2
def spBank : Nat := 3
def spSluice : Nat := 4

/-- The key of an offset in a space. -/
def keyOf (space off : Nat) : Nat := space * 2 ^ 60 + off
/-- The space of a key. -/
def spaceOf (k : Nat) : Nat := k / 2 ^ 60

/-- What an unlisted byte reads as (log 2). -/
def unlisted : Byte := 0

/-- Addresses strictly rise and no entry equals what an unlisted byte reads as. -/
def Memory.wf : List Host.Cell → Bool
  | [] => true
  | [(_, v)] => v != unlisted
  | (a, v) :: (b, w) :: rest => v != unlisted && a < b && Memory.wf ((b, w) :: rest)

/-- One byte. -/
def memGet : List Host.Cell → Nat → Byte
  | [], _ => unlisted
  | (a, v) :: rest, k => if a = k then v else memGet rest k

/-- Write one byte, keeping the canonical form. -/
def memSet : List Host.Cell → Nat → Byte → List Host.Cell
  | [], k, x => if x = unlisted then [] else [(k, x)]
  | (a, v) :: rest, k, x =>
    if k < a then (if x = unlisted then (a, v) :: rest else (k, x) :: (a, v) :: rest)
    else if k = a then (if x = unlisted then rest else (k, x) :: rest)
    else (a, v) :: memSet rest k x

/-- `n` bytes from a key upward. -/
def memBytes (m : List Host.Cell) (k : Nat) : Nat → List Byte
  | 0 => []
  | n + 1 => memGet m k :: memBytes m (k + 1) n

/-- Write bytes from a key upward. -/
def memPut (m : List Host.Cell) (k : Nat) : List Byte → List Host.Cell
  | [] => m
  | b :: bs => memPut (memSet m k b) (k + 1) bs

/-- `n` bytes as a number, little-endian (R4). -/
def memNat (m : List Host.Cell) (k n : Nat) : Nat := leNat (memBytes m k n)

/-- Clear `n` bytes from a key upward: drop every entry in the range. -/
def memClear (m : List Host.Cell) (k n : Nat) : List Host.Cell := m.filter fun c => !(k ≤ c.1 && c.1 < k + n)

/-! ## Line times (R114) -/

/-- The 128-byte line of a key. -/
def lineOf (k : Nat) : Nat := k / 128

/-- The lines that `n` bytes at a key lie in. -/
def lineSpan (k n : Nat) : List Nat :=
  if n = 0 then [] else (List.range (lineOf (k + n - 1) - lineOf k + 1)).map (lineOf k + ·)

/-- wts and rts of the line of a key; 0 for a line nothing has accessed. -/
def lineTimes (l : List (Nat × Nat × Nat)) (k : Nat) : Nat × Nat := aget (0, 0) l (lineOf k)

/-- A logical time is recorded in a function's partition (R114). -/
def State.noteTime (s : State) (fn t : Nat) : State := { s with tops := aset s.tops fn (max t (aget 0 s.tops fn)) }

/-- A load at clock `c`: its logical time, and the lines with rts extended to the end of the lease. -/
def loadTime (s : State) (k c : Nat) : Nat × State :=
  let (w, r) := lineTimes s.lines k
  let t := max c w
  let lease := (Config.lease s.free).toNat + 1
  (t, { s with lines := aset s.lines (lineOf k) (w, max r (t + lease)), free := s.free + 1 })

/-- A load of `n` bytes at clock `c`, a load of each line it touches: the logical time it has reached, and the lines. -/
def loadTimes (s : State) (k n c : Nat) : Nat × State :=
  (lineSpan k n).foldl (fun (a : Nat × State) l => loadTime a.2 (128 * l) a.1) (c, s)

/-- A load from one line of host memory at clock `c` (R401): its logical time, and the line with rts there, for no lease is held. -/
def hostTime (s : State) (line c : Nat) : Nat × State :=
  let (w, r) := aget (0, 0) s.lines line
  let t := max c w
  (t, { s with lines := aset s.lines line (w, max r t) })

/-- A load of `n` bytes of host memory at clock `c`. -/
def hostTimes (s : State) (k n c : Nat) : Nat × State :=
  (lineSpan k n).foldl (fun (a : Nat × State) l => hostTime a.2 l a.1) (c, s)

/-- A store to one line at clock `c`: its logical time, and the line with wts and rts there. -/
def lineStore (s : State) (line c : Nat) : Nat × State :=
  let (w, r) := aget (0, 0) s.lines line
  let t := max c (max (r + 1) (w + 1))
  (t, { s with lines := aset s.lines line (t, t) })

/-- A store of `n` bytes at clock `c`, one store for each line it touches (R120): the largest of their logical times. -/
def storeTime (s : State) (k n c : Nat) : Nat × State :=
  (lineSpan k n).foldl (fun (a : Nat × State) l =>
    let r := lineStore a.2 l c
    (max a.1 r.1, r.2)) (c, s)

/-- The largest rts of the lines of `n` bytes is recorded in a function's partition. -/
def State.noteLines (s : State) (fn k n : Nat) : State :=
  s.noteTime fn ((lineSpan k n).foldl (fun m l => max m (aget (0, 0) s.lines l).2) 0)

/-- A store over all of `n` bytes at clock `c` at one logical time (R124), which every line that has been accessed takes. -/
def wholeTime (s : State) (k n c : Nat) : Nat × State :=
  let inside (l : Nat) : Bool := lineOf k ≤ l && l ≤ lineOf (k + n - 1)
  let t := s.lines.foldl (fun m x => if inside x.1 then max m (max (x.2.1 + 1) (x.2.2 + 1)) else m) (max c 1)
  (t, { s with lines := s.lines.map fun x => if inside x.1 then (x.1, t, t) else x })

/-- Write bytes at a key in a function's partition, from a party with clock `c`. -/
def storeAt (s : State) (fn k : Nat) (bs : List Byte) (c : Nat) : Nat × State :=
  let r := storeTime s k bs.length c
  (r.1, ({ r.2 with mem := memPut r.2.mem k bs } : State).noteTime fn r.1)

/-- The largest logical time recorded in a function's partition (R114: where a task's clock starts). -/
def maxTime (s : State) (fn : Nat) : Nat := aget 0 s.tops fn

end Sys2Proof.Machine
end

