-- ==== Sys2Proof/Machine/Ops.lean ====
section
/-!
DEFINITION. Sys2Proof/Machine/Ops.lean: the named operations on the state that every meaning uses: who acts, the agents
by number, event counters, taking an exception and returning from one (R135 to R142), and finishing an instruction
(R203, R254, R154).
-/

namespace Sys2Proof.Machine

/-- What a meaning answers. -/
abbrev Res := Host.Outcome State Fault Refusal

/-! ## Agents by number -/

/-- A mill. -/
def State.mill (s : State) (n : Nat) : Mill := aget .reset s.mills n
/-- Replace a mill. -/
def State.setMill (s : State) (n : Nat) (m : Mill) : State := { s with mills := aset s.mills n m }
/-- A die. -/
def State.die (s : State) (n : Nat) : Die := aget .reset s.dies n
/-- Replace a die. -/
def State.setDie (s : State) (n : Nat) (d : Die) : State := { s with dies := aset s.dies n d }
/-- A pond tile. -/
def State.tile (s : State) (n : Nat) : Tile := aget .reset s.tiles n
/-- Replace a pond tile. -/
def State.setTile (s : State) (n : Nat) (t : Tile) : State := { s with tiles := aset s.tiles n t }
/-- A function. -/
def State.fn (s : State) (n : Nat) : Fn := aget .reset s.fns n
/-- Replace a function. -/
def State.setFn (s : State) (n : Nat) (f : Fn) : State := { s with fns := aset s.fns n f }
/-- A race-link port. -/
def State.link (s : State) (n : Nat) : Link := aget .reset s.links n
/-- Replace a race-link port. -/
def State.setLink (s : State) (n : Nat) (l : Link) : State := { s with links := aset s.links n l }

/-- The die of a mill. -/
def dieOf (mill : Nat) : Nat := mill / Config.millsPerDie

/-- Change the acting task. -/
def State.mapMe (s : State) (f : Task → Task) : State := { s with me := f s.me }
/-- Change the acting context. -/
def State.mapCtx (s : State) (f : Ctx → Ctx) : State := { s with me := { s.me with ctx := f s.me.ctx } }
/-- Change the acting run. -/
def State.mapRun (s : State) (f : Run → Run) : State := { s with me := { s.me with run := f s.me.run } }

/-- Every task, the acting one first. -/
def State.all (s : State) : List Task := s.me :: s.tasks

/-- Change the tasks that satisfy a test. -/
def State.mapTasks (s : State) (p : Task → Bool) (f : Task → Task) : State :=
  let g (t : Task) : Task := if p t then f t else t
  { s with me := g s.me, tasks := s.tasks.map g }

/-- Change the task of a name. -/
def State.mapTask (s : State) (t : TaskId) (f : Task → Task) : State := s.mapTasks (fun x => x.id == t) f

/-- The task of a name. -/
def State.task? (s : State) (t : TaskId) : Option Task := s.all.find? fun x => x.id == t

/-- The block of an address. -/
def State.blk? (s : State) (fn : Nat) (a : Word) : Option Blk := s.blks.find? fun b => b.fn == fn && b.addr == a

/-- Change a block. -/
def State.mapBlk (s : State) (fn : Nat) (a : Word) (f : Blk → Blk) : State :=
  { s with blks := s.blks.map fun b => if b.fn == fn && b.addr == a then f b else b }

/-- The ancestors of a block, itself first; `n` bounds the walk (levels 0 to 7, R43). -/
def State.chain (s : State) (fn : Nat) (a : Word) : Nat → List Blk
  | 0 => []
  | n + 1 =>
    match s.blk? fn a with
    | none => []
    | some b => b :: (if b.level = 0 then [] else s.chain fn b.parent n)

/-- The block and every ancestor. -/
def State.lineage (s : State) (fn : Nat) (a : Word) : List Blk := s.chain fn a 8

/-- Change a block and every ancestor (R44). -/
def State.mapLineage (s : State) (fn : Nat) (a : Word) (f : Blk → Blk) : State :=
  let l := (s.lineage fn a).map (·.addr)
  { s with blks := s.blks.map fun b => if b.fn == fn && l.contains b.addr then f b else b }

/-- The blocks of the subtree of a block, itself among them: those whose lineage holds it. -/
def State.subtree (s : State) (fn : Nat) (a : Word) : List Blk :=
  s.blks.filter fun b => b.fn == fn && (s.lineage fn b.addr).any fun x => x.addr == a

/-- The 64 KiB units of pond pages that a block's subtree holds beside its sluice objects: pages its tasks have used, and the
slots of its live flumes (R44, R98; DEDUCED, log 99). -/
def State.pondPages (s : State) (fn : Nat) (a : Word) : List Nat :=
  let bs := s.subtree fn a
  (bs.flatMap (·.pages) ++ s.flumes.flatMap fun f =>
    if !f.gone && f.fn == fn && bs.any (fun b => b.addr == f.owner.blk) then f.pond else []).eraseDups

/-- The node block of the acting task. -/
def State.node (s : State) : Option Blk := s.blk? s.me.id.fn s.me.id.blk

/-- A task is on the hardware: it holds a run and a context. -/
def Task.isPlaced (t : Task) : Bool := t.st == .placed || t.st == .draining

/-- The task on a context of a mill. -/
def State.onCtx (s : State) (mill : Nat) (c : BitVec 4) : Option TaskId :=
  (s.all.find? fun t => t.isPlaced && t.mill == mill && t.ctxNo == c).map (·.id)

/-- Bring a task into focus. -/
def State.focus (s : State) (t : TaskId) : Option State :=
  if s.me.id = t then some s
  else match s.tasks.find? fun x => x.id == t with
    | none => none
    | some x => some { s with me := x, tasks := s.me :: s.tasks.filter fun y => y.id != t }

/-- Take a free value's place in the sequence of choices (log 7). -/
def State.choose (s : State) : Nat × State := (s.free, { s with free := s.free + 1 })

/-! ## Event counters (R254, R435, R436) -/

/-- Add to a counter that is on and counts the event; a wrap is noted for COUNTER_WRAP. -/
def Counter.count (e : Nat) (n : Nat) (c : Counter) : Counter :=
  if c.on && c.ev.toNat == e then
    let v := c.val.toNat + n
    { c with val := BitVec.ofNat 48 v, wrapped := if 2 ^ 48 ≤ v then some c.ev else c.wrapped }
  else c

/-- Count `n` events of a context. -/
def Ctx.count (e n : Nat) (c : Ctx) : Ctx := { c with ctrs := c.ctrs.map (Counter.count e n) }

/-- Count `n` events of the acting task. -/
def State.count (s : State) (e n : Nat) : State := s.mapCtx (Ctx.count e n)

/-- Count `n` events of a task: its counters stop while it is SWAPPED (R254). -/
def State.countFor (s : State) (t : TaskId) (e n : Nat) : State :=
  s.mapTask t fun x => if x.isPlaced && x.ctx.st != .swapped then { x with ctx := x.ctx.count e n } else x

/-! ## Trigger sources and MSI-X -/

/-- Note a trigger source event of this cycle (R425): TRIGCFG bit `b`, on a die, for a function. -/
def State.source (s : State) (fn die b line : Nat) : State := { s with trigSrc := (fn, die, b, line) :: s.trigSrc }

/-- A source event of the acting task. -/
def State.mySource (s : State) (b line : Nat) : State := s.source s.me.id.fn (dieOf s.me.mill) b line

/-- Fire an MSI-X vector of a function (R404). -/
def State.msix (s : State) (fn v : Nat) : State :=
  let f := s.fn fn
  s.setFn fn { f with msix := f.msix ||| BitVec.ofNat 8 (2 ^ v) }

/-! ## Lifetime items (R459) -/

/-- The width of an item's counters. -/
def lifeWidth (item : Nat) : Nat := if item = 4 || item = 6 then 48 else 32

/-- The key of an item's counter. -/
def lifeKey (item idx : Nat) : Nat := item * 2 ^ 20 + idx

/-- Count into the lifetime store; a counter saturates. -/
def State.lifeAdd (s : State) (item idx n : Nat) : State :=
  let k := lifeKey item idx
  { s with wh := { s.wh with life := aset s.wh.life k (min (2 ^ lifeWidth item - 1) (aget 0 s.wh.life k + n)) } }

/-! ## Trace records (R428 to R431, R427) -/

/-- Doubleword 0 of a record of a task (R428). -/
def traceHead (t : Task) (type len : Nat) : Word :=
  BitVec.ofNat 64 (type + len * 2 ^ 8 + t.ctxNo.toNat * 2 ^ 16 + (t.mill % Config.millsPerDie) * 2 ^ 20 +
    (dieOf t.mill % 8) * 2 ^ 29 + t.id.idx.toNat * 2 ^ 32)

/-- Record an entry of a task: into the mill's buffer, or discarded and counted where the function's recorders on the die
are frozen (R427). Records are written only while TRCTL.EN is 1. -/
def State.traceOf (s : State) (t : Task) (type : Nat) (d0 d1 : Word) (more : List Word) : State :=
  let f := s.fn t.id.fn
  let die := dieOf t.mill
  if !f.tren then s
  else if f.frozenDies.any (fun x => x.1 == die) then
    s.setFn t.id.fn { f with frozenDies := f.frozenDies.map fun x => if x.1 == die then (x.1, x.2 + 1 + more.length / 4) else x }
  else
    let n := 1 + more.length / 4
    let m := s.mill t.mill
    s.setMill t.mill { m with
      trace := m.trace ++ [⟨t.id.fn, [traceHead t type n, BitVec.ofNat 64 s.time, d0, d1] ++ more, n⟩] }

/-- A record of the acting task. -/
def State.trace (s : State) (type : Nat) (d0 d1 : Word) : State := s.traceOf s.me type d0 d1 []

/-! ## Counters that wrap (R436) -/

/-- The OVF record of a counter of the acting task that has wrapped, with the event it counted; MSI-X vector 3 fires. -/
def State.wrapRecord (s : State) (i : Fin 4) : State :=
  let c := s.me.ctx.ctrs[i]
  match c.wrapped with
  | none => s
  | some e =>
    let s1 := s.mapCtx fun x => { x with ctrs := x.ctrs.set i { c with wrapped := none } }
    ((s1.trace 0x07 (BitVec.ofNat 64 i.val) (e.setWidth 64)).msix s.me.id.fn 3).mySource 8 0

/-- The records of all counters of the acting task that have wrapped, before it leaves its mill. -/
def State.wrapRecords (s : State) : State := (List.finRange 4).foldl State.wrapRecord s

/-! ## CTXID and element names -/

/-- CTXID (R229). -/
def Task.ctxid (t : Task) : Word :=
  BitVec.ofNat 64 (t.ctxNo.toNat + (t.mill % Config.millsPerDie) * 2 ^ 4 + (dieOf t.mill % 8) * 2 ^ 13 +
    t.id.idx.toNat * 2 ^ 32)

/-- Lanes of a run (R27). -/
def Task.lanes (t : Task) : Nat := 8 * t.size

/-- The pattern of an element of the active plane; none for NONE. -/
def Plane.pattern? (p : Plane) (e : Nat) : Option Pattern :=
  match p.cells.getD e 0 with
  | 0 => none
  | n + 1 => p.pats[n]?

/-- The name of an element in the layout of R139. -/
def elemName (t : Task) (e : Nat) : Word :=
  let (node, loop) := match t.run.act.pattern? e with
    | none => (0, 0)
    | some p => (p.node.toNat, p.loop.toNat)
  BitVec.ofNat 64 (node + loop * 2 ^ 16 + (e / t.lanes % 8) * 2 ^ 48 + (e % t.lanes % 128) * 2 ^ 51)

/-! ## Trap causes and classes (R143) -/

def tcILLOP : BitVec 8 := 0x01
def tcPRIV : BitVec 8 := 0x02
def tcALIGN : BitVec 8 := 0x03
def tcPGFLT : BitVec 8 := 0x04
def tcPROT : BitVec 8 := 0x05
def tcNOISEWR : BitVec 8 := 0x06
def tcHANDLEBAD : BitVec 8 := 0x07
def tcSLABANDON : BitVec 8 := 0x08
def tcDETCONFLICT : BitVec 8 := 0x09
def tcCHCLOSED : BitVec 8 := 0x0A
def tcCFGUE : BitVec 8 := 0x0B
def tcCFGREJ : BitVec 8 := 0x0C
def tcECCUE : BitVec 8 := 0x0D
def tcWATCHDOG : BitVec 8 := 0x0E
def tcSPILLFLT : BitVec 8 := 0x0F
def tcSPILLFULL : BitVec 8 := 0x10
def tcBURSTBAD : BitVec 8 := 0x11
def tcATOMINV : BitVec 8 := 0x12
def tcFPX : BitVec 8 := 0x13
def tcBKPT : BitVec 8 := 0x14
def tcSTEP : BitVec 8 := 0x15
def tcSEVERED : BitVec 8 := 0x16
def tcTRIGSTOP : BitVec 8 := 0x17
def tcBUDGET : BitVec 8 := 0x18
def tcSYSCALL : BitVec 8 := 0x19

/-- Delivery classes (R136, R143). -/
inductive TrapClass where
  | p | s | d
deriving DecidableEq, Repr

/-- The class of a cause by its origin: 0 instruction, 1 command, 2 element, 3 device. -/
def classOf (cause : BitVec 8) (origin : BitVec 2) : TrapClass :=
  if cause == tcBKPT || cause == tcSTEP || cause == tcTRIGSTOP then .d
  else if cause == tcECCUE || cause == tcBURSTBAD then .s
  else if (cause == tcPGFLT || cause == tcPROT || cause == tcNOISEWR || cause == tcALIGN || cause == tcILLOP) &&
    (origin == 1 || origin == 2) then .s
  else .p

/-! ## Taking an exception (R135 to R142) -/

/-- A trap to take: its cause, origin, whether it is asynchronous, the command it names, TRAPINFO and the PC that TRAPPC
takes (R137 to R139). -/
structure Trap where
  cause  : BitVec 8
  origin : BitVec 2
  async  : Bool
  seq    : BitVec 32
  info   : Word
  pc     : Word
deriving DecidableEq, Repr

/-- TRAPCAUSE of a trap (R138). -/
def Trap.word (t : Trap) : Word :=
  BitVec.ofNat 64 (t.cause.toNat + t.origin.toNat * 2 ^ 8 + bool1 t.async * 2 ^ 10 +
    (if t.origin == 1 then t.seq.toNat else 0) * 2 ^ 32)

/-- DBGCTL.ATT (R421). -/
def Ctx.attached (c : Ctx) : Bool := bitAt c.dbg 0

/-- The place a sleeping SYNCD or atomic keeps under a trap, with the number of handlers it was inside (R141). -/
def heldBy (h : List (Nat × WaitOn)) (nest : Nat) : WaitOn → List (Nat × WaitOn)
  | .syncd => (nest, .syncd) :: h
  | .atomicRound l => (nest, .atomicRound l) :: h
  | _ => h

/-- An instruction of the present depth keeps its place. -/
def Ctx.keeps (c : Ctx) (w : WaitOn) : Bool := c.held.contains (c.nest, w)

/-- An instruction that a handler now running has interrupted keeps its place (R141). -/
def Ctx.keepsBelow (c : Ctx) (w : WaitOn) : Bool := c.held.any fun x => x.1 < c.nest && x.2 == w

/-- The place of the present depth is given up. -/
def Ctx.unhold (c : Ctx) (w : WaitOn) : Ctx := { c with held := c.held.filter fun x => x != (c.nest, w) }

/-- A trap stops the task for the debugger (R136, R423): class D with a debugger attached, and every TRIGSTOP. -/
def Ctx.debugStop (c : Ctx) (t : Trap) : Bool :=
  classOf t.cause t.origin == .d && (c.attached || t.cause == tcTRIGSTOP)

/-- The context goes on in the handler that its header names; with none the task stops for the driver (R136, R344). -/
def Ctx.handle (c : Ctx) : Option Word → Ctx × Stop
  | none => (c, .driver)
  | some a => ({ c with tm := true, handler := true, nest := c.nest + 1, pc := a }, .none)

/-- Trap entry of a context: TRAPPC, TRAPCAUSE and TRAPINFO, STATUS.TM, the REP shadow, and where the context goes on
(R136 to R138, R142, R205). The second component says for whom the task is stopped. A stop for the debugger is taken as such
whatever STATUS.TM holds (R136; log 22). -/
def Ctx.enterTrap (c : Ctx) (handler : Option Word) (t : Trap) : Ctx × Stop :=
  let cls := classOf t.cause t.origin
  if c.tm && cls != .s && !c.debugStop t then
    ({ c with
        trapCause := setBits (setBit c.trapCause 11 true) 16 8 t.cause.toNat
        st := .trapped
        held := heldBy c.held c.nest c.wait
        parked := none
        wait := .none }, .driver)
  else
    let c1 := { c with
      trapPc := t.pc
      trapCause := t.word
      trapInfo := t.info
      repSh := if c.rep.count = 0 then .none else c.rep
      rep := .none
      st := .trapped
      held := heldBy c.held c.nest c.wait
      parked := none
      wait := .none }
    match cls with
    | .s => (c1, .driver)
    | .d =>
      if c.debugStop t then (c1, .debugger)
      else c1.handle handler
    | .p => c1.handle handler

/-- The acting task takes a trap (R136): the STOP record of a stop for the debugger is written with it (R429). -/
def State.trap (s : State) (t : Trap) : State :=
  let (c, stop) := s.me.ctx.enterTrap s.me.trapEntry t
  let s1 : State := { s with me := { s.me with
    ctx := { c with lastRetire := s.time }
    stop := stop
    stopCause := if stop = .none then s.me.stopCause else t.cause } }
  let s2 := if t.cause == tcPGFLT then s1.mySource 5 0 else s1
  let s3 := if t.cause == tcECCUE then s2.mySource 4 0 else s2
  let s4 := if t.cause == tcWATCHDOG then s3.mySource 6 0 else s3
  if stop = .debugger then s4.trace 0x04 (if t.origin == 2 then t.info else 0) t.word else s4

/-- A synchronous trap (R135, R137): TRAPPC takes PC as it stands, that of the trapping instruction, or the next one
where the instruction has retired (SYSCALL, BKPT, STEP, DETCONFLICT). -/
def State.trapAt (s : State) (cause : BitVec 8) (info : Word) : State :=
  s.trap ⟨cause, 0, false, 0, info, s.me.ctx.pc⟩

/-- Return from a trap (R140, R205): PC, STATUS.TM, the REP state, RUNNABLE. -/
def Ctx.returnTrap (c : Ctx) : Ctx :=
  { c with
    pc := c.trapPc
    tm := false
    handler := false
    nest := c.nest - 1
    st := .runnable
    rep := if c.repSh.count = 0 then .none else c.repSh }

/-- A pending trap that stops the task at once, its run gated until the context takes it (R144, R424, R426). -/
def Pending.stops (p : Pending) : Bool := p.sev || (p.cause == tcTRIGSTOP && !p.late)

/-- The acting context takes a pending trap at its next instruction (R143); the run stops with a trigger stop that has waited for the
step boundary (R443). -/
def State.takePend (s : State) (p : Pending) : State :=
  ((if p.late then s.mapRun fun r => { r with gated := true } else s).mapCtx fun c => { c with pend := c.pend.erase p }).trap
    ⟨p.cause, p.origin, true, p.seq, p.info, s.me.ctx.pc⟩

/-- A trap that arises outside the instruction waits for the context's next issue slot (R143). While the context is
TRAPPED a further ATOMINV sets its flag only (R60). One that arises while another still waits is merged into it, which keeps
the first element's name: the spec does not say (DESIGN CHOICE, log 96). -/
def Ctx.post (c : Ctx) (p : Pending) : Ctx :=
  if p.cause == tcATOMINV && (c.st == .trapped || c.handler || c.pend.any fun x => x.cause == tcATOMINV) then c
  else { c with pend := c.pend ++ [p] }

/-! ## Finishing an instruction -/

/-- The address after an instruction of `n` literal words. -/
def pcAfter (pc : Word) (n : Nat) : Word := pc + BitVec.ofNat 64 (4 * (1 + n))

/-- The PC and the REP state after the instruction at PC retires, where it falls through to `next` (R203): at the last
instruction of a body the count decreases, and above zero the PC returns to the body's start. -/
def Ctx.advance (c : Ctx) (next : Word) : Ctx :=
  if c.rep.count ≠ 0 && c.rep.stop.toNat ≤ c.pc.toNat then
    let n := c.rep.count - 1
    if n = 0 then { c with pc := next, rep := .none }
    else { c with pc := c.rep.first, rep := { c.rep with count := n } }
  else { c with pc := next }

/-- Retirement (R114, R254, R33): the clock advances by a tick, the instruction is counted, nothing is waited for. -/
def Ctx.retire (c : Ctx) (now : Nat) : Ctx :=
  { c.count 0x001 1 with
    clock := c.clock + 1
    wait := .none
    parked := none
    st := if c.st == .sleeping then (if c.handler then .trapped else .runnable) else c.st
    lastRetire := now }

/-- Whether a step boundary follows (R136, R154): stepping on, and outside a handler unless a debugger is attached. -/
def Ctx.steps (c : Ctx) : Bool := bitAt c.dbg 1 && (!c.tm || c.attached)

/-- The step boundary after a retirement (R154, R155): a pending fault of a command is taken in place of STEP, and a trigger stop
that has waited for the boundary (R443); with STEPSYNC the boundary of a command's issue comes when that command has retired. -/
def State.boundary (s : State) : State :=
  if !s.me.ctx.steps then s
  else if s.me.ctx.stepSeq ≠ 0 then s
  else
    match s.me.ctx.pend.find? fun p => p.origin == 1 || p.late with
    | some p => s.takePend p
    | none => s.trapAt tcSTEP 0

/-- The acting context's instruction retires and falls through to `next`. -/
def State.retireTo (s : State) (next : Word) : State :=
  (s.mapCtx fun c => (c.advance next).retire s.time).boundary

/-- The acting context's instruction retires and the context goes on at `target`. -/
def State.jumpTo (s : State) (target : Word) : State :=
  (s.mapCtx fun c => { c with pc := target }.retire s.time).boundary

/-- Whether a wait is a sleep in the sense of R31; the others are stalls (R227). -/
def WaitOn.sleeps : WaitOn → Bool
  | .chanWord _ | .flumeSlots _ _ | .seeLoad _ | .remoteLoad _ _ | .barrier _ | .syncd | .atomicRound _ => true
  | _ => false

/-- The acting instruction waits: nothing is done, and it issues again from the start (R188, R227). -/
def State.waitOn (s : State) (w : WaitOn) : State :=
  s.mapCtx fun c => { c with
    wait := w
    st := if w.sleeps then .sleeping else (if c.st == .sleeping then (if c.handler then .trapped else .runnable) else c.st) }

end Sys2Proof.Machine
end

