-- ==== Sys2Proof/Machine/Translate.lean ====
section
/-!
DEFINITION. Sys2Proof/Machine/Translate.lean: canonical addresses (R89), the table walk (R396 to R398, R415 to R418), the
TLBs (R402), device accesses at virtual addresses (R466) and the fault log (R145, R409).
-/

namespace Sys2Proof.Machine

/-- Canonical: bits 63:57 all equal bit 56 (R89). -/
def canonical (va : Word) : Bool := va.toNat < 2 ^ 56 || 2 ^ 64 - 2 ^ 56 ≤ va.toNat

/-! ## Entries (R397) -/

def pteV (p : Word) : Bool := bitAt p 0
def pteLeaf (p : Word) : Bool := bitAt p 1
def pteType (p : Word) : Nat := bitsAt p 2 2
def pteWorld (p : Word) : Bool := bitAt p 4
def pteRo (p : Word) : Bool := bitAt p 5
def pteRet (p : Word) : Nat := bitsAt p 6 2
def pteKey (p : Word) : BitVec 7 := BitVec.ofNat 7 (bitsAt p 8 7)
def ptePa (p : Word) : Nat := bitsAt p 16 36 * 2 ^ 16
def pteLoc (p : Word) : Nat := bitsAt p 52 2

/-- The reserved fields are zero, LOC and RET are assigned. -/
def pteFieldsOk (p : Word) : Bool := bitsAt p 15 1 == 0 && bitsAt p 54 10 == 0 && pteLoc p != 3 && pteRet p < 2

/-- In a non-leaf entry only V, LEAF and PA are used. -/
def pteTableOk (p : Word) : Bool := bitsAt p 2 14 == 0 && bitsAt p 52 12 == 0

/-- A valid secure range that covers units `lo` to `hi` of a LOC wholly, or touches them. -/
def srCovers (sr : Word × Word) (loc lo hi : Nat) : Bool :=
  bitAt sr.1 0 && bitsAt sr.1 1 2 == loc && bitsAt sr.1 16 36 ≤ lo && hi ≤ bitsAt sr.2 16 36
/-- A valid secure range that overlaps units `lo` to `hi` of a LOC. -/
def srTouches (sr : Word × Word) (loc lo hi : Nat) : Bool :=
  bitAt sr.1 0 && bitsAt sr.1 1 2 == loc && bitsAt sr.1 16 36 ≤ hi && lo ≤ bitsAt sr.2 16 36

/-- WORLD agrees with the secure range table (R416). -/
def worldAgrees (s : State) (p : Word) (sz : Nat) : Bool :=
  let lo := ptePa p / 2 ^ 16
  let hi := (ptePa p + 2 ^ sz - 1) / 2 ^ 16
  let srs := s.wh.sr.toList
  if pteLoc p = 2 then !pteWorld p
  else if pteWorld p then srs.any (srCovers · (pteLoc p) lo hi) else !srs.any (srTouches · (pteLoc p) lo hi)

/-- The tiles that a pond page lies in. -/
def pageTiles (p : Word) (sz : Nat) : List Nat :=
  (List.range ((ptePa p + 2 ^ sz - 1) / 2 ^ 20 - ptePa p / 2 ^ 20 + 1)).map (ptePa p / 2 ^ 20 + ·)

/-- The physical address lies in its LOC space, aligned to the page, and a pond page in tiles of the partition (R397, R398). -/
def paOk (s : State) (fn : Nat) (p : Word) (sz : Nat) : Bool :=
  let pa := ptePa p
  pa % 2 ^ sz == 0 &&
  match pteLoc p with
  | 0 => pa + 2 ^ sz ≤ Config.hbmTop
  | 1 => pa + 2 ^ sz ≤ 2 ^ 29 && (pageTiles p sz).all fun t => (s.fn fn).tiles.contains t
  | _ => true

/-- The tile that a pond address stands in. -/
def pteTile (p : Word) (sz : Nat) (va : Word) : Nat := (ptePa p + va.toNat % 2 ^ sz) / 2 ^ 20

/-- A pond page lies in HOME tiles (R398), or in ones whose mode is changing: an access waits for the change (R99). -/
def homePage (s : State) (p : Word) (sz : Nat) : Bool :=
  pteLoc p != 1 || (pageTiles p sz).all fun t => (s.tile t).busy.isSome || (s.tile t).mode == 2

/-- A pond address in a PUSH tile whose RUN is 1: an access raises PROT (R98). -/
def pushPage (s : State) (p : Word) (sz : Nat) (va : Word) : Bool :=
  pteLoc p == 1 && (let t := s.tile (pteTile p sz va); t.mode == 1 && t.run)

/-- The checks on a leaf (R398, R101, R104 for the fields of a NOISE entry), PGFLT before PROT. -/
def leafCheck (s : State) (fn : Nat) (p : Word) (sz : Nat) (va : Word) : Except (BitVec 8) (Word × Nat) :=
  if !pteFieldsOk p then .error tcPGFLT
  else if pteType p = 2 then .error tcPGFLT
  else if pteType p = 1 then
    if bitsAt p 24 28 ≠ 0 then .error tcPGFLT else .ok (p, sz)
  else if !paOk s fn p sz then .error tcPGFLT
  else if pushPage s p sz va then .error tcPROT
  else if !homePage s p sz then .error tcPGFLT
  else if !worldAgrees s p sz || !(s.fn fn).kmask.getLsbD (pteKey p).toNat then .error tcPROT
  else .ok (p, sz)

/-- The levels of the tree from `l` on: index shift, index bits, and whether a leaf is allowed and required (R396). -/
def walkLevels : List (Nat × Nat × Bool × Bool) :=
  [(48, 9, false, false), (39, 9, false, false), (30, 9, true, false), (21, 9, true, false), (16, 5, true, true)]

/-- Walk the remaining levels from a table. -/
def walkFrom (s : State) (fn : Nat) (va : Word) (table : Nat) :
    List (Nat × Nat × Bool × Bool) → Except (BitVec 8) (Word × Nat)
  | [] => .error tcPGFLT
  | (sh, n, may, must) :: rest =>
    let a := table + 8 * ((va.toNat >>> sh) % 2 ^ n)
    if Config.hbmTop < a + 8 then .error tcPGFLT
    else if s.ecc.contains (lineOf (keyOf spHbm a)) then .error tcECCUE
    else
      let p := BitVec.ofNat 64 (memNat s.mem (keyOf spHbm a) 8)
      if !pteV p then .error tcPGFLT
      else if pteLeaf p then (if may then leafCheck s fn p sh va else .error tcPGFLT)
      else if must || !pteTableOk p then .error tcPGFLT
      else walkFrom s fn va (ptePa p) rest

/-- The walk of a function's tables (R396, R405: with PTROOT.EN 0 every walk faults), but for the descriptor of a NOISE entry. -/
def walkTables (s : State) (fn : Nat) (va : Word) : Except (BitVec 8) (Word × Nat) :=
  let r := (s.fn fn).ptroot
  if !bitAt r 0 then .error tcPGFLT
  else walkFrom s fn va (bitsAt r 12 40 * 2 ^ 12) walkLevels

/-! ## Windows that are not walked -/

/-- First address of the mill-local window (R91). -/
def windowBase : Nat := 0xFFFFFFFFFFE00000
/-- First address of the sluice windows (R232). -/
def sluiceBase : Nat := 0xFFFFFE0000000000
/-- One past the last address of the sluice windows. -/
def sluiceTop : Nat := 0xFFFFFE0100000000
/-- The address lies in a sluice window. -/
def inSluice (va : Word) : Bool := sluiceBase ≤ va.toNat && va.toNat < sluiceTop
/-- The address lies in the mill-local window or above it. -/
def inWindow (va : Word) : Bool := windowBase ≤ va.toNat

/-- The memory key an address reaches through a leaf. -/
def physKey (p : Word) (sz : Nat) (va : Word) : Nat := keyOf (pteLoc p) (ptePa p + va.toNat % 2 ^ sz)

/-! ## Device accesses at virtual addresses (R466) -/

/-- The address that the bits of a register from `lo` to 56 give (R89, R405). -/
def regBase (w : Word) (lo : Nat) : Word := BitVec.ofInt 64 (signed 57 (bitsAt w lo (57 - lo) * 2 ^ lo))

/-- An access of the device meets a pond tile whose mode is changing to another mode than HOME: once the change is done, which it waits
for (R99), the tile holds no page (R398). -/
def leavesHome (s : State) (p : Word) (sz : Nat) (va : Word) : Bool :=
  pteLoc p == 1 && (s.tile (pteTile p sz va)).busy.any (· != 2)

/-- What a device access may do at a leaf: ORDINARY pages of the function's world, and FLUME pages, which it writes as the flume header
of R90 alone (`hdr`). -/
def devLeaf (s : State) (fn : Nat) (va : Word) (wr hdr : Bool) (w : Except (BitVec 8) (Word × Nat)) :
    Except (BitVec 8) (Nat × Word) :=
  match w with
  | .error c => .error c
  | .ok (p, sz) =>
    if leavesHome s p sz va then .error tcPGFLT
    else if pteWorld p != (s.fn fn).world then .error tcPROT
    else if pteType p = 1 then .error (if wr then tcNOISEWR else tcPROT)
    else if wr && (pteRo p || (pteType p = 3 && !hdr)) then .error tcPROT
    else .ok (physKey p sz va, p)

/-- The walk at an address for the device: the sluice windows and the mill-local window are never walked (R400). -/
def devWalk (va : Word) (walk : Word → Except (BitVec 8) (Word × Nat)) : Except (BitVec 8) (Word × Nat) :=
  if !canonical va || inWindow va || inSluice va then .error tcPGFLT else walk va

/-- Cut a range into pieces that stay within 64 KiB pages. -/
def pieces : Nat → Word → Nat → List (Word × Nat)
  | 0, _, _ => []
  | fuel + 1, va, n =>
    let room := 65536 - va.toNat % 65536
    if n = 0 then [] else if n ≤ room then [(va, n)]
    else (va, room) :: pieces fuel (va + BitVec.ofNat 64 room) (n - room)

/-- The pieces of a range. -/
def rangePieces (va : Word) (n : Nat) : List (Word × Nat) := pieces (n / 65536 + 2) va n

/-- Read `n` bytes by a way to resolve addresses; the error names the cause and the address. -/
def readBy (s : State) (resolve : Word → Except (BitVec 8) (Nat × Word)) (va : Word) (n : Nat) :
    Except (BitVec 8 × Word) (List Byte) :=
  (rangePieces va n).foldlM (fun acc (a, k) =>
    match resolve a with
    | .error c => .error (c, a)
    | .ok (key, _) =>
      if s.ecc.any (fun l => lineOf key ≤ l && l ≤ lineOf (key + k - 1)) then .error (tcECCUE, a)
      else .ok (acc ++ memBytes s.mem key k)) []

/-- A noise descriptor. -/
structure NoiseDesc where
  base  : Word
  sigma : Nat
  fmt   : Nat
  sum8  : Bool
  km1   : Nat
  bl    : Nat
deriving DecidableEq, Repr

/-- Read and check, at the walk of a NOISE entry, descriptor `k` of a function's table: a fault, a nonzero reserved field or an atom format with BL 0
gives none (R104). -/
def noiseDesc (s : State) (fn k : Nat) : Option NoiseDesc :=
  match readBy s (fun a => devLeaf s fn a false false (devWalk a (walkTables s fn))) (regBase (s.fn fn).ndt 13 + BitVec.ofNat 64 (32 * k)) 32 with
  | .error _ => none
  | .ok bs =>
    let d0 := dword bs 0
    let d1 := dword bs 8
    if bitsAt d0 57 7 ≠ 0 || bitsAt d1 35 5 ≠ 0 || bitsAt d1 44 4 ≠ 0 || dword bs 16 ≠ 0 || dword bs 24 ≠ 0 then none
    else if 2 ≤ bitsAt d1 32 2 && bitsAt d1 48 16 = 0 then none
    else some ⟨BitVec.ofNat 64 (if bitAt d0 56 then 2 ^ 64 - 2 ^ 57 + bitsAt d0 0 57 else bitsAt d0 0 57),
      bitsAt d1 0 32, bitsAt d1 32 2, bitAt d1 34, bitsAt d1 40 4, bitsAt d1 48 16⟩

/-- The walk of a function's tables (R396, R398): a NOISE entry whose descriptor is malformed or cannot be read faults (R104),
before its key is looked at. -/
def walk (s : State) (fn : Nat) (va : Word) : Except (BitVec 8) (Word × Nat) :=
  match walkTables s fn va with
  | .error c => .error c
  | .ok (p, sz) =>
    if pteType p ≠ 1 then .ok (p, sz)
    else if (noiseDesc s fn (bitsAt p 16 8)).isNone then .error tcPGFLT
    else if !(s.fn fn).kmask.getLsbD (pteKey p).toNat then .error tcPROT
    else .ok (p, sz)

/-- Resolve an address for the device: the memory key and the entry. -/
def devResolve (s : State) (fn : Nat) (va : Word) (wr : Bool) : Except (BitVec 8) (Nat × Word) :=
  devLeaf s fn va wr false (devWalk va (walk s fn))

/-- Resolve an address for the device's own write of a flume header (R90). -/
def hdrResolve (s : State) (fn : Nat) (va : Word) : Except (BitVec 8) (Nat × Word) :=
  devLeaf s fn va true true (devWalk va (walk s fn))

/-- Read `n` bytes at a virtual address of a function; the error names the cause and the address. -/
def devRead (s : State) (fn : Nat) (va : Word) (n : Nat) : Except (BitVec 8 × Word) (List Byte) :=
  readBy s (fun a => devResolve s fn a false) va n

/-- A doubleword at a virtual address of a function. -/
def devRead8 (s : State) (fn : Nat) (va : Word) : Except (BitVec 8 × Word) Word :=
  (devRead s fn va 8).map fun bs => dword bs 0

/-- The HBM lines of `n` bytes at a key are written under a key slot (R417, R418). -/
def State.underSlot (s : State) (k n : Nat) (slot : BitVec 7) : State :=
  if spaceOf k = spHbm then { s with lineKeys := (lineSpan k n).foldl (fun l x => aset l x slot) s.lineKeys } else s

/-- Write bytes at a virtual address of a function by a way to resolve addresses, all or nothing. -/
def writeBy (s : State) (resolve : Word → Except (BitVec 8) (Nat × Word)) (fn : Nat) (va : Word) (bs : List Byte) :
    Except (BitVec 8 × Word) State :=
  let ps := rangePieces va bs.length
  let locs : Except (BitVec 8 × Word) (List (Nat × BitVec 7 × Nat)) := ps.foldlM (fun acc (a, k) =>
    match resolve a with
    | .error c => .error (c, a)
    | .ok (key, p) => .ok (acc ++ [(key, pteKey p, k)])) []
  locs.map fun ls =>
    (ls.foldl (fun (st : State × List Byte) (x : Nat × BitVec 7 × Nat) =>
      ((storeAt (st.1.underSlot x.1 x.2.2 x.2.1) fn x.1 (st.2.take x.2.2) 0).2, st.2.drop x.2.2)) (s, bs)).1

/-- Write bytes at a virtual address of a function, all or nothing. -/
def devWrite (s : State) (fn : Nat) (va : Word) (bs : List Byte) : Except (BitVec 8 × Word) State :=
  writeBy s (fun a => devResolve s fn a true) fn va bs

/-! ## Fault records (R145, R409) -/

/-- A fault record's fields. -/
structure FaultRec where
  cause  : BitVec 8
  origin : BitVec 2
  node   : BitVec 16
  loop   : BitVec 32
  va     : Word
  seq    : BitVec 32
  row    : Nat
  lane   : Nat
  engine : Nat
  port   : Nat
  cfgid  : Word
  task   : BitVec 32
  ctx    : BitVec 4
  blk    : Word
  ipc    : Word
  ctrs   : List Nat
deriving DecidableEq, Repr

/-- The 128 bytes of a record (R145). -/
def FaultRec.bytes (r : FaultRec) : List Byte :=
  leBytes 8 (r.cause.toNat + r.origin.toNat * 2 ^ 8 + r.ctrs.length * 2 ^ 10 + r.node.toNat * 2 ^ 16 +
    r.loop.toNat * 2 ^ 32) ++
  dbytes r.va ++
  leBytes 8 (r.seq.toNat + r.row % 8 * 2 ^ 32 + r.lane % 128 * 2 ^ 35 + r.engine % 4 * 2 ^ 42 + r.port % 64 * 2 ^ 44) ++
  dbytes r.cfgid ++ leBytes 8 (r.task.toNat + r.ctx.toNat * 2 ^ 32) ++ dbytes r.blk ++ dbytes r.ipc ++
  ((r.ctrs ++ List.replicate 12 0).take 12).flatMap (leBytes 4) ++ List.replicate 24 0

/-- Enter a record into a function's fault log (R409): into the ring, or dropped and counted when the ring is full or
cannot be written (R466). Vector 0 fires when the ring turns non-empty. -/
def State.fault (s : State) (fn : Nat) (r : FaultRec) : State :=
  let f := s.fn fn
  let n := 2 ^ (max 4 (min 16 f.fllog.toNat))
  if f.flhead - f.fltail == BitVec.ofNat 32 n then s.setFn fn { f with fllost := f.fllost + 1 }
  else
    match devWrite s fn (regBase f.flbase 12 + BitVec.ofNat 64 (128 * (f.flhead.toNat % n))) r.bytes with
    | .error _ => s.setFn fn { f with fllost := f.fllost + 1 }
    | .ok s1 =>
      let s2 := s1.setFn fn { s1.fn fn with flhead := f.flhead + 1 }
      if f.flhead = f.fltail then s2.msix fn 0 else s2

/-- A record with ORIGIN 3 for an access of the device (R466). -/
def State.devFault (s : State) (fn : Nat) (cause : BitVec 8) (va : Word) : State :=
  s.fault fn ⟨cause, 3, 0, 0, va, 0, 0, 0, 0, 0, 0, 0, 0, 0, 0, []⟩

/-- A record about a task with ORIGIN 3. -/
def State.taskFault (s : State) (t : Task) (cause : BitVec 8) (va : Word) : State :=
  s.fault t.id.fn ⟨cause, 3, 0, 0, va, 0, 0, 0, 0, 0, t.run.act.id, t.id.idx, t.ctxNo, t.id.blk, 0, []⟩

/-- Write at a virtual address of a function; a fault drops the access and leaves a record (R466). -/
def State.devPut (s : State) (fn : Nat) (va : Word) (bs : List Byte) : State :=
  match devWrite s fn va bs with
  | .ok s1 => s1
  | .error (c, a) => s.devFault fn c a

/-- The device writes a flume header (R90); a fault drops the write and leaves a record. -/
def State.hdrPut (s : State) (fn : Nat) (va : Word) (bs : List Byte) : State :=
  match writeBy s (hdrResolve s fn) fn va bs with
  | .ok s1 => s1
  | .error (c, a) => s.devFault fn c a

/-! ## The launch link table (R411) -/

/-- Launch link entry `p` of a function (R411): package, function, channel and ports; none where it cannot be read. -/
def linkEntry (s : State) (fn p : Nat) : Option (BitVec 8 × Nat × BitVec 12 × BitVec 18) :=
  let llt := (s.fn fn).llt
  if p = 0 || bitsAt llt 0 16 < p then none
  else match devRead8 s fn (regBase llt 16 + BitVec.ofNat 64 (16 * p)) with
    | .error _ => none
    | .ok w => some (BitVec.ofNat 8 (bitsAt w 0 8), bitsAt w 8 8, BitVec.ofNat 12 (bitsAt w 16 12),
        BitVec.ofNat 18 (bitsAt w 32 18))

/-- A read of a launch link entry that faults leaves a record (R466). -/
def State.linkFault (s : State) (fn p : Nat) : State :=
  let llt := (s.fn fn).llt
  if p = 0 || bitsAt llt 0 16 < p then s
  else match devRead8 s fn (regBase llt 16 + BitVec.ofNat 64 (16 * p)) with
    | .error (c, a) => s.devFault fn c a
    | .ok _ => s

/-- A port of a launch link entry serves a function: it is in the mask and among the partition's ports, is up, and is of the
function's world (R412). -/
def State.portServes (s : State) (fn : Nat) (ports : BitVec 18) (p : Nat) : Bool :=
  ports.getLsbD p && (s.link p).up && (s.link p).world == (s.fn fn).world && (s.fn fn).lports.getLsbD p

/-- The lowest port of a mask that serves a function. -/
def State.linkPort (s : State) (fn : Nat) (ports : BitVec 18) : Option Nat :=
  (List.range Config.linkPorts).find? (s.portServes fn ports)

/-- The lowest port by which some launch link entry of a function reaches a package. -/
def entryPort (s : State) (fn : Nat) (pkg : BitVec 8) : Option Nat :=
  (List.range (bitsAt (s.fn fn).llt 0 16)).findSome? fun i => match linkEntry s fn (i + 1) with
    | some (p, _, _, ports) => if p == pkg then s.linkPort fn ports else none
    | none => none

/-- A port by which some function reaches a package. -/
def State.pkgPort (s : State) (pkg : BitVec 8) : Option Nat := s.fns.findSome? fun f => entryPort s f.1 pkg

/-- A path to a package remains. -/
def State.reaches (s : State) (pkg : BitVec 8) : Bool := (s.pkgPort pkg).isSome

/-- Queue a flit on a port. -/
def State.sendFlit (s : State) (p clk fn : Nat) (ch : BitVec 12) (num : BitVec 32) (m : LinkMsg) : State :=
  let l := s.link p
  s.setLink p { l with outq := l.outq ++ [⟨l.next, true, clk, s.wh.pkg, fn, ch, num, m⟩], next := l.next + 1 }

/-- The reads of a function's launch link entries in search of a port to a package, until one is found: whether it is, and the records
of the reads that fault (R466). -/
def State.entryFaults (s : State) (pkg : BitVec 8) (fn : Nat) : Bool × State :=
  (List.range (bitsAt (s.fn fn).llt 0 16)).foldl (fun (a : Bool × State) i =>
    if a.1 then a
    else match linkEntry a.2 fn (i + 1) with
      | some (p, _, _, ports) => (p == pkg && (a.2.linkPort fn ports).isSome, a.2)
      | none => (false, a.2.linkFault fn (i + 1))) (false, s)

/-- The reads of every function's entries in search of a port to a package. -/
def State.pkgFaults (s : State) (pkg : BitVec 8) : State :=
  (s.fns.foldl (fun (a : Bool × State) f => if a.1 then a else a.2.entryFaults pkg f.1) (false, s)).2

/-- Send a message of no channel to a package, in order; none where no path remains. -/
def State.sendPkg? (s : State) (pkg : BitVec 8) (clk : Nat) (m : LinkMsg) : Option State :=
  let s := s.pkgFaults pkg
  (s.pkgPort pkg).map fun p =>
    let x := aget (0, 0) s.peers pkg.toNat
    ({ s with peers := aset s.peers pkg.toNat (x.1 + 1, x.2) } : State).sendFlit p clk 0 0 x.1 m

/-- Send a message of no channel to a package; it is lost where no path remains, and the package counts what it says there as
dropped (R413). -/
def State.sendPkg (s : State) (pkg : BitVec 8) (clk : Nat) (m : LinkMsg) : State :=
  (s.sendPkg? pkg clk m).getD (s.pkgFaults pkg)

/-! ## TLBs (R402) -/

/-- An entry that translates an address. -/
def TlbEntry.hits (e : TlbEntry) (fn : Nat) (va : Word) : Bool := e.fn == fn && e.page.toNat == va.toNat >>> e.sz

/-- The set of the second level that an entry stands in, of 1,024 (R402: 8,192 entries in 8 ways; which bits of the page number
choose it is not stated, log 18). -/
def TlbEntry.set (e : TlbEntry) : Nat := e.page.toNat % 1024

/-- Drop the oldest entry of a set that would hold more than 8, the newest standing first. -/
def keepWays (set : Nat) : Nat → List TlbEntry → List TlbEntry
  | _, [] => []
  | n, e :: l => if e.set = set then (if n = 0 then l else e :: keepWays set (n - 1) l) else e :: keepWays set n l

/-- Keep a translation in both levels. -/
def State.tlbKeep (s : State) (e : TlbEntry) : State :=
  let m := s.mill s.me.mill
  let d := s.die (dieOf s.me.mill)
  (s.setMill s.me.mill { m with tlb := (e :: m.tlb).take Config.tlbEntries }).setDie (dieOf s.me.mill)
    { d with tlb2 := keepWays e.set 8 (e :: d.tlb2) }

/-- Translate an address for the acting task (R402, R403): a TLB that still holds an entry the tables no longer give may
serve it until the unmap completes; a miss walks, and a walk that succeeds is kept. -/
def State.translate (s : State) (va : Word) : Except (BitVec 8) (Word × Nat) × State :=
  let fn := s.me.id.fn
  let w := walk s fn va
  let l1 := (s.mill s.me.mill).tlb.find? (TlbEntry.hits · fn va)
  match l1.orElse fun _ => (s.die (dieOf s.me.mill)).tlb2.find? (TlbEntry.hits · fn va) with
  | some e =>
    let s1 := if l1.isSome then s else s.count 0x026 1
    match w with
    | .ok (p, sz) =>
      if p = e.pte && sz = e.sz then (.ok (p, sz), s1)
      else
        let (n, s2) := s1.choose
        if Config.tlbServes n then (.ok (e.pte, e.sz), s2) else (.ok (p, sz), s2)
    | .error c =>
      let (n, s2) := s1.choose
      if Config.tlbServes n then (.ok (e.pte, e.sz), s2) else (.error c, s2)
  | none =>
    let s1 := (s.count 0x026 1).count 0x027 1
    match w with
    | .ok (p, sz) => (.ok (p, sz), s1.tlbKeep ⟨fn, BitVec.ofNat 64 (va.toNat >>> sz), sz, p⟩)
    | .error c => (.error c, s1)

end Sys2Proof.Machine
end

