-- ==== Sys2Proof/Machine/Headers.lean ====
section
/-!
DEFINITION. Sys2Proof/Machine/Headers.lean: kernel headers, channel tables and split tables as they are read and checked (R350 to
R352, R375).
-/

namespace Sys2Proof.Machine

/-! ## Kernel headers (R350, R351) -/

/-- A size in stones (R26). -/
def sizeOk (n : Nat) : Bool := n == 1 || n == 2 || n == 4 || n == 8 || n == 16

/-- Read and check a header's 64 bytes at an address; none: refused with CFGREJ. -/
def khdrOf (a : Word) (bs : List Byte) : Option KHdr :=
  let w := dword bs 0x20
  let knet := bitsAt w 8 5
  let long := bitAt w 13
  if bitsAt w 5 3 ≠ 0 || bitsAt w 14 50 ≠ 0 || dword bs 0x38 ≠ 0 || !sizeOk (bitsAt w 0 5) || knet < 1 || 16 < knet ||
      (!long && 3 < knet) || (dword bs 8).toNat % 4 ≠ 0 || (dword bs 0x10).toNat % 4 ≠ 0 then none
  else some {
    cfg := a + dword bs 0, entry := a + dword bs 8
    trap := if dword bs 0x10 = 0 then none else some (a + dword bs 0x10)
    data := a + dword bs 0x18
    size := bitsAt w 0 5, knet := BitVec.ofNat 5 knet, long := long }

/-- A task index of a block. -/
def Blk.hasTask (b : Blk) (i : Nat) : Bool := b.eff.tbase.toNat ≤ i && i < b.eff.tbase.toNat + b.eff.tcount.toNat

/-- One entry of a channel table at an address; none: refused. -/
def chanOf (b : Blk) (a : Word) (d0 d1 : Word) : Option Chan :=
  let kind := bitsAt d0 12 2
  let loc := bitAt d0 15
  let ct := bitsAt d0 16 32
  let peer := bitsAt d0 48 16
  let pt := bitsAt d1 0 32
  let cons := peer == 0 || !loc
  let prod := peer == 0 || loc
  if 2 ≤ kind || (peer = 0 && loc) || (!cons && ct != 0) || (!prod && pt != 0) || (cons && !b.hasTask ct) ||
      (prod && pt != 0xFFFFFFFF && !b.hasTask pt) then none
  else some {
    fn := b.fn, blk := b.addr, ch := BitVec.ofNat 12 (bitsAt d0 0 12), entry := a
    halo := kind == 1, strict := bitAt d0 14, locend := loc, peer := peer
    ctask := BitVec.ofNat 32 ct, ptask := BitVec.ofNat 32 pt
    wire := [], buf := [], spill := [], fault := false, fullSince := none, reported := false, closed := false
    peerClosed := false, sent := 0, got := 0, msgWire := [], msgs := [] }

/-- The entries of a table's bytes. -/
def chansOf (b : Blk) (a : Word) (bs : List Byte) (n : Nat) : Option (List Chan) :=
  (List.range n).mapM fun i => chanOf b (a + BitVec.ofNat 64 (8 + 16 * i)) (dword bs (16 * i)) (dword bs (16 * i + 8))

/-- No number stands twice. -/
def allDistinct : List Nat → Bool
  | [] => true
  | x :: xs => !xs.contains x && allDistinct xs

/-- A channel table (R352), as read at an address: its channels, or the cause of a refusal. -/
def State.chanTable (s : State) (b : Blk) (a : Word) : Except (BitVec 8) (List Chan) :=
  if a = 0 then .ok []
  else match devRead8 s b.fn a with
    | .error (c, _) => .error c
    | .ok n =>
      if 4096 < n.toNat then .error tcCFGREJ
      else match devRead s b.fn (a + 8) (16 * n.toNat) with
        | .error (c, _) => .error c
        | .ok bs => match chansOf b a bs n.toNat with
          | none => .error tcCFGREJ
          | some cs => if allDistinct (cs.map (·.ch.toNat)) then .ok cs else .error tcCFGREJ

/-- One entry of a split-factor table is well formed (R375). -/
def splitOk (d : Word) : Bool :=
  bitsAt d 0 16 != 0 && bitsAt d 16 32 != 0 && bitsAt d 48 2 < 2 && bitsAt d 50 14 == 0

/-- The cause that a split-factor table refuses a header with; none where it passes. -/
def State.splitTable (s : State) (fn : Nat) (a : Word) : Option (BitVec 8) :=
  match devRead8 s fn a with
  | .error (c, _) => some c
  | .ok n =>
    if a.toNat % 64 ≠ 0 || bitsAt n 9 55 ≠ 0 || 256 < n.toNat then some tcCFGREJ
    else match devRead s fn (a + 8) (8 * n.toNat) with
      | .error (c, _) => some c
      | .ok bs =>
        let ds := (List.range n.toNat).map fun i => dword bs (8 * i)
        if ds.all splitOk && allDistinct (ds.map (bitsAt · 0 16)) then none else some tcCFGREJ

/-- Check a node block's header and its tables (R351). A header that is not 64-byte aligned, as R350 wants it, is refused by none of
R351's conditions: it is read where it stands (DESIGN CHOICE, log 126). -/
def State.checkHeader (s : State) (b : Blk) : Except (BitVec 8) (KHdr × List Chan) :=
  let a := b.eff.khdr
  match devRead s b.fn a 64 with
  | .error (c, _) => .error c
  | .ok bs => match khdrOf a bs with
    | none => .error tcCFGREJ
    | some h => match s.chanTable b (dword bs 0x28) with
      | .error c => .error c
      | .ok cs =>
        if dword bs 0x30 = 0 then .ok (h, cs)
        else match s.splitTable b.fn (a + dword bs 0x30) with
          | some c => .error c
          | none => .ok (h, cs)

/-! ## Ends of nodes that no task has been placed for (R156) -/

/-- The consumer end that a queued node block of a function, none of whose tasks has been placed, has for a channel of another node or
package: its table is read for the words that come before (R156 holds them; DESIGN CHOICE, log 125). -/
def State.foreseen (s : State) (fn : Nat) (ch : BitVec 12) : Option Chan :=
  (s.blks.filter fun b => b.fn == fn && b.isNode && b.eff.tcount != 0 && b.hdr.isNone && (b.st == .idle || b.st == .queued)).findSome?
    fun b => match s.checkHeader b with
      | .ok (_, cs) => cs.find? fun x => x.ch == ch && x.peer != 0 && !x.locend
      | .error _ => none

/-- A channel's entry names a package, a function and a channel of it (R411). -/
def State.entryNames (s : State) (x : Chan) (pkg : BitVec 8) (fn : Nat) (ch : BitVec 12) : Bool :=
  match linkEntry s x.fn x.peer with
  | some (p, f, c, _) => p == pkg && f == fn && c == ch
  | none => false

/-- The consumer end of a channel of a function whose entry names a sender (R411): an open one, else that of a node not placed yet, else
one that has closed. -/
def State.consumerEnd (s : State) (fn : Nat) (ch : BitVec 12) (pkg : BitVec 8) (sfn : Nat) (sch : BitVec 12) : Option Chan :=
  let l := s.chans.filter fun x => x.fn == fn && x.ch == ch && x.peer != 0 && !x.locend && s.entryNames x pkg sfn sch
  (l.find? fun x => !x.closed).orElse fun _ =>
    ((s.foreseen fn ch).filter fun x => s.entryNames x pkg sfn sch).orElse fun _ => l.head?

end Sys2Proof.Machine
end

