-- ==== Sys2Proof/Machine/Aes.lean ====
section
/-!
DEFINITION. Sys2Proof/Machine/Aes.lean: AES-256 and its XTS mode over one 128-byte line, by which HBM is encrypted (R417).
The cipher is that of FIPS 197 and the mode that of IEEE 1619, which the spec names and does not repeat (PRESUMED, log 95).
-/

namespace Sys2Proof.Machine

/-! ## The field of 256 elements -/

/-- Multiplication by x. -/
def gfDouble (a : Byte) : Byte := (a <<< 1) ^^^ (if a.getLsbD 7 then 0x1B else 0)

/-- Multiplication, by the bits of the second factor from bit `n - 1` down. -/
def gfMulFrom (a b : Byte) : Nat → Byte
  | 0 => 0
  | n + 1 => gfDouble (gfMulFrom a (b >>> 1) n) ^^^ (if b.getLsbD 0 then a else 0)

/-- Multiplication. -/
def gfMul (a b : Byte) : Byte := gfMulFrom a b 8

/-- The inverse, 0 for 0: the power 254. -/
def gfInv (a : Byte) : Byte :=
  let a2 := gfMul a a
  let a4 := gfMul a2 a2
  let a8 := gfMul a4 a4
  let a16 := gfMul a8 a8
  let a32 := gfMul a16 a16
  let a64 := gfMul a32 a32
  let a128 := gfMul a64 a64
  gfMul a2 (gfMul a4 (gfMul a8 (gfMul a16 (gfMul a32 (gfMul a64 a128)))))

/-- The substitution of a byte. -/
def subByte (a : Byte) : Byte :=
  let b := gfInv a
  b ^^^ b.rotateLeft 1 ^^^ b.rotateLeft 2 ^^^ b.rotateLeft 3 ^^^ b.rotateLeft 4 ^^^ 0x63

/-- The inverse substitution. -/
def invSubByte (a : Byte) : Byte := gfInv (a.rotateLeft 1 ^^^ a.rotateLeft 3 ^^^ a.rotateLeft 6 ^^^ 0x05)

/-! ## Rounds: a block is 16 bytes, column by column -/

/-- Exclusive or of two lists of bytes. -/
def xorBytes (a b : List Byte) : List Byte := List.zipWith (· ^^^ ·) a b

/-- Rotate row r of the block left by `r * k` columns. -/
def rotateRows (k : Nat) (s : List Byte) : List Byte :=
  (List.range 16).map fun i => s.getD ((i + 4 * k * (i % 4)) % 16) 0

/-- Multiply each column by the circulant matrix of a first row. -/
def mixBy (m : List Byte) (s : List Byte) : List Byte :=
  (List.range 16).map fun i =>
    ((List.range 4).map fun j => gfMul (m.getD ((j + 4 - i % 4) % 4) 0) (s.getD (i / 4 * 4 + j) 0)).foldl (· ^^^ ·) 0

/-- One step of the key schedule of a 256-bit key: the words so far, newest last, take word `i`. -/
def nextKeyWord (ws : List (List Byte)) (i : Nat) : List (List Byte) :=
  let p := ws.getD (i - 1) []
  let rcon : Byte := BitVec.ofNat 8 (2 ^ (i / 8 - 1))
  let t := if i % 8 = 0 then xorBytes ((p.drop 1 ++ p.take 1).map subByte) [rcon, 0, 0, 0]
    else if i % 8 = 4 then p.map subByte else p
  ws ++ [xorBytes (ws.getD (i - 8) []) t]

/-- The 15 round keys of a 32-byte key. -/
def roundKeys (key : List Byte) : List (List Byte) :=
  let ws := ((List.range 52).map (· + 8)).foldl nextKeyWord ((List.range 8).map fun i => (key.drop (4 * i)).take 4)
  (List.range 15).map fun r => ((ws.drop (4 * r)).take 4).flatten

/-- Encrypt a block under round keys. -/
def aesEncrypt (rk : List (List Byte)) (b : List Byte) : List Byte :=
  let s := ((List.range 13).map (· + 1)).foldl (fun s r =>
    xorBytes (mixBy [2, 3, 1, 1] (rotateRows 1 (s.map subByte))) (rk.getD r [])) (xorBytes b (rk.getD 0 []))
  xorBytes (rotateRows 1 (s.map subByte)) (rk.getD 14 [])

/-- Decrypt a block under round keys. -/
def aesDecrypt (rk : List (List Byte)) (b : List Byte) : List Byte :=
  let s := ((List.range 13).map (13 - ·)).foldl (fun s r =>
    mixBy [14, 11, 13, 9] (xorBytes ((rotateRows 3 s).map invSubByte) (rk.getD r []))) (xorBytes b (rk.getD 14 []))
  xorBytes ((rotateRows 3 s).map invSubByte) (rk.getD 0 [])

/-! ## XTS over one line (R417): the data unit is 128 bytes, its tweak PA<51:7> -/

/-- The first and the second key of a pair: the low and the high 256 bits. -/
def xtsKeys (k : BitVec 512) : List (List Byte) × List (List Byte) :=
  (roundKeys (leBytes 32 k.toNat), roundKeys (leBytes 32 (k.toNat / 2 ^ 256)))

/-- The tweak of the next block: multiplication by x in the field of 2^128 elements. -/
def nextTweak (t : List Byte) : List Byte :=
  let v := leNat t
  leBytes 16 ((2 * v % 2 ^ 128) ^^^ (if 2 ^ 127 ≤ v then 0x87 else 0))

/-- The blocks of a data unit, each under its tweak. -/
def xtsBlocks (f : List Byte → List Byte) : Nat → List Byte → List Byte → List Byte
  | 0, _, _ => []
  | n + 1, t, bs => xorBytes (f (xorBytes (bs.take 16) t)) t ++ xtsBlocks f n (nextTweak t) (bs.drop 16)

/-- Encrypt the line of a tweak. -/
def xtsEncrypt (k : BitVec 512) (tweak : Nat) (line : List Byte) : List Byte :=
  let (k1, k2) := xtsKeys k
  xtsBlocks (aesEncrypt k1) 8 (aesEncrypt k2 (leBytes 16 tweak)) line

/-- Decrypt the line of a tweak. -/
def xtsDecrypt (k : BitVec 512) (tweak : Nat) (line : List Byte) : List Byte :=
  let (k1, k2) := xtsKeys k
  xtsBlocks (aesDecrypt k1) 8 (aesEncrypt k2 (leBytes 16 tweak)) line

/-- What a line written under one key pair reads as under another (R418). -/
def rekeyLine (old new : BitVec 512) (tweak : Nat) (line : List Byte) : List Byte :=
  if old = new then line else xtsDecrypt new tweak (xtsEncrypt old tweak line)

end Sys2Proof.Machine
end

