-- ==== Sys2Proof/Machine/Float.lean ====
section
/-!
DEFINITION. Sys2Proof/Machine/Float.lean: the floating-point formats and arithmetic of the spec: binary64 and binary32 of
the miller (R220 to R224), the decoded formats of the fabric (R71 to R73, R86, R318). Every operation is computed exactly
on integers and rounded once to nearest even.
-/

namespace Sys2Proof.Machine

/-- A binary format: exponent and mantissa bits, and whether its top exponent holds infinities (R71). -/
structure Fmt where
  eb  : Nat
  mb  : Nat
  inf : Bool
deriving DecidableEq, Repr

def fp64 : Fmt := ⟨11, 52, true⟩
def fp32 : Fmt := ⟨8, 23, true⟩
def bf16 : Fmt := ⟨8, 7, true⟩
def fp16 : Fmt := ⟨5, 10, true⟩
def e5m2 : Fmt := ⟨5, 2, true⟩
def e4m3 : Fmt := ⟨4, 3, false⟩

/-- The exponent bias. -/
def Fmt.bias (f : Fmt) : Int := 2 ^ (f.eb - 1) - 1
/-- The exponent of the least subnormal: a value is an integer times 2 to it. -/
def Fmt.emin (f : Fmt) : Int := 1 - f.bias - f.mb
/-- The width. -/
def Fmt.width (f : Fmt) : Nat := 1 + f.eb + f.mb

/-- A value read from a format: a NaN (signalling or not), an infinity, or ±m × 2^e. -/
inductive FV where
  | nan (sig : Bool)
  | inf (neg : Bool)
  | fin (neg : Bool) (m : Nat) (e : Int)
deriving DecidableEq, Repr

/-- The IEEE flags, bit 0 invalid, 1 divide by zero, 2 overflow, 3 underflow, 4 inexact (R229, R139). -/
abbrev FFlags := BitVec 5
def flInvalid : FFlags := 1
def flDivZero : FFlags := 2
def flOverflow : FFlags := 4
def flUnderflow : FFlags := 8
def flInexact : FFlags := 16

/-- Read a bit pattern (R71; in E4M3 only mantissa 0b111 under the top exponent is NaN). -/
def Fmt.read (f : Fmt) (bits : Nat) : FV :=
  let neg := bits / 2 ^ (f.eb + f.mb) % 2 = 1
  let ex := bits / 2 ^ f.mb % 2 ^ f.eb
  let m := bits % 2 ^ f.mb
  if ex = 2 ^ f.eb - 1 && (f.inf || m = 2 ^ f.mb - 1) then
    if f.inf && m = 0 then .inf neg else .nan (m < 2 ^ (f.mb - 1))
  else if ex = 0 then .fin neg m f.emin
  else .fin neg (m + 2 ^ f.mb) (f.emin + ex - 1)

/-- The sign bit. -/
def Fmt.sign (f : Fmt) (neg : Bool) : Nat := if neg then 2 ^ (f.eb + f.mb) else 0
/-- The infinity of a sign. -/
def Fmt.infBits (f : Fmt) (neg : Bool) : Nat := f.sign neg + (2 ^ f.eb - 1) * 2 ^ f.mb
/-- The canonical NaN: quiet, sign 0, no payload (R71, R220); all ones of E4M3. -/
def Fmt.nanBits (f : Fmt) : Nat :=
  (2 ^ f.eb - 1) * 2 ^ f.mb + (if f.inf then 2 ^ (f.mb - 1) else 2 ^ f.mb - 1)
/-- The largest finite pattern. -/
def Fmt.maxBits (f : Fmt) (neg : Bool) : Nat :=
  f.sign neg + (if f.inf then (2 ^ f.eb - 1) * 2 ^ f.mb - 1 else (2 ^ f.eb - 1) * 2 ^ f.mb + 2 ^ f.mb - 2)

/-- `m ÷ 2^k` rounded to nearest even, where `sticky` says that bits below `m` were discarded; the second component says
whether anything was lost. -/
def rneShift (m k : Nat) (sticky : Bool) : Nat × Bool :=
  if k = 0 then (m, sticky)
  else
    let q := m / 2 ^ k
    let r := m % 2 ^ k
    let half := 2 ^ (k - 1)
    let up := half < r || (r = half && (sticky || q % 2 = 1))
    (if up then q + 1 else q, r != 0 || sticky)

/-- Round ±m × 2^e (with discarded bits below where `sticky`) into a format: bits and flags. Overflow gives ±Inf, or in a
format without infinities its largest finite value (R73, R84). -/
def Fmt.round (f : Fmt) (neg : Bool) (m : Nat) (e : Int) (sticky : Bool) : Nat × FFlags :=
  if m = 0 then (f.sign neg, if sticky then flUnderflow ||| flInexact else 0)
  else
    let top := e + Nat.log2 m
    let q := max (top - f.mb) f.emin
    let sh := q - e
    let (r, lost) := if sh ≤ 0 then (m * 2 ^ (-sh).toNat, sticky) else rneShift m sh.toNat sticky
    let ex : Nat := if r < 2 ^ f.mb then 0 else (q - f.emin).toNat + 1
    let bits := if r < 2 ^ f.mb then r else ex * 2 ^ f.mb + (r - 2 ^ f.mb)
    let minNorm := f.emin + f.mb
    let tiny := top < minNorm &&
      !(top + 1 = minNorm && (rneShift (m * 2 ^ (f.mb + 2)) (Nat.log2 m + 2) sticky).1 = 2 ^ (f.mb + 1))
    if f.infBits false ≤ bits && f.inf || f.maxBits false < bits then
      (if f.inf then f.infBits neg else f.maxBits neg, flOverflow ||| flInexact)
    else (f.sign neg + bits, (if lost then flInexact else 0) ||| (if lost && tiny then flUnderflow else 0))

/-- Exact sum of two finite values as one. -/
def addFin (n1 : Bool) (m1 : Nat) (e1 : Int) (n2 : Bool) (m2 : Nat) (e2 : Int) : Bool × Nat × Int :=
  let e := min e1 e2
  let a : Int := (if n1 then -1 else 1) * (m1 * 2 ^ (e1 - e).toNat : Nat)
  let b : Int := (if n2 then -1 else 1) * (m2 * 2 ^ (e2 - e).toNat : Nat)
  let s := a + b
  (if s = 0 then n1 && n2 else s < 0, s.natAbs, e)

/-- A NaN operand is signalling. -/
def FV.isSig : FV → Bool
  | .nan s => s
  | _ => false
/-- A NaN. -/
def FV.isNan : FV → Bool
  | .nan _ => true
  | _ => false
/-- The flags a NaN operand raises (R221). -/
def sigFlag (xs : List FV) : FFlags := if xs.any FV.isSig then flInvalid else 0

/-- Sum (R220). -/
def Fmt.add (f : Fmt) (x y : FV) : Nat × FFlags :=
  match x, y with
  | .fin n1 m1 e1, .fin n2 m2 e2 => let (n, m, e) := addFin n1 m1 e1 n2 m2 e2; f.round n m e false
  | .inf n1, .inf n2 => if n1 = n2 then (f.infBits n1, 0) else (f.nanBits, flInvalid)
  | .inf n, .fin _ _ _ => (f.infBits n, 0)
  | .fin _ _ _, .inf n => (f.infBits n, 0)
  | _, _ => (f.nanBits, sigFlag [x, y])

/-- Negation of a value. -/
def FV.neg : FV → FV
  | .nan s => .nan s
  | .inf n => .inf !n
  | .fin n m e => .fin (!n) m e

/-- Difference. -/
def Fmt.sub (f : Fmt) (x y : FV) : Nat × FFlags := f.add x y.neg

/-- Product. -/
def Fmt.mul (f : Fmt) (x y : FV) : Nat × FFlags :=
  match x, y with
  | .fin n1 m1 e1, .fin n2 m2 e2 => f.round (n1 != n2) (m1 * m2) (e1 + e2) false
  | .inf n1, .inf n2 => (f.infBits (n1 != n2), 0)
  | .inf n1, .fin n2 m _ => if m = 0 then (f.nanBits, flInvalid) else (f.infBits (n1 != n2), 0)
  | .fin n1 m _, .inf n2 => if m = 0 then (f.nanBits, flInvalid) else (f.infBits (n1 != n2), 0)
  | _, _ => (f.nanBits, sigFlag [x, y])

/-- Quotient. -/
def Fmt.div (f : Fmt) (x y : FV) : Nat × FFlags :=
  match x, y with
  | .fin n1 m1 e1, .fin n2 m2 e2 =>
    if m2 = 0 then (if m1 = 0 then (f.nanBits, flInvalid) else (f.infBits (n1 != n2), flDivZero))
    else
      let k := f.mb + 3 + Nat.log2 m2
      let q := m1 * 2 ^ k / m2
      f.round (n1 != n2) q (e1 - e2 - k) (m1 * 2 ^ k % m2 != 0)
  | .inf _, .inf _ => (f.nanBits, flInvalid)
  | .inf n1, .fin n2 _ _ => (f.infBits (n1 != n2), 0)
  | .fin n1 _ _, .inf n2 => (f.sign (n1 != n2), 0)
  | _, _ => (f.nanBits, sigFlag [x, y])

/-- Integer square root by bits, from bit `k - 1` down. -/
def isqrtFrom (n : Nat) : Nat → Nat → Nat
  | 0, r => r
  | k + 1, r => let r' := r + 2 ^ k; isqrtFrom n k (if r' * r' ≤ n then r' else r)

/-- Floor of the square root. -/
def isqrt (n : Nat) : Nat := isqrtFrom n (Nat.log2 n / 2 + 1) 0

/-- Square root (R220): √-0 = -0, a negative operand is invalid. -/
def Fmt.sqrt (f : Fmt) (x : FV) : Nat × FFlags :=
  match x with
  | .nan _ => (f.nanBits, sigFlag [x])
  | .inf n => if n then (f.nanBits, flInvalid) else (f.infBits false, 0)
  | .fin n m e =>
    if m = 0 then (f.sign n, 0)
    else if n then (f.nanBits, flInvalid)
    else
      let k := 2 * (f.mb + 3)
      let k := if (e - k) % 2 = 0 then k else k + 1
      let v := m * 2 ^ k
      let r := isqrt v
      f.round false r ((e - k) / 2) (r * r != v)

/-- Fused multiply-add with one rounding; 0 × ∞ is invalid whatever the addend (R220, R221). -/
def Fmt.fma (f : Fmt) (x y z : FV) : Nat × FFlags :=
  let bad := match x, y with
    | .inf _, .fin _ 0 _ => true
    | .fin _ 0 _, .inf _ => true
    | _, _ => false
  if bad then (f.nanBits, flInvalid)
  else match x, y, z with
  | .fin n1 m1 e1, .fin n2 m2 e2, .fin n3 m3 e3 =>
    let (n, m, e) := addFin (n1 != n2) (m1 * m2) (e1 + e2) n3 m3 e3
    f.round n m e false
  | .nan _, _, _ => (f.nanBits, sigFlag [x, y, z])
  | _, .nan _, _ => (f.nanBits, sigFlag [x, y, z])
  | _, _, .nan _ => (f.nanBits, sigFlag [x, y, z])
  | .fin _ _ _, .fin _ _ _, .inf n => (f.infBits n, 0)
  | _, _, _ =>
    let neg (v : FV) : Bool := match v with
      | .inf n => n
      | .fin n _ _ => n
      | .nan _ => false
    let p := neg x != neg y
    match z with
    | .inf n => if n = p then (f.infBits p, 0) else (f.nanBits, flInvalid)
    | _ => (f.infBits p, 0)

/-- Exact comparison of two finite values: x < y, and x = y (so -0 = +0). -/
def finLt (n1 : Bool) (m1 : Nat) (e1 : Int) (n2 : Bool) (m2 : Nat) (e2 : Int) : Bool :=
  let e := min e1 e2
  let a : Int := (if n1 then -1 else 1) * (m1 * 2 ^ (e1 - e).toNat : Nat)
  let b : Int := (if n2 then -1 else 1) * (m2 * 2 ^ (e2 - e).toNat : Nat)
  a < b

/-- x < y for numbers (R222). -/
def FV.lt : FV → FV → Bool
  | .fin n1 m1 e1, .fin n2 m2 e2 => finLt n1 m1 e1 n2 m2 e2
  | .inf n1, .inf n2 => n1 && !n2
  | .inf n, .fin _ _ _ => n
  | .fin _ _ _, .inf n => !n
  | _, _ => false
/-- x = y for numbers. -/
def FV.eq (x y : FV) : Bool := !x.isNan && !y.isNan && !x.lt y && !y.lt x

/-- The sign bit of a value. -/
def FV.isNeg : FV → Bool
  | .nan _ => false
  | .inf n => n
  | .fin n _ _ => n

/-- minimumNumber and maximumNumber on patterns: -0 below +0, one NaN gives the other operand, two give NaN; only a
signalling NaN raises invalid (R220, R221, R318). -/
def Fmt.minMax (f : Fmt) (mx : Bool) (a b : Nat) : Nat × FFlags :=
  let x := f.read a
  let y := f.read b
  let fl := sigFlag [x, y]
  match x.isNan, y.isNan with
  | true, true => (f.nanBits, fl)
  | true, false => (b, fl)
  | false, true => (a, fl)
  | false, false =>
    let less := if x.eq y then x.isNeg && !y.isNeg else x.lt y
    let more := if x.eq y then y.isNeg && !x.isNeg else y.lt x
    (if mx then (if less then b else a) else (if more then b else a), fl)

/-- Conversion between formats by value: exact where the target holds it, rounded to nearest even otherwise (R73, R223). -/
def Fmt.convert (f : Fmt) (x : FV) : Nat × FFlags :=
  match x with
  | .nan s => (f.nanBits, if s then flInvalid else 0)
  | .inf n => (if f.inf then f.infBits n else f.maxBits n, 0)
  | .fin n m e => f.round n m e false

/-- An exact integer rounded into a format. -/
def Fmt.ofInt (f : Fmt) (i : Int) : Nat × FFlags := f.round (i < 0) i.natAbs 0 false

/-- Truncate toward zero, saturating to `lo` and `hi`; NaN gives 0; out of range is invalid (R223). -/
def toIntSat (x : FV) (lo hi : Int) : Int × FFlags :=
  match x with
  | .nan _ => (0, flInvalid)
  | .inf n => (if n then lo else hi, flInvalid)
  | .fin n m e =>
    let q : Nat := if 0 ≤ e then m * 2 ^ e.toNat else m / 2 ^ (-e).toNat
    let lost : Bool := e < 0 && m % 2 ^ (-e).toNat != 0
    let v : Int := if n then -(q : Int) else q
    if v < lo then (lo, flInvalid) else if hi < v then (hi, flInvalid)
    else (v, if lost then flInexact else 0)

/-- Round to the nearest even integer and saturate; NaN gives 0 (R73: INT8 and I4S). -/
def toIntRne (x : FV) (lo hi : Int) : Int :=
  match x with
  | .nan _ => 0
  | .inf n => if n then lo else hi
  | .fin n m e =>
    let q : Nat := if 0 ≤ e then m * 2 ^ e.toNat else (rneShift m (-e).toNat false).1
    max lo (min hi (if n then -(q : Int) else q))

/-- FCLASS (R224). -/
def Fmt.classify (f : Fmt) (bits : Nat) : Nat :=
  match f.read bits with
  | .nan s => if s then 8 else 9
  | .inf n => if n then 0 else 7
  | .fin n m _ =>
    if m = 0 then (if n then 3 else 4)
    else if m < 2 ^ f.mb then (if n then 2 else 5)
    else (if n then 1 else 6)

/-! ## Correctly rounded functions of R86 and R318, by exact fixed-point arithmetic

2^f and log2 y of a rational argument that is no power of two are irrational, so a result carried to far more bits than
the format holds, with a sticky bit, rounds correctly. -/

/-- Fraction bits carried. -/
def fixBits : Nat := 320

/-- 2^(2^-1), 2^(2^-2), … in fixed point, `n` of them, by repeated square roots. -/
def rootsOfTwo : Nat → Nat → List Nat
  | 0, _ => []
  | n + 1, c =>
    let r := isqrt (c * 2 ^ fixBits)
    r :: rootsOfTwo n r

/-- The product of the roots that the fraction bits of `fr` (of `k` bits, highest first) select. -/
def expBits (fr : Nat) : Nat → List Nat → Nat → Nat
  | 0, _, acc => acc
  | _, [], acc => acc
  | k + 1, r :: rs, acc => expBits fr k rs (if fr / 2 ^ k % 2 = 1 then acc * r / 2 ^ fixBits else acc)

/-- 2^x in binary32 (R318). -/
def fp32Exp2 (x : FV) : Nat :=
  match x with
  | .nan _ => fp32.nanBits
  | .inf n => if n then 0 else fp32.infBits false
  | .fin n m e =>
    if m = 0 then (fp32.ofInt 1).1
    else
      let sc : Int := (if n then -1 else 1) * (m * 2 ^ (e + 160).toNat : Nat)
      let whole := sc / 2 ^ 160
      let fr := (sc % 2 ^ 160).toNat
      if 128 ≤ whole then fp32.infBits false
      else if whole < -160 then 0
      else
        let v := expBits fr 160 (rootsOfTwo 160 (2 * 2 ^ fixBits)) (2 ^ fixBits)
        (fp32.round false v (whole - fixBits) (fr != 0)).1

/-- Fraction bits of log2 y for y in [1, 2), by squaring; `n` of them. -/
def logBits : Nat → Nat → Nat → Nat
  | 0, _, acc => acc
  | n + 1, y, acc =>
    let s := y * y / 2 ^ fixBits
    if 2 * 2 ^ fixBits ≤ s then logBits n (s / 2) (2 * acc + 1) else logBits n s (2 * acc)

/-- log2 x in binary32 (R318). -/
def fp32Log2 (x : FV) : Nat :=
  match x with
  | .nan _ => fp32.nanBits
  | .inf n => if n then fp32.nanBits else fp32.infBits false
  | .fin n m e =>
    if m = 0 then fp32.infBits true
    else if n then fp32.nanBits
    else
      let l := Nat.log2 m
      let whole : Int := e + l
      if m = 2 ^ l then (fp32.ofInt whole).1
      else
        let fr := logBits 150 (m * 2 ^ (fixBits - l)) 0
        let v : Int := whole * 2 ^ 150 + fr
        if 0 ≤ v then (fp32.round false v.toNat (-150) true).1
        else (fp32.round true (v.natAbs - 1) (-150) true).1

/-- 1 ÷ x in binary32. -/
def fp32Rcp (x : FV) : Nat := (fp32.div (.fin false 1 0) x).1

/-- 1 ÷ √x in binary32. -/
def fp32Rsq (x : FV) : Nat :=
  match x with
  | .nan _ => fp32.nanBits
  | .inf n => if n then fp32.nanBits else 0
  | .fin n m e =>
    if m = 0 then fp32.infBits n
    else if n then fp32.nanBits
    else
      let (m, e) := if e % 2 = 0 then (m, e) else (2 * m, e - 1)
      let t := 60 + Nat.log2 m
      let r := isqrt (2 ^ (2 * t) / m)
      (fp32.round false r (-(e / 2) - t) (r * r * m != 2 ^ (2 * t))).1

end Sys2Proof.Machine
end

