-- ==== Sys2Proof/Machine/Atoms.lean ====
section
/-!
DEFINITION. Sys2Proof/Machine/Atoms.lean: atoms, bursts and their arithmetic (R53 to R88): the pattern enumeration,
decoding, the encoding search, block scales, pulse-counting steps and drains.
-/

namespace Sys2Proof.Machine

/-! ## Burst headers (R61, R64) -/

def hdrS (h : BitVec 32) : Nat := (h.extractLsb' 24 8).toNat
def hdrL (h : BitVec 32) : Nat := (h.extractLsb' 8 16).toNat
def hdrLast (h : BitVec 32) : Bool := h.getLsbD 7
def hdrLong (h : BitVec 32) : Bool := h.getLsbD 6
def hdrK (h : BitVec 32) : Nat := (h.extractLsb' 0 4).toNat + 1

/-- Malformed: L is 0, bits 5:4 are not zero, or short with K above 3 (R64). -/
def hdrBad (h : BitVec 32) : Bool :=
  hdrL h == 0 || h.extractLsb' 4 2 != 0 || (!hdrLong h && 3 < hdrK h)

/-- A header word. -/
def mkHdr (s l : Nat) (last long : Bool) (k : Nat) : BitVec 32 :=
  BitVec.ofNat 32 (s % 256 * 2 ^ 24 + l % 65536 * 2 ^ 8 + bool1 last * 128 + bool1 long * 64 + (k - 1) % 16)

/-- Data words of a burst after its header (R62). -/
def hdrWords (h : BitVec 32) : Nat := if hdrLong h then hdrL h else (hdrL h + 1) / 2

/-! ## Counting and enumerating patterns (R68 to R70) -/

/-- V(n, 0), …, V(n, k). -/
def vRow (k : Nat) : Nat → List Nat
  | 0 => 1 :: List.replicate k 0
  | n + 1 =>
    let p := vRow k n
    -- V(n,j) = V(n-1,j) + V(n,j-1) + V(n-1,j-1)
    (p.drop 1).zip p |>.foldl (fun acc (x, y) => acc ++ [x + acc.getLastD 1 + y]) [1]

/-- V(n, k). -/
def vCount (n k : Nat) : Nat := (vRow k n).getD k 0

/-- Index of a pattern of length `y.length` and sum `k`. -/
def patIndex : List Int → Nat → Nat
  | [], _ => 0
  | y :: ys, k =>
    let m := ys.length
    let a := y.natAbs
    let skip :=
      if a = 0 then 0
      else vCount m k + sumNat ((List.range (a - 1)).map fun b => 2 * vCount m (k - (b + 1))) +
        (if y < 0 then vCount m (k - a) else 0)
    skip + patIndex ys (k - a)

/-- The magnitude the Pattern loop settles on, from 1 upward, and what is left of the index. -/
def patMag (m k : Nat) : Nat → Nat → Nat → Nat × Nat
  | 0, idx, a => (idx, a)
  | t + 1, idx, a =>
    let w := 2 * vCount m (k - a)
    if a + 1 ≤ k && w ≤ idx then patMag m k t (idx - w) (a + 1) else (idx, a)

/-- Pattern of length `n` and sum `k` at an index. -/
def pattern : Nat → Nat → Nat → List Int
  | 0, _, _ => []
  | m + 1, k, idx =>
    let v0 := vCount m k
    if idx < v0 then 0 :: pattern m k idx
    else
      let (i, a) := patMag m k (k - 1) (idx - v0) 1
      let p := vCount m (k - a)
      if p ≤ i then (-(a : Int)) :: pattern m (k - a) (i - p)
      else (a : Int) :: pattern m (k - a) i

/-! ## Atoms (R54 to R57) -/

/-- What an atom stands for: poison, zero (`bad`: a non-pattern or a zero code with a nonzero index), or a pattern with
its exponent in eighth-octaves. -/
inductive AtomV where
  | poison
  | zero (bad : Bool)
  | live (y : List Int) (n : Int)
deriving DecidableEq, Repr

/-- Gain code of an atom. -/
def atomGain (long : Bool) (a : Nat) : Nat := if long then a / 2 ^ 24 % 256 else a / 2 ^ 10 % 64
/-- Index of an atom. -/
def atomIdx (long : Bool) (a : Nat) : Nat := if long then a % 2 ^ 24 else a % 2 ^ 10
/-- Poison code of a width. -/
def poisonCode (long : Bool) : Nat := if long then 255 else 63
/-- Largest live code of a width. -/
def maxCode (long : Bool) : Nat := if long then 254 else 62
/-- An atom of a gain code and an index. -/
def mkAtom (long : Bool) (g idx : Nat) : Nat := if long then g * 2 ^ 24 + idx else g * 2 ^ 10 + idx

/-- Decode under the latched header; the first matching row of R56 decides. -/
def atomRead (h : BitVec 32) (a : Nat) : AtomV :=
  let long := hdrLong h
  let g := atomGain long a
  let idx := atomIdx long a
  if hdrS h = 255 then .poison
  else if g = poisonCode long then .poison
  else if g = 0 then .zero (idx != 0)
  else if vCount 8 (hdrK h) ≤ idx then .zero true
  else
    let n : Int := if long then 8 * ((hdrS h : Int) - 127) + ((g : Int) - 254)
      else 8 * ((hdrS h : Int) - 127) + 2 * ((g : Int) - 62)
    .live (pattern 8 (hdrK h) idx) n

/-- An atom is canonical under its header (R57). -/
def atomCanonical (h : BitVec 32) (a : Nat) : Bool :=
  let long := hdrLong h
  let g := atomGain long a
  let idx := atomIdx long a
  if g = 0 || g = poisonCode long then idx == 0 else idx < vCount 8 (hdrK h)

/-- Whether decoding sets ATOMINV. -/
def AtomV.bad : AtomV → Bool
  | .zero b => b
  | _ => false

/-! ## Decode (R75, R76) -/

/-- The drain constants c_0 to c_7. -/
def drainConst (f : Nat) : Nat :=
  [0x80000000, 0x8B95C1E4, 0x9837F052, 0xA5FED6AA, 0xB504F334, 0xC5672A11, 0xD744FCCB, 0xEAC0C6E8].getD f 0

/-- The eight binary32 values of an atom. -/
def atomDecode : AtomV → List Nat
  | .poison => List.replicate 8 fp32.nanBits
  | .zero _ => List.replicate 8 0
  | .live y n =>
    let f := (n % 8).toNat
    let q := n / 8
    y.map fun v => if v = 0 then 0 else (fp32.round (v < 0) (v.natAbs * drainConst f) (q - 31) false).1

/-! ## The encoding search (R77, R78) -/

/-- An encoded result: poison, zero, or a pattern and its exponent. -/
abbrev Enc := Option (List Int × Int)
/-- The ZERO result. -/
def encZero : Enc := some ([], 0)

/-- Thresholds T8 and T4 of R78, as binary32 patterns. -/
def thresholds (long : Bool) : List Nat :=
  if long then [0x3F85AAC3, 0x3F91C3D3, 0x3F9EF532, 0x3FAD583F, 0x3FBD08A4, 0x3FCE248C, 0x3FE0CCDF, 0x3FF5257D]
  else [0x3F8B95C2, 0x3FA5FED7, 0x3FC5672A, 0x3FEAC0C7]

/-- QuantiseGain of G = c ÷ e2 × 2^x. -/
def quantiseGain (long : Bool) (c e2 : Nat) (x : Int) : Int :=
  let a : Int := (Nat.log2 (c * 2 ^ 40 / e2) : Int) - 40
  let k := a + x
  let reached := (thresholds long).countP fun t =>
    let tm := t % 2 ^ 23 + 2 ^ 23
    decide (tm * e2 * 2 ^ (a + 100).toNat ≤ c * 2 ^ 123)
  if long then 8 * k + reached else 2 * (4 * k + reached)

/-- The element the greedy loop gives the next pulse: ties keep the lower index. -/
def greedyPick (c : Nat) (e2 : Nat) : List (Nat × Nat) → Nat → Nat → Nat × Nat → Nat
  | [], _, best, _ => best
  | (a, p) :: rest, i, best, (ab, pb) =>
    if (c + ab) ^ 2 * (e2 + 2 * p + 1) < (c + a) ^ 2 * (e2 + 2 * pb + 1) then greedyPick c e2 rest (i + 1) i (a, p)
    else greedyPick c e2 rest (i + 1) best (ab, pb)

/-- The greedy loop: `n` pulses to place. -/
def greedy (as : List Nat) : Nat → List Nat → Nat → Nat → List Nat × Nat × Nat
  | 0, ps, c, e2 => (ps, c, e2)
  | n + 1, ps, c, e2 =>
    let aps := as.zip ps
    let j := greedyPick c e2 (aps.drop 1) 1 0 (aps.getD 0 (0, 0))
    greedy as n (modifyAt ps j (· + 1)) (c + as.getD j 0) (e2 + 2 * ps.getD j 0 + 1)

/-- EncodeAtom of eight binary32 patterns. -/
def encodeAtom (v : List Nat) (k : Nat) (long : Bool) : Enc :=
  let vs := v.map fp32.read
  if vs.any fun x => match x with | .fin _ _ _ => false | _ => true then none
  else
    let fin := vs.map fun x => match x with | .fin n m e => (n, m, e) | _ => (false, 0, 0)
    if fin.all fun x => x.2.1 == 0 then encZero
    else
      let top : Int := fin.foldl (fun t x => if x.2.1 = 0 then t else max t (x.2.2 + Nat.log2 x.2.1)) (-1000)
      let as := fin.map fun x =>
        let sh := x.2.2 + (23 - top)
        if 0 ≤ sh then x.2.1 * 2 ^ sh.toNat else x.2.1 / 2 ^ (-sh).toNat
      let a := sumNat as
      let ps := as.map fun x => k * x / a
      let c := sumNat ((as.zip ps).map fun x => x.1 * x.2)
      let e2 := sumNat (ps.map fun p => p * p)
      let (ps, c, e2) := greedy as (k - sumNat ps) ps c e2
      let neg := v.map fun b => b / 2 ^ 31 % 2 == 1
      let y := (neg.zip ps).map fun x => if x.1 then -(x.2 : Int) else (x.2 : Int)
      some (y, quantiseGain long c e2 (top - 23))

/-! ## Block scales (R79) -/

/-- ATOMFLAGS bits (R58). -/
def afInv : Nat := 0
def afUf : Nat := 1
def afOv : Nat := 2
def afClamp : Nat := 3
def afI4s : Nat := 4

/-- S of a burst of results, and whether it was clamped at 254. -/
def burstScale (rs : List Enc) : Nat × Bool :=
  let ns := rs.filterMap fun r => match r with
    | some (_ :: _, n) => some n
    | _ => none
  match ns with
  | [] => (127, false)
  | n :: rest =>
    let nmax := rest.foldl max n
    let s : Int := 127 - (-nmax) / 8   -- 127 + ceil(nmax ÷ 8)
    if 254 < s then (254, true) else if s < 0 then (0, false) else (s.toNat, false)

/-- One atom of a burst of scale `s`: the atom, and the flags ATOMUF and ATOMOV it sets. -/
def atomWrite (long : Bool) (k s : Nat) (r : Enc) : Nat × Bool × Bool :=
  match r with
  | none => (mkAtom long (poisonCode long) 0, false, false)
  | some ([], _) => (0, false, false)
  | some (y, n) =>
    let g : Int := if long then n - 8 * ((s : Int) - 127) + 254 else (n - 8 * ((s : Int) - 127)) / 2 + 62
    if (maxCode long : Int) < g then (mkAtom long (maxCode long) (patIndex y k), false, true)
    else if g < 1 then (0, true, false)
    else (mkAtom long g.toNat (patIndex y k), false, false)

/-- A burst of results: its S, its atoms, and the ATOMFLAGS it sets as a mask. -/
def burstWrite (long : Bool) (k : Nat) (rs : List Enc) : Nat × List Nat × Nat :=
  let (s, clamped) := burstScale rs
  let ws := rs.map (atomWrite long k s)
  let uf := ws.any (·.2.1)
  let ov := clamped || ws.any (·.2.2)
  (s, ws.map (·.1), bool1 uf * 2 ^ afUf + bool1 ov * 2 ^ afOv)

/-- Atoms packed into 32-bit words (R62); the pad of an odd short burst is zero. -/
def packAtoms (long : Bool) : List Nat → List (BitVec 32)
  | [] => []
  | [a] => [BitVec.ofNat 32 a]
  | a :: b :: rest =>
    if long then BitVec.ofNat 32 a :: packAtoms long (b :: rest)
    else BitVec.ofNat 32 (a + b * 2 ^ 16) :: packAtoms long rest

/-! ## Pulse counting (R80 to R84) -/

/-- Sum of the products of the positions the mask leaves. -/
def dotPulses (mask : Nat) : List Int → List Int → Nat → Int
  | x :: xs, y :: ys, i => (if mask / 2 ^ i % 2 = 1 then 0 else x * y) + dotPulses mask xs ys (i + 1)
  | _, _, _ => 0

/-- What one accumulation step adds to a plane: the class, the signed window units, and whether the product was clamped;
or poison; or nothing. -/
inductive Step where
  | poison
  | none
  | add (f : Nat) (w : Int) (clamp : Bool)
deriving DecidableEq, Repr

/-- PdotStep of R81 without the plane. -/
def pdotStep (a b : AtomV) (mask : Nat) (anc : Int) : Step :=
  match a, b with
  | .poison, _ => .poison
  | _, .poison => .poison
  | .live ya na, .live yb nb =>
    let pd := dotPulses mask ya yb 0
    let e := na + nb
    let q := e / 8 + 32 - anc
    let w : Nat := if 0 ≤ q then pd.natAbs * 2 ^ q.toNat else pd.natAbs / 2 ^ (-q).toNat
    let clamp := 2 ^ 47 ≤ w
    let w := if clamp then 2 ^ 47 - 1 else w
    .add (e % 8).toNat (if pd < 0 then -(w : Int) else w) clamp
  | _, _ => .none

/-- The drain formats (R84, R308): 0 binary32, 1 BF16, 2 FP16. -/
def drainFmt (f : Nat) : Fmt := if f = 0 then fp32 else if f = 1 then bf16 else fp16

/-- The drained value of a plane. -/
def drainValue (acc : List Int) (poison : Bool) (fmt : Fmt) (anc : Int) : Nat :=
  if poison then fmt.nanBits
  else
    let t : Int := ((List.range 8).map fun f => acc.getD f 0 * drainConst f).foldl (· + ·) 0
    if t = 0 then 0 else (fmt.round (t < 0) t.natAbs (anc - 63) false).1

/-! ## PSCL and PNEG (R85, R314) -/

/-- PSCL of one atom: the new atom and the flags it sets, as a mask. -/
def psclAtom (h : BitVec 32) (amt : Int) (a : Nat) : Nat × Nat :=
  let long := hdrLong h
  match atomRead h a with
  | .poison => (mkAtom long (poisonCode long) 0, 0)
  | .zero bad => (0, bool1 bad)
  | .live _ _ =>
    let g : Int := atomGain long a + amt
    if g < 1 then (0, 2 ^ afUf)
    else if (maxCode long : Int) < g then (mkAtom long (maxCode long) (atomIdx long a), 2 ^ afOv)
    else (mkAtom long g.toNat (atomIdx long a), 0)

/-- PNEG of one atom. -/
def pnegAtom (h : BitVec 32) (a : Nat) : Nat × Nat :=
  let long := hdrLong h
  match atomRead h a with
  | .poison => (mkAtom long (poisonCode long) 0, 0)
  | .zero bad => (0, bool1 bad)
  | .live y _ => (mkAtom long (atomGain long a) (patIndex (y.map (- ·)) (hdrK h)), 0)

end Sys2Proof.Machine
end

