-- ==== Sys2Proof/Machine/Access.lean ====
section
/-!
DEFINITION. Sys2Proof/Machine/Access.lean: how the acting task reaches memory: where an address leads (R89 to R91, R210,
R232), the range scoreboard (R95, R96), the noise aperture (R104 to R107), and reading and writing what was reached, in
ordinary and in deterministic mode (R113, R114, R120, R128 to R131, R373, R465).
-/

namespace Sys2Proof.Machine

/-! ## The noise aperture (R104, R105) -/

/-- Mix (R105), modulo 2^64. -/
def mix (x : Word) : Word :=
  let x := (x ^^^ (x >>> 30)) * 0xBF58476D1CE4E5B9
  let x := (x ^^^ (x >>> 27)) * 0x94D049BB133111EB
  x ^^^ (x >>> 31)

/-- The four 16-bit fields of a word summed. -/
def sum16 (h : Word) : Nat := bitsAt h 0 16 + bitsAt h 16 16 + bitsAt h 32 16 + bitsAt h 48 16

/-- Noise(i): a binary32 pattern (R105). -/
def noise (d : NoiseDesc) (seed : Word) (step : BitVec 32) (i : Word) : Nat :=
  let x := (i * 0x9E3779B97F4A7C15 + seed) ^^^ (step.setWidth 64 * 0xD1B54A32D192ED03)
  let h := mix (mix x + seed)
  let n := if d.sum8 then 8 else 4
  let u := sum16 h + (if d.sum8 then sum16 (mix (h + 0x9E3779B97F4A7C15)) else 0)
  -- s = (Σ u - n × 32,767.5) ÷ 65,536, exactly
  let t : Int := 2 * u - n * 65535
  let c := if d.sum8 then 0x3F9CC471 else 0x3FDDB3D7
  let z := (fp32.mul (.fin (t < 0) t.natAbs (-17)) (fp32.read c)).1
  (fp32.mul (fp32.read z) (fp32.read d.sigma)).1

/-- One generated burst of an atom-format region: header and atoms, as its bytes (R107). -/
def noiseBurst (d : NoiseDesc) (seed : Word) (step : BitVec 32) (b : Nat) : List Byte :=
  let long := d.fmt == 3
  let k := d.km1 + 1
  let enc := (List.range d.bl).map fun j =>
    encodeAtom ((List.range 8).map fun p => noise d seed step (BitVec.ofNat 64 (8 * (b * d.bl + j) + p))) k long
  let (s, atoms, _) := burstWrite long k enc
  (mkHdr s d.bl false long k :: packAtoms long atoms).flatMap fun w => leBytes 4 w.toNat

/-- Bytes of a burst of a noise region. -/
def noiseBurstLen (d : NoiseDesc) : Nat := 4 + 4 * (if d.fmt == 3 then d.bl else (d.bl + 1) / 2)

/-- `n` bytes of a noise region at an address, generated at the source (R106, R107). An address below BASE gives the offset modulo
2^64, which the spec does not say (DESIGN CHOICE, log 97). -/
def noiseBytes (d : NoiseDesc) (seed : Word) (step : BitVec 32) (va : Word) (n : Nat) : List Byte :=
  let off := (va - d.base).toNat
  match d.fmt with
  | 0 => ((List.range (n / 4 + 1)).flatMap fun j =>
      leBytes 4 (noise d seed step (BitVec.ofNat 64 (off / 4 + j)))).drop (off % 4) |>.take n
  | 1 => ((List.range (n / 2 + 1)).flatMap fun j =>
      leBytes 2 (bf16.convert (fp32.read (noise d seed step (BitVec.ofNat 64 (off / 2 + j))))).1).drop (off % 2)
        |>.take n
  | _ =>
    let len := noiseBurstLen d
    ((List.range (n / len + 2)).flatMap fun j => noiseBurst d seed step (off / len + j)).drop (off % len) |>.take n

/-! ## Where an address leads -/

/-- Kinds of access. -/
inductive Kind where
  | load | store | atomic | fetch | engRead | engWrite
deriving DecidableEq, Repr

/-- The access writes. -/
def Kind.writes : Kind → Bool
  | .store | .atomic | .engWrite => true
  | _ => false

/-- What an address reaches. -/
inductive Target where
  | mem (key : Nat) (slot : BitVec 7)
  | host (key : Nat)
  | bank (key : Nat)
  | noise (d : NoiseDesc)
  | sluice (obj : Nat) (off : Nat) (fill : Bool)
  | remote (pkg : BitVec 8) (obj : Word) (off : Nat)
deriving DecidableEq, Repr

/-- The outcome of the address checks, with the state as the walk leaves it. -/
inductive Place where
  | ok (s : State) (t : Target)
  | trap (s : State) (cause : BitVec 8)
  | wait (w : WaitOn)
deriving DecidableEq, Repr

/-- The mill-local window (R91, R94): a bank in SCRATCH mode; a bank whose mode is changing stalls. -/
def placeWindow (s : State) (va : Word) : Place :=
  let b := (va.toNat - windowBase) / 65536
  let m := s.mill s.me.mill
  if h : b < 24 then
    if m.busy.any (fun x => x.1 == b) then .wait .bankBusy
    else if m.modes[b] != 1 then .trap s tcPROT
    else .ok s (.bank (keyOf spBank ((s.me.mill * 24 + b) * 65536 + va.toNat % 65536)))
  else .trap s tcPROT

/-- The object that a slot of another package's object maps: bits 63:0 of its handle (R109). -/
def WinSlot.id (w : WinSlot) : Word := w.gen ++ w.pkg ++ BitVec.ofNat 40 w.obj

/-- A sluice window of the task (R232, R233, R90): the slot's mapping, its size and its right. -/
def placeSluice (s : State) (va : Word) (size : Nat) (kind : Kind) : Place :=
  let k := (va.toNat - sluiceBase) / 2 ^ 24
  let off := va.toNat % 2 ^ 24
  match s.me.window.find? fun w => w.slot == k with
  | none => .trap s tcPGFLT
  | some w =>
    if w.pkg != s.wh.pkg then
      (if (Config.remoteSize w.id).toNat + 1 < off + size then .trap s tcPGFLT
      else if kind == .fetch || kind.writes then .trap s tcPROT
      else .ok s (.remote w.pkg w.id off))
    else match s.objs.find? fun o => o.id == w.obj with
      | none => .trap s tcPGFLT
      | some o =>
        if o.size < off + size then .trap s tcPGFLT
        else if kind == .fetch || (kind.writes && !w.fill) then .trap s tcPROT
        else .ok s (.sluice w.obj off w.fill)

/-- Page type and location allow the access (R90, R106, R215, R399, R401). A pond address waits while its tile's mode changes (R99);
it raises PROT while the tile pushes (R98), and where a translation that a TLB or an element has kept leads to a tile that is in
HOME mode no more (R332 for AGRED; for other accesses DESIGN CHOICE, log 26). -/
def placePage (s : State) (va : Word) (size : Nat) (kind : Kind) (p : Word) (sz : Nat) : Place :=
  if pteType p = 1 then
    if kind == .fetch then .trap s tcPROT
    else if kind.writes then .trap s tcNOISEWR
    else match noiseDesc s s.me.id.fn (bitsAt p 16 8) with
      | none => .trap s tcPGFLT
      | some d =>
        if kind == .load then
          let es := if d.fmt = 0 then 4 else 2
          if 2 ≤ d.fmt then .trap s tcPROT
          else if va.toNat % es ≠ 0 then .trap s tcALIGN
          else if size ≠ es then .trap s tcPROT
          else .ok s (.noise d)
        else .ok s (.noise d)
  else if pteLoc p = 1 && (s.tile (pteTile p sz va)).busy.isSome then .wait .bankBusy
  else if pteLoc p = 1 && (s.tile (pteTile p sz va)).mode != 2 then .trap s tcPROT
  else if pteType p = 3 then
    if kind == .load then .ok s (.mem (physKey p sz va) (pteKey p)) else .trap s tcPROT
  else if kind.writes && pteRo p then .trap s tcPROT
  else if pteLoc p = 2 then
    if kind == .atomic then .trap s tcPROT else .ok s (.host (physKey p sz va))
  else .ok s (.mem (physKey p sz va) (pteKey p))

/-- Checks 1 and 3 to 6 of R210, and where the address leads. -/
def place (s : State) (va : Word) (size : Nat) (kind : Kind) : Place :=
  if !canonical va then .trap s tcPGFLT
  else if inWindow va then placeWindow s va
  else if inSluice va then placeSluice s va size kind
  else
    let (r, s1) := s.translate va
    match r with
    | .error c => .trap s1 c
    | .ok (p, sz) =>
      if pteWorld p != s1.me.eff.world then .trap s1 tcPROT else placePage s1 va size kind p sz

/-! ## The range scoreboard (R95, R96) -/

/-- The footprint table of the acting task's mill. -/
def State.feet (s : State) : List (TaskId × Foot) :=
  (s.all.filter fun t => t.isPlaced && t.mill == s.me.mill).flatMap fun t =>
    t.cmds.flatMap fun c => c.foot.map fun f => (t.id, f)

/-- Two ranges share a 64-byte granule. -/
def granulesMeet (lo1 hi1 lo2 hi2 : Nat) : Bool := lo1 / 64 ≤ hi2 / 64 && lo2 / 64 ≤ hi1 / 64

/-- The scoreboard holds an access of `n` bytes back: a load meets a write range, a store or atomic any range; an access in a
sluice window is compared with the ranges of its own task alone. -/
def State.heldBack (s : State) (va : Word) (n : Nat) (store : Bool) : Bool :=
  s.feet.any fun (t, f) =>
    (store || f.write) && (!inSluice va || t == s.me.id) && granulesMeet va.toNat (va.toNat + n - 1) f.lo f.hi

/-! ## CheckAccess (R210) -/

/-- An object of another package is still FILLING there, as far as a path to it remains (R110, R125; log 33). -/
def State.remoteFilling (s : State) (pkg : BitVec 8) (obj : Word) : Bool := s.reaches pkg && s.time < Config.remoteFills obj

/-- A see-load of another package's object to which no path remains stops the task with SEVERED (R160, R413). -/
def State.severed (s : State) (t : Target) : Bool :=
  match t with
  | .remote pkg _ _ => !s.reaches pkg
  | _ => false

/-- A see-load of a FILLING object sleeps, of an abandoned one traps (R125); one whose path is lost does neither (R160). -/
def seeCheck (s : State) : Target → Option (Except WaitOn (BitVec 8))
  | .sluice obj _ false =>
    match s.objs.find? fun o => o.id == obj with
    | some o =>
      if o.st == .filling then some (.error (.seeLoad obj))
      else if o.st == .abandoned then some (.ok tcSLABANDON) else none
    | none => none
  | .remote pkg obj _ =>
    if !s.reaches pkg then none
    else if s.remoteFilling pkg obj then some (.error (.remoteLoad pkg obj))
    else if Config.remoteAbandoned obj then some (.ok tcSLABANDON) else none
  | _ => none

/-- The key whose line carries the data. -/
def Target.key : Target → Option Nat
  | .mem k _ => some k
  | .host k => some k
  | .bank k => some k
  | .sluice o off _ => some (keyOf spSluice (o * 2 ^ 24 + off))
  | _ => none

/-- The data stands in a line with an uncorrectable error. -/
def State.bad (s : State) (t : Target) : Bool :=
  match t.key with
  | some k => s.ecc.contains (lineOf k)
  | none => false

/-- The trap of an instruction whose access fails: TRAPINFO holds the address, and 0 for SLABANDON (R139). -/
def State.accessTrap (s : State) (c : BitVec 8) (va : Word) : State := s.trapAt c (if c = tcSLABANDON then 0 else va)

/-- The checks of a miller access in the order of R210; a fault of the race link stops a remote see-load (R160). -/
def checkAccess (s : State) (va : Word) (size : Nat) (kind : Kind) : Place :=
  if !canonical va then .trap s tcPGFLT
  else if va.toNat % size ≠ 0 then .trap s tcALIGN
  else match place s va size kind with
    | .ok s1 t =>
      if s1.heldBack va size kind.writes then .wait (.scoreboard va size kind.writes)
      else match seeCheck s1 t with
        | some (.error w) => .wait w
        | some (.ok c) => .trap s1 c
        | none => if s1.bad t && kind != .store then .trap s1 tcECCUE else .ok s1 t
    | r => r

/-! ## The reservoir (R101, R103) and the event counters of memory (R435) -/

/-- Sets of the reservoir: 2,048 MiB of 128-byte lines in 16 ways; the set is chosen by the low bits of the line's number, which
the spec does not state (DESIGN CHOICE, log 98). -/
def rsvSets : Nat := 1048576

/-- A valid retention range of a function covers an address: the number of its register (R102, R253). -/
def pinRange (f : Fn) (va : Word) : Option Nat :=
  (List.range 16).find? fun i => match f.retain.toList[i]? with
    | some (b, l) => bitAt b 0 && bitsAt b 16 41 ≤ bitsAt va 16 41 && bitsAt va 16 41 ≤ bitsAt l 16 41
    | none => false

/-- Drop the least recently used line that is not pinned. -/
def dropUnpinned : List RsvLine → List RsvLine
  | [] => []
  | l :: rest => if l.pin.isNone && rest.all (fun x => x.pin.isSome) then rest else l :: dropUnpinned rest

/-- The set after a line has been filled (R103): pinned while the set holds fewer than 12 pinned lines; a NORMAL line enters at
most recently used, an EVICT line at least recently used; a full set loses a line first. -/
def rsvFill (set : List RsvLine) (l : RsvLine) (evict : Bool) : List RsvLine :=
  let l1 := if (set.filter fun x => x.pin.isSome).length < 12 then l else { l with pin := none }
  let s1 := if set.length < 16 then set else dropUnpinned set
  if evict then s1 ++ [l1] else l1 :: s1

/-- An access that would fill the line `x` reaches the reservoir: whether the line was there, filled by which function, and the set
after it; a hit makes the line the most recently used (DEDUCED, log 98). -/
def State.rsvAccess (s : State) (x : RsvLine) (evict : Bool) : Option Nat × State :=
  let n := x.line % rsvSets
  let set := aget [] s.rsv n
  match set.find? fun y => y.line == x.line with
  | some y => (some y.fn, { s with rsv := aset s.rsv n (y :: set.filter fun z => z.line != x.line) })
  | none => (none, { s with rsv := aset s.rsv n (rsvFill set x evict) })

/-- A line as an access at an address of the acting task fills it, and whether its page is of class EVICT. -/
def State.rsvNew (s : State) (line : Nat) (va : Word) : RsvLine × Bool :=
  let p := match walk s s.me.id.fn va with
    | .ok (p, _) => p
    | .error _ => 0
  (⟨line, s.me.id.fn, pteKey p, pinRange (s.fn s.me.id.fn) va⟩, pteRet p == 1)

/-- The retention register of a function is cleared: its lines are unpinned where they stand (R103). -/
def State.rsvUnpin (s : State) (fn r : Nat) : State :=
  { s with rsv := s.rsv.map fun x => (x.1, x.2.map fun l => if l.fn == fn && l.pin == some r then { l with pin := none } else l) }

/-- Drop the lines of the reservoir that satisfy a test; their data are in memory (R418, R439). -/
def State.rsvDrop (s : State) (p : RsvLine → Bool) : State :=
  { s with rsv := s.rsv.map fun x => (x.1, x.2.filter fun l => !p l) }

/-- The acting task's block is charged with a unit of a pond page from its first access on (R98; DEDUCED, log 99). -/
def State.pondUse (s : State) (k : Nat) : State :=
  let u := k % 2 ^ 60 / 65536
  s.mapBlk s.me.id.fn s.me.id.blk fun b => if b.pages.contains u then b else { b with pages := u :: b.pages }

/-- A pond access counts for the function that owns the tile (R435). -/
def State.pondEvent (s : State) (tile : Nat) (wr : Bool) : State :=
  if (s.tile tile).owner == (s.fn s.me.id.fn).tag then s.count (if wr then 0x023 else 0x022) 1 else s

/-- The mill holds lines of ordinary memory: a bank of it is in CACHE mode (R94). -/
def Mill.caches (m : Mill) : Bool := m.modes.toList.any (· == 0)

/-- Event counters of an access to one line of HBM (R435), which would fill the line `x` of the reservoir: hits and misses of the mill
cache - in a mill with no bank in CACHE mode every access misses and goes on to the pond (R94) -, and where it and the pond's cache
tiles miss, which is the device's affair (log 43), of the reservoir, for lines of the task's own partition. -/
def State.cacheEvent (s : State) (x : RsvLine × Bool) : State :=
  let hit := (s.mill s.me.mill).caches && Config.cacheHit s.free
  let below := !hit && !Config.cacheHit (s.free + 1)
  let (r, s1) := s.rsvAccess x.1 x.2
  let own := r.isNone || r == some s.me.id.fn
  let c1 := s.me.ctx.count (if hit then 0x020 else 0x021) 1
  { s with
    free := s.free + 2
    rsv := if below then s1.rsv else s.rsv
    me := { s.me with ctx := { s.me.ctx with ctrs :=
      if below && own then (c1.count (if r.isSome then 0x024 else 0x025) 1).ctrs else c1.ctrs } } }

/-- The object stands in a HOME tile. -/
def State.objTile (s : State) (obj : Nat) : Option Nat := (s.objs.find? fun o => o.id == obj).bind (·.tile)

/-- Event counters of an access of `n` bytes to a target at an address: one event for each line of HBM it touches, one for an access to
the pond, sluice storage among both. A deferred access of deterministic mode counts as it is made (DESIGN CHOICE, log 43). -/
def State.accessEvent (s : State) (t : Target) (n : Nat) (va : Word) (wr : Bool) : State :=
  match t with
  | .mem k _ =>
    if spaceOf k = spPond then (s.pondEvent (k % 2 ^ 60 / 2 ^ 20) wr).pondUse k
    else if spaceOf k = spHbm then (lineSpan k n).foldl (fun (st : State) l =>
      st.cacheEvent (st.rsvNew l (va + BitVec.ofNat 64 (128 * l) - BitVec.ofNat 64 k))) s
    else s
  | .sluice o off _ =>
    match s.objTile o with
    | some t => s.pondEvent t wr
    | none => (lineSpan (keyOf spSluice (o * 2 ^ 24 + off)) n).foldl (fun (st : State) l =>
        st.cacheEvent (⟨Config.storageLine l, st.me.id.fn, st.me.eff.key, none⟩, false)) s
  | _ => s

/-! ## Deterministic mode -/

/-- Accesses that deterministic mode defers (R465): not SCRATCH banks, not host pages. -/
def Target.defers : Target → Bool
  | .mem _ _ => true
  | .sluice _ _ _ => true
  | _ => false

/-- The group of the acting task. -/
def State.group (s : State) : Option Group := s.groups.find? fun g => g.fn == s.me.id.fn && g.blk == s.me.id.blk

/-- The last byte the task wrote at a key in the interval. -/
def ownByte (ws : List WByte) (k : Nat) : Option Byte := (ws.find? fun w => w.loc == k).map (·.val)

/-- A byte of a word that holds it. -/
def wordByte (loc : Nat) (v : Word) (k : Nat) : Byte := BitVec.ofNat 8 (v.toNat / 2 ^ (8 * (k - loc)))

/-- A byte of a word after its last closed round (R130). -/
def roundByte (vals : List (Nat × Nat × Word × Nat)) (k : Nat) : Option Byte :=
  (vals.find? fun v => v.1 ≤ k && k < v.1 + v.2.1).map fun v => wordByte v.1 v.2.2.1 k

/-- The task's latest closed round whose word holds a key: how many bytes the task had written when it issued, and the byte as that
round left it (R130). -/
def roundAge (rs : List AtomRec) (idx : BitVec 32) (k : Nat) : Option (Nat × Byte) :=
  ((rs.filter fun r => r.idx == idx && r.loc ≤ k && k < r.loc + r.size).filterMap fun r =>
    r.res.map fun x => (r.nw, wordByte r.loc x.2 k)).getLast?

/-- What a load of the acting task reads at a key in deterministic mode (R128, R130, R211): its own writes of the
interval and the value after its latest closed round, the later of the two, else the snapshot; sluice storage holds
published data. -/
def State.detByte (s : State) (k : Nat) : Byte :=
  let ws := s.me.det.writes
  match s.group with
  | none => (ownByte ws k).getD (memGet s.mem k)
  | some g =>
    let base := if spaceOf k = spSluice then memGet s.mem k else memGet g.snap k
    match roundAge g.rounds s.me.id.idx k with
    | none => (ownByte ws k).getD base
    | some (n, b) => (ownByte (ws.take (ws.length - n)) k).getD b

/-! ## Reading and writing what was reached -/

/-- `n` bytes at a memory key: through a page whose key slot is not the one the line was written under, either the last
plaintext or its decryption under the other key (R418). -/
def State.plainBytes (s : State) (k : Nat) (slot : BitVec 7) (n : Nat) : List Byte × State :=
  let bs := memBytes s.mem k n
  if spaceOf k ≠ spHbm then (bs, s)
  else match s.lineKeys.find? fun l => l.1 == lineOf k with
    | none => (bs, s)
    | some (_, w) =>
      if w = slot then (bs, s)
      else
        let (c, s1) := s.choose
        if Config.cacheHit c then (bs, s1)
        else
          let line := rekeyLine (aget 0 s.wh.keys w.toNat) (aget 0 s.wh.keys slot.toNat) (lineOf k)
            (memBytes s.mem (lineOf k * 128) 128)
          ((line.drop (k % 128)).take n ++ bs.drop (128 - k % 128), s1)

/-- The acting context loads from the lines of `n` bytes: its clock reaches the load's logical time and the lines are leased
(R114). -/
def State.leased (s : State) (k n : Nat) : State :=
  let (c, s1) := loadTimes s k n s.me.ctx.clock
  (s1.noteLines s.me.id.fn k n).mapCtx fun x => { x with clock := c }

/-- The acting context's clock reaches a logical time. -/
def State.clockTo (s : State) (t : Nat) : State := s.mapCtx fun x => { x with clock := max x.clock t }

/-- Read `n` bytes of a target for the acting task, as a miller load at the context's clock (R114); a see-load reaches the time of the
drop (R124). -/
def loadTarget (s : State) (va : Word) (t : Target) (n : Nat) : List Byte × State :=
  match t with
  | .noise d => (noiseBytes d s.me.ctx.nseed s.me.ctx.nstep va n, s)
  | .remote _ obj off =>
    ((List.range n).map fun i => Config.remoteByte obj (off + i), s.clockTo (Config.remoteTime obj))
  | .host k =>
    let (c, s1) := hostTimes s k n s.me.ctx.clock
    (memBytes s.mem k n, (s1.noteLines s.me.id.fn k n).clockTo c)
  | .bank k => (memBytes s.mem k n, s.leased k n)
  | .mem k slot =>
    if s.me.eff.det then ((List.range n).map fun i => s.detByte (k + i), s)
    else
      let (bs, s0) := s.plainBytes k slot n
      (bs, s0.leased k n)
  | .sluice o off fill =>
    let k := keyOf spSluice (o * 2 ^ 24 + off)
    let td := ((s.objs.find? fun x => x.id == o).map (·.td)).getD 0
    let s1 := if fill then s else s.clockTo td
    if s.me.eff.det then ((List.range n).map fun i => s.detByte (k + i), s1) else (memBytes s.mem k n, s1.leased k n)

/-- Copy a 64 KiB unit of memory to another key. -/
def memCopyUnit (m : List Host.Cell) (src dst : Nat) : List Host.Cell :=
  (m.filter fun c => src ≤ c.1 && c.1 < src + 65536).foldl (fun acc c => memSet acc (dst + (c.1 - src)) c.2)
    (memClear m dst 65536)

/-- A block belongs to the launch that its function replays (R438, R442). -/
def State.replays (s : State) (fn : Nat) (blk : Word) : Bool :=
  (s.fn fn).rpbusy && (match s.blk? fn blk with
    | some b => b.root == (s.fn fn).rproot
    | none => false)

/-- Write-set capture of a replay (R438): the first write to a 64 KiB unit copies it to the next slot and enters its
physical address in the index; with no slot free capture stops. -/
def State.capture (s : State) (fn : Nat) (blk : Word) (k : Nat) : State :=
  let f := s.fn fn
  let unit := k / 65536 * 65536
  if !s.replays fn blk || f.rpfull || 1 < spaceOf k || f.rpunits.contains unit then s
  else
    let n := f.rpunits.length
    let nunit := bitsAt f.rpcap 0 16
    let base := regBase f.rpcap 16
    if nunit ≤ n then s.setFn fn { f with rpfull := true, rpcode := 2 }
    else match devResolve s fn (base + BitVec.ofNat 64 (65536 * n)) true with
      | .error c => s.devFault fn c (base + BitVec.ofNat 64 (65536 * n))
      | .ok (dst, p) =>
        let s1 := (({ s with mem := memCopyUnit s.mem unit dst }).underSlot dst 65536 (pteKey p)).devPut fn
          (base + BitVec.ofNat 64 (65536 * nunit + 8 * n)) (leBytes 8 (unit % 2 ^ 60))
        s1.setFn fn { s1.fn fn with rpunits := f.rpunits ++ [unit] }

/-- A replay captures the units that a write of `n` bytes for a launch's block reaches (R438). -/
def State.captureAt (s : State) (resolve : State → Word → Except (BitVec 8) (Nat × Word)) (fn : Nat) (blk va : Word) (n : Nat) : State :=
  (rangePieces va n).foldl (fun (st : State) x =>
    match resolve st x.1 with
    | .ok (k, _) => st.capture fn blk k
    | .error _ => st) s

/-- Write at a virtual address for a launch's block, as `devPut`; a replay captures the units (R438). -/
def State.blkPut (s : State) (fn : Nat) (blk va : Word) (bs : List Byte) : State :=
  (s.captureAt (fun st a => devResolve st fn a true) fn blk va bs.length).devPut fn va bs

/-- Write a flume header for a launch's block, as `hdrPut`; a replay captures the units. -/
def State.hdrBlkPut (s : State) (fn : Nat) (blk va : Word) (bs : List Byte) : State :=
  (s.captureAt (fun st a => hdrResolve st fn a) fn blk va bs.length).hdrPut fn va bs

/-- Write bytes at a memory key for the acting task's function at one logical time from a clock (R114, R120, R438). -/
def State.put (s : State) (k : Nat) (slot : BitVec 7) (bs : List Byte) (clk : Nat) : Nat × State :=
  storeAt ((s.capture s.me.id.fn s.me.id.blk k).underSlot k bs.length slot) s.me.id.fn k bs clk

/-- Granules of a range that is not charged yet, by virtual address (R373). -/
def newGranules (have_ : List Nat) (k n : Nat) : List Nat :=
  ((List.range ((k + n - 1) / 64 - k / 64 + 1)).map (k / 64 + ·)).filter fun g => !have_.contains g

/-- The charge fits the SPILL budget of the block and every ancestor (R44, R373). -/
def State.spillFits (s : State) (fn : Nat) (blk : Word) (bytes : Nat) : Bool :=
  (s.lineage fn blk).all fun b => b.spillB + bytes ≤ 4096 * b.eff.spill

/-- Charge bytes to SPILL. -/
def State.spillCharge (s : State) (fn : Nat) (blk : Word) (bytes : Nat) : State :=
  s.mapLineage fn blk fun b => { b with spillB := b.spillB + bytes }

/-- Return bytes to SPILL. -/
def State.spillReturn (s : State) (fn : Nat) (blk : Word) (bytes : Nat) : State :=
  s.mapLineage fn blk fun b => { b with spillB := b.spillB - bytes }

/-- Enter bytes into the acting task's write set (R372), newest first. The granules of a flume slot, which stands in no footprint (R274),
are charged as they are written and past the budget where they do not fit: R373 gives no outcome for them (DESIGN CHOICE, log 130). -/
def State.detWrite (s : State) (k : Nat) (va : Word) (bs : List Byte) : State :=
  let ws := (List.range bs.length).zip bs |>.map fun x => (⟨k + x.1, va + BitVec.ofNat 64 x.1, x.2⟩ : WByte)
  let gs := newGranules s.me.det.charged va.toNat bs.length
  (s.mapMe fun t => { t with det := { t.det with
    writes := ws.reverse ++ t.det.writes, charged := gs ++ t.det.charged } }).spillCharge s.me.id.fn s.me.id.blk
      (128 * gs.length)

/-- The write of `n` bytes at an address fits the SPILL budget in deterministic mode (R373). -/
def State.detFits (s : State) (va : Word) (n : Nat) : Bool :=
  s.spillFits s.me.id.fn s.me.id.blk (128 * (newGranules s.me.det.charged va.toNat n).length)

/-- Write a target for the acting task: its logical time from clock `clk`, and the state. -/
def storeTarget (s : State) (va : Word) (t : Target) (bs : List Byte) (clk : Nat) : Nat × State :=
  match t with
  | .mem k slot => if s.me.eff.det then (clk, s.detWrite k va bs) else s.put k slot bs clk
  | .sluice o off _ =>
    let k := keyOf spSluice (o * 2 ^ 24 + off)
    if s.me.eff.det then (clk, s.detWrite k va bs) else storeAt s s.me.id.fn k bs clk
  | .host k => storeAt s s.me.id.fn k bs clk
  | .bank k => storeAt s s.me.id.fn k bs clk
  | .noise _ => (clk, s)
  | .remote _ _ _ => (clk, s)

/-- Whether a deterministic write of a target fits the budget; other writes always do. -/
def storeFits (s : State) (va : Word) (t : Target) (n : Nat) : Bool :=
  if !s.me.eff.det || !t.defers then true else s.detFits va n

end Sys2Proof.Machine
end

