-- ==== Sys2Proof/Machine/Objects.lean ====
section
/-!
DEFINITION. Sys2Proof/Machine/Objects.lean: handle words and sluice objects (R109, R110, R124, R230, R235, R239, R240) and
channels (R38, R39, R156, R237, R239, R352, R411) as the instructions, the engines and the fabric share them.
-/

namespace Sys2Proof.Machine

/-! ## Handle words (R109) -/

def hObj (h : BitVec 128) : Nat := (h.extractLsb' 0 40).toNat
def hPkg (h : BitVec 128) : BitVec 8 := h.extractLsb' 40 8
def hGen (h : BitVec 128) : BitVec 16 := h.extractLsb' 48 16
def hKind (h : BitVec 128) : Nat := (h.extractLsb' 64 2).toNat
def hRights (h : BitVec 128) : BitVec 6 := h.extractLsb' 66 6
def hFlags (h : BitVec 128) : BitVec 8 := h.extractLsb' 72 8
def hCheck (h : BitVec 128) : BitVec 48 := h.extractLsb' 80 48
/-- DX: drops on exit. -/
def hDx (h : BitVec 128) : Bool := h.getLsbD 72

/-- A handle with its check code (R109). -/
def mkHandle (obj : Nat) (pkg : BitVec 8) (gen : BitVec 16) (kind : BitVec 2) (rights : BitVec 6) (flags : BitVec 8) :
    BitVec 128 :=
  let body : BitVec 80 := flags ++ rights ++ kind ++ gen ++ pkg ++ BitVec.ofNat 40 obj
  Config.handleCheck body ++ body

/-- A register holds a live handle: KIND 1 or 2 (R230). -/
def hLive (h : BitVec 128) : Bool := hKind h == 1 || hKind h == 2

/-- The object of an id. -/
def State.obj? (s : State) (id : Nat) : Option Obj := s.objs.find? fun o => o.id == id

/-- Change an object. -/
def State.mapObj (s : State) (id : Nat) (f : Obj → Obj) : State :=
  { s with objs := s.objs.map fun o => if o.id == id then f o else o }

/-- The check code verifies and the generation is current (R109); the generation of another package's object is known to
that package only. -/
def handleOk (s : State) (h : BitVec 128) : Bool :=
  hLive h && hCheck h == Config.handleCheck (h.extractLsb' 0 80) &&
  (hPkg h != s.wh.pkg || match s.obj? (hObj h) with
    | some o => o.gen == hGen h && o.st != .freed
    | none => false)

/-! ## Objects (R110) -/

/-- Units more fit the POND budget of a block and of every ancestor (R44). -/
def State.pondFits (s : State) (fn : Nat) (blk : Word) (n : Nat) : Bool :=
  (s.lineage fn blk).all fun b => b.usePond + (s.pondPages fn b.addr).length + n ≤ b.eff.pond

/-- Free an object whose last handle has gone: its storage and budget are returned and the slot's GEN advances. -/
def State.objFree (s : State) (id : Nat) : State :=
  match s.obj? id with
  | none => s
  | some o =>
    let s1 := match o.tile with
      | none => s
      | some t =>
        let x := s.tile t
        (s.setTile t { x with used := x.used - o.units }).mapLineage o.fn o.blk fun b =>
          { b with usePond := b.usePond - o.units }
    { (s1.mapObj id fun o => { o with st := .freed, gen := o.gen + 1, tile := none }) with
      mem := memClear s1.mem (keyOf spSluice (id * 2 ^ 24)) (2 ^ 24) }

/-- One handle of an object goes (R235): when none remains in a register, a channel or a save image, nor with another
package (R413), the object is freed. -/
def State.objDropOne (s : State) (id : Nat) : State :=
  let s1 := s.mapObj id fun o => { o with handles := o.handles - 1 }
  match s1.obj? id with
  | some o => if o.handles = 0 && o.remote.all (fun r => r.2 == 0) then s1.objFree id else s1
  | none => s1

/-- Publish an object at the logical time `td` (R124, R235): its fill handle has gone. -/
def State.publishAt (s : State) (id td : Nat) : State :=
  match s.obj? id with
  | none => s
  | some o => ((s.mapObj id fun o => { o with st := if o.st == .filling then .published else o.st, td := td }).noteTime o.fn
      td).objDropOne id

/-- The logical time at which a party with clock `c` drops the fill handle of an object, as a store over the whole of it (R124). -/
def dropTime (s : State) (id c : Nat) : Nat := (wholeTime s (keyOf spSluice (id * 2 ^ 24)) (2 ^ 24) c).1

/-- Publish an object from a party with clock `c`. -/
def State.objPublish (s : State) (id c : Nat) : State :=
  (wholeTime s (keyOf spSluice (id * 2 ^ 24)) (2 ^ 24) c).2.publishAt id (dropTime s id c)

/-- Abandon an object (R110, R240). -/
def State.objAbandon (s : State) (id : Nat) : State :=
  (s.mapObj id fun o => { o with st := if o.st == .filling then .abandoned else o.st }).objDropOne id

/-- The end of a handle whose holder has gone (R239, R240): a see handle drops; a fill handle publishes if it carries DX
and `mayPublish`, and is abandoned otherwise. A see handle of another package sends that package a release message (R413). -/
def State.disposeHandle (s : State) (h : BitVec 128) (mayPublish : Bool) (clk : Nat) : State :=
  if hKind h = 2 then
    if hPkg h = s.wh.pkg then s.objDropOne (hObj h)
    else s.sendPkg (hPkg h) clk (.release (BitVec.ofNat 40 (hObj h)) 1)
  else if hKind h = 1 then
    if hDx h && mayPublish then s.objPublish (hObj h) clk else s.objAbandon (hObj h)
  else s

/-- The end of a handle pair that is discarded (R239) as if a task had held it: a fill handle that carries DX publishes, where the
task is deterministic at the merge of its interval, at the task's place (R131, R240). -/
def State.discardHandle (s : State) (who : TaskId) (h : BitVec 128) : State :=
  match s.task? who with
  | some t =>
    if hKind h = 1 && hDx h && t.eff.det then
      s.mapTask who fun t => { t with det := { t.det with drops := t.det.drops ++ [hObj h] } }
    else s.disposeHandle h true t.ctx.clock
  | none => s.disposeHandle h true 0

/-! ## Channels -/

/-- A channel of a node. -/
def State.chan? (s : State) (fn : Nat) (blk : Word) (ch : BitVec 12) : Option Chan :=
  s.chans.find? fun c => c.fn == fn && c.blk == blk && c.ch == ch

/-- Change a channel. -/
def State.mapChan (s : State) (fn : Nat) (blk : Word) (ch : BitVec 12) (f : Chan → Chan) : State :=
  { s with chans := s.chans.map fun c => if c.fn == fn && c.blk == blk && c.ch == ch then f c else c }

/-- A channel of the acting task's node. -/
def State.myChan (s : State) (ch : BitVec 12) : Option Chan := s.chan? s.me.id.fn s.me.id.blk ch

/-- The consumer end a channel's producer end in this package is joined to (R352, R411): the channel itself, or the
entry of this package that names it back. -/
def State.joined (s : State) (c : Chan) : Option Chan :=
  if c.peer = 0 then some c
  else match linkEntry s c.fn c.peer with
    | none => none
    | some (pkg, fn, rch, _) =>
      if pkg != s.wh.pkg then none else s.consumerEnd fn rch s.wh.pkg c.fn c.ch

/-- An end of a node not placed yet is held from the first word for it on (R156). -/
def State.withEnd (s : State) (x : Chan) : State :=
  if (s.chan? x.fn x.blk x.ch).isSome then s else { s with chans := s.chans ++ [x] }

/-- The consumer end has closed, as a producer in this package knows it (R156): across a link, by the peer's message. -/
def State.consumerClosed (s : State) (c : Chan) : Bool :=
  match s.joined c with
  | some x => x.closed
  | none => c.peerClosed

/-- The task that a channel's consumer end lies in. -/
def Chan.consumer (c : Chan) : TaskId := ⟨c.fn, c.blk, c.ctask⟩

/-- The task is on the hardware. -/
def State.placedTask (s : State) (t : TaskId) : Bool :=
  match s.task? t with
  | some x => x.isPlaced
  | none => false

/-- The task has been swapped out. -/
def State.swappedTask (s : State) (t : TaskId) : Bool :=
  match s.task? t with
  | some x => x.st == .swapped
  | none => false

/-- A message's 64-bit words. -/
def msgWords (n : Nat) : Nat := (n + 7) / 8

/-- Places of a consumer's buffer for words: those that held messages have left (R288, R39). -/
def Chan.places (c : Chan) : Nat :=
  8 - sumNat (c.msgs.map fun m => if m.held then msgWords m.bytes.length - m.spilt else 0)

/-- Places of a consumer's buffer that the next words can take: none while words are spilled, or before the consumer is
placed; a swapped one keeps its eight in the save image (R39, R156). -/
def State.bufFree (s : State) (x : Chan) : Nat :=
  if x.spill.isEmpty && (s.placedTask x.consumer || s.swappedTask x.consumer) then x.places - x.buf.length else 0

/-- The words that have arrived at a consumer end, oldest first. -/
def Chan.front (c : Chan) : List ChWord := c.buf ++ c.spill

/-- `n` more words fit a consumer end: its buffer and its spill area (R39). -/
def State.wordsFit (s : State) (x : Chan) (n : Nat) : Bool :=
  let k := s.bufFree x
  n ≤ k || (!x.fault && s.spillFits x.fn x.blk (8 * (n - k)))

/-- Words or messages in transit that a producer end across a link holds (log 12). -/
def wireDepth : Nat := 2

/-- The producer end can accept `n` words: the channel has room for them behind the words on their way (R38, R188). -/
def State.chanRoom (s : State) (c : Chan) (n : Nat) : Bool :=
  match s.joined c with
  | some x => s.wordsFit x (c.wire.length + n)
  | none => c.wire.length + n ≤ wireDepth

/-- Add to a channel's CLOSED count in its table entry, an ordinary atomic add (R352), so not on a page of host memory (R401); an
add that faults is dropped and leaves a record. -/
def State.addClosed (s : State) (c : Chan) (n : Nat) : State :=
  if n = 0 then s
  else
    let a := c.entry + 12
    match devResolve s c.fn a true with
    | .error e => s.devFault c.fn e a
    | .ok (k, p) =>
      if pteLoc p = 2 then s.devFault c.fn tcPROT a
      else if s.ecc.contains (lineOf k) then s.devFault c.fn tcECCUE a
      else s.blkPut c.fn c.blk a (leBytes 4 (memNat s.mem k 4 + n))

/-- Handles held by a list of channel words: consecutive tagged pairs, low half first (R237). -/
def pairsOf : List ChWord → List (BitVec 128)
  | a :: b :: rest => if a.handle && b.handle then (b.val ++ a.val) :: pairsOf rest else pairsOf (b :: rest)
  | _ => []

/-- The task that a discarded word is put down to: the producer that the entry names in this node, else the consumer. -/
def Chan.sender (c : Chan) : TaskId :=
  ⟨c.fn, c.blk, if (c.peer == 0 || c.locend) && c.ptask != 0xFFFFFFFF then c.ptask else c.ctask⟩

/-- Discard words of a channel (R156, R239), put down to a task: they are counted and the handles among them disposed of. -/
def State.discardFrom (s : State) (who : TaskId) (c : Chan) (ws : List ChWord) : State :=
  let s1 := s.addClosed c ws.length
  let s2 := (pairsOf ws).foldl (fun (st : State) h => st.discardHandle who h) s1
  s2.countFor c.consumer 0x032 ws.length

/-- A halo message of `n` words is discarded at a channel (R156, R288, R435). -/
def State.discardMsg (s : State) (c : Chan) (n : Nat) : State := (s.addClosed c n).countFor c.consumer 0x032 n

/-- Discard words of a channel that no instruction pushes now. -/
def State.discard (s : State) (c : Chan) (ws : List ChWord) : State := s.discardFrom c.sender c ws

/-- Push words at a producer end of the acting task: discarded and counted where the consumer has closed (R156). The
room and the STRICT bit have been looked at. -/
def State.push (s : State) (ch : BitVec 12) (ws : List ChWord) : State :=
  match s.myChan ch with
  | none => s
  | some c =>
    let s1 := s.count 0x030 ws.length
    if s.consumerClosed c then s1.discardFrom s.me.id ((s.joined c).getD c) ws
    else s1.mapChan c.fn c.blk c.ch fun c => { c with wire := c.wire ++ ws }

/-- The words of a consumer end are `ws`: the buffer holds the oldest, as far as they fit, and the spill area the others
(R39). -/
def State.refit (s : State) (c : Chan) (ws : List ChWord) : State :=
  let rest := ws.drop c.places
  (s.mapChan c.fn c.blk c.ch fun x => { x with
    buf := ws.take c.places, spill := rest }).spillReturn c.fn c.blk
      (8 * (c.spill.length - rest.length))

/-- Pop the head of the acting task's consumer buffer; a spilled word takes the place (R39), and the context's clock
reaches the word's (R121, R413). -/
def State.pop (s : State) (ch : BitVec 12) : State :=
  match s.myChan ch with
  | none => s
  | some c =>
    match c.front with
    | [] => s
    | w :: rest => (s.refit c rest).mapCtx fun x => { x with clock := max x.clock w.clk }

/-- Across a link the peer's package is told that the consumer end has closed, for its producer's CHCLOSED (R156, R237), at the time of
the consumer's clock (R413). -/
def State.tellClosed (s : State) (c : Chan) : State :=
  match linkEntry s c.fn c.peer with
  | some (pkg, fn, rch, ports) =>
    if pkg = s.wh.pkg then s
    else match s.linkPort c.fn ports with
      | none => s
      | some p => (s.mapChan c.fn c.blk c.ch fun x => { x with sent := x.sent + 1 }).sendFlit p
          (((s.task? c.consumer).map (·.ctx.clock)).getD (maxTime s c.fn)) c.fn c.ch c.sent (.closed fn rch)
  | none => s.linkFault c.fn c.peer

/-- Close a consumer end (R156, R246): what is buffered, spilled or held is discarded and counted. -/
def State.closeConsumer (s : State) (c : Chan) : State :=
  let held := c.buf ++ c.spill ++ c.wire
  let msgs := (c.msgs ++ c.msgWire).map fun (m : HaloMsg) => msgWords m.bytes.length
  let s1 := s.mapChan c.fn c.blk c.ch fun c =>
    { c with closed := true, buf := [], spill := [], wire := [], msgs := [], msgWire := [], fullSince := none }
  let s2 := s1.spillReturn c.fn c.blk (8 * (c.spill.length + sumNat (c.msgs.map (·.spilt))))
  ((s2.discard c held).discardMsg c (sumNat msgs)).tellClosed c

end Sys2Proof.Machine
end

