-- ==== Sys2Proof/Machine/Operands.lean ====
section
/-!
DEFINITION. Sys2Proof/Machine/Operands.lean: every operand form of a miller instruction: the guard (R19, R164), file
registers (R25, R162), channel registers as sources and destinations (R20, R188, R238, R245), and what an instruction
does when an operand does not let it run.
-/

namespace Sys2Proof.Machine

/-! ## File registers -/

/-- A guard register: q0 reads 1 (R25). -/
def Ctx.rq (c : Ctx) (r : BitVec 3) : Bool := if r = 0 then true else c.q[r.toNat]'(r.isLt)
/-- Write a guard register; q0 discards (R162). -/
def Ctx.wq (c : Ctx) (r : BitVec 3) (v : Bool) : Ctx :=
  if r = 0 then c else { c with q := c.q.set r.toNat v r.isLt }
/-- A g-register as plain storage: g0 reads 0. -/
def Ctx.rg (c : Ctx) (r : BitVec 5) : Word := if r = 0 then 0 else c.g[r.toNat]'(r.isLt)
/-- Write a g-register as plain storage; g0 discards. -/
def Ctx.wg (c : Ctx) (r : BitVec 5) (v : Word) : Ctx :=
  if r = 0 then c else { c with g := c.g.set r.toNat v r.isLt }
/-- An f-register. -/
def Ctx.rf (c : Ctx) (r : BitVec 4) : Word := c.f[r.toNat]'(r.isLt)
/-- Write an f-register. -/
def Ctx.wf (c : Ctx) (r : BitVec 4) (v : Word) : Ctx := { c with f := c.f.set r.toNat v r.isLt }
/-- An h-register. -/
def Ctx.rh (c : Ctx) (r : BitVec 3) : BitVec 128 := c.h[r.toNat]'(r.isLt)
/-- Write an h-register. -/
def Ctx.wh (c : Ctx) (r : BitVec 3) (v : BitVec 128) : Ctx := { c with h := c.h.set r.toNat v r.isLt }

/-- The number of a q- or h-register field. -/
def low3 (r : BitVec 5) : BitVec 3 := r.setWidth 3
/-- The number of an f-register field. -/
def low4 (r : BitVec 5) : BitVec 4 := r.setWidth 4

/-- The guard evaluates true (R164). -/
def Ctx.guardTrue (c : Ctx) (g : Guard) : Bool := c.rq g.q != g.n

/-! ## Channel registers -/

/-- The binding of a register; only g28 to g31 can have one. -/
def Ctx.binding (c : Ctx) (r : BitVec 5) : Option Binding :=
  if 28 ≤ r.toNat then c.bind[(r.setWidth 2).toNat]'((r.setWidth 2).isLt) else none

/-- The head word of the channel a register consumes. -/
def State.headOf (s : State) (r : BitVec 5) : Option ChWord :=
  match s.me.ctx.binding r with
  | some b => match s.myChan b.ch with
    | some c => c.front.head?
    | none => none
  | none => none

/-- A source operand's value: the head word of a bound channel, which every operand that names it shares (R20). -/
def State.src (s : State) (r : BitVec 5) : Word :=
  match s.me.ctx.binding r with
  | some _ => ((s.headOf r).map (·.val)).getD 0
  | none => s.me.ctx.rg r

/-- Pop each bound channel among the sources once (R20, R188). -/
def State.popSrcs (s : State) (rs : List (BitVec 5)) : State :=
  rs.eraseDups.foldl (fun st r => match st.me.ctx.binding r with
    | some b => st.pop b.ch
    | none => st) s

/-- Write a destination: a push at a bound channel, else a g-register (R20). -/
def State.putG (s : State) (d : BitVec 5) (v : Word) : State :=
  match s.me.ctx.binding d with
  | some b => s.push b.ch [⟨v, false, 0⟩]
  | none => s.mapCtx fun c => c.wg d v

/-- What the operands say before an instruction runs. -/
inductive Gate where
  | go
  | trap (cause : BitVec 8) (info : Word)
  | wait (w : WaitOn)
deriving DecidableEq, Repr

/-- The instruction word, zero-extended, as TRAPINFO holds it (R139). -/
def infoWord (i : Instr) : Word := i.word.setWidth 64

/-- The source gate of one register: a producer end cannot be read (R245); an empty channel puts the context to sleep
(R20); a handle-tagged word stays at the head (R238). -/
def State.srcGate (s : State) (i : Instr) (r : BitVec 5) : Gate :=
  match s.me.ctx.binding r with
  | none => .go
  | some b =>
    if !b.consumer then .trap tcILLOP (infoWord i)
    else match s.headOf r with
      | none => .wait (.chanWord (r.setWidth 2))
      | some w => if w.handle then .trap tcHANDLEBAD (r.setWidth 64) else .go

/-- The destination gate: a consumer end cannot be written, nor a bound register that is also a source (R245); a strict
closed channel raises CHCLOSED (R156); a channel without room stalls (R188). -/
def State.dstGate (s : State) (i : Instr) (d : BitVec 5) (both : Bool) (n : Nat) : Gate :=
  match s.me.ctx.binding d with
  | none => .go
  | some b =>
    if both || b.consumer then .trap tcILLOP (infoWord i)
    else match s.myChan b.ch with
      | none => .go
      | some c =>
        if s.consumerClosed c then (if c.strict then .trap tcCHCLOSED (infoWord i) else .go)
        else if s.chanRoom c n then .go else .wait (.chanRoom (d.setWidth 2) n)

/-- A gate that fails, of two, the first. -/
def Gate.and : Gate → Gate → Gate
  | .go, g => g
  | g, _ => g

/-- Wrong ends among sources and destination, before anything waits (R245). -/
def State.endGate (s : State) (i : Instr) (srcs : List (BitVec 5)) (dst : Option (BitVec 5)) (both : Bool) : Gate :=
  if srcs.any (fun r => match s.me.ctx.binding r with | some b => !b.consumer | none => false) ||
    (match dst with
      | some d => match s.me.ctx.binding d with
        | some b => both || b.consumer
        | none => false
      | none => false)
  then .trap tcILLOP (infoWord i) else .go

/-- All the operand gates of an instruction: wrong ends, then the destination's room before any source is taken, then
the sources (R188, R245). -/
def State.gate (s : State) (i : Instr) (srcs : List (BitVec 5)) (dst : Option (BitVec 5)) (both : Bool) : Gate :=
  (s.endGate i srcs dst both).and
    ((match dst with
      | some d => s.dstGate i d both 1
      | none => .go).and (srcs.foldl (fun g r => g.and (s.srcGate i r)) .go))

/-! ## Running an instruction -/

/-- The address after an instruction. -/
def nextPc (i : Instr) (s : State) : Word := pcAfter s.me.ctx.pc i.lits

/-- A guarded-off instruction retires and does nothing else (R19). -/
def guarded (i : Instr) (g : Guard) (s : State) (k : State → Res) : Res :=
  if s.me.ctx.guardTrue g then k s else .next (s.retireTo (nextPc i s))

/-- An instruction with its guard and its operand gates. -/
def gated (i : Instr) (g : Guard) (srcs : List (BitVec 5)) (dst : Option (BitVec 5)) (both : Bool) (s : State)
    (k : State → Res) : Res :=
  guarded i g s fun s =>
    match s.gate i srcs dst both with
    | .go => k s
    | .trap c x => .next (s.trapAt c x)
    | .wait w => .next (s.waitOn w)

/-- Retire with the sources popped and a value for the destination. -/
def doneG (i : Instr) (s : State) (srcs : List (BitVec 5)) (d : BitVec 5) (v : Word) : Res :=
  .next (((s.popSrcs srcs).putG d v).retireTo (nextPc i s))

/-- Retire with the sources popped. -/
def done (i : Instr) (s : State) (srcs : List (BitVec 5)) : Res := .next ((s.popSrcs srcs).retireTo (nextPc i s))

/-- A two-source integer operation. -/
def op3 (i : Instr) (g : Guard) (d a b : BitVec 5) (s : State) (f : Word → Word → Word) : Res :=
  gated i g [a, b] (some d) false s fun s => doneG i s [a, b] d (f (s.src a) (s.src b))

/-- A one-source integer operation. -/
def op2 (i : Instr) (g : Guard) (d a : BitVec 5) (s : State) (f : Word → Word) : Res :=
  gated i g [a] (some d) false s fun s => doneG i s [a] d (f (s.src a))

/-- An operation that reads its destination too (INS, LIH; R196, R198). -/
def opRw (i : Instr) (g : Guard) (d : BitVec 5) (srcs : List (BitVec 5)) (s : State) (f : State → Word) : Res :=
  gated i g srcs (some d) true s fun s => doneG i s srcs d (f s)

/-- A result for a guard register. -/
def opQ (i : Instr) (g : Guard) (d : BitVec 5) (srcs : List (BitVec 5)) (s : State) (f : State → Bool) : Res :=
  gated i g srcs none false s fun s =>
    .next (((s.popSrcs srcs).mapCtx fun c => c.wq (low3 d) (f s)).retireTo (nextPc i s))

/-- The 64-bit value of a signed immediate. -/
def sx {n : Nat} (v : BitVec n) : Word := v.signExtend 64
/-- The 64-bit value of an unsigned immediate. -/
def zx {n : Nat} (v : BitVec n) : Word := v.setWidth 64
/-- Bits 31:0. -/
def lo32 (v : Word) : BitVec 32 := v.setWidth 32

end Sys2Proof.Machine
end

