-- ==== Sys2Proof/Machine/LoadStore.lean ====
section
/-!
DEFINITION. Sys2Proof/Machine/LoadStore.lean: loads, stores, constant-path loads and prefetch (R209 to R213).
-/

namespace Sys2Proof.Machine

/-! ## Shared -/

/-- The address of a load or store: offset in units of the size (R209). -/
def lsAddr (base : Word) (off : BitVec 12) (size : Nat) : Word := base + sx off * BitVec.ofNat 64 size

/-- The acting task stops for the driver with a cause that no context takes, and a fault record. -/
def State.stopMe (s : State) (cause : BitVec 8) (va : Word) : State :=
  (s.taskFault s.me cause va).mapMe fun t => { t with
    stop := .driver, stopCause := cause, run := { t.run with gated := true }
    ctx := { t.ctx with st := if t.ctx.st == .free then .free else .trapped, wait := .none } }

/-- A load: CheckAccess, the bytes, and what is done with them. -/
def loadOp (i : Instr) (g : Guard) (a : BitVec 5) (off : BitVec 12) (size : Nat) (dst : Option (BitVec 5)) (s : State)
    (put : State → Nat → State) : Res :=
  gated i g [a] dst false s fun s =>
    let addr := lsAddr (s.src a) off size
    match checkAccess s addr size .load with
    | .trap s1 c => .next (s1.accessTrap c addr)
    | .wait w => .next (s.waitOn w)
    | .ok s1 t =>
      if s1.severed t then .next (s1.stopMe tcSEVERED addr)
      else
        let (bs, s2) := loadTarget (s1.accessEvent t size addr false) addr t size
        .next ((put (s2.popSrcs [a]) (leNat bs)).retireTo (nextPc i s))

/-- A load into a g-register. -/
def loadG (i : Instr) (g : Guard) (d a : BitVec 5) (off : BitVec 12) (size : Nat) (s : State) (ext : Nat → Word) : Res :=
  loadOp i g a off size (some d) s fun s v => s.putG d (ext v)

/-- A load into an f-register. -/
def loadF (i : Instr) (g : Guard) (d a : BitVec 5) (off : BitVec 12) (size : Nat) (s : State) (ext : Nat → Word) : Res :=
  loadOp i g a off size none s fun s v => s.mapCtx fun c => c.wf (low4 d) (ext v)

/-- Sign extension of a loaded value. -/
def extS (size : Nat) (v : Nat) : Word := BitVec.ofInt 64 (signed (8 * size) v)
/-- Zero extension of a loaded value. -/
def extZ (v : Nat) : Word := BitVec.ofNat 64 v
/-- A binary32 pattern boxed in an f-register (R171). -/
def boxed (v : Nat) : Word := 0xFFFFFFFF#32 ++ BitVec.ofNat 32 v

/-- A store: CheckAccess, the SPILL charge of deterministic mode (R373), and the bytes. -/
def storeOp (i : Instr) (g : Guard) (srcs : List (BitVec 5)) (a : BitVec 5) (off : BitVec 12) (size : Nat) (s : State)
    (val : State → Word) : Res :=
  gated i g srcs none false s fun s =>
    let addr := lsAddr (s.src a) off size
    match checkAccess s addr size .store with
    | .trap s1 c => .next (s1.accessTrap c addr)
    | .wait w => .next (s.waitOn w)
    | .ok s1 t =>
      if !storeFits s1 addr t size then .next (s.trapAt tcBUDGET 3)
      else
        let (clk, s2) := storeTarget (s1.accessEvent t size addr true) addr t (leBytes size (val s).toNat) s1.me.ctx.clock
        .next (((s2.mapCtx fun c => { c with clock := max c.clock clk }).popSrcs srcs).retireTo (nextPc i s))

/-! ## Meanings -/

/-- LD.B (R209). -/
def execLdB (g : Guard) (d a : BitVec 5) (off : BitVec 12) (s : State) : Res :=
  loadG (.ldB g d a off) g d a off 1 s (extS 1)

/-- LD.BU (R209). -/
def execLdBu (g : Guard) (d a : BitVec 5) (off : BitVec 12) (s : State) : Res :=
  loadG (.ldBu g d a off) g d a off 1 s extZ

/-- LD.H (R209). -/
def execLdH (g : Guard) (d a : BitVec 5) (off : BitVec 12) (s : State) : Res :=
  loadG (.ldH g d a off) g d a off 2 s (extS 2)

/-- LD.HU (R209). -/
def execLdHu (g : Guard) (d a : BitVec 5) (off : BitVec 12) (s : State) : Res :=
  loadG (.ldHu g d a off) g d a off 2 s extZ

/-- LD.W (R209). -/
def execLdW (g : Guard) (d a : BitVec 5) (off : BitVec 12) (s : State) : Res :=
  loadG (.ldW g d a off) g d a off 4 s (extS 4)

/-- LD.WU (R209). -/
def execLdWu (g : Guard) (d a : BitVec 5) (off : BitVec 12) (s : State) : Res :=
  loadG (.ldWu g d a off) g d a off 4 s extZ

/-- LD.D (R209). -/
def execLdD (g : Guard) (d a : BitVec 5) (off : BitVec 12) (s : State) : Res :=
  loadG (.ldD g d a off) g d a off 8 s extZ

/-- ST.B (R209). -/
def execStB (g : Guard) (x a : BitVec 5) (off : BitVec 12) (s : State) : Res :=
  storeOp (.stB g x a off) g [a, x] a off 1 s fun s => s.src x

/-- ST.H (R209). -/
def execStH (g : Guard) (x a : BitVec 5) (off : BitVec 12) (s : State) : Res :=
  storeOp (.stH g x a off) g [a, x] a off 2 s fun s => s.src x

/-- ST.W (R209). -/
def execStW (g : Guard) (x a : BitVec 5) (off : BitVec 12) (s : State) : Res :=
  storeOp (.stW g x a off) g [a, x] a off 4 s fun s => s.src x

/-- ST.D (R209). -/
def execStD (g : Guard) (x a : BitVec 5) (off : BitVec 12) (s : State) : Res :=
  storeOp (.stD g x a off) g [a, x] a off 8 s fun s => s.src x

/-- LDF (R209). -/
def execLdf (g : Guard) (d a : BitVec 5) (off : BitVec 12) (s : State) : Res :=
  loadF (.ldf g d a off) g d a off 8 s extZ

/-- LDF.S, boxed (R209, R171). -/
def execLdfS (g : Guard) (d a : BitVec 5) (off : BitVec 12) (s : State) : Res :=
  loadF (.ldfS g d a off) g d a off 4 s boxed

/-- STF (R209). -/
def execStf (g : Guard) (x a : BitVec 5) (off : BitVec 12) (s : State) : Res :=
  storeOp (.stf g x a off) g [a] a off 8 s fun s => s.me.ctx.rf (low4 x)

/-- STF.S: f<31:0>, without the check of R171 (R209). -/
def execStfS (g : Guard) (x a : BitVec 5) (off : BitVec 12) (s : State) : Res :=
  storeOp (.stfS g x a off) g [a] a off 4 s fun s => s.me.ctx.rf (low4 x)

/-- LDC.W (R212): the LD of its size, by a path that changes latency only. -/
def execLdcW (g : Guard) (d a : BitVec 5) (off : BitVec 12) (s : State) : Res :=
  loadG (.ldcW g d a off) g d a off 4 s (extS 4)

/-- LDC.WU (R212). -/
def execLdcWu (g : Guard) (d a : BitVec 5) (off : BitVec 12) (s : State) : Res :=
  loadG (.ldcWu g d a off) g d a off 4 s extZ

/-- LDC.D (R212). -/
def execLdcD (g : Guard) (d a : BitVec 5) (off : BitVec 12) (s : State) : Res :=
  loadG (.ldcD g d a off) g d a off 8 s extZ

/-- PREF (R213): it may be dropped, never traps, and changes no value a program reads; it is dropped. Its source is
read as any source. -/
def execPref (g : Guard) (lvl a : BitVec 5) (off : BitVec 12) (s : State) : Res :=
  gated (.pref g lvl a off) g [a] none false s fun s => done (.pref g lvl a off) s [a]

end Sys2Proof.Machine
end

