-- ==== Sys2Proof/Machine/Atomics.lean ====
section
/-!
DEFINITION. Sys2Proof/Machine/Atomics.lean: read-modify-write (R214 to R216), with the rounds and collections of
deterministic mode (R130, R131, R141).
-/

namespace Sys2Proof.Machine

/-! ## What the operations compute -/

/-- The value an atomic writes: `op` as R178 numbers it, on `n` bytes. -/
def atomicNew (op : BitVec 4) (n : Nat) (old v cmp : Nat) : Nat :=
  let m := 2 ^ (8 * n)
  match op.toNat with
  | 0 => (old + v) % m
  | 1 => old &&& v
  | 2 => old ||| v
  | 3 => old ^^^ v
  | 4 => if signed (8 * n) old ≤ signed (8 * n) v then old else v
  | 5 => if signed (8 * n) old ≤ signed (8 * n) v then v else old
  | 6 => if old ≤ v then old else v
  | 7 => if old ≤ v then v else old
  | 8 => v
  | 9 => if old = cmp then v else old
  | _ => old

/-- The low `n` bytes of a word. -/
def lowBytes (n : Nat) (v : Word) : Nat := v.toNat % 2 ^ (8 * n)

/-- The value an atomic returns: a .W form sign-extends. -/
def atomicOld (n : Nat) (old : Nat) : Word := if n = 4 then extS 4 old else extZ old

/-! ## The forms -/

/-- Enter an atomic of deterministic mode: into its round, or among the collected ones. -/
def State.enterAtomic (s : State) (r : AtomRec) : State :=
  let gs := newGranules s.me.det.charged r.va.toNat r.size
  let s1 := (s.mapMe fun t => { t with det := { t.det with charged := gs ++ t.det.charged } }).spillCharge
    s.me.id.fn s.me.id.blk (128 * gs.length)
  if r.round = 0 then s1.mapMe fun t => { t with det := { t.det with atoms := t.det.atoms ++ [r] } }
  else { s1 with groups := s1.groups.map fun g =>
    if g.fn == s.me.id.fn && g.blk == s.me.id.blk then { g with rounds := g.rounds ++ [r] } else g }

/-- The acting task's atomics in rounds of a word. -/
def State.myRounds (s : State) (loc size : Nat) : List AtomRec :=
  match s.group with
  | none => []
  | some g => g.rounds.filter fun r => r.idx == s.me.id.idx && r.loc == loc && r.size == size

/-- Rounds of a word that are open. -/
def State.openRounds (s : State) (loc size : Nat) : List Nat :=
  match s.group with
  | none => []
  | some g => ((g.rounds.filter fun r => r.loc == loc && r.size == size && r.res.isNone).map (·.round)).eraseDups

/-- The memory key of a target whose atomics are deferred. -/
def Target.deferKey : Target → Option Nat
  | .mem k _ => some k
  | .sluice o off _ => some (keyOf spSluice (o * 2 ^ 24 + off))
  | _ => none

/-- Perform an atomic at once: the old value, and the state with the new one, at one logical time as a store (R114). -/
def atomicNow (s : State) (va : Word) (t : Target) (n : Nat) (op : BitVec 4) (v cmp : Nat) : Nat × State :=
  match t with
  | .mem k slot =>
    let (bs, s1) := s.plainBytes k slot n
    let old := leNat bs
    let (c, s2) := s1.put k slot (leBytes n (atomicNew op n old v cmp)) s1.me.ctx.clock
    (old, s2.clockTo c)
  | .bank k =>
    let old := memNat s.mem k n
    let (c, s1) := storeAt s s.me.id.fn k (leBytes n (atomicNew op n old v cmp)) s.me.ctx.clock
    (old, s1.clockTo c)
  | .sluice o off _ =>
    let k := keyOf spSluice (o * 2 ^ 24 + off)
    let old := memNat s.mem k n
    let (c, s1) := storeAt s s.me.id.fn k (leBytes n (atomicNew op n old v cmp)) s.me.ctx.clock
    (old, s1.clockTo c)
  | _ => (leNat (loadTarget s va t n).1, s)

/-- The result and the pops, the path signature of a value-returning atomic (R440); a place kept for it is given up. -/
def atomicDone (i : Instr) (s : State) (srcs : List (BitVec 5)) (d : BitVec 5) (n old : Nat) (held : Option WaitOn) : Res :=
  let s1 := (s.popSrcs srcs).putG d (atomicOld n old)
  let s2 := if d = 0 then s1
    else (s1.count 0x005 1).mapCtx fun c => { c with sig := mix (c.sig ^^^ atomicOld n old) }
  .next ((match held with
    | some w => s2.mapCtx (·.unhold w)
    | none => s2).retireTo (nextPc i s))

/-- A value-returning atomic that stands in its round already (R33, R141, R191, R216): it retires when the round has closed, with
no check made again and no wait for its destination (R188), and sleeps on before. -/
def atomicRejoin (i : Instr) (s : State) (srcs : List (BitVec 5)) (d : BitVec 5) (k n : Nat) : Res :=
  match ((s.myRounds k n).getLast?).bind (·.res) with
  | some (old, _) => atomicDone i s srcs d n old.toNat (some (.atomicRound k))
  | none => .next (s.waitOn (.atomicRound k))

/-- The word of the round in which the instruction stands: the one it sleeps for, or the one whose place the context keeps and
that it reaches again (R141). -/
def State.inRound (s : State) (a d : BitVec 5) (n : Nat) : Option Nat :=
  match s.me.ctx.wait with
  | .atomicRound k => some k
  | _ =>
    if d = 0 || !s.me.ctx.held.any (fun x => x.1 == s.me.ctx.nest) then none
    else match place s (s.src a) n .atomic with
      | .ok _ t => t.deferKey.filter fun k => s.me.ctx.keeps (.atomicRound k)
      | _ => none

/-- A value-returning atomic enters its round (R130) and sleeps until the round closes; one on the word of a round that a handler
has interrupted is illegal (R141). -/
def atomicRound (i : Instr) (s : State) (va : Word) (t : Target) (k n : Nat) (op : BitVec 4) (v cmp : Nat) : Res :=
  if s.me.ctx.keepsBelow (.atomicRound k) then .next (s.trapAt tcILLOP (infoWord i))
  else
    let m := (s.myRounds k n).length + 1
    let op_ := s.openRounds k n
    if s.me.eff.adepth ≤ op_.length && !op_.contains m then .next (s.waitOn (.adepth k))
    else
      .next (((s.accessEvent t n va true).enterAtomic ⟨s.me.id.idx, k, va, n, op, BitVec.ofNat 64 v, BitVec.ofNat 64 cmp, m, none,
        s.me.det.writes.length⟩).waitOn (.atomicRound k))

/-- An atomic of `n` bytes (R214). ACAS reads its destination as the expected value. -/
def atomicOp (i : Instr) (g : Guard) (op : BitVec 4) (n : Nat) (d a b : BitVec 5) (s : State) : Res :=
  guarded i g s fun s => match s.inRound a d n with
  | some k => atomicRejoin i s [a, b] d k n
  | none => gated i g [a, b] (some d) (op == 9) s fun s =>
    let addr := s.src a
    let v := lowBytes n (s.src b)
    let cmp := if op = 9 then lowBytes n (s.me.ctx.rg d) else 0
    match checkAccess s addr n .atomic with
    | .trap s1 c => .next (s1.accessTrap c addr)
    | .wait w => .next (s.waitOn w)
    | .ok s1 t =>
      if s1.me.eff.det && t.defers then
        match t.deferKey with
        | none => .next s1
        | some k =>
          if !storeFits s1 addr t n then .next (s.trapAt tcBUDGET 3)
          else if d = 0 then
            done i ((s1.accessEvent t n addr true).enterAtomic ⟨s1.me.id.idx, k, addr, n, op, BitVec.ofNat 64 v, BitVec.ofNat 64 cmp, 0, none,
              s1.me.det.writes.length⟩) [a, b]
          else atomicRound i s1 addr t k n op v cmp
      else
        let (old, s2) := atomicNow (s1.accessEvent t n addr true) addr t n op v cmp
        atomicDone i s2 [a, b] d n old none

/-! ## Meanings -/

/-- AADD (R214 to R216). -/
def execAadd (g : Guard) (d a b : BitVec 5) (s : State) : Res := atomicOp (.aadd g d a b) g 0 8 d a b s

/-- AADD.W (R214 to R216). -/
def execAaddW (g : Guard) (d a b : BitVec 5) (s : State) : Res := atomicOp (.aaddW g d a b) g 0 4 d a b s

/-- AAND (R214 to R216). -/
def execAand (g : Guard) (d a b : BitVec 5) (s : State) : Res := atomicOp (.aand g d a b) g 1 8 d a b s

/-- AAND.W (R214 to R216). -/
def execAandW (g : Guard) (d a b : BitVec 5) (s : State) : Res := atomicOp (.aandW g d a b) g 1 4 d a b s

/-- AOR (R214 to R216). -/
def execAor (g : Guard) (d a b : BitVec 5) (s : State) : Res := atomicOp (.aor g d a b) g 2 8 d a b s

/-- AOR.W (R214 to R216). -/
def execAorW (g : Guard) (d a b : BitVec 5) (s : State) : Res := atomicOp (.aorW g d a b) g 2 4 d a b s

/-- AXOR (R214 to R216). -/
def execAxor (g : Guard) (d a b : BitVec 5) (s : State) : Res := atomicOp (.axor g d a b) g 3 8 d a b s

/-- AXOR.W (R214 to R216). -/
def execAxorW (g : Guard) (d a b : BitVec 5) (s : State) : Res := atomicOp (.axorW g d a b) g 3 4 d a b s

/-- AMIN (R214 to R216). -/
def execAmin (g : Guard) (d a b : BitVec 5) (s : State) : Res := atomicOp (.amin g d a b) g 4 8 d a b s

/-- AMIN.W (R214 to R216). -/
def execAminW (g : Guard) (d a b : BitVec 5) (s : State) : Res := atomicOp (.aminW g d a b) g 4 4 d a b s

/-- AMAX (R214 to R216). -/
def execAmax (g : Guard) (d a b : BitVec 5) (s : State) : Res := atomicOp (.amax g d a b) g 5 8 d a b s

/-- AMAX.W (R214 to R216). -/
def execAmaxW (g : Guard) (d a b : BitVec 5) (s : State) : Res := atomicOp (.amaxW g d a b) g 5 4 d a b s

/-- AMINU (R214 to R216). -/
def execAminu (g : Guard) (d a b : BitVec 5) (s : State) : Res := atomicOp (.aminu g d a b) g 6 8 d a b s

/-- AMINU.W (R214 to R216). -/
def execAminuW (g : Guard) (d a b : BitVec 5) (s : State) : Res := atomicOp (.aminuW g d a b) g 6 4 d a b s

/-- AMAXU (R214 to R216). -/
def execAmaxu (g : Guard) (d a b : BitVec 5) (s : State) : Res := atomicOp (.amaxu g d a b) g 7 8 d a b s

/-- AMAXU.W (R214 to R216). -/
def execAmaxuW (g : Guard) (d a b : BitVec 5) (s : State) : Res := atomicOp (.amaxuW g d a b) g 7 4 d a b s

/-- ASWP (R214 to R216). -/
def execAswp (g : Guard) (d a b : BitVec 5) (s : State) : Res := atomicOp (.aswp g d a b) g 8 8 d a b s

/-- ASWP.W (R214 to R216). -/
def execAswpW (g : Guard) (d a b : BitVec 5) (s : State) : Res := atomicOp (.aswpW g d a b) g 8 4 d a b s

/-- ACAS (R214 to R216). -/
def execAcas (g : Guard) (d a b : BitVec 5) (s : State) : Res := atomicOp (.acas g d a b) g 9 8 d a b s

/-- ACAS.W (R214 to R216). -/
def execAcasW (g : Guard) (d a b : BitVec 5) (s : State) : Res := atomicOp (.acasW g d a b) g 9 4 d a b s

end Sys2Proof.Machine
end

