-- ==== Sys2Proof/Machine/Fetch.lean ====
section
/-!
DEFINITION. Sys2Proof/Machine/Fetch.lean: fetching instruction words (R164, R166, R167) and finding the end of a REP body
(R176, R203).
-/

namespace Sys2Proof.Machine

/-- What a fetch of one word gives. -/
inductive Fetched where
  | ok (w : BitVec 32) (s : State)
  | trap (s : State) (cause : BitVec 8) (at_ : Word)
  | wait (w : WaitOn)
deriving DecidableEq, Repr

/-- Fetch a word: an ordinary access in the global order (R167); from a page that is not ORDINARY, PROT. A SCRATCH bank of the
mill-local window, which has no page type, is read as R91 says. -/
def fetchWord (s : State) (va : Word) : Fetched :=
  if !canonical va then .trap s tcPGFLT va
  else if va.toNat % 4 ≠ 0 then .trap s tcALIGN va
  else match place s va 4 .fetch with
    | .trap s1 c => .trap s1 c va
    | .wait w => .wait w
    | .ok s1 t =>
      if s1.bad t then .trap s1 tcECCUE va
      else
        let (bs, s2) := loadTarget s1 va t 4
        .ok (BitVec.ofNat 32 (leNat bs)) s2

/-- Fetch the literal words after an FX word, `n` of them (R164). -/
def fetchLits (s : State) (va : Word) : Nat → List (BitVec 32) → Except Fetched (List (BitVec 32) × State)
  | 0, acc => .ok (acc, s)
  | n + 1, acc =>
    match fetchWord s va with
    | .ok w s1 => fetchLits s1 (va + 4) n (acc ++ [w])
    | r => .error r

/-- An FX word and its literals are fetched at one logical time (R167), the latest of theirs: the first word's line is leased to
it. -/
def State.fetchedAt (s : State) (va : Word) : State :=
  match place s va 4 .fetch with
  | .ok _ t => (loadTarget s va t 4).2
  | _ => s

/-- Literal words of the instruction at a word (R164, R165). -/
def litsOf (w : BitVec 32) : Nat := if isHint w then 0 else litCount w

/-- The first address after a REP body, found without executing it (R203): from `pc`, pass instructions until the one
at or beyond `last` has been passed. -/
def skipBody (last : Word) : Nat → Word → State → Except Fetched (Word × State)
  | 0, pc, s => .ok (pc, s)
  | n + 1, pc, s =>
    match fetchWord s pc with
    | .ok w s1 =>
      let next := pcAfter pc (litsOf w)
      if last.toNat ≤ pc.toNat then .ok (next, s1) else skipBody last n next s1
    | r => .error r

end Sys2Proof.Machine
end

