-- ==== Sys2Proof/Machine/Tasks.lean ====
section
/-!
DEFINITION. Sys2Proof/Machine/Tasks.lean: how a task ends on its mill: the fate of its handles (R233, R239, R240), the
closing of its channels (R156), EXIT (R37, R208) and a kill (R147); barriers (R217, R218).
-/

namespace Sys2Proof.Machine

/-! ## Window slots (R233) -/

/-- A context holds a handle of the object and kind that a slot maps. -/
def Ctx.holds (c : Ctx) (w : WinSlot) : Bool :=
  c.h.toList.any fun h => hKind h == (if w.fill then 1 else 2) && hObj h == w.obj && hPkg h == w.pkg && hGen h == w.gen

/-- Free the slots whose last handle has gone; a fill slot stays while the publication of its object waits for accepted
fills (R124, R208). -/
def Task.trimWindow (t : Task) : Task :=
  { t with window := t.window.filter fun w =>
      t.ctx.holds w || (w.fill && t.st == .draining && t.det.drops.contains w.obj) }

/-! ## Commands still running -/

/-- The command has been accepted and has not retired. -/
def Cmd.live (c : Cmd) : Bool := c.phase != .done

/-- Commands of a task that have not retired. -/
def Task.busy (t : Task) : Bool := t.cmds.any Cmd.live

/-- A range of addresses meets the 16 MiB of a slot of the sluice window. -/
def Foot.inSlot (f : Foot) (k : Nat) : Bool :=
  f.lo < sluiceBase + (k + 1) * 2 ^ 24 && sluiceBase + k * 2 ^ 24 ≤ f.hi

/-- The command fills an object of the task's window (R124, R235): an SC.SLFILL (0x0D) that writes in its fill slot. One that was
accepted without ranges, its block being unreadable then, may fill any of them. -/
def Cmd.fills (t : Task) (obj : Nat) (c : Cmd) : Bool :=
  c.live && c.word.extractLsb' 120 8 == 0x0D &&
  t.window.any fun w => w.obj == obj && w.fill && (c.foot.isEmpty || c.foot.any fun f => f.write && f.inSlot w.slot)

/-- An accepted SC.SLFILL of the task into an object has not retired. -/
def Task.fillsInto (t : Task) (obj : Nat) : Bool := t.cmds.any (Cmd.fills t obj)

/-! ## The end of a task -/

/-- The fate of one handle at EXIT (R240) or at a kill (R147). -/
def State.exitHandle (s : State) (kill : Bool) (h : BitVec 128) : State :=
  if hKind h = 1 && hDx h && !kill then
    if s.me.eff.det || s.me.fillsInto (hObj h) then
      s.mapMe fun t => { t with det := { t.det with drops := t.det.drops ++ [hObj h] } }
    else s.objPublish (hObj h) s.me.ctx.clock
  else s.disposeHandle h false s.me.ctx.clock

/-- The consumer end of a channel lies in this task (R352). -/
def Chan.consumes (t : TaskId) (c : Chan) : Bool :=
  c.fn == t.fn && c.blk == t.blk && c.ctask == t.idx && (c.peer == 0 || !c.locend) && !c.closed

/-- Close every channel the task consumes (R156). -/
def State.closeChannels (s : State) (t : TaskId) : State := (s.chans.filter (Chan.consumes t)).foldl State.closeConsumer s

/-- The acting task's handles in ascending order, then its channels; the context issues no more. -/
def State.endTask (s : State) (kill : Bool) : State :=
  let s1 := s.me.ctx.h.toList.foldl (fun st h => st.exitHandle kill h) s
  let s2 := s1.closeChannels s.me.id
  s2.mapMe fun t => ({ t with
    st := .draining
    ctx := { t.ctx with
      h := Vector.replicate 8 0
      bind := Vector.replicate 4 none
      st := .free
      wait := .none
      held := []
      parked := none
      pend := [] } } : Task).trimWindow

/-- The end of a task withdraws the SYNCD and the atomics that wait in it, in a handler's EXIT those whose place is held (R141), at
a kill those it sleeps in too (R147): the task counts as exited, not as arrived, and its atomics leave their open rounds. -/
def State.withdrawHeld (s : State) : State :=
  { s.mapMe (fun t => { t with det := { t.det with arrived := false } }) with
    groups := s.groups.map fun g =>
      if g.fn == s.me.id.fn && g.blk == s.me.id.blk then
        { g with rounds := g.rounds.filter fun r => !(r.idx == s.me.id.idx && r.res.isNone) }
      else g }

/-! ## Barriers (R217, R218, R134) -/

/-- The party's record at a barrier. -/
def Ctx.barOf (c : Ctx) (b : BitVec 6) : BarCount := (c.bars.find? fun x => x.bar == b).getD ⟨b, 0, 0, 0⟩

/-- Replace the record. -/
def Ctx.setBar (c : Ctx) (x : BarCount) : Ctx := { c with bars := x :: c.bars.filter fun y => y.bar != x.bar }

/-- The task has ended for the purposes of a barrier. -/
def Task.gone (t : Task) : Bool := t.st == .draining || t.st == .exited || t.st == .ended || t.st == .killed

/-- The tasks of a node block that the machine holds. -/
def State.party (s : State) (fn : Nat) (blk : Word) : List Task := s.all.filter fun t => t.id.fn == fn && t.id.blk == blk

/-- Tasks of a deterministic node block share a slot, so that they cannot all be placed at once (R47). -/
def Blk.sharesSlots (b : Blk) : Bool :=
  b.eff.det && match b.hdr with
    | some h => b.eff.cmills * (16 / h.size) < b.eff.tcount.toNat
    | none => false

/-- The tasks of a node block can never all be placed at once: no interval of their group ends, and no phase of their barriers is
complete (R127, R218), though each of them should exit in its turn (DEDUCED, log 72). -/
def State.neverMeets (s : State) (fn : Nat) (blk : Word) : Bool :=
  match s.blk? fn blk with
  | some b => b.sharesSlots
  | none => false

/-- Phase `k` of a barrier is complete (R217): every task of the node has arrived, or has exited or been killed. -/
def State.phaseDone (s : State) (fn : Nat) (blk : Word) (b : BitVec 6) (k : Nat) : Bool :=
  !s.neverMeets fn blk &&
  let n := match s.blk? fn blk with
    | some x => x.eff.tcount.toNat
    | none => 0
  n ≤ ((s.party fn blk).filter fun t => t.gone || k ≤ (t.ctx.barOf b).ara).length

/-- The largest clock a party held at its BARA (R134). -/
def State.barClock (s : State) (fn : Nat) (blk : Word) (b : BitVec 6) : Nat :=
  (s.party fn blk).foldl (fun m t => max m (t.ctx.barOf b).clk) 0

end Sys2Proof.Machine
end

