-- ==== Sys2Proof/Machine/Control.lean ====
section
/-!
DEFINITION. Sys2Proof/Machine/Control.lean: branches, REP, WAITCH, YIELD, EXIT, NOP and barriers (R165, R202 to R208,
R217 to R219).
-/

namespace Sys2Proof.Machine

/-- An instruction that may not execute while REP state is held (R204). -/
def noRep (i : Instr) (g : Guard) (s : State) (k : State → Res) : Res :=
  guarded i g s fun s =>
    if s.me.ctx.rep.count ≠ 0 then .next (s.trapAt tcILLOP (infoWord i)) else k s

/-- The path signature at the retirement of a guarded branch (R440). -/
def Ctx.sign (c : Ctx) (g : Guard) (taken : Bool) : Ctx :=
  if g.q = 0 then c else { c with sig := mix (c.sig ^^^ (c.pc * 2 + (if taken then 1 else 0))) }

/-- A branch: as `noRep`, with the path signature of a guarded-off branch (R440). -/
def branch (i : Instr) (g : Guard) (s : State) (k : State → Res) : Res :=
  if s.me.ctx.guardTrue g then noRep i g s k
  else .next ((s.mapCtx fun c => c.sign g false).retireTo (nextPc i s))

/-- The target of B and BL (R202). -/
def branchTarget (pc : Word) (off : BitVec 22) : Word := pc + sx off * 4

/-- B (R202). -/
def execBr (g : Guard) (off : BitVec 22) (s : State) : Res :=
  branch (.br g off) g s fun s => .next ((s.mapCtx fun c => c.sign g true).jumpTo (branchTarget s.me.ctx.pc off))

/-- BL (R202): g27 takes the address after the branch. -/
def execBl (g : Guard) (off : BitVec 22) (s : State) : Res :=
  branch (.bl g off) g s fun s =>
    .next ((s.mapCtx fun c => (c.sign g true).wg 27 (c.pc + 4)).jumpTo (branchTarget s.me.ctx.pc off))

/-- BI (R202): ALIGN, then PGFLT, with TRAPINFO the target. -/
def execBi (g : Guard) (a : BitVec 5) (imm : BitVec 12) (s : State) : Res :=
  branch (.bi g a imm) g s fun s =>
    match s.gate (.bi g a imm) [a] none false with
    | .trap c x => .next (s.trapAt c x)
    | .wait w => .next (s.waitOn w)
    | .go =>
      let t := s.src a + sx imm * 4
      if t.toNat % 4 ≠ 0 then .next (s.trapAt tcALIGN t)
      else if !canonical t then .next (s.trapAt tcPGFLT t)
      else .next (((s.popSrcs [a]).mapCtx fun c => c.sign g true).jumpTo t)

/-- The last address of a REP body is beyond what R176 allows: the encoding is reserved at this address. -/
def repTooFar (pc : Word) (imm : BitVec 12) : Bool := 0x00FFFFFFFFFFFFFF < pc.toNat + 4 * imm.toNat

/-- REP (R203): with a count of 0 the body is passed over unexecuted, its words fetched; otherwise the REP state is
recorded and execution goes on at the body's start. -/
def execRep (g : Guard) (a : BitVec 5) (imm : BitVec 12) (s : State) : Res :=
  if repTooFar s.me.ctx.pc imm then .next (s.trapAt tcILLOP (infoWord (.rep g a imm)))
  else
    noRep (.rep g a imm) g s fun s =>
      match s.gate (.rep g a imm) [a] none false with
      | .trap c x => .next (s.trapAt c x)
      | .wait w => .next (s.waitOn w)
      | .go =>
        let n := s.src a
        let pc := s.me.ctx.pc
        let last := pc + BitVec.ofNat 64 (4 * imm.toNat)
        if n = 0 then
          match skipBody last (imm.toNat + 1) (pc + 4) s with
          | .ok (t, s1) => .next ((s1.popSrcs [a]).jumpTo t)
          | .error (.trap s1 c x) => .next (s1.trapAt c x)
          | .error (.wait w) => .next (s.waitOn w)
          | .error (.ok _ _) => .next (s.jumpTo pc)
        else .next (((s.popSrcs [a]).mapCtx fun c => { c with rep := ⟨pc + 4, last, n⟩ }).jumpTo (pc + 4))

/-- WAITCH (R206): sleeps until the channel holds a word; nothing is popped. -/
def execWaitch (g : Guard) (a : BitVec 5) (s : State) : Res :=
  guarded (.waitch g a) g s fun s =>
    match s.me.ctx.binding a with
    | none => .next (s.retireTo (nextPc (.waitch g a) s))
    | some b =>
      if !b.consumer then .next (s.trapAt tcILLOP (infoWord (.waitch g a)))
      else if (s.headOf a).isSome then .next (s.retireTo (nextPc (.waitch g a) s))
      else .next (s.waitOn (.chanWord (a.setWidth 2)))

/-- YIELD (R207): the context is passed over for up to 16 cycles. -/
def execYield (g : Guard) (s : State) : Res :=
  guarded (.yield g) g s fun s =>
    .next ((s.mapCtx fun c => { c with yield := s.time + 16 }).retireTo (nextPc (.yield g) s))

/-- EXIT (R208, R37): the task ends; its accepted commands run on. -/
def execExit (g : Guard) (s : State) : Res :=
  noRep (.exit g) g s fun s =>
    .next ((s.mapCtx fun c => { c with pc := nextPc (.exit g) s }.retire s.time).withdrawHeld.endTask false)

/-- NOP: any hint (R165). -/
def execNop (low : BitVec 28) (s : State) : Res := .next (s.retireTo (nextPc (.nop low) s))

/-- BARA (R217, R218): stalls while the barrier's previous phase is incomplete. -/
def execBara (g : Guard) (n : BitVec 12) (s : State) : Res :=
  guarded (.bara g n) g s fun s =>
    let b := n.setWidth 6
    let x := s.me.ctx.barOf b
    if x.ara ≠ 0 && !s.phaseDone s.me.id.fn s.me.id.blk b x.ara then .next (s.waitOn (.barArrive b))
    else
      .next ((s.mapCtx fun c => c.setBar { x with ara := x.ara + 1, clk := c.clock }).retireTo (nextPc (.bara g n) s))

/-- BARW (R218, R134): sleeps until the phase of the party's latest BARA completes, and takes the largest clock. -/
def execBarw (g : Guard) (n : BitVec 12) (s : State) : Res :=
  guarded (.barw g n) g s fun s =>
    let b := n.setWidth 6
    let x := s.me.ctx.barOf b
    if x.ara = x.arw then .next (s.retireTo (nextPc (.barw g n) s))
    else if s.phaseDone s.me.id.fn s.me.id.blk b x.ara then
      let k := s.barClock s.me.id.fn s.me.id.blk b
      .next ((s.mapCtx fun c => { c.setBar { x with arw := x.ara } with clock := max c.clock k }).retireTo
        (nextPc (.barw g n) s))
    else .next (s.waitOn (.barrier b))

end Sys2Proof.Machine
end

