-- ==== Sys2Proof/Machine/Channels.lean ====
section
/-!
DEFINITION. Sys2Proof/Machine/Channels.lean: binding and closing channel ends (R245, R246).
-/

namespace Sys2Proof.Machine

/-- The end of a channel that its table entry gives a task (R245, R352): the consumer end where it gives both. -/
def Chan.endOf (c : Chan) (t : TaskId) : Option Bool :=
  if (c.peer == 0 || !c.locend) && c.ctask == t.idx then some true
  else if (c.peer == 0 || c.locend) && (c.ptask == t.idx || c.ptask == 0xFFFFFFFF) then some false
  else none

/-- Bind a channel register. -/
def Ctx.setBind (c : Ctx) (r : BitVec 5) (b : Option Binding) : Ctx :=
  { c with bind := c.bind.set (r.setWidth 2 : BitVec 2).toNat b (r.setWidth 2 : BitVec 2).isLt }

/-- The channel has an end bound in the context. -/
def Ctx.hasBound (c : Ctx) (ch : BitVec 12) : Bool := c.bind.toList.any fun b => match b with
  | some x => x.ch == ch
  | none => false

/-- CHBIND (R245, R287): ILLOP where the register is bound, the channel is absent, is a HALO entry, gives this task no
end, or its end is bound already. -/
def execChbind (g : Guard) (d : BitVec 5) (ch : BitVec 12) (s : State) : Res :=
  let i := Instr.chbind g d ch
  guarded i g s fun s =>
    match s.myChan ch with
    | none => .next (s.trapAt tcILLOP (infoWord i))
    | some c =>
      match c.endOf s.me.id with
      | none => .next (s.trapAt tcILLOP (infoWord i))
      | some e =>
        if (s.me.ctx.binding d).isSome || c.halo || s.me.ctx.hasBound ch then .next (s.trapAt tcILLOP (infoWord i))
        else done i (s.mapCtx fun x => x.setBind d (some ⟨ch, e⟩)) []

/-- CHCLOSE (R246, R156). -/
def execChclose (g : Guard) (a : BitVec 5) (s : State) : Res :=
  guarded (.chclose g a) g s fun s =>
    match s.me.ctx.binding a with
    | none => done (.chclose g a) s []
    | some b =>
      let s1 := match s.myChan b.ch with
        | some c => if b.consumer && !c.closed then s.closeConsumer c else s
        | none => s
      done (.chclose g a) (s1.mapCtx fun c => (c.setBind a none).wg a 0) []

end Sys2Proof.Machine
end

