-- ==== Sys2Proof/Machine/Flags.lean ====
section
/-!
DEFINITION. Sys2Proof/Machine/Flags.lean: every flag computation of the spec: the scalar floating-point flags FPF with
their traps (R221), and ATOMFLAGS (R58 to R60).
-/

namespace Sys2Proof.Machine

/-! ## FPF and FPX (R221) -/

/-- The raised flags have one whose trap is enabled. -/
def Ctx.fpTraps (c : Ctx) (fl : FFlags) : Bool := fl &&& c.fpe != 0

/-- OR the raised flags into FPF. -/
def Ctx.orFpf (c : Ctx) (fl : FFlags) : Ctx := { c with fpf := c.fpf ||| fl }

/-- Finish a scalar floating-point instruction: FPX where a raised flag is enabled, writing nothing and leaving FPF
unchanged; otherwise `put` writes the result and the flags are added. -/
def fpDone (i : Instr) (s : State) (srcs : List (BitVec 5)) (fl : FFlags) (put : State → State) : Res :=
  if s.me.ctx.fpTraps fl then .next (s.trapAt tcFPX (fl.setWidth 64))
  else .next (((put (s.popSrcs srcs)).mapCtx (·.orFpf fl)).retireTo (nextPc i s))

/-! ## ATOMFLAGS (R58 to R60) -/

/-- The bits of ATOMFLAGS that are not reserved (R58). -/
def atomFlagsMask : Word := 0x1001F

/-- MTS to ATOMFLAGS: bits 4:0 are cleared where 1 is written, but for those that an element has set in this cycle (R59);
ATOMTRAP is written, the rest is reserved. -/
def atomFlagsWrite (old set v : Word) : Word :=
  BitVec.ofNat 64 (bitsAt ((old &&& ~~~v) ||| set) 0 5 + bool1 (bitAt v 16) * 2 ^ 16)

/-- An element sets flags of its task's context; with ATOMTRAP a decoded non-pattern posts ATOMINV with the element's
name, unless the context is TRAPPED (R59, R60). `m` is a mask of ATOMFLAGS bits 4:0. -/
def State.atomFlags (s : State) (m : Nat) (name : Word) : State :=
  let c := s.me.ctx
  let c1 := { c with atomFlags := c.atomFlags ||| BitVec.ofNat 64 (m % 32), atomSet := c.atomSet ||| BitVec.ofNat 64 (m % 32) }
  let c2 := if m % 2 = 1 && bitAt c.atomFlags 16 then c1.post ⟨tcATOMINV, 2, 0, name, false, false⟩ else c1
  let s1 := s.mapCtx fun _ => c2
  if m / 8 % 2 = 1 then s1.count 0x014 1 else s1

end Sys2Proof.Machine
end

