-- ==== Sys2Proof/Machine/System.lean ====
section
/-!
DEFINITION. Sys2Proof/Machine/System.lean: system registers (R179, R228, R229, R421), the noise step, traps called by a
program and the return from one (R140, R256 to R258), events, counters, marks and trigger lines (R254, R255, R259),
TLBINV (R260) and the retention registers (R102, R253).
-/

namespace Sys2Proof.Machine

/-! ## System registers -/

/-- EBUSY: a command accepted from the context has not retired (R229, R263). -/
def Task.ebusy (t : Task) : Bool := t.busy

/-- STATUS (R229). -/
def Task.status (t : Task) : Word :=
  BitVec.ofNat 64 (bool1 t.ctx.tm + bool1 t.ebusy * 2 + bool1 t.eff.world * 4 + t.ctx.fpf.toNat * 2 ^ 8 +
    t.ctx.fpe.toNat * 2 ^ 16)

/-- What MFS reads (R179, R228, R229). -/
def Task.sysRead (t : Task) (r : BitVec 12) : Word :=
  let c := t.ctx
  match r.toNat with
  | 0x000 => t.ctxid
  | 0x001 => t.status
  | 0x002 => c.nseed
  | 0x003 => c.nstep.setWidth 64
  | 0x004 => BitVec.ofNat 64 t.nmills
  | 0x005 => BitVec.ofNat 64 (bool1 t.eff.det)
  | 0x006 => BitVec.ofNat 64 (t.knet.toNat + bool1 t.long * 2 ^ 8)
  | 0x008 => c.trapPc
  | 0x009 => c.trapCause
  | 0x00A => c.trapInfo
  | 0x00B => c.atomFlags
  | 0x00C => c.dbg
  | 0x00E => c.repSh.first
  | 0x00F => c.repSh.stop
  | 0x010 => c.repSh.count
  | _ => 0

/-- The RW fields of TRAPCAUSE (R138). -/
def trapCauseMask : Word := 0xFFFFFFFF00FF0FFF
/-- The RW fields of DBGCTL (R421). -/
def dbgMask : Word := 0x1F1E

/-- What MTS writes: RW fields only; a read-only register is left as it is (R179, R228). -/
def Ctx.sysWrite (c : Ctx) (r : BitVec 12) (v : Word) : Ctx :=
  match r.toNat with
  | 0x001 => { c with tm := bitAt v 0, fpf := BitVec.ofNat 5 (bitsAt v 8 5), fpe := BitVec.ofNat 5 (bitsAt v 16 5) }
  | 0x002 => { c with nseed := v }
  | 0x003 => { c with nstep := v.setWidth 32 }
  | 0x008 => { c with trapPc := v }
  | 0x009 => { c with trapCause := v &&& trapCauseMask }
  | 0x00A => { c with trapInfo := v }
  | 0x00B => { c with atomFlags := atomFlagsWrite c.atomFlags c.atomSet v }
  | 0x00C => { c with dbg := (c.dbg &&& ~~~dbgMask) ||| (v &&& dbgMask) }
  | 0x00E => { c with repSh := { c.repSh with first := v } }
  | 0x00F => { c with repSh := { c.repSh with stop := v } }
  | 0x010 => { c with repSh := { c.repSh with count := v } }
  | _ => c

/-- MFS (R228). -/
def execMfs (g : Guard) (d : BitVec 5) (sr : BitVec 12) (s : State) : Res :=
  gated (.mfs g d sr) g [] (some d) false s fun s => doneG (.mfs g d sr) s [] d (s.me.sysRead sr)

/-- MTS (R228): DBGCTL while a debugger is attached raises PRIV. -/
def execMts (g : Guard) (sr : BitVec 12) (a : BitVec 5) (s : State) : Res :=
  gated (.mts g sr a) g [a] none false s fun s =>
    if sr = 0x00C && s.me.ctx.attached then .next (s.trapAt tcPRIV (infoWord (.mts g sr a)))
    else .next (((s.popSrcs [a]).mapCtx fun c => c.sysWrite sr (s.src a)).retireTo (nextPc (.mts g sr a) s))

/-- NSTEPI (R250). -/
def execNstepi (g : Guard) (imm : BitVec 17) (s : State) : Res :=
  guarded (.nstepi g imm) g s fun s =>
    .next ((s.mapCtx fun c => { c with nstep := c.nstep + imm.setWidth 32 }).retireTo (nextPc (.nstepi g imm) s))

/-! ## Traps -/

/-- The instruction retires without a step boundary, and its trap is taken with TRAPPC at the next instruction (R137). -/
def State.retireTrap (s : State) (next : Word) (cause : BitVec 8) (info : Word) : State :=
  (s.mapCtx fun c => (c.advance next).retire s.time).trapAt cause info

/-- TRAP (R256): SYSCALL, TRAPINFO the operand. -/
def execTrap (g : Guard) (imm : BitVec 12) (s : State) : Res :=
  guarded (.trap g imm) g s fun s => .next (s.retireTrap (nextPc (.trap g imm) s) tcSYSCALL (zx imm))

/-- BKPT (R257): TRAPINFO its own PC. -/
def execBkpt (g : Guard) (s : State) : Res :=
  guarded (.bkpt g) g s fun s => .next (s.retireTrap (nextPc (.bkpt g) s) tcBKPT s.me.ctx.pc)

/-- ERET (R140, R258, R205): with TM 0, or in a REP body, ILLOP. As a handler's last instruction it is followed by a step
boundary only while a debugger is attached (R136). -/
def execEret (g : Guard) (s : State) : Res :=
  noRep (.eret g) g s fun s =>
    if !s.me.ctx.tm then .next (s.trapAt tcILLOP (infoWord (.eret g)))
    else
      let s1 := s.mapCtx fun c => (c.retire s.time).returnTrap
      .next (if s.me.ctx.attached then s1.boundary else s1)

/-- WFE (R259). -/
def execWfe (g : Guard) (s : State) : Res :=
  guarded (.wfe g) g s fun s =>
    if s.me.ctx.latch then .next ((s.mapCtx fun c => { c with latch := false }).retireTo (nextPc (.wfe g) s))
    else .next (s.waitOn .wfe)

/-! ## Counters (R254) -/

/-- Change counter `k` (0 to 3). -/
def Ctx.counter (c : Ctx) (k : BitVec 5) (f : Counter → Counter) : Ctx :=
  let i : BitVec 2 := k.setWidth 2
  { c with ctrs := c.ctrs.set i.toNat (f (c.ctrs[i.toNat]'(i.isLt))) i.isLt }

/-- Read counter `k`. -/
def Ctx.counterVal (c : Ctx) (k : BitVec 5) : Word :=
  let i : BitVec 2 := k.setWidth 2
  (c.ctrs[i.toNat]'(i.isLt)).val.setWidth 64

/-- CTRSEL (R254): the counter is set to 0 and stays on or off. -/
def execCtrsel (g : Guard) (k : BitVec 5) (ev : BitVec 12) (s : State) : Res :=
  guarded (.ctrsel g k ev) g s fun s =>
    .next ((s.mapCtx fun c => c.counter k fun x => { x with ev := ev, val := 0 }).retireTo (nextPc (.ctrsel g k ev) s))

/-- CTRON (R254). -/
def execCtron (g : Guard) (k : BitVec 5) (s : State) : Res :=
  guarded (.ctron g k) g s fun s =>
    .next ((s.mapCtx fun c => c.counter k fun x => { x with on := true }).retireTo (nextPc (.ctron g k) s))

/-- CTROFF (R254). -/
def execCtroff (g : Guard) (k : BitVec 5) (s : State) : Res :=
  guarded (.ctroff g k) g s fun s =>
    .next ((s.mapCtx fun c => c.counter k fun x => { x with on := false }).retireTo (nextPc (.ctroff g k) s))

/-- CTRRD (R254). -/
def execCtrrd (g : Guard) (d k : BitVec 5) (s : State) : Res :=
  gated (.ctrrd g d k) g [] (some d) false s fun s => doneG (.ctrrd g d k) s [] d (s.me.ctx.counterVal k)

/-! ## Marks and trigger lines (R255) -/

/-- A command that uses a fabric port of the run and has not yet freed it (R263). -/
def Cmd.holdsPort (c : Cmd) (p : Nat) : Bool :=
  let op := (c.word.extractLsb' 120 8).toNat
  let q := (c.word.extractLsb' 114 6).toNat
  (c.phase == .accepted || c.phase == .running) && !c.freed.contains p &&
    (if op = 0x12 then q ≤ p && p ≤ q + 2
     else [0x02, 0x04, 0x05, 0x08, 0x09, 0x0A, 0x0B, 0x0C, 0x0D, 0x0E, 0x18, 0x19].contains op && q == p)

/-- The MARK tokens of a port whose commands have all freed it enter its stream, oldest first. -/
def flushMarks (cmds : List Cmd) (p : Nat) (port : Port) : Port :=
  let ready (m : BitVec 32 × Tok) : Bool := !cmds.any fun c => c.holdsPort p && (m.1 - c.seq).toNat < 2 ^ 31
  { port with
    offer := port.offer ++ (port.marks.takeWhile ready).map fun x => (x.2, 0)
    marks := port.marks.dropWhile ready }

/-- Change every port of a run, by number. -/
def Run.mapPorts (r : Run) (f : Nat → Port → Port) : Run :=
  { r with ports := ((List.range r.ports.length).zip r.ports).map fun x => f x.1 x.2 }

/-- Flush the MARK tokens of every port of a task's run. -/
def Task.flushPorts (t : Task) : Task := { t with run := t.run.mapPorts fun p x => flushMarks t.cmds p x }

/-- Queue a MARK token on every input port of the active plane, all with one identity (R255, R293). -/
def Task.injectMark (t : Task) (n : BitVec 12) : Task :=
  let id := t.run.ident + 1
  let add (p : Nat) (x : Port) : Port :=
    match t.run.act.ports[p]? with
    | some d => if d.present && !d.out then { x with marks := x.marks ++ [(t.ctx.seq, .ctl (.mark n) id)] } else x
    | none => x
  ({ t with run := { t.run.mapPorts add with ident := id } } : Task).flushPorts

/-- MARK (R255): a trace record with TREN set, MARK tokens with CPS set. -/
def execMark (g : Guard) (imm : BitVec 12) (s : State) : Res :=
  guarded (.mark g imm) g s fun s =>
    let s1 := if bitAt s.me.ctx.dbg 3 then s.trace 0x01 s.me.ctx.pc (zx imm) else s
    let s2 := if bitAt s.me.ctx.dbg 4 then s1.mapMe fun t => t.injectMark imm else s1
    .next (s2.retireTo (nextPc (.mark g imm) s))

/-- TRIG (R255): the source SRCTRIG of the line holds for this cycle; the crossbar takes it where the line is so
configured (R425). -/
def execTrig (g : Guard) (line : BitVec 12) (s : State) : Res :=
  guarded (.trig g line) g s fun s => .next ((s.mySource 1 line.toNat).retireTo (nextPc (.trig g line) s))

/-! ## Translation and retention -/

/-- TLBINV (R260): the calling mill's entries for the page holding g[a]. -/
def execTlbinv (g : Guard) (a : BitVec 5) (s : State) : Res :=
  gated (.tlbinv g a) g [a] none false s fun s =>
    let va := s.src a
    let m := s.mill s.me.mill
    let s1 := if canonical va then
      s.setMill s.me.mill { m with tlb := m.tlb.filter fun e => !e.hits s.me.id.fn va }
      else s
    done (.tlbinv g a) s1 [a]

/-- Write a retention register of a function. -/
def State.setRetain (s : State) (fn : Nat) (i : Nat) (b l : Word) : State :=
  let f := s.fn fn
  if h : i < 16 then s.setFn fn { f with retain := f.retain.set i (b, l) h } else s

/-- RSVPIN (R253): BASE and LIMIT take bits 56:16, VALID is set. -/
def execRsvpin (g : Guard) (d a b : BitVec 5) (s : State) : Res :=
  gated (.rsvpin g d a b) g [d, a, b] none false s fun s =>
    let n := (s.src d).toNat
    let lo := s.src a
    let hi := s.src b
    if 16 ≤ n || !canonical lo || !canonical hi || bitsAt hi 16 41 < bitsAt lo 16 41 then
      .next (s.trapAt tcILLOP (infoWord (.rsvpin g d a b)))
    else
      done (.rsvpin g d a b) ((s.rsvUnpin s.me.id.fn n).setRetain s.me.id.fn n (BitVec.ofNat 64 (bitsAt lo 16 41 * 2 ^ 16 + 1))
        (BitVec.ofNat 64 (bitsAt hi 16 41 * 2 ^ 16))) [d, a, b]

/-- RSVUNPIN (R253): VALID is cleared. -/
def execRsvunpin (g : Guard) (a : BitVec 5) (s : State) : Res :=
  gated (.rsvunpin g a) g [a] none false s fun s =>
    let n := (s.src a).toNat
    if h : n < 16 then
      let r := (s.fn s.me.id.fn).retain[n]
      done (.rsvunpin g a) ((s.rsvUnpin s.me.id.fn n).setRetain s.me.id.fn n (setBit r.1 0 false) r.2) [a]
    else .next (s.trapAt tcILLOP (infoWord (.rsvunpin g a)))

end Sys2Proof.Machine
end

