-- ==== Sys2Proof/Machine/Fabric.lean ====
section
/-!
DEFINITION. Sys2Proof/Machine/Fabric.lean: the fabric of a run as a network: coordinates and neighbours (R27, R184), token
slots and links (R293, R294), ports on both sides with dealing (R62 to R66, R262, R279, R320, R356, R357), control tokens
in passing (R297, R298), the path collector (R433, R434) and the ingress meter (R388 to R390).
-/

namespace Sys2Proof.Machine

/-! ## Coordinates -/

/-- Directions (R183): 0 west, 1 north, 2 east, 3 south. -/
def opposite (d : Nat) : Nat := (d + 2) % 4

/-- The neighbour of an element in a direction, in a run of `nl` lanes and eight rows; none beyond an edge. -/
def neighbour (nl e d : Nat) : Option Nat :=
  let r := e / nl
  let l := e % nl
  match d with
  | 0 => if l = 0 then none else some (e - 1)
  | 1 => if r = 0 then none else some (e - nl)
  | 2 => if l + 1 = nl then none else some (e + 1)
  | _ => if r + 1 = 8 then none else some (e + nl)

/-- The place of a crossing at an edge (R356): the row at W and E, the lane at N and S. -/
def crossing (nl e d : Nat) : Nat := if d % 2 = 0 then e / nl else e % nl

/-- The output port attached where an element's direction leaves the run. -/
def Plane.portAt (p : Plane) (nl e d : Nat) : Option Nat :=
  findIdx (fun x => x.present && x.out && x.edge.toNat == d &&
    (if x.deal then e % nl == 0 && d == 0 else x.pos == crossing nl e d)) p.ports

/-- The element word of an element; 0 for NONE. -/
def Plane.wordOf (p : Plane) (e : Nat) : Word := ((p.pattern? e).map (·.word)).getD 0

/-- The element that a direction of an element leads to, through PASS elements (R306). -/
def Plane.follow (p : Plane) (nl : Nat) : Nat → Nat → Nat → Option Nat
  | 0, _, _ => none
  | n + 1, e, d =>
    match neighbour nl e d with
    | none => none
    | some x =>
      if (eOp (p.wordOf x)).toNat = 0x42 then
        match findIdx (fun b => b) ((List.range 4).map fun i => (eFields (p.wordOf x)).dirs.getLsbD i) with
        | some d2 => p.follow nl n x d2
        | none => none
      else some x

/-- The only direction of a DIRS field. -/
def oneDir (d : BitVec 4) : Option Nat := findIdx (fun b => b) ((List.range 4).map fun i => d.getLsbD i)

/-- A pulse cell (R302). -/
def isCell (op : Nat) : Bool := op == 1 || op == 2 || op == 3

/-- The element whose output reaches a source of an element, back through PASS elements. -/
def Plane.feeder (p : Plane) (nl : Nat) : Nat → Nat → Nat → Option Nat
  | 0, _, _ => none
  | n + 1, e, src =>
    if src = 0 || 4 < src then none
    else match neighbour nl e (src - 1) with
      | none => none
      | some x => if (eOp (p.wordOf x)).toNat = 0x42 then p.feeder nl n x (eFields (p.wordOf x)).ina.toNat else some x

/-- Cells upstream of a cell in its chain (R306). -/
def Plane.upstream (p : Plane) (nl : Nat) : Nat → Nat → Nat
  | 0, _ => 0
  | n + 1, e =>
    match p.feeder nl 1024 e (eFields (p.wordOf e)).inc.toNat with
    | some x => if isCell (eOp (p.wordOf x)).toNat then p.upstream nl n x + 1 else 0
    | none => 0

/-- The DRAIN element that ends a cell's chain, and the cells from this one to it. -/
def Plane.chainEnd (p : Plane) (nl : Nat) : Nat → Nat → Option Nat
  | 0, _ => none
  | n + 1, e =>
    match oneDir (eFields (p.wordOf e)).dirs with
    | none => none
    | some d => match p.follow nl 1024 e d with
      | none => none
      | some x => if (eOp (p.wordOf x)).toNat = 5 then some x
          else if isCell (eOp (p.wordOf x)).toNat then p.chainEnd nl n x else none

/-- The format of the DRAIN element that ends a cell's chain (R306). -/
def Plane.chainFmt (p : Plane) (nl e : Nat) : Nat :=
  match p.chainEnd nl 1024 e with
  | some x => (eFields (p.wordOf x)).param.toNat % 4
  | none => 0

/-! ## Tokens and slots -/

/-- MARK and RELATCH observe the data only (R298). -/
def Tok.observes : Tok → Bool
  | .ctl (.mark _) _ => true
  | .ctl (.relatch _ _) _ => true
  | _ => false

/-- A data or burst-header token. -/
def Tok.carries : Tok → Bool
  | .ctl _ _ => false
  | _ => true

/-- The slot of an operand. -/
def Elem.slot (e : Elem) : Opd → List InTok
  | .a => e.a
  | .b => e.b
  | .c => e.c

/-- Replace an operand's slot. -/
def Elem.setSlot (e : Elem) (o : Opd) (l : List InTok) : Elem :=
  match o with
  | .a => { e with a := l }
  | .b => { e with b := l }
  | .c => { e with c := l }

/-- The stream of an operand. -/
def Elem.inp (e : Elem) : Opd → InState
  | .a => e.ia
  | .b => e.ib
  | .c => e.ic

/-- Replace the stream of an operand. -/
def Elem.setInp (e : Elem) (o : Opd) (i : InState) : Elem :=
  match o with
  | .a => { e with ia := i }
  | .b => { e with ib := i }
  | .c => { e with ic := i }

/-- The source code of an operand. -/
def srcCode (w : ElemFields) : Opd → Nat
  | .a => w.ina.toNat
  | .b => w.inb.toNat
  | .c => w.inc.toNat

/-- The operand of a word that names a source. -/
def opdOf (w : ElemFields) (src : Nat) : Option Opd :=
  if w.ina.toNat = src then some .a else if w.inb.toNat = src then some .b
  else if w.inc.toNat = src then some .c else none

/-- An operand slot pair has room. -/
def Elem.hasRoom (e : Elem) (o : Opd) : Bool := (e.slot o).length < 2

/-- A token arrives at an operand. -/
def Elem.arrive (e : Elem) (o : Opd) (t : Tok) (now : Nat) : Elem := e.setSlot o (e.slot o ++ [⟨t, now⟩])

/-- No token in any slot, none staged or waiting. -/
def Elem.isEmpty (e : Elem) : Bool :=
  e.a.isEmpty && e.b.isEmpty && e.c.isEmpty && e.out.isEmpty && e.emit.isEmpty && e.queue.isEmpty && e.stage.isEmpty &&
    e.stageB.isEmpty && e.pats.isEmpty

/-- An element of a run. -/
def Run.elem (r : Run) (e : Nat) : Elem := r.elems.getD e .zero

/-- Change an element. -/
def Run.mapElem (r : Run) (e : Nat) (f : Elem → Elem) : Run := { r with elems := modifyAt r.elems e f }

/-- A port of a run. -/
def Run.port (r : Run) (p : Nat) : Port := r.ports.getD p .reset

/-- Change a port. -/
def Run.mapPort (r : Run) (p : Nat) (f : Port → Port) : Run := { r with ports := modifyAt r.ports p f }

/-- The declaration of a port in the active plane. -/
def Run.decl (r : Run) (p : Nat) : PortDecl := r.act.ports.getD p ⟨false, false, 0, 0, false, 0⟩

/-- An output token with one direction gone; none when it has left by all. -/
def OutTok.without (t : OutTok) (d : Nat) : Option OutTok :=
  let m := t.dirs &&& ~~~BitVec.ofNat 4 (2 ^ d)
  if m = 0 && !t.quad && !t.self then none else some { t with dirs := m }

/-- Keep a changed token of a list, or drop it. -/
def updTok : List OutTok → Nat → (OutTok → Option OutTok) → List OutTok
  | [], _, _ => []
  | t :: ts, 0, f => match f t with
    | some x => x :: ts
    | none => ts
  | t :: ts, n + 1, f => t :: updTok ts n f

/-- A token has left an output slot: what waits for a slot moves up, and a slot that falls free is noted (R432). -/
def Elem.refill (e : Elem) (now : Nat) : Elem :=
  let n := 2 - e.out.length
  { e with
    out := e.out ++ e.emit.take n
    emit := e.emit.drop n
    roomAt := if e.emit.isEmpty && e.out.length ≠ 1 then e.roomAt else now }

/-! ## Burst state of a port (R62 to R65) -/

/-- What a port makes of a word: the tokens it becomes, or BURSTBAD. -/
inductive Word32 where
  | bad
  | ok (p : Port) (ts : List Tok)

/-- A 32-bit word at a port of a kind: 0 word, 1 atom, 2 tagged. On an input port this makes tokens; on an output port it
follows the burst (R63, R64, R320). -/
def Port.word (p : Port) (kind : Nat) (w : BitVec 32) : Word32 :=
  if kind = 0 then .ok p [.data (w.setWidth 64)]
  else if p.due = 0 then
    if hdrBad w || (kind = 2 && !hdrLong w) then .bad
    else .ok { p with hdr := some w, due := hdrL w } [.hdr w (hdrL w)]
  else if kind = 2 then
    match p.coord with
    | none => .ok { p with coord := some w } []
    | some c => .ok { p with coord := none, due := p.due - 1 } [.data (c ++ w)]
  else
    let long := match p.hdr with
      | some h => hdrLong h
      | none => true
    if long then .ok { p with due := p.due - 1 } [.data (w.setWidth 64)]
    else .ok { p with due := p.due - 2 } [.data (w.setWidth 64)]

/-! ## Taking words in: dealing (R357) -/

/-- What a dealt input port sends to its rows for one token. -/
def Port.deals (p : Port) (t : Tok) : Port × List (Tok × Nat) :=
  match t with
  | .hdr h _ =>
    ({ p with ehdr := h, row := 0 },
      (List.range 8).map fun r => (.hdr h ((hdrL h + 7 - r) / 8), 2 ^ r))
  | .data v =>
    if hdrLong p.ehdr then ({ p with row := p.row + 1 }, [(.data v, 2 ^ (p.row % 8))])
    else
      let lo : Tok × Nat := (.lone (v.setWidth 16 |>.setWidth 64), 2 ^ (p.row % 8))
      let hi : Tok × Nat := (.lone ((v >>> 16).setWidth 16 |>.setWidth 64), 2 ^ ((p.row + 1) % 8))
      if p.row + 1 < hdrL p.ehdr then ({ p with row := p.row + 2 }, [lo, hi]) else ({ p with row := p.row + 1 }, [lo])
  | t => (p, [(t, 255)])

/-- The port takes the word at the head of what its engine offers (R389): a port holds one word at a time. -/
def Port.enter (p : Port) (deal : Bool) : Port :=
  match p.offer with
  | [] => p
  | (t, _) :: rest =>
    if deal then
      let (p1, ts) := p.deals t
      { p1 with offer := rest, inq := p1.inq ++ ts }
    else { p with offer := rest, inq := p.inq ++ [(t, 1)] }

/-- The port can take a word. -/
def Port.canEnter (p : Port) : Bool := !p.offer.isEmpty && p.inq.isEmpty

/-- The element that an input port feeds, or for a dealt port that of a row. -/
def Plane.fed (pl : Plane) (nl p row : Nat) (deal : Bool) : Option Nat :=
  if deal then some (row * nl)
  else findIdx (fun c => c != 0 && (match pl.pats[c - 1]? with
    | some x =>
      let f := eFields x.word
      (f.md.toNat % 64 == p) && (opdOf f 5).isSome
    | none => false)) pl.cells

/-! ## Output ports -/

/-- Room at an output port: a running command takes words until its unit in progress is whole (R262, R263). `need` is
the bytes of that unit; 0 with no command. -/
def Port.takes (p : Port) (need : Nat) : Bool := p.outq.length < need

/-- The bytes of a data or header token at an output port, its burst followed; the pad of an odd short burst is written
as zero (R62). -/
def Port.put (p : Port) (kind : Nat) (t : Tok) : Port :=
  match t with
  | .hdr h n => { p with outq := p.outq ++ leBytes 4 h.toNat, hdr := some h, due := n }
  | .data v =>
    if kind = 2 then { p with outq := p.outq ++ leBytes 4 (v.toNat / 2 ^ 32) ++ leBytes 4 v.toNat, due := p.due - 1 }
    else if kind = 1 then
      let long := match p.hdr with
        | some h => hdrLong h
        | none => true
      if long then { p with outq := p.outq ++ leBytes 4 v.toNat, due := p.due - 1 }
      else if p.due = 1 then { p with outq := p.outq ++ leBytes 4 (v.toNat % 2 ^ 16), due := 0 }
      else { p with outq := p.outq ++ leBytes 4 v.toNat, due := p.due - 2 }
    else { p with outq := p.outq ++ leBytes 4 v.toNat }
  | .lone v => { p with outq := p.outq ++ leBytes 4 (v.toNat % 2 ^ 16), due := p.due - 1 }
  | .ctl _ _ => p

/-- A control token reaches an output port: behind the bytes of units that are whole, and ahead of the write of one that
is not (R279). -/
def Port.putCtl (p : Port) (unit : Nat) (t : Tok) : Port :=
  { p with ctlq := p.ctlq ++ [(if unit = 0 then 0 else p.outq.length / unit * unit, t)] }

/-- What a dealt output port does with the token at the head of a row's link (R357): takes it whole, takes its low atom
and leaves the high one, or leaves it. -/
inductive DealTake where
  | wait
  | all (p : Port)
  | half (p : Port) (rest : Tok)

/-- Write one atom of a dealt output: long as it is, short two to a word. -/
def Port.dealAtom (p : Port) (v : Nat) : Port :=
  let p1 := { p with row := p.row + 1, due := p.due - 1 }
  let long := match p.hdr with
    | some h => hdrLong h
    | none => true
  if long then { p1 with outq := p.outq ++ leBytes 4 v }
  else match p.half with
    | some x => { p1 with outq := p.outq ++ leBytes 4 (x.toNat + v % 2 ^ 16 * 2 ^ 16), half := none }
    | none =>
      if p1.due = 0 then { p1 with outq := p.outq ++ leBytes 4 (v % 2 ^ 16) }
      else { p1 with half := some (BitVec.ofNat 16 v) }

/-- The rows' dues with one changed. -/
def Port.setRow (p : Port) (r n : Nat) : Port :=
  { p with rowDue := modifyAt (if p.rowDue.isEmpty then List.replicate 8 0 else p.rowDue) r fun _ => n }

/-- A dealt output port meets the head of a row's link. -/
def Port.dealTake (p : Port) (need unit r : Nat) (t : Tok) : DealTake :=
  match t with
  | .ctl c id =>
    let d := (id, r) :: p.deal
    if 8 ≤ (d.filter fun x => x.1 == id).length then
      .all ({ p with deal := d.filter fun x => x.1 != id }.putCtl unit (.ctl c id))
    else .all { p with deal := d }
  | .hdr h n =>
    if r = 0 then
      if p.due = 0 && p.takes need then
        .all ({ p with outq := p.outq ++ leBytes 4 h.toNat, hdr := some h, due := hdrL h, row := 0 }.setRow 0 n)
      else .wait
    else if p.rowDue.getD r 0 = 0 then .all (p.setRow r n) else .wait
  | .data v =>
    if p.due = 0 || p.row % 8 ≠ r || !p.takes need then .wait
    else
      let long := match p.hdr with
        | some h => hdrLong h
        | none => true
      let k := p.rowDue.getD r 0
      if long || k ≤ 1 then .all ((p.dealAtom (if long then v.toNat % 2 ^ 32 else v.toNat % 2 ^ 16)).setRow r (k - 1))
      else .half ((p.dealAtom (v.toNat % 2 ^ 16)).setRow r (k - 1)) (.lone ((v >>> 16).setWidth 16 |>.setWidth 64))
  | .lone v =>
    if p.due = 0 || p.row % 8 ≠ r || !p.takes need then .wait
    else .all ((p.dealAtom (v.toNat % 2 ^ 16)).setRow r (p.rowDue.getD r 0 - 1))

/-! ## The path collector (R433, R434) -/

/-- An edge of a walk: name, WAIT, LASTIN and, for a port edge, the port. -/
def pathEdge (nm : Word) (lastIn : BitVec 4) (wait : BitVec 32) (port : Nat) : List Word :=
  [nm, BitVec.ofNat 64 (wait.toNat + lastIn.toNat * 2 ^ 32 + port * 2 ^ 40)]

/-- The walk of R434 from an element, with the edges found so far. -/
def pathWalk (t : Task) (id : BitVec 16) : Nat → Nat → List Nat → List Word → List Word
  | 0, _, _, acc => acc
  | n + 1, e, seen, acc =>
    match t.run.deps.find? fun d => d.id == id && d.elem == e with
    | none => acc
    | some d =>
      if seen.contains e then acc
      else
        let acc1 := acc ++ pathEdge (elemName t e) d.lastIn d.wait 0
        let w := eFields (t.run.act.wordOf e)
        match d.lastIn.toNat with
        | 5 => acc1 ++ pathEdge 0 5 0 (w.md.toNat % 64)
        | 6 => match t.run.act.convs.find? fun c => c.2 == e with
          | some c => pathWalk t id n c.1 (e :: seen) acc1
          | none => acc1
        | 7 => acc1
        | 8 => match findIdx (fun b => b) [w.dirs.getLsbD 0, w.dirs.getLsbD 1, w.dirs.getLsbD 2, w.dirs.getLsbD 3] with
          | some dir => match neighbour t.lanes e dir with
            | some x => pathWalk t id n x (e :: seen) acc1
            | none => acc1
          | none => acc1
        | k => if 1 ≤ k && k ≤ 4 then
            match neighbour t.lanes e (k - 1) with
            | some x => pathWalk t id n x (e :: seen) acc1
            | none => acc1
          else acc1

/-- The first MARK token of an identity reaches output port `p` from element `e`: its PATH record (R429, R434), and the
identity's deposits are cleared. -/
def State.pathRecord (s : State) (e : Nat) (num : BitVec 12) (id : BitVec 16) : State :=
  if s.me.run.ports.any fun x => x.path.contains id then s
  else
    let edges := pathWalk s.me id 30 e [] []
    let n := edges.length / 2
    let pad := List.replicate ((4 - edges.length % 4) % 4) (0 : Word)
    let s1 := s.traceOf s.me 0x08 (num.setWidth 64) (BitVec.ofNat 64 n) (edges ++ pad)
    s1.mapRun fun r => { r with deps := r.deps.filter fun d => d.id != id }

/-! ## Pages of re-latch tokens (R291) -/

/-- log2 of a page size code. -/
def pageLog (sz : BitVec 2) : Nat := if sz = 0 then 16 else if sz = 1 then 21 else 30

/-- A latched page lies in the page of a re-latch token. -/
def inPage (page : Word) (sz : BitVec 2) (l : Nat × Nat × Word) : Bool :=
  let n := max (pageLog sz) l.2.1
  (l.1 <<< l.2.1) >>> n == ((page.toNat % 2 ^ 41 * 2 ^ 16) ||| (if page.toNat / 2 ^ 40 % 2 = 1 then 2 ^ 64 - 2 ^ 57 else 0)) >>> n

/-! ## The ingress meter (R388 to R390) -/

/-- IGCTL and IGWT fields. -/
def igEn (v : Word) : Bool := bitAt v 0
def igRate (v : Word) : Nat := bitsAt v 16 16
def igDepth (v : Word) : Nat := bitsAt v 32 24
def igW (v : Word) (cls : BitVec 2) : Nat := bitsAt v (8 * cls.toNat) 8

/-- Tokens that a port's word costs, in 1/256 of a token. -/
def igCost (d : Die) (cls : BitVec 2) : Nat := 256 * min (igW d.igwt cls) (igDepth d.igctl)

/-- The words that a token is metered for (R390): none for MARK and RELATCH, which no stream engine injects; two for a tagged atom,
whose coordinate is a word of its own (R320). -/
def Tok.metered (t : Tok) (kind : Nat) : Nat :=
  match t with
  | .ctl (.mark _) _ => 0
  | .ctl (.relatch _ _) _ => 0
  | .data _ => if kind = 2 then 2 else 1
  | _ => 1

/-- The meter lets the head of a port pass without a turn: throttling is off, its class has weight 0, or it is not metered. -/
def Port.free (d : Die) (x : Port) : Bool := !igEn d.igctl || igW d.igwt x.cls == 0 || x.offer.head?.any fun y => y.2 == 0

/-- The port takes a word that the meter has passed: the token enters with its last word. -/
def Port.meterWord (p : Port) (deal : Bool) : Port :=
  match p.offer with
  | (t, n + 2) :: rest => { p with offer := (t, n + 1) :: rest }
  | _ => p.enter deal

/-- Let every port of a run whose words pass freely take a word. -/
def Run.enterFree (r : Run) (d : Die) : Run :=
  r.mapPorts fun p x => if x.canEnter && x.free d then x.enter (r.decl p).deal else x

end Sys2Proof.Machine
end

