-- ==== Sys2Proof/Machine/Engine.lean ====
section
/-!
DEFINITION. Sys2Proof/Machine/Engine.lean: how stream engines and address-generator elements reach memory (R90, R91, R107,
R120), the reducing operations of HOME tiles (R100, R275, R277), class S faults of commands and elements (R143 to R145,
R292, R334), and words at an input port (R62 to R65).
-/

namespace Sys2Proof.Machine

/-! ## Accesses -/

/-- The outcome of an engine access. -/
inductive EngRes (α : Type) where
  | ok (v : α) (s : State)
  | fault (s : State) (cause : BitVec 8) (va : Word)
  | wait

/-- How an engine finds the place of an address: through the TLBs, or through an element's latches. -/
abbrev Placer := State → Word → Kind → Place

/-- The placer of a stream engine; sluice windows only where `sluice` admits them (R271, R272). -/
def enginePlace (sluice : Bool) : Placer := fun s va kind =>
  if inSluice va && !sluice then .trap s tcPROT else place s va 1 kind

/-- The pieces of an access with their targets; a piece whose last byte fails fails as a whole. -/
def placeAll (pl : Placer) (kind : Kind) : List (Word × Nat) → State → EngRes (List (Word × Nat × Target))
  | [], s => .ok [] s
  | (va, n) :: rest, s =>
    match pl s va kind with
    | .trap s1 c => .fault s1 c va
    | .wait _ => .wait
    | .ok s1 t =>
      match pl s1 (va + BitVec.ofNat 64 (n - 1)) kind with
      | .trap s2 c => .fault s2 c va
      | .wait _ => .wait
      | .ok s2 _ =>
        match placeAll pl kind rest s2 with
        | .ok l s3 => .ok ((va, n, t) :: l) s3
        | r => r

/-- Some line of a piece has an uncorrectable error. -/
def State.badRange (s : State) (t : Target) (n : Nat) : Bool :=
  match t.key with
  | some k => s.ecc.any fun l => lineOf k ≤ l && l ≤ lineOf (k + n - 1)
  | none => false

/-- Read a placed piece: a NOISE page is generated under the given seed and step (R107); the reading leaves the context's
clock as it is. -/
def engLoad (s : State) (va : Word) (t : Target) (n : Nat) (seed : Word) (step : BitVec 32) : List Byte × State :=
  match t with
  | .noise d => (noiseBytes d seed step va n, s)
  | t =>
    let c := s.me.ctx.clock
    let (bs, s1) := loadTarget (s.accessEvent t n va false) va t n
    (bs, s1.mapCtx fun x => { x with clock := c })

/-- Read `n` bytes at an address for an engine. -/
def engRead (pl : Placer) (s : State) (va : Word) (n : Nat) (seed : Word) (step : BitVec 32) : EngRes (List Byte) :=
  match placeAll pl .engRead (rangePieces va n) s with
  | .fault s1 c v => .fault s1 c v
  | .wait => .wait
  | .ok ps s1 =>
    match ps.find? fun p => s1.badRange p.2.2 p.2.1 with
    | some p => .fault s1 tcECCUE p.1
    | none =>
      let (bs, s2) := ps.foldl (fun (acc : List Byte × State) p =>
        let (b, st) := engLoad acc.2 p.1 p.2.2 p.2.1 seed step
        (acc.1 ++ b, st)) ([], s1)
      .ok bs s2

/-- Write bytes at an address for an engine: the largest logical time of the stores (R120). -/
def engWrite (pl : Placer) (s : State) (va : Word) (bs : List Byte) : EngRes Nat :=
  match placeAll pl .engWrite (rangePieces va bs.length) s with
  | .fault s1 c v => .fault s1 c v
  | .wait => .wait
  | .ok ps s1 =>
    let (clk, s2, _) := ps.foldl (fun (acc : Nat × State × List Byte) p =>
      let (c, st) := storeTarget (acc.2.1.accessEvent p.2.2 p.2.1 p.1 true) p.1 p.2.2 (acc.2.2.take p.2.1) acc.2.1.me.ctx.clock
      (max acc.1 c, st, acc.2.2.drop p.2.1)) (0, s1, bs)
    .ok clk s2

/-! ## Ordinary loads by the dispatcher (R264, R252, R360) -/

/-- The outcome of a read by the dispatcher. -/
inductive BlockRead where
  | ok (bs : List Byte) (s : State)
  | fault (s : State) (cause : BitVec 8) (va : Word)
  | wait (w : WaitOn)
  | sever (va : Word)      -- the path to another package's object is lost (R160)

/-- The place of a range within a page, read as ordinary loads: that of its first byte, where its last byte passes the checks too. -/
def placeRange (s : State) (va : Word) (n : Nat) : Place :=
  match place s va 1 .load with
  | .ok s1 t => match place s1 (va + BitVec.ofNat 64 (n - 1)) 1 .load with
    | .ok s2 _ => .ok s2 t
    | r => r
  | r => r

/-- Read pieces as ordinary loads of the acting context; with `held`, held back by the range scoreboard (R96, R118). -/
def loadPieces (held : Bool) : List (Word × Nat) → State → List Byte → BlockRead
  | [], s, acc => .ok acc s
  | (va, n) :: rest, s, acc =>
    match placeRange s va n with
    | .trap s1 c => .fault s1 c va
    | .wait w => .wait w
    | .ok s1 t =>
      if held && s1.heldBack va n false then .wait (.scoreboard va n false)
      else if s1.severed t then .sever va
      else match seeCheck s1 t with
        | some (.error w) => .wait w
        | some (.ok c) => .fault s1 c va
        | none =>
          if s1.badRange t n then .fault s1 tcECCUE va
          else
            let (bs, s2) := loadTarget (s1.accessEvent t n va false) va t n
            loadPieces held rest s2 (acc ++ bs)

/-- Read `n` bytes as an ordinary load at the logical time of the issuing instruction. -/
def ordinaryRead (s : State) (va : Word) (n : Nat) : BlockRead := loadPieces true (rangePieces va n) s []

/-- Read `n` bytes as ordinary loads of a command in flight, whose ranges have kept conflicting commands from starting (R119); the
context's clock stays as it is. -/
def commandRead (s : State) (va : Word) (n : Nat) : BlockRead :=
  match loadPieces false (rangePieces va n) s [] with
  | .ok bs s1 => .ok bs (s1.mapCtx fun x => { x with clock := s.me.ctx.clock })
  | r => r

/-! ## Reducing operations (R100) -/

/-- One element of a reducing operation, as numbers of `w` bytes, and whether a class of XADD saturated. -/
def reduceElem (rop : Nat) (old new : Nat) : Nat × Bool :=
  match rop with
  | 0 => ((old + new) % 2 ^ 32, false)
  | 1 => ((old + new) % 2 ^ 64, false)
  | 2 => ((fp32.add (fp32.read old) (fp32.read new)).1, false)
  | 3 => (if (fp32.read old).isNan || (fp32.read new).isNan then fp32.nanBits else (fp32.minMax true old new).1, false)
  | 4 => (if (fp32.read old).isNan || (fp32.read new).isNan then fp32.nanBits else (fp32.minMax false old new).1, false)
  | _ =>
    let t := signed 64 old + signed 64 new
    let m : Int := 2 ^ 63 - 1
    if m < t then (m.toNat, true)
    else if t < -m then (2 ^ 64 - m.toNat, true)
    else ((t.emod (2 ^ 64)).toNat, false)

/-- Bytes of one element. -/
def ropWidth (rop : Nat) : Nat := if rop = 1 || rop = 5 then 8 else 4

/-- Combine a unit's bytes element by element. -/
def reduceBytes (rop : Nat) (old new : List Byte) : Nat → List Byte × Bool
  | 0 => ([], false)
  | n + 1 =>
    let w := ropWidth rop
    let (v, sat) := reduceElem rop (leNat (old.take w)) (leNat (new.take w))
    let (rest, sat') := reduceBytes rop (old.drop w) (new.drop w) n
    (leBytes w v ++ rest, sat || sat')

/-- The unit size an operation requires, in words (R275). -/
def ropUsz (rop : Nat) : Nat := if rop = 1 then 2 else if rop = 5 then 16 else 1
/-- The alignment an operation requires. -/
def ropAlign (rop : Nat) : Nat := if rop = 1 then 8 else if rop = 5 then 64 else 4

/-- The tile of a pond key. -/
def tileOfKey (k : Nat) : Nat := k % 2 ^ 60 / 2 ^ 20

/-- Combine one unit into a HOME tile (R275, R332): the tile, the time of the write and whether a class saturated. In
deterministic mode it is collected (R277). -/
def engReduce (pl : Placer) (s : State) (va : Word) (rop : Nat) (seq : BitVec 32) (bs : List Byte) : EngRes (Nat × Nat × Bool) :=
  match pl s va .engWrite with
  | .trap s1 c => .fault s1 c va
  | .wait _ => .wait
  | .ok s1 t =>
    match t with
    | .mem k slot =>
      if spaceOf k ≠ spPond then .fault s1 tcPROT va
      else if s1.me.eff.det then
        .ok (tileOfKey k, 0, false) ((s1.accessEvent t bs.length va true).mapMe fun x => { x with det := { x.det with
          reds := x.det.reds ++ [⟨k, va, BitVec.ofNat 4 rop, bs, seq⟩] } })
      else if s1.badRange t bs.length then .fault s1 tcECCUE va
      else
        let (old, s2) := (s1.accessEvent t bs.length va true).plainBytes k slot bs.length
        let (v, sat) := reduceBytes rop old bs (bs.length / ropWidth rop)
        let (c, s3) := s2.put k slot v s2.me.ctx.clock
        .ok (tileOfKey k, c, sat) s3
    | _ => .fault s1 tcPROT va

/-! ## Commands of the acting task -/

/-- The command in focus. -/
def Task.cmd? (t : Task) (q : BitVec 32) : Option Cmd := t.cmds.find? fun c => c.seq == q

/-- Change a command. -/
def Task.mapCmd (t : Task) (q : BitVec 32) (f : Cmd → Cmd) : Task :=
  { t with cmds := t.cmds.map fun c => if c.seq == q then f c else c }

/-- Change a command of the acting task. -/
def State.mapCmd (s : State) (q : BitVec 32) (f : Cmd → Cmd) : State := s.mapMe fun t => t.mapCmd q f

/-- OP and PORT of a command. -/
def Cmd.op (c : Cmd) : Nat := (cOp c.word).toNat
def Cmd.portNo (c : Cmd) : Nat := (cPort c.word).toNat

/-- What an engine stopped by a fault leaves a context to take (R143, R144); a task whose EXIT has retired stops at once. -/
def State.postStop (s : State) (p : Pending) : State :=
  if s.me.ctx.st == .free then
    let s1 := s.mapMe fun t => { t with stop := .driver, stopCause := p.cause }
    if p.cause == tcPGFLT then s1.mySource 5 0 else if p.cause == tcECCUE then s1.mySource 4 0 else s1
  else s.mapCtx fun c => c.post p

/-- The fault record of a command (R145, R292). -/
def State.cmdRecord (s : State) (c : Cmd) (cause : BitVec 8) (va : Word) (ctrs : List Nat) : State :=
  let t := s.me
  s.fault t.id.fn ⟨cause, 1, 0, 0, va, c.seq, 0, 0, c.portNo % 4, c.portNo, t.run.act.id, t.id.idx, t.ctxNo, t.id.blk, c.ipc, ctrs⟩

/-- A class S fault of a command (R144, R292): a fault record, the run and the task's commands stop, and the issuing
context takes the trap with ORIGIN 1. -/
def State.cmdFault (s : State) (c : Cmd) (cause : BitVec 8) (va : Word) (ctrs : List Nat) : State :=
  let s1 := s.cmdRecord c cause va ctrs
  let s2 := (s1.mapCmd c.seq fun x => { x with phase := .faulted, prior := x.phase, cause := cause }).mapRun fun r => { r with gated := true }
  s2.postStop ⟨cause, 1, c.seq, c.ipc, true, false⟩

/-- A class S fault of an address-generator element (R144, R334). -/
def State.elemFault (s : State) (e : Nat) (cause : BitVec 8) (va : Word) (ctrs : List Nat) : State :=
  let t := s.me
  let (node, loop) := match t.run.act.pattern? e with
    | none => (0, 0)
    | some p => (p.node, p.loop)
  let s1 := s.fault t.id.fn ⟨cause, 2, node, loop, va, 0, e / t.lanes, e % t.lanes, 0, 0, t.run.act.id, t.id.idx,
    t.ctxNo, t.id.blk, 0, ctrs⟩
  let s2 := s1.mapRun fun r => { r.mapElem e fun x => { x with stopped := true } with gated := true }
  s2.postStop ⟨cause, 2, 0, elemName t e, true, false⟩

/-! ## Words at an input port -/

/-- Present words at a port: the tokens in order, or BURSTBAD (R64). -/
def Port.present (kind : Nat) : List (BitVec 32) → Port → Word32
  | [], p => .ok p []
  | w :: ws, p =>
    match p.word kind w with
    | .bad => .bad
    | .ok p1 ts =>
      match Port.present kind ws p1 with
      | .bad => .bad
      | .ok p2 us => .ok p2 (ts ++ us)

/-- Offer a unit's bytes at an input port of the acting run; none for a malformed burst. -/
def State.offer (s : State) (p : Nat) (bs : List Byte) : Option State :=
  match Port.present (s.me.run.decl p).kind.toNat (words32 bs) (s.me.run.port p) with
  | .bad => none
  | .ok x ts => some (s.mapRun fun r => (r.mapPort p fun _ =>
      { x with offer := x.offer ++ ts.map fun t => (t, t.metered (s.me.run.decl p).kind.toNat) }).enterFree
      (s.die (dieOf s.me.mill)))

/-- A re-latch token enters with the next identity: at its port, or at an element that no stream feeds, which re-latches at once and
sends the token on by the directions given (R293, R403); one that a fault has stopped re-latches at RESUME. -/
def Run.enterRelatch (now : Nat) (r : Run) (x : Nat × Ctl × BitVec 4) : Run :=
  let id := r.ident + 1
  let r1 : Run := { r with ident := id }
  if x.1 < 64 then r1.mapPort x.1 fun y => { y with offer := y.offer ++ [(.ctl x.2.1 id, 0)] }
  else r1.mapElem (x.1 - 64) fun y =>
    if y.stopped then { y with latches := [] }
    else ({ y with
      latches := y.latches.filter fun l => match x.2.1 with
        | .relatch page sz => !inPage page sz l
        | _ => true
      emit := if x.2.2 = 0 then y.emit else y.emit ++ [⟨.ctl x.2.1 id, x.2.2, false, false⟩] } : Elem).refill now

/-- The oldest request for a page that waits for an element hears that the token has come to it. -/
def tokenCame (page : Word) (sz : BitVec 2) (t : TaskId) (e : Nat) : List Unmap → List Unmap
  | [] => []
  | u :: us =>
    if u.page == page && u.sz == sz && u.runs.any (fun x => x.1 == t && x.2.contains (e, false)) then
      { u with runs := u.runs.map fun x => if x.1 == t then (x.1, x.2.map fun y => if y.1 == e then (e, true) else y) else x } :: us
    else u :: tokenCame page sz t e us

/-- A re-latch token has come to an element of the acting run (R132). -/
def State.tokenCame (s : State) (e : Nat) (c : Ctl) : State :=
  match c with
  | .relatch page sz =>
    let f := s.fn s.me.id.fn
    if f.unmaps.isEmpty then s
    else s.setFn s.me.id.fn { f with unmaps := Machine.tokenCame page sz s.me.id e f.unmaps }
  | _ => s

/-- The re-latch tokens of the cycle below a place enter, ahead of the token that is injected there: tokens of one cycle are numbered
in port order and then in element order (R293). -/
def State.flushRelatch (s : State) (k : Nat) : State :=
  if s.me.run.relq.isEmpty then s
  else
    let due := s.me.run.relq.filter fun x => x.1 < k
    let s1 := (due.filter fun x => 64 ≤ x.1).foldl (fun (st : State) x => st.tokenCame (x.1 - 64) x.2.1) s
    s1.mapRun fun r =>
      (due.foldl (Run.enterRelatch s.time) { r with relq := r.relq.filter fun x => k ≤ x.1 }).enterFree (s.die (dieOf s.me.mill))

/-- Offer a control token at an input port with the next identity of the run (R293). -/
def State.offerCtl (s : State) (p : Nat) (c : Ctl) : State :=
  let s := s.flushRelatch (p + 1)
  let id := s.me.run.ident + 1
  s.mapRun fun r => (({ r with ident := id } : Run).mapPort p fun x => { x with offer := x.offer ++ [(.ctl c id, 1)] }).enterFree
    (s.die (dieOf s.me.mill))

end Sys2Proof.Machine
end

