-- ==== Sys2Proof/Machine/Firing.lean ====
section
/-!
DEFINITION. Sys2Proof/Machine/Firing.lean: what a firing of a compute element is made of (R293 to R298, R303, R309, R310,
R317, R320, R321): heads and atoms of operands, control tokens and their flushing, bursts being formed, staging; and how
a firing is placed in the output slots (R295), latched (R432) and counted (R435).
-/

namespace Sys2Proof.Machine

/-- What a firing knows beside its element. -/
structure FEnv where
  w     : ElemFields
  long  : Bool            -- WIDTH of the kernel header (R87)
  k     : Nat             -- KNET
  anc   : Int             -- the anchor that governs the run (R304)
  fmt   : Nat             -- drain format of the chain (R306)
  up    : Nat             -- cells upstream in the chain (R306)
  ident : BitVec 16       -- identity counter of the run
deriving DecidableEq, Repr

/-- A firing: the element after it, the tokens it emits in order, ATOMFLAGS bits, counter events, the identity counter, and
the data and header tokens it consumed, by source code and time of arrival. -/
structure Fired where
  e     : Elem
  out   : List OutTok
  flags : Nat
  evs   : List (Nat × Nat)
  ident : BitVec 16
  used  : List (Nat × Nat)
deriving DecidableEq, Repr

/-- A firing that only changes the element. -/
def fired (v : FEnv) (e : Elem) : Fired := ⟨e, [], 0, [], v.ident, []⟩

/-- PARAM. -/
def FEnv.param (v : FEnv) : Nat := v.w.param.toNat
/-- A field of PARAM. -/
def FEnv.bits (v : FEnv) (lo len : Nat) : Nat := v.param / 2 ^ lo % 2 ^ len

/-- A token on the element's output: in its directions, or over the quad bus where DIRS is 0 (R316). -/
def FEnv.outTok (v : FEnv) (t : Tok) : OutTok := ⟨t, v.w.dirs, v.w.dirs == 0, (opdOf v.w 7).isSome⟩

/-- A token in one direction. -/
def dirTok (d : Nat) (t : Tok) : OutTok := ⟨t, BitVec.ofNat 4 (2 ^ d), false, false⟩

/-! ## Heads -/

/-- The token at the head of an operand, unless it only observes (R298). -/
def Elem.head (e : Elem) (o : Opd) : Option InTok :=
  match e.slot o with
  | [] => none
  | t :: _ => if t.tok.observes then none else some t

/-- Drop the head of an operand. -/
def Elem.drop (e : Elem) (o : Opd) : Elem := e.setSlot o ((e.slot o).drop 1)

/-- Drop the head of an operand as a firing consumes it. -/
def Fired.consume (f : Fired) (v : FEnv) (o : Opd) : Fired :=
  match f.e.slot o with
  | [] => f
  | t :: _ =>
    { f with e := f.e.drop o, used := if t.tok.carries then f.used ++ [(srcCode v.w o, t.time)] else f.used }

/-- Emit tokens. -/
def Fired.emit (f : Fired) (ts : List OutTok) : Fired := { f with out := f.out ++ ts }

/-- Latch a header at an operand (R63, R303). -/
def Elem.latch (e : Elem) (o : Opd) (h : BitVec 32) (n : Nat) : Elem :=
  e.setInp o { e.inp o with hdr := h, due := n, half := false, idx := 0 }

/-- The next unconsumed atom of an operand: the atom, its coordinate on a tagged stream, and whether taking it finishes
the head token (R62, R303, R320). -/
def Elem.atom? (e : Elem) (o : Opd) : Option (Nat × Nat × Bool) :=
  let i := e.inp o
  if i.due = 0 then none
  else match e.head o with
    | some ⟨.data v, _⟩ =>
      if hdrLong i.hdr then some (v.toNat % 2 ^ 32, v.toNat / 2 ^ 32, true)
      else if i.half then some (v.toNat / 2 ^ 16 % 2 ^ 16, 0, true)
      else some (v.toNat % 2 ^ 16, 0, i.due == 1)
    | some ⟨.lone v, _⟩ => some (v.toNat % 2 ^ 16, 0, true)
    | _ => none

/-- Take the next atom of an operand. -/
def Fired.takeAtom (f : Fired) (v : FEnv) (o : Opd) (fin : Bool) : Fired :=
  let i := f.e.inp o
  let f1 := { f with e := f.e.setInp o { i with due := i.due - 1, half := if fin then false else true, idx := 0 } }
  if fin then f1.consume v o else f1

/-! ## Control tokens (R297) -/

/-- Note an identity as forwarded; false when it is among the last eight. -/
def Elem.forwards (e : Elem) (id : BitVec 16) : Bool := !e.ids.contains id
def Elem.noteId (e : Elem) (id : BitVec 16) : Elem := { e with ids := (id :: e.ids).take 8 }

/-- Forward a control token once, by the output tokens `mk` makes of it. -/
def Fired.forward (f : Fired) (t : Tok) (mk : Tok → List OutTok) : Fired :=
  match t with
  | .ctl _ id => if f.e.forwards id then { f with e := f.e.noteId id, out := f.out ++ mk t } else f
  | _ => f

/-- The firing that takes a control token at the head of an operand, with what the element flushes before it. -/
def takeCtl (v : FEnv) (o : Opd) (t : Tok) (f : Fired) : Fired := (f.consume v o).forward t fun x => [v.outTok x]

/-! ## Bursts that an element forms (R309, R310) -/

/-- Width and K of the element's output: OVR gives long atoms with K 16 (R87). -/
def outLong (v : FEnv) (ovr : Bool) : Bool := ovr || v.long
def outK (v : FEnv) (ovr : Bool) : Nat := if ovr then 16 else v.k

/-- The tokens of a burst. -/
def burstToks (v : FEnv) (long : Bool) (h : BitVec 32) (atoms : List Nat) : List OutTok :=
  v.outTok (.hdr h atoms.length) :: (packAtoms long atoms).map fun x => v.outTok (.data (x.setWidth 64))

/-- Emit the collected results as one burst. -/
def Fired.burst (f : Fired) (v : FEnv) (ovr last : Bool) : Fired :=
  let long := outLong v ovr
  let k := outK v ovr
  let (s, atoms, fl) := burstWrite long k f.e.pats
  { f with
    e := { f.e with pats := [], bursts := if last then 0 else f.e.bursts + 1 }
    out := f.out ++ burstToks v long (mkHdr s atoms.length last long k) atoms
    flags := f.flags ||| fl }

/-- Collect one result; BL of them make a burst, and LAST stands on every BPT-th. -/
def Fired.collect (f : Fired) (v : FEnv) (ovr : Bool) (bl bpt : Nat) (r : Enc) : Fired :=
  let e := { f.e with pats := f.e.pats ++ [r] }
  let f1 := { f with e := e }
  if bl ≤ e.pats.length then f1.burst v ovr (bpt ≠ 0 && bpt ≤ e.bursts + 1) else f1

/-- The values of a group of eight FP32 words, filled with +0.0, as one result. -/
def encodeStage (v : FEnv) (ovr : Bool) (st : List Word) : Enc :=
  encodeAtom (((st.map fun (x : Word) => x.toNat % 2 ^ 32) ++ List.replicate 8 0).take 8) (outK v ovr) (outLong v ovr)

/-- Flush partial work before a control token (R310). A partial atom whose completion makes the BL-th result leaves in a flushed burst too,
with LAST 1: the rule does not say that it is a full one (DESIGN CHOICE, log 129). -/
def Fired.flushBurst (f : Fired) (v : FEnv) (ovr : Bool) : Fired :=
  let f1 := if f.e.stage.isEmpty then f
    else { f with e := { f.e with pats := f.e.pats ++ [encodeStage v ovr f.e.stage], stage := [] } }
  if f1.e.pats.isEmpty then f1 else f1.burst v ovr true

/-- Add one FP32 result to an output of atoms. -/
def Fired.collectVal (f : Fired) (v : FEnv) (ovr : Bool) (bl bpt : Nat) (x : Nat) : Fired :=
  let st := f.e.stage ++ [BitVec.ofNat 64 x]
  if st.length < 8 then { f with e := { f.e with stage := st } }
  else ({ f with e := { f.e with stage := [] } } : Fired).collect v ovr bl bpt (encodeStage v ovr st)

/-! ## Staging of sparse output (R321) -/

/-- The tokens of a staged burst: tagged tokens, or atoms alone. -/
def stageToks (mk : Tok → OutTok) (h : BitVec 32) (st : List Word) (last tagged : Bool) : List OutTok :=
  if st.isEmpty then []
  else
    let h1 := mkHdr (hdrS h) st.length last (hdrLong h) (hdrK h)
    if tagged then mk (.hdr h1 st.length) :: st.map fun x => mk (.data x)
    else mk (.hdr h1 st.length) :: (packAtoms (hdrLong h) (st.map fun (x : Word) => x.toNat % 2 ^ 32)).map
      fun x => mk (.data (x.setWidth 64))

/-- The headers agree in S, W and K. -/
def sameBlock (h1 h2 : BitVec 32) : Bool := hdrS h1 == hdrS h2 && hdrLong h1 == hdrLong h2 && hdrK h1 == hdrK h2

/-- Emit what is staged on the one output. -/
def Fired.flushStage (f : Fired) (v : FEnv) (last tagged : Bool) : Fired :=
  { f with out := f.out ++ stageToks v.outTok f.e.stageHdr f.e.stage last tagged, e := { f.e with stage := [] } }

/-- Stage one atom under its header; `last`: with it an input tile ends. -/
def Fired.stageOne (f : Fired) (v : FEnv) (h : BitVec 32) (x : Word) (last tagged : Bool) : Fired :=
  let f1 := if f.e.stage.isEmpty || sameBlock h f.e.stageHdr then f else f.flushStage v false tagged
  let f2 := { f1 with e := { f1.e with stage := f1.e.stage ++ [x], stageHdr := h } }
  if f2.e.stage.length < 16 then f2 else f2.flushStage v last tagged

/-! ## FP32 operands (R317) -/

/-- The next FP32 value of an operand, whether it takes the head token or atom with it, and the flags of decoding. -/
def Elem.value? (e : Elem) (o : Opd) (atoms : Bool) : Option (Nat × Nat) :=
  if atoms then
    match e.atom? o with
    | some (a, _, _) =>
      let d := atomRead (e.inp o).hdr a
      some ((atomDecode d).getD (e.inp o).idx 0, if (e.inp o).idx = 0 && d.bad then 1 else 0)
    | none => none
  else match e.head o with
    | some ⟨.data v, _⟩ => some (v.toNat % 2 ^ 32, 0)
    | some ⟨.lone v, _⟩ => some (v.toNat % 2 ^ 32, 0)
    | _ => none

/-- Take that value. -/
def Fired.takeValue (f : Fired) (v : FEnv) (o : Opd) (atoms : Bool) : Fired :=
  if !atoms then f.consume v o
  else
    let i := f.e.inp o
    if i.idx < 7 then { f with e := f.e.setInp o { i with idx := i.idx + 1 } }
    else match f.e.atom? o with
      | some (_, _, fin) => f.takeAtom v o fin
      | none => f

/-! ## Placing a firing (R295) -/

/-- Self tokens go to the element's own operand at once where it has room. -/
def Elem.ownSlots (w : ElemFields) (e : Elem) : Nat :=
  match opdOf w 7 with
  | some o => 2 - (e.slot o).length
  | none => 2

/-- The firing has room: nothing waits to be emitted, and its tokens fit the free slots, or the slots are all free and
what does not fit is emitted as slots fall free. -/
def Fired.fits (f : Fired) (before : Elem) : Bool :=
  f.out.isEmpty || (before.emit.isEmpty && (before.out.length + f.out.length ≤ 2 || (2 < f.out.length && before.out.isEmpty)))

/-- Place the tokens of a firing. -/
def Fired.placed (f : Fired) : Elem :=
  let n := 2 - f.e.out.length
  { f.e with out := f.e.out ++ f.out.take n, emit := f.e.emit ++ f.out.drop n }

/-- The last-arrival latch (R432): the operand whose token arrived last, ties to the first, or 0x8 where room came later. -/
def Elem.latchLast (e : Elem) (used : List (Nat × Nat)) (roomAt now : Nat) : Elem :=
  match used with
  | [] => e
  | u :: us =>
    let last := us.foldl (fun m x => if m.2 < x.2 then x else m) u
    let first := us.foldl (fun m x => min m x.2) u.2
    { e with
      lastIn := if last.2 < roomAt then 8 else BitVec.ofNat 4 last.1
      lastWait := BitVec.ofNat 32 (min (now - first) (2 ^ 32 - 1)) }

/-- A matching armed node stop (R424). -/
def stopMatches (f : Fn) (p : Pattern) : Bool :=
  f.nstop.toList.any fun v => bitAt v 49 && bitsAt v 0 16 == p.node.toNat && (bitAt v 48 || bitsAt v 16 32 == p.loop.toNat)

/-- The acting task's run stops at a firing boundary for the debugger (R424, R426): gated, its engines with it; the
context takes TRIGSTOP, and of a draining task, whose context takes no trap, the registers say so at once. A class S fault that is to
be taken stands in its place; the STOP record is written all the same (R424, R443). -/
def State.stopRun (s : State) (origin : BitVec 2) (info : Word) : State :=
  let t : Trap := ⟨tcTRIGSTOP, origin, true, 0, info, s.me.ctx.pc⟩
  let s1 := s.mapRun fun r => { r with gated := true }
  let named (st : State) : State := st.trace 0x04 (if origin = 2 then info else 0) t.word
  if s1.me.ctx.pend.any fun p => p.cause == tcTRIGSTOP && !p.late then s1
  else if s1.me.stop == .driver || s1.me.ctx.pend.any fun p => p.sev then named s1
  else if s1.me.ctx.st == .free then
    named (s1.mapMe fun x => { x with
      stop := .debugger, stopCause := tcTRIGSTOP
      ctx := { x.ctx with trapPc := t.pc, trapCause := t.word, trapInfo := info } })
  else s1.mapCtx fun c => c.post ⟨tcTRIGSTOP, origin, 0, info, false, false⟩

/-- The node stops that firings of the acting task's run matched in the cycle take effect (R424): one stop, which names the lowest
element (R443). -/
def State.nodeStop (s : State) : State :=
  match s.me.run.stopAt with
  | none => s
  | some e => (s.mapRun fun r => { r with stopAt := none }).stopRun 2 (elemName s.me e)

/-- The lower of an element that matched a node stop earlier in the cycle and one that matches now. -/
def lowerElem (a : Option Nat) (e : Nat) : Option Nat :=
  match a with
  | some x => some (min x e)
  | none => some e

/-- Operations carried over the quad bus to a bolter node (R185, R316). -/
def isBolter (op : Nat) : Bool :=
  op == 0x08 || op == 0x09 || op == 0x0A || op == 0x0D || (0x10 ≤ op && op ≤ 0x1B) || (0x20 ≤ op && op ≤ 0x2D)

/-- What an element knows at a firing. -/
def State.fenv (s : State) (fmt up : Nat) : FEnv where
  w := s.cur.w
  long := s.me.long
  k := s.me.knet.toNat
  anc := match s.me.run.anc with
    | x :: _ => x.2.1
    | [] => s.me.run.act.anchor
  fmt := match s.me.run.anc with
    | x :: _ => x.2.2.toNat
    | [] => fmt
  up := up
  ident := s.me.run.ident

/-- A firing needs the quad bus (R295): that of a bolter-site operation does, ENC's only where it encodes an atom (R311). -/
def needsBus (op : Nat) (before after : Elem) : Bool :=
  isBolter op && (op != 0x08 || (!before.stage.isEmpty && after.stage.isEmpty))

/-- A firing of the element in focus takes place (R295, R424, R432, R435): a node stop that it matches takes effect as the cycle
ends. -/
def State.fire (s : State) (op : Nat) (f : Fired) : State :=
  let e := s.cur.elem
  let before := s.me.run.elem e
  let x := (f.placed).latchLast f.used before.roomAt s.time
  let s1 := s.mapRun fun r => { r.mapElem e fun _ => x with ident := f.ident }
  let s2 := (if isBolter op then s1.count 0x012 1 else s1).count 0x010 1
  let s3 := f.evs.foldl (fun (st : State) v => st.count v.1 v.2) s2
  let s4 := if f.flags = 0 then s3 else s3.atomFlags f.flags (elemName s3.me e)
  match s4.me.run.act.pattern? e with
  | none => s4
  | some p =>
    if stopMatches (s4.fn s4.me.id.fn) p && s4.me.ctx.attached then
      (s4.mySource 2 0).mapRun fun r => { r with stopAt := lowerElem r.stopAt e }
    else s4

/-- The element in focus fires where its operation can: not while the run is gated, while tokens of its last firing still
wait, without room, or without the quad bus where it needs it (R295). -/
def fireWith (op : Nat) (s : State) (fmt up : Nat) (k : FEnv → Elem → Option Fired) : Res :=
  let e := s.me.run.elem s.cur.elem
  if s.me.run.gated then .next s
  else match k (s.fenv fmt up) e with
    | none => .next s
    | some f =>
      if f.fits e && (!needsBus op e f.e || s.me.run.grant.contains s.cur.elem) then .next (s.fire op f) else .next s

end Sys2Proof.Machine
end

