-- ==== Sys2Proof/Machine/ConfigImage.lean ====
section
/-!
DEFINITION. Sys2Proof/Machine/ConfigImage.lean: configuration images: their sections (R353 to R359, R325), every check of
R361, the stream kinds of R296, the drain chains of R306 and R308, and reading an image into a plane (R158, R360).
-/

namespace Sys2Proof.Machine

/-! ## Sections -/

/-- Run sizes (R26). -/
def runSize (n : Nat) : Bool := n == 1 || n == 2 || n == 4 || n == 8 || n == 16

/-- The counts and offsets of an image header. -/
structure ImgHdr where
  npat  : Nat
  nrect : Nat
  nloop : Nat
  nconv : Nat
  len   : Nat
  pat   : Nat
  rect  : Nat
  port  : Nat
  conv  : Nat
  loop  : Nat
  node  : Nat
deriving DecidableEq, Repr

/-- Read the counts and offsets (R353). -/
def imgHdr (bs : List Byte) : ImgHdr where
  npat := bitsAt (dword bs 8) 32 16
  nrect := bitsAt (dword bs 8) 48 16
  nloop := bitsAt (dword bs 16) 0 16
  nconv := bitsAt (dword bs 16) 16 16
  len := bitsAt (dword bs 16) 32 32
  pat := bitsAt (dword bs 0x20) 0 32
  rect := bitsAt (dword bs 0x20) 32 32
  port := bitsAt (dword bs 0x28) 0 32
  conv := bitsAt (dword bs 0x28) 32 32
  loop := bitsAt (dword bs 0x30) 0 32
  node := bitsAt (dword bs 0x30) 32 32

/-- LENGTH lies in its range. -/
def imgLenOk (bs : List Byte) : Bool :=
  let n := (imgHdr bs).len
  n % 64 == 0 && 64 ≤ n && n ≤ 1048576

/-- A section of `n` bytes: at a multiple of 64 behind the header and within LENGTH; with no bytes, at offset 0. -/
def sectionOk (len off n : Nat) : Bool := if n = 0 then off == 0 else off % 64 == 0 && 64 ≤ off && off + n ≤ len

/-- The header's own checks, and that it fits the task's run and kernel (R353, R361). -/
def imgHdrOk (t : Task) (bs : List Byte) : Bool :=
  let h := imgHdr bs
  let w1 := dword bs 8
  let w3 := dword bs 0x18
  dword bs 0 != 0 && imgLenOk bs && bitsAt w1 5 11 == 0 && bitsAt w1 27 5 == 0 && bitsAt w3 5 3 == 0 && bitsAt w3 9 55 == 0 &&
  dword bs 0x38 == 0 && bitsAt w1 0 5 == t.size && bitsAt w3 0 5 == t.knet.toNat && bitAt w3 8 == t.long &&
  1 ≤ h.npat && 1 ≤ h.nrect && h.nloop ≤ 256 && h.nconv ≤ 1024 &&
  sectionOk h.len h.pat (16 * h.npat) && sectionOk h.len h.rect (4 * h.nrect) && sectionOk h.len h.port 256 &&
  sectionOk h.len h.conv (8 * h.nconv) && sectionOk h.len h.loop (64 * h.nloop) && sectionOk h.len h.node (8 * h.npat)

/-- Bytes of a section. -/
def sectionOf (bs : List Byte) (off n : Nat) : List Byte := (bs.drop off).take n

/-- Cut bytes into records of `n` bytes, `k` of them. -/
def records (n : Nat) : Nat → List Byte → List (List Byte)
  | 0, _ => []
  | k + 1, bs => bs.take n :: records n k (bs.drop n)

/-! ## Patterns and rectangles (R354, R355, R359) -/

/-- A rectangle: lanes and rows, both ends included. -/
structure Rect where
  la : Nat
  ra : Nat
  lb : Nat
  rb : Nat
deriving DecidableEq, Repr

/-- Read a rectangle. -/
def rectOf (v : BitVec 32) : Rect := ⟨v.toNat % 256, v.toNat / 2 ^ 8 % 256, v.toNat / 2 ^ 16 % 256, v.toNat / 2 ^ 24⟩

/-- A rectangle of a run. -/
def Rect.ok (r : Rect) (nl : Nat) : Bool := r.ra ≤ r.rb && r.la ≤ r.lb && r.rb < 8 && r.lb < nl
/-- An element lies in a rectangle. -/
def Rect.covers (r : Rect) (nl e : Nat) : Bool := r.ra ≤ e / nl && e / nl ≤ r.rb && r.la ≤ e % nl && e % nl ≤ r.lb

/-- A pattern's table entry: its word, node entry, first rectangle and count. -/
structure PatEntry where
  word  : Word
  node  : Word
  first : Nat
  count : Nat
  high  : Nat
deriving DecidableEq, Repr

/-- The pattern table with the node table. -/
def patEntries (h : ImgHdr) (bs : List Byte) : List PatEntry :=
  ((records 16 h.npat (sectionOf bs h.pat (16 * h.npat))).zip (records 8 h.npat (sectionOf bs h.node (8 * h.npat)))).map
    fun x => ⟨dword x.1 0, dword x.2 0, bitsAt (dword x.1 8) 0 32, bitsAt (dword x.1 8) 32 16, bitsAt (dword x.1 8) 48 16⟩

/-- The word passes R186, R296 to R300 and its entry; NONE has every field zero (R339). -/
def wordOk (w : Word) : Bool :=
  if eOp w = 0 then w == 0
  else match decodeElement w with
    | .ok _ => true
    | .error _ => false

/-- A pattern's own checks. -/
def PatEntry.ok (p : PatEntry) (nrect : Nat) : Bool :=
  wordOk p.word && p.high == 0 && bitsAt p.node 48 16 == 0 && 1 ≤ p.count && p.first + p.count ≤ nrect

/-- The patterns, by number, that cover an element. -/
def coveredBy (ps : List PatEntry) (rs : List Rect) (nl e : Nat) : List Nat :=
  ((List.range ps.length).zip ps).filterMap fun x =>
    if ((rs.drop x.2.first).take x.2.count).any fun r => r.covers nl e then some x.1 else none

/-- The cells of a plane: none where an element is covered by two patterns. -/
def cellsOf (ps : List PatEntry) (rs : List Rect) (nl : Nat) : Option (List Nat) :=
  (List.range (8 * nl)).foldr (fun e acc => match acc with
    | none => none
    | some l => match coveredBy ps rs nl e with
      | [] => some (0 :: l)
      | [i] => some ((if ((ps[i]?).map (·.word)).getD 0 = 0 then 0 else i + 1) :: l)
      | _ => none) (some [])

/-- No rectangle of the list serves two patterns. -/
def rectsDisjoint (ps : List PatEntry) : Bool :=
  match ps with
  | [] => true
  | p :: rest => rest.all (fun q => p.first + p.count ≤ q.first || q.first + q.count ≤ p.first) && rectsDisjoint rest

/-! ## Ports and converter paths (R356 to R358) -/

/-- Read a port declaration. -/
def portDecl (v : BitVec 32) : PortDecl :=
  ⟨v.getLsbD 0, v.getLsbD 1, v.extractLsb' 2 2, v.extractLsb' 4 2, v.getLsbD 6, v.toNat / 2 ^ 8 % 256⟩

/-- A port declaration's own checks. -/
def portOk (t : Task) (p : Nat) (v : BitVec 32) : Bool :=
  let d := portDecl v
  if !d.present then v == 0
  else
    p < 4 * t.size && v.getLsbD 7 == false && v.toNat / 2 ^ 16 == 0 && d.kind != 3 &&
    (d.out || (d.edge == 0 && d.pos == 0)) && (!d.deal || (d.pos == 0 && d.edge == 0 && d.kind == 1)) &&
    (!d.out || d.deal || d.pos < (if d.edge.toNat % 2 = 0 then 8 else t.lanes))

/-- The crossings at which an output port attaches. -/
def PortDecl.crossings (d : PortDecl) : List (Nat × Nat) :=
  if !d.present || !d.out then [] else if d.deal then (List.range 8).map fun r => (0, r) else [(d.edge.toNat, d.pos)]

/-- No two output ports attach at one crossing, and at most one dealt port has each direction. -/
def portsAgree (ds : List PortDecl) : Bool :=
  let xs := ds.flatMap PortDecl.crossings
  xs.eraseDups.length == xs.length &&
  (ds.filter fun d => d.present && d.deal && d.out).length ≤ 1 && (ds.filter fun d => d.present && d.deal && !d.out).length ≤ 1

/-- Follow a chain of converter paths back to an element: a loop. -/
def convLoops (cs : List (Nat × Nat)) (start : Nat) : Nat → Nat → Bool
  | 0, _ => true
  | n + 1, e =>
    match cs.find? fun c => c.1 == e with
    | none => false
    | some c => c.2 == start || convLoops cs start n c.2

/-- How many source fields name a source. -/
def namesSrc (w : Word) (k : Nat) : Nat :=
  let f := eFields w
  bool1 (f.ina.toNat == k) + bool1 (f.inb.toNat == k) + bool1 (f.inc.toNat == k)

/-- The converter paths and the words of their ends agree (R316, R358). -/
def convOk (p : Plane) (nl : Nat) : Bool :=
  p.convs.all (fun c =>
    c.1 < 8 * nl && c.2 < 8 * nl && c.1 != c.2 && isBolter (eOp (p.wordOf c.1)).toNat && (eFields (p.wordOf c.1)).dirs == 0 &&
    namesSrc (p.wordOf c.2) 6 == 1 && c.1 % nl / 32 == c.2 % nl / 32 &&
    (p.convs.filter fun x => x.1 == c.1).length == 1 && (p.convs.filter fun x => x.2 == c.2).length == 1 &&
    !convLoops p.convs c.1 (p.convs.length + 1) c.1) &&
  (List.range (8 * nl)).all fun e =>
    let w := p.wordOf e
    (namesSrc w 6 == 0 || p.convs.any fun c => c.2 == e) &&
    (!(isBolter (eOp w).toNat && (eFields w).dirs == 0) || p.convs.any fun c => c.1 == e)

/-! ## Loop table (R325, R326) -/

/-- Read a loop-table entry. -/
def loopEntry (bs : List Byte) : LoopEntry :=
  let w := dword bs 0
  let n := bitsAt w 0 3
  { levels := n, usz := bitsAt w 8 5, esz := bitsAt w 16 4, passes := bitsAt w 32 32, offset := (dword bs 8).toInt
    counts := (List.range n).map fun j => (word4 bs (0x10 + 8 * j)).toNat
    strides := (List.range n).map fun j => (word4 bs (0x14 + 8 * j)).toInt
    lim := bitsAt (dword bs 0x38) 0 24 }

/-- A loop-table entry's own checks. -/
def loopOk (bs : List Byte) : Bool :=
  let w := dword bs 0
  let x := loopEntry bs
  1 ≤ x.levels && x.levels ≤ 5 && bitsAt w 3 5 == 0 && 1 ≤ x.usz && x.usz ≤ 16 && bitsAt w 13 3 == 0 && bitsAt w 20 12 == 0 &&
  (x.esz == 0 || (2 ≤ x.esz && x.esz ≤ 6)) && x.counts.all (1 ≤ ·) && bitsAt (dword bs 0x38) 24 40 == 0 &&
  (List.range 5).all fun j => j < x.levels || dword bs (0x10 + 8 * j) == 0

/-- ENTRY of an address-generator word. -/
def agEntry (w : ElemFields) : Nat := w.param.toNat % 256
/-- ROP of an address-generator word. -/
def agRop (w : ElemFields) : Nat := w.param.toNat / 2 ^ 10 % 16
/-- An address generator (R185). -/
def isAg (op : Nat) : Bool := 0x38 ≤ op && op ≤ 0x3C

/-- An address generator and its entry agree: ENTRY within the table, ESZ and LIM for AGGATH alone, and the unit size of
AGRED's operation (R325, R326, R332). -/
def agOk (p : Plane) (w : Word) : Bool :=
  let op := (eOp w).toNat
  if !isAg op then true
  else match p.loops[agEntry (eFields w)]? with
    | none => false
    | some x =>
      (if op = 0x3C then 2 ≤ x.esz && 1 ≤ x.lim else x.esz == 0 && x.lim == 0) &&
      (op != 0x3B || x.usz == ropUsz (agRop (eFields w)))

/-- An entry that no AGGATH names has ESZ and LIM zero. -/
def loopsOk (p : Plane) : Bool :=
  ((List.range p.loops.length).zip p.loops).all fun x =>
    (x.2.esz == 0 && x.2.lim == 0) || p.pats.any fun q => eOp q.word == 0x3C && agEntry (eFields q.word) == x.1

/-! ## Links (R296) -/

/-- The output directions of a word. -/
def outDirs (w : Word) : List Nat :=
  let f := eFields w
  let op := (eOp w).toNat
  let d := (List.range 4).filter fun i => f.dirs.getLsbD i
  if isCell op then
    d ++ (if f.param.getLsbD 2 then [f.param.toNat % 4] else []) ++ (if f.param.getLsbD 5 then [f.param.toNat / 8 % 4] else [])
  else if op = 0x30 then d ++ [f.param.toNat % 4] else d

/-- Every output direction of an element is named by the neighbour, or leaves the run where a port attaches; every source
that names a neighbour is matched; a port source names an input port. -/
def linkOk (p : Plane) (nl e : Nat) : Bool :=
  let w := p.wordOf e
  let f := eFields w
  let ds := outDirs w
  let src (k : Nat) : Bool :=
    if 1 ≤ k && k ≤ 4 then
      match neighbour nl e (k - 1) with
      | none => false
      | some x => (outDirs (p.wordOf x)).contains (opposite (k - 1))
    else if k = 5 then
      match p.ports[f.md.toNat % 64]? with
      | some d => d.present && !d.out
      | none => false
    else true
  ds.eraseDups.length == ds.length &&
  ds.all (fun d => match neighbour nl e d with
    | some x => 1 ≤ namesSrc (p.wordOf x) (opposite d + 1)
    | none => (p.portAt nl e d).isSome) &&
  src f.ina.toNat && src f.inb.toNat && src f.inc.toNat

/-- The elements that an input port feeds. -/
def feeds (p : Plane) (nl q : Nat) : List Nat :=
  (List.range (8 * nl)).filter fun e =>
    1 ≤ namesSrc (p.wordOf e) 5 && (eFields (p.wordOf e)).md.toNat % 64 == q

/-- Ports and the elements at them agree (R356, R357). -/
def portFeeds (p : Plane) (nl : Nat) : Bool :=
  ((List.range p.ports.length).zip p.ports).all fun x =>
    if !x.2.present then true
    else if !x.2.out then
      if x.2.deal then feeds p nl x.1 == (List.range 8).map (· * nl) else (feeds p nl x.1).length == 1
    else if x.2.deal then (List.range 8).all fun r => (eFields (p.wordOf (r * nl))).dirs == 1
    else true

/-! ## Stream kinds -/

/-- Stream kinds (R296). -/
inductive SKind where
  | atom | word | tagged | drain | index
deriving DecidableEq, Repr

/-- What an operand requires: none where its entry requires nothing. -/
def needKind (w : Word) (o : Opd) : Option SKind :=
  let op := (eOp w).toNat
  let q := (eFields w).param
  if isCell op then (if o = .c then some .drain else some .atom)
  else if op = 4 || op = 9 || op = 0x0A || op = 0x0B || op = 0x0C || op = 0x0D then some .atom
  else if op = 5 then some .drain
  else if op = 8 || (0x28 ≤ op && op ≤ 0x2D) then some .word
  else if 0x10 ≤ op && op ≤ 0x1B then
    some (if q.getLsbD (match o with
      | .a => 0
      | .b => 1
      | .c => 2) then .atom else .word)
  else if 0x20 ≤ op && op ≤ 0x25 then some (if q.getLsbD 0 then .atom else .word)
  else if op = 0x30 || op = 0x32 || (op = 0x31 && q.getLsbD 0) then some .tagged
  else if op = 0x3A && o = .a then some (if q.getLsbD 8 then .atom else .word)
  else if (op = 0x3B || op = 0x3C) && o = .a then some .word
  else none

/-- What an element puts out, where its operation fixes it. -/
def ownKind (w : Word) : Option SKind :=
  let op := (eOp w).toNat
  let q := (eFields w).param
  if isCell op then some .drain
  else if op = 4 || op = 8 || op = 0x0A || op = 0x0B || op = 0x0C || op = 0x0D || op = 0x30 then some .atom
  else if op = 5 || op = 9 || (0x20 ≤ op && op ≤ 0x2D) || op = 0x3C then some .word
  else if 0x10 ≤ op && op ≤ 0x1B then some (if q.getLsbD 3 then .atom else .word)
  else if op = 0x32 || (op = 0x31 && q.getLsbD 0) then some .tagged
  else if op = 0x38 then some .index
  else if op = 0x39 then some (if q.getLsbD 8 then .atom else .word)
  else none

/-- The kind of a port's stream. -/
def portKind (d : PortDecl) : SKind := if d.kind = 0 then .word else if d.kind = 1 then .atom else .tagged

/-- The element a source code leads to, and the direction of its output: 4 for its own result. -/
def srcOf (p : Plane) (nl e src : Nat) : Option (Nat × Nat) :=
  if 1 ≤ src && src ≤ 4 then (neighbour nl e (src - 1)).map fun x => (x, opposite (src - 1))
  else if src = 6 then (p.convs.find? fun c => c.2 == e).map fun c => (c.1, 4)
  else if src = 7 then some (e, 4)
  else none

/-- The kind of the stream at a source of an element; none where a loop leaves it open. -/
def kindAt (p : Plane) (nl : Nat) : Nat → Nat → Nat → Option SKind
  | 0, _, _ => none
  | n + 1, e, src =>
    if src = 5 then (p.ports[(eFields (p.wordOf e)).md.toNat % 64]?).map portKind
    else match srcOf p nl e src with
      | none => none
      | some (x, d) =>
        let w := p.wordOf x
        let f := eFields w
        if isCell (eOp w).toNat && d ≠ 4 && !f.dirs.getLsbD d then some .atom
        else match ownKind w with
          | some k => some k
          | none =>
            (kindAt p nl n x f.ina.toNat).orElse fun _ =>
              if eOp w = 0x31 then
                (kindAt p nl n x f.inb.toNat).orElse fun _ => kindAt p nl n x f.inc.toNat
              else none

/-- A stream of a kind serves where another is required: an index stream also feeds words (R329). -/
def serves (need : Option SKind) (got : Option SKind) : Bool :=
  match need, got with
  | some n, some g => n == g || (n == .word && g == .index)
  | _, _ => true

/-- The kinds that reach an element's operands are the kinds it requires; MERGE mode 0 takes one kind (R323). -/
def kindsOk (p : Plane) (nl e : Nat) : Bool :=
  let w := p.wordOf e
  let f := eFields w
  let fuel := 8 * nl + 2
  let ka := kindAt p nl fuel e f.ina.toNat
  let kb := kindAt p nl fuel e f.inb.toNat
  let kc := kindAt p nl fuel e f.inc.toNat
  serves (needKind w .a) ka && serves (needKind w .b) kb && serves (needKind w .c) kc &&
  (if eOp w = 0x31 && !f.param.getLsbD 0 then
    let ks := [ka, kb, kc].filterMap id
    match ks with
    | [] => true
    | k :: rest => rest.all (· == k)
  else true)

/-! ## Drain chains (R306, R308) -/

/-- Every cell's drain output leads, through PASS elements, to the next cell or to a DRAIN element, and the chain ends; what
reaches a cell's C comes so from a cell; every DRAIN ends a chain of as many cells as it states. -/
def chainOk (p : Plane) (nl e : Nat) : Bool :=
  let op := (eOp (p.wordOf e)).toNat
  if isCell op then
    (p.chainEnd nl 2049 e).isSome && ((eFields (p.wordOf e)).inc == 0 ||
      (p.feeder nl 1024 e (eFields (p.wordOf e)).inc.toNat).any fun x => isCell (eOp (p.wordOf x)).toNat)
  else if op = 5 then
    match p.feeder nl 1024 e (eFields (p.wordOf e)).ina.toNat with
    | none => false
    | some x => isCell (eOp (p.wordOf x)).toNat && p.upstream nl 2049 x + 1 == (eFields (p.wordOf e)).param.toNat / 4
  else true

/-! ## The whole image -/

/-- The plane of an image's bytes, unless one of the checks of R361 fails. -/
def parseImage (t : Task) (bs : List Byte) (addr base : Word) : Option Plane :=
  if !imgHdrOk t bs then none
  else
    let h := imgHdr bs
    let ps := patEntries h bs
    let rs := (words32 (sectionOf bs h.rect (4 * h.nrect))).map rectOf
    let pv := words32 (sectionOf bs h.port 256)
    let cv := (records 8 h.nconv (sectionOf bs h.conv (8 * h.nconv))).map fun x => dword x 0
    let lv := records 64 h.nloop (sectionOf bs h.loop (64 * h.nloop))
    if !ps.all (·.ok h.nrect) || !rectsDisjoint ps || !rs.all (·.ok t.lanes) || !lv.all loopOk ||
        !(((List.range 64).zip pv).all fun x => portOk t x.1 x.2) ||
        !cv.all (fun c => bitsAt c 11 5 == 0 && bitsAt c 27 37 == 0) then none
    else match cellsOf ps rs t.lanes with
      | none => none
      | some cells =>
        let p : Plane := {
          valid := true, addr := addr, base := base, id := dword bs 0, charge := 0
          anchor := signed 11 (bitsAt (dword bs 8) 16 11)
          pats := ps.map fun x => ⟨x.word, BitVec.ofNat 16 (bitsAt x.node 0 16), BitVec.ofNat 32 (bitsAt x.node 16 32)⟩
          cells := cells, ports := pv.map portDecl, convs := cv.map fun c => (bitsAt c 0 11, bitsAt c 16 11)
          loops := lv.map loopEntry, pre := [] }
        if portsAgree p.ports && convOk p t.lanes && p.pats.all (fun x => agOk p x.word) && loopsOk p && portFeeds p t.lanes &&
            (List.range (8 * t.lanes)).all (fun e => linkOk p t.lanes e && kindsOk p t.lanes e && chainOk p t.lanes e) then
          some p
        else none

/-! ## Charges in deterministic mode (R373) -/

/-- The lowest and highest byte of a nest of units of `n` bytes (R269), on unbounded integers. -/
def nestSpan (base : Int) (n : Nat) : List Nat → List Int → Int × Int
  | c :: cs, t :: ts =>
    let (lo, hi) := nestSpan base n cs ts
    let x := ((c : Int) - 1) * t
    (lo + min 0 x, hi + max 0 x)
  | _, _ => (base, base + n - 1)

/-- Granules in a union of granule ranges that are sorted by their first. -/
def unionSize : Nat → List (Nat × Nat) → Nat
  | _, [] => 0
  | from_, (lo, hi) :: rest =>
    let a := max lo from_
    if hi < a then unionSize from_ rest else (hi + 1 - a) + unionSize (hi + 1) rest

/-- The write intervals of a plane's AGST and AGRED elements, at 64-byte granules. -/
def Plane.agSpans (p : Plane) : List (Nat × Nat) :=
  p.cells.eraseDups.filterMap fun c =>
    match c with
    | 0 => none
    | i + 1 => match p.pats[i]? with
      | none => none
      | some x =>
        if eOp x.word = 0x3A || eOp x.word = 0x3B then
          match p.loops[agEntry (eFields x.word)]? with
          | none => none
          | some l =>
            let (lo, hi) := nestSpan (p.base.toNat + l.offset) (4 * l.usz) l.counts l.strides
            some (lo.toNat / 64, hi.toNat / 64)
        else none

/-- A 64-byte granule is charged in deterministic mode: it is not in the mill-local window and not on a host page (R465). -/
def State.charges (s : State) (g : Nat) : Bool :=
  64 * g < windowBase && (match walk s s.me.id.fn (BitVec.ofNat 64 (64 * g)) with
    | .ok (p, _) => pteLoc p != 2
    | .error _ => true)

/-- The parts of a granule range that are charged, page by page. -/
def State.chargedParts (s : State) (x : Nat × Nat) : List (Nat × Nat) :=
  ((List.range (x.2 / 1024 + 1 - x.1 / 1024)).map fun i =>
    let q := x.1 / 1024 + i
    (max x.1 (1024 * q), min x.2 (1024 * q + 1023))).filter fun y => s.charges y.1

/-- Bytes a plane charges to SPILL in deterministic mode (R373, R465). -/
def State.agCharge (s : State) (p : Plane) : Nat :=
  128 * unionSize 0 (sortBy (fun (a b : Nat × Nat) => a.1 < b.1) (p.agSpans.flatMap s.chargedParts))

/-! ## Reading an image -/

/-- What a load gives; sever: the image lies in a see window whose path is lost (R160). -/
inductive CfgRes where
  | ok (p : Plane) (s : State)
  | rej (s : State)
  | ue (s : State)
  | fault (s : State) (cause : BitVec 8) (va : Word)
  | wait
  | sever (va : Word)

/-- The first unit of an address generator. -/
def Plane.firstUnit (p : Plane) (w : Word) : Option Word :=
  if !isAg (eOp w).toNat || eOp w = 0x38 then none
  else (p.loops[agEntry (eFields w)]?).map fun l => p.base + BitVec.ofInt 64 l.offset

/-- Latch the pages of the first units (R328): a page that does not translate is left for the first touch. -/
def latchFirst (p : Plane) : List Nat → State → List (Nat × Nat × Nat × Word) × State
  | [], s => ([], s)
  | e :: es, s =>
    match p.firstUnit (p.wordOf e) with
    | none => latchFirst p es s
    | some va =>
      if !canonical va || inWindow va || inSluice va then latchFirst p es s
      else
        let (r, s1) := s.translate va
        let (l, s2) := latchFirst p es s1
        match r with
        | .error _ => (l, s2)
        | .ok (pte, sz) => ((e, va.toNat >>> sz, sz, pte) :: l, s2)

/-- Load an image for the acting task, its first 64 bytes as already read (R360): the rest is read, checked and charged. -/
def State.loadImage (s : State) (hdr : List Byte) (addr base : Word) : CfgRes :=
  if !imgLenOk hdr then .rej s
  else
    let n := (imgHdr hdr).len
    match commandRead s (addr + 64) (n - 64) with
    | .wait _ => .wait
    | .fault s1 c va => if c = tcECCUE then .ue s1 else .fault s1 c va
    | .sever va => .sever va
    | .ok rest s1 =>
      match parseImage s1.me (hdr ++ rest) addr base with
      | none => .rej s1
      | some p =>
        let c := if s1.me.eff.det then s1.agCharge p else 0
        if !s1.spillFits s1.me.id.fn s1.me.id.blk c then .rej s1
        else
          let (l, s2) := latchFirst p (List.range p.cells.length) s1
          .ok { p with charge := c, pre := l } (s2.spillCharge s2.me.id.fn s2.me.id.blk c)

/-- A plane's charge is returned as it is replaced or its task ends. -/
def State.dropPlane (s : State) (p : Plane) : State := s.spillReturn s.me.id.fn s.me.id.blk p.charge

/-! ## Plane changes -/

/-- The elements of a plane as it becomes active (R283, R328). -/
def Plane.fresh (p : Plane) : List Elem :=
  (List.range p.cells.length).map fun e =>
    { Elem.zero with latches := (p.pre.filter fun x => x.1 == e).map (·.2) }

/-- The fabric is empty (R283). -/
def Run.isEmpty (r : Run) : Bool :=
  r.elems.all Elem.isEmpty && r.ports.all fun p => p.offer.isEmpty && p.inq.isEmpty && p.ctlq.isEmpty && p.half.isNone

/-- Exchange the planes (R283). -/
def Run.swap (r : Run) : Run := { r with act := r.inact, inact := r.act, elems := r.inact.fresh, deps := [] }

end Sys2Proof.Machine
end

