-- ==== Sys2Proof/Machine/Handles.lean ====
section
/-!
DEFINITION. Sys2Proof/Machine/Handles.lean: sluice handles (R230 to R241).
-/

namespace Sys2Proof.Machine

/-! ## Checks -/

/-- HANDLEBAD names a register (R139). -/
def State.badHandle (s : State) (r : BitVec 5) : Res := .next (s.trapAt tcHANDLEBAD ((low3 r).setWidth 64))

/-- A register that holds a live handle is never overwritten (R230). -/
def intoFree (s : State) (d : BitVec 5) (k : State → Res) : Res :=
  if hLive (s.me.ctx.rh (low3 d)) then s.badHandle d else k s

/-- A handle operand, checked under R109. -/
def withHandle (s : State) (a : BitVec 5) (k : BitVec 128 → State → Res) : Res :=
  let h := s.me.ctx.rh (low3 a)
  if handleOk s h then k h s else s.badHandle a

/-- Clear a handle register and free the slot whose last handle it was (R233). -/
def State.clearHandle (s : State) (a : BitVec 5) : State :=
  s.mapMe fun t => ({ t with ctx := t.ctx.wh (low3 a) 0 } : Task).trimWindow

/-! ## SLNEW (R231) -/

/-- SIZE of a request. -/
def reqSize (v : Word) : Nat := bitsAt v 0 25
/-- A request SLNEW accepts: SIZE in range and reserved bits zero. -/
def reqOk (v : Word) : Bool := 1 ≤ reqSize v && reqSize v ≤ 16777216 && bitsAt v 25 7 == 0 && bitsAt v 34 30 == 0
/-- 64 KiB pages of a request. -/
def reqUnits (v : Word) : Nat := ceilDiv (reqSize v) 65536

/-- Objects that are not free. -/
def State.liveObjs (s : State) : Nat := (s.objs.filter fun o => o.st != .freed).length

/-- A HOME tile of the partition on a die with room for `n` units: the first in number order. -/
def State.homeRoom (s : State) (fn die n : Nat) : Option Nat :=
  (List.range Config.tilesPerDie).map (die * Config.tilesPerDie + ·) |>.find? fun t =>
    (s.tile t).mode == 2 && (s.fn fn).tiles.contains t && (s.tile t).used + n ≤ 16

/-- The lowest object slot that is free, and its generation. -/
def State.freeObj (s : State) : Nat × BitVec 16 :=
  match s.objs.find? fun o => o.st == .freed with
  | some o => (o.id, o.gen)
  | none => (s.objs.length, 0)

/-- Create an object for the acting task: its fill and see handles. -/
def State.newObj (s : State) (req : Word) : BitVec 128 × BitVec 128 × State :=
  let n := reqUnits req
  let tile := if bitAt req 33 then s.homeRoom s.me.id.fn (dieOf s.me.mill) n else none
  let (id, gen) := s.freeObj
  let o : Obj := {
    id := id, gen := gen, st := .filling, size := reqSize req, units := n, tile := tile
    fn := s.me.id.fn, blk := s.me.id.blk, handles := 2, remote := [], td := 0 }
  let s1 := match tile with
    | none => s
    | some t => (s.setTile t { s.tile t with used := (s.tile t).used + n }).mapLineage s.me.id.fn s.me.id.blk fun b =>
        { b with usePond := b.usePond + n }
  let s2 := { s1 with
    objs := o :: s1.objs.filter fun x => x.id != id
    mem := memClear s1.mem (keyOf spSluice (id * 2 ^ 24)) (2 ^ 24) }
  let p := bool1 tile.isSome * 2
  (mkHandle id s.wh.pkg gen 1 0b000111 (BitVec.ofNat 8 (p + bool1 (bitAt req 32))),
   mkHandle id s.wh.pkg gen 2 0b011101 (BitVec.ofNat 8 p), s2)

/-- SLNEW (R231). -/
def execSlnew (g : Guard) (d a b : BitVec 5) (s : State) : Res :=
  let i := Instr.slnew g d a b
  gated i g [b] none false s fun s =>
    let req := s.src b
    if low3 d = low3 a then .next (s.trapAt tcILLOP (infoWord i))
    else intoFree s d fun s => intoFree s a fun s =>
      if !reqOk req then .next (s.trapAt tcILLOP (infoWord i))
      else if bitAt req 33 && !s.pondFits s.me.id.fn s.me.id.blk (reqUnits req) then .next (s.trapAt tcBUDGET 1)
      else if Config.objects ≤ s.liveObjs then .next (s.trapAt tcBUDGET 10)
      else
        let (f, v, s1) := s.newObj req
        done i (s1.mapCtx fun c => (c.wh (low3 d) f).wh (low3 a) v) [b]

/-! ## SLMAP (R232) -/

/-- First address of a slot of the sluice window. -/
def slotBase (k : Nat) : Word := BitVec.ofNat 64 (sluiceBase + k * 2 ^ 24)

/-- The slot that maps an object under a kind: the one it has, else the lowest free one; none when all are taken. -/
def Task.slotFor (t : Task) (h : BitVec 128) : Option Nat :=
  let fill := hKind h == 1
  match t.window.find? fun w => w.obj == hObj h && w.pkg == hPkg h && w.gen == hGen h && w.fill == fill with
  | some w => some w.slot
  | none => (List.range 256).find? fun k => !t.window.any fun w => w.slot == k

/-- Map an object at a slot. -/
def Task.mapSlot (t : Task) (h : BitVec 128) (k : Nat) : Task :=
  if t.window.any fun w => w.slot == k then t
  else { t with window := t.window ++ [⟨k, hObj h, hPkg h, hGen h, hKind h == 1⟩] }

/-- SLMAP (R232): BUDGET 12 with no slot free. -/
def execSlmap (g : Guard) (d a : BitVec 5) (s : State) : Res :=
  gated (.slmap g d a) g [] (some d) false s fun s =>
    withHandle s a fun h s =>
      match s.me.slotFor h with
      | none => .next (s.trapAt tcBUDGET 12)
      | some k => doneG (.slmap g d a) (s.mapMe fun t => t.mapSlot h k) [] d (slotBase k)

/-! ## SLDUP, SLDROP, HMOV (R234 to R236) -/

/-- SLDUP (R234): a see handle with the duplicate right; the copy is bit-identical. The package of another's object tells the
origin that it holds one more (DEDUCED, log 100). -/
def execSldup (g : Guard) (d a : BitVec 5) (s : State) : Res :=
  guarded (.sldup g d a) g s fun s =>
    intoFree s d fun s => withHandle s a fun h s =>
      if hKind h ≠ 2 || !(hRights h).getLsbD 3 then s.badHandle a
      else
        let s1 := if hPkg h = s.wh.pkg then s.mapObj (hObj h) fun o => { o with handles := o.handles + 1 }
          else s.sendPkg (hPkg h) s.me.ctx.clock (.hold (BitVec.ofNat 40 (hObj h)) s.wh.pkg 1)
        done (.sldup g d a) (s1.mapCtx fun c => c.wh (low3 d) h) []

/-- SLDROP (R235, R124, R131): a fill handle waits for the fills, then publishes, in deterministic mode at the merge; a
see handle's count falls. -/
def execSldrop (g : Guard) (a : BitVec 5) (s : State) : Res :=
  guarded (.sldrop g a) g s fun s =>
    withHandle s a fun h s =>
      if hKind h = 1 then
        if s.me.fillsInto (hObj h) then .next (s.waitOn (.fills (hObj h)))
        else if s.me.eff.det then
          done (.sldrop g a) ((s.mapMe fun t => { t with det := { t.det with drops := t.det.drops ++ [hObj h] } }).clearHandle a) []
        else
          let td := dropTime s (hObj h) s.me.ctx.clock
          done (.sldrop g a) (((s.objPublish (hObj h) s.me.ctx.clock).clearHandle a).mapCtx fun c => { c with clock := td }) []
      else done (.sldrop g a) ((s.disposeHandle h false s.me.ctx.clock).clearHandle a) []

/-- HMOV (R236). -/
def execHmov (g : Guard) (d a : BitVec 5) (s : State) : Res :=
  guarded (.hmov g d a) g s fun s =>
    if low3 d = low3 a then withHandle s a fun _ s => done (.hmov g d a) s []
    else intoFree s d fun s => withHandle s a fun h s =>
      done (.hmov g d a) (s.mapCtx fun c => (c.wh (low3 d) h).wh (low3 a) 0) []

/-! ## SLXFER, HRECV (R237, R238) -/

/-- The channel crosses a race link to another package (R352, R411). -/
def crossesLink (s : State) (c : Chan) : Bool :=
  c.peer != 0 && (match linkEntry s c.fn c.peer with
    | some (pkg, _, _, _) => pkg != s.wh.pkg
    | none => false)

/-- The two words of a handle pair, low half first, at the sender's clock: what the receiver does with the handle comes after what
the sender did under it (R124). -/
def pairWords (h : BitVec 128) (clk : Nat) : List ChWord := [⟨h.extractLsb' 0 64, true, clk⟩, ⟨h.extractLsb' 64 64, true, clk⟩]

/-- SLXFER (R237). -/
def execSlxfer (g : Guard) (d a : BitVec 5) (s : State) : Res :=
  let i := Instr.slxfer g d a
  guarded i g s fun s =>
    match s.me.ctx.binding d with
    | none => .next (s.trapAt tcILLOP (infoWord i))
    | some b =>
      match s.myChan b.ch with
      | none => .next (s.trapAt tcILLOP (infoWord i))
      | some c =>
        if b.consumer then .next (s.trapAt tcILLOP (infoWord i))
        else withHandle s a fun h s =>
          if !(hRights h).getLsbD 2 || (crossesLink s c && !(hRights h).getLsbD 4) then s.badHandle a
          else if s.consumerClosed c && c.strict then .next (s.trapAt tcCHCLOSED (infoWord i))
          else if hKind h = 1 && s.me.fillsInto (hObj h) then .next (s.waitOn (.fills (hObj h)))
          else if !s.consumerClosed c && !s.chanRoom c 2 then .next (s.waitOn (.chanRoom (d.setWidth 2) 2))
          else done i ((s.clearHandle a).push b.ch (pairWords h s.me.ctx.clock)) []

/-- HRECV (R238): the head must be a handle pair; an empty channel puts the context to sleep. -/
def execHrecv (g : Guard) (d a : BitVec 5) (s : State) : Res :=
  let i := Instr.hrecv g d a
  guarded i g s fun s =>
    match s.me.ctx.binding a with
    | none => .next (s.trapAt tcILLOP (infoWord i))
    | some b =>
      if !b.consumer then .next (s.trapAt tcILLOP (infoWord i))
      else intoFree s d fun s =>
        match s.myChan b.ch with
        | none => .next (s.waitOn (.chanWord (a.setWidth 2)))
        | some c =>
          match c.front with
          | [] => .next (s.waitOn (.chanWord (a.setWidth 2)))
          | w :: rest =>
            if !w.handle then s.badHandle d
            else match rest with
              | [] => .next (s.waitOn (.chanWord (a.setWidth 2)))
              | v :: _ => done i (((s.pop b.ch).pop b.ch).mapCtx fun c => c.wh (low3 d) (v.val ++ w.val)) []

end Sys2Proof.Machine
end

