-- ==== Sys2Proof/Machine/Commands.lean ====
section
/-!
DEFINITION. Sys2Proof/Machine/Commands.lean: how stream commands come to be: the blocks they point to (R264, R266, R284,
R287, R289), their footprints (R269), the checks and the acceptance of SCI and SCM (R182, R247, R248, R373), and SCW (R249).
-/

namespace Sys2Proof.Machine

/-! ## Blocks -/

/-- A pattern (R266). -/
structure Pat where
  usz     : Nat
  offset  : Int
  counts  : List Nat
  strides : List Int
deriving DecidableEq, Repr

/-- DIMS of a pattern block; 0 where out of range. -/
def patDims (raw : List Byte) : Nat :=
  let n := bitsAt (dword raw 0) 0 4
  if 1 ≤ n && n ≤ 12 then n else 0

/-- Read a pattern; none for a malformed one. -/
def patOf (raw : List Byte) : Option Pat :=
  let w := dword raw 0
  let n := patDims raw
  let dims := (List.range n).map fun j => dword raw (0x10 + 16 * j)
  if n = 0 || bitsAt w 4 4 ≠ 0 || bitsAt w 13 51 ≠ 0 || bitsAt w 8 5 < 1 || 16 < bitsAt w 8 5 ||
      dims.any (fun d => bitsAt d 0 32 == 0 || bitsAt d 32 32 != 0) then none
  else some ⟨bitsAt w 8 5, (dword raw 8).toInt, dims.map (bitsAt · 0 32),
    (List.range n).map fun j => (dword raw (0x18 + 16 * j)).toInt⟩

/-- Bytes of a unit. -/
def Pat.unit (p : Pat) : Nat := 4 * p.usz

/-- The address of a pattern's unit at an iteration (R267). -/
def Pat.addr (p : Pat) (base : Word) (ctr : List Nat) : Word := base + BitVec.ofInt 64 (p.offset + dotCtr ctr p.strides)

/-- A job card (R284). -/
structure Card where
  klev  : Nat
  long  : Bool
  km1   : Nat
  anc   : Int
  prio  : Nat
  ovt   : Bool
  cfmt  : BitVec 2
  aoff  : Int
  boff  : Int
  coff  : Int
  ovoff : Int
  counts : List Nat
  astr  : List Int
  bstr  : List Int
  cstr  : List Int
  alen  : Nat
  blen  : Nat
  cunit : Nat
deriving DecidableEq, Repr

/-- Read a job card; none for a malformed one. -/
def cardOf (raw : List Byte) (base : Word) : Option Card :=
  let w := dword raw 0
  let n := bitsAt w 0 3
  let z := dword raw 0x78
  let lv (o j : Nat) : BitVec 32 := word4 raw (o + 16 * j)
  let c : Card := {
    klev := bitsAt w 3 3, long := bitAt w 6, km1 := bitsAt w 8 4, anc := signed 11 (bitsAt w 12 11), prio := bitsAt w 24 3
    ovt := bitAt w 27, cfmt := BitVec.ofNat 2 (bitsAt w 28 2)
    aoff := (dword raw 8).toInt, boff := (dword raw 0x10).toInt, coff := (dword raw 0x18).toInt
    ovoff := (dword raw 0x20).toInt
    counts := (List.range n).map fun j => (lv 0x28 j).toNat
    astr := (List.range n).map fun j => (lv 0x2C j).toInt
    bstr := (List.range n).map fun j => (lv 0x30 j).toInt
    cstr := (List.range n).map fun j => (lv 0x34 j).toInt
    alen := bitsAt z 0 20, blen := bitsAt z 20 20, cunit := bitsAt z 40 20 }
  if n < 1 || 5 < n || n ≤ c.klev || bitsAt w 7 1 ≠ 0 || bitsAt w 23 1 ≠ 0 || bitsAt w 30 34 ≠ 0 || c.cfmt = 3 ||
      c.counts.any (· == 0) || ((List.range n).zip c.cstr).any (fun x => x.1 ≤ c.klev && x.2 != 0) ||
      ((List.range 5).any fun j => n ≤ j && (dword raw (0x28 + 16 * j) != 0 || dword raw (0x30 + 16 * j) != 0)) ||
      c.alen < 8 || 262144 < c.alen || c.blen < 8 || 262144 < c.blen || c.cunit % 4 ≠ 0 || c.cunit < 4 || 65536 < c.cunit ||
      bitsAt z 60 4 ≠ 0 || (c.ovt && (base + BitVec.ofInt 64 c.ovoff).toNat % 64 ≠ 0) then none
  else some c

/-- A halo descriptor (R287). -/
structure HaloDesc where
  soff  : Int
  roff  : Int
  len   : Nat
  chout : BitVec 12
  chin  : BitVec 12
  tag   : BitVec 16
  nosend : Bool
  norecv : Bool
deriving DecidableEq, Repr

/-- Read a halo descriptor; none for a malformed one. Its channels are looked at apart. -/
def haloOf (raw : List Byte) : Option HaloDesc :=
  let v := dword raw 0x10
  let w := dword raw 0x18
  let n := bitsAt v 0 32
  if n % 4 ≠ 0 || n < 4 || 16777216 < n || bitsAt v 56 8 ≠ 0 || bitsAt w 18 46 ≠ 0 || (bitAt w 16 && bitAt w 17) ||
      (List.range 4).any (fun i => dword raw (0x20 + 8 * i) != 0) then none
  else some ⟨(dword raw 0).toInt, (dword raw 8).toInt, n, BitVec.ofNat 12 (bitsAt v 32 12), BitVec.ofNat 12 (bitsAt v 44 12),
    BitVec.ofNat 16 (bitsAt w 0 16), bitAt w 16, bitAt w 17⟩

/-- A collective descriptor (R289). -/
structure CollDesc where
  off   : Int
  nrec  : Nat
  op    : Nat
  group : Nat
deriving DecidableEq, Repr

/-- Bytes of a record. -/
def CollDesc.recSize (d : CollDesc) : Nat := if d.op = 1 then 8 else 64

/-- Read a collective descriptor; none for a malformed one. -/
def collOf (raw : List Byte) : Option CollDesc :=
  let w := dword raw 8
  let op := bitsAt w 20 4
  if bitsAt w 0 20 = 0 || !(op == 1 || op == 5) || bitsAt w 24 8 ≠ 0 || bitsAt w 44 20 ≠ 0 ||
      (List.range 6).any (fun i => dword raw (0x10 + 8 * i) != 0) then none
  else some ⟨(dword raw 0).toInt, bitsAt w 0 20, op, bitsAt w 32 12⟩

/-! ## Fields of a command word (R180, R270) -/

/-- A field of the body. -/
def cField (w : BitVec 128) (lo len : Nat) : Nat := (w.toNat >>> lo) % 2 ^ len
/-- ROP and ESZ. -/
def cRop (w : BitVec 128) : Nat := cField w 84 4
/-- STREL and LIM. -/
def cStrel (w : BitVec 128) : BitVec 24 := w.extractLsb' 56 24
/-- The line that block offsets count from (R264). -/
def anchorLine (anchor : Word) : Word := anchor &&& ~~~63
/-- An offset in 64-byte units. -/
def lineOff (o : BitVec 24) : Word := o.signExtend 64 * 64
/-- The address of the status record of SC.RCOPY, from the block address (R270). -/
def Cmd.status (c : Cmd) : Option Word :=
  match c.op with
  | 0x09 => if cStrel c.word = 0 then none else some (c.blk - lineOff (cBlk c.word) + lineOff (cStrel c.word))
  | 0x18 => some (c.blk + 64)
  | 0x19 => some (c.blk + 64)
  | _ => none

/-- Commands that point to a block, and its first bytes: more are read where a pattern states more dimensions. -/
def blockHead (op : Nat) : Nat :=
  if op = 0x08 || op = 0x09 || op = 0x0A || op = 0x0B || op = 0x0D || op = 0x0E then 16
  else if op = 0x12 then 128 else if op = 0x10 || op = 0x18 || op = 0x19 then 64 else 0

/-! ## Footprints (R269) -/

/-- An interval of a footprint before it is entered: first and last byte on unbounded integers, and whether it is written. -/
structure Span where
  lo    : Int
  hi    : Int
  write : Bool
deriving DecidableEq, Repr

/-- Canonical throughout. -/
def Span.canonical (x : Span) : Bool :=
  0 ≤ x.lo && x.hi ≤ 2 ^ 64 - 1 && (x.hi < 2 ^ 56 || 2 ^ 64 - 2 ^ 56 ≤ x.lo)

/-- An interval of `n` bytes. -/
def spanAt (lo : Int) (n : Nat) (write : Bool) : Span := ⟨lo, lo + n - 1, write⟩

/-- The interval of a nest of units. -/
def spanOf (base : Word) (off : Int) (n : Nat) (counts : List Nat) (strides : List Int) (write : Bool) : Span :=
  let r := nestSpan (base.toNat + off) n counts strides
  ⟨r.1, r.2, write⟩

/-- The interval of a pattern. -/
def Pat.span (p : Pat) (base : Word) (write : Bool) : Span := spanOf base p.offset p.unit p.counts p.strides write

/-- A pattern with the unit size its operation requires; none for a malformed block (R264, R273, R275). -/
def patFor (op rop : Nat) (raw : List Byte) : Option Pat :=
  match patOf raw with
  | none => none
  | some p =>
    if (op = 0x0A || op = 0x0B) && p.usz ≠ 1 then none
    else if op = 0x09 && p.usz ≠ ropUsz rop then none
    else some p

/-- The interval of a status record, marked as written. -/
def statusSpan (a : Option Word) : List Span :=
  match a with
  | none => []
  | some a => [spanAt a.toNat 64 true]

/-- The intervals of a command over its block as read; none for a malformed block. `copyWrite` says how SC.COPY's interval
is entered. -/
def Cmd.spans (c : Cmd) (stones : Nat) (copyWrite : Bool) : Option (List Span) :=
  let base := c.base
  match c.op with
  | 0x08 => (patFor 0x08 0 c.raw).map fun p => [p.span base copyWrite]
  | 0x0D => (patFor 0x0D 0 c.raw).map fun p => [p.span base true]
  | 0x0E => (patFor 0x0E 0 c.raw).map fun p => [p.span base false]
  | 0x09 => (patFor 0x09 (cRop c.word) c.raw).map fun p => p.span base true :: statusSpan c.status
  | 0x0A => (patFor 0x0A 0 c.raw).map fun p =>
      [p.span base false, spanAt base.toNat (cField c.word 56 24 * 2 ^ cRop c.word) false]
  | 0x0B => (patFor 0x0B 0 c.raw).map fun p =>
      [p.span base false, spanAt base.toNat (cField c.word 56 24 * 2 ^ cRop c.word) true]
  | 0x0C => some [spanAt (base.toNat / 64 * 64 : Nat) 64 true]
  | 0x10 => some [spanAt c.blk.toNat (if imgLenOk c.raw then (imgHdr c.raw).len else 64) false]
  | 0x12 => (cardOf c.raw base).map fun d =>
      [spanOf base d.aoff d.alen d.counts d.astr false, spanOf base d.boff d.blen d.counts d.bstr false,
        spanOf base d.coff d.cunit d.counts d.cstr true] ++
      (if d.ovt then [spanAt (base.toNat + d.ovoff) (144 * 64 * stones) true] else [])
  | 0x18 => (haloOf c.raw).map fun d =>
      (if d.nosend then [] else [spanAt (base.toNat + d.soff) d.len false]) ++
      (if d.norecv then [] else [spanAt (base.toNat + d.roff) d.len true]) ++ statusSpan c.status
  | 0x19 => (collOf c.raw).map fun d => spanAt (base.toNat + d.off) (d.nrec * d.recSize) true :: statusSpan c.status
  | _ => some []

/-- The footprint entries of intervals: those that are canonical throughout. -/
def footOf (l : List Span) : List Foot :=
  (l.filter Span.canonical).map fun x =>
    { lo := x.lo.toNat, hi := x.hi.toNat, write := x.write
      window := sluiceBase ≤ x.lo.toNat && x.hi.toNat < sluiceTop }

/-- SC.COPY is entered as a read where the active plane declares its port as input and no configuration command of the
context is pending. -/
def Task.copyWrites (t : Task) (p : Nat) : Bool :=
  let d := t.run.decl p
  !(d.present && !d.out) || t.cmds.any fun c => c.live && (c.op == 0x10 || c.op == 0x11)

/-! ## Reading a block (R264) -/

/-- Read the block of a command: a pattern block as long as its DIMS says. -/
def readBlock (s : State) (op : Nat) (blk : Word) : BlockRead :=
  match ordinaryRead s blk (blockHead op) with
  | .ok bs s1 =>
    if blockHead op = 16 then
      match ordinaryRead s1 (blk + 16) (16 * patDims bs) with
      | .ok more s2 => .ok (bs ++ more) s2
      | .fault s2 c _ => .fault s2 c blk
      | r => r
    else .ok bs s1
  | .fault s1 c _ => .fault s1 c blk
  | r => r

/-! ## Checks at issue (R182, R261, R270) -/

/-- The channel of an SC.TOK: in the node's table, its producer end with a task of the node. -/
def State.tokChannel (s : State) (ch : BitVec 12) : Bool :=
  match s.myChan ch with
  | some c => c.peer == 0 || c.locend
  | none => false

/-- The cause a command word is refused with; none where it passes. -/
def State.refuses (s : State) (w : BitVec 128) : Option (BitVec 8) :=
  if cOp w = opRelatch then some tcPRIV
  else match decodeCommand w with
    | .error _ => some tcILLOP
    | .ok _ =>
      let op := (cOp w).toNat
      let p := (cPort w).toNat
      let limit := 4 * s.me.size
      if limit ≤ p || (op = 0x12 && limit ≤ p + 2) || (op = 0x04 && !s.tokChannel (w.extractLsb' 100 12)) then some tcILLOP
      else none

/-! ## Acceptance (R247, R248) -/

/-- The number after a number. -/
def nextSeq (n : BitVec 32) : BitVec 32 := if n + 1 = 0 then 1 else n + 1

/-- Granules that the write intervals of a footprint charge in deterministic mode: not SCRATCH banks, not host pages, not
those charged already (R373, R465). -/
def State.newCharges (s : State) (fs : List Foot) : List Nat :=
  let gs := (fs.filter fun f => f.write).flatMap fun f =>
    (List.range (f.hi / 64 + 1 - f.lo / 64)).map (f.lo / 64 + ·)
  gs.eraseDups.filter fun g => !s.me.det.charged.contains g && s.charges g

/-- The footprint table has room for `n` entries and the context's queue has a place (R95, R248). -/
def State.hasPlace (s : State) (n : Nat) : Bool :=
  (s.me.cmds.filter Cmd.live).length < Config.cmdDepth && s.feet.length + n ≤ Config.footprints

/-- The command entered at acceptance. -/
def newCmd (t : Task) (w : BitVec 128) (base blk : Word) (acc : Nat) : Cmd where
  seq := nextSeq t.ctx.seq
  word := w
  base := base
  blk := blk
  raw := []
  rawErr := none
  ipc := t.ctx.pc
  phase := .accepted
  prior := .accepted
  ctr := []
  left := []
  foot := []
  nseed := t.ctx.nseed
  nstep := t.ctx.nstep
  wclk := 0
  psat := false
  cause := 0
  sub := 0
  freed := []
  bits := 0
  tiles := []
  mems := []
  spilt := false
  acc := acc

/-- Enter a command: number, footprint, charge; SC.NOP retires at once (R281) and sets the event latch (R259). -/
def State.accept (s : State) (c : Cmd) (gs : List Nat) : State :=
  let m := s.mill s.me.mill
  let c1 : Cmd := if c.op = 0x01 then { c with phase := .done } else c
  let s1 := (s.setMill s.me.mill { m with accn := m.accn + 1 }).mapMe fun t => { t with
    cmds := (t.cmds.filter fun x => x.live || x.seq != c.seq) ++ [c1]
    det := { t.det with charged := gs ++ t.det.charged }
    ctx := { t.ctx with
      seq := c.seq
      latch := t.ctx.latch || c.op == 0x01
      stepSeq := if t.ctx.steps && bitAt t.ctx.dbg 2 && c1.live then c.seq else t.ctx.stepSeq } }
  (s1.count 0x004 1).spillCharge s.me.id.fn s.me.id.blk (128 * gs.length)

/-- What an issue leads to. -/
inductive Issued where
  | ok (seq : BitVec 32) (s : State)
  | trap (cause : BitVec 8) (info : Word)
  | wait (w : WaitOn)
  | sever (va : Word)      -- the block lies in a see window whose path is lost (R160)

/-- Hand a command over (R248): checks, block read, room, charge, acceptance. -/
def issueCmd (i : Instr) (w : BitVec 128) (base anchor : Word) (s : State) : Issued :=
  match s.refuses w with
  | some c => .trap c (infoWord i)
  | none =>
    let op := (cOp w).toNat
    let blk := anchorLine anchor + lineOff (cBlk w)
    let c0 := newCmd s.me w base blk (s.mill s.me.mill).accn
    match (if blockHead op = 0 then .ok [] s else readBlock s op blk) with
    | .wait x => .wait x
    | .sever va => .sever va
    | .fault s1 cause va =>
      let c : Cmd := { c0 with rawErr := some (cause, va) }
      if s1.hasPlace 0 then .ok c.seq (s1.accept c []) else .wait (.dispatcher 0)
    | .ok bs s1 =>
      let c1 : Cmd := { c0 with raw := bs }
      let fs := footOf ((c1.spans s.me.size (s.me.copyWrites c1.portNo)).getD [])
      if !s1.hasPlace fs.length then .wait (.dispatcher fs.length)
      else
        let gs := if s1.me.eff.det then s1.newCharges fs else []
        if !s1.spillFits s1.me.id.fn s1.me.id.blk (128 * gs.length) then .trap tcBUDGET 3
        else .ok c1.seq (s1.accept { c1 with foot := fs } gs)

/-- SCI (R248): the command in four literal words. -/
def execSci (g : Guard) (d a : BitVec 5) (cmd : BitVec 128) (s : State) : Res :=
  let i := Instr.sci g d a cmd
  gated i g [a] (some d) false s fun s =>
    match issueCmd i cmd (s.src a) s.me.ctx.pc s with
    | .trap c x => .next (s.trapAt c x)
    | .wait w => .next (s.waitOn w)
    | .sever va => .next (s.stopMe tcSEVERED va)
    | .ok q s1 => doneG i s1 [a] d (q.setWidth 64)

/-- SCM (R248): the command in memory. -/
def execScm (g : Guard) (d a : BitVec 5) (s : State) : Res :=
  let i := Instr.scm g d a
  gated i g [a] (some d) false s fun s =>
    let va := s.src a
    match checkAccess s va 16 .load with
    | .trap s1 c => .next (s1.accessTrap c va)
    | .wait w => .next (s.waitOn w)
    | .ok s1 t =>
      if s1.severed t then .next (s1.stopMe tcSEVERED va)
      else
      let (bs, s2) := loadTarget (s1.accessEvent t 16 va false) va t 16
      match issueCmd i (BitVec.ofNat 128 (leNat bs)) 0 va s2 with
      | .trap c x => .next (s.trapAt c x)
      | .wait w => .next (s.waitOn w)
      | .sever x => .next (s.stopMe tcSEVERED x)
      | .ok q s3 => doneG i s3 [a] d (q.setWidth 64)

/-! ## SCW (R249) -/

/-- The commands that SCW waits for: those accepted up to command `n`, or all. -/
def Task.covered (t : Task) (n : BitVec 32) : List Cmd :=
  if (t.ctx.seq - n).toNat < 2 ^ 31 then
    match t.cmds.find? fun c => c.seq == n with
    | some x => t.cmds.filter fun c => c.acc ≤ x.acc
    | none => []
  else t.cmds

/-- A trap of one of the commands that waits for a step boundary is taken before SCW retires (R155, R249). -/
def Ctx.cmdTrap (c : Ctx) (cs : List Cmd) : Option Pending :=
  c.pend.find? fun p => p.origin == 1 && cs.any fun x => x.seq == p.seq

/-- SCW. -/
def execScw (g : Guard) (a : BitVec 5) (s : State) : Res :=
  let i := Instr.scw g a
  gated i g [a] none false s fun s =>
    let n := lo32 (s.src a)
    if n = 0 then done i s [a]
    else
      let cs := s.me.covered n
      match s.me.ctx.cmdTrap cs with
      | some p =>
        .next ((s.mapCtx fun c => { c with pend := c.pend.filter fun x => x != p }).trap
          ⟨p.cause, p.origin, true, p.seq, p.info, s.me.ctx.pc⟩)
      | none =>
        if cs.any Cmd.live then .next (s.waitOn (.scw n))
        else done i (s.mapCtx fun c => { c with clock := cs.foldl (fun m x => max m x.wclk) c.clock }) [a]

end Sys2Proof.Machine
end

