-- ==== Sys2Proof/Machine/Launch.lean ====
section
/-!
DEFINITION. Sys2Proof/Machine/Launch.lean: work blocks: how one ends (R464, R407), LAUNCH (R407), the walk of a tree (R40 to
R43, R378 to R380) and DLAUNCH (R252).
-/

namespace Sys2Proof.Machine

/-! ## The state of a block in memory (R40) -/

/-- STATE codes. -/
def BlkSt.code : BlkSt → Nat
  | .idle => 0
  | .queued => 1
  | .running => 2
  | .done => 3
  | .faulted => 4
  | .severed => 5
  | .refused => 6

/-- The block has ended. -/
def BlkSt.over : BlkSt → Bool
  | .idle | .queued | .running => false
  | _ => true

/-- STATE, CAUSE and RETIRED; and USE. -/
def Blk.words (b : Blk) : Word × Word :=
  (BitVec.ofNat 64 (b.st.code + b.cause.toNat * 2 ^ 8 + b.retired.toNat * 2 ^ 16),
    BitVec.ofNat 64 (b.useStones % 2 ^ 16 + b.usePond % 2 ^ 16 * 2 ^ 16 + b.useFl % 2 ^ 16 * 2 ^ 32))

/-- The block with the pond pages of its subtree counted (R98; DEDUCED, log 99). -/
def State.withPages (s : State) (b : Blk) : Blk := { b with usePond := b.usePond + (s.pondPages b.fn b.addr).length }

/-- Write the fields of a block that hardware writes, where they have changed since they were last written. -/
def State.syncBlk (s : State) (b : Blk) : State :=
  let w := (s.withPages b).words
  if b.shadow == some w then s
  else
    (s.devPut b.fn (b.addr + 0x58) (dbytes w.1 ++ dbytes w.2)).mapBlk b.fn b.addr fun x => { x with shadow := some w }

/-- Every block's fields in memory. -/
def State.sync (s : State) : State := s.blks.foldl State.syncBlk s

/-! ## Ending (R464) -/

/-- Whether a block is its launch's root. -/
def Blk.isRoot (b : Blk) : Bool := b.addr == b.root

/-- The children of a block, in child order. -/
def State.children (s : State) (b : Blk) : List Blk :=
  sortBy (fun (x y : Blk) => x.order < y.order) (s.blks.filter fun x => x.fn == b.fn && !x.isRoot && x.parent == b.addr)

/-- Own tasks of a block that exist. -/
def Blk.ownTasks (b : Blk) : Nat := if b.isNode then b.eff.tcount.toNat else 0

/-- The ending of a block whose tasks and children have all ended. -/
def State.ending (s : State) (b : Blk) : Option (BlkSt × BitVec 8) :=
  let cs := s.children b
  if b.st.over || b.gone < b.ownTasks || cs.any (fun c => !c.st.over) then none
  else match b.badTask with
    | some (_, c) => some (.faulted, c)
    | none => match cs.find? fun c => c.st != .done with
      | some c => some (.faulted, c.cause)
      | none => some (.done, 0)

/-- A launch has ended: its root leaves the live ones, and vector 1 fires (R407). -/
def State.rootEnded (s : State) (fn : Nat) (root : Word) : State :=
  let f := s.fn fn
  if f.live.contains root then (s.setFn fn { f with live := f.live.erase root }).msix fn 1 else s

/-- Write an ending into a block that has not ended. -/
def State.endBlk (s : State) (fn : Nat) (a : Word) (st : BlkSt) (cause : BitVec 8) : State :=
  match s.blk? fn a with
  | none => s
  | some b =>
    if b.st.over then s
    else
      let s1 := s.mapBlk fn a fun x => { x with st := st, cause := cause, pages := [] }
      if b.isRoot then s1.rootEnded fn a else s1

/-- End the blocks of one level whose tasks and children have ended. -/
def State.settleLevel (s : State) (level : Nat) : State :=
  (s.blks.filter fun b => b.level == level && !b.st.over).foldl (fun (st : State) b =>
    match st.ending b with
    | some (x, c) => st.endBlk b.fn b.addr x c
    | none => st) s

/-- End every block whose tasks and children have ended, from the leaves up. -/
def State.settle (s : State) : State := [7, 6, 5, 4, 3, 2, 1, 0].foldl State.settleLevel s

/-! ## Blocks as the walk reads them (R40, R41) -/

/-- A field of a block: byte offset, low bit, length. -/
def bField (bs : List Byte) (o lo len : Nat) : Nat := bitsAt (dword bs o) lo len

/-- A field group the block sets itself. -/
def setsGroup (par : Option (Word × Nat × Eff)) (bs : List Byte) (i : Nat) : Bool :=
  par.isNone || bitAt (dword bs 0) (16 + i)

/-- The effective fields (R41). -/
def effOf (par : Option (Word × Nat × Eff)) (bs : List Byte) : Eff :=
  let p : Eff := match par with
    | some x => x.2.2
    | none => .zero
  let g (i : Nat) : Bool := setsGroup par bs i
  let inh32 (v w : BitVec 32) : BitVec 32 := if v = 0 then w else v
  { stones := if g 0 then bField bs 0x20 0 16 else p.stones
    pond := if g 1 then bField bs 0x20 16 16 else p.pond
    flslots := if g 2 then bField bs 0x20 32 16 else p.flslots
    spill := if g 3 then bField bs 0x28 0 32 else p.spill
    adepth := if g 4 then bField bs 0x28 32 8 else p.adepth
    prio := if g 5 then BitVec.ofNat 3 (bField bs 0x30 0 3) else p.prio
    age := if g 6 then BitVec.ofNat 4 (bField bs 0x30 4 4) else p.age
    det := if g 7 then bitAt (dword bs 0x30) 9 else p.det
    seed := if g 7 then dword bs 0x38 else p.seed
    cmills := if g 7 then bField bs 0x40 0 16 else p.cmills
    wdog := if g 8 then bField bs 0x40 16 16 else p.wdog
    vf := if g 9 then BitVec.ofNat 8 (bField bs 0x30 16 8) else p.vf
    world := if g 9 then bitAt (dword bs 0x30) 24 else p.world
    key := if g 9 then BitVec.ofNat 7 (bField bs 0x30 32 7) else p.key
    khdr := if dword bs 0x48 = 0 then p.khdr else dword bs 0x48
    tbase := inh32 (word4 bs 0x50) p.tbase
    tcount := inh32 (word4 bs 0x54) p.tcount }

/-- A reserved field is nonzero. -/
def blkReserved (bs : List Byte) : Bool :=
  bField bs 0 5 11 != 0 || bField bs 0 26 38 != 0 || bField bs 0x20 48 16 != 0 || bField bs 0x28 40 24 != 0 ||
  bField bs 0x30 3 1 != 0 || bField bs 0x30 10 6 != 0 || bField bs 0x30 25 7 != 0 || bField bs 0x30 39 25 != 0 ||
  bField bs 0x40 32 32 != 0 || (bs.drop 0x68).any (· != 0)

/-- A nonzero pointer that is not canonical or not 256-byte aligned. -/
def badPointer (p : Word) : Bool := p != 0 && (!canonical p || p.toNat % 256 != 0)

/-- A field the block sets lies outside its range. -/
def blkRange (par : Option (Word × Nat × Eff)) (bs : List Byte) : Bool :=
  let g (i : Nat) : Bool := setsGroup par bs i
  (g 0 && 32768 < bField bs 0x20 0 16) || (g 1 && 8192 < bField bs 0x20 16 16) || (g 4 && bField bs 0x28 32 8 == 0) ||
  (g 9 && 32 < bField bs 0x30 16 8)

/-- The parent's LEVEL plus one, and the parent's address; 0 and 0 for a root. -/
def wantLevel : Option (Word × Nat × Eff) → Nat
  | some p => p.2.1 + 1
  | none => 0
def wantParent : Option (Word × Nat × Eff) → Word
  | some p => p.1
  | none => 0

/-- What a root must also have (R407). -/
def rootOffence (s : State) (fn : Nat) (par : Option (Word × Nat × Eff)) (e : Eff) : Option (BitVec 8) :=
  if par.isSome then none
  else if e.vf.toNat ≠ fn || e.world != (s.fn fn).world then some tcPRIV
  else if !(s.fn fn).kmask.getLsbD e.key.toNat then some tcPROT
  else none

/-- The first condition of R43 that a block meets by itself, in table order; then R407's. -/
def blkOffence (s : State) (fn : Nat) (par : Option (Word × Nat × Eff)) (bs : List Byte) : Option (BitVec 8) :=
  let e := effOf par bs
  let leaf := dword bs 0x10 == 0
  if blkReserved bs then some tcILLOP
  else if par.isSome && bitAt (dword bs 0) 25 then some tcPRIV
  else if bField bs 0 0 2 ≠ 1 then some tcILLOP
  else if bField bs 0 2 3 ≠ wantLevel par then some (if par.isSome then tcILLOP else tcPRIV)
  else if dword bs 8 ≠ wantParent par then some tcILLOP
  else if badPointer (dword bs 0x10) || badPointer (dword bs 0x18) then some tcILLOP
  else if leaf && e.khdr == 0 && e.tcount != 0 then some tcILLOP
  else if blkRange par bs then some tcILLOP
  else if e.det && (e.cmills == 0 || 2048 < e.cmills) then some tcILLOP
  else if e.det && (s.fn fn).mills.length < e.cmills then some tcBUDGET
  else rootOffence s fn par e

/-! ## The walk (R43) -/

/-- A block still to visit: its address, the block whose pointer reached it, its parent with LEVEL and effective fields, and
its place among the parent's children. -/
structure Frame where
  addr   : Word
  holder : Word
  par    : Option (Word × Nat × Eff)
  nth    : Nat
deriving DecidableEq, Repr

/-- The outcome of a walk: the blocks in walk order; or the block to be named and the cause. -/
inductive WalkRes where
  | ok (bs : List Blk) (s : State)
  | refused (named : Word) (cause : BitVec 8) (s : State)
  | wait (w : WaitOn)

/-- The record of a block that the walk has passed. -/
def mkBlk (fn : Nat) (root : Word) (f : Frame) (bs : List Byte) (order : Nat) : Blk :=
  let e := effOf f.par bs
  { fn := fn, addr := f.addr, root := root, parent := wantParent f.par, level := wantLevel f.par, order := order, eff := e
    isNode := dword bs 0x48 != 0 || (dword bs 0x10 == 0 && e.khdr != 0)
    fd := bitAt (dword bs 0x30) 8 || f.par.isNone
    gone := 0, st := .idle, cause := 0, retired := 0, useStones := 0, usePond := 0, useFl := 0, spillB := 0, badTask := none
    pages := [], sigs := [], hdr := none, started := false, acks := [], cut := [], shadow := none }

/-- Visit blocks: each before its children, its children before its next sibling. A 257th child is its parent's offence;
a read that fails, that of the block whose pointer reached it. The SIBLING of the walk's own root is checked and not followed, which
the spec leaves open (DESIGN CHOICE, log 108). -/
def walkTree (rd : State → Word → BlockRead) (fn : Nat) (root : Word) : Nat → List Frame → List Blk → State → WalkRes
  | 0, _, acc, s => .ok acc s
  | _ + 1, [], acc, s => .ok acc s
  | n + 1, f :: rest, acc, s =>
    if 256 ≤ f.nth then .refused (wantParent f.par) tcILLOP s
    else match rd s f.addr with
      | .wait w => .wait w
      | .fault s1 c _ => .refused f.holder c s1
      | .sever _ => .refused f.holder tcSEVERED s
      | .ok bs s1 =>
        match blkOffence s1 fn f.par bs with
        | some c => .refused f.addr c s1
        | none =>
          let b := mkBlk fn root f bs acc.length
          let sib : List Frame := if dword bs 0x18 = 0 || f.addr = root then [] else [⟨dword bs 0x18, f.addr, f.par, f.nth + 1⟩]
          let kid : List Frame := if dword bs 0x10 = 0 then [] else [⟨dword bs 0x10, f.addr, some (f.addr, b.level, b.eff), 0⟩]
          walkTree rd fn root n (kid ++ sib ++ rest) (acc ++ [b]) s1

/-- Steps that no walk exceeds: 256 children a block over seven levels. -/
def walkFuel : Nat := 2 ^ 60

/-- The device's read of a block (R407, R466). -/
def devBlock (fn : Nat) (s : State) (a : Word) : BlockRead :=
  match devRead s fn a 256 with
  | .ok bs => .ok bs s
  | .error (c, v) => .fault s c v

/-- Write STATE REFUSED and a cause into a block in memory. -/
def State.refuseBlk (s : State) (fn : Nat) (a : Word) (cause : BitVec 8) : State :=
  s.devPut fn (a + 0x58) (leBytes 8 (BlkSt.refused.code + cause.toNat * 2 ^ 8))

/-! ## Queues (R378 to R380) -/

/-- The dies of a launch's cut; none: uncut. -/
def cutDies (fn : Nat) (root : Word) : List Nat :=
  let m := Config.launchCut fn root
  let l := (List.range Config.dies).filter fun d => m.getLsbD d
  if l.length ≤ 1 then [] else l

/-- The die of a node block: the cut's, or that of canonical mill 0 (R379). -/
def State.blkDie (s : State) (b : Blk) : Nat :=
  match b.cut with
  | [] => dieOf ((s.fn b.fn).mills.headD 0)
  | d :: _ =>
    let n := (Config.nodeDie b.fn b.root b.addr).toNat
    if b.cut.contains n then n else d

/-- Entries of a die at a priority. -/
def Die.count (d : Die) (p : BitVec 3) : Nat := (d.queue.filter fun e => e.prio == p).length

/-- The node blocks that enter a queue. -/
def queued (bs : List Blk) : List Blk := bs.filter fun b => b.isNode && b.eff.tcount != 0

/-- Enter an entry into a die's queue. -/
def State.enqueue (s : State) (d : Nat) (e : QEntry) : State :=
  let x := s.die d
  s.setDie d { x with queue := x.queue ++ [e] }

/-- The node blocks of a function that its walk has passed and not yet entered into a queue, in walk order (R378, R380); none of a subtree
that has ended. -/
def State.unentered (s : State) (fn : Nat) : List Blk :=
  sortBy (fun (x y : Blk) => x.order < y.order) ((queued s.blks).filter fun b => b.fn == fn && b.st == .idle &&
    !(s.lineage fn b.addr).any fun x => x.st.over)

/-- Enter blocks in order, up to the first whose queue is full: there the walk stalls (R380). -/
def State.enterBlks : List Blk → State → State
  | [], s => s
  | b :: rest, s =>
    let d := s.blkDie b
    if 4096 ≤ (s.die d).count b.eff.prio then s
    else State.enterBlks rest ((s.enqueue d
      ⟨b.fn, b.addr, b.eff.tbase, b.eff.tbase + b.eff.tcount, b.eff.prio, b.eff.age, s.time⟩).mapBlk b.fn b.addr fun x =>
        { x with st := .queued })

/-- A walk of a function that finds its queue full stalls until an entry leaves; the next one waits behind it (R380). -/
def State.walkStalls (s : State) (fn : Nat) (bs : List Blk) : Bool :=
  !(s.unentered fn).isEmpty || (match queued bs with
    | [] => false
    | b :: _ => 4096 ≤ (s.die (s.blkDie b)).count b.eff.prio)

/-- Enter the blocks of a walk: the device holds them in place of those of an earlier launch and their channels, words on their way
apart, its node blocks queue as far as there is room, and what has no tasks may end. Task indices count modulo 2^32 in an entry, where
TBASE + TCOUNT is larger (the spec gives that no meaning; DESIGN CHOICE, log 107). -/
def State.enterTree (s : State) (fn : Nat) (bs : List Blk) : State :=
  let mine (fn : Nat) (a : Word) : Bool := bs.any fun b => b.fn == fn && b.addr == a
  let old (t : Task) : Bool := (t.st == .ended || t.st == .killed) && mine t.id.fn t.id.blk
  let s1 : State := { s with
    blks := (s.blks.filter fun x => !mine x.fn x.addr) ++ bs
    chans := s.chans.filter fun c => !mine c.fn c.blk || (c.locend && !(c.wire.isEmpty && c.msgWire.isEmpty))
    groups := s.groups.filter fun g => !mine g.fn g.blk
    me := if old s.me then .idle else s.me
    tasks := s.tasks.filter fun t => !old t }
  (State.enterBlks (s1.unentered fn) s1).settle

/-! ## LAUNCH and the walk of a launch (R407) -/

/-- LAUNCH: a write of `w` to the register of function `fn`. -/
def execLaunch (s : State) : Res :=
  let n := s.cur.arg.fn
  let f := s.fn n
  let a := s.cur.arg.w
  .next (s.setFn n (
    if !canonical a || a.toNat % 256 ≠ 0 then { f with lcode := 1 }
    else if 64 ≤ f.launches.length then { f with lcode := 2 }
    else { f with lcode := 0, launches := f.launches ++ [a] }))

/-- The replay of a root that is refused ends with CODE 4 (R437). -/
def State.replayRefused (s : State) (fn : Nat) (root : Word) : State :=
  let f := s.fn fn
  if f.rpbusy && f.rproot == root then s.setFn fn { f with rpbusy := false, rpcode := 4 } else s

/-- A refused launch: the named block and the root take REFUSED, and vector 1 fires. -/
def State.refuseLaunch (s : State) (fn : Nat) (root named : Word) (cause : BitVec 8) : State :=
  let s1 := s.refuseBlk fn named cause
  ((if named = root then s1 else s1.refuseBlk fn root cause).msix fn 1).replayRefused fn root

/-- WORK_BLOCK_WALK: the walk of function `fn` goes on where a full queue has stalled it (R380); else the oldest queued launch is
walked. -/
def execWorkBlockWalk (s : State) : Res :=
  let n := s.cur.arg.fn
  let f := s.fn n
  if !(s.unentered n).isEmpty then .next (State.enterBlks (s.unentered n) s)
  else match f.launches with
  | [] => .next s
  | root :: rest =>
    let s1 := s.setFn n { f with launches := rest }
    match devRead s n root 256 with
    | .error (c, _) => .next (((s1.devFault n c root).msix n 1).replayRefused n root)
    | .ok _ =>
      match walkTree (devBlock n) n root walkFuel [⟨root, root, none, 0⟩] [] s1 with
      | .wait _ => .next s
      | .refused named c s2 => .next (s2.refuseLaunch n root named c)
      | .ok bs s2 =>
        let cut := cutDies n root
        let bs := bs.map fun b => { b with cut := cut, started := cut.isEmpty }
        if s2.walkStalls n bs then .next s
        else
          let f2 := s2.fn n
          .next ((s2.setFn n { f2 with live := f2.live ++ [root] }).enterTree n bs)

/-! ## DLAUNCH (R252) -/

/-- The first budget of the new root that exceeds the caller's. -/
def overBudget (e : Eff) (bs : List Byte) : Option Nat :=
  let x : List (Nat × Nat) := [(bField bs 0x20 0 16, e.stones), (bField bs 0x20 16 16, e.pond), (bField bs 0x20 32 16, e.flslots),
    (bField bs 0x28 0 32, e.spill), (bField bs 0x28 32 8, e.adepth)]
  (List.range 5).find? fun i => bitAt (dword bs 0) (16 + i) && (x.getD i (0, 0)).2 < (x.getD i (0, 0)).1

/-- The last child of a block in memory: the address of the pointer to fill, with the number of children before it. -/
def lastPointer (fn : Nat) (s : State) : Nat → Word → Nat → Option (Word × Nat)
  | 0, _, _ => none
  | n + 1, p, k =>
    match devRead8 s fn p with
    | .error _ => none
    | .ok v => if v = 0 then some (p, k) else lastPointer fn s n (v + 0x18) (k + 1)

/-- Link a block as the last child of the acting task's node block, by a write of the launch (R438), and walk its subtree: the cause of
a refusal, or none. `rd` reads blocks. Where a queue is full as the walk begins, it stalls: the instruction waits with it, as `wait` says
(DEDUCED, log 113), or its node blocks wait to enter. -/
def State.linkTree (s : State) (rd : State → Word → BlockRead) (wait : Bool) (a : Word) : Except WaitOn (Option (BitVec 8) × State) :=
  let fn := s.me.id.fn
  match s.node with
  | none => .ok (some tcILLOP, s.refuseBlk fn a tcILLOP)
  | some nd =>
    match lastPointer fn s 258 (nd.addr + 0x10) 0 with
    | none => .ok (some tcILLOP, s.refuseBlk fn a tcILLOP)
    | some (p, k) =>
      if 256 ≤ k then .ok (some tcILLOP, s.refuseBlk fn a tcILLOP)
      else match walkTree rd fn a walkFuel [⟨a, a, some (nd.addr, nd.level, nd.eff), k⟩] [] s with
        | .wait w => .error w
        | .refused named c s1 =>
          let s2 := (s1.blkPut fn nd.addr p (dbytes a)).refuseBlk fn named c
          .ok (some c, if named = a then s2 else s2.refuseBlk fn a c)
        | .ok bs s1 =>
          let base := s1.blks.foldl (fun m b => if b.fn == fn then max m (b.order + 1) else m) 0
          let bs := bs.map fun b => { b with root := nd.root, order := base + b.order, cut := nd.cut, started := nd.started, fd := b.fd }
          if wait && s1.walkStalls fn bs then .error .queueRoom
          else .ok (none, (s1.blkPut fn nd.addr p (dbytes a)).enterTree fn bs)

/-- The block read of DLAUNCH: an ordinary load of the acting context. -/
def taskBlock (s : State) (a : Word) : BlockRead := ordinaryRead s a 256

/-- DLAUNCH. -/
def execDlaunch (g : Guard) (d a : BitVec 5) (s : State) : Res :=
  let i := Instr.dlaunch g d a
  gated i g [a] (some d) false s fun s =>
    let va := s.src a
    if !canonical va then .next (s.trapAt tcPGFLT va)
    else if va.toNat % 256 ≠ 0 then .next (s.trapAt tcALIGN va)
    else match taskBlock s va with
      | .wait w => .next (s.waitOn w)
      | .fault s1 c v => .next (s1.trapAt c v)
      | .sever v => .next (s.stopMe tcSEVERED v)
      | .ok bs s1 =>
        match overBudget s.me.eff bs with
        | some k => .next (s.trapAt tcBUDGET (BitVec.ofNat 64 k))
        | none =>
          if s.me.eff.det then
            doneG i (s1.mapMe fun t => { t with det := { t.det with launches := t.det.launches ++ [va] } }) [a] d 1
          else match s1.linkTree taskBlock true va with
            | .error w => .next (s.waitOn w)
            | .ok (c, s2) => doneG i s2 [a] d (if c.isSome then 6 else 1)

end Sys2Proof.Machine
end

