-- ==== Sys2Proof/Machine/Elements.lean ====
section
/-!
DEFINITION. Sys2Proof/Machine/Elements.lean: the compute and routing operations of the fabric (R302 to R324, R336 to R338),
one firing of the element in focus each.
-/

namespace Sys2Proof.Machine

/-! ## Pulse cells (R302 to R306) -/

/-- The directions of forwarded A and B tokens (R302). -/
def cellFwd (v : FEnv) (o : Opd) : BitVec 4 :=
  match o with
  | .a => if v.bits 2 1 = 1 then BitVec.ofNat 4 (2 ^ v.bits 0 2) else 0
  | .b => if v.bits 5 1 = 1 then BitVec.ofNat 4 (2 ^ v.bits 3 2) else 0
  | .c => 0

/-- A token forwarded in directions; nothing where there are none. -/
def fwdTok (dirs : BitVec 4) (t : Tok) : List OutTok := if dirs = 0 then [] else [⟨t, dirs, false, false⟩]

/-- Latch and forward the header at the head of an operand. -/
def cellLatch (v : FEnv) (o : Opd) (f : Fired) : Fired :=
  match f.e.head o with
  | some ⟨.hdr h n, _⟩ => ({ f with e := f.e.latch o h n }.consume v o).emit (fwdTok (cellFwd v o) (.hdr h n))
  | _ => f

/-- A header stands at the head of an operand. -/
def Elem.atHdr (e : Elem) (o : Opd) : Bool :=
  match e.head o with
  | some ⟨.hdr _ _, _⟩ => true
  | _ => false

/-- A control token with an effect stands at the head of an operand. -/
def Elem.ctl? (e : Elem) (o : Opd) : Option Tok :=
  match e.head o with
  | some ⟨.ctl c id, _⟩ => some (.ctl c id)
  | _ => none

/-- Forward a control token from a cell: on each forwarding output, and on the drain output behind what waits there
(R305). -/
def cellForward (v : FEnv) (t : Tok) (f : Fired) : Fired :=
  match t with
  | .ctl _ id =>
    if f.e.forwards id then
      { f with
        e := { f.e.noteId id with queue := f.e.queue ++ [some t] }
        out := f.out ++ fwdTok (cellFwd v .a ||| cellFwd v .b) t }
    else f
  | _ => f

/-- The draining plane has not been drained (R83). -/
def Elem.draining (e : Elem) : Bool := e.queue.contains none

/-- ACCSW at the head of A: the planes are swapped (R83, R305). -/
def cellSwap (v : FEnv) (t : Tok) (f : Fired) : Fired :=
  let f1 := f.consume v .a
  cellForward v t { f1 with
    e := { f1.e with drn := f1.e.acc, acc := f1.e.drn, queue := f1.e.queue ++ [none] }
    evs := f1.evs ++ [(0x013, 1)] }

/-- What a step does to the accumulating plane (R81, R304). -/
def AccPlane.step (p : AccPlane) : Step → AccPlane
  | .poison => { p with steps := p.steps + 1, poison := true }
  | .none => { p with steps := p.steps + 1 }
  | .add f w _ => if h : f < 8 then { p with acc := p.acc.set f (p.acc[f] + w) h, steps := p.steps + 1 } else p

/-- Steps a plane may have taken (R83). -/
def maxSteps : Nat := 65536

/-- Take an atom and forward the token it finishes. -/
def cellTake (v : FEnv) (o : Opd) (fin : Bool) (f : Fired) : Fired :=
  let t := f.e.head o
  let f1 := f.takeAtom v o fin
  match t with
  | some x => if fin then f1.emit (fwdTok (cellFwd v o) x.tok) else f1
  | none => f1

/-- One accumulation step of the next pair; none where a pair is missing or the plane is full. -/
def cellStep (v : FEnv) (mask : Nat) (f : Fired) : Option Fired :=
  if maxSteps ≤ f.e.acc.steps then none
  else match f.e.atom? .a, f.e.atom? .b with
    | some (xa, _, fa), some (xb, _, fb) =>
      let da := atomRead f.e.ia.hdr xa
      let db := atomRead f.e.ib.hdr xb
      let st := pdotStep da db mask v.anc
      let clamp := match st with
        | .add _ _ c => c
        | _ => false
      let f1 := { f with
        e := { f.e with acc := f.e.acc.step st }
        flags := f.flags ||| bool1 (da.bad || db.bad) ||| (bool1 clamp * 8)
        evs := f.evs ++ [(0x011, 1)] }
      some (cellTake v .b fb (cellTake v .a fa f1))
    | _, _ => none

/-- The firing of a pulse cell: a drained value of the chain is forwarded, headers are latched, planes are swapped,
control tokens are forwarded, or one or two steps are taken (R303). With 65,536 steps taken it takes nothing from A or B but the
ACCSW that swaps its planes (R83). -/
def cellFire (two masked : Bool) (v : FEnv) (e : Elem) : Option Fired :=
  let f := fired v e
  let mask := if masked then v.bits 6 8 else 0
  match e.head .c with
  | some ⟨.data x, _⟩ =>
    if e.fwdLeft ≠ 0 && e.out.length < 2 then
      some (({ f with e := { e with fwdLeft := e.fwdLeft - 1 } }.consume v .c).emit [v.outTok (.data x)])
    else main f mask
  | some ⟨.ctl c id, _⟩ => some (cellForward v (.ctl c id) (f.consume v .c))
  | _ => main f mask
where
  main (f : Fired) (mask : Nat) : Option Fired :=
    if maxSteps ≤ e.acc.steps then
      match e.ctl? .a with
      | some (.ctl .accsw id) => if e.draining then none else some (cellSwap v (.ctl .accsw id) f)
      | _ => none
    else if e.atHdr .a || e.atHdr .b then some (cellLatch v .b (cellLatch v .a f))
    else match e.ctl? .a with
      | some (.ctl .accsw id) => if e.draining then none else some (cellSwap v (.ctl .accsw id) f)
      | some t => some (cellForward v t (f.consume v .a))
      | none =>
        match e.ctl? .b with
        | some t => some (cellForward v t (f.consume v .b))
        | none =>
          match cellStep v mask f with
          | none => none
          | some f1 =>
            if !two then some f1
            else match cellStep v mask f1 with
              | some f2 => some f2
              | none => some f1

/-- A control token that waits only for a slot of the drain output leaves (R305). -/
def Elem.unqueue (v : FEnv) (e : Elem) : Option Elem :=
  match e.queue with
  | some t :: rest =>
    if e.emit.isEmpty && e.out.length < 2 then some { e with queue := rest, out := e.out ++ [v.outTok t] } else none
  | _ => none

/-- A pulse cell in focus. -/
def cell (op : Nat) (s : State) : Res :=
  let n := s.cur.elem
  let nl := s.me.lanes
  let fmt := s.me.run.act.chainFmt nl n
  let up := s.me.run.act.upstream nl 2048 n
  if s.me.run.gated then .next s
  else match (s.me.run.elem n).unqueue (s.fenv fmt up) with
    | some e => .next (s.mapRun fun r => r.mapElem n fun _ => e)
    | none => fireWith op s fmt up (cellFire (op == 2) (op == 3))

/-- PDOT (R302 to R306). -/
def execPdot (s : State) : Res := cell 1 s
/-- PDOTS (R303): two steps where a second pair is available. -/
def execPdots (s : State) : Res := cell 2 s
/-- PDOTM (R302, R304): with the cell's MASK. -/
def execPdotm (s : State) : Res := cell 3 s

/-- PLANE_DRAIN (R84, R306): the value of the draining plane, rounded once, goes into an output slot, and the plane is
cleared; the values that reach C belong to the same round. -/
def execPlaneDrain (s : State) : Res :=
  let n := s.cur.elem
  let e := s.me.run.elem n
  let nl := s.me.lanes
  let v := s.fenv (s.me.run.act.chainFmt nl n) (s.me.run.act.upstream nl 2048 n)
  if s.me.run.gated || e.queue.head? ≠ some none || e.fwdLeft ≠ 0 || !e.emit.isEmpty || 2 ≤ e.out.length then .next s
  else
    let x := drainValue e.drn.acc.toList e.drn.poison (drainFmt v.fmt) v.anc
    .next (s.mapRun fun r => r.mapElem n fun e =>
      { e with
        queue := e.queue.drop 1
        drn := .zero
        fwdLeft := v.up
        out := e.out ++ [v.outTok (.data (BitVec.ofNat 64 x))] })

/-! ## ACCSW and DRAIN (R307, R308) -/

/-- Atoms of a data token that the stream still owes. -/
def tokAtoms (i : InState) : Tok → Nat
  | .data _ => if hdrLong i.hdr then 1 else min 2 i.due
  | .lone _ => 1
  | _ => 0

/-- ACCSW's firing (R307): an ACCSW token that arrives restarts the count; an insertion that the burst in passing has earned stays
due. -/
def accswFire (v : FEnv) (e : Elem) : Option Fired :=
  let f := fired v e
  match e.head .a with
  | none => none
  | some ⟨.hdr h n, _⟩ => some (({ f with e := e.latch .a h n }.consume v .a).emit [v.outTok (.hdr h n)])
  | some ⟨.ctl c id, _⟩ =>
    let e1 := if c == .accsw then { e with cnt := 0 } else e
    some (takeCtl v .a (.ctl c id) { f with e := e1 })
  | some ⟨t, _⟩ =>
    let k := tokAtoms e.ia t
    let reached := e.ends || v.param ≤ e.cnt + k
    let due := e.ia.due - k
    let f1 := ({ f with e := e.setInp .a { e.ia with due := due } }.consume v .a).emit [v.outTok t]
    if reached && due = 0 then
      let id := v.ident + 1
      some { f1 with
        e := { f1.e.noteId id with cnt := 0, ends := false }
        out := f1.out ++ [v.outTok (.ctl .accsw id)]
        ident := id }
    else some { f1 with e := { f1.e with cnt := e.cnt + k, ends := reached } }

/-- ACCSW (R307), behind the re-latch tokens that are numbered before its own (R293). -/
def execAccsw (s : State) : Res := fireWith 4 (s.flushRelatch (64 + s.cur.elem)) 0 0 accswFire

/-- DRAIN's firing (R308): values packed into words, control tokens held to the end of the round. -/
def drainFire (v : FEnv) (e : Elem) : Option Fired :=
  let f := fired v e
  let fmt := v.fmt
  match e.head .a with
  | none => none
  | some ⟨.ctl c id, _⟩ =>
    if e.cnt = 0 then some (takeCtl v .a (.ctl c id) f)
    else some ({ f with e := { e with queue := e.queue ++ [some (Tok.ctl c id)] } }.consume v .a)
  | some ⟨t, _⟩ =>
    let x := match t with
      | .data y => y.toNat
      | .lone y => y.toNat
      | _ => 0
    let n := e.cnt + 1
    let last := v.param / 4 ≤ n
    let f1 := f.consume v .a
    let f2 :=
      if fmt = 0 then f1.emit [v.outTok (.data (BitVec.ofNat 64 (x % 2 ^ 32)))]
      else match e.stage with
        | [] =>
          if last then f1.emit [v.outTok (.data (BitVec.ofNat 64 (x % 2 ^ 16)))]
          else { f1 with e := { f1.e with stage := [BitVec.ofNat 64 (x % 2 ^ 16)] } }
        | y :: _ =>
          ({ f1 with e := { f1.e with stage := [] } } : Fired).emit
            [v.outTok (.data (BitVec.ofNat 64 (y.toNat + x % 2 ^ 16 * 2 ^ 16)))]
    if last then
      let held := e.queue.filterMap id
      some (held.foldl (fun (g : Fired) t => g.forward t fun y => [v.outTok y])
        { f2 with e := { f2.e with cnt := 0, queue := [] } })
    else some { f2 with e := { f2.e with cnt := n } }

/-- DRAIN (R308). -/
def execDrain (s : State) : Res := fireWith 5 s (s.cur.w.param.toNat % 4) 0 drainFire

/-! ## ENC, DEC, PADD (R309 to R313) -/

/-- ENC's firing: one word into the partial atom; the eighth encodes it. -/
def encFire (v : FEnv) (e : Elem) : Option Fired :=
  let f := fired v e
  let ovr := v.bits 31 1 == 1
  match e.head .a with
  | none => none
  | some ⟨.ctl c id, _⟩ => some (takeCtl v .a (Tok.ctl c id) (f.flushBurst v ovr))
  | some ⟨.data x, _⟩ => some ((f.consume v .a).collectVal v ovr (v.bits 0 16) (v.bits 16 15) (x.toNat % 2 ^ 32))
  | some _ => some (f.consume v .a)

/-- ENC (R311). -/
def execEnc (s : State) : Res := fireWith 0x08 s 0 0 encFire

/-- Latch a header that the element consumes. -/
def latchOnly (v : FEnv) (o : Opd) (f : Fired) : Fired :=
  match f.e.head o with
  | some ⟨.hdr h n, _⟩ => { f with e := f.e.latch o h n }.consume v o
  | _ => f

/-- DEC's firing: one atom, eight words. -/
def decFire (v : FEnv) (e : Elem) : Option Fired :=
  let f := fired v e
  if e.atHdr .a then some (latchOnly v .a f)
  else match e.ctl? .a with
    | some t => some (takeCtl v .a t f)
    | none =>
      match e.atom? .a with
      | none => none
      | some (a, _, fin) =>
        let d := atomRead e.ia.hdr a
        some (({ f with flags := bool1 d.bad }.takeAtom v .a fin).emit
          ((atomDecode d).map fun x => v.outTok (.data (BitVec.ofNat 64 x))))

/-- DEC (R312). -/
def execDec (s : State) : Res := fireWith 0x09 s 0 0 decFire

/-- PADD's firing: a pair of atoms. -/
def paddFire (v : FEnv) (e : Elem) : Option Fired :=
  let f := fired v e
  let ovr := v.bits 31 1 == 1
  if e.atHdr .a || e.atHdr .b then some (latchOnly v .b (latchOnly v .a f))
  else match e.ctl? .a with
    | some t => some (takeCtl v .a t (f.flushBurst v ovr))
    | none =>
      match e.ctl? .b with
      | some t => some (takeCtl v .b t (f.flushBurst v ovr))
      | none =>
        match e.atom? .a, e.atom? .b with
        | some (xa, _, fa), some (xb, _, fb) =>
          let da := atomRead e.ia.hdr xa
          let db := atomRead e.ib.hdr xb
          let z := ((atomDecode da).zip (atomDecode db)).map fun x => (fp32.add (fp32.read x.1) (fp32.read x.2)).1
          let f1 := ({ f with flags := bool1 (da.bad || db.bad) }.takeAtom v .a fa).takeAtom v .b fb
          some (f1.collect v ovr (v.bits 0 16) (v.bits 16 15) (encodeAtom z (outK v ovr) (outLong v ovr)))
        | _, _ => none

/-- PADD (R313). -/
def execPadd (s : State) : Res := fireWith 0x0A s 0 0 paddFire

/-! ## PSCL, PNEG, PMSK (R314, R315) -/

/-- Rewrite one atom per firing, keeping the burst structure; a packed pair takes two firings. -/
def rewriteFire (g : BitVec 32 → Nat → Nat × Nat) (v : FEnv) (e : Elem) : Option Fired :=
  let f := fired v e
  match e.head .a with
  | none => none
  | some ⟨.hdr h n, _⟩ => some (({ f with e := e.latch .a h n }.consume v .a).emit [v.outTok (.hdr h n)])
  | some ⟨.ctl c id, _⟩ => some (takeCtl v .a (.ctl c id) f)
  | some ⟨.lone x, _⟩ =>
    let (y, fl) := g e.ia.hdr (x.toNat % 2 ^ 16)
    some (({ f with flags := fl }.takeAtom v .a true).emit [v.outTok (.lone (BitVec.ofNat 64 y))])
  | some ⟨.data x, _⟩ =>
    match e.atom? .a with
    | none => none
    | some (a, _, fin) =>
      let (y, fl) := g e.ia.hdr a
      let f1 := { f with flags := fl }.takeAtom v .a fin
      if hdrLong e.ia.hdr then some (f1.emit [v.outTok (.data (setBits x 0 32 y))])
      else if e.ia.half then
        some (({ f1 with e := { f1.e with stage := [] } } : Fired).emit
          [v.outTok (.data (BitVec.ofNat 64 ((e.stage.headD 0).toNat + y * 2 ^ 16)))])
      else if fin then some (f1.emit [v.outTok (.data (setBits x 0 16 y))])
      else some { f1 with e := { f1.e with stage := [BitVec.ofNat 64 y] } }

/-- PSCL (R314, R85). -/
def execPscl (s : State) : Res := fireWith 0x0B s 0 0 fun v => rewriteFire (fun h a => psclAtom h (signed 32 v.param) a) v
/-- PNEG (R314, R85). -/
def execPneg (s : State) : Res := fireWith 0x0C s 0 0 fun v => rewriteFire pnegAtom v

/-- An atom written canonically (R57, R85): PMSK with mask 0. One that is canonical passes unchanged, whatever its burst's S. -/
def canonAtom (h : BitVec 32) (a : Nat) : Nat × Nat :=
  if atomCanonical h a then (a, 0)
  else match atomRead h a with
    | .poison => (mkAtom (hdrLong h) (poisonCode (hdrLong h)) 0, 0)
    | .zero bad => (0, bool1 bad)
    | .live _ _ => (a, 0)

/-- The result of masking an atom (R85). -/
def maskAtom (v : FEnv) (ovr : Bool) (mask : Nat) (d : AtomV) : Enc :=
  let xs := (List.range 8).zip (atomDecode d) |>.map fun x => if mask / 2 ^ x.1 % 2 = 1 then 0 else x.2
  match d with
  | .poison => none
  | _ => encodeAtom xs (outK v ovr) (outLong v ovr)

/-- The burst of an input burst's results: its own S, the input's L and LAST; then the control tokens held behind it. -/
def Fired.maskBurst (f : Fired) (v : FEnv) (ovr : Bool) : Fired :=
  let h := f.e.ia.hdr
  let long := outLong v ovr
  let k := outK v ovr
  let (s, atoms, fl) := burstWrite long k f.e.pats
  let held := f.e.queue.filterMap id
  let f1 := { f with
    e := { f.e with pats := [], queue := [] }
    out := f.out ++ v.outTok (.hdr (mkHdr s (hdrL h) (hdrLast h) long k) atoms.length) ::
      (packAtoms long atoms).map fun x => v.outTok (.data (x.setWidth 64))
    flags := f.flags ||| fl }
  held.foldl (fun (g : Fired) t => g.forward t fun y => [v.outTok y]) f1

/-- PMSK's firing (R315). With mask 0 and OVR 1 R85 passes canonical atoms, which R315 says for OVR 0 only: the model decodes and
encodes them again at the output's width and K (DESIGN CHOICE, log 105). -/
def pmskFire (v : FEnv) (e : Elem) : Option Fired :=
  let mask := v.bits 0 8
  let ovr := v.bits 8 1 == 1
  if mask = 0 && !ovr then rewriteFire canonAtom v e
  else
    let f := fired v e
    match e.head .a with
    | none => none
    | some ⟨.hdr h n, _⟩ =>
      let f1 := { f with e := e.latch .a h n }.consume v .a
      some (if n = 0 then f1.maskBurst v ovr else f1)
    | some ⟨.ctl c id, _⟩ =>
      if e.ia.due = 0 then some (takeCtl v .a (.ctl c id) f)
      else some ({ f with e := { e with queue := e.queue ++ [some (Tok.ctl c id)] } }.consume v .a)
    | some _ =>
      match e.atom? .a with
      | none => none
      | some (a, _, fin) =>
        let d := atomRead e.ia.hdr a
        let f1 := { f with flags := bool1 d.bad }.takeAtom v .a fin
        let f2 := { f1 with e := { f1.e with pats := f1.e.pats ++ [maskAtom v ovr mask d] } }
        some (if f2.e.ia.due = 0 then f2.maskBurst v ovr else f2)

/-- PMSK (R315). -/
def execPmsk (s : State) : Res := fireWith 0x0D s 0 0 pmskFire

/-! ## Element-wise operations (R317, R318) -/

/-- +1.0. -/
def fpOne : Nat := 0x3F800000

/-- A pattern with every NaN canonical (R86). -/
def canonNan (x : Nat) : Nat := if (fp32.read x).isNan then fp32.nanBits else x

/-- The result of an element-wise operation (R318). The elements of a poison atom are NaN, and each result follows R318, that of
EMIN, EMAX, ECMP and ESEL as well, though R85 gives a poison output for a poison input (DESIGN CHOICE, log 104). -/
def elementOp (op cond a b c : Nat) : Nat :=
  let x := fp32.read a
  let y := fp32.read b
  match op with
  | 0x10 => (fp32.add x y).1
  | 0x11 => (fp32.sub x y).1
  | 0x12 => (fp32.mul x y).1
  | 0x13 => (fp32.fma x y (fp32.read c)).1
  | 0x14 => canonNan (fp32.minMax false a b).1
  | 0x15 => canonNan (fp32.minMax true a b).1
  | 0x16 =>
    let r := match cond with
      | 0 => x.eq y
      | 1 => x.lt y
      | 2 => x.lt y || x.eq y
      | _ => x.isNan || y.isNan
    if r then fpOne else 0
  | 0x17 => canonNan (if c % 2 ^ 31 = 0 then b else a)
  | 0x18 => fp32Exp2 x
  | 0x19 => fp32Log2 x
  | 0x1A => fp32Rcp x
  | _ => fp32Rsq x

/-- The operands an operation uses. -/
def elementOpds (op : Nat) : List Opd :=
  if 0x18 ≤ op then [.a] else if op = 0x13 || op = 0x17 then [.a, .b, .c] else [.a, .b]

/-- The operand is an atom stream (AAT, BAT, CAT). -/
def opdAtoms (v : FEnv) : Opd → Bool
  | .a => v.bits 0 1 == 1
  | .b => v.bits 1 1 == 1
  | .c => v.bits 2 1 == 1

/-- One element: the next value of each operand, and the result collected or emitted. -/
def elementOne (op : Nat) (v : FEnv) (f : Fired) : Option Fired :=
  let os := elementOpds op
  let get (o : Opd) : Option (Nat × Nat) := if os.contains o then f.e.value? o (opdAtoms v o) else some (0, 0)
  match get .a, get .b, get .c with
  | some (a, fa), some (b, fb), some (c, fc) =>
    let r := elementOp op (v.bits 5 3) a b c
    let f1 := os.foldl (fun (g : Fired) o => g.takeValue v o (opdAtoms v o))
      { f with flags := f.flags ||| fa ||| fb ||| fc }
    some (if v.bits 3 1 = 1 then f1.collectVal v (v.bits 4 1 == 1) (v.bits 8 16) (v.bits 24 8) r
      else f1.emit [v.outTok (.data (BitVec.ofNat 64 r))])
  | _, _, _ => none

/-- Up to `n` elements. -/
def elementMany (op : Nat) (v : FEnv) : Nat → Fired → Fired
  | 0, f => f
  | n + 1, f => match elementOne op v f with
    | some g => elementMany op v n g
    | none => f

/-- The firing of an element-wise operation: headers are latched, control tokens flush and pass, else one element, or the
eight of an atom where every operand is an atom stream (R316). -/
def elementFire (op : Nat) (v : FEnv) (e : Elem) : Option Fired :=
  let f := fired v e
  let os := elementOpds op
  if os.any e.atHdr then some (os.foldl (fun (g : Fired) o => latchOnly v o g) f)
  else match os.find? fun o => (e.ctl? o).isSome with
    | some o => match e.ctl? o with
      | some t => some (takeCtl v o t (if v.bits 3 1 = 1 then f.flushBurst v (v.bits 4 1 == 1) else f))
      | none => none
    | none =>
      match elementOne op v f with
      | none => none
      | some g => if os.all (opdAtoms v) then some (elementMany op v 7 g) else some g

/-- EADD (R318). -/
def execEadd (s : State) : Res := fireWith 0x10 s 0 0 (elementFire 0x10)
/-- ESUB (R318). -/
def execEsub (s : State) : Res := fireWith 0x11 s 0 0 (elementFire 0x11)
/-- EMUL (R318). -/
def execEmul (s : State) : Res := fireWith 0x12 s 0 0 (elementFire 0x12)
/-- EFMA (R318): one rounding. -/
def execEfma (s : State) : Res := fireWith 0x13 s 0 0 (elementFire 0x13)
/-- EMIN (R318). -/
def execEmin (s : State) : Res := fireWith 0x14 s 0 0 (elementFire 0x14)
/-- EMAX (R318). -/
def execEmax (s : State) : Res := fireWith 0x15 s 0 0 (elementFire 0x15)
/-- ECMP (R318). -/
def execEcmp (s : State) : Res := fireWith 0x16 s 0 0 (elementFire 0x16)
/-- ESEL (R318). -/
def execEsel (s : State) : Res := fireWith 0x17 s 0 0 (elementFire 0x17)
/-- EEXP2 (R318). -/
def execEexp2 (s : State) : Res := fireWith 0x18 s 0 0 (elementFire 0x18)
/-- ELOG2 (R318). -/
def execElog2 (s : State) : Res := fireWith 0x19 s 0 0 (elementFire 0x19)
/-- ERCP (R318). -/
def execErcp (s : State) : Res := fireWith 0x1A s 0 0 (elementFire 0x1A)
/-- ERSQ (R318). -/
def execErsq (s : State) : Res := fireWith 0x1B s 0 0 (elementFire 0x1B)

/-! ## Conversions (R319, R72, R73) -/

/-- The decoded formats by the low four bits of EOP: 0 BF16, 1 FP16, 2 E4M3, 3 E5M2, 4 INT8, 5 I4S. -/
def cvtWidth (f : Nat) : Nat := if f ≤ 1 then 16 else if f ≤ 4 then 8 else 4

/-- FP32 to a decoded format (R73). -/
def toFormat (f x : Nat) : Nat :=
  let y := fp32.read x
  match f with
  | 0 => (bf16.convert y).1
  | 1 => (fp16.convert y).1
  | 2 => (e4m3.convert y).1
  | 3 => (e5m2.convert y).1
  | 4 => ((toIntRne y (-128) 127).emod 256).toNat
  | _ => ((toIntRne y (-7) 7).emod 16).toNat

/-- A decoded format to FP32, and whether a reserved I4S code was read (R72, R73). -/
def fromFormat (f x : Nat) : Nat × Bool :=
  match f with
  | 0 => ((fp32.convert (bf16.read x)).1, false)
  | 1 => ((fp32.convert (fp16.read x)).1, false)
  | 2 => ((fp32.convert (e4m3.read x)).1, false)
  | 3 => ((fp32.convert (e5m2.read x)).1, false)
  | 4 => ((fp32.ofInt (signed 8 x)).1, false)
  | _ => if x = 8 then (0, true) else ((fp32.ofInt (signed 4 x)).1, false)

/-- Codes packed into a word, the earlier in the lower bits. -/
def packCodes (w : Nat) : List Word → Nat
  | [] => 0
  | x :: xs => x.toNat + 2 ^ w * packCodes w xs

/-- Emit the partial word, padded with zero codes. -/
def Fired.flushWord (f : Fired) (v : FEnv) (w : Nat) : Fired :=
  if f.e.stage.isEmpty then f
  else { f with e := { f.e with stage := [] }, out := f.out ++ [v.outTok (.data (BitVec.ofNat 64 (packCodes w f.e.stage)))] }

/-- One value converted into the partial word. -/
def cvtOne (f : Nat) (v : FEnv) (g : Fired) : Option Fired :=
  match g.e.value? .a (v.bits 0 1 == 1) with
  | none => none
  | some (x, fl) =>
    let g1 := { g with flags := g.flags ||| fl }.takeValue v .a (v.bits 0 1 == 1)
    let g2 := { g1 with e := { g1.e with stage := g1.e.stage ++ [BitVec.ofNat 64 (toFormat f x)] } }
    some (if 32 ≤ g2.e.stage.length * cvtWidth f then g2.flushWord v (cvtWidth f) else g2)

/-- Up to `n` values. -/
def cvtMany (f : Nat) (v : FEnv) : Nat → Fired → Fired
  | 0, g => g
  | n + 1, g => match cvtOne f v g with
    | some h => cvtMany f v n h
    | none => g

/-- The firing of a conversion from FP32. -/
def cvtToFire (f : Nat) (v : FEnv) (e : Elem) : Option Fired :=
  let g := fired v e
  if e.atHdr .a then some (latchOnly v .a g)
  else match e.ctl? .a with
    | some t => some (takeCtl v .a t (g.flushWord v (cvtWidth f)))
    | none =>
      match cvtOne f v g with
      | none => none
      | some h => if v.bits 0 1 = 1 then some (cvtMany f v 7 h) else some h

/-- The firing of a conversion to FP32: a packed word yields all its values, pads included. -/
def cvtFromFire (f : Nat) (v : FEnv) (e : Elem) : Option Fired :=
  let g := fired v e
  match e.head .a with
  | none => none
  | some ⟨.ctl c id, _⟩ => some (takeCtl v .a (.ctl c id) g)
  | some ⟨.data x, _⟩ =>
    let w := cvtWidth f
    let xs : List (Nat × Bool) := (List.range (32 / w)).map fun i => fromFormat f (x.toNat / 2 ^ (w * i) % 2 ^ w)
    some (({ g with flags := if xs.any (·.2) then 16 else 0 }.consume v .a).emit
      (xs.map fun (y : Nat × Bool) => v.outTok (.data (BitVec.ofNat 64 y.1))))
  | some _ => some (g.consume v .a)

/-- CVT.BF16.FP32 (R319). -/
def execCvtBf16Fp32 (s : State) : Res := fireWith 0x20 s 0 0 (cvtToFire 0)
/-- CVT.FP16.FP32 (R319). -/
def execCvtFp16Fp32 (s : State) : Res := fireWith 0x21 s 0 0 (cvtToFire 1)
/-- CVT.E4M3.FP32 (R319). -/
def execCvtE4m3Fp32 (s : State) : Res := fireWith 0x22 s 0 0 (cvtToFire 2)
/-- CVT.E5M2.FP32 (R319). -/
def execCvtE5m2Fp32 (s : State) : Res := fireWith 0x23 s 0 0 (cvtToFire 3)
/-- CVT.INT8.FP32 (R319). -/
def execCvtInt8Fp32 (s : State) : Res := fireWith 0x24 s 0 0 (cvtToFire 4)
/-- CVT.I4S.FP32 (R319). -/
def execCvtI4sFp32 (s : State) : Res := fireWith 0x25 s 0 0 (cvtToFire 5)
/-- CVT.FP32.BF16 (R319). -/
def execCvtFp32Bf16 (s : State) : Res := fireWith 0x28 s 0 0 (cvtFromFire 0)
/-- CVT.FP32.FP16 (R319). -/
def execCvtFp32Fp16 (s : State) : Res := fireWith 0x29 s 0 0 (cvtFromFire 1)
/-- CVT.FP32.E4M3 (R319). -/
def execCvtFp32E4m3 (s : State) : Res := fireWith 0x2A s 0 0 (cvtFromFire 2)
/-- CVT.FP32.E5M2 (R319). -/
def execCvtFp32E5m2 (s : State) : Res := fireWith 0x2B s 0 0 (cvtFromFire 3)
/-- CVT.FP32.INT8 (R319). -/
def execCvtFp32Int8 (s : State) : Res := fireWith 0x2C s 0 0 (cvtFromFire 4)
/-- CVT.FP32.I4S (R319). -/
def execCvtFp32I4s (s : State) : Res := fireWith 0x2D s 0 0 (cvtFromFire 5)

/-! ## JOIN, MERGE, FILT (R320 to R324) -/

/-- What heads an operand of a JOIN (R322): an atom with its coordinate, or a marker: a control token, or the end of a
tile. -/
inductive JHead where
  | none
  | hdr
  | atom (x c : Nat) (fin : Bool)
  | tile
  | ctl (t : Tok)
deriving DecidableEq, Repr

/-- The head of a JOIN operand. -/
def Elem.jhead (e : Elem) (o : Opd) : JHead :=
  if (e.inp o).mark then .tile
  else if e.atHdr o then .hdr
  else match e.ctl? o with
    | some t => .ctl t
    | none => match e.atom? o with
      | some (x, c, fin) => .atom x c fin
      | none => .none

/-- Take an atom; the last atom of a LAST burst leaves the end of the tile at the head. -/
def Fired.takeTagged (f : Fired) (v : FEnv) (o : Opd) (fin : Bool) : Fired :=
  let f1 := f.takeAtom v o fin
  let i := f1.e.inp o
  if i.due = 0 && hdrLast i.hdr then { f1 with e := f1.e.setInp o { i with mark := true } } else f1

/-- Take a skipped atom (R322): its poison is counted. -/
def Fired.skip (f : Fired) (v : FEnv) (o : Opd) (x : Nat) (fin : Bool) : Fired :=
  let f1 := f.takeTagged v o fin
  if atomRead (f.e.inp o).hdr x == .poison then { f1 with evs := f1.evs ++ [(0x015, 1)] } else f1

/-- The directions of JOIN's outputs: A in DIRS, B in PARAM. -/
def joinA (v : FEnv) (t : Tok) : OutTok := v.outTok t
def joinB (v : FEnv) (t : Tok) : OutTok := dirTok (v.bits 0 2) t

/-- Emit what is staged on both outputs, as equal bursts. -/
def Fired.flushJoin (f : Fired) (v : FEnv) (last : Bool) : Fired :=
  { f with
    out := f.out ++ stageToks (joinA v) f.e.stageHdr f.e.stage last false ++
      stageToks (joinB v) f.e.stageHdrB f.e.stageB last false
    e := { f.e with stage := [], stageB := [] } }

/-- Stage a pair; `last`: with it an input tile ends. -/
def Fired.stagePair (f : Fired) (v : FEnv) (xa xb : Nat) (ha hb : BitVec 32) (last : Bool) : Fired :=
  let f1 := if f.e.stage.isEmpty || (sameBlock ha f.e.stageHdr && sameBlock hb f.e.stageHdrB) then f
    else f.flushJoin v false
  let f2 := { f1 with e := { f1.e with
    stage := f1.e.stage ++ [BitVec.ofNat 64 xa], stageB := f1.e.stageB ++ [BitVec.ofNat 64 xb]
    stageHdr := ha, stageHdrB := hb } }
  if f2.e.stage.length < 16 then f2 else f2.flushJoin v last

/-- Pop a marker. -/
def Fired.popMark (f : Fired) (v : FEnv) (o : Opd) : JHead → Fired
  | .tile => { f with e := f.e.setInp o { f.e.inp o with mark := false } }
  | .ctl t => (f.consume v o).forward t fun x => [joinA v x, joinB v x]
  | _ => f

/-- JOIN's firing (R322): one comparison. -/
def joinFire (v : FEnv) (e : Elem) : Option Fired :=
  let f := fired v e
  match e.jhead .a, e.jhead .b with
  | .hdr, _ => some (latchOnly v .a f)
  | _, .hdr => some (latchOnly v .b f)
  | .atom xa ca fa, .atom xb cb fb =>
    if ca = cb then
      let f1 := (f.takeTagged v .a fa).takeTagged v .b fb
      some (f1.stagePair v xa xb e.ia.hdr e.ib.hdr (f1.e.ia.mark || f1.e.ib.mark))
    else if ca < cb then some (f.skip v .a xa fa)
    else some (f.skip v .b xb fb)
  | .atom xa _ fa, .tile => some (f.skip v .a xa fa)
  | .atom xa _ fa, .ctl _ => some (f.skip v .a xa fa)
  | .tile, .atom xb _ fb => some (f.skip v .b xb fb)
  | .ctl _, .atom xb _ fb => some (f.skip v .b xb fb)
  | .tile, .tile => some (((f.flushJoin v true).popMark v .a .tile).popMark v .b .tile)
  | .tile, .ctl t => some (((f.flushJoin v true).popMark v .a .tile).popMark v .b (.ctl t))
  | .ctl t, .tile => some (((f.flushJoin v true).popMark v .a (.ctl t)).popMark v .b .tile)
  | .ctl t, .ctl u => some (((f.flushJoin v false).popMark v .a (.ctl t)).popMark v .b (.ctl u))
  | _, _ => none

/-- JOIN (R322). -/
def execJoin (s : State) : Res := fireWith 0x30 s 0 0 joinFire

/-- Operand by number. -/
def opdNo : Nat → Opd
  | 0 => .a
  | 1 => .b
  | _ => .c

/-- MERGE mode 0 takes what heads one operand: a control token, a header, or a data token; the lock stays to the end of
a burst. -/
def mergeTake (v : FEnv) (e : Elem) (i : Nat) : Option Fired :=
  let o := opdNo i
  let f := fired v e
  let next := (i + 1) % 3
  match e.head o with
  | none => none
  | some ⟨.ctl c id, _⟩ => some (takeCtl v o (.ctl c id) f)
  | some ⟨.hdr h n, _⟩ =>
    let f1 := ({ f with e := e.latch o h n }.consume v o).emit [v.outTok (.hdr h n)]
    some { f1 with e := { f1.e with lock := if n = 0 then none else some i, turn := next } }
  | some ⟨t, _⟩ =>
    let due := (e.inp o).due - tokAtoms (e.inp o) t
    let f1 := ({ f with e := e.setInp o { e.inp o with due := due } }.consume v o).emit [v.outTok t]
    some { f1 with e := { f1.e with lock := if due = 0 then none else some i, turn := next } }

/-- MERGE mode 0's firing (R323, R66): whole units, round-robin among the inputs that hold one. -/
def merge0Fire (v : FEnv) (e : Elem) : Option Fired :=
  match e.lock with
  | some i => mergeTake v e i
  | none =>
    match [e.turn, (e.turn + 1) % 3, (e.turn + 2) % 3].find? fun i => (e.head (opdNo i)).isSome with
    | some i => mergeTake v e i
    | none => none

/-- Take a tagged atom into the staging, flushing with LAST at the end of a tile (R321). -/
def Fired.takeStaged (f : Fired) (v : FEnv) (o : Opd) (x c : Nat) (fin keep : Bool) : Fired :=
  let h := (f.e.inp o).hdr
  let f1 := f.takeAtom v o fin
  let last := (f1.e.inp o).due == 0 && hdrLast h
  let f2 := if keep then f1.stageOne v h (BitVec.ofNat 64 (c * 2 ^ 32 + x)) last true else f1
  if last then f2.flushStage v true true else f2

/-- MERGE mode 1's firing (R323): the lower coordinate first, A and then B on a tie; a control token waits for one on the other
input, and what is staged leaves when both are there: R321 does not say that the first of them flushes it (DESIGN CHOICE, log 129). -/
def merge1Fire (v : FEnv) (e : Elem) : Option Fired :=
  let f := fired v e
  match e.tie, e.jhead .b with
  | true, .atom xb cb fb => some ({ f with e := { e with tie := false } }.takeStaged v .b xb cb fb true)
  | _, _ => match e.jhead .a, e.jhead .b with
  | .hdr, _ => some (latchOnly v .a f)
  | _, .hdr => some (latchOnly v .b f)
  | .atom xa ca fa, .atom xb cb fb =>
    if ca ≤ cb then some ({ f with e := { e with tie := ca == cb } }.takeStaged v .a xa ca fa true)
    else some (f.takeStaged v .b xb cb fb true)
  | .atom xa ca fa, .ctl _ => some (f.takeStaged v .a xa ca fa true)
  | .ctl _, .atom xb cb fb => some (f.takeStaged v .b xb cb fb true)
  | .ctl t, .ctl u =>
    some (takeCtl v .b u (takeCtl v .a t (f.flushStage v false true)))
  | _, _ => none

/-- MERGE (R323). -/
def execMerge (s : State) : Res :=
  fireWith 0x31 s 0 0 fun v e => if v.bits 0 1 = 0 then merge0Fire v e else merge1Fire v e

/-- FILT keeps an atom (R324). -/
def filtKeeps (v : FEnv) (h : BitVec 32) (x c : Nat) : Bool :=
  match v.bits 0 2 with
  | 0 => !(atomGain (hdrLong h) x == 0 && atomIdx (hdrLong h) x == 0) || hdrS h == 255
  | 1 => c < v.param / 4
  | _ => v.param / 4 ≤ c

/-- FILT's firing (R324). -/
def filtFire (v : FEnv) (e : Elem) : Option Fired :=
  let f := fired v e
  match e.jhead .a with
  | .hdr => some (latchOnly v .a f)
  | .ctl t => some (takeCtl v .a t (f.flushStage v false true))
  | .atom x c fin => some (f.takeStaged v .a x c fin (filtKeeps v e.ia.hdr x c))
  | _ => none

/-- FILT (R324). -/
def execFilt (s : State) : Res := fireWith 0x32 s 0 0 filtFire

/-! ## Routing (R336 to R338) -/

/-- Move the head of A to the output; a control token is forwarded once. -/
def passFire (v : FEnv) (e : Elem) : Option Fired :=
  let f := fired v e
  match e.head .a with
  | none => none
  | some ⟨.ctl c id, _⟩ => some (takeCtl v .a (.ctl c id) f)
  | some ⟨t, _⟩ => some ((f.consume v .a).emit [v.outTok t])

/-- PASS (R336). -/
def execPass (s : State) : Res := fireWith 0x42 s 0 0 passFire

/-- REPL (R337): one firing copies to every direction of DIRS; a copy leaves by each link as that link is free. -/
def execRepl (s : State) : Res := fireWith 0x40 s 0 0 passFire

/-- TOKQ's firing (R338). -/
def tokqFire (v : FEnv) (e : Elem) : Option Fired :=
  let f := fired v e
  match e.head .b with
  | some ⟨.ctl _ _, _⟩ =>
    match e.ctl? .a with
    | some t => some (takeCtl v .a t (f.consume v .b))
    | none => plain f
  | some _ => some (f.consume v .b)
  | none => plain f
where
  plain (f : Fired) : Option Fired :=
    match e.head .a with
    | none => none
    | some ⟨.ctl _ _, _⟩ => none
    | some ⟨t, _⟩ => some ((f.consume v .a).emit [v.outTok t])

/-- TOKQ (R338). -/
def execTokq (s : State) : Res := fireWith 0x41 s 0 0 tokqFire

end Sys2Proof.Machine
end

