-- ==== Sys2Proof/Machine/AddrGen.lean ====
section
/-!
DEFINITION. Sys2Proof/Machine/AddrGen.lean: address-generator elements (R325 to R335): passes, latched pages, and one
iteration of AGLOOP, AGLD, AGST, AGRED and AGGATH.
-/

namespace Sys2Proof.Machine

/-! ## Latched pages (R132, R328) -/

/-- Checks on a leaf and the page, for an element (R90). -/
def latchUse (s : State) (va : Word) (kind : Kind) (pte : Word) (sz : Nat) : Place :=
  if pteWorld pte != s.me.eff.world then .trap s tcPROT else placePage s va 1 kind pte sz

/-- The place of an address for an address generator: through the page it has latched, which a first touch latches. -/
def latchPlace (e : Nat) : Placer := fun s va kind =>
  if !canonical va then .trap s tcPGFLT
  else if inWindow va then placeWindow s va
  else if inSluice va then .trap s tcPROT
  else match (s.me.run.elem e).latches.find? fun l => l.1 == va.toNat >>> l.2.1 with
    | some (_, sz, pte) => latchUse s va kind pte sz
    | none =>
      let (r, s1) := s.translate va
      match r with
      | .error c => .trap s1 c
      | .ok (pte, sz) =>
        latchUse (s1.mapRun fun x => x.mapElem e fun y => { y with latches := (va.toNat >>> sz, sz, pte) :: y.latches }) va
          kind pte sz

/-! ## Passes (R327) -/

/-- A pass begins: counters at zero, NSEED and NSTEP read (R330). -/
def Elem.begin (x : Elem) (l : LoopEntry) (seed : Word) (step : BitVec 32) : Elem :=
  { x with waiting := false, ctr := List.replicate l.levels 0, cnt := 0, nseed := seed, nstep := step }

/-- A pass ends. -/
def Elem.endPass (x : Elem) : Elem := { x with waiting := true, ctr := [], cnt := 0, bursts := x.bursts + 1 }

/-- The element goes on to its next iteration. -/
def Elem.nextUnit (x : Elem) (l : LoopEntry) : Elem :=
  let (c, fin) := nextIter x.ctr l.counts
  if fin then x.endPass else { x with ctr := c }

/-- The offset of an iteration: OFFSET + Σ c[j] × STRIDE[j]. -/
def Elem.offset (x : Elem) (l : LoopEntry) : Int := l.offset + dotCtr x.ctr l.strides

/-- Tokens of a firing fit the element's output. -/
def Elem.fitsOut (x : Elem) (n : Nat) : Bool := x.emit.isEmpty && (x.out.length + n ≤ 2 || (2 < n && x.out.isEmpty))

/-- Run an iteration of the address generator in focus, once a pass is in progress: with TRIG 0 a pass begins by itself,
with TRIG 1 as a control token heads C, which passes on where the element has an output (R297), ahead of the words of the pass: R327
does not say where it stands (DESIGN CHOICE, log 54). -/
def agStep (op : Nat) (s : State) (k : LoopEntry → Elem → Res) : Res :=
  let e := s.cur.elem
  let x := s.me.run.elem e
  let w := s.cur.w
  match s.me.run.act.loops[agEntry w]? with
  | none => .next s
  | some l =>
    if s.me.run.gated || x.stopped then .next s
    else if !x.waiting then k l x
    else if l.passes ≠ 0 && l.passes ≤ x.bursts then .next s
    else
      let y := x.begin l s.me.ctx.nseed s.me.ctx.nstep
      if !w.param.getLsbD 9 then .next (s.mapRun fun r => r.mapElem e fun _ => y)
      else
        let v := s.fenv 0 0
        match x.ctl? .c with
        | none => .next s
        | some t =>
          let f := if w.dirs = 0 then (fired v y).consume v .c else takeCtl v .c t (fired v y)
          if f.fits x then .next (s.fire op f) else .next s

/-- Words as data tokens. -/
def dataToks (v : FEnv) (ws : List (BitVec 32)) : List OutTok := ws.map fun w => v.outTok (.data (w.setWidth 64))

/-! ## Bursts that an address generator reads or writes (R64, R330, R331) -/

/-- The words of a unit on an atom stream as tokens, and the burst state after them; none for a malformed burst. -/
def agWords : List (BitVec 32) → InState → Option (List Tok × InState)
  | [], i => some ([], i)
  | w :: ws, i =>
    if i.due = 0 then
      if hdrBad w then none
      else (agWords ws { i with hdr := w, due := hdrL w }).map fun r => (.hdr w (hdrL w) :: r.1, r.2)
    else
      (agWords ws { i with due := i.due - (if hdrLong i.hdr then 1 else 2) }).map fun r =>
        (.data (w.setWidth 64) :: r.1, r.2)

/-- A read of a generated atom region that starts inside a burst presents atoms without a header (R107). -/
def insideBurst (t : Target) (va : Word) : Bool :=
  match t with
  | .noise d => 2 ≤ d.fmt && (va - d.base).toNat % noiseBurstLen d ≠ 0
  | _ => false

/-- Where an access at an address starts inside a generated burst. -/
def startsInside (pl : Placer) (s : State) (va : Word) : Bool :=
  match pl s va .engRead with
  | .ok _ t => insideBurst t va
  | _ => false

/-! ## The operations -/

/-- AGLOOP (R329): the offset of each iteration. -/
def execAgloop (s : State) : Res :=
  agStep 0x38 s fun l x =>
    let v := s.fenv 0 0
    let f := fired v (x.nextUnit l)
    let f1 := f.emit [v.outTok (.data ((BitVec.ofInt 32 (x.offset l)).setWidth 64))]
    if f1.fits x then .next (s.fire 0x38 f1) else .next s

/-- The address of an iteration's unit. -/
def agAddr (s : State) (l : LoopEntry) (x : Elem) : Word := s.me.run.act.base + BitVec.ofInt 64 (x.offset l)

/-- AGLD (R330): a unit is read and its words emitted. -/
def execAgld (s : State) : Res :=
  agStep 0x39 s fun l x =>
    let e := s.cur.elem
    let va := agAddr s l x
    if !x.fitsOut l.usz then .next s
    else if va.toNat % 4 ≠ 0 then .next (s.elemFault e tcALIGN va x.ctr)
    else match engRead (latchPlace e) s va (4 * l.usz) x.nseed x.nstep with
      | .fault s c a => .next (s.elemFault e c a x.ctr)
      | .wait => .next s
      | .ok bs s1 =>
        let v := s1.fenv 0 0
        let y := s1.me.run.elem e
        if s.cur.w.param.getLsbD 8 then
          if y.ia.due = 0 && startsInside (latchPlace e) s1 va then .next (s1.elemFault e tcBURSTBAD va x.ctr)
          else match agWords (words32 bs) y.ia with
            | none => .next (s1.elemFault e tcBURSTBAD va x.ctr)
            | some (ts, i) => .next (s1.fire 0x39 ((fired v { y.nextUnit l with ia := i }).emit (ts.map v.outTok)))
        else .next (s1.fire 0x39 ((fired v (y.nextUnit l)).emit (dataToks v (words32 bs))))

/-- A word taken from A for a unit being collected; none for a malformed header of an atom stream. The pad of an odd short burst is
written as zero (R62). -/
def agTake (atoms : Bool) (t : Tok) (x : Elem) : Option Elem :=
  match t with
  | .hdr h n => if atoms && hdrBad h then none else some { x.latch .a h n with stage := x.stage ++ [h.setWidth 64] }
  | .data v =>
    let pad := atoms && !hdrLong x.ia.hdr && x.ia.due == 1
    some { x with
      ia := { x.ia with due := x.ia.due - tokAtoms x.ia t }
      stage := x.stage ++ [if pad then (v.setWidth 16).setWidth 64 else v] }
  | .lone v => some { x with stage := x.stage ++ [v] }
  | .ctl _ _ => some x

/-- The bytes of a collected unit. -/
def stageBytes (st : List Word) (usz : Nat) : List Byte := (st.take usz).flatMap fun w => leBytes 4 w.toNat

/-- A write of an address generator in deterministic mode joins the write set, its granules being charged with the
configuration (R331, R373). -/
def agWrite (e : Nat) (s : State) (va : Word) (bs : List Byte) : EngRes Nat :=
  if !s.me.eff.det then engWrite (latchPlace e) s va bs
  else
    let gs := newGranules s.me.det.charged va.toNat bs.length
    let charge (f : List Nat → List Nat) (s : State) : State :=
      s.mapMe fun t => { t with det := { t.det with charged := f t.det.charged } }
    match engWrite (latchPlace e) (charge (gs ++ ·) s) va bs with
    | .ok c s1 => .ok c (charge (fun l => l.filter fun g => !gs.contains g) s1)
    | .fault s1 c a => .fault (charge (fun l => l.filter fun g => !gs.contains g) s1) c a
    | .wait => .wait

/-- Control tokens at the head of A are consumed; else a unit that has been collected is written by `wr`, or the next
token of A is taken. -/
def agSink (op : Nat) (atoms : Bool) (align : Nat) (s : State) (wr : State → Word → List Byte → EngRes Unit) : Res :=
  let e := s.cur.elem
  let v := s.fenv 0 0
  let x := s.me.run.elem e
  match x.ctl? .a with
  | some _ => if s.me.run.gated then .next s else .next (s.fire op ((fired v x).consume v .a))
  | none => agStep op s fun l x =>
    let va := agAddr s l x
    let write (s : State) : State :=
      if va.toNat % align ≠ 0 then s.elemFault e tcALIGN va x.ctr
      else match wr s va (stageBytes (s.me.run.elem e).stage l.usz) with
        | .fault s c a => s.elemFault e c a x.ctr
        | .wait => s
        | .ok _ s1 => s1.mapRun fun r => r.mapElem e fun y => { y.nextUnit l with stage := [] }
    if l.usz ≤ x.stage.length then .next (write s)
    else match x.head .a with
      | none => .next s
      | some t =>
        match agTake atoms t.tok x with
        | none => .next (s.elemFault e tcBURSTBAD va x.ctr)
        | some y =>
          let s1 := s.fire op ((fired v y).consume v .a)
          if l.usz ≤ y.stage.length && !s1.me.run.gated then .next (write s1) else .next s1

/-- AGST (R331). -/
def execAgst (s : State) : Res :=
  agSink 0x3A (s.cur.w.param.getLsbD 8) 4 s fun s va bs =>
    match agWrite s.cur.elem s va bs with
    | .ok _ s1 => .ok () s1
    | .fault s c a => .fault s c a
    | .wait => .wait

/-- AGRED (R332): each unit is combined at a HOME tile, once. -/
def execAgred (s : State) : Res :=
  let rop := agRop s.cur.w
  agSink 0x3B false (ropAlign rop) s fun s va bs =>
    match engReduce (latchPlace s.cur.elem) s va rop 0 bs with
    | .ok _ s1 => .ok () s1
    | .fault s c a => .fault s c a
    | .wait => .wait

/-- The word of a data token. -/
def tokWord : Tok → Option (BitVec 32)
  | .data v => some (v.setWidth 32)
  | .lone v => some (v.setWidth 32)
  | _ => none

/-- AGGATH takes its index: the pass ends with its last. -/
def Elem.nextIndex (x : Elem) (l : LoopEntry) : Elem :=
  if x.cnt + 1 < l.counts.foldl (· * ·) 1 then { x with cnt := x.cnt + 1 } else x.endPass

/-- AGGATH (R333). -/
def execAggath (s : State) : Res :=
  agStep 0x3C s fun l x =>
    let e := s.cur.elem
    let v := s.fenv 0 0
    match x.head .a with
    | none => .next s
    | some ⟨.ctl c id, _⟩ =>
      let f := takeCtl v .a (.ctl c id) (fired v x)
      if f.fits x then .next (s.fire 0x3C f) else .next s
    | some ⟨t, _⟩ =>
      match tokWord t with
      | none => .next (s.fire 0x3C ((fired v x).consume v .a))
      | some i =>
        let n : Nat := 2 ^ l.esz
        let va := s.me.run.act.base + BitVec.ofInt 64 (l.offset + ((i.toNat * n : Nat) : Int))
        if !x.fitsOut (n / 4) then .next s
        else if l.lim ≤ i.toNat then .next (s.elemFault e tcPROT va [x.cnt])
        else if va.toNat % min n 8 ≠ 0 then .next (s.elemFault e tcALIGN va [x.cnt])
        else match engRead (latchPlace e) s va n x.nseed x.nstep with
          | .fault s c a => .next (s.elemFault e c a [x.cnt])
          | .wait => .next s
          | .ok bs s1 =>
            let y := s1.me.run.elem e
            .next (s1.fire 0x3C (((fired v (y.nextIndex l)).consume v .a).emit (dataToks v (words32 bs))))

end Sys2Proof.Machine
end

