-- ==== Sys2Proof/Machine/Flumes.lean ====
section
/-!
DEFINITION. Sys2Proof/Machine/Flumes.lean: flume headers and the instructions on them (R111, R112, R126, R242 to R244).
-/

namespace Sys2Proof.Machine

/-! ## Headers -/

/-- The live flume with a header address. -/
def State.flume? (s : State) (fn : Nat) (hdr : Word) : Option Flume :=
  s.flumes.find? fun f => f.fn == fn && f.hdr == hdr && !f.gone

/-- Change a flume. -/
def State.mapFlume (s : State) (fn : Nat) (hdr : Word) (f : Flume → Flume) : State :=
  { s with flumes := s.flumes.map fun x => if x.fn == fn && x.hdr == hdr && !x.gone then f x else x }

/-- The device writes WR and RD of a header. -/
def State.writeCounts (s : State) (f : Flume) : State :=
  s.hdrBlkPut f.fn f.owner.blk (f.hdr + 0x18) (leBytes 4 f.wr.toNat ++ leBytes 4 f.rd.toNat)

/-- Filled slots, modulo 2^32 (R112). -/
def Flume.filled (f : Flume) : BitVec 32 := f.wr - f.rd

/-! ## FLNEW (R242) -/

/-- The fields of word 0x00 (R111). -/
def flSlotsz (v : Word) : Nat := bitsAt v 0 32
def flSlots (v : Word) : Nat := bitsAt v 32 16
def flStore (v : Word) : Nat := bitsAt v 48 2
def flBank (v : Word) : Nat := bitsAt v 50 5

/-- The first check of FLNEW. -/
def flWordOk (v base : Word) : Bool :=
  flSlotsz v % 64 == 0 && 64 ≤ flSlotsz v && flSlotsz v ≤ 65536 && 1 ≤ flSlots v && flStore v ≤ 1 &&
  bitsAt v 55 9 == 0 && base.toNat % 64 == 0

/-- The bank of the acting task's mill can take the flume. -/
def State.flBankOk (s : State) (v : Word) : Bool :=
  let b := flBank v
  (if h : b < 24 then (s.mill s.me.mill).modes[b] == 2 else false) &&
  !s.flumes.any (fun f => !f.gone && f.bank == some (s.me.mill, b)) && flSlots v * flSlotsz v ≤ 65536

/-- An address lies on an ORDINARY page of the task's world. -/
def State.plainPage (s : State) (va : Word) : Bool :=
  canonical va && !inWindow va && !inSluice va &&
  (match walk s s.me.id.fn va with
    | .ok (p, _) => pteType p == 0 && pteWorld p == s.me.eff.world
    | .error _ => false)

/-- The first address of an area that lies on no such page. -/
def State.badPlain (s : State) (va : Word) (n : Nat) : Option Word :=
  ((rangePieces va n).find? fun x => !s.plainPage x.1).map (·.1)

/-- The slots fit the FLSLOTS budget of the block and every ancestor (R44). -/
def State.flFits (s : State) (n : Nat) : Bool :=
  (s.lineage s.me.id.fn s.me.id.blk).all fun b => b.useFl + n ≤ b.eff.flslots

/-- The lowest free header of the function's flume header area (R405). -/
def State.freeHeader (s : State) (fn : Nat) : Option Word :=
  let a := (s.fn fn).fha
  ((List.range (bitsAt a 0 16)).map fun k => regBase a 16 + BitVec.ofNat 64 (64 * k)).find? fun h =>
    (s.flume? fn h).isNone

/-- The area FLNEW checks: the slots in memory, or a nonzero backing. -/
def flArea (v base : Word) : Nat := if flStore v = 1 && base = 0 then 0 else flSlots v * flSlotsz v

/-- The 64 KiB units of pond pages that an area lies on (R98). -/
def State.pondUnits (s : State) (fn : Nat) (va : Word) (n : Nat) : List Nat :=
  ((rangePieces va n).filterMap fun x => match walk s fn x.1 with
    | .ok (p, sz) => if pteLoc p = 1 then some (physKey p sz x.1 % 2 ^ 60 / 65536) else none
    | .error _ => none).eraseDups

/-- The pond units of a flume fit the POND budget of the block and every ancestor, beside those they hold already (R44, R98). -/
def State.flPondFits (s : State) (us : List Nat) : Bool :=
  us.isEmpty || (s.lineage s.me.id.fn s.me.id.blk).all fun b =>
    b.usePond + (s.pondPages s.me.id.fn b.addr ++ us).eraseDups.length ≤ b.eff.pond

/-- The header's bytes. -/
def flHeader (t : Task) (v base : Word) : List Byte :=
  dbytes v ++ dbytes (if flStore v = 0 then base else 0) ++ dbytes (if flStore v = 1 then base else 0) ++ dbytes 0 ++
  leBytes 8 (t.ctxid.toNat % 2 ^ 16) ++ List.replicate 24 0

/-- FLNEW (R242); slots on pond pages are charged to POND, with BUDGET 1 where they do not fit (R44, R98; log 99). -/
def execFlnew (g : Guard) (d a b : BitVec 5) (s : State) : Res :=
  let i := Instr.flnew g d a b
  gated i g [a, b] (some d) false s fun s =>
    let v := s.src a
    let base := s.src b
    if !flWordOk v base then .next (s.trapAt tcILLOP (infoWord i))
    else if flStore v = 1 && !s.flBankOk v then .next (s.trapAt tcPROT 0)
    else match s.badPlain base (flArea v base) with
      | some x => .next (s.trapAt tcPROT x)
      | none =>
        let us := s.pondUnits s.me.id.fn base (flArea v base)
        if !s.flFits (flSlots v) then .next (s.trapAt tcBUDGET 2)
        else if !s.flPondFits us then .next (s.trapAt tcBUDGET 1)
        else match s.freeHeader s.me.id.fn with
          | none => .next (s.trapAt tcBUDGET 11)
          | some h =>
            let f : Flume := {
              fn := s.me.id.fn, hdr := h, owner := s.me.id, slotsz := flSlotsz v, slots := flSlots v
              bank := if flStore v = 1 then some (s.me.mill, flBank v) else none
              base := base, wr := 0, rd := 0, rd0 := 0, wclk := 0, pond := us, gone := false }
            let s1 := ({ s with flumes := s.flumes ++ [f] } : State).hdrBlkPut s.me.id.fn s.me.id.blk h (flHeader s.me v base)
            let s2 := s1.mapLineage s.me.id.fn s.me.id.blk fun x => { x with useFl := x.useFl + flSlots v }
            doneG i s2 [a, b] d h

/-- OWNER of the flumes of the acting task, which has been restored, names the context it runs in now (R242). -/
def State.writeOwners (s : State) : State :=
  (s.flumes.filter fun f => f.owner == s.me.id && !f.gone).foldl (fun (st : State) f =>
    st.hdrBlkPut f.fn f.owner.blk (f.hdr + 0x20) (leBytes 2 (st.me.ctxid.toNat % 2 ^ 16))) s

/-! ## FLAWAIT, FLREL (R244) -/

/-- FLAWAIT: sleeps until `n` slots are filled; the clock reaches the slots' writes (R121). -/
def execFlawait (g : Guard) (a b : BitVec 5) (s : State) : Res :=
  let i := Instr.flawait g a b
  gated i g [a, b] none false s fun s =>
    let hdr := s.src a
    let n := lo32 (s.src b)
    if n = 0 then done i s [a, b]
    else match s.flume? s.me.id.fn hdr with
      | none => .next (s.trapAt tcPROT hdr)
      | some f =>
        if f.owner ≠ s.me.id || f.slots < n.toNat then .next (s.trapAt tcPROT hdr)
        else if n.toNat ≤ f.filled.toNat then
          done i (s.mapCtx fun c => { c with clock := max c.clock f.wclk }) [a, b]
        else .next (s.waitOn (.flumeSlots hdr n))

/-- FLREL: releases `n` slots. -/
def execFlrel (g : Guard) (a b : BitVec 5) (s : State) : Res :=
  let i := Instr.flrel g a b
  gated i g [a, b] none false s fun s =>
    let hdr := s.src a
    let n := lo32 (s.src b)
    if n = 0 then done i s [a, b]
    else match s.flume? s.me.id.fn hdr with
      | none => .next (s.trapAt tcPROT hdr)
      | some f =>
        if f.owner ≠ s.me.id || f.filled.toNat < n.toNat then .next (s.trapAt tcPROT hdr)
        else
          let f1 := { f with rd := f.rd + n }
          done i ((s.mapFlume f.fn f.hdr fun _ => f1).writeCounts f1) [a, b]

end Sys2Proof.Machine
end

