-- ==== Sys2Proof/Machine/Streams.lean ====
section
/-!
DEFINITION. Sys2Proof/Machine/Streams.lean: the stream commands (R261 to R292): when one starts, the checks at its start,
and what it does, one unit of progress at a time, for the command in focus; its retirement (R263, R276), a slot's (R274,
R387), overtaking (R153, R286) and the sum of a collective (R290).
-/

namespace Sys2Proof.Machine

/-! ## Starting (R262 to R264) -/

/-- Fabric ports a command uses. -/
def Cmd.ports (c : Cmd) : List Nat :=
  if c.op = 0x12 then [c.portNo, c.portNo + 1, c.portNo + 2]
  else if [0x02, 0x04, 0x05, 0x08, 0x09, 0x0A, 0x0B, 0x0C, 0x0D, 0x0E, 0x18, 0x19].contains c.op then [c.portNo] else []

/-- Two footprints share a granule that one of them writes; window ranges are compared within one task. -/
def feetClash (same : Bool) (a b : List Foot) : Bool :=
  a.any fun x => b.any fun y => (x.write || y.write) && (same || !(x.window || y.window)) && granulesMeet x.lo x.hi y.lo y.hi

/-- An earlier command in flight on the mill holds the command back (R119). -/
def State.clashes (s : State) (c : Cmd) : Bool :=
  s.all.any fun t => t.isPlaced && t.mill == s.me.mill &&
    t.cmds.any fun x => x.live && x.acc < c.acc && feetClash (t.id == s.me.id) x.foot c.foot

/-- An SC.SWAP accepted earlier holds the users of ports back (R283). -/
def Task.swapAhead (t : Task) (c : Cmd) : Bool :=
  !c.ports.isEmpty && t.cmds.any fun x => x.live && x.acc < c.acc && x.op == 0x11

/-- PRIO of a command's card. -/
def Cmd.cardPrio (c : Cmd) : Nat := ((cardOf c.raw c.base).map (·.prio)).getD 0

/-- A job card that waits on a port. -/
def Cmd.cardOn (p : Nat) (c : Cmd) : Bool := c.op == 0x12 && c.phase == .accepted && c.portNo == p

/-- A card waits behind a job: the last command before it that used its ports and has started is a job on the same ports (R386). -/
def Task.behindJob (t : Task) (c : Cmd) : Bool :=
  match (t.cmds.filter fun x => x.acc < c.acc && x.phase != .accepted && x.ports.any c.ports.contains).getLast? with
  | some x => x.op == 0x12 && x.portNo == c.portNo
  | none => false

/-- A card that waits behind a job goes before an earlier card of lower PRIO that waits there too (R386). -/
def Task.goesBefore (t : Task) (c x : Cmd) : Bool :=
  c.cardOn c.portNo && x.cardOn c.portNo && x.cardPrio < c.cardPrio && t.behindJob x

/-- The ports are free for a command, no swap and no clash holds it back; earlier cards of lower PRIO do not. -/
def State.mayStart (s : State) (c : Cmd) : Bool :=
  !(s.me.cmds.any fun x => x.acc < c.acc && c.ports.any x.holdsPort && !s.me.goesBefore c x) && !s.me.swapAhead c && !s.clashes c

/-- The command may start (R263): of the cards that wait behind one job the highest PRIO first, the earliest accepted of those (R386). -/
def State.startable (s : State) (c : Cmd) : Bool :=
  s.mayStart c && !(s.me.cmds.any fun x => c.acc < x.acc && s.me.goesBefore x c && s.mayStart x)

/-- The ports are declared as the command needs them (R262). -/
def Task.portsOk (t : Task) (c : Cmd) : Bool :=
  let d (i : Nat) : PortDecl := t.run.decl (c.portNo + i)
  match c.op with
  | 0x02 => (d 0).present
  | 0x04 => (d 0).present
  | 0x08 => (d 0).present
  | 0x05 => (d 0).present && !(d 0).out
  | 0x0A => (d 0).present && !(d 0).out
  | 0x0E => (d 0).present && !(d 0).out
  | 0x0B => (d 0).present && (d 0).out
  | 0x0C => (d 0).present && (d 0).out
  | 0x0D => (d 0).present && (d 0).out
  | 0x09 => (d 0).present && (d 0).out && (d 0).kind == 0
  | 0x12 => (d 0).present && !(d 0).out && (d 0).kind == 1 && (d 1).present && !(d 1).out && (d 1).kind == 1 &&
      (d 2).present && (d 2).out && (d 2).kind == 0
  | _ => true

/-- The channels of a halo descriptor are HALO entries of the node's table (R287). -/
def State.haloChans (s : State) (d : HaloDesc) : Bool :=
  let ok (ch : BitVec 12) : Bool := match s.myChan ch with
    | some c => c.halo
    | none => false
  (d.nosend || ok d.chout) && (d.norecv || ok d.chin)

/-- The block's contents pass what needs the node (R264, R287). -/
def State.contentOk (s : State) (c : Cmd) : Bool :=
  if c.op = 0x18 then (match haloOf c.raw with
    | some d => s.haloChans d
    | none => false)
  else true

/-- The first check that fails at a start, in the order of R264. -/
def State.startFault (s : State) (c : Cmd) : Option (BitVec 8 × Word) :=
  match c.rawErr with
  | some e => some e
  | none =>
    match c.spans s.me.size true with
    | none => some (tcILLOP, c.blk)
    | some sp =>
      if !s.contentOk c then some (tcILLOP, c.blk)
      else if !s.me.portsOk c then some (tcPROT, 0)
      else (sp.find? fun x => !x.canonical).map fun x => (tcPGFLT, BitVec.ofInt 64 x.lo)

/-! ## Progress -/

/-- Change the command to running with its counters. -/
def State.startCmd (s : State) (c : Cmd) (ctr : List Nat) : State :=
  s.mapCmd c.seq fun x => { x with phase := .running, ctr := ctr, sub := 0 }

/-- The command has moved its last word: its ports fall free, and what MARK left behind it enters (R255). -/
def State.finishCmd (s : State) (q : BitVec 32) : State :=
  (s.mapCmd q fun x => { x with phase := .finished, ctr := [] }).mapMe Task.flushPorts

/-- A class P cause of a command waits for its context's next issue slot; after EXIT no context takes it. -/
def State.postEnd (s : State) (p : Pending) : State :=
  if s.me.ctx.st == .free then s else s.mapCtx fun c => c.post p

/-- A class P cause ends the command alone (R292). -/
def State.endCmd (s : State) (c : Cmd) (cause : BitVec 8) : State :=
  ((s.mapCmd c.seq fun x => { x with cause := cause }).finishCmd c.seq).postEnd ⟨cause, 1, c.seq, c.ipc, false, false⟩

/-- Read again the block of a command that RESUME continues after its read had faulted (R146, R264). -/
def State.rereadBlock (s : State) (c : Cmd) : State :=
  match readBlock s c.op c.blk with
  | .ok bs s1 => s1.mapCmd c.seq fun x => { x with raw := bs, rawErr := none }
  | .fault s1 e va => s1.mapCmd c.seq fun x => { x with rawErr := some (e, va) }
  | .wait _ => s
  | .sever va => s.stopMe tcSEVERED va

/-- A command whose start finds a fault: a class S stop, but for a block read in an abandoned object, which ends the command alone
(R264, R292). -/
def State.startStop (s : State) (c : Cmd) (e : BitVec 8) (va : Word) : State :=
  if e = tcSLABANDON then (s.cmdRecord c e va []).endCmd c e else s.cmdFault c e va []

/-- Advance the command in focus: nothing while its run is stopped; a start where it may; progress while it runs. -/
def runCmd (s : State) (check : State → Cmd → Option (BitVec 8 × Word)) (start : State → Cmd → State)
    (work : State → Cmd → State) : Res :=
  match s.me.cmd? s.cur.seq with
  | none => .next s
  | some c =>
    if s.me.run.gated || s.me.saving then .next s
    else if (c.rawErr.map (·.1)) = some 0 then .next (s.rereadBlock c)
    else match c.phase with
      | .accepted =>
        if !s.startable c then .next s
        else match check s c with
          | some (e, va) => .next (s.startStop c e va)
          | none => .next (start s c)
      | .running => .next (work s c)
      | _ => .next s

/-- The counters after an iteration; none left: empty. -/
def nextCtr (counts ctr : List Nat) : List Nat :=
  let r := nextIter ctr counts
  if r.2 then [] else r.1

/-- Nothing offered waits at an input port. -/
def State.portFree (s : State) (p : Nat) : Bool := (s.me.run.port p).offer.isEmpty

/-- Present a unit that was read at an address. -/
def State.presentUnit (s : State) (c : Cmd) (pl : Placer) (va : Word) (bs : List Byte) (next : List Nat) : State :=
  let p := c.portNo
  if (s.me.run.decl p).kind != 0 && (s.me.run.port p).due = 0 && startsInside pl s va then s.cmdFault c tcBURSTBAD va c.ctr
  else match s.offer p bs with
    | none => s.cmdFault c tcBURSTBAD va c.ctr
    | some s1 => s1.mapCmd c.seq fun x => { x with ctr := next, sub := 1 }

/-- An input command has presented all: it frees the port when the port has taken the last word. -/
def State.drainInput (s : State) (c : Cmd) : State := if s.portFree c.portNo then s.finishCmd c.seq else s

/-- One unit of a pattern into an input port (R271). -/
def copyIn (pl : Placer) (p : Pat) (s : State) (c : Cmd) : State :=
  if !s.portFree c.portNo then s
  else if c.ctr.isEmpty then s.drainInput c
  else
    let va := p.addr c.base c.ctr
    if va.toNat % 4 ≠ 0 then s.cmdFault c tcALIGN va c.ctr
    else match engRead pl s va p.unit c.nseed c.nstep with
      | .fault s e a => s.cmdFault c e a c.ctr
      | .wait => s
      | .ok bs s1 => s1.presentUnit c pl va bs (nextCtr p.counts c.ctr)

/-- Bytes leave an output port with a unit. -/
def Port.leave (p : Port) (n : Nat) : Port :=
  { p with outq := p.outq.drop n, ctlq := p.ctlq.map fun x => (x.1 - n, x.2) }

/-- The command has performed a write: its time, tiles reached and saturation are kept, and the unit leaves the port. -/
def State.wroteUnit (s : State) (c : Cmd) (p n clk : Nat) (tiles : List Nat) (sat : Bool) (next : List Nat) : State :=
  let new := tiles.filter fun t => !c.tiles.contains t
  let s1 := new.foldl (fun (st : State) t => st.setTile t { st.tile t with copies := (st.tile t).copies + 1 }) s
  let s2 := (s1.mapRun fun r => r.mapPort p fun x => x.leave n).mapCmd c.seq fun x => { x with
    ctr := next, wclk := max x.wclk clk, tiles := x.tiles ++ new, psat := x.psat || sat }
  if next.isEmpty then s2.finishCmd c.seq else s2

/-- One unit of `n` bytes from an output port to an address. -/
def copyOut (c : Cmd) (n : Nat) (va : Word) (next : List Nat) (s : State)
    (wr : State → Word → List Byte → EngRes (Nat × List Nat × Bool)) : State :=
  let q := (s.me.run.port c.portNo).outq
  if q.length < n then s
  else match wr s va (q.take n) with
    | .fault s e a => s.cmdFault c e a c.ctr
    | .wait => s
    | .ok r s1 => s1.wroteUnit c c.portNo n r.1 r.2.1 r.2.2 next

/-- A plain write. -/
def plainWrite (pl : Placer) (s : State) (va : Word) (bs : List Byte) : EngRes (Nat × List Nat × Bool) :=
  match engWrite pl s va bs with
  | .ok c s1 => .ok (c, [], false) s1
  | .fault s e a => .fault s e a
  | .wait => .wait

/-- One unit of a pattern out of an output port. The writes of one command to different bytes are made in pattern order; R120 leaves
their interleaving open (DESIGN CHOICE, log 111). -/
def patOut (p : Pat) (align : Nat) (s : State) (c : Cmd)
    (wr : State → Word → List Byte → EngRes (Nat × List Nat × Bool)) : State :=
  let va := p.addr c.base c.ctr
  if va.toNat % align ≠ 0 then s.cmdFault c tcALIGN va c.ctr else copyOut c p.unit va (nextCtr p.counts c.ctr) s wr

/-- Start a command over a pattern. -/
def startPat (s : State) (c : Cmd) : State :=
  match patOf c.raw with
  | none => s
  | some p => s.startCmd c (List.replicate p.counts.length 0)

/-- Work over a pattern. -/
def withPat (c : Cmd) (s : State) (k : Pat → State) : State :=
  match patOf c.raw with
  | none => s
  | some p => k p

/-- SC.COPY (R271). -/
def execScCopy (_p : BitVec 6) (_blk : BitVec 24) (s : State) : Res :=
  runCmd s State.startFault startPat fun s c => withPat c s fun p =>
    if (s.me.run.decl c.portNo).out then patOut p 4 s c (plainWrite (enginePlace false))
    else copyIn (enginePlace false) p s c

/-! ## Sluice tiles (R272) -/

/-- The place of a unit of SC.SLFILL or SC.SLSEE: in a slot of the right kind, within the object. -/
def slotPlace (fill : Bool) : Placer := fun s va kind =>
  if !inSluice va then .trap s tcPROT
  else match s.me.window.find? fun w => w.slot == (va.toNat - sluiceBase) / 2 ^ 24 with
    | none => .trap s tcPROT
    | some w => if w.fill != fill then .trap s tcPROT else placeSluice s va 1 kind

/-- SC.SLFILL. -/
def execScSlfill (_p : BitVec 6) (_blk : BitVec 24) (s : State) : Res :=
  runCmd s State.startFault startPat fun s c => withPat c s fun p => patOut p 4 s c (plainWrite (slotPlace true))

/-- SC.SLSEE: parked while the object is FILLING, ended with SLABANDON where it was abandoned (R125), and its task stopped where the
path to the object's package is lost (R160, R413). A unit that is not aligned, or not in a see mapping, stops as SC.COPY's does. -/
def execScSlsee (_p : BitVec 6) (_blk : BitVec 24) (s : State) : Res :=
  runCmd s State.startFault startPat fun s c => withPat c s fun p =>
    let va := p.addr c.base c.ctr
    if !s.portFree c.portNo || c.ctr.isEmpty || va.toNat % 4 ≠ 0 then copyIn (slotPlace false) p s c
    else match slotPlace false s va .engRead with
      | .ok s1 t =>
        if s1.severed t then s.stopMe tcSEVERED va
        else match seeCheck s1 t with
          | some (.error _) => s
          | some (.ok e) => s.endCmd c e
          | none => copyIn (slotPlace false) p s c
      | _ => copyIn (slotPlace false) p s c

/-! ## Indexed moves (R273) -/

/-- The element that the index of an iteration names: its address, or the fault. -/
def indexed (p : Pat) (s : State) (c : Cmd) : EngRes Word :=
  let ia := p.addr c.base c.ctr
  if ia.toNat % 4 ≠ 0 then .fault s tcALIGN ia
  else match engRead (enginePlace false) s ia 4 c.nseed c.nstep with
    | .fault s e a => .fault s e a
    | .wait => .wait
    | .ok bs s1 =>
      let n := 2 ^ cRop c.word
      let x := leNat bs
      let a := c.base + BitVec.ofNat 64 (x * n)
      if cField c.word 56 24 ≤ x then .fault s1 tcPROT a
      else if a.toNat % min n 8 ≠ 0 then .fault s1 tcALIGN a
      else .ok a s1

/-- SC.GATH. -/
def execScGath (_p : BitVec 6) (_blk : BitVec 24) (_esz : BitVec 4) (_lim : BitVec 24) (s : State) : Res :=
  runCmd s State.startFault startPat fun s c => withPat c s fun p =>
    if !s.portFree c.portNo then s
    else if c.ctr.isEmpty then s.drainInput c
    else match indexed p s c with
      | .fault s e a => s.cmdFault c e a c.ctr
      | .wait => s
      | .ok a s1 =>
        match engRead (enginePlace false) s1 a (2 ^ cRop c.word) c.nseed c.nstep with
        | .fault s1 e v => s1.cmdFault c e v c.ctr
        | .wait => s
        | .ok bs s2 => s2.presentUnit c (enginePlace false) a bs (nextCtr p.counts c.ctr)

/-- SC.SCAT. -/
def execScScat (_p : BitVec 6) (_blk : BitVec 24) (_esz : BitVec 4) (_lim : BitVec 24) (s : State) : Res :=
  runCmd s State.startFault startPat fun s c => withPat c s fun p =>
    match indexed p s c with
    | .fault s e a => s.cmdFault c e a c.ctr
    | .wait => s
    | .ok a s1 => copyOut c (2 ^ cRop c.word) a (nextCtr p.counts c.ctr) s1 (plainWrite (enginePlace false))

/-! ## Flume slots (R274, R387, R243) -/

/-- The live flume of the issuing task's node at a command's base. -/
def State.cmdFlume (s : State) (c : Cmd) : Option Flume :=
  match s.flume? s.me.id.fn c.base with
  | some f => if f.owner.fn == s.me.id.fn && f.owner.blk == s.me.id.blk then some f else none
  | none => none

/-- A start of SC.FLUME also needs the flume. -/
def flumeFault (s : State) (c : Cmd) : Option (BitVec 8 × Word) :=
  (s.startFault c).orElse fun _ => if (s.cmdFlume c).isNone then some (tcPROT, c.base) else none

/-- Write a slot: into memory, or into the bank of the flume's mill. -/
def writeSlot (f : Flume) (s : State) (bs : List Byte) : EngRes Nat :=
  let i := f.wr.toNat % f.slots
  match f.bank with
  | none => engWrite (enginePlace false) s (f.base + BitVec.ofNat 64 (i * f.slotsz)) bs
  | some (m, b) =>
    if (s.mill m).busy.any (fun x => x.1 == b) then .wait
    else
      let r := storeTarget s f.base (.bank (keyOf spBank ((m * 24 + b) * 65536 + i * f.slotsz))) bs s.me.ctx.clock
      .ok r.1 r.2

/-- An SC.FLUME has made the writes of a slot that have still to retire. -/
def Cmd.slotInFlight (c : Cmd) : Bool := c.op == 0x0C && c.phase == .running && c.sub == 1

/-- A copy's writes of slot WR of a flume have still to retire: no copy of the node writes the slot again (R126). -/
def State.slotBusy (s : State) (f : Flume) : Bool :=
  s.all.any fun t => t.id.fn == f.fn && t.id.blk == f.owner.blk && t.cmds.any fun c => c.base == f.hdr && c.slotInFlight

/-- The flume is full for a stream engine (R112): an FLREL counts from the cycle after it on (R387). -/
def Flume.fullNow (f : Flume) : Bool := f.slots ≤ (f.wr - f.rd0).toNat

/-- SC.FLUME: `ctr` holds the slots filled; sub 1: a slot's writes have been made and have still to retire. -/
def execScFlume (_p : BitVec 6) (_n : BitVec 32) (s : State) : Res :=
  runCmd s flumeFault (fun s c => s.startCmd c [0]) fun s c =>
    match s.cmdFlume c with
    | none => s.cmdFault c tcPROT c.base []
    | some f =>
      let q := (s.me.run.port c.portNo).outq
      if s.slotBusy f || f.fullNow || q.length < f.slotsz then s
      else match writeSlot f s (q.take f.slotsz) with
        | .fault s e a => s.cmdFault c e a []
        | .wait => s
        | .ok clk s1 =>
          (s1.mapRun fun r => r.mapPort c.portNo fun x => x.leave f.slotsz).mapCmd c.seq fun x =>
            { x with sub := 1, wclk := max x.wclk clk }

/-- FLUME_SLOT_RETIRE (R274, R387): WR advances with the command in focus. -/
def execFlumeSlotRetire (s : State) : Res :=
  match s.me.cmd? s.cur.seq with
  | none => .next s
  | some c =>
    if !c.slotInFlight then .next s
    else match s.cmdFlume c with
      | none => .next s
      | some f =>
        let f1 := { f with wr := f.wr + 1, wclk := max f.wclk c.wclk }
        let s1 := (s.mapFlume f.fn f.hdr fun _ => f1).writeCounts f1
        let k := c.ctr.headD 0 + 1
        let s2 := s1.mapCmd c.seq fun x => { x with sub := 0, ctr := [k] }
        .next (if cField c.word 56 32 ≤ k then s2.finishCmd c.seq else s2)

/-! ## Reducing copies (R275 to R277) -/

/-- Combine a unit. -/
def reduceWrite (c : Cmd) (s : State) (va : Word) (bs : List Byte) : EngRes (Nat × List Nat × Bool) :=
  match engReduce (enginePlace false) s va (cRop c.word) c.seq bs with
  | .ok (t, clk, sat) s1 => .ok (clk, [t], sat) s1
  | .fault s e a => .fault s e a
  | .wait => .wait

/-- The number of an iteration in walk order. -/
def iterNo : List Nat → List Nat → Nat
  | n :: ns, c :: cs => c + n * iterNo ns cs
  | _, _ => 0

/-- The 64-byte chunk of a reducing copy that an iteration lies in (R159). -/
def Pat.chunk (p : Pat) (ctr : List Nat) : Nat := iterNo p.counts ctr * p.unit / 64

/-- The units left of that chunk, from the iteration on. -/
def Pat.chunkLeft (p : Pat) (ctr : List Nat) : Nat :=
  let m := 64 / p.unit
  let i := iterNo p.counts ctr
  min (m - i % m) (p.counts.foldl (· * ·) 1 - i)

/-- The bit of a chunk in the bitmap of its copy: a copy is split into copies of 16 MiB (R159). -/
def chunkBit (k : Nat) : Nat := 2 ^ (k % 262144)

/-- Combine the next `k` units of the command as one indivisible step (R159). A unit that has to wait holds all of them back; at one that
faults the copy stops at its iteration, and every one before it has been performed (R144). -/
def combineUnits (p : Pat) (s0 : State) : Nat → State → State
  | 0, s => s
  | k + 1, s =>
    match s.me.cmd? s.cur.seq with
    | none => s
    | some c =>
      let va := p.addr c.base c.ctr
      if va.toNat % ropAlign (cRop c.word) ≠ 0 then s.cmdFault c tcALIGN va c.ctr
      else match reduceWrite c s va ((s.me.run.port c.portNo).outq.take p.unit) with
        | .fault s e a => s.cmdFault c e a c.ctr
        | .wait => s0
        | .ok r s1 => combineUnits p s0 k (s1.wroteUnit c c.portNo p.unit r.1 r.2.1 r.2.2 (nextCtr p.counts c.ctr))

/-- Units of a chunk that has been applied are taken from the port and not combined again. -/
def skipUnits (p : Pat) : Nat → State → State
  | 0, s => s
  | k + 1, s =>
    match s.me.cmd? s.cur.seq with
    | none => s
    | some c => skipUnits p k (s.wroteUnit c c.portNo p.unit 0 [] false (nextCtr p.counts c.ctr))

/-- The units of the chunk in progress, once the port can give all that are left of it. -/
def chunkUnits (p : Pat) (s : State) (c : Cmd) : Nat :=
  let k := p.chunkLeft c.ctr
  if k ≤ (s.me.run.port c.portNo).outq.length / p.unit then k else 0

/-- The chunk's bit is set in the step that applies its last unit; with its last chunk a copy of the split ends, and its bitmap. -/
def Cmd.setBit (x : Cmd) (k : Nat) : Cmd :=
  { x with bits := if k % 262144 = 262143 then 0 else x.bits ||| chunkBit k }

/-- SC.RCOPY: one chunk at a time, each exactly once (R159, R275). -/
def execScRcopy (_p : BitVec 6) (_blk : BitVec 24) (_rop : BitVec 4) (_st : BitVec 24) (s : State) : Res :=
  runCmd s State.startFault startPat fun s c => withPat c s fun p =>
    let k := chunkUnits p s c
    let n := p.chunk c.ctr
    if c.ctr.isEmpty || k = 0 then s
    else if c.bits.testBit (n % 262144) then skipUnits p k s
    else
      let s1 := combineUnits p s k s
      if (s1.me.cmd? c.seq).any fun x => x.phase != .faulted && x.ctr != c.ctr && (x.ctr.isEmpty || p.chunk x.ctr ≠ n) then
        s1.mapCmd c.seq fun x => x.setBit n
      else s1

/-! ## Port control (R278 to R280) -/

/-- A port with its burst state discarded and a class set. -/
def Port.bindTo (p : Port) (cls : BitVec 2) : Port :=
  { p with hdr := none, due := 0, coord := none, ehdr := 0, row := 0, rowDue := [], half := none, cls := cls }

/-- SC.BIND. -/
def execScBind (_p : BitVec 6) (cls : BitVec 2) (s : State) : Res :=
  runCmd s State.startFault (fun s c =>
    let x := s.me.run.port c.portNo
    if x.due ≠ 0 || x.coord.isSome then
      (s.mapRun fun r => r.mapPort c.portNo fun y => y.bindTo y.cls).cmdFault c tcBURSTBAD 0 []
    else (s.mapRun fun r => r.mapPort c.portNo fun y => y.bindTo cls).finishCmd c.seq) fun s _ => s

/-- The largest logical time of the writes made for a port before a command. -/
def Task.portClock (t : Task) (p acc : Nat) : Nat :=
  (t.cmds.filter fun c => c.acc < acc && c.ports.contains p).foldl (fun m c => max m c.wclk) 0

/-- Push the word of a TAG (R279): none where the channel has no room; discarded where its consumer has exited, with
CHCLOSED for the issuing context on a strict channel. -/
def State.pushTag (s : State) (ch : BitVec 12) (tag : Word) (seq : BitVec 32) (ipc : Word) (clk : Nat) : Option State :=
  match s.myChan ch with
  | none => some s
  | some c =>
    if s.consumerClosed c then
      let s1 := s.push ch [⟨tag, false, clk⟩]
      some (if c.strict then s1.postEnd ⟨tcCHCLOSED, 1, seq, ipc, false, false⟩ else s1)
    else if s.chanRoom c 1 then some (s.push ch [⟨tag, false, clk⟩]) else none

/-- SC.TOK: on an input port a TAG token behind the words before it; on an output port the push itself. -/
def execScTok (_p : BitVec 6) (ch : BitVec 12) (tag : Word) (s : State) : Res :=
  runCmd s State.startFault (fun s c =>
    if (s.me.run.decl c.portNo).out then s.startCmd c []
    else (s.offerCtl c.portNo (.tag ch tag c.seq c.ipc)).startCmd c []) fun s c =>
    if (s.me.run.decl c.portNo).out then
      match s.pushTag ch tag c.seq c.ipc (s.me.portClock c.portNo c.acc) with
      | none => s
      | some s1 => s1.finishCmd c.seq
    else s.drainInput c

/-- SC.DRAIN: an ACCSW token. -/
def execScDrain (_p : BitVec 6) (s : State) : Res :=
  runCmd s State.startFault (fun s c => (s.offerCtl c.portNo .accsw).startCmd c []) fun s c => s.drainInput c

/-! ## Ordering (R122, R281) -/

/-- SC.NOP has retired on acceptance. -/
def execScNop (s : State) : Res := runCmd s (fun _ _ => none) (fun s c => s.finishCmd c.seq) fun s _ => s

/-- SC.FENCE retires after every earlier command; what it covers has no later time than the largest recorded. -/
def execScFence (s : State) : Res :=
  runCmd s (fun _ _ => none) (fun s c => s.startCmd c []) fun s c =>
    if s.me.cmds.any fun x => x.live && x.acc < c.acc then s
    else (s.mapCmd c.seq fun x => { x with wclk := maxTime s s.me.id.fn }).finishCmd c.seq

/-! ## Configurations (R282, R283) -/

/-- A configuration command accepted earlier has not retired. -/
def Task.cfgAhead (t : Task) (c : Cmd) : Bool :=
  t.cmds.any fun x => x.live && x.acc < c.acc && (x.op == 0x10 || x.op == 0x11)

/-- The inactive plane is replaced; its charge goes back. -/
def State.setInact (s : State) (p : Plane) : State :=
  (s.dropPlane s.me.run.inact).mapRun fun r => { r with inact := p }

/-- A block that could not be read stops SC.CFG, an uncorrectable error there apart, which ends the load. -/
def cfgFault (s : State) (c : Cmd) : Option (BitVec 8 × Word) :=
  match c.rawErr with
  | some (e, va) => if e = tcECCUE then none else some (e, va)
  | none => s.startFault c

/-- A load ended with a cause: the plane is invalid (R158). -/
def State.endLoad (s : State) (c : Cmd) (cause : BitVec 8) : State :=
  let s1 := (s.setInact { Plane.empty with addr := c.blk }).endCmd c cause
  if cause = tcCFGUE then s1.lifeAdd 7 (dieOf s.me.mill) 1 else s1

/-- SC.CFG. -/
def execScCfg (_blk : BitVec 24) (s : State) : Res :=
  runCmd s (fun _ _ => none) (fun s c => if s.me.cfgAhead c then s else s.startCmd c []) fun s c =>
    match cfgFault s c with
    | some (e, va) => if e = tcSLABANDON then (s.cmdRecord c e va []).endLoad c e else s.cmdFault c e va []
    | none =>
      if c.rawErr.isSome then s.endLoad c tcCFGUE
      else
        let s0 := s.setInact { Plane.empty with addr := c.blk }
        match s0.loadImage c.raw c.blk c.base with
        | .wait => s
        | .sever va => s.stopMe tcSEVERED va
        | .fault s1 e va => if e = tcSLABANDON then s1.endLoad c e else s.cmdFault c e va []
        | .ue s1 => s1.endLoad c tcCFGUE
        | .rej s1 => s1.endLoad c tcCFGREJ
        | .ok p s1 =>
          (s1.mapRun fun r => { r with inact := p }).finishCmd c.seq

/-- SC.SWAP. -/
def execScSwap (s : State) : Res :=
  runCmd s (fun _ _ => none) (fun s c => s.startCmd c []) fun s c =>
    if s.me.cfgAhead c || (s.me.cmds.any fun x => x.acc < c.acc && x.ports.any x.holdsPort) || !s.me.run.isEmpty then s
    else if !s.me.run.inact.valid then s.endCmd c tcCFGREJ
    else (s.mapRun Run.swap).finishCmd c.seq

/-! ## Job cards (R284 to R286, R153) -/

/-- Work over a job card. -/
def withCard (c : Cmd) (s : State) (k : Card → State) : State :=
  match cardOf c.raw c.base with
  | none => s
  | some d => k d

/-- The run takes a command's card for the anchor and drain format of its pulse cells (R285). While jobs on disjoint ports run at
once, those of the job that started, or resumed, last govern the run (R80 does not say which; DESIGN CHOICE, log 103). -/
def State.takeCard (s : State) (q : BitVec 32) (d : Card) : State :=
  s.mapRun fun r => { r with anc := (q, d.anc, d.cfmt) :: r.anc.filter fun x => x.1 != q }

/-- A job's card no longer governs the run. -/
def State.leaveCard (s : State) (q : BitVec 32) : State := s.mapRun fun r => { r with anc := r.anc.filter fun x => x.1 != q }

/-- Start a job. -/
def startJob (s : State) (c : Cmd) : State :=
  withCard c s fun d => (s.takeCard c.seq d).startCmd c (List.replicate d.counts.length 0)

/-- Counters 0 to `k - 1` stand at their last values. -/
def lastOf (counts ctr : List Nat) (k : Nat) : Bool := ((counts.zip ctr).take k).all fun x => x.2 + 1 == x.1

/-- A burst in memory at an address, as the card admits it. -/
def cardBurst (d : Card) (limit : Nat) (s : State) (c : Cmd) (va : Word) : EngRes (List Byte) :=
  match engRead (enginePlace false) s va 4 c.nseed c.nstep with
  | .fault s e a => .fault s e a
  | .wait => .wait
  | .ok bs s1 =>
    let h := word4 bs 0
    if hdrBad h || hdrLong h != d.long || hdrK h ≠ d.km1 + 1 || startsInside (enginePlace false) s va then
      .fault s1 tcBURSTBAD va
    else
      let n := 4 + 4 * (if d.long then hdrL h else (hdrL h + 1) / 2)
      if limit < n then .fault s1 tcPROT va else engRead (enginePlace false) s1 va n c.nseed c.nstep

/-- A job of the same run with higher priority that has started and not retired. -/
def Task.overtaken (t : Task) (c : Cmd) (d : Card) : Bool :=
  t.cmds.any fun x => x.seq != c.seq && x.op == 0x12 && x.live && x.phase != .accepted && x.portNo == c.portNo &&
    (match cardOf x.raw x.base with
      | some e => d.prio < e.prio
      | none => false)

/-- The command of highest PRIO, the first in the list of equal ones. -/
def highestPrio (l : List Cmd) : Option Cmd :=
  l.foldl (fun m x => match m with
    | none => some x
    | some y => if y.cardPrio < x.cardPrio then some x else some y) none

/-- The job that overtakes a running one at its boundary (R286): of those that may, the highest PRIO, and among equal PRIO the earliest
accepted (R386). -/
def State.overtaker (s : State) (c : Cmd) (d : Card) : Option Cmd :=
  if !d.ovt then none
  else highestPrio (s.me.cmds.filter fun x =>
    x.op == 0x12 && x.phase == .accepted && x.portNo == c.portNo && c.acc < x.acc && !feetClash true c.foot x.foot &&
    !s.clashes x && !s.me.swapAhead x && d.prio < x.cardPrio)

/-- An input port of a job falls free when it has taken the job's last word, the output port when the last unit has left it and its
write has been made (R263). -/
def State.freeJobPorts (s : State) (c : Cmd) (d : Card) : State :=
  let new := ([c.portNo, c.portNo + 1].filter fun p => s.portFree p && !c.freed.contains p) ++
    if c.sub = 3 && !c.freed.contains (c.portNo + 2) then [c.portNo + 2] else []
  if c.sub < 2 || !(nextCtr d.counts c.ctr).isEmpty || new.isEmpty then s
  else (s.mapCmd c.seq fun x => { x with freed := x.freed ++ new }).mapMe Task.flushPorts

/-- The next iteration of a job; after the last, with its input ports free, it is finished and its card leaves the run. -/
def State.jobNext (s : State) (c : Cmd) (d : Card) : State :=
  match nextCtr d.counts c.ctr with
  | [] => if [c.portNo, c.portNo + 1].all fun p => c.freed.contains p || s.portFree p then
      (s.leaveCard c.seq).finishCmd c.seq else s
  | ctr => s.mapCmd c.seq fun x => { x with ctr := ctr, sub := 0, spilt := false }

/-- Where the streams that reach an element go on, by its links and converter paths; from a pulse cell what it forwards of A and B, not
what it drains (R305, R306). -/
def Plane.nextElems (p : Plane) (nl e : Nat) : List Nat :=
  let w := p.wordOf e
  let f := (eFields w).param
  let ds := if isCell (eOp w).toNat then
      (if f.getLsbD 2 then [f.toNat % 4] else []) ++ (if f.getLsbD 5 then [f.toNat / 8 % 4] else [])
    else outDirs w
  ds.filterMap (neighbour nl e) ++ (p.convs.filter fun c => c.1 == e).map (·.2)

/-- The elements that the streams of some elements reach. -/
def Plane.reach (p : Plane) (nl : Nat) : Nat → List Nat → List Nat
  | 0, l => l
  | n + 1, l =>
    let m := (l ++ l.flatMap (p.nextElems nl)).eraseDups
    if m.length = l.length then l else p.reach nl n m

/-- The elements that a job's operands pass: from the elements that its input ports feed to the pulse cells. -/
def Task.jobElems (t : Task) (c : Cmd) : List Nat :=
  let p := t.run.act
  let first := [c.portNo, c.portNo + 1].flatMap fun q =>
    let deal := (t.run.decl q).deal
    (if deal then List.range 8 else [0]).filterMap fun r => p.fed t.lanes q r deal
  p.reach t.lanes t.run.elems.length first.eraseDups

/-- The running job has reached the end of its k-block: its ports and elements hold none of the words presented, all of which its
pulse cells have taken (R153; what else moves in the run does not matter, DESIGN CHOICE, log 103). -/
def Task.jobAtRest (t : Task) (c : Cmd) : Bool :=
  ([c.portNo, c.portNo + 1].all fun p => (t.run.port p).offer.isEmpty && (t.run.port p).inq.isEmpty) &&
  (t.jobElems c).all fun e => (t.run.elem e).isEmpty

/-- The 72 bytes of a cell's plane (R150); `sel`: it is the accumulating one, which stands first. -/
def planeBytes (sel : Bool) (p : AccPlane) : List Byte :=
  p.acc.toList.flatMap (fun i => dbytes (BitVec.ofInt 64 i)) ++
    leBytes 8 (p.steps % 2 ^ 17 + bool1 p.poison * 2 ^ 32 + bool1 sel * 2 ^ 33)

/-- A plane read back. -/
def planeOf (bs : List Byte) : AccPlane :=
  { acc := Vector.ofFn fun (i : Fin 8) => (dword bs (8 * i.val)).toInt
    steps := bitsAt (dword bs 64) 0 17, poison := bitAt (dword bs 64) 32 }

/-- The address of a cell's planes in the overtake area. -/
def spillAddr (c : Cmd) (d : Card) (e : Nat) : Word := c.base + BitVec.ofInt 64 (d.ovoff + 144 * e)

/-- Write the planes of the run's pulse cells to the overtake area (R153), from the largest logical time of the writes so far: the
largest of all. -/
def spillPlanes (c : Cmd) (d : Card) : List Nat → Nat → State → EngRes Nat
  | [], k, s => .ok k s
  | e :: es, k, s =>
    if !isCell (eOp (s.me.run.act.wordOf e)).toNat then spillPlanes c d es k s
    else
      let x := s.me.run.elem e
      match engWrite (enginePlace false) s (spillAddr c d e) (planeBytes true x.acc ++ planeBytes false x.drn) with
      | .fault s a v => .fault s a v
      | .wait => .wait
      | .ok t s1 => spillPlanes c d es (max k t) s1

/-- The planes of some elements are cleared for the job that overtakes. -/
def Run.clearPlanes (r : Run) (es : List Nat) : Run :=
  es.foldl (fun (r : Run) e => r.mapElem e fun y => { y with acc := .zero, drn := .zero }) r

/-- Reload the planes of the pulse cells among some elements. -/
def reloadPlanes (c : Cmd) (d : Card) : List Nat → State → EngRes Unit
  | [], s => .ok () s
  | e :: es, s =>
    if !isCell (eOp (s.me.run.act.wordOf e)).toNat then reloadPlanes c d es s
    else match engRead (enginePlace false) s (spillAddr c d e) 144 0 0 with
      | .fault s a v => .fault s a v
      | .wait => .wait
      | .ok bs s1 => reloadPlanes c d es (s1.mapRun fun r => r.mapElem e fun y =>
          { y with acc := planeOf bs, drn := planeOf (bs.drop 72) })

/-- Present the bursts of an iteration, with ACCSW behind them at the end of a reduction. -/
def jobPresent (d : Card) (s : State) (c : Cmd) : State :=
  let p := c.portNo
  let a := c.base + BitVec.ofInt 64 (d.aoff + dotCtr c.ctr d.astr)
  let b := c.base + BitVec.ofInt 64 (d.boff + dotCtr c.ctr d.bstr)
  if !s.portFree p || !s.portFree (p + 1) then s
  else if a.toNat % 4 ≠ 0 then s.cmdFault c tcALIGN a c.ctr
  else if b.toNat % 4 ≠ 0 then s.cmdFault c tcALIGN b c.ctr
  else match cardBurst d d.alen s c a with
    | .fault s e v => s.cmdFault c e v c.ctr
    | .wait => s
    | .ok xa s1 =>
      match cardBurst d d.blen s1 c b with
      | .fault s1 e v => s1.cmdFault c e v c.ctr
      | .wait => s
      | .ok xb s2 =>
        match s2.offer p xa with
        | none => s2.cmdFault c tcBURSTBAD a c.ctr
        | some s3 =>
          match s3.offer (p + 1) xb with
          | none => s2.cmdFault c tcBURSTBAD b c.ctr
          | some s4 =>
            if lastOf d.counts c.ctr (d.klev + 1) then
              ((s4.offerCtl p .accsw).offerCtl (p + 1) .accsw).mapCmd c.seq fun x => { x with sub := 2 }
            else if lastOf d.counts c.ctr d.klev then s4.mapCmd c.seq fun x => { x with sub := 3 }
            else s4.jobNext c d

/-- Take the C unit of a reduction and write it. -/
def jobTake (d : Card) (s : State) (c : Cmd) : State :=
  let va := c.base + BitVec.ofInt 64 (d.coff + dotCtr c.ctr d.cstr)
  let q := (s.me.run.port (c.portNo + 2)).outq
  if va.toNat % 4 ≠ 0 then s.cmdFault c tcALIGN va c.ctr
  else if q.length < d.cunit then s
  else match engWrite (enginePlace false) s va (q.take d.cunit) with
    | .fault s e v => s.cmdFault c e v c.ctr
    | .wait => s
    | .ok clk s1 => (s1.mapRun fun r => r.mapPort (c.portNo + 2) fun x => x.leave d.cunit).mapCmd c.seq fun x =>
        { x with sub := 3, wclk := max x.wclk clk }

/-- SC.JOB. -/
def execScJob (_p : BitVec 6) (_blk : BitVec 24) (s : State) : Res :=
  runCmd s State.startFault startJob fun s c => withCard c s fun d =>
    if c.spilt then
      if s.me.overtaken c d || !s.me.jobAtRest c then s
      else match reloadPlanes c d (s.me.jobElems c) s with
        | .fault s e v => s.cmdFault c e v c.ctr
        | .wait => s
        | .ok _ s1 => (s1.takeCard c.seq d).jobNext c d
    else
      let s1 := s.freeJobPorts c d
      match c.sub with
      | 0 => jobPresent d s c
      | 2 => jobTake d s1 c
      | _ =>
        if (s1.overtaker c d).isSome && !(nextCtr d.counts c.ctr).isEmpty then s1
        else s1.jobNext ((s1.me.cmd? c.seq).getD c) d

/-- JOB_OVERTAKE (R153, R286): the running job in focus, at a k-block boundary with its operands at rest, spills the planes of the run's
cells, its own are cleared, and the job that overtakes it starts, or stops where its start finds a fault (R264). -/
def execJobOvertake (s : State) : Res :=
  match s.me.cmd? s.cur.seq with
  | none => .next s
  | some c =>
    match cardOf c.raw c.base with
    | none => .next s
    | some d =>
      if c.op ≠ 0x12 || c.phase != .running || c.sub ≠ 3 || c.spilt || s.me.run.gated || !s.me.jobAtRest c ||
          (nextCtr d.counts c.ctr).isEmpty then .next s
      else match s.overtaker c d with
        | none => .next s
        | some x =>
          match spillPlanes c d (List.range s.me.run.elems.length) 0 s with
          | .fault s e v => .next (s.cmdFault c e v c.ctr)
          | .wait => .next s
          | .ok k s1 =>
            let s2 := (s1.mapRun fun r => r.clearPlanes (s1.me.jobElems c)).mapCmd c.seq fun y =>
              { y with spilt := true, wclk := max y.wclk k }
            .next (match s2.startFault x with
              | some (e, va) => s2.startStop x e va
              | none => startJob s2 x)

/-! ## Exchanges (R287 to R290) -/

/-- The message of a command has been accepted by the peer's channel end. -/
def State.msgAccepted (s : State) (c : Cmd) : Bool :=
  !s.chans.any fun x => x.msgWire.any fun m => m.src == s.me.id && m.seq == c.seq

/-- Send the face (sub bit 0). -/
def haloSend (d : HaloDesc) (s : State) (c : Cmd) : State :=
  match s.myChan d.chout with
  | none => s
  | some x =>
    let va := c.base + BitVec.ofInt 64 d.soff
    if s.consumerClosed x && x.strict then s.endCmd c tcCHCLOSED
    else if !s.consumerClosed x && wireDepth ≤ x.msgWire.length then s
    else match engRead (enginePlace false) s va d.len c.nseed c.nstep with
      | .fault s e a => s.cmdFault c e a []
      | .wait => s
      | .ok bs s1 =>
        let s2 := s1.mapCmd c.seq fun y => { y with sub := y.sub + 1 }
        if s.consumerClosed x then s2.discardMsg ((s2.joined x).getD x) (msgWords d.len)
        else s2.mapChan x.fn x.blk x.ch fun y =>
          { y with msgWire := y.msgWire ++ [⟨d.tag, bs, s.me.ctx.clock, s.me.id, c.seq, false, 0⟩] }

/-- A message leaves a channel's holding place. -/
def State.dropMsg (s : State) (x : Chan) (i : Nat) (m : HaloMsg) : State :=
  let y := { x with msgs := x.msgs.eraseIdx i }
  ((s.mapChan x.fn x.blk x.ch fun z => { z with msgs := y.msgs }).spillReturn x.fn x.blk (8 * m.spilt)).refit y y.front

/-- Receive the first message that carries the tag (sub bit 1). -/
def haloReceive (d : HaloDesc) (s : State) (c : Cmd) : State :=
  match s.myChan d.chin with
  | none => s
  | some x =>
    let va := c.base + BitVec.ofInt 64 d.roff
    match findIdx (fun m => m.tag == d.tag) x.msgs with
    | none => s
    | some i =>
      match x.msgs[i]? with
      | none => s
      | some m =>
        if m.bytes.length ≠ d.len then
          ((s.dropMsg x i m).discardMsg x (msgWords m.bytes.length)).cmdFault c tcPROT va []
        else match engWrite (enginePlace false) s va m.bytes with
          | .fault s e a => s.cmdFault c e a []
          | .wait => s
          | .ok clk s1 => (s1.dropMsg x i m).mapCmd c.seq fun y => { y with sub := y.sub + 2, wclk := max y.wclk (max clk m.clk) }

/-- SC.HALO. -/
def execScHalo (_p : BitVec 6) (_blk : BitVec 24) (s : State) : Res :=
  runCmd s State.startFault (fun s c => s.startCmd c []) fun s c =>
    match haloOf c.raw with
    | none => s
    | some d =>
      if !d.nosend && c.sub % 2 = 0 then haloSend d s c
      else if !d.norecv && c.sub < 2 then haloReceive d s c
      else if s.msgAccepted c then s.finishCmd c.seq else s

/-- A start of SC.COLL also needs the buffer aligned. -/
def collFault (s : State) (c : Cmd) : Option (BitVec 8 × Word) :=
  (s.startFault c).orElse fun _ => match collOf c.raw with
    | none => none
    | some d =>
      let va := c.base + BitVec.ofInt 64 d.off
      if va.toNat % d.recSize ≠ 0 then some (tcALIGN, va) else none

/-- The member list of collective group `g` of a function (R410); none where it cannot be read. -/
def collMembers (s : State) (fn g : Nat) : Option (List Word) :=
  let t := (s.fn fn).cgt
  if bitsAt t 0 13 ≤ g then none
  else match devRead s fn (regBase t 16 + BitVec.ofNat 64 (16 * g)) 16 with
    | .error _ => none
    | .ok bs =>
      match devRead s fn (dword bs 8) (8 * bitsAt (dword bs 0) 0 13) with
      | .error _ => none
      | .ok ms => some ((List.range (bitsAt (dword bs 0) 0 13)).map fun i => dword ms (8 * i))

/-- A read of the group table or of a member list that faults leaves a record (R466). -/
def State.collFaulted (s : State) (fn g : Nat) : State :=
  let t := (s.fn fn).cgt
  if bitsAt t 0 13 ≤ g then s
  else match devRead s fn (regBase t 16 + BitVec.ofNat 64 (16 * g)) 16 with
    | .error (c, a) => s.devFault fn c a
    | .ok bs =>
      match devRead s fn (dword bs 8) (8 * bitsAt (dword bs 0) 0 13) with
      | .error (c, a) => s.devFault fn c a
      | .ok _ => s

/-- Package, function and task index of a member (R410). -/
def memPkg (m : Word) : BitVec 8 := m.extractLsb' 0 8
def memFn (m : Word) : Nat := bitsAt m 8 8
def memIdx (m : Word) : BitVec 32 := m.extractLsb' 32 32

/-- What a member of this package contributes to its group, by its command. -/
def shareOf (s : State) (t : TaskId) (d : CollDesc) (seq : BitVec 32) (ms : List Word) (bs : List Byte) : CollShare where
  grp := d.group
  seq := seq
  srcPkg := s.wh.pkg
  srcFn := t.fn
  srcIdx := t.idx
  members := ms
  op := d.op
  nrec := d.nrec
  data := bs

/-- The acting member contributes what it has read, to the members that its table lists now; each other package of the group has a
copy sent (R290). A table that cannot be read is a dropped access (R466): the member then waits in a group of none. -/
def State.contribute (s : State) (c : Cmd) (d : CollDesc) (bs : List Byte) : State :=
  let s0 := if (collMembers s s.me.id.fn d.group).isSome then s else s.collFaulted s.me.id.fn d.group
  let ms := (collMembers s s.me.id.fn d.group).getD []
  (((ms.map memPkg).filter (· != s.wh.pkg)).eraseDups).foldl (fun (st : State) p =>
    st.sendPkg p st.me.ctx.clock (.share (shareOf s s.me.id d c.seq ms bs)))
      (s0.mapCmd c.seq fun y => { y with sub := 1, left := bs, mems := ms })

/-- SC.COLL: sub 0, the buffer is read; 1, contributed; 2, the sum is to be written. -/
def execScColl (_p : BitVec 6) (_blk : BitVec 24) (s : State) : Res :=
  runCmd s collFault (fun s c => s.startCmd c []) fun s c =>
    match collOf c.raw with
    | none => s
    | some d =>
      let va := c.base + BitVec.ofInt 64 d.off
      match c.sub with
      | 0 => match engRead (enginePlace false) s va (d.nrec * d.recSize) c.nseed c.nstep with
        | .fault s e a => s.cmdFault c e a []
        | .wait => s
        | .ok bs s1 => s1.contribute c d bs
      | 1 => s
      | _ => match engWrite (enginePlace false) s va c.left with
        | .fault s e a => s.cmdFault c e a []
        | .wait => s
        | .ok clk s1 => (s1.mapCmd c.seq fun y => { y with left := [], wclk := max y.wclk clk }).finishCmd c.seq

/-- With a member's task in focus. -/
def State.asTask (s : State) (t : TaskId) (f : State → State) : State :=
  match s.focus t with
  | some s1 => f s1
  | none => s

/-! ## Retirement (R263, R276) -/

/-- The first doubleword of a status record. -/
def statusWord (c : Cmd) (done : Bool) : Word :=
  BitVec.ofNat 64 (bool1 done + bool1 c.psat * 2 + c.cause.toNat * 2 ^ 8 + c.seq.toNat * 2 ^ 32)

/-- A command's reducing copies end: their tiles hold them no longer (R159). -/
def State.freeTiles (s : State) (c : Cmd) : State :=
  c.tiles.foldl (fun (st : State) t => st.setTile t { st.tile t with copies := (st.tile t).copies - 1 }) s

/-- The command leaves the footprint table; its retirement sets the event latch (R259). -/
def State.retireCmd (s : State) (c : Cmd) : State :=
  ((s.freeTiles c).mapCmd c.seq fun x => { x with phase := .done, foot := [], raw := [], left := [], tiles := [] }).mapCtx
    fun x => { x with latch := true }

/-- In deterministic mode the status record is written at the merge, when PSAT is known (R277). -/
def State.noteStatus (s : State) (c : Cmd) (va : Word) : State :=
  if !s.me.eff.det then s
  else match enginePlace false s va .engWrite with
    | .ok _ (.mem k _) => s.mapMe fun t => { t with det := { t.det with stats := t.det.stats ++ [(c.seq, k)] } }
    | _ => s

/-- A live copy into a flume. -/
def State.copiesInto (s : State) (f : Flume) : Bool :=
  s.all.any fun t => t.id.fn == f.fn && t.id.blk == f.owner.blk && t.cmds.any fun c => c.live && c.op == 0x0C && c.base == f.hdr

/-- The task of a name has exited, or is known no more. -/
def State.hasExited (s : State) (t : TaskId) : Bool :=
  match s.task? t with
  | some x => x.gone
  | none => true

/-- Flumes whose owner has exited and whose copies have retired are freed: their slots go back to FLSLOTS (R243). -/
def State.reapFlumes (s : State) : State :=
  (s.flumes.filter fun f => !f.gone && s.hasExited f.owner && !s.copiesInto f).foldl (fun (st : State) f =>
    (st.mapFlume f.fn f.hdr fun x => { x with gone := true }).mapLineage f.fn f.owner.blk fun b =>
      { b with useFl := b.useFl - f.slots }) s

/-- COMMAND_RETIRE: the command in focus, finished, writes its status record and retires. -/
def execCommandRetire (s : State) : Res :=
  match s.me.cmd? s.cur.seq with
  | none => .next s
  | some c =>
    if c.phase != .finished then .next s
    else match c.status with
      | none => .next (s.retireCmd c).reapFlumes
      | some va =>
        match engWrite (enginePlace false) s va (dbytes (statusWord c (c.cause == 0))) with
        | .wait => .next s
        | .fault s e a => .next (s.cmdFault c e a c.ctr)
        | .ok clk s1 => .next (((s1.noteStatus c va).mapCmd c.seq fun x => { x with wclk := max x.wclk clk }).retireCmd c)

/-! ## What an output port waits for -/

/-- Bytes of the unit that a running command takes from a port; 0 where none does. -/
def State.portNeed (s : State) (p : Nat) : Nat :=
  match s.me.cmds.find? fun c => c.phase == .running && !c.spilt && c.ports.contains p with
  | none => 0
  | some c =>
    match c.op with
    | 0x0B => if c.ctr.isEmpty then 0 else 2 ^ cRop c.word
    | 0x0C => match s.cmdFlume c with
      | some f => if c.sub = 1 || f.fullNow then 0 else f.slotsz
      | none => 0
    | 0x12 => if p = c.portNo + 2 && c.sub = 2 then (match cardOf c.raw c.base with
      | some d => d.cunit
      | none => 0) else 0
    | 0x08 => unit c
    | 0x09 => (match patOf c.raw with
      | some p => if c.ctr.isEmpty then 0 else p.unit * p.chunkLeft c.ctr
      | none => 0)
    | 0x0D => unit c
    | _ => 0
where
  unit (c : Cmd) : Nat := match patOf c.raw with
    | some p => if c.ctr.isEmpty then 0 else p.unit
    | none => 0

/-- Bytes of the unit whose write a control token at a port waits for (R279): a reducing copy takes several into one chunk, and a slot
that stands whole at the port waits for room in its flume. -/
def State.portUnit (s : State) (p : Nat) : Nat :=
  match s.me.cmds.find? fun c => c.phase == .running && !c.spilt && c.ports.contains p with
  | some c => if c.op = 0x09 then (match patOf c.raw with
      | some x => if c.ctr.isEmpty then 0 else x.unit
      | none => 0)
    else if c.op = 0x0C then (match s.cmdFlume c with
      | some f => f.slotsz
      | none => 0)
    else s.portNeed p
  | none => 0

end Sys2Proof.Machine
end

