-- ==== Sys2Proof/Machine/Det.lean ====
section
/-!
DEFINITION. Sys2Proof/Machine/Det.lean: deterministic mode: SYNCD (R251), rounds of atomics (R130, R374), and the merge of an
interval (R127 to R131, R277, R369 to R373).
-/

namespace Sys2Proof.Machine

/-! ## SYNCD (R251, R137, R141) -/

/-- The SYNCD of the acting context retires: its place is given up, and a conflict of the merge is taken. -/
def State.leaveSyncd (s : State) (next : Word) : State :=
  let s1 := (s.mapCtx (·.unhold .syncd)).mapMe fun t => { t with det := { t.det with conflict := none } }
  match s.me.det.conflict with
  | some va => s1.retireTrap next tcDETCONFLICT va
  | none => s1.retireTo next

/-- A SYNCD or an atomic that a handler now running has interrupted is held (R141). -/
def Ctx.holdsBelow (c : Ctx) : Bool := c.held.any fun x => x.1 < c.nest

/-- SYNCD. One that the context sleeps in, or whose place it keeps at this depth, rejoins its interval; a handler's own is illegal
while an instruction below it is held (R141). -/
def execSyncd (g : Guard) (s : State) : Res :=
  let i := Instr.syncd g
  guarded i g s fun s =>
    if !s.me.eff.det then .next (s.retireTo (nextPc i s))
    else if s.me.ctx.wait == .syncd || s.me.ctx.keeps .syncd then
      if s.me.det.arrived then .next (s.waitOn .syncd) else .next (s.leaveSyncd (nextPc i s))
    else if s.me.ctx.holdsBelow then .next (s.trapAt tcILLOP (infoWord i))
    else if s.me.busy then .next (s.waitOn .cmdsRetired)
    else .next ((s.mapMe fun t => { t with det := { t.det with arrived := true } }).waitOn .syncd)

/-! ## Groups -/

/-- A task that has exited, with its commands retired, or was killed: it counts as having reached every later SYNCD. -/
def Task.exited (t : Task) : Bool := (t.st == .draining && !t.busy) || t.st == .exited || t.st == .ended || t.st == .killed

/-- The group of a node block. -/
def State.groupOf (s : State) (fn : Nat) (blk : Word) : Option Group := s.groups.find? fun g => g.fn == fn && g.blk == blk

/-- Change a group. -/
def State.mapGroup (s : State) (fn : Nat) (blk : Word) (f : Group → Group) : State :=
  { s with groups := s.groups.map fun g => if g.fn == fn && g.blk == blk then f g else g }

/-- Every task of a node block satisfies a test. -/
def State.everyTask (s : State) (fn : Nat) (blk : Word) (p : Task → Bool) : Bool :=
  match s.blk? fn blk with
  | none => false
  | some b => b.eff.tcount.toNat ≤ ((s.party fn blk).filter p).length

/-! ## Rounds (R130) -/

/-- The lowest open round of a word. -/
def Group.openRound (g : Group) (loc size : Nat) : Option Nat :=
  (g.rounds.filter fun r => r.loc == loc && r.size == size && r.res.isNone).foldl (fun m r =>
    match m with
    | none => some r.round
    | some k => some (min k r.round)) none

/-- A task's atomics in rounds of a word. -/
def Group.issued (g : Group) (idx : BitVec 32) (loc size : Nat) : Nat :=
  (g.rounds.filter fun r => r.idx == idx && r.loc == loc && r.size == size).length

/-- Cells below, in and above the sluice space. -/
def inSpace (p : Nat → Bool) (m : List Host.Cell) : List Host.Cell := m.filter fun c => p (spaceOf c.1)

/-- What the interval of a group starts from: the snapshot, and sluice storage as it stands, zero where an object is new (R128,
R231). -/
def State.detBase (s : State) (g : Group) : List Host.Cell :=
  inSpace (· < spSluice) g.snap ++ inSpace (· == spSluice) s.mem ++ inSpace (spSluice < ·) g.snap

/-- A word's value: each byte after the last closed round that covers it, or as the interval starts from `base` (R130, R374). -/
def Group.wordVal (g : Group) (base : List Host.Cell) (loc size : Nat) : Nat :=
  leNat ((List.range size).map fun i => (roundByte g.vals (loc + i)).getD (memGet base (loc + i)))

/-- Apply atomics in order from a value: the results by task, and the value after them. -/
def applyRound (size : Nat) : List AtomRec → Nat → List (BitVec 32 × Nat) × Nat
  | [], v => ([], v)
  | r :: rest, v =>
    let (rs, w) := applyRound size rest (atomicNew r.op size v r.val.toNat r.cmp.toNat)
    ((r.idx, v) :: rs, w)

/-- Close round `m` of a word: its atomics apply in ascending task index; the newest value stands first. One that comes when its round has
closed, from the handler of a task whose SYNCD is held (R141), makes a round of its own behind those that have closed. -/
def Group.closeRound (g : Group) (base : List Host.Cell) (loc size m : Nat) : Group :=
  let here (r : AtomRec) : Bool := r.loc == loc && r.size == size && r.round == m && r.res.isNone
  let rs := sortBy (fun (x y : AtomRec) => x.idx < y.idx) (g.rounds.filter here)
  let (res, v) := applyRound size rs (g.wordVal base loc size)
  { g with
    rounds := g.rounds.map fun r =>
      if here r then { r with res := (res.find? fun x => x.1 == r.idx).map fun x => (BitVec.ofNat 64 x.2, BitVec.ofNat 64 v) } else r
    vals := (loc, size, BitVec.ofNat 64 v, m) :: g.vals.filter fun x => !(x.1 == loc && x.2.1 == size) }

/-- ATOMIC_ROUND_CLOSE: the word of `n` bytes at `k` in the group of node block `w`. -/
def execAtomicRoundClose (s : State) : Res :=
  let fn := s.cur.arg.fn
  let blk := s.cur.arg.w
  let loc := s.cur.arg.k
  let size := s.cur.arg.n
  match s.groupOf fn blk with
  | none => .next s
  | some g =>
    match g.openRound loc size with
    | none => .next s
    | some m =>
      if s.everyTask fn blk fun t => m ≤ g.issued t.id.idx loc size || t.det.arrived || t.exited then
        .next (s.mapGroup fn blk fun g => g.closeRound (s.detBase g) loc size m)
      else .next s

/-! ## Conflicts (R129, R371, R374) -/

/-- The shape of a write: atomics of one address and size combine with each other, and reducing copies do. -/
inductive Shape where
  | plain
  | atom (loc size : Nat)
  | red
deriving DecidableEq, Repr

/-- Two writes of different tasks to one byte conflict. -/
def Shape.clash : Shape → Shape → Bool
  | .atom l n, .atom m k => !(l == m && n == k)
  | .red, .red => false
  | _, _ => true

/-- A byte that a task wrote. -/
structure Touch where
  loc   : Nat
  va    : Word
  shape : Shape
deriving DecidableEq, Repr

/-- The bytes of an atomic. -/
def AtomRec.touches (r : AtomRec) : List Touch :=
  (List.range r.size).map fun i => ⟨r.loc + i, r.va + BitVec.ofNat 64 i, .atom r.loc r.size⟩

/-- Bytes of a task's atomics in rounds. -/
def roundTouches (g : Group) (t : Task) : List Touch := (g.rounds.filter fun r => r.idx == t.id.idx).flatMap AtomRec.touches

/-- Every byte that a task wrote in the interval. -/
def touches (g : Group) (t : Task) : List Touch :=
  t.det.writes.map (fun w => ⟨w.loc, w.va, .plain⟩) ++ t.det.atoms.flatMap AtomRec.touches ++
  t.det.reds.flatMap (fun r => (List.range r.bytes.length).map fun i => ⟨r.loc + i, r.va + BitVec.ofNat 64 i, .red⟩) ++
  roundTouches g t

/-- The lowest byte at which a task conflicts with a lower-index task. -/
def conflictOf (g : Group) (ts : List Task) (t : Task) : Option Word :=
  let lower := (ts.filter fun x => x.id.idx < t.id.idx).flatMap (touches g)
  ((touches g t).filter fun a => lower.any fun b => a.loc == b.loc && a.shape.clash b.shape).foldl (fun m a =>
    match m with
    | none => some a.va
    | some v => some (if a.va < v then a.va else v)) none

/-! ## The bytes of the merge (R129) -/

/-- Apply a task's non-returning atomics. -/
def mergeAtoms (m : List Host.Cell) (t : Task) : List Host.Cell :=
  t.det.atoms.foldl (fun m r =>
    memPut m r.loc (leBytes r.size (atomicNew r.op r.size (memNat m r.loc r.size) r.val.toNat r.cmp.toNat))) m

/-- Apply a task's reducing copies, noting the commands that saturated. -/
def mergeReds (m : List Host.Cell × List (BitVec 32 × BitVec 32)) (t : Task) : List Host.Cell × List (BitVec 32 × BitVec 32) :=
  t.det.reds.foldl (fun m r =>
    let n := r.bytes.length
    let (v, sat) := reduceBytes r.rop.toNat (memBytes m.1 r.loc n) r.bytes (n / ropWidth r.rop.toNat)
    (memPut m.1 r.loc v, if sat then (t.id.idx, r.seq) :: m.2 else m.2)) m

/-- Apply a task's plain writes, oldest first. -/
def mergePlain (m : List Host.Cell) (t : Task) : List Host.Cell := t.det.writes.reverse.foldl (fun m w => memSet m w.loc w.val) m

/-- The image of the merge over what the interval started from, and the commands that saturated: rounds, the last closed on top,
atomics, reducing copies, writes. -/
def mergeImage (g : Group) (base : List Host.Cell) (kept : List Task) : List Host.Cell × List (BitVec 32 × BitVec 32) :=
  let m1 := g.vals.reverse.foldl (fun m v => memPut m v.1 (leBytes v.2.1 v.2.2.1.toNat)) base
  let (m2, sat) := kept.foldl mergeReds (kept.foldl mergeAtoms m1, [])
  (kept.foldl mergePlain m2, sat)

/-- Put one byte of the merge of a node block, with what a write does beside (R438, R417). -/
def State.mergeByte (s : State) (fn : Nat) (blk : Word) (a : Touch) (x : Byte) : State :=
  let s1 := s.capture fn blk a.loc
  let s2 := if spaceOf a.loc = spHbm then
      (match walk s1 fn a.va with
        | .ok (p, _) => s1.underSlot a.loc 1 (pteKey p)
        | .error _ => s1)
    else s1
  { s2 with mem := memSet s2.mem a.loc x }

/-- The logical time of a task's writes: after every time of their lines and after the lower indices'. -/
def mergeTime (lines : List (Nat × Nat × Nat)) (keys : List Nat) (prev : Nat) : Nat :=
  keys.foldl (fun m k => let (w, r) := lineTimes lines k; max m (max (w + 1) (r + 1))) (prev + 1)

/-- The first bytes of the lines of an object that have been accessed: its drop is a store over the whole of it (R124). -/
def State.objKeys (s : State) (id : Nat) : List Nat :=
  let lo := lineOf (keyOf spSluice (id * 2 ^ 24))
  (s.lines.filter fun x => lo ≤ x.1 && x.1 < lo + 2 ^ 17).map fun x => 128 * x.1

/-- Stamp the lines of a task's writes in a function's partition, those of the objects it drops among them: one logical time after the
task's clock (R124, R131), or the previous one where there are none. -/
def State.stamp (s : State) (fn : Nat) (keys drops : List Nat) (prev clk : Nat) : Nat × State :=
  let ks := keys.filter (fun k => spaceOf k ≤ 1 || spaceOf k == spSluice) ++ drops.flatMap s.objKeys
  if ks.isEmpty && drops.isEmpty then (prev, s)
  else
    let t := mergeTime s.lines ks (if drops.isEmpty then prev else max prev (clk - 1))
    (t, ({ s with lines := ks.foldl (fun l k => aset l (lineOf k) (t, t)) s.lines } : State).noteTime fn t)

/-- The drops of a task at the merge: published, or abandoned where its writes are discarded (R131). -/
def State.mergeDrops (s : State) (t : Task) (keep : Bool) (td : Nat) : State :=
  t.det.drops.foldl (fun (st : State) o => if keep then st.publishAt o td else st.objAbandon o) s

/-- The DLAUNCH links of a task at the merge (R252): what finds its queue full waits there (R380). -/
def State.mergeLaunches (s : State) (t : TaskId) (as_ : List Word) : State :=
  as_.foldl (fun (st : State) a => st.asTask t fun st => match st.linkTree (devBlock t.fn) false a with
    | .error _ => st
    | .ok (_, st1) => st1) s

/-- What one task has to take from the merge. -/
def DetTask.close (d : DetTask) (conflict : Option Word) : DetTask :=
  { DetTask.zero with interval := d.interval + 1, conflict := conflict }

/-- The tasks in ascending index: stamps, drops and launches of each. -/
def mergeOrder (g : Group) (lost : Task → Bool) : List Task → Nat → State → Nat × State
  | [], t0, s => (t0, s)
  | t :: rest, t0, s =>
    let keys := (if lost t then roundTouches g t else touches g t).map (·.loc)
    let (t1, s1) := s.stamp t.id.fn keys (if lost t then [] else t.det.drops) t0 t.ctx.clock
    let s2 := s1.mergeDrops t (!lost t) t1
    mergeOrder g lost rest t1 (if lost t then s2 else s2.mergeLaunches t.id t.det.launches)

/-- The merge of a group whose interval has ended. -/
def State.merge (s : State) (g : Group) : State :=
  let ts := sortBy (fun (x y : Task) => x.id.idx < y.id.idx) (s.party g.fn g.blk)
  let cs := ts.map fun t => (t.id.idx, conflictOf g ts t)
  let conflict (t : Task) : Option Word := ((cs.find? fun c => c.1 == t.id.idx).map (·.2)).getD none
  let lost (t : Task) : Bool := (conflict t).isSome
  let kept := ts.filter fun t => !lost t
  let (img, sat) := mergeImage g (s.detBase g) kept
  let cells := kept.flatMap (touches g) ++ (ts.filter lost).flatMap (roundTouches g)
  let s1 := cells.foldl (fun (st : State) a => st.mergeByte g.fn g.blk a (memGet img a.loc)) s
  let psat := kept.flatMap fun t => (t.det.stats.filter fun x => sat.contains (t.id.idx, x.1)).map (·.2)
  let s2 : State := { s1 with mem := psat.foldl (fun m k => memSet m k (memGet m k ||| 2)) s1.mem }
  let (t1, s3) := mergeOrder g lost ts 0 s2
  let bytes := 128 * sumNat (ts.map fun t => t.det.charged.length)
  let s4 := (s3.spillReturn g.fn g.blk bytes).mapTasks (fun t => t.id.fn == g.fn && t.id.blk == g.blk) fun t =>
    ({ t with
      merged := t.exited
      det := t.det.close (if t.exited then none else conflict t), ctx := { t.ctx with clock := max t.ctx.clock t1 } } :
      Task).trimWindow
  let s5 := if ts.any fun t => lost t && t.exited then (s4.endBlk g.fn g.blk .faulted tcDETCONFLICT).settle else s4
  s5.mapGroup g.fn g.blk fun x => { x with interval := x.interval + 1, snap := s5.mem, rounds := [], vals := [] }

/-- A task of a deterministic group waits for the merge: it has something for the merge to take, or has exited in the interval. -/
def Task.pending (t : Task) : Bool :=
  t.det.arrived || (t.eff.det && !t.merged && (t.st == .draining || t.st == .exited)) ||
    !(t.det.writes.isEmpty && t.det.atoms.isEmpty && t.det.reds.isEmpty && t.det.stats.isEmpty && t.det.drops.isEmpty &&
      t.det.launches.isEmpty && t.det.charged.isEmpty)

/-- INTERVAL_MERGE: the group of node block `w`, once every task has reached its SYNCD or exited. -/
def execIntervalMerge (s : State) : Res :=
  let fn := s.cur.arg.fn
  let blk := s.cur.arg.w
  let me := s.me.id
  match s.groupOf fn blk with
  | none => .next s
  | some g =>
    if s.neverMeets fn blk || !(s.party fn blk).any Task.pending || !s.everyTask fn blk (fun t => t.det.arrived || t.exited) then .next s
    else .next (((s.merge g).focus me).getD (s.merge g))

end Sys2Proof.Machine
end

