-- ==== Sys2Proof/Machine/Ending.lean ====
section
/-!
DEFINITION. Sys2Proof/Machine/Ending.lean: how a task leaves the hardware: its retirement after EXIT (R37, R208, R243), a kill
and the fault domain it is contained in (R45, R146, R147, R464), and the task record of a replay (R442).
-/

namespace Sys2Proof.Machine

/-! ## Task records of a replay (R442) -/

/-- The events and on bits of the counters, laid out as a plan doubleword (R441). -/
def Ctx.planWord (c : Ctx) : Word :=
  BitVec.ofNat 64 (((List.range 4).zip c.ctrs.toList).foldl (fun n x =>
    n + (x.2.ev.toNat + bool1 x.2.on * 2 ^ 15) * 2 ^ (16 * x.1)) 0)

/-- The 64 bytes of a task record. -/
def taskRecord (t : Task) (pass : Nat) (cause : BitVec 8) : List Byte :=
  dbytes t.id.blk ++ leBytes 8 (t.id.idx.toNat + pass * 2 ^ 32 + cause.toNat * 2 ^ 40) ++
  t.ctx.ctrs.toList.flatMap (fun c => leBytes 8 c.val.toNat) ++ dbytes t.ctx.sig ++ dbytes t.ctx.planWord

/-- Append the record of a task that ends in a replay, or drop and count it. -/
def State.replayRecord (s : State) (t : Task) (cause : BitVec 8) : State :=
  let f := s.fn t.id.fn
  if !s.replays t.id.fn t.id.blk then s
  else
    let n := 2 ^ (min 20 (bitsAt f.rpout 0 5))
    if n ≤ f.rpoutrec then s.setFn t.id.fn { f with rpoutlost := min 65535 (f.rpoutlost + 1) }
    else
      let base := regBase f.rpout 6
      (s.setFn t.id.fn { f with rpoutrec := f.rpoutrec + 1 }).devPut t.id.fn (base + BitVec.ofNat 64 (64 * f.rpoutrec))
        (taskRecord t f.rppass.toNat cause)

/-! ## Leaving the hardware -/

/-- A mill is one of those a block's tasks may be placed on, whatever world it is in now (R379). -/
def State.coversMill (s : State) (b : Blk) (mill : Nat) : Bool :=
  List.elem mill (s.fn b.fn).mills && (b.cut.isEmpty || dieOf mill == s.blkDie b)

/-- The stones of a task go back to the budgets, and the entries on whose mills its run stood may hold the head again (R44, R384). -/
def State.freeStones (s : State) (t : Task) : State :=
  let s1 := s.mapLineage t.id.fn t.id.blk fun b => { b with useStones := b.useStones - t.size }
  let keep (x : Nat × Word × BitVec 32) : Bool := match s1.blk? x.1 x.2.1 with
    | some b => !s1.coversMill b t.mill
    | none => false
  { s1 with dies := s1.dies.map fun d => (d.1, { d.2 with barred := d.2.barred.filter keep }) }

/-- The lower-index of two tasks that did not exit. -/
def lowerBad (a : Option (BitVec 32 × BitVec 8)) (i : BitVec 32) (c : BitVec 8) : Option (BitVec 32 × BitVec 8) :=
  match a with
  | some (j, d) => if j < i then some (j, d) else some (i, c)
  | none => some (i, c)

/-- The acting task leaves its mill: its run and context are free (R37, R208), its counters' records written. -/
def State.leaveMill (s : State) (st : TaskSt) : State :=
  let t := s.me
  let s0 := s.wrapRecords
  let s1 := if t.isPlaced then s0.freeStones t else s0
  ((s1.dropPlane t.run.act).dropPlane t.run.inact).mapMe fun t => { t with
    st := st, saving := false, moveTo := none, waitsStart := false
    run := .empty, cmds := [], window := []
    ctx := { t.ctx with st := .free, wait := .none, parked := none, pend := [] } }

/-- The acting task has ended, by EXIT or by a cause: its run and context are free, its block counts it, its record is
written. -/
def State.finishTask (s : State) (exit : Bool) (cause : BitVec 8) : State :=
  let t := s.me
  let s3 := (s.leaveMill (if exit then .ended else .killed)).mapMe fun t => { t with cause := cause, counted := true, stop := .none }
  let s4 := s3.mapBlk t.id.fn t.id.blk fun b => { b with
    gone := b.gone + 1
    badTask := if exit then b.badTask else lowerBad b.badTask t.id.idx cause
    sigs := b.sigs ++ [(t.id.idx, t.ctx.sig)] }
  let s5 := if exit then s4.mapLineage t.id.fn t.id.blk fun b => { b with retired := b.retired + 1 } else s4
  (s5.replayRecord t cause).reapFlumes.settle

/-- Publish the objects whose drop at EXIT waited for fills that have retired (R124, R208). -/
def State.lateDrops (s : State) : State :=
  let ready := s.me.det.drops.filter fun o => !s.me.fillsInto o
  (ready.foldl (fun (st : State) o => st.objPublish o st.me.ctx.clock) s).mapMe fun t =>
    ({ t with det := { t.det with drops := t.det.drops.filter fun o => !ready.contains o } } : Task).trimWindow

/-- A TAG has emerged at an output port of the run and waits to push (R279): its word is not dropped (R38). -/
def Run.tagWaits (r : Run) : Bool := r.ports.any fun p => !p.ctlq.isEmpty

/-- A task that has exited leaves its run and context: its commands have retired (R37, R208). -/
def Task.mayLeave (t : Task) : Bool :=
  t.st == .draining && !t.saving && !t.busy && t.stop == .none && !t.run.tagWaits

/-- A task that has exited has nothing left to wait for: in deterministic mode its writes are made at the merge of the interval. -/
def Task.mayRetire (t : Task) : Bool :=
  (t.mayLeave || (t.st == .exited && t.stop == .none)) && !t.pending

/-- The tasks of a deterministic group whose writes one merge has made retire in ascending task index, as their writes are
made (R129, R442, R451; DEDUCED, log 16). -/
def State.retiresLater (s : State) : Bool :=
  s.me.eff.det && (s.party s.me.id.fn s.me.id.blk).any fun t => t.id.idx < s.me.id.idx && t.mayRetire

/-- TASK_RETIRE: the acting task has exited, its commands have retired, and its writes are made; in deterministic mode at the merge of
its interval, before which it leaves its run and context. -/
def execTaskRetire (s : State) : Res :=
  if (s.me.st != .draining && s.me.st != .exited) || s.me.saving then .next s
  else
    let s1 := if s.me.eff.det then s else s.lateDrops
    if s1.me.mayRetire && !s1.retiresLater then .next (s1.finishTask true 0)
    else .next (if s1.me.eff.det && s1.me.mayLeave then s1.leaveMill .exited else s1)

/-! ## Kills (R147) -/

/-- The status records of the commands that a kill stops (R276); in deterministic mode they are writes of the interval,
which are discarded. -/
def State.killStatus (s : State) (c : Cmd) : State :=
  if s.me.eff.det then s
  else match c.status with
    | none => s
    | some va => match engWrite (enginePlace false) s va (dbytes (statusWord c false)) with
      | .ok _ s1 => s1
      | _ => s

/-- The acting task's open interval is discarded: its deferred drops abandon their objects. -/
def State.dropDet (s : State) : State :=
  let d := s.me.det
  let s1 := d.drops.foldl (fun (st : State) o => st.objAbandon o) s
  (s1.spillReturn s.me.id.fn s.me.id.blk (128 * d.charged.length)).mapMe fun t =>
    { t with det := { DetTask.zero with interval := d.interval } }

/-- Kill the acting task. -/
def State.killMe (s : State) (cause : BitVec 8) : State :=
  let live := s.me.cmds.filter Cmd.live
  let s1 := live.foldl (fun (st : State) c => (st.killStatus c).retireCmd c) s
  let s2 := if s1.me.st == .draining || s1.me.st == .exited then s1 else
    let p := s1.me.isPlaced
    (s1.withdrawHeld.endTask true).mapMe fun t => { t with st := if p then .draining else .swapped }
  (s2.dropDet).finishTask false cause

/-- A task that can still be killed. -/
def Task.alive (t : Task) : Bool := t.st == .placed || t.st == .draining || t.st == .exited || t.st == .swapped || t.st == .queued

/-- Task indices from one on. -/
def indicesFrom (i : BitVec 32) (n : Nat) : List (BitVec 32) := (List.range n).map fun k => i + BitVec.ofNat 32 k

/-- The tasks of a block that have neither started nor ended: those of its entries in the queues, or, where its walk has stalled ahead
of it (R380), all of them. -/
def State.unplaced (s : State) (b : Blk) : List (BitVec 32) :=
  (if b.st == .idle then indicesFrom b.eff.tbase b.ownTasks
    else (s.dies.flatMap fun d => d.2.queue.filter fun e => e.fn == b.fn && e.blk == b.addr).flatMap fun e =>
      indicesFrom e.next (e.last - e.next).toNat).filter fun i => (s.task? ⟨b.fn, b.addr, i⟩).isNone

/-- The lowest of some task indices. -/
def lowest (l : List (BitVec 32)) : Option (BitVec 32) :=
  l.foldl (fun m i => match m with
    | none => some i
    | some j => some (if i < j then i else j)) none

/-- End a block's tasks: the tasks it holds are killed, and those that never started end with the cause. -/
def State.killBlk (s : State) (b : Blk) (cause : BitVec 8) : State :=
  let u := lowest (s.unplaced b)
  let s1 := ((s.party b.fn b.addr).filter Task.alive).foldl (fun (st : State) t => st.asTask t.id fun st => st.killMe cause) s
  let s2 : State := { s1 with dies := s1.dies.map fun d =>
    (d.1, { d.2 with
      queue := d.2.queue.filter fun e => !(e.fn == b.fn && e.blk == b.addr)
      holder := d.2.holder.filter fun h => !(h.1 == b.fn && h.2.1 == b.addr) }) }
  let s3 := s2.mapBlk b.fn b.addr fun x => { x with
    gone := x.ownTasks
    badTask := match u with
      | some i => if x.gone < x.ownTasks then lowerBad x.badTask i cause else x.badTask
      | none => x.badTask }
  (s3.chans.filter fun c => c.fn == b.fn && c.blk == b.addr && (c.peer == 0 || !c.locend) && !c.closed).foldl
    State.closeConsumer s3

/-- End the subtree of a block, which takes a STATE with the cause (R146, R160). -/
def State.killTree (s : State) (fn : Nat) (a : Word) (st : BlkSt) (cause : BitVec 8) : State :=
  let bs := s.subtree fn a
  (bs.foldl (fun (x : State) b => x.killBlk b cause) (s.endBlk fn a st cause)).settle

/-- The nearest fault domain of a block (R45): a level-0 block always is one. -/
def State.domain (s : State) (fn : Nat) (a : Word) : Word :=
  match (s.lineage fn a).find? fun b => b.fd || b.level == 0 with
  | some b => b.addr
  | none => a

/-- Contain a fault of a block's task. -/
def State.contain (s : State) (fn : Nat) (a : Word) (st : BlkSt) (cause : BitVec 8) : State :=
  s.killTree fn (s.domain fn a) st cause

end Sys2Proof.Machine
end

