-- ==== Sys2Proof/Machine/Image.lean ====
section
/-!
DEFINITION. Sys2Proof/Machine/Image.lean: the save image of a task (R149, R150), as DUMP writes it and as the device keeps it for a
pre-empted task. R150 sizes the sections and names what they hold; the places within a section are the model's (DESIGN CHOICE,
log 14).
-/

namespace Sys2Proof.Machine

/-! ## Tokens (sections 0 and 1) -/

/-- The eight slots of an element, in slot order: two of A, of B, of C, of the output (R294). -/
def Elem.slots (e : Elem) : List (Option Tok) :=
  let two (l : List Tok) : List (Option Tok) := [l[0]?, l[1]?]
  two (e.a.map (·.tok)) ++ two (e.b.map (·.tok)) ++ two (e.c.map (·.tok)) ++ two (e.out.map (·.tok))

/-- Occupancy, one byte an element. -/
def Elem.occupancy (e : Elem) : Byte :=
  BitVec.ofNat 8 (((List.range 8).zip e.slots).foldl (fun n x => if x.2.isSome then n + 2 ^ x.1 else n) 0)

/-- A full slot: its value and its kind, 0 data, 1 burst header, 2 control token (the order in which R150 lists them). The
value of a control token has no layout in the spec: free bytes. -/
def slotBytes (n : Nat) : Tok → List Byte
  | .data v => dbytes v ++ leBytes 8 0
  | .lone v => dbytes v ++ leBytes 8 0
  | .hdr h _ => dbytes (h.setWidth 64) ++ leBytes 8 1
  | .ctl _ _ => (List.range 8).map (Config.imageByte n) ++ leBytes 8 2

/-! ## Elements (section 3) -/

/-- The counters of a record: the loop counters of an address generator, or the counts of the element. -/
def Elem.counters (e : Elem) (op : Nat) : List Nat :=
  ((if isAg op && op != 0x3C then e.ctr ++ [0, 0, 0, 0, 0] else [e.cnt, e.bursts, 0, 0, 0]).take 5).map (· % 2 ^ 32)

/-- The element's state in eight bits: passes ended or insertion due, no pass in progress, stopped, B of a tie due, low atoms of A
and of B consumed, ends of tiles at A and at B. -/
def Elem.stateBits (e : Elem) : Nat :=
  ((List.range 8).zip [e.ends, e.waiting, e.stopped, e.tie, e.ia.half, e.ib.half, e.ia.mark, e.ib.mark]).foldl
    (fun n x => n + bool1 x.2 * 2 ^ x.1) 0

/-- TOKQ holds a token: one that waits at A for one at B (R338). -/
def Elem.holdsTok (e : Elem) (op : Nat) : Bool := op == 0x41 && (e.ctl? .a).isSome && (e.ctl? .b).isNone

/-- The record of an element, 64 bytes: name; last-arrival latch; state bits, TOKQ hold flag, turn and lock; five counters; drain-round
position; staging counts; latched headers of A, of B and of what is staged; atoms due of A and B; tokens of a firing that wait for the
output slots, and what waits behind a drain. -/
def Elem.record (e : Elem) (name : Word) (op : Nat) : List Byte :=
  dbytes name ++ leBytes 4 e.lastWait.toNat ++
  leBytes 4 (e.lastIn.toNat + e.stateBits * 2 ^ 8 + bool1 (e.holdsTok op) * 2 ^ 16 + e.turn % 4 * 2 ^ 24 +
    (match e.lock with
      | some i => i % 4 + 1
      | none => 0) * 2 ^ 26) ++
  (e.counters op).flatMap (leBytes 4) ++ leBytes 4 (e.fwdLeft % 2 ^ 32) ++
  leBytes 4 (e.stage.length % 2 ^ 8 + e.stageB.length % 2 ^ 8 * 2 ^ 8 + e.pats.length % 2 ^ 16 * 2 ^ 16) ++
  leBytes 4 e.ia.hdr.toNat ++ leBytes 4 e.ib.hdr.toNat ++ leBytes 4 e.stageHdr.toNat ++
  leBytes 4 (e.ia.due % 2 ^ 16 + e.ib.due % 2 ^ 16 * 2 ^ 16) ++
  leBytes 4 (e.emit.length % 2 ^ 16 + e.queue.length % 2 ^ 16 * 2 ^ 16)

/-- A partial burst atom: its eight pulses as signed bytes, and its exponent; poison has bit 63 set. -/
def patBytes : Option (List Int × Int) → List Byte
  | none => leBytes 8 0 ++ leBytes 8 (2 ^ 63)
  | some (y, e) => ((y.map fun i => BitVec.ofInt 8 i) ++ List.replicate 8 0).take 8 ++ leBytes 8 (e.emod (2 ^ 32)).toNat

/-- What waits behind a drain (R305): the value of the draining plane, as kind 3, or a token. -/
def queueBytes (n : Nat) : Option Tok → List Byte
  | none => leBytes 8 0 ++ leBytes 8 3
  | some t => slotBytes n t

/-- What an element has staged, 16 bytes each: words of atoms or values, partial burst atoms, tokens that wait for the output slots, and
what waits behind a drain; `n` begins its free bytes. -/
def Elem.stagedBytes (e : Elem) (n : Nat) : List Byte :=
  ((e.stage ++ e.stageB).flatMap fun w => dbytes w ++ leBytes 8 0) ++ e.pats.flatMap patBytes ++
  ((List.range e.emit.length).zip e.emit).flatMap (fun x => slotBytes (n + x.1) x.2.tok) ++
  ((List.range e.queue.length).zip e.queue).flatMap fun x => queueBytes (n + e.emit.length + x.1) x.2

/-! ## The context (section 4) -/

/-- Section 4: PC, g, f, q, h, the system registers in the order of R179, the live REP state, the counters, the logical clock, the path
signature, the sequence number; zero to the end. -/
def Ctx.image (c : Ctx) (status : Word) : List Byte :=
  let ws : List Word := [c.pc] ++ c.g.toList ++ c.f.toList ++
    [BitVec.ofNat 64 (((List.range 8).zip c.q.toList).foldl (fun n x => n + bool1 x.2 * 2 ^ x.1) 0)] ++
    c.h.toList.flatMap (fun h => [h.extractLsb' 0 64, h.extractLsb' 64 64]) ++
    [status, c.nseed, c.nstep.setWidth 64, c.trapPc, c.trapCause, c.trapInfo, c.atomFlags, c.dbg, c.repSh.first, c.repSh.stop,
      c.repSh.count, c.rep.first, c.rep.stop, c.rep.count] ++
    c.ctrs.toList.map (fun x => BitVec.ofNat 64 (x.val.toNat + x.ev.toNat * 2 ^ 48 + bool1 x.on * 2 ^ 60)) ++
    [BitVec.ofNat 64 c.clock, c.sig, c.seq.setWidth 64]
  ws.flatMap dbytes ++ List.replicate (768 - 8 * ws.length) 0

/-! ## Stream engines, channels, deterministic state (sections 5 to 7) -/

/-- A queued command: its word, base, number, NSTEP, NSEED, where it stands with how many counters it has, up to twelve, and these. -/
def Cmd.image (c : Cmd) : List Byte :=
  let cs := c.ctr.take 12
  leBytes 16 c.word.toNat ++ dbytes c.base ++ leBytes 4 c.seq.toNat ++ leBytes 4 c.nstep.toNat ++ dbytes c.nseed ++
  leBytes 4 (bool1 (c.phase == .running) + c.sub % 4 * 2 + bool1 c.spilt * 2 ^ 3 + bool1 c.psat * 2 ^ 4 + cs.length * 2 ^ 8) ++
  cs.flatMap fun k => leBytes 4 (k % 2 ^ 32)

/-- Fill up to, or cut at, a size. -/
def sized (n : Nat) (bs : List Byte) : List Byte := (bs ++ List.replicate n 0).take n

/-- The tokens of a word that waits at a port (R390): the port and how many tokens, then 16 bytes each. -/
def Port.waitImage (n p : Nat) (x : Port) : List Byte :=
  if x.offer.isEmpty then []
  else leBytes 4 p ++ leBytes 4 x.offer.length ++
    ((List.range x.offer.length).zip x.offer).flatMap fun y => slotBytes (n + y.1) y.2.1

/-- Section 5: how many commands are queued, how many ports have latched burst state and at how many a word waits; address and ID of the
last completed load into the inactive plane (R362); the burst states, eight bytes each; the words that wait; the commands. It is filled
up to the 1,024 bytes that R150 gives it; where a context has more queued than those hold, it is longer (log 14). -/
def Task.streamImage (t : Task) (n : Nat) : List Byte :=
  let live := t.cmds.filter Cmd.live
  let ports := (List.range t.run.ports.length).zip t.run.ports
  let bursts := ports.filterMap fun x => x.2.hdr.map fun h => leBytes 4 h.toNat ++ leBytes 4 (x.2.due % 2 ^ 24 + x.1 * 2 ^ 24)
  let wait := ports.filter fun x => !x.2.offer.isEmpty
  let bs := leBytes 4 live.length ++ leBytes 2 bursts.length ++ leBytes 2 wait.length ++
    (if t.run.inact.valid then dbytes t.run.inact.addr ++ dbytes t.run.inact.id else List.replicate 16 0) ++ bursts.flatten ++
    wait.flatMap (fun x => x.2.waitImage (n + 256 * x.1) x.1) ++ live.flatMap Cmd.image
  bs ++ List.replicate (1024 - bs.length) 0

/-- Channel ends bound. -/
def Ctx.bound (c : Ctx) : List Binding := c.bind.toList.filterMap fun b => b

/-- Section 6: a 64-byte head with the number of channels; for each bound one a 64-byte header and the words of its consumer's buffer. -/
def State.channelImage (s : State) (t : Task) : List Byte :=
  sized 64 (leBytes 8 t.ctx.bound.length) ++ t.ctx.bound.flatMap fun b =>
    let ws := if b.consumer then ((s.chan? t.id.fn t.id.blk b.ch).map (·.buf)).getD [] else []
    sized 64 (leBytes 4 (b.ch.toNat + bool1 b.consumer * 2 ^ 16) ++ leBytes 4 (ws.length +
      ((List.range ws.length).zip ws).foldl (fun n x => n + bool1 x.2.handle * 2 ^ (8 + x.1)) 0)) ++
    sized 64 (ws.flatMap fun w => dbytes w.val)

/-- Section 7: the interval whose snapshot the task reads, counts, its write set, and its atomics with their rounds. -/
def State.detImage (s : State) (t : Task) : List Byte :=
  let rs := match s.groupOf t.id.fn t.id.blk with
    | some g => g.rounds.filter fun r => r.idx == t.id.idx
    | none => []
  let as_ := t.det.atoms ++ rs
  leBytes 8 t.det.interval ++ leBytes 4 t.det.writes.length ++ leBytes 4 as_.length ++
  t.det.writes.flatMap (fun w => dbytes w.va ++ leBytes 8 w.val.toNat) ++
  as_.flatMap fun r => dbytes r.va ++ leBytes 4 r.round ++ leBytes 4 (r.size + r.op.toNat * 2 ^ 8)

/-! ## The image -/

/-- Fill up to a multiple of 64. -/
def pad64 (bs : List Byte) : List Byte := bs ++ List.replicate ((64 - bs.length % 64) % 64) 0

/-- The elements of a run whose word is not NONE, in element order. -/
def Run.used (r : Run) : List Nat := (List.range r.elems.length).filter fun e => r.act.cells.getD e 0 ≠ 0

/-- The sections of a task's image. -/
def State.sections (s : State) (t : Task) (n : Nat) : List (List Byte) :=
  let es := t.run.elems
  let full := es.flatMap fun e => e.slots.filterMap fun x => x
  let op (e : Nat) : Nat := (eOp (t.run.act.wordOf e)).toNat
  [ es.map Elem.occupancy,
    (List.range full.length).zip full |>.flatMap fun x => slotBytes (n + x.1) x.2,
    (List.range es.length).flatMap fun e =>
      if isCell (op e) then planeBytes true (t.run.elem e).acc ++ planeBytes false (t.run.elem e).drn else List.replicate 144 0,
    (t.run.used.flatMap fun e => (t.run.elem e).record (elemName t e) (op e)) ++
      t.run.used.flatMap fun e => (t.run.elem e).stagedBytes (n + 2 ^ 20 * (e + 1)),
    t.ctx.image t.status,
    t.streamImage (n + 2 ^ 40),
    s.channelImage t ] ++
  (if t.eff.det then [s.detImage t] else [])

/-- Offsets of the sections, from the header's end on. -/
def offsets : Nat → List (List Byte) → List Nat
  | _, [] => []
  | o, x :: xs => o :: offsets (o + (pad64 x).length) xs

/-- STATE of a task in its image's header (R149). -/
def Task.imageState (t : Task) : Nat :=
  if t.stop == .debugger then 4 else if t.stop == .driver then 3 else if t.ctx.tm then 2 else if t.ctx.st == .sleeping then 1 else 0

/-- The save image of a task, with a STATE. -/
def State.saveImage (s : State) (t : Task) (st n : Nat) : List Byte :=
  let ss := s.sections t n
  let full := (t.run.elems.map fun e => (e.slots.filter Option.isSome).length)
  leBytes 8 (1 + t.size * 2 ^ 16 + st * 2 ^ 24 + t.id.idx.toNat * 2 ^ 32) ++ dbytes t.run.act.addr ++ dbytes t.run.act.id ++
  leBytes 8 (sumNat full) ++ ((offsets 64 ss ++ [0]).take 8).flatMap (leBytes 4) ++ ss.flatMap pad64

end Sys2Proof.Machine
end

