-- ==== Sys2Proof/Machine/Preempt.lean ====
section
/-!
DEFINITION. Sys2Proof/Machine/Preempt.lean: pre-emption (R148, R152), the end of its save (R148, R151, R380), and the start and
restore of a placed task (R36, R49, R151, R362, R440, R441). The device keeps a save image with the task itself: where it
lies in memory is its own affair (log 13).
-/

namespace Sys2Proof.Machine

/-! ## Pre-emption -/

/-- A stop that has struck the acting task's run by the end of the cycle is taken before the save: a node stop of the cycle, a class S
fault or a trigger stop that the context has still to take (R152, R443). -/
def State.stopFirst (s : State) : State :=
  let s1 := s.nodeStop
  match s1.me.ctx.pend.find? Pending.stops with
  | none => s1
  | some p => s1.takePend p

/-- The allocator pre-empts a task as the cycle ends: a trap of the cycle comes first (R152). -/
def State.preemptLater (s : State) (t : TaskId) : State := { s with later := s.later ++ [[.ev t 0 0 .preempt .none]] }

/-- PREEMPT (R148): the acting task's run is gated at its firing boundary, its context issues no more and its engines stop. One that
cannot be pre-empted is not moved either. -/
def execPreempt (s : State) : Res :=
  if s.me.saving then .next s
  else if s.me.st != .placed || s.me.ctx.st == .free || s.me.ctx.st == .swapped then .next (s.mapMe fun t => { t with moveTo := none })
  else .next (s.stopFirst.mapMe fun t => { t with saving := true, run := { t.run with gated := true } })

/-- The context as a save image holds it: a sleeping instruction issues again after restore. -/
def Ctx.saved (c : Ctx) : Ctx := { c with st := .swapped, parked := none }

/-- A FREE context of a mill, the lowest. -/
def State.freeCtx (s : State) (mill : Nat) : Option (BitVec 4) :=
  ((List.range Config.contexts).find? fun c =>
    !s.all.any fun t => t.isPlaced && t.mill == mill && t.ctxNo.toNat == c).map fun c => BitVec.ofNat 4 c

/-- Stones of a mill that no run holds and no move has reserved. -/
def State.stoneFree (s : State) (mill k : Nat) : Bool :=
  !s.all.any fun t =>
    (t.isPlaced && t.mill == mill && t.stone ≤ k && k < t.stone + t.size) ||
    (match t.moveTo with
      | some (m, lo) => m == mill && lo ≤ k && k < lo + t.size
      | none => false)

/-- An aligned slot of `n` stones is free. -/
def State.slotFree (s : State) (mill lo n : Nat) : Bool := (List.range n).all fun i => s.stoneFree mill (lo + i)

/-- The task takes a slot and a context; the stones are charged (R44). -/
def State.takeSlot (s : State) (mill canon stone : Nat) (c : BitVec 4) : State :=
  (s.mapMe fun t => { t with
    st := .placed, mill := mill, canon := canon, stone := stone, ctxNo := c, placedAt := s.time, moveTo := none }).mapLineage
      s.me.id.fn s.me.id.blk fun b => { b with useStones := b.useStones + s.me.size }

/-- The canonical number of a mill. -/
def Fn.canonOf (f : Fn) (mill : Nat) : Nat := (findIdx (fun m => m == mill) f.mills).getD 0

/-- The acting task is out, its image written with the STATE it has (R149): it takes the slot it is moved to (R384), or re-enters its die's
queue (R380); none where that queue is full, since no die holds more than 4,096 entries of a priority. -/
def State.swapOut (s : State) : Option State :=
  let t := s.me
  let s1 := ((s.wrapRecords.trace 0x03 0 t.ctxid).freeStones t).mapMe fun t => { t with
    st := .swapped, saving := false, moveTo := none, imageSt := BitVec.ofNat 8 t.imageState, ctx := t.ctx.saved }
  let back : Option State := match s1.blk? t.id.fn t.id.blk with
    | none => some s1
    | some b =>
      if 4096 ≤ (s1.die (s1.blkDie b)).count b.eff.prio then none
      else some (s1.enqueue (s1.blkDie b) ⟨b.fn, b.addr, t.id.idx, t.id.idx + 1, b.eff.prio, b.eff.age, s1.time⟩)
  match t.moveTo with
  | none => back
  | some (m, lo) =>
    if !s1.slotFree m lo t.size then back
    else match s1.freeCtx m with
      | none => back
      | some c => some (s1.takeSlot m ((s1.fn t.id.fn).canonOf m) lo c)

/-- A copy into a flume of the acting task has filled its slot, which has still to retire (R126): the save waits for it. -/
def State.slotRetires (s : State) : Bool := s.me.cmds.any fun c => c.slotInFlight && (s.cmdFlume c).isSome

/-- PREEMPT_SAVE_DONE (R148): the acting task's image is written: SWAPPED, run and context free; it keeps them while the queue that it
would enter is full (R380; DEDUCED, log 113). A write of the image that fails kills the task (R151). -/
def execPreemptSaveDone (s : State) : Res :=
  if !s.me.saving || s.me.st != .placed || s.slotRetires then .next s
  else
    let (n, s1) := s.choose
    if Config.saveFails n then .next (killAndReturn s1 tcECCUE) else .next (s1.swapOut.getD s)
where
  /-- The task is killed and stays in focus. -/
  killAndReturn (s : State) (c : BitVec 8) : State := s.contain s.me.id.fn s.me.id.blk .faulted c

/-! ## Starting (R36, R158) -/

/-- The counter plan of a replay's pass, for a task of the launch that is replayed (R441). -/
def State.planCtrs (s : State) (c : Ctx) : Ctx :=
  let f := s.fn s.me.id.fn
  if !s.replays s.me.id.fn s.me.id.blk || !bitAt f.rpctl 5 then c
  else
    let w := f.rpplan.getD (f.rppass.toNat - 1) 0
    { c with ctrs := Vector.ofFn fun (i : Fin 4) =>
        ⟨BitVec.ofNat 12 (bitsAt w (16 * i.val) 12), bitAt w (16 * i.val + 15), 0, none⟩ }

/-- The context of a task at its start: registers zero, PC at the entry, NSEED the block's SEED, the clock at the largest
logical time (R36, R114, R229, R440), ATT where a standing ATTACH covers its block (R423). -/
def State.startCtx (s : State) : Ctx :=
  let t := s.me
  s.planCtrs { Ctx.reset with
    pc := t.entry
    st := .runnable
    nseed := t.eff.seed
    clock := maxTime s t.id.fn
    sig := t.id.idx.setWidth 64
    dbg := if (s.fn t.id.fn).attach.contains t.id.blk then 1 else 0
    lastRetire := s.time }

/-- The group of a deterministic block begins with its first task: interval 0, its snapshot (R127, R369). -/
def State.openGroup (s : State) : State :=
  if !s.me.eff.det || (s.groupOf s.me.id.fn s.me.id.blk).isSome then s
  else { s with groups := s.groups ++ [⟨s.me.id.fn, s.me.id.blk, 0, s.mem, [], []⟩] }

/-- START has come for the acting task's launch, or it needs none (R49). -/
def State.launchStarted (s : State) : Bool :=
  match s.node with
  | none => true
  | some b => match s.blk? b.fn b.root with
    | some r => r.started
    | none => b.started

/-- What a load for the acting task leads to, as one cause where it fails. -/
inductive LoadEnd where
  | ok (p : Plane) (s : State)
  | failed (cause : BitVec 8) (s : State)
  | wait
  | sever (va : Word)

/-- Load the image at an address for the acting task: a read that faults ends the load as a refused image does. An address that is not
64-byte aligned, as R353 wants it, is refused by none of R361's conditions: the image is read where it stands (DESIGN CHOICE,
log 126). -/
def State.loadFrom (s : State) (addr base : Word) : LoadEnd :=
  let failed (c : BitVec 8) (st : State) : LoadEnd :=
    if c = tcECCUE then .failed tcCFGUE (st.lifeAdd 7 (dieOf s.me.mill) 1) else .failed tcCFGREJ st
  match commandRead s addr 64 with
  | .wait _ => .wait
  | .fault s1 c _ => failed c s1
  | .sever v => .sever v
  | .ok hdr s1 =>
    match s1.loadImage hdr addr base with
    | .ok p s2 => .ok p s2
    | .rej s2 => .failed tcCFGREJ s2
    | .ue s2 => failed tcECCUE s2
    | .fault s2 c _ => failed c s2
    | .wait => .wait
    | .sever v => .sever v

/-- A start whose load failed (R36): the task ends with the cause and its consumer ends close (R156), its block when all its
tasks have ended (R464); of a cut launch before START the whole launch fails (R49). -/
def State.startFailed (s : State) (cause : BitVec 8) : State :=
  if !s.launchStarted then
    (match s.node with
      | some b => s.killTree b.fn b.root .faulted cause
      | none => s.finishTask false cause)
  else (s.closeChannels s.me.id).finishTask false cause

/-- The task begins with the plane that it loaded. In a cut launch its group's interval 0 begins here, before START, which the spec
leaves open (R127, R49; DESIGN CHOICE, log 112). -/
def State.begin (s : State) (p : Plane) : State :=
  let go := s.launchStarted
  let s1 := (s.openGroup).mapMe fun t => { t with
    run := { Run.empty with
      act := p, elems := p.fresh, ports := List.replicate (4 * t.size) .reset, gated := !go }
    ctx := s.startCtx
    det := { DetTask.zero with charged := t.det.charged }
    waitsStart := !go }
  s1.mapMe fun t => { t with sampleAt := s.time }

/-! ## Restoring (R151, R362) -/

/-- The context goes on: stopped tasks stay stopped, a handler stays one, a sleeping instruction issues again. The run stays gated
while a stop stands that its context has still to take. -/
def Task.resumed (t : Task) : Task :=
  { t with
    restored := true
    ctx := { t.ctx with st := if t.stop != .none || t.ctx.handler then .trapped else .runnable, lastRetire := t.placedAt }
    run := { t.run with gated := t.stop != .none || t.waitsStart || t.ctx.pend.any Pending.stops } }

/-- Each address generator translates its pages afresh. -/
def Run.relatch (r : Run) (p : Plane) : Run :=
  { r with
    act := { p with addr := r.act.addr }
    elems := ((List.range r.elems.length).zip r.elems).map fun x =>
      { x.2 with latches := (p.pre.filter fun y => y.1 == x.1).map (·.2) } }

/-- The inactive plane is reloaded; another ID, or a load that fails, marks it invalid. None while the load has to wait (R362). -/
def State.reloadInact (s : State) : Option State :=
  let old := s.me.run.inact
  if !old.valid then some s
  else
    let s1 := s.setInact { Plane.empty with addr := old.addr }
    match s1.loadFrom old.addr old.base with
    | .ok p s2 => some (if p.id = old.id then s2.mapRun fun r => { r with inact := p } else s2.dropPlane p)
    | .failed _ s2 => some s2
    | .sever _ => some s1
    | .wait => none

/-- Commands keep their places against the mill they run on now. -/
def State.renumber (s : State) : State :=
  let m := s.mill s.me.mill
  let cs := sortBy (fun (x y : Cmd) => x.acc < y.acc) s.me.cmds
  (s.setMill s.me.mill { m with accn := m.accn + cs.length }).mapMe fun t => { t with
    cmds := ((List.range cs.length).zip cs).map fun x => { x.2 with acc := m.accn + x.1 } }

/-- TASK_START: the acting task, placed and not started, loads its configuration and starts (R36); a restored one reloads
its configurations and goes on (R151), OWNER of its flumes naming it anew (R242), and an image that differs is refused with CFGREJ. -/
def execTaskStart (s : State) : Res :=
  let t := s.me
  if t.st != .placed then .next s
  else if t.ctx.st == .free then
    match s.loadFrom t.cfg t.dataBase with
    | .wait => .next s
    | .sever v => .next (s.stopMe tcSEVERED v)
    | .failed c s1 => .next (s1.startFailed c)
    | .ok p s1 => .next (s1.begin p)
  else if t.ctx.st == .swapped then
    let old := t.run.act
    match (s.dropPlane old).loadFrom old.addr old.base with
    | .wait => .next s
    | .sever v => .next (s.stopMe tcSEVERED v)
    | .failed c s1 => .next ((s1.mapRun fun r => { r with act := { r.act with charge := 0 } }).contain t.id.fn t.id.blk .faulted c)
    | .ok p s1 =>
      if p.id ≠ old.id then
        .next (((s1.dropPlane p).mapRun fun r => { r with act := { r.act with charge := 0 } }).contain t.id.fn t.id.blk .faulted
          tcCFGREJ)
      else match (s1.mapRun fun r => r.relatch p).reloadInact with
        | none => .next s
        | some s2 => .next ((s2.renumber.mapMe Task.resumed).writeOwners)
  else .next s

end Sys2Proof.Machine
end

