-- ==== Sys2Proof/Machine/Alloc.lean ====
section
/-!
DEFINITION. Sys2Proof/Machine/Alloc.lean: the allocator: slots and draws (R46, R47, R366 to R368), ranking, placement, holding the
head, compaction (R381 to R385), and the start of a cut launch (R49).
-/

namespace Sys2Proof.Machine

/-! ## Slots (R46, R47, R366 to R368) -/

/-- The smallest b ≥ 1 with 2^b ≥ m. -/
def drawBits (m : Nat) : Nat := if m ≤ 2 then 1 else Nat.log2 (m - 1) + 1

/-- Round (R367). -/
def drawRound (b a c y : Nat) : Nat :=
  let n := 2 ^ b
  let y1 := (a * y + c) % n
  let y2 := y1 ^^^ (y1 >>> ((b + 1) / 2))
  (a * y2 + c) % n

/-- Walk until below m. -/
def drawWalk (b a c m : Nat) : Nat → Nat → Nat
  | 0, y => y
  | k + 1, y =>
    let z := drawRound b a c y
    if z < m then z else drawWalk b a c m k z

/-- DrawSlot (R367): the slot of task `i` among `m` slots. -/
def drawSlot (seed : Word) (m i : Nat) : Nat :=
  let b := drawBits m
  let n := 2 ^ b
  drawWalk b ((bitsAt seed 0 32 % n) ||| 1) (bitsAt seed 32 32 % n) m n (i % m)

/-- A mill on which tasks of a world may be placed (R414); one that is power-gated comes up for the task (R431). -/
def Mill.open (m : Mill) (world : Bool) : Bool := m.world == world && m.eworld.toList.all (· == world)

/-- The mills open to a block, in canonical order: physical number and canonical number. -/
def State.millsOf (s : State) (b : Blk) : List (Nat × Nat) :=
  let ms := (s.fn b.fn).mills
  (ms.zip (List.range ms.length)).filter fun m =>
    (s.mill m.1).open b.eff.world && (b.cut.isEmpty || dieOf m.1 == s.blkDie b)

/-- The first stones of the aligned slots of a size. -/
def slotStarts (n : Nat) : List Nat := (List.range (16 / n)).map (n * ·)

/-- The first free slot with a free context in ordinary mode (R46): mill, canonical number, stone, context. -/
def State.firstSlot (s : State) (b : Blk) (n : Nat) : Option (Nat × Nat × Nat × BitVec 4) :=
  (s.millsOf b).findSome? fun m =>
    match (slotStarts n).find? fun lo => s.slotFree m.1 lo n, s.freeCtx m.1 with
    | some lo, some c => some (m.1, m.2, lo, c)
    | _, _ => none

/-- The drawn slot of a task, where it and a context are free, on a mill that the block's tasks may use (R367, R368, R379). -/
def State.drawnSlot (s : State) (b : Blk) (n i : Nat) : Option (Nat × Nat × Nat × BitVec 4) :=
  let per := 16 / n
  let z := drawSlot b.eff.seed (b.eff.cmills * per) i
  match (s.millsOf b).find? fun m => m.2 == z / per with
  | none => none
  | some (m, k) =>
    let lo := n * (z % per)
    if !s.slotFree m lo n then none else (s.freeCtx m).map fun c => (m, k, lo, c)

/-- The stones fit the budget of the block and its ancestors (R44). -/
def State.stonesFit (s : State) (b : Blk) (n : Nat) : Bool :=
  (s.lineage b.fn b.addr).all fun x => x.useStones + n ≤ x.eff.stones

/-! ## Ranking (R381, R382) -/

/-- The effective priority of an entry. -/
def QEntry.effPrio (e : QEntry) (now : Nat) : Nat :=
  if e.prio = 7 || e.age = 0 then e.prio.toNat
  else min 6 (e.prio.toNat + (now - e.since) / 2 ^ (e.age.toNat + 9))

/-- The allocator tries one entry before another. -/
def QEntry.before (now : Nat) (x y : QEntry) : Bool :=
  let p := x.effPrio now
  let q := y.effPrio now
  if p ≠ q then q < p
  else if x.since ≠ y.since then x.since < y.since
  else if x.next ≠ y.next then x.next < y.next
  else x.blk < y.blk

/-- The entries of a die in the order they are tried. -/
def Die.ranked (d : Die) (now : Nat) : List QEntry := sortBy (QEntry.before now) d.queue

/-! ## Placement -/

/-- What an entry's head task needs. -/
structure Want where
  b    : Blk
  id   : TaskId
  hdr  : KHdr
  chans : List Chan
  old  : Bool                  -- swapped out: restored, not created
deriving DecidableEq, Repr

/-- Look at the head task of an entry: the header of a block with no task placed yet is checked. -/
def State.want (s : State) (e : QEntry) : Option (Except (BitVec 8) Want) :=
  match s.blk? e.fn e.blk with
  | none => none
  | some b =>
    let id : TaskId := ⟨e.fn, e.blk, e.next⟩
    let old := (s.task? id).isSome
    match b.hdr with
    | some h => some (.ok ⟨b, id, h, [], old⟩)
    | none => some ((s.checkHeader b).map fun x => ⟨b, id, x.1, x.2, old⟩)

/-- The slot for a task, where its budget admits it. -/
def State.slotFor (s : State) (w : Want) : Option (Nat × Nat × Nat × BitVec 4) :=
  if !s.stonesFit w.b w.hdr.size then none
  else if w.b.eff.det then s.drawnSlot w.b w.hdr.size w.id.idx.toNat
  else s.firstSlot w.b w.hdr.size

/-- The task that a placement creates; it has still to start, its path signature as it starts (R440). -/
def newTask (s : State) (w : Want) : Task :=
  { Task.idle with
    id := w.id, st := .queued, size := w.hdr.size, hdr := w.b.eff.khdr, trapEntry := w.hdr.trap, entry := w.hdr.entry
    dataBase := w.hdr.data, knet := w.hdr.knet, long := w.hdr.long, cfg := w.hdr.cfg, eff := w.b.eff
    nmills := if w.b.eff.det then w.b.eff.cmills else (s.fn w.b.fn).mills.length
    ctx := { Ctx.reset with sig := w.id.idx.setWidth 64 } }

/-- The entry's head has been placed: no entry of the die has held the head in this decision (R383). -/
def Die.advance (d : Die) (e : QEntry) (now : Nat) : Die :=
  { d with
    queue := d.queue.flatMap fun x =>
      if x == e then (if x.next + 1 = x.last then [] else [{ x with next := x.next + 1, since := now }]) else [x]
    holder := none }

/-- At a consumer's placement its buffers fill from the spill areas (R39, R156). -/
def State.fillBufs (s : State) (t : TaskId) : State :=
  (s.chans.filter fun c => c.fn == t.fn && c.blk == t.blk && c.ctask == t.idx && !c.spill.isEmpty).foldl
    (fun (st : State) c => st.refit c c.front) s

/-- What stands at an end already goes over to it as the table gives it now (R156). -/
def Chan.carry (old : List Chan) (c : Chan) : Chan :=
  match old.find? fun x => x.ch == c.ch && x.peer == c.peer && x.locend == c.locend with
  | none => c
  | some x => { x with entry := c.entry, halo := c.halo, strict := c.strict, ctask := c.ctask, ptask := c.ptask }

/-- The channels of a node block as its table gives them (R352), as the first of its tasks is placed. -/
def State.openEnds (s : State) (b : Blk) (cs : List Chan) : State :=
  let mine (c : Chan) : Bool := c.fn == b.fn && c.blk == b.addr
  { s with chans := (s.chans.filter fun c => !mine c) ++ cs.map (Chan.carry (s.chans.filter mine)) }

/-- Place a task in a slot. -/
def State.placeTask (s : State) (n : Nat) (e : QEntry) (w : Want) (x : Nat × Nat × Nat × BitVec 4) : State :=
  let s1 := s.setDie n ((s.die n).advance e s.time)
  let s2 := s1.mapBlk w.b.fn w.b.addr fun b => { b with st := if b.st == .queued then .running else b.st, hdr := some w.hdr }
  let s3 := if w.b.hdr.isSome then s2 else s2.openEnds w.b w.chans
  let s4 : State := if w.old then s3 else { s3 with tasks := newTask s3 w :: s3.tasks }
  (s4.asTask w.id fun st => st.takeSlot x.1 x.2.1 x.2.2.1 x.2.2.2).fillBufs w.id

/-- The launch of a block has started, or needs no START (R49). -/
def State.rootStarted (s : State) (b : Blk) : Bool := ((s.blk? b.fn b.root).map (·.started)).getD b.started

/-- A refused header (R351): the node block takes REFUSED, and none of its tasks starts. Of a cut launch before START, a die reports
CFGREJ or CFGUE and the whole launch fails (R49). -/
def State.refuseNode (s : State) (b : Blk) (cause : BitVec 8) : State :=
  let s1 : State := { s with dies := s.dies.map fun d =>
    (d.1, { d.2 with queue := d.2.queue.filter fun e => !(e.fn == b.fn && e.blk == b.addr) }) }
  let s2 := ((s1.mapBlk b.fn b.addr fun x => { x with gone := x.ownTasks }).endBlk b.fn b.addr .refused cause).settle
  if !s.rootStarted b && (cause == tcCFGREJ || cause == tcCFGUE) then s2.killTree b.fn b.root .faulted cause else s2

/-! ## Holding the head (R383, R384) -/

/-- The task fails to fit only for want of an aligned slot, and the mills open to it hold enough stones. -/
def State.holds (s : State) (w : Want) : Bool :=
  let ms := s.millsOf w.b
  !w.b.eff.det && s.stonesFit w.b w.hdr.size &&
  !(ms.any fun m => (slotStarts w.hdr.size).any fun lo => s.slotFree m.1 lo w.hdr.size) &&
  w.hdr.size ≤ sumNat (ms.map fun m => ((List.range 16).filter fun k => s.stoneFree m.1 k).length)

/-- The latched priority of a task's block. -/
def Task.prio (t : Task) : Nat := t.eff.prio.toNat

/-- The runs that stand in a slot. -/
def State.runsIn (s : State) (mill lo n : Nat) : List Task :=
  s.all.filter fun t => t.isPlaced && t.mill == mill && t.stone < lo + n && lo < t.stone + t.size

/-- A run that compaction may move for a head of effective priority `p`. -/
def Task.movable (p : Nat) (t : Task) : Bool :=
  t.st == .placed && !t.eff.det && t.stop == .none && t.prio ≤ p && t.ctx.st != .free && t.ctx.st != .swapped && !t.saving

/-- The slots that a move may not take: the one being cleared, and those of moves planned before it: mill, first stone, size. -/
def taken (l : List (Nat × Nat × Nat)) (mill lo n : Nat) : Bool :=
  l.any fun x => x.1 == mill && lo < x.2.1 + x.2.2 && x.2.1 < lo + n

/-- Free contexts of a mill, beyond those that planned moves will take. -/
def State.ctxLeft (s : State) (l : List (Nat × Nat × Nat)) (mill : Nat) : Bool :=
  (l.filter fun x => x.1 == mill).length <
    ((List.range Config.contexts).filter fun c => !s.all.any fun t => t.isPlaced && t.mill == mill && t.ctxNo.toNat == c).length

/-- Where a run moves to: a free slot of its size under R46, none of those taken; on its own mill it brings its context. -/
def State.moveSlot (s : State) (t : Task) (cleared : Nat × Nat × Nat) (plan : List (Nat × Nat × Nat)) : Option (Nat × Nat) :=
  match s.blk? t.id.fn t.id.blk with
  | none => none
  | some b => (s.millsOf b).findSome? fun m =>
      ((slotStarts t.size).find? fun k => s.slotFree m.1 k t.size && !taken (cleared :: plan) m.1 k t.size &&
        (m.1 == t.mill || s.ctxLeft plan m.1)).map fun k => (m.1, k)

/-- A slot for each run to move, all different (R384). -/
def State.planMoves (s : State) (cleared : Nat × Nat × Nat) :
    List Task → List (Nat × Nat × Nat) → Option (List (TaskId × Nat × Nat))
  | [], _ => some []
  | t :: rest, plan => match s.moveSlot t cleared plan with
    | none => none
    | some x => (s.planMoves cleared rest ((x.1, x.2, t.size) :: plan)).map fun l => (t.id, x.1, x.2) :: l

/-- The moves that clear a slot, if each run there can be moved. -/
def State.clearing (s : State) (p mill lo n : Nat) : Option (List (TaskId × Nat × Nat)) :=
  let rs := s.runsIn mill lo n
  if rs.all (·.movable p) then s.planMoves (mill, lo, n) rs [] else none

/-- The slot whose clearing moves the fewest runs, the lowest canonical mill first: its moves. -/
def State.bestClearing (s : State) (w : Want) (p : Nat) : Option (List (TaskId × Nat × Nat)) :=
  (s.millsOf w.b).foldl (fun best m =>
    (slotStarts w.hdr.size).foldl (fun best lo =>
      match s.clearing p m.1 lo w.hdr.size with
      | none => best
      | some rs => match best with
        | some old => if rs.length < old.length then some rs else best
        | none => some rs) best) none

/-- A move of this die's compaction is under way. -/
def State.moving (s : State) (n : Nat) : Bool :=
  s.all.any fun t => t.moveTo.isSome && dieOf t.mill == n

/-- An entry by its head task. -/
def QEntry.key (e : QEntry) : Nat × Word × BitVec 32 := (e.fn, e.blk, e.next)

/-- One step of compaction: pre-empt the first run to move, its destination reserved; an entry that no mill can be cleared
for stops holding. -/
def State.compact (s : State) (n : Nat) (e : QEntry) (w : Want) : State :=
  if s.moving n then s
  else match s.bestClearing w (e.effPrio s.time) with
    | none =>
      let d := s.die n
      s.setDie n { d with holder := none, barred := e.key :: d.barred }
    | some [] => s
    | some ((t, to_) :: _) => (s.mapTask t fun x => { x with moveTo := some to_ }).preemptLater t

/-- The entry holds its die's head from now on, unless it does already. -/
def Die.hold (d : Die) (e : QEntry) (now : Nat) : Die :=
  match d.holder with
  | some (fn, blk, i, _) => if (fn, blk, i) == e.key then d else { d with holder := some (e.fn, e.blk, e.next, now) }
  | none => { d with holder := some (e.fn, e.blk, e.next, now) }

/-! ## The decision (R382) -/

/-- Try the entries in order, with the slot that is claimed: mill, first stone, size; `first`: nothing has been passed over. An entry
whose header is refused leaves, and the next is tried. -/
def tryEntries (n : Nat) : Bool → List QEntry → State → State × Option (Nat × Nat × Nat)
  | _, [], s => (s, none)
  | first, e :: rest, s =>
    if !(s.die n).queue.contains e then tryEntries n first rest s
    else match s.want e with
    | none => tryEntries n false rest s
    | some (.error c) => match s.blk? e.fn e.blk with
      | some b => tryEntries n first rest (s.refuseNode b c)
      | none => tryEntries n false rest s
    | some (.ok w) =>
      match s.slotFor w with
      | some x => (s.placeTask n e w x, some (x.1, x.2.2.1, w.hdr.size))
      | none =>
        let d := s.die n
        if first && !d.barred.contains e.key && s.holds w then ((s.setDie n (d.hold e s.time)).compact n e w, none)
        else tryEntries n false rest (if first then s.setDie n { d with holder := none } else s)

/-- The decision of one die beside those of the dies before it, from the state `s0` that all of them see: one that claims a slot
claimed there makes no placement now and decides afresh at its next (R379). -/
def dieDecision (s0 : State) (acc : State × List (Nat × Nat × Nat)) (n : Nat) : State × List (Nat × Nat × Nat) :=
  if (tryEntries n true ((s0.die n).ranked s0.time) s0).2.any fun x => taken acc.2 x.1 x.2.1 x.2.2 then acc
  else
    let r := tryEntries n true ((acc.1.die n).ranked acc.1.time) acc.1
    (r.1, r.2.toList ++ acc.2)

/-- ALLOCATOR_DECISION: each die's allocator, the lower-numbered first (R379). -/
def execAllocatorDecision (s : State) : Res := .next ((List.range Config.dies).foldl (dieDecision s) (s, [])).1

/-- The victim of R385: the lowest latched PRIO at most p - 2 on the entry's mills, the latest placed among those. -/
def State.victim (s : State) (b : Blk) (p : Nat) : Option Task :=
  let ms := (s.millsOf b).map (·.1)
  (s.all.filter fun t => t.st == .placed && !t.saving && t.stop == .none && t.ctx.st != .free && t.ctx.st != .swapped &&
    t.prio + 2 ≤ p && ms.contains t.mill).foldl (fun best t =>
      match best with
      | none => some t
      | some x => if t.prio < x.prio || (t.prio == x.prio && x.placedAt < t.placedAt) then some t else best) none

/-- HEAD_HOLD_PREEMPT: on die `n`, an entry that has held the head for 65,536 cycles pre-empts a task. -/
def execHeadHoldPreempt (s : State) : Res :=
  let n := s.cur.arg.n
  let d := s.die n
  match d.holder with
  | none => .next s
  | some (fn, blk, i, since) =>
    if s.time < since + 65536 then .next s
    else match d.queue.find? fun e => e.key == (fn, blk, i), s.blk? fn blk with
      | some e, some b =>
        match s.victim b (e.effPrio s.time) with
        | none => .next s
        | some t => .next ((s.setDie n { d with holder := some (fn, blk, i, s.time) }).preemptLater t.id)
      | _, _ => .next s

/-! ## Cut launches (R49) -/

/-- A die of a cut launch has loaded its runs' configurations: each of its node blocks has a task placed or has ended, no
task of the launch fits there now, and every placed one has started. -/
def State.dieLoaded (s : State) (root : Blk) (n : Nat) : Bool :=
  let bs := s.blks.filter fun b => b.fn == root.fn && b.root == root.addr && b.isNode && b.eff.tcount != 0 && s.blkDie b == n
  bs.all (fun b => b.hdr.isSome || b.st.over) &&
  ((s.die n).queue.filter fun e => bs.any fun b => b.fn == e.fn && b.addr == e.blk).all (fun e =>
    match s.want e with
    | some (.ok w) => (s.slotFor w).isNone
    | some (.error _) => false
    | none => true) &&
  s.all.all fun t => !(bs.any fun b => b.fn == t.id.fn && b.addr == t.id.blk) || !(t.st == .placed && t.ctx.st == .free)

/-- START for every task of a launch. -/
def State.startLaunch (s : State) (fn : Nat) (root : Word) : State :=
  let mine (t : Task) : Bool := t.id.fn == fn && s.blks.any fun b => b.fn == fn && b.addr == t.id.blk && b.root == root
  ({ s with blks := s.blks.map fun b => if b.fn == fn && b.root == root then { b with started := true } else b } : State).mapTasks
    mine fun t => { t with
      waitsStart := false, run := { t.run with gated := t.stop != .none || t.saving }, ctx := { t.ctx with lastRetire := s.time } }

/-- DIE_ACK: die `n` acknowledges to the home die of the launch with root `w`, which broadcasts START when every die has. -/
def execDieAck (s : State) : Res :=
  let fn := s.cur.arg.fn
  let n := s.cur.arg.n
  match s.blk? fn s.cur.arg.w with
  | none => .next s
  | some r =>
    if !r.isRoot || r.started || r.st.over || !r.cut.contains n || r.acks.contains n || !s.dieLoaded r n then .next s
    else
      let acks := n :: r.acks
      let s1 := s.mapBlk fn r.addr fun x => { x with acks := acks }
      .next (if r.cut.all acks.contains then s1.startLaunch fn r.addr else s1)

end Sys2Proof.Machine
end

