-- ==== Sys2Proof/Machine/FabricEvents.lean ====
section
/-!
DEFINITION. Sys2Proof/Machine/FabricEvents.lean: tokens on the move: MARK and RELATCH passing an element (R297, R298, R433),
tokens leaving output slots and ports (R294, R357), TAG tokens at output ports (R279) and the ingress meter (R389).
-/

namespace Sys2Proof.Machine

/-! ## MARK and RELATCH (R298) -/

/-- What the token does at an element (R297): MARK deposits the latch, RELATCH ends the latches of its page. -/
def State.ctlAct (s : State) (e : Nat) (c : Ctl) (id : BitVec 16) : State :=
  match c with
  | .mark _ =>
    let x := s.me.run.elem e
    s.mapRun fun r => { r with deps := r.deps ++ [⟨id, e, x.lastIn, x.lastWait⟩] }
  | .relatch page sz =>
    (s.tokenCame e c).mapRun fun r => r.mapElem e fun x => { x with latches := x.latches.filter fun l => !inPage page sz l }
  | _ => s

/-- The forwarded token on every output of an element; from a cell behind the drained values due (R305). -/
def passOut (v : FEnv) (op : Nat) (w : Word) (t : Tok) (f : Fired) : Fired :=
  if isCell op then cellForward v t f
  else
    let m : BitVec 4 := (outDirs w).foldl (fun a d => a ||| BitVec.ofNat 4 (2 ^ d)) 0
    let quad := isBolter op && v.w.dirs == 0
    f.forward t fun x => if m = 0 && !quad then [] else [⟨x, m, quad, (opdOf v.w 7).isSome⟩]

/-- CONTROL_TOKEN_PASS: the element in focus takes a MARK or RELATCH token at the head of an operand. -/
def execControlTokenPass (s : State) : Res :=
  let e := s.cur.elem
  let x := s.me.run.elem e
  let o := s.cur.arg.opd
  let w := s.me.run.act.wordOf e
  let v := { s.fenv 0 0 with w := eFields w }
  match x.slot o with
  | ⟨.ctl c id, _⟩ :: _ =>
    if s.me.run.gated || !(Tok.ctl c id).observes then .next s
    else
      let f := passOut v (eOp w).toNat w (.ctl c id) ((fired v x).consume v o)
      if !f.fits x then .next s
      else
        let s1 := if x.forwards id then s.ctlAct e c id else s
        .next (s1.mapRun fun r => r.mapElem e fun y => { f.placed with latches := y.latches })
  | _ => .next s

/-! ## Links (R294) -/

/-- The first output token that satisfies a test, with its place. -/
def findOut (p : OutTok → Bool) (l : List OutTok) : Option (Nat × OutTok) :=
  match findIdx p l with
  | none => none
  | some i => (l[i]?).map fun t => (i, t)

/-- A token arrives at the operand of an element that names a source; none without room. -/
def Run.deliver (r : Run) (x src : Nat) (t : Tok) (now : Nat) : Option Run :=
  match opdOf (eFields (r.act.wordOf x)) src with
  | none => none
  | some o => if (r.elem x).hasRoom o then some (r.mapElem x fun y => y.arrive o t now) else none

/-- A token leaves an element's output slot. -/
def Run.sent (r : Run) (e i : Nat) (f : OutTok → Option OutTok) (now : Nat) : Run :=
  r.mapElem e fun x => { x with out := updTok x.out i f }.refill now

/-- A control token at an output port: TAG waits to push, MARK writes its path record, the others end here. -/
def State.portCtl (s : State) (p e : Nat) (c : Ctl) (id : BitVec 16) : State :=
  match c with
  | .tag .. => s.mapRun fun r => r.mapPort p fun x => x.putCtl (s.portUnit p) (.ctl c id)
  | .mark n => (s.pathRecord e n id).mapRun fun r => r.mapPort p fun x => { x with path := x.path ++ [id] }
  | _ => s

/-- A TAG at the head of an output port's control tokens whose words have been written holds back what stands behind it until it has
pushed (R279). -/
def Port.blocked (x : Port) : Bool := x.ctlq.head?.any fun y => y.1 == 0

/-- The token leaves in a direction that ends at a port. -/
def State.toPort (s : State) (p e d i : Nat) (t : OutTok) : State :=
  let r := s.me.run
  let dc := r.decl p
  let gone (s : State) : State := s.mapRun fun r => r.sent e i (fun x => x.without d) s.time
  if (r.port p).blocked then s
  else if dc.deal then
    match (r.port p).dealTake (s.portNeed p) (s.portUnit p) (e / s.me.lanes) t.tok with
    | .wait => s
    | .all q =>
      match t.tok with
      | .ctl (.mark n) id =>
        let whole := q.ctlq.length ≠ (r.port p).ctlq.length
        gone ((if whole then s.pathRecord e n id else s).mapRun fun r =>
          r.mapPort p fun x => { q with ctlq := x.ctlq, path := if whole then q.path ++ [id] else q.path })
      | .ctl (.tag ..) _ => gone (s.mapRun fun r => r.mapPort p fun _ => q)
      | .ctl _ _ => gone (s.mapRun fun r => r.mapPort p fun x => { q with ctlq := x.ctlq })
      | _ => gone (s.mapRun fun r => r.mapPort p fun _ => q)
    | .half q rest => s.mapRun fun r => (r.mapPort p fun _ => q).mapElem e fun x =>
        { x with out := updTok x.out i fun y => some { y with tok := rest } }
  else match t.tok with
    | .ctl c id => gone (s.portCtl p e c id)
    | tok => if (r.port p).takes (s.portNeed p) then gone (s.mapRun fun r => r.mapPort p fun x => x.put dc.kind.toNat tok) else s

/-- The token at the head of an input port goes to the element it feeds, from a dealt port to every row with room. -/
def State.fromPort (s : State) (p : Nat) : State :=
  let r := s.me.run
  let deal := (r.decl p).deal
  match (r.port p).inq with
  | [] => s
  | (t, m) :: rest =>
    let rows := if deal then (List.range 8).filter fun i => m / 2 ^ i % 2 = 1 else [0]
    let (r1, left) := rows.foldl (fun (a : Run × Nat) i =>
      match a.1.act.fed s.me.lanes p i deal with
      | none => (a.1, a.2)
      | some x => match a.1.deliver x 5 t s.time with
        | none => a
        | some r2 => (r2, a.2 - 2 ^ i)) (r, m)
    let r2 := r1.mapPort p fun x => { x with inq := if left = 0 then rest else (t, left) :: rest }
    s.mapRun fun _ => r2.enterFree (s.die (dieOf s.me.mill))

/-- TOKEN_LINK_TRANSFER: a token crosses the link that the event names, where the slot beyond is free. -/
def execTokenLinkTransfer (s : State) : Res :=
  let r := s.me.run
  if r.gated then .next s
  else match s.cur.arg.lend with
    | .port p => .next (s.fromPort p)
    | .own e =>
      match findOut (·.self) (r.elem e).out with
      | none => .next s
      | some (i, t) => match r.deliver e 7 t.tok s.time with
        | none => .next s
        | some r1 => .next (s.mapRun fun _ => r1.sent e i (fun x => { x with self := false }.without 4) s.time)
    | .quad e =>
      match findOut (·.quad) (r.elem e).out, r.act.convs.find? fun c => c.1 == e with
      | some (i, t), some c => match r.deliver c.2 6 t.tok s.time with
        | none => .next s
        | some r1 => .next (s.mapRun fun _ => r1.sent e i (fun x => { x with quad := false }.without 4) s.time)
      | _, _ => .next s
    | .out e dir =>
      let d := dir.toNat
      match findOut (fun t => t.dirs.getLsbD d) (r.elem e).out with
      | none => .next s
      | some (i, t) =>
        match neighbour s.me.lanes e d with
        | some x => match r.deliver x (opposite d + 1) t.tok s.time with
          | none => .next s
          | some r1 => .next (s.mapRun fun _ => r1.sent e i (fun y => y.without d) s.time)
        | none => match r.act.portAt s.me.lanes e d with
          | none => .next s
          | some p => .next (s.toPort p e d i t)

/-- TOKEN_CHANNEL_PUSH (R279): the TAG at the head of an output port's control tokens pushes once the words before it have
been written. -/
def execTokenChannelPush (s : State) : Res :=
  let p := s.cur.arg.n
  match (s.me.run.port p).ctlq with
  | (0, .ctl (.tag ch tag seq ipc) _) :: rest =>
    if s.me.cmds.any fun c => c.portNo == p && c.slotInFlight then .next s
    else
    let clk := s.me.cmds.foldl (fun m c => if c.ports.contains p then max m c.wclk else m) 0
    match s.pushTag ch tag seq ipc clk with
    | none => .next s
    | some s1 => .next (s1.mapRun fun r => r.mapPort p fun x => { x with ctlq := rest })
  | _ => .next s

/-! ## The ingress meter (R389) -/

/-- The place of a port in a die's order: mill, port, start stone. -/
def igKey (t : Task) (p : Nat) : Nat := (t.mill % Config.millsPerDie * 64 + p) * 16 + t.stone

/-- The ports of a die that offer a metered word, in order from the pointer. -/
def igOffers (s : State) (die : Nat) (d : Die) : List (Nat × TaskId × Nat) :=
  let l := s.all.flatMap fun t =>
    if t.isPlaced && dieOf t.mill == die && !t.run.gated then
      (List.range t.run.ports.length).filterMap fun p =>
        let x := t.run.port p
        if x.canEnter && !x.free d then some (igKey t p, t.id, p) else none
    else []
  let l := sortBy (fun (a b : Nat × TaskId × Nat) => a.1 < b.1) l
  (l.filter fun x => d.igptr ≤ x.1) ++ l.filter fun x => x.1 < d.igptr

/-- Enter words while LEVEL lasts; the first refused holds the turn. -/
def igRun (die : Nat) : List (Nat × TaskId × Nat) → State → State
  | [], s => s
  | (k, t, p) :: rest, s =>
    let d := s.die die
    let cls := ((s.task? t).map fun x => (x.run.port p).cls).getD 0
    let cost := igCost d cls
    if d.iglevel.toNat < cost then
      (s.setDie die { d with igptr := k }).mapTask t fun x => { x with ctx := x.ctx.count 0x016 1 }
    else
      igRun die rest ((s.setDie die { d with iglevel := d.iglevel - BitVec.ofNat 48 cost, igptr := k + 1 }).mapTask t fun x =>
        { x with run := x.run.mapPort p fun y => y.meterWord (x.run.decl p).deal })

/-- INGRESS_METER: one cycle of the die `n`: what is not metered enters, with EN 0 every word. -/
def execIngressMeter (s : State) : Res :=
  let n := s.cur.arg.n
  let d := s.die n
  let s1 := s.mapTasks (fun t => t.isPlaced && dieOf t.mill == n && !t.run.gated) fun t => { t with run := t.run.enterFree d }
  if !igEn d.igctl then .next s1
  else
    let d1 := { d with iglevel := BitVec.ofNat 48 (min (d.iglevel.toNat + igRate d.igctl) (256 * igDepth d.igctl)) }
    .next (igRun n (igOffers (s1.setDie n d1) n d1) (s1.setDie n d1))

/-- A write to IGCTL or IGWT takes effect as the next cycle begins (R389): LEVEL is clipped to the capacity, and filled where EN rises
(R388). -/
def Die.igTake (d : Die) : Die :=
  match d.igNext with
  | none => d
  | some (c, w) =>
    { d with
      igctl := c, igwt := w, igNext := none
      iglevel := BitVec.ofNat 48 (if igEn c && !igEn d.igctl then 256 * igDepth c else min d.iglevel.toNat (256 * igDepth c)) }

end Sys2Proof.Machine
end

