-- ==== Sys2Proof/Machine/Events.lean ====
section
/-!
DEFINITION. Sys2Proof/Machine/Events.lean: what happens to waiting contexts, channels and barriers: asynchronous traps
(R143), waking and release (R32, R33, R227), the watchdog (R52), words and halo messages arriving (R38, R39, R156, R157,
R288), SPILLFULL (R157), barrier phases (R217) and counters that wrap (R436).
-/

namespace Sys2Proof.Machine

/-! ## Asynchronous traps (R143) -/

/-- A pending trap that the context takes at an issue slot: while it steps, faults of its commands wait for the step
boundary (R155), and so does a trigger stop that came with STEP (R443). -/
def Ctx.takes (c : Ctx) (p : Pending) : Bool := !(c.steps && (p.origin == 1 || p.late))

/-- ASYNC_TRAP_TAKE: the oldest pending trap of the acting context. -/
def execAsyncTrapTake (s : State) : Res :=
  match s.me.ctx.pend.find? s.me.ctx.takes with
  | none => .next s
  | some p => .next (s.takePend p)

/-! ## Waiting (R31, R227) -/

/-- The word that a channel register waits for has come. -/
def State.wordCame (s : State) (c : BitVec 2) : Bool :=
  match s.me.ctx.bind[c.toNat]'(c.isLt) with
  | none => true
  | some b => match s.myChan b.ch with
    | none => true
    | some x => !x.front.isEmpty

/-- The room that a channel register waits for is there, or its consumer has gone. -/
def State.roomCame (s : State) (c : BitVec 2) (n : Nat) : Bool :=
  match s.me.ctx.bind[c.toNat]'(c.isLt) with
  | none => true
  | some b => match s.myChan b.ch with
    | none => true
    | some x => s.consumerClosed x || s.chanRoom x n

/-- The latest round of the task at a location has its result. -/
def State.roundCame (s : State) (k : Nat) : Bool :=
  match s.group with
  | none => true
  | some g => match (g.rounds.filter fun r => r.idx == s.me.id.idx && r.loc == k).getLast? with
    | none => true
    | some r => r.res.isSome

/-- Rounds open at a location. -/
def Group.openAt (g : Group) (k : Nat) : Nat :=
  ((g.rounds.filter fun r => r.loc == k && r.res.isNone).map (·.round)).eraseDups.length

/-- The condition that the acting context waits for holds. -/
def State.waitHolds (s : State) : Bool :=
  match s.me.ctx.wait with
  | .none => true
  | .chanWord c => s.wordCame c
  | .flumeSlots hdr n => match s.flume? s.me.id.fn hdr with
    | none => true
    | some f => n.toNat ≤ f.filled.toNat
  | .seeLoad o => match s.obj? o with
    | none => true
    | some x => x.st != .filling
  | .remoteLoad pkg o => !s.remoteFilling pkg o
  | .barrier b => s.phaseDone s.me.id.fn s.me.id.blk b (s.me.ctx.barOf b).ara
  | .syncd => !s.me.det.arrived
  | .atomicRound k => s.roundCame k
  | .chanRoom c n => s.roomCame c n
  | .scoreboard a n st => !s.heldBack a n st
  | .dispatcher n => s.hasPlace n
  | .scw n => let cs := s.me.covered n
    !cs.any Cmd.live || (s.me.ctx.cmdTrap cs).isSome
  | .fills o => !s.me.fillsInto o
  | .wfe => s.me.ctx.latch
  | .barArrive b => s.phaseDone s.me.id.fn s.me.id.blk b (s.me.ctx.barOf b).ara
  | .cmdsRetired => !s.me.busy
  | .bankBusy => (s.mill s.me.mill).busy.isNone && s.tiles.all fun t => t.2.busy.isNone
  | .adepth k => match s.group with
    | none => true
    | some g => g.openAt k < s.me.eff.adepth
  | .queueRoom => true
  | .start => !s.me.waitsStart

/-- The acting context takes an issue slot at once. -/
def State.issueNext (s : State) : State := { s with agenda := .issue s.me.mill s.me.ctxNo :: s.agenda }

/-- A sleeping context whose wake condition has been met in the cycle before is RUNNABLE (R31, R33); its instruction, kept as it was
issued, retires in the first slot the context takes. -/
def State.wake (s : State) : State :=
  if s.me.ctx.st == .sleeping && s.waitHolds then
    s.mapCtx fun c => { c with st := if c.handler then .trapped else .runnable }
  else s

/-- SLEEPING_INSTRUCTION_RETIRE (R33): the acting context's wake condition holds: it is RUNNABLE, and its instruction,
kept as it was issued, takes the slot. -/
def execSleepingInstructionRetire (s : State) : Res :=
  if !s.me.ctx.wait.sleeps || !s.waitHolds then .next s
  else .next (s.mapCtx fun c => { c with st := if c.handler then .trapped else .runnable }).issueNext

/-- STALL_RELEASE (R32): the acting context's stall has ended: its instruction takes the slot. -/
def execStallRelease (s : State) : Res :=
  if s.me.ctx.wait == .none || s.me.ctx.wait.sleeps || !s.waitHolds then .next s
  else .next (s.mapCtx fun c => { c with wait := .none }).issueNext

/-- The watchdog interval of a block in cycles. -/
def Eff.wdogCycles (e : Eff) : Nat := e.wdog * 65536

/-- A context sleeps or stalls (R52: a sleep, or a stall of R96, R188 and R227; the wait for a launch's START is neither, R49). -/
def Ctx.waits (c : Ctx) : Bool := c.wait != .none && c.wait != .start && c.st != .free && c.st != .swapped

/-- WATCHDOG (R52): a context that has slept or stalled for the whole interval takes the trap at its instruction. -/
def execWatchdog (s : State) : Res :=
  if s.me.eff.wdog = 0 || !s.me.ctx.waits || s.me.stop != .none || s.time < s.me.ctx.lastRetire + s.me.eff.wdogCycles then .next s
  else .next (s.trap ⟨tcWATCHDOG, 3, false, 0, 0, s.me.ctx.pc⟩)

/-! ## Spill areas (R39, R157) -/

/-- The area of an open consumer end is full (R157): it takes no further word. An area of no bytes is full only while a word has been held
back at the end (DEDUCED, log 101). -/
def State.areaFull (s : State) (x : Chan) : Bool :=
  (x.peer == 0 || !x.locend) && !x.closed && !s.spillFits x.fn x.blk 8 && match s.blk? x.fn x.blk with
    | some b => b.eff.spill ≠ 0 || (x.fullSince.isSome && s.bufFree x == 0)
    | none => false

/-- The cycle from which each area has been full, as a cycle begins. -/
def State.noteFull (s : State) : State :=
  { s with chans := s.chans.map fun x =>
    if s.areaFull x then { x with fullSince := x.fullSince.orElse fun _ => some s.time }
    else { x with fullSince := none, reported := false } }

/-- A record about a task that may not be placed. -/
def State.consumerFault (s : State) (c : Chan) (cause : BitVec 8) : State :=
  match s.task? c.consumer with
  | some t => s.taskFault t cause 0
  | none => s.fault c.fn ⟨cause, 3, 0, 0, 0, 0, 0, 0, 0, 0, 0, c.ctask, 0, c.blk, 0, []⟩

/-- Try to enter bytes into a channel's spill area: a full area and a write that faults hold the producer back, and the
fault enters SPILLFLT once (R157). -/
def State.spillTry (s : State) (c : Chan) (bytes : Nat) : Bool × State :=
  if c.fault then (false, s)
  else if !s.spillFits c.fn c.blk bytes then
    (false, s.mapChan c.fn c.blk c.ch fun x => { x with fullSince := x.fullSince.orElse fun _ => some s.time })
  else
    let (n, s1) := s.choose
    if Config.spillFaults n then
      (false, (s1.mapChan c.fn c.blk c.ch fun x => { x with fault := true }).consumerFault c tcSPILLFLT)
    else (true, s1.spillCharge c.fn c.blk bytes)

/-- The die of a channel's consumer: that of its task, or of its block. -/
def State.consumerDie (s : State) (c : Chan) : Nat :=
  match s.task? c.consumer with
  | some t => dieOf t.mill
  | none => (s.blk? c.fn c.blk).elim 0 s.blkDie

/-- SPILLFULL (R157): the channel `k` of node `w` has had its area full for the consumer block's interval. -/
def execSpillfull (s : State) : Res :=
  match s.chan? s.cur.arg.fn s.cur.arg.w (BitVec.ofNat 12 s.cur.arg.k) with
  | none => .next s
  | some c =>
    match s.blk? c.fn c.blk, c.fullSince with
    | some b, some t =>
      if b.eff.wdog = 0 || c.reported || s.time < t + b.eff.wdogCycles then .next s
      else if !s.areaFull c then .next (s.mapChan c.fn c.blk c.ch fun x => { x with fullSince := none })
      else .next (((s.mapChan c.fn c.blk c.ch fun x => { x with reported := true }).consumerFault c tcSPILLFULL).source c.fn
        (s.consumerDie c) 6 0)
    | _, _ => .next s

/-! ## Words (R38, R39, R156) -/

/-- Words that leave together: a handle pair, or one word. -/
def headWords : List ChWord → List ChWord
  | a :: b :: _ => if a.handle && b.handle then [a, b] else [a]
  | l => l

/-- The producer end loses its oldest words. -/
def State.dropWire (s : State) (c : Chan) (n : Nat) : State :=
  s.mapChan c.fn c.blk c.ch fun x => { x with wire := x.wire.drop n }

/-- A word that arrives on a consumer channel bound in the context sets its event latch (R259). -/
def Task.wordAt (ch : BitVec 12) (t : Task) : Task :=
  if t.ctx.bind.toList.any (· == some ⟨ch, true⟩) then { t with ctx := { t.ctx with latch := true } } else t

/-- Words reach a consumer end, as many as its buffer has places for and the others in its spill area; none where they are
held back. A handle pair arrives whole. -/
def State.deliver (s : State) (x : Chan) (ws : List ChWord) : Option State × State :=
  let s := s.withEnd x
  let k := s.bufFree x
  let put (st : State) : State := (st.mapChan x.fn x.blk x.ch fun y => { y with
    buf := y.buf ++ ws.take k, spill := y.spill ++ ws.drop k }).mapTask x.consumer (Task.wordAt x.ch)
  if ws.length ≤ k then (some (put s), s)
  else
    let (ok, s1) := s.spillTry x (8 * (ws.length - k))
    if ok then
      (some ((put s1).countFor x.consumer 0x031 (ws.length - k)), s1)
    else (none, s1)

/-- The port by which a channel's next message goes (R412): another one than that of its earlier messages only once those have
been acknowledged. -/
def State.chanPort (s : State) (c : Chan) (ports : BitVec 18) : Option Nat :=
  (s.linkPort c.fn ports).filter fun p => !(List.range Config.linkPorts).any fun q =>
    q != p && (s.link q).outq.any fun f => f.fn == c.fn && f.ch == c.ch && (match f.msg with
      | .word .. | .pair .. | .halo .. => true
      | _ => false)

/-- Send the next message of a channel across a link. -/
def State.sendChan (s : State) (c : Chan) (p clk : Nat) (m : LinkMsg) : State :=
  (s.mapChan c.fn c.blk c.ch fun x => { x with sent := x.sent + 1 }).sendFlit p clk c.fn c.ch c.sent m

/-- The logical time that a channel word carries across a link: the word's, or its producers' (R413). -/
def State.senderClock (s : State) (c : Chan) (w : ChWord) : Nat :=
  if w.clk ≠ 0 then w.clk
  else s.all.foldl (fun m t => if t.id.fn == c.fn && t.id.blk == c.blk && (c.ptask == 0xFFFFFFFF || c.ptask == t.id.idx)
    then max m t.ctx.clock else m) 0

/-- A package holds `n` more handles of an object of this one. -/
def Obj.holdMore (o : Obj) (pkg : BitVec 8) (n : Nat) : Obj :=
  let k := ((o.remote.find? fun r => r.1 == pkg).map (·.2)).getD 0
  { o with remote := (pkg, k + n) :: o.remote.filter fun r => r.1 != pkg }

/-- The origin package counts a see handle that leaves for another package as held there (R413); one of a third package's object is
reported to that package, which counts the holders. -/
def State.noteRemote (s : State) (pkg : BitVec 8) (clk : Nat) (h : BitVec 128) : State :=
  if hPkg h == s.wh.pkg then s.mapObj (hObj h) (·.holdMore pkg 1)
  else if hPkg h == pkg then s
  else (s.sendPkg (hPkg h) clk (.hold (BitVec.ofNat 40 (hObj h)) pkg 1)).sendPkg (hPkg h) clk (.release (BitVec.ofNat 40 (hObj h)) 1)

/-- CHANNEL_WORD_ARRIVAL: the oldest words of channel `k` of node `w` reach the consumer end, or go out over a link. -/
def execChannelWordArrival (s : State) : Res :=
  match s.chan? s.cur.arg.fn s.cur.arg.w (BitVec.ofNat 12 s.cur.arg.k) with
  | none => .next s
  | some c =>
    match headWords c.wire with
    | [] => .next s
    | w :: more =>
      let ws := w :: more
      let n := ws.length
      match s.joined c with
      | some x =>
        if x.closed then .next ((s.dropWire c n).discard x ws)
        else match s.deliver x ws with
          | (some s1, _) => .next (s1.dropWire c n)
          | (none, s1) => .next s1
      | none =>
        match linkEntry s c.fn c.peer with
        | none => .next (((s.linkFault c.fn c.peer).dropWire c n).discard c ws)
        | some (pkg, fn, rch, ports) =>
          if pkg = s.wh.pkg || c.peerClosed then .next ((s.dropWire c n).discard c ws)
          else match s.chanPort c ports with
            | none => .next s
            | some p =>
              let s1 := s.dropWire c n
              let k := s.senderClock c w
              match more with
              | v :: _ =>
                let h := v.val ++ w.val
                .next ((s1.noteRemote pkg k h).sendChan c p k (.pair fn rch h))
              | [] => .next (s1.sendChan c p k (.word fn rch w.val))

/-! ## Halo messages (R288) -/

/-- A running SC.HALO of a channel's consumer waits for the message. -/
def State.haloWaiting (s : State) (x : Chan) (tag : BitVec 16) : Bool :=
  match s.task? x.consumer with
  | none => false
  | some t => t.isPlaced && t.cmds.any fun c => c.op == 0x18 && c.phase == .running && c.sub < 2 &&
      (match haloOf c.raw with
        | some d => !d.norecv && d.chin == x.ch && d.tag == tag
        | none => false)

/-- A message reaches a consumer end: matched, held as words are, or discarded and counted; none where it is held
back. -/
def State.deliverMsg (s : State) (x : Chan) (m : HaloMsg) : Option State × State :=
  let n := msgWords m.bytes.length
  let s := s.withEnd x
  if x.closed then (some (s.discardMsg x n), s)
  else if s.haloWaiting x m.tag then
    (some (s.mapChan x.fn x.blk x.ch fun y => { y with msgs := y.msgs ++ [{ m with held := false, spilt := 0 }] }), s)
  else
    let k := n - s.bufFree x
    let put (st : State) : State :=
      st.mapChan x.fn x.blk x.ch fun y => { y with msgs := y.msgs ++ [{ m with held := true, spilt := k }] }
    if k = 0 then (some (put s), s)
    else
      let (ok, s1) := s.spillTry x (8 * k)
      if ok then (some ((put s1).countFor x.consumer 0x031 k), s1)
      else (none, s1)

/-- The oldest message leaves the wire. -/
def State.dropMsgWire (s : State) (c : Chan) : State :=
  s.mapChan c.fn c.blk c.ch fun x => { x with msgWire := x.msgWire.drop 1 }

/-- HALO_MESSAGE_ARRIVAL: the oldest message of channel `k` of node `w`; across a link it stays on the wire, marked as
sent, until the peer has acknowledged it. -/
def execHaloMessageArrival (s : State) : Res :=
  match s.chan? s.cur.arg.fn s.cur.arg.w (BitVec.ofNat 12 s.cur.arg.k) with
  | none => .next s
  | some c =>
    match c.msgWire with
    | [] => .next s
    | m :: rest =>
      match s.joined c with
      | some x => match s.deliverMsg x m with
        | (some s1, _) => .next (s1.dropMsgWire c)
        | (none, s1) => .next s1
      | none =>
        match linkEntry s c.fn c.peer with
        | none => .next (((s.linkFault c.fn c.peer).dropMsgWire c).discardMsg c (msgWords m.bytes.length))
        | some (pkg, fn, rch, ports) =>
          if pkg = s.wh.pkg || (c.peerClosed && !m.held) then .next ((s.dropMsgWire c).discardMsg c (msgWords m.bytes.length))
          else if m.held then .next s
          else match s.chanPort c ports with
            | none => .next s
            | some p =>
              .next ((s.mapChan c.fn c.blk c.ch fun x => { x with msgWire := { m with held := true } :: rest }).sendChan c p m.clk
                (.halo fn rch m.tag m.bytes))

/-! ## Barriers and counters -/

/-- BARRIER_PHASE_COMPLETE (R217): barrier `n` of node `w`: the contexts asleep in it are RUNNABLE. -/
def execBarrierPhaseComplete (s : State) : Res :=
  let b := BitVec.ofNat 6 s.cur.arg.n
  .next (s.mapTasks (fun t => t.id.fn == s.cur.arg.fn && t.id.blk == s.cur.arg.w && t.ctx.wait == .barrier b &&
      t.ctx.st == .sleeping && s.phaseDone s.cur.arg.fn s.cur.arg.w b (t.ctx.barOf b).ara)
    fun t => { t with ctx := { t.ctx with st := if t.ctx.handler then .trapped else .runnable } })

/-- COUNTER_WRAP (R436): counter `n` of the acting context. -/
def execCounterWrap (s : State) : Res :=
  .next (s.wrapRecord ⟨s.cur.arg.n % 4, Nat.mod_lt _ (by decide)⟩)

end Sys2Proof.Machine
end

