-- ==== Sys2Proof/Machine/HostRegs.lean ====
section
/-!
DEFINITION. Sys2Proof/Machine/HostRegs.lean: the host interface: SRAM bank and pond tile modes (R92 to R94, R97 to R99), push
programs (R98), task control (R146, R408), unmapping (R132, R291, R403), BAR2 (R404), and the registers of BAR0 (R405, R406,
R415, R422, R425, R437).
-/

namespace Sys2Proof.Machine

/-! ## SRAM banks (R92 to R94) -/

/-- The physical mill that a function's MSEL selects. -/
def State.selMill (s : State) (fn : Nat) : Option Nat := (s.fn fn).mills[bitsAt (s.fn fn).msel 0 11]?

/-- The live flume whose slots stand in a bank. One that a change displaced to its BACKING (R94) stands in the bank no more, though its
header names it still: a change into FIFO never meets a flume of the bank (DESIGN CHOICE, log 109). -/
def State.bankFlume (s : State) (m b : Nat) : Option Flume := s.flumes.find? fun f => !f.gone && f.bank == some (m, b)

/-- A footprint of a command in flight on a mill covers a bank's window. -/
def State.bankCovered (s : State) (m b : Nat) : Bool :=
  let lo := windowBase + b * 65536
  s.all.any fun t => t.isPlaced && t.mill == m && t.cmds.any fun c => c.live && c.foot.any fun f =>
    f.lo ≤ lo + 65535 && lo ≤ f.hi

/-- The code of a bank request (R93); none: it is in progress. Where several codes apply, 6 goes before 3, 3 before 4 and 4 before 5:
the rule states no order (DESIGN CHOICE, log 109). -/
def State.bankCode (s : State) (m b : Nat) (mode : BitVec 2) : Option (BitVec 4) :=
  let x := s.mill m
  if x.busy.isSome then some 1
  else if h : b < 24 then
    let old := x.modes[b]
    let f := s.bankFlume m b
    if mode = 3 then some 2
    else if mode = old then some 6
    else if (mode = 2 || old = 2) && f.any (fun f => f.filled != 0 || s.copiesInto f) then some 3
    else if old = 2 && f.any (fun f => f.base == 0) then some 4
    else if old = 1 && s.bankCovered m b then some 5
    else none
  else some 2

/-- BANKREQ: a write of `w` to the register of function `fn`. -/
def execBankreq (s : State) : Res :=
  match s.selMill s.cur.arg.fn with
  | none => .next s
  | some m =>
    let b := bitsAt s.cur.arg.w 0 5
    let mode := BitVec.ofNat 2 (bitsAt s.cur.arg.w 8 2)
    let x := s.mill m
    match s.bankCode m b mode with
    | some c => .next (s.setMill m { x with code := c })
    | none => .next (s.setMill m { x with busy := some (b, mode) })

/-- BANK_MODE_CHANGE_DONE: mill `n`: the bank is zeroed, a flume in it goes on at its BACKING, BANKMODE shows the mode. -/
def execBankModeChangeDone (s : State) : Res :=
  let m := s.cur.arg.n
  let x := s.mill m
  match x.busy with
  | none => .next s
  | some (b, mode) =>
    if h : b < 24 then
      let s1 : State := { s with
        mem := memClear s.mem (keyOf spBank ((m * 24 + b) * 65536)) 65536
        flumes := s.flumes.map fun f => if f.bank == some (m, b) && !f.gone then { f with bank := none } else f }
      .next (s1.setMill m { x with modes := x.modes.set b mode h, busy := none, code := 0 })
    else .next (s.setMill m { x with busy := none })

/-! ## Pond tiles (R97 to R99) -/

/-- The pond tile that a function's TSEL selects, where the partition holds it. -/
def State.selTile (s : State) (fn : Nat) : Option Nat :=
  let f := s.fn fn
  let t := bitsAt f.tsel 0 3 * Config.tilesPerDie + bitsAt f.tsel 8 6
  if f.tiles.contains t then some t else none

/-- A HOME tile holds something (R99): sluice objects, reducing copies, pages that tasks have used, slots of live flumes. -/
def State.tileHolds (s : State) (n : Nat) : Bool :=
  (s.tile n).used != 0 || (s.tile n).copies != 0 || (s.blks.any fun b => b.pages.any fun u => u / 16 == n) ||
  s.flumes.any fun f => !f.gone && f.pond.any fun u => u / 16 == n

/-- PTCTL_MODE: a write of `w` to PTCTL of function `fn`: a change of MODE starts or is refused. A write that leaves MODE as it is, or
comes while BUSY is 1, leaves STATUS as it was (R97 does not say; DESIGN CHOICE, log 110). The storage of a tile that leaves CACHE is
zeroed as the change begins: nothing reads or writes it before the change is done but the device itself, whose accesses have the
effect they have after it (R99; log 123). -/
def execPtctlMode (s : State) : Res :=
  match s.selTile s.cur.arg.fn with
  | none => .next s
  | some n =>
    let x := s.tile n
    let m := BitVec.ofNat 2 (bitsAt s.cur.arg.w 0 2)
    let starts := !(x.busy.isSome || m = x.mode || m = 3 || x.mode ≠ 0)
    let s1 : State := if starts then { s with mem := memClear s.mem (keyOf spPond (n * 2 ^ 20)) (2 ^ 20) } else s
    .next (s1.setTile n (
      if x.busy.isSome || m = x.mode then x
      else if m = 3 then { x with status := 2 }
      else if x.mode = 1 && x.run then { x with status := 3 }
      else if x.mode = 2 && s.tileHolds n then { x with status := 1 }
      else { x with busy := some m }))

/-- TILE_MODE_CHANGE_DONE: tile `n` is in its new mode (R99). -/
def execTileModeChangeDone (s : State) : Res :=
  let n := s.cur.arg.n
  let x := s.tile n
  match x.busy with
  | none => .next s
  | some m =>
    .next (s.setTile n
      { x with mode := m, busy := none, status := 0, run := false })

/-- The function that holds a tile. -/
def State.tileFn (s : State) (n : Nat) : Option Nat := (s.fns.find? fun f => f.2.tiles.contains n).map (·.1)

/-- A push that stops with a cause: a record with ORIGIN 3, RUN cleared. -/
def State.pushStop (s : State) (n fn : Nat) (cause : BitVec 8) (va : Word) : State :=
  (s.devFault fn cause va).setTile n { s.tile n with run := false }

/-- Read the pattern block of a push whole. -/
def pushBlock (s : State) (fn : Nat) (world : Bool) (va : Word) : Except (BitVec 8 × Word) (List Byte) :=
  if world != (s.fn fn).world then .error (tcPROT, va)
  else match devRead s fn va 16 with
    | .error e => .error e
    | .ok bs => (devRead s fn (va + 16) (16 * patDims bs)).map fun more => bs ++ more

/-- PTCTL_RUN_START: a write of `w` to PTCTL of function `fn` with RUN changing to 1 in a PUSH tile; outside PUSH it is ignored (R97
does not say; DESIGN CHOICE, log 110). A PTPAT.PAT that is not 64-byte aligned, as R97 wants it, is refused by no rule: the block is
read where it stands (DESIGN CHOICE, log 124). -/
def execPtctlRunStart (s : State) : Res :=
  let fn := s.cur.arg.fn
  match s.selTile fn with
  | none => .next s
  | some n =>
    let x := s.tile n
    if x.mode ≠ 1 || x.run || x.busy.isSome || !bitAt s.cur.arg.w 2 then .next s
    else
      let va := BitVec.ofInt 64 (signed 57 (bitsAt x.pat 0 57))
      match pushBlock s fn x.world va with
      | .error (c, a) => .next (s.pushStop n fn c a)
      | .ok bs => match patOf bs with
        | none => .next (s.pushStop n fn tcILLOP va)
        | some p => .next (s.setTile n { x with run := true, push := bs, ctr := List.replicate p.counts.length 0, pass := 0 })

/-- PTCTL_RUN_STOP: a write of `w` to PTCTL of function `fn` with RUN cleared: the push stops at the next unit. -/
def execPtctlRunStop (s : State) : Res :=
  match s.selTile s.cur.arg.fn with
  | none => .next s
  | some n => .next (if bitAt s.cur.arg.w 2 then s else s.setTile n { s.tile n with run := false })

/-- The task that holds the run a tile delivers into, where that run declares the port as an input. -/
def State.pushTask (s : State) (fn : Nat) (dst : Word) : Option TaskId :=
  match (s.fn fn).mills[bitsAt dst 0 11]? with
  | none => none
  | some m => (s.all.find? fun t =>
      let d := t.run.decl (bitsAt dst 16 6)
      t.isPlaced && t.mill == m && t.stone == bitsAt dst 12 4 && d.present && !d.out && !t.run.gated).map (·.id)

/-- The tile's counters after a unit; after the last pass it stops. -/
def Tile.pushed (x : Tile) (counts : List Nat) : Tile :=
  let (c, last) := nextIter x.ctr counts
  if !last then { x with ctr := c }
  else
    let n := bitsAt x.dst 22 32
    if n ≠ 0 && n ≤ x.pass + 1 then { x with run := false, pass := x.pass + 1 }
    else { x with ctr := List.replicate counts.length 0, pass := x.pass + 1 }

/-- PUSH_UNIT: tile `n` delivers one unit, where a run takes it; a unit that is not a multiple of 4 stops the push (R267). -/
def execPushUnit (s : State) : Res :=
  let n := s.cur.arg.n
  let x := s.tile n
  if x.mode ≠ 1 || !x.run then .next s
  else match s.tileFn n, patOf x.push with
    | some fn, some p =>
      let o := p.offset + dotCtr x.ctr p.strides
      let port := bitsAt x.dst 16 6
      if o % 4 ≠ 0 then .next (s.pushStop n fn tcALIGN (BitVec.ofInt 64 o))
      else if o < 0 || 2 ^ 20 < o + p.unit then .next (s.pushStop n fn tcPROT (BitVec.ofInt 64 o))
      else match s.pushTask fn x.dst with
        | none => .next s
        | some t => match s.focus t with
          | none => .next s
          | some s1 =>
            if !s1.portFree port then .next s1
            else match s1.offer port (memBytes s1.mem (keyOf spPond (n * 2 ^ 20 + o.toNat)) p.unit) with
              | none => .next (s1.pushStop n fn tcBURSTBAD (BitVec.ofInt 64 o))
              | some s2 => .next (s2.setTile n (x.pushed p.counts))
    | _, _ => .next s

/-! ## Task control (R146, R408) -/

/-- The origin of the fault a task is stopped with: after EXIT only a command or an element can have stopped it. -/
def Task.stopOrigin (t : Task) : BitVec 2 := if t.ctx.st == .free then 1 else BitVec.ofNat 2 (bitsAt t.ctx.trapCause 8 2)

/-- A stopped task that RESUME continues (R146): class S of three causes, or a class P or D trap without a handler; never
one with DOUBLE set or SEVERED. -/
def Task.resumable (t : Task) : Bool :=
  t.stop == .driver && t.stopCause != tcSEVERED && !(bitAt t.ctx.trapCause 11 && t.ctx.st != .free) &&
  (classOf t.stopCause t.stopOrigin != .s || t.stopCause == tcPGFLT || t.stopCause == tcPROT || t.stopCause == tcNOISEWR)

/-- The context of a resumed task goes on at TRAPPC with TM unchanged and the REP state of the shadow. -/
def Ctx.resume (c : Ctx) : Ctx :=
  if c.st == .free then c
  else { c with
    pc := c.trapPc
    rep := if c.repSh.count = 0 then .none else c.repSh
    st := if c.st == .swapped then .swapped else if c.handler then .trapped else .runnable }

/-- The task goes on: stopped elements and commands at their recorded iterations, after translating afresh; a block
whose read faulted is read again. -/
def Task.resume (t : Task) (now : Nat) : Task :=
  { t with
    stop := .none, stopCause := 0
    ctx := { t.ctx.resume with lastRetire := now }
    cmds := t.cmds.map fun c =>
      if c.phase == .faulted then { c with phase := c.prior, cause := 0, rawErr := c.rawErr.map fun e => (0, e.2) } else c
    run := { t.run with
      gated := t.saving || t.waitsStart || t.ctx.pend.any Pending.stops
      elems := t.run.elems.map fun e => if e.stopped then { e with stopped := false, latches := [] } else e } }

/-- Channels whose spill writes for a consumer have faulted. -/
def Chan.spillFault (t : TaskId) (c : Chan) : Bool := c.consumer == t && c.fault

/-- The request in progress ends with a code. -/
def State.tcEnd (s : State) (fn : Nat) (code : BitVec 4) : State :=
  s.setFn fn { s.fn fn with tcbusy := false, tccode := code }

/-- The task that the request in progress names. -/
def Fn.tcTask (f : Fn) (n : Nat) : TaskId := ⟨n, f.tcaddr, BitVec.ofNat 32 (bitsAt f.tcop 0 32)⟩

/-- TCOP_RESUME: the request in progress of function `fn`. -/
def execTcopResume (s : State) : Res :=
  let fn := s.cur.arg.fn
  let f := s.fn fn
  if !f.tcbusy || bitsAt f.tcop 32 2 ≠ 1 then .next s
  else
    let id := f.tcTask fn
    let spilt := s.chans.any (Chan.spillFault id)
    let s1 : State := if spilt then
        { s with chans := s.chans.map fun c => if Chan.spillFault id c then { c with fault := false } else c } else s
    match s1.task? id with
    | none => .next (s1.tcEnd fn (if spilt then 0 else 2))
    | some t =>
      if t.resumable && t.alive then .next ((s1.mapTask id fun t => t.resume s.time).tcEnd fn 0)
      else .next (s1.tcEnd fn (if spilt then 0 else if t.alive && t.stop != .none then 1 else 2))

/-- A task that KILL applies to (R408): a placed one whose EXIT has not retired, or a stopped one. -/
def Task.killable (t : Task) : Bool := t.st == .placed || ((t.st == .swapped || t.st == .draining || t.st == .exited) && t.stop != .none)

/-- TCOP_KILL: the request in progress of function `fn`. -/
def execTcopKill (s : State) : Res :=
  let fn := s.cur.arg.fn
  let f := s.fn fn
  if !f.tcbusy || bitsAt f.tcop 32 2 ≠ 2 then .next s
  else match s.task? (f.tcTask fn) with
    | none => .next (s.tcEnd fn 2)
    | some t =>
      if !t.killable then .next (s.tcEnd fn 2)
      else .next ((s.contain fn t.id.blk .faulted (if t.stop == .none then 0 else t.stopCause)).tcEnd fn 0)

/-! ## Unmapping (R132, R291, R403) -/

/-- The entries of a page leave the TLBs of a function's partition. -/
def State.tlbDrop (s : State) (fn : Nat) (page : Word) (sz : BitVec 2) : State :=
  let keep (e : TlbEntry) : Bool := !(e.fn == fn && inPage page sz (e.page.toNat, e.sz, e.pte))
  { s with
    mills := s.mills.map fun m => (m.1, { m.2 with tlb := m.2.tlb.filter keep })
    dies := s.dies.map fun d => (d.1, { d.2 with tlb2 := d.2.tlb2.filter keep }) }

/-- An element of a plane that reads or writes memory. -/
def Plane.isGen (p : Plane) (e : Nat) : Bool := isAg (eOp (p.wordOf e)).toNat

/-- A plane holds an address-generator element. -/
def Plane.hasGen (p : Plane) : Bool := (List.range p.cells.length).any p.isGen

/-- Every operand of an element is absent: nothing reaches it but the device. -/
def Plane.isSource (p : Plane) (e : Nat) : Bool :=
  let f := eFields (p.wordOf e)
  f.ina == 0 && f.inb == 0 && f.inc == 0

/-- Queue re-latch tokens for the acting run: at every input port, and at each address generator that no stream feeds (R293, R403). -/
def State.injectRelatch (s : State) (page : Word) (sz : BitVec 2) : State :=
  let c := Ctl.relatch page sz
  let r := s.me.run
  let ps := (List.range r.ports.length).filter fun p => (r.decl p).present && !(r.decl p).out
  let src := (List.range r.elems.length).filter fun e => r.act.isGen e && r.act.isSource e
  let out (e : Nat) : BitVec 4 := (outDirs (r.act.wordOf e)).foldl (fun a d => a ||| BitVec.ofNat 4 (2 ^ d)) 0
  s.mapRun fun r => { r with relq := r.relq ++ ps.map (fun p => (p, c, 0)) ++ src.map fun e => (64 + e, c, out e) }

/-- Planes that stand in no fabric forget pages that they latched at load. -/
def Task.forget (hit : Nat × Nat × Word → Bool) (t : Task) : Task :=
  let f (p : Plane) : Plane := { p with pre := p.pre.filter fun x => !hit x.2 }
  { t with run := { t.run with act := f t.run.act, inact := f t.run.inact } }

/-- The elements of a run that have latched a page, but for those that a fault has stopped. -/
def Run.latchers (r : Run) (page : Word) (sz : BitVec 2) : List Nat :=
  (List.range r.elems.length).filter fun e => !(r.elem e).stopped && (r.elem e).latches.any (inPage page sz)

/-- UNMAP: a write of `w` to UNMAPCTL of function `fn`: queued, with its TLB entries dropped and its tokens injected. -/
def execUnmap (s : State) : Res :=
  let fn := s.cur.arg.fn
  let f := s.fn fn
  let sz := BitVec.ofNat 2 (bitsAt s.cur.arg.w 0 2)
  if sz = 3 then .next (s.setFn fn { f with ucode := 2 })
  else if 16 ≤ f.unmaps.length then .next (s.setFn fn { f with ucode := 1 })
  else
    let page := BitVec.ofNat 64 (bitsAt f.unmapva 16 41)
    let me := s.me.id
    let runs := (s.all.filter fun t => t.id.fn == fn && t.isPlaced && t.run.act.hasGen).map fun t =>
      (t.id, (t.run.latchers page sz).map fun e => (e, false))
    let s1 := (s.tlbDrop fn page sz).mapTasks (fun t => t.id.fn == fn) (Task.forget (inPage page sz))
    let s2 := runs.foldl (fun (st : State) t => st.asTask t.1 fun st => st.injectRelatch page sz) s1
    .next (((s2.focus me).getD s2).setFn fn { f with ucode := 0, unmaps := f.unmaps ++ [⟨page, sz, runs⟩] })

/-- A re-latch token of a page. -/
def isRelatch (page : Word) (sz : BitVec 2) : Tok → Bool
  | .ctl (.relatch p n) _ => p == page && n == sz
  | _ => false

/-- An element still holds the re-latch token of a page that it has taken. -/
def Elem.carries (e : Elem) (page : Word) (sz : BitVec 2) : Bool :=
  let q := isRelatch page sz
  (e.out ++ e.emit).any (fun x => q x.tok) || e.queue.any fun x => match x with
    | some t => q t
    | none => false

/-- The elements of a run that the token has still to leave (R132): one that a fault has stopped, and those of a run that is swapped out
or gone, count as re-latched at once (R403). -/
def State.unleft (s : State) (u : Unmap) (x : TaskId × List (Nat × Bool)) : TaskId × List (Nat × Bool) :=
  match s.task? x.1 with
  | none => (x.1, [])
  | some t =>
    if !t.isPlaced || t.ctx.st == .swapped then (x.1, [])
    else (x.1, x.2.filter fun e => !(t.run.elem e.1).stopped && (!e.2 || (t.run.elem e.1).carries u.page u.sz))

/-- What a request still waits for: the runs in which some element is left. -/
def State.waits (s : State) (u : Unmap) : Unmap := { u with runs := (u.runs.map (s.unleft u)).filter fun x => !x.2.isEmpty }

/-- UNMAP_COMPLETE: the oldest request of function `fn` ends, once its tokens have left; vector 2 fires when none is left. -/
def execUnmapComplete (s : State) : Res :=
  let fn := s.cur.arg.fn
  let f := s.fn fn
  match f.unmaps.map s.waits with
  | [] => .next s
  | u :: rest =>
    if !u.runs.isEmpty then .next (s.setFn fn { f with unmaps := u :: rest })
    else
      let s1 := s.setFn fn { f with unmaps := rest }
      .next (if rest.isEmpty then s1.msix fn 2 else s1)

/-! ## BAR2 (R404) -/

/-- An access of `n` bytes of a function meets a pond tile whose mode is changing: it stalls (R99). -/
def State.meetsBusy (s : State) (fn : Nat) (va : Word) (n : Nat) : Bool :=
  (rangePieces va n).any fun x => match devWalk x.1 (walk s fn) with
    | .ok (p, sz) => pteLoc p == 1 && (s.tile (pteTile p sz x.1)).busy.isSome
    | .error _ => false

/-- BAR2_ACCESS: function `fn` reads `n` bytes, or writes the bytes given, at offset `k` of the window. One that meets a tile whose mode
is changing is held to the next cycle. A fault completes as Unsupported Request and leaves a record; in recovery and after a thermal
shutdown every access does (R419, R458). -/
def execBar2Access (s : State) : Res :=
  let fn := s.cur.arg.fn
  let va := BitVec.ofInt 64 (signed 57 (bitsAt (s.fn fn).win 36 21 * 2 ^ 36 + s.cur.arg.k % 2 ^ 36))
  if s.wh.recovery || s.wh.shut then .next { s with bar2 := none }
  else if s.meetsBusy fn va (if s.cur.arg.wr then s.cur.arg.bytes.length else s.cur.arg.n) then
    .next { s with inputs := (.bar2Access, s.cur.arg) :: s.inputs }
  else if s.cur.arg.wr then
    match devWrite s fn va s.cur.arg.bytes with
    | .ok s1 => .next { s1 with bar2 := some [] }
    | .error (c, a) => .next { s.devFault fn c a with bar2 := none }
  else
    match devRead s fn va s.cur.arg.n with
    | .ok bs => .next { s with bar2 := some bs }
    | .error (c, a) => .next { s.devFault fn c a with bar2 := none }

/-! ## BAR0 (R405, R406, R415, R422, R425, R437) -/

/-- Keep the bits of some fields. -/
def fieldsOf (w : Word) (fs : List (Nat × Nat)) : Word :=
  fs.foldl (fun a f => a ||| BitVec.ofNat 64 (bitsAt w f.1 f.2 * 2 ^ f.1)) 0

/-- A task of a function is queued or placed. -/
def State.fnActive (s : State) (fn : Nat) : Bool :=
  (s.dies.any fun d => d.2.queue.any fun e => e.fn == fn) || s.all.any fun t => t.id.fn == fn && t.alive

/-- A function owns a trigger line. -/
def State.ownsLine (s : State) (fn k : Nat) : Bool := s.wh.trigOwn.any fun x => x.1 == k && x.2 == fn

/-- RW fields of TRIGCFG. -/
def trigFields : List (Nat × Nat) := [(0, 11), (16, 5), (32, 16)]

/-- The registers of a function with no behaviour of their own. -/
def Fn.store (f : Fn) (off : Nat) (w : Word) : Fn :=
  match off with
  | 0x018 => { f with tcaddr := w }
  | 0x030 => { f with unmapva := fieldsOf w [(16, 41)] }
  | 0x048 => { f with flbase := fieldsOf w [(12, 45)] }
  | 0x050 => { f with fllog := BitVec.ofNat 5 (bitsAt w 0 5) }
  | 0x060 => { f with fltail := w.setWidth 32 }
  | 0x070 => { f with ndt := fieldsOf w [(13, 44)] }
  | 0x078 => { f with fha := fieldsOf w [(0, 16), (16, 41)] }
  | 0x080 => { f with cgt := fieldsOf w [(0, 13), (16, 41)] }
  | 0x088 => { f with llt := fieldsOf w [(0, 16), (16, 41)] }
  | 0x090 => { f with win := fieldsOf w [(36, 21)] }
  | 0x0C0 => { f with msel := fieldsOf w [(0, 11)] }
  | 0x0E0 => { f with tsel := fieldsOf w [(0, 3), (8, 6)] }
  | 0x400 => { f with dbgaddr := w }
  | 0x410 => { f with dbgdata := w }
  | 0x420 => { f with nstop := f.nstop.set 0 (fieldsOf w [(0, 50)]) }
  | 0x428 => { f with nstop := f.nstop.set 1 (fieldsOf w [(0, 50)]) }
  | 0x430 => { f with nstop := f.nstop.set 2 (fieldsOf w [(0, 50)]) }
  | 0x438 => { f with nstop := f.nstop.set 3 (fieldsOf w [(0, 50)]) }
  | 0x440 => { f with trbase := fieldsOf w [(12, 45)] }
  | 0x448 => { f with tren := bitAt w 0, trlog := BitVec.ofNat 5 (bitsAt w 16 5) }
  | 0x458 => { f with trtail := w.setWidth 32 }
  | 0x488 => { f with rpctl := fieldsOf w [(0, 6)] }
  | 0x490 => { f with rpcap := fieldsOf w [(0, 16), (16, 41)] }
  | 0x498 => { f with rpevt := fieldsOf w [(3, 54)] }
  | 0x4A0 => { f with rpout := fieldsOf w [(0, 5), (6, 51)] }
  | _ => f

/-- An event of the package comes next. -/
def State.raise (s : State) (i : Instr) (a : EvArg) : State := { s with agenda := .dev i a :: s.agenda }

/-- A write to the selected tile's PTPAT or PTDST. -/
def State.tileReg (s : State) (fn off : Nat) (w : Word) : State :=
  match s.selTile fn with
  | none => s
  | some n =>
    let x := s.tile n
    s.setTile n (if off = 0x0F0 then { x with pat := fieldsOf w [(0, 57)] }
      else { x with dst := fieldsOf w [(0, 11), (12, 4), (16, 6), (22, 32)] })

/-- REGISTER_WRITE: function `fn` writes `w` at offset `n` of BAR0. A register with a behaviour of its own hands the write
to its event; the others store their RW fields, those of a replay only while none is in progress (R447); in recovery and after a
thermal shutdown nothing is reached (R419, R458). -/
def execRegisterWrite (s : State) : Res :=
  let a := s.cur.arg
  let f := s.fn a.fn
  let w := a.w
  if s.wh.recovery || s.wh.shut then .next s
  else match a.n with
    | 0x000 => .next (if s.fnActive a.fn then s.setFn a.fn { f with ptroot := setBit f.ptroot 0 (bitAt w 0) }
        else s.setFn a.fn { f with ptroot := fieldsOf w [(0, 1), (12, 40)] })
    | 0x008 => .next (s.raise .launch a)
    | 0x020 => .next (if f.tcbusy then s
        else if bitsAt w 32 2 = 1 || bitsAt w 32 2 = 2 then s.setFn a.fn { f with tcop := fieldsOf w [(0, 34)], tcbusy := true }
        else s.setFn a.fn { f with tccode := 3 })
    | 0x038 => .next (s.raise .unmap a)
    | 0x0D0 => .next (s.raise .bankreq a)
    -- MODE is judged ahead of RUN: a write that leaves PUSH and clears RUN is refused with STATUS 3, and RUN is then cleared (R97 does
    -- not say; DESIGN CHOICE, log 110)
    | 0x0E8 => .next (s.raise (if bitAt w 2 then .ptctlRunStart else .ptctlRunStop) a |>.raise .ptctlMode a)
    | 0x0F0 => .next (s.tileReg a.fn 0x0F0 w)
    | 0x0F8 => .next (s.tileReg a.fn 0x0F8 w)
    | 0x408 => .next (if f.dbgbusy then s
        else if 1 ≤ bitsAt w 32 4 && bitsAt w 32 4 ≤ 7 then s.setFn a.fn { f with dbgop := fieldsOf w [(0, 36)], dbgbusy := true }
        else s.setFn a.fn { f with dbgcode := 2 })
    | 0x448 =>
      let s1 := s.setFn a.fn (f.store 0x448 w)
      .next (if bitAt w 1 then s1.raise .trctlUnfreeze a else s1)
    | 0x480 => .next (s.raise .replayStart a)
    | 0x488 => .next (if f.rpbusy then s else s.setFn a.fn (f.store 0x488 w))
    | 0x490 => .next (if f.rpbusy then s else s.setFn a.fn (f.store 0x490 w))
    | 0x498 => .next (if f.rpbusy then s else s.setFn a.fn (f.store 0x498 w))
    | 0x4A0 => .next (if f.rpbusy then s else s.setFn a.fn (f.store 0x4A0 w))
    | off =>
      let k := (off - 0x800) / 8
      .next (if 0x800 ≤ off && k < 256 && off % 8 = 0 then
          (if s.ownsLine a.fn k then s.setFn a.fn { f with trig := aset f.trig k (fieldsOf w trigFields) } else s)
        else s.setFn a.fn (f.store off w))

/-! ## Reading BAR0 -/

/-- BANKMODE, BANKSTAT and PTCTL as they read. -/
def Mill.bankmode (m : Mill) : Word :=
  BitVec.ofNat 64 (((List.range 24).zip m.modes.toList).foldl (fun n x => n + x.2.toNat * 4 ^ x.1) 0)
def Mill.bankstat (m : Mill) : Word := BitVec.ofNat 64 (bool1 m.busy.isSome + m.code.toNat * 2 ^ 4)
def Tile.ptctl (t : Tile) : Word :=
  BitVec.ofNat 64 (t.mode.toNat + bool1 t.run * 4 + bool1 t.busy.isSome * 8 + t.status.toNat * 2 ^ 4 + t.owner.toNat * 2 ^ 8 +
    bool1 t.world * 2 ^ 16)

/-- RPSTAT (R437). -/
def Fn.rpstat (f : Fn) : Word :=
  BitVec.ofNat 64 (bool1 f.rpbusy + bool1 f.rpmis * 2 + bool1 f.rprbusy * 4 + f.rpcode.toNat * 2 ^ 4 + f.rppass.toNat * 2 ^ 8 +
    f.rpfirst.toNat * 2 ^ 16 + f.rpoutrec * 2 ^ 24 + f.rpoutlost * 2 ^ 48)

/-- What a register of function `fn` at an offset of BAR0 holds; write-only registers and unassigned offsets read zero. -/
def State.bar0Word (s : State) (fn off : Nat) : Word :=
  let f := s.fn fn
  match off with
  | 0x000 => f.ptroot
  | 0x010 => BitVec.ofNat 64 (f.launches.length + f.lcode.toNat * 2 ^ 8)
  | 0x018 => f.tcaddr
  | 0x028 => BitVec.ofNat 64 (bool1 f.tcbusy + f.tccode.toNat * 2 ^ 4)
  | 0x030 => f.unmapva
  | 0x040 => BitVec.ofNat 64 (bool1 (!f.unmaps.isEmpty) + f.unmaps.length * 2 + f.ucode.toNat * 2 ^ 8 +
      (sumNat (f.unmaps.map fun u => (s.waits u).runs.length)) * 2 ^ 16)
  | 0x048 => f.flbase
  | 0x050 => f.fllog.setWidth 64
  | 0x058 => f.flhead.setWidth 64
  | 0x060 => f.fltail.setWidth 64
  | 0x068 => f.fllost.setWidth 64
  | 0x070 => f.ndt
  | 0x078 => f.fha
  | 0x080 => f.cgt
  | 0x088 => f.llt
  | 0x090 => f.win
  | 0x098 => BitVec.ofNat 64 (f.tag.toNat + f.mills.length * 2 ^ 8)
  | 0x0C0 => f.msel
  | 0x0C8 => ((s.selMill fn).map fun m => (s.mill m).bankmode).getD 0
  | 0x0D8 => ((s.selMill fn).map fun m => (s.mill m).bankstat).getD 0
  | 0x0E0 => f.tsel
  | 0x0E8 => ((s.selTile fn).map fun t => (s.tile t).ptctl).getD 0
  | 0x0F0 => ((s.selTile fn).map fun t => (s.tile t).pat).getD 0
  | 0x0F8 => ((s.selTile fn).map fun t => (s.tile t).dst).getD 0
  | 0x400 => f.dbgaddr
  | 0x410 => f.dbgdata
  | 0x418 => BitVec.ofNat 64 (bool1 f.dbgbusy + f.dbgcode.toNat * 2 ^ 4)
  | 0x420 => f.nstop[0]
  | 0x428 => f.nstop[1]
  | 0x430 => f.nstop[2]
  | 0x438 => f.nstop[3]
  | 0x440 => f.trbase
  | 0x448 => BitVec.ofNat 64 (bool1 f.tren + bool1 f.frozen * 2 + f.trlog.toNat * 2 ^ 16)
  | 0x450 => f.trhead.setWidth 64
  | 0x458 => f.trtail.setWidth 64
  | 0x460 => f.trlost.setWidth 64
  | 0x488 => f.rpctl
  | 0x490 => f.rpcap
  | 0x498 => f.rpevt
  | 0x4A0 => f.rpout
  | 0x4A8 => f.rpstat
  | 0x4B0 => f.rpsig1
  | 0x4B8 => f.rpsigl
  | _ =>
    let k := (off - 0x800) / 8
    let n := (off - 0x1000) / 16
    if 0x800 ≤ off && k < 256 && off % 8 = 0 then
      (if s.ownsLine fn k then setBit (aget 0 f.trig k) 63 true else 0)
    else if h : 0x1000 ≤ off ∧ n < 64 ∧ fn = 0 then
      (if off % 16 = 0 then (s.wh.sr[n]'h.2.1).1 else if off % 16 = 8 then (s.wh.sr[n]'h.2.1).2 else 0)
    else 0

/-- What a read of function `fn` at an offset of BAR0 completes with; none, Unsupported Request, in recovery and after a thermal
shutdown (R419, R458). -/
def State.bar0 (s : State) (fn off : Nat) : Option Word :=
  if s.wh.recovery || s.wh.shut then none else some (s.bar0Word fn off)

end Sys2Proof.Machine
end

