-- ==== Sys2Proof/Machine/Debug.lean ====
section
/-!
DEFINITION. Sys2Proof/Machine/Debug.lean: debug requests (R422, R423), save images as DUMP writes and LOAD reads them (R149,
R150), the trigger crossbar (R425 to R427), the way of trace records to their ring (R430), samples (R421, R429) and the power
gating of a mill (R431).
-/

namespace Sys2Proof.Machine

/-! ## Requests (R422, R423) -/

/-- The task index that stands for every task of the block. -/
def allTasks : BitVec 32 := 0xFFFFFFFF

/-- OP and TASK of the request in progress, and the task it names. -/
def Fn.dbgOpNo (f : Fn) : Nat := bitsAt f.dbgop 32 4
def Fn.dbgIdx (f : Fn) : BitVec 32 := BitVec.ofNat 32 (bitsAt f.dbgop 0 32)
def Fn.dbgTask (f : Fn) (n : Nat) : TaskId := ⟨n, f.dbgaddr, f.dbgIdx⟩

/-- The request in progress ends with a code. -/
def State.dbgEnd (s : State) (fn : Nat) (code : BitVec 4) : State :=
  s.setFn fn { s.fn fn with dbgbusy := false, dbgcode := code }

/-- A task that has started and not ended. -/
def Task.present (t : Task) : Bool := t.st == .placed || t.st == .draining || t.st == .swapped

/-- DBGCTL of a context changed. -/
def Task.mapDbg (f : Word → Word) (t : Task) : Task := { t with ctx := { t.ctx with dbg := f t.ctx.dbg } }

/-- A task stopped for the debugger goes on (GO): its run ungated, its context at TRAPPC. -/
def Task.go (now : Nat) (t : Task) : Task := if t.stop == .debugger then t.resume now else t

/-- A node stop or trigger stop that the context has still to take completes at once (R443). -/
def State.takeStop (s : State) : State :=
  match s.me.ctx.pend.find? fun p => p.cause == tcTRIGSTOP with
  | none => s
  | some p => s.takePend p

/-- The acting task loses its debugger: a stop of the cycle completes (R443), ATT, STEP, STEPSYNC and CPS are cleared, and it
continues. -/
def State.detachMe (s : State) : State :=
  let s1 := s.nodeStop.takeStop
  s1.mapMe fun t => (t.mapDbg fun w => w &&& ~~~0x17).go s.time

/-- Requests start here: with one of OP `op` in progress at function `fn`, what `k` does with its task; a task that is
absent, or not attached where `att` asks for it, ends the request with CODE 1. -/
def dbgRequest (op : Nat) (att : Bool) (k : TaskId → Task → State → Option State) (s : State) : Res :=
  let fn := s.cur.arg.fn
  let f := s.fn fn
  if !f.dbgbusy || f.dbgOpNo ≠ op then .next s
  else
    let id := f.dbgTask fn
    match s.task? id with
    | none => .next (s.dbgEnd fn 1)
    | some t =>
      if !t.present || (att && !t.ctx.attached) then .next (s.dbgEnd fn 1)
      else match k id t s with
        | none => .next (s.dbgEnd fn 1)
        | some s1 => .next s1

/-- ATTACH: the request in progress of function `fn`. -/
def execAttach (s : State) : Res :=
  let fn := s.cur.arg.fn
  let f := s.fn fn
  if f.dbgbusy && f.dbgOpNo = 1 && f.dbgIdx = allTasks then
    let s1 := s.mapTasks (fun t => t.id.fn == fn && t.id.blk == f.dbgaddr && t.present) (Task.mapDbg fun w => w ||| 1)
    .next ((s1.setFn fn { f with attach := f.dbgaddr :: f.attach.filter fun a => a != f.dbgaddr }).dbgEnd fn 0)
  else dbgRequest 1 false (fun id _ s => some ((s.mapTask id (Task.mapDbg fun w => w ||| 1)).dbgEnd fn 0)) s

/-- DETACH: the request in progress of function `fn`. -/
def execDetach (s : State) : Res :=
  let fn := s.cur.arg.fn
  let f := s.fn fn
  let me := s.me.id
  if f.dbgbusy && f.dbgOpNo = 2 && f.dbgIdx = allTasks then
    let ts := s.all.filter fun t => t.id.fn == fn && t.id.blk == f.dbgaddr && t.present && t.ctx.attached
    if ts.isEmpty && !f.attach.contains f.dbgaddr then .next (s.dbgEnd fn 1)
    else
      let s1 := ts.foldl (fun (st : State) t => st.asTask t.id State.detachMe)
        (s.setFn fn { f with attach := f.attach.filter fun a => a != f.dbgaddr })
      .next (((s1.focus me).getD s1).dbgEnd fn 0)
  else dbgRequest 2 true (fun id _ s =>
    let s1 := s.asTask id State.detachMe
    some (((s1.focus me).getD s1).dbgEnd fn 0)) s

/-- STOP: the request in progress of function `fn`: a trigger stop (R426). -/
def execStop (s : State) : Res :=
  let fn := s.cur.arg.fn
  let me := s.me.id
  dbgRequest 3 true (fun id t s =>
    if !t.isPlaced || t.stop != .none then none
    else
      let s1 := s.asTask id fun st => st.stopRun 3 0
      some (((s1.focus me).getD s1).dbgEnd fn 0)) s

/-- GO: the request in progress of function `fn`. -/
def execGo (s : State) : Res :=
  let fn := s.cur.arg.fn
  dbgRequest 4 true (fun id t s => if t.stop != .debugger then none else some ((s.mapTask id (Task.go s.time)).dbgEnd fn 0)) s

/-- WRCTL: the request in progress of function `fn`. -/
def execWrctl (s : State) : Res :=
  let fn := s.cur.arg.fn
  let v := (s.fn fn).dbgdata
  dbgRequest 6 true (fun id _ s =>
    some ((s.mapTask id (Task.mapDbg fun w => (w &&& ~~~dbgMask) ||| (v &&& dbgMask))).dbgEnd fn 0)) s

/-! ## Save images (R149, R150) -/

/-- The context that section 4 of an image gives; what has no place there stays. -/
def Ctx.ofImage (c : Ctx) (bs : List Byte) : Ctx :=
  let w (i : Nat) : Word := dword bs (8 * i)
  { c with
    pc := w 0
    g := Vector.ofFn fun (i : Fin 32) => if i.val = 0 then 0 else w (1 + i.val)
    f := Vector.ofFn fun (i : Fin 16) => w (33 + i.val)
    q := Vector.ofFn fun (i : Fin 8) => bitAt (w 49) i.val
    h := Vector.ofFn fun (i : Fin 8) => w (51 + 2 * i.val) ++ w (50 + 2 * i.val)
    tm := bitAt (w 66) 0
    fpf := BitVec.ofNat 5 (bitsAt (w 66) 8 5)
    fpe := BitVec.ofNat 5 (bitsAt (w 66) 16 5)
    nseed := w 67
    nstep := (w 68).setWidth 32
    trapPc := w 69
    trapCause := w 70 &&& trapCauseMask
    trapInfo := w 71
    atomFlags := w 72 &&& atomFlagsMask
    dbg := w 73 &&& 0x1F1F
    repSh := ⟨w 74, w 75, w 76⟩
    rep := ⟨w 77, w 78, w 79⟩
    ctrs := Vector.ofFn fun (i : Fin 4) => ⟨BitVec.ofNat 12 (bitsAt (w (80 + i.val)) 48 12), bitAt (w (80 + i.val)) 60,
      BitVec.ofNat 48 (bitsAt (w (80 + i.val)) 0 48), (c.ctrs[i]).wrapped⟩
    clock := (w 84).toNat
    sig := w 85
    seq := (w 86).setWidth 32 }

/-- DUMP: the request in progress of function `fn` writes the image at DATA. -/
def execDump (s : State) : Res :=
  let fn := s.cur.arg.fn
  let a := (s.fn fn).dbgdata
  dbgRequest 5 true (fun _ t s =>
    if t.stop != .debugger then none
    else if a.toNat % 64 ≠ 0 then some (s.dbgEnd fn 3)
    else
      let (n, s1) := s.choose
      match devWrite s1 fn a (s1.saveImage t 4 n) with
      | .ok s2 => some (s2.dbgEnd fn 0)
      | .error _ => some (s1.dbgEnd fn 3)) s

/-- LOAD: the request in progress of function `fn` replaces the context section of its task from the image at DATA. -/
def execLoad (s : State) : Res :=
  let fn := s.cur.arg.fn
  let a := (s.fn fn).dbgdata
  dbgRequest 7 true (fun id t s =>
    if t.stop != .debugger then none
    else if a.toNat % 64 ≠ 0 then some (s.dbgEnd fn 3)
    else match devRead s fn a 64 with
      | .error _ => some (s.dbgEnd fn 3)
      | .ok h =>
        if word4 h 4 ≠ t.id.idx || dword h 16 ≠ t.run.act.id then some (s.dbgEnd fn 4)
        else match devRead s fn (a + (word4 h 0x30).setWidth 64) 768 with
          | .error _ => some (s.dbgEnd fn 3)
          | .ok bs => some ((s.mapTask id fun t => { t with ctx := t.ctx.ofImage bs }).dbgEnd fn 0)) s

/-! ## Records on their way (R430) -/

/-- Doubleword 0 of a FREEZE or LOSS record, which names no task. -/
def recHead (type mill die : Nat) : Word := BitVec.ofNat 64 (type + 2 ^ 8 + mill * 2 ^ 20 + die % 8 * 2 ^ 29 + 0xFFFFFFFF * 2 ^ 32)

/-- A record of a die's recorders, written while TRCTL.EN is 1, or discarded and counted while they are frozen (R427). -/
def State.dieRecord (s : State) (fn type mill die : Nat) (d0 d1 : Word) : State :=
  let f := s.fn fn
  if !f.tren then s
  else if f.frozenDies.any fun x => x.1 == die then
    s.setFn fn { f with frozenDies := f.frozenDies.map fun x => if x.1 == die then (x.1, x.2 + 1) else x }
  else { s with dtrace := s.dtrace ++ [(die, ⟨fn, [recHead type mill die, BitVec.ofNat 64 s.time, d0, d1], 1⟩)] }

/-- Put one 32-byte record into a function's ring: dropped and counted while the ring is full. -/
def State.ringPut (s : State) (fn : Nat) (ws : List Word) : State :=
  let f := s.fn fn
  let n := if 7 ≤ f.trlog.toNat && f.trlog.toNat ≤ 24 then f.trlog.toNat else 7
  if f.trhead - f.trtail == BitVec.ofNat 32 (2 ^ n) then s.setFn fn { f with trlost := f.trlost + 1 }
  else match devWrite s fn (regBase f.trbase 12 + BitVec.ofNat 64 (32 * (f.trhead.toNat % 2 ^ n))) (ws.flatMap dbytes) with
    | .error (c, a) => s.devFault fn c a
    | .ok s1 => s1.setFn fn { s1.fn fn with trhead := f.trhead + 1 }

/-- The 32-byte records of an entry. -/
def recordsOf : List Word → List (List Word)
  | a :: b :: c :: d :: rest => [a, b, c, d] :: recordsOf rest
  | _ => []

/-- Put an entry into its function's ring. -/
def State.ringEntry (s : State) (r : TraceRec) : State := (recordsOf r.words).foldl (fun (st : State) ws => st.ringPut r.fn ws) s

/-- Records move on: what stands in the dies goes to the rings, what stands in the mills to the dies. -/
def State.drainTrace (s : State) : State :=
  let out := s.dtrace.map (·.2)
  let up := s.mills.flatMap fun m => m.2.trace.map fun r => (dieOf m.1, r)
  if out.isEmpty && up.isEmpty then s
  else
    let s1 := out.foldl State.ringEntry { s with
      dtrace := []
      mills := s.mills.map fun m => (m.1, { m.2 with trace := [] }) }
    { s1 with dtrace := s1.dtrace ++ up }

/-! ## The trigger crossbar (R425 to R427) -/

/-- The number of a line: 32 a die. -/
def lineNo (die l : Nat) : Nat := 32 * die + l

/-- The owner of a trigger pin assigned along with a line. -/
def pinOwned (l : List (Nat × Nat)) (pin fn : Nat) : Bool := l.any fun x => x.1 == pin && x.2 == fn

/-- More flit replays than RSTORM on a race-link port of the function in this window. -/
def State.retryStorm (s : State) (fn : Nat) (cfg : Word) : Bool :=
  let n := bitsAt cfg 32 16
  n ≠ 0 && (List.range Config.linkPorts).any fun p =>
    (s.fn fn).lports.getLsbD p && (s.link p).window = s.time / 65536 && n < (s.link p).replays

/-- The TRIGCFG sources of a line that hold, as bits 10:1: those of the mask of events, a retry storm and the pin. -/
def State.sources (s : State) (fn die l : Nat) (m : Word) : Nat :=
  let cfg := aget 0 (s.fn fn).trig (lineNo die l)
  let now := (m.toNat &&& 0x57E) + bool1 (s.retryStorm fn cfg) * 2 ^ 7 +
    bool1 (s.pinsIn.getLsbD (l % 4) && pinOwned s.wh.pinIn (l % 4) fn) * 2 ^ 9
  if bitAt cfg 0 && s.ownsLine fn (lineNo die l) then now &&& (bitsAt cfg 1 10 * 2) else 0

/-- TRIGGER_LINE_ASSERT: line `k` of die `n` for function `fn`; `w` has the TRIGCFG bits of the source events that hold in the
cycle. -/
def execTriggerLineAssert (s : State) : Res :=
  let a := s.cur.arg
  let m := s.sources a.fn a.n a.k a.w
  let d := s.die a.n
  if m = 0 then .next s else .next (s.setDie a.n { d with trig := d.trig ++ [(a.k, m, m == 2 ^ 10)] })

/-- The function that owns a line. -/
def State.lineOwner (s : State) (k : Nat) : Option Nat := (s.wh.trigOwn.find? fun x => x.1 == k).map (·.2)

/-- A record was created at a time. -/
def TraceRec.at (r : TraceRec) (time : Nat) : Bool := r.words.getD 1 0 == BitVec.ofNat 64 time

/-- A freeze reaches a function's recorders on a die (R427): the records it has created in the cycle are discarded and counted, the
FREEZE record is written, and later ones are discarded. -/
def State.freeze (s : State) (fn die l m : Nat) : State :=
  let f := s.fn fn
  if f.frozenDies.any fun x => x.1 == die then s
  else
    let now (r : TraceRec) : Bool := r.fn == fn && r.at s.time
    let late := (s.mills.filter fun x => dieOf x.1 == die).flatMap (·.2.trace) ++ (s.dtrace.filter fun x => x.1 == die).map (·.2)
    let s1 : State := { s with
      mills := s.mills.map fun x => if dieOf x.1 == die then (x.1, { x.2 with trace := x.2.trace.filter fun r => !now r }) else x
      dtrace := s.dtrace.filter fun x => !(x.1 == die && now x.2) }
    (s1.dieRecord fn 0x05 0 die (BitVec.ofNat 64 m) (BitVec.ofNat 64 (l + die * 2 ^ 5))).setFn fn
      { f with frozen := true, frozenDies := f.frozenDies ++ [(die, sumNat ((late.filter now).map (·.len)))] }

/-- STEP stopped the task in this very cycle. -/
def Task.stepped (now : Nat) (t : Task) : Bool := t.stop == .debugger && t.stopCause == tcSTEP && t.ctx.lastIssue == now

/-- Every attached task of a function on a die stops (R426); one that took STEP in this cycle takes the trigger stop at its next
boundary (R443). -/
def State.stopAll (s : State) (fn die : Nat) : State :=
  let here (t : Task) : Bool := t.id.fn == fn && t.isPlaced && dieOf t.mill == die && t.ctx.attached
  let s1 := s.mapTasks (fun t => here t && t.stepped s.time) fun t => { t with ctx := t.ctx.post ⟨tcTRIGSTOP, 3, 0, 0, false, true⟩ }
  let s2 := (s1.all.filter fun t => here t && t.stop == .none).foldl (fun (st : State) t => st.asTask t.id fun st => st.stopRun 3 0) s1
  (s2.focus s.me.id).getD s2

/-- TRIGGER_SINK_REACH: the oldest assertion of line `k` of die `n` reaches its sinks. One that came by SRCDIE alone is not
forwarded. -/
def execTriggerSinkReach (s : State) : Res :=
  let a := s.cur.arg
  let d := s.die a.n
  match d.trig.find? fun x => x.1 == a.k, s.lineOwner (lineNo a.n a.k) with
  | some x, some fn =>
    let cfg := aget 0 (s.fn fn).trig (lineNo a.n a.k)
    let s1 := s.setDie a.n { d with trig := d.trig.erase x }
    let s2 := if bitAt cfg 16 then s1.stopAll fn a.n else s1
    let s3 := if bitAt cfg 17 then s2.freeze fn a.n a.k x.2.1 else s2
    let s4 := if bitAt cfg 18 then
        s3.mapTasks (fun t => t.id.fn == fn && t.isPlaced && dieOf t.mill == a.n) fun t => { t with ctx := { t.ctx with latch := true } }
      else s3
    let s5 := if bitAt cfg 19 && pinOwned s.wh.pinOut (a.k % 4) fn then
        { s4 with pinsOut := s4.pinsOut ||| BitVec.ofNat 4 (2 ^ (a.k % 4)) } else s4
    .next (if bitAt cfg 20 && !x.2.2 then
        ((List.range Config.dies).filter fun i => i != a.n).foldl (fun (st : State) i => st.source fn i 10 a.k) s5
      else s5)
  | some x, none => .next (s.setDie a.n { d with trig := d.trig.erase x })
  | none, _ => .next s

/-- TRCTL_UNFREEZE: every freeze of function `fn` ends, with a LOSS record of each die's count. -/
def execTrctlUnfreeze (s : State) : Res :=
  let fn := s.cur.arg.fn
  let f := s.fn fn
  .next (f.frozenDies.foldl (fun (st : State) x => st.dieRecord fn 0x06 0 x.1 (BitVec.ofNat 64 x.2) 1)
    (s.setFn fn { f with frozen := false, frozenDies := [] }))

/-! ## Samples (R421, R429) -/

/-- The sampling period of a context, as a power of 2; none: it does not sample. -/
def Ctx.period (c : Ctx) : Option Nat :=
  let k := bitsAt c.dbg 8 5
  if bitAt c.dbg 3 && 8 ≤ k && k ≤ 24 then some k else none

/-- The state of a context as a SAMPLE record gives it. -/
def Ctx.sampleState (c : Ctx) : Nat :=
  match c.st with
  | .runnable => 1
  | .sleeping => 2
  | .trapped => 3
  | _ => 0

/-- SAMPLE_PERIOD: the acting task, once its period is over. -/
def execSamplePeriod (s : State) : Res :=
  match s.me.ctx.period with
  | none => .next s
  | some k =>
    if s.me.st != .placed || s.me.ctx.st == .swapped || s.time < s.me.sampleAt + 2 ^ k then .next s
    else .next ((s.trace 0x02 s.me.ctx.pc (BitVec.ofNat 64 s.me.ctx.sampleState)).mapMe fun t => { t with sampleAt := s.time })

/-! ## Power gating (R431) -/

/-- Records of a buffer, by function, added to those already lost. -/
def lostBy (l : List (Nat × Nat)) (rs : List TraceRec) : List (Nat × Nat) :=
  rs.foldl (fun (acc : List (Nat × Nat)) r => aset acc r.fn (aget 0 acc r.fn + r.len)) l

/-- MILL_POWER_GATE: mill `n`, on which no task is placed: what its buffer still holds is discarded. -/
def execMillPowerGate (s : State) : Res :=
  let n := s.cur.arg.n
  let m := s.mill n
  if !m.on || s.all.any fun t => t.isPlaced && t.mill == n then .next s
  else .next (s.setMill n { m with on := false, trace := [], lost := lostBy m.lost m.trace })

/-- MILL_POWER_UP: mill `n`: a LOSS record for each function that lost records. -/
def execMillPowerUp (s : State) : Res :=
  let n := s.cur.arg.n
  let m := s.mill n
  if m.on then .next s
  else .next ((m.lost.filter fun x => x.2 != 0).foldl (fun (st : State) x =>
      st.dieRecord x.1 0x06 (n % Config.millsPerDie) (dieOf n) (BitVec.ofNat 64 x.2) 0)
    (s.setMill n { m with on := true, lost := [] }))

end Sys2Proof.Machine
end

