-- ==== Sys2Proof/Machine/Alu.lean ====
section
/-!
DEFINITION. Sys2Proof/Machine/Alu.lean: the integer instructions of MAJOR 0x00 to 0x09, 0x17, 0x1F, 0x2F and LIW
(R190, R192 to R199).
-/

namespace Sys2Proof.Machine

/-! ## What the operations compute -/

/-- A .W form: the operation on bits 31:0, sign-extended (R169). -/
def wForm (f : BitVec 32 → BitVec 32 → BitVec 32) (a b : Word) : Word := sx (f (lo32 a) (lo32 b))
/-- A unary .W form (R169). -/
def wForm1 (f : BitVec 32 → BitVec 32) (a : Word) : Word := sx (f (lo32 a))

/-- The high half of the signed product (R192). -/
def mulHigh (a b : Word) : Word := BitVec.ofInt 64 (a.toInt * b.toInt / 2 ^ 64)
/-- The high half of the unsigned product (R192). -/
def mulHighU (a b : Word) : Word := BitVec.ofNat 64 (a.toNat * b.toNat / 2 ^ 64)

/-- DIV (R193): truncated toward zero; by 0 all ones. -/
def divS {n : Nat} (a b : BitVec n) : BitVec n := if b = 0 then -1 else BitVec.ofInt n (a.toInt.tdiv b.toInt)
/-- DIVU (R193). -/
def divU {n : Nat} (a b : BitVec n) : BitVec n := if b = 0 then -1 else BitVec.ofNat n (a.toNat / b.toNat)
/-- REM (R193): the dividend's sign; by 0 the dividend. -/
def remS {n : Nat} (a b : BitVec n) : BitVec n := if b = 0 then a else BitVec.ofInt n (a.toInt.tmod b.toInt)
/-- REMU (R193). -/
def remU {n : Nat} (a b : BitVec n) : BitVec n := if b = 0 then a else BitVec.ofNat n (a.toNat % b.toNat)

/-- Shift amount of a 64-bit shift (R194). -/
def amount64 (b : Word) : Nat := b.toNat % 64
/-- Shift amount of a .W shift (R194). -/
def amount32 (b : Word) : Nat := b.toNat % 32

/-- Leading zeros among the bits below position `n`. -/
def leadZeros (v : Nat) : Nat → Nat
  | 0 => 0
  | n + 1 => if v.testBit n then 0 else 1 + leadZeros v n
/-- Trailing zeros among `n` bits. -/
def trailZeros : Nat → Nat → Nat
  | 0, _ => 0
  | n + 1, v => if v % 2 = 1 then 0 else 1 + trailZeros n (v / 2)
/-- One bits among `n` bits. -/
def popCount : Nat → Nat → Nat
  | 0, _ => 0
  | n + 1, v => v % 2 + popCount n (v / 2)

/-- EXTR (R196). -/
def extract (v : Word) (pos width : Nat) : Word := BitVec.ofNat 64 (bitsAt v pos width)
/-- INS (R196). -/
def insert (old v : Word) (pos width : Nat) : Word := setBits old pos width v.toNat

/-! ## Meanings -/

/-- ADD (R192). -/
def execAdd (g : Guard) (d a b : BitVec 5) (s : State) : Res := op3 (.add g d a b) g d a b s fun x y => x + y

/-- ADD.W (R192, R169). -/
def execAddW (g : Guard) (d a b : BitVec 5) (s : State) : Res := op3 (.addW g d a b) g d a b s (wForm fun x y => x + y)

/-- SUB (R192). -/
def execSub (g : Guard) (d a b : BitVec 5) (s : State) : Res := op3 (.sub g d a b) g d a b s fun x y => x - y

/-- SUB.W (R192, R169). -/
def execSubW (g : Guard) (d a b : BitVec 5) (s : State) : Res := op3 (.subW g d a b) g d a b s (wForm fun x y => x - y)

/-- MUL (R192). -/
def execMul (g : Guard) (d a b : BitVec 5) (s : State) : Res := op3 (.mul g d a b) g d a b s fun x y => x * y

/-- MUL.W (R192, R169). -/
def execMulW (g : Guard) (d a b : BitVec 5) (s : State) : Res := op3 (.mulW g d a b) g d a b s (wForm fun x y => x * y)

/-- MULH (R192). -/
def execMulh (g : Guard) (d a b : BitVec 5) (s : State) : Res := op3 (.mulh g d a b) g d a b s mulHigh

/-- MULHU (R192). -/
def execMulhu (g : Guard) (d a b : BitVec 5) (s : State) : Res := op3 (.mulhu g d a b) g d a b s mulHighU

/-- DIV (R193). -/
def execDiv (g : Guard) (d a b : BitVec 5) (s : State) : Res := op3 (.div g d a b) g d a b s divS

/-- DIV.W (R193, R169). -/
def execDivW (g : Guard) (d a b : BitVec 5) (s : State) : Res := op3 (.divW g d a b) g d a b s (wForm divS)

/-- DIVU (R193). -/
def execDivu (g : Guard) (d a b : BitVec 5) (s : State) : Res := op3 (.divu g d a b) g d a b s divU

/-- DIVU.W (R193, R169). -/
def execDivuW (g : Guard) (d a b : BitVec 5) (s : State) : Res := op3 (.divuW g d a b) g d a b s (wForm divU)

/-- REM (R193). -/
def execRem (g : Guard) (d a b : BitVec 5) (s : State) : Res := op3 (.rem g d a b) g d a b s remS

/-- REM.W (R193, R169). -/
def execRemW (g : Guard) (d a b : BitVec 5) (s : State) : Res := op3 (.remW g d a b) g d a b s (wForm remS)

/-- REMU (R193). -/
def execRemu (g : Guard) (d a b : BitVec 5) (s : State) : Res := op3 (.remu g d a b) g d a b s remU

/-- REMU.W (R193, R169). -/
def execRemuW (g : Guard) (d a b : BitVec 5) (s : State) : Res := op3 (.remuW g d a b) g d a b s (wForm remU)

/-- MIN (R192). -/
def execMin (g : Guard) (d a b : BitVec 5) (s : State) : Res := op3 (.min g d a b) g d a b s fun x y => if x.toInt ≤ y.toInt then x else y

/-- MAX (R192). -/
def execMax (g : Guard) (d a b : BitVec 5) (s : State) : Res := op3 (.max g d a b) g d a b s fun x y => if x.toInt ≤ y.toInt then y else x

/-- MINU (R192). -/
def execMinu (g : Guard) (d a b : BitVec 5) (s : State) : Res := op3 (.minu g d a b) g d a b s fun x y => if x.toNat ≤ y.toNat then x else y

/-- MAXU (R192). -/
def execMaxu (g : Guard) (d a b : BitVec 5) (s : State) : Res := op3 (.maxu g d a b) g d a b s fun x y => if x.toNat ≤ y.toNat then y else x

/-- AND (R192). -/
def execAnd (g : Guard) (d a b : BitVec 5) (s : State) : Res := op3 (.and g d a b) g d a b s fun x y => x &&& y

/-- OR (R192). -/
def execOr (g : Guard) (d a b : BitVec 5) (s : State) : Res := op3 (.or g d a b) g d a b s fun x y => x ||| y

/-- XOR (R192). -/
def execXor (g : Guard) (d a b : BitVec 5) (s : State) : Res := op3 (.xor g d a b) g d a b s fun x y => x ^^^ y

/-- SHL by a register (R194). -/
def execShl (g : Guard) (d a b : BitVec 5) (s : State) : Res := op3 (.shl g d a b) g d a b s fun x y => x <<< amount64 y

/-- SHL.W by a register (R194). -/
def execShlW (g : Guard) (d a b : BitVec 5) (s : State) : Res := op3 (.shlW g d a b) g d a b s fun x y => sx (lo32 x <<< amount32 y)

/-- SHR by a register (R194). -/
def execShr (g : Guard) (d a b : BitVec 5) (s : State) : Res := op3 (.shr g d a b) g d a b s fun x y => x >>> amount64 y

/-- SHR.W by a register (R194). -/
def execShrW (g : Guard) (d a b : BitVec 5) (s : State) : Res := op3 (.shrW g d a b) g d a b s fun x y => sx (lo32 x >>> amount32 y)

/-- SRA by a register (R194). -/
def execSra (g : Guard) (d a b : BitVec 5) (s : State) : Res := op3 (.sra g d a b) g d a b s fun x y => x.sshiftRight (amount64 y)

/-- SRA.W by a register (R194). -/
def execSraW (g : Guard) (d a b : BitVec 5) (s : State) : Res := op3 (.sraW g d a b) g d a b s fun x y => sx ((lo32 x).sshiftRight (amount32 y))

/-- CLZ (R195). -/
def execClz (g : Guard) (d a : BitVec 5) (s : State) : Res := op2 (.clz g d a) g d a s fun x => BitVec.ofNat 64 (leadZeros x.toNat 64)

/-- CLZ.W: bits 31:0 (R195). -/
def execClzW (g : Guard) (d a : BitVec 5) (s : State) : Res := op2 (.clzW g d a) g d a s fun x => BitVec.ofNat 64 (leadZeros (lo32 x).toNat 32)

/-- CTZ (R195). -/
def execCtz (g : Guard) (d a : BitVec 5) (s : State) : Res := op2 (.ctz g d a) g d a s fun x => BitVec.ofNat 64 (trailZeros 64 x.toNat)

/-- CTZ.W: bits 31:0 (R195). -/
def execCtzW (g : Guard) (d a : BitVec 5) (s : State) : Res := op2 (.ctzW g d a) g d a s fun x => BitVec.ofNat 64 (trailZeros 32 (lo32 x).toNat)

/-- POPC (R195). -/
def execPopc (g : Guard) (d a : BitVec 5) (s : State) : Res := op2 (.popc g d a) g d a s fun x => BitVec.ofNat 64 (popCount 64 x.toNat)

/-- POPC.W: bits 31:0 (R195). -/
def execPopcW (g : Guard) (d a : BitVec 5) (s : State) : Res := op2 (.popcW g d a) g d a s fun x => BitVec.ofNat 64 (popCount 32 (lo32 x).toNat)

/-- SEXT.B (R195). -/
def execSextB (g : Guard) (d a : BitVec 5) (s : State) : Res := op2 (.sextB g d a) g d a s fun x => sx (x.setWidth 8)

/-- SEXT.H (R195). -/
def execSextH (g : Guard) (d a : BitVec 5) (s : State) : Res := op2 (.sextH g d a) g d a s fun x => sx (x.setWidth 16)

/-- SEXT.W (R195). -/
def execSextW (g : Guard) (d a : BitVec 5) (s : State) : Res := op2 (.sextW g d a) g d a s fun x => sx (x.setWidth 32)

/-- ZEXT.B (R195). -/
def execZextB (g : Guard) (d a : BitVec 5) (s : State) : Res := op2 (.zextB g d a) g d a s fun x => zx (x.setWidth 8)

/-- ZEXT.H (R195). -/
def execZextH (g : Guard) (d a : BitVec 5) (s : State) : Res := op2 (.zextH g d a) g d a s fun x => zx (x.setWidth 16)

/-- ZEXT.W (R195). -/
def execZextW (g : Guard) (d a : BitVec 5) (s : State) : Res := op2 (.zextW g d a) g d a s fun x => zx (x.setWidth 32)

/-- ADDI (R197). -/
def execAddi (g : Guard) (d a : BitVec 5) (imm : BitVec 12) (s : State) : Res :=
  op2 (.addi g d a imm) g d a s fun x => x + sx imm

/-- ADDI.W (R197, R169). -/
def execAddiW (g : Guard) (d a : BitVec 5) (imm : BitVec 12) (s : State) : Res :=
  op2 (.addiW g d a imm) g d a s (wForm1 fun x => x + imm.signExtend 32)

/-- ANDI (R197). -/
def execAndi (g : Guard) (d a : BitVec 5) (imm : BitVec 12) (s : State) : Res :=
  op2 (.andi g d a imm) g d a s fun x => x &&& zx imm

/-- ORI (R197). -/
def execOri (g : Guard) (d a : BitVec 5) (imm : BitVec 12) (s : State) : Res :=
  op2 (.ori g d a imm) g d a s fun x => x ||| zx imm

/-- XORI (R197). -/
def execXori (g : Guard) (d a : BitVec 5) (imm : BitVec 12) (s : State) : Res :=
  op2 (.xori g d a imm) g d a s fun x => x ^^^ zx imm

/-- SHL by an immediate (R194). -/
def execShlImm (g : Guard) (d a : BitVec 5) (sh : BitVec 6) (s : State) : Res :=
  op2 (.shlImm g d a sh) g d a s fun x => x <<< sh.toNat

/-- SHL.W by an immediate (R194). -/
def execShlWImm (g : Guard) (d a : BitVec 5) (sh : BitVec 6) (s : State) : Res :=
  op2 (.shlWImm g d a sh) g d a s (wForm1 fun x => x <<< (sh.toNat % 32))

/-- SHR by an immediate (R194). -/
def execShrImm (g : Guard) (d a : BitVec 5) (sh : BitVec 6) (s : State) : Res :=
  op2 (.shrImm g d a sh) g d a s fun x => x >>> sh.toNat

/-- SHR.W by an immediate (R194). -/
def execShrWImm (g : Guard) (d a : BitVec 5) (sh : BitVec 6) (s : State) : Res :=
  op2 (.shrWImm g d a sh) g d a s (wForm1 fun x => x >>> (sh.toNat % 32))

/-- SRA by an immediate (R194). -/
def execSraImm (g : Guard) (d a : BitVec 5) (sh : BitVec 6) (s : State) : Res :=
  op2 (.sraImm g d a sh) g d a s fun x => x.sshiftRight sh.toNat

/-- SRA.W by an immediate (R194). -/
def execSraWImm (g : Guard) (d a : BitVec 5) (sh : BitVec 6) (s : State) : Res :=
  op2 (.sraWImm g d a sh) g d a s (wForm1 fun x => x.sshiftRight (sh.toNat % 32))

/-- LI (R198). -/
def execLi (g : Guard) (d : BitVec 5) (imm : BitVec 17) (s : State) : Res :=
  gated (.li g d imm) g [] (some d) false s fun s => doneG (.li g d imm) s [] d (sx imm)

/-- LIH (R198): reads its destination. -/
def execLih (g : Guard) (d : BitVec 5) (imm : BitVec 17) (s : State) : Res :=
  opRw (.lih g d imm) g d [] s fun s => (s.src d <<< 17) ||| zx imm

/-- ADDPC (R198). -/
def execAddpc (g : Guard) (d : BitVec 5) (imm : BitVec 17) (s : State) : Res :=
  gated (.addpc g d imm) g [] (some d) false s fun s =>
    doneG (.addpc g d imm) s [] d (s.me.ctx.pc + sx imm * 4)

/-- LIW (R198). -/
def execLiw (g : Guard) (d : BitVec 5) (two : Bool) (l0 l1 : BitVec 32) (s : State) : Res :=
  gated (.liw g d two l0 l1) g [] (some d) false s fun s =>
    doneG (.liw g d two l0 l1) s [] d (if two then l1 ++ l0 else sx l0)

/-- SEL (R199): both operands are read whichever is chosen. -/
def execSel (g : Guard) (d a b : BitVec 5) (p : BitVec 3) (s : State) : Res :=
  gated (.sel g d a b p) g [a, b] (some d) false s fun s =>
    doneG (.sel g d a b p) s [a, b] d (if s.me.ctx.rq p then s.src a else s.src b)

/-- EXTR (R196). -/
def execExtr (g : Guard) (d a : BitVec 5) (wm1 pos : BitVec 6) (s : State) : Res :=
  op2 (.extr g d a wm1 pos) g d a s fun x => extract x pos.toNat (wm1.toNat + 1)

/-- INS (R196): reads its destination. -/
def execIns (g : Guard) (d a : BitVec 5) (wm1 pos : BitVec 6) (s : State) : Res :=
  opRw (.ins g d a wm1 pos) g d [a] s fun s => insert (s.src d) (s.src a) pos.toNat (wm1.toNat + 1)

end Sys2Proof.Machine
end

