-- ==== Sys2Proof/Machine/Compare.lean ====
section
/-!
DEFINITION. Sys2Proof/Machine/Compare.lean: comparisons into guards and guard logic (R200, R201).
-/

namespace Sys2Proof.Machine

/-- A comparison of two values into a guard (R200). -/
def cmpOp (i : Instr) (g : Guard) (d : BitVec 5) (a b : BitVec 5) (s : State) (f : Word → Word → Bool) : Res :=
  opQ i g d [a, b] s fun s => f (s.src a) (s.src b)

/-- A comparison with a sign-extended immediate (R200, R168). -/
def cmpImm (i : Instr) (g : Guard) (d a : BitVec 5) (imm : BitVec 12) (s : State) (f : Word → Word → Bool) : Res :=
  opQ i g d [a] s fun s => f (s.src a) (sx imm)

/-- Signed less. -/
def ltS (x y : Word) : Bool := x.toInt < y.toInt
/-- Signed less or equal. -/
def leS (x y : Word) : Bool := x.toInt ≤ y.toInt
/-- Unsigned less. -/
def ltU (x y : Word) : Bool := x.toNat < y.toNat
/-- Unsigned less or equal. -/
def leU (x y : Word) : Bool := x.toNat ≤ y.toNat

/-- CMP.EQ with an immediate (R200). -/
def execCmpEqImm (g : Guard) (d a : BitVec 5) (imm : BitVec 12) (s : State) : Res :=
  cmpImm (.cmpEqImm g d a imm) g d a imm s fun x y => x == y

/-- CMP.NE with an immediate (R200). -/
def execCmpNeImm (g : Guard) (d a : BitVec 5) (imm : BitVec 12) (s : State) : Res :=
  cmpImm (.cmpNeImm g d a imm) g d a imm s fun x y => x != y

/-- CMP.LT with an immediate (R200). -/
def execCmpLtImm (g : Guard) (d a : BitVec 5) (imm : BitVec 12) (s : State) : Res :=
  cmpImm (.cmpLtImm g d a imm) g d a imm s ltS

/-- CMP.LE with an immediate (R200). -/
def execCmpLeImm (g : Guard) (d a : BitVec 5) (imm : BitVec 12) (s : State) : Res :=
  cmpImm (.cmpLeImm g d a imm) g d a imm s leS

/-- CMP.LTU with an immediate (R200). -/
def execCmpLtuImm (g : Guard) (d a : BitVec 5) (imm : BitVec 12) (s : State) : Res :=
  cmpImm (.cmpLtuImm g d a imm) g d a imm s ltU

/-- CMP.LEU with an immediate (R200). -/
def execCmpLeuImm (g : Guard) (d a : BitVec 5) (imm : BitVec 12) (s : State) : Res :=
  cmpImm (.cmpLeuImm g d a imm) g d a imm s leU

/-- CMP.EQ (R200). -/
def execCmpEq (g : Guard) (d a b : BitVec 5) (s : State) : Res := cmpOp (.cmpEq g d a b) g d a b s fun x y => x == y

/-- CMP.NE (R200). -/
def execCmpNe (g : Guard) (d a b : BitVec 5) (s : State) : Res := cmpOp (.cmpNe g d a b) g d a b s fun x y => x != y

/-- CMP.LT (R200). -/
def execCmpLt (g : Guard) (d a b : BitVec 5) (s : State) : Res := cmpOp (.cmpLt g d a b) g d a b s ltS

/-- CMP.LE (R200). -/
def execCmpLe (g : Guard) (d a b : BitVec 5) (s : State) : Res := cmpOp (.cmpLe g d a b) g d a b s leS

/-- CMP.LTU (R200). -/
def execCmpLtu (g : Guard) (d a b : BitVec 5) (s : State) : Res := cmpOp (.cmpLtu g d a b) g d a b s ltU

/-- CMP.LEU (R200). -/
def execCmpLeu (g : Guard) (d a b : BitVec 5) (s : State) : Res := cmpOp (.cmpLeu g d a b) g d a b s leU

/-- GAND (R201). -/
def execGand (g : Guard) (d a b : BitVec 5) (s : State) : Res :=
  opQ (.gand g d a b) g d [] s fun s => s.me.ctx.rq (low3 a) && s.me.ctx.rq (low3 b)

/-- GOR (R201). -/
def execGor (g : Guard) (d a b : BitVec 5) (s : State) : Res :=
  opQ (.gor g d a b) g d [] s fun s => s.me.ctx.rq (low3 a) || s.me.ctx.rq (low3 b)

/-- GXOR (R201). -/
def execGxor (g : Guard) (d a b : BitVec 5) (s : State) : Res :=
  opQ (.gxor g d a b) g d [] s fun s => s.me.ctx.rq (low3 a) != s.me.ctx.rq (low3 b)

/-- GNOT (R201). -/
def execGnot (g : Guard) (d a : BitVec 5) (s : State) : Res :=
  opQ (.gnot g d a) g d [] s fun s => !s.me.ctx.rq (low3 a)

end Sys2Proof.Machine
end

