-- ==== Sys2Proof/Machine/Rekey.lean ====
section
/-!
DEFINITION. Sys2Proof/Machine/Rekey.lean: what was written under a memory key reads as under another, as LOADKEY replaces a slot (R417,
R418).
-/

namespace Sys2Proof.Machine

/-- The lines of HBM that stand in memory at some place are decrypted under another key: line of the memory, tweak. -/
def rekeyMem (old new : BitVec 512) (m : List Host.Cell) (ls : List (Nat × Nat)) : List Host.Cell :=
  ls.foldl (fun m x => memPut m (x.1 * 128) (rekeyLine old new x.2 (memBytes m (x.1 * 128) 128))) m

/-- Bytes that the device keeps for a task, line by line from a place of its storage, decrypted under another key; the last line is
filled up with zeros. -/
def rekeyStore (old new : BitVec 512) (place : Nat) (bs : List Byte) : List Byte :=
  ((List.range (ceilDiv bs.length 128)).flatMap fun i =>
    rekeyLine old new (Config.storageLine (place + i)) (sized 128 ((bs.drop (128 * i)).take 128))).take bs.length

/-- A token as an image under another key gives it: whatever it may be. -/
def freeTok (g : Nat → Word) (i : Nat) : Tok :=
  match (g i).toNat % 6 with
  | 0 => .data (g (i + 1))
  | 1 => .hdr ((g (i + 1)).setWidth 32) ((g (i + 2)).toNat % 65536)
  | 2 => .ctl .accsw ((g (i + 3)).setWidth 16)
  | 3 => .ctl (.mark ((g (i + 1)).setWidth 12)) ((g (i + 3)).setWidth 16)
  | 4 => .ctl (.relatch (g (i + 1)) ((g (i + 2)).setWidth 2)) ((g (i + 3)).setWidth 16)
  | _ => .ctl (.tag ((g (i + 2)).setWidth 12) (g (i + 1)) ((g (i + 4)).setWidth 32) (g (i + 5))) ((g (i + 3)).setWidth 16)

/-- Up to `k` things as such an image gives them, from a place on, eight places each. -/
def freeList {α : Type} (g : Nat → Word) (i k : Nat) (f : Nat → α) : List α :=
  (List.range ((g i).toNat % (k + 1))).map fun n => f (i + 8 * (n + 1))

/-- As many numbers as before. -/
def freeNums (g : Nat → Word) (i : Nat) (l : List Nat) : List Nat := (List.range l.length).map fun n => (g (i + n)).toNat % 2 ^ 32

/-- Accumulators as such an image gives them. -/
def freePlane (g : Nat → Word) (i : Nat) : AccPlane :=
  ⟨Vector.ofFn fun (k : Fin 8) => (g (i + k.val)).toInt, (g (i + 8)).toNat % 2 ^ 17, bitAt (g (i + 9)) 0⟩

/-- The state of an operand's stream as such an image gives it. -/
def freeIn (g : Nat → Word) (i : Nat) : InState :=
  ⟨(g i).setWidth 32, (g (i + 1)).toNat % 65536, bitAt (g (i + 2)) 0, (g (i + 3)).toNat % 8, bitAt (g (i + 4)) 0⟩

/-- An element as sections 0 to 3 of such an image give it. -/
def Elem.garbled (g : Nat → Word) (e : Elem) : Elem :=
  let ins (i : Nat) : List InTok := freeList g i 2 fun k => ⟨freeTok g k, 0⟩
  let outs (i n : Nat) : List OutTok := freeList g i n fun k => ⟨freeTok g k, (g (k + 6)).setWidth 4, bitAt (g (k + 7)) 0, bitAt (g (k + 7)) 1⟩
  let nat (i n : Nat) : Nat := (g i).toNat % n
  { e with
    a := ins 0, b := ins 24, c := ins 48, out := outs 72 2, emit := outs 96 64
    queue := freeList g 700 2048 fun k => if bitAt (g k) 63 then none else some (freeTok g k)
    ia := freeIn g 620, ib := freeIn g 625, ic := freeIn g 630
    acc := freePlane g 640, drn := freePlane g 650
    fwdLeft := nat 660 65536, cnt := nat 661 (2 ^ 32), bursts := nat 662 (2 ^ 32), turn := nat 663 3
    tie := bitAt (g 664) 0, lock := if bitAt (g 665) 63 then some (nat 665 3) else none
    stage := freeList g 20000 16 g, stageB := freeList g 20200 16 g
    stageHdr := (g 666).setWidth 32, stageHdrB := (g 667).setWidth 32
    pats := freeList g 30000 65535 fun k =>
      if bitAt (g k) 63 then none else some ((List.range 8).map fun i => ((g k).extractLsb' (7 * i) 7).toInt, (g (k + 1)).toInt)
    ctr := freeNums g 670 e.ctr, ends := bitAt (g 668) 0, waiting := bitAt (g 668) 1
    lastIn := (g 669).setWidth 4, lastWait := (g 676).setWidth 32, nseed := g 677, nstep := (g 678).setWidth 32 }

/-- A port as section 5 of such an image gives it. -/
def Port.garbled (g : Nat → Word) (p : Port) : Port :=
  { p with
    hdr := if bitAt (g 0) 63 then some ((g 0).setWidth 32) else none, due := (g 1).toNat % 65536
    offer := ((List.range p.offer.length).zip p.offer).map fun x => (freeTok g (8 * (x.1 + 1)), x.2.2) }

/-- A command as section 5 of such an image gives it. -/
def Cmd.garbled (g : Nat → Word) (c : Cmd) : Cmd :=
  { c with
    word := g 0 ++ g 1, base := g 2, seq := (g 3).setWidth 32, nstep := (g 4).setWidth 32, nseed := g 5
    sub := (g 6).toNat % 4, psat := bitAt (g 6) 4, ctr := freeNums g 8 c.ctr }

/-- Sections 0 to 3 and 5 of a task's image, decrypted under another key: what the device makes of them is not stated, and R150 fixes no
layout for most of them; all that they restore is free. -/
def Task.garbled (g : Nat → Word) (t : Task) : Task :=
  let at_ (base i k : Nat) : Word := g (base + 1000000 * i + k)
  { t with
    run := { t.run with
      elems := ((List.range t.run.elems.length).zip t.run.elems).map fun x => x.2.garbled (at_ 0 x.1)
      ports := ((List.range t.run.ports.length).zip t.run.ports).map fun x => x.2.garbled (at_ (2 ^ 40) x.1)
      inact := { t.run.inact with addr := g (2 ^ 41), id := g (2 ^ 41 + 1) } }
    cmds := ((List.range t.cmds.length).zip t.cmds).map fun x => x.2.garbled (at_ (2 ^ 42) x.1) }

/-- The task's write set, and the image of a task that is swapped out: its header and its context section decrypted under another key, its
other sections free values of place `n`. -/
def Task.rekeyed (old new : BitVec 512) (place n : Nat) (s : State) (t : Task) : Task :=
  let bs := rekeyStore old new place (t.det.writes.map (·.val))
  let t1 := { t with det := { t.det with writes := (t.det.writes.zip bs).map fun x => { x.1 with val := x.2 } } }
  if t.st != .swapped then t1
  else
    let h := rekeyStore old new place ((s.saveImage t t.imageSt.toNat 0).take 64)
    let t2 := t1.garbled fun i => Config.garbled (n + t.id.idx.toNat) i
    { t2 with
      imageSt := h.getD 3 0
      run := { t2.run with act := { t.run.act with addr := dword h 8, id := dword h 16 } }
      ctx := { t.ctx.ofImage (rekeyStore old new (place + 1) (t.ctx.image t.status)) with st := t.ctx.st } }

/-- Channel words under another key. -/
def rekeyWords (old new : BitVec 512) (place : Nat) (ws : List ChWord) : List ChWord :=
  let bs := rekeyStore old new place (ws.flatMap fun w => dbytes w.val)
  ((List.range ws.length).zip ws).map fun x => { x.2 with val := dword bs (8 * x.1) }

/-- The words of a channel that stand in its spill area, and with `out` set those in section 6 of its consumer's image. -/
def Chan.rekeyed (old new : BitVec 512) (place : Nat) (out : Bool) (c : Chan) : Chan :=
  { c with
    spill := rekeyWords old new place c.spill
    buf := if out then rekeyWords old new (place + 2 ^ 15) c.buf else c.buf
    msgs := c.msgs.map fun m =>
      let k := m.bytes.length - min m.bytes.length (8 * m.spilt)
      { m with bytes := m.bytes.take k ++ rekeyStore old new place (m.bytes.drop k) } }

/-- A node block's storage stands under a key slot (R418: the effective KEY). -/
def State.underKey (s : State) (fn : Nat) (blk : Word) (slot : Nat) : Bool :=
  match s.blk? fn blk with
  | some b => b.eff.key.toNat == slot
  | none => false

/-- What was written under a slot now reads as its decryption under the new key (R418): lines of HBM; sluice storage outside the pond,
spill areas, write sets and save images of tasks whose block has the KEY. Where the device keeps its storage is not stated, nor so the
tweaks there: free values. Reservoir lines filled under the slot are dropped. -/
def State.rekeySlot (s : State) (slot : Nat) (old new : BitVec 512) : State :=
  let s0 := s.rsvDrop fun l => l.slot.toNat == slot
  let ls := (s.lineKeys.filter fun l => l.2.toNat == slot).map fun l => (l.1, l.1 % 2 ^ 45)
  let os := (s.objs.filter fun o => o.st != .freed && o.tile.isNone && s.underKey o.fn o.blk slot).flatMap fun o =>
    (List.range (512 * o.units)).map fun i =>
      let n := lineOf (keyOf spSluice (o.id * 2 ^ 24)) + i
      (n, Config.storageLine n)
  let task (t : Task) : Task := if s.underKey t.id.fn t.id.blk slot then t.rekeyed old new (t.id.idx.toNat * 2 ^ 16) s.free s else t
  { s0 with
    free := s.free + 2 ^ 32
    mem := rekeyMem old new s.mem (ls ++ os)
    me := task s.me
    tasks := s.tasks.map task
    chans := s.chans.map fun c =>
      if s.underKey c.fn c.blk slot then c.rekeyed old new (2 ^ 60 + c.ch.toNat * 2 ^ 16) (s.swappedTask c.consumer) else c }

end Sys2Proof.Machine
end

