-- ==== Sys2Proof/Machine/Fleet.lean ====
section
/-!
DEFINITION. Sys2Proof/Machine/Fleet.lean: the wheelhouse controller: the operator's commands over MCTP (R452 to R463), its own
timers (R453, R457 to R460), reset and boot (R419, R461, R463), wake requests (R259), supply events and the debug port (R444).
The bytes of a request stand in the event's `bytes` from byte 0, its command code, on.
-/

namespace Sys2Proof.Machine

/-! ## Time (R457) -/

/-- The controller's own time passes in parts of a mill cycle, of which one at STEP k takes 16 / (16 - k) times the nominal: 720,720 is
divisible by 8 to 16. -/
def cycleParts (step : Nat) : Nat := 16 * 720720 / (16 - step)

/-- Its parts of 1 ms. -/
def clockPerMs : Nat := Config.cyclesPerSecond / 1000 * 720720

/-- STEP, the same on every die (R457). -/
def Wheel.step (w : Wheel) : Nat := bitsAt (aget 0 w.tel 0) 24 4

/-- A mill cycle passes. -/
def Wheel.tick (w : Wheel) : Wheel := { w with clock := w.clock + cycleParts w.step }

/-! ## Requests and replies (R452) -/

/-- Byte `i` of the request, and a little-endian number in it. -/
def State.req (s : State) (i : Nat) : Nat := (s.cur.arg.bytes.getD i 0).toNat
def State.reqNum (s : State) (i n : Nat) : Nat := leNat ((s.cur.arg.bytes.drop i).take n)

/-- The request has `n` bytes. -/
def State.reqLen (s : State) (n : Nat) : Bool := n ≤ s.cur.arg.bytes.length

/-- Reply with a completion code and more bytes. -/
def State.answer (s : State) (code : Nat) (more : List Byte) : State := { s with reply := BitVec.ofNat 8 code :: more }

/-- A request arrives: it keeps a session alive (R453); after a thermal shutdown only GETTEL and GETLIFE are answered (R458). -/
def request (always : Bool) (k : State → State) (s : State) : Res :=
  if s.wh.shut && !always then .next s
  else .next (k { s with wh := { s.wh with lastReq := s.wh.clock } })

/-- A request that needs an open session. -/
def inSession (k : State → State) (s : State) : Res :=
  request false (fun s => if s.wh.session then k s else s.answer 3 []) s

/-- The command that byte 0 of a request names. -/
def requestInstr (code : Nat) : Instr :=
  match code with
  | 0x01 => .gettel
  | 0x02 => .getlife
  | 0x03 => .setlim
  | 0x04 => .fwstage
  | 0x05 => .fwact
  | 0x06 => .fwcommit
  | 0x07 => .getharv
  | 0x08 => .retire
  | 0x09 => .setpart
  | 0x0A => .setworld
  | 0x0B => .setsr
  | 0x0C => .loadkey
  | 0x0D => .setkmask
  | 0x0E => .settrig
  | 0x0F => .setig
  | 0x10 => .getpart
  | 0x11 => .nonce
  | 0x12 => .auth
  | _ => .unsupportedCommand

/-- An input that is a request of the operator: one that the controller has put there itself to go on with a command is not. -/
def isRequest (x : Instr × EvArg) : Bool :=
  !x.2.wr && (x.1 == .unsupportedCommand || ((List.range 0x13).map requestInstr).contains x.1)

/-- UNSUPPORTED_COMMAND: any other command code. -/
def execUnsupportedCommand (s : State) : Res := request false (fun s => s.answer 5 []) s

/-! ## Telemetry, lifetime items, limits (R455, R456, R459) -/

/-- Dies that have telemetry: 0 to 7 compute dies, 8 to 11 base dies. -/
def telDies : Nat := 12

/-- GETTEL: byte 1 the die. -/
def execGettel (s : State) : Res :=
  request true (fun s =>
    let d := s.req 1
    if !s.reqLen 2 || telDies ≤ d then s.answer 1 []
    else s.answer 0 (dbytes (setBit (aget 0 s.wh.tel d) 30 s.wh.fallbk))) s

/-- How many indices an item has. -/
def lifeRange (item : Nat) : Nat :=
  match item with
  | 1 => 8 * 6336
  | 2 => 12
  | 3 => 12
  | 4 => 12 * 16
  | 5 => 12
  | 6 => 18
  | 7 => 8
  | 8 => 1
  | 9 => 1
  | _ => 0

/-- GETLIFE: byte 1 the item, bytes 2 to 5 the index (log 15): the value last committed. -/
def execGetlife (s : State) : Res :=
  request true (fun s =>
    let i := s.reqNum 2 4
    if !s.reqLen 6 || lifeRange (s.req 1) ≤ i then s.answer 1 []
    else s.answer 0 (leBytes 8 (aget 0 s.wh.saved (lifeKey (s.req 1) i)))) s

/-- LIMCTL's fields. -/
def plim (w : Word) : Nat := bitsAt w 0 12
def tlim (w : Word) : Nat := bitsAt w 16 8

/-- SETLIM: bytes 1 to 8 LIMCTL (log 15). -/
def execSetlim (s : State) : Res :=
  request false (fun s =>
    let w := BitVec.ofNat 64 (s.reqNum 1 8)
    if !s.reqLen 9 || bitsAt w 12 4 ≠ 0 || bitsAt w 24 40 ≠ 0 || plim w < 1200 || 3000 < plim w || tlim w < 85 || 105 < tlim w then
      s.answer 1 []
    else { s with wh := { s.wh with limctl := w } }.answer 0 []) s

/-! ## Firmware (R461, R462) -/

/-- A bank. -/
def Wheel.bank (w : Wheel) (i : Nat) : FwBank := w.banks.getD i ⟨[], false, 0⟩

/-- Replace a bank. -/
def Wheel.setBank (w : Wheel) (i : Nat) (b : FwBank) : Wheel := { w with banks := modifyAt w.banks i fun _ => b }

/-- The bank that is not running. -/
def Wheel.idleBank (w : Wheel) : Nat := 1 - w.active

/-- FWSTAGE: bytes 1 to 4 the offset, the chunk behind (log 15). -/
def execFwstage (s : State) : Res :=
  request false (fun s =>
    let n := s.cur.arg.bytes.length - 5
    if s.wh.fwbusy then s.answer 2 []
    else if !s.reqLen 6 || 4096 < n then s.answer 1 []
    else
      let b := s.wh.bank s.wh.idleBank
      let img := ((List.range n).zip (s.cur.arg.bytes.drop 5)).foldl (fun (a : List (Nat × Byte)) x =>
        aset a (s.reqNum 1 4 + x.1) x.2) b.image
      { s with wh := s.wh.setBank s.wh.idleBank { b with image := img, valid := false } }.answer 0 []) s

/-- An image of a bank verifies under R419: both signatures, and a security version no lower than the fused minimum. -/
def Wheel.imageOk (w : Wheel) (i k : Nat) : Bool :=
  Config.imageVerifies k (w.bank i).image && w.minver ≤ Config.imageVersion k (w.bank i).image

/-- The first image of a bank, in the order in which the boot ROM loads them, that fails R419. -/
def Wheel.badImage (w : Wheel) (i : Nat) : Option Nat := (List.range Config.firmwareImages).find? fun k => !w.imageOk i k

/-- Every image of a bank verifies. -/
def Wheel.verifies (w : Wheel) (i : Nat) : Bool := (w.badImage i).isNone

/-- The security version of a bank: the lowest of its images, so that FWCOMMIT never fails the bank that runs (R462 speaks of one
version; DESIGN CHOICE, log 115). -/
def Wheel.bankVersion (w : Wheel) (i : Nat) : Nat :=
  (List.range Config.firmwareImages).foldl (fun m k => min m (Config.imageVersion k (w.bank i).image))
    (Config.imageVersion 0 (w.bank i).image)

/-- FWACT: the verification begins; with `wr` set, the event by which it ends. -/
def execFwact (s : State) : Res :=
  if s.cur.arg.wr then
    if !s.wh.fwbusy then .next s
    else
      let i := s.wh.idleBank
      let b := s.wh.bank i
      let w := { s.wh with fwbusy := false }
      if w.verifies i then
        .next ({ s with wh := { w.setBank i { b with valid := true, version := w.bankVersion i } with select := i } }.answer
          0 [])
      else .next ({ s with wh := w.setBank i { b with valid := false } }.answer 1 [])
  else
    request false (fun s =>
      if s.wh.fwbusy then s.answer 2 []
      else { s with
        wh := { s.wh with fwbusy := true }
        inputs := s.inputs ++ [(.fwact, { s.cur.arg with wr := true })] }) s

/-- FWCOMMIT. -/
def execFwcommit (s : State) : Res :=
  request false (fun s =>
    if s.wh.fallbk then s.answer 4 []
    else { s with wh := { s.wh with minver := max s.wh.minver s.wh.version } }.answer 0 []) s

/-! ## Harvesting (R463) -/

/-- Enabled mills of a die. -/
def Wheel.map (w : Wheel) (die : Nat) : BitVec 264 := aget 0 w.enabled die

/-- A physical mill is enabled. -/
def Wheel.millOn (w : Wheel) (die m : Nat) : Bool := (w.map die).getLsbD m

/-- Spares of a die: neither enabled nor retired. -/
def Wheel.spares (w : Wheel) (die : Nat) : List Nat :=
  (List.range Config.millsPerDie).filter fun m => !w.millOn die m && !w.dead.contains (die, m)

/-- GETHARV: byte 1 the die. -/
def execGetharv (s : State) : Res :=
  request false (fun s =>
    let d := s.req 1
    if !s.reqLen 2 || Config.dies ≤ d then s.answer 1 []
    else s.answer 0 (leBytes 33 (s.wh.map d).toNat ++ leBytes 2 (s.wh.spares d).length)) s

/-- RETIRE: byte 1 the die, bytes 2 and 3 the mill (log 15). -/
def execRetire (s : State) : Res :=
  request false (fun s =>
    let d := s.req 1
    let m := s.reqNum 2 2
    let marked := s.wh.retiredM.filter fun x => x.1 == d
    if !s.reqLen 4 || Config.dies ≤ d || !s.wh.millOn d m then s.answer 1 []
    else if marked.contains (d, m) then s.answer 0 []
    else if (s.wh.spares d).length ≤ marked.length then s.answer 1 []
    else { s with wh := { s.wh with retiredM := s.wh.retiredM ++ [(d, m)] } }.answer 0 []) s

/-- The exchange at a reset: a marked mill is disabled for good, the lowest spare of its die enabled. -/
def Wheel.exchange (w : Wheel) (x : Nat × Nat) : Wheel :=
  let off := w.map x.1 &&& ~~~(BitVec.ofNat 264 (2 ^ x.2))
  let on := match (w.spares x.1).head? with
    | some m => off ||| BitVec.ofNat 264 (2 ^ m)
    | none => off
  { w with enabled := aset w.enabled x.1 on, dead := x :: w.dead }

/-! ## Partitions (R454) -/

/-- The set bits of a map in the request, as numbers `stride` a die. -/
def State.reqMap (s : State) (at_ bytes stride lim : Nat) : List Nat :=
  (List.range Config.dies).flatMap fun d =>
    let v := s.reqNum (at_ + bytes * d) bytes
    (List.range lim).filterMap fun m => if v / 2 ^ m % 2 = 1 then some (d * stride + m) else none

/-- A resource of a list is held by another function. -/
def State.heldElsewhere (s : State) (fn : Nat) (l : List Nat) (f : Fn → List Nat) : Bool :=
  s.fns.any fun x => x.1 != fn && (f x.2).any l.contains

/-- SETPART. -/
def execSetpart (s : State) : Res :=
  inSession (fun s =>
    let n := s.req 1
    let f := s.fn n
    let mills := s.reqMap 3 33 Config.millsPerDie Config.millsPerDie
    let tiles := s.reqMap 267 8 Config.tilesPerDie Config.tilesPerDie
    let ports := BitVec.ofNat 18 (s.reqNum 331 3)
    if !s.reqLen 334 || Config.functions ≤ n || s.req 2 = 0 || 2 ^ 18 ≤ s.reqNum 331 3 then s.answer 1 []
    else if mills.any (fun m => !s.wh.millOn (dieOf m) (m % Config.millsPerDie)) then s.answer 1 []
    else if s.heldElsewhere n mills (·.mills) || s.heldElsewhere n tiles (·.tiles) ||
        s.fns.any (fun x => x.1 != n && x.2.lports &&& ports != 0) then s.answer 1 []
    else if mills = f.mills && tiles = f.tiles && ports = f.lports && f.tag.toNat = s.req 2 then s.answer 0 []
    else if s.fnActive n then s.answer 4 []
    else
      let tag := BitVec.ofNat 8 (s.req 2)
      let s1 := f.tiles.foldl (fun (st : State) t => st.setTile t { st.tile t with owner := 0 }) s
      let s2 := tiles.foldl (fun (st : State) t => st.setTile t { st.tile t with owner := tag }) s1
      (s2.setFn n { s2.fn n with mills := mills, tiles := tiles, lports := ports, tag := tag }).answer 0 []) s

/-- A task is placed on a mill, or queued to go back there: on its way to a slot, or to the one it has drawn (R47, R384). -/
def Task.onMill (m : Nat) (t : Task) : Bool :=
  (t.isPlaced && t.mill == m) || (t.st == .swapped && t.eff.det && t.mill == m) || t.moveTo.any fun x => x.1 == m

/-- A placed task uses a pond tile: its block has used pages there, an element has latched one, or a command of it writes there. -/
def State.usesTile (s : State) (n : Nat) (t : Task) : Bool :=
  t.isPlaced &&
    ((match s.blk? t.id.fn t.id.blk with
        | some b => b.pages.any fun u => u / 16 == n
        | none => false) ||
      t.run.elems.any (fun e => e.latches.any fun l => pteLoc l.2.2 == 1 && (pageTiles l.2.2 l.2.1).contains n) ||
      t.cmds.any fun c => c.tiles.contains n)

/-- A placed task has a channel that the mask of its launch link entry lets cross a race-link port of its partition. -/
def State.usesPort (s : State) (p : Nat) (t : Task) : Bool :=
  t.isPlaced && (s.fn t.id.fn).lports.getLsbD p && s.chans.any fun c => c.fn == t.id.fn && c.blk == t.id.blk &&
    (match linkEntry s c.fn c.peer with
      | some (pkg, _, _, ports) => pkg != s.wh.pkg && ports.getLsbD p
      | none => false)

/-- The objects of SETWORLD: how many of a kind there are, the world of one, whether it is in use, and the change. -/
def worldCount (kind : Nat) : Nat :=
  match kind with
  | 0 => Config.dies * Config.millsPerDie
  | 1 => 4 * Config.dies * Config.millsPerDie
  | 2 => Config.dies * Config.tilesPerDie
  | 3 => Config.linkPorts
  | 4 => Config.functions
  | _ => 0

/-- The object has that world already. -/
def State.worldIs (s : State) (kind i : Nat) (w : Bool) : Bool :=
  match kind with
  | 0 => (s.mill i).world == w && (s.mill i).eworld.toList.all (· == w)
  | 1 => ((s.mill (i / 4)).eworld.toList.getD (i % 4) false) == w
  | 2 => (s.tile i).world == w
  | 3 => (s.link i).world == w
  | _ => (s.fn i).world == w

/-- A task is queued or placed on the object; on a tile or a port, one that uses it: the spec does not say when a task is on one
(DESIGN CHOICE, log 132). -/
def State.worldBusy (s : State) (kind i : Nat) : Bool :=
  match kind with
  | 0 => s.all.any (Task.onMill i)
  | 1 => s.all.any (Task.onMill (i / 4))
  | 2 => s.all.any (s.usesTile i)
  | 3 => s.all.any (s.usesPort i)
  | _ => s.fnActive i

/-- Set the object's world. -/
def State.setWorld (s : State) (kind i : Nat) (w : Bool) : State :=
  match kind with
  | 0 => s.setMill i { s.mill i with world := w, eworld := Vector.replicate 4 w }
  | 1 =>
    let m := s.mill (i / 4)
    s.setMill (i / 4) { m with eworld := Vector.ofFn fun (k : Fin 4) => if k.val = i % 4 then w else m.eworld[k] }
  | 2 => s.setTile i { s.tile i with world := w }
  | 3 => s.setLink i { s.link i with world := w }
  | _ => s.setFn i { s.fn i with world := w }

/-- SETWORLD. -/
def execSetworld (s : State) : Res :=
  inSession (fun s =>
    let kind := s.req 1
    let i := s.reqNum 2 4
    let w := s.req 6 == 1
    if !s.reqLen 7 || worldCount kind ≤ i || 1 < s.req 6 then s.answer 1 []
    else if s.worldIs kind i w then s.answer 0 []
    else if s.worldBusy kind i then s.answer 4 []
    else (s.setWorld kind i w).answer 0 []) s

/-- A page touches a valid secure range. -/
def rangeHits (r : Word × Word) (p : Word) (sz : Nat) : Bool :=
  srTouches r (pteLoc p) (ptePa p / 2 ^ 16) ((ptePa p + 2 ^ sz - 1) / 2 ^ 16)

/-- The size code of a page. -/
def sizeCode (sz : Nat) : BitVec 2 := if sz = 16 then 0 else if sz = 21 then 1 else 2

/-- The pages of either range leave the TLBs and the planes that stand in no fabric, and the elements that latched one are told to latch
it afresh (R403). -/
def State.unmapRanges (s : State) (a b : Word × Word) : State :=
  let hit (p : Word) (sz : Nat) : Bool := rangeHits a p sz || rangeHits b p sz
  let keep (e : TlbEntry) : Bool := !hit e.pte e.sz
  let s1 : State := { s with
    mills := s.mills.map fun m => (m.1, { m.2 with tlb := m.2.tlb.filter keep })
    dies := s.dies.map fun d => (d.1, { d.2 with tlb2 := d.2.tlb2.filter keep }) }
  let s1 := s1.mapTasks (fun _ => true) (Task.forget fun l => hit l.2.2 l.2.1)
  let me := s.me.id
  let ts := (s1.all.filter fun t => t.isPlaced && t.run.act.hasGen)
  let s2 := ts.foldl (fun (st : State) t =>
    let ps := ((t.run.elems.flatMap (·.latches)).filter fun l => hit l.2.2 l.2.1).map fun l => (l.1, l.2.1)
    ps.eraseDups.foldl (fun (st : State) l =>
      st.asTask t.id fun st => st.injectRelatch (BitVec.ofNat 64 (l.1 * 2 ^ l.2 / 2 ^ 16 % 2 ^ 41)) (sizeCode l.2)) st) s1
  (s2.focus me).getD s2

/-- An element that is not stopped has a page latched under an entry that no longer passes R416: a page of the old range or of the new
one. -/
def State.rangePending (s : State) : Bool :=
  s.all.any fun t => t.isPlaced && t.ctx.st != .swapped && t.run.elems.any fun e => !e.stopped && e.latches.any fun l =>
    !worldAgrees s l.2.2 l.2.1

/-- SETSR: pair `n` is written and the pages concerned are unmapped; with `wr` set, the event by which it ends: the reply
waits for the last of them. -/
def execSetsr (s : State) : Res :=
  let n := s.req 1
  let new : Word × Word := (fieldsOf (BitVec.ofNat 64 (s.reqNum 2 8)) [(0, 3), (16, 36)],
    fieldsOf (BitVec.ofNat 64 (s.reqNum 10 8)) [(16, 36)])
  let later (s : State) : State := { s with inputs := s.inputs ++ [(.setsr, { s.cur.arg with wr := true })] }
  if s.cur.arg.wr then .next (if s.rangePending then later s else s.answer 0 [])
  else inSession (fun s =>
    if h : s.reqLen 18 ∧ n < 64 ∧ bitsAt new.1 1 2 < 2 then
      let old := s.wh.sr[n]'h.2.1
      later ({ s with wh := { s.wh with sr := s.wh.sr.set n new h.2.1 } }.unmapRanges old new)
    else s.answer 1 []) s

/-- LOADKEY. -/
def execLoadkey (s : State) : Res :=
  inSession (fun s =>
    let n := s.req 1
    if !s.reqLen 74 || 128 ≤ n then s.answer 1 []
    else match Config.unwrapKey ((s.cur.arg.bytes.drop 2).take 72) (s.wh.nonce.getD 0) s.wh.opKey with
      | none => s.answer 1 []
      | some k =>
        let s1 := s.rekeySlot n (aget 0 s.wh.keys n) k
        { s1 with wh := { s1.wh with keys := aset s1.wh.keys n k } }.answer 0 []) s

/-- SETKMASK. -/
def execSetkmask (s : State) : Res :=
  inSession (fun s =>
    let n := s.req 1
    let m := BitVec.ofNat 128 (s.reqNum 2 16)
    if !s.reqLen 18 || Config.functions ≤ n then s.answer 1 []
    else if (s.fn n).kmask = m then s.answer 0 []
    else if s.fnActive n then s.answer 4 []
    else (s.setFn n { s.fn n with kmask := m }).answer 0 []) s

/-- Assign to a key, or to none. -/
def assign (l : List (Nat × Nat)) (k : Nat) (fn : Option Nat) : List (Nat × Nat) :=
  let r := l.filter fun x => x.1 != k
  match fn with
  | some f => (k, f) :: r
  | none => r

/-- SETTRIG. -/
def execSettrig (s : State) : Res :=
  inSession (fun s =>
    let d := s.req 1
    let l := s.req 2
    let own := if s.req 3 = 0xFF then none else some (s.req 3)
    if !s.reqLen 5 || Config.dies ≤ d || 32 ≤ l || (s.req 3 ≠ 0xFF && Config.functions ≤ s.req 3) || 4 ≤ s.req 4 then s.answer 1 []
    else
      let k := lineNo d l
      let before := s.lineOwner k
      let clear (st : State) (f : Option Nat) : State := match f with
        | some n => st.setFn n { st.fn n with trig := (st.fn n).trig.filter fun x => x.1 != k }
        | none => st
      let s1 := if before = own then s else clear (clear s before) own
      { s1 with wh := { s1.wh with
        trigOwn := assign s1.wh.trigOwn k own
        pinIn := if s.req 4 % 2 = 1 then assign s1.wh.pinIn (l % 4) own else s1.wh.pinIn
        pinOut := if 2 ≤ s.req 4 then assign s1.wh.pinOut (l % 4) own else s1.wh.pinOut } }.answer 0 []) s

/-- SETIG (R388, R389): the registers of the die, from the next cycle on. -/
def execSetig (s : State) : Res :=
  inSession (fun s =>
    let n := s.req 1
    if !s.reqLen 18 || Config.dies ≤ n then s.answer 1 []
    else
      let c := fieldsOf (BitVec.ofNat 64 (s.reqNum 2 8)) [(0, 1), (16, 16), (32, 24)]
      let w := fieldsOf (BitVec.ofNat 64 (s.reqNum 10 8)) [(0, 32)]
      (s.setDie n { s.die n with igNext := some (c, w) }).answer 0 []) s

/-- The maps of a partition in the layout of SETPART. -/
def Fn.maps (f : Fn) : List Byte :=
  let bits (l : List Nat) (stride d : Nat) : Nat :=
    sumNat ((l.filter fun m => m / stride == d).map fun m => 2 ^ (m % stride))
  (List.range Config.dies).flatMap (fun d => leBytes 33 (bits f.mills Config.millsPerDie d)) ++
  (List.range Config.dies).flatMap (fun d => leBytes 8 (bits f.tiles Config.tilesPerDie d)) ++ leBytes 3 f.lports.toNat

/-- GETPART. -/
def execGetpart (s : State) : Res :=
  request false (fun s =>
    let n := s.req 1
    let f := s.fn n
    if !s.reqLen 2 || Config.functions ≤ n then s.answer 1 []
    else s.answer 0 (f.tag :: leBytes 2 f.mills.length ++ f.maps)) s

/-! ## Sessions (R453) -/

/-- NONCE: a fresh nonce and the controller's public key; a session ends. -/
def execNonce (s : State) : Res :=
  request false (fun s =>
    let (n, s1) := s.choose
    { s1 with wh := { s1.wh with nonce := some n, session := false } }.answer 0
      ((List.range (48 + 97)).map (Config.nonceByte n))) s

/-- AUTH: the request carries the operator's key and token over the nonce last issued; the session's key derives from them. -/
def execAuth (s : State) : Res :=
  request false (fun s =>
    let ok := match s.wh.nonce with
      | some n => Config.tokenVerifies (s.cur.arg.bytes.drop 1) n
      | none => false
    { s with wh := { s.wh with session := ok, opKey := s.cur.arg.bytes.drop 1 } }.answer (if ok then 0 else 3) []) s

/-- SESSION_TIMEOUT: 600 s without a request. -/
def execSessionTimeout (s : State) : Res :=
  if !s.wh.session || s.wh.clock < s.wh.lastReq + 600000 * clockPerMs then .next s
  else .next { s with wh := { s.wh with session := false } }

/-! ## Limits and lifetime (R457 to R460) -/

/-- The step after an interval: up on an excess of power or temperature, down when both lie well below. -/
def nextStep (lim : Word) (step power hot : Nat) : Nat :=
  if plim lim < power || tlim lim < hot then min 8 (step + 1)
  else if 100 * power < 95 * plim lim && hot + 3 < tlim lim then step - 1
  else step

/-- A die's telemetry word (R455). -/
def telWord (lim : Word) (temp power step total hot : Nat) : Word :=
  BitVec.ofNat 64 (min 255 temp + min 65535 power * 2 ^ 8 + step * 2 ^ 24 + bool1 (step ≠ 0 && tlim lim ≤ hot + 3) * 2 ^ 28 +
    bool1 (step ≠ 0 && 95 * plim lim ≤ 100 * total) * 2 ^ 29)

/-- The bin of a temperature (R459, item 0x04). -/
def tempBin (t : Nat) : Nat := if t < 30 then 0 else min 15 ((t - 30) / 5 + 1)

/-- Seconds and hours that end with the `ms`-th interval go into the lifetime store. -/
def State.lifeTick (s : State) (ms : Nat) (temps : List (Nat × Nat)) : State :=
  let s1 := if ms % 1000 = 0 then temps.foldl (fun (st : State) t => st.lifeAdd 4 (t.1 * 16 + tempBin t.2) 1) s else s
  if ms % 3600000 = 0 then s1.lifeAdd 8 0 1 else s1

/-- LIMIT_INTERVAL: a 1 ms boundary. -/
def execLimitInterval (s : State) : Res :=
  if s.wh.clock < (s.wh.ms + 1) * clockPerMs then .next s
  else
    let (n, s1) := s.choose
    let temps := (List.range telDies).map fun d => (d, Config.sensorTemp n d)
    let power := (List.range telDies).map fun d => (d, Config.sensorPower n d)
    let total := sumNat (power.map (·.2))
    let hot := temps.foldl (fun m t => max m t.2) 0
    let step := nextStep s.wh.limctl s.wh.step total hot
    .next (({ s1 with wh := { s1.wh with
      temps := temps, power := power, ms := s.wh.ms + 1
      tel := (List.range telDies).map fun d => (d, telWord s.wh.limctl (aget 0 temps d) (aget 0 power d) step total hot) } } :
      State).lifeTick (s.wh.ms + 1) temps)

/-- The store is committed. -/
def Wheel.commit (w : Wheel) : Wheel := { w with saved := w.life, lifeAt := w.clock }

/-- LIFETIME_COMMIT: every 60 s. -/
def execLifetimeCommit (s : State) : Res :=
  if s.wh.clock < s.wh.lifeAt + 60000 * clockPerMs then .next s else .next { s with wh := s.wh.commit }

/-- A task ends with nothing written. -/
def Task.cut (t : Task) : Task :=
  if t.isPlaced then { t with
    st := .killed, stop := .none, run := .empty, cmds := [], window := []
    ctx := { t.ctx with st := .free, wait := .none, parked := none, pend := [] } }
  else t

/-- THERMAL_SHUTDOWN (R458): some die has reached 115 °C. -/
def execThermalShutdown (s : State) : Res :=
  if s.wh.shut || !s.wh.temps.any (fun t => 115 ≤ t.2) then .next s
  else
    let s1 := s.lifeAdd 9 0 1
    .next { s1 with
      wh := { s1.wh.commit with shut := true }
      me := s1.me.cut
      tasks := s1.tasks.map Task.cut
      agenda := []
      later := [] }

/-- SUPPLY_DROOP: die `n` (R459, item 0x05). -/
def execSupplyDroop (s : State) : Res := if telDies ≤ s.cur.arg.n then .next s else .next (s.lifeAdd 5 s.cur.arg.n 1)

/-- POWER_LOSS (R460): what has not been committed is lost, and nothing runs any more. -/
def execPowerLoss (s : State) : Res :=
  .next { s with
    wh := { s.wh with life := s.wh.saved, lifeAt := 0, clock := 0, ms := 0, off := true }
    me := s.me.cut
    tasks := s.tasks.map Task.cut
    agenda := []
    later := [] }

/-- WHEELHOUSE_WAKE_REQUEST (R259): the acting context's event latch. -/
def execWheelhouseWakeRequest (s : State) : Res := .next (s.mapCtx fun c => { c with latch := true })

/-! ## Reset (R419, R460, R461, R463) -/

/-- The boot ROM's choice: the selected bank, the other one with FALLBK, or none: recovery. -/
def Wheel.boot (w : Wheel) : Wheel :=
  let go (i : Nat) (fb : Bool) : Wheel := { w with
    active := i, select := i, fallbk := fb, recovery := false, version := w.bankVersion i }
  if w.verifies w.select then go w.select false
  else if w.verifies (1 - w.select) then go (1 - w.select) true
  else { w with recovery := true }

/-- In recovery the failure is reported over MCTP (R419): the image of the bank tried last that failed. -/
def Wheel.bootReport (w : Wheel) : List Byte :=
  if w.recovery then Config.failureReport ((w.badImage (1 - w.select)).getD 0) else []

/-- RESET_BOOT: the package is reset: the lifetime store is committed, the mills marked are exchanged, and firmware starts. What
the part keeps without power, the host's memory, the pins, and what the outside still has to present stay. -/
def execResetBoot (s : State) : Res :=
  let w := s.wh
  let kept : Wheel := { Wheel.reset with
    life := w.life, saved := w.life, lifeAt := w.clock, clock := w.clock, ms := w.ms
    banks := w.banks, active := w.active, select := w.select, minver := w.minver
    enabled := w.enabled, dead := w.dead, pkg := w.pkg }
  let booted := (w.retiredM.foldl Wheel.exchange kept).boot
  .next { State.reset with
    wh := booted
    reply := booted.bootReport
    mem := s.mem.filter fun c => spaceOf c.1 == spHost
    inputs := s.inputs
    free := s.free
    pinsIn := s.pinsIn
    tap := s.tap }

/-! ## The debug port (R444) -/

/-- TAP_INSTRUCTION. The mailbox answers once a token has verified. -/
def execTapInstruction (s : State) : Res :=
  let t := s.tap
  match s.cur.arg.tap with
  | .bypass b => .next { s with tap := { t with ir := 0, bypass := b, dr := BitVec.ofNat 64 (bool1 b) } }
  | .idcode => .next { s with tap := { t with ir := 1, dr := Config.idcode.setWidth 64 } }
  | .sample =>
    let (n, s1) := s.choose
    .next { s1 with tap := { t with ir := 2, dr := Config.boundarySample n } }
  | .preload v => .next { s with tap := { t with ir := 2, boundary := v } }
  | .extest v => .next { s with tap := { t with ir := 3, boundary := v } }
  | .mailbox token request =>
    let ok := t.mailbox || Config.debugTokenVerifies token
    let s1 : State := { s with tap := { t with ir := 4, mailbox := ok } }
    .next (if ok then { s1 with reply := Config.mailboxReply request } else s1)

end Sys2Proof.Machine
end

