-- ==== Sys2Proof/Machine/Links.lean ====
section
/-!
DEFINITION. Sys2Proof/Machine/Links.lean: race links: flits as they are received (R38, R411, R412), releases of remote handles
(R413), the loss of a link (R160), and the sums of collective groups (R290, R410), to which other packages contribute.
-/

namespace Sys2Proof.Machine

/-! ## Remote holders (R413) -/

/-- A package gives up `n` handles of an object of this one; with the last handle the object is freed (R235). -/
def State.releaseRemote (s : State) (obj : Nat) (pkg : BitVec 8) (n : Nat) : State :=
  let s1 := s.mapObj obj fun o =>
    let k := ((o.remote.find? fun r => r.1 == pkg).map (·.2)).getD 0
    { o with
      handles := o.handles - min n k
      remote := o.remote.map fun r => if r.1 == pkg then (r.1, r.2 - n) else r }
  match s1.obj? obj with
  | some o => if o.handles = 0 && o.remote.all (fun r => r.2 == 0) && o.st != .freed then s1.objFree obj else s1
  | none => s1

/-- HANDLE_RELEASE_MESSAGE: the flit's package has dropped handles of the object it names. -/
def execHandleReleaseMessage (s : State) : Res :=
  match s.cur.arg.flit.msg with
  | .release obj n => .next (s.releaseRemote obj.toNat s.cur.arg.flit.pkg n)
  | _ => .next s

/-! ## Receiving (R412) -/

/-- The end of this package, consumer or producer, to which a flit for a channel of a function belongs (R411): its entry names the
sender back. -/
def State.linkEnd (s : State) (f : Flit) (fn : Nat) (ch : BitVec 12) (prod : Bool) : Option Chan :=
  if prod then s.chans.find? fun x => x.fn == fn && x.ch == ch && x.peer != 0 && x.locend && s.entryNames x f.pkg f.fn f.ch
  else s.consumerEnd fn ch f.pkg f.fn f.ch

/-- The consumer end of a channel of that number that a flit without a matching entry is counted at (R411; DEDUCED, log 102). -/
def State.strayEnd (s : State) (fn : Nat) (ch : BitVec 12) : Option Chan :=
  s.chans.find? fun x => x.fn == fn && x.ch == ch && x.peer != 0 && !x.locend

/-- A see handle of this package's object comes home. -/
def State.homeHandle (s : State) (pkg : BitVec 8) (h : BitVec 128) : State :=
  if hPkg h != s.wh.pkg then s
  else s.mapObj (hObj h) fun o => { o with remote := o.remote.map fun r => if r.1 == pkg then (r.1, r.2 - 1) else r }

/-- Words of a flit without a matching entry are words for an exited consumer (R411, R156). -/
def State.strayWords (s : State) (fn : Nat) (ch : BitVec 12) (ws : List ChWord) : State :=
  match s.strayEnd fn ch with
  | some x => (s.linkFault x.fn x.peer).discard x ws
  | none => (pairsOf ws).foldl (fun (st : State) h => st.disposeHandle h true 0) s

/-- A message of a channel end, the `num`-th of its sender: one taken before is dropped, so that one sent again is delivered once
(R412). -/
def State.inOrder (s : State) (x : Chan) (num : BitVec 32) (r : Option State × State) : Option State × State :=
  if num = x.got then (r.1.map fun t => t.mapChan x.fn x.blk x.ch fun y => { y with got := y.got + 1 }, r.2)
  else if (x.got - num).toNat < 2 ^ 31 then (some s, s)
  else (none, s)

/-- Deliver channel words that a flit carries; none where they are held back. -/
def State.linkWords (s : State) (f : Flit) (fn : Nat) (ch : BitVec 12) (ws : List ChWord) : Option State × State :=
  match s.linkEnd f fn ch false with
  | none => (some (s.strayWords fn ch ws), s)
  | some x => s.inOrder x f.num (if x.closed then (some (s.discard x ws), s) else s.deliver x ws)

/-- A message of no channel, the `num`-th of its package, takes effect once. -/
def State.pkgMsg (s : State) (f : Flit) (k : State → State) : Option State × State :=
  let x := aget (0, 0) s.peers f.pkg.toNat
  if f.num = x.2 then (some (k { s with peers := aset s.peers f.pkg.toNat (x.1, x.2 + 1) }), s)
  else if (x.2 - f.num).toNat < 2 ^ 31 then (some s, s)
  else (none, s)

/-- Flits that have been acknowledged leave the replay buffer. -/
def Link.acked (l : Link) (n : BitVec 32) : Link := { l with outq := l.outq.filter fun f => 2 ^ 31 ≤ (n - f.seq).toNat }

/-- The halo messages that a port's acknowledgement covers have been accepted by the peer (R288). -/
def State.haloAcked (s : State) (p : Nat) (n : BitVec 32) : State :=
  ((s.link p).outq.filter fun f => (n - f.seq).toNat < 2 ^ 31).foldl (fun (st : State) f =>
    match f.msg with
    | .halo fn ch tag bytes =>
      { st with chans := st.chans.map fun c =>
        match linkEntry st c.fn c.peer with
        | some (_, fn', rch, _) =>
          if fn' == fn && rch == ch then
            { c with msgWire := match c.msgWire with
                | m :: rest => if m.held && m.tag == tag && m.bytes == bytes then rest else m :: rest
                | [] => [] }
          else c
        | none => c }
    | _ => st) s

/-- The entries of a function's channel ends of a number that cannot be read leave records (R466). -/
def State.endFaults (s : State) (fn : Nat) (ch : BitVec 12) (prod : Bool) : State :=
  (s.chans.filter fun x => x.fn == fn && x.ch == ch && x.peer != 0 && x.locend == prod).foldl (fun (st : State) x =>
    st.linkFault x.fn x.peer) s

/-- The producers of a channel in this package learn a logical time that a message carries to them (R413). -/
def State.tellProducers (s : State) (x : Chan) (t : Nat) : State :=
  (s.noteTime x.fn t).mapTasks (fun y => y.id.fn == x.fn && y.id.blk == x.blk && (x.ptask == 0xFFFFFFFF || x.ptask == y.id.idx))
    fun y => { y with ctx := { y.ctx with clock := max y.ctx.clock t } }

/-- A logical time that a message about an object carries is recorded in the partition that holds the object (R413). -/
def State.noteObj (s : State) (id t : Nat) : State :=
  match s.obj? id with
  | some o => s.noteTime o.fn t
  | none => s

/-- The list that the table of a member of this package gives its group, where it is another one than a contribution's (R410). -/
def otherList (s : State) (c : CollShare) (m : Word) : Option (List Word) :=
  if memPkg m != s.wh.pkg then none else (collMembers s (memFn m) c.grp).filter fun l => l != c.members

/-- A contribution of another package's member arrives: it stands in place of one that its command made before, or made for another list.
Each member of this package that it names and whose list differs answers with that list and no data, so that the members there stop too
(R410, R290; DEDUCED, log 127). -/
def State.takeShare (s : State) (c : CollShare) (clk : Nat) : State :=
  let old (x : CollShare) : Bool := x.grp == c.grp && x.srcPkg == c.srcPkg && x.srcFn == c.srcFn && x.srcIdx == c.srcIdx &&
    (x.seq == c.seq || x.members != c.members)
  let s1 : State := { s with shares := (s.shares.filter fun x => !old x.1) ++ [(c, clk)] }
  if c.data.isEmpty then s1
  else c.members.foldl (fun (st : State) m => match otherList s c m with
    | some l => st.sendPkg c.srcPkg clk (.share ⟨c.grp, c.seq, s.wh.pkg, memFn m, memIdx m, l, c.op, c.nrec, []⟩)
    | none => st) s1

/-- What a flit in sequence carries takes effect; none where the receiver holds it back. The receiver's logical time passes the
sender's (R413). -/
def State.receive (s : State) (f : Flit) : Option State × State :=
  match f.msg with
  | .word fn ch v => s.linkWords f fn ch [⟨v, false, f.clk + 1⟩]
  | .pair fn ch h =>
    match s.linkWords f fn ch [⟨h.extractLsb' 0 64, true, f.clk + 1⟩, ⟨h.extractLsb' 64 64, true, f.clk + 1⟩] with
    | (some s1, s2) => (some (s1.homeHandle f.pkg h), s2)
    | r => r
  | .halo fn ch tag bytes =>
    match s.linkEnd f fn ch false with
    | none => (some (match s.strayEnd fn ch with
        | some x => s.discardMsg x (msgWords bytes.length)
        | none => s), s)
    | some x => s.inOrder x f.num (s.deliverMsg x ⟨tag, bytes, f.clk + 1, ⟨0, 0, 0⟩, 0, false, 0⟩)
  | .closed fn ch =>
    match s.linkEnd f fn ch true with
    | none => (some (s.endFaults fn ch true), s)
    | some x => s.inOrder x f.num
        (some ((s.mapChan x.fn x.blk x.ch fun y => { y with peerClosed := true }).tellProducers x (f.clk + 1)), s)
  | .release obj n => s.pkgMsg f fun s => (s.noteObj obj.toNat (f.clk + 1)).releaseRemote obj.toNat f.pkg n
  | .hold obj pkg n => s.pkgMsg f fun s =>
      (s.noteObj obj.toNat (f.clk + 1)).mapObj obj.toNat fun o => { o.holdMore pkg n with handles := o.handles + n }
  | .share c => s.pkgMsg f (·.takeShare c (f.clk + 1))
  | .ack _ => (some s, s)

/-- Count a flit replay in the window of 65,536 cycles (R425). -/
def Link.replayed (l : Link) (now : Nat) : Link :=
  if l.window = now / 65536 then { l with replays := l.replays + 1 } else { l with window := now / 65536, replays := 1 }

/-- LINK_FLIT_RECEIVE: port `n` receives a flit: one that fails its CRC, or comes ahead of its turn, is replayed (and counted, R459); one that
has been delivered is dropped. -/
def execLinkFlitReceive (s : State) : Res :=
  let p := s.cur.arg.n
  let f := s.cur.arg.flit
  let l := s.link p
  if !l.up then .next s
  else if !f.crcOk then .next ((s.setLink p (l.replayed s.time)).lifeAdd 6 p 1)
  else match f.msg with
    | .ack n => .next (let s1 := s.haloAcked p n
        s1.setLink p ((s1.link p).acked n))
    | _ =>
      if f.seq = l.got then
        match s.receive f with
        | (some s1, _) => .next (s1.setLink p { s1.link p with got := l.got + 1 })
        | (none, s1) => .next s1
      else if (l.got - f.seq).toNat < 2 ^ 31 then .next s
      else .next ((s.setLink p (l.replayed s.time)).lifeAdd 6 p 1)

/-! ## Losing a link (R160, R412, R413) -/

/-- The records of a stopped run's address generators that are in a pass (R160): each names the iteration not yet performed. -/
def agRecords (t : Task) (cause : BitVec 8) : List FaultRec :=
  ((List.range t.run.elems.length).filter fun e =>
    isAg (eOp (t.run.act.wordOf e)).toNat && !(t.run.elem e).waiting).map fun e =>
      let (node, loop) := match t.run.act.pattern? e with
        | none => (0, 0)
        | some p => (p.node, p.loop)
      ⟨cause, 2, node, loop, 0, 0, e / t.lanes, e % t.lanes, 0, 0, t.run.act.id, t.id.idx, t.ctxNo, t.id.blk, 0,
        (t.run.elem e).ctr⟩

/-- The record of a task that has not been placed (R160). -/
def unplacedRecord (b : Blk) (i : BitVec 32) (cause : BitVec 8) : FaultRec :=
  ⟨cause, 3, 0, 0, 0, 0, 0, 0, 0, 0, 0, i, 0, b.addr, 0, []⟩

/-- The tasks of a block's subtree that have not retired stop for the driver, with a record for each and one for each of its address
generators; those that have not been placed are recorded too, and never start; the block is SEVERED. -/
def State.sever (s : State) (fn : Nat) (a : Word) : State :=
  let bs := s.subtree fn a
  let hit (t : Task) : Bool := t.id.fn == fn && (bs.any fun b => b.addr == t.id.blk) && t.alive
  let s0 := (s.all.filter hit).foldl (fun (st : State) t =>
    (agRecords t tcSEVERED).foldl (fun (st : State) r => st.fault fn r) (st.taskFault t tcSEVERED 0)) (s.endBlk fn a .severed tcSEVERED)
  let s1 := bs.foldl (fun (st : State) b => (s.unplaced b).foldl (fun (st : State) i => st.fault fn (unplacedRecord b i tcSEVERED)) st) s0
  let s2 : State := { s1 with dies := s1.dies.map fun d =>
    (d.1, { d.2 with queue := d.2.queue.filter fun e => !(e.fn == fn && bs.any fun b => b.addr == e.blk) }) }
  (s2.mapTasks hit fun t => { t with
    stop := .driver, stopCause := tcSEVERED, run := { t.run with gated := true }
    ctx := { t.ctx with st := if t.ctx.st == .free || t.ctx.st == .swapped then t.ctx.st else .trapped, wait := .none } }).settle

/-- The fault domain of a node is severed. -/
def State.severDomain (s : State) (fn : Nat) (blk : Word) : State := s.sever fn (s.domain fn blk)

/-- Move what a dead port has not had acknowledged to another port, as new flits in order; the numbers of the messages stay, so that
one which had arrived is delivered once. -/
def State.resend (s : State) (q : Nat) (f : Flit) : State :=
  let l := s.link q
  s.setLink q { l with outq := l.outq ++ [{ f with seq := l.next }], next := l.next + 1 }

/-- The launch link entries of a function that a port stands in. -/
def entriesAt (s : State) (fn p : Nat) : List (BitVec 8 × Nat × BitVec 12 × BitVec 18) :=
  ((List.range (bitsAt (s.fn fn).llt 0 16)).filterMap fun i => linkEntry s fn (i + 1)).filter fun x => x.2.2.2.getLsbD p

/-- The package that a port leads to: the one that the entries name in whose masks it stands. -/
def portPkg (s : State) (p : Nat) : Option (BitVec 8) := s.fns.findSome? fun f => (entriesAt s f.1 p).head?.map (·.1)

/-- Where a message that waited on a dead port goes: for a channel another port that serves the entry naming the same peer's channel,
for the others a port by which the package is still reached. -/
def newPort (s : State) (p : Nat) (f : Flit) : Option Nat :=
  let chan (fn : Nat) (ch : BitVec 12) : Option Nat := (entriesAt s f.fn p).findSome? fun x =>
    if x.2.1 == fn && x.2.2.1 == ch then s.linkPort f.fn x.2.2.2 else none
  match f.msg with
  | .word fn ch _ => chan fn ch
  | .pair fn ch _ => chan fn ch
  | .halo fn ch _ _ => chan fn ch
  | .closed fn ch => chan fn ch
  | _ => (portPkg s p).bind s.pkgPort

/-- A handle pair is lost on its way over a port: the package it was going to does not come to hold it, and it is discarded (R239,
R413). -/
def State.losePair (s : State) (p : Nat) (h : BitVec 128) (clk : Nat) : State :=
  match portPkg s p with
  | some pkg =>
    if hPkg h == s.wh.pkg then (s.homeHandle pkg h).disposeHandle h true clk
    else if hPkg h == pkg then s.disposeHandle h true clk
    else s
  | none => s

/-- What waits on a dead port goes to a port that serves its channel or package, or is lost. -/
def State.drainPort (s : State) (p : Nat) : State :=
  let l := s.link p
  l.outq.foldl (fun (st : State) f =>
    match newPort st p f with
    | some q => st.resend q f
    | none => match f.msg with
      | .pair _ _ h => st.losePair p h f.clk
      | _ => st) (s.setLink p { l with up := false, outq := [] })

/-- A channel crossed a link by a port that served it, and none serves it any more. -/
def State.cutOff (s s1 : State) (p : Nat) (c : Chan) : Bool :=
  match linkEntry s c.fn c.peer with
  | some (pkg, _, _, ports) => pkg != s.wh.pkg && s.portServes c.fn ports p && (s1.linkPort c.fn ports).isNone
  | none => false

/-- Handles held by packages that can no longer be reached count as dropped (R413). -/
def State.dropLost (s : State) : State :=
  s.objs.foldl (fun (st : State) o => (o.remote.filter fun r => r.2 != 0 && !st.reaches r.1).foldl
    (fun (st : State) r => st.releaseRemote o.id r.1 r.2) st) s

/-- The number under which a link between two dies is kept. -/
def dieLink (a b : Nat) : Nat := 32 + 8 * min a b + max a b

/-- Two dies reach each other: directly, or through a third (R160). -/
def State.diesMeet (s : State) (a b : Nat) : Bool :=
  (s.link (dieLink a b)).up || (List.range Config.dies).any fun c =>
    c != a && c != b && (s.link (dieLink a c)).up && (s.link (dieLink c b)).up

/-- The die of a node block. -/
def State.dieOfNode (s : State) (fn : Nat) (a : Word) : Nat :=
  match s.blk? fn a with
  | some b => s.blkDie b
  | none => 0

/-- A channel's two ends met, directly or through a third die, and do so no longer. -/
def State.parted (s s1 : State) (c : Chan) : Bool :=
  match s.joined c with
  | some x =>
    let a := s.dieOfNode c.fn c.blk
    let b := s.dieOfNode x.fn x.blk
    a != b && s.diesMeet a b && !s1.diesMeet a b
  | none => false

/-- Sever the fault domain of each channel. -/
def State.severAll (s : State) (cs : List Chan) : State :=
  cs.foldl (fun (st : State) c => st.severDomain c.fn c.blk) s

/-- LINK_FAILURE: race-link port `n` fails; or, with `wr` set, the link between dies `n` and `k`. Edges with another path are
rerouted; the fault domain of each edge with none is SEVERED. -/
def execLinkFailure (s : State) : Res :=
  let n := s.cur.arg.n
  if s.cur.arg.wr then
    let l := dieLink n s.cur.arg.k
    let s1 := s.setLink l { s.link l with up := false }
    .next (s1.severAll (s.chans.filter (s.parted s1)))
  else
    let s1 := s.drainPort n
    .next (s1.severAll (s.chans.filter (s.cutOff s1 n))).dropLost

/-! ## Collective sums (R290, R410) -/

/-- A member's command for a group that has contributed. -/
def contributed (t : Task) (g : Nat) : Option (Cmd × CollDesc) :=
  (t.cmds.filterMap fun c =>
    if c.op = 0x19 && c.phase == .running && c.sub = 1 then
      match collOf c.raw with
      | some d => if d.group = g then some (c, d) else none
      | none => none
    else none).head?

/-- The members of this package that have contributed to group `g` of a member list: task, command, share. -/
def State.localShares (s : State) (g : Nat) (ms : List Word) : List (TaskId × Cmd × CollShare) :=
  (ms.filter fun m => memPkg m == s.wh.pkg).filterMap fun m =>
    (s.all.find? fun t => t.id.fn == memFn m && t.id.idx == memIdx m && (contributed t g).isSome).bind fun t =>
      (contributed t g).map fun x => (t.id, x.1, shareOf s t.id x.2 x.1.seq x.1.mems x.1.left)

/-- A contribution is that of a member to a group. -/
def isShareOf (g : Nat) (m : Word) (x : CollShare) : Bool :=
  x.grp == g && x.srcPkg == memPkg m && x.srcFn == memFn m && x.srcIdx == memIdx m

/-- The contributions of members of other packages, with their logical times. -/
def State.peerShares (s : State) (g : Nat) (ms : List Word) : List (CollShare × Nat) :=
  (ms.filter fun m => memPkg m != s.wh.pkg).filterMap fun m => s.shares.find? fun x => isShareOf g m x.1

/-- The 64-bit fields of a buffer. -/
def fields64 (bs : List Byte) (n : Nat) : List Word := (List.range n).map fun i => dword bs (8 * i)

/-- The sum of one field over all members: wrapping, or saturating (R290, R100). -/
def collField (op : Nat) (vs : List Int) : Word × Bool :=
  let t := vs.foldl (· + ·) 0
  let m : Int := 2 ^ 63 - 1
  if op = 1 then (BitVec.ofInt 64 t, false)
  else if m < t then (BitVec.ofInt 64 m, true)
  else if t < -m then (BitVec.ofInt 64 (-m), true)
  else (BitVec.ofInt 64 t, false)

/-- Field-by-field sums over the members' fields. -/
def collSums (op : Nat) (bufs : List (List Word)) (n : Nat) : List (Word × Bool) :=
  (List.range n).map fun i => collField op (bufs.map fun b => (b.getD i 0).toInt)

/-- The members of this package stop with PROT: a member differs in its list, NREC or OP. One that is resumed contributes anew. -/
def State.collDiffer (s : State) (l : List (TaskId × Cmd × CollShare)) : State :=
  l.foldl (fun (st : State) x => st.asTask x.1 fun st =>
    (st.mapCmd x.2.1.seq fun y => { y with sub := 0, left := [] }).cmdFault x.2.1 tcPROT 0 []) s

/-- The members of this package take the sum; their clocks pass the logical times of what came over links (R413). -/
def State.collGive (s : State) (l : List (TaskId × Cmd × CollShare)) (r : List (Word × Bool)) (clk : Nat) : State :=
  let bs := r.flatMap fun x => dbytes x.1
  let sat := r.any (·.2)
  l.foldl (fun (st : State) x => st.asTask x.1 fun st =>
    (st.mapCmd x.2.1.seq fun y => { y with sub := 2, left := bs, psat := y.psat || sat, wclk := max y.wclk clk }).mapCtx
      fun c => { c with clock := max c.clock clk }) s

/-- Every member of a group has contributed: the members of this package go on, and the contributions of the others are used up. -/
def State.collDone (s : State) (g : Nat) (ms : List Word) (l : List (TaskId × Cmd × CollShare)) (d : CollShare) : State :=
  let far := s.peerShares g ms
  let all := l.map (·.2.2) ++ far.map (·.1)
  let s1 : State := { s with shares := ms.foldl (fun l m => l.eraseP fun x => isShareOf g m x.1) s.shares }
  if all.any fun x => x.members != ms || x.op != d.op || x.nrec != d.nrec then s1.collDiffer l
  else
    let n := if d.op = 1 then d.nrec else 8 * d.nrec
    s1.collGive l (collSums d.op (all.map fun x => fields64 x.data n) n) (far.foldl (fun m x => max m x.2) 0)

/-- A member names a task of this package. -/
def memberIs (s : State) (t : TaskId) (m : Word) : Bool := memPkg m == s.wh.pkg && memFn m == t.fn && memIdx m == t.idx

/-- Some member's list differs from that of the contributed members `l` (R410): the table of one that is listed, or the list of a
contribution of one that is listed or that lists one of them. -/
def State.collClash (s : State) (g : Nat) (ms : List Word) (l : List (TaskId × Cmd × CollShare)) : Bool :=
  let lists (ws : List Word) : Bool := l.any fun y => ws.any (memberIs s y.1)
  (ms.any fun m => memPkg m == s.wh.pkg && ((collMembers s (memFn m) g).filter fun x => x != ms).isSome) ||
  (s.all.any fun t => match contributed t g with
    | some x => x.1.mems != ms && (ms.any (memberIs s t.id) || lists x.1.mems)
    | none => false) ||
  s.shares.any fun x => x.1.grp == g && x.1.members != ms && (ms.any (isShareOf g · x.1) || lists x.1.members)

/-- The contributed members of this package stop with PROT for a list that differs; what was contributed for other lists goes. -/
def State.collStop (s : State) (g : Nat) (ms : List Word) (l : List (TaskId × Cmd × CollShare)) : State :=
  ({ s with shares := s.shares.filter fun x => x.1.grp != g || x.1.members == ms } : State).collDiffer l

/-- The list for which a member of a function has contributed to a group. -/
def State.collList (s : State) (fn g : Nat) : Option (List Word) :=
  (s.all.filter fun t => t.id.fn == fn).findSome? fun t => (contributed t g).map (·.1.mems)

/-- COLL_SUM (R290): group `k` of function `fn`, once every member has contributed; members whose lists differ stop as soon as that is
known (R410), and members that a lost path parts from the others stop (R160). -/
def execCollSum (s : State) : Res :=
  let g := s.cur.arg.k
  match s.collList s.cur.arg.fn g with
  | none => .next s
  | some ms =>
    let l := s.localShares g ms
    match l with
    | [] => .next s
    | (_, _, d) :: _ =>
      if s.collClash g ms l then .next ((s.collStop g ms l).asTask s.me.id id)
      else if l.length + (s.peerShares g ms).length = ms.length then .next ((s.collDone g ms l d).asTask s.me.id id)
      else if ms.any fun m => memPkg m != s.wh.pkg && !s.reaches (memPkg m) then
        .next (l.foldl (fun (st : State) x => st.severDomain x.1.fn x.1.blk) s)
      else .next s

end Sys2Proof.Machine
end

