-- ==== Sys2Proof/Machine/Replay.lean ====
section
/-!
DEFINITION. Sys2Proof/Machine/Replay.lean: replay of a launch: its start (R437, R448) and what happens between its passes
(R439, R440).
-/

namespace Sys2Proof.Machine

/-! ## Start (R437, R448) -/

/-- A launch of a function is queued or placed. -/
def State.launched (s : State) (fn : Nat) : Bool := !(s.fn fn).launches.isEmpty || !(s.fn fn).live.isEmpty || s.fnActive fn

/-- The counter plan: PASSES doublewords where PLAN is set. -/
def readPlan (s : State) (fn : Nat) : Except (BitVec 8 × Word) (List Word) :=
  let f := s.fn fn
  let n := bitsAt f.rpctl 0 5
  if !bitAt f.rpctl 5 then .ok []
  else (devRead s fn (regBase f.rpevt 3) (8 * n)).map fun bs => (List.range n).map fun i => dword bs (8 * i)

/-- A replay has been accepted: pass 1. -/
def Fn.replayOn (f : Fn) (root : Word) (plan : List Word) : Fn :=
  { f with
    rproot := root, rpplan := plan, rpbusy := true, rpcode := 0, rppass := 1, rpmis := false, rpfirst := 0
    rpoutrec := 0, rpoutlost := 0, rpunits := [], rpfull := false }

/-- REPLAY_START: a write of `w` to RPROOT of function `fn`. -/
def execReplayStart (s : State) : Res :=
  let n := s.cur.arg.fn
  let root := s.cur.arg.w
  let f := s.fn n
  if f.rpbusy then .next (s.setFn n { f with rprbusy := true })
  else
    let s0 := s.setFn n { f with rprbusy := false }
    let refused (st : State) (c : BitVec 4) : State := st.setFn n { st.fn n with rpcode := c }
    let p := bitsAt f.rpctl 0 5
    if p = 0 || 16 < p then .next (refused s0 3)
    else if s0.launched n then .next (refused s0 1)
    else match readPlan s0 n with
      | .error (c, a) => .next (refused (s0.devFault n c a) 4)
      | .ok plan =>
        if !canonical root || root.toNat % 256 ≠ 0 then .next (refused s0 4)
        else
          let f1 := s0.fn n
          .next ((s0.setFn n { f1.replayOn root plan with launches := [root] }).raise .workBlockWalk s.cur.arg)

/-! ## Signatures (R440) -/

/-- A block and its descendants, each before its children, a child and its descendants before the next sibling. -/
def State.walkOrder (s : State) : Nat → Blk → List Blk
  | 0, b => [b]
  | n + 1, b => b :: (s.children b).flatMap (s.walkOrder n)

/-- The block signature: one that never started contributes its initial value. -/
def Blk.signature (b : Blk) : Word :=
  (List.range b.eff.tcount.toNat).foldl (fun (a : Word) k =>
    let i := b.eff.tbase + BitVec.ofNat 32 k
    mix (a ^^^ ((b.sigs.find? fun x => x.1 == i).map (·.2)).getD (i.setWidth 64))) 0

/-- The launch signature of a function's replay. -/
def State.launchSig (s : State) (fn : Nat) : Word :=
  match s.blk? fn (s.fn fn).rproot with
  | none => 0
  | some r => ((s.walkOrder 8 r).filter (·.isNode)).foldl (fun (l : Word) b => mix (l ^^^ b.signature)) 0

/-- Record the signature of the pass that has ended. -/
def Fn.signed (f : Fn) (l : Word) : Fn :=
  let s1 := if f.rppass = 1 then l else f.rpsig1
  let bad := l != s1
  { f with
    rpsig1 := s1, rpsigl := l, rpmis := f.rpmis || bad
    rpfirst := if bad && f.rpfirst = 0 then f.rppass else f.rpfirst }

/-! ## Between passes (R439) -/

/-- Write every captured unit back from its slot; its lines stay under the key slots that they were last written under: no rule says
which an access by physical address uses (DESIGN CHOICE, log 131). -/
def State.restoreUnits (s : State) (fn : Nat) : State :=
  let f := s.fn fn
  ((List.range f.rpunits.length).zip f.rpunits).foldl (fun (st : State) x =>
    let a := regBase f.rpcap 16 + BitVec.ofNat 64 (65536 * x.1)
    match devResolve st fn a false with
    | .error c => st.devFault fn c a
    | .ok (k, _) => { st with mem := memCopyUnit st.mem k x.2 }) s

/-- The canonical reset: SCRATCH banks zeroed, the partition's reservoir lines dropped, pinned ones too, its TLBs emptied, ingress
buckets full. -/
def State.canonReset (s : State) (fn : Nat) : State :=
  let f := s.fn fn
  let banks := f.mills.flatMap fun m => ((List.range 24).zip (s.mill m).modes.toList).filterMap fun x =>
    if x.2 = 1 then some (m * 24 + x.1) else none
  let mem := banks.foldl (fun (a : List Host.Cell) b => memClear a (keyOf spBank (b * 65536)) 65536) s.mem
  { s.rsvDrop fun l => l.fn == fn with
    mem := mem
    mills := s.mills.map fun m => if f.mills.contains m.1 then (m.1, { m.2 with tlb := [] }) else m
    dies := s.dies.map fun d => (d.1, { d.2 with
      tlb2 := d.2.tlb2.filter fun e => e.fn != fn
      iglevel := BitVec.ofNat 48 (256 * igDepth d.2.igctl) }) }

/-- Every block of the tree is as before its launch: its hardware fields are zero, and the device holds none of it. -/
def State.clearTree (s : State) (fn : Nat) (root : Word) : State :=
  let mine (b : Blk) : Bool := b.fn == fn && b.root == root
  let of (n : Nat) (a : Word) : Bool := s.blks.any fun b => mine b && b.fn == n && b.addr == a
  let gone (t : Task) : Bool := of t.id.fn t.id.blk
  let s1 := (s.blks.filter mine).foldl (fun (st : State) b => st.devPut fn (b.addr + 0x58) (List.replicate 16 0)) s
  { s1 with
    blks := s1.blks.filter fun b => !mine b
    groups := s1.groups.filter fun g => !of g.fn g.blk
    chans := s1.chans.filter fun c => !of c.fn c.blk
    me := if gone s1.me then .idle else s1.me
    tasks := s1.tasks.filter fun t => !gone t }

/-- The pass of a function's replay has ended: its tree has, and none of its tasks is left. -/
def State.passOver (s : State) (fn : Nat) : Bool :=
  let f := s.fn fn
  f.rpbusy && !f.launches.contains f.rproot && !f.live.contains f.rproot &&
  (s.blks.all fun b => !(b.fn == fn && b.root == f.rproot) || b.st.over) &&
  s.all.all fun t => !(t.id.fn == fn && t.alive && s.replays fn t.id.blk)

/-- REPLAY_PASS_END: the pass of function `fn`'s replay has ended: its signature is recorded; before another pass memory is
restored, the caches are reset and the root is relaunched; after the last one, or with the capture area full, BUSY falls. -/
def execReplayPassEnd (s : State) : Res :=
  let n := s.cur.arg.fn
  if !s.passOver n then .next s
  else
    let f := (s.fn n).signed (s.launchSig n)
    let s1 := s.setFn n f
    if f.rpfull || bitsAt f.rpctl 0 5 ≤ f.rppass.toNat then .next (s1.setFn n { f with rpbusy := false })
    else
      let s2 := ((s1.restoreUnits n).canonReset n).clearTree n f.rproot
      .next (s2.setFn n { s2.fn n with rppass := f.rppass + 1, launches := (s2.fn n).launches ++ [f.rproot] })

end Sys2Proof.Machine
end

