-- ==== Sys2Proof/Machine/ScalarFp.lean ====
section
/-!
DEFINITION. Sys2Proof/Machine/ScalarFp.lean: scalar floating point (R170, R171, R220 to R225).
-/

namespace Sys2Proof.Machine

/-! ## Operands -/

/-- An f-register read as binary64. -/
def Ctx.fD (c : Ctx) (r : BitVec 5) : Nat := (c.rf (low4 r)).toNat
/-- An f-register read as binary32: 0x7FC0_0000 where it is not boxed (R171). -/
def Ctx.fS (c : Ctx) (r : BitVec 5) : Nat :=
  let v := c.rf (low4 r)
  if v.extractLsb' 32 32 = 0xFFFFFFFF#32 then v.toNat % 2 ^ 32 else 0x7FC00000

/-- A format of the scalar unit: how it is read and how a result is written. -/
structure Scalar where
  fmt : Fmt
  s   : Bool
deriving DecidableEq, Repr

/-- binary64. -/
def scD : Scalar := ⟨fp64, false⟩
/-- binary32, boxed. -/
def scS : Scalar := ⟨fp32, true⟩

/-- The pattern an operand holds. -/
def Scalar.bits (k : Scalar) (c : Ctx) (r : BitVec 5) : Nat := if k.s then c.fS r else c.fD r
/-- An operand's value. -/
def Scalar.val (k : Scalar) (c : Ctx) (r : BitVec 5) : FV := k.fmt.read (k.bits c r)
/-- A result as a register holds it. -/
def Scalar.box (k : Scalar) (v : Nat) : Word := if k.s then boxed v else BitVec.ofNat 64 v

/-! ## Forms -/

/-- Write an f-register. -/
def State.putF (s : State) (d : BitVec 5) (v : Word) : State := s.mapCtx fun c => c.wf (low4 d) v
/-- Write a guard register. -/
def State.putQ (s : State) (d : BitVec 5) (v : Bool) : State := s.mapCtx fun c => c.wq (low3 d) v

/-- A result and flags computed from f-registers, for an f-register. -/
def fpF (i : Instr) (g : Guard) (k : Scalar) (d : BitVec 5) (s : State) (f : Ctx → Nat × FFlags) : Res :=
  guarded i g s fun s =>
    let (v, fl) := f s.me.ctx
    fpDone i s [] fl fun s => s.putF d (k.box v)

/-- Two operands (R220). -/
def fp2 (i : Instr) (g : Guard) (k : Scalar) (d a b : BitVec 5) (s : State) (f : Fmt → FV → FV → Nat × FFlags) : Res :=
  fpF i g k d s fun c => f k.fmt (k.val c a) (k.val c b)

/-- A comparison into a guard (R222): `f` the relation, `quiet` whether a quiet NaN raises nothing. -/
def fpCmp (i : Instr) (g : Guard) (k : Scalar) (d a b : BitVec 5) (quiet : Bool) (s : State) (f : FV → FV → Bool) : Res :=
  guarded i g s fun s =>
    let x := k.val s.me.ctx a
    let y := k.val s.me.ctx b
    let fl := if quiet then sigFlag [x, y] else if x.isNan || y.isNan then flInvalid else 0
    fpDone i s [] fl fun s => s.putQ d (f x y)

/-- A conversion to an integer (R223). -/
def fpToInt (i : Instr) (g : Guard) (k : Scalar) (d a : BitVec 5) (lo hi : Int) (s : State) : Res :=
  gated i g [] (some d) false s fun s =>
    let (v, fl) := toIntSat (k.val s.me.ctx a) lo hi
    fpDone i s [] fl fun s => s.putG d (wordOf v)

/-- A conversion from an integer (R223). -/
def fpOfInt (i : Instr) (g : Guard) (k : Scalar) (d a : BitVec 5) (s : State) (f : Word → Int) : Res :=
  gated i g [a] none false s fun s =>
    let (v, fl) := k.fmt.ofInt (f (s.src a))
    fpDone i s [a] fl fun s => s.putF d (k.box v)

/-- FLI's value as binary64 (R170). -/
def fliD (b : BitVec 16) : Word :=
  let n := b.toNat
  if n / 2 ^ 7 % 256 = 255 && n % 128 ≠ 0 then
    BitVec.ofNat 64 (n / 2 ^ 15 * 2 ^ 63 + 0x7FF * 2 ^ 52 + (n % 128 ||| 64) * 2 ^ 45)
  else BitVec.ofNat 64 (fp64.convert (bf16.read n)).1

/-- FLI.S's value as binary32 (R170). -/
def fliBits (b : BitVec 16) : Nat :=
  let n := b.toNat
  if n / 2 ^ 7 % 256 = 255 && n % 128 ≠ 0 then (n ||| 64) * 2 ^ 16 else n * 2 ^ 16

/-! ## Meanings -/

/-- FADD (R220). -/
def execFadd (g : Guard) (d a b : BitVec 5) (s : State) : Res := fp2 (.fadd g d a b) g scD d a b s Fmt.add

/-- FADD.S (R220). -/
def execFaddS (g : Guard) (d a b : BitVec 5) (s : State) : Res := fp2 (.faddS g d a b) g scS d a b s Fmt.add

/-- FSUB (R220). -/
def execFsub (g : Guard) (d a b : BitVec 5) (s : State) : Res := fp2 (.fsub g d a b) g scD d a b s Fmt.sub

/-- FSUB.S (R220). -/
def execFsubS (g : Guard) (d a b : BitVec 5) (s : State) : Res := fp2 (.fsubS g d a b) g scS d a b s Fmt.sub

/-- FMUL (R220). -/
def execFmul (g : Guard) (d a b : BitVec 5) (s : State) : Res := fp2 (.fmul g d a b) g scD d a b s Fmt.mul

/-- FMUL.S (R220). -/
def execFmulS (g : Guard) (d a b : BitVec 5) (s : State) : Res := fp2 (.fmulS g d a b) g scS d a b s Fmt.mul

/-- FDIV (R220). -/
def execFdiv (g : Guard) (d a b : BitVec 5) (s : State) : Res := fp2 (.fdiv g d a b) g scD d a b s Fmt.div

/-- FDIV.S (R220). -/
def execFdivS (g : Guard) (d a b : BitVec 5) (s : State) : Res := fp2 (.fdivS g d a b) g scS d a b s Fmt.div

/-- FSQRT (R220). -/
def execFsqrt (g : Guard) (d a : BitVec 5) (s : State) : Res :=
  fpF (.fsqrt g d a) g scD d s fun c => scD.fmt.sqrt (scD.val c a)

/-- FSQRT.S (R220). -/
def execFsqrtS (g : Guard) (d a : BitVec 5) (s : State) : Res :=
  fpF (.fsqrtS g d a) g scS d s fun c => scS.fmt.sqrt (scS.val c a)

/-- FFMA (R220): f[d] is the addend. -/
def execFfma (g : Guard) (d a b : BitVec 5) (s : State) : Res :=
  fpF (.ffma g d a b) g scD d s fun c => scD.fmt.fma (scD.val c a) (scD.val c b) (scD.val c d)

/-- FFMA.S (R220): f[d] is the addend. -/
def execFfmaS (g : Guard) (d a b : BitVec 5) (s : State) : Res :=
  fpF (.ffmaS g d a b) g scS d s fun c => scS.fmt.fma (scS.val c a) (scS.val c b) (scS.val c d)

/-- FMIN (R220). -/
def execFmin (g : Guard) (d a b : BitVec 5) (s : State) : Res :=
  fpF (.fmin g d a b) g scD d s fun c => scD.fmt.minMax false (scD.bits c a) (scD.bits c b)

/-- FMIN.S (R220). -/
def execFminS (g : Guard) (d a b : BitVec 5) (s : State) : Res :=
  fpF (.fminS g d a b) g scS d s fun c => scS.fmt.minMax false (scS.bits c a) (scS.bits c b)

/-- FMAX (R220). -/
def execFmax (g : Guard) (d a b : BitVec 5) (s : State) : Res :=
  fpF (.fmax g d a b) g scD d s fun c => scD.fmt.minMax true (scD.bits c a) (scD.bits c b)

/-- FMAX.S (R220). -/
def execFmaxS (g : Guard) (d a b : BitVec 5) (s : State) : Res :=
  fpF (.fmaxS g d a b) g scS d s fun c => scS.fmt.minMax true (scS.bits c a) (scS.bits c b)

/-- FCMP.EQ (R222). -/
def execFcmpEq (g : Guard) (d a b : BitVec 5) (s : State) : Res :=
  fpCmp (.fcmpEq g d a b) g scD d a b true s FV.eq

/-- FCMP.EQ.S (R222). -/
def execFcmpEqS (g : Guard) (d a b : BitVec 5) (s : State) : Res :=
  fpCmp (.fcmpEqS g d a b) g scS d a b true s FV.eq

/-- FCMP.LT (R222). -/
def execFcmpLt (g : Guard) (d a b : BitVec 5) (s : State) : Res :=
  fpCmp (.fcmpLt g d a b) g scD d a b false s FV.lt

/-- FCMP.LT.S (R222). -/
def execFcmpLtS (g : Guard) (d a b : BitVec 5) (s : State) : Res :=
  fpCmp (.fcmpLtS g d a b) g scS d a b false s FV.lt

/-- FCMP.LE (R222). -/
def execFcmpLe (g : Guard) (d a b : BitVec 5) (s : State) : Res :=
  fpCmp (.fcmpLe g d a b) g scD d a b false s (fun x y => x.lt y || x.eq y)

/-- FCMP.LE.S (R222). -/
def execFcmpLeS (g : Guard) (d a b : BitVec 5) (s : State) : Res :=
  fpCmp (.fcmpLeS g d a b) g scS d a b false s (fun x y => x.lt y || x.eq y)

/-- FCMP.UN (R222). -/
def execFcmpUn (g : Guard) (d a b : BitVec 5) (s : State) : Res :=
  fpCmp (.fcmpUn g d a b) g scD d a b true s (fun x y => x.isNan || y.isNan)

/-- FCMP.UN.S (R222). -/
def execFcmpUnS (g : Guard) (d a b : BitVec 5) (s : State) : Res :=
  fpCmp (.fcmpUnS g d a b) g scS d a b true s (fun x y => x.isNan || y.isNan)

/-- FCVT.S.D (R223). -/
def execFcvtSD (g : Guard) (d a : BitVec 5) (s : State) : Res :=
  fpF (.fcvtSD g d a) g scS d s fun c => fp32.convert (scD.val c a)

/-- FCVT.D.S (R223). -/
def execFcvtDS (g : Guard) (d a : BitVec 5) (s : State) : Res :=
  fpF (.fcvtDS g d a) g scD d s fun c => fp64.convert (scS.val c a)

/-- FCVT.L.D (R223). -/
def execFcvtLD (g : Guard) (d a : BitVec 5) (s : State) : Res :=
  fpToInt (.fcvtLD g d a) g scD d a (-2 ^ 63) (2 ^ 63 - 1) s

/-- FCVT.LU.D (R223). -/
def execFcvtLuD (g : Guard) (d a : BitVec 5) (s : State) : Res :=
  fpToInt (.fcvtLuD g d a) g scD d a 0 (2 ^ 64 - 1) s

/-- FCVT.D.L (R223). -/
def execFcvtDL (g : Guard) (d a : BitVec 5) (s : State) : Res :=
  fpOfInt (.fcvtDL g d a) g scD d a s fun v => v.toInt

/-- FCVT.D.LU (R223). -/
def execFcvtDLu (g : Guard) (d a : BitVec 5) (s : State) : Res :=
  fpOfInt (.fcvtDLu g d a) g scD d a s fun v => (v.toNat : Int)

/-- FCVT.L.S (R223). -/
def execFcvtLS (g : Guard) (d a : BitVec 5) (s : State) : Res :=
  fpToInt (.fcvtLS g d a) g scS d a (-2 ^ 63) (2 ^ 63 - 1) s

/-- FCVT.LU.S (R223). -/
def execFcvtLuS (g : Guard) (d a : BitVec 5) (s : State) : Res :=
  fpToInt (.fcvtLuS g d a) g scS d a 0 (2 ^ 64 - 1) s

/-- FCVT.S.L (R223). -/
def execFcvtSL (g : Guard) (d a : BitVec 5) (s : State) : Res :=
  fpOfInt (.fcvtSL g d a) g scS d a s fun v => v.toInt

/-- FCVT.S.LU (R223). -/
def execFcvtSLu (g : Guard) (d a : BitVec 5) (s : State) : Res :=
  fpOfInt (.fcvtSLu g d a) g scS d a s fun v => (v.toNat : Int)

/-- FCLASS (R224). -/
def execFclass (g : Guard) (d a : BitVec 5) (s : State) : Res :=
  gated (.fclass g d a) g [] (some d) false s fun s =>
    doneG (.fclass g d a) s [] d (BitVec.ofNat 64 (2 ^ scD.fmt.classify (scD.bits s.me.ctx a)))

/-- FCLASS.S (R224). -/
def execFclassS (g : Guard) (d a : BitVec 5) (s : State) : Res :=
  gated (.fclassS g d a) g [] (some d) false s fun s =>
    doneG (.fclassS g d a) s [] d (BitVec.ofNat 64 (2 ^ scS.fmt.classify (scS.bits s.me.ctx a)))

/-- FMVG (R224). -/
def execFmvg (g : Guard) (d a : BitVec 5) (s : State) : Res :=
  gated (.fmvg g d a) g [] (some d) false s fun s => doneG (.fmvg g d a) s [] d (s.me.ctx.rf (low4 a))

/-- GMVF (R224). -/
def execGmvf (g : Guard) (d a : BitVec 5) (s : State) : Res :=
  gated (.gmvf g d a) g [a] none false s fun s =>
    .next (((s.popSrcs [a]).putF d (s.src a)).retireTo (nextPc (.gmvf g d a) s))

/-- FLI (R170). -/
def execFli (g : Guard) (d : BitVec 5) (imm : BitVec 16) (s : State) : Res :=
  guarded (.fli g d imm) g s fun s => .next ((s.putF d (fliD imm)).retireTo (nextPc (.fli g d imm) s))

/-- FLI.S (R170). -/
def execFliS (g : Guard) (d : BitVec 5) (imm : BitVec 16) (s : State) : Res :=
  guarded (.fliS g d imm) g s fun s => .next ((s.putF d (boxed (fliBits imm))).retireTo (nextPc (.fliS g d imm) s))

end Sys2Proof.Machine
end

