-- ==== Sys2Proof/Machine/Dispatch.lean ====
section
/-!
DEFINITION. Sys2Proof/Machine/Dispatch.lean: one arm per constructor of Instr, each one call of that instruction's meaning.
-/

namespace Sys2Proof.Machine

def exec (i : Instr) (s : State) : Host.Outcome State Fault Refusal :=
  match i with
  | .add g d a b => Sys2Proof.Machine.execAdd g d a b s
  | .addW g d a b => Sys2Proof.Machine.execAddW g d a b s
  | .sub g d a b => Sys2Proof.Machine.execSub g d a b s
  | .subW g d a b => Sys2Proof.Machine.execSubW g d a b s
  | .mul g d a b => Sys2Proof.Machine.execMul g d a b s
  | .mulW g d a b => Sys2Proof.Machine.execMulW g d a b s
  | .mulh g d a b => Sys2Proof.Machine.execMulh g d a b s
  | .mulhu g d a b => Sys2Proof.Machine.execMulhu g d a b s
  | .div g d a b => Sys2Proof.Machine.execDiv g d a b s
  | .divW g d a b => Sys2Proof.Machine.execDivW g d a b s
  | .divu g d a b => Sys2Proof.Machine.execDivu g d a b s
  | .divuW g d a b => Sys2Proof.Machine.execDivuW g d a b s
  | .rem g d a b => Sys2Proof.Machine.execRem g d a b s
  | .remW g d a b => Sys2Proof.Machine.execRemW g d a b s
  | .remu g d a b => Sys2Proof.Machine.execRemu g d a b s
  | .remuW g d a b => Sys2Proof.Machine.execRemuW g d a b s
  | .min g d a b => Sys2Proof.Machine.execMin g d a b s
  | .max g d a b => Sys2Proof.Machine.execMax g d a b s
  | .minu g d a b => Sys2Proof.Machine.execMinu g d a b s
  | .maxu g d a b => Sys2Proof.Machine.execMaxu g d a b s
  | .and g d a b => Sys2Proof.Machine.execAnd g d a b s
  | .or g d a b => Sys2Proof.Machine.execOr g d a b s
  | .xor g d a b => Sys2Proof.Machine.execXor g d a b s
  | .shl g d a b => Sys2Proof.Machine.execShl g d a b s
  | .shlW g d a b => Sys2Proof.Machine.execShlW g d a b s
  | .shr g d a b => Sys2Proof.Machine.execShr g d a b s
  | .shrW g d a b => Sys2Proof.Machine.execShrW g d a b s
  | .sra g d a b => Sys2Proof.Machine.execSra g d a b s
  | .sraW g d a b => Sys2Proof.Machine.execSraW g d a b s
  | .clz g d a => Sys2Proof.Machine.execClz g d a s
  | .clzW g d a => Sys2Proof.Machine.execClzW g d a s
  | .ctz g d a => Sys2Proof.Machine.execCtz g d a s
  | .ctzW g d a => Sys2Proof.Machine.execCtzW g d a s
  | .popc g d a => Sys2Proof.Machine.execPopc g d a s
  | .popcW g d a => Sys2Proof.Machine.execPopcW g d a s
  | .sextB g d a => Sys2Proof.Machine.execSextB g d a s
  | .sextH g d a => Sys2Proof.Machine.execSextH g d a s
  | .sextW g d a => Sys2Proof.Machine.execSextW g d a s
  | .zextB g d a => Sys2Proof.Machine.execZextB g d a s
  | .zextH g d a => Sys2Proof.Machine.execZextH g d a s
  | .zextW g d a => Sys2Proof.Machine.execZextW g d a s
  | .addi g d a imm => Sys2Proof.Machine.execAddi g d a imm s
  | .addiW g d a imm => Sys2Proof.Machine.execAddiW g d a imm s
  | .andi g d a imm => Sys2Proof.Machine.execAndi g d a imm s
  | .ori g d a imm => Sys2Proof.Machine.execOri g d a imm s
  | .xori g d a imm => Sys2Proof.Machine.execXori g d a imm s
  | .shlImm g d a sh => Sys2Proof.Machine.execShlImm g d a sh s
  | .shlWImm g d a sh => Sys2Proof.Machine.execShlWImm g d a sh s
  | .shrImm g d a sh => Sys2Proof.Machine.execShrImm g d a sh s
  | .shrWImm g d a sh => Sys2Proof.Machine.execShrWImm g d a sh s
  | .sraImm g d a sh => Sys2Proof.Machine.execSraImm g d a sh s
  | .sraWImm g d a sh => Sys2Proof.Machine.execSraWImm g d a sh s
  | .li g d imm => Sys2Proof.Machine.execLi g d imm s
  | .lih g d imm => Sys2Proof.Machine.execLih g d imm s
  | .addpc g d imm => Sys2Proof.Machine.execAddpc g d imm s
  | .cmpEqImm g d a imm => Sys2Proof.Machine.execCmpEqImm g d a imm s
  | .cmpNeImm g d a imm => Sys2Proof.Machine.execCmpNeImm g d a imm s
  | .cmpLtImm g d a imm => Sys2Proof.Machine.execCmpLtImm g d a imm s
  | .cmpLeImm g d a imm => Sys2Proof.Machine.execCmpLeImm g d a imm s
  | .cmpLtuImm g d a imm => Sys2Proof.Machine.execCmpLtuImm g d a imm s
  | .cmpLeuImm g d a imm => Sys2Proof.Machine.execCmpLeuImm g d a imm s
  | .cmpEq g d a b => Sys2Proof.Machine.execCmpEq g d a b s
  | .cmpNe g d a b => Sys2Proof.Machine.execCmpNe g d a b s
  | .cmpLt g d a b => Sys2Proof.Machine.execCmpLt g d a b s
  | .cmpLe g d a b => Sys2Proof.Machine.execCmpLe g d a b s
  | .cmpLtu g d a b => Sys2Proof.Machine.execCmpLtu g d a b s
  | .cmpLeu g d a b => Sys2Proof.Machine.execCmpLeu g d a b s
  | .gand g d a b => Sys2Proof.Machine.execGand g d a b s
  | .gor g d a b => Sys2Proof.Machine.execGor g d a b s
  | .gxor g d a b => Sys2Proof.Machine.execGxor g d a b s
  | .gnot g d a => Sys2Proof.Machine.execGnot g d a s
  | .br g off => Sys2Proof.Machine.execBr g off s
  | .bl g off => Sys2Proof.Machine.execBl g off s
  | .bi g a imm => Sys2Proof.Machine.execBi g a imm s
  | .rep g a imm => Sys2Proof.Machine.execRep g a imm s
  | .waitch g a => Sys2Proof.Machine.execWaitch g a s
  | .yield g => Sys2Proof.Machine.execYield g s
  | .exit g => Sys2Proof.Machine.execExit g s
  | .syncd g => Sys2Proof.Machine.execSyncd g s
  | .wfe g => Sys2Proof.Machine.execWfe g s
  | .eret g => Sys2Proof.Machine.execEret g s
  | .bkpt g => Sys2Proof.Machine.execBkpt g s
  | .bara g n => Sys2Proof.Machine.execBara g n s
  | .barw g n => Sys2Proof.Machine.execBarw g n s
  | .sel g d a b p => Sys2Proof.Machine.execSel g d a b p s
  | .ldB g d a off => Sys2Proof.Machine.execLdB g d a off s
  | .ldBu g d a off => Sys2Proof.Machine.execLdBu g d a off s
  | .ldH g d a off => Sys2Proof.Machine.execLdH g d a off s
  | .ldHu g d a off => Sys2Proof.Machine.execLdHu g d a off s
  | .ldW g d a off => Sys2Proof.Machine.execLdW g d a off s
  | .ldWu g d a off => Sys2Proof.Machine.execLdWu g d a off s
  | .ldD g d a off => Sys2Proof.Machine.execLdD g d a off s
  | .extr g d a wm1 pos => Sys2Proof.Machine.execExtr g d a wm1 pos s
  | .stB g x a off => Sys2Proof.Machine.execStB g x a off s
  | .stH g x a off => Sys2Proof.Machine.execStH g x a off s
  | .stW g x a off => Sys2Proof.Machine.execStW g x a off s
  | .stD g x a off => Sys2Proof.Machine.execStD g x a off s
  | .ldf g d a off => Sys2Proof.Machine.execLdf g d a off s
  | .ldfS g d a off => Sys2Proof.Machine.execLdfS g d a off s
  | .stf g x a off => Sys2Proof.Machine.execStf g x a off s
  | .stfS g x a off => Sys2Proof.Machine.execStfS g x a off s
  | .ldcW g d a off => Sys2Proof.Machine.execLdcW g d a off s
  | .ldcWu g d a off => Sys2Proof.Machine.execLdcWu g d a off s
  | .ldcD g d a off => Sys2Proof.Machine.execLdcD g d a off s
  | .pref g lvl a off => Sys2Proof.Machine.execPref g lvl a off s
  | .aadd g d a b => Sys2Proof.Machine.execAadd g d a b s
  | .aaddW g d a b => Sys2Proof.Machine.execAaddW g d a b s
  | .aand g d a b => Sys2Proof.Machine.execAand g d a b s
  | .aandW g d a b => Sys2Proof.Machine.execAandW g d a b s
  | .aor g d a b => Sys2Proof.Machine.execAor g d a b s
  | .aorW g d a b => Sys2Proof.Machine.execAorW g d a b s
  | .axor g d a b => Sys2Proof.Machine.execAxor g d a b s
  | .axorW g d a b => Sys2Proof.Machine.execAxorW g d a b s
  | .amin g d a b => Sys2Proof.Machine.execAmin g d a b s
  | .aminW g d a b => Sys2Proof.Machine.execAminW g d a b s
  | .amax g d a b => Sys2Proof.Machine.execAmax g d a b s
  | .amaxW g d a b => Sys2Proof.Machine.execAmaxW g d a b s
  | .aminu g d a b => Sys2Proof.Machine.execAminu g d a b s
  | .aminuW g d a b => Sys2Proof.Machine.execAminuW g d a b s
  | .amaxu g d a b => Sys2Proof.Machine.execAmaxu g d a b s
  | .amaxuW g d a b => Sys2Proof.Machine.execAmaxuW g d a b s
  | .aswp g d a b => Sys2Proof.Machine.execAswp g d a b s
  | .aswpW g d a b => Sys2Proof.Machine.execAswpW g d a b s
  | .acas g d a b => Sys2Proof.Machine.execAcas g d a b s
  | .acasW g d a b => Sys2Proof.Machine.execAcasW g d a b s
  | .fadd g d a b => Sys2Proof.Machine.execFadd g d a b s
  | .faddS g d a b => Sys2Proof.Machine.execFaddS g d a b s
  | .fsub g d a b => Sys2Proof.Machine.execFsub g d a b s
  | .fsubS g d a b => Sys2Proof.Machine.execFsubS g d a b s
  | .fmul g d a b => Sys2Proof.Machine.execFmul g d a b s
  | .fmulS g d a b => Sys2Proof.Machine.execFmulS g d a b s
  | .fdiv g d a b => Sys2Proof.Machine.execFdiv g d a b s
  | .fdivS g d a b => Sys2Proof.Machine.execFdivS g d a b s
  | .fsqrt g d a => Sys2Proof.Machine.execFsqrt g d a s
  | .fsqrtS g d a => Sys2Proof.Machine.execFsqrtS g d a s
  | .ffma g d a b => Sys2Proof.Machine.execFfma g d a b s
  | .ffmaS g d a b => Sys2Proof.Machine.execFfmaS g d a b s
  | .fmin g d a b => Sys2Proof.Machine.execFmin g d a b s
  | .fminS g d a b => Sys2Proof.Machine.execFminS g d a b s
  | .fmax g d a b => Sys2Proof.Machine.execFmax g d a b s
  | .fmaxS g d a b => Sys2Proof.Machine.execFmaxS g d a b s
  | .fcmpEq g d a b => Sys2Proof.Machine.execFcmpEq g d a b s
  | .fcmpEqS g d a b => Sys2Proof.Machine.execFcmpEqS g d a b s
  | .fcmpLt g d a b => Sys2Proof.Machine.execFcmpLt g d a b s
  | .fcmpLtS g d a b => Sys2Proof.Machine.execFcmpLtS g d a b s
  | .fcmpLe g d a b => Sys2Proof.Machine.execFcmpLe g d a b s
  | .fcmpLeS g d a b => Sys2Proof.Machine.execFcmpLeS g d a b s
  | .fcmpUn g d a b => Sys2Proof.Machine.execFcmpUn g d a b s
  | .fcmpUnS g d a b => Sys2Proof.Machine.execFcmpUnS g d a b s
  | .fcvtSD g d a => Sys2Proof.Machine.execFcvtSD g d a s
  | .fcvtDS g d a => Sys2Proof.Machine.execFcvtDS g d a s
  | .fcvtLD g d a => Sys2Proof.Machine.execFcvtLD g d a s
  | .fcvtLuD g d a => Sys2Proof.Machine.execFcvtLuD g d a s
  | .fcvtLS g d a => Sys2Proof.Machine.execFcvtLS g d a s
  | .fcvtLuS g d a => Sys2Proof.Machine.execFcvtLuS g d a s
  | .fcvtDL g d a => Sys2Proof.Machine.execFcvtDL g d a s
  | .fcvtDLu g d a => Sys2Proof.Machine.execFcvtDLu g d a s
  | .fcvtSL g d a => Sys2Proof.Machine.execFcvtSL g d a s
  | .fcvtSLu g d a => Sys2Proof.Machine.execFcvtSLu g d a s
  | .fclass g d a => Sys2Proof.Machine.execFclass g d a s
  | .fclassS g d a => Sys2Proof.Machine.execFclassS g d a s
  | .fmvg g d a => Sys2Proof.Machine.execFmvg g d a s
  | .gmvf g d a => Sys2Proof.Machine.execGmvf g d a s
  | .fli g d imm => Sys2Proof.Machine.execFli g d imm s
  | .fliS g d imm => Sys2Proof.Machine.execFliS g d imm s
  | .ins g d a wm1 pos => Sys2Proof.Machine.execIns g d a wm1 pos s
  | .slnew g d a b => Sys2Proof.Machine.execSlnew g d a b s
  | .slmap g d a => Sys2Proof.Machine.execSlmap g d a s
  | .sldup g d a => Sys2Proof.Machine.execSldup g d a s
  | .sldrop g a => Sys2Proof.Machine.execSldrop g a s
  | .hmov g d a => Sys2Proof.Machine.execHmov g d a s
  | .slxfer g d a => Sys2Proof.Machine.execSlxfer g d a s
  | .hrecv g d a => Sys2Proof.Machine.execHrecv g d a s
  | .flnew g d a b => Sys2Proof.Machine.execFlnew g d a b s
  | .flawait g a b => Sys2Proof.Machine.execFlawait g a b s
  | .flrel g a b => Sys2Proof.Machine.execFlrel g a b s
  | .chclose g a => Sys2Proof.Machine.execChclose g a s
  | .scm g d a => Sys2Proof.Machine.execScm g d a s
  | .scw g a => Sys2Proof.Machine.execScw g a s
  | .dlaunch g d a => Sys2Proof.Machine.execDlaunch g d a s
  | .rsvpin g d a b => Sys2Proof.Machine.execRsvpin g d a b s
  | .rsvunpin g a => Sys2Proof.Machine.execRsvunpin g a s
  | .ctron g k => Sys2Proof.Machine.execCtron g k s
  | .ctroff g k => Sys2Proof.Machine.execCtroff g k s
  | .ctrrd g d k => Sys2Proof.Machine.execCtrrd g d k s
  | .tlbinv g a => Sys2Proof.Machine.execTlbinv g a s
  | .mfs g d sr => Sys2Proof.Machine.execMfs g d sr s
  | .mts g sr a => Sys2Proof.Machine.execMts g sr a s
  | .nstepi g imm => Sys2Proof.Machine.execNstepi g imm s
  | .trap g imm => Sys2Proof.Machine.execTrap g imm s
  | .ctrsel g k ev => Sys2Proof.Machine.execCtrsel g k ev s
  | .mark g imm => Sys2Proof.Machine.execMark g imm s
  | .trig g line => Sys2Proof.Machine.execTrig g line s
  | .chbind g d ch => Sys2Proof.Machine.execChbind g d ch s
  | .nop low => Sys2Proof.Machine.execNop low s
  | .liw g d two l0 l1 => Sys2Proof.Machine.execLiw g d two l0 l1 s
  | .sci g d a cmd => Sys2Proof.Machine.execSci g d a cmd s
  | .scNop => Sys2Proof.Machine.execScNop s
  | .scBind port cls => Sys2Proof.Machine.execScBind port cls s
  | .scFence => Sys2Proof.Machine.execScFence s
  | .scTok port ch tag => Sys2Proof.Machine.execScTok port ch tag s
  | .scDrain port => Sys2Proof.Machine.execScDrain port s
  | .scCopy port blk => Sys2Proof.Machine.execScCopy port blk s
  | .scRcopy port blk rop st => Sys2Proof.Machine.execScRcopy port blk rop st s
  | .scGath port blk esz lim => Sys2Proof.Machine.execScGath port blk esz lim s
  | .scScat port blk esz lim => Sys2Proof.Machine.execScScat port blk esz lim s
  | .scFlume port nslot => Sys2Proof.Machine.execScFlume port nslot s
  | .scSlfill port blk => Sys2Proof.Machine.execScSlfill port blk s
  | .scSlsee port blk => Sys2Proof.Machine.execScSlsee port blk s
  | .scCfg blk => Sys2Proof.Machine.execScCfg blk s
  | .scSwap => Sys2Proof.Machine.execScSwap s
  | .scJob port blk => Sys2Proof.Machine.execScJob port blk s
  | .scHalo port blk => Sys2Proof.Machine.execScHalo port blk s
  | .scColl port blk => Sys2Proof.Machine.execScColl port blk s
  | .pdot => Sys2Proof.Machine.execPdot s
  | .pdots => Sys2Proof.Machine.execPdots s
  | .pdotm => Sys2Proof.Machine.execPdotm s
  | .accsw => Sys2Proof.Machine.execAccsw s
  | .drain => Sys2Proof.Machine.execDrain s
  | .enc => Sys2Proof.Machine.execEnc s
  | .dec => Sys2Proof.Machine.execDec s
  | .padd => Sys2Proof.Machine.execPadd s
  | .pscl => Sys2Proof.Machine.execPscl s
  | .pneg => Sys2Proof.Machine.execPneg s
  | .pmsk => Sys2Proof.Machine.execPmsk s
  | .eadd => Sys2Proof.Machine.execEadd s
  | .esub => Sys2Proof.Machine.execEsub s
  | .emul => Sys2Proof.Machine.execEmul s
  | .efma => Sys2Proof.Machine.execEfma s
  | .emin => Sys2Proof.Machine.execEmin s
  | .emax => Sys2Proof.Machine.execEmax s
  | .ecmp => Sys2Proof.Machine.execEcmp s
  | .esel => Sys2Proof.Machine.execEsel s
  | .eexp2 => Sys2Proof.Machine.execEexp2 s
  | .elog2 => Sys2Proof.Machine.execElog2 s
  | .ercp => Sys2Proof.Machine.execErcp s
  | .ersq => Sys2Proof.Machine.execErsq s
  | .cvtBf16Fp32 => Sys2Proof.Machine.execCvtBf16Fp32 s
  | .cvtFp16Fp32 => Sys2Proof.Machine.execCvtFp16Fp32 s
  | .cvtE4m3Fp32 => Sys2Proof.Machine.execCvtE4m3Fp32 s
  | .cvtE5m2Fp32 => Sys2Proof.Machine.execCvtE5m2Fp32 s
  | .cvtInt8Fp32 => Sys2Proof.Machine.execCvtInt8Fp32 s
  | .cvtI4sFp32 => Sys2Proof.Machine.execCvtI4sFp32 s
  | .cvtFp32Bf16 => Sys2Proof.Machine.execCvtFp32Bf16 s
  | .cvtFp32Fp16 => Sys2Proof.Machine.execCvtFp32Fp16 s
  | .cvtFp32E4m3 => Sys2Proof.Machine.execCvtFp32E4m3 s
  | .cvtFp32E5m2 => Sys2Proof.Machine.execCvtFp32E5m2 s
  | .cvtFp32Int8 => Sys2Proof.Machine.execCvtFp32Int8 s
  | .cvtFp32I4s => Sys2Proof.Machine.execCvtFp32I4s s
  | .join => Sys2Proof.Machine.execJoin s
  | .merge => Sys2Proof.Machine.execMerge s
  | .filt => Sys2Proof.Machine.execFilt s
  | .agloop => Sys2Proof.Machine.execAgloop s
  | .agld => Sys2Proof.Machine.execAgld s
  | .agst => Sys2Proof.Machine.execAgst s
  | .agred => Sys2Proof.Machine.execAgred s
  | .aggath => Sys2Proof.Machine.execAggath s
  | .repl => Sys2Proof.Machine.execRepl s
  | .tokq => Sys2Proof.Machine.execTokq s
  | .pass => Sys2Proof.Machine.execPass s
  | .asyncTrapTake => Sys2Proof.Machine.execAsyncTrapTake s
  | .sleepingInstructionRetire => Sys2Proof.Machine.execSleepingInstructionRetire s
  | .stallRelease => Sys2Proof.Machine.execStallRelease s
  | .commandRetire => Sys2Proof.Machine.execCommandRetire s
  | .jobOvertake => Sys2Proof.Machine.execJobOvertake s
  | .tokenChannelPush => Sys2Proof.Machine.execTokenChannelPush s
  | .flumeSlotRetire => Sys2Proof.Machine.execFlumeSlotRetire s
  | .haloMessageArrival => Sys2Proof.Machine.execHaloMessageArrival s
  | .collSum => Sys2Proof.Machine.execCollSum s
  | .planeDrain => Sys2Proof.Machine.execPlaneDrain s
  | .controlTokenPass => Sys2Proof.Machine.execControlTokenPass s
  | .tokenLinkTransfer => Sys2Proof.Machine.execTokenLinkTransfer s
  | .channelWordArrival => Sys2Proof.Machine.execChannelWordArrival s
  | .spillfull => Sys2Proof.Machine.execSpillfull s
  | .watchdog => Sys2Proof.Machine.execWatchdog s
  | .intervalMerge => Sys2Proof.Machine.execIntervalMerge s
  | .atomicRoundClose => Sys2Proof.Machine.execAtomicRoundClose s
  | .barrierPhaseComplete => Sys2Proof.Machine.execBarrierPhaseComplete s
  | .dieAck => Sys2Proof.Machine.execDieAck s
  | .launch => Sys2Proof.Machine.execLaunch s
  | .workBlockWalk => Sys2Proof.Machine.execWorkBlockWalk s
  | .allocatorDecision => Sys2Proof.Machine.execAllocatorDecision s
  | .headHoldPreempt => Sys2Proof.Machine.execHeadHoldPreempt s
  | .taskStart => Sys2Proof.Machine.execTaskStart s
  | .taskRetire => Sys2Proof.Machine.execTaskRetire s
  | .preempt => Sys2Proof.Machine.execPreempt s
  | .preemptSaveDone => Sys2Proof.Machine.execPreemptSaveDone s
  | .ingressMeter => Sys2Proof.Machine.execIngressMeter s
  | .linkFailure => Sys2Proof.Machine.execLinkFailure s
  | .linkFlitReceive => Sys2Proof.Machine.execLinkFlitReceive s
  | .handleReleaseMessage => Sys2Proof.Machine.execHandleReleaseMessage s
  | .bankreq => Sys2Proof.Machine.execBankreq s
  | .bankModeChangeDone => Sys2Proof.Machine.execBankModeChangeDone s
  | .ptctlMode => Sys2Proof.Machine.execPtctlMode s
  | .tileModeChangeDone => Sys2Proof.Machine.execTileModeChangeDone s
  | .ptctlRunStart => Sys2Proof.Machine.execPtctlRunStart s
  | .ptctlRunStop => Sys2Proof.Machine.execPtctlRunStop s
  | .pushUnit => Sys2Proof.Machine.execPushUnit s
  | .tcopResume => Sys2Proof.Machine.execTcopResume s
  | .tcopKill => Sys2Proof.Machine.execTcopKill s
  | .unmap => Sys2Proof.Machine.execUnmap s
  | .unmapComplete => Sys2Proof.Machine.execUnmapComplete s
  | .bar2Access => Sys2Proof.Machine.execBar2Access s
  | .registerWrite => Sys2Proof.Machine.execRegisterWrite s
  | .attach => Sys2Proof.Machine.execAttach s
  | .detach => Sys2Proof.Machine.execDetach s
  | .stop => Sys2Proof.Machine.execStop s
  | .go => Sys2Proof.Machine.execGo s
  | .dump => Sys2Proof.Machine.execDump s
  | .wrctl => Sys2Proof.Machine.execWrctl s
  | .load => Sys2Proof.Machine.execLoad s
  | .triggerLineAssert => Sys2Proof.Machine.execTriggerLineAssert s
  | .triggerSinkReach => Sys2Proof.Machine.execTriggerSinkReach s
  | .trctlUnfreeze => Sys2Proof.Machine.execTrctlUnfreeze s
  | .samplePeriod => Sys2Proof.Machine.execSamplePeriod s
  | .millPowerGate => Sys2Proof.Machine.execMillPowerGate s
  | .millPowerUp => Sys2Proof.Machine.execMillPowerUp s
  | .counterWrap => Sys2Proof.Machine.execCounterWrap s
  | .replayStart => Sys2Proof.Machine.execReplayStart s
  | .replayPassEnd => Sys2Proof.Machine.execReplayPassEnd s
  | .gettel => Sys2Proof.Machine.execGettel s
  | .getlife => Sys2Proof.Machine.execGetlife s
  | .setlim => Sys2Proof.Machine.execSetlim s
  | .fwstage => Sys2Proof.Machine.execFwstage s
  | .fwact => Sys2Proof.Machine.execFwact s
  | .fwcommit => Sys2Proof.Machine.execFwcommit s
  | .getharv => Sys2Proof.Machine.execGetharv s
  | .retire => Sys2Proof.Machine.execRetire s
  | .setpart => Sys2Proof.Machine.execSetpart s
  | .setworld => Sys2Proof.Machine.execSetworld s
  | .setsr => Sys2Proof.Machine.execSetsr s
  | .loadkey => Sys2Proof.Machine.execLoadkey s
  | .setkmask => Sys2Proof.Machine.execSetkmask s
  | .settrig => Sys2Proof.Machine.execSettrig s
  | .setig => Sys2Proof.Machine.execSetig s
  | .getpart => Sys2Proof.Machine.execGetpart s
  | .nonce => Sys2Proof.Machine.execNonce s
  | .auth => Sys2Proof.Machine.execAuth s
  | .unsupportedCommand => Sys2Proof.Machine.execUnsupportedCommand s
  | .sessionTimeout => Sys2Proof.Machine.execSessionTimeout s
  | .limitInterval => Sys2Proof.Machine.execLimitInterval s
  | .thermalShutdown => Sys2Proof.Machine.execThermalShutdown s
  | .lifetimeCommit => Sys2Proof.Machine.execLifetimeCommit s
  | .resetBoot => Sys2Proof.Machine.execResetBoot s
  | .wheelhouseWakeRequest => Sys2Proof.Machine.execWheelhouseWakeRequest s
  | .supplyDroop => Sys2Proof.Machine.execSupplyDroop s
  | .powerLoss => Sys2Proof.Machine.execPowerLoss s
  | .tapInstruction => Sys2Proof.Machine.execTapInstruction s

end Sys2Proof.Machine
end

