-- ==== Sys2Proof/Machine/Agenda.lean ====
section
/-!
DEFINITION. Sys2Proof/Machine/Agenda.lean: who moves. A cycle begins with the list of what is due in it (R31 to R33, R113,
R120, R295), in groups where the spec fixes what comes before what; the entries of a group run one at a time in an order the spec
does not fix (log 4), each as one step. Here too: how a context issues (R32, R135 to R137, R164, R167), the quad bus (R29, R316), how
a command, an element and an event come to run, and how a word is placed so that it runs next (log 6).
-/

namespace Sys2Proof.Machine

/-! ## Issuing (R32, R33) -/

/-- What fetching the instruction at PC gives. -/
inductive Next where
  | instr (i : Instr) (s : State)
  | illegal (w : BitVec 32) (s : State)
  | trap (s : State) (cause : BitVec 8) (va : Word)
  | wait (w : WaitOn)

/-- A fetch that gives no word. -/
def nextOf : Fetched → Next
  | .ok w s => .illegal w s
  | .trap s c va => .trap s c va
  | .wait w => .wait w

/-- The instruction at the acting context's PC (R163, R164, R167): the literals of an instruction whose guard is false are not
fetched (R19). -/
def fetchNext (s : State) : Next :=
  let pc := s.me.ctx.pc
  match fetchWord s pc with
  | .ok w s1 =>
    match decodeMiller w 0 0 0 0 with
    | .error _ => .illegal w s1
    | .ok i =>
      if litsOf w = 0 || !s.me.ctx.guardTrue (wGuard w) then .instr i s1
      else match fetchLits s1 (pc + 4) (litsOf w) [] with
        | .error f => nextOf f
        | .ok (ls, s2) =>
          match decodeMiller w (ls.getD 0 0) (ls.getD 1 0) (ls.getD 2 0) (ls.getD 3 0) with
          | .ok j => .instr j (s2.fetchedAt pc)
          | .error _ => .illegal w s2
  | f => nextOf f

/-- A command whose retirement ends a step has retired or faulted (R155). -/
def Task.stepDone (t : Task) : Bool :=
  t.cmds.all fun c => c.seq != t.ctx.stepSeq || c.phase == .done || c.phase == .faulted

/-- The context can act at all: its task holds it and nothing stops it. -/
def Task.issues (t : Task) : Bool :=
  t.st == .placed && !t.saving && t.stop == .none && t.ctx.st != .free && t.ctx.st != .swapped

/-- A trap waits that the context takes at an issue slot. -/
def Ctx.trapDue (c : Ctx) : Bool := c.pend.any c.takes

/-- The instruction that the acting context waits in can go on; a restored one is issued again, whatever it waits for (R148). -/
def State.canGo (s : State) : Bool := (s.me.ctx.wait.sleeps && s.me.ctx.parked.isNone) || s.waitHolds

/-- The acting context is eligible (R32, R33, R227, R424): a sleeping one is not, until it has been woken. A stepping context whose
command has faulted goes on to the boundary that takes the fault (R155). -/
def State.eligible (s : State) : Bool :=
  s.me.issues && (s.me.ctx.trapDue || (s.me.ctx.st != .sleeping && s.me.stepDone && s.canGo))

/-- YIELD has the context passed over (R207): another context of its mill that is RUNNABLE has not issued since, and 16
cycles have not passed. -/
def State.passedOver (s : State) (t : Task) : Bool :=
  s.time < t.ctx.yield && s.all.any fun x =>
    x.id != t.id && x.issues && x.mill == t.mill && x.ctx.st != .sleeping && x.ctx.lastIssue + 16 ≤ t.ctx.yield

/-- The eligible contexts of a mill. -/
def State.ready (s : State) (mill : Nat) : List Task :=
  s.all.filter fun t => t.mill == mill && (match s.focus t.id with
    | some s1 => s1.eligible
    | none => false)

/-- The one that follows in cyclic order the context that issued last. -/
def nextInOrder (last : BitVec 4) (l : List Task) : Option Task :=
  (sortBy (fun (x y : Task) => (x.ctxNo - last - 1).toNat < (y.ctxNo - last - 1).toNat) l).head?

/-- What the issue slot of a context is for: a sleeping instruction that wakes, a stall that ends, an instruction or trap. -/
def issueAct (t : Task) : Act :=
  if t.ctx.trapDue || t.ctx.wait == .none || (t.ctx.wait.sleeps && t.ctx.parked.isNone) then .issue t.mill t.ctxNo
  else if t.ctx.wait.sleeps then .ev t.id 0 0 .sleepingInstructionRetire .none
  else .ev t.id 0 0 .stallRelease .none

/-- Mills on which a task is placed. -/
def State.busyMills (s : State) : List Nat := ((s.all.filter Task.isPlaced).map (·.mill)).eraseDups

/-- The instruction that a context would issue next reads a counter. -/
def State.readsCounter (s : State) (t : TaskId) : Bool :=
  match (s.focus t).map fetchNext with
  | some (.instr (.ctrrd ..) _) => true
  | _ => false

/-- The context that has the issue slot of a mill in a cycle. -/
def State.slotTask (s : State) (mill : Nat) : Option Task :=
  let l := s.ready mill
  let l1 := l.filter fun t => !s.passedOver t
  nextInOrder (s.mill mill).last (if l1.isEmpty then l else l1)

/-- The issue slots of a cycle in which a counter is read: their instructions come after what the fabric counts in the cycle (R254). -/
def State.issueSlots (s : State) (reads : Bool) : List Act :=
  ((s.busyMills.filterMap s.slotTask).filter fun t => s.readsCounter t.id == reads).map issueAct

/-! ## What is due for a task -/

/-- An event of a task. -/
def tev (t : Task) (i : Instr) : Act := .ev t.id 0 0 i .none

/-- What is due for a command. -/
def cmdActs (t : Task) (c : Cmd) : List Act :=
  match c.phase with
  | .accepted => [.cmd t.id c.seq]
  | .running => [.cmd t.id c.seq] ++
      (if c.op = 0x0C && c.sub = 1 then [.ev t.id c.seq 0 .flumeSlotRetire .none] else []) ++
      (if c.op = 0x12 && c.sub = 3 then [.ev t.id c.seq 0 .jobOvertake .none] else [])
  | .finished => [.ev t.id c.seq 0 .commandRetire .none]
  | _ => []

/-- Where the tokens of an element's outputs can go. -/
def outActs (t : Task) (e : Nat) (x : Elem) : List Act :=
  let link (l : LinkEnd) : Act := .ev t.id 0 e .tokenLinkTransfer { EvArg.none with lend := l }
  ((List.range 4).filter fun d => x.out.any fun o => o.dirs.getLsbD d).map (fun d => link (.out e (BitVec.ofNat 2 d))) ++
  (if x.out.any (·.quad) then [link (.quad e)] else []) ++ (if x.out.any (·.self) then [link (.own e)] else [])

/-- What is due for an element: its firing, the drain of its plane, control tokens that only observe it, its outputs. -/
def elemActs (t : Task) (e : Nat) : List Act :=
  let x := t.run.elem e
  let w := t.run.act.wordOf e
  if t.run.act.cells.getD e 0 = 0 then []
  else
    [.elem t.id e] ++
    (if isCell (eOp w).toNat && x.queue.head? == some none then [.ev t.id 0 e .planeDrain .none] else []) ++
    ([Opd.a, Opd.b, Opd.c].filter fun o => match x.slot o with
      | k :: _ => k.tok.observes
      | [] => false).map (fun o => .ev t.id 0 e .controlTokenPass { EvArg.none with opd := o }) ++
    outActs t e x

/-- What is due at a port: words for its element, a TAG to push. -/
def portActs (t : Task) (p : Nat) : List Act :=
  let x := t.run.port p
  (if x.inq.isEmpty then [] else [.ev t.id 0 0 .tokenLinkTransfer { EvArg.none with lend := .port p }]) ++
  (match x.ctlq with
    | (0, .ctl (.tag ..) _) :: _ => [.ev t.id 0 0 .tokenChannelPush { EvArg.none with n := p }]
    | _ => [])

/-- Commands that inject control tokens at ports (R293). -/
def injects (op : Nat) : Bool := op == 0x04 || op == 0x05 || op == 0x12

/-- What is due for a task that holds a run: but for what injects control tokens. -/
def State.taskActs (s : State) (t : Task) : List Act :=
  if t.st == .exited then (if t.mayRetire then [tev t .taskRetire] else [])
  else if !t.isPlaced then []
  else
    (if t.st == .placed && (t.ctx.st == .free || t.ctx.st == .swapped) then [tev t .taskStart] else []) ++
    (if t.saving then [tev t .preemptSaveDone] else []) ++
    (if t.st == .draining then [tev t .taskRetire] else []) ++
    (if t.eff.wdog ≠ 0 && t.ctx.waits && t.stop == .none && t.ctx.lastRetire + t.eff.wdogCycles ≤ s.time then [tev t .watchdog]
      else []) ++
    (match t.ctx.period with
      | some k => if t.sampleAt + 2 ^ k ≤ s.time then [tev t .samplePeriod] else []
      | none => []) ++
    ((List.range 4).filter fun i => ((t.ctx.ctrs.toList.map (·.wrapped.isSome)).getD i false)).map
      (fun i => .ev t.id 0 0 .counterWrap { EvArg.none with n := i }) ++
    (t.cmds.filter fun c => !injects c.op).flatMap (cmdActs t) ++
    (if t.run.gated || t.saving then [] else
      (List.range t.run.elems.length).flatMap (fun e =>
        if eOp (t.run.act.wordOf e) == 0x04 then (elemActs t e).drop 1 else elemActs t e) ++
      (List.range t.run.ports.length).flatMap (portActs t))

/-- What injects control tokens in a cycle, in the order in which R293 numbers them: commands in port order, then elements in index
order. -/
def State.injectors (s : State) : List Act :=
  let ts := s.all.filter Task.isPlaced
  let cs := ts.flatMap fun t => (t.cmds.filter fun c => injects c.op).map fun c => (t, c)
  (sortBy (fun (x y : Task × Cmd) => x.2.portNo < y.2.portNo) cs).flatMap (fun x => cmdActs x.1 x.2) ++
  ts.flatMap fun t => if t.run.gated || t.saving then [] else
    ((List.range t.run.elems.length).filter fun e => eOp (t.run.act.wordOf e) == 0x04).flatMap fun e => (elemActs t e).take 1

/-! ## What is due for the package -/

/-- A device event. -/
def dev (i : Instr) (a : EvArg) : Act := .dev i a

/-- Dies on which a task is placed. -/
def State.busyDies (s : State) : List Nat := ((s.all.filter Task.isPlaced).map fun t => dieOf t.mill).eraseDups

/-- A channel, as its events name it. -/
def Chan.arg (c : Chan) : EvArg := { EvArg.none with fn := c.fn, w := c.blk, k := c.ch.toNat }

/-- Words and messages on the way: what arrives in a cycle is there for what issues in it (R33). -/
def wireActs (c : Chan) : List Act :=
  (if c.wire.isEmpty then [] else [dev .channelWordArrival c.arg]) ++ (if c.msgWire.isEmpty then [] else [dev .haloMessageArrival c.arg])

/-- Areas that stay full. -/
def fullActs (c : Chan) : List Act := if c.fullSince.isSome && !c.reported then [dev .spillfull c.arg] else []

/-- Deterministic groups: rounds that may close, the interval. -/
def groupActs (g : Group) : List Act :=
  (((g.rounds.filter fun r => r.res.isNone).map fun r => (r.loc, r.size)).eraseDups.map fun x =>
    dev .atomicRoundClose { EvArg.none with fn := g.fn, w := g.blk, k := x.1, n := x.2 }) ++
  [dev .intervalMerge { EvArg.none with fn := g.fn, w := g.blk }]

/-- The debug request in progress, by OP. -/
def dbgInstr (op : Nat) : List Instr :=
  match op with
  | 1 => [.attach]
  | 2 => [.detach]
  | 3 => [.stop]
  | 4 => [.go]
  | 5 => [.dump]
  | 6 => [.wrctl]
  | 7 => [.load]
  | _ => []

/-- Functions: launches, requests in progress, unmaps, a replay's pass. -/
def State.fnActs (s : State) (n : Nat) (f : Fn) : List Act :=
  let a : EvArg := { EvArg.none with fn := n }
  (if f.launches.isEmpty && (s.unentered n).isEmpty then [] else [dev .workBlockWalk a]) ++
  (if f.unmaps.isEmpty then [] else [dev .unmapComplete a]) ++
  (if s.passOver n then [dev .replayPassEnd a] else [])

/-- Requests of the driver and the debugger in progress: what fires and issues in the cycle comes before them (R408, R443). -/
def reqActs (n : Nat) (f : Fn) : List Act :=
  let a : EvArg := { EvArg.none with fn := n }
  (if f.tcbusy then [dev (if bitsAt f.tcop 32 2 = 1 then .tcopResume else .tcopKill) a] else []) ++
  (if f.dbgbusy then (dbgInstr f.dbgOpNo).map fun i => dev i a else [])

/-- Collective groups to which some command of the function has contributed. -/
def State.collActs (s : State) (n : Nat) (f : Fn) : List Act :=
  let ts := s.all.filter fun t => t.id.fn == n && t.cmds.any fun c => c.op = 0x19 && c.phase == .running
  if ts.isEmpty then []
  else ((List.range (bitsAt f.cgt 0 13)).filter fun g => ts.any fun t => (contributed t g).isSome).map fun g =>
    dev .collSum { EvArg.none with fn := n, k := g }

/-- The lowest phase that a sleeper of a barrier waits for. -/
def State.barPhase (s : State) (fn : Nat) (blk : Word) (b : BitVec 6) : Nat :=
  ((s.party fn blk).filter fun t => t.ctx.wait == .barrier b).foldl (fun m t => min m (t.ctx.barOf b).ara) (2 ^ 64)

/-- The barriers in which contexts are asleep and a phase is complete: function, node block, number. -/
def State.barActs (s : State) : List Act :=
  ((s.all.filterMap fun t => match t.ctx.wait with
    | .barrier b => if t.ctx.st == .sleeping then some (t.id.fn, t.id.blk, b) else none
    | _ => none).eraseDups.filter fun x => s.phaseDone x.1 x.2.1 x.2.2 (s.barPhase x.1 x.2.1 x.2.2)).map fun x =>
      dev .barrierPhaseComplete { EvArg.none with fn := x.1, w := x.2.1, n := x.2.2.toNat }

/-- The dies that have still to acknowledge cut launches. -/
def State.ackActs (s : State) : List Act :=
  (s.blks.filter fun b => b.isRoot && !b.started && !b.st.over).flatMap fun b =>
    (b.cut.filter fun d => !b.acks.contains d).map fun d => dev .dieAck { EvArg.none with fn := b.fn, w := b.addr, n := d }

/-- Source events of a die for a function since the last cycle, as TRIGCFG bits; TRIG and SRCDIE name their line. -/
def srcMask (l : List (Nat × Nat × Nat × Nat)) (fn die line : Nat) : Word :=
  l.foldl (fun (m : Word) x =>
    if x.1 == fn && x.2.1 == die && ((x.2.2.1 != 1 && x.2.2.1 != 10) || x.2.2.2 == line) then m ||| BitVec.ofNat 64 (2 ^ x.2.2.1)
    else m) 0

/-- A trigger line of a function, as its events name it. -/
def State.trigArg (s : State) (x : Nat × Nat) : EvArg :=
  { EvArg.none with fn := x.2, n := x.1 / 32, k := x.1 % 32, w := srcMask s.trigSrc x.2 (x.1 / 32) (x.1 % 32) }

/-- Trigger lines whose sources hold. -/
def State.trigActs (s : State) : List Act :=
  (s.wh.trigOwn.filter fun x => s.sources x.2 (x.1 / 32) (x.1 % 32) (s.trigArg x).w != 0).map fun x =>
    dev .triggerLineAssert (s.trigArg x)

/-- Trigger lines on their way to their sinks. -/
def State.sinkActs (s : State) : List Act :=
  s.wh.trigOwn.flatMap fun x =>
    ((s.die (x.1 / 32)).trig.filter fun y => y.1 == x.1 % 32).map fun _ => dev .triggerSinkReach (s.trigArg x)

/-- The wheelhouse controller's timers. -/
def State.whActs (s : State) : List Act :=
  (if (s.wh.ms + 1) * clockPerMs ≤ s.wh.clock then [dev .limitInterval .none] else []) ++
  (if !s.wh.shut && s.wh.temps.any (fun t => 115 ≤ t.2) then [dev .thermalShutdown .none] else []) ++
  (if s.wh.lifeAt + 60000 * clockPerMs ≤ s.wh.clock then [dev .lifetimeCommit .none] else []) ++
  (if s.wh.session && s.wh.lastReq + 600000 * clockPerMs ≤ s.wh.clock then [dev .sessionTimeout .none] else [])

/-- Mills and tiles, and what an allocator is about between its decisions. -/
def State.millActs (s : State) : List Act :=
  let at_ (n : Nat) : EvArg := { EvArg.none with n := n }
  (s.dies.filter fun d => match d.2.holder with
    | some h => h.2.2.2 + 65536 ≤ s.time
    | none => false).map (fun d => dev .headHoldPreempt (at_ d.1)) ++
  ((s.busyDies ++ (s.dies.filter fun d => igEn d.2.igctl).map (·.1)).eraseDups.map fun d => dev .ingressMeter (at_ d)) ++
  (s.mills.filter fun m => m.2.busy.isSome).map (fun m => dev .bankModeChangeDone (at_ m.1)) ++
  (s.tiles.filter fun t => t.2.busy.isSome).map (fun t => dev .tileModeChangeDone (at_ t.1)) ++
  (s.tiles.filter fun t => t.2.mode == 1 && t.2.run).map fun t => dev .pushUnit (at_ t.1)

/-- Mills that come up for the tasks placed on them, before those start. -/
def State.powerActs (s : State) : List Act :=
  (s.busyMills.filter fun m => !(s.mill m).on).map fun m => dev .millPowerUp { EvArg.none with n := m }

/-- What the outside presents: a pre-emption and a wake request name a task by function, block and index; of a request of the operator
byte 0 says which command it is (R452). -/
def inputAct (x : Instr × EvArg) : Act :=
  if isRequest x then .dev (requestInstr (x.2.bytes.getD 0 0).toNat) x.2
  else match x.1 with
  | .preempt => .ev ⟨x.2.fn, x.2.w, BitVec.ofNat 32 x.2.n⟩ 0 0 x.1 x.2
  | .wheelhouseWakeRequest => .ev ⟨x.2.fn, x.2.w, BitVec.ofNat 32 x.2.n⟩ 0 0 x.1 x.2
  | i => .dev i x.2

/-- The allocators decide in every eighth cycle (R382), on the budgets and slots as the cycle began (R393). -/
def State.allocActs (s : State) : List Act :=
  if s.time % 8 = 0 && s.dies.any (fun d => !d.2.queue.isEmpty) then [dev .allocatorDecision .none] else []

/-- What issues, fires and moves in a cycle, in no fixed order. -/
def State.mainActs (s : State) : List Act :=
  s.issueSlots false ++ s.all.flatMap s.taskActs ++ s.chans.flatMap fullActs ++ s.groups.flatMap groupActs ++
  s.fns.flatMap (fun f => s.fnActs f.1 f.2 ++ s.collActs f.1 f.2) ++ s.barActs ++ s.ackActs ++ s.trigActs ++ s.millActs

/-- An input pre-empts a task: it takes effect as the cycle ends, behind the traps of the cycle (R152). -/
def isPreempt (x : Instr × EvArg) : Bool := x.1 == .preempt

/-- The inputs of a cycle in the order in which they were presented, so that posted writes of a function act in order (R449). -/
def State.inputActs (s : State) (last : Bool) : List (List Act) := (s.inputs.filter fun x => isPreempt x == last).map fun x => [inputAct x]

/-- Everything due in a cycle, group by group. After a thermal shutdown the mills' clocks stand, and in recovery nothing but the
controller runs (R419, R458). -/
def due (s : State) : List (List Act) :=
  let runs (l : List (List Act)) : List (List Act) := if s.wh.shut || s.wh.recovery then [] else l
  (runs [s.allocActs] ++ s.inputActs false ++ [s.whActs] ++
    runs ([s.powerActs, s.chans.flatMap wireActs, s.mainActs] ++ s.injectors.map (fun a => [a]) ++
      [s.issueSlots true, s.fns.flatMap (fun f => reqActs f.1 f.2) ++ s.sinkActs]) ++
    s.inputActs true).filter fun l => !l.isEmpty

/-! ## The quad bus (R29, R316) -/

/-- Set what the acting agent is about. -/
def State.aim (s : State) (seq : BitVec 32) (e : Nat) (a : EvArg) : State :=
  { s with cur := ⟨seq, e, eFields (s.me.run.act.wordOf e), a⟩ }

/-- The element of the acting run would fire with such grants. -/
def State.fires (s : State) (e : Nat) (g : List Nat) : Bool :=
  match decodeElement (s.me.run.act.wordOf e) with
  | .error _ => false
  | .ok i => match exec i ((s.mapRun fun r => { r with grant := g }).aim 0 e .none) with
    | .next t => t.me.run.elem e != s.me.run.elem e
    | _ => false

/-- The elements of a run that ask for the quad bus: those that could fire with it and cannot without. -/
def State.busRequests (s : State) (t : Task) : List Nat :=
  if !t.isPlaced || t.run.gated || t.saving then []
  else match s.focus t.id with
    | none => []
    | some s1 => (List.range t.run.elems.length).filter fun e =>
        t.run.act.cells.getD e 0 != 0 && isBolter (eOp (t.run.act.wordOf e)).toNat && s1.fires e [e] && !s1.fires e []

/-- The quad of its mill in which an element of a run stands. -/
def Task.quadOf (t : Task) (e : Nat) : Nat := (t.stone + e % t.lanes / 8) / 4

/-- The one of some keys that follows the last one served, in ascending order and round. -/
def nextRound (last : Option Nat) (l : List Nat) : Option Nat :=
  let up := sortBy (fun (a b : Nat) => a < b) l
  match last with
  | none => up.head?
  | some k => (up.find? fun x => k < x).orElse fun _ => up.head?

/-- The element of a run that its turn in a quad falls to, in the order of element names. -/
def Task.turnOf (t : Task) (q : Nat) (es : List Nat) : Option Nat :=
  let key (e : Nat) : Nat := (elemName t e).toNat
  let last := (t.run.turns.find? fun x => x.1 == q).map fun x => key x.2
  (nextRound last (es.map key)).bind fun k => es.find? fun e => key e == k

/-- A quad of a mill grants one element: the runs that ask take turns, and in a run its elements. -/
def State.grantQuad (s : State) (rs : List (Task × List Nat)) (mill q : Nat) : State :=
  let here := (rs.filter fun x => x.1.mill == mill).map fun x => (x.1, x.2.filter fun e => x.1.quadOf e == q)
  let asks := here.filter fun x => !x.2.isEmpty
  let m := s.mill mill
  match nextRound ((m.quads.find? fun x => x.1 == q).map (·.2)) (asks.map fun x => x.1.stone) with
  | none => s
  | some k => match asks.find? fun x => x.1.stone == k with
    | none => s
    | some (t, es) => match t.turnOf q es with
      | none => s
      | some e => (s.setMill mill { m with quads := aset m.quads q k }).mapTask t.id fun x =>
          { x with run := { x.run with grant := e :: x.run.grant, turns := aset x.run.turns q e } }

/-- The grants of a cycle. -/
def State.grantAll (s : State) : State :=
  let rs := s.all.map fun t => (t, s.busRequests t)
  (s.busyMills.flatMap fun m => (List.range 4).map fun q => (m, q)).foldl (fun (st : State) x => st.grantQuad rs x.1 x.2) s

/-! ## A cycle begins -/

/-- Cycle counters of a placed task (R435). -/
def Task.countCycle (t : Task) : Task :=
  if !t.isPlaced then t
  else
    let c := t.ctx.count 0x000 1
    let c := if c.st == .sleeping then c.count 0x002 1 else c
    { t with ctx := if c.wait != .none && c.wait != .start && !c.wait.sleeps then c.count 0x003 1 else c }

/-- What a task keeps of one cycle only. -/
def Task.newCycle (t : Task) : Task :=
  ({ t with ctx := { t.ctx with atomSet := 0 }, run := { t.run with grant := [] } } : Task).countCycle

/-- Do something with each task that satisfies a test in focus. -/
def State.eachTask (s : State) (p : Task → Bool) (f : State → State) : State :=
  ((s.all.filter p).foldl (fun (st : State) t => st.asTask t.id f) s).asTask s.me.id id

/-- An error of a memory shows itself (R425, R459; errors come from outside, log 82): a line that cannot be corrected is bad until it
is so no longer. -/
def State.memError (s : State) : State :=
  let (n, s1) := s.choose
  match Config.memoryError n with
  | none => s1
  | some (kind, k, fn, die) =>
    let hbm (item : Nat) (st : State) : State :=
      if spaceOf k = spHbm then st.lifeAdd item (Config.hbmStack (lineOf k) % 12) 1 else st
    match kind with
    | 0 => ((if spaceOf k = spBank then s1.lifeAdd 1 (k % 2 ^ 60 / 65536) 1 else hbm 2 s1)).source fn die 3 0
    | 1 => hbm 3 { s1 with ecc := lineOf k :: s1.ecc }
    | _ => { s1 with ecc := s1.ecc.filter fun l => l != lineOf k }

/-- The cycle that ends: its re-latch tokens that no other token has gone behind enter (R293), its node stops take effect (R424), and
contexts whose wake condition has been met are RUNNABLE in the next cycle (R33). -/
def State.endCycle (s : State) : State :=
  let s1 := s.eachTask (fun t => !t.run.relq.isEmpty) (·.flushRelatch (2 ^ 64))
  let s2 := s1.eachTask (fun t => t.run.stopAt.isSome) State.nodeStop
  s2.eachTask (fun t => t.ctx.st == .sleeping) State.wake

/-- The next cycle: records move on, cycles are counted, the quad buses are granted, and the agenda holds what is due. -/
def State.tick (s : State) : State :=
  let s0 := s.endCycle
  let s1 := State.drainTrace { s0 with
    time := s0.time + 1, pinsOut := 0, wh := s0.wh.tick
    me := s0.me.newCycle
    tasks := s0.tasks.map Task.newCycle
    dies := s0.dies.map fun d => (d.1, d.2.igTake)
    flumes := s0.flumes.map fun f => { f with rd0 := f.rd } }
  let s2 := s1.memError.noteFull.grantAll
  { s2 with agenda := [], later := due s2, inputs := [], trigSrc := [] }

/-! ## One entry runs -/

/-- The CTXSW record of a restored context's first issue (R429). -/
def State.noteRestored (s : State) : State :=
  if s.me.restored then (s.trace 0x03 1 s.me.ctxid).mapMe fun t => { t with restored := false } else s

/-- An instruction that has gone to sleep is kept and not issued again (R33). -/
def State.park (i : Instr) (s : State) : State :=
  if s.me.ctx.st == .sleeping then s.mapCtx fun c => { c with parked := some i } else s

/-- Run an instruction of the acting context. -/
def runInstr (i : Instr) (s : State) : Res :=
  match exec i s with
  | .next t => .next (t.park i)
  | r => r

/-- The acting context takes its issue slot: a trap that waits, the end of a step, the sleeping instruction, or the
instruction at PC. -/
def issueMe (s : State) : Res :=
  if s.me.ctx.trapDue then exec .asyncTrapTake s
  else
    let s := s.noteRestored
    if s.me.ctx.stepSeq ≠ 0 then .next (s.mapCtx fun c => { c with stepSeq := 0 }).boundary
    else if s.me.waitsStart then .next (s.waitOn .start)
    else match s.me.ctx.parked with
      | some i => runInstr i s
      | none =>
        match fetchNext s with
        | .instr i s1 => runInstr i s1
        | .illegal w s1 => .next (s1.trapAt tcILLOP (w.setWidth 64))
        | .trap s1 c va => .next (s1.trapAt c va)
        | .wait w => .next (s.waitOn w)

/-- The slot of a mill's context is taken: it issued last. -/
def State.took (s : State) : State :=
  (s.setMill s.me.mill { s.mill s.me.mill with last := s.me.ctxNo }).mapCtx fun c => { c with lastIssue := s.time }

/-- Run an entry of the agenda. One whose task, command or element has gone in the meantime, or whose mill's clock has been
stopped, does nothing. -/
def runAct (a : Act) (s : State) : Res :=
  match a with
  | .issue mill c =>
    match (s.onCtx mill c).bind s.focus with
    | none => .next s
    | some s1 => if s1.me.issues then issueMe s1.took else .next s1
  | .cmd t q =>
    match s.focus t with
    | none => .next s
    | some s1 =>
      match s1.me.cmd? q with
      | none => .next s1
      | some c =>
        match decodeCommand c.word with
        | .ok i => exec i (s1.aim q 0 .none)
        | .error _ => .next s1
  | .elem t e =>
    match s.focus t with
    | none => .next s
    | some s1 =>
      match decodeElement (s1.me.run.act.wordOf e) with
      | .ok i => exec i (s1.aim 0 e .none)
      | .error _ => .next s1
  | .ev t q e i arg =>
    match s.focus t with
    | none => .next s
    | some s1 => exec i (s1.aim q e arg)
  | .dev i arg => exec i { s with cur := ⟨0, 0, ⟨0, 0, 0, 0, 0, 0⟩, arg⟩ }

/-- The entry that runs, the entries left, and the state with them: one entry needs no choice. -/
def pickAct (a : Act) (rest : List Act) (s : State) : Act × State :=
  if rest.isEmpty then (a, { s with agenda := [] })
  else
    let l := a :: rest
    let n := Config.pick s.free % l.length
    (l.getD n a, { s with agenda := l.eraseIdx n, free := s.free + 1 })

/-! ## A word placed to run next (log 6) -/

/-- The task that a placed word runs in: task 0 of a block at 0, on mill 0, stone 0, context 0. -/
def bareTask : Task :=
  { Task.idle with st := .placed, ctx := { Ctx.reset with st := .runnable } }

/-- The page of a placed miller word: a 1 GiB page at HBM 0x10_0000_0000 for VA 0x40_0000_0000 (as in the spec's replay
program), by tables at HBM 0x20_0000_0000. -/
def placedPc : Word := 0x4000000000

/-- Cells of a placed miller word: three table entries and the code. -/
def placedCells (w : Nat) : List (Nat × List Byte) :=
  [ (keyOf spHbm 0x1000000000, bytesOf 20 w),
    (keyOf spHbm 0x2000000000, dbytes 0x0000002000010001),
    (keyOf spHbm 0x2000010000, dbytes 0x0000002000020001),
    (keyOf spHbm 0x2000020800, dbytes 0x0000001000000003) ]

/-- A miller word at the PC of the placed task. -/
def State.placeMiller (s : State) (w : Nat) : State :=
  let f := s.fn 0
  let m := s.mill 0
  let d := s.die 0
  { ({ s with mem := (placedCells w).foldl (fun (m : List Host.Cell) c => memPut m c.1 c.2) s.mem } : State).setFn 0
      { f with ptroot := 0x0000002000000001, kmask := f.kmask ||| 1 } |>.setMill 0 { m with tlb := [] } |>.setDie 0 { d with tlb2 := [] }
    with
    me := { bareTask with ctx := { bareTask.ctx with pc := placedPc } }
    wh := { s.wh with off := false, sr := Vector.replicate 64 (0, 0) }
    ecc := []
    agenda := [.issue 0 0] }

/-- A stream command that the placed task has issued and an engine has accepted. -/
def placedCmd (w : BitVec 128) : Cmd :=
  { seq := 1, word := w, base := 0, blk := 0, raw := [], rawErr := none, ipc := 0, phase := .accepted, prior := .accepted
    ctr := [], left := [], foot := [], nseed := 0, nstep := 0, wclk := 0, psat := false, cause := 0, sub := 0, freed := [], bits := 0, tiles := []
    mems := [], spilt := false, acc := 0 }

/-- A command at its engine. -/
def State.placeCommand (s : State) (w : Nat) : State :=
  { s with
    me := { bareTask with cmds := [placedCmd (BitVec.ofNat 128 w)] }
    wh := { s.wh with off := false }
    agenda := [.cmd bareTask.id 1] }

/-- A pattern word at element 0 of the placed task's run. -/
def State.placeElement (s : State) (w : Nat) : State :=
  { s with
    me := { bareTask with run := { Run.empty with
      act := { Plane.empty with valid := true, pats := [⟨BitVec.ofNat 64 w, 0, 0⟩], cells := [1] }
      elems := [Elem.zero], grant := [0] } }
    wh := { s.wh with off := false }
    agenda := [.elem bareTask.id 0] }

end Sys2Proof.Machine
end

