-- ==== Sys2Proof/Machine/Step.lean ====
section
/-!
DEFINITION. Sys2Proof/Machine/Step.lean: one step: a cycle begins, the next group of its entries becomes the agenda, or one entry of
the agenda runs; and the placing of a word that the very next step runs.
-/

namespace Sys2Proof.Machine

/-- What a step leaves: the fields that hardware writes into work blocks stand in memory (R40). -/
def finish (r : Host.Outcome State Fault Refusal) : Host.Outcome State Fault Refusal :=
  match r with
  | .next s => .next s.sync
  | r => r

/-- One step. -/
def step (s : State) : Host.Outcome State Fault Refusal :=
  if s.wh.off then .fault .powerOff
  else match s.agenda with
    | [] => match s.later with
      | [] => finish (.next s.tick)
      | g :: rest => finish (.next { s with agenda := g, later := rest })
    | a :: rest => finish (runAct (pickAct a rest s).1 (pickAct a rest s).2)

/-- The instruction word of `nbits` bits placed where the next step takes it: 32 bits at the placed context's PC, 64 at an
element, 128 at an engine (log 6). -/
def State.withFetchWord (s : State) (nbits w : Nat) : State :=
  if nbits = 64 then s.placeElement w else if nbits = 128 then s.placeCommand w else s.placeMiller w

end Sys2Proof.Machine
end

