-- ==== Sys2Proof/Safety.lean ====
section
/-!
DEFINITION. Sys2Proof/Safety.lean: the terms in which statements speak of the machine: operands that let an instruction run,
what an instruction leaves alone, and the properties that every step keeps.
-/

namespace Sys2Proof.Machine

/-! ## Operands that let an instruction run (R20, R156, R188, R238, R245) -/

/-- A g-register names no bound channel end. -/
def State.Plain (s : State) (r : BitVec 5) : Prop := s.me.ctx.binding r = none

/-- A source can be taken: plain, or bound to a consumer end whose head word is there and is no half of a handle. -/
def State.SrcReady (s : State) (r : BitVec 5) : Prop :=
  ∀ b, s.me.ctx.binding r = some b → b.consumer = true ∧ ∃ w, s.headOf r = some w ∧ w.handle = false

/-- A destination can be written: plain, or bound to a producer end that accepts one word, or whose consumer has closed
without STRICT. -/
def State.DstReady (s : State) (d : BitVec 5) : Prop :=
  ∀ b, s.me.ctx.binding d = some b → b.consumer = false ∧
    ∀ c, s.myChan b.ch = some c → if s.consumerClosed c = true then c.strict = false else s.chanRoom c 1 = true

/-- A miller access passes the checks of R210, and the race link to the object that it reads has not gone (R160). -/
def State.admits (s : State) (va : Word) (size : Nat) (kind : Kind) : Bool :=
  match checkAccess s va size kind with
  | .ok u t => !u.severed t
  | _ => false

/-- The acting instruction retires: its sources are taken, `v` goes to `d`, and the context goes on at `pc`. -/
def State.answerG (s : State) (srcs : List (BitVec 5)) (d : BitVec 5) (v : Word) (pc : Word) : Res :=
  .next (((s.popSrcs srcs).putG d v).retireTo pc)

/-- As `answerG`, with a value for a guard register; q0 discards it. -/
def State.answerQ (s : State) (srcs : List (BitVec 5)) (d : BitVec 3) (v : Bool) (pc : Word) : Res :=
  .next (((s.popSrcs srcs).mapCtx fun c => c.wq d v).retireTo pc)

/-- As `answerG`, with a value for an f-register. -/
def State.answerF (s : State) (srcs : List (BitVec 5)) (d : BitVec 4) (v : Word) (pc : Word) : Res :=
  .next (((s.popSrcs srcs).mapCtx fun c => c.wf d v).retireTo pc)

/-- The acting instruction retires with `u` done and the flags `fl` added to FPF (R221). -/
def fpAnswer (u : State) (fl : FFlags) (pc : Word) : Res :=
  .next ((u.mapCtx fun c => { c with fpf := c.fpf ||| fl }).retireTo pc)

/-- The pattern that an instruction reads from an f-register as binary32 (R171). -/
def unboxed (w : Word) : Nat := if w.extractLsb' 32 32 = BitVec.allOnes 32 then (w.setWidth 32).toNat else 0x7FC00000

end Sys2Proof.Machine

namespace Sys2Proof

open Machine

/-! ## Register instructions -/

/-- A register that an instruction writes. -/
inductive Dest where
  | g (r : BitVec 5)
  | q (r : BitVec 3)
  | f (r : BitVec 4)
deriving DecidableEq, Repr

/-- The one register that an instruction of the integer, guard and floating-point families writes (R172 to R175, R178). -/
def Instr.dest : Instr → Option Dest
  | .add _ d _ _ => some (.g d)
  | .addW _ d _ _ => some (.g d)
  | .sub _ d _ _ => some (.g d)
  | .subW _ d _ _ => some (.g d)
  | .mul _ d _ _ => some (.g d)
  | .mulW _ d _ _ => some (.g d)
  | .mulh _ d _ _ => some (.g d)
  | .mulhu _ d _ _ => some (.g d)
  | .div _ d _ _ => some (.g d)
  | .divW _ d _ _ => some (.g d)
  | .divu _ d _ _ => some (.g d)
  | .divuW _ d _ _ => some (.g d)
  | .rem _ d _ _ => some (.g d)
  | .remW _ d _ _ => some (.g d)
  | .remu _ d _ _ => some (.g d)
  | .remuW _ d _ _ => some (.g d)
  | .min _ d _ _ => some (.g d)
  | .max _ d _ _ => some (.g d)
  | .minu _ d _ _ => some (.g d)
  | .maxu _ d _ _ => some (.g d)
  | .and _ d _ _ => some (.g d)
  | .or _ d _ _ => some (.g d)
  | .xor _ d _ _ => some (.g d)
  | .shl _ d _ _ => some (.g d)
  | .shlW _ d _ _ => some (.g d)
  | .shr _ d _ _ => some (.g d)
  | .shrW _ d _ _ => some (.g d)
  | .sra _ d _ _ => some (.g d)
  | .sraW _ d _ _ => some (.g d)
  | .clz _ d _ => some (.g d)
  | .clzW _ d _ => some (.g d)
  | .ctz _ d _ => some (.g d)
  | .ctzW _ d _ => some (.g d)
  | .popc _ d _ => some (.g d)
  | .popcW _ d _ => some (.g d)
  | .sextB _ d _ => some (.g d)
  | .sextH _ d _ => some (.g d)
  | .sextW _ d _ => some (.g d)
  | .zextB _ d _ => some (.g d)
  | .zextH _ d _ => some (.g d)
  | .zextW _ d _ => some (.g d)
  | .addi _ d _ _ => some (.g d)
  | .addiW _ d _ _ => some (.g d)
  | .andi _ d _ _ => some (.g d)
  | .ori _ d _ _ => some (.g d)
  | .xori _ d _ _ => some (.g d)
  | .shlImm _ d _ _ => some (.g d)
  | .shlWImm _ d _ _ => some (.g d)
  | .shrImm _ d _ _ => some (.g d)
  | .shrWImm _ d _ _ => some (.g d)
  | .sraImm _ d _ _ => some (.g d)
  | .sraWImm _ d _ _ => some (.g d)
  | .li _ d _ => some (.g d)
  | .lih _ d _ => some (.g d)
  | .addpc _ d _ => some (.g d)
  | .liw _ d _ _ _ => some (.g d)
  | .sel _ d _ _ _ => some (.g d)
  | .extr _ d _ _ _ => some (.g d)
  | .ins _ d _ _ _ => some (.g d)
  | .cmpEqImm _ d _ _ => some (.q (d.setWidth 3))
  | .cmpNeImm _ d _ _ => some (.q (d.setWidth 3))
  | .cmpLtImm _ d _ _ => some (.q (d.setWidth 3))
  | .cmpLeImm _ d _ _ => some (.q (d.setWidth 3))
  | .cmpLtuImm _ d _ _ => some (.q (d.setWidth 3))
  | .cmpLeuImm _ d _ _ => some (.q (d.setWidth 3))
  | .cmpEq _ d _ _ => some (.q (d.setWidth 3))
  | .cmpNe _ d _ _ => some (.q (d.setWidth 3))
  | .cmpLt _ d _ _ => some (.q (d.setWidth 3))
  | .cmpLe _ d _ _ => some (.q (d.setWidth 3))
  | .cmpLtu _ d _ _ => some (.q (d.setWidth 3))
  | .cmpLeu _ d _ _ => some (.q (d.setWidth 3))
  | .gand _ d _ _ => some (.q (d.setWidth 3))
  | .gor _ d _ _ => some (.q (d.setWidth 3))
  | .gxor _ d _ _ => some (.q (d.setWidth 3))
  | .gnot _ d _ => some (.q (d.setWidth 3))
  | .fadd _ d _ _ => some (.f (d.setWidth 4))
  | .faddS _ d _ _ => some (.f (d.setWidth 4))
  | .fsub _ d _ _ => some (.f (d.setWidth 4))
  | .fsubS _ d _ _ => some (.f (d.setWidth 4))
  | .fmul _ d _ _ => some (.f (d.setWidth 4))
  | .fmulS _ d _ _ => some (.f (d.setWidth 4))
  | .fdiv _ d _ _ => some (.f (d.setWidth 4))
  | .fdivS _ d _ _ => some (.f (d.setWidth 4))
  | .fsqrt _ d _ => some (.f (d.setWidth 4))
  | .fsqrtS _ d _ => some (.f (d.setWidth 4))
  | .ffma _ d _ _ => some (.f (d.setWidth 4))
  | .ffmaS _ d _ _ => some (.f (d.setWidth 4))
  | .fmin _ d _ _ => some (.f (d.setWidth 4))
  | .fminS _ d _ _ => some (.f (d.setWidth 4))
  | .fmax _ d _ _ => some (.f (d.setWidth 4))
  | .fmaxS _ d _ _ => some (.f (d.setWidth 4))
  | .fcmpEq _ d _ _ => some (.q (d.setWidth 3))
  | .fcmpEqS _ d _ _ => some (.q (d.setWidth 3))
  | .fcmpLt _ d _ _ => some (.q (d.setWidth 3))
  | .fcmpLtS _ d _ _ => some (.q (d.setWidth 3))
  | .fcmpLe _ d _ _ => some (.q (d.setWidth 3))
  | .fcmpLeS _ d _ _ => some (.q (d.setWidth 3))
  | .fcmpUn _ d _ _ => some (.q (d.setWidth 3))
  | .fcmpUnS _ d _ _ => some (.q (d.setWidth 3))
  | .fcvtSD _ d _ => some (.f (d.setWidth 4))
  | .fcvtDS _ d _ => some (.f (d.setWidth 4))
  | .fcvtLD _ d _ => some (.g d)
  | .fcvtLuD _ d _ => some (.g d)
  | .fcvtDL _ d _ => some (.f (d.setWidth 4))
  | .fcvtDLu _ d _ => some (.f (d.setWidth 4))
  | .fcvtLS _ d _ => some (.g d)
  | .fcvtLuS _ d _ => some (.g d)
  | .fcvtSL _ d _ => some (.f (d.setWidth 4))
  | .fcvtSLu _ d _ => some (.f (d.setWidth 4))
  | .fclass _ d _ => some (.g d)
  | .fclassS _ d _ => some (.g d)
  | .fmvg _ d _ => some (.g d)
  | .gmvf _ d _ => some (.f (d.setWidth 4))
  | .fli _ d _ => some (.f (d.setWidth 4))
  | .fliS _ d _ => some (.f (d.setWidth 4))
  | _ => none

/-- The register fields of an instruction word (R161). -/
def Instr.named (i : Instr) : List (BitVec 5) := [wD i.word, wA i.word, wB i.word]

/-- The guard of a miller instruction (R161); only NOP has none. -/
def Instr.guard : Instr → Option Guard
  | .add g _ _ _ => some g
  | .addW g _ _ _ => some g
  | .sub g _ _ _ => some g
  | .subW g _ _ _ => some g
  | .mul g _ _ _ => some g
  | .mulW g _ _ _ => some g
  | .mulh g _ _ _ => some g
  | .mulhu g _ _ _ => some g
  | .div g _ _ _ => some g
  | .divW g _ _ _ => some g
  | .divu g _ _ _ => some g
  | .divuW g _ _ _ => some g
  | .rem g _ _ _ => some g
  | .remW g _ _ _ => some g
  | .remu g _ _ _ => some g
  | .remuW g _ _ _ => some g
  | .min g _ _ _ => some g
  | .max g _ _ _ => some g
  | .minu g _ _ _ => some g
  | .maxu g _ _ _ => some g
  | .and g _ _ _ => some g
  | .or g _ _ _ => some g
  | .xor g _ _ _ => some g
  | .shl g _ _ _ => some g
  | .shlW g _ _ _ => some g
  | .shr g _ _ _ => some g
  | .shrW g _ _ _ => some g
  | .sra g _ _ _ => some g
  | .sraW g _ _ _ => some g
  | .clz g _ _ => some g
  | .clzW g _ _ => some g
  | .ctz g _ _ => some g
  | .ctzW g _ _ => some g
  | .popc g _ _ => some g
  | .popcW g _ _ => some g
  | .sextB g _ _ => some g
  | .sextH g _ _ => some g
  | .sextW g _ _ => some g
  | .zextB g _ _ => some g
  | .zextH g _ _ => some g
  | .zextW g _ _ => some g
  | .addi g _ _ _ => some g
  | .addiW g _ _ _ => some g
  | .andi g _ _ _ => some g
  | .ori g _ _ _ => some g
  | .xori g _ _ _ => some g
  | .shlImm g _ _ _ => some g
  | .shlWImm g _ _ _ => some g
  | .shrImm g _ _ _ => some g
  | .shrWImm g _ _ _ => some g
  | .sraImm g _ _ _ => some g
  | .sraWImm g _ _ _ => some g
  | .li g _ _ => some g
  | .lih g _ _ => some g
  | .addpc g _ _ => some g
  | .cmpEqImm g _ _ _ => some g
  | .cmpNeImm g _ _ _ => some g
  | .cmpLtImm g _ _ _ => some g
  | .cmpLeImm g _ _ _ => some g
  | .cmpLtuImm g _ _ _ => some g
  | .cmpLeuImm g _ _ _ => some g
  | .cmpEq g _ _ _ => some g
  | .cmpNe g _ _ _ => some g
  | .cmpLt g _ _ _ => some g
  | .cmpLe g _ _ _ => some g
  | .cmpLtu g _ _ _ => some g
  | .cmpLeu g _ _ _ => some g
  | .gand g _ _ _ => some g
  | .gor g _ _ _ => some g
  | .gxor g _ _ _ => some g
  | .gnot g _ _ => some g
  | .br g _ => some g
  | .bl g _ => some g
  | .bi g _ _ => some g
  | .rep g _ _ => some g
  | .waitch g _ => some g
  | .yield g => some g
  | .exit g => some g
  | .syncd g => some g
  | .wfe g => some g
  | .eret g => some g
  | .bkpt g => some g
  | .bara g _ => some g
  | .barw g _ => some g
  | .sel g _ _ _ _ => some g
  | .ldB g _ _ _ => some g
  | .ldBu g _ _ _ => some g
  | .ldH g _ _ _ => some g
  | .ldHu g _ _ _ => some g
  | .ldW g _ _ _ => some g
  | .ldWu g _ _ _ => some g
  | .ldD g _ _ _ => some g
  | .extr g _ _ _ _ => some g
  | .stB g _ _ _ => some g
  | .stH g _ _ _ => some g
  | .stW g _ _ _ => some g
  | .stD g _ _ _ => some g
  | .ldf g _ _ _ => some g
  | .ldfS g _ _ _ => some g
  | .stf g _ _ _ => some g
  | .stfS g _ _ _ => some g
  | .ldcW g _ _ _ => some g
  | .ldcWu g _ _ _ => some g
  | .ldcD g _ _ _ => some g
  | .pref g _ _ _ => some g
  | .aadd g _ _ _ => some g
  | .aaddW g _ _ _ => some g
  | .aand g _ _ _ => some g
  | .aandW g _ _ _ => some g
  | .aor g _ _ _ => some g
  | .aorW g _ _ _ => some g
  | .axor g _ _ _ => some g
  | .axorW g _ _ _ => some g
  | .amin g _ _ _ => some g
  | .aminW g _ _ _ => some g
  | .amax g _ _ _ => some g
  | .amaxW g _ _ _ => some g
  | .aminu g _ _ _ => some g
  | .aminuW g _ _ _ => some g
  | .amaxu g _ _ _ => some g
  | .amaxuW g _ _ _ => some g
  | .aswp g _ _ _ => some g
  | .aswpW g _ _ _ => some g
  | .acas g _ _ _ => some g
  | .acasW g _ _ _ => some g
  | .fadd g _ _ _ => some g
  | .faddS g _ _ _ => some g
  | .fsub g _ _ _ => some g
  | .fsubS g _ _ _ => some g
  | .fmul g _ _ _ => some g
  | .fmulS g _ _ _ => some g
  | .fdiv g _ _ _ => some g
  | .fdivS g _ _ _ => some g
  | .fsqrt g _ _ => some g
  | .fsqrtS g _ _ => some g
  | .ffma g _ _ _ => some g
  | .ffmaS g _ _ _ => some g
  | .fmin g _ _ _ => some g
  | .fminS g _ _ _ => some g
  | .fmax g _ _ _ => some g
  | .fmaxS g _ _ _ => some g
  | .fcmpEq g _ _ _ => some g
  | .fcmpEqS g _ _ _ => some g
  | .fcmpLt g _ _ _ => some g
  | .fcmpLtS g _ _ _ => some g
  | .fcmpLe g _ _ _ => some g
  | .fcmpLeS g _ _ _ => some g
  | .fcmpUn g _ _ _ => some g
  | .fcmpUnS g _ _ _ => some g
  | .fcvtSD g _ _ => some g
  | .fcvtDS g _ _ => some g
  | .fcvtLD g _ _ => some g
  | .fcvtLuD g _ _ => some g
  | .fcvtLS g _ _ => some g
  | .fcvtLuS g _ _ => some g
  | .fcvtDL g _ _ => some g
  | .fcvtDLu g _ _ => some g
  | .fcvtSL g _ _ => some g
  | .fcvtSLu g _ _ => some g
  | .fclass g _ _ => some g
  | .fclassS g _ _ => some g
  | .fmvg g _ _ => some g
  | .gmvf g _ _ => some g
  | .fli g _ _ => some g
  | .fliS g _ _ => some g
  | .ins g _ _ _ _ => some g
  | .slnew g _ _ _ => some g
  | .slmap g _ _ => some g
  | .sldup g _ _ => some g
  | .sldrop g _ => some g
  | .hmov g _ _ => some g
  | .slxfer g _ _ => some g
  | .hrecv g _ _ => some g
  | .flnew g _ _ _ => some g
  | .flawait g _ _ => some g
  | .flrel g _ _ => some g
  | .chclose g _ => some g
  | .scm g _ _ => some g
  | .scw g _ => some g
  | .dlaunch g _ _ => some g
  | .rsvpin g _ _ _ => some g
  | .rsvunpin g _ => some g
  | .ctron g _ => some g
  | .ctroff g _ => some g
  | .ctrrd g _ _ => some g
  | .tlbinv g _ => some g
  | .mfs g _ _ => some g
  | .mts g _ _ => some g
  | .nstepi g _ => some g
  | .trap g _ => some g
  | .ctrsel g _ _ => some g
  | .mark g _ => some g
  | .trig g _ => some g
  | .chbind g _ _ => some g
  | .liw g _ _ _ _ => some g
  | .sci g _ _ _ => some g
  | _ => none

/-- The branches, which enter the path signature where they are guarded (R440). -/
def Instr.isBranch : Instr → Bool
  | .br _ _ => true
  | .bl _ _ => true
  | .bi _ _ _ => true
  | _ => false

end Sys2Proof

namespace Sys2Proof.Machine

/-! ## What an instruction leaves alone -/

/-- All is as before but one destination register of the acting context, FPF, the clock, the channels that the registers named are
bound to, and SPILL, to which a word popped may return bytes; a bound destination counts the push, and where its channel has closed
(R156) the count of discarded words is written to memory and counted for the consumer. -/
structure State.SameBut (s u : State) (dest : Option Dest) (named : List (BitVec 5)) : Prop where
  g : ∀ r, dest ≠ some (.g r) → u.me.ctx.rg r = s.me.ctx.rg r
  q : ∀ r, dest ≠ some (.q r) → u.me.ctx.rq r = s.me.ctx.rq r
  f : ∀ r, dest ≠ some (.f r) → u.me.ctx.rf r = s.me.ctx.rf r
  context : u.me.ctx = { s.me.ctx with
    g := u.me.ctx.g, q := u.me.ctx.q, f := u.me.ctx.f, fpf := u.me.ctx.fpf, clock := u.me.ctx.clock, ctrs := u.me.ctx.ctrs }
  counters : (∀ r, dest = some (.g r) → s.Plain r) → u.me.ctx.ctrs = s.me.ctx.ctrs
  task : u.me = { s.me with ctx := u.me.ctx }
  blocks : u.blks.map (fun b => { b with spillB := 0 }) = s.blks.map fun b => { b with spillB := 0 }
  channels : ∀ fn blk ch,
    (∀ r ∈ named, ∀ b, s.me.ctx.binding r = some b → ¬ (fn = s.me.id.fn ∧ blk = s.me.id.blk ∧ ch = b.ch)) →
    u.chan? fn blk ch = s.chan? fn blk ch
  rest : (∀ r b c, dest = some (.g r) → s.me.ctx.binding r = some b → s.myChan b.ch = some c → s.consumerClosed c = false) →
    u = { s with me := u.me, chans := u.chans, blks := u.blks }
  closed : u = { s with
    me := u.me, tasks := u.tasks, chans := u.chans, blks := u.blks, mem := u.mem, lines := u.lines, tops := u.tops
    lineKeys := u.lineKeys, fns := u.fns }
  others : u.tasks.map (fun t => { t with ctx := { t.ctx with ctrs := s.me.ctx.ctrs } }) =
    s.tasks.map fun t => { t with ctx := { t.ctx with ctrs := s.me.ctx.ctrs } }


/-! ## Commands -/

/-- The command in focus, in a phase, of a run that is not stopped and whose block was read or failed to read. -/
structure State.Focus (s : State) (c : Cmd) (p : Phase) : Prop where
  cmd : s.me.cmd? s.cur.seq = some c
  open_ : s.me.run.gated = false
  kept : s.me.saving = false
  read : c.rawErr.map (·.1) ≠ some 0
  phase : c.phase = p

/-! ## Elements -/

/-- How a token leaves an element: in its directions, over the quad bus where it has none, and to its own operand where one has
source 0x7 (R294, R316). -/
def leaves (w : ElemFields) (t : Tok) : OutTok := ⟨t, w.dirs, w.dirs == 0, (opdOf w 7).isSome⟩

/-- How a word leaves an element. -/
def leavesWord (w : ElemFields) (n : Nat) : OutTok := leaves w (.data (BitVec.ofNat 64 n))

/-! ## What every step keeps -/

/-- Memory, and the snapshot of every deterministic group, are in their one canonical form. -/
def State.Canonical (s : State) : Prop := Memory.wf s.mem = true ∧ ∀ g ∈ s.groups, Memory.wf g.snap = true

end Sys2Proof.Machine
end

