-- ==== Sys2Proof/Certificates/Slice0/Obligations.lean ====
section
/-!
DEFINITION. Sys2Proof/Certificates/Slice0/Obligations.lean: what is claimed of the machine, one definition per claim. Each
docstring begins with the rules of the spec that the claim comes from.
-/

open Sys2Proof Sys2Proof.Machine

/-- R161 to R165, R180, R183, R4: every well-formed instruction is what its own words decode to, every operand at every value. A
miller instruction stands as four bytes, lowest first, before its literal words, and what follows is left over; a command stands
in 128 bits; an element operation with any fields it may have in 64. Only an event has no words. -/
def Obligations.DecodeEncode : Prop :=
  ∀ (i : Instr), i.reject = none →
    (∀ w lits rest, encode i = .miller w lits →
      decodeBytes (((w :: lits).flatMap fun (x : BitVec 32) => bytesOf 4 x.toNat) ++ rest) = .ok (i, rest)) ∧
    (∀ c, encode i = .command c → decodeCommand c = .ok i ∧ decodeTableWord 128 c.toNat = some i) ∧
    (∀ op f, encode i = .element op → i.elemReject f = none → decodeElement (elemWord op f) = .ok i ∧
      eFields (elemWord op f) = f ∧ decodeTableWord 64 (elemWord op f).toNat = some i)

/-- R168 to R176, R180, R183, R270, R301: words written out from the spec's formats and opcode maps decode to the instructions
they stand for: the integer, compare, control, memory, atomic, float, system and literal majors, a stream command and two
element words; hint space is NOP, and a reserved major and a nonzero reserved field are refused. -/
def Obligations.SpecWords : Prop :=
  decodeTableWord 32 0x00064284 = some (.mulh ⟨0, false⟩ 3 4 5) ∧
  decodeTableWord 32 0x01864A1F = some (.sraWImm ⟨0, false⟩ 3 4 31) ∧
  decodeTableWord 32 0x02C2C000 = some (.cmpNeImm ⟨0, false⟩ 1 12 0) ∧
  decodeTableWord 32 0x24400003 = some (.br ⟨1, false⟩ 3) ∧
  decodeTableWord 32 0x0480000A = some (.bl ⟨0, false⟩ 10) ∧
  decodeTableWord 32 0x05007013 = some (.rep ⟨0, false⟩ 7 19) ∧
  decodeTableWord 32 0x05400003 = some (.exit ⟨0, false⟩) ∧
  decodeTableWord 32 0x070E4002 = some (.ldW ⟨0, false⟩ 7 4 2) ∧
  decodeTableWord 32 0x08C8D000 = some (.stD ⟨0, false⟩ 4 13 0) ∧
  decodeTableWord 32 0x0B0E4289 = some (.acasW ⟨0, false⟩ 7 4 5) ∧
  decodeTableWord 32 0x0B422185 = some (.ffma ⟨0, false⟩ 1 2 3) ∧
  decodeTableWord 32 0x0E380000 = some (.chbind ⟨0, false⟩ 28 0) ∧
  decodeTableWord 32 0x0FC00000 = none ∧
  decodeTableWord 32 0x1ABCDEF0 = some (.nop 0xABCDEF0) ∧
  decodeTableWord 128 0x03000000000000000000000000000000 = some .scFence ∧
  decodeTableWord 128 0x0400000C000000000000000000000051 = none ∧
  decodeTableWord 64 0x0B10040000000008 = some .pscl ∧
  decodeTableWord 64 0x0000000000000000 = none

/-- R32, R33, R19, R163, R164, R167, R155: a step runs what stands where it is due. The context whose slot it is runs the
instruction its PC's word decodes to, with the literal words after it unless its guard is false, its sleeping instruction where
it has one, and takes ILLOP on a word that is none and the trap of a fetch that fails; a command and an element run the word
they hold, an event its own effect. What a step does beside that: the slot's taker is noted, an instruction that went to sleep
is kept, and the work blocks' fields stand in memory. With nothing left to run the next group of the cycle's entries is taken,
and behind the last group the next cycle begins. The model's own choices and readings in it: log 4, 5, 91. -/
def Obligations.StepRunsWhatItFetches : Prop :=
  ∀ (s s0 : State), s.wh.off = false → s0 = { s with agenda := [] } →
    (s.agenda = [] → s.later = [] → step s = .next s.tick.sync) ∧
    (∀ g rest, s.agenda = [] → s.later = g :: rest → step s = .next ({ s with agenda := g, later := rest } : State).sync) ∧
    (∀ m c v u pc, s.agenda = [.issue m c] → (s0.onCtx m c).bind s0.focus = some v → v.me.issues = true →
      v.me.ctx.trapDue = false → v.me.ctx.stepSeq = 0 → v.me.waitsStart = false → u = v.took.noteRestored → pc = v.me.ctx.pc →
      (∀ i t, v.me.ctx.parked = some i → exec i u = .next t →
        step s = .next (if t.me.ctx.st = .sleeping then t.mapCtx fun x => { x with parked := some i } else t).sync) ∧
      (v.me.ctx.parked = none → ∀ u1 c va, fetchWord u pc = .trap u1 c va → step s = .next (u1.trapAt c va).sync) ∧
      (v.me.ctx.parked = none → ∀ w u1, fetchWord u pc = .ok w u1 →
        (∀ r, decodeMiller w 0 0 0 0 = .error r → step s = .next (u1.trapAt 0x01 (w.setWidth 64)).sync) ∧
        (∀ i, decodeMiller w 0 0 0 0 = .ok i →
          (∀ t, litsOf w = 0 ∨ v.me.ctx.guardTrue (wGuard w) = false → exec i u1 = .next t →
            step s = .next (if t.me.ctx.st = .sleeping then t.mapCtx fun x => { x with parked := some i } else t).sync) ∧
          (∀ l u2 j t, litsOf w ≠ 0 → v.me.ctx.guardTrue (wGuard w) = true → fetchLits u1 (pc + 4) (litsOf w) [] = .ok (l, u2) →
            decodeMiller w (l.getD 0 0) (l.getD 1 0) (l.getD 2 0) (l.getD 3 0) = .ok j → exec j (u2.fetchedAt pc) = .next t →
            step s = .next (if t.me.ctx.st = .sleeping then t.mapCtx fun x => { x with parked := some j } else t).sync)))) ∧
    (∀ t q v c i u, s.agenda = [.cmd t q] → s0.focus t = some v → v.me.cmd? q = some c → decodeCommand c.word = .ok i →
      exec i { v with cur := ⟨q, 0, eFields (v.me.run.act.wordOf 0), .none⟩ } = .next u → step s = .next u.sync) ∧
    (∀ t e v i u, s.agenda = [.elem t e] → s0.focus t = some v → decodeElement (v.me.run.act.wordOf e) = .ok i →
      exec i { v with cur := ⟨0, e, eFields (v.me.run.act.wordOf e), .none⟩ } = .next u → step s = .next u.sync) ∧
    (∀ t q e i a v u, s.agenda = [.ev t q e i a] → s0.focus t = some v →
      exec i { v with cur := ⟨q, e, eFields (v.me.run.act.wordOf e), a⟩ } = .next u → step s = .next u.sync) ∧
    (∀ i a u, s.agenda = [.dev i a] → exec i { s0 with cur := ⟨0, 0, ⟨0, 0, 0, 0, 0, 0⟩, a⟩ } = .next u → step s = .next u.sync)

/-- R25, R5, R460: no data ends a run. From every state whose package has power, whatever its task, words and memory hold, a
step answers a next state; without power nothing is executed. The model's own choices and readings in it: log 4, 7. -/
def Obligations.StepAlwaysAnswers : Prop :=
  ∀ (s : State), (s.wh.off = false → ∃ t : State, step s = .next t) ∧ (s.wh.off = true → step s = .fault .powerOff)

/-- R25, R4: memory, a list of cells in the model (log 2), keeps its one canonical form, addresses rising and nothing listed
that reads as unlisted, in the machine and in the snapshot of every deterministic group, across every step from every state that
has it. -/
def Obligations.StepKeepsMemoryCanonical : Prop :=
  ∀ (s t : State), Memory.wf s.mem = true → (∀ g ∈ s.groups, Memory.wf g.snap = true) → step s = .next t →
    Memory.wf t.mem = true ∧ ∀ g ∈ t.groups, Memory.wf g.snap = true

/-- R92, R97, R389, R405, R406, R415, R422, R425, R437, R456: what reset leaves. Every function's registers read 0 but FLCTL,
which holds 4, and TRCTL, which holds 7 in LOG2N; LIMCTL and the ingress weights are at their reset values; no page holds a
secure range; the banks of every mill are in mode CACHE, the tiles too, and stopped. Memory lists nothing, nothing is placed,
queued or open, and the package has power. The model's own choices and readings in it: log 1, 2. -/
def Obligations.ResetState : Prop :=
  (∀ n off, n < 33 → off ∈ [0x000, 0x010, 0x018, 0x028, 0x030, 0x040, 0x048, 0x058, 0x060, 0x068, 0x070, 0x078, 0x080, 0x088, 0x090,
      0x098, 0x0C0, 0x0C8, 0x0D8, 0x0E0, 0x0E8, 0x0F0, 0x0F8, 0x400, 0x410, 0x418, 0x420, 0x428, 0x430, 0x438, 0x440, 0x450, 0x458,
      0x460, 0x488, 0x490, 0x498, 0x4A0, 0x4A8, 0x4B0, 0x4B8] → State.reset.bar0 n off = some 0) ∧
  (∀ n, State.reset.bar0 n 0x050 = some 4 ∧ State.reset.bar0 n 0x448 = some 0x70000) ∧
  (∀ n k, k < 256 → State.reset.bar0 n (0x800 + 8 * k) = some 0) ∧
  (∀ k, k < 64 → State.reset.bar0 0 (0x1000 + 16 * k) = some 0 ∧ State.reset.bar0 0 (0x1008 + 16 * k) = some 0) ∧
  (∀ (m : Nat) (b : Fin 24), (State.reset.mill m).modes[b] = 0 ∧ (State.reset.mill m).bankstat = 0) ∧
  (∀ n, (State.reset.tile n).mode = 0 ∧ (State.reset.tile n).run = false ∧ (State.reset.tile n).pat = 0 ∧ (State.reset.tile n).dst = 0) ∧
  (∀ d, (State.reset.die d).igwt = 0x01010101 ∧ (State.reset.die d).queue = []) ∧
  State.reset.wh.limctl = 0x00690BB8 ∧ State.reset.wh.off = false ∧ State.reset.wh.shut = false ∧
  Memory.wf State.reset.mem = true ∧ (∀ k, memGet State.reset.mem k = unlisted) ∧ State.reset.tasks = [] ∧
  State.reset.me.isPlaced = false ∧ State.reset.blks = [] ∧ State.reset.groups = [] ∧ State.reset.chans = [] ∧
  State.reset.objs = [] ∧ State.reset.flumes = [] ∧ State.reset.agenda = [] ∧ State.reset.later = [] ∧ State.reset.rsv = []

/-- R19, R187: an instruction of the guarded forms whose guard is false retires, literal words and all, and does nothing else; a
guarded-off branch enters its signature (R440). A REP whose body would end at or above 2^56 is reserved, whatever its guard
(R176): it raises ILLOP. R33, R114, R203, R254: what retiring does to a context that does not step: the clock advances one tick,
each counter of retired instructions adds one, nothing is waited for, and PC falls through, or goes back to the start of a REP
body whose last instruction has retired while passes remain; a jump goes to its target with the REP state as it is. The model's
own choices and readings in it: log 23. -/
def Obligations.GuardAndRetirement : Prop :=
  (∀ (i : Instr) (g : Guard) (s : State) (pc : Word),
    i.guard = some g → s.me.ctx.guardTrue g = false → pc = s.me.ctx.pc + BitVec.ofNat 64 (4 * (1 + i.lits)) →
    ((∀ a imm, i = .rep g a imm → s.me.ctx.pc.toNat + 4 * imm.toNat < 2 ^ 56) →
      exec i s = .next ((if i.isBranch then s.mapCtx fun c => c.sign g false else s).retireTo pc)) ∧
    (∀ a imm, i = .rep g a imm → 2 ^ 56 ≤ s.me.ctx.pc.toNat + 4 * imm.toNat → exec i s = .next (s.trapAt 0x01 (infoWord i)))) ∧
  (∀ (s : State) (next : Word), s.me.ctx.steps = false →
    (∃ c, s.retireTo next = { s with me := { s.me with ctx := c } } ∧
      c.clock = s.me.ctx.clock + 1 ∧ c.ctrs = s.me.ctx.ctrs.map (Counter.count 0x001 1) ∧ c.wait = .none ∧
      c.parked = none ∧ c.lastRetire = s.time ∧
      c.st = (if s.me.ctx.st = .sleeping then (if s.me.ctx.handler then .trapped else .runnable) else s.me.ctx.st) ∧
      (if s.me.ctx.rep.count = 0 ∨ s.me.ctx.pc.toNat < s.me.ctx.rep.stop.toNat then c.pc = next ∧ c.rep = s.me.ctx.rep
        else if s.me.ctx.rep.count = 1 then c.pc = next ∧ c.rep = ⟨0, 0, 0⟩
        else c.pc = s.me.ctx.rep.first ∧ c.rep = { s.me.ctx.rep with count := s.me.ctx.rep.count - 1 }) ∧
      c = { s.me.ctx with
        pc := c.pc, rep := c.rep, ctrs := c.ctrs, clock := c.clock, wait := .none, parked := none, st := c.st
        lastRetire := c.lastRetire }) ∧
    (∃ k st, s.jumpTo next = { s with me := { s.me with ctx := { s.me.ctx with
        pc := next, ctrs := s.me.ctx.ctrs.map (Counter.count 0x001 1), clock := k, wait := .none, parked := none, st := st
        lastRetire := s.time } } } ∧
      k = s.me.ctx.clock + 1 ∧
      st = (if s.me.ctx.st = .sleeping then (if s.me.ctx.handler then .trapped else .runnable) else s.me.ctx.st)))

/-- R162, R20: a value for a g-register. A plain register takes it, g0 discards it, and nothing else changes; a register bound
to a producer end whose consumer is open pushes one word, and no register changes. R20, R188: sources. Plain registers are read
and left as they are, g0 as zero; a bound one gives the word at the head, which retirement takes from the channel once, however
many operands name it. R20, R188, R238, R245: a two-source instruction with an operand that is not ready. A wrong end raises
ILLOP before anything waits; a full destination channel stalls before any source is taken; an empty source channel puts the
context to sleep; half a handle stays at the head and raises HANDLEBAD. Nothing is read, popped or written. The model's own
choices and readings in it: log 12. -/
def Obligations.ReadingAndWritingRegisters : Prop :=
  (∀ (s : State) (d : BitVec 5) (v : Word),
    (s.Plain d → ∃ c, s.putG d v = { s with me := { s.me with ctx := c } } ∧
      c.rg d = (if d = 0 then 0 else v) ∧ (∀ r, r ≠ d → c.rg r = s.me.ctx.rg r) ∧ c = { s.me.ctx with g := c.g }) ∧
    (∀ b x, s.me.ctx.binding d = some b → s.myChan b.ch = some x → s.consumerClosed x = false →
      (s.putG d v).myChan b.ch = some { x with wire := x.wire ++ [⟨v, false, 0⟩] } ∧
      (s.putG d v).me.ctx.g = s.me.ctx.g ∧ (s.putG d v).mem = s.mem)) ∧
  (∀ (s : State) (a b : BitVec 5),
    (s.Plain a → s.Plain b → s.popSrcs [a, b] = s ∧ s.popSrcs [a] = s) ∧
    (s.Plain a → s.src a = if a = 0 then 0 else s.me.ctx.g[a.toNat]'(a.isLt)) ∧
    (∀ e x w rest, s.me.ctx.binding a = some e → s.myChan e.ch = some x → x.front = w :: rest →
      s.src a = w.val ∧ s.popSrcs [a, a] = s.popSrcs [a] ∧
      (∃ y, (s.popSrcs [a]).myChan e.ch = some y ∧ y.front = rest) ∧
      (s.popSrcs [a]).me.ctx.g = s.me.ctx.g ∧ (s.popSrcs [a]).mem = s.mem ∧
      (s.popSrcs [a]).me.ctx.clock = max s.me.ctx.clock w.clk)) ∧
  (∀ (s : State) (g : Guard) (d a b : BitVec 5) (i : Instr),
    i ∈ [Instr.add g d a b, .sub g d a b, .mul g d a b, .mulh g d a b, .mulhu g d a b, .div g d a b, .divu g d a b,
      .rem g d a b, .remu g d a b, .min g d a b, .max g d a b, .minu g d a b, .maxu g d a b, .and g d a b, .or g d a b,
      .xor g d a b, .shl g d a b, .shr g d a b, .sra g d a b, .addW g d a b, .subW g d a b, .mulW g d a b, .divW g d a b,
      .divuW g d a b, .remW g d a b, .remuW g d a b, .shlW g d a b, .shrW g d a b, .sraW g d a b, .sel g d a b 0] →
    s.me.ctx.guardTrue g = true →
    (∀ e, s.me.ctx.binding a = some e → e.consumer = false → exec i s = .next (s.trapAt 0x01 (infoWord i))) ∧
    (∀ e, s.me.ctx.binding d = some e → e.consumer = true → exec i s = .next (s.trapAt 0x01 (infoWord i))) ∧
    (∀ e x, (∀ r ∈ [a, b], ∀ y, s.me.ctx.binding r = some y → y.consumer = true) →
      s.me.ctx.binding d = some e → e.consumer = false → s.myChan e.ch = some x →
      (s.consumerClosed x = true → x.strict = true → exec i s = .next (s.trapAt 0x0A (infoWord i))) ∧
      (s.consumerClosed x = false → s.chanRoom x 1 = false →
        exec i s = .next (s.waitOn (.chanRoom (d.setWidth 2) 1)))) ∧
    (∀ e, s.SrcReady b → s.DstReady d → s.me.ctx.binding a = some e → e.consumer = true →
      (s.headOf a = none → exec i s = .next (s.waitOn (.chanWord (a.setWidth 2)))) ∧
      (∀ w, s.headOf a = some w → w.handle = true → exec i s = .next (s.trapAt 0x07 (a.setWidth 64)))))

/-- R25, R20, R168: The frame of the register instructions: an instruction of the integer, guard or floating-point families
waits, traps, or retires after changing nothing but its one destination register, FPF, the channels of its bound operands with
what they hold of SPILL, the counters and the clock; where the destination's channel has closed, also what counting the
discarded word there writes. -/
def Obligations.RegisterInstructionsKeepTheRest : Prop :=
  ∀ (i : Instr) (s t : State), i.dest ≠ none → exec i s = .next t →
    (∃ w, t = s.waitOn w) ∨ (∃ c x, t = s.trapAt c x) ∨ ∃ u pc, t = u.retireTo pc ∧ s.SameBut u i.dest i.named

/-- R192, R193, R169: the two-source integer operations and divisions retire with these values. Each completes here, exec
answering the next state that its clause says, under conditions on the state and operands alone: add, addW, sub, subW, mul,
mulW, mulh, mulhu, div, divW, divu, divuW, rem, remW, remu, remuW, min, max, minu, maxu, and, or, xor. -/
def Obligations.IntegerTwoSourceResults : Prop :=
  ∀ (s : State) (g : Guard) (d a b : BitVec 5) (x y pc : Word) (u v : BitVec 32),
    s.me.ctx.guardTrue g = true → s.SrcReady a → s.SrcReady b → s.DstReady d →
    x = s.src a → y = s.src b → u = x.setWidth 32 → v = y.setWidth 32 → pc = s.me.ctx.pc + 4 →
    exec (.add g d a b) s = s.answerG [a, b] d (x + y) pc ∧
    exec (.sub g d a b) s = s.answerG [a, b] d (x - y) pc ∧
    exec (.mul g d a b) s = s.answerG [a, b] d (x * y) pc ∧
    exec (.mulh g d a b) s = s.answerG [a, b] d ((x.signExtend 128 * y.signExtend 128).extractLsb' 64 64) pc ∧
    exec (.mulhu g d a b) s = s.answerG [a, b] d ((x.setWidth 128 * y.setWidth 128).extractLsb' 64 64) pc ∧
    exec (.div g d a b) s = s.answerG [a, b] d (if y = 0 then BitVec.allOnes 64 else x.sdiv y) pc ∧
    exec (.divu g d a b) s = s.answerG [a, b] d (if y = 0 then BitVec.allOnes 64 else x.udiv y) pc ∧
    exec (.rem g d a b) s = s.answerG [a, b] d (if y = 0 then x else x.srem y) pc ∧
    exec (.remu g d a b) s = s.answerG [a, b] d (if y = 0 then x else x.umod y) pc ∧
    exec (.min g d a b) s = s.answerG [a, b] d (if x.sle y then x else y) pc ∧
    exec (.max g d a b) s = s.answerG [a, b] d (if x.sle y then y else x) pc ∧
    exec (.minu g d a b) s = s.answerG [a, b] d (if x.ule y then x else y) pc ∧
    exec (.maxu g d a b) s = s.answerG [a, b] d (if x.ule y then y else x) pc ∧
    exec (.and g d a b) s = s.answerG [a, b] d (x &&& y) pc ∧
    exec (.or g d a b) s = s.answerG [a, b] d (x ||| y) pc ∧
    exec (.xor g d a b) s = s.answerG [a, b] d (x ^^^ y) pc ∧
    exec (.addW g d a b) s = s.answerG [a, b] d ((u + v).signExtend 64) pc ∧
    exec (.subW g d a b) s = s.answerG [a, b] d ((u - v).signExtend 64) pc ∧
    exec (.mulW g d a b) s = s.answerG [a, b] d ((u * v).signExtend 64) pc ∧
    exec (.divW g d a b) s = s.answerG [a, b] d ((if v = 0 then BitVec.allOnes 32 else u.sdiv v).signExtend 64) pc ∧
    exec (.divuW g d a b) s = s.answerG [a, b] d ((if v = 0 then BitVec.allOnes 32 else u.udiv v).signExtend 64) pc ∧
    exec (.remW g d a b) s = s.answerG [a, b] d ((if v = 0 then u else u.srem v).signExtend 64) pc ∧
    exec (.remuW g d a b) s = s.answerG [a, b] d ((if v = 0 then u else u.umod v).signExtend 64) pc

/-- R194, R169: the shifts, by a register and by an immediate. R195, R197: the unary operations and the operations with an
immediate. R196, R198, R199: bit fields, constants and SEL. INS and LIH read their destination, and raise ILLOP where it is
bound. Each completes here, exec answering the next state that its clause says, under conditions on the state and operands
alone: shl, shlW, shr, shrW, sra, sraW, shlImm, shlWImm, shrImm, shrWImm, sraImm, sraWImm, clz, clzW, ctz, ctzW, popc, popcW,
sextB, sextH, sextW, zextB, zextH, zextW, addi, addiW, andi, ori, xori, li, lih, addpc, sel, extr, ins, liw. -/
def Obligations.ShiftUnaryAndFieldResults : Prop :=
  (∀ (s : State) (g : Guard) (d a b : BitVec 5) (sh : BitVec 6) (x y pc : Word) (u v : BitVec 32),
    s.me.ctx.guardTrue g = true → s.SrcReady a → s.DstReady d →
    x = s.src a → y = s.src b → u = x.setWidth 32 → v = y.setWidth 32 → pc = s.me.ctx.pc + 4 →
    (s.SrcReady b →
    exec (.shl g d a b) s = s.answerG [a, b] d (x <<< y.setWidth 6) pc ∧
    exec (.shr g d a b) s = s.answerG [a, b] d (x >>> y.setWidth 6) pc ∧
    exec (.sra g d a b) s = s.answerG [a, b] d (x.sshiftRight' (y.setWidth 6)) pc ∧
    exec (.shlW g d a b) s = s.answerG [a, b] d ((u <<< v.setWidth 5).signExtend 64) pc ∧
    exec (.shrW g d a b) s = s.answerG [a, b] d ((u >>> v.setWidth 5).signExtend 64) pc ∧
    exec (.sraW g d a b) s = s.answerG [a, b] d ((u.sshiftRight' (v.setWidth 5)).signExtend 64) pc) ∧
    exec (.shlImm g d a sh) s = s.answerG [a] d (x <<< sh) pc ∧
    exec (.shrImm g d a sh) s = s.answerG [a] d (x >>> sh) pc ∧
    exec (.sraImm g d a sh) s = s.answerG [a] d (x.sshiftRight' sh) pc ∧
    exec (.shlWImm g d a sh) s = s.answerG [a] d ((u <<< sh.setWidth 5).signExtend 64) pc ∧
    exec (.shrWImm g d a sh) s = s.answerG [a] d ((u >>> sh.setWidth 5).signExtend 64) pc ∧
    exec (.sraWImm g d a sh) s = s.answerG [a] d ((u.sshiftRight' (sh.setWidth 5)).signExtend 64) pc) ∧
  (∀ (s : State) (g : Guard) (d a : BitVec 5) (imm : BitVec 12) (x : Word) (w : BitVec 32) (pc : Word),
    s.me.ctx.guardTrue g = true → s.SrcReady a → s.DstReady d → x = s.src a → w = x.setWidth 32 → pc = s.me.ctx.pc + 4 →
    exec (.clz g d a) s = s.answerG [a] d x.clz pc ∧
    exec (.ctz g d a) s = s.answerG [a] d x.ctz pc ∧
    exec (.popc g d a) s = s.answerG [a] d x.cpop pc ∧
    exec (.clzW g d a) s = s.answerG [a] d (w.clz.setWidth 64) pc ∧
    exec (.ctzW g d a) s = s.answerG [a] d (w.ctz.setWidth 64) pc ∧
    exec (.popcW g d a) s = s.answerG [a] d (w.cpop.setWidth 64) pc ∧
    exec (.sextB g d a) s = s.answerG [a] d ((x.setWidth 8).signExtend 64) pc ∧
    exec (.sextH g d a) s = s.answerG [a] d ((x.setWidth 16).signExtend 64) pc ∧
    exec (.sextW g d a) s = s.answerG [a] d (w.signExtend 64) pc ∧
    exec (.zextB g d a) s = s.answerG [a] d (x &&& 0xFF) pc ∧
    exec (.zextH g d a) s = s.answerG [a] d (x &&& 0xFFFF) pc ∧
    exec (.zextW g d a) s = s.answerG [a] d (x &&& 0xFFFFFFFF) pc ∧
    exec (.addi g d a imm) s = s.answerG [a] d (x + imm.signExtend 64) pc ∧
    exec (.addiW g d a imm) s = s.answerG [a] d ((w + imm.signExtend 32).signExtend 64) pc ∧
    exec (.andi g d a imm) s = s.answerG [a] d (x &&& imm.setWidth 64) pc ∧
    exec (.ori g d a imm) s = s.answerG [a] d (x ||| imm.setWidth 64) pc ∧
    exec (.xori g d a imm) s = s.answerG [a] d (x ^^^ imm.setWidth 64) pc) ∧
  (∀ (s : State) (g : Guard) (d a b : BitVec 5) (p : BitVec 3) (wm1 pos : BitVec 6) (imm : BitVec 17) (l0 l1 : BitVec 32)
    (pc m : Word),
    s.me.ctx.guardTrue g = true → s.SrcReady a → s.SrcReady b → pc = s.me.ctx.pc → m = BitVec.allOnes 64 >>> (63 - wm1.toNat) →
    (s.DstReady d →
      exec (.extr g d a wm1 pos) s = s.answerG [a] d ((s.src a >>> pos) &&& m) (pc + 4) ∧
      exec (.li g d imm) s = s.answerG [] d (imm.signExtend 64) (pc + 4) ∧
      exec (.liw g d false l0 l1) s = s.answerG [] d (l0.signExtend 64) (pc + 8) ∧
      exec (.liw g d true l0 l1) s = s.answerG [] d (l1 ++ l0) (pc + 12) ∧
      exec (.addpc g d imm) s = s.answerG [] d (pc + imm.signExtend 64 * 4) (pc + 4) ∧
      exec (.sel g d a b p) s = s.answerG [a, b] d (if s.me.ctx.rq p = true then s.src a else s.src b) (pc + 4)) ∧
    (s.Plain d →
      exec (.ins g d a wm1 pos) s = s.answerG [a] d ((s.src d &&& ~~~(m <<< pos)) ||| ((s.src a &&& m) <<< pos)) (pc + 4) ∧
      exec (.lih g d imm) s = s.answerG [] d ((s.src d * 0x20000) ||| imm.setWidth 64) (pc + 4)) ∧
    (¬ s.Plain d →
      exec (.ins g d a wm1 pos) s = .next (s.trapAt 0x01 (infoWord (.ins g d a wm1 pos))) ∧
      exec (.lih g d imm) s = .next (s.trapAt 0x01 (infoWord (.lih g d imm)))))

/-- R200, R201: the comparisons and the guard logic write their guard register; q0 discards. Each completes here, exec answering
the next state that its clause says, under conditions on the state and operands alone: cmpEqImm, cmpNeImm, cmpLtImm, cmpLeImm,
cmpLtuImm, cmpLeuImm, cmpEq, cmpNe, cmpLt, cmpLe, cmpLtu, cmpLeu, gand, gor, gxor, gnot. -/
def Obligations.CompareAndGuardLogicResults : Prop :=
  ∀ (s : State) (g : Guard) (d a b : BitVec 5) (imm : BitVec 12) (x y i pc : Word) (p q : Bool),
    s.me.ctx.guardTrue g = true → x = s.src a → y = s.src b → i = imm.signExtend 64 → pc = s.me.ctx.pc + 4 →
    p = s.me.ctx.rq (a.setWidth 3) → q = s.me.ctx.rq (b.setWidth 3) →
    (s.SrcReady a → s.SrcReady b →
    exec (.cmpEq g d a b) s = s.answerQ [a, b] (d.setWidth 3) (x == y) pc ∧
    exec (.cmpNe g d a b) s = s.answerQ [a, b] (d.setWidth 3) (!(x == y)) pc ∧
    exec (.cmpLt g d a b) s = s.answerQ [a, b] (d.setWidth 3) (x.slt y) pc ∧
    exec (.cmpLe g d a b) s = s.answerQ [a, b] (d.setWidth 3) (x.sle y) pc ∧
    exec (.cmpLtu g d a b) s = s.answerQ [a, b] (d.setWidth 3) (x.ult y) pc ∧
    exec (.cmpLeu g d a b) s = s.answerQ [a, b] (d.setWidth 3) (x.ule y) pc) ∧
    (s.SrcReady a →
    exec (.cmpEqImm g d a imm) s = s.answerQ [a] (d.setWidth 3) (x == i) pc ∧
    exec (.cmpNeImm g d a imm) s = s.answerQ [a] (d.setWidth 3) (!(x == i)) pc ∧
    exec (.cmpLtImm g d a imm) s = s.answerQ [a] (d.setWidth 3) (x.slt i) pc ∧
    exec (.cmpLeImm g d a imm) s = s.answerQ [a] (d.setWidth 3) (x.sle i) pc ∧
    exec (.cmpLtuImm g d a imm) s = s.answerQ [a] (d.setWidth 3) (x.ult i) pc ∧
    exec (.cmpLeuImm g d a imm) s = s.answerQ [a] (d.setWidth 3) (x.ule i) pc) ∧
    exec (.gand g d a b) s = s.answerQ [] (d.setWidth 3) (p && q) pc ∧
    exec (.gor g d a b) s = s.answerQ [] (d.setWidth 3) (p || q) pc ∧
    exec (.gxor g d a b) s = s.answerQ [] (d.setWidth 3) (xor p q) pc ∧
    exec (.gnot g d a) s = s.answerQ [] (d.setWidth 3) (!p) pc

/-- R220, R221, R171, R139: the arithmetic of binary64 and binary32 (.S). Where no raised flag is enabled the instruction
retires with its rounded result, boxed for .S, and adds the flags to FPF; otherwise it traps FPX with the flags in TRAPINFO and
writes nothing; their order there, that of FPF, is a reading (log 24). FFMA reads f[d] as its addend. Each completes here, exec
answering the next state that its clause says, under conditions on the state and operands alone: fadd, faddS, fsub, fsubS, fmul,
fmulS, fdiv, fdivS, fsqrt, fsqrtS, ffma, ffmaS, fmin, fminS, fmax, fmaxS, fcvtSD, fcvtDS. The model's own choices and readings
in it: log 24. -/
def Obligations.FloatArithmeticResults : Prop :=
  ∀ (s : State) (g : Guard) (d a b : BitVec 5) (ra rb rd : Word) (pc : Word),
    s.me.ctx.guardTrue g = true → ra = s.me.ctx.rf (a.setWidth 4) → rb = s.me.ctx.rf (b.setWidth 4) →
    rd = s.me.ctx.rf (d.setWidth 4) → pc = s.me.ctx.pc + 4 →
    ∀ x ∈ [(Instr.fadd g d a b, fp64.add (fp64.read ra.toNat) (fp64.read rb.toNat), false),
        (.fsub g d a b, fp64.sub (fp64.read ra.toNat) (fp64.read rb.toNat), false),
        (.fmul g d a b, fp64.mul (fp64.read ra.toNat) (fp64.read rb.toNat), false),
        (.fdiv g d a b, fp64.div (fp64.read ra.toNat) (fp64.read rb.toNat), false),
        (.fsqrt g d a, fp64.sqrt (fp64.read ra.toNat), false),
        (.ffma g d a b, fp64.fma (fp64.read ra.toNat) (fp64.read rb.toNat) (fp64.read rd.toNat), false),
        (.fmin g d a b, fp64.minMax false ra.toNat rb.toNat, false),
        (.fmax g d a b, fp64.minMax true ra.toNat rb.toNat, false),
        (.faddS g d a b, fp32.add (fp32.read (unboxed ra)) (fp32.read (unboxed rb)), true),
        (.fsubS g d a b, fp32.sub (fp32.read (unboxed ra)) (fp32.read (unboxed rb)), true),
        (.fmulS g d a b, fp32.mul (fp32.read (unboxed ra)) (fp32.read (unboxed rb)), true),
        (.fdivS g d a b, fp32.div (fp32.read (unboxed ra)) (fp32.read (unboxed rb)), true),
        (.fsqrtS g d a, fp32.sqrt (fp32.read (unboxed ra)), true),
        (.ffmaS g d a b, fp32.fma (fp32.read (unboxed ra)) (fp32.read (unboxed rb)) (fp32.read (unboxed rd)), true),
        (.fminS g d a b, fp32.minMax false (unboxed ra) (unboxed rb), true),
        (.fmaxS g d a b, fp32.minMax true (unboxed ra) (unboxed rb), true),
        (.fcvtSD g d a, fp32.convert (fp64.read ra.toNat), true),
        (.fcvtDS g d a, fp64.convert (fp32.read (unboxed ra)), false)],
      (x.2.1.2 &&& s.me.ctx.fpe = 0 → exec x.1 s = fpAnswer (s.mapCtx fun c => c.wf (d.setWidth 4)
        (if x.2.2 then BitVec.allOnes 32 ++ BitVec.ofNat 32 x.2.1.1 else BitVec.ofNat 64 x.2.1.1)) x.2.1.2 pc) ∧
      (x.2.1.2 &&& s.me.ctx.fpe ≠ 0 → exec x.1 s = .next (s.trapAt 0x13 (x.2.1.2.setWidth 64)))

/-- R222, R221, R139: the comparisons, which trap FPX as arithmetic does, the order of the flags in TRAPINFO being a reading
(log 24). EQ and UN raise invalid for a signalling NaN only, LT and LE for any NaN; a comparison with a NaN is false, and UN is
true exactly then. R223, R139: conversions to and from integers, with FPX as above (log 24). To an integer: toward zero,
saturating; from one: to nearest even. R224, R170: classification by the fields of the pattern, moves, and floating-point
immediates; none raises a flag. Each completes here, exec answering the next state that its clause says, under conditions on the
state and operands alone: fcmpEq, fcmpEqS, fcmpLt, fcmpLtS, fcmpLe, fcmpLeS, fcmpUn, fcmpUnS, fcvtLD, fcvtLuD, fcvtLS, fcvtLuS,
fcvtDL, fcvtDLu, fcvtSL, fcvtSLu, fclass, fclassS, fmvg, gmvf, fli, fliS. The model's own choices and readings in it: log 24. -/
def Obligations.FloatCompareConvertAndMoveResults : Prop :=
  (∀ (s : State) (g : Guard) (d a b : BitVec 5) (ra rb pc : Word) (x y u v : FV) (sig any sig' any' : FFlags),
    s.me.ctx.guardTrue g = true → ra = s.me.ctx.rf (a.setWidth 4) → rb = s.me.ctx.rf (b.setWidth 4) → pc = s.me.ctx.pc + 4 →
    x = fp64.read ra.toNat → y = fp64.read rb.toNat → u = fp32.read (unboxed ra) → v = fp32.read (unboxed rb) →
    sig = (if x = .nan true ∨ y = .nan true then 1 else 0) → any = (if x.isNan ∨ y.isNan then 1 else 0) →
    sig' = (if u = .nan true ∨ v = .nan true then 1 else 0) → any' = (if u.isNan ∨ v.isNan then 1 else 0) →
    ∀ z ∈ [(Instr.fcmpEq g d a b, x.eq y, sig), (.fcmpLt g d a b, x.lt y, any), (.fcmpLe g d a b, x.lt y || x.eq y, any),
        (.fcmpUn g d a b, x.isNan || y.isNan, sig), (.fcmpEqS g d a b, u.eq v, sig'), (.fcmpLtS g d a b, u.lt v, any'),
        (.fcmpLeS g d a b, u.lt v || u.eq v, any'), (.fcmpUnS g d a b, u.isNan || v.isNan, sig')],
      (z.2.2 &&& s.me.ctx.fpe = 0 →
        exec z.1 s = fpAnswer (s.mapCtx fun c => c.wq (d.setWidth 3) z.2.1) z.2.2 pc) ∧
      (z.2.2 &&& s.me.ctx.fpe ≠ 0 → exec z.1 s = .next (s.trapAt 0x13 (z.2.2.setWidth 64)))) ∧
  (∀ (s : State) (g : Guard) (d a : BitVec 5) (ra pc : Word),
    s.me.ctx.guardTrue g = true → ra = s.me.ctx.rf (a.setWidth 4) → pc = s.me.ctx.pc + 4 →
    (∀ x ∈ [(Instr.fcvtLD g d a, fp64.read ra.toNat, (-2 ^ 63 : Int), (2 ^ 63 - 1 : Int)),
        (.fcvtLuD g d a, fp64.read ra.toNat, 0, 2 ^ 64 - 1), (.fcvtLS g d a, fp32.read (unboxed ra), -2 ^ 63, 2 ^ 63 - 1),
        (.fcvtLuS g d a, fp32.read (unboxed ra), 0, 2 ^ 64 - 1)],
      ∀ v fl, toIntSat x.2.1 x.2.2.1 x.2.2.2 = (v, fl) → s.DstReady d →
        (fl &&& s.me.ctx.fpe = 0 → exec x.1 s = fpAnswer (s.putG d (BitVec.ofInt 64 v)) fl pc) ∧
        (fl &&& s.me.ctx.fpe ≠ 0 → exec x.1 s = .next (s.trapAt 0x13 (fl.setWidth 64)))) ∧
    (∀ x ∈ [(Instr.fcvtDL g d a, fp64.ofInt (s.src a).toInt, false), (.fcvtDLu g d a, fp64.ofInt (s.src a).toNat, false),
        (.fcvtSL g d a, fp32.ofInt (s.src a).toInt, true), (.fcvtSLu g d a, fp32.ofInt (s.src a).toNat, true)],
      s.SrcReady a →
        (x.2.1.2 &&& s.me.ctx.fpe = 0 → exec x.1 s = fpAnswer ((s.popSrcs [a]).mapCtx fun c => c.wf (d.setWidth 4)
          (if x.2.2 then BitVec.allOnes 32 ++ BitVec.ofNat 32 x.2.1.1 else BitVec.ofNat 64 x.2.1.1)) x.2.1.2 pc) ∧
        (x.2.1.2 &&& s.me.ctx.fpe ≠ 0 → exec x.1 s = .next (s.trapAt 0x13 (x.2.1.2.setWidth 64))))) ∧
  (∀ (s : State) (g : Guard) (d a : BitVec 5) (imm : BitVec 16) (ra u pc : Word) (v : BitVec 32),
    s.me.ctx.guardTrue g = true → ra = s.me.ctx.rf (a.setWidth 4) → pc = s.me.ctx.pc + 4 → v = BitVec.ofNat 32 (unboxed ra) →
    (s.DstReady d →
      exec (.fclass g d a) s = s.answerG [] d (1 <<<
        (if ra.extractLsb' 52 11 = 0x7FF#11 then
          (if ra.extractLsb' 0 52 = 0 then (if ra.msb then 0 else 7) else if ra.getLsbD 51 then 9 else 8)
        else if ra.extractLsb' 52 11 = 0 then
          (if ra.extractLsb' 0 52 = 0 then (if ra.msb then 3 else 4) else if ra.msb then 2 else 5)
        else if ra.msb then 1 else 6)) pc ∧
      exec (.fclassS g d a) s = s.answerG [] d (1 <<<
        (if v.extractLsb' 23 8 = 0xFF#8 then
          (if v.extractLsb' 0 23 = 0 then (if v.msb then 0 else 7) else if v.getLsbD 22 then 9 else 8)
        else if v.extractLsb' 23 8 = 0 then
          (if v.extractLsb' 0 23 = 0 then (if v.msb then 3 else 4) else if v.msb then 2 else 5)
        else if v.msb then 1 else 6)) pc ∧
      exec (.fmvg g d a) s = s.answerG [] d ra pc) ∧
    (s.SrcReady a → exec (.gmvf g d a) s = s.answerF [a] (d.setWidth 4) (s.src a) pc) ∧
    exec (.fliS g d imm) s = s.answerF [] (d.setWidth 4) (BitVec.allOnes 32 ++
      (if imm.extractLsb' 7 8 = 0xFF#8 ∧ imm.extractLsb' 0 7 ≠ 0 then (imm ||| 0x40) ++ 0#16 else imm ++ 0#16)) pc ∧
    (imm.extractLsb' 7 8 = 0xFF#8 → imm.extractLsb' 0 7 ≠ 0 → exec (.fli g d imm) s = s.answerF [] (d.setWidth 4)
      (imm.extractLsb' 15 1 ++ 0x7FF#11 ++ (imm.extractLsb' 0 7 ||| 0x40#7) ++ 0#45) pc) ∧
    (imm.extractLsb' 7 8 ≠ 0xFF#8 ∨ imm.extractLsb' 0 7 = 0 → u = BitVec.ofNat 64 (fp64.convert (bf16.read imm.toNat)).1 →
      exec (.fli g d imm) s = s.answerF [] (d.setWidth 4) u pc))

/-- R220, R221: what NaNs, infinities and zeros give. Every NaN result is the canonical one; only a signalling NaN or an invalid
operation raises invalid, 0 × ∞ in FFMA whatever the addend; √-0 is -0; minimum and maximum prefer the number. R220, R73:
rounding. A discarded tail of `k` bits leaves the nearest integer, the even one of two; and rounding the value of a finite
pattern back into its format gives the pattern itself and no flag. -/
def Obligations.FloatSpecialCasesAndRounding : Prop :=
  (∀ (f : Fmt) (x y z : FV), (f = fp64 ∨ f = fp32) →
    (x.isNan = true ∨ y.isNan = true →
      ∀ r ∈ [f.add x y, f.sub x y, f.mul x y, f.div x y],
        r = (f.nanBits, if x = .nan true ∨ y = .nan true then 1 else 0)) ∧
    (∀ p q n m, f.fma (.inf p) (.fin q 0 n) z = (f.nanBits, 1) ∧ f.fma (.fin q 0 n) (.inf p) z = (f.nanBits, 1) ∧
      f.mul (.inf p) (.fin q 0 n) = (f.nanBits, 1) ∧ f.add (.inf p) (.inf !p) = (f.nanBits, 1) ∧
      f.sub (.inf p) (.inf p) = (f.nanBits, 1) ∧ f.div (.fin p 0 n) (.fin q 0 m) = (f.nanBits, 1)) ∧
    (∀ p q n m e, m ≠ 0 → f.div (.fin p m e) (.fin q 0 n) = (f.infBits (p != q), 2) ∧
      f.sqrt (.fin true m e) = (f.nanBits, 1)) ∧
    (∀ e, f.sqrt (.fin true 0 e) = (f.sign true, 0)) ∧
    (fp64.nanBits = 0x7FF8000000000000 ∧ fp32.nanBits = 0x7FC00000)) ∧
  ((∀ m k : Nat, let q := (rneShift m k false).1
    2 * (q * 2 ^ k) ≤ 2 * m + 2 ^ k ∧ 2 * m ≤ 2 * (q * 2 ^ k) + 2 ^ k ∧
    (2 * (q * 2 ^ k) = 2 * m + 2 ^ k ∨ 2 * m = 2 * (q * 2 ^ k) + 2 ^ k → 0 < k → q % 2 = 0) ∧
    ((rneShift m k false).2 = true ↔ m % 2 ^ k ≠ 0)) ∧
  (∀ f ∈ [fp64, fp32, bf16, fp16, e5m2, e4m3], ∀ bits neg m e, bits < 2 ^ f.width → f.read bits = .fin neg m e →
    f.round neg m e false = (bits, 0)))

/-- R202, R204, R440: with no REP state held the branches go to their targets, BL leaving the address after it in g27 and a
guarded branch entering the path signature; BI raises ALIGN, then PGFLT, with the target in TRAPINFO. R204: while REP state is
held, B, BL, BI, REP, EXIT and ERET raise ILLOP with the word in TRAPINFO. R203, R176: REP with a count above 0 records the
body's start, its last word and the count, and goes on at the start; with a count of 0 it goes past the body unexecuted; its
words are fetched, and a fetch that faults or has to wait is taken at the REP. One whose body would end at or above 2^56 is
reserved and raises ILLOP. Each completes here, exec answering the next state that its clause says, under conditions on the
state and operands alone: br, bl, bi, rep. The model's own choices and readings in it: log 23, 94. -/
def Obligations.ControlFlowResults : Prop :=
  (∀ (s : State) (g : Guard) (off : BitVec 22) (a : BitVec 5) (imm : BitVec 12) (pc t : Word),
    s.me.ctx.guardTrue g = true → s.me.ctx.rep.count = 0 → pc = s.me.ctx.pc → t = s.src a + imm.signExtend 64 * 4 →
    exec (.br g off) s = .next ((s.mapCtx fun c => c.sign g true).jumpTo (pc + off.signExtend 64 * 4)) ∧
    exec (.bl g off) s =
      .next ((s.mapCtx fun c => (c.sign g true).wg 27 (pc + 4)).jumpTo (pc + off.signExtend 64 * 4)) ∧
    (s.SrcReady a →
      (t &&& 3 ≠ 0 → exec (.bi g a imm) s = .next (s.trapAt 0x03 t)) ∧
      (t &&& 3 = 0 → ¬ (t.toNat < 2 ^ 56 ∨ 2 ^ 64 - 2 ^ 56 ≤ t.toNat) → exec (.bi g a imm) s = .next (s.trapAt 0x04 t)) ∧
      (t &&& 3 = 0 → t.toNat < 2 ^ 56 ∨ 2 ^ 64 - 2 ^ 56 ≤ t.toNat →
        exec (.bi g a imm) s = .next (((s.popSrcs [a]).mapCtx fun c => c.sign g true).jumpTo t)))) ∧
  (∀ (s : State) (g : Guard) (off : BitVec 22) (a : BitVec 5) (imm : BitVec 12),
    s.me.ctx.guardTrue g = true → s.me.ctx.rep.count ≠ 0 →
    ∀ i ∈ [Instr.br g off, .bl g off, .bi g a imm, .rep g a imm, .exit g, .eret g],
      exec i s = .next (s.trapAt 0x01 (infoWord i))) ∧
  (∀ (s : State) (g : Guard) (a : BitVec 5) (imm : BitVec 12) (pc last n : Word), pc = s.me.ctx.pc →
    (2 ^ 56 ≤ pc.toNat + 4 * imm.toNat → exec (.rep g a imm) s = .next (s.trapAt 0x01 (infoWord (.rep g a imm)))) ∧
    (s.me.ctx.guardTrue g = true → s.me.ctx.rep.count = 0 → s.SrcReady a → n = s.src a →
    pc.toNat + 4 * imm.toNat < 2 ^ 56 → last = pc + imm.setWidth 64 * 4 →
    (n ≠ 0 → exec (.rep g a imm) s =
      .next (((s.popSrcs [a]).mapCtx fun c => { c with rep := ⟨pc + 4, last, n⟩ }).jumpTo (pc + 4))) ∧
    (∀ t u, n = 0 → skipBody last (imm.toNat + 1) (pc + 4) s = .ok (t, u) →
      exec (.rep g a imm) s = .next ((u.popSrcs [a]).jumpTo t)) ∧
    (∀ u c va, n = 0 → skipBody last (imm.toNat + 1) (pc + 4) s = .error (.trap u c va) →
      exec (.rep g a imm) s = .next (u.trapAt c va)) ∧
    (∀ w, n = 0 → skipBody last (imm.toNat + 1) (pc + 4) s = .error (.wait w) → exec (.rep g a imm) s = .next (s.waitOn w))))

/-- R206, R207, R165: WAITCH sleeps until its channel holds a word and pops nothing; YIELD and NOP change nothing but the PC,
and YIELD's context is passed over for up to 16 cycles. R208, R37, R156: EXIT ends the task: it drains, its context issues no
more, its handles and bindings are gone and every channel end it consumed is closed, while its accepted commands stay as they
are. R217, R218, R134: BARA arrives at the party's next phase, at once where its latest phase is complete and after a stall
otherwise; BARW returns at once without an arrival of its own outstanding, else when the phase of the latest BARA is complete,
with the largest clock held at an arrival, and sleeps until then. Each completes here, exec answering the next state that its
clause says, under conditions on the state and operands alone: waitch, yield, nop, exit, bara, barw. The model's own choices and
readings in it: log 36. -/
def Obligations.WaitExitAndBarrierResults : Prop :=
  (∀ (s : State) (g : Guard) (a : BitVec 5) (low : BitVec 28) (pc : Word), pc = s.me.ctx.pc + 4 →
    exec (.nop low) s = .next (s.retireTo pc) ∧
    (s.me.ctx.guardTrue g = true →
      exec (.yield g) s = .next ((s.mapCtx fun c => { c with yield := s.time + 16 }).retireTo pc) ∧
      (s.Plain a → exec (.waitch g a) s = .next (s.retireTo pc)) ∧
      (∀ e, s.me.ctx.binding a = some e →
        (e.consumer = false → exec (.waitch g a) s = .next (s.trapAt 0x01 (infoWord (.waitch g a)))) ∧
        (e.consumer = true → ∀ w, s.headOf a = some w → exec (.waitch g a) s = .next (s.retireTo pc)) ∧
        (e.consumer = true → s.headOf a = none →
          exec (.waitch g a) s = .next (s.waitOn (.chanWord (a.setWidth 2))))))) ∧
  (∀ (s : State) (g : Guard), s.me.ctx.guardTrue g = true → s.me.ctx.rep.count = 0 →
    ∃ t, exec (.exit g) s = .next t ∧ t.me.id = s.me.id ∧ t.me.st = .draining ∧ t.me.ctx.st = .free ∧
      t.me.ctx.h = Vector.replicate 8 0 ∧ t.me.ctx.bind = Vector.replicate 4 none ∧ t.me.ctx.clock = s.me.ctx.clock + 1 ∧
      t.me.cmds = s.me.cmds ∧ ∀ c ∈ t.chans, Chan.consumes t.me.id c = false) ∧
  (∀ (s : State) (g : Guard) (n : BitVec 12) (b : BitVec 6) (x : BarCount) (pc : Word) (full : Bool),
    s.me.ctx.guardTrue g = true → b = n.setWidth 6 → x = s.me.ctx.barOf b → pc = s.me.ctx.pc + 4 →
    full = s.phaseDone s.me.id.fn s.me.id.blk b x.ara →
    (x.ara = 0 ∨ full = true → exec (.bara g n) s =
      .next ((s.mapCtx fun c => c.setBar { x with ara := x.ara + 1, clk := c.clock }).retireTo pc)) ∧
    (x.ara ≠ 0 → full = false → exec (.bara g n) s = .next (s.waitOn (.barArrive b))) ∧
    (x.ara = x.arw → exec (.barw g n) s = .next (s.retireTo pc)) ∧
    (x.ara ≠ x.arw → full = true → exec (.barw g n) s = .next ((s.mapCtx fun c =>
      { c.setBar { x with arw := x.ara } with clock := max c.clock (s.barClock s.me.id.fn s.me.id.blk b) }).retireTo pc)) ∧
    (x.ara ≠ x.arw → full = false → exec (.barw g n) s = .next (s.waitOn (.barrier b))))

/-- R209, R210, R212, R213, R171, R160: every load completes where its sources and destination are ready and R210's checks pass
(its address is canonical, a multiple of its size and leads somewhere, the scoreboard does not hold it back, a sluice object is
there and the data are good) and, across a link, a path to the object remains: it returns the bytes at its address, sign- or
zero-extended. LDC loads as LD does, LDF.S boxes its value; PREF always completes, doing nothing but take its source. R209:
loads with a plain destination leave every byte of memory as it was, unless the race link to the object read has gone (R160).
R114: logical time. A load takes the later of the clock and the line's write time, and extends the line's lease at least to it,
and one over several lines does so for each; a store takes, for each line its bytes lie in, a time later than every read and
write the line has seen, and at least the clock. Each completes here, exec answering the next state that its clause says, under
conditions on the state and operands alone: ldB, ldBu, ldH, ldHu, ldW, ldWu, ldD, ldf, ldfS, ldcW, ldcWu, ldcD, pref. The
model's own choices and readings in it: log 7, 18, 33, 42, 43, 97, 98, 99, 122. -/
def Obligations.LoadResultsAndFrame : Prop :=
  ((∀ (s : State) (g : Guard) (d a : BitVec 5) (off : BitVec 12) (pc : Word),
    s.me.ctx.guardTrue g = true → s.SrcReady a → pc = s.me.ctx.pc + 4 →
    exec (.pref g d a off) s = .next ((s.popSrcs [a]).retireTo pc) ∧
    (∀ x ∈ [(Instr.ldf g d a off, 8, fun n => BitVec.ofNat 64 n),
        (.ldfS g d a off, 4, (fun n => BitVec.allOnes 32 ++ BitVec.ofNat 32 n : Nat → Word))],
      ∀ addr, addr = s.src a + off.signExtend 64 * BitVec.ofNat 64 x.2.1 → s.admits addr x.2.1 .load = true →
        ∃ (u v : State) (tg : Target) (bs : List Byte), checkAccess s addr x.2.1 .load = .ok u tg ∧
          loadTarget (u.accessEvent tg x.2.1 addr false) addr tg x.2.1 = (bs, v) ∧
          exec x.1 s = .next (((v.popSrcs [a]).mapCtx fun c => c.wf (d.setWidth 4) (x.2.2 (leNat bs))).retireTo pc)) ∧
    (s.DstReady d →
      ∀ x ∈ [(Instr.ldB g d a off, 1, fun n => (BitVec.ofNat 8 n).signExtend 64), (.ldBu g d a off, 1, fun n => BitVec.ofNat 64 n),
          (.ldH g d a off, 2, fun n => (BitVec.ofNat 16 n).signExtend 64), (.ldHu g d a off, 2, fun n => BitVec.ofNat 64 n),
          (.ldW g d a off, 4, fun n => (BitVec.ofNat 32 n).signExtend 64), (.ldWu g d a off, 4, fun n => BitVec.ofNat 64 n),
          (.ldD g d a off, 8, fun n => BitVec.ofNat 64 n), (.ldcW g d a off, 4, fun n => (BitVec.ofNat 32 n).signExtend 64),
          (.ldcWu g d a off, 4, fun n => BitVec.ofNat 64 n), (.ldcD g d a off, 8, (fun n => BitVec.ofNat 64 n : Nat → Word))],
        ∀ addr, addr = s.src a + off.signExtend 64 * BitVec.ofNat 64 x.2.1 → s.admits addr x.2.1 .load = true →
          ∃ (u v : State) (tg : Target) (bs : List Byte), checkAccess s addr x.2.1 .load = .ok u tg ∧
            loadTarget (u.accessEvent tg x.2.1 addr false) addr tg x.2.1 = (bs, v) ∧
            exec x.1 s = .next (((v.popSrcs [a]).putG d (x.2.2 (leNat bs))).retireTo pc))) ∧
  (∀ (s u : State) (va : Word) (size : Nat) (kind : Kind) (tg : Target), canonical va = true → va.toNat % size = 0 →
    place s va size kind = .ok u tg → u.heldBack va size kind.writes = false → seeCheck u tg = none →
    (kind = .store ∨ u.bad tg = false) → u.severed tg = false → s.admits va size kind = true)) ∧
  (∀ (s t : State) (g : Guard) (d a : BitVec 5) (off : BitVec 12), s.Plain d →
    ∀ i ∈ [Instr.ldB g d a off, .ldBu g d a off, .ldH g d a off, .ldHu g d a off, .ldW g d a off, .ldWu g d a off,
        .ldD g d a off, .ldf g d a off, .ldfS g d a off, .ldcW g d a off, .ldcWu g d a off, .ldcD g d a off],
      (∀ addr size u tg, checkAccess s addr size .load = .ok u tg → u.severed tg = false) →
      exec i s = .next t → ∀ j, memGet t.mem j = memGet s.mem j) ∧
  (∀ (s : State) (k c : Nat) (wts rts : Nat), lineTimes s.lines k = (wts, rts) →
    ((loadTime s k c).1 = max c wts ∧ ∃ r, lineTimes (loadTime s k c).2.lines k = (wts, r) ∧ rts ≤ r ∧ (loadTime s k c).1 < r) ∧
    (∀ n i w r, i < n → lineTimes s.lines (k + i) = (w, r) → w ≤ (loadTimes s k n c).1 ∧ c ≤ (loadTimes s k n c).1 ∧
      ∃ q, lineTimes (loadTimes s k n c).2.lines (k + i) = (w, q) ∧ r ≤ q) ∧
    (∀ n i w r t, i < n → lineTimes s.lines (k + i) = (w, r) → t = max c (max (r + 1) (w + 1)) →
      lineTimes (storeTime s k n c).2.lines (k + i) = (t, t) ∧ t ≤ (storeTime s k n c).1))

/-- R209, R211, R373: a store whose access is admitted, and in deterministic mode fits the SPILL budget, writes the low bytes of
its source at its address and takes its place in logical time; one that does not fit traps BUDGET 3. R209, R113, R120: outside
deterministic mode a store changes exactly the bytes at the place its address leads to, to the low bytes of its source, least
significant first; every other byte of memory reads as before. Each completes here, exec answering the next state that its
clause says, under conditions on the state and operands alone: stB, stH, stW, stD, stf, stfS. The model's own choices and
readings in it: log 122. -/
def Obligations.StoreResultsAndFrame : Prop :=
  (∀ (s : State) (g : Guard) (x a : BitVec 5) (off : BitVec 12) (pc addr : Word) (size : Nat) (u : State) (tg : Target),
    s.me.ctx.guardTrue g = true → s.SrcReady a → pc = s.me.ctx.pc + 4 →
    addr = s.src a + off.signExtend 64 * BitVec.ofNat 64 size → checkAccess s addr size .store = .ok u tg →
    ∀ y ∈ [(Instr.stB g x a off, 1, [a, x], s.src x), (.stH g x a off, 2, [a, x], s.src x),
        (.stW g x a off, 4, [a, x], s.src x), (.stD g x a off, 8, [a, x], s.src x),
        (.stf g x a off, 8, [a], s.me.ctx.rf (x.setWidth 4)), (.stfS g x a off, 4, [a], s.me.ctx.rf (x.setWidth 4))],
      size = y.2.1 → (x ∈ y.2.2.1 → s.SrcReady x) →
      (storeFits u addr tg size = false → exec y.1 s = .next (s.trapAt 0x18 3)) ∧
      (∀ clk v, storeFits u addr tg size = true →
        storeTarget (u.accessEvent tg size addr true) addr tg (leBytes size y.2.2.2.toNat) u.me.ctx.clock = (clk, v) →
        exec y.1 s = .next (((v.mapCtx fun c => { c with clock := max c.clock clk }).popSrcs y.2.2.1).retireTo pc))) ∧
  (∀ (s : State) (g : Guard) (x a : BitVec 5) (off : BitVec 12) (addr : Word) (size : Nat) (u : State) (tg : Target) (k : Nat),
    s.me.ctx.guardTrue g = true → s.SrcReady a → Memory.wf s.mem = true → s.me.eff.det = false →
    s.replays s.me.id.fn s.me.id.blk = false →
    addr = s.src a + off.signExtend 64 * BitVec.ofNat 64 size → checkAccess s addr size .store = .ok u tg → tg.key = some k →
    ∀ y ∈ [(Instr.stB g x a off, 1, [a, x], s.src x), (.stH g x a off, 2, [a, x], s.src x),
        (.stW g x a off, 4, [a, x], s.src x), (.stD g x a off, 8, [a, x], s.src x),
        (.stf g x a off, 8, [a], s.me.ctx.rf (x.setWidth 4)), (.stfS g x a off, 4, [a], s.me.ctx.rf (x.setWidth 4))],
      size = y.2.1 → (x ∈ y.2.2.1 → s.SrcReady x) →
      ∃ t, exec y.1 s = .next t ∧ ∀ j, memGet t.mem j =
        if k ≤ j ∧ j < k + size then y.2.2.2.extractLsb' (8 * (j - k)) 8 else memGet s.mem j)

/-- R210: the first checks of every miller access, in order: an address that is not canonical raises PGFLT, one that is no
multiple of the size ALIGN, with TRAPINFO the address; any later check that fails raises its cause with TRAPINFO the address (0
for SLABANDON, R139), and an access that has to wait waits; nothing is written. An atomic that stands in its round already is
past them. R90, R91, R106, R215, R401: what decides an access once its address is canonical and aligned: a bank of the mill-
local window in SCRATCH mode; elsewhere the translation, then the world, then the type: a NOISE page takes no write (NOISEWR)
and no fetch, a flume page only loads, a read-only page no write, a host page no atomic; a tile under a mode change stalls, and
one that is not in HOME mode admits no access (R98; log 26). The model's own choices and readings in it: log 18, 26, 52. -/
def Obligations.AccessChecks : Prop :=
  (∀ (s : State) (g : Guard) (d a b : BitVec 5) (off : BitVec 12) (addr : Word) (size : Nat) (kind : Kind),
    s.me.ctx.guardTrue g = true → s.SrcReady a → s.SrcReady b → s.Plain d → (kind = .atomic → s.inRound a d size = none) →
    ∀ y ∈ [(Instr.ldB g d a off, 1, Kind.load, true), (.ldBu g d a off, 1, .load, true), (.ldH g d a off, 2, .load, true),
        (.ldHu g d a off, 2, .load, true), (.ldW g d a off, 4, .load, true), (.ldWu g d a off, 4, .load, true),
        (.ldD g d a off, 8, .load, true), (.ldf g d a off, 8, .load, true), (.ldfS g d a off, 4, .load, true),
        (.ldcW g d a off, 4, .load, true), (.ldcWu g d a off, 4, .load, true), (.ldcD g d a off, 8, .load, true),
        (.stB g b a off, 1, .store, true), (.stH g b a off, 2, .store, true), (.stW g b a off, 4, .store, true),
        (.stD g b a off, 8, .store, true), (.stf g b a off, 8, .store, true), (.stfS g b a off, 4, .store, true),
        (.aadd g d a b, 8, .atomic, false), (.aand g d a b, 8, .atomic, false), (.aor g d a b, 8, .atomic, false),
        (.axor g d a b, 8, .atomic, false), (.amin g d a b, 8, .atomic, false), (.amax g d a b, 8, .atomic, false),
        (.aminu g d a b, 8, .atomic, false), (.amaxu g d a b, 8, .atomic, false), (.aswp g d a b, 8, .atomic, false),
        (.acas g d a b, 8, .atomic, false), (.aaddW g d a b, 4, .atomic, false), (.aandW g d a b, 4, .atomic, false),
        (.aorW g d a b, 4, .atomic, false), (.axorW g d a b, 4, .atomic, false), (.aminW g d a b, 4, .atomic, false),
        (.amaxW g d a b, 4, .atomic, false), (.aminuW g d a b, 4, .atomic, false), (.amaxuW g d a b, 4, .atomic, false),
        (.aswpW g d a b, 4, .atomic, false), (.acasW g d a b, 4, .atomic, false)],
      size = y.2.1 → kind = y.2.2.1 →
      addr = (if y.2.2.2 then s.src a + off.signExtend 64 * BitVec.ofNat 64 size else s.src a) →
      (¬ (addr.toNat < 2 ^ 56 ∨ 2 ^ 64 - 2 ^ 56 ≤ addr.toNat) → exec y.1 s = .next (s.trapAt 0x04 addr)) ∧
      ((addr.toNat < 2 ^ 56 ∨ 2 ^ 64 - 2 ^ 56 ≤ addr.toNat) → addr.toNat % size ≠ 0 →
        exec y.1 s = .next (s.trapAt 0x03 addr)) ∧
      (∀ u c, checkAccess s addr size kind = .trap u c → exec y.1 s = .next (u.trapAt c (if c = 0x08 then 0 else addr))) ∧
      (∀ w, checkAccess s addr size kind = .wait w → exec y.1 s = .next (s.waitOn w))) ∧
  (∀ (s u : State) (va : Word) (size : Nat) (kind : Kind) (p : Word) (sz : Nat), canonical va = true →
    (0xFFFFFFFFFFF80000 ≤ va.toNat → place s va size kind = .trap s 0x05) ∧
    (∀ b, (h : b < 24) → 0xFFFFFFFFFFE00000 + b * 65536 ≤ va.toNat → va.toNat < 0xFFFFFFFFFFE00000 + (b + 1) * 65536 →
      (s.mill s.me.mill).busy = none → ((s.mill s.me.mill).modes[b] ≠ 1 → place s va size kind = .trap s 0x05) ∧
        ((s.mill s.me.mill).modes[b] = 1 →
          place s va size kind = .ok s (.bank (3 * 2 ^ 60 + (s.me.mill * 24 + b) * 65536 + va.toNat % 65536)))) ∧
    (inWindow va = false → inSluice va = false →
      (∀ c, s.translate va = (.error c, u) → place s va size kind = .trap u c) ∧
      (s.translate va = (.ok (p, sz), u) →
        (pteWorld p ≠ u.me.eff.world → place s va size kind = .trap u 0x05) ∧
        (pteWorld p = u.me.eff.world →
          (pteType p = 1 → kind.writes = true → place s va size kind = .trap u 0x06) ∧
          (pteType p = 1 → kind = .fetch → place s va size kind = .trap u 0x05) ∧
          (pteType p ≠ 1 → pteLoc p = 1 → (u.tile ((ptePa p + va.toNat % 2 ^ sz) / 2 ^ 20)).busy.isSome = true →
            place s va size kind = .wait .bankBusy) ∧
          (pteType p ≠ 1 → pteLoc p = 1 → (u.tile ((ptePa p + va.toNat % 2 ^ sz) / 2 ^ 20)).busy = none →
            (u.tile ((ptePa p + va.toNat % 2 ^ sz) / 2 ^ 20)).mode ≠ 2 → place s va size kind = .trap u 0x05) ∧
          ((pteLoc p = 1 → (u.tile ((ptePa p + va.toNat % 2 ^ sz) / 2 ^ 20)).busy = none ∧
            (u.tile ((ptePa p + va.toNat % 2 ^ sz) / 2 ^ 20)).mode = 2) →
          (pteType p = 3 → kind ≠ .load → place s va size kind = .trap u 0x05) ∧
          (pteType p = 0 → kind.writes = true → pteRo p = true → place s va size kind = .trap u 0x05) ∧
          (pteType p = 0 → kind = .atomic → pteLoc p = 2 → place s va size kind = .trap u 0x05) ∧
          (pteType p = 0 → ¬ (kind.writes = true ∧ pteRo p = true) → pteLoc p = 0 →
            place s va size kind = .ok u (.mem (ptePa p + va.toNat % 2 ^ sz) (pteKey p))))))))

/-- R214: an atomic at ordinary memory outside deterministic mode reads and writes at one logical time: it returns the value
found, sign-extended for .W, and exactly its bytes of memory change, to what its operation gives. ACAS compares with g[d]. R216,
R130, R131, R44: in deterministic mode an atomic with g0 as its destination is collected for the merge and retires; with another
it enters the task's next round of the word and sleeps, or stalls where ADEPTH other rounds of the word are open; no byte of
memory changes. One that stands in its round already sleeps on until the round has closed, and then returns the value it found;
one in a handler on the word of a round that it has interrupted raises ILLOP (R141). Each completes here, exec answering the
next state that its clause says, under conditions on the state and operands alone: aadd, aaddW, aand, aandW, aor, aorW, axor,
axorW, amin, aminW, amax, amaxW, aminu, aminuW, amaxu, amaxuW, aswp, aswpW, acas, acasW. The model's own choices and readings in
it: log 20, 21. -/
def Obligations.AtomicResultsInBothModes : Prop :=
  (∀ (s u : State) (g : Guard) (d a b : BitVec 5) (k : Nat) (slot : BitVec 7),
    s.me.ctx.guardTrue g = true → s.SrcReady a → s.SrcReady b → s.Plain d → Memory.wf s.mem = true → s.me.eff.det = false →
    s.replays s.me.id.fn s.me.id.blk = false → s.inRound a d 8 = none → s.inRound a d 4 = none →
    ∀ y ∈ ([(.aadd g d a b, .aaddW g d a b, fun _ o v _ => o + v), (.aand g d a b, .aandW g d a b, fun _ o v _ => o &&& v),
        (.aor g d a b, .aorW g d a b, fun _ o v _ => o ||| v), (.axor g d a b, .axorW g d a b, fun _ o v _ => o ^^^ v),
        (.amin g d a b, .aminW g d a b, fun _ o v _ => if o.sle v then o else v),
        (.amax g d a b, .amaxW g d a b, fun _ o v _ => if o.sle v then v else o),
        (.aminu g d a b, .aminuW g d a b, fun _ o v _ => if o.ule v then o else v),
        (.amaxu g d a b, .amaxuW g d a b, fun _ o v _ => if o.ule v then v else o),
        (.aswp g d a b, .aswpW g d a b, fun _ _ v _ => v),
        (.acas g d a b, .acasW g d a b, fun _ o v c => if o = c then v else o)] :
        List (Instr × Instr × ((n : Nat) → BitVec n → BitVec n → BitVec n → BitVec n))),
      (∀ old, checkAccess s (s.src a) 8 .atomic = .ok u (.mem k slot) →
        old = BitVec.ofNat 64 (leNat ((u.accessEvent (.mem k slot) 8 (s.src a) true).plainBytes k slot 8).1) →
        ∃ t, exec y.1 s = .next t ∧ t.me.ctx.rg d = (if d = 0 then 0 else old) ∧ ∀ j, memGet t.mem j =
          if k ≤ j ∧ j < k + 8 then (y.2.2 64 old (s.src b) (s.src d)).extractLsb' (8 * (j - k)) 8 else memGet s.mem j) ∧
      (∀ old, checkAccess s (s.src a) 4 .atomic = .ok u (.mem k slot) →
        old = BitVec.ofNat 32 (leNat ((u.accessEvent (.mem k slot) 4 (s.src a) true).plainBytes k slot 4).1) →
        ∃ t, exec y.2.1 s = .next t ∧ t.me.ctx.rg d = (if d = 0 then 0 else old.signExtend 64) ∧ ∀ j, memGet t.mem j =
          if k ≤ j ∧ j < k + 4 then (y.2.2 32 old ((s.src b).setWidth 32) ((s.src d).setWidth 32)).extractLsb' (8 * (j - k)) 8
          else memGet s.mem j)) ∧
  (∀ (s u v : State) (g : Guard) (d a b : BitVec 5) (k : Nat) (slot : BitVec 7) (m n : Nat) (pc x c : Word) (op : BitVec 4),
    s.me.ctx.guardTrue g = true → s.SrcReady a → s.SrcReady b → s.Plain d → pc = s.me.ctx.pc + 4 →
    ∀ y ∈ [(Instr.aadd g d a b, (0 : BitVec 4), 8), (.aand g d a b, 1, 8), (.aor g d a b, 2, 8), (.axor g d a b, 3, 8),
        (.amin g d a b, 4, 8), (.amax g d a b, 5, 8), (.aminu g d a b, 6, 8), (.amaxu g d a b, 7, 8), (.aswp g d a b, 8, 8),
        (.acas g d a b, 9, 8), (.aaddW g d a b, 0, 4), (.aandW g d a b, 1, 4), (.aorW g d a b, 2, 4), (.axorW g d a b, 3, 4),
        (.aminW g d a b, 4, 4), (.amaxW g d a b, 5, 4), (.aminuW g d a b, 6, 4), (.amaxuW g d a b, 7, 4), (.aswpW g d a b, 8, 4),
        (.acasW g d a b, 9, 4)],
      op = y.2.1 → n = y.2.2 → x = (if n = 8 then s.src b else ((s.src b).setWidth 32).setWidth 64) →
      c = (if op ≠ 9 then 0 else if n = 8 then s.me.ctx.rg d else ((s.me.ctx.rg d).setWidth 32).setWidth 64) →
    (s.me.ctx.wait = .atomicRound k →
      (((s.myRounds k n).getLast?).bind (·.res) = none → exec y.1 s = .next (s.waitOn (.atomicRound k))) ∧
      (∀ old new, ((s.myRounds k n).getLast?).bind (·.res) = some (old, new) → ∃ t, exec y.1 s = .next t ∧ t.mem = s.mem ∧
        t.me.ctx.rg d = (if d = 0 then 0 else if n = 8 then old else (old.setWidth 32).signExtend 64))) ∧
    (checkAccess s (s.src a) n .atomic = .ok u (.mem k slot) → u.me.eff.det = true →
    storeFits u (s.src a) (.mem k slot) n = true → m = (u.myRounds k n).length + 1 → s.inRound a d n = none →
    v = u.accessEvent (.mem k slot) n (s.src a) true →
    (d ≠ 0 → u.me.ctx.keepsBelow (.atomicRound k) = true → exec y.1 s = .next (u.trapAt 0x01 (infoWord y.1))) ∧
    (u.me.ctx.keepsBelow (.atomicRound k) = false →
    (d = 0 → exec y.1 s = .next (((v.enterAtomic
      ⟨u.me.id.idx, k, s.src a, n, op, x, c, 0, none, u.me.det.writes.length⟩).popSrcs [a, b]).retireTo pc)) ∧
    (d ≠ 0 → (u.openRounds k n).length < u.me.eff.adepth ∨ (u.openRounds k n).contains m = true →
      exec y.1 s = .next ((v.enterAtomic
        ⟨u.me.id.idx, k, s.src a, n, op, x, c, m, none, u.me.det.writes.length⟩).waitOn (.atomicRound k))) ∧
    (d ≠ 0 → ¬ ((u.openRounds k n).length < u.me.eff.adepth ∨ (u.openRounds k n).contains m = true) →
      exec y.1 s = .next (u.waitOn (.adepth k))) ∧
    (∀ t, exec y.1 s = .next t → t.mem = u.mem))))

/-- R231, R109: SLNEW with its checks passed creates an object of zero bytes, in a HOME tile of the die where POND asks for it
and room is there, and writes its fill handle and its see handle. R230, R231: the first check of SLNEW that fails raises its
trap, and nothing is allocated. Each completes here, exec answering the next state that its clause says, under conditions on the
state and operands alone: slnew. The model's own choices and readings in it: log 11, 37, 99. -/
def Obligations.SluiceTiles : Prop :=
  (∀ (s : State) (g : Guard) (d a b : BitVec 5) (req : Word) (n : Nat) (pc : Word),
    s.me.ctx.guardTrue g = true → s.SrcReady b → pc = s.me.ctx.pc + 4 → req = s.src b →
    n = ((req.extractLsb' 0 25).toNat + 65535) / 65536 → low3 d ≠ low3 a →
    hLive (s.me.ctx.rh (low3 d)) = false → hLive (s.me.ctx.rh (low3 a)) = false →
    1 ≤ (req.extractLsb' 0 25).toNat → (req.extractLsb' 0 25).toNat ≤ 16777216 → req.extractLsb' 25 7 = 0 →
    req.extractLsb' 34 30 = 0 →
    (req.getLsbD 33 = true → ∀ x ∈ s.lineage s.me.id.fn s.me.id.blk, x.usePond + (s.pondPages s.me.id.fn x.addr).length + n ≤ x.eff.pond) →
    s.liveObjs < 1048576 →
    ∃ (u : State) (o : Obj) (f v : BitVec 128), exec (.slnew g d a b) s = .next ((u.popSrcs [b]).retireTo pc) ∧
      (∃ l, u.objs = o :: l ∧ (∀ x ∈ l, x.id ≠ o.id ∧ x ∈ s.objs) ∧ ∀ x ∈ s.objs, x.id ≠ o.id → x ∈ l) ∧
      o.st = .filling ∧ o.size = (req.extractLsb' 0 25).toNat ∧ o.units = n ∧ o.handles = 2 ∧ o.fn = s.me.id.fn ∧
      o.blk = s.me.id.blk ∧ o.tile = (if req.getLsbD 33 then s.homeRoom s.me.id.fn (dieOf s.me.mill) n else none) ∧
      (∀ t, o.tile = some t → (u.tile t).used = (s.tile t).used + n ∧
        u.blks = (s.mapLineage s.me.id.fn s.me.id.blk fun x => { x with usePond := x.usePond + n }).blks) ∧
      (o.tile = none → u.blks = s.blks ∧ u.tiles = s.tiles) ∧
      u.me.ctx = (s.me.ctx.wh (low3 d) f).wh (low3 a) v ∧
      (o.id < 2 ^ 40 → handleOk u f = true ∧ handleOk u v = true) ∧
      (∀ h ∈ [f, v], h.extractLsb' 0 40 = BitVec.ofNat 40 o.id ∧ hPkg h = s.wh.pkg ∧ hGen h = o.gen ∧
        h.getLsbD 73 = o.tile.isSome ∧ h.extractLsb' 74 6 = 0) ∧
      hKind f = 1 ∧ hRights f = 0b000111 ∧ f.getLsbD 72 = req.getLsbD 32 ∧
      hKind v = 2 ∧ hRights v = 0b011101 ∧ v.getLsbD 72 = false ∧
      (∀ k, memGet u.mem k = if keyOf spSluice (o.id * 2 ^ 24) ≤ k ∧ k < keyOf spSluice (o.id * 2 ^ 24) + 2 ^ 24 then 0
        else memGet s.mem k)) ∧
  (∀ (s : State) (g : Guard) (d a b : BitVec 5) (req : Word) (n : Nat),
    s.me.ctx.guardTrue g = true → s.SrcReady b → req = s.src b → n = ((req.extractLsb' 0 25).toNat + 65535) / 65536 →
    ∃ t, exec (.slnew g d a b) s = .next
      (if low3 d = low3 a then s.trapAt 0x01 (infoWord (.slnew g d a b))
      else if hLive (s.me.ctx.rh (low3 d)) then s.trapAt 0x07 ((low3 d).setWidth 64)
      else if hLive (s.me.ctx.rh (low3 a)) then s.trapAt 0x07 ((low3 a).setWidth 64)
      else if req.extractLsb' 0 25 = 0 ∨ 16777216 < (req.extractLsb' 0 25).toNat ∨ req.extractLsb' 25 7 ≠ 0 ∨
          req.extractLsb' 34 30 ≠ 0 then s.trapAt 0x01 (infoWord (.slnew g d a b))
      else if req.getLsbD 33 = true ∧ ∃ x ∈ s.lineage s.me.id.fn s.me.id.blk,
        x.eff.pond < x.usePond + (s.pondPages s.me.id.fn x.addr).length + n then
        s.trapAt 0x18 1
      else if 1048576 ≤ s.liveObjs then s.trapAt 0x18 10
      else t))

/-- R230, R232, R234, R235, R236: SLMAP, SLDUP, SLDROP and HMOV of a handle that passes its checks. SLMAP returns the slot of
the object and kind, or takes the lowest free one, or traps BUDGET 12; a copy is bit-identical and counted (at the object's
package, by a message where it is another); a drop clears the register, publishes after the fills as a store over the whole
object, at a logical time after every access to it (at the merge in deterministic mode), or takes one handle from the object.
R230, R109, R232, R234, R235, R236: a handle operand that fails its check, a SLDUP of a handle that has no duplicate right and a
live destination raise HANDLEBAD with the register's number, and nothing changes. Each completes here, exec answering the next
state that its clause says, under conditions on the state and operands alone: slmap, sldup, sldrop, hmov. The model's own
choices and readings in it: log 11, 100. -/
def Obligations.HandleOperationsAndTraps : Prop :=
  (∀ (s : State) (g : Guard) (d a : BitVec 5) (h : BitVec 128) (pc : Word),
    s.me.ctx.guardTrue g = true → h = s.me.ctx.rh (low3 a) → handleOk s h = true → pc = s.me.ctx.pc + 4 →
    (s.DstReady d →
      (∀ w, s.me.window.find? (fun w => w.obj == hObj h && w.pkg == hPkg h && w.gen == hGen h && w.fill == (hKind h == 1)) = some w →
        exec (.slmap g d a) s = .next (((s.mapMe fun t => t.mapSlot h w.slot).putG d (slotBase w.slot)).retireTo pc) ∧
        slotBase w.slot = 0xFFFFFE0000000000 + BitVec.ofNat 64 w.slot * 0x1000000) ∧
      (s.me.window.find? (fun w => w.obj == hObj h && w.pkg == hPkg h && w.gen == hGen h && w.fill == (hKind h == 1)) = none →
        (∀ k, k < 256 → (∀ w ∈ s.me.window, w.slot ≠ k) → (∀ j, j < k → ∃ w ∈ s.me.window, w.slot = j) →
          exec (.slmap g d a) s = .next ((({ s with me := { s.me with
            window := s.me.window ++ [⟨k, hObj h, hPkg h, hGen h, hKind h == 1⟩] } } : State).putG d
              (0xFFFFFE0000000000 + BitVec.ofNat 64 k * 0x1000000)).retireTo pc)) ∧
        ((∀ k, k < 256 → ∃ w ∈ s.me.window, w.slot = k) → exec (.slmap g d a) s = .next (s.trapAt 0x18 12)))) ∧
    (hLive (s.me.ctx.rh (low3 d)) = false → hKind h = 2 → (hRights h).getLsbD 3 = true →
      exec (.sldup g d a) s = .next (((if hPkg h = s.wh.pkg then s.mapObj (hObj h) fun o => { o with handles := o.handles + 1 }
        else s.sendPkg (hPkg h) s.me.ctx.clock (.hold (BitVec.ofNat 40 (hObj h)) s.wh.pkg 1)).mapCtx fun c => c.wh (low3 d) h).retireTo pc)) ∧
    (hKind h = 2 → hPkg h = s.wh.pkg → exec (.sldrop g a) s = .next (((s.objDropOne (hObj h)).clearHandle a).retireTo pc)) ∧
    (hKind h = 2 → hPkg h ≠ s.wh.pkg → exec (.sldrop g a) s = .next
      (((s.sendPkg (hPkg h) s.me.ctx.clock (.release (BitVec.ofNat 40 (hObj h)) 1)).clearHandle a).retireTo pc)) ∧
    (hKind h = 1 → s.me.fillsInto (hObj h) = true → exec (.sldrop g a) s = .next (s.waitOn (.fills (hObj h)))) ∧
    (hKind h = 1 → s.me.fillsInto (hObj h) = false → s.me.eff.det = false → ∃ td, s.me.ctx.clock ≤ td ∧
      (∀ k, keyOf spSluice (hObj h * 2 ^ 24) ≤ k → k < keyOf spSluice (hObj h * 2 ^ 24) + 2 ^ 24 →
        (lineTimes s.lines k).1 < td ∧ (lineTimes s.lines k).2 < td) ∧
      exec (.sldrop g a) s = .next ((((s.objPublish (hObj h) s.me.ctx.clock).clearHandle a).mapCtx fun c =>
        { c with clock := td }).retireTo pc) ∧
      ∀ o, s.obj? (hObj h) = some o → 1 < o.handles →
        (s.objPublish (hObj h) s.me.ctx.clock).obj? (hObj h) = some { o with
          st := if o.st = .filling then .published else o.st, td := td, handles := o.handles - 1 }) ∧
    (hKind h = 1 → s.me.fillsInto (hObj h) = false → s.me.eff.det = true → ∃ u : State,
      exec (.sldrop g a) s = .next (u.retireTo pc) ∧ u.objs = s.objs ∧ u.mem = s.mem ∧
      u.me.det.drops = s.me.det.drops ++ [hObj h] ∧ u.me.ctx.rh (low3 a) = 0) ∧
    (low3 d ≠ low3 a → hLive (s.me.ctx.rh (low3 d)) = false →
      exec (.hmov g d a) s = .next ((s.mapCtx fun c => (c.wh (low3 d) h).wh (low3 a) 0).retireTo pc)) ∧
    (low3 d = low3 a → exec (.hmov g d a) s = .next (s.retireTo pc))) ∧
  (∀ (s : State) (g : Guard) (d a : BitVec 5), s.me.ctx.guardTrue g = true → s.Plain d →
    (handleOk s (s.me.ctx.rh (low3 a)) = false →
      exec (.slmap g d a) s = .next (s.trapAt 0x07 ((low3 a).setWidth 64)) ∧
      exec (.sldrop g a) s = .next (s.trapAt 0x07 ((low3 a).setWidth 64)) ∧
      (hLive (s.me.ctx.rh (low3 d)) = false →
        exec (.sldup g d a) s = .next (s.trapAt 0x07 ((low3 a).setWidth 64)) ∧
        exec (.hmov g d a) s = .next (s.trapAt 0x07 ((low3 a).setWidth 64)))) ∧
    (hLive (s.me.ctx.rh (low3 d)) = true →
      exec (.sldup g d a) s = .next (s.trapAt 0x07 ((low3 d).setWidth 64)) ∧
      (low3 d ≠ low3 a → exec (.hmov g d a) s = .next (s.trapAt 0x07 ((low3 d).setWidth 64)))) ∧
    (hLive (s.me.ctx.rh (low3 d)) = false → (hKind (s.me.ctx.rh (low3 a)) = 1 ∨ (hRights (s.me.ctx.rh (low3 a))).getLsbD 3 = false) →
      exec (.sldup g d a) s = .next (s.trapAt 0x07 ((low3 a).setWidth 64))) ∧
    (∀ h : BitVec 128, h.extractLsb' 64 2 = 0 → handleOk s h = false) ∧
    (∀ h : BitVec 128, h.extractLsb' 80 48 ≠ Config.handleCheck (h.extractLsb' 0 80) → handleOk s h = false))

/-- R237, R238: handles on channels. SLXFER sends a handle that it may send as two words, at the time of its clock (log 133),
and clears its register, after the fills of a fill handle; HRECV takes the pair at the head. The wrong end, a missing right, a
closed strict channel and a head that is no handle trap with nothing written or popped. Each completes here, exec answering the
next state that its clause says, under conditions on the state and operands alone: slxfer, hrecv. The model's own choices and
readings in it: log 12, 40, 116, 133. -/
def Obligations.HandlesOnChannels : Prop :=
  ∀ (s : State) (g : Guard) (d a : BitVec 5) (e : Binding) (x : Chan) (h : BitVec 128) (pc : Word),
    s.me.ctx.guardTrue g = true → pc = s.me.ctx.pc + 4 → s.myChan e.ch = some x →
    (h = s.me.ctx.rh (low3 a) → s.me.ctx.binding d = some e →
      (e.consumer = true → exec (.slxfer g d a) s = .next (s.trapAt 0x01 (infoWord (.slxfer g d a)))) ∧
      (e.consumer = false → handleOk s h = true →
        ((hRights h).getLsbD 2 = false ∨ crossesLink s x = true ∧ (hRights h).getLsbD 4 = false →
          exec (.slxfer g d a) s = .next (s.trapAt 0x07 ((low3 a).setWidth 64))) ∧
        ((hRights h).getLsbD 2 = true → (crossesLink s x = true → (hRights h).getLsbD 4 = true) →
          (s.consumerClosed x = true → x.strict = true →
            exec (.slxfer g d a) s = .next (s.trapAt 0x0A (infoWord (.slxfer g d a)))) ∧
          ((s.consumerClosed x = true → x.strict = false) → hKind h = 1 → s.me.fillsInto (hObj h) = true →
            exec (.slxfer g d a) s = .next (s.waitOn (.fills (hObj h)))) ∧
          (s.consumerClosed x = false → (hKind h = 1 → s.me.fillsInto (hObj h) = false) →
            (s.chanRoom x 2 = false → exec (.slxfer g d a) s = .next (s.waitOn (.chanRoom (d.setWidth 2) 2))) ∧
            (s.chanRoom x 2 = true → ∃ u : State, exec (.slxfer g d a) s = .next (u.retireTo pc) ∧
              u = (s.clearHandle a).push e.ch [⟨h.extractLsb' 0 64, true, s.me.ctx.clock⟩, ⟨h.extractLsb' 64 64, true, s.me.ctx.clock⟩] ∧
              u.objs = s.objs ∧ u.me.ctx.rh (low3 a) = 0))))) ∧
    (s.me.ctx.binding a = some e →
      (e.consumer = false → exec (.hrecv g d a) s = .next (s.trapAt 0x01 (infoWord (.hrecv g d a)))) ∧
      (e.consumer = true → hLive (s.me.ctx.rh (low3 d)) = false →
        (x.front = [] → exec (.hrecv g d a) s = .next (s.waitOn (.chanWord (a.setWidth 2)))) ∧
        (∀ w l, x.front = w :: l → w.handle = false → exec (.hrecv g d a) s = .next (s.trapAt 0x07 ((low3 d).setWidth 64))) ∧
        (∀ w v l, x.front = w :: v :: l → w.handle = true →
          exec (.hrecv g d a) s = .next ((((s.pop e.ch).pop e.ch).mapCtx fun c => c.wh (low3 d) (v.val ++ w.val)).retireTo pc)))) ∧
    (s.me.ctx.binding d = none → exec (.slxfer g d a) s = .next (s.trapAt 0x01 (infoWord (.slxfer g d a)))) ∧
    (s.me.ctx.binding a = none → exec (.hrecv g d a) s = .next (s.trapAt 0x01 (infoWord (.hrecv g d a))))

/-- R242, R44, R98: FLNEW makes its checks in order; with all passed it writes the header, WR and RD zero, charges the slots and
the pond units they lie on, and gives the header's address. R244, R112, R126: FLAWAIT and FLREL. With n = 0 they retire and
change nothing; the misuses raise PROT with the header's address; FLAWAIT sleeps until WR - RD, modulo 2^32, reaches n; FLREL
adds n to RD. Each completes here, exec answering the next state that its clause says, under conditions on the state and
operands alone: flnew, flawait, flrel. The model's own choices and readings in it: log 99. -/
def Obligations.Flumes : Prop :=
  (∀ (s : State) (g : Guard) (d a b : BitVec 5) (v base : Word) (pc : Word) (sz n : Nat) (us : List Nat),
    s.me.ctx.guardTrue g = true → s.SrcReady a → s.SrcReady b → s.DstReady d → pc = s.me.ctx.pc + 4 →
    v = s.src a → base = s.src b → sz = (v.extractLsb' 0 32).toNat → n = (v.extractLsb' 32 16).toNat →
    us = s.pondUnits s.me.id.fn base (flArea v base) →
    (¬ (sz % 64 = 0 ∧ 64 ≤ sz ∧ sz ≤ 65536 ∧ 1 ≤ n ∧ (v.extractLsb' 48 2).toNat ≤ 1 ∧ v.extractLsb' 55 9 = 0 ∧ base.toNat % 64 = 0) →
      exec (.flnew g d a b) s = .next (s.trapAt 0x01 (infoWord (.flnew g d a b)))) ∧
    (sz % 64 = 0 → 64 ≤ sz → sz ≤ 65536 → 1 ≤ n → (v.extractLsb' 48 2).toNat ≤ 1 → v.extractLsb' 55 9 = 0 →
      base.toNat % 64 = 0 →
      (v.extractLsb' 48 2 = 1 → s.flBankOk v = false → exec (.flnew g d a b) s = .next (s.trapAt 0x05 0)) ∧
      ((v.extractLsb' 48 2 = 1 → s.flBankOk v = true) →
        (∀ x, s.badPlain base (flArea v base) = some x → exec (.flnew g d a b) s = .next (s.trapAt 0x05 x)) ∧
        (s.badPlain base (flArea v base) = none →
          (¬ (∀ x ∈ s.lineage s.me.id.fn s.me.id.blk, x.useFl + n ≤ x.eff.flslots) →
            exec (.flnew g d a b) s = .next (s.trapAt 0x18 2)) ∧
          ((∀ x ∈ s.lineage s.me.id.fn s.me.id.blk, x.useFl + n ≤ x.eff.flslots) →
            (s.flPondFits us = false → exec (.flnew g d a b) s = .next (s.trapAt 0x18 1)) ∧
            (s.flPondFits us = true → s.freeHeader s.me.id.fn = none → exec (.flnew g d a b) s = .next (s.trapAt 0x18 11)) ∧
            (∀ h, s.flPondFits us = true → s.freeHeader s.me.id.fn = some h → ∃ (u : State) (f : Flume),
              exec (.flnew g d a b) s = .next (((u.popSrcs [a, b]).putG d h).retireTo pc) ∧
              u.flumes = s.flumes ++ [f] ∧ f.fn = s.me.id.fn ∧ f.hdr = h ∧ f.owner = s.me.id ∧ f.slotsz = sz ∧ f.slots = n ∧
              f.bank = (if v.extractLsb' 48 2 = 1 then some (s.me.mill, (v.extractLsb' 50 5).toNat) else none) ∧
              f.base = base ∧ f.wr = 0 ∧ f.rd = 0 ∧ f.rd0 = 0 ∧ f.pond = us ∧ f.gone = false ∧ u.me = s.me ∧
              u.mem = (({ s with flumes := s.flumes ++ [f] } : State).hdrBlkPut s.me.id.fn s.me.id.blk h
                (leBytes 8 v.toNat ++ leBytes 8 (if v.extractLsb' 48 2 = 0 then base else 0).toNat ++
                  leBytes 8 (if v.extractLsb' 48 2 = 1 then base else 0).toNat ++ leBytes 8 0 ++
                  leBytes 8 (s.me.ctxid.toNat % 2 ^ 16) ++ List.replicate 24 0)).mem)))))) ∧
  (∀ (s : State) (g : Guard) (a b : BitVec 5) (hdr : Word) (n : BitVec 32) (pc : Word),
    s.me.ctx.guardTrue g = true → s.SrcReady a → s.SrcReady b → pc = s.me.ctx.pc + 4 → hdr = s.src a →
    n = (s.src b).setWidth 32 →
    (n = 0 → exec (.flawait g a b) s = .next ((s.popSrcs [a, b]).retireTo pc) ∧
      exec (.flrel g a b) s = .next ((s.popSrcs [a, b]).retireTo pc)) ∧
    (n ≠ 0 → s.flume? s.me.id.fn hdr = none → exec (.flawait g a b) s = .next (s.trapAt 0x05 hdr) ∧
      exec (.flrel g a b) s = .next (s.trapAt 0x05 hdr)) ∧
    (∀ f, n ≠ 0 → s.flume? s.me.id.fn hdr = some f →
      (f.owner ≠ s.me.id → exec (.flawait g a b) s = .next (s.trapAt 0x05 hdr) ∧
        exec (.flrel g a b) s = .next (s.trapAt 0x05 hdr)) ∧
      (f.slots < n.toNat → exec (.flawait g a b) s = .next (s.trapAt 0x05 hdr)) ∧
      ((f.wr - f.rd).toNat < n.toNat → exec (.flrel g a b) s = .next (s.trapAt 0x05 hdr)) ∧
      (f.owner = s.me.id → n.toNat ≤ f.slots → n.toNat ≤ (f.wr - f.rd).toNat →
        exec (.flawait g a b) s = .next (((s.mapCtx fun c => { c with clock := max c.clock f.wclk }).popSrcs [a, b]).retireTo pc)) ∧
      (f.owner = s.me.id → n.toNat ≤ f.slots → (f.wr - f.rd).toNat < n.toNat →
        exec (.flawait g a b) s = .next (s.waitOn (.flumeSlots hdr n))) ∧
      (f.owner = s.me.id → n.toNat ≤ (f.wr - f.rd).toNat → ∃ u : State, exec (.flrel g a b) s = .next ((u.popSrcs [a, b]).retireTo pc) ∧
        u.me = s.me ∧ u.flume? s.me.id.fn hdr = some { f with rd := f.rd + n })))

/-- R245, R352: CHBIND binds the end that the node's channel table gives this task, the consumer end where it gives both; what
cannot be bound raises ILLOP. R246: CHCLOSE unbinds, and the register reads zero; of an unbound register it changes nothing.
Each completes here, exec answering the next state that its clause says, under conditions on the state and operands alone:
chclose, chbind. -/
def Obligations.ChannelBinding : Prop :=
  ∀ (s : State) (g : Guard) (d : BitVec 5) (ch : BitVec 12) (pc : Word),
    s.me.ctx.guardTrue g = true → pc = s.me.ctx.pc + 4 → 28 ≤ d.toNat →
    (s.myChan ch = none → exec (.chbind g d ch) s = .next (s.trapAt 0x01 (infoWord (.chbind g d ch)))) ∧
    (∀ x, s.myChan ch = some x →
      (((s.me.ctx.binding d).isSome = true ∨ x.halo = true ∨ x.endOf s.me.id = none ∨
          ∃ r b, s.me.ctx.binding r = some b ∧ b.ch = ch) →
        exec (.chbind g d ch) s = .next (s.trapAt 0x01 (infoWord (.chbind g d ch)))) ∧
      (∀ e, s.me.ctx.binding d = none → x.halo = false → x.endOf s.me.id = some e →
        (∀ r b, s.me.ctx.binding r = some b → b.ch ≠ ch) →
        ∃ u : State, exec (.chbind g d ch) s = .next (u.retireTo pc) ∧ u = { s with me := { s.me with ctx := u.me.ctx } } ∧
          u.me.ctx = { s.me.ctx with bind := u.me.ctx.bind } ∧ u.me.ctx.binding d = some ⟨ch, e⟩ ∧
          ∀ r, r ≠ d → u.me.ctx.binding r = s.me.ctx.binding r) ∧
      (x.peer = 0 → x.ctask = s.me.id.idx → x.endOf s.me.id = some true) ∧
      (x.peer = 0 → x.ctask ≠ s.me.id.idx → x.ptask = s.me.id.idx ∨ x.ptask = 0xFFFFFFFF → x.endOf s.me.id = some false)) ∧
    (s.me.ctx.binding d = none → exec (.chclose g d) s = .next (s.retireTo pc)) ∧
    (∀ b, s.me.ctx.binding d = some b → ∃ u : State, exec (.chclose g d) s = .next (u.retireTo pc) ∧
      u.me.ctx.binding d = none ∧ u.me.ctx.rg d = 0 ∧
      (b.consumer = false → u = { s with me := { s.me with ctx := u.me.ctx } }) ∧
      (b.consumer = true → ∀ x, s.myChan b.ch = some x → x.closed = false →
        ∃ y, u.myChan b.ch = some y ∧ y.closed = true ∧ y.front = [] ∧ y.wire = []))

/-- R136, R137, R138, R205, R423: trap entry of an instruction, for class S and for a stop for the debugger whatever STATUS.TM
holds, for the others with it clear. TRAPPC, TRAPCAUSE and TRAPINFO are written, the REP state moves to its shadow, and the
context is TRAPPED; it goes on at the handler entry with STATUS.TM set where the cause is of class P (BKPT and STEP without a
debugger too) and a handler is named, and is stopped for the driver or, on TRIGSTOP and on BKPT and STEP under a debugger, for
the debugger otherwise. File registers and memory stay as they are. R142: a trap of class P or D with STATUS.TM set, other than
a stop for the debugger, enters no handler: TRAPPC, TRAPINFO and CAUSE stay, DOUBLE is set, CAUSE2 takes the new cause, and the
task is stopped for the driver. The model's own choices and readings in it: log 19, 20, 22. -/
def Obligations.TakingTraps : Prop :=
  (∀ (s : State) (cause : BitVec 8) (info : Word), 
    s.me.ctx.tm = false ∨ cause ∈ [(0x0D : BitVec 8), 0x11, 0x17] ∨ cause ∈ [(0x14 : BitVec 8), 0x15] ∧ s.me.ctx.dbg.getLsbD 0 = true →
    (s.trapAt cause info).me.ctx.trapPc = s.me.ctx.pc ∧
    (s.trapAt cause info).me.ctx.trapCause = cause.setWidth 64 ∧
    (s.trapAt cause info).me.ctx.trapInfo = info ∧
    (s.trapAt cause info).me.ctx.repSh = (if s.me.ctx.rep.count = 0 then ⟨0, 0, 0⟩ else s.me.ctx.rep) ∧
    (s.trapAt cause info).me.ctx.rep = ⟨0, 0, 0⟩ ∧
    (s.trapAt cause info).me.ctx.st = .trapped ∧ (s.trapAt cause info).me.ctx.wait = .none ∧
    (s.trapAt cause info).me.ctx.g = s.me.ctx.g ∧ (s.trapAt cause info).me.ctx.f = s.me.ctx.f ∧
    (s.trapAt cause info).me.ctx.q = s.me.ctx.q ∧ (s.trapAt cause info).me.ctx.h = s.me.ctx.h ∧
    (s.trapAt cause info).mem = s.mem ∧
    (cause ≠ 0x0D → cause ≠ 0x11 → cause ≠ 0x17 →
      (cause ≠ 0x14 ∧ cause ≠ 0x15 ∨ s.me.ctx.dbg.getLsbD 0 = false) →
      (∀ a, s.me.trapEntry = some a → (s.trapAt cause info).me.ctx.pc = a ∧ (s.trapAt cause info).me.ctx.tm = true ∧
        (s.trapAt cause info).me.stop = .none) ∧
      (s.me.trapEntry = none → (s.trapAt cause info).me.ctx.pc = s.me.ctx.pc ∧ (s.trapAt cause info).me.ctx.tm = false ∧
        (s.trapAt cause info).me.stop = .driver)) ∧
    (cause = 0x0D ∨ cause = 0x11 → (s.trapAt cause info).me.stop = .driver) ∧
    (cause = 0x17 ∨ (cause = 0x14 ∨ cause = 0x15) ∧ s.me.ctx.dbg.getLsbD 0 = true →
      (s.trapAt cause info).me.stop = .debugger ∧ (s.trapAt cause info).me.ctx.pc = s.me.ctx.pc)) ∧
  (∀ (s : State) (cause : BitVec 8) (info : Word), s.me.ctx.tm = true → cause ≠ 0x0D → cause ≠ 0x11 →
    cause ≠ 0x17 → (cause ≠ 0x14 ∧ cause ≠ 0x15 ∨ s.me.ctx.dbg.getLsbD 0 = false) →
    (s.trapAt cause info).me.ctx.trapPc = s.me.ctx.trapPc ∧ (s.trapAt cause info).me.ctx.trapInfo = s.me.ctx.trapInfo ∧
    (s.trapAt cause info).me.ctx.pc = s.me.ctx.pc ∧ (s.trapAt cause info).me.ctx.tm = true ∧
    (s.trapAt cause info).me.stop = .driver ∧ (s.trapAt cause info).me.ctx.st = .trapped ∧
    (∀ k, k < 64 → (s.trapAt cause info).me.ctx.trapCause.getLsbD k =
      if k = 11 then true else if 16 ≤ k ∧ k < 24 then cause.getLsbD (k - 16) else s.me.ctx.trapCause.getLsbD k) ∧
    (s.trapAt cause info).me.ctx.g = s.me.ctx.g ∧ (s.trapAt cause info).mem = s.mem)

/-- R256, R257, R140, R258, R205: TRAP and BKPT retire and trap with TRAPPC at the next instruction; ERET goes back to TRAPPC
with STATUS.TM cleared and the REP state of the shadow, and raises ILLOP with TM clear or inside a REP body. Each completes
here, exec answering the next state that its clause says, under conditions on the state and operands alone: eret, bkpt, trap.
The model's own choices and readings in it: log 20, 25, 35. -/
def Obligations.TrapsAndReturn : Prop :=
  ∀ (s : State) (g : Guard) (n : BitVec 12), s.me.ctx.guardTrue g = true →
    (exec (.trap g n) s = .next (((s.mapCtx fun c => (c.advance (s.me.ctx.pc + 4)).retire s.time)).trapAt 0x19 (n.setWidth 64))) ∧
    (exec (.bkpt g) s = .next (((s.mapCtx fun c => (c.advance (s.me.ctx.pc + 4)).retire s.time)).trapAt 0x14 s.me.ctx.pc)) ∧
    (s.me.ctx.tm = false ∨ s.me.ctx.rep.count ≠ 0 →
      exec (.eret g) s = .next (s.trapAt 0x01 (infoWord (.eret g)))) ∧
    (s.me.ctx.rep.count = 0 → s.me.ctx.tm = true → s.me.ctx.dbg.getLsbD 0 = false →
      ∃ t : State, exec (.eret g) s = .next t ∧ t.me.ctx.pc = s.me.ctx.trapPc ∧ t.me.ctx.tm = false ∧ t.me.ctx.st = .runnable ∧
        t.me.ctx.rep = (if s.me.ctx.repSh.count = 0 then ⟨0, 0, 0⟩ else s.me.ctx.repSh) ∧
        t.me.ctx.g = s.me.ctx.g ∧ t.me.ctx.q = s.me.ctx.q ∧ t.me.ctx.f = s.me.ctx.f ∧ t.me.ctx.h = s.me.ctx.h ∧
        t.me.ctx.trapPc = s.me.ctx.trapPc ∧ t.me.ctx.trapCause = s.me.ctx.trapCause ∧
        t.me.ctx.trapInfo = s.me.ctx.trapInfo ∧ t.me.ctx.fpf = s.me.ctx.fpf ∧ t.me.ctx.fpe = s.me.ctx.fpe ∧
        t.mem = s.mem)

/-- R179, R228, R229, R59: MFS reads each system register, zero-extended; MTS writes the RW fields of the named register, clears
W1C flags but for those set in this cycle, leaves RO registers alone, and raises PRIV for DBGCTL under a debugger. R250, R254,
R259, R255: NSTEPI adds modulo 2^32; CTRSEL selects and clears, CTRON and CTROFF start and stop, CTRRD reads the 48 bits; WFE
retires and clears the event latch, or stalls; MARK and TRIG change nothing a program can read. Each completes here, exec
answering the next state that its clause says, under conditions on the state and operands alone: mfs, mts, wfe, ctron, ctroff,
ctrrd, nstepi, ctrsel, mark, trig. -/
def Obligations.SpecialRegistersAndCounters : Prop :=
  (∀ (s : State) (g : Guard) (d a : BitVec 5) (c : Ctx) (v : Word) (pc : Word),
    s.me.ctx.guardTrue g = true → pc = s.me.ctx.pc + 4 → c = s.me.ctx → v = s.src a →
    (s.DstReady d → ∀ y ∈ [((0x000 : BitVec 12), s.me.ctxid),
        (0x001, (0#43 ++ c.fpe ++ 0#3 ++ c.fpf ++ 0#5 ++ BitVec.ofBool s.me.eff.world ++ BitVec.ofBool s.me.busy ++
          BitVec.ofBool c.tm : BitVec 64)),
        (0x002, c.nseed), (0x003, c.nstep.setWidth 64), (0x004, BitVec.ofNat 64 s.me.nmills),
        (0x005, if s.me.eff.det then 1 else 0), (0x008, c.trapPc), (0x009, c.trapCause),
        (0x00A, c.trapInfo), (0x00B, c.atomFlags), (0x00C, c.dbg), (0x00E, c.repSh.first), (0x00F, c.repSh.stop),
        (0x010, c.repSh.count)],
      exec (.mfs g d y.1) s = s.answerG [] d y.2 pc) ∧
    (s.DstReady d → exec (.mfs g d 0x006) s =
      s.answerG [] d (BitVec.ofNat 64 (s.me.knet.toNat + if s.me.long then 256 else 0)) pc) ∧
    (s.SrcReady a →
      (∀ y ∈ [((0x000 : BitVec 12), fun c => c), (0x004, fun c => c), (0x005, fun c => c), (0x006, fun c => c),
          (0x001, fun c => { c with tm := v.getLsbD 0, fpf := v.extractLsb' 8 5, fpe := v.extractLsb' 16 5 }),
          (0x002, fun c => { c with nseed := v }), (0x003, fun c => { c with nstep := v.setWidth 32 }),
          (0x008, fun c => { c with trapPc := v }), (0x00A, fun c => { c with trapInfo := v }),
          (0x009, fun c => { c with trapCause := v &&& 0xFFFFFFFF00FF0FFF }),
          (0x00B, fun c => { c with atomFlags := (((c.atomFlags &&& ~~~v) ||| c.atomSet) &&& 0x1F) ||| (v &&& 0x10000) }),
          (0x00E, fun c => { c with repSh := { c.repSh with first := v } }),
          (0x00F, fun c => { c with repSh := { c.repSh with stop := v } }),
          (0x010, (fun c => { c with repSh := { c.repSh with count := v } } : Ctx → Ctx))],
        exec (.mts g y.1 a) s = .next (((s.popSrcs [a]).mapCtx y.2).retireTo pc)) ∧
      (c.dbg.getLsbD 0 = true → exec (.mts g 0x00C a) s = .next (s.trapAt 0x02 (infoWord (.mts g 0x00C a)))) ∧
      (c.dbg.getLsbD 0 = false → exec (.mts g 0x00C a) s = .next (((s.popSrcs [a]).mapCtx fun c =>
        { c with dbg := (c.dbg &&& ~~~0x1F1E) ||| (v &&& 0x1F1E) }).retireTo pc)))) ∧
  (∀ (s : State) (g : Guard) (d k : BitVec 5) (n : BitVec 12) (imm : BitVec 17) (pc : Word) (j : Nat) (hj : j < 4),
    s.me.ctx.guardTrue g = true → pc = s.me.ctx.pc + 4 → j = k.toNat % 4 →
    exec (.nstepi g imm) s =
      .next ((s.mapCtx fun c => { c with nstep := BitVec.ofNat 32 (c.nstep.toNat + imm.toNat) }).retireTo pc) ∧
    exec (.ctrsel g k n) s = .next ((s.mapCtx fun c =>
      { c with ctrs := c.ctrs.set j { (c.ctrs[j]'hj) with ev := n, val := 0 } hj }).retireTo pc) ∧
    exec (.ctron g k) s = .next ((s.mapCtx fun c => { c with ctrs := c.ctrs.set j { (c.ctrs[j]'hj) with on := true } hj }).retireTo pc) ∧
    exec (.ctroff g k) s = .next ((s.mapCtx fun c => { c with ctrs := c.ctrs.set j { (c.ctrs[j]'hj) with on := false } hj }).retireTo pc) ∧
    (s.DstReady d → exec (.ctrrd g d k) s = s.answerG [] d ((s.me.ctx.ctrs[j]'hj).val.setWidth 64) pc) ∧
    (s.me.ctx.latch = true → exec (.wfe g) s = .next ((s.mapCtx fun c => { c with latch := false }).retireTo pc)) ∧
    (s.me.ctx.latch = false → exec (.wfe g) s = .next (s.waitOn .wfe)) ∧
    (∃ u : State, exec (.mark g n) s = .next (u.retireTo pc) ∧ u.me.ctx = s.me.ctx ∧ u.mem = s.mem ∧ u.chans = s.chans ∧
      (s.me.ctx.dbg.getLsbD 4 = false → s.me.ctx.dbg.getLsbD 3 = false → u = s) ∧
      (s.me.ctx.dbg.getLsbD 4 = true → u.me.run.ident = s.me.run.ident + 1)) ∧
    (∃ u : State, exec (.trig g n) s = .next (u.retireTo pc) ∧ u = { s with trigSrc := u.trigSrc } ∧
      (s.me.id.fn, dieOf s.me.mill, 1, n.toNat) ∈ u.trigSrc))

/-- R436, R254, R435: a counter that is on and counts the event adds modulo 2^48 and notes a wrap with the event; the others
stand. At a wrap an OVF record is written, MSI-X vector 3 of the function that owns the task fires and SRCOVF is a source; no
context takes a trap. Each completes here, exec answering the next state that its clause says, under conditions on the state and
operands alone: counterWrap. -/
def Obligations.CounterWraps : Prop :=
  (∀ (c : Counter) (e n : Nat), c.on = true → c.ev.toNat = e → (c.count e n).val.toNat = (c.val.toNat + n) % 2 ^ 48 ∧
    (c.count e n).wrapped = if 2 ^ 48 ≤ c.val.toNat + n then some c.ev else c.wrapped) ∧
  (∀ (c : Counter) (e n : Nat), c.on = false ∨ c.ev.toNat ≠ e → c.count e n = c) ∧
  (∀ (s : State) (i : Fin 4) (ev : BitVec 12), s.cur.arg.n = i.val → s.me.ctx.ctrs[i].wrapped = some ev →
    ∃ t : State, exec .counterWrap s = .next t ∧
    (t.fn s.me.id.fn).msix.getLsbD 3 = true ∧ (s.me.id.fn, dieOf s.me.mill, 8, 0) ∈ t.trigSrc ∧
    t.me.ctx.pend = s.me.ctx.pend ∧ t.me.ctx.st = s.me.ctx.st ∧ t.me.ctx.pc = s.me.ctx.pc ∧ t.me.stop = s.me.stop ∧
    t.tasks = s.tasks ∧ t.me.ctx.ctrs = s.me.ctx.ctrs.set i { s.me.ctx.ctrs[i] with wrapped := none } ∧
    ((s.fn s.me.id.fn).tren = true → (s.fn s.me.id.fn).frozenDies = [] → (t.mill s.me.mill).trace =
      (s.mill s.me.mill).trace ++ [⟨s.me.id.fn, [traceHead s.me 7 1, BitVec.ofNat 64 s.time, BitVec.ofNat 64 i.val,
        ev.setWidth 64], 1⟩]))

/-- R260, R253, R102, R103: TLBINV drops the mill's entries of the page in question and never traps; RSVPIN sets a retention
register of the partition and RSVUNPIN clears its VALID, both ILLOP on a number outside 0 to 15, RSVPIN on a range that is none;
either unpins the lines the register pinned. Each completes here, exec answering the next state that its clause says, under
conditions on the state and operands alone: rsvpin, rsvunpin, tlbinv. The model's own choices and readings in it: log 18, 98. -/
def Obligations.TranslationAndRetention : Prop :=
  ∀ (s : State) (g : Guard) (d a b : BitVec 5) (pc : Word),
    s.me.ctx.guardTrue g = true → pc = s.me.ctx.pc + 4 → s.SrcReady d → s.SrcReady a → s.SrcReady b →
    (∃ u : State, exec (.tlbinv g a) s = .next ((u.popSrcs [a]).retireTo pc) ∧ u = { s with mills := u.mills } ∧
      (canonical (s.src a) = false → u = s) ∧
      (canonical (s.src a) = true → ∀ e ∈ (u.mill s.me.mill).tlb, e.hits s.me.id.fn (s.src a) = false) ∧
      ∀ m, m ≠ s.me.mill → u.mill m = s.mill m) ∧
    (∀ n, (h : n < 16) → (s.src d).toNat = n → canonical (s.src a) = true → canonical (s.src b) = true →
      ((s.src a).extractLsb' 16 41).toNat ≤ ((s.src b).extractLsb' 16 41).toNat →
      ∃ u : State, exec (.rsvpin g d a b) s = .next ((u.popSrcs [d, a, b]).retireTo pc) ∧
        (∀ x ∈ u.rsv, ∀ l ∈ x.2, l.fn = s.me.id.fn → l.pin ≠ some n) ∧
        u = ({ s with rsv := u.rsv } : State).setFn s.me.id.fn { s.fn s.me.id.fn with
          retain := (s.fn s.me.id.fn).retain.set n
            ((0#7 ++ (s.src a).extractLsb' 16 41 ++ 1#16 : BitVec 64), (0#7 ++ (s.src b).extractLsb' 16 41 ++ 0#16 : BitVec 64)) h }) ∧
    (16 ≤ (s.src d).toNat ∨ canonical (s.src a) = false ∨ canonical (s.src b) = false ∨
        ((s.src b).extractLsb' 16 41).toNat < ((s.src a).extractLsb' 16 41).toNat →
      exec (.rsvpin g d a b) s = .next (s.trapAt 0x01 (infoWord (.rsvpin g d a b)))) ∧
    (∀ n, (h : n < 16) → (s.src a).toNat = n → ∃ u : State, exec (.rsvunpin g a) s = .next ((u.popSrcs [a]).retireTo pc) ∧
      (∀ x ∈ u.rsv, ∀ l ∈ x.2, l.fn = s.me.id.fn → l.pin ≠ some n) ∧
      u.mem = s.mem ∧ u.me = s.me ∧ (u.fn s.me.id.fn).retain = (s.fn s.me.id.fn).retain.set n
        ((((s.fn s.me.id.fn).retain[n]).1 &&& ~~~1), ((s.fn s.me.id.fn).retain[n]).2) h) ∧
    (16 ≤ (s.src a).toNat → exec (.rsvunpin g a) s = .next (s.trapAt 0x01 (infoWord (.rsvunpin g a))))

/-- R182, R247, R248, R264: SCI and SCM. A refused word traps with the instruction word and changes nothing; a command that
finds room takes the next number, never 0, and is accepted with the seed and step of its context; gD takes its number. Without
room in queue or footprint table the instruction stalls. SCM reads its command by an ordinary load, and stops with SEVERED where
the path to another package's object is lost. R249, R121: SCW retires at once for 0; it waits for the command named and those
accepted before it, or for every command where the number is none of the last 2^31; its clock then reaches their writes. Each
completes here, exec answering the next state that its clause says, under conditions on the state and operands alone: scm, sci,
scw. The model's own choices and readings in it: log 52, 56. -/
def Obligations.CommandIssueAndWait : Prop :=
  (∀ (s : State) (g : Guard) (d a : BitVec 5) (w : BitVec 128) (i : Instr) (base anchor : Word) (n : BitVec 32),
    n = (if s.me.ctx.seq = 0xFFFFFFFF then 1 else s.me.ctx.seq + 1) →
    (∀ c, s.refuses w = some c → issueCmd i w base anchor s = .trap c (infoWord i)) ∧
    (s.refuses w = none → ∀ (bs : List Byte) (u : State),
      (blockHead (cOp w).toNat = 0 ∧ bs = [] ∧ u = s ∨ blockHead (cOp w).toNat ≠ 0 ∧
        readBlock s (cOp w).toNat ((anchor &&& ~~~63) + (cBlk w).signExtend 64 * 64) = .ok bs u) →
      ∀ (c : Cmd), c = { newCmd s.me w base ((anchor &&& ~~~63) + (cBlk w).signExtend 64 * 64) (s.mill s.me.mill).accn with
        raw := bs } →
      ∀ fs, fs = footOf ((c.spans s.me.size (s.me.copyWrites c.portNo)).getD []) →
      (16 ≤ (u.me.cmds.filter Cmd.live).length ∨ 32 < u.feet.length + fs.length →
        issueCmd i w base anchor s = .wait (.dispatcher fs.length)) ∧
      ((u.me.cmds.filter Cmd.live).length < 16 → u.feet.length + fs.length ≤ 32 → u.me.eff.det = false →
        u.spillFits u.me.id.fn u.me.id.blk 0 = true → ∃ (t : State) (x : Cmd),
          issueCmd i w base anchor s = .ok n t ∧ x.seq = n ∧ n ≠ 0 ∧ x.word = w ∧ x.base = base ∧ x.ipc = s.me.ctx.pc ∧
          x.raw = bs ∧ x.foot = fs ∧ x.nseed = s.me.ctx.nseed ∧ x.nstep = s.me.ctx.nstep ∧
          x.phase = (if (cOp w).toNat = 1 then .done else .accepted) ∧
          t.me.ctx.seq = n ∧ x ∈ t.me.cmds ∧ (∀ y ∈ u.me.cmds, y.live = true → y ∈ t.me.cmds) ∧
          t.me.ctx.g = u.me.ctx.g ∧ t.mem = u.mem)) ∧
    (s.me.ctx.guardTrue g = true → s.SrcReady a → s.DstReady d →
      (∀ c x, issueCmd (.sci g d a w) w (s.src a) s.me.ctx.pc s = .trap c x → exec (.sci g d a w) s = .next (s.trapAt c x)) ∧
      (∀ x, issueCmd (.sci g d a w) w (s.src a) s.me.ctx.pc s = .wait x → exec (.sci g d a w) s = .next (s.waitOn x)) ∧
      (∀ q u, issueCmd (.sci g d a w) w (s.src a) s.me.ctx.pc s = .ok q u →
        exec (.sci g d a w) s = .next (((u.popSrcs [a]).putG d (q.setWidth 64)).retireTo (u.me.ctx.pc + 20))) ∧
      (∀ u t, checkAccess s (s.src a) 16 .load = .ok u t → u.severed t = true →
        exec (.scm g d a) s = .next (u.stopMe 0x16 (s.src a))) ∧
      (∀ u t bs v, checkAccess s (s.src a) 16 .load = .ok u t → u.severed t = false →
        loadTarget (u.accessEvent t 16 (s.src a) false) (s.src a) t 16 = (bs, v) →
        (∀ x, issueCmd (.scm g d a) (BitVec.ofNat 128 (leNat bs)) 0 (s.src a) v = .wait x →
          exec (.scm g d a) s = .next (s.waitOn x)) ∧
        (∀ c x, issueCmd (.scm g d a) (BitVec.ofNat 128 (leNat bs)) 0 (s.src a) v = .trap c x →
          exec (.scm g d a) s = .next (s.trapAt c x)) ∧
        (∀ q y, issueCmd (.scm g d a) (BitVec.ofNat 128 (leNat bs)) 0 (s.src a) v = .ok q y →
          exec (.scm g d a) s = .next (((y.popSrcs [a]).putG d (q.setWidth 64)).retireTo (y.me.ctx.pc + 4)))))) ∧
  (∀ (s : State) (g : Guard) (a : BitVec 5) (n : BitVec 32) (pc : Word),
    s.me.ctx.guardTrue g = true → s.SrcReady a → pc = s.me.ctx.pc + 4 → n = (s.src a).setWidth 32 →
    (n = 0 → exec (.scw g a) s = .next ((s.popSrcs [a]).retireTo pc)) ∧
    (n ≠ 0 → (∀ p ∈ s.me.ctx.pend, p.origin ≠ 1) →
      (∀ x, (s.me.ctx.seq - n).toNat < 2 ^ 31 → s.me.cmd? n = some x →
        ((∃ y ∈ s.me.cmds, y.acc ≤ x.acc ∧ y.live = true) → exec (.scw g a) s = .next (s.waitOn (.scw n))) ∧
        ((∀ y ∈ s.me.cmds, y.acc ≤ x.acc → y.live = false) → ∃ k, exec (.scw g a) s =
            .next (((s.mapCtx fun c => { c with clock := k }).popSrcs [a]).retireTo pc) ∧ s.me.ctx.clock ≤ k ∧
          ∀ y ∈ s.me.cmds, y.acc ≤ x.acc → y.wclk ≤ k)) ∧
      (2 ^ 31 ≤ (s.me.ctx.seq - n).toNat →
        ((∃ y ∈ s.me.cmds, y.live = true) → exec (.scw g a) s = .next (s.waitOn (.scw n))) ∧
        ((∀ y ∈ s.me.cmds, y.live = false) → ∃ k, exec (.scw g a) s =
            .next (((s.mapCtx fun c => { c with clock := k }).popSrcs [a]).retireTo pc) ∧ s.me.ctx.clock ≤ k ∧
          ∀ y ∈ s.me.cmds, y.wclk ≤ k))))

/-- R262, R263, R264, R119, R292, R386: the start of a command. It is held back while an earlier command holds one of its ports
or overlaps its footprint, but of the cards that wait behind one job the highest PRIO goes first; the first check that fails
stops it with a fault record, and nothing moves (a block in an abandoned object ends the command alone); else it runs from its
first iteration. R263, R276, R259: the retirement of a finished command. Its footprint is released, its event latch set and its
number live no more; a status record takes DONE, PSAT, CAUSE and SEQ before that, and the retirement waits where the write does.
Each completes here, exec answering the next state that its clause says, under conditions on the state and operands alone:
commandRetire. The model's own choices and readings in it: log 4. -/
def Obligations.CommandStartAndRetirement : Prop :=
  (∀ (s : State) (c : Cmd) (p : BitVec 6) (blk st lim : BitVec 24) (rop esz : BitVec 4) (n : BitVec 32), s.Focus c .accepted →
    (s.startable c = false → ∀ i ∈ [Instr.scCopy p blk, .scRcopy p blk rop st, .scGath p blk esz lim, .scScat p blk esz lim,
        .scSlfill p blk, .scSlsee p blk, .scJob p blk, .scHalo p blk, .scColl p blk, .scFlume p n, .scCfg blk, .scSwap,
        .scFence, .scDrain p],
      exec i s = .next s) ∧
    (s.startable c = true →
      (∀ e va, s.startFault c = some (e, va) → ∀ i ∈ [Instr.scCopy p blk, .scRcopy p blk rop st, .scGath p blk esz lim,
          .scScat p blk esz lim, .scSlfill p blk, .scSlsee p blk, .scJob p blk, .scHalo p blk, .scColl p blk, .scFlume p n,
          .scDrain p],
        (e ≠ 0x08 → exec i s = .next (s.cmdFault c e va [])) ∧
        (e = 0x08 → exec i s = .next ((s.cmdRecord c e va []).endCmd c e))) ∧
      (s.startFault c = none →
        (∀ t, patOf c.raw = some t → ∀ i ∈ [Instr.scCopy p blk, .scRcopy p blk rop st, .scGath p blk esz lim,
            .scScat p blk esz lim, .scSlfill p blk, .scSlsee p blk],
          exec i s = .next (s.mapCmd c.seq fun x =>
            { x with phase := .running, ctr := List.replicate t.counts.length 0, sub := 0 })) ∧
        (∀ t, cardOf c.raw c.base = some t → exec (.scJob p blk) s =
          .next ((s.mapRun fun r => { r with anc := (c.seq, t.anc, t.cfmt) :: r.anc.filter fun x => x.1 != c.seq }).mapCmd c.seq fun x =>
            { x with phase := .running, ctr := List.replicate t.counts.length 0, sub := 0 })) ∧
        exec (.scHalo p blk) s = .next (s.mapCmd c.seq fun x => { x with phase := .running, ctr := [], sub := 0 }) ∧
        (s.cmdFlume c = none → exec (.scFlume p n) s = .next (s.cmdFault c 0x05 c.base [])) ∧
        ((s.cmdFlume c).isSome = true → exec (.scFlume p n) s =
          .next (s.mapCmd c.seq fun x => { x with phase := .running, ctr := [0], sub := 0 })))) ∧
    (∀ x ∈ s.me.cmds, x.acc < c.acc → c.ports.any x.holdsPort = true →
      ¬(c.op = 0x12 ∧ x.op = 0x12 ∧ x.portNo = c.portNo ∧ x.phase = .accepted ∧ x.cardPrio < c.cardPrio) → s.startable c = false) ∧
    (∀ x ∈ s.me.cmds, c.acc < x.acc → x.op = 0x12 → c.op = 0x12 → x.phase = .accepted → x.portNo = c.portNo → c.cardPrio < x.cardPrio →
      s.me.behindJob c = true → s.mayStart x = true → s.startable c = false) ∧
    (∀ x ∈ s.me.cmds, s.me.isPlaced = true → x.live = true → x.acc < c.acc → feetClash true x.foot c.foot = true →
      s.startable c = false) ∧
    (∀ e, c.rawErr = some e → s.startFault c = some e) ∧
    (c.rawErr = none → c.spans s.me.size true = none → s.startFault c = some (0x01, c.blk))) ∧
  (∀ (s : State) (c : Cmd), s.Focus c .finished →
    (c.status = none → ∃ t : State, exec .commandRetire s = .next t ∧ t.me.ctx.latch = true ∧
      (∃ y, t.me.cmd? c.seq = some y ∧ y.live = false ∧ y.foot = []) ∧ t.mem = s.mem) ∧
    (∀ va rec, c.status = some va →
      rec = leBytes 8 ((if c.cause = 0 then 1 else 0) + (if c.psat then 2 else 0) + c.cause.toNat * 2 ^ 8 + c.seq.toNat * 2 ^ 32) →
      (engWrite (enginePlace false) s va rec = .wait → exec .commandRetire s = .next s) ∧
      (∀ u e a, engWrite (enginePlace false) s va rec = .fault u e a → exec .commandRetire s = .next (u.cmdFault c e a c.ctr)) ∧
      (∀ clk u, engWrite (enginePlace false) s va rec = .ok clk u → ∃ t : State, exec .commandRetire s = .next t ∧
        t.mem = u.mem ∧ t.me.ctx.latch = true)))

/-- R267, R271, R272, R273, R275, R159: one unit of a running copy. An output command takes its unit from the port, once it has
arrived, and writes it at the unit's address (in a fill slot; at the element an index names), and an input command reads its
unit and presents it; a read of a see mapping parks or ends with SLABANDON by the object's state. A unit address that is not
aligned stops it with ALIGN and its counters. A reducing copy combines the units of a 64-byte chunk once, as one step; where a
unit faults it stops with that unit's counters, those before it performed (R144), and where one has to wait none of them is.
Each completes here, exec answering the next state that its clause says, under conditions on the state and operands alone:
scCopy, scRcopy, scGath, scScat, scSlfill, scSlsee. The model's own choices and readings in it: log 44, 55, 60, 111, 117. -/
def Obligations.CopiesMoveUnits : Prop :=
  ∀ (s : State) (c : Cmd) (p : BitVec 6) (blk st lim : BitVec 24) (rop esz : BitVec 4) (t : Pat) (va : Word) (q : List Byte)
    (next : List Nat), s.Focus c .running → patOf c.raw = some t →
    va = c.base + BitVec.ofInt 64 (t.offset + dotCtr c.ctr t.strides) → q = (s.me.run.port c.portNo).outq →
    next = (if (nextIter c.ctr t.counts).2 then [] else (nextIter c.ctr t.counts).1) →
    ((s.me.run.decl c.portNo).out = true → va.toNat % 4 ≠ 0 → exec (.scCopy p blk) s = .next (s.cmdFault c 0x03 va c.ctr)) ∧
    (va.toNat % 4 = 0 → q.length < 4 * t.usz → exec (.scSlfill p blk) s = .next s ∧
      ((s.me.run.decl c.portNo).out = true → exec (.scCopy p blk) s = .next s)) ∧
    (va.toNat % 4 = 0 → 4 * t.usz ≤ q.length →
      (∀ clk u, engWrite (slotPlace true) s va (q.take (4 * t.usz)) = .ok clk u →
        exec (.scSlfill p blk) s = .next (u.wroteUnit c c.portNo (4 * t.usz) clk [] false next)) ∧
      (∀ u e v, engWrite (slotPlace true) s va (q.take (4 * t.usz)) = .fault u e v →
        exec (.scSlfill p blk) s = .next (u.cmdFault c e v c.ctr)) ∧
      ((s.me.run.decl c.portNo).out = true →
        (∀ clk u, engWrite (enginePlace false) s va (q.take (4 * t.usz)) = .ok clk u →
          exec (.scCopy p blk) s = .next (u.wroteUnit c c.portNo (4 * t.usz) clk [] false next)) ∧
        (∀ u e v, engWrite (enginePlace false) s va (q.take (4 * t.usz)) = .fault u e v →
          exec (.scCopy p blk) s = .next (u.cmdFault c e v c.ctr)))) ∧
    (c.ctr ≠ [] →
      (q.length / (4 * t.usz) < t.chunkLeft c.ctr → (s.me.run.port c.portNo).ctlq = [] → exec (.scRcopy p blk rop st) s = .next s) ∧
      (t.chunkLeft c.ctr = 1 → 4 * t.usz ≤ q.length → c.bits.testBit (t.chunk c.ctr % 262144) = false →
        va.toNat % ropAlign (cRop c.word) = 0 → ∀ tile clk sat u,
        engReduce (enginePlace false) s va (cRop c.word) c.seq (q.take (4 * t.usz)) = .ok (tile, clk, sat) u →
        exec (.scRcopy p blk rop st) s = .next (if next ≠ c.ctr ∧ (next = [] ∨ t.chunk next ≠ t.chunk c.ctr) then
            (u.wroteUnit c c.portNo (4 * t.usz) clk [tile] sat next).mapCmd c.seq fun x => x.setBit (t.chunk c.ctr)
          else u.wroteUnit c c.portNo (4 * t.usz) clk [tile] sat next)) ∧
      (c.bits.testBit (t.chunk c.ctr % 262144) = true → ∃ u, exec (.scRcopy p blk rop st) s = .next u ∧ u.mem = s.mem) ∧
      (t.chunkLeft c.ctr * (4 * t.usz) ≤ q.length → 0 < t.usz → 0 < t.chunkLeft c.ctr → c.bits.testBit (t.chunk c.ctr % 262144) = false →
        (va.toNat % ropAlign (cRop c.word) ≠ 0 → exec (.scRcopy p blk rop st) s = .next (s.cmdFault c 0x03 va c.ctr)) ∧
        (va.toNat % ropAlign (cRop c.word) = 0 →
          (engReduce (enginePlace false) s va (cRop c.word) c.seq (q.take (4 * t.usz)) = .wait →
            exec (.scRcopy p blk rop st) s = .next s) ∧
          (∀ u e v, engReduce (enginePlace false) s va (cRop c.word) c.seq (q.take (4 * t.usz)) = .fault u e v →
            exec (.scRcopy p blk rop st) s = .next (u.cmdFault c e v c.ctr)) ∧
          (∀ tile clk sat u w y e v x, t.chunkLeft c.ctr = 2 →
            engReduce (enginePlace false) s va (cRop c.word) c.seq (q.take (4 * t.usz)) = .ok (tile, clk, sat) u →
            w = u.wroteUnit c c.portNo (4 * t.usz) clk [tile] sat next → w.me.cmd? c.seq = some y → w.cur.seq = c.seq →
            v = t.addr y.base y.ctr → v.toNat % ropAlign (cRop y.word) = 0 →
            engReduce (enginePlace false) w v (cRop y.word) y.seq ((w.me.run.port y.portNo).outq.take t.unit) = .fault x e v →
            exec (.scRcopy p blk rop st) s = .next (x.cmdFault y e v y.ctr))))) ∧
    (∀ a u clk v, indexed t s c = .ok a u → 2 ^ cRop c.word ≤ (u.me.run.port c.portNo).outq.length →
      engWrite (enginePlace false) u a ((u.me.run.port c.portNo).outq.take (2 ^ cRop c.word)) = .ok clk v →
      exec (.scScat p blk esz lim) s = .next (v.wroteUnit c c.portNo (2 ^ cRop c.word) clk [] false next)) ∧
    ((s.me.run.port c.portNo).offer = [] →
      (c.ctr = [] → exec (.scGath p blk esz lim) s = .next (s.finishCmd c.seq) ∧
        exec (.scSlsee p blk) s = .next (s.finishCmd c.seq) ∧
        ((s.me.run.decl c.portNo).out = false → exec (.scCopy p blk) s = .next (s.finishCmd c.seq))) ∧
      (c.ctr ≠ [] → va.toNat % 4 = 0 →
        ((s.me.run.decl c.portNo).out = false → ∀ bs u, engRead (enginePlace false) s va (4 * t.usz) c.nseed c.nstep = .ok bs u →
          exec (.scCopy p blk) s = .next (u.presentUnit c (enginePlace false) va bs next)) ∧
        (∀ w x, slotPlace false s va .engRead = .ok w x → w.severed x = false → seeCheck w x = none →
          ∀ bs u, engRead (slotPlace false) s va (4 * t.usz) c.nseed c.nstep = .ok bs u →
          exec (.scSlsee p blk) s = .next (u.presentUnit c (slotPlace false) va bs next)) ∧
        (∀ a u bs v, indexed t s c = .ok a u → engRead (enginePlace false) u a (2 ^ cRop c.word) c.nseed c.nstep = .ok bs v →
          exec (.scGath p blk esz lim) s = .next (v.presentUnit c (enginePlace false) a bs next)))) ∧
    ((s.me.run.port c.portNo).offer = [] → c.ctr ≠ [] →
      (va.toNat % 4 ≠ 0 → exec (.scSlsee p blk) s = .next (s.cmdFault c 0x03 va c.ctr)) ∧
      (va.toNat % 4 = 0 → ∀ w x, slotPlace false s va .engRead = .ok w x →
        (w.severed x = true → exec (.scSlsee p blk) s = .next (s.stopMe 0x16 va)) ∧
        (w.severed x = false → (∀ y, seeCheck w x = some (.error y) → exec (.scSlsee p blk) s = .next s) ∧
          (∀ e, seeCheck w x = some (.ok e) → exec (.scSlsee p blk) s = .next (s.endCmd c e))))) ∧
    (∀ (w : State) o off x, w.objs.find? (fun o' => o'.id == o) = some x →
      (x.st = .filling → seeCheck w (.sluice o off false) = some (.error (.seeLoad o))) ∧
      (x.st = .abandoned → seeCheck w (.sluice o off false) = some (.ok 0x08)) ∧
      (x.st = .published → seeCheck w (.sluice o off false) = none))

/-- R278, R279, R280, R281, R282, R283: the commands of ports, order and configurations. SC.BIND discards the burst state and
sets the class, BURSTBAD where a burst was incomplete; SC.TOK and SC.DRAIN inject their token and retire when it is taken,
SC.TOK at an output port pushes; SC.FENCE waits for every command before it; SC.CFG loads the inactive plane or marks it
invalid; SC.SWAP waits for an empty run and exchanges the planes, or raises CFGREJ. Each completes here, exec answering the next
state that its clause says, under conditions on the state and operands alone: scNop, scBind, scFence, scTok, scDrain, scCfg,
scSwap. The model's own choices and readings in it: log 61, 89. -/
def Obligations.PortOrderAndConfigurationCommands : Prop :=
  ∀ (s : State) (c : Cmd) (p : BitVec 6) (blk : BitVec 24) (cls : BitVec 2) (ch : BitVec 12) (tag : Word) (x : Port),
    x = s.me.run.port c.portNo →
    (s.Focus c .accepted → s.startable c = true →
      (s.startFault c = none →
        (x.due = 0 → x.coord = none → exec (.scBind p cls) s = .next ((s.mapRun fun r => r.mapPort c.portNo fun y => { y with
          hdr := none, due := 0, coord := none, ehdr := 0, row := 0, rowDue := [], half := none, cls := cls }).finishCmd c.seq)) ∧
        (x.due ≠ 0 → exec (.scBind p cls) s = .next ((s.mapRun fun r => r.mapPort c.portNo fun y => { y with
          hdr := none, due := 0, coord := none, ehdr := 0, row := 0, rowDue := [], half := none }).cmdFault c 0x11 0 [])) ∧
        ((s.me.run.decl c.portNo).out = false → exec (.scTok p ch tag) s =
          .next ((s.offerCtl c.portNo (.tag ch tag c.seq c.ipc)).mapCmd c.seq fun x =>
            { x with phase := .running, ctr := [], sub := 0 })) ∧
        exec (.scDrain p) s = .next ((s.offerCtl c.portNo .accsw).mapCmd c.seq fun x =>
          { x with phase := .running, ctr := [], sub := 0 })) ∧
      exec .scNop s = .next (s.finishCmd c.seq) ∧
      exec .scFence s = .next (s.mapCmd c.seq fun x => { x with phase := .running, ctr := [], sub := 0 }) ∧
      exec .scSwap s = .next (s.mapCmd c.seq fun x => { x with phase := .running, ctr := [], sub := 0 }) ∧
      ((∃ y ∈ s.me.cmds, y.live = true ∧ y.acc < c.acc ∧ (y.op = 0x10 ∨ y.op = 0x11)) → exec (.scCfg blk) s = .next s) ∧
      ((∀ y ∈ s.me.cmds, y.live = true → y.acc < c.acc → y.op ≠ 0x10 ∧ y.op ≠ 0x11) →
        exec (.scCfg blk) s = .next (s.mapCmd c.seq fun x => { x with phase := .running, ctr := [], sub := 0 }))) ∧
    (s.Focus c .running →
      ((s.me.run.decl c.portNo).out = false →
        (x.offer = [] → exec (.scTok p ch tag) s = .next (s.finishCmd c.seq)) ∧
        (x.offer ≠ [] → exec (.scTok p ch tag) s = .next s)) ∧
      ((s.me.run.decl c.portNo).out = true → ∀ h, s.myChan ch = some h → s.consumerClosed h = false →
        (s.chanRoom h 1 = false → exec (.scTok p ch tag) s = .next s) ∧
        (s.chanRoom h 1 = true → exec (.scTok p ch tag) s =
          .next ((s.push ch [⟨tag, false, s.me.portClock c.portNo c.acc⟩]).finishCmd c.seq))) ∧
      (x.offer = [] → exec (.scDrain p) s = .next (s.finishCmd c.seq)) ∧
      (x.offer ≠ [] → exec (.scDrain p) s = .next s) ∧
      ((∃ y ∈ s.me.cmds, y.live = true ∧ y.acc < c.acc) → exec .scFence s = .next s) ∧
      ((∀ y ∈ s.me.cmds, y.acc < c.acc → y.live = false) →
        exec .scFence s = .next ((s.mapCmd c.seq fun x => { x with wclk := maxTime s s.me.id.fn }).finishCmd c.seq)) ∧
      (s.me.run.isEmpty = false → exec .scSwap s = .next s) ∧
      ((∀ y ∈ s.me.cmds, y.acc < c.acc → y.live = false) → s.me.run.isEmpty = true →
        (s.me.run.inact.valid = true → exec .scSwap s = .next ((s.mapRun Run.swap).finishCmd c.seq)) ∧
        (s.me.run.inact.valid = false → exec .scSwap s = .next (s.endCmd c 0x0C))) ∧
      (c.rawErr = none → s.startFault c = none → ∀ u pl,
        (s.setInact { Plane.empty with addr := c.blk }).loadImage c.raw c.blk c.base = .ok pl u →
        exec (.scCfg blk) s = .next ((u.mapRun fun r => { r with inact := pl }).finishCmd c.seq)) ∧
      (c.rawErr = none → s.startFault c = none → ∀ u,
        (s.setInact { Plane.empty with addr := c.blk }).loadImage c.raw c.blk c.base = .rej u → ∃ t, exec (.scCfg blk) s = .next t ∧
        t.me.run.inact.valid = false ∧ t.me.run.act = u.me.run.act))

/-- R274, R387, R112, R243: SC.FLUME fills the slot WR mod SLOTS once the flume is not full, by the RD that stood at the cycle's
start, and the slot's bytes are at the port, and stops with PROT where the flume is gone, and no copy of the node writes a slot
whose writes have still to retire; WR advances by one when those writes retire, and the command ends after its last slot. Each
completes here, exec answering the next state that its clause says, under conditions on the state and operands alone: scFlume,
flumeSlotRetire. -/
def Obligations.FlumeFilling : Prop :=
  ∀ (s : State) (c : Cmd) (p : BitVec 6) (n : BitVec 32), s.Focus c .running →
    (s.cmdFlume c = none → exec (.scFlume p n) s = .next (s.cmdFault c 0x05 c.base [])) ∧
    (∀ f q, s.cmdFlume c = some f → q = (s.me.run.port c.portNo).outq →
      (s.slotBusy f = true ∨ f.slots ≤ (f.wr - f.rd0).toNat ∨ q.length < f.slotsz → exec (.scFlume p n) s = .next s) ∧
      (∀ t ∈ s.all, ∀ y ∈ t.cmds, t.id.fn = f.fn → t.id.blk = f.owner.blk → y.op = 0x0C → y.phase = .running → y.sub = 1 → y.base = f.hdr →
        s.slotBusy f = true) ∧
      (s.slotBusy f = false → (f.wr - f.rd0).toNat < f.slots → f.slotsz ≤ q.length →
        (∀ clk u, writeSlot f s (q.take f.slotsz) = .ok clk u → exec (.scFlume p n) s =
          .next ((u.mapRun fun r => r.mapPort c.portNo fun x => x.leave f.slotsz).mapCmd c.seq fun x =>
            { x with sub := 1, wclk := max x.wclk clk })) ∧
        (f.bank = none → writeSlot f s (q.take f.slotsz) = engWrite (enginePlace false) s
          (f.base + BitVec.ofNat 64 (f.wr.toNat % f.slots * f.slotsz)) (q.take f.slotsz))) ∧
      (c.op = 0x0C → c.sub = 1 → ∃ t : State, exec .flumeSlotRetire s = .next t ∧
        t.flume? s.me.id.fn c.base = some { f with wr := f.wr + 1, wclk := max f.wclk c.wclk } ∧
        ∃ y, t.me.cmd? c.seq = some y ∧ y.sub = 0 ∧
          y.phase = (if cField c.word 56 32 ≤ c.ctr.headD 0 + 1 then .finished else .running)))

/-- R285, R286, R153, R263, R386: SC.JOB presents the bursts of an iteration with ACCSW behind them at the end of a reduction,
writes the C unit of a reduction when it has arrived, and goes on to the next iteration; its input ports fall free with its last
words, its output port with its last write. At a k-block boundary with its operands at rest (log 103) a job that overtakes it
starts, or stops with the first check that fails, the planes spilled: of those that may, one of the highest PRIO. Each completes
here, exec answering the next state that its clause says, under conditions on the state and operands alone: scJob, jobOvertake.
The model's own choices and readings in it: log 49, 62, 103. -/
def Obligations.JobCards : Prop :=
  ∀ (s : State) (c : Cmd) (p : BitVec 6) (blk : BitVec 24) (d : Card) (a b va : Word) (q : List Byte) (z : State),
    z = s.freeJobPorts c d → s.Focus c .running → cardOf c.raw c.base = some d → c.spilt = false →
    a = c.base + BitVec.ofInt 64 (d.aoff + dotCtr c.ctr d.astr) → b = c.base + BitVec.ofInt 64 (d.boff + dotCtr c.ctr d.bstr) →
    va = c.base + BitVec.ofInt 64 (d.coff + dotCtr c.ctr d.cstr) → q = (s.me.run.port (c.portNo + 2)).outq →
    (c.sub = 0 → (s.me.run.port c.portNo).offer = [] → (s.me.run.port (c.portNo + 1)).offer = [] →
      (a.toNat % 4 ≠ 0 → exec (.scJob p blk) s = .next (s.cmdFault c 0x03 a c.ctr)) ∧
      (a.toNat % 4 = 0 → b.toNat % 4 ≠ 0 → exec (.scJob p blk) s = .next (s.cmdFault c 0x03 b c.ctr)) ∧
      (a.toNat % 4 = 0 → b.toNat % 4 = 0 → ∀ xa u xb v w t, cardBurst d d.alen s c a = .ok xa u →
        cardBurst d d.blen u c b = .ok xb v → v.offer c.portNo xa = some w → w.offer (c.portNo + 1) xb = some t →
        (lastOf d.counts c.ctr (d.klev + 1) = true → exec (.scJob p blk) s =
          .next (((t.offerCtl c.portNo .accsw).offerCtl (c.portNo + 1) .accsw).mapCmd c.seq fun x => { x with sub := 2 })) ∧
        (lastOf d.counts c.ctr d.klev = false → lastOf d.counts c.ctr (d.klev + 1) = false →
          exec (.scJob p blk) s = .next (t.jobNext c d)))) ∧
    (c.sub = 2 →
      (va.toNat % 4 ≠ 0 → exec (.scJob p blk) s = .next (z.cmdFault c 0x03 va c.ctr)) ∧
      (va.toNat % 4 = 0 → q.length < d.cunit → exec (.scJob p blk) s = .next z) ∧
      (va.toNat % 4 = 0 → d.cunit ≤ q.length → ∀ clk u, engWrite (enginePlace false) z va (q.take d.cunit) = .ok clk u →
        exec (.scJob p blk) s = .next ((u.mapRun fun r => r.mapPort (c.portNo + 2) fun x => x.leave d.cunit).mapCmd c.seq fun x =>
          { x with sub := 3, wclk := max x.wclk clk }))) ∧
    (c.sub = 3 →
      (z.overtaker c d = none → exec (.scJob p blk) s = .next (z.jobNext ((z.me.cmd? c.seq).getD c) d)) ∧
      (∀ x, z.overtaker c d = some x → (nextIter c.ctr d.counts).2 = false → (nextIter c.ctr d.counts).1 ≠ [] →
        exec (.scJob p blk) s = .next z)) ∧
    ((nextIter c.ctr d.counts).2 = true → 2 ≤ c.sub → ∀ k ∈ [c.portNo, c.portNo + 1], (s.me.run.port k).offer = [] →
      ∃ y, z.me.cmd? c.seq = some y ∧ k ∈ y.freed ∧ y.holdsPort k = false) ∧
    ((nextIter c.ctr d.counts).2 = true → c.sub = 3 →
      ∃ y, z.me.cmd? c.seq = some y ∧ c.portNo + 2 ∈ y.freed ∧ y.holdsPort (c.portNo + 2) = false) ∧
    (∀ x u, c.sub = 3 → c.op = 0x12 → s.me.jobAtRest c = true → (nextIter c.ctr d.counts).2 = false →
      (nextIter c.ctr d.counts).1 ≠ [] → s.overtaker c d = some x →
      ∀ k, spillPlanes c d (List.range s.me.run.elems.length) 0 s = .ok k u →
      ∀ w, w = ((u.mapRun fun r => r.clearPlanes (u.me.jobElems c)).mapCmd c.seq fun y =>
          { y with spilt := true, wclk := max y.wclk k }) →
      (w.startFault x = none → exec .jobOvertake s = .next (startJob w x)) ∧
      (∀ e va, w.startFault x = some (e, va) → e ≠ 0x08 → exec .jobOvertake s = .next (w.cmdFault x e va []))) ∧
    (∀ x, s.overtaker c d = some x → d.ovt = true ∧ c.acc < x.acc ∧ x.portNo = c.portNo ∧ feetClash true c.foot x.foot = false ∧
      (∃ e, cardOf x.raw x.base = some e ∧ d.prio < e.prio) ∧
      ∀ y ∈ s.me.cmds, y.op = 0x12 → y.phase = .accepted → y.portNo = c.portNo → c.acc < y.acc → feetClash true c.foot y.foot = false →
        s.clashes y = false → s.me.swapAhead y = false → y.cardPrio ≤ x.cardPrio)

/-- R288, R290, R410: SC.HALO sends its face once and receives the first message with its tag; a strict closed channel ends it
with CHCLOSED, a message of another length stops it with PROT and is discarded. SC.COLL contributes its buffer, aligned to its
records, and writes the sum, which every member takes once all have contributed; the sum of a field wraps for IADD64 and
saturates for XADD. Those of the package that have contributed stop with PROT as soon as the members are known to differ in
their lists, and once all have contributed where they differ in NREC or OP. Each completes here, exec answering the next state
that its clause says, under conditions on the state and operands alone: scHalo, scColl, collSum. The model's own choices and
readings in it: log 50, 57, 63, 67, 100, 127. -/
def Obligations.ExchangesWithPeers : Prop :=
  ∀ (s : State) (c : Cmd) (p : BitVec 6) (blk : BitVec 24),
    (s.Focus c .running → ∀ d, haloOf c.raw = some d →
      (∀ x, d.nosend = false → c.sub = 0 → s.myChan d.chout = some x →
        (s.consumerClosed x = true → x.strict = true → exec (.scHalo p blk) s = .next (s.endCmd c 0x0A)) ∧
        (s.consumerClosed x = false → x.msgWire = [] → ∀ bs u,
          engRead (enginePlace false) s (c.base + BitVec.ofInt 64 d.soff) d.len c.nseed c.nstep = .ok bs u →
          exec (.scHalo p blk) s = .next ((u.mapCmd c.seq fun y => { y with sub := y.sub + 1 }).mapChan x.fn x.blk x.ch fun y =>
            { y with msgWire := y.msgWire ++ [⟨d.tag, bs, s.me.ctx.clock, s.me.id, c.seq, false, 0⟩] }))) ∧
      (∀ x i m, d.norecv = false → c.sub = 1 → s.myChan d.chin = some x → (h : i < x.msgs.length) → x.msgs[i] = m →
        m.tag = d.tag → (∀ j, (hj : j < i) → (x.msgs[j]'(by omega)).tag ≠ d.tag) →
        (m.bytes.length = d.len → ∀ clk u,
          engWrite (enginePlace false) s (c.base + BitVec.ofInt 64 d.roff) m.bytes = .ok clk u →
          exec (.scHalo p blk) s = .next ((u.dropMsg x i m).mapCmd c.seq fun y =>
            { y with sub := y.sub + 2, wclk := max y.wclk (max clk m.clk) })) ∧
        (m.bytes.length ≠ d.len → exec (.scHalo p blk) s =
          .next (((s.dropMsg x i m).discardMsg x ((m.bytes.length + 7) / 8)).cmdFault c 0x05 (c.base + BitVec.ofInt 64 d.roff) []))) ∧
      (c.sub = 3 → s.msgAccepted c = true → exec (.scHalo p blk) s = .next (s.finishCmd c.seq)) ∧
      (c.sub = 3 → s.msgAccepted c = false → exec (.scHalo p blk) s = .next s)) ∧
    (s.Focus c .accepted → s.startable c = true → s.startFault c = none → ∀ d, collOf c.raw = some d →
      ((c.base + BitVec.ofInt 64 d.off).toNat % (if d.op = 1 then 8 else 64) ≠ 0 →
        exec (.scColl p blk) s = .next (s.cmdFault c 0x03 (c.base + BitVec.ofInt 64 d.off) [])) ∧
      ((c.base + BitVec.ofInt 64 d.off).toNat % (if d.op = 1 then 8 else 64) = 0 →
        exec (.scColl p blk) s = .next (s.mapCmd c.seq fun x => { x with phase := .running, ctr := [], sub := 0 }))) ∧
    (s.Focus c .running → ∀ d, collOf c.raw = some d →
      (c.sub = 0 → ∀ bs u, engRead (enginePlace false) s (c.base + BitVec.ofInt 64 d.off) (d.nrec * if d.op = 1 then 8 else 64)
          c.nseed c.nstep = .ok bs u →
        exec (.scColl p blk) s = .next (u.contribute c d bs)) ∧
      (c.sub = 1 → exec (.scColl p blk) s = .next s) ∧
      (c.sub = 2 → ∀ clk u, engWrite (enginePlace false) s (c.base + BitVec.ofInt 64 d.off) c.left = .ok clk u →
        exec (.scColl p blk) s = .next ((u.mapCmd c.seq fun y => { y with left := [], wclk := max y.wclk clk }).finishCmd c.seq))) ∧
    (∀ (u : State) (d : CollDesc) (bs : List Byte) ms, collMembers u u.me.id.fn d.group = some ms →
      ((∀ m ∈ ms, memPkg m = u.wh.pkg) →
        u.contribute c d bs = u.mapCmd c.seq fun y => { y with sub := 1, left := bs, mems := ms }) ∧
      (∀ p, (∃ m ∈ ms, memPkg m = p) → (∀ m ∈ ms, memPkg m = u.wh.pkg ∨ memPkg m = p) → p ≠ u.wh.pkg →
        u.contribute c d bs = (u.mapCmd c.seq fun y => { y with sub := 1, left := bs, mems := ms }).sendPkg p u.me.ctx.clock
          (.share ⟨d.group, c.seq, u.wh.pkg, u.me.id.fn, u.me.id.idx, ms, d.op, d.nrec, bs⟩))) ∧
    (∀ (g : Nat) (ms : List Word) (l : List (TaskId × Cmd × CollShare)),
      (∀ x ∈ ms, memPkg x = s.wh.pkg → ∀ ws, collMembers s (memFn x) g = some ws → ws ≠ ms → s.collClash g ms l = true) ∧
      (∀ x ∈ ms, ∀ y ∈ s.shares, isShareOf g x y.1 = true → y.1.members ≠ ms → s.collClash g ms l = true) ∧
      (∀ t ∈ s.all, ∀ x, contributed t g = some x → x.1.mems ≠ ms → (∃ m ∈ ms, memberIs s t.id m = true) →
        s.collClash g ms l = true)) ∧
    (∀ (ms : List Word) (l : List (TaskId × Cmd × CollShare)) (far all : List CollShare) (d : CollShare) (m : TaskId × Cmd × CollShare),
      s.collList s.cur.arg.fn s.cur.arg.k = some ms → l = s.localShares s.cur.arg.k ms → l.head? = some m → d = m.2.2 →
      far = (s.peerShares s.cur.arg.k ms).map (·.1) → all = l.map (·.2.2) ++ far →
      (s.all.map (·.id)).Nodup →
      (s.collClash s.cur.arg.k ms l = false → all.length ≠ ms.length →
        (∀ x ∈ ms, memPkg x = s.wh.pkg ∨ s.reaches (memPkg x) = true) → exec .collSum s = .next s) ∧
      (s.collClash s.cur.arg.k ms l = false → all.length = ms.length → (∀ y ∈ all, y.nrec = d.nrec ∧ y.op = d.op ∧ y.members = ms) →
        ∃ t : State, exec .collSum s = .next t ∧ t.mem = s.mem ∧ t.chans = s.chans ∧
        ∀ y ∈ l, ∃ z ∈ t.all, z.id = y.1 ∧ ∃ w ∈ z.cmds, w.seq = y.2.1.seq ∧ w.sub = 2 ∧
          w.left = (List.range (if d.op = 1 then d.nrec else 8 * d.nrec)).flatMap fun i =>
            leBytes 8 (collField d.op (all.map fun m => (dword m.data (8 * i)).toInt)).1.toNat) ∧
      (s.collClash s.cur.arg.k ms l = true ∨ all.length = ms.length ∧ (∃ y ∈ all, y.nrec ≠ d.nrec ∨ y.op ≠ d.op ∨ y.members ≠ ms) →
        ∃ t : State, exec .collSum s = .next t ∧
        ∀ y ∈ l, ∃ z ∈ t.all, z.id = y.1 ∧ z.run.gated = true ∧
          ∃ w ∈ z.cmds, w.seq = y.2.1.seq ∧ w.phase = .faulted ∧ w.cause = 0x05)) ∧
    (∀ vs : List Int, vs.foldl (· + ·) 0 = vs.sum ∧ (collField 1 vs).1 = BitVec.ofInt 64 vs.sum ∧ (collField 1 vs).2 = false ∧
      (collField 5 vs = if 2 ^ 63 - 1 < vs.sum then (BitVec.ofInt 64 (2 ^ 63 - 1), true)
        else if vs.sum < -(2 ^ 63 - 1) then (BitVec.ofInt 64 (-(2 ^ 63 - 1)), true) else (BitVec.ofInt 64 vs.sum, false)))

/-- R295, R293: what a firing leaves. Its element takes its new state, with the tokens of the firing in the output slots and
those past two waiting; the run keeps its other elements and its ports; the firing is counted; memory, file registers and
channels stay as they are. The model's own choices and readings in it: log 4, 47. -/
def Obligations.FiringTakesEffect : Prop :=
  ∀ (s : State) (op : Nat) (f : Fired) (t : State), t = s.fire op f → s.cur.elem < s.me.run.elems.length →
    (t.me.run.elem s.cur.elem).a = f.e.a ∧ (t.me.run.elem s.cur.elem).b = f.e.b ∧ (t.me.run.elem s.cur.elem).c = f.e.c ∧
    (t.me.run.elem s.cur.elem).acc = f.e.acc ∧ (t.me.run.elem s.cur.elem).drn = f.e.drn ∧
    (f.e.out.length + f.out.length ≤ 2 → (t.me.run.elem s.cur.elem).out = f.e.out ++ f.out ∧
      (t.me.run.elem s.cur.elem).emit = f.e.emit) ∧
    (f.e.out = [] → (t.me.run.elem s.cur.elem).out = f.out.take 2 ∧ (t.me.run.elem s.cur.elem).emit = f.e.emit ++ f.out.drop 2) ∧
    (∀ e, e ≠ s.cur.elem → t.me.run.elem e = s.me.run.elem e) ∧ t.me.run.ports = s.me.run.ports ∧
    t.me.run.act = s.me.run.act ∧ t.mem = s.mem ∧ t.chans = s.chans ∧ t.me.ctx.g = s.me.ctx.g ∧ t.me.ctx.f = s.me.ctx.f ∧
    t.me.ctx.q = s.me.ctx.q ∧ t.me.ctx.h = s.me.ctx.h ∧
    (f.flags = 0 → t.me.ctx.atomFlags = s.me.ctx.atomFlags) ∧
    (f.flags ≠ 0 → t.me.ctx.atomFlags = s.me.ctx.atomFlags ||| BitVec.ofNat 64 (f.flags % 32)) ∧
    (∀ (i : Nat) (h : i < 4), t.me.ctx.ctrs[i].on = s.me.ctx.ctrs[i].on ∧ t.me.ctx.ctrs[i].ev = s.me.ctx.ctrs[i].ev ∧
      (s.me.ctx.ctrs[i].on = false → t.me.ctx.ctrs[i].val = s.me.ctx.ctrs[i].val) ∧
      (s.me.ctx.ctrs[i].on = true → ∀ ev, ev = s.me.ctx.ctrs[i].ev.toNat →
        t.me.ctx.ctrs[i].val = s.me.ctx.ctrs[i].val + BitVec.ofNat 48 ((if ev = 0x010 then 1 else 0) +
          (if ev = 0x012 ∧ isBolter op = true then 1 else 0) + (if ev = 0x014 ∧ f.flags / 8 % 2 = 1 then 1 else 0) +
          (f.evs.map fun v => if ev = v.1 then v.2 else 0).sum)))

/-- R317, R318, R86, R316, R29: an element-wise operation on word streams. With a value at the head of each operand it uses, a
free slot and the grant of the quad bus, one firing takes those values and emits the result; without, it waits. R319, R72, R73,
R316, R29: the conversions. From FP32 the code of each value joins a word, the earlier in the lower bits, emitted when it is
full; to FP32 a packed word yields all its values in order, a reserved I4S code 0 with I4SBAD. They need the grant of the quad
bus. Each completes here, exec answering the next state that its clause says, under conditions on the state and operands alone:
eadd, esub, emul, efma, emin, emax, ecmp, esel, eexp2, elog2, ercp, ersq, cvtBf16Fp32, cvtFp16Fp32, cvtE4m3Fp32, cvtE5m2Fp32,
cvtInt8Fp32, cvtI4sFp32, cvtFp32Bf16, cvtFp32Fp16, cvtFp32E4m3, cvtFp32E5m2, cvtFp32Int8, cvtFp32I4s. The model's own choices
and readings in it: log 104, 106. -/
def Obligations.ElementArithmetic : Prop :=
  (∀ (s : State) (x : Elem) (w : ElemFields) (a b c : Word) (ta tb tc : Nat) (la lb lc : List InTok),
    x = s.me.run.elem s.cur.elem → w = s.cur.w → s.me.run.gated = false → x.emit = [] → x.out.length ≤ 1 →
    w.param.extractLsb' 0 4 = 0 →
    (s.me.run.grant.contains s.cur.elem = true → x.a = ⟨.data a, ta⟩ :: la →
      (∀ i ∈ [(Instr.eexp2, 0x18, fp32Exp2 (fp32.read (a.toNat % 2 ^ 32))), (.elog2, 0x19, fp32Log2 (fp32.read (a.toNat % 2 ^ 32))),
          (.ercp, 0x1A, fp32Rcp (fp32.read (a.toNat % 2 ^ 32))), (.ersq, 0x1B, fp32Rsq (fp32.read (a.toNat % 2 ^ 32)))],
        exec i.1 s = .next (s.fire i.2.1
          ⟨{ x with a := la }, [leavesWord w i.2.2], 0, [], s.me.run.ident, [(w.ina.toNat, ta)]⟩)) ∧
      (x.b = ⟨.data b, tb⟩ :: lb →
        (∀ i ∈ [(Instr.eadd, 0x10, (fp32.add (fp32.read (a.toNat % 2 ^ 32)) (fp32.read (b.toNat % 2 ^ 32))).1),
            (.esub, 0x11, (fp32.sub (fp32.read (a.toNat % 2 ^ 32)) (fp32.read (b.toNat % 2 ^ 32))).1),
            (.emul, 0x12, (fp32.mul (fp32.read (a.toNat % 2 ^ 32)) (fp32.read (b.toNat % 2 ^ 32))).1),
            (.emin, 0x14, canonNan (fp32.minMax false (a.toNat % 2 ^ 32) (b.toNat % 2 ^ 32)).1),
            (.emax, 0x15, canonNan (fp32.minMax true (a.toNat % 2 ^ 32) (b.toNat % 2 ^ 32)).1),
            (.ecmp, 0x16, if (match (w.param.extractLsb' 5 3).toNat with
              | 0 => (fp32.read (a.toNat % 2 ^ 32)).eq (fp32.read (b.toNat % 2 ^ 32))
              | 1 => (fp32.read (a.toNat % 2 ^ 32)).lt (fp32.read (b.toNat % 2 ^ 32))
              | 2 => (fp32.read (a.toNat % 2 ^ 32)).lt (fp32.read (b.toNat % 2 ^ 32)) ||
                (fp32.read (a.toNat % 2 ^ 32)).eq (fp32.read (b.toNat % 2 ^ 32))
              | _ => (fp32.read (a.toNat % 2 ^ 32)).isNan || (fp32.read (b.toNat % 2 ^ 32)).isNan) then 0x3F800000 else 0)],
          exec i.1 s = .next (s.fire i.2.1
            ⟨{ x with a := la, b := lb }, [leavesWord w i.2.2], 0, [], s.me.run.ident, [(w.ina.toNat, ta), (w.inb.toNat, tb)]⟩)) ∧
        (x.c = ⟨.data c, tc⟩ :: lc → ∀ i ∈ [(Instr.efma, 0x13,
            (fp32.fma (fp32.read (a.toNat % 2 ^ 32)) (fp32.read (b.toNat % 2 ^ 32)) (fp32.read (c.toNat % 2 ^ 32))).1),
            (.esel, 0x17, canonNan (if c.toNat % 2 ^ 31 = 0 then b.toNat % 2 ^ 32 else a.toNat % 2 ^ 32))],
          exec i.1 s = .next (s.fire i.2.1
            ⟨{ x with a := la, b := lb, c := lc }, [leavesWord w i.2.2], 0, [], s.me.run.ident,
              [(w.ina.toNat, ta), (w.inb.toNat, tb), (w.inc.toNat, tc)]⟩)))) ∧
    ((x.a = [] → x.b = [] → x.c = [] → ∀ i ∈ [Instr.eadd, .esub, .emul, .efma, .emin, .emax, .ecmp, .esel, .eexp2, .elog2, .ercp,
        .ersq], exec i s = .next s) ∧
      (∀ t, x.a = ⟨.data a, t⟩ :: la → x.b = [] → x.c = [] → ∀ i ∈ [Instr.eadd, .esub, .emul, .efma, .emin, .emax, .ecmp, .esel],
        exec i s = .next s)) ∧
    (s.me.run.grant.contains s.cur.elem = false → ∀ i ∈ [Instr.eadd, .esub, .emul, .efma, .emin, .emax, .ecmp, .esel, .eexp2, .elog2,
      .ercp, .ersq], exec i s = .next s)) ∧
  (∀ (s : State) (x : Elem) (w : ElemFields) (a : Word) (ta n : Nat) (la : List InTok),
    x = s.me.run.elem s.cur.elem → w = s.cur.w → s.me.run.gated = false → x.emit = [] → x.out = [] → w.param = 0 →
    n = a.toNat % 2 ^ 32 →
    (s.me.run.grant.contains s.cur.elem = true → x.a = ⟨.data a, ta⟩ :: la →
      (∀ i ∈ [(Instr.cvtBf16Fp32, 0x20, 16, (bf16.convert (fp32.read n)).1), (.cvtFp16Fp32, 0x21, 16, (fp16.convert (fp32.read n)).1),
          (.cvtE4m3Fp32, 0x22, 8, (e4m3.convert (fp32.read n)).1), (.cvtE5m2Fp32, 0x23, 8, (e5m2.convert (fp32.read n)).1),
          (.cvtInt8Fp32, 0x24, 8, (toIntRne (fp32.read n) (-128) 127 % 256).toNat),
          (.cvtI4sFp32, 0x25, 4, (toIntRne (fp32.read n) (-7) 7 % 16).toNat)],
        ((x.stage.length + 1) * i.2.2.1 < 32 → exec i.1 s = .next (s.fire i.2.1
          ⟨{ x with a := la, stage := x.stage ++ [BitVec.ofNat 64 i.2.2.2] }, [], 0, [], s.me.run.ident, [(w.ina.toNat, ta)]⟩)) ∧
        ((x.stage.length + 1) * i.2.2.1 = 32 → ∃ v, exec i.1 s = .next (s.fire i.2.1
            ⟨{ x with a := la, stage := [] }, [leavesWord w v], 0, [], s.me.run.ident, [(w.ina.toNat, ta)]⟩) ∧
          ((∀ y ∈ x.stage, y.toNat < 2 ^ i.2.2.1) → i.2.2.2 < 2 ^ i.2.2.1 →
            ∀ j, (h : j < (x.stage ++ [BitVec.ofNat 64 i.2.2.2]).length) →
              v / 2 ^ (i.2.2.1 * j) % 2 ^ i.2.2.1 = ((x.stage ++ [BitVec.ofNat 64 i.2.2.2])[j]).toNat))) ∧
      (∀ i ∈ [(Instr.cvtFp32Bf16, 0x28, 16, fun v => (fp32.convert (bf16.read v)).1),
          (.cvtFp32Fp16, 0x29, 16, fun v => (fp32.convert (fp16.read v)).1),
          (.cvtFp32E4m3, 0x2A, 8, fun v => (fp32.convert (e4m3.read v)).1),
          (.cvtFp32E5m2, 0x2B, 8, fun v => (fp32.convert (e5m2.read v)).1),
          (.cvtFp32Int8, 0x2C, 8, fun v => (fp32.ofInt (signed 8 v)).1),
          (.cvtFp32I4s, 0x2D, 4, (fun v => if v = 8 then 0 else (fp32.ofInt (signed 4 v)).1 : Nat → Nat))],
        ∃ fl, exec i.1 s = .next (s.fire i.2.1 ⟨{ x with a := la },
            (List.range (32 / i.2.2.1)).map fun j => leavesWord w (i.2.2.2 (a.toNat / 2 ^ (i.2.2.1 * j) % 2 ^ i.2.2.1)),
            fl, [], s.me.run.ident, [(w.ina.toNat, ta)]⟩) ∧
          (i.1 ≠ .cvtFp32I4s → fl = 0))) ∧
    (x.a = [] ∨ s.me.run.grant.contains s.cur.elem = false → ∀ i ∈ [Instr.cvtBf16Fp32, .cvtFp16Fp32, .cvtE4m3Fp32, .cvtE5m2Fp32,
      .cvtInt8Fp32, .cvtI4sFp32, .cvtFp32Bf16, .cvtFp32Fp16, .cvtFp32E4m3, .cvtFp32E5m2, .cvtFp32Int8, .cvtFp32I4s],
      exec i s = .next s))

/-- R303, R304, R305, R306, R83, R84: pulse cells. A pair of long atoms gives a step of PdotStep in the accumulating plane, with
the cell's mask for PDOTM and two steps for PDOTS where a second pair is there, and its tokens go on in the forwarding
directions; ACCSW at the head of A swaps the planes once the draining plane has been drained; the draining plane's value is
rounded once into an output slot and the plane is cleared. With 65,536 steps taken a cell takes nothing else. Each completes
here, exec answering the next state that its clause says, under conditions on the state and operands alone: pdot, pdots, pdotm,
planeDrain. The model's own choices and readings in it: log 47, 103. -/
def Obligations.PulseCells : Prop :=
  ∀ (s : State) (x : Elem) (w : ElemFields) (a b : Word) (ta tb : Nat) (la lb : List InTok) (fmt : Nat) (v : FEnv) (da db : AtomV),
    x = s.me.run.elem s.cur.elem → w = s.cur.w → s.me.run.gated = false → x.emit = [] → x.out = [] →
    fmt = s.me.run.act.chainFmt s.me.lanes s.cur.elem →
    v = s.fenv fmt (s.me.run.act.upstream s.me.lanes 2048 s.cur.elem) →
    (x.queue = [] → x.c = [] →
      (x.a = ⟨.data a, ta⟩ :: la → x.b = ⟨.data b, tb⟩ :: lb → hdrLong x.ia.hdr = true → hdrLong x.ib.hdr = true →
        x.ia.due ≠ 0 → x.ib.due ≠ 0 → x.acc.steps < 65536 →
        da = atomRead x.ia.hdr (a.toNat % 2 ^ 32) → db = atomRead x.ib.hdr (b.toNat % 2 ^ 32) →
        ∀ i ∈ [(Instr.pdot, 1, 0), (.pdots, 2, 0), (.pdotm, 3, (w.param.extractLsb' 6 8).toNat)], (i.1 = .pdots → la = []) →
          ∃ f, exec i.1 s = .next (s.fire i.2.1 f) ∧ f.e.acc = x.acc.step (pdotStep da db i.2.2 v.anc) ∧ f.e.drn = x.drn ∧
            f.e.a = la ∧ f.e.b = lb ∧ f.e.ia.due = x.ia.due - 1 ∧ f.e.ib.due = x.ib.due - 1 ∧
            f.out = (if w.param.getLsbD 2 then
                [⟨.data a, BitVec.ofNat 4 (2 ^ (w.param.extractLsb' 0 2).toNat), false, false⟩] else []) ++
              (if w.param.getLsbD 5 then
                [⟨.data b, BitVec.ofNat 4 (2 ^ (w.param.extractLsb' 3 2).toNat), false, false⟩] else []) ∧
            (f.flags % 2 = 1 ↔ da.bad = true ∨ db.bad = true)) ∧
      (∀ a' b' ta' tb' la' lb', x.a = ⟨.data a, ta⟩ :: ⟨.data a', ta'⟩ :: la' → x.b = ⟨.data b, tb⟩ :: ⟨.data b', tb'⟩ :: lb' →
        hdrLong x.ia.hdr = true → hdrLong x.ib.hdr = true → 2 ≤ x.ia.due → 2 ≤ x.ib.due → x.acc.steps + 1 < 65536 →
        ∃ f, exec .pdots s = .next (s.fire 2 f) ∧ f.e.a = la' ∧ f.e.b = lb' ∧ f.e.drn = x.drn ∧
          f.e.acc = (x.acc.step (pdotStep (atomRead x.ia.hdr (a.toNat % 2 ^ 32)) (atomRead x.ib.hdr (b.toNat % 2 ^ 32)) 0 v.anc)).step
            (pdotStep (atomRead x.ia.hdr (a'.toNat % 2 ^ 32)) (atomRead x.ib.hdr (b'.toNat % 2 ^ 32)) 0 v.anc)) ∧
      (65536 ≤ x.acc.steps → ∀ t n, (∀ id, t ≠ .ctl .accsw id) → x.a = ⟨t, n⟩ :: la →
        ∀ i ∈ [Instr.pdot, .pdots, .pdotm], exec i s = .next s) ∧
      (∀ n id, x.a = ⟨.ctl .accsw id, n⟩ :: la → x.atHdr .b = false →
        ∀ i ∈ [(Instr.pdot, 1), (.pdots, 2), (.pdotm, 3)], ∃ f, exec i.1 s = .next (s.fire i.2 f) ∧
          f.e.drn = x.acc ∧ f.e.acc = x.drn ∧ f.e.a = la ∧ f.e.b = x.b ∧
          f.e.queue = none :: (if x.ids.contains id then [] else [some (.ctl .accsw id)]))) ∧
    (∀ q, x.queue = none :: q → x.c = [] → x.atHdr .b = false → ∀ n id, x.a = ⟨.ctl .accsw id, n⟩ :: la →
      ∀ i ∈ [Instr.pdot, .pdots, .pdotm], exec i s = .next s) ∧
    (∀ q, x.queue = none :: q → x.fwdLeft = 0 →
      exec .planeDrain s = .next (s.mapRun fun r => r.mapElem s.cur.elem fun e => { e with
        queue := q, drn := .zero, fwdLeft := v.up, out := [leavesWord w
          (drainValue x.drn.acc.toList x.drn.poison (drainFmt v.fmt) v.anc)] })) ∧
    (x.queue = [] → exec .planeDrain s = .next s)

/-- R307, R308, R311, R312, R313, R314, R315, R77, R85, R29: operations on atoms. ACCSW passes its tokens and puts an ACCSW
token behind the burst that holds its k-th atom; DRAIN packs the values of a round; ENC collects eight words an atom; DEC emits
the eight elements of an atom; PADD adds pairs; PSCL, PNEG and PMSK of mask 0 rewrite an atom in place; any other PMSK collects
its burst's results and emits them under one S at its last atom. DEC, PADD, PMSK and ENC's eighth word wait for the grant of the
quad bus. Each completes here, exec answering the next state that its clause says, under conditions on the state and operands
alone: accsw, drain, enc, dec, padd, pscl, pneg, pmsk. The model's own choices and readings in it: log 105. -/
def Obligations.AtomOperations : Prop :=
  ∀ (s : State) (x : Elem) (w : ElemFields) (a b : Word) (ta tb : Nat) (la lb : List InTok) (v : FEnv) (da db : AtomV),
    x = s.me.run.elem s.cur.elem → w = s.cur.w → s.me.run.gated = false → x.emit = [] → x.out = [] → v = s.fenv 0 0 →
    x.a = ⟨.data a, ta⟩ :: la →
    da = atomRead x.ia.hdr (a.toNat % 2 ^ 32) → db = atomRead x.ib.hdr (b.toNat % 2 ^ 32) →
    (hdrLong x.ia.hdr = true → x.ends = false →
      (x.cnt + 1 < w.param.toNat → ∃ f, exec .accsw s = .next (s.fire 4 f) ∧ f.out = [leaves w (.data a)] ∧ f.e.cnt = x.cnt + 1 ∧
        f.e.a = la ∧ f.ident = s.me.run.ident) ∧
      (w.param.toNat ≤ x.cnt + 1 → x.ia.due = 1 → ∃ f, exec .accsw s = .next (s.fire 4 f) ∧
        f.out = [leaves w (.data a), leaves w (.ctl .accsw (s.me.run.ident + 1))] ∧ f.e.cnt = 0 ∧ f.e.a = la)) ∧
    ((s.fenv (w.param.toNat % 4) 0).fmt = 0 → x.cnt + 1 < w.param.toNat / 4 →
      ∃ f, exec .drain s = .next (s.fire 5 f) ∧ f.out = [leaves w (.data (BitVec.ofNat 64 (a.toNat % 2 ^ 32)))] ∧ f.e.cnt = x.cnt + 1) ∧
    ((s.fenv (w.param.toNat % 4) 0).fmt ≠ 0 → x.cnt + 1 < w.param.toNat / 4 →
      (x.stage = [] → ∃ f, exec .drain s = .next (s.fire 5 f) ∧ f.out = [] ∧ f.e.stage = [BitVec.ofNat 64 (a.toNat % 2 ^ 16)]) ∧
      (∀ y, x.stage = [y] → ∃ f, exec .drain s = .next (s.fire 5 f) ∧ f.e.stage = [] ∧
        f.out = [leaves w (.data (BitVec.ofNat 64 (y.toNat + a.toNat % 2 ^ 16 * 2 ^ 16)))])) ∧
    (x.stage.length < 7 → ∃ f, exec .enc s = .next (s.fire 8 f) ∧ f.out = [] ∧
      f.e.stage = x.stage ++ [BitVec.ofNat 64 (a.toNat % 2 ^ 32)] ∧ f.e.a = la ∧ f.e.pats = x.pats) ∧
    (x.stage.length = 7 → s.me.run.grant.contains s.cur.elem = false → exec .enc s = .next s) ∧
    (s.me.run.grant.contains s.cur.elem = false → ∀ i ∈ [Instr.dec, .padd, .pmsk], exec i s = .next s) ∧
    (x.stage.length = 7 → s.me.run.grant.contains s.cur.elem = true → x.pats.length + 1 < w.param.toNat % 2 ^ 16 →
      ∃ f, exec .enc s = .next (s.fire 8 f) ∧ f.out = [] ∧
      f.e.stage = [] ∧ f.e.pats = x.pats ++ [encodeAtom ((x.stage.map fun y => y.toNat % 2 ^ 32) ++ [a.toNat % 2 ^ 32])
        (if w.param.getLsbD 31 then 16 else s.me.knet.toNat) (w.param.getLsbD 31 || s.me.long)]) ∧
    (hdrLong x.ia.hdr = true → x.ia.due ≠ 0 →
      (s.me.run.grant.contains s.cur.elem = true → ∃ f, exec .dec s = .next (s.fire 9 f) ∧
        f.out = (atomDecode da).map (fun y => leaves w (.data (BitVec.ofNat 64 y))) ∧ f.e.a = la ∧
        f.flags = (if da.bad then 1 else 0)) ∧
      (s.me.run.grant.contains s.cur.elem = true → x.b = ⟨.data b, tb⟩ :: lb → hdrLong x.ib.hdr = true → x.ib.due ≠ 0 →
        x.pats.length + 1 < w.param.toNat % 2 ^ 16 →
        ∃ f, exec .padd s = .next (s.fire 0x0A f) ∧ f.out = [] ∧ f.e.a = la ∧ f.e.b = lb ∧
          f.e.pats = x.pats ++ [encodeAtom (((atomDecode da).zip (atomDecode db)).map fun y => (fp32.add (fp32.read y.1) (fp32.read y.2)).1)
            (if w.param.getLsbD 31 then 16 else s.me.knet.toNat) (w.param.getLsbD 31 || s.me.long)]) ∧
      (∀ i ∈ [(Instr.pscl, 0x0B, psclAtom x.ia.hdr w.param.toInt (a.toNat % 2 ^ 32)), (.pneg, 0x0C, pnegAtom x.ia.hdr (a.toNat % 2 ^ 32)),
          (.pmsk, 0x0D, canonAtom x.ia.hdr (a.toNat % 2 ^ 32))],
        (i.1 = .pmsk → w.param.extractLsb' 0 9 = 0 ∧ s.me.run.grant.contains s.cur.elem = true) → i.2.2.1 < 2 ^ 32 →
          ∃ f, exec i.1 s = .next (s.fire i.2.1 f) ∧
          f.out = [leaves w (.data (a.extractLsb' 32 32 ++ BitVec.ofNat 32 i.2.2.1))] ∧ f.flags = i.2.2.2 ∧ f.e.a = la ∧
          f.e.ia.due = x.ia.due - 1) ∧
      (s.me.run.grant.contains s.cur.elem = true → w.param.extractLsb' 0 9 ≠ 0 → ∀ long k r,
        long = (w.param.getLsbD 8 || s.me.long) → k = (if w.param.getLsbD 8 then 16 else s.me.knet.toNat) →
        r = (if da = .poison then none else
          encodeAtom (((List.range 8).zip (atomDecode da)).map fun y => if w.param.getLsbD y.1 then 0 else y.2) k long) →
        (2 ≤ x.ia.due → ∃ f, exec .pmsk s = .next (s.fire 0x0D f) ∧ f.out = [] ∧ f.e.a = la ∧ f.e.pats = x.pats ++ [r] ∧
          f.e.ia.due = x.ia.due - 1 ∧ f.flags = (if da.bad then 1 else 0)) ∧
        (x.ia.due = 1 → x.queue = [] → ∀ sb atoms fl, burstWrite long k (x.pats ++ [r]) = (sb, atoms, fl) →
          ∃ f, exec .pmsk s = .next (s.fire 0x0D f) ∧ f.e.pats = [] ∧ f.e.a = la ∧ f.flags = (if da.bad then 1 else 0) ||| fl ∧
            f.out = leaves w (.hdr (mkHdr sb (hdrL x.ia.hdr) (hdrLast x.ia.hdr) long k) atoms.length) ::
              (packAtoms long atoms).map fun y => leaves w (.data (y.setWidth 64)))))

/-- R322, R323, R324, R336, R337, R338, R298: routing. PASS and REPL move the head of A; TOKQ holds a control token until one
reaches B and lets data by; JOIN pairs atoms of equal coordinate and skips the lower of two; MERGE takes its inputs in turn, or
the lower coordinate first, of equal ones A and B in turn; FILT keeps the atoms its mode keeps. A token that only observes is no
head. Each completes here, exec answering the next state that its clause says, under conditions on the state and operands alone:
join, merge, filt, repl, tokq, pass. The model's own choices and readings in it: log 46, 128. -/
def Obligations.RoutingOperations : Prop :=
  ∀ (s : State) (x : Elem) (w : ElemFields) (a b : Word) (ta tb : Nat) (la lb : List InTok) (id jd : BitVec 16)
    (c k : Ctl), x = s.me.run.elem s.cur.elem → w = s.cur.w → s.me.run.gated = false → x.emit = [] → x.out = [] →
    (Tok.ctl c id).observes = false → (Tok.ctl k jd).observes = false →
    (x.a = ⟨.data a, ta⟩ :: la →
      (∀ i ∈ [(Instr.pass, 0x42), (.repl, 0x40)], exec i.1 s = .next (s.fire i.2
        ⟨{ x with a := la }, [leaves w (.data a)], 0, [], s.me.run.ident, [(w.ina.toNat, ta)]⟩)) ∧
      (x.b = [] → exec .tokq s = .next (s.fire 0x41
        ⟨{ x with a := la }, [leaves w (.data a)], 0, [], s.me.run.ident, [(w.ina.toNat, ta)]⟩)) ∧
      (w.param.getLsbD 0 = false → x.lock = none → x.turn = 0 → ∃ f, exec .merge s = .next (s.fire 0x31 f) ∧
        f.out = [leaves w (.data a)] ∧ f.e.a = la ∧ f.e.b = x.b ∧ f.e.turn = 1)) ∧
    (x.a = [⟨.ctl c id, ta⟩] →
      (∀ i ∈ [(Instr.pass, 0x42), (.repl, 0x40)], ∃ f, exec i.1 s = .next (s.fire i.2 f) ∧ f.e.a = [] ∧
        f.out = if x.ids.contains id then [] else [leaves w (.ctl c id)]) ∧
      (x.b = [] → exec .tokq s = .next s) ∧
      (x.b = [⟨.ctl k jd, tb⟩] → ∃ f, exec .tokq s = .next (s.fire 0x41 f) ∧ f.e.a = [] ∧ f.e.b = [] ∧
        f.out = if x.ids.contains id then [] else [leaves w (.ctl c id)])) ∧
    (∀ i ∈ [Instr.pass, .repl, .tokq], x.a = [] → x.b = [] → exec i s = .next s) ∧
    (x.a = ⟨.data a, ta⟩ :: la → hdrLong x.ia.hdr = true → 2 ≤ x.ia.due → x.ia.mark = false →
      (x.b = ⟨.data b, tb⟩ :: lb → hdrLong x.ib.hdr = true → 2 ≤ x.ib.due → x.ib.mark = false → x.stage = [] → x.stageB = [] →
        (a.toNat / 2 ^ 32 = b.toNat / 2 ^ 32 → ∃ f, exec .join s = .next (s.fire 0x30 f) ∧ f.out = [] ∧ f.e.a = la ∧ f.e.b = lb ∧
          f.e.stage = [BitVec.ofNat 64 (a.toNat % 2 ^ 32)] ∧ f.e.stageB = [BitVec.ofNat 64 (b.toNat % 2 ^ 32)]) ∧
        (a.toNat / 2 ^ 32 < b.toNat / 2 ^ 32 → ∃ f, exec .join s = .next (s.fire 0x30 f) ∧ f.out = [] ∧ f.e.a = la ∧ f.e.b = x.b ∧
          f.e.stage = []) ∧
        (b.toNat / 2 ^ 32 < a.toNat / 2 ^ 32 → ∃ f, exec .join s = .next (s.fire 0x30 f) ∧ f.out = [] ∧ f.e.a = x.a ∧ f.e.b = lb ∧
          f.e.stage = []) ∧
        (w.param.getLsbD 0 = true → x.tie = true → ∃ f, exec .merge s = .next (s.fire 0x31 f) ∧ f.e.a = x.a ∧ f.e.b = lb ∧
          f.e.stage = [b] ∧ f.e.tie = false) ∧
        (w.param.getLsbD 0 = true → x.tie = false →
          (a.toNat / 2 ^ 32 ≤ b.toNat / 2 ^ 32 → ∃ f, exec .merge s = .next (s.fire 0x31 f) ∧ f.e.a = la ∧ f.e.b = x.b ∧
            f.e.stage = [a] ∧ f.e.tie = (a.toNat / 2 ^ 32 == b.toNat / 2 ^ 32)) ∧
          (b.toNat / 2 ^ 32 < a.toNat / 2 ^ 32 → ∃ f, exec .merge s = .next (s.fire 0x31 f) ∧ f.e.a = x.a ∧ f.e.b = lb ∧
            f.e.stage = [b]))) ∧
      (x.stage = [] → ∃ f, exec .filt s = .next (s.fire 0x32 f) ∧ f.e.a = la ∧ f.out = [] ∧
        ((w.param.extractLsb' 0 2 = 1 → f.e.stage = if a.toNat / 2 ^ 32 < w.param.toNat / 4 then [a] else []) ∧
        (w.param.extractLsb' 0 2 = 2 → f.e.stage = if w.param.toNat / 4 ≤ a.toNat / 2 ^ 32 then [a] else []) ∧
        (w.param.extractLsb' 0 2 = 0 → f.e.stage =
          if atomGain true (a.toNat % 2 ^ 32) = 0 ∧ atomIdx true (a.toNat % 2 ^ 32) = 0 ∧ hdrS x.ia.hdr ≠ 255 then [] else [a]))))

/-- R327, R329, R330, R331, R332, R333, R334: an iteration of an address generator in a pass. AGLOOP emits its offset, AGLD the
words of the unit it reads, AGGATH those of the element an index names; AGST writes the unit it has collected, the pad of an odd
short burst as zero, AGRED combines it at a HOME tile; the counters go on, and an address that is not aligned stops the element
with ALIGN and its counters. Each completes here, exec answering the next state that its clause says, under conditions on the
state and operands alone: agloop, agld, agst, agred, aggath. The model's own choices and readings in it: log 54, 59. -/
def Obligations.AddressGenerators : Prop :=
  ∀ (s : State) (x : Elem) (w : ElemFields) (l : LoopEntry) (off : Int) (va : Word) (next : Elem),
    x = s.me.run.elem s.cur.elem → w = s.cur.w → s.me.run.act.loops[agEntry w]? = some l → s.me.run.gated = false →
    x.stopped = false → x.emit = [] → x.out = [] →
    off = l.offset + dotCtr x.ctr l.strides →
    va = s.me.run.act.base + BitVec.ofInt 64 off →
    next = (if (nextIter x.ctr l.counts).2 then { x with waiting := true, ctr := [], cnt := 0, bursts := x.bursts + 1 }
      else { x with ctr := (nextIter x.ctr l.counts).1 }) →
    (x.waiting = true → l.passes = 0 ∨ x.bursts < l.passes → w.param.getLsbD 9 = false → x.a = [] →
      ∀ i ∈ [Instr.agloop, .agld, .agst, .agred, .aggath], exec i s = .next (s.mapRun fun r => r.mapElem s.cur.elem fun _ =>
        { x with
          waiting := false, ctr := List.replicate l.levels 0, cnt := 0, nseed := s.me.ctx.nseed, nstep := s.me.ctx.nstep })) ∧
    (x.waiting = true → l.passes ≠ 0 → l.passes ≤ x.bursts → x.a = [] →
      ∀ i ∈ [Instr.agloop, .agld, .agst, .agred, .aggath], exec i s = .next s) ∧
    (x.waiting = false →
      exec .agloop s = .next (s.fire 0x38
        ⟨next, [leaves w (.data ((BitVec.ofInt 32 off).setWidth 64))], 0, [], s.me.run.ident, []⟩) ∧
      (va.toNat % 4 ≠ 0 → exec .agld s = .next (s.elemFault s.cur.elem 0x03 va x.ctr)) ∧
      (va.toNat % 4 = 0 → w.param.getLsbD 8 = false → ∀ bs u,
        engRead (latchPlace s.cur.elem) s va (4 * l.usz) x.nseed x.nstep = .ok bs u → ∃ f, exec .agld s = .next (u.fire 0x39 f) ∧
          f.out = (words32 bs).map fun y => leaves w (.data (y.setWidth 64))) ∧
      (x.a = [] → l.usz ≤ x.stage.length →
        (va.toNat % 4 ≠ 0 → exec .agst s = .next (s.elemFault s.cur.elem 0x03 va x.ctr)) ∧
        (va.toNat % 4 = 0 → s.me.eff.det = false → ∀ clk u,
          engWrite (latchPlace s.cur.elem) s va ((x.stage.take l.usz).flatMap fun y => leBytes 4 y.toNat) = .ok clk u →
          exec .agst s = .next (u.mapRun fun r => r.mapElem s.cur.elem fun y => { y.nextUnit l with stage := [] })) ∧
        (va.toNat % ropAlign (agRop w) = 0 → ∀ r u,
          engReduce (latchPlace s.cur.elem) s va (agRop w) 0 ((x.stage.take l.usz).flatMap fun y => leBytes 4 y.toNat) = .ok r u →
          exec .agred s = .next (u.mapRun fun r => r.mapElem s.cur.elem fun y => { y.nextUnit l with stage := [] }))) ∧
      (x.a = [] → x.stage.length < l.usz → exec .agst s = .next s ∧ exec .agred s = .next s ∧ exec .aggath s = .next s) ∧
      (∀ a ta la ia, x.a = ⟨.data a, ta⟩ :: la →
        ia = s.me.run.act.base + BitVec.ofInt 64 (l.offset + ((a.toNat % 2 ^ 32 * 2 ^ l.esz : Nat) : Int)) →
        (l.lim ≤ a.toNat % 2 ^ 32 → exec .aggath s = .next (s.elemFault s.cur.elem 0x05 ia [x.cnt])) ∧
        (a.toNat % 2 ^ 32 < l.lim → ia.toNat % min (2 ^ l.esz) 8 = 0 → ∀ bs u,
          engRead (latchPlace s.cur.elem) s ia (2 ^ l.esz) x.nseed x.nstep = .ok bs u → ∃ f, exec .aggath s = .next (u.fire 0x3C f) ∧
            f.out = (words32 bs).map fun y => leaves w (.data (y.setWidth 64))) ∧
        (x.stage.length + 1 < l.usz →
          (∃ f, exec .agst s = .next (s.fire 0x3A f) ∧ f.e.a = la ∧ f.out = [] ∧ f.e.stage = x.stage ++
            [if w.param.getLsbD 8 = true ∧ hdrLong x.ia.hdr = false ∧ x.ia.due = 1 then (a.setWidth 16).setWidth 64 else a]) ∧
          (∃ f, exec .agred s = .next (s.fire 0x3B f) ∧ f.e.a = la ∧ f.out = [] ∧ f.e.stage = x.stage ++ [a]))))

/-- R143, R155, R443, R137, R138, R33, R32, R227, R52, R217, R436, R259: events of a context. A pending trap is taken with ASYNC
set and TRAPPC the next PC, but while the context steps a fault of its commands and a trigger stop that came with STEP wait for
the boundary; a sleeping or stalled instruction goes on when its condition holds and not before; the watchdog traps a context
that has waited its interval, the wait for a launch's START apart; a complete phase wakes the contexts asleep in it; a wrap is
recorded and fires vector 3; a wake request sets the event latch. Each completes here, exec answering the next state that its
clause says, under conditions on the state and operands alone: asyncTrapTake, sleepingInstructionRetire, stallRelease, watchdog,
barrierPhaseComplete, counterWrap, wheelhouseWakeRequest. The model's own choices and readings in it: log 4, 64, 89, 91, 96,
101. -/
def Obligations.ContextEvents : Prop :=
  ∀ (s : State),
    (s.me.ctx.pend.find? s.me.ctx.takes = none → exec .asyncTrapTake s = .next s) ∧
    (∀ p, s.me.ctx.pend.find? s.me.ctx.takes = some p → ∃ t : State, exec .asyncTrapTake s = .next t ∧
      t.me.ctx.pend = s.me.ctx.pend.erase p ∧ t.me.ctx.st = .trapped ∧ t.me.ctx.wait = .none ∧ t.me.ctx.g = s.me.ctx.g ∧
      t.mem = s.mem ∧
      (s.me.ctx.tm = false → t.me.ctx.trapPc = s.me.ctx.pc ∧ t.me.ctx.trapInfo = p.info ∧
        t.me.ctx.trapCause = BitVec.ofNat 64 (p.cause.toNat + p.origin.toNat * 2 ^ 8 + 2 ^ 10 +
          (if p.origin = 1 then p.seq.toNat * 2 ^ 32 else 0)) ∧
        (∀ a, (p.cause = 0x0A ∨ p.cause = 0x0C ∨ p.cause = 0x0F ∨ p.cause = 0x10 ∨ p.cause = 0x12) → s.me.trapEntry = some a →
          t.me.ctx.pc = a ∧ t.me.ctx.tm = true ∧ t.me.stop = .none) ∧
        ((p.cause = 0x03 ∨ p.cause = 0x04 ∨ p.cause = 0x05 ∨ p.cause = 0x06) → p.origin = 1 ∨ p.origin = 2 →
          t.me.ctx.pc = s.me.ctx.pc ∧ t.me.stop = .driver) ∧
        (p.cause = 0x17 → t.me.stop = .debugger)) ∧
      t.me.run = (if p.late then { s.me.run with gated := true } else s.me.run)) ∧
    (∀ p, s.me.ctx.takes p = false ↔ s.me.ctx.steps = true ∧ (p.origin = 1 ∨ p.late = true)) ∧
    (s.me.ctx.wait.sleeps = true →
      (s.waitHolds = true → exec .sleepingInstructionRetire s = .next { s with
        agenda := .issue s.me.mill s.me.ctxNo :: s.agenda
        me := { s.me with ctx := { s.me.ctx with st := if s.me.ctx.handler then .trapped else .runnable } } }) ∧
      (s.waitHolds = false → exec .sleepingInstructionRetire s = .next s)) ∧
    (s.me.ctx.wait.sleeps = false → s.me.ctx.wait ≠ .none →
      (s.waitHolds = true → exec .stallRelease s = .next { s with
        agenda := .issue s.me.mill s.me.ctxNo :: s.agenda
        me := { s.me with ctx := { s.me.ctx with wait := .none } } }) ∧
      (s.waitHolds = false → exec .stallRelease s = .next s)) ∧
    (s.me.ctx.wait = .none ∨ s.me.ctx.wait = .start ∨ s.me.eff.wdog = 0 → exec .watchdog s = .next s) ∧
    (s.me.eff.wdog ≠ 0 → s.me.ctx.wait ≠ .none → s.me.ctx.wait ≠ .start → s.me.ctx.st ≠ .free → s.me.ctx.st ≠ .swapped → s.me.stop = .none →
      (s.time < s.me.ctx.lastRetire + s.me.eff.wdog * 65536 → exec .watchdog s = .next s) ∧
      (s.me.ctx.lastRetire + s.me.eff.wdog * 65536 ≤ s.time → ∃ t : State, exec .watchdog s = .next t ∧
        t.me.ctx.st = .trapped ∧ t.me.ctx.wait = .none ∧ t.mem = s.mem ∧
        (s.me.ctx.tm = false → t.me.ctx.trapPc = s.me.ctx.pc ∧ t.me.ctx.trapCause = 0x30E ∧
          (∀ a, s.me.trapEntry = some a → t.me.ctx.pc = a)))) ∧
    (∃ t : State, exec .barrierPhaseComplete s = .next t ∧ t.mem = s.mem ∧ t.all = s.all.map fun x =>
      if x.id.fn = s.cur.arg.fn ∧ x.id.blk = s.cur.arg.w ∧ x.ctx.wait = .barrier (BitVec.ofNat 6 s.cur.arg.n) ∧
          x.ctx.st = .sleeping ∧ s.phaseDone s.cur.arg.fn s.cur.arg.w (BitVec.ofNat 6 s.cur.arg.n)
            (x.ctx.barOf (BitVec.ofNat 6 s.cur.arg.n)).ara = true
        then { x with ctx := { x.ctx with st := if x.ctx.handler then .trapped else .runnable } } else x) ∧
    (∀ i : Fin 4, s.cur.arg.n = i.val →
      (s.me.ctx.ctrs[i].wrapped = none → exec .counterWrap s = .next s) ∧
      (∀ ev, s.me.ctx.ctrs[i].wrapped = some ev → ∃ t : State, exec .counterWrap s = .next t ∧
        t.me = { s.me with ctx := { s.me.ctx with ctrs := s.me.ctx.ctrs.set i { s.me.ctx.ctrs[i] with wrapped := none } } } ∧
        (t.fn s.me.id.fn).msix.getLsbD 3 = true ∧ (s.me.id.fn, dieOf s.me.mill, 8, 0) ∈ t.trigSrc ∧ t.mem = s.mem ∧
        ((s.fn s.me.id.fn).tren = true → (s.fn s.me.id.fn).frozenDies = [] → (t.mill s.me.mill).trace =
          (s.mill s.me.mill).trace ++ [⟨s.me.id.fn, [traceHead s.me 7 1, BitVec.ofNat 64 s.time, BitVec.ofNat 64 i.val,
            ev.setWidth 64], 1⟩]))) ∧
    exec .wheelhouseWakeRequest s = .next { s with me := { s.me with ctx := { s.me.ctx with latch := true } } }

/-- R294, R295, R297, R298, R433, R279, R389: tokens on the move. MARK and RELATCH pass an element once an identity, MARK
leaving a deposit and RELATCH ending the latches of its page; a token crosses a link to an operand with room, behind the tokens
there, and stays where there is none; a TAG at an output port pushes when the channel has room and no slot's writes have still
to retire; the ingress meter lets what is not metered in, adds RATE to LEVEL up to DEPTH and lets the port whose turn it is in
while LEVEL covers its weight. Each completes here, exec answering the next state that its clause says, under conditions on the
state and operands alone: tokenChannelPush, controlTokenPass, tokenLinkTransfer, ingressMeter. The model's own choices and
readings in it: log 44, 45, 66, 121. -/
def Obligations.TokensInMotion : Prop :=
  ∀ (s : State) (e : Nat) (x : Elem) (w : Word), e = s.cur.elem → x = s.me.run.elem e → w = s.me.run.act.wordOf e →
    s.me.run.gated = false → e < s.me.run.elems.length →
    (∀ c id ta rest, x.slot s.cur.arg.opd = ⟨.ctl c id, ta⟩ :: rest → (Tok.ctl c id).observes = true → x.out = [] → x.emit = [] →
      isCell (eOp w).toNat = false → ∃ t : State, exec .controlTokenPass s = .next t ∧ t.mem = s.mem ∧
        (t.me.run.elem e).slot s.cur.arg.opd = rest ∧
        (x.ids.contains id = true → (t.me.run.elem e).out = [] ∧ (t.me.run.elem e).latches = x.latches ∧
          t.me.run.deps = s.me.run.deps) ∧
        (x.ids.contains id = false → (t.me.run.elem e).ids = (id :: x.ids).take 8 ∧
          (outDirs w ≠ [] → ∃ o, (t.me.run.elem e).out = [o] ∧ o.tok = .ctl c id ∧
            ∀ d, d < 4 → o.dirs.getLsbD d = (outDirs w).contains d) ∧
          (∀ n, c = .mark n → t.me.run.deps = s.me.run.deps ++ [⟨id, e, x.lastIn, x.lastWait⟩] ∧
            (t.me.run.elem e).latches = x.latches) ∧
          (∀ page sz, c = .relatch page sz → t.me.run.deps = s.me.run.deps ∧
            (t.me.run.elem e).latches = x.latches.filter fun l => !inPage page sz l))) ∧
    (∀ (dir : BitVec 2) (o : OutTok) (nb : Nat) (p : Opd), s.cur.arg.lend = .out e dir → x.out = [o] →
      o.dirs = BitVec.ofNat 4 (2 ^ dir.toNat) → o.quad = false → o.self = false →
      neighbour s.me.lanes e dir.toNat = some nb → nb < s.me.run.elems.length →
      opdOf (eFields (s.me.run.act.wordOf nb)) (opposite dir.toNat + 1) = some p →
      (2 ≤ ((s.me.run.elem nb).slot p).length → exec .tokenLinkTransfer s = .next s) ∧
      (((s.me.run.elem nb).slot p).length < 2 → ∃ t : State, exec .tokenLinkTransfer s = .next t ∧
        (t.me.run.elem nb).slot p = (s.me.run.elem nb).slot p ++ [⟨o.tok, s.time⟩] ∧
        (t.me.run.elem e).out = x.emit.take 2 ∧ t.mem = s.mem)) ∧
    (∀ (p nb : Nat) (tok : Tok) (o : Opd), s.cur.arg.lend = .port p → (s.me.run.port p).inq = [(tok, 1)] →
      (s.me.run.decl p).deal = false → s.me.run.act.fed s.me.lanes p 0 false = some nb → nb < s.me.run.elems.length →
      opdOf (eFields (s.me.run.act.wordOf nb)) 5 = some o → ((s.me.run.elem nb).slot o).length < 2 →
      ∃ t : State, exec .tokenLinkTransfer s = .next t ∧
        (t.me.run.elem nb).slot o = (s.me.run.elem nb).slot o ++ [⟨tok, s.time⟩] ∧ t.mem = s.mem) ∧
    (∀ ch tag seq ipc id rest h, (s.me.run.port s.cur.arg.n).ctlq = (0, .ctl (.tag ch tag seq ipc) id) :: rest →
      s.myChan ch = some h → s.consumerClosed h = false →
      ((∃ c ∈ s.me.cmds, c.portNo = s.cur.arg.n ∧ c.slotInFlight = true) ∨ s.chanRoom h 1 = false →
        exec .tokenChannelPush s = .next s) ∧
      ((∀ c ∈ s.me.cmds, c.portNo = s.cur.arg.n → c.slotInFlight = false) → s.chanRoom h 1 = true →
        ∃ k, exec .tokenChannelPush s = .next ((s.push ch [⟨tag, false, k⟩]).mapRun fun r =>
        r.mapPort s.cur.arg.n fun y => { y with ctlq := rest }))) ∧
    (∀ (n : Nat) (d u : Die) (r : State), n = s.cur.arg.n → d = s.die n →
      r = s.mapTasks (fun y => y.isPlaced && dieOf y.mill == n && !y.run.gated) (fun y => { y with run := y.run.enterFree d }) →
      (d.igctl.getLsbD 0 = false → exec .ingressMeter s = .next r) ∧ (d.igctl.getLsbD 0 = true →
      u = { d with iglevel := BitVec.ofNat 48 (min (d.iglevel.toNat + (d.igctl.extractLsb' 16 16).toNat)
        (256 * (d.igctl.extractLsb' 32 24).toNat)) } →
      (igOffers (r.setDie n u) n u = [] → exec .ingressMeter s = .next (r.setDie n u)) ∧
      (∀ k i p y, igOffers (r.setDie n u) n u = [(k, i, p)] → r.task? i = some y → ∃ t : State, exec .ingressMeter s = .next t ∧
        t.mem = s.mem ∧
        (u.iglevel.toNat < 256 * min (d.igwt.extractLsb' (8 * (y.run.port p).cls.toNat) 8).toNat (d.igctl.extractLsb' 32 24).toNat →
          (t.die n).iglevel = u.iglevel ∧ (t.die n).igptr = k) ∧
        (256 * min (d.igwt.extractLsb' (8 * (y.run.port p).cls.toNat) 8).toNat (d.igctl.extractLsb' 32 24).toNat ≤ u.iglevel.toNat →
          (t.die n).iglevel.toNat = u.iglevel.toNat - 256 * min (d.igwt.extractLsb' (8 * (y.run.port p).cls.toNat) 8).toNat
            (d.igctl.extractLsb' 32 24).toNat ∧ (t.die n).igptr = k + 1))))

/-- R38, R39, R156, R157, R288, R412: what reaches a consumer end. The oldest word goes to the buffer, behind it to the spill
area, or stays on the way where neither holds it; at a closed end it is discarded; across a link it leaves as a flit. Words of a
handle pair arrive together. A halo message arrives in the same way. SPILLFULL is recorded once after the interval with the area
full. Each completes here, exec answering the next state that its clause says, under conditions on the state and operands alone:
haloMessageArrival, channelWordArrival, spillfull. The model's own choices and readings in it: log 12, 29, 63, 68, 100, 101,
102. -/
def Obligations.ArrivalsOnChannels : Prop :=
  ∀ (s : State) (c : Chan), s.chan? s.cur.arg.fn s.cur.arg.w (BitVec.ofNat 12 s.cur.arg.k) = some c →
    (c.wire = [] → exec .channelWordArrival s = .next s) ∧
    (∀ v rest, c.peer = 0 → c.wire = v :: rest → v.handle = false →
      (c.closed = true → ∃ t : State, exec .channelWordArrival s = .next t ∧
        t.chan? c.fn c.blk c.ch = some { c with wire := rest }) ∧
      (c.closed = false → 1 ≤ s.bufFree c → ∃ (t : State) (y : Chan), exec .channelWordArrival s = .next t ∧ t.mem = s.mem ∧
        t.chan? c.fn c.blk c.ch = some y ∧ y.buf = c.buf ++ [v] ∧ y.spill = c.spill ∧ y.wire = rest) ∧
      (c.closed = false → s.bufFree c = 0 → c.fault = true → exec .channelWordArrival s = .next s) ∧
      (c.closed = false → s.bufFree c = 0 → c.fault = false →
        (s.spillFits c.fn c.blk 8 = false → ∃ y, ∃ t : State, exec .channelWordArrival s = .next t ∧
          t.chan? c.fn c.blk c.ch = some y ∧ y.wire = c.wire ∧ y.buf = c.buf ∧ y.spill = c.spill ∧
          y.fullSince = (if c.fullSince.isSome then c.fullSince else some s.time)) ∧
        (s.spillFits c.fn c.blk 8 = true → Config.spillFaults s.free = false → ∃ (t : State) (y : Chan),
          exec .channelWordArrival s = .next t ∧ t.chan? c.fn c.blk c.ch = some y ∧ y.buf = c.buf ∧ y.spill = c.spill ++ [v] ∧
          y.wire = rest ∧ t.mem = s.mem))) ∧
    (∀ v z rest, c.peer = 0 → c.wire = v :: z :: rest → v.handle = true → z.handle = true → c.closed = false →
      2 ≤ s.bufFree c → ∃ (t : State) (y : Chan), exec .channelWordArrival s = .next t ∧ t.chan? c.fn c.blk c.ch = some y ∧
        y.buf = c.buf ++ [v, z] ∧ y.wire = rest) ∧
    (∀ v rest pkg fn rch ports p, c.wire = v :: rest → v.handle = false → linkEntry s c.fn c.peer = some (pkg, fn, rch, ports) →
      c.peer ≠ 0 → pkg ≠ s.wh.pkg → c.peerClosed = false →
      (s.chanPort c ports = none → exec .channelWordArrival s = .next s) ∧
      (s.chanPort c ports = some p → ∃ (t : State) (k : Nat), exec .channelWordArrival s = .next t ∧
        t.chan? c.fn c.blk c.ch = some { c with wire := rest, sent := c.sent + 1 } ∧ t.link p = { s.link p with
          outq := (s.link p).outq ++ [⟨(s.link p).next, true, k, s.wh.pkg, c.fn, c.ch, c.sent, .word fn rch v.val⟩]
          next := (s.link p).next + 1 })) ∧
    (c.msgWire = [] → exec .haloMessageArrival s = .next s) ∧
    (∀ m rest, c.peer = 0 → c.msgWire = m :: rest → c.closed = false →
      (s.haloWaiting c m.tag = true → ∃ t : State, exec .haloMessageArrival s = .next t ∧ t.chan? c.fn c.blk c.ch = some { c with
        msgWire := rest
        msgs := c.msgs ++ [{ m with held := false, spilt := 0 }] }) ∧
      (s.haloWaiting c m.tag = false → msgWords m.bytes.length ≤ s.bufFree c → ∃ (t : State) (y : Chan),
        exec .haloMessageArrival s = .next t ∧ t.chan? c.fn c.blk c.ch = some y ∧ y.msgWire = rest ∧
        y.msgs = c.msgs ++ [{ m with held := true, spilt := 0 }])) ∧
    (∀ b since, s.blk? c.fn c.blk = some b → c.fullSince = some since → c.reported = false → b.eff.wdog ≠ 0 →
      (s.time < since + b.eff.wdog * 65536 → exec .spillfull s = .next s) ∧
      (since + b.eff.wdog * 65536 ≤ s.time →
        (s.areaFull c = false → exec .spillfull s = .next (s.mapChan c.fn c.blk c.ch fun y => { y with fullSince := none })) ∧
        (s.areaFull c = true → exec .spillfull s =
          .next (((s.mapChan c.fn c.blk c.ch fun y => { y with reported := true }).consumerFault c 0x10).source c.fn
            (s.consumerDie c) 6 0))))

/-- R251, R137, R141, R231, R127, R129, R130, R131, R369, R371: deterministic mode. SYNCD outside it retires; in it SYNCD waits
for the task's commands, arrives, sleeps, and retires after the merge, taking DETCONFLICT where the task lost; one whose place
was kept under a trap rejoins its interval, and a handler's own is illegal while one below it keeps its place. A round closes
when every task has issued, arrived or exited, its atomics applied in ascending task index, and keeps the value after it. The
merge of a node whose tasks can all be placed at once (log 72) makes the writes of both tasks, and where they touch a byte only
those of the lower index: the other discards all of its own and takes the lowest such address. Each completes here, exec
answering the next state that its clause says, under conditions on the state and operands alone: syncd, intervalMerge,
atomicRoundClose. The model's own choices and readings in it: log 16, 20, 21, 72, 112, 116. -/
def Obligations.DeterministicMode : Prop :=
  ∀ (s : State),
    (∀ g, s.me.ctx.guardTrue g = true →
      (s.me.eff.det = false → exec (.syncd g) s = .next (s.retireTo (s.me.ctx.pc + 4))) ∧
      (s.me.eff.det = true →
        (s.me.ctx.wait ≠ .syncd → (s.me.ctx.nest, WaitOn.syncd) ∉ s.me.ctx.held →
          (∀ y ∈ s.me.ctx.held, y.1 < s.me.ctx.nest → exec (.syncd g) s = .next (s.trapAt 0x01 (infoWord (.syncd g))))) ∧
        (s.me.ctx.wait ≠ .syncd → (s.me.ctx.nest, WaitOn.syncd) ∉ s.me.ctx.held → (∀ y ∈ s.me.ctx.held, s.me.ctx.nest ≤ y.1) →
          (s.me.busy = true → exec (.syncd g) s = .next (s.waitOn .cmdsRetired)) ∧
          (s.me.busy = false → ∃ t : State, exec (.syncd g) s = .next t ∧ t.me.det = { s.me.det with arrived := true } ∧
            t.me.ctx = { s.me.ctx with wait := .syncd, st := .sleeping } ∧ t.mem = s.mem)) ∧
        (s.me.ctx.wait = .syncd ∨ (s.me.ctx.nest, WaitOn.syncd) ∈ s.me.ctx.held → s.me.det.arrived = true →
          exec (.syncd g) s = .next (s.waitOn .syncd)) ∧
        (s.me.ctx.wait = .syncd ∨ (s.me.ctx.nest, WaitOn.syncd) ∈ s.me.ctx.held → s.me.det.arrived = false → s.me.ctx.rep.count = 0 →
          (s.me.det.conflict = none → s.me.ctx.steps = false → ∃ t : State, exec (.syncd g) s = .next t ∧
            t.me.ctx.pc = s.me.ctx.pc + 4 ∧ t.me.ctx.clock = s.me.ctx.clock + 1 ∧ t.me.ctx.wait = .none ∧
            t.me.ctx.g = s.me.ctx.g ∧ t.mem = s.mem) ∧
          (∀ va, s.me.det.conflict = some va → s.me.ctx.tm = false → ∃ t : State, exec (.syncd g) s = .next t ∧
            t.me.ctx.trapPc = s.me.ctx.pc + 4 ∧ t.me.ctx.trapCause = 0x09 ∧ t.me.ctx.trapInfo = va ∧ t.me.ctx.st = .trapped ∧
            t.me.det.conflict = none ∧ t.mem = s.mem)))) ∧
    (∀ g b r q v w z, s.groupOf s.cur.arg.fn s.cur.arg.w = some g → s.blk? s.cur.arg.fn s.cur.arg.w = some b →
      g.rounds = [r, q] → g.vals = [] → r.loc = s.cur.arg.k → q.loc = s.cur.arg.k → r.size = s.cur.arg.n →
      q.size = s.cur.arg.n → r.round = 1 → q.round = 1 → r.res = none → q.res = none → r.idx < q.idx →
      v = memNat (s.detBase g) s.cur.arg.k s.cur.arg.n → w = atomicNew r.op r.size v r.val.toNat r.cmp.toNat →
      z = BitVec.ofNat 64 (atomicNew q.op q.size w q.val.toNat q.cmp.toNat) →
      (b.eff.tcount.toNat ≤ ((s.party s.cur.arg.fn s.cur.arg.w).filter fun t =>
          t.id.idx = r.idx ∨ t.id.idx = q.idx ∨ t.det.arrived = true ∨ t.exited = true).length →
        ∃ (t : State) (h : Group), exec .atomicRoundClose s = .next t ∧ t.mem = s.mem ∧ t.me = s.me ∧
          t.groupOf s.cur.arg.fn s.cur.arg.w = some h ∧ h.snap = g.snap ∧
          h.rounds = [{ r with res := some (BitVec.ofNat 64 v, z) }, { q with res := some (BitVec.ofNat 64 w, z) }] ∧
          h.vals = [(s.cur.arg.k, s.cur.arg.n, z, 1)]) ∧
      (((s.party s.cur.arg.fn s.cur.arg.w).filter fun t =>
          t.id.idx = r.idx ∨ t.id.idx = q.idx ∨ t.det.arrived = true ∨ t.exited = true).length < b.eff.tcount.toNat →
        exec .atomicRoundClose s = .next s)) ∧
    (∀ g k, memGet (s.detBase g) k = if spaceOf k = 4 then memGet s.mem k else memGet g.snap k) ∧
    (∀ g b x y, s.groupOf s.cur.arg.fn s.cur.arg.w = some g → s.blk? s.cur.arg.fn s.cur.arg.w = some b →
      b.eff.tcount.toNat = 2 → s.party s.cur.arg.fn s.cur.arg.w = [x, y] → x.id.idx < y.id.idx → g.rounds = [] → g.vals = [] →
      (∀ z ∈ [x, y], z.det.atoms = [] ∧ z.det.reds = [] ∧ z.det.stats = [] ∧ z.det.drops = [] ∧ z.det.launches = []) →
      s.neverMeets s.cur.arg.fn s.cur.arg.w = false → (s.fn s.cur.arg.fn).rpbusy = false → Memory.wf s.mem = true →
        Memory.wf g.snap = true → x.exited = false → y.exited = false →
      (x.det.arrived = false ∨ y.det.arrived = false → exec .intervalMerge s = .next s) ∧
      (x.det.arrived = true → y.det.arrived = true →
        ∃ (t : State) (x' y' : Task), exec .intervalMerge s = .next t ∧ x' ∈ t.all ∧ x'.id = x.id ∧ y' ∈ t.all ∧ y'.id = y.id ∧
          x'.det.arrived = false ∧ x'.det.writes = [] ∧ x'.det.interval = x.det.interval + 1 ∧ x'.det.conflict = none ∧
          y'.det.arrived = false ∧ y'.det.writes = [] ∧ y'.det.interval = y.det.interval + 1 ∧
          (∀ k, memGet t.mem k = match x.det.writes.find? (fun w => w.loc == k) with
            | some w => w.val
            | none => if y.det.writes.any (fun w => x.det.writes.any fun z => z.loc == w.loc) then memGet s.mem k
              else match y.det.writes.find? (fun w => w.loc == k) with
                | some w => w.val
                | none => memGet s.mem k) ∧
          ((y.det.writes.any fun w => x.det.writes.any fun z => z.loc == w.loc) = false → y'.det.conflict = none) ∧
          (∀ w ∈ y.det.writes, (x.det.writes.any fun z => z.loc == w.loc) = true →
            ∃ va, y'.det.conflict = some va ∧ va ≤ w.va ∧ ∃ u ∈ y.det.writes, u.va = va ∧
              (x.det.writes.any fun z => z.loc == u.loc) = true)))

/-- R407, R43, R378, R379, R380, R252, R49: launches. LAUNCH queues a root or sets its CODE; the walk of a root that offends
refuses it and fires vector 1, that of a leaf with tasks enters its die's queue, or stalls while the queue of its priority is
full, to go on from there. DLAUNCH checks address and budgets and answers 1, or 6 for a refusal. The last die to acknowledge a
cut launch starts it. Each completes here, exec answering the next state that its clause says, under conditions on the state and
operands alone: dlaunch, dieAck, launch, workBlockWalk. The model's own choices and readings in it: log 17, 70, 74, 107, 108,
113. -/
def Obligations.LaunchAndWalk : Prop :=
  ∀ (s : State) (n : Nat) (f : Fn), n = s.cur.arg.fn → f = s.fn n →
    exec .launch s = .next (s.setFn n
      (if canonical s.cur.arg.w = false ∨ s.cur.arg.w.extractLsb' 0 8 ≠ 0 then { f with lcode := 1 }
      else if 64 ≤ f.launches.length then { f with lcode := 2 }
      else { f with lcode := 0, launches := f.launches ++ [s.cur.arg.w] })) ∧
    (s.unentered n ≠ [] → exec .workBlockWalk s = .next (State.enterBlks (s.unentered n) s)) ∧
    (s.unentered n = [] → f.launches = [] → exec .workBlockWalk s = .next s) ∧
    (∀ root rest u, s.unentered n = [] → f.launches = root :: rest → u = s.setFn n { f with launches := rest } →
      (∀ c va, devRead s n root 256 = .error (c, va) →
        exec .workBlockWalk s = .next (((u.devFault n c root).msix n 1).replayRefused n root)) ∧
      (∀ bs, devRead s n root 256 = .ok bs → devRead u n root 256 = .ok bs →
        (∀ c, blkOffence u n none bs = some c → exec .workBlockWalk s =
          .next (((u.devPut n (root + 0x58) (leBytes 8 (6 + c.toNat * 2 ^ 8))).msix n 1).replayRefused n root)) ∧
        (∀ b d, b = mkBlk n root ⟨root, root, none, 0⟩ bs 0 → blkOffence u n none bs = none → dword bs 0x10 = 0 →
          b.isNode = true → b.eff.tcount ≠ 0 → cutDies n root = [] → d = dieOf (f.mills.headD 0) →
          (4096 ≤ ((s.die d).queue.filter fun e => e.prio == b.eff.prio).length → exec .workBlockWalk s = .next s) ∧
          (((s.die d).queue.filter fun e => e.prio == b.eff.prio).length < 4096 → ∃ t : State, exec .workBlockWalk s = .next t ∧
            t.mem = s.mem ∧ (t.fn n).launches = rest ∧
            (t.die d).queue = (s.die d).queue ++
              [⟨n, root, b.eff.tbase, b.eff.tbase + b.eff.tcount, b.eff.prio, b.eff.age, s.time⟩] ∧
            ∃ x ∈ t.blks, x.fn = n ∧ x.addr = root ∧ x.st = .queued ∧ x.eff = b.eff ∧ x.gone = 0 ∧ x.started = true)))) ∧
    (∀ g d a va, s.me.ctx.guardTrue g = true → s.SrcReady a → s.DstReady d → va = s.src a →
      (canonical va = false → exec (.dlaunch g d a) s = .next (s.trapAt 0x04 va)) ∧
      (canonical va = true → va.extractLsb' 0 8 ≠ 0 → exec (.dlaunch g d a) s = .next (s.trapAt 0x03 va)) ∧
      (canonical va = true → va.extractLsb' 0 8 = 0 →
        (∀ u c v, taskBlock s va = .fault u c v → exec (.dlaunch g d a) s = .next (u.trapAt c v)) ∧
        (∀ v, taskBlock s va = .sever v → exec (.dlaunch g d a) s = .next (s.stopMe 0x16 v)) ∧
        (∀ w, taskBlock s va = .wait w → exec (.dlaunch g d a) s = .next (s.waitOn w)) ∧
        (∀ bs u, taskBlock s va = .ok bs u →
          (∀ k, overBudget s.me.eff bs = some k → exec (.dlaunch g d a) s = .next (s.trapAt 0x18 (BitVec.ofNat 64 k))) ∧
          (overBudget s.me.eff bs = none →
            (s.me.eff.det = true → exec (.dlaunch g d a) s = (u.mapMe fun t => { t with det := { t.det with
              launches := t.det.launches ++ [va] } }).answerG [a] d 1 (u.me.ctx.pc + 4)) ∧
            (s.me.eff.det = false → ∀ w, u.linkTree taskBlock true va = .error w → exec (.dlaunch g d a) s = .next (s.waitOn w)) ∧
            (s.me.eff.det = false → ∀ v, u.linkTree taskBlock true va = .ok (none, v) →
              exec (.dlaunch g d a) s = v.answerG [a] d 1 (v.me.ctx.pc + 4)) ∧
            (s.me.eff.det = false → ∀ c v, u.linkTree taskBlock true va = .ok (some c, v) →
              exec (.dlaunch g d a) s = v.answerG [a] d 6 (v.me.ctx.pc + 4)))))) ∧
    (∀ bs e k, overBudget e bs = some k → k < 5 ∧ (dword bs 0).getLsbD (16 + k) = true ∧
      ([e.stones, e.pond, e.flslots, e.spill, e.adepth].getD k 0) < ([bField bs 0x20 0 16, bField bs 0x20 16 16,
        bField bs 0x20 32 16, bField bs 0x28 0 32, bField bs 0x28 32 8].getD k 0)) ∧
    (∀ r, s.blk? n s.cur.arg.w = some r → r.root = r.addr → r.started = false → r.st.over = false → s.cur.arg.n ∈ r.cut →
      s.cur.arg.n ∉ r.acks →
      (s.dieLoaded r s.cur.arg.n = false → exec .dieAck s = .next s) ∧
      (s.dieLoaded r s.cur.arg.n = true → ∃ (t : State) (x : Blk), exec .dieAck s = .next t ∧ t.mem = s.mem ∧
        t.blk? n r.addr = some x ∧ x.acks = s.cur.arg.n :: r.acks ∧
        ((∃ d ∈ r.cut, d ≠ s.cur.arg.n ∧ d ∉ r.acks) → x.started = false ∧ t.all = s.all) ∧
        ((∀ d ∈ r.cut, d = s.cur.arg.n ∨ d ∈ r.acks) → x.started = true ∧ ∀ y ∈ t.all, y.id.fn = n →
          (∃ b ∈ s.blks, b.fn = n ∧ b.addr = y.id.blk ∧ b.root = r.addr) → y.waitsStart = false)))

/-- R36, R37, R114, R148, R149, R151, R158, R208, R242, R44: the life of a task. Its start loads its configuration and begins
with its registers zero, PC at the entry, NSEED the SEED and the clock at the largest logical time; a load that fails ends it
with the cause; a restored task goes on as it was, and one whose image differs is refused. Pre-emption gates run, context and
engines; when the image is written the task is SWAPPED and queues again, once its queue has room. After EXIT and its commands it
retires, and its block counts it; in deterministic mode it leaves run and context then, and retires at the merge (log 16). Each
completes here, exec answering the next state that its clause says, under conditions on the state and operands alone: taskStart,
taskRetire, preempt, preemptSaveDone. The model's own choices and readings in it: log 13, 16, 71, 112, 114. -/
def Obligations.TaskLife : Prop :=
  ∀ (s : State),
    (s.me.st = .placed → s.me.ctx.st = .free →
      (s.loadFrom s.me.cfg s.me.dataBase = .wait → exec .taskStart s = .next s) ∧
      (∀ p u, s.loadFrom s.me.cfg s.me.dataBase = .ok p u → ∃ t : State, exec .taskStart s = .next t ∧ t.mem = u.mem ∧
        t.me.ctx.pc = u.me.entry ∧ t.me.ctx.g = Vector.replicate 32 0 ∧ t.me.ctx.f = Vector.replicate 16 0 ∧
        t.me.ctx.q = Vector.replicate 8 false ∧ t.me.ctx.h = Vector.replicate 8 0 ∧ t.me.ctx.st = .runnable ∧
        t.me.ctx.tm = false ∧ t.me.ctx.nseed = u.me.eff.seed ∧ t.me.ctx.nstep = 0 ∧ t.me.ctx.clock = maxTime u u.me.id.fn ∧
        t.me.ctx.rep = ⟨0, 0, 0⟩ ∧ t.me.ctx.sig = u.me.id.idx.setWidth 64 ∧ t.me.run.act = p ∧ t.me.run.inact = .empty ∧
        t.me.waitsStart = (!u.launchStarted)) ∧
      (∀ c u, s.loadFrom s.me.cfg s.me.dataBase = .failed c u → u.launchStarted = true → ∃ t : State,
        exec .taskStart s = .next t ∧ t.me.st = .killed ∧ t.me.cause = c ∧ t.me.ctx.st = .free)) ∧
    (s.me.st = .placed → s.me.ctx.st = .swapped → ∀ p u,
      (s.dropPlane s.me.run.act).loadFrom s.me.run.act.addr s.me.run.act.base = .ok p u →
      (p.id = s.me.run.act.id → u.me.run.inact.valid = false → ∃ t : State, exec .taskStart s = .next t ∧
        ((∀ f ∈ u.flumes, f.owner = u.me.id → f.gone = true) → t.mem = u.mem) ∧
        t.me.ctx.pc = u.me.ctx.pc ∧ t.me.ctx.g = u.me.ctx.g ∧ t.me.ctx.q = u.me.ctx.q ∧ t.me.ctx.f = u.me.ctx.f ∧
        t.me.ctx.h = u.me.ctx.h ∧ t.me.ctx.clock = u.me.ctx.clock ∧
        t.me.ctx.st = (if u.me.stop ≠ .none ∨ u.me.ctx.handler = true then .trapped else .runnable)) ∧
      (p.id ≠ s.me.run.act.id → exec .taskStart s = .next (((u.dropPlane p).mapRun fun r => { r with
        act := { r.act with charge := 0 } }).contain s.me.id.fn s.me.id.blk .faulted 0x0C))) ∧
    (s.me.st = .draining → s.me.saving = false → s.me.eff.det = false → s.me.det = { DetTask.zero with interval := s.me.det.interval } →
      (s.me.busy = true → ∃ t : State, exec .taskRetire s = .next t ∧ t.me.st = .draining ∧ t.mem = s.mem) ∧
      (s.me.busy = false → s.me.stop = .none → s.me.run.tagWaits = false → (s.fn s.me.id.fn).rpbusy = false →
        ∀ b, s.blk? s.me.id.fn s.me.id.blk = some b → ∃ (t : State) (x : Blk), exec .taskRetire s = .next t ∧ t.mem = s.mem ∧
          t.me.st = .ended ∧ t.me.cause = 0 ∧ t.me.ctx.st = .free ∧ t.me.run = .empty ∧ t.me.cmds = [] ∧
          t.blk? s.me.id.fn s.me.id.blk = some x ∧ x.gone = b.gone + 1 ∧ x.retired = b.retired + 1)) ∧
    (s.me.st = .draining → s.me.saving = false → s.me.eff.det = true → s.me.merged = false → s.me.busy = false → s.me.stop = .none →
      s.me.run.tagWaits = false → ∃ t : State, exec .taskRetire s = .next t ∧ t.mem = s.mem ∧ t.me.st = .exited ∧ t.me.id = s.me.id ∧
        t.me.ctx.st = .free ∧ t.me.run = .empty ∧ t.me.cmds = [] ∧ t.me.det = s.me.det) ∧
    (s.me.st = .placed → s.me.saving = false →
      (s.me.ctx.st = .free ∨ s.me.ctx.st = .swapped → exec .preempt s = .next { s with me := { s.me with moveTo := none } }) ∧
      (s.me.ctx.st ≠ .free → s.me.ctx.st ≠ .swapped →
        (∃ t : State, exec .preempt s = .next t ∧ t.me.saving = true ∧ t.me.run.gated = true ∧ t.mem = s.mem) ∧
        (s.me.run.stopAt = none → (∀ y ∈ s.me.ctx.pend, y.sev = false ∧ y.cause ≠ 0x17) → exec .preempt s = .next { s with
          me := { s.me with saving := true, run := { s.me.run with gated := true } } }))) ∧
    (s.me.st = .placed → s.me.saving = true → s.slotRetires = false →
      (Config.saveFails s.free = true → exec .preemptSaveDone s =
        .next (({ s with free := s.free + 1 } : State).contain s.me.id.fn s.me.id.blk .faulted 0x0D)) ∧
      (Config.saveFails s.free = false → s.me.moveTo = none → ∀ b, s.blk? s.me.id.fn s.me.id.blk = some b →
        (4096 ≤ (s.die (s.blkDie b)).count b.eff.prio → exec .preemptSaveDone s = .next s) ∧
        ((s.die (s.blkDie b)).count b.eff.prio < 4096 → ∃ t : State, exec .preemptSaveDone s = .next t ∧
        t.mem = s.mem ∧ t.me.st = .swapped ∧ t.me.saving = false ∧
        t.me.ctx = { s.me.ctx with st := .swapped, parked := none, ctrs := t.me.ctx.ctrs } ∧
        (∀ i : Fin 4, t.me.ctx.ctrs[i] = { s.me.ctx.ctrs[i] with wrapped := none }) ∧ t.me.imageSt = BitVec.ofNat 8 s.me.imageState ∧
          t.me.run = s.me.run ∧ t.me.cmds = s.me.cmds ∧
        ∃ e ∈ (t.die (s.blkDie b)).queue, e.fn = b.fn ∧ e.blk = b.addr ∧ e.next = s.me.id.idx ∧ e.last = s.me.id.idx + 1 ∧
          e.prio = b.eff.prio ∧ e.since = s.time)))

/-- R46, R47, R366, R367, R368, R381, R382, R385, R44: allocation. The entry of the highest effective priority is tried first;
its head task takes, where the budgets admit its stones, the first aligned free slot with a free context in canonical order, or
in deterministic mode the drawn slot; the entry goes on to its next task. An entry that has held the head for 65,536 cycles pre-
empts a task at least two priorities lower. Each completes here, exec answering the next state that its clause says, under
conditions on the state and operands alone: allocatorDecision, headHoldPreempt. The model's own choices and readings in it: log
17, 75, 118. -/
def Obligations.Allocation : Prop :=
  ∀ (s : State),
    (∃ t : State, exec .allocatorDecision s = .next t) ∧
    (∀ (d : Die) now x y, d.queue = [x, y] → x.effPrio now < y.effPrio now → d.ranked now = [y, x]) ∧
    (∀ (e : QEntry) now, e.effPrio now = if e.prio = 7 ∨ e.age = 0 then e.prio.toNat
      else min 6 (e.prio.toNat + (now - e.since) / (512 * 2 ^ e.age.toNat))) ∧
    (∀ n e b h, n < 8 → (s.die n).queue = [e] → (∀ k, k < 8 → k ≠ n → (s.die k).queue = []) →
      s.blk? e.fn e.blk = some b → b.hdr = some h → s.task? ⟨e.fn, e.blk, e.next⟩ = none →
      ((∃ x ∈ s.lineage b.fn b.addr, x.eff.stones < x.useStones + h.size) → ∃ t : State,
        exec .allocatorDecision s = .next t ∧ t.me = s.me ∧ t.tasks = s.tasks ∧ t.blks = s.blks ∧ (t.die n).queue = [e]) ∧
      ((∀ x ∈ s.lineage b.fn b.addr, x.useStones + h.size ≤ x.eff.stones) → ∀ (m k lo : Nat) (c : BitVec 4),
        (b.eff.det = false → ∃ rest, s.millsOf b = (m, k) :: rest ∧
          (slotStarts h.size).find? (fun i => s.slotFree m i h.size) = some lo) →
        (b.eff.det = true → (m, k) ∈ s.millsOf b ∧ lo = h.size *
            (drawSlot b.eff.seed (b.eff.cmills * (16 / h.size)) e.next.toNat % (16 / h.size)) ∧
          k = drawSlot b.eff.seed (b.eff.cmills * (16 / h.size)) e.next.toNat / (16 / h.size) ∧
          s.slotFree m lo h.size = true) →
        s.freeCtx m = some c → ∃ t : State, exec .allocatorDecision s = .next t ∧ t.mem = s.mem ∧
          t.me.id = ⟨e.fn, e.blk, e.next⟩ ∧ t.me.st = .placed ∧ t.me.mill = m ∧ t.me.canon = k ∧ t.me.stone = lo ∧
          t.me.ctxNo = c ∧ t.me.size = h.size ∧ t.me.entry = h.entry ∧ t.me.cfg = h.cfg ∧ t.me.eff = b.eff ∧
          t.me.ctx.st = .free ∧ t.me.placedAt = s.time ∧
          (t.die n).queue = (if e.next + 1 = e.last then [] else [{ e with next := e.next + 1, since := s.time }]))) ∧
    (∀ d fn blk i since, d = s.die s.cur.arg.n → d.holder = some (fn, blk, i, since) →
      (s.time < since + 65536 → exec .headHoldPreempt s = .next s) ∧
      (∀ e b v, since + 65536 ≤ s.time → d.queue.find? (fun e => e.fn == fn && e.blk == blk && e.next == i) = some e → s.blk? fn blk = some b →
        s.victim b (e.effPrio s.time) = some v → v.eff.prio.toNat + 2 ≤ e.effPrio s.time ∧ v ∈ s.all ∧
        exec .headHoldPreempt s = .next { s.setDie s.cur.arg.n { d with holder := some (fn, blk, i, s.time) } with
          later := s.later ++ [[.ev v.id 0 0 .preempt .none]] }))

/-- R366, R367, R47: the drawn slots. DrawSlot is the first value below M on the walk of Round from i mod M, with b the smallest
number of bits of at least 1 that covers M; it is a permutation of the M slots for every seed; and a task drawn to slot z is
placed on canonical mill floor(z / (16 / s)) at start stone s * (z mod (16 / s)). -/
def Obligations.DrawnSlotsAreAPermutation : Prop :=
  (∀ (seed : Word) (m i b h a c : Nat) (round : Nat → Nat), 0 < m → 1 ≤ b → m ≤ 2 ^ b → (∀ k, 1 ≤ k → m ≤ 2 ^ k → b ≤ k) →
    h = (b + 1) / 2 → a = ((seed.setWidth 32).toNat % 2 ^ b) ||| 1 → c = (seed.extractLsb' 32 32).toNat % 2 ^ b →
    (∀ y, round y = (a * (((a * y + c) % 2 ^ b) ^^^ (((a * y + c) % 2 ^ b) / 2 ^ h)) + c) % 2 ^ b) →
    (∃ k, 0 < k ∧ drawSlot seed m i = round^[k] (i % m) ∧ round^[k] (i % m) < m ∧ ∀ j, 0 < j → j < k → m ≤ round^[j] (i % m)) ∧
    (∀ z, z < m → ∃ j, j < m ∧ drawSlot seed m j = z ∧ ∀ k, k < m → drawSlot seed m k = z → k = j)) ∧
  (∀ (s : State) (b : Blk) (n i m k lo z : Nat) (ctx : BitVec 4), n ∈ [1, 2, 4, 8, 16] →
    s.drawnSlot b n i = some (m, k, lo, ctx) → z = drawSlot b.eff.seed (b.eff.cmills * 16 / n) i →
    k = z / (16 / n) ∧ lo = n * (z % (16 / n)) ∧ (s.fn b.fn).mills[k]? = some m)

/-- R411, R412, R413, R288, R160, R235, R459: race links. A flit in sequence that passes its CRC takes effect and the next is
awaited; a repeated one is dropped; one that fails, or comes ahead of its turn, is replayed and counted; an acknowledgement
empties the replay buffer. A channel word, a release and a hold each take effect once, by the number of their sender's message
(log 100). A release takes handles from a remote holder and frees the object with the last. A failed port is down, and what
waited on it goes by another that serves it; a die link whose loss leaves every two dies a path severs nothing, and the fault
domain of an edge that has none left is SEVERED. Each completes here, exec answering the next state that its clause says, under
conditions on the state and operands alone: linkFailure, linkFlitReceive, handleReleaseMessage. The model's own choices and
readings in it: log 31, 76, 100, 102, 127. -/
def Obligations.RaceLinks : Prop :=
  ∀ (s : State) (p : Nat) (f : Flit) (l : Link), p = s.cur.arg.n → f = s.cur.arg.flit → l = s.link p →
    (l.up = false → exec .linkFlitReceive s = .next s) ∧
    (l.up = true → f.crcOk = false → ∃ t : State, exec .linkFlitReceive s = .next t ∧ (t.link p).got = l.got ∧
      (t.link p).replays = (if l.window = s.time / 65536 then l.replays + 1 else 1) ∧
      aget 0 t.wh.life (6 * 2 ^ 20 + p) = min (2 ^ 48 - 1) (aget 0 s.wh.life (6 * 2 ^ 20 + p) + 1) ∧ t.mem = s.mem ∧
      t.chans = s.chans) ∧
    (l.up = true → f.crcOk = true →
      (∀ n, f.msg = .ack n → ∃ t : State, exec .linkFlitReceive s = .next t ∧ t.mem = s.mem ∧
        (t.link p).outq = l.outq.filter fun x => 2 ^ 31 ≤ (n - x.seq).toNat) ∧
      ((∀ n, f.msg ≠ .ack n) →
        (f.seq ≠ l.got → (l.got - f.seq).toNat < 2 ^ 31 → exec .linkFlitReceive s = .next s) ∧
        (f.seq ≠ l.got → 2 ^ 31 ≤ (l.got - f.seq).toNat → ∃ t : State, exec .linkFlitReceive s = .next t ∧
          (t.link p).got = l.got ∧ (t.link p).replays = (if l.window = s.time / 65536 then l.replays + 1 else 1) ∧
          aget 0 t.wh.life (6 * 2 ^ 20 + p) = min (2 ^ 48 - 1) (aget 0 s.wh.life (6 * 2 ^ 20 + p) + 1) ∧
          t.chans = s.chans ∧ t.mem = s.mem)) ∧
      (∀ fn ch v x, f.msg = .word fn ch v → f.seq = l.got → s.linkEnd f fn ch false = some x →
        (f.num = x.got → x.closed = false → s.chan? x.fn x.blk x.ch = some x → 1 ≤ s.bufFree x → ∃ (t : State) (y : Chan),
          exec .linkFlitReceive s = .next t ∧ (t.link p).got = l.got + 1 ∧ t.chan? x.fn x.blk x.ch = some y ∧
          y.buf = x.buf ++ [⟨v, false, f.clk + 1⟩] ∧ y.got = x.got + 1 ∧ t.mem = s.mem) ∧
        (f.num ≠ x.got → (x.got - f.num).toNat < 2 ^ 31 →
          exec .linkFlitReceive s = .next (s.setLink p { l with got := l.got + 1 }))) ∧
      (f.seq = l.got → f.num = (aget (0, 0) s.peers f.pkg.toNat).2 → ∀ u : State,
        u = { s with peers := aset s.peers f.pkg.toNat ((aget (0, 0) s.peers f.pkg.toNat).1, f.num + 1) } →
        (∀ obj n, f.msg = .release obj n → ∃ t : State, exec .linkFlitReceive s = .next t ∧
          (t.link p).got = l.got + 1 ∧ t.objs = ((u.noteObj obj.toNat (f.clk + 1)).releaseRemote obj.toNat f.pkg n).objs) ∧
        (∀ obj pkg n o, f.msg = .hold obj pkg n → s.obj? obj.toNat = some o → ∃ (t : State) (x : Obj),
          exec .linkFlitReceive s = .next t ∧ (t.link p).got = l.got + 1 ∧ t.obj? obj.toNat = some x ∧
          x.handles = o.handles + n ∧ t.mem = s.mem) ∧
        (∀ c v, f.msg = .share c → v = (s.shares.filter fun x => !(x.1.grp == c.grp && x.1.srcPkg == c.srcPkg && x.1.srcFn == c.srcFn &&
            x.1.srcIdx == c.srcIdx && (x.1.seq == c.seq || x.1.members != c.members))) ++ [(c, f.clk + 1)] →
          (∃ t : State, exec .linkFlitReceive s = .next t ∧ (t.link p).got = l.got + 1 ∧ t.shares = v ∧ t.mem = s.mem) ∧
          (c.data = [] ∨ (∀ m ∈ c.members, otherList u c m = none) →
            exec .linkFlitReceive s = .next ({ u with shares := v }.setLink p { l with got := l.got + 1 }))))) ∧
    (∀ obj n o k, f.msg = .release obj n → s.obj? obj.toNat = some o → o.remote = [(f.pkg, k)] → o.st ≠ .freed →
      (n < k → n < o.handles → ∃ (t : State) (x : Obj), exec .handleReleaseMessage s = .next t ∧ t.obj? obj.toNat = some x ∧
        x.handles = o.handles - n ∧ x.remote = [(f.pkg, k - n)] ∧ x.st = o.st ∧ t.mem = s.mem) ∧
      (n = k → o.handles = n → ∃ (u : State) (x : Obj), u.obj? obj.toNat = some x ∧ x.handles = 0 ∧ x.remote = [(f.pkg, 0)] ∧
        u.mem = s.mem ∧ exec .handleReleaseMessage s = .next (u.objFree obj.toNat))) ∧
    ((∀ obj n, f.msg ≠ .release obj n) → exec .handleReleaseMessage s = .next s) ∧
    (∀ a b u, s.cur.arg.wr = true → a = s.cur.arg.n → b = s.cur.arg.k →
      u = s.setLink (32 + 8 * min a b + max a b) { s.link (32 + 8 * min a b + max a b) with up := false } →
      ((∀ x y, s.diesMeet x y = true → u.diesMeet x y = true) → exec .linkFailure s = .next u) ∧
      (∀ c d, s.chans = [c, d] → s.joined c = some d → s.joined d = none →
        s.dieOfNode c.fn c.blk ≠ s.dieOfNode d.fn d.blk → s.diesMeet (s.dieOfNode c.fn c.blk) (s.dieOfNode d.fn d.blk) = true →
        u.diesMeet (s.dieOfNode c.fn c.blk) (s.dieOfNode d.fn d.blk) = false →
        exec .linkFailure s = .next (u.severDomain c.fn c.blk))) ∧
    (s.cur.arg.wr = false → ∀ u, u = s.setLink p { l with up := false, outq := [] } →
      (l.outq = [] → (∀ c ∈ s.chans, c.peer = 0) → s.objs = [] → exec .linkFailure s = .next u) ∧
      (∀ g q, l.outq = [g] → newPort u p g = some q → (∀ c ∈ s.chans, c.peer = 0) → s.objs = [] →
        exec .linkFailure s = .next (u.resend q g)) ∧
      (∀ c, l.outq = [] → s.chans = [c] → s.cutOff u p c = true →
        exec .linkFailure s = .next (u.severDomain c.fn c.blk).dropLost))

/-- R92, R93, R94, R97, R98, R99, R159: SRAM banks and pond tiles. A bank request is refused with a code or is in progress
(where several codes apply, in the order of log 109); at its end the bank is zeroed and shows its mode. A tile changes its mode
in the same way, zeroed where it leaves CACHE (as the change begins, log 123), and not out of HOME while it holds anything. RUN
changing to 1 in a PUSH tile reads the pattern block and starts the program, or stops it with a record; a unit is delivered
where a run takes it, PROT where it lies outside the tile and ALIGN where it stands at no multiple of 4. Each completes here,
exec answering the next state that its clause says, under conditions on the state and operands alone: bankreq,
bankModeChangeDone, ptctlMode, tileModeChangeDone, ptctlRunStart, ptctlRunStop, pushUnit. The model's own choices and readings
in it: log 26, 60, 99, 109, 110, 123. -/
def Obligations.BanksAndTiles : Prop :=
  ∀ (s : State) (fn : Nat) (w : Word), fn = s.cur.arg.fn → w = s.cur.arg.w →
    (s.selMill fn = none → exec .bankreq s = .next s) ∧
    (∀ m x b mode, s.selMill fn = some m → x = s.mill m → b = (w.extractLsb' 0 5).toNat → mode = w.extractLsb' 8 2 →
      (x.busy.isSome = true → exec .bankreq s = .next (s.setMill m { x with code := 1 })) ∧
      (x.busy = none → 24 ≤ b → exec .bankreq s = .next (s.setMill m { x with code := 2 })) ∧
      (x.busy = none → (h : b < 24) →
        (mode = 3 → exec .bankreq s = .next (s.setMill m { x with code := 2 })) ∧
        (mode ≠ 3 → mode = x.modes[b] → exec .bankreq s = .next (s.setMill m { x with code := 6 })) ∧
        (∀ f, mode ≠ 3 → mode ≠ x.modes[b] → s.bankFlume m b = some f → mode = 2 ∨ x.modes[b] = 2 →
          (f.filled ≠ 0 ∨ s.copiesInto f = true → exec .bankreq s = .next (s.setMill m { x with code := 3 })) ∧
          (f.filled = 0 → s.copiesInto f = false → x.modes[b] = 2 → f.base = 0 →
            exec .bankreq s = .next (s.setMill m { x with code := 4 }))) ∧
        (mode ≠ 3 → mode ≠ x.modes[b] →
          (∀ f, s.bankFlume m b = some f → mode = 2 ∨ x.modes[b] = 2 →
            f.filled = 0 ∧ s.copiesInto f = false ∧ ¬ (x.modes[b] = 2 ∧ f.base = 0)) →
          (x.modes[b] = 1 → s.bankCovered m b = true → exec .bankreq s = .next (s.setMill m { x with code := 5 })) ∧
          (x.modes[b] ≠ 1 ∨ s.bankCovered m b = false →
            exec .bankreq s = .next (s.setMill m { x with busy := some (b, mode) }))))) ∧
    (∀ x, x = s.mill s.cur.arg.n →
      (x.busy = none → exec .bankModeChangeDone s = .next s) ∧
      (∀ b mode, (h : b < 24) → x.busy = some (b, mode) → ∃ t : State, exec .bankModeChangeDone s = .next t ∧
        t.mill s.cur.arg.n = { x with modes := x.modes.set b mode h, busy := none, code := 0 } ∧
        (∀ k, memGet t.mem k = if keyOf 3 ((s.cur.arg.n * 24 + b) * 65536) ≤ k ∧
          k < keyOf 3 ((s.cur.arg.n * 24 + b) * 65536) + 65536 then 0 else memGet s.mem k) ∧
        ∀ f ∈ t.flumes, f.gone = false → f.bank ≠ some (s.cur.arg.n, b))) ∧
    (s.selTile fn = none → exec .ptctlMode s = .next s ∧ exec .ptctlRunStart s = .next s ∧ exec .ptctlRunStop s = .next s) ∧
    (∀ n x mode, s.selTile fn = some n → x = s.tile n → mode = w.extractLsb' 0 2 →
      (x.busy = none → mode ≠ 3 → mode ≠ x.mode → x.mode = 0 → ∃ t : State, exec .ptctlMode s = .next t ∧
        t.tile n = { x with busy := some mode } ∧ t.me = s.me ∧
        ∀ k, memGet t.mem k = if keyOf 1 (n * 2 ^ 20) ≤ k ∧ k < keyOf 1 (n * 2 ^ 20) + 2 ^ 20 then 0 else memGet s.mem k) ∧
      (x.busy = none → mode ≠ x.mode → mode = 3 ∨ x.mode ≠ 0 → exec .ptctlMode s = .next (s.setTile n
        (if mode = 3 then { x with status := 2 } else if x.mode = 1 ∧ x.run = true then { x with status := 3 }
        else if x.mode = 2 ∧ s.tileHolds n = true then { x with status := 1 } else { x with busy := some mode }))) ∧
      (x.busy.isSome = true ∨ mode = x.mode → exec .ptctlMode s = .next (s.setTile n x)) ∧
      (w.getLsbD 2 = false → exec .ptctlRunStop s = .next (s.setTile n { x with run := false })) ∧
      (w.getLsbD 2 = true → exec .ptctlRunStop s = .next s) ∧
      (x.mode = 1 → x.run = false → x.busy = none → w.getLsbD 2 = true → ∀ va, va = (x.pat.extractLsb' 0 57).signExtend 64 →
        (∀ c a, pushBlock s fn x.world va = .error (c, a) →
          exec .ptctlRunStart s = .next ((s.devFault fn c a).setTile n { x with run := false })) ∧
        (∀ bs p, pushBlock s fn x.world va = .ok bs → patOf bs = some p → exec .ptctlRunStart s =
          .next (s.setTile n { x with run := true, push := bs, ctr := List.replicate p.counts.length 0, pass := 0 })) ∧
        (∀ bs, pushBlock s fn x.world va = .ok bs → patOf bs = none →
          exec .ptctlRunStart s = .next ((s.devFault fn 0x01 va).setTile n { x with run := false })))) ∧
    (∀ n x, n = s.cur.arg.n → x = s.tile n →
      (x.busy = none → exec .tileModeChangeDone s = .next s) ∧
      (∀ mode, x.busy = some mode → exec .tileModeChangeDone s =
        .next (s.setTile n { x with mode := mode, busy := none, status := 0, run := false })) ∧
      (x.mode ≠ 1 ∨ x.run = false → exec .pushUnit s = .next s) ∧
      (∀ q p o, x.mode = 1 → x.run = true → s.tileFn n = some q → patOf x.push = some p → o = p.offset + dotCtr x.ctr p.strides →
        (o % 4 ≠ 0 → exec .pushUnit s = .next ((s.devFault q 0x03 (BitVec.ofInt 64 o)).setTile n { x with run := false })) ∧
        (o % 4 = 0 → o < 0 ∨ 2 ^ 20 < o + p.unit → exec .pushUnit s =
          .next ((s.devFault q 0x05 (BitVec.ofInt 64 o)).setTile n { x with run := false })) ∧
        (o % 4 = 0 → 0 ≤ o → o + p.unit ≤ 2 ^ 20 → s.pushTask q x.dst = none → exec .pushUnit s = .next s) ∧
        (o % 4 = 0 → 0 ≤ o → o + p.unit ≤ 2 ^ 20 → s.pushTask q x.dst = some s.me.id →
          s.portFree (x.dst.extractLsb' 16 6).toNat = false → exec .pushUnit s = .next s) ∧
        (o % 4 = 0 → 0 ≤ o → o + p.unit ≤ 2 ^ 20 → s.pushTask q x.dst = some s.me.id → s.portFree (x.dst.extractLsb' 16 6).toNat = true → ∀ v,
          s.offer (x.dst.extractLsb' 16 6).toNat (memBytes s.mem (keyOf 1 (n * 2 ^ 20 + o.toNat)) p.unit) = some v →
          exec .pushUnit s = .next (v.setTile n
            (if (nextIter x.ctr p.counts).2 = false then { x with ctr := (nextIter x.ctr p.counts).1 }
            else if (x.dst.extractLsb' 22 32).toNat ≠ 0 ∧ (x.dst.extractLsb' 22 32).toNat ≤ x.pass + 1 then
              { x with run := false, pass := x.pass + 1 }
            else { x with ctr := List.replicate p.counts.length 0, pass := x.pass + 1 })))))

/-- R146, R408, R403, R404, R405, R406: the host interface. RESUME continues a stopped task that may go on, at TRAPPC and its
recorded iterations; KILL ends the fault domain of a task with its cause, 0 for a running one. An unmap is queued with its TLB
entries dropped, or refused, and completes in order, once its tokens have left the elements that had latched the page, firing
vector 2 with the last. BAR2 reads and writes at the window's address, and is held back by a tile whose mode is changing. A
register write stores the RW fields, those of a replay only while none is in progress, and hands what has a behaviour of its own
to its event; a read gives what was stored, and Unsupported Request in recovery and after a thermal shutdown. Each completes
here, exec answering the next state that its clause says, under conditions on the state and operands alone: tcopResume,
tcopKill, unmap, unmapComplete, bar2Access, registerWrite. The model's own choices and readings in it: log 69, 73, 85, 86, 87.
-/
def Obligations.HostInterface : Prop :=
  ∀ (s : State) (n : Nat) (f : Fn) (w : Word) (id : TaskId), n = s.cur.arg.fn → f = s.fn n → w = s.cur.arg.w →
    id = ⟨n, f.tcaddr, f.tcop.extractLsb' 0 32⟩ →
    (f.tcbusy = true → f.tcop.extractLsb' 32 2 = 1 → (∀ c ∈ s.chans, c.consumer = id → c.fault = false) →
      (s.task? id = none → exec .tcopResume s = .next (s.setFn n { f with tcbusy := false, tccode := 2 })) ∧
      (∀ t, s.task? id = some t → t.resumable = true → t.alive = true → exec .tcopResume s =
        .next ((s.mapTask id fun x => x.resume s.time).setFn n { f with tcbusy := false, tccode := 0 })) ∧
      (∀ t, s.task? id = some t → t.resumable = false → t.alive = true → t.stop ≠ .none →
        exec .tcopResume s = .next (s.setFn n { f with tcbusy := false, tccode := 1 }))) ∧
    (∀ t : Task, (t.resumable = true → t.stop = .driver ∧ t.stopCause ≠ 0x16 ∧ t.stopCause ≠ 0x0D ∧ t.stopCause ≠ 0x11) ∧
      (∀ now, t.ctx.st = .trapped → (t.resume now).stop = .none ∧ (t.resume now).ctx.pc = t.ctx.trapPc ∧
        (t.resume now).ctx.tm = t.ctx.tm ∧ (t.resume now).ctx.g = t.ctx.g ∧
        (t.resume now).ctx.rep = (if t.ctx.repSh.count = 0 then ⟨0, 0, 0⟩ else t.ctx.repSh) ∧
        ∀ c ∈ (t.resume now).cmds, c.phase = .faulted → ∃ d ∈ t.cmds, d.prior = .faulted ∧ d.seq = c.seq)) ∧
    (f.tcbusy = true → f.tcop.extractLsb' 32 2 = 2 →
      (s.task? id = none → exec .tcopKill s = .next (s.setFn n { f with tcbusy := false, tccode := 2 })) ∧
      (∀ t, s.task? id = some t → t.killable = false → exec .tcopKill s = .next (s.setFn n { f with tcbusy := false, tccode := 2 })) ∧
      (∀ t u, s.task? id = some t → t.killable = true →
        u = s.contain n t.id.blk .faulted (if t.stop = .none then 0 else t.stopCause) →
        exec .tcopKill s = .next (u.setFn n { u.fn n with tcbusy := false, tccode := 0 }))) ∧
    (w.extractLsb' 0 2 = 3 → exec .unmap s = .next (s.setFn n { f with ucode := 2 })) ∧
    (w.extractLsb' 0 2 ≠ 3 → 16 ≤ f.unmaps.length → exec .unmap s = .next (s.setFn n { f with ucode := 1 })) ∧
    (w.extractLsb' 0 2 ≠ 3 → f.unmaps.length < 16 → (∀ t ∈ s.all, t.id.fn = n → t.isPlaced = true → t.run.act.hasGen = false) →
      ∃ t : State, exec .unmap s = .next t ∧ t.mem = s.mem ∧ (t.fn n).ucode = 0 ∧
        (t.fn n).unmaps = f.unmaps ++ [⟨(f.unmapva.extractLsb' 16 41).setWidth 64, w.extractLsb' 0 2, []⟩] ∧
        ∀ m e, e ∈ (t.mill m).tlb → e.fn = n →
          inPage ((f.unmapva.extractLsb' 16 41).setWidth 64) (w.extractLsb' 0 2) (e.page.toNat, e.sz, e.pte) = false) ∧
    (f.unmaps = [] → exec .unmapComplete s = .next s) ∧
    (∀ u : Unmap, ((∀ x ∈ u.runs, ∀ t, s.task? x.1 = some t → t.isPlaced = true → t.ctx.st ≠ .swapped → ∀ e ∈ x.2,
        (t.run.elem e.1).stopped = true ∨ e.2 = true ∧ (t.run.elem e.1).carries u.page u.sz = false) ↔ (s.waits u).runs = [])) ∧
    (∀ u rest, f.unmaps.map s.waits = u :: rest →
      (u.runs ≠ [] → exec .unmapComplete s = .next (s.setFn n { f with unmaps := u :: rest })) ∧
      (u.runs = [] → ∃ t : State, exec .unmapComplete s = .next t ∧ (t.fn n).unmaps = rest ∧
        (rest = [] → (t.fn n).msix.getLsbD 2 = true) ∧ t.mem = s.mem)) ∧
    (∀ va, va = BitVec.ofInt 64 (signed 57 ((f.win.extractLsb' 36 21).toNat * 2 ^ 36 + s.cur.arg.k % 2 ^ 36)) →
      (s.wh.recovery = true ∨ s.wh.shut = true → exec .bar2Access s = .next { s with bar2 := none }) ∧
      (s.wh.recovery = false → s.wh.shut = false →
        s.meetsBusy n va (if s.cur.arg.wr then s.cur.arg.bytes.length else s.cur.arg.n) = true →
        exec .bar2Access s = .next { s with inputs := (.bar2Access, s.cur.arg) :: s.inputs }) ∧
      (s.wh.recovery = false → s.wh.shut = false →
        s.meetsBusy n va (if s.cur.arg.wr then s.cur.arg.bytes.length else s.cur.arg.n) = false →
        (∀ u, s.cur.arg.wr = true → devWrite s n va s.cur.arg.bytes = .ok u →
          exec .bar2Access s = .next { u with bar2 := some [] }) ∧
        (∀ bs, s.cur.arg.wr = false → devRead s n va s.cur.arg.n = .ok bs →
          exec .bar2Access s = .next { s with bar2 := some bs }) ∧
        (∀ c a, s.cur.arg.wr = true → devWrite s n va s.cur.arg.bytes = .error (c, a) →
          exec .bar2Access s = .next { s.devFault n c a with bar2 := none }) ∧
        (∀ c a, s.cur.arg.wr = false → devRead s n va s.cur.arg.n = .error (c, a) →
          exec .bar2Access s = .next { s.devFault n c a with bar2 := none }))) ∧
    (s.wh.recovery = true ∨ s.wh.shut = true → exec .registerWrite s = .next s ∧ ∀ off, s.bar0 n off = none) ∧
    (s.wh.recovery = false → s.wh.shut = false →
      (∀ x ∈ [((0x008 : Nat), Instr.launch), (0x038, .unmap), (0x0D0, .bankreq), (0x480, .replayStart)],
        s.cur.arg.n = x.1 → exec .registerWrite s = .next { s with agenda := .dev x.2 s.cur.arg :: s.agenda }) ∧
      (s.cur.arg.n = 0x0E8 → exec .registerWrite s = .next { s with
        agenda := .dev .ptctlMode s.cur.arg :: .dev (if w.getLsbD 2 then .ptctlRunStart else .ptctlRunStop) s.cur.arg :: s.agenda }) ∧
      (s.cur.arg.n = 0x000 → ∃ t : State, exec .registerWrite s = .next t ∧ (t.fn n).ptroot.getLsbD 0 = w.getLsbD 0 ∧
        (s.fnActive n = true → (t.fn n).ptroot.extractLsb' 1 63 = f.ptroot.extractLsb' 1 63) ∧
        (s.fnActive n = false → (t.fn n).ptroot = w &&& 0x000FFFFFFFFFF001)) ∧
      (s.cur.arg.n = 0x020 → f.tcbusy = false →
        (w.extractLsb' 32 2 = 0 ∨ w.extractLsb' 32 2 = 3 → exec .registerWrite s = .next (s.setFn n { f with tccode := 3 })) ∧
        (w.extractLsb' 32 2 = 1 ∨ w.extractLsb' 32 2 = 2 → exec .registerWrite s =
          .next (s.setFn n { f with tcop := w &&& 0x3FFFFFFFF, tcbusy := true }))) ∧
      (s.cur.arg.n = 0x020 → f.tcbusy = true → exec .registerWrite s = .next s) ∧
      (∀ x ∈ [((0x018 : Nat), (0xFFFFFFFFFFFFFFFF : Word)), (0x030, 0x01FFFFFFFFFF0000), (0x048, 0x01FFFFFFFFFFF000), (0x050, 0x1F),
          (0x070, 0x01FFFFFFFFFFE000), (0x078, 0x01FFFFFFFFFFFFFF), (0x080, 0x01FFFFFFFFFF1FFF), (0x088, 0x01FFFFFFFFFFFFFF),
          (0x090, 0x01FFFFF000000000), (0x0C0, 0x7FF), (0x0E0, 0x3F07), (0x400, 0xFFFFFFFFFFFFFFFF), (0x410, 0xFFFFFFFFFFFFFFFF),
          (0x420, 0x0003FFFFFFFFFFFF), (0x440, 0x01FFFFFFFFFFF000)],
        s.cur.arg.n = x.1 → ∃ t : State, exec .registerWrite s = .next t ∧ t.bar0 n x.1 = some (w &&& x.2) ∧ t.mem = s.mem) ∧
      (∀ x ∈ [((0x488 : Nat), (0x3F : Word)), (0x490, 0x01FFFFFFFFFFFFFF), (0x498, 0x01FFFFFFFFFFFFF8), (0x4A0, 0x01FFFFFFFFFFFFDF)],
        s.cur.arg.n = x.1 → (f.rpbusy = true → exec .registerWrite s = .next s) ∧
          (f.rpbusy = false → ∃ t : State, exec .registerWrite s = .next t ∧ t.bar0 n x.1 = some (w &&& x.2) ∧ t.mem = s.mem)))

/-- R422, R423, R424, R426, R421, R149, R443: debug requests. A request for an absent task, or one that is not attached, ends
with CODE 1; ATTACH sets ATT, DETACH clears ATT, STEP, STEPSYNC and CPS and lets the task go on, STOP stops the run for the
debugger, GO continues a task stopped for it, WRCTL writes DBGCTL but ATT, DUMP writes the image at DATA and LOAD takes the
context from one; DATA not aligned or an access that faults gives CODE 3, an image of another task or configuration CODE 4. Each
completes here, exec answering the next state that its clause says, under conditions on the state and operands alone: attach,
detach, stop, go, dump, wrctl, load. The model's own choices and readings in it: log 14, 51, 77, 114. -/
def Obligations.DebugRequests : Prop :=
  ∀ (s : State) (n : Nat) (f : Fn) (id : TaskId) (a : Word), n = s.cur.arg.fn → f = s.fn n → f.dbgbusy = true → a = f.dbgdata →
    id = ⟨n, f.dbgaddr, f.dbgop.extractLsb' 0 32⟩ →
    (∀ x ∈ [((1 : BitVec 4), Instr.attach), (2, .detach), (3, .stop), (4, .go), (5, .dump), (6, .wrctl), (7, .load)],
      f.dbgop.extractLsb' 32 4 = x.1 → id.idx ≠ 0xFFFFFFFF →
        s.task? id = none ∨ (∃ t, s.task? id = some t ∧ t.st ≠ .placed ∧ t.st ≠ .draining ∧ t.st ≠ .swapped) ∨
          (x.1 ≠ 1 ∧ ∃ t, s.task? id = some t ∧ t.ctx.dbg.getLsbD 0 = false) →
        exec x.2 s = .next (s.setFn n { f with dbgbusy := false, dbgcode := 1 })) ∧
    (f.dbgop.extractLsb' 32 4 = 1 → id.idx = 0xFFFFFFFF → ∃ t : State, exec .attach s = .next t ∧ t.mem = s.mem ∧
      f.dbgaddr ∈ (t.fn n).attach ∧ (t.fn n).dbgbusy = false ∧ (t.fn n).dbgcode = 0 ∧ t.all = s.all.map fun x =>
        if x.id.fn = n ∧ x.id.blk = f.dbgaddr ∧ (x.st = .placed ∨ x.st = .draining ∨ x.st = .swapped)
          then { x with ctx := { x.ctx with dbg := x.ctx.dbg ||| 1 } } else x) ∧
    (id.idx ≠ 0xFFFFFFFF → ∀ t, s.task? id = some t → t.st = .placed →
      (f.dbgop.extractLsb' 32 4 = 1 → exec .attach s = .next ((s.mapTask id fun x =>
        { x with ctx := { x.ctx with dbg := x.ctx.dbg ||| 1 } }).setFn n { f with dbgbusy := false, dbgcode := 0 })) ∧
      (t.ctx.dbg.getLsbD 0 = true →
        (f.dbgop.extractLsb' 32 4 = 2 → id = s.me.id → s.me.run.stopAt = none → (∀ p ∈ s.me.ctx.pend, p.cause ≠ 0x17) → ∃ u : State,
          exec .detach s = .next u ∧ u.mem = s.mem ∧ u.me.ctx.dbg = s.me.ctx.dbg &&& 0xFFFFFFFFFFFFFFE8 ∧
          (u.fn n).dbgcode = 0 ∧ u.me.ctx.g = s.me.ctx.g ∧ (s.me.stop = .debugger → u.me.stop = .none) ∧
          (s.me.stop = .debugger → s.me.ctx.st = .trapped → u.me.ctx.pc = s.me.ctx.trapPc) ∧
          (s.me.stop ≠ .debugger → u.me.ctx.pc = s.me.ctx.pc ∧ u.me.stop = s.me.stop)) ∧
        (f.dbgop.extractLsb' 32 4 = 3 → t.stop ≠ .none →
          exec .stop s = .next (s.setFn n { f with dbgbusy := false, dbgcode := 1 })) ∧
        (f.dbgop.extractLsb' 32 4 = 3 → t.stop = .none → id = s.me.id → s.me.ctx.st ≠ .free → s.me.ctx.pend = [] →
          exec .stop s = .next (({ s with me := { s.me with
            run := { s.me.run with gated := true }
            ctx := { s.me.ctx with pend := [⟨0x17, 3, 0, 0, false, false⟩] } } } : State).setFn n
              { f with dbgbusy := false, dbgcode := 0 })) ∧
        (f.dbgop.extractLsb' 32 4 = 4 → t.stop ≠ .debugger →
          exec .go s = .next (s.setFn n { f with dbgbusy := false, dbgcode := 1 })) ∧
        (f.dbgop.extractLsb' 32 4 = 4 → t.stop = .debugger → id = s.me.id → s.me.ctx.st = .trapped → ∃ u : State,
          exec .go s = .next u ∧ u.mem = s.mem ∧ u.me.stop = .none ∧ u.me.ctx.pc = s.me.ctx.trapPc ∧ u.me.ctx.g = s.me.ctx.g ∧
          u.me.ctx.tm = s.me.ctx.tm ∧ (u.fn n).dbgcode = 0) ∧
        (f.dbgop.extractLsb' 32 4 = 6 → exec .wrctl s = .next ((s.mapTask id fun x => { x with
          ctx := { x.ctx with dbg := (x.ctx.dbg &&& ~~~0x1F1E) ||| (a &&& 0x1F1E) } }).setFn n
            { f with dbgbusy := false, dbgcode := 0 })) ∧
        (t.stop = .debugger →
          (a.extractLsb' 0 6 ≠ 0 →
            (f.dbgop.extractLsb' 32 4 = 5 → exec .dump s = .next (s.setFn n { f with dbgbusy := false, dbgcode := 3 })) ∧
            (f.dbgop.extractLsb' 32 4 = 7 → exec .load s = .next (s.setFn n { f with dbgbusy := false, dbgcode := 3 }))) ∧
          (a.extractLsb' 0 6 = 0 →
            (f.dbgop.extractLsb' 32 4 = 5 →
              (∀ u, devWrite { s with free := s.free + 1 } n a (({ s with free := s.free + 1 } : State).saveImage t 4 s.free) = .ok u →
                exec .dump s = .next (u.setFn n { u.fn n with dbgbusy := false, dbgcode := 0 })) ∧
              (∀ e, devWrite { s with free := s.free + 1 } n a (({ s with free := s.free + 1 } : State).saveImage t 4 s.free) =
                  .error e →
                exec .dump s = .next (({ s with free := s.free + 1 } : State).setFn n { f with dbgbusy := false, dbgcode := 3 }))) ∧
            (f.dbgop.extractLsb' 32 4 = 7 → ∀ e, devRead s n a 64 = .error e →
              exec .load s = .next (s.setFn n { f with dbgbusy := false, dbgcode := 3 })) ∧
            (f.dbgop.extractLsb' 32 4 = 7 → ∀ h, devRead s n a 64 = .ok h →
              (word4 h 4 ≠ t.id.idx ∨ dword h 16 ≠ t.run.act.id →
                exec .load s = .next (s.setFn n { f with dbgbusy := false, dbgcode := 4 })) ∧
              (word4 h 4 = t.id.idx → dword h 16 = t.run.act.id → ∀ bs,
                devRead s n (a + (word4 h 0x30).setWidth 64) 768 = .ok bs → exec .load s =
                  .next ((s.mapTask id fun x => { x with ctx := x.ctx.ofImage bs }).setFn n
                    { f with dbgbusy := false, dbgcode := 0 }))))))) ∧
    (∀ (t : Task) (k : Nat), t.size < 256 →
      leNat ((s.saveImage t 4 k).take 8) = 1 + t.size * 2 ^ 16 + 4 * 2 ^ 24 + t.id.idx.toNat * 2 ^ 32)

/-- R425, R426, R427, R443, R421, R429, R430, R431: triggers, samples and the gating of a mill. A line asserts while a selected
source holds; it reaches its sinks, which stop attached tasks (one that took STEP in the cycle at its next boundary), freeze the
recorders, set event latches and drive the pin; an unfreeze ends every freeze. A sample is recorded once a period; a mill
without tasks can be gated and loses its records, which power-up tells of. Each completes here, exec answering the next state
that its clause says, under conditions on the state and operands alone: triggerLineAssert, triggerSinkReach, trctlUnfreeze,
samplePeriod, millPowerGate, millPowerUp. The model's own choices and readings in it: log 82, 83, 84. -/
def Obligations.TriggersAndTrace : Prop :=
  ∀ (s : State) (n k : Nat) (cfg : Word), n = s.cur.arg.n → k = s.cur.arg.k →
    (s.sources s.cur.arg.fn n k s.cur.arg.w = 0 → exec .triggerLineAssert s = .next s) ∧
    (s.sources s.cur.arg.fn n k s.cur.arg.w ≠ 0 → ∃ (t : State) (x : Nat × Nat × Bool), exec .triggerLineAssert s = .next t ∧
      (t.die n).trig = (s.die n).trig ++ [x] ∧ x.1 = k ∧ x.2.1 = s.sources s.cur.arg.fn n k s.cur.arg.w ∧ t.mem = s.mem) ∧
    (∀ fn m c, c = aget 0 (s.fn fn).trig (32 * n + k) → c.getLsbD 0 = false ∨ s.ownsLine fn (32 * n + k) = false →
      s.sources fn n k m = 0) ∧
    ((s.die n).trig.find? (fun x => x.1 == k) = none → exec .triggerSinkReach s = .next s) ∧
    (∀ x fn, (s.die n).trig.find? (fun x => x.1 == k) = some x → s.lineOwner (32 * n + k) = some fn →
      cfg = aget 0 (s.fn fn).trig (32 * n + k) → cfg.getLsbD 16 = false →
      ∃ t : State, exec .triggerSinkReach s = .next t ∧ (t.die n).trig = (s.die n).trig.erase x ∧ t.mem = s.mem ∧
        (cfg.getLsbD 17 = true → (t.fn fn).frozen = true ∨ (s.fn fn).frozenDies ≠ []) ∧
        (cfg.getLsbD 17 = false → t.fn fn = s.fn fn) ∧
        (cfg.getLsbD 18 = false → t.all = s.all) ∧
        (cfg.getLsbD 18 = true → t.all = s.all.map fun y => if y.id.fn = fn ∧ y.isPlaced = true ∧ dieOf y.mill = n
          then { y with ctx := { y.ctx with latch := true } } else y) ∧
        (cfg.getLsbD 19 = true → (k % 4, fn) ∈ s.wh.pinOut → t.pinsOut.getLsbD (k % 4) = true) ∧
        (cfg.getLsbD 20 = true → x.2.2 = false → ∀ d, d < 8 → d ≠ n → (fn, d, 10, k) ∈ t.trigSrc) ∧
        (cfg.getLsbD 20 = false ∨ x.2.2 = true → t.trigSrc = s.trigSrc)) ∧
    (∀ x fn, (s.die n).trig.find? (fun x => x.1 == k) = some x → s.lineOwner (32 * n + k) = some fn →
      cfg = aget 0 (s.fn fn).trig (32 * n + k) → cfg.extractLsb' 16 5 = 1 → s.tasks = [] → s.me.id.fn = fn →
      s.me.isPlaced = true → dieOf s.me.mill = n → s.me.ctx.dbg.getLsbD 0 = true → s.me.stop = .none → s.me.ctx.pend = [] →
      s.me.ctx.st ≠ .free → ∃ t : State, exec .triggerSinkReach s = .next t ∧ t.me.run.gated = true ∧
        t.me.ctx.pend = [⟨0x17, 3, 0, 0, false, false⟩] ∧ t.mem = s.mem) ∧
    (∀ x fn, (s.die n).trig.find? (fun x => x.1 == k) = some x → s.lineOwner (32 * n + k) = some fn →
      cfg = aget 0 (s.fn fn).trig (32 * n + k) → cfg.extractLsb' 16 5 = 1 → s.tasks = [] → s.me.id.fn = fn →
      s.me.isPlaced = true → dieOf s.me.mill = n → s.me.ctx.dbg.getLsbD 0 = true → s.me.stop = .debugger → s.me.stopCause = 0x15 →
      s.me.ctx.lastIssue = s.time → s.me.ctx.pend = [] → ∃ t : State, exec .triggerSinkReach s = .next t ∧ t.me.run = s.me.run ∧
        t.me.ctx.pend = [⟨0x17, 3, 0, 0, false, true⟩] ∧ t.mem = s.mem) ∧
    (∃ t : State, exec .trctlUnfreeze s = .next t ∧ (t.fn s.cur.arg.fn).frozen = false ∧ (t.fn s.cur.arg.fn).frozenDies = [] ∧
      t.mem = s.mem) ∧
    (s.me.ctx.dbg.getLsbD 3 = false → exec .samplePeriod s = .next s) ∧
    (∀ q, q = (s.me.ctx.dbg.extractLsb' 8 5).toNat → s.me.ctx.dbg.getLsbD 3 = true → 8 ≤ q → q ≤ 24 → s.me.st = .placed →
      s.me.ctx.st ≠ .swapped →
      (s.time < s.me.sampleAt + 2 ^ q → exec .samplePeriod s = .next s) ∧
      (s.me.sampleAt + 2 ^ q ≤ s.time → ∃ t : State, exec .samplePeriod s = .next t ∧
        t.me = { s.me with sampleAt := s.time } ∧ t.mem = s.mem ∧
        ((s.fn s.me.id.fn).tren = true → (s.fn s.me.id.fn).frozenDies = [] → (t.mill s.me.mill).trace =
          (s.mill s.me.mill).trace ++ [⟨s.me.id.fn, [traceHead s.me 2 1, BitVec.ofNat 64 s.time, s.me.ctx.pc,
            (match s.me.ctx.st with
              | .runnable => 1
              | .sleeping => 2
              | .trapped => 3
              | _ => 0)], 1⟩]))) ∧
    (∀ m, m = s.mill n →
      ((∃ x ∈ s.all, x.isPlaced = true ∧ x.mill = n) → exec .millPowerGate s = .next s) ∧
      (m.on = true → (∀ x ∈ s.all, x.isPlaced = true → x.mill ≠ n) → ∃ (t : State) (y : Mill), exec .millPowerGate s = .next t ∧
        t.mill n = y ∧ y.on = false ∧ y.trace = [] ∧ y.modes = m.modes ∧ t.mem = s.mem ∧
        (∀ r, m.trace = [r] → aget 0 y.lost r.fn = aget 0 m.lost r.fn + r.len)) ∧
      (m.on = true → exec .millPowerUp s = .next s) ∧
      (m.on = false → ∃ t : State, exec .millPowerUp s = .next t ∧ t.mill n = { m with on := true, lost := [] } ∧ t.mem = s.mem ∧
        (∀ fn c, m.lost = [(fn, c)] → c ≠ 0 → (s.fn fn).tren = true → (∀ x ∈ (s.fn fn).frozenDies, x.1 ≠ dieOf n) →
          ∃ r, t.dtrace = s.dtrace ++ [(dieOf n, r)] ∧ r.fn = fn ∧
          r.words.getD 2 0 = BitVec.ofNat 64 c ∧ (r.words.getD 0 0).extractLsb' 0 8 = 6)))

/-- R437, R438, R439, R440, R441, R447, R448: replay. A write of RPROOT while one is in progress sets the rejection bit; with
none in progress it is refused with the first code that applies, or begins pass 1 with its root queued. When a pass has ended
its signature is recorded, and a mismatch with the first noted; after the last pass BUSY falls, before another one the root is
launched again. A counter plan is read whole as the replay is accepted, a read that faults refuses it, and a task of a pass
begins with its counters. Each completes here, exec answering the next state that its clause says, under conditions on the state
and operands alone: taskStart, replayStart, replayPassEnd. The model's own choices and readings in it: log 78, 98. -/
def Obligations.ReplayOfALaunch : Prop :=
  ∀ (s : State) (n : Nat) (f : Fn) (root : Word), n = s.cur.arg.fn → f = s.fn n → root = s.cur.arg.w →
    (f.rpbusy = true → exec .replayStart s = .next (s.setFn n { f with rprbusy := true })) ∧
    (f.rpbusy = false →
      ((f.rpctl.extractLsb' 0 5).toNat = 0 ∨ 16 < (f.rpctl.extractLsb' 0 5).toNat → ∃ t : State, exec .replayStart s = .next t ∧
        t.fn n = { f with rprbusy := false, rpcode := 3 } ∧ t.mem = s.mem ∧ t.agenda = s.agenda) ∧
      (1 ≤ (f.rpctl.extractLsb' 0 5).toNat → (f.rpctl.extractLsb' 0 5).toNat ≤ 16 →
        (f.launches ≠ [] ∨ f.live ≠ [] ∨ s.fnActive n = true → ∃ t : State, exec .replayStart s = .next t ∧
          t.fn n = { f with rprbusy := false, rpcode := 1 } ∧ t.mem = s.mem ∧ t.agenda = s.agenda) ∧
        (f.launches = [] → f.live = [] → s.fnActive n = false → f.rpctl.getLsbD 5 = false →
          (canonical root = false ∨ root.extractLsb' 0 8 ≠ 0 → ∃ t : State, exec .replayStart s = .next t ∧
            t.fn n = { f with rprbusy := false, rpcode := 4 } ∧ t.mem = s.mem ∧ t.agenda = s.agenda) ∧
          (canonical root = true → root.extractLsb' 0 8 = 0 → ∃ t : State, exec .replayStart s = .next t ∧ t.mem = s.mem ∧
            (t.fn n).rpbusy = true ∧ (t.fn n).rpcode = 0 ∧ (t.fn n).rppass = 1 ∧ (t.fn n).rproot = root ∧
            (t.fn n).rpunits = [] ∧ (t.fn n).rpmis = false ∧ (t.fn n).launches = [root] ∧
            t.agenda = .dev .workBlockWalk s.cur.arg :: s.agenda)) ∧
        (f.launches = [] → f.live = [] → s.fnActive n = false → f.rpctl.getLsbD 5 = true → ∀ u k, u = s.setFn n { f with rprbusy := false } →
          k = (f.rpctl.extractLsb' 0 5).toNat →
          (∀ c a, devRead u n (regBase f.rpevt 3) (8 * k) = .error (c, a) → exec .replayStart s =
            .next ((u.devFault n c a).setFn n { (u.devFault n c a).fn n with rpcode := 4 })) ∧
          (∀ bs, devRead u n (regBase f.rpevt 3) (8 * k) = .ok bs → canonical root = true → root.extractLsb' 0 8 = 0 →
            ∃ t : State, exec .replayStart s = .next t ∧ t.mem = s.mem ∧ (t.fn n).rpbusy = true ∧ (t.fn n).rpcode = 0 ∧
              (t.fn n).rppass = 1 ∧ (t.fn n).rproot = root ∧ (t.fn n).launches = [root] ∧
              (t.fn n).rpplan = (List.range k).map fun i => dword bs (8 * i))))) ∧
    (s.me.st = .placed → s.me.ctx.st = .free → ∀ p u w, s.loadFrom s.me.cfg s.me.dataBase = .ok p u →
      u.replays u.me.id.fn u.me.id.blk = true → (u.fn u.me.id.fn).rpctl.getLsbD 5 = true →
      w = (u.fn u.me.id.fn).rpplan.getD ((u.fn u.me.id.fn).rppass.toNat - 1) 0 → ∃ t : State, exec .taskStart s = .next t ∧
      ∀ i : Fin 4, t.me.ctx.ctrs[i] = ⟨w.extractLsb' (16 * i.val) 12, w.getLsbD (16 * i.val + 15), 0, none⟩) ∧
    (s.passOver n = false → exec .replayPassEnd s = .next s) ∧
    (s.passOver n = true → ∀ g, g = f.signed (s.launchSig n) →
      (f.rppass ≠ 1 → g.rpsig1 = f.rpsig1 ∧ g.rpsigl = s.launchSig n ∧ (g.rpmis = true ↔ f.rpmis = true ∨ s.launchSig n ≠ f.rpsig1)) ∧
      (f.rppass = 1 → g.rpsig1 = s.launchSig n ∧ g.rpmis = f.rpmis) ∧
      (f.rpfull = true ∨ (f.rpctl.extractLsb' 0 5).toNat ≤ f.rppass.toNat → ∃ t : State, exec .replayPassEnd s = .next t ∧
        t.fn n = { g with rpbusy := false } ∧ t.mem = s.mem) ∧
      (f.rpfull = false → f.rppass.toNat < (f.rpctl.extractLsb' 0 5).toNat → ∃ t : State, exec .replayPassEnd s = .next t ∧
        (t.fn n).rppass = f.rppass + 1 ∧ f.rproot ∈ (t.fn n).launches ∧
        (∀ b ∈ t.blks, b.fn = n → b.root ≠ f.rproot)))

/-- R452, R453, R455, R456, R457, R458, R459, R460, R461, R462, R463: the operator's commands that need no session, and the
controller's own timers. Each command answers its completion code: telemetry, lifetime items as last committed, limits within
their ranges, staging, activating and committing firmware, the map of a die, marking a mill for retirement. A mill cycle at STEP
k takes 16 / (16 - k) times its nominal length (log 80); a 1 ms interval takes the sensors' values and steps the limit, and
every 3,600,000th counts an hour; an overheated die ends every run; what is not committed is lost with the power. Each completes
here, exec answering the next state that its clause says, under conditions on the state and operands alone: gettel, getlife,
setlim, fwstage, fwact, fwcommit, getharv, retire, unsupportedCommand, limitInterval, thermalShutdown, lifetimeCommit,
supplyDroop, powerLoss. The model's own choices and readings in it: log 11, 15, 32, 79, 80, 115. -/
def Obligations.FleetLimits : Prop :=
  ∀ (s u : State) (d i : Nat) (lim : Word), u = { s with wh := { s.wh with lastReq := s.wh.clock } } →
    d = (s.cur.arg.bytes.getD 1 0).toNat → i = leNat ((s.cur.arg.bytes.drop 2).take 4) →
    lim = BitVec.ofNat 64 (leNat ((s.cur.arg.bytes.drop 1).take 8)) →
    (s.wh.shut = true → ∀ x ∈ [Instr.setlim, .fwstage, .fwcommit, .getharv, .retire, .setpart, .setworld, .loadkey, .setkmask, .settrig,
        .setig, .getpart, .nonce, .auth, .unsupportedCommand], exec x s = .next s) ∧
    (2 ≤ s.cur.arg.bytes.length → d < 12 → exec .gettel s = .next { u with
      reply := 0 :: dbytes (setBit (aget 0 s.wh.tel d) 30 s.wh.fallbk) }) ∧
    (s.cur.arg.bytes.length < 2 ∨ 12 ≤ d → exec .gettel s = .next { u with reply := [1] }) ∧
    (6 ≤ s.cur.arg.bytes.length → i < lifeRange d → exec .getlife s = .next { u with
      reply := 0 :: leBytes 8 (aget 0 s.wh.saved (d * 2 ^ 20 + i)) }) ∧
    (s.cur.arg.bytes.length < 6 ∨ lifeRange d ≤ i → exec .getlife s = .next { u with reply := [1] }) ∧
    (s.wh.shut = false →
      (9 ≤ s.cur.arg.bytes.length → lim &&& 0xFFFFFFFFFF00F000 = 0 → 1200 ≤ (lim.extractLsb' 0 12).toNat →
        (lim.extractLsb' 0 12).toNat ≤ 3000 → 85 ≤ (lim.extractLsb' 16 8).toNat → (lim.extractLsb' 16 8).toNat ≤ 105 →
        exec .setlim s = .next { u with reply := [0], wh := { u.wh with limctl := lim } }) ∧
      (s.cur.arg.bytes.length < 9 ∨ (lim.extractLsb' 0 12).toNat < 1200 ∨ 3000 < (lim.extractLsb' 0 12).toNat ∨
        (lim.extractLsb' 16 8).toNat < 85 ∨ 105 < (lim.extractLsb' 16 8).toNat ∨ lim &&& 0xFFFFFFFFFF00F000 ≠ 0 →
        exec .setlim s = .next { u with reply := [1] }) ∧
      (s.wh.fwbusy = true → exec .fwstage s = .next { u with reply := [2] }) ∧
      (s.wh.fwbusy = false → s.cur.arg.bytes.length < 6 ∨ 4101 < s.cur.arg.bytes.length →
        exec .fwstage s = .next { u with reply := [1] }) ∧
      (s.wh.fwbusy = false → 6 ≤ s.cur.arg.bytes.length → s.cur.arg.bytes.length ≤ 4101 → s.wh.active ≤ 1 → s.wh.banks.length = 2 →
        ∃ t : State, exec .fwstage s = .next t ∧ t.reply = [0] ∧ (t.wh.bank (1 - s.wh.active)).valid = false ∧
          t.wh.bank s.wh.active = s.wh.bank s.wh.active ∧ ∀ k, k < s.cur.arg.bytes.length - 5 →
            aget 0 (t.wh.bank (1 - s.wh.active)).image (leNat ((s.cur.arg.bytes.drop 1).take 4) + k) =
              s.cur.arg.bytes.getD (5 + k) 0) ∧
      (s.cur.arg.wr = false → s.wh.fwbusy = true → exec .fwact s = .next { u with reply := [2] }) ∧
      (s.cur.arg.wr = false → s.wh.fwbusy = false → exec .fwact s = .next { u with
        wh := { u.wh with fwbusy := true }
        inputs := s.inputs ++ [(.fwact, { s.cur.arg with wr := true })] }) ∧
      (s.wh.fallbk = true → exec .fwcommit s = .next { u with reply := [4] }) ∧
      (s.wh.fallbk = false → exec .fwcommit s = .next { u with
        reply := [0]
        wh := { u.wh with minver := max s.wh.minver s.wh.version } }) ∧
      (2 ≤ s.cur.arg.bytes.length → d < 8 → exec .getharv s = .next { u with
        reply := 0 :: (leBytes 33 (aget 0 s.wh.enabled d).toNat ++ leBytes 2 (s.wh.spares d).length) }) ∧
      (∀ m, m = leNat ((s.cur.arg.bytes.drop 2).take 2) → 4 ≤ s.cur.arg.bytes.length → d < 8 →
        (s.wh.millOn d m = false → exec .retire s = .next { u with reply := [1] }) ∧
        (s.wh.millOn d m = true → (d, m) ∈ s.wh.retiredM → exec .retire s = .next { u with reply := [0] }) ∧
        (s.wh.millOn d m = true → (d, m) ∉ s.wh.retiredM →
          (s.wh.retiredM.filter fun x => x.1 == d).length < (s.wh.spares d).length → exec .retire s = .next { u with
            reply := [0]
            wh := { u.wh with retiredM := s.wh.retiredM ++ [(d, m)] } }) ∧
        (s.wh.millOn d m = true → (d, m) ∉ s.wh.retiredM →
          (s.wh.spares d).length ≤ (s.wh.retiredM.filter fun x => x.1 == d).length →
          exec .retire s = .next { u with reply := [1] })) ∧
      exec .unsupportedCommand s = .next { u with reply := [5] }) ∧
    (s.cur.arg.wr = true → s.wh.fwbusy = true → ∀ k b, k = 1 - s.wh.active → b = s.wh.bank k →
      ((∀ j, j < 13 → Config.imageVerifies j b.image = true ∧ s.wh.minver ≤ Config.imageVersion j b.image) →
        exec .fwact s = .next { s with
          reply := [0]
          wh := { ({ s.wh with fwbusy := false } : Wheel).setBank k { b with valid := true, version := s.wh.bankVersion k }
            with select := k } }) ∧
      (∀ j, j < 13 → s.wh.bankVersion k ≤ Config.imageVersion j b.image) ∧
      (∀ j, j < 13 → Config.imageVerifies j b.image = false ∨ Config.imageVersion j b.image < s.wh.minver →
        exec .fwact s = .next { s with
          reply := [1]
          wh := ({ s.wh with fwbusy := false } : Wheel).setBank k { b with valid := false } })) ∧
    (∀ (v : Wheel) k, k = ((aget 0 v.tel 0).extractLsb' 24 4).toNat → k ≤ 8 → v.clock ≤ v.tick.clock ∧
      (v.tick.clock - v.clock) * (16 - k) = 16 * 720720) ∧
    (s.wh.clock < (s.wh.ms + 1) * (2250000 * 720720) → exec .limitInterval s = .next s) ∧
    ((s.wh.ms + 1) * (2250000 * 720720) ≤ s.wh.clock → ∃ (t : State) (step : Nat), exec .limitInterval s = .next t ∧ t.wh.ms = s.wh.ms + 1 ∧
      aget 0 t.wh.life (8 * 2 ^ 20) = (if (s.wh.ms + 1) % 3600000 = 0 then min (2 ^ 32 - 1) (aget 0 s.wh.life (8 * 2 ^ 20) + 1)
        else aget 0 s.wh.life (8 * 2 ^ 20)) ∧
      (∀ k, k < 12 → aget 0 t.wh.temps k = Config.sensorTemp s.free k ∧ aget 0 t.wh.power k = Config.sensorPower s.free k ∧
        ((aget 0 t.wh.tel k).extractLsb' 24 4).toNat = step) ∧
      t.mem = s.mem ∧ t.wh.limctl = s.wh.limctl ∧
      step = nextStep s.wh.limctl ((aget 0 s.wh.tel 0).extractLsb' 24 4).toNat
        (sumNat ((List.range 12).map (Config.sensorPower s.free)))
        ((List.range 12).foldl (fun m k => max m (Config.sensorTemp s.free k)) 0)) ∧
    (∀ (l : Word) (k power hot : Nat),
      ((l.extractLsb' 0 12).toNat < power ∨ (l.extractLsb' 16 8).toNat < hot → nextStep l k power hot = min 8 (k + 1)) ∧
      (power ≤ (l.extractLsb' 0 12).toNat → hot ≤ (l.extractLsb' 16 8).toNat →
        nextStep l k power hot = if 100 * power < 95 * (l.extractLsb' 0 12).toNat ∧ hot + 3 < (l.extractLsb' 16 8).toNat
          then k - 1 else k)) ∧
    (s.wh.clock < s.wh.lifeAt + 60000 * (2250000 * 720720) → exec .lifetimeCommit s = .next s) ∧
    (s.wh.lifeAt + 60000 * (2250000 * 720720) ≤ s.wh.clock → exec .lifetimeCommit s = .next { s with
      wh := { s.wh with saved := s.wh.life, lifeAt := s.wh.clock } }) ∧
    (s.wh.shut = false → (∃ x ∈ s.wh.temps, 115 ≤ x.2) → ∃ t : State, exec .thermalShutdown s = .next t ∧ t.wh.shut = true ∧
      t.mem = s.mem ∧ t.wh.saved = t.wh.life ∧ t.agenda = [] ∧ ∀ y ∈ t.all, y.isPlaced = false) ∧
    ((∀ x ∈ s.wh.temps, x.2 < 115) → exec .thermalShutdown s = .next s) ∧
    (s.cur.arg.n < 12 → ∃ t : State, exec .supplyDroop s = .next t ∧ t.mem = s.mem ∧
      aget 0 t.wh.life (5 * 2 ^ 20 + s.cur.arg.n) = min (2 ^ 32 - 1) (aget 0 s.wh.life (5 * 2 ^ 20 + s.cur.arg.n) + 1)) ∧
    (12 ≤ s.cur.arg.n → exec .supplyDroop s = .next s) ∧
    (∃ t : State, exec .powerLoss s = .next t ∧ t.wh = { s.wh with life := s.wh.saved, lifeAt := 0, clock := 0, ms := 0, off := true } ∧
      t.mem = s.mem ∧
      step t = .fault .powerOff)

/-- R452, R453, R454, R414, R416, R417, R418, R388, R419, R444, R463: sessions and what they may change, reset, and the debug
port. A request is the command that its byte 0 names, and a command of a session answers 3 without one. Partitions, worlds, key
masks, secure ranges, keys, trigger lines and ingress controls are set with their checks; a change while tasks are active
answers 4. A nonce ends the session, and a verified token over it opens one. Reset keeps what the part keeps, exchanges a
retired mill for the lowest spare of its die and boots the image that verifies. Which tasks are on a tile or port is log 132.
Each completes here, exec answering the next state that its clause says, under conditions on the state and operands alone:
setpart, setworld, setsr, loadkey, setkmask, settrig, setig, getpart, nonce, auth, sessionTimeout, resetBoot, tapInstruction.
The model's own choices and readings in it: log 11, 15, 32, 79, 81, 95, 115, 119, 120, 132. -/
def Obligations.FleetSessions : Prop :=
  ∀ (s u : State) (a b : Nat), u = { s with wh := { s.wh with lastReq := s.wh.clock } } → s.wh.shut = false →
    a = (s.cur.arg.bytes.getD 1 0).toNat → b = s.cur.arg.bytes.length →
    (∀ x ∈ [((0x01 : Nat), Instr.gettel), (0x02, .getlife), (0x03, .setlim), (0x04, .fwstage), (0x05, .fwact), (0x06, .fwcommit),
        (0x07, .getharv), (0x08, .retire), (0x09, .setpart), (0x0A, .setworld), (0x0B, .setsr), (0x0C, .loadkey), (0x0D, .setkmask),
        (0x0E, .settrig), (0x0F, .setig), (0x10, .getpart), (0x11, .nonce), (0x12, .auth), (0x00, .unsupportedCommand),
        (0x13, .unsupportedCommand), (0xFF, .unsupportedCommand)], ∀ y (z : EvArg), (z.bytes.getD 0 0).toNat = x.1 → z.wr = false →
      y = Instr.gettel ∨ y = .setpart ∨ y = .unsupportedCommand → inputAct (y, z) = .dev x.2 z) ∧
    (s.wh.session = false → ∀ x ∈ [Instr.setpart, .setworld, .loadkey, .setkmask, .settrig, .setig],
      exec x s = .next { u with reply := [3] }) ∧
    (s.wh.session = false → s.cur.arg.wr = false → exec .setsr s = .next { u with reply := [3] }) ∧
    (s.wh.session = true →
      (b < 334 ∨ 33 ≤ a ∨ s.cur.arg.bytes.getD 2 0 = 0 → exec .setpart s = .next { u with reply := [1] }) ∧
      (∀ ms ts ps, ms = s.reqMap 3 33 264 264 → ts = s.reqMap 267 8 64 64 → ps = leNat ((s.cur.arg.bytes.drop 331).take 3) →
        334 ≤ b → a < 33 → s.cur.arg.bytes.getD 2 0 ≠ 0 → ps < 2 ^ 18 →
        (∀ m ∈ ms, s.wh.millOn (m / 264) (m % 264) = true) → (∀ x ∈ s.fns, x.1 = a) → ms ≠ (s.fn a).mills →
        (s.fnActive a = true → exec .setpart s = .next { u with reply := [4] }) ∧
        (s.fnActive a = false → ∃ t : State, exec .setpart s = .next t ∧ t.reply = [0] ∧ (t.fn a).mills = ms ∧ (t.fn a).tiles = ts ∧
          (t.fn a).lports = BitVec.ofNat 18 ps ∧ (t.fn a).tag = s.cur.arg.bytes.getD 2 0 ∧ t.mem = s.mem ∧
          ∀ k ∈ ts, (t.tile k).owner = s.cur.arg.bytes.getD 2 0)) ∧
      (∀ k v, k = leNat ((s.cur.arg.bytes.drop 2).take 4) → v = (s.cur.arg.bytes.getD 6 0 == 1) →
        (b < 7 ∨ 1 < s.cur.arg.bytes.getD 6 0 ∨ 4 < a ∨ ([2112, 8448, 512, 18, 33] : List Nat).getD a 0 ≤ k →
          exec .setworld s = .next { u with reply := [1] }) ∧
        (7 ≤ b → s.cur.arg.bytes.getD 6 0 ≤ 1 →
          (a = 0 → k < 2112 →
            ((s.mill k).world = v → (∀ e : Fin 4, (s.mill k).eworld[e] = v) → exec .setworld s = .next { u with reply := [0] }) ∧
            ((s.mill k).world ≠ v ∨ (∃ e : Fin 4, (s.mill k).eworld[e] ≠ v) → (∃ t ∈ s.all, t.isPlaced = true ∧ t.mill = k) →
              exec .setworld s = .next { u with reply := [4] }) ∧
            ((s.mill k).world ≠ v ∨ (∃ e : Fin 4, (s.mill k).eworld[e] ≠ v) → (∀ t ∈ s.all, t.onMill k = false) →
              exec .setworld s = .next { (u.setMill k { s.mill k with
              world := v, eworld := Vector.replicate 4 v }) with reply := [0] })) ∧
          (a = 1 → k < 8448 → ∀ (e : Fin 4), k % 4 = e.val →
            ((s.mill (k / 4)).eworld[e] = v → exec .setworld s = .next { u with reply := [0] }) ∧
            ((s.mill (k / 4)).eworld[e] ≠ v → (∃ t ∈ s.all, t.isPlaced = true ∧ t.mill = k / 4) →
              exec .setworld s = .next { u with reply := [4] }) ∧
            ((s.mill (k / 4)).eworld[e] ≠ v → (∀ t ∈ s.all, t.onMill (k / 4) = false) → exec .setworld s = .next { (u.setMill (k / 4)
              { s.mill (k / 4) with eworld := (s.mill (k / 4)).eworld.set e v }) with reply := [0] })) ∧
          (a = 2 → k < 512 →
            ((s.tile k).world = v → exec .setworld s = .next { u with reply := [0] }) ∧
            ((s.tile k).world ≠ v → (∃ t ∈ s.all, s.usesTile k t = true) → exec .setworld s = .next { u with reply := [4] }) ∧
            ((s.tile k).world ≠ v → (∀ t ∈ s.all, s.usesTile k t = false) → exec .setworld s =
              .next { (u.setTile k { s.tile k with world := v }) with reply := [0] })) ∧
          (a = 3 → k < 18 →
            ((s.link k).world = v → exec .setworld s = .next { u with reply := [0] }) ∧
            ((s.link k).world ≠ v → (∃ t ∈ s.all, s.usesPort k t = true) → exec .setworld s = .next { u with reply := [4] }) ∧
            ((s.link k).world ≠ v → (∀ t ∈ s.all, s.usesPort k t = false) → exec .setworld s =
              .next { (u.setLink k { s.link k with world := v }) with reply := [0] })))) ∧
      (∀ k, k = leNat ((s.cur.arg.bytes.drop 2).take 4) → 7 ≤ b → a = 4 → k < 33 → s.cur.arg.bytes.getD 6 0 ≤ 1 →
        ((s.fn k).world = (s.cur.arg.bytes.getD 6 0 == 1) → exec .setworld s = .next { u with reply := [0] }) ∧
        ((s.fn k).world ≠ (s.cur.arg.bytes.getD 6 0 == 1) →
          (s.fnActive k = true → exec .setworld s = .next { u with reply := [4] }) ∧
          (s.fnActive k = false → exec .setworld s = .next { (u.setFn k { s.fn k with
            world := s.cur.arg.bytes.getD 6 0 == 1 }) with reply := [0] }))) ∧
      (b < 74 ∨ 128 ≤ a → exec .loadkey s = .next { u with reply := [1] }) ∧
      (74 ≤ b → a < 128 → ∀ n, s.wh.nonce = some n →
        (Config.unwrapKey ((s.cur.arg.bytes.drop 2).take 72) n s.wh.opKey = none → exec .loadkey s = .next { u with reply := [1] }) ∧
        (∀ k, Config.unwrapKey ((s.cur.arg.bytes.drop 2).take 72) n s.wh.opKey = some k → ∃ t : State, exec .loadkey s = .next t ∧ t.reply = [0] ∧
          aget 0 t.wh.keys a = k ∧ (s.objs = [] → (∀ x ∈ s.lineKeys, x.2.toNat ≠ a) → t.mem = s.mem) ∧
          (∀ x, s.objs = [] → s.lineKeys = [x] → x.2.toNat = a → t.mem = memPut s.mem (x.1 * 128)
            (rekeyLine (aget 0 s.wh.keys a) k (x.1 % 2 ^ 45) (memBytes s.mem (x.1 * 128) 128))))) ∧
      (∀ m, m = BitVec.ofNat 128 (leNat ((s.cur.arg.bytes.drop 2).take 16)) → 18 ≤ b → a < 33 → (s.fn a).kmask ≠ m →
        (s.fnActive a = true → exec .setkmask s = .next { u with reply := [4] }) ∧
        (s.fnActive a = false → exec .setkmask s = .next { (u.setFn a { s.fn a with kmask := m }) with reply := [0] })) ∧
      (b < 5 ∨ 8 ≤ a → exec .settrig s = .next { u with reply := [1] }) ∧
      (∀ l o, l = (s.cur.arg.bytes.getD 2 0).toNat → o = (s.cur.arg.bytes.getD 3 0).toNat → 5 ≤ b → a < 8 → l < 32 → o < 33 →
        s.cur.arg.bytes.getD 4 0 = 0 → ∃ t : State, exec .settrig s = .next t ∧ t.reply = [0] ∧ t.ownsLine o (32 * a + l) = true ∧
          (∀ q, q ≠ o → t.ownsLine q (32 * a + l) = false) ∧ t.wh.pinIn = s.wh.pinIn ∧ t.wh.pinOut = s.wh.pinOut ∧ t.mem = s.mem) ∧
      (∀ c w, c = BitVec.ofNat 64 (leNat ((s.cur.arg.bytes.drop 2).take 8)) → w = BitVec.ofNat 64 (leNat ((s.cur.arg.bytes.drop 10).take 8)) →
        18 ≤ b → a < 8 → ∃ t : State, exec .setig s = .next t ∧ t.reply = [0] ∧ t.mem = s.mem ∧
          (t.die a).igctl = (s.die a).igctl ∧ (t.die a).igwt = (s.die a).igwt ∧ (t.die a).iglevel = (s.die a).iglevel ∧
          (t.die a).igNext = some (c &&& 0x00FFFFFFFFFF0001, w &&& 0xFFFFFFFF)) ∧
      (∀ (x : Die) c w, x.igNext = some (c, w) → x.igTake.igctl = c ∧ x.igTake.igwt = w ∧ x.igTake.igNext = none ∧
        x.igTake.iglevel.toNat = (if c.getLsbD 0 = true ∧ x.igctl.getLsbD 0 = false then 256 * (c.extractLsb' 32 24).toNat
          else min x.iglevel.toNat (256 * (c.extractLsb' 32 24).toNat))) ∧
      (s.cur.arg.wr = false → b < 18 ∨ 64 ≤ a ∨ (s.cur.arg.bytes.getD 2 0).getLsbD 2 = true → exec .setsr s = .next { u with reply := [1] }) ∧
      (∀ (h : a < 64) p q, p = BitVec.ofNat 64 (leNat ((s.cur.arg.bytes.drop 2).take 8)) &&& 0x000FFFFFFFFF0007 →
        q = BitVec.ofNat 64 (leNat ((s.cur.arg.bytes.drop 10).take 8)) &&& 0x000FFFFFFFFF0000 → 18 ≤ b → p.getLsbD 2 = false →
          s.cur.arg.wr = false →
        (∀ t ∈ s.all, t.isPlaced = false) → ∃ t : State, exec .setsr s = .next t ∧ t.wh.sr = s.wh.sr.set a (p, q) h ∧
          t.inputs = s.inputs ++ [(.setsr, { s.cur.arg with wr := true })] ∧ t.mem = s.mem)) ∧
    (s.cur.arg.wr = true →
      (s.rangePending = false → exec .setsr s = .next { s with reply := [0] }) ∧
      (s.rangePending = true → exec .setsr s = .next { s with
        inputs := s.inputs ++ [(.setsr, { s.cur.arg with wr := true })] })) ∧
    (2 ≤ b → a < 33 → exec .getpart s = .next { u with
      reply := 0 :: ((s.fn a).tag :: leBytes 2 (s.fn a).mills.length ++ (s.fn a).maps) }) ∧
    (exec .nonce s = .next { u with
      reply := 0 :: (List.range 145).map (Config.nonceByte s.free)
      free := s.free + 1
      wh := { u.wh with nonce := some s.free, session := false } }) ∧
    (∀ n, s.wh.nonce = some n → exec .auth s = .next { u with
      reply := [if Config.tokenVerifies (s.cur.arg.bytes.drop 1) n then 0 else 3]
      wh := { u.wh with session := Config.tokenVerifies (s.cur.arg.bytes.drop 1) n, opKey := s.cur.arg.bytes.drop 1 } }) ∧
    (s.wh.nonce = none → exec .auth s = .next { u with
      reply := [3], wh := { u.wh with session := false, opKey := s.cur.arg.bytes.drop 1 } }) ∧
    (s.wh.session = true → s.wh.lastReq + 600000 * (2250000 * 720720) ≤ s.wh.clock → exec .sessionTimeout s = .next { s with
      wh := { s.wh with session := false } }) ∧
    (s.wh.clock < s.wh.lastReq + 600000 * (2250000 * 720720) → exec .sessionTimeout s = .next s) ∧
    (∃ t : State, exec .resetBoot s = .next t ∧ t.wh.minver = s.wh.minver ∧ t.wh.banks = s.wh.banks ∧ t.wh.life = s.wh.life ∧
      t.wh.saved = s.wh.life ∧ t.wh.limctl = 0x00690BB8 ∧ t.wh.session = false ∧ t.wh.retiredM = [] ∧ t.me = Task.idle ∧ t.tasks = [] ∧
      t.fns = [] ∧ t.blks = [] ∧ t.chans = [] ∧ t.objs = [] ∧ t.wh.clock = s.wh.clock ∧ t.wh.ms = s.wh.ms ∧
      (s.wh.retiredM = [] → t.wh.enabled = s.wh.enabled ∧ t.wh.dead = s.wh.dead) ∧
      (∀ d m z, s.wh.retiredM = [(d, m)] → s.wh.millOn d m = true → (s.wh.spares d).head? = some z →
        (∀ k, t.wh.millOn d k = (k == z || (k != m && s.wh.millOn d k))) ∧ (∀ e k, e ≠ d → t.wh.millOn e k = s.wh.millOn e k) ∧
        t.wh.dead = (d, m) :: s.wh.dead ∧ t.wh.spares d = (s.wh.spares d).tail) ∧
      (s.wh.verifies s.wh.select = true → t.wh.recovery = false ∧ t.wh.active = s.wh.select ∧ t.wh.fallbk = false) ∧
      (s.wh.verifies s.wh.select = false → s.wh.verifies (1 - s.wh.select) = true → t.wh.recovery = false ∧
        t.wh.active = 1 - s.wh.select ∧ t.wh.fallbk = true) ∧
      (s.wh.verifies s.wh.select = false → s.wh.verifies (1 - s.wh.select) = false → t.wh.recovery = true ∧
        ∀ k, s.wh.badImage (1 - s.wh.select) = some k → t.reply = Config.failureReport k)) ∧
    (∀ x, s.cur.arg.tap = .bypass x → ∃ t : State, exec .tapInstruction s = .next t ∧ t.tap.ir = 0 ∧ t.tap.bypass = x ∧ t.mem = s.mem) ∧
    (s.cur.arg.tap = .idcode → ∃ t : State, exec .tapInstruction s = .next t ∧ t.tap.ir = 1 ∧ t.mem = s.mem) ∧
    (∀ v, s.cur.arg.tap = .extest v → ∃ t : State, exec .tapInstruction s = .next t ∧ t.tap.ir = 3 ∧ t.tap.boundary = v ∧ t.mem = s.mem) ∧
    (∀ k r, s.cur.arg.tap = .mailbox k r → s.tap.mailbox = false →
      (Config.debugTokenVerifies k = false → ∃ t : State, exec .tapInstruction s = .next t ∧ t.tap.mailbox = false ∧ t.reply = s.reply) ∧
      (Config.debugTokenVerifies k = true → ∃ t : State, exec .tapInstruction s = .next t ∧ t.tap.mailbox = true ∧
        t.reply = Config.mailboxReply r))
end

