-- ==== Sys2Proof/Laws/State.lean ====
section
/-!
SUPPORT. Sys2Proof/Laws/State.lean: what each named update of the state leaves in each field.
-/

set_option Elab.async false

namespace Sys2Proof.Machine

/-! ## mapMe -/

@[simp] theorem mapMe_me (s : State) (f : Task → Task) : (s.mapMe f).me = f s.me := rfl
@[simp] theorem mapMe_tasks (s : State) (f : Task → Task) : (s.mapMe f).tasks = s.tasks := rfl
@[simp] theorem mapMe_cur (s : State) (f : Task → Task) : (s.mapMe f).cur = s.cur := rfl
@[simp] theorem mapMe_agenda (s : State) (f : Task → Task) : (s.mapMe f).agenda = s.agenda := rfl
@[simp] theorem mapMe_later (s : State) (f : Task → Task) : (s.mapMe f).later = s.later := rfl
@[simp] theorem mapMe_inputs (s : State) (f : Task → Task) : (s.mapMe f).inputs = s.inputs := rfl
@[simp] theorem mapMe_time (s : State) (f : Task → Task) : (s.mapMe f).time = s.time := rfl
@[simp] theorem mapMe_free (s : State) (f : Task → Task) : (s.mapMe f).free = s.free := rfl
@[simp] theorem mapMe_mem (s : State) (f : Task → Task) : (s.mapMe f).mem = s.mem := rfl
@[simp] theorem mapMe_lines (s : State) (f : Task → Task) : (s.mapMe f).lines = s.lines := rfl
@[simp] theorem mapMe_tops (s : State) (f : Task → Task) : (s.mapMe f).tops = s.tops := rfl
@[simp] theorem mapMe_rsv (s : State) (f : Task → Task) : (s.mapMe f).rsv = s.rsv := rfl
@[simp] theorem mapMe_lineKeys (s : State) (f : Task → Task) : (s.mapMe f).lineKeys = s.lineKeys := rfl
@[simp] theorem mapMe_ecc (s : State) (f : Task → Task) : (s.mapMe f).ecc = s.ecc := rfl
@[simp] theorem mapMe_blks (s : State) (f : Task → Task) : (s.mapMe f).blks = s.blks := rfl
@[simp] theorem mapMe_groups (s : State) (f : Task → Task) : (s.mapMe f).groups = s.groups := rfl
@[simp] theorem mapMe_chans (s : State) (f : Task → Task) : (s.mapMe f).chans = s.chans := rfl
@[simp] theorem mapMe_objs (s : State) (f : Task → Task) : (s.mapMe f).objs = s.objs := rfl
@[simp] theorem mapMe_flumes (s : State) (f : Task → Task) : (s.mapMe f).flumes = s.flumes := rfl
@[simp] theorem mapMe_dies (s : State) (f : Task → Task) : (s.mapMe f).dies = s.dies := rfl
@[simp] theorem mapMe_mills (s : State) (f : Task → Task) : (s.mapMe f).mills = s.mills := rfl
@[simp] theorem mapMe_tiles (s : State) (f : Task → Task) : (s.mapMe f).tiles = s.tiles := rfl
@[simp] theorem mapMe_fns (s : State) (f : Task → Task) : (s.mapMe f).fns = s.fns := rfl
@[simp] theorem mapMe_links (s : State) (f : Task → Task) : (s.mapMe f).links = s.links := rfl
@[simp] theorem mapMe_peers (s : State) (f : Task → Task) : (s.mapMe f).peers = s.peers := rfl
@[simp] theorem mapMe_shares (s : State) (f : Task → Task) : (s.mapMe f).shares = s.shares := rfl
@[simp] theorem mapMe_wh (s : State) (f : Task → Task) : (s.mapMe f).wh = s.wh := rfl
@[simp] theorem mapMe_tap (s : State) (f : Task → Task) : (s.mapMe f).tap = s.tap := rfl
@[simp] theorem mapMe_dtrace (s : State) (f : Task → Task) : (s.mapMe f).dtrace = s.dtrace := rfl
@[simp] theorem mapMe_trigSrc (s : State) (f : Task → Task) : (s.mapMe f).trigSrc = s.trigSrc := rfl
@[simp] theorem mapMe_pinsIn (s : State) (f : Task → Task) : (s.mapMe f).pinsIn = s.pinsIn := rfl
@[simp] theorem mapMe_pinsOut (s : State) (f : Task → Task) : (s.mapMe f).pinsOut = s.pinsOut := rfl
@[simp] theorem mapMe_reply (s : State) (f : Task → Task) : (s.mapMe f).reply = s.reply := rfl
@[simp] theorem mapMe_bar2 (s : State) (f : Task → Task) : (s.mapMe f).bar2 = s.bar2 := rfl

/-! ## mapCtx -/

@[simp] theorem mapCtx_me (s : State) (f : Ctx → Ctx) : (s.mapCtx f).me = { s.me with ctx := f s.me.ctx } := rfl
@[simp] theorem mapCtx_tasks (s : State) (f : Ctx → Ctx) : (s.mapCtx f).tasks = s.tasks := rfl
@[simp] theorem mapCtx_cur (s : State) (f : Ctx → Ctx) : (s.mapCtx f).cur = s.cur := rfl
@[simp] theorem mapCtx_agenda (s : State) (f : Ctx → Ctx) : (s.mapCtx f).agenda = s.agenda := rfl
@[simp] theorem mapCtx_later (s : State) (f : Ctx → Ctx) : (s.mapCtx f).later = s.later := rfl
@[simp] theorem mapCtx_inputs (s : State) (f : Ctx → Ctx) : (s.mapCtx f).inputs = s.inputs := rfl
@[simp] theorem mapCtx_time (s : State) (f : Ctx → Ctx) : (s.mapCtx f).time = s.time := rfl
@[simp] theorem mapCtx_free (s : State) (f : Ctx → Ctx) : (s.mapCtx f).free = s.free := rfl
@[simp] theorem mapCtx_mem (s : State) (f : Ctx → Ctx) : (s.mapCtx f).mem = s.mem := rfl
@[simp] theorem mapCtx_lines (s : State) (f : Ctx → Ctx) : (s.mapCtx f).lines = s.lines := rfl
@[simp] theorem mapCtx_tops (s : State) (f : Ctx → Ctx) : (s.mapCtx f).tops = s.tops := rfl
@[simp] theorem mapCtx_rsv (s : State) (f : Ctx → Ctx) : (s.mapCtx f).rsv = s.rsv := rfl
@[simp] theorem mapCtx_lineKeys (s : State) (f : Ctx → Ctx) : (s.mapCtx f).lineKeys = s.lineKeys := rfl
@[simp] theorem mapCtx_ecc (s : State) (f : Ctx → Ctx) : (s.mapCtx f).ecc = s.ecc := rfl
@[simp] theorem mapCtx_blks (s : State) (f : Ctx → Ctx) : (s.mapCtx f).blks = s.blks := rfl
@[simp] theorem mapCtx_groups (s : State) (f : Ctx → Ctx) : (s.mapCtx f).groups = s.groups := rfl
@[simp] theorem mapCtx_chans (s : State) (f : Ctx → Ctx) : (s.mapCtx f).chans = s.chans := rfl
@[simp] theorem mapCtx_objs (s : State) (f : Ctx → Ctx) : (s.mapCtx f).objs = s.objs := rfl
@[simp] theorem mapCtx_flumes (s : State) (f : Ctx → Ctx) : (s.mapCtx f).flumes = s.flumes := rfl
@[simp] theorem mapCtx_dies (s : State) (f : Ctx → Ctx) : (s.mapCtx f).dies = s.dies := rfl
@[simp] theorem mapCtx_mills (s : State) (f : Ctx → Ctx) : (s.mapCtx f).mills = s.mills := rfl
@[simp] theorem mapCtx_tiles (s : State) (f : Ctx → Ctx) : (s.mapCtx f).tiles = s.tiles := rfl
@[simp] theorem mapCtx_fns (s : State) (f : Ctx → Ctx) : (s.mapCtx f).fns = s.fns := rfl
@[simp] theorem mapCtx_links (s : State) (f : Ctx → Ctx) : (s.mapCtx f).links = s.links := rfl
@[simp] theorem mapCtx_peers (s : State) (f : Ctx → Ctx) : (s.mapCtx f).peers = s.peers := rfl
@[simp] theorem mapCtx_shares (s : State) (f : Ctx → Ctx) : (s.mapCtx f).shares = s.shares := rfl
@[simp] theorem mapCtx_wh (s : State) (f : Ctx → Ctx) : (s.mapCtx f).wh = s.wh := rfl
@[simp] theorem mapCtx_tap (s : State) (f : Ctx → Ctx) : (s.mapCtx f).tap = s.tap := rfl
@[simp] theorem mapCtx_dtrace (s : State) (f : Ctx → Ctx) : (s.mapCtx f).dtrace = s.dtrace := rfl
@[simp] theorem mapCtx_trigSrc (s : State) (f : Ctx → Ctx) : (s.mapCtx f).trigSrc = s.trigSrc := rfl
@[simp] theorem mapCtx_pinsIn (s : State) (f : Ctx → Ctx) : (s.mapCtx f).pinsIn = s.pinsIn := rfl
@[simp] theorem mapCtx_pinsOut (s : State) (f : Ctx → Ctx) : (s.mapCtx f).pinsOut = s.pinsOut := rfl
@[simp] theorem mapCtx_reply (s : State) (f : Ctx → Ctx) : (s.mapCtx f).reply = s.reply := rfl
@[simp] theorem mapCtx_bar2 (s : State) (f : Ctx → Ctx) : (s.mapCtx f).bar2 = s.bar2 := rfl

/-! ## mapRun -/

@[simp] theorem mapRun_me (s : State) (f : Run → Run) : (s.mapRun f).me = { s.me with run := f s.me.run } := rfl
@[simp] theorem mapRun_tasks (s : State) (f : Run → Run) : (s.mapRun f).tasks = s.tasks := rfl
@[simp] theorem mapRun_cur (s : State) (f : Run → Run) : (s.mapRun f).cur = s.cur := rfl
@[simp] theorem mapRun_agenda (s : State) (f : Run → Run) : (s.mapRun f).agenda = s.agenda := rfl
@[simp] theorem mapRun_later (s : State) (f : Run → Run) : (s.mapRun f).later = s.later := rfl
@[simp] theorem mapRun_inputs (s : State) (f : Run → Run) : (s.mapRun f).inputs = s.inputs := rfl
@[simp] theorem mapRun_time (s : State) (f : Run → Run) : (s.mapRun f).time = s.time := rfl
@[simp] theorem mapRun_free (s : State) (f : Run → Run) : (s.mapRun f).free = s.free := rfl
@[simp] theorem mapRun_mem (s : State) (f : Run → Run) : (s.mapRun f).mem = s.mem := rfl
@[simp] theorem mapRun_lines (s : State) (f : Run → Run) : (s.mapRun f).lines = s.lines := rfl
@[simp] theorem mapRun_tops (s : State) (f : Run → Run) : (s.mapRun f).tops = s.tops := rfl
@[simp] theorem mapRun_rsv (s : State) (f : Run → Run) : (s.mapRun f).rsv = s.rsv := rfl
@[simp] theorem mapRun_lineKeys (s : State) (f : Run → Run) : (s.mapRun f).lineKeys = s.lineKeys := rfl
@[simp] theorem mapRun_ecc (s : State) (f : Run → Run) : (s.mapRun f).ecc = s.ecc := rfl
@[simp] theorem mapRun_blks (s : State) (f : Run → Run) : (s.mapRun f).blks = s.blks := rfl
@[simp] theorem mapRun_groups (s : State) (f : Run → Run) : (s.mapRun f).groups = s.groups := rfl
@[simp] theorem mapRun_chans (s : State) (f : Run → Run) : (s.mapRun f).chans = s.chans := rfl
@[simp] theorem mapRun_objs (s : State) (f : Run → Run) : (s.mapRun f).objs = s.objs := rfl
@[simp] theorem mapRun_flumes (s : State) (f : Run → Run) : (s.mapRun f).flumes = s.flumes := rfl
@[simp] theorem mapRun_dies (s : State) (f : Run → Run) : (s.mapRun f).dies = s.dies := rfl
@[simp] theorem mapRun_mills (s : State) (f : Run → Run) : (s.mapRun f).mills = s.mills := rfl
@[simp] theorem mapRun_tiles (s : State) (f : Run → Run) : (s.mapRun f).tiles = s.tiles := rfl
@[simp] theorem mapRun_fns (s : State) (f : Run → Run) : (s.mapRun f).fns = s.fns := rfl
@[simp] theorem mapRun_links (s : State) (f : Run → Run) : (s.mapRun f).links = s.links := rfl
@[simp] theorem mapRun_peers (s : State) (f : Run → Run) : (s.mapRun f).peers = s.peers := rfl
@[simp] theorem mapRun_shares (s : State) (f : Run → Run) : (s.mapRun f).shares = s.shares := rfl
@[simp] theorem mapRun_wh (s : State) (f : Run → Run) : (s.mapRun f).wh = s.wh := rfl
@[simp] theorem mapRun_tap (s : State) (f : Run → Run) : (s.mapRun f).tap = s.tap := rfl
@[simp] theorem mapRun_dtrace (s : State) (f : Run → Run) : (s.mapRun f).dtrace = s.dtrace := rfl
@[simp] theorem mapRun_trigSrc (s : State) (f : Run → Run) : (s.mapRun f).trigSrc = s.trigSrc := rfl
@[simp] theorem mapRun_pinsIn (s : State) (f : Run → Run) : (s.mapRun f).pinsIn = s.pinsIn := rfl
@[simp] theorem mapRun_pinsOut (s : State) (f : Run → Run) : (s.mapRun f).pinsOut = s.pinsOut := rfl
@[simp] theorem mapRun_reply (s : State) (f : Run → Run) : (s.mapRun f).reply = s.reply := rfl
@[simp] theorem mapRun_bar2 (s : State) (f : Run → Run) : (s.mapRun f).bar2 = s.bar2 := rfl

/-! ## count -/

@[simp] theorem count_me (s : State) (e n : Nat) : (s.count e n).me = { s.me with ctx := s.me.ctx.count e n } := rfl
@[simp] theorem count_tasks (s : State) (e n : Nat) : (s.count e n).tasks = s.tasks := rfl
@[simp] theorem count_cur (s : State) (e n : Nat) : (s.count e n).cur = s.cur := rfl
@[simp] theorem count_agenda (s : State) (e n : Nat) : (s.count e n).agenda = s.agenda := rfl
@[simp] theorem count_later (s : State) (e n : Nat) : (s.count e n).later = s.later := rfl
@[simp] theorem count_inputs (s : State) (e n : Nat) : (s.count e n).inputs = s.inputs := rfl
@[simp] theorem count_time (s : State) (e n : Nat) : (s.count e n).time = s.time := rfl
@[simp] theorem count_free (s : State) (e n : Nat) : (s.count e n).free = s.free := rfl
@[simp] theorem count_mem (s : State) (e n : Nat) : (s.count e n).mem = s.mem := rfl
@[simp] theorem count_lines (s : State) (e n : Nat) : (s.count e n).lines = s.lines := rfl
@[simp] theorem count_tops (s : State) (e n : Nat) : (s.count e n).tops = s.tops := rfl
@[simp] theorem count_rsv (s : State) (e n : Nat) : (s.count e n).rsv = s.rsv := rfl
@[simp] theorem count_lineKeys (s : State) (e n : Nat) : (s.count e n).lineKeys = s.lineKeys := rfl
@[simp] theorem count_ecc (s : State) (e n : Nat) : (s.count e n).ecc = s.ecc := rfl
@[simp] theorem count_blks (s : State) (e n : Nat) : (s.count e n).blks = s.blks := rfl
@[simp] theorem count_groups (s : State) (e n : Nat) : (s.count e n).groups = s.groups := rfl
@[simp] theorem count_chans (s : State) (e n : Nat) : (s.count e n).chans = s.chans := rfl
@[simp] theorem count_objs (s : State) (e n : Nat) : (s.count e n).objs = s.objs := rfl
@[simp] theorem count_flumes (s : State) (e n : Nat) : (s.count e n).flumes = s.flumes := rfl
@[simp] theorem count_dies (s : State) (e n : Nat) : (s.count e n).dies = s.dies := rfl
@[simp] theorem count_mills (s : State) (e n : Nat) : (s.count e n).mills = s.mills := rfl
@[simp] theorem count_tiles (s : State) (e n : Nat) : (s.count e n).tiles = s.tiles := rfl
@[simp] theorem count_fns (s : State) (e n : Nat) : (s.count e n).fns = s.fns := rfl
@[simp] theorem count_links (s : State) (e n : Nat) : (s.count e n).links = s.links := rfl
@[simp] theorem count_peers (s : State) (e n : Nat) : (s.count e n).peers = s.peers := rfl
@[simp] theorem count_shares (s : State) (e n : Nat) : (s.count e n).shares = s.shares := rfl
@[simp] theorem count_wh (s : State) (e n : Nat) : (s.count e n).wh = s.wh := rfl
@[simp] theorem count_tap (s : State) (e n : Nat) : (s.count e n).tap = s.tap := rfl
@[simp] theorem count_dtrace (s : State) (e n : Nat) : (s.count e n).dtrace = s.dtrace := rfl
@[simp] theorem count_trigSrc (s : State) (e n : Nat) : (s.count e n).trigSrc = s.trigSrc := rfl
@[simp] theorem count_pinsIn (s : State) (e n : Nat) : (s.count e n).pinsIn = s.pinsIn := rfl
@[simp] theorem count_pinsOut (s : State) (e n : Nat) : (s.count e n).pinsOut = s.pinsOut := rfl
@[simp] theorem count_reply (s : State) (e n : Nat) : (s.count e n).reply = s.reply := rfl
@[simp] theorem count_bar2 (s : State) (e n : Nat) : (s.count e n).bar2 = s.bar2 := rfl

/-! ## setMill -/

@[simp] theorem setMill_me (s : State) (n : Nat) (m : Mill) : (s.setMill n m).me = s.me := rfl
@[simp] theorem setMill_tasks (s : State) (n : Nat) (m : Mill) : (s.setMill n m).tasks = s.tasks := rfl
@[simp] theorem setMill_cur (s : State) (n : Nat) (m : Mill) : (s.setMill n m).cur = s.cur := rfl
@[simp] theorem setMill_agenda (s : State) (n : Nat) (m : Mill) : (s.setMill n m).agenda = s.agenda := rfl
@[simp] theorem setMill_later (s : State) (n : Nat) (m : Mill) : (s.setMill n m).later = s.later := rfl
@[simp] theorem setMill_inputs (s : State) (n : Nat) (m : Mill) : (s.setMill n m).inputs = s.inputs := rfl
@[simp] theorem setMill_time (s : State) (n : Nat) (m : Mill) : (s.setMill n m).time = s.time := rfl
@[simp] theorem setMill_free (s : State) (n : Nat) (m : Mill) : (s.setMill n m).free = s.free := rfl
@[simp] theorem setMill_mem (s : State) (n : Nat) (m : Mill) : (s.setMill n m).mem = s.mem := rfl
@[simp] theorem setMill_lines (s : State) (n : Nat) (m : Mill) : (s.setMill n m).lines = s.lines := rfl
@[simp] theorem setMill_tops (s : State) (n : Nat) (m : Mill) : (s.setMill n m).tops = s.tops := rfl
@[simp] theorem setMill_rsv (s : State) (n : Nat) (m : Mill) : (s.setMill n m).rsv = s.rsv := rfl
@[simp] theorem setMill_lineKeys (s : State) (n : Nat) (m : Mill) : (s.setMill n m).lineKeys = s.lineKeys := rfl
@[simp] theorem setMill_ecc (s : State) (n : Nat) (m : Mill) : (s.setMill n m).ecc = s.ecc := rfl
@[simp] theorem setMill_blks (s : State) (n : Nat) (m : Mill) : (s.setMill n m).blks = s.blks := rfl
@[simp] theorem setMill_groups (s : State) (n : Nat) (m : Mill) : (s.setMill n m).groups = s.groups := rfl
@[simp] theorem setMill_chans (s : State) (n : Nat) (m : Mill) : (s.setMill n m).chans = s.chans := rfl
@[simp] theorem setMill_objs (s : State) (n : Nat) (m : Mill) : (s.setMill n m).objs = s.objs := rfl
@[simp] theorem setMill_flumes (s : State) (n : Nat) (m : Mill) : (s.setMill n m).flumes = s.flumes := rfl
@[simp] theorem setMill_dies (s : State) (n : Nat) (m : Mill) : (s.setMill n m).dies = s.dies := rfl
@[simp] theorem setMill_mills (s : State) (n : Nat) (m : Mill) : (s.setMill n m).mills = aset s.mills n m := rfl
@[simp] theorem setMill_tiles (s : State) (n : Nat) (m : Mill) : (s.setMill n m).tiles = s.tiles := rfl
@[simp] theorem setMill_fns (s : State) (n : Nat) (m : Mill) : (s.setMill n m).fns = s.fns := rfl
@[simp] theorem setMill_links (s : State) (n : Nat) (m : Mill) : (s.setMill n m).links = s.links := rfl
@[simp] theorem setMill_peers (s : State) (n : Nat) (m : Mill) : (s.setMill n m).peers = s.peers := rfl
@[simp] theorem setMill_shares (s : State) (n : Nat) (m : Mill) : (s.setMill n m).shares = s.shares := rfl
@[simp] theorem setMill_wh (s : State) (n : Nat) (m : Mill) : (s.setMill n m).wh = s.wh := rfl
@[simp] theorem setMill_tap (s : State) (n : Nat) (m : Mill) : (s.setMill n m).tap = s.tap := rfl
@[simp] theorem setMill_dtrace (s : State) (n : Nat) (m : Mill) : (s.setMill n m).dtrace = s.dtrace := rfl
@[simp] theorem setMill_trigSrc (s : State) (n : Nat) (m : Mill) : (s.setMill n m).trigSrc = s.trigSrc := rfl
@[simp] theorem setMill_pinsIn (s : State) (n : Nat) (m : Mill) : (s.setMill n m).pinsIn = s.pinsIn := rfl
@[simp] theorem setMill_pinsOut (s : State) (n : Nat) (m : Mill) : (s.setMill n m).pinsOut = s.pinsOut := rfl
@[simp] theorem setMill_reply (s : State) (n : Nat) (m : Mill) : (s.setMill n m).reply = s.reply := rfl
@[simp] theorem setMill_bar2 (s : State) (n : Nat) (m : Mill) : (s.setMill n m).bar2 = s.bar2 := rfl

/-! ## setDie -/

@[simp] theorem setDie_me (s : State) (n : Nat) (d : Die) : (s.setDie n d).me = s.me := rfl
@[simp] theorem setDie_tasks (s : State) (n : Nat) (d : Die) : (s.setDie n d).tasks = s.tasks := rfl
@[simp] theorem setDie_cur (s : State) (n : Nat) (d : Die) : (s.setDie n d).cur = s.cur := rfl
@[simp] theorem setDie_agenda (s : State) (n : Nat) (d : Die) : (s.setDie n d).agenda = s.agenda := rfl
@[simp] theorem setDie_later (s : State) (n : Nat) (d : Die) : (s.setDie n d).later = s.later := rfl
@[simp] theorem setDie_inputs (s : State) (n : Nat) (d : Die) : (s.setDie n d).inputs = s.inputs := rfl
@[simp] theorem setDie_time (s : State) (n : Nat) (d : Die) : (s.setDie n d).time = s.time := rfl
@[simp] theorem setDie_free (s : State) (n : Nat) (d : Die) : (s.setDie n d).free = s.free := rfl
@[simp] theorem setDie_mem (s : State) (n : Nat) (d : Die) : (s.setDie n d).mem = s.mem := rfl
@[simp] theorem setDie_lines (s : State) (n : Nat) (d : Die) : (s.setDie n d).lines = s.lines := rfl
@[simp] theorem setDie_tops (s : State) (n : Nat) (d : Die) : (s.setDie n d).tops = s.tops := rfl
@[simp] theorem setDie_rsv (s : State) (n : Nat) (d : Die) : (s.setDie n d).rsv = s.rsv := rfl
@[simp] theorem setDie_lineKeys (s : State) (n : Nat) (d : Die) : (s.setDie n d).lineKeys = s.lineKeys := rfl
@[simp] theorem setDie_ecc (s : State) (n : Nat) (d : Die) : (s.setDie n d).ecc = s.ecc := rfl
@[simp] theorem setDie_blks (s : State) (n : Nat) (d : Die) : (s.setDie n d).blks = s.blks := rfl
@[simp] theorem setDie_groups (s : State) (n : Nat) (d : Die) : (s.setDie n d).groups = s.groups := rfl
@[simp] theorem setDie_chans (s : State) (n : Nat) (d : Die) : (s.setDie n d).chans = s.chans := rfl
@[simp] theorem setDie_objs (s : State) (n : Nat) (d : Die) : (s.setDie n d).objs = s.objs := rfl
@[simp] theorem setDie_flumes (s : State) (n : Nat) (d : Die) : (s.setDie n d).flumes = s.flumes := rfl
@[simp] theorem setDie_dies (s : State) (n : Nat) (d : Die) : (s.setDie n d).dies = aset s.dies n d := rfl
@[simp] theorem setDie_mills (s : State) (n : Nat) (d : Die) : (s.setDie n d).mills = s.mills := rfl
@[simp] theorem setDie_tiles (s : State) (n : Nat) (d : Die) : (s.setDie n d).tiles = s.tiles := rfl
@[simp] theorem setDie_fns (s : State) (n : Nat) (d : Die) : (s.setDie n d).fns = s.fns := rfl
@[simp] theorem setDie_links (s : State) (n : Nat) (d : Die) : (s.setDie n d).links = s.links := rfl
@[simp] theorem setDie_peers (s : State) (n : Nat) (d : Die) : (s.setDie n d).peers = s.peers := rfl
@[simp] theorem setDie_shares (s : State) (n : Nat) (d : Die) : (s.setDie n d).shares = s.shares := rfl
@[simp] theorem setDie_wh (s : State) (n : Nat) (d : Die) : (s.setDie n d).wh = s.wh := rfl
@[simp] theorem setDie_tap (s : State) (n : Nat) (d : Die) : (s.setDie n d).tap = s.tap := rfl
@[simp] theorem setDie_dtrace (s : State) (n : Nat) (d : Die) : (s.setDie n d).dtrace = s.dtrace := rfl
@[simp] theorem setDie_trigSrc (s : State) (n : Nat) (d : Die) : (s.setDie n d).trigSrc = s.trigSrc := rfl
@[simp] theorem setDie_pinsIn (s : State) (n : Nat) (d : Die) : (s.setDie n d).pinsIn = s.pinsIn := rfl
@[simp] theorem setDie_pinsOut (s : State) (n : Nat) (d : Die) : (s.setDie n d).pinsOut = s.pinsOut := rfl
@[simp] theorem setDie_reply (s : State) (n : Nat) (d : Die) : (s.setDie n d).reply = s.reply := rfl
@[simp] theorem setDie_bar2 (s : State) (n : Nat) (d : Die) : (s.setDie n d).bar2 = s.bar2 := rfl

/-! ## setTile -/

@[simp] theorem setTile_me (s : State) (n : Nat) (t : Tile) : (s.setTile n t).me = s.me := rfl
@[simp] theorem setTile_tasks (s : State) (n : Nat) (t : Tile) : (s.setTile n t).tasks = s.tasks := rfl
@[simp] theorem setTile_cur (s : State) (n : Nat) (t : Tile) : (s.setTile n t).cur = s.cur := rfl
@[simp] theorem setTile_agenda (s : State) (n : Nat) (t : Tile) : (s.setTile n t).agenda = s.agenda := rfl
@[simp] theorem setTile_later (s : State) (n : Nat) (t : Tile) : (s.setTile n t).later = s.later := rfl
@[simp] theorem setTile_inputs (s : State) (n : Nat) (t : Tile) : (s.setTile n t).inputs = s.inputs := rfl
@[simp] theorem setTile_time (s : State) (n : Nat) (t : Tile) : (s.setTile n t).time = s.time := rfl
@[simp] theorem setTile_free (s : State) (n : Nat) (t : Tile) : (s.setTile n t).free = s.free := rfl
@[simp] theorem setTile_mem (s : State) (n : Nat) (t : Tile) : (s.setTile n t).mem = s.mem := rfl
@[simp] theorem setTile_lines (s : State) (n : Nat) (t : Tile) : (s.setTile n t).lines = s.lines := rfl
@[simp] theorem setTile_tops (s : State) (n : Nat) (t : Tile) : (s.setTile n t).tops = s.tops := rfl
@[simp] theorem setTile_rsv (s : State) (n : Nat) (t : Tile) : (s.setTile n t).rsv = s.rsv := rfl
@[simp] theorem setTile_lineKeys (s : State) (n : Nat) (t : Tile) : (s.setTile n t).lineKeys = s.lineKeys := rfl
@[simp] theorem setTile_ecc (s : State) (n : Nat) (t : Tile) : (s.setTile n t).ecc = s.ecc := rfl
@[simp] theorem setTile_blks (s : State) (n : Nat) (t : Tile) : (s.setTile n t).blks = s.blks := rfl
@[simp] theorem setTile_groups (s : State) (n : Nat) (t : Tile) : (s.setTile n t).groups = s.groups := rfl
@[simp] theorem setTile_chans (s : State) (n : Nat) (t : Tile) : (s.setTile n t).chans = s.chans := rfl
@[simp] theorem setTile_objs (s : State) (n : Nat) (t : Tile) : (s.setTile n t).objs = s.objs := rfl
@[simp] theorem setTile_flumes (s : State) (n : Nat) (t : Tile) : (s.setTile n t).flumes = s.flumes := rfl
@[simp] theorem setTile_dies (s : State) (n : Nat) (t : Tile) : (s.setTile n t).dies = s.dies := rfl
@[simp] theorem setTile_mills (s : State) (n : Nat) (t : Tile) : (s.setTile n t).mills = s.mills := rfl
@[simp] theorem setTile_tiles (s : State) (n : Nat) (t : Tile) : (s.setTile n t).tiles = aset s.tiles n t := rfl
@[simp] theorem setTile_fns (s : State) (n : Nat) (t : Tile) : (s.setTile n t).fns = s.fns := rfl
@[simp] theorem setTile_links (s : State) (n : Nat) (t : Tile) : (s.setTile n t).links = s.links := rfl
@[simp] theorem setTile_peers (s : State) (n : Nat) (t : Tile) : (s.setTile n t).peers = s.peers := rfl
@[simp] theorem setTile_shares (s : State) (n : Nat) (t : Tile) : (s.setTile n t).shares = s.shares := rfl
@[simp] theorem setTile_wh (s : State) (n : Nat) (t : Tile) : (s.setTile n t).wh = s.wh := rfl
@[simp] theorem setTile_tap (s : State) (n : Nat) (t : Tile) : (s.setTile n t).tap = s.tap := rfl
@[simp] theorem setTile_dtrace (s : State) (n : Nat) (t : Tile) : (s.setTile n t).dtrace = s.dtrace := rfl
@[simp] theorem setTile_trigSrc (s : State) (n : Nat) (t : Tile) : (s.setTile n t).trigSrc = s.trigSrc := rfl
@[simp] theorem setTile_pinsIn (s : State) (n : Nat) (t : Tile) : (s.setTile n t).pinsIn = s.pinsIn := rfl
@[simp] theorem setTile_pinsOut (s : State) (n : Nat) (t : Tile) : (s.setTile n t).pinsOut = s.pinsOut := rfl
@[simp] theorem setTile_reply (s : State) (n : Nat) (t : Tile) : (s.setTile n t).reply = s.reply := rfl
@[simp] theorem setTile_bar2 (s : State) (n : Nat) (t : Tile) : (s.setTile n t).bar2 = s.bar2 := rfl

/-! ## setFn -/

@[simp] theorem setFn_me (s : State) (n : Nat) (f : Fn) : (s.setFn n f).me = s.me := rfl
@[simp] theorem setFn_tasks (s : State) (n : Nat) (f : Fn) : (s.setFn n f).tasks = s.tasks := rfl
@[simp] theorem setFn_cur (s : State) (n : Nat) (f : Fn) : (s.setFn n f).cur = s.cur := rfl
@[simp] theorem setFn_agenda (s : State) (n : Nat) (f : Fn) : (s.setFn n f).agenda = s.agenda := rfl
@[simp] theorem setFn_later (s : State) (n : Nat) (f : Fn) : (s.setFn n f).later = s.later := rfl
@[simp] theorem setFn_inputs (s : State) (n : Nat) (f : Fn) : (s.setFn n f).inputs = s.inputs := rfl
@[simp] theorem setFn_time (s : State) (n : Nat) (f : Fn) : (s.setFn n f).time = s.time := rfl
@[simp] theorem setFn_free (s : State) (n : Nat) (f : Fn) : (s.setFn n f).free = s.free := rfl
@[simp] theorem setFn_mem (s : State) (n : Nat) (f : Fn) : (s.setFn n f).mem = s.mem := rfl
@[simp] theorem setFn_lines (s : State) (n : Nat) (f : Fn) : (s.setFn n f).lines = s.lines := rfl
@[simp] theorem setFn_tops (s : State) (n : Nat) (f : Fn) : (s.setFn n f).tops = s.tops := rfl
@[simp] theorem setFn_rsv (s : State) (n : Nat) (f : Fn) : (s.setFn n f).rsv = s.rsv := rfl
@[simp] theorem setFn_lineKeys (s : State) (n : Nat) (f : Fn) : (s.setFn n f).lineKeys = s.lineKeys := rfl
@[simp] theorem setFn_ecc (s : State) (n : Nat) (f : Fn) : (s.setFn n f).ecc = s.ecc := rfl
@[simp] theorem setFn_blks (s : State) (n : Nat) (f : Fn) : (s.setFn n f).blks = s.blks := rfl
@[simp] theorem setFn_groups (s : State) (n : Nat) (f : Fn) : (s.setFn n f).groups = s.groups := rfl
@[simp] theorem setFn_chans (s : State) (n : Nat) (f : Fn) : (s.setFn n f).chans = s.chans := rfl
@[simp] theorem setFn_objs (s : State) (n : Nat) (f : Fn) : (s.setFn n f).objs = s.objs := rfl
@[simp] theorem setFn_flumes (s : State) (n : Nat) (f : Fn) : (s.setFn n f).flumes = s.flumes := rfl
@[simp] theorem setFn_dies (s : State) (n : Nat) (f : Fn) : (s.setFn n f).dies = s.dies := rfl
@[simp] theorem setFn_mills (s : State) (n : Nat) (f : Fn) : (s.setFn n f).mills = s.mills := rfl
@[simp] theorem setFn_tiles (s : State) (n : Nat) (f : Fn) : (s.setFn n f).tiles = s.tiles := rfl
@[simp] theorem setFn_fns (s : State) (n : Nat) (f : Fn) : (s.setFn n f).fns = aset s.fns n f := rfl
@[simp] theorem setFn_links (s : State) (n : Nat) (f : Fn) : (s.setFn n f).links = s.links := rfl
@[simp] theorem setFn_peers (s : State) (n : Nat) (f : Fn) : (s.setFn n f).peers = s.peers := rfl
@[simp] theorem setFn_shares (s : State) (n : Nat) (f : Fn) : (s.setFn n f).shares = s.shares := rfl
@[simp] theorem setFn_wh (s : State) (n : Nat) (f : Fn) : (s.setFn n f).wh = s.wh := rfl
@[simp] theorem setFn_tap (s : State) (n : Nat) (f : Fn) : (s.setFn n f).tap = s.tap := rfl
@[simp] theorem setFn_dtrace (s : State) (n : Nat) (f : Fn) : (s.setFn n f).dtrace = s.dtrace := rfl
@[simp] theorem setFn_trigSrc (s : State) (n : Nat) (f : Fn) : (s.setFn n f).trigSrc = s.trigSrc := rfl
@[simp] theorem setFn_pinsIn (s : State) (n : Nat) (f : Fn) : (s.setFn n f).pinsIn = s.pinsIn := rfl
@[simp] theorem setFn_pinsOut (s : State) (n : Nat) (f : Fn) : (s.setFn n f).pinsOut = s.pinsOut := rfl
@[simp] theorem setFn_reply (s : State) (n : Nat) (f : Fn) : (s.setFn n f).reply = s.reply := rfl
@[simp] theorem setFn_bar2 (s : State) (n : Nat) (f : Fn) : (s.setFn n f).bar2 = s.bar2 := rfl

/-! ## setLink -/

@[simp] theorem setLink_me (s : State) (n : Nat) (l : Link) : (s.setLink n l).me = s.me := rfl
@[simp] theorem setLink_tasks (s : State) (n : Nat) (l : Link) : (s.setLink n l).tasks = s.tasks := rfl
@[simp] theorem setLink_cur (s : State) (n : Nat) (l : Link) : (s.setLink n l).cur = s.cur := rfl
@[simp] theorem setLink_agenda (s : State) (n : Nat) (l : Link) : (s.setLink n l).agenda = s.agenda := rfl
@[simp] theorem setLink_later (s : State) (n : Nat) (l : Link) : (s.setLink n l).later = s.later := rfl
@[simp] theorem setLink_inputs (s : State) (n : Nat) (l : Link) : (s.setLink n l).inputs = s.inputs := rfl
@[simp] theorem setLink_time (s : State) (n : Nat) (l : Link) : (s.setLink n l).time = s.time := rfl
@[simp] theorem setLink_free (s : State) (n : Nat) (l : Link) : (s.setLink n l).free = s.free := rfl
@[simp] theorem setLink_mem (s : State) (n : Nat) (l : Link) : (s.setLink n l).mem = s.mem := rfl
@[simp] theorem setLink_lines (s : State) (n : Nat) (l : Link) : (s.setLink n l).lines = s.lines := rfl
@[simp] theorem setLink_tops (s : State) (n : Nat) (l : Link) : (s.setLink n l).tops = s.tops := rfl
@[simp] theorem setLink_rsv (s : State) (n : Nat) (l : Link) : (s.setLink n l).rsv = s.rsv := rfl
@[simp] theorem setLink_lineKeys (s : State) (n : Nat) (l : Link) : (s.setLink n l).lineKeys = s.lineKeys := rfl
@[simp] theorem setLink_ecc (s : State) (n : Nat) (l : Link) : (s.setLink n l).ecc = s.ecc := rfl
@[simp] theorem setLink_blks (s : State) (n : Nat) (l : Link) : (s.setLink n l).blks = s.blks := rfl
@[simp] theorem setLink_groups (s : State) (n : Nat) (l : Link) : (s.setLink n l).groups = s.groups := rfl
@[simp] theorem setLink_chans (s : State) (n : Nat) (l : Link) : (s.setLink n l).chans = s.chans := rfl
@[simp] theorem setLink_objs (s : State) (n : Nat) (l : Link) : (s.setLink n l).objs = s.objs := rfl
@[simp] theorem setLink_flumes (s : State) (n : Nat) (l : Link) : (s.setLink n l).flumes = s.flumes := rfl
@[simp] theorem setLink_dies (s : State) (n : Nat) (l : Link) : (s.setLink n l).dies = s.dies := rfl
@[simp] theorem setLink_mills (s : State) (n : Nat) (l : Link) : (s.setLink n l).mills = s.mills := rfl
@[simp] theorem setLink_tiles (s : State) (n : Nat) (l : Link) : (s.setLink n l).tiles = s.tiles := rfl
@[simp] theorem setLink_fns (s : State) (n : Nat) (l : Link) : (s.setLink n l).fns = s.fns := rfl
@[simp] theorem setLink_links (s : State) (n : Nat) (l : Link) : (s.setLink n l).links = aset s.links n l := rfl
@[simp] theorem setLink_peers (s : State) (n : Nat) (l : Link) : (s.setLink n l).peers = s.peers := rfl
@[simp] theorem setLink_shares (s : State) (n : Nat) (l : Link) : (s.setLink n l).shares = s.shares := rfl
@[simp] theorem setLink_wh (s : State) (n : Nat) (l : Link) : (s.setLink n l).wh = s.wh := rfl
@[simp] theorem setLink_tap (s : State) (n : Nat) (l : Link) : (s.setLink n l).tap = s.tap := rfl
@[simp] theorem setLink_dtrace (s : State) (n : Nat) (l : Link) : (s.setLink n l).dtrace = s.dtrace := rfl
@[simp] theorem setLink_trigSrc (s : State) (n : Nat) (l : Link) : (s.setLink n l).trigSrc = s.trigSrc := rfl
@[simp] theorem setLink_pinsIn (s : State) (n : Nat) (l : Link) : (s.setLink n l).pinsIn = s.pinsIn := rfl
@[simp] theorem setLink_pinsOut (s : State) (n : Nat) (l : Link) : (s.setLink n l).pinsOut = s.pinsOut := rfl
@[simp] theorem setLink_reply (s : State) (n : Nat) (l : Link) : (s.setLink n l).reply = s.reply := rfl
@[simp] theorem setLink_bar2 (s : State) (n : Nat) (l : Link) : (s.setLink n l).bar2 = s.bar2 := rfl

/-! ## mapTasks -/

@[simp] theorem mapTasks_me (s : State) (p : Task → Bool) (f : Task → Task) : (s.mapTasks p f).me = (if p s.me then f s.me else s.me) := rfl
@[simp] theorem mapTasks_tasks (s : State) (p : Task → Bool) (f : Task → Task) : (s.mapTasks p f).tasks = (s.tasks.map fun t => if p t then f t else t) := rfl
@[simp] theorem mapTasks_cur (s : State) (p : Task → Bool) (f : Task → Task) : (s.mapTasks p f).cur = s.cur := rfl
@[simp] theorem mapTasks_agenda (s : State) (p : Task → Bool) (f : Task → Task) : (s.mapTasks p f).agenda = s.agenda := rfl
@[simp] theorem mapTasks_later (s : State) (p : Task → Bool) (f : Task → Task) : (s.mapTasks p f).later = s.later := rfl
@[simp] theorem mapTasks_inputs (s : State) (p : Task → Bool) (f : Task → Task) : (s.mapTasks p f).inputs = s.inputs := rfl
@[simp] theorem mapTasks_time (s : State) (p : Task → Bool) (f : Task → Task) : (s.mapTasks p f).time = s.time := rfl
@[simp] theorem mapTasks_free (s : State) (p : Task → Bool) (f : Task → Task) : (s.mapTasks p f).free = s.free := rfl
@[simp] theorem mapTasks_mem (s : State) (p : Task → Bool) (f : Task → Task) : (s.mapTasks p f).mem = s.mem := rfl
@[simp] theorem mapTasks_lines (s : State) (p : Task → Bool) (f : Task → Task) : (s.mapTasks p f).lines = s.lines := rfl
@[simp] theorem mapTasks_tops (s : State) (p : Task → Bool) (f : Task → Task) : (s.mapTasks p f).tops = s.tops := rfl
@[simp] theorem mapTasks_rsv (s : State) (p : Task → Bool) (f : Task → Task) : (s.mapTasks p f).rsv = s.rsv := rfl
@[simp] theorem mapTasks_lineKeys (s : State) (p : Task → Bool) (f : Task → Task) : (s.mapTasks p f).lineKeys = s.lineKeys := rfl
@[simp] theorem mapTasks_ecc (s : State) (p : Task → Bool) (f : Task → Task) : (s.mapTasks p f).ecc = s.ecc := rfl
@[simp] theorem mapTasks_blks (s : State) (p : Task → Bool) (f : Task → Task) : (s.mapTasks p f).blks = s.blks := rfl
@[simp] theorem mapTasks_groups (s : State) (p : Task → Bool) (f : Task → Task) : (s.mapTasks p f).groups = s.groups := rfl
@[simp] theorem mapTasks_chans (s : State) (p : Task → Bool) (f : Task → Task) : (s.mapTasks p f).chans = s.chans := rfl
@[simp] theorem mapTasks_objs (s : State) (p : Task → Bool) (f : Task → Task) : (s.mapTasks p f).objs = s.objs := rfl
@[simp] theorem mapTasks_flumes (s : State) (p : Task → Bool) (f : Task → Task) : (s.mapTasks p f).flumes = s.flumes := rfl
@[simp] theorem mapTasks_dies (s : State) (p : Task → Bool) (f : Task → Task) : (s.mapTasks p f).dies = s.dies := rfl
@[simp] theorem mapTasks_mills (s : State) (p : Task → Bool) (f : Task → Task) : (s.mapTasks p f).mills = s.mills := rfl
@[simp] theorem mapTasks_tiles (s : State) (p : Task → Bool) (f : Task → Task) : (s.mapTasks p f).tiles = s.tiles := rfl
@[simp] theorem mapTasks_fns (s : State) (p : Task → Bool) (f : Task → Task) : (s.mapTasks p f).fns = s.fns := rfl
@[simp] theorem mapTasks_links (s : State) (p : Task → Bool) (f : Task → Task) : (s.mapTasks p f).links = s.links := rfl
@[simp] theorem mapTasks_peers (s : State) (p : Task → Bool) (f : Task → Task) : (s.mapTasks p f).peers = s.peers := rfl
@[simp] theorem mapTasks_shares (s : State) (p : Task → Bool) (f : Task → Task) : (s.mapTasks p f).shares = s.shares := rfl
@[simp] theorem mapTasks_wh (s : State) (p : Task → Bool) (f : Task → Task) : (s.mapTasks p f).wh = s.wh := rfl
@[simp] theorem mapTasks_tap (s : State) (p : Task → Bool) (f : Task → Task) : (s.mapTasks p f).tap = s.tap := rfl
@[simp] theorem mapTasks_dtrace (s : State) (p : Task → Bool) (f : Task → Task) : (s.mapTasks p f).dtrace = s.dtrace := rfl
@[simp] theorem mapTasks_trigSrc (s : State) (p : Task → Bool) (f : Task → Task) : (s.mapTasks p f).trigSrc = s.trigSrc := rfl
@[simp] theorem mapTasks_pinsIn (s : State) (p : Task → Bool) (f : Task → Task) : (s.mapTasks p f).pinsIn = s.pinsIn := rfl
@[simp] theorem mapTasks_pinsOut (s : State) (p : Task → Bool) (f : Task → Task) : (s.mapTasks p f).pinsOut = s.pinsOut := rfl
@[simp] theorem mapTasks_reply (s : State) (p : Task → Bool) (f : Task → Task) : (s.mapTasks p f).reply = s.reply := rfl
@[simp] theorem mapTasks_bar2 (s : State) (p : Task → Bool) (f : Task → Task) : (s.mapTasks p f).bar2 = s.bar2 := rfl

/-! ## mapTask -/

@[simp] theorem mapTask_me (s : State) (t : TaskId) (f : Task → Task) : (s.mapTask t f).me = (if s.me.id == t then f s.me else s.me) := rfl
@[simp] theorem mapTask_tasks (s : State) (t : TaskId) (f : Task → Task) : (s.mapTask t f).tasks = (s.tasks.map fun x => if x.id == t then f x else x) := rfl
@[simp] theorem mapTask_cur (s : State) (t : TaskId) (f : Task → Task) : (s.mapTask t f).cur = s.cur := rfl
@[simp] theorem mapTask_agenda (s : State) (t : TaskId) (f : Task → Task) : (s.mapTask t f).agenda = s.agenda := rfl
@[simp] theorem mapTask_later (s : State) (t : TaskId) (f : Task → Task) : (s.mapTask t f).later = s.later := rfl
@[simp] theorem mapTask_inputs (s : State) (t : TaskId) (f : Task → Task) : (s.mapTask t f).inputs = s.inputs := rfl
@[simp] theorem mapTask_time (s : State) (t : TaskId) (f : Task → Task) : (s.mapTask t f).time = s.time := rfl
@[simp] theorem mapTask_free (s : State) (t : TaskId) (f : Task → Task) : (s.mapTask t f).free = s.free := rfl
@[simp] theorem mapTask_mem (s : State) (t : TaskId) (f : Task → Task) : (s.mapTask t f).mem = s.mem := rfl
@[simp] theorem mapTask_lines (s : State) (t : TaskId) (f : Task → Task) : (s.mapTask t f).lines = s.lines := rfl
@[simp] theorem mapTask_tops (s : State) (t : TaskId) (f : Task → Task) : (s.mapTask t f).tops = s.tops := rfl
@[simp] theorem mapTask_rsv (s : State) (t : TaskId) (f : Task → Task) : (s.mapTask t f).rsv = s.rsv := rfl
@[simp] theorem mapTask_lineKeys (s : State) (t : TaskId) (f : Task → Task) : (s.mapTask t f).lineKeys = s.lineKeys := rfl
@[simp] theorem mapTask_ecc (s : State) (t : TaskId) (f : Task → Task) : (s.mapTask t f).ecc = s.ecc := rfl
@[simp] theorem mapTask_blks (s : State) (t : TaskId) (f : Task → Task) : (s.mapTask t f).blks = s.blks := rfl
@[simp] theorem mapTask_groups (s : State) (t : TaskId) (f : Task → Task) : (s.mapTask t f).groups = s.groups := rfl
@[simp] theorem mapTask_chans (s : State) (t : TaskId) (f : Task → Task) : (s.mapTask t f).chans = s.chans := rfl
@[simp] theorem mapTask_objs (s : State) (t : TaskId) (f : Task → Task) : (s.mapTask t f).objs = s.objs := rfl
@[simp] theorem mapTask_flumes (s : State) (t : TaskId) (f : Task → Task) : (s.mapTask t f).flumes = s.flumes := rfl
@[simp] theorem mapTask_dies (s : State) (t : TaskId) (f : Task → Task) : (s.mapTask t f).dies = s.dies := rfl
@[simp] theorem mapTask_mills (s : State) (t : TaskId) (f : Task → Task) : (s.mapTask t f).mills = s.mills := rfl
@[simp] theorem mapTask_tiles (s : State) (t : TaskId) (f : Task → Task) : (s.mapTask t f).tiles = s.tiles := rfl
@[simp] theorem mapTask_fns (s : State) (t : TaskId) (f : Task → Task) : (s.mapTask t f).fns = s.fns := rfl
@[simp] theorem mapTask_links (s : State) (t : TaskId) (f : Task → Task) : (s.mapTask t f).links = s.links := rfl
@[simp] theorem mapTask_peers (s : State) (t : TaskId) (f : Task → Task) : (s.mapTask t f).peers = s.peers := rfl
@[simp] theorem mapTask_shares (s : State) (t : TaskId) (f : Task → Task) : (s.mapTask t f).shares = s.shares := rfl
@[simp] theorem mapTask_wh (s : State) (t : TaskId) (f : Task → Task) : (s.mapTask t f).wh = s.wh := rfl
@[simp] theorem mapTask_tap (s : State) (t : TaskId) (f : Task → Task) : (s.mapTask t f).tap = s.tap := rfl
@[simp] theorem mapTask_dtrace (s : State) (t : TaskId) (f : Task → Task) : (s.mapTask t f).dtrace = s.dtrace := rfl
@[simp] theorem mapTask_trigSrc (s : State) (t : TaskId) (f : Task → Task) : (s.mapTask t f).trigSrc = s.trigSrc := rfl
@[simp] theorem mapTask_pinsIn (s : State) (t : TaskId) (f : Task → Task) : (s.mapTask t f).pinsIn = s.pinsIn := rfl
@[simp] theorem mapTask_pinsOut (s : State) (t : TaskId) (f : Task → Task) : (s.mapTask t f).pinsOut = s.pinsOut := rfl
@[simp] theorem mapTask_reply (s : State) (t : TaskId) (f : Task → Task) : (s.mapTask t f).reply = s.reply := rfl
@[simp] theorem mapTask_bar2 (s : State) (t : TaskId) (f : Task → Task) : (s.mapTask t f).bar2 = s.bar2 := rfl

/-! ## mapBlk -/

@[simp] theorem mapBlk_me (s : State) (fn : Nat) (a : Word) (f : Blk → Blk) : (s.mapBlk fn a f).me = s.me := rfl
@[simp] theorem mapBlk_tasks (s : State) (fn : Nat) (a : Word) (f : Blk → Blk) : (s.mapBlk fn a f).tasks = s.tasks := rfl
@[simp] theorem mapBlk_cur (s : State) (fn : Nat) (a : Word) (f : Blk → Blk) : (s.mapBlk fn a f).cur = s.cur := rfl
@[simp] theorem mapBlk_agenda (s : State) (fn : Nat) (a : Word) (f : Blk → Blk) : (s.mapBlk fn a f).agenda = s.agenda := rfl
@[simp] theorem mapBlk_later (s : State) (fn : Nat) (a : Word) (f : Blk → Blk) : (s.mapBlk fn a f).later = s.later := rfl
@[simp] theorem mapBlk_inputs (s : State) (fn : Nat) (a : Word) (f : Blk → Blk) : (s.mapBlk fn a f).inputs = s.inputs := rfl
@[simp] theorem mapBlk_time (s : State) (fn : Nat) (a : Word) (f : Blk → Blk) : (s.mapBlk fn a f).time = s.time := rfl
@[simp] theorem mapBlk_free (s : State) (fn : Nat) (a : Word) (f : Blk → Blk) : (s.mapBlk fn a f).free = s.free := rfl
@[simp] theorem mapBlk_mem (s : State) (fn : Nat) (a : Word) (f : Blk → Blk) : (s.mapBlk fn a f).mem = s.mem := rfl
@[simp] theorem mapBlk_lines (s : State) (fn : Nat) (a : Word) (f : Blk → Blk) : (s.mapBlk fn a f).lines = s.lines := rfl
@[simp] theorem mapBlk_tops (s : State) (fn : Nat) (a : Word) (f : Blk → Blk) : (s.mapBlk fn a f).tops = s.tops := rfl
@[simp] theorem mapBlk_rsv (s : State) (fn : Nat) (a : Word) (f : Blk → Blk) : (s.mapBlk fn a f).rsv = s.rsv := rfl
@[simp] theorem mapBlk_lineKeys (s : State) (fn : Nat) (a : Word) (f : Blk → Blk) : (s.mapBlk fn a f).lineKeys = s.lineKeys := rfl
@[simp] theorem mapBlk_ecc (s : State) (fn : Nat) (a : Word) (f : Blk → Blk) : (s.mapBlk fn a f).ecc = s.ecc := rfl
@[simp] theorem mapBlk_blks (s : State) (fn : Nat) (a : Word) (f : Blk → Blk) : (s.mapBlk fn a f).blks = (s.blks.map fun b => if b.fn == fn && b.addr == a then f b else b) := rfl
@[simp] theorem mapBlk_groups (s : State) (fn : Nat) (a : Word) (f : Blk → Blk) : (s.mapBlk fn a f).groups = s.groups := rfl
@[simp] theorem mapBlk_chans (s : State) (fn : Nat) (a : Word) (f : Blk → Blk) : (s.mapBlk fn a f).chans = s.chans := rfl
@[simp] theorem mapBlk_objs (s : State) (fn : Nat) (a : Word) (f : Blk → Blk) : (s.mapBlk fn a f).objs = s.objs := rfl
@[simp] theorem mapBlk_flumes (s : State) (fn : Nat) (a : Word) (f : Blk → Blk) : (s.mapBlk fn a f).flumes = s.flumes := rfl
@[simp] theorem mapBlk_dies (s : State) (fn : Nat) (a : Word) (f : Blk → Blk) : (s.mapBlk fn a f).dies = s.dies := rfl
@[simp] theorem mapBlk_mills (s : State) (fn : Nat) (a : Word) (f : Blk → Blk) : (s.mapBlk fn a f).mills = s.mills := rfl
@[simp] theorem mapBlk_tiles (s : State) (fn : Nat) (a : Word) (f : Blk → Blk) : (s.mapBlk fn a f).tiles = s.tiles := rfl
@[simp] theorem mapBlk_fns (s : State) (fn : Nat) (a : Word) (f : Blk → Blk) : (s.mapBlk fn a f).fns = s.fns := rfl
@[simp] theorem mapBlk_links (s : State) (fn : Nat) (a : Word) (f : Blk → Blk) : (s.mapBlk fn a f).links = s.links := rfl
@[simp] theorem mapBlk_peers (s : State) (fn : Nat) (a : Word) (f : Blk → Blk) : (s.mapBlk fn a f).peers = s.peers := rfl
@[simp] theorem mapBlk_shares (s : State) (fn : Nat) (a : Word) (f : Blk → Blk) : (s.mapBlk fn a f).shares = s.shares := rfl
@[simp] theorem mapBlk_wh (s : State) (fn : Nat) (a : Word) (f : Blk → Blk) : (s.mapBlk fn a f).wh = s.wh := rfl
@[simp] theorem mapBlk_tap (s : State) (fn : Nat) (a : Word) (f : Blk → Blk) : (s.mapBlk fn a f).tap = s.tap := rfl
@[simp] theorem mapBlk_dtrace (s : State) (fn : Nat) (a : Word) (f : Blk → Blk) : (s.mapBlk fn a f).dtrace = s.dtrace := rfl
@[simp] theorem mapBlk_trigSrc (s : State) (fn : Nat) (a : Word) (f : Blk → Blk) : (s.mapBlk fn a f).trigSrc = s.trigSrc := rfl
@[simp] theorem mapBlk_pinsIn (s : State) (fn : Nat) (a : Word) (f : Blk → Blk) : (s.mapBlk fn a f).pinsIn = s.pinsIn := rfl
@[simp] theorem mapBlk_pinsOut (s : State) (fn : Nat) (a : Word) (f : Blk → Blk) : (s.mapBlk fn a f).pinsOut = s.pinsOut := rfl
@[simp] theorem mapBlk_reply (s : State) (fn : Nat) (a : Word) (f : Blk → Blk) : (s.mapBlk fn a f).reply = s.reply := rfl
@[simp] theorem mapBlk_bar2 (s : State) (fn : Nat) (a : Word) (f : Blk → Blk) : (s.mapBlk fn a f).bar2 = s.bar2 := rfl

/-! ## mapObj -/

@[simp] theorem mapObj_me (s : State) (id : Nat) (f : Obj → Obj) : (s.mapObj id f).me = s.me := rfl
@[simp] theorem mapObj_tasks (s : State) (id : Nat) (f : Obj → Obj) : (s.mapObj id f).tasks = s.tasks := rfl
@[simp] theorem mapObj_cur (s : State) (id : Nat) (f : Obj → Obj) : (s.mapObj id f).cur = s.cur := rfl
@[simp] theorem mapObj_agenda (s : State) (id : Nat) (f : Obj → Obj) : (s.mapObj id f).agenda = s.agenda := rfl
@[simp] theorem mapObj_later (s : State) (id : Nat) (f : Obj → Obj) : (s.mapObj id f).later = s.later := rfl
@[simp] theorem mapObj_inputs (s : State) (id : Nat) (f : Obj → Obj) : (s.mapObj id f).inputs = s.inputs := rfl
@[simp] theorem mapObj_time (s : State) (id : Nat) (f : Obj → Obj) : (s.mapObj id f).time = s.time := rfl
@[simp] theorem mapObj_free (s : State) (id : Nat) (f : Obj → Obj) : (s.mapObj id f).free = s.free := rfl
@[simp] theorem mapObj_mem (s : State) (id : Nat) (f : Obj → Obj) : (s.mapObj id f).mem = s.mem := rfl
@[simp] theorem mapObj_lines (s : State) (id : Nat) (f : Obj → Obj) : (s.mapObj id f).lines = s.lines := rfl
@[simp] theorem mapObj_tops (s : State) (id : Nat) (f : Obj → Obj) : (s.mapObj id f).tops = s.tops := rfl
@[simp] theorem mapObj_rsv (s : State) (id : Nat) (f : Obj → Obj) : (s.mapObj id f).rsv = s.rsv := rfl
@[simp] theorem mapObj_lineKeys (s : State) (id : Nat) (f : Obj → Obj) : (s.mapObj id f).lineKeys = s.lineKeys := rfl
@[simp] theorem mapObj_ecc (s : State) (id : Nat) (f : Obj → Obj) : (s.mapObj id f).ecc = s.ecc := rfl
@[simp] theorem mapObj_blks (s : State) (id : Nat) (f : Obj → Obj) : (s.mapObj id f).blks = s.blks := rfl
@[simp] theorem mapObj_groups (s : State) (id : Nat) (f : Obj → Obj) : (s.mapObj id f).groups = s.groups := rfl
@[simp] theorem mapObj_chans (s : State) (id : Nat) (f : Obj → Obj) : (s.mapObj id f).chans = s.chans := rfl
@[simp] theorem mapObj_objs (s : State) (id : Nat) (f : Obj → Obj) : (s.mapObj id f).objs = (s.objs.map fun o => if o.id == id then f o else o) := rfl
@[simp] theorem mapObj_flumes (s : State) (id : Nat) (f : Obj → Obj) : (s.mapObj id f).flumes = s.flumes := rfl
@[simp] theorem mapObj_dies (s : State) (id : Nat) (f : Obj → Obj) : (s.mapObj id f).dies = s.dies := rfl
@[simp] theorem mapObj_mills (s : State) (id : Nat) (f : Obj → Obj) : (s.mapObj id f).mills = s.mills := rfl
@[simp] theorem mapObj_tiles (s : State) (id : Nat) (f : Obj → Obj) : (s.mapObj id f).tiles = s.tiles := rfl
@[simp] theorem mapObj_fns (s : State) (id : Nat) (f : Obj → Obj) : (s.mapObj id f).fns = s.fns := rfl
@[simp] theorem mapObj_links (s : State) (id : Nat) (f : Obj → Obj) : (s.mapObj id f).links = s.links := rfl
@[simp] theorem mapObj_peers (s : State) (id : Nat) (f : Obj → Obj) : (s.mapObj id f).peers = s.peers := rfl
@[simp] theorem mapObj_shares (s : State) (id : Nat) (f : Obj → Obj) : (s.mapObj id f).shares = s.shares := rfl
@[simp] theorem mapObj_wh (s : State) (id : Nat) (f : Obj → Obj) : (s.mapObj id f).wh = s.wh := rfl
@[simp] theorem mapObj_tap (s : State) (id : Nat) (f : Obj → Obj) : (s.mapObj id f).tap = s.tap := rfl
@[simp] theorem mapObj_dtrace (s : State) (id : Nat) (f : Obj → Obj) : (s.mapObj id f).dtrace = s.dtrace := rfl
@[simp] theorem mapObj_trigSrc (s : State) (id : Nat) (f : Obj → Obj) : (s.mapObj id f).trigSrc = s.trigSrc := rfl
@[simp] theorem mapObj_pinsIn (s : State) (id : Nat) (f : Obj → Obj) : (s.mapObj id f).pinsIn = s.pinsIn := rfl
@[simp] theorem mapObj_pinsOut (s : State) (id : Nat) (f : Obj → Obj) : (s.mapObj id f).pinsOut = s.pinsOut := rfl
@[simp] theorem mapObj_reply (s : State) (id : Nat) (f : Obj → Obj) : (s.mapObj id f).reply = s.reply := rfl
@[simp] theorem mapObj_bar2 (s : State) (id : Nat) (f : Obj → Obj) : (s.mapObj id f).bar2 = s.bar2 := rfl

/-! ## mapChan -/

@[simp] theorem mapChan_me (s : State) (fn : Nat) (blk : Word) (ch : BitVec 12) (f : Chan → Chan) : (s.mapChan fn blk ch f).me = s.me := rfl
@[simp] theorem mapChan_tasks (s : State) (fn : Nat) (blk : Word) (ch : BitVec 12) (f : Chan → Chan) : (s.mapChan fn blk ch f).tasks = s.tasks := rfl
@[simp] theorem mapChan_cur (s : State) (fn : Nat) (blk : Word) (ch : BitVec 12) (f : Chan → Chan) : (s.mapChan fn blk ch f).cur = s.cur := rfl
@[simp] theorem mapChan_agenda (s : State) (fn : Nat) (blk : Word) (ch : BitVec 12) (f : Chan → Chan) : (s.mapChan fn blk ch f).agenda = s.agenda := rfl
@[simp] theorem mapChan_later (s : State) (fn : Nat) (blk : Word) (ch : BitVec 12) (f : Chan → Chan) : (s.mapChan fn blk ch f).later = s.later := rfl
@[simp] theorem mapChan_inputs (s : State) (fn : Nat) (blk : Word) (ch : BitVec 12) (f : Chan → Chan) : (s.mapChan fn blk ch f).inputs = s.inputs := rfl
@[simp] theorem mapChan_time (s : State) (fn : Nat) (blk : Word) (ch : BitVec 12) (f : Chan → Chan) : (s.mapChan fn blk ch f).time = s.time := rfl
@[simp] theorem mapChan_free (s : State) (fn : Nat) (blk : Word) (ch : BitVec 12) (f : Chan → Chan) : (s.mapChan fn blk ch f).free = s.free := rfl
@[simp] theorem mapChan_mem (s : State) (fn : Nat) (blk : Word) (ch : BitVec 12) (f : Chan → Chan) : (s.mapChan fn blk ch f).mem = s.mem := rfl
@[simp] theorem mapChan_lines (s : State) (fn : Nat) (blk : Word) (ch : BitVec 12) (f : Chan → Chan) : (s.mapChan fn blk ch f).lines = s.lines := rfl
@[simp] theorem mapChan_tops (s : State) (fn : Nat) (blk : Word) (ch : BitVec 12) (f : Chan → Chan) : (s.mapChan fn blk ch f).tops = s.tops := rfl
@[simp] theorem mapChan_rsv (s : State) (fn : Nat) (blk : Word) (ch : BitVec 12) (f : Chan → Chan) : (s.mapChan fn blk ch f).rsv = s.rsv := rfl
@[simp] theorem mapChan_lineKeys (s : State) (fn : Nat) (blk : Word) (ch : BitVec 12) (f : Chan → Chan) : (s.mapChan fn blk ch f).lineKeys = s.lineKeys := rfl
@[simp] theorem mapChan_ecc (s : State) (fn : Nat) (blk : Word) (ch : BitVec 12) (f : Chan → Chan) : (s.mapChan fn blk ch f).ecc = s.ecc := rfl
@[simp] theorem mapChan_blks (s : State) (fn : Nat) (blk : Word) (ch : BitVec 12) (f : Chan → Chan) : (s.mapChan fn blk ch f).blks = s.blks := rfl
@[simp] theorem mapChan_groups (s : State) (fn : Nat) (blk : Word) (ch : BitVec 12) (f : Chan → Chan) : (s.mapChan fn blk ch f).groups = s.groups := rfl
@[simp] theorem mapChan_chans (s : State) (fn : Nat) (blk : Word) (ch : BitVec 12) (f : Chan → Chan) : (s.mapChan fn blk ch f).chans = (s.chans.map fun c => if c.fn == fn && c.blk == blk && c.ch == ch then f c else c) := rfl
@[simp] theorem mapChan_objs (s : State) (fn : Nat) (blk : Word) (ch : BitVec 12) (f : Chan → Chan) : (s.mapChan fn blk ch f).objs = s.objs := rfl
@[simp] theorem mapChan_flumes (s : State) (fn : Nat) (blk : Word) (ch : BitVec 12) (f : Chan → Chan) : (s.mapChan fn blk ch f).flumes = s.flumes := rfl
@[simp] theorem mapChan_dies (s : State) (fn : Nat) (blk : Word) (ch : BitVec 12) (f : Chan → Chan) : (s.mapChan fn blk ch f).dies = s.dies := rfl
@[simp] theorem mapChan_mills (s : State) (fn : Nat) (blk : Word) (ch : BitVec 12) (f : Chan → Chan) : (s.mapChan fn blk ch f).mills = s.mills := rfl
@[simp] theorem mapChan_tiles (s : State) (fn : Nat) (blk : Word) (ch : BitVec 12) (f : Chan → Chan) : (s.mapChan fn blk ch f).tiles = s.tiles := rfl
@[simp] theorem mapChan_fns (s : State) (fn : Nat) (blk : Word) (ch : BitVec 12) (f : Chan → Chan) : (s.mapChan fn blk ch f).fns = s.fns := rfl
@[simp] theorem mapChan_links (s : State) (fn : Nat) (blk : Word) (ch : BitVec 12) (f : Chan → Chan) : (s.mapChan fn blk ch f).links = s.links := rfl
@[simp] theorem mapChan_peers (s : State) (fn : Nat) (blk : Word) (ch : BitVec 12) (f : Chan → Chan) : (s.mapChan fn blk ch f).peers = s.peers := rfl
@[simp] theorem mapChan_shares (s : State) (fn : Nat) (blk : Word) (ch : BitVec 12) (f : Chan → Chan) : (s.mapChan fn blk ch f).shares = s.shares := rfl
@[simp] theorem mapChan_wh (s : State) (fn : Nat) (blk : Word) (ch : BitVec 12) (f : Chan → Chan) : (s.mapChan fn blk ch f).wh = s.wh := rfl
@[simp] theorem mapChan_tap (s : State) (fn : Nat) (blk : Word) (ch : BitVec 12) (f : Chan → Chan) : (s.mapChan fn blk ch f).tap = s.tap := rfl
@[simp] theorem mapChan_dtrace (s : State) (fn : Nat) (blk : Word) (ch : BitVec 12) (f : Chan → Chan) : (s.mapChan fn blk ch f).dtrace = s.dtrace := rfl
@[simp] theorem mapChan_trigSrc (s : State) (fn : Nat) (blk : Word) (ch : BitVec 12) (f : Chan → Chan) : (s.mapChan fn blk ch f).trigSrc = s.trigSrc := rfl
@[simp] theorem mapChan_pinsIn (s : State) (fn : Nat) (blk : Word) (ch : BitVec 12) (f : Chan → Chan) : (s.mapChan fn blk ch f).pinsIn = s.pinsIn := rfl
@[simp] theorem mapChan_pinsOut (s : State) (fn : Nat) (blk : Word) (ch : BitVec 12) (f : Chan → Chan) : (s.mapChan fn blk ch f).pinsOut = s.pinsOut := rfl
@[simp] theorem mapChan_reply (s : State) (fn : Nat) (blk : Word) (ch : BitVec 12) (f : Chan → Chan) : (s.mapChan fn blk ch f).reply = s.reply := rfl
@[simp] theorem mapChan_bar2 (s : State) (fn : Nat) (blk : Word) (ch : BitVec 12) (f : Chan → Chan) : (s.mapChan fn blk ch f).bar2 = s.bar2 := rfl

/-! ## source -/

@[simp] theorem source_me (s : State) (fn die b line : Nat) : (s.source fn die b line).me = s.me := rfl
@[simp] theorem source_tasks (s : State) (fn die b line : Nat) : (s.source fn die b line).tasks = s.tasks := rfl
@[simp] theorem source_cur (s : State) (fn die b line : Nat) : (s.source fn die b line).cur = s.cur := rfl
@[simp] theorem source_agenda (s : State) (fn die b line : Nat) : (s.source fn die b line).agenda = s.agenda := rfl
@[simp] theorem source_later (s : State) (fn die b line : Nat) : (s.source fn die b line).later = s.later := rfl
@[simp] theorem source_inputs (s : State) (fn die b line : Nat) : (s.source fn die b line).inputs = s.inputs := rfl
@[simp] theorem source_time (s : State) (fn die b line : Nat) : (s.source fn die b line).time = s.time := rfl
@[simp] theorem source_free (s : State) (fn die b line : Nat) : (s.source fn die b line).free = s.free := rfl
@[simp] theorem source_mem (s : State) (fn die b line : Nat) : (s.source fn die b line).mem = s.mem := rfl
@[simp] theorem source_lines (s : State) (fn die b line : Nat) : (s.source fn die b line).lines = s.lines := rfl
@[simp] theorem source_tops (s : State) (fn die b line : Nat) : (s.source fn die b line).tops = s.tops := rfl
@[simp] theorem source_rsv (s : State) (fn die b line : Nat) : (s.source fn die b line).rsv = s.rsv := rfl
@[simp] theorem source_lineKeys (s : State) (fn die b line : Nat) : (s.source fn die b line).lineKeys = s.lineKeys := rfl
@[simp] theorem source_ecc (s : State) (fn die b line : Nat) : (s.source fn die b line).ecc = s.ecc := rfl
@[simp] theorem source_blks (s : State) (fn die b line : Nat) : (s.source fn die b line).blks = s.blks := rfl
@[simp] theorem source_groups (s : State) (fn die b line : Nat) : (s.source fn die b line).groups = s.groups := rfl
@[simp] theorem source_chans (s : State) (fn die b line : Nat) : (s.source fn die b line).chans = s.chans := rfl
@[simp] theorem source_objs (s : State) (fn die b line : Nat) : (s.source fn die b line).objs = s.objs := rfl
@[simp] theorem source_flumes (s : State) (fn die b line : Nat) : (s.source fn die b line).flumes = s.flumes := rfl
@[simp] theorem source_dies (s : State) (fn die b line : Nat) : (s.source fn die b line).dies = s.dies := rfl
@[simp] theorem source_mills (s : State) (fn die b line : Nat) : (s.source fn die b line).mills = s.mills := rfl
@[simp] theorem source_tiles (s : State) (fn die b line : Nat) : (s.source fn die b line).tiles = s.tiles := rfl
@[simp] theorem source_fns (s : State) (fn die b line : Nat) : (s.source fn die b line).fns = s.fns := rfl
@[simp] theorem source_links (s : State) (fn die b line : Nat) : (s.source fn die b line).links = s.links := rfl
@[simp] theorem source_peers (s : State) (fn die b line : Nat) : (s.source fn die b line).peers = s.peers := rfl
@[simp] theorem source_shares (s : State) (fn die b line : Nat) : (s.source fn die b line).shares = s.shares := rfl
@[simp] theorem source_wh (s : State) (fn die b line : Nat) : (s.source fn die b line).wh = s.wh := rfl
@[simp] theorem source_tap (s : State) (fn die b line : Nat) : (s.source fn die b line).tap = s.tap := rfl
@[simp] theorem source_dtrace (s : State) (fn die b line : Nat) : (s.source fn die b line).dtrace = s.dtrace := rfl
@[simp] theorem source_trigSrc (s : State) (fn die b line : Nat) : (s.source fn die b line).trigSrc = (fn, die, b, line) :: s.trigSrc := rfl
@[simp] theorem source_pinsIn (s : State) (fn die b line : Nat) : (s.source fn die b line).pinsIn = s.pinsIn := rfl
@[simp] theorem source_pinsOut (s : State) (fn die b line : Nat) : (s.source fn die b line).pinsOut = s.pinsOut := rfl
@[simp] theorem source_reply (s : State) (fn die b line : Nat) : (s.source fn die b line).reply = s.reply := rfl
@[simp] theorem source_bar2 (s : State) (fn die b line : Nat) : (s.source fn die b line).bar2 = s.bar2 := rfl

/-! ## waitOn -/

@[simp] theorem waitOn_tasks (s : State) (w : WaitOn) : (s.waitOn w).tasks = s.tasks := rfl
@[simp] theorem waitOn_cur (s : State) (w : WaitOn) : (s.waitOn w).cur = s.cur := rfl
@[simp] theorem waitOn_agenda (s : State) (w : WaitOn) : (s.waitOn w).agenda = s.agenda := rfl
@[simp] theorem waitOn_later (s : State) (w : WaitOn) : (s.waitOn w).later = s.later := rfl
@[simp] theorem waitOn_inputs (s : State) (w : WaitOn) : (s.waitOn w).inputs = s.inputs := rfl
@[simp] theorem waitOn_time (s : State) (w : WaitOn) : (s.waitOn w).time = s.time := rfl
@[simp] theorem waitOn_free (s : State) (w : WaitOn) : (s.waitOn w).free = s.free := rfl
@[simp] theorem waitOn_mem (s : State) (w : WaitOn) : (s.waitOn w).mem = s.mem := rfl
@[simp] theorem waitOn_lines (s : State) (w : WaitOn) : (s.waitOn w).lines = s.lines := rfl
@[simp] theorem waitOn_tops (s : State) (w : WaitOn) : (s.waitOn w).tops = s.tops := rfl
@[simp] theorem waitOn_rsv (s : State) (w : WaitOn) : (s.waitOn w).rsv = s.rsv := rfl
@[simp] theorem waitOn_lineKeys (s : State) (w : WaitOn) : (s.waitOn w).lineKeys = s.lineKeys := rfl
@[simp] theorem waitOn_ecc (s : State) (w : WaitOn) : (s.waitOn w).ecc = s.ecc := rfl
@[simp] theorem waitOn_blks (s : State) (w : WaitOn) : (s.waitOn w).blks = s.blks := rfl
@[simp] theorem waitOn_groups (s : State) (w : WaitOn) : (s.waitOn w).groups = s.groups := rfl
@[simp] theorem waitOn_chans (s : State) (w : WaitOn) : (s.waitOn w).chans = s.chans := rfl
@[simp] theorem waitOn_objs (s : State) (w : WaitOn) : (s.waitOn w).objs = s.objs := rfl
@[simp] theorem waitOn_flumes (s : State) (w : WaitOn) : (s.waitOn w).flumes = s.flumes := rfl
@[simp] theorem waitOn_dies (s : State) (w : WaitOn) : (s.waitOn w).dies = s.dies := rfl
@[simp] theorem waitOn_mills (s : State) (w : WaitOn) : (s.waitOn w).mills = s.mills := rfl
@[simp] theorem waitOn_tiles (s : State) (w : WaitOn) : (s.waitOn w).tiles = s.tiles := rfl
@[simp] theorem waitOn_fns (s : State) (w : WaitOn) : (s.waitOn w).fns = s.fns := rfl
@[simp] theorem waitOn_links (s : State) (w : WaitOn) : (s.waitOn w).links = s.links := rfl
@[simp] theorem waitOn_peers (s : State) (w : WaitOn) : (s.waitOn w).peers = s.peers := rfl
@[simp] theorem waitOn_shares (s : State) (w : WaitOn) : (s.waitOn w).shares = s.shares := rfl
@[simp] theorem waitOn_wh (s : State) (w : WaitOn) : (s.waitOn w).wh = s.wh := rfl
@[simp] theorem waitOn_tap (s : State) (w : WaitOn) : (s.waitOn w).tap = s.tap := rfl
@[simp] theorem waitOn_dtrace (s : State) (w : WaitOn) : (s.waitOn w).dtrace = s.dtrace := rfl
@[simp] theorem waitOn_trigSrc (s : State) (w : WaitOn) : (s.waitOn w).trigSrc = s.trigSrc := rfl
@[simp] theorem waitOn_pinsIn (s : State) (w : WaitOn) : (s.waitOn w).pinsIn = s.pinsIn := rfl
@[simp] theorem waitOn_pinsOut (s : State) (w : WaitOn) : (s.waitOn w).pinsOut = s.pinsOut := rfl
@[simp] theorem waitOn_reply (s : State) (w : WaitOn) : (s.waitOn w).reply = s.reply := rfl
@[simp] theorem waitOn_bar2 (s : State) (w : WaitOn) : (s.waitOn w).bar2 = s.bar2 := rfl

/-! ## lifeAdd -/

@[simp] theorem lifeAdd_me (s : State) (i j n : Nat) : (s.lifeAdd i j n).me = s.me := rfl
@[simp] theorem lifeAdd_tasks (s : State) (i j n : Nat) : (s.lifeAdd i j n).tasks = s.tasks := rfl
@[simp] theorem lifeAdd_cur (s : State) (i j n : Nat) : (s.lifeAdd i j n).cur = s.cur := rfl
@[simp] theorem lifeAdd_agenda (s : State) (i j n : Nat) : (s.lifeAdd i j n).agenda = s.agenda := rfl
@[simp] theorem lifeAdd_later (s : State) (i j n : Nat) : (s.lifeAdd i j n).later = s.later := rfl
@[simp] theorem lifeAdd_inputs (s : State) (i j n : Nat) : (s.lifeAdd i j n).inputs = s.inputs := rfl
@[simp] theorem lifeAdd_time (s : State) (i j n : Nat) : (s.lifeAdd i j n).time = s.time := rfl
@[simp] theorem lifeAdd_free (s : State) (i j n : Nat) : (s.lifeAdd i j n).free = s.free := rfl
@[simp] theorem lifeAdd_mem (s : State) (i j n : Nat) : (s.lifeAdd i j n).mem = s.mem := rfl
@[simp] theorem lifeAdd_lines (s : State) (i j n : Nat) : (s.lifeAdd i j n).lines = s.lines := rfl
@[simp] theorem lifeAdd_tops (s : State) (i j n : Nat) : (s.lifeAdd i j n).tops = s.tops := rfl
@[simp] theorem lifeAdd_rsv (s : State) (i j n : Nat) : (s.lifeAdd i j n).rsv = s.rsv := rfl
@[simp] theorem lifeAdd_lineKeys (s : State) (i j n : Nat) : (s.lifeAdd i j n).lineKeys = s.lineKeys := rfl
@[simp] theorem lifeAdd_ecc (s : State) (i j n : Nat) : (s.lifeAdd i j n).ecc = s.ecc := rfl
@[simp] theorem lifeAdd_blks (s : State) (i j n : Nat) : (s.lifeAdd i j n).blks = s.blks := rfl
@[simp] theorem lifeAdd_groups (s : State) (i j n : Nat) : (s.lifeAdd i j n).groups = s.groups := rfl
@[simp] theorem lifeAdd_chans (s : State) (i j n : Nat) : (s.lifeAdd i j n).chans = s.chans := rfl
@[simp] theorem lifeAdd_objs (s : State) (i j n : Nat) : (s.lifeAdd i j n).objs = s.objs := rfl
@[simp] theorem lifeAdd_flumes (s : State) (i j n : Nat) : (s.lifeAdd i j n).flumes = s.flumes := rfl
@[simp] theorem lifeAdd_dies (s : State) (i j n : Nat) : (s.lifeAdd i j n).dies = s.dies := rfl
@[simp] theorem lifeAdd_mills (s : State) (i j n : Nat) : (s.lifeAdd i j n).mills = s.mills := rfl
@[simp] theorem lifeAdd_tiles (s : State) (i j n : Nat) : (s.lifeAdd i j n).tiles = s.tiles := rfl
@[simp] theorem lifeAdd_fns (s : State) (i j n : Nat) : (s.lifeAdd i j n).fns = s.fns := rfl
@[simp] theorem lifeAdd_links (s : State) (i j n : Nat) : (s.lifeAdd i j n).links = s.links := rfl
@[simp] theorem lifeAdd_peers (s : State) (i j n : Nat) : (s.lifeAdd i j n).peers = s.peers := rfl
@[simp] theorem lifeAdd_shares (s : State) (i j n : Nat) : (s.lifeAdd i j n).shares = s.shares := rfl
@[simp] theorem lifeAdd_tap (s : State) (i j n : Nat) : (s.lifeAdd i j n).tap = s.tap := rfl
@[simp] theorem lifeAdd_dtrace (s : State) (i j n : Nat) : (s.lifeAdd i j n).dtrace = s.dtrace := rfl
@[simp] theorem lifeAdd_trigSrc (s : State) (i j n : Nat) : (s.lifeAdd i j n).trigSrc = s.trigSrc := rfl
@[simp] theorem lifeAdd_pinsIn (s : State) (i j n : Nat) : (s.lifeAdd i j n).pinsIn = s.pinsIn := rfl
@[simp] theorem lifeAdd_pinsOut (s : State) (i j n : Nat) : (s.lifeAdd i j n).pinsOut = s.pinsOut := rfl
@[simp] theorem lifeAdd_reply (s : State) (i j n : Nat) : (s.lifeAdd i j n).reply = s.reply := rfl
@[simp] theorem lifeAdd_bar2 (s : State) (i j n : Nat) : (s.lifeAdd i j n).bar2 = s.bar2 := rfl

/-! ## msix -/

@[simp] theorem msix_me (s : State) (fn v : Nat) : (s.msix fn v).me = s.me := rfl
@[simp] theorem msix_tasks (s : State) (fn v : Nat) : (s.msix fn v).tasks = s.tasks := rfl
@[simp] theorem msix_cur (s : State) (fn v : Nat) : (s.msix fn v).cur = s.cur := rfl
@[simp] theorem msix_agenda (s : State) (fn v : Nat) : (s.msix fn v).agenda = s.agenda := rfl
@[simp] theorem msix_later (s : State) (fn v : Nat) : (s.msix fn v).later = s.later := rfl
@[simp] theorem msix_inputs (s : State) (fn v : Nat) : (s.msix fn v).inputs = s.inputs := rfl
@[simp] theorem msix_time (s : State) (fn v : Nat) : (s.msix fn v).time = s.time := rfl
@[simp] theorem msix_free (s : State) (fn v : Nat) : (s.msix fn v).free = s.free := rfl
@[simp] theorem msix_mem (s : State) (fn v : Nat) : (s.msix fn v).mem = s.mem := rfl
@[simp] theorem msix_lines (s : State) (fn v : Nat) : (s.msix fn v).lines = s.lines := rfl
@[simp] theorem msix_tops (s : State) (fn v : Nat) : (s.msix fn v).tops = s.tops := rfl
@[simp] theorem msix_rsv (s : State) (fn v : Nat) : (s.msix fn v).rsv = s.rsv := rfl
@[simp] theorem msix_lineKeys (s : State) (fn v : Nat) : (s.msix fn v).lineKeys = s.lineKeys := rfl
@[simp] theorem msix_ecc (s : State) (fn v : Nat) : (s.msix fn v).ecc = s.ecc := rfl
@[simp] theorem msix_blks (s : State) (fn v : Nat) : (s.msix fn v).blks = s.blks := rfl
@[simp] theorem msix_groups (s : State) (fn v : Nat) : (s.msix fn v).groups = s.groups := rfl
@[simp] theorem msix_chans (s : State) (fn v : Nat) : (s.msix fn v).chans = s.chans := rfl
@[simp] theorem msix_objs (s : State) (fn v : Nat) : (s.msix fn v).objs = s.objs := rfl
@[simp] theorem msix_flumes (s : State) (fn v : Nat) : (s.msix fn v).flumes = s.flumes := rfl
@[simp] theorem msix_dies (s : State) (fn v : Nat) : (s.msix fn v).dies = s.dies := rfl
@[simp] theorem msix_mills (s : State) (fn v : Nat) : (s.msix fn v).mills = s.mills := rfl
@[simp] theorem msix_tiles (s : State) (fn v : Nat) : (s.msix fn v).tiles = s.tiles := rfl
@[simp] theorem msix_links (s : State) (fn v : Nat) : (s.msix fn v).links = s.links := rfl
@[simp] theorem msix_peers (s : State) (fn v : Nat) : (s.msix fn v).peers = s.peers := rfl
@[simp] theorem msix_shares (s : State) (fn v : Nat) : (s.msix fn v).shares = s.shares := rfl
@[simp] theorem msix_wh (s : State) (fn v : Nat) : (s.msix fn v).wh = s.wh := rfl
@[simp] theorem msix_tap (s : State) (fn v : Nat) : (s.msix fn v).tap = s.tap := rfl
@[simp] theorem msix_dtrace (s : State) (fn v : Nat) : (s.msix fn v).dtrace = s.dtrace := rfl
@[simp] theorem msix_trigSrc (s : State) (fn v : Nat) : (s.msix fn v).trigSrc = s.trigSrc := rfl
@[simp] theorem msix_pinsIn (s : State) (fn v : Nat) : (s.msix fn v).pinsIn = s.pinsIn := rfl
@[simp] theorem msix_pinsOut (s : State) (fn v : Nat) : (s.msix fn v).pinsOut = s.pinsOut := rfl
@[simp] theorem msix_reply (s : State) (fn v : Nat) : (s.msix fn v).reply = s.reply := rfl
@[simp] theorem msix_bar2 (s : State) (fn v : Nat) : (s.msix fn v).bar2 = s.bar2 := rfl

/-! ## mapLineage -/

@[simp] theorem mapLineage_me (s : State) (fn : Nat) (a : Word) (f : Blk → Blk) : (s.mapLineage fn a f).me = s.me := rfl
@[simp] theorem mapLineage_tasks (s : State) (fn : Nat) (a : Word) (f : Blk → Blk) : (s.mapLineage fn a f).tasks = s.tasks := rfl
@[simp] theorem mapLineage_cur (s : State) (fn : Nat) (a : Word) (f : Blk → Blk) : (s.mapLineage fn a f).cur = s.cur := rfl
@[simp] theorem mapLineage_agenda (s : State) (fn : Nat) (a : Word) (f : Blk → Blk) : (s.mapLineage fn a f).agenda = s.agenda := rfl
@[simp] theorem mapLineage_later (s : State) (fn : Nat) (a : Word) (f : Blk → Blk) : (s.mapLineage fn a f).later = s.later := rfl
@[simp] theorem mapLineage_inputs (s : State) (fn : Nat) (a : Word) (f : Blk → Blk) : (s.mapLineage fn a f).inputs = s.inputs := rfl
@[simp] theorem mapLineage_time (s : State) (fn : Nat) (a : Word) (f : Blk → Blk) : (s.mapLineage fn a f).time = s.time := rfl
@[simp] theorem mapLineage_free (s : State) (fn : Nat) (a : Word) (f : Blk → Blk) : (s.mapLineage fn a f).free = s.free := rfl
@[simp] theorem mapLineage_mem (s : State) (fn : Nat) (a : Word) (f : Blk → Blk) : (s.mapLineage fn a f).mem = s.mem := rfl
@[simp] theorem mapLineage_lines (s : State) (fn : Nat) (a : Word) (f : Blk → Blk) : (s.mapLineage fn a f).lines = s.lines := rfl
@[simp] theorem mapLineage_tops (s : State) (fn : Nat) (a : Word) (f : Blk → Blk) : (s.mapLineage fn a f).tops = s.tops := rfl
@[simp] theorem mapLineage_rsv (s : State) (fn : Nat) (a : Word) (f : Blk → Blk) : (s.mapLineage fn a f).rsv = s.rsv := rfl
@[simp] theorem mapLineage_lineKeys (s : State) (fn : Nat) (a : Word) (f : Blk → Blk) : (s.mapLineage fn a f).lineKeys = s.lineKeys := rfl
@[simp] theorem mapLineage_ecc (s : State) (fn : Nat) (a : Word) (f : Blk → Blk) : (s.mapLineage fn a f).ecc = s.ecc := rfl
@[simp] theorem mapLineage_groups (s : State) (fn : Nat) (a : Word) (f : Blk → Blk) : (s.mapLineage fn a f).groups = s.groups := rfl
@[simp] theorem mapLineage_chans (s : State) (fn : Nat) (a : Word) (f : Blk → Blk) : (s.mapLineage fn a f).chans = s.chans := rfl
@[simp] theorem mapLineage_objs (s : State) (fn : Nat) (a : Word) (f : Blk → Blk) : (s.mapLineage fn a f).objs = s.objs := rfl
@[simp] theorem mapLineage_flumes (s : State) (fn : Nat) (a : Word) (f : Blk → Blk) : (s.mapLineage fn a f).flumes = s.flumes := rfl
@[simp] theorem mapLineage_dies (s : State) (fn : Nat) (a : Word) (f : Blk → Blk) : (s.mapLineage fn a f).dies = s.dies := rfl
@[simp] theorem mapLineage_mills (s : State) (fn : Nat) (a : Word) (f : Blk → Blk) : (s.mapLineage fn a f).mills = s.mills := rfl
@[simp] theorem mapLineage_tiles (s : State) (fn : Nat) (a : Word) (f : Blk → Blk) : (s.mapLineage fn a f).tiles = s.tiles := rfl
@[simp] theorem mapLineage_fns (s : State) (fn : Nat) (a : Word) (f : Blk → Blk) : (s.mapLineage fn a f).fns = s.fns := rfl
@[simp] theorem mapLineage_links (s : State) (fn : Nat) (a : Word) (f : Blk → Blk) : (s.mapLineage fn a f).links = s.links := rfl
@[simp] theorem mapLineage_peers (s : State) (fn : Nat) (a : Word) (f : Blk → Blk) : (s.mapLineage fn a f).peers = s.peers := rfl
@[simp] theorem mapLineage_shares (s : State) (fn : Nat) (a : Word) (f : Blk → Blk) : (s.mapLineage fn a f).shares = s.shares := rfl
@[simp] theorem mapLineage_wh (s : State) (fn : Nat) (a : Word) (f : Blk → Blk) : (s.mapLineage fn a f).wh = s.wh := rfl
@[simp] theorem mapLineage_tap (s : State) (fn : Nat) (a : Word) (f : Blk → Blk) : (s.mapLineage fn a f).tap = s.tap := rfl
@[simp] theorem mapLineage_dtrace (s : State) (fn : Nat) (a : Word) (f : Blk → Blk) : (s.mapLineage fn a f).dtrace = s.dtrace := rfl
@[simp] theorem mapLineage_trigSrc (s : State) (fn : Nat) (a : Word) (f : Blk → Blk) : (s.mapLineage fn a f).trigSrc = s.trigSrc := rfl
@[simp] theorem mapLineage_pinsIn (s : State) (fn : Nat) (a : Word) (f : Blk → Blk) : (s.mapLineage fn a f).pinsIn = s.pinsIn := rfl
@[simp] theorem mapLineage_pinsOut (s : State) (fn : Nat) (a : Word) (f : Blk → Blk) : (s.mapLineage fn a f).pinsOut = s.pinsOut := rfl
@[simp] theorem mapLineage_reply (s : State) (fn : Nat) (a : Word) (f : Blk → Blk) : (s.mapLineage fn a f).reply = s.reply := rfl
@[simp] theorem mapLineage_bar2 (s : State) (fn : Nat) (a : Word) (f : Blk → Blk) : (s.mapLineage fn a f).bar2 = s.bar2 := rfl

/-! ## spillCharge -/

@[simp] theorem spillCharge_me (s : State) (fn : Nat) (b : Word) (n : Nat) : (s.spillCharge fn b n).me = s.me := rfl
@[simp] theorem spillCharge_tasks (s : State) (fn : Nat) (b : Word) (n : Nat) : (s.spillCharge fn b n).tasks = s.tasks := rfl
@[simp] theorem spillCharge_cur (s : State) (fn : Nat) (b : Word) (n : Nat) : (s.spillCharge fn b n).cur = s.cur := rfl
@[simp] theorem spillCharge_agenda (s : State) (fn : Nat) (b : Word) (n : Nat) : (s.spillCharge fn b n).agenda = s.agenda := rfl
@[simp] theorem spillCharge_later (s : State) (fn : Nat) (b : Word) (n : Nat) : (s.spillCharge fn b n).later = s.later := rfl
@[simp] theorem spillCharge_inputs (s : State) (fn : Nat) (b : Word) (n : Nat) : (s.spillCharge fn b n).inputs = s.inputs := rfl
@[simp] theorem spillCharge_time (s : State) (fn : Nat) (b : Word) (n : Nat) : (s.spillCharge fn b n).time = s.time := rfl
@[simp] theorem spillCharge_free (s : State) (fn : Nat) (b : Word) (n : Nat) : (s.spillCharge fn b n).free = s.free := rfl
@[simp] theorem spillCharge_mem (s : State) (fn : Nat) (b : Word) (n : Nat) : (s.spillCharge fn b n).mem = s.mem := rfl
@[simp] theorem spillCharge_lines (s : State) (fn : Nat) (b : Word) (n : Nat) : (s.spillCharge fn b n).lines = s.lines := rfl
@[simp] theorem spillCharge_tops (s : State) (fn : Nat) (b : Word) (n : Nat) : (s.spillCharge fn b n).tops = s.tops := rfl
@[simp] theorem spillCharge_rsv (s : State) (fn : Nat) (b : Word) (n : Nat) : (s.spillCharge fn b n).rsv = s.rsv := rfl
@[simp] theorem spillCharge_lineKeys (s : State) (fn : Nat) (b : Word) (n : Nat) : (s.spillCharge fn b n).lineKeys = s.lineKeys := rfl
@[simp] theorem spillCharge_ecc (s : State) (fn : Nat) (b : Word) (n : Nat) : (s.spillCharge fn b n).ecc = s.ecc := rfl
@[simp] theorem spillCharge_groups (s : State) (fn : Nat) (b : Word) (n : Nat) : (s.spillCharge fn b n).groups = s.groups := rfl
@[simp] theorem spillCharge_chans (s : State) (fn : Nat) (b : Word) (n : Nat) : (s.spillCharge fn b n).chans = s.chans := rfl
@[simp] theorem spillCharge_objs (s : State) (fn : Nat) (b : Word) (n : Nat) : (s.spillCharge fn b n).objs = s.objs := rfl
@[simp] theorem spillCharge_flumes (s : State) (fn : Nat) (b : Word) (n : Nat) : (s.spillCharge fn b n).flumes = s.flumes := rfl
@[simp] theorem spillCharge_dies (s : State) (fn : Nat) (b : Word) (n : Nat) : (s.spillCharge fn b n).dies = s.dies := rfl
@[simp] theorem spillCharge_mills (s : State) (fn : Nat) (b : Word) (n : Nat) : (s.spillCharge fn b n).mills = s.mills := rfl
@[simp] theorem spillCharge_tiles (s : State) (fn : Nat) (b : Word) (n : Nat) : (s.spillCharge fn b n).tiles = s.tiles := rfl
@[simp] theorem spillCharge_fns (s : State) (fn : Nat) (b : Word) (n : Nat) : (s.spillCharge fn b n).fns = s.fns := rfl
@[simp] theorem spillCharge_links (s : State) (fn : Nat) (b : Word) (n : Nat) : (s.spillCharge fn b n).links = s.links := rfl
@[simp] theorem spillCharge_peers (s : State) (fn : Nat) (b : Word) (n : Nat) : (s.spillCharge fn b n).peers = s.peers := rfl
@[simp] theorem spillCharge_shares (s : State) (fn : Nat) (b : Word) (n : Nat) : (s.spillCharge fn b n).shares = s.shares := rfl
@[simp] theorem spillCharge_wh (s : State) (fn : Nat) (b : Word) (n : Nat) : (s.spillCharge fn b n).wh = s.wh := rfl
@[simp] theorem spillCharge_tap (s : State) (fn : Nat) (b : Word) (n : Nat) : (s.spillCharge fn b n).tap = s.tap := rfl
@[simp] theorem spillCharge_dtrace (s : State) (fn : Nat) (b : Word) (n : Nat) : (s.spillCharge fn b n).dtrace = s.dtrace := rfl
@[simp] theorem spillCharge_trigSrc (s : State) (fn : Nat) (b : Word) (n : Nat) : (s.spillCharge fn b n).trigSrc = s.trigSrc := rfl
@[simp] theorem spillCharge_pinsIn (s : State) (fn : Nat) (b : Word) (n : Nat) : (s.spillCharge fn b n).pinsIn = s.pinsIn := rfl
@[simp] theorem spillCharge_pinsOut (s : State) (fn : Nat) (b : Word) (n : Nat) : (s.spillCharge fn b n).pinsOut = s.pinsOut := rfl
@[simp] theorem spillCharge_reply (s : State) (fn : Nat) (b : Word) (n : Nat) : (s.spillCharge fn b n).reply = s.reply := rfl
@[simp] theorem spillCharge_bar2 (s : State) (fn : Nat) (b : Word) (n : Nat) : (s.spillCharge fn b n).bar2 = s.bar2 := rfl

/-! ## spillReturn -/

@[simp] theorem spillReturn_me (s : State) (fn : Nat) (b : Word) (n : Nat) : (s.spillReturn fn b n).me = s.me := rfl
@[simp] theorem spillReturn_tasks (s : State) (fn : Nat) (b : Word) (n : Nat) : (s.spillReturn fn b n).tasks = s.tasks := rfl
@[simp] theorem spillReturn_cur (s : State) (fn : Nat) (b : Word) (n : Nat) : (s.spillReturn fn b n).cur = s.cur := rfl
@[simp] theorem spillReturn_agenda (s : State) (fn : Nat) (b : Word) (n : Nat) : (s.spillReturn fn b n).agenda = s.agenda := rfl
@[simp] theorem spillReturn_later (s : State) (fn : Nat) (b : Word) (n : Nat) : (s.spillReturn fn b n).later = s.later := rfl
@[simp] theorem spillReturn_inputs (s : State) (fn : Nat) (b : Word) (n : Nat) : (s.spillReturn fn b n).inputs = s.inputs := rfl
@[simp] theorem spillReturn_time (s : State) (fn : Nat) (b : Word) (n : Nat) : (s.spillReturn fn b n).time = s.time := rfl
@[simp] theorem spillReturn_free (s : State) (fn : Nat) (b : Word) (n : Nat) : (s.spillReturn fn b n).free = s.free := rfl
@[simp] theorem spillReturn_mem (s : State) (fn : Nat) (b : Word) (n : Nat) : (s.spillReturn fn b n).mem = s.mem := rfl
@[simp] theorem spillReturn_lines (s : State) (fn : Nat) (b : Word) (n : Nat) : (s.spillReturn fn b n).lines = s.lines := rfl
@[simp] theorem spillReturn_tops (s : State) (fn : Nat) (b : Word) (n : Nat) : (s.spillReturn fn b n).tops = s.tops := rfl
@[simp] theorem spillReturn_rsv (s : State) (fn : Nat) (b : Word) (n : Nat) : (s.spillReturn fn b n).rsv = s.rsv := rfl
@[simp] theorem spillReturn_lineKeys (s : State) (fn : Nat) (b : Word) (n : Nat) : (s.spillReturn fn b n).lineKeys = s.lineKeys := rfl
@[simp] theorem spillReturn_ecc (s : State) (fn : Nat) (b : Word) (n : Nat) : (s.spillReturn fn b n).ecc = s.ecc := rfl
@[simp] theorem spillReturn_groups (s : State) (fn : Nat) (b : Word) (n : Nat) : (s.spillReturn fn b n).groups = s.groups := rfl
@[simp] theorem spillReturn_chans (s : State) (fn : Nat) (b : Word) (n : Nat) : (s.spillReturn fn b n).chans = s.chans := rfl
@[simp] theorem spillReturn_objs (s : State) (fn : Nat) (b : Word) (n : Nat) : (s.spillReturn fn b n).objs = s.objs := rfl
@[simp] theorem spillReturn_flumes (s : State) (fn : Nat) (b : Word) (n : Nat) : (s.spillReturn fn b n).flumes = s.flumes := rfl
@[simp] theorem spillReturn_dies (s : State) (fn : Nat) (b : Word) (n : Nat) : (s.spillReturn fn b n).dies = s.dies := rfl
@[simp] theorem spillReturn_mills (s : State) (fn : Nat) (b : Word) (n : Nat) : (s.spillReturn fn b n).mills = s.mills := rfl
@[simp] theorem spillReturn_tiles (s : State) (fn : Nat) (b : Word) (n : Nat) : (s.spillReturn fn b n).tiles = s.tiles := rfl
@[simp] theorem spillReturn_fns (s : State) (fn : Nat) (b : Word) (n : Nat) : (s.spillReturn fn b n).fns = s.fns := rfl
@[simp] theorem spillReturn_links (s : State) (fn : Nat) (b : Word) (n : Nat) : (s.spillReturn fn b n).links = s.links := rfl
@[simp] theorem spillReturn_peers (s : State) (fn : Nat) (b : Word) (n : Nat) : (s.spillReturn fn b n).peers = s.peers := rfl
@[simp] theorem spillReturn_shares (s : State) (fn : Nat) (b : Word) (n : Nat) : (s.spillReturn fn b n).shares = s.shares := rfl
@[simp] theorem spillReturn_wh (s : State) (fn : Nat) (b : Word) (n : Nat) : (s.spillReturn fn b n).wh = s.wh := rfl
@[simp] theorem spillReturn_tap (s : State) (fn : Nat) (b : Word) (n : Nat) : (s.spillReturn fn b n).tap = s.tap := rfl
@[simp] theorem spillReturn_dtrace (s : State) (fn : Nat) (b : Word) (n : Nat) : (s.spillReturn fn b n).dtrace = s.dtrace := rfl
@[simp] theorem spillReturn_trigSrc (s : State) (fn : Nat) (b : Word) (n : Nat) : (s.spillReturn fn b n).trigSrc = s.trigSrc := rfl
@[simp] theorem spillReturn_pinsIn (s : State) (fn : Nat) (b : Word) (n : Nat) : (s.spillReturn fn b n).pinsIn = s.pinsIn := rfl
@[simp] theorem spillReturn_pinsOut (s : State) (fn : Nat) (b : Word) (n : Nat) : (s.spillReturn fn b n).pinsOut = s.pinsOut := rfl
@[simp] theorem spillReturn_reply (s : State) (fn : Nat) (b : Word) (n : Nat) : (s.spillReturn fn b n).reply = s.reply := rfl
@[simp] theorem spillReturn_bar2 (s : State) (fn : Nat) (b : Word) (n : Nat) : (s.spillReturn fn b n).bar2 = s.bar2 := rfl

/-! ## took -/

@[simp] theorem took_me (s : State) : s.took.me = { s.me with ctx := { s.me.ctx with lastIssue := s.time } } := rfl
@[simp] theorem took_tasks (s : State) : s.took.tasks = s.tasks := rfl
@[simp] theorem took_cur (s : State) : s.took.cur = s.cur := rfl
@[simp] theorem took_agenda (s : State) : s.took.agenda = s.agenda := rfl
@[simp] theorem took_later (s : State) : s.took.later = s.later := rfl
@[simp] theorem took_inputs (s : State) : s.took.inputs = s.inputs := rfl
@[simp] theorem took_time (s : State) : s.took.time = s.time := rfl
@[simp] theorem took_free (s : State) : s.took.free = s.free := rfl
@[simp] theorem took_mem (s : State) : s.took.mem = s.mem := rfl
@[simp] theorem took_lines (s : State) : s.took.lines = s.lines := rfl
@[simp] theorem took_tops (s : State) : s.took.tops = s.tops := rfl
@[simp] theorem took_rsv (s : State) : s.took.rsv = s.rsv := rfl
@[simp] theorem took_lineKeys (s : State) : s.took.lineKeys = s.lineKeys := rfl
@[simp] theorem took_ecc (s : State) : s.took.ecc = s.ecc := rfl
@[simp] theorem took_blks (s : State) : s.took.blks = s.blks := rfl
@[simp] theorem took_groups (s : State) : s.took.groups = s.groups := rfl
@[simp] theorem took_chans (s : State) : s.took.chans = s.chans := rfl
@[simp] theorem took_objs (s : State) : s.took.objs = s.objs := rfl
@[simp] theorem took_flumes (s : State) : s.took.flumes = s.flumes := rfl
@[simp] theorem took_dies (s : State) : s.took.dies = s.dies := rfl
@[simp] theorem took_tiles (s : State) : s.took.tiles = s.tiles := rfl
@[simp] theorem took_fns (s : State) : s.took.fns = s.fns := rfl
@[simp] theorem took_links (s : State) : s.took.links = s.links := rfl
@[simp] theorem took_peers (s : State) : s.took.peers = s.peers := rfl
@[simp] theorem took_shares (s : State) : s.took.shares = s.shares := rfl
@[simp] theorem took_wh (s : State) : s.took.wh = s.wh := rfl
@[simp] theorem took_tap (s : State) : s.took.tap = s.tap := rfl
@[simp] theorem took_dtrace (s : State) : s.took.dtrace = s.dtrace := rfl
@[simp] theorem took_trigSrc (s : State) : s.took.trigSrc = s.trigSrc := rfl
@[simp] theorem took_pinsIn (s : State) : s.took.pinsIn = s.pinsIn := rfl
@[simp] theorem took_pinsOut (s : State) : s.took.pinsOut = s.pinsOut := rfl
@[simp] theorem took_reply (s : State) : s.took.reply = s.reply := rfl
@[simp] theorem took_bar2 (s : State) : s.took.bar2 = s.bar2 := rfl

/-! ## noteTime -/

@[simp] theorem noteTime_me (s : State) (fn t : Nat) : (s.noteTime fn t).me = s.me := rfl
@[simp] theorem noteTime_tasks (s : State) (fn t : Nat) : (s.noteTime fn t).tasks = s.tasks := rfl
@[simp] theorem noteTime_cur (s : State) (fn t : Nat) : (s.noteTime fn t).cur = s.cur := rfl
@[simp] theorem noteTime_agenda (s : State) (fn t : Nat) : (s.noteTime fn t).agenda = s.agenda := rfl
@[simp] theorem noteTime_later (s : State) (fn t : Nat) : (s.noteTime fn t).later = s.later := rfl
@[simp] theorem noteTime_inputs (s : State) (fn t : Nat) : (s.noteTime fn t).inputs = s.inputs := rfl
@[simp] theorem noteTime_time (s : State) (fn t : Nat) : (s.noteTime fn t).time = s.time := rfl
@[simp] theorem noteTime_free (s : State) (fn t : Nat) : (s.noteTime fn t).free = s.free := rfl
@[simp] theorem noteTime_mem (s : State) (fn t : Nat) : (s.noteTime fn t).mem = s.mem := rfl
@[simp] theorem noteTime_lines (s : State) (fn t : Nat) : (s.noteTime fn t).lines = s.lines := rfl
@[simp] theorem noteTime_tops (s : State) (fn t : Nat) : (s.noteTime fn t).tops = aset s.tops fn (max t (aget 0 s.tops fn)) := rfl
@[simp] theorem noteTime_rsv (s : State) (fn t : Nat) : (s.noteTime fn t).rsv = s.rsv := rfl
@[simp] theorem noteTime_lineKeys (s : State) (fn t : Nat) : (s.noteTime fn t).lineKeys = s.lineKeys := rfl
@[simp] theorem noteTime_ecc (s : State) (fn t : Nat) : (s.noteTime fn t).ecc = s.ecc := rfl
@[simp] theorem noteTime_blks (s : State) (fn t : Nat) : (s.noteTime fn t).blks = s.blks := rfl
@[simp] theorem noteTime_groups (s : State) (fn t : Nat) : (s.noteTime fn t).groups = s.groups := rfl
@[simp] theorem noteTime_chans (s : State) (fn t : Nat) : (s.noteTime fn t).chans = s.chans := rfl
@[simp] theorem noteTime_objs (s : State) (fn t : Nat) : (s.noteTime fn t).objs = s.objs := rfl
@[simp] theorem noteTime_flumes (s : State) (fn t : Nat) : (s.noteTime fn t).flumes = s.flumes := rfl
@[simp] theorem noteTime_dies (s : State) (fn t : Nat) : (s.noteTime fn t).dies = s.dies := rfl
@[simp] theorem noteTime_mills (s : State) (fn t : Nat) : (s.noteTime fn t).mills = s.mills := rfl
@[simp] theorem noteTime_tiles (s : State) (fn t : Nat) : (s.noteTime fn t).tiles = s.tiles := rfl
@[simp] theorem noteTime_fns (s : State) (fn t : Nat) : (s.noteTime fn t).fns = s.fns := rfl
@[simp] theorem noteTime_links (s : State) (fn t : Nat) : (s.noteTime fn t).links = s.links := rfl
@[simp] theorem noteTime_peers (s : State) (fn t : Nat) : (s.noteTime fn t).peers = s.peers := rfl
@[simp] theorem noteTime_shares (s : State) (fn t : Nat) : (s.noteTime fn t).shares = s.shares := rfl
@[simp] theorem noteTime_wh (s : State) (fn t : Nat) : (s.noteTime fn t).wh = s.wh := rfl
@[simp] theorem noteTime_tap (s : State) (fn t : Nat) : (s.noteTime fn t).tap = s.tap := rfl
@[simp] theorem noteTime_dtrace (s : State) (fn t : Nat) : (s.noteTime fn t).dtrace = s.dtrace := rfl
@[simp] theorem noteTime_trigSrc (s : State) (fn t : Nat) : (s.noteTime fn t).trigSrc = s.trigSrc := rfl
@[simp] theorem noteTime_pinsIn (s : State) (fn t : Nat) : (s.noteTime fn t).pinsIn = s.pinsIn := rfl
@[simp] theorem noteTime_pinsOut (s : State) (fn t : Nat) : (s.noteTime fn t).pinsOut = s.pinsOut := rfl
@[simp] theorem noteTime_reply (s : State) (fn t : Nat) : (s.noteTime fn t).reply = s.reply := rfl
@[simp] theorem noteTime_bar2 (s : State) (fn t : Nat) : (s.noteTime fn t).bar2 = s.bar2 := rfl

/-! ## rsvDrop -/

@[simp] theorem rsvDrop_me (s : State) (p : RsvLine → Bool) : (s.rsvDrop p).me = s.me := rfl
@[simp] theorem rsvDrop_tasks (s : State) (p : RsvLine → Bool) : (s.rsvDrop p).tasks = s.tasks := rfl
@[simp] theorem rsvDrop_cur (s : State) (p : RsvLine → Bool) : (s.rsvDrop p).cur = s.cur := rfl
@[simp] theorem rsvDrop_agenda (s : State) (p : RsvLine → Bool) : (s.rsvDrop p).agenda = s.agenda := rfl
@[simp] theorem rsvDrop_later (s : State) (p : RsvLine → Bool) : (s.rsvDrop p).later = s.later := rfl
@[simp] theorem rsvDrop_inputs (s : State) (p : RsvLine → Bool) : (s.rsvDrop p).inputs = s.inputs := rfl
@[simp] theorem rsvDrop_time (s : State) (p : RsvLine → Bool) : (s.rsvDrop p).time = s.time := rfl
@[simp] theorem rsvDrop_free (s : State) (p : RsvLine → Bool) : (s.rsvDrop p).free = s.free := rfl
@[simp] theorem rsvDrop_mem (s : State) (p : RsvLine → Bool) : (s.rsvDrop p).mem = s.mem := rfl
@[simp] theorem rsvDrop_lines (s : State) (p : RsvLine → Bool) : (s.rsvDrop p).lines = s.lines := rfl
@[simp] theorem rsvDrop_tops (s : State) (p : RsvLine → Bool) : (s.rsvDrop p).tops = s.tops := rfl
@[simp] theorem rsvDrop_rsv (s : State) (p : RsvLine → Bool) : (s.rsvDrop p).rsv = (s.rsv.map fun x => (x.1, x.2.filter fun l => !p l)) := rfl
@[simp] theorem rsvDrop_lineKeys (s : State) (p : RsvLine → Bool) : (s.rsvDrop p).lineKeys = s.lineKeys := rfl
@[simp] theorem rsvDrop_ecc (s : State) (p : RsvLine → Bool) : (s.rsvDrop p).ecc = s.ecc := rfl
@[simp] theorem rsvDrop_blks (s : State) (p : RsvLine → Bool) : (s.rsvDrop p).blks = s.blks := rfl
@[simp] theorem rsvDrop_groups (s : State) (p : RsvLine → Bool) : (s.rsvDrop p).groups = s.groups := rfl
@[simp] theorem rsvDrop_chans (s : State) (p : RsvLine → Bool) : (s.rsvDrop p).chans = s.chans := rfl
@[simp] theorem rsvDrop_objs (s : State) (p : RsvLine → Bool) : (s.rsvDrop p).objs = s.objs := rfl
@[simp] theorem rsvDrop_flumes (s : State) (p : RsvLine → Bool) : (s.rsvDrop p).flumes = s.flumes := rfl
@[simp] theorem rsvDrop_dies (s : State) (p : RsvLine → Bool) : (s.rsvDrop p).dies = s.dies := rfl
@[simp] theorem rsvDrop_mills (s : State) (p : RsvLine → Bool) : (s.rsvDrop p).mills = s.mills := rfl
@[simp] theorem rsvDrop_tiles (s : State) (p : RsvLine → Bool) : (s.rsvDrop p).tiles = s.tiles := rfl
@[simp] theorem rsvDrop_fns (s : State) (p : RsvLine → Bool) : (s.rsvDrop p).fns = s.fns := rfl
@[simp] theorem rsvDrop_links (s : State) (p : RsvLine → Bool) : (s.rsvDrop p).links = s.links := rfl
@[simp] theorem rsvDrop_peers (s : State) (p : RsvLine → Bool) : (s.rsvDrop p).peers = s.peers := rfl
@[simp] theorem rsvDrop_shares (s : State) (p : RsvLine → Bool) : (s.rsvDrop p).shares = s.shares := rfl
@[simp] theorem rsvDrop_wh (s : State) (p : RsvLine → Bool) : (s.rsvDrop p).wh = s.wh := rfl
@[simp] theorem rsvDrop_tap (s : State) (p : RsvLine → Bool) : (s.rsvDrop p).tap = s.tap := rfl
@[simp] theorem rsvDrop_dtrace (s : State) (p : RsvLine → Bool) : (s.rsvDrop p).dtrace = s.dtrace := rfl
@[simp] theorem rsvDrop_trigSrc (s : State) (p : RsvLine → Bool) : (s.rsvDrop p).trigSrc = s.trigSrc := rfl
@[simp] theorem rsvDrop_pinsIn (s : State) (p : RsvLine → Bool) : (s.rsvDrop p).pinsIn = s.pinsIn := rfl
@[simp] theorem rsvDrop_pinsOut (s : State) (p : RsvLine → Bool) : (s.rsvDrop p).pinsOut = s.pinsOut := rfl
@[simp] theorem rsvDrop_reply (s : State) (p : RsvLine → Bool) : (s.rsvDrop p).reply = s.reply := rfl
@[simp] theorem rsvDrop_bar2 (s : State) (p : RsvLine → Bool) : (s.rsvDrop p).bar2 = s.bar2 := rfl

/-! ## preemptLater -/

@[simp] theorem preemptLater_me (s : State) (t : TaskId) : (s.preemptLater t).me = s.me := rfl
@[simp] theorem preemptLater_tasks (s : State) (t : TaskId) : (s.preemptLater t).tasks = s.tasks := rfl
@[simp] theorem preemptLater_cur (s : State) (t : TaskId) : (s.preemptLater t).cur = s.cur := rfl
@[simp] theorem preemptLater_agenda (s : State) (t : TaskId) : (s.preemptLater t).agenda = s.agenda := rfl
@[simp] theorem preemptLater_later (s : State) (t : TaskId) : (s.preemptLater t).later = s.later ++ [[.ev t 0 0 .preempt .none]] := rfl
@[simp] theorem preemptLater_inputs (s : State) (t : TaskId) : (s.preemptLater t).inputs = s.inputs := rfl
@[simp] theorem preemptLater_time (s : State) (t : TaskId) : (s.preemptLater t).time = s.time := rfl
@[simp] theorem preemptLater_free (s : State) (t : TaskId) : (s.preemptLater t).free = s.free := rfl
@[simp] theorem preemptLater_mem (s : State) (t : TaskId) : (s.preemptLater t).mem = s.mem := rfl
@[simp] theorem preemptLater_lines (s : State) (t : TaskId) : (s.preemptLater t).lines = s.lines := rfl
@[simp] theorem preemptLater_tops (s : State) (t : TaskId) : (s.preemptLater t).tops = s.tops := rfl
@[simp] theorem preemptLater_rsv (s : State) (t : TaskId) : (s.preemptLater t).rsv = s.rsv := rfl
@[simp] theorem preemptLater_lineKeys (s : State) (t : TaskId) : (s.preemptLater t).lineKeys = s.lineKeys := rfl
@[simp] theorem preemptLater_ecc (s : State) (t : TaskId) : (s.preemptLater t).ecc = s.ecc := rfl
@[simp] theorem preemptLater_blks (s : State) (t : TaskId) : (s.preemptLater t).blks = s.blks := rfl
@[simp] theorem preemptLater_groups (s : State) (t : TaskId) : (s.preemptLater t).groups = s.groups := rfl
@[simp] theorem preemptLater_chans (s : State) (t : TaskId) : (s.preemptLater t).chans = s.chans := rfl
@[simp] theorem preemptLater_objs (s : State) (t : TaskId) : (s.preemptLater t).objs = s.objs := rfl
@[simp] theorem preemptLater_flumes (s : State) (t : TaskId) : (s.preemptLater t).flumes = s.flumes := rfl
@[simp] theorem preemptLater_dies (s : State) (t : TaskId) : (s.preemptLater t).dies = s.dies := rfl
@[simp] theorem preemptLater_mills (s : State) (t : TaskId) : (s.preemptLater t).mills = s.mills := rfl
@[simp] theorem preemptLater_tiles (s : State) (t : TaskId) : (s.preemptLater t).tiles = s.tiles := rfl
@[simp] theorem preemptLater_fns (s : State) (t : TaskId) : (s.preemptLater t).fns = s.fns := rfl
@[simp] theorem preemptLater_links (s : State) (t : TaskId) : (s.preemptLater t).links = s.links := rfl
@[simp] theorem preemptLater_peers (s : State) (t : TaskId) : (s.preemptLater t).peers = s.peers := rfl
@[simp] theorem preemptLater_shares (s : State) (t : TaskId) : (s.preemptLater t).shares = s.shares := rfl
@[simp] theorem preemptLater_wh (s : State) (t : TaskId) : (s.preemptLater t).wh = s.wh := rfl
@[simp] theorem preemptLater_tap (s : State) (t : TaskId) : (s.preemptLater t).tap = s.tap := rfl
@[simp] theorem preemptLater_dtrace (s : State) (t : TaskId) : (s.preemptLater t).dtrace = s.dtrace := rfl
@[simp] theorem preemptLater_trigSrc (s : State) (t : TaskId) : (s.preemptLater t).trigSrc = s.trigSrc := rfl
@[simp] theorem preemptLater_pinsIn (s : State) (t : TaskId) : (s.preemptLater t).pinsIn = s.pinsIn := rfl
@[simp] theorem preemptLater_pinsOut (s : State) (t : TaskId) : (s.preemptLater t).pinsOut = s.pinsOut := rfl
@[simp] theorem preemptLater_reply (s : State) (t : TaskId) : (s.preemptLater t).reply = s.reply := rfl
@[simp] theorem preemptLater_bar2 (s : State) (t : TaskId) : (s.preemptLater t).bar2 = s.bar2 := rfl

/-! ## aim -/

@[simp] theorem aim_me (s : State) (q : BitVec 32) (e : Nat) (a : EvArg) : (s.aim q e a).me = s.me := rfl
@[simp] theorem aim_tasks (s : State) (q : BitVec 32) (e : Nat) (a : EvArg) : (s.aim q e a).tasks = s.tasks := rfl
@[simp] theorem aim_agenda (s : State) (q : BitVec 32) (e : Nat) (a : EvArg) : (s.aim q e a).agenda = s.agenda := rfl
@[simp] theorem aim_later (s : State) (q : BitVec 32) (e : Nat) (a : EvArg) : (s.aim q e a).later = s.later := rfl
@[simp] theorem aim_inputs (s : State) (q : BitVec 32) (e : Nat) (a : EvArg) : (s.aim q e a).inputs = s.inputs := rfl
@[simp] theorem aim_time (s : State) (q : BitVec 32) (e : Nat) (a : EvArg) : (s.aim q e a).time = s.time := rfl
@[simp] theorem aim_free (s : State) (q : BitVec 32) (e : Nat) (a : EvArg) : (s.aim q e a).free = s.free := rfl
@[simp] theorem aim_mem (s : State) (q : BitVec 32) (e : Nat) (a : EvArg) : (s.aim q e a).mem = s.mem := rfl
@[simp] theorem aim_lines (s : State) (q : BitVec 32) (e : Nat) (a : EvArg) : (s.aim q e a).lines = s.lines := rfl
@[simp] theorem aim_tops (s : State) (q : BitVec 32) (e : Nat) (a : EvArg) : (s.aim q e a).tops = s.tops := rfl
@[simp] theorem aim_rsv (s : State) (q : BitVec 32) (e : Nat) (a : EvArg) : (s.aim q e a).rsv = s.rsv := rfl
@[simp] theorem aim_lineKeys (s : State) (q : BitVec 32) (e : Nat) (a : EvArg) : (s.aim q e a).lineKeys = s.lineKeys := rfl
@[simp] theorem aim_ecc (s : State) (q : BitVec 32) (e : Nat) (a : EvArg) : (s.aim q e a).ecc = s.ecc := rfl
@[simp] theorem aim_blks (s : State) (q : BitVec 32) (e : Nat) (a : EvArg) : (s.aim q e a).blks = s.blks := rfl
@[simp] theorem aim_groups (s : State) (q : BitVec 32) (e : Nat) (a : EvArg) : (s.aim q e a).groups = s.groups := rfl
@[simp] theorem aim_chans (s : State) (q : BitVec 32) (e : Nat) (a : EvArg) : (s.aim q e a).chans = s.chans := rfl
@[simp] theorem aim_objs (s : State) (q : BitVec 32) (e : Nat) (a : EvArg) : (s.aim q e a).objs = s.objs := rfl
@[simp] theorem aim_flumes (s : State) (q : BitVec 32) (e : Nat) (a : EvArg) : (s.aim q e a).flumes = s.flumes := rfl
@[simp] theorem aim_dies (s : State) (q : BitVec 32) (e : Nat) (a : EvArg) : (s.aim q e a).dies = s.dies := rfl
@[simp] theorem aim_mills (s : State) (q : BitVec 32) (e : Nat) (a : EvArg) : (s.aim q e a).mills = s.mills := rfl
@[simp] theorem aim_tiles (s : State) (q : BitVec 32) (e : Nat) (a : EvArg) : (s.aim q e a).tiles = s.tiles := rfl
@[simp] theorem aim_fns (s : State) (q : BitVec 32) (e : Nat) (a : EvArg) : (s.aim q e a).fns = s.fns := rfl
@[simp] theorem aim_links (s : State) (q : BitVec 32) (e : Nat) (a : EvArg) : (s.aim q e a).links = s.links := rfl
@[simp] theorem aim_peers (s : State) (q : BitVec 32) (e : Nat) (a : EvArg) : (s.aim q e a).peers = s.peers := rfl
@[simp] theorem aim_shares (s : State) (q : BitVec 32) (e : Nat) (a : EvArg) : (s.aim q e a).shares = s.shares := rfl
@[simp] theorem aim_wh (s : State) (q : BitVec 32) (e : Nat) (a : EvArg) : (s.aim q e a).wh = s.wh := rfl
@[simp] theorem aim_tap (s : State) (q : BitVec 32) (e : Nat) (a : EvArg) : (s.aim q e a).tap = s.tap := rfl
@[simp] theorem aim_dtrace (s : State) (q : BitVec 32) (e : Nat) (a : EvArg) : (s.aim q e a).dtrace = s.dtrace := rfl
@[simp] theorem aim_trigSrc (s : State) (q : BitVec 32) (e : Nat) (a : EvArg) : (s.aim q e a).trigSrc = s.trigSrc := rfl
@[simp] theorem aim_pinsIn (s : State) (q : BitVec 32) (e : Nat) (a : EvArg) : (s.aim q e a).pinsIn = s.pinsIn := rfl
@[simp] theorem aim_pinsOut (s : State) (q : BitVec 32) (e : Nat) (a : EvArg) : (s.aim q e a).pinsOut = s.pinsOut := rfl
@[simp] theorem aim_reply (s : State) (q : BitVec 32) (e : Nat) (a : EvArg) : (s.aim q e a).reply = s.reply := rfl
@[simp] theorem aim_bar2 (s : State) (q : BitVec 32) (e : Nat) (a : EvArg) : (s.aim q e a).bar2 = s.bar2 := rfl

/-! ## Tables -/

/-- Reading the key just written. -/
@[simp] theorem aget_aset {α : Type} (d x : α) (l : List (Nat × α)) (i : Nat) : aget d (aset l i x) i = x := by
  induction l with
  | nil => simp [aset, aget]
  | cons c l ih =>
    obtain ⟨k, v⟩ := c
    by_cases h : k = i
    · simp [aset, aget, h]
    · simp [aset, aget, h, ih]

/-- Reading another key. -/
theorem aget_aset_ne {α : Type} (d x : α) (l : List (Nat × α)) {i j : Nat} (h : j ≠ i) :
    aget d (aset l i x) j = aget d l j := by
  induction l with
  | nil => simp [aset, aget, Ne.symm h]
  | cons c l ih =>
    obtain ⟨k, v⟩ := c
    by_cases h1 : k = i
    · subst h1; simp [aset, aget, Ne.symm h]
    · by_cases h2 : k = j
      · subst h2; simp [aset, aget, h1]
      · simp [aset, aget, h1, h2, ih]

@[simp] theorem fn_setFn (s : State) (n : Nat) (f : Fn) : (s.setFn n f).fn n = f := aget_aset ..
@[simp] theorem mill_setMill (s : State) (n : Nat) (m : Mill) : (s.setMill n m).mill n = m := aget_aset ..
@[simp] theorem die_setDie (s : State) (n : Nat) (d : Die) : (s.setDie n d).die n = d := aget_aset ..
@[simp] theorem tile_setTile (s : State) (n : Nat) (t : Tile) : (s.setTile n t).tile n = t := aget_aset ..
@[simp] theorem link_setLink (s : State) (n : Nat) (l : Link) : (s.setLink n l).link n = l := aget_aset ..

/-! ## Registers -/

/-- A g-register after a write: g0 stays 0. -/
theorem rg_wg (c : Ctx) (d r : BitVec 5) (v : Word) :
    (c.wg d v).rg r = if r = d then (if d = 0 then 0 else v) else c.rg r := by
  unfold Ctx.wg Ctx.rg
  by_cases h0 : d = 0
  · by_cases hr : r = d
    · simp only [hr, h0, if_true]
    · have hr' : ¬ r = 0 := h0 ▸ hr
      simp only [h0, if_true, if_neg hr']
  · simp only [if_neg h0]
    by_cases hr : r = d
    · subst hr
      simp only [if_neg h0, if_true, Vector.getElem_set_self]
    · simp only [if_neg hr]
      split
      · rfl
      · rw [Vector.getElem_set_ne]
        intro h; exact hr (BitVec.eq_of_toNat_eq h.symm)

/-! ## Traps and retirement leave memory -/

@[simp] theorem traceOf_mem (s : State) (t : Task) (ty : Nat) (a b : Word) (m : List Word) :
    (s.traceOf t ty a b m).mem = s.mem := by
  unfold State.traceOf
  dsimp only
  split
  · rfl
  · split <;> rfl

@[simp] theorem trace_mem (s : State) (ty : Nat) (a b : Word) : (s.trace ty a b).mem = s.mem := traceOf_mem ..

@[simp] theorem trap_mem (s : State) (t : Trap) : (s.trap t).mem = s.mem := by
  unfold State.trap
  dsimp only
  split <;> (try rw [trace_mem]) <;> split <;> split <;> split <;> rfl

@[simp] theorem trapAt_mem (s : State) (c : BitVec 8) (x : Word) : (s.trapAt c x).mem = s.mem := trap_mem ..

@[simp] theorem takePend_mem (s : State) (p : Pending) : (s.takePend p).mem = s.mem := by
  unfold State.takePend
  rw [trap_mem]
  split <;> rfl

@[simp] theorem boundary_mem (s : State) : s.boundary.mem = s.mem := by
  unfold State.boundary
  split
  · rfl
  · split
    · rfl
    · split
      · rw [takePend_mem]
      · rw [trapAt_mem]

@[simp] theorem retireTo_mem (s : State) (n : Word) : (s.retireTo n).mem = s.mem := by
  unfold State.retireTo; rw [boundary_mem]; rfl

@[simp] theorem jumpTo_mem (s : State) (n : Word) : (s.jumpTo n).mem = s.mem := by
  unfold State.jumpTo; rw [boundary_mem]; rfl

end Sys2Proof.Machine
end

