-- ==== Sys2Proof/Laws/Frames.lean ====
section
/-!
SUPPORT. Sys2Proof/Laws/Frames.lean: what the shared operations leave alone: the acting task under device accesses and fault
records, registers and memory under the taking of sources and the pushing of words.
-/

set_option linter.unusedSimpArgs false

namespace Sys2Proof.Machine

/-! ## Device accesses do not touch the acting task -/

/-- The times of a store change line times only. -/
theorem storeTime_eq (s : State) (k n c : Nat) : ∃ L, (storeTime s k n c).2 = { s with lines := L } := by
  unfold storeTime
  generalize lineSpan k n = ls
  suffices h : ∀ (a : Nat × State) (L : List (Nat × Nat × Nat)), a.2 = { s with lines := L } →
      ∃ M, (ls.foldl (fun (a : Nat × State) l => let r := lineStore a.2 l c; (max a.1 r.1, r.2)) a).2 = { s with lines := M } from
    h (c, s) s.lines rfl
  induction ls with
  | nil => exact fun a L h => ⟨L, h⟩
  | cons l ls ih =>
    rintro ⟨x, t⟩ L h
    dsimp only at h
    subst h
    exact ih _ _ rfl

/-- A fold of loads changes line times, and draws free values. -/
theorem foldl_times (f : State → Nat → Nat → Nat × State)
    (hf : ∀ s l c, ∃ L n, (f s l c).2 = { s with lines := L, free := n }) (ls : List Nat) (s : State) (c : Nat) :
    ∃ L n, (ls.foldl (fun (a : Nat × State) l => f a.2 l a.1) (c, s)).2 = { s with lines := L, free := n } := by
  suffices h : ∀ (a : Nat × State) (L : List (Nat × Nat × Nat)) (n : Nat), a.2 = { s with lines := L, free := n } →
      ∃ M k, (ls.foldl (fun (a : Nat × State) l => f a.2 l a.1) a).2 = { s with lines := M, free := k } from
    h (c, s) s.lines s.free rfl
  induction ls with
  | nil => exact fun a L n h => ⟨L, n, h⟩
  | cons l ls ih =>
    rintro ⟨x, t⟩ L n h
    dsimp only at h
    subst h
    obtain ⟨M, k, e⟩ := hf { s with lines := L, free := n } l x
    rw [List.foldl_cons]
    exact ih _ M k e

/-- The times of a load change line times, and draw free values. -/
theorem loadTimes_eq (s : State) (k n c : Nat) : ∃ L m, (loadTimes s k n c).2 = { s with lines := L, free := m } :=
  foldl_times (fun s l c => loadTime s (128 * l) c) (fun _ _ _ => ⟨_, _, rfl⟩) _ s c

/-- The times of a load of host memory change line times. -/
theorem hostTimes_eq (s : State) (k n c : Nat) : ∃ L m, (hostTimes s k n c).2 = { s with lines := L, free := m } :=
  foldl_times hostTime (fun s _ _ => ⟨_, s.free, rfl⟩) _ s c

/-- All that a write does: bytes of memory, line times, and the largest time of the function's partition. -/
theorem storeAt_eq (s : State) (fn k : Nat) (bs : List Byte) (c : Nat) :
    ∃ L T, (storeAt s fn k bs c).2 = { s with mem := memPut s.mem k bs, lines := L, tops := T } := by
  obtain ⟨L, h⟩ := storeTime_eq s k bs.length c
  exact ⟨L, _, by simp only [storeAt, h, State.noteTime]; rfl⟩

theorem storeAt_me (s : State) (fn k : Nat) (bs : List Byte) (c : Nat) : (storeAt s fn k bs c).2.me = s.me := by
  obtain ⟨L, T, h⟩ := storeAt_eq s fn k bs c
  rw [h]

theorem underSlot_me (s : State) (k n : Nat) (slot : BitVec 7) : (s.underSlot k n slot).me = s.me := by
  unfold State.underSlot; split <;> rfl

/-- A fold of writes keeps the acting task. -/
theorem writes_me (fn : Nat) (ls : List (Nat × BitVec 7 × Nat)) (s : State) (bs : List Byte) :
    (ls.foldl (fun (st : State × List Byte) x =>
      ((storeAt (st.1.underSlot x.1 x.2.2 x.2.1) fn x.1 (st.2.take x.2.2) 0).2, st.2.drop x.2.2)) (s, bs)).1.me = s.me := by
  induction ls generalizing s bs with
  | nil => rfl
  | cons x ls ih => rw [List.foldl_cons, ih, storeAt_me, underSlot_me]

theorem writeBy_me {s t : State} {resolve : Word → Except (BitVec 8) (Nat × Word)} {fn : Nat} {va : Word} {bs : List Byte}
    (h : writeBy s resolve fn va bs = .ok t) : t.me = s.me := by
  unfold writeBy at h
  dsimp only at h
  revert h
  generalize List.foldlM (m := Except (BitVec 8 × Word)) _ _ _ = r
  intro h
  cases r with
  | error e => simp [Except.map] at h
  | ok ls =>
    simp only [Except.map, Except.ok.injEq] at h
    rw [← h]
    exact writes_me fn ls s bs

theorem devWrite_me {s t : State} {fn : Nat} {va : Word} {bs : List Byte} (h : devWrite s fn va bs = .ok t) :
    t.me = s.me := writeBy_me h

theorem fault_me (s : State) (fn : Nat) (r : FaultRec) : (s.fault fn r).me = s.me := by
  unfold State.fault
  simp only
  split
  · rfl
  · split
    · rfl
    · rename_i t h
      have := devWrite_me h
      split
      · rw [msix_me, setFn_me]; exact this
      · rw [setFn_me]; exact this

theorem devFault_me (s : State) (fn : Nat) (c : BitVec 8) (va : Word) : (s.devFault fn c va).me = s.me := fault_me ..

theorem taskFault_me (s : State) (t : Task) (c : BitVec 8) (va : Word) : (s.taskFault t c va).me = s.me := fault_me ..

theorem devPut_me (s : State) (fn : Nat) (va : Word) (bs : List Byte) : (s.devPut fn va bs).me = s.me := by
  unfold State.devPut
  split
  · rename_i t h; exact devWrite_me h
  · exact devFault_me ..

theorem hdrPut_me (s : State) (fn : Nat) (va : Word) (bs : List Byte) : (s.hdrPut fn va bs).me = s.me := by
  unfold State.hdrPut
  split
  · rename_i t h; exact writeBy_me h
  · exact devFault_me ..

theorem capture_me (s : State) (fn : Nat) (blk : Word) (k : Nat) : (s.capture fn blk k).me = s.me := by
  unfold State.capture
  dsimp only
  split
  · rfl
  · split
    · rfl
    · split
      · exact devFault_me ..
      · rw [setFn_me, devPut_me, underSlot_me]

theorem captureAt_me (s : State) (resolve : State → Word → Except (BitVec 8) (Nat × Word)) (fn : Nat) (blk va : Word) (n : Nat) :
    (s.captureAt resolve fn blk va n).me = s.me := by
  unfold State.captureAt
  generalize rangePieces va n = ps
  induction ps generalizing s with
  | nil => rfl
  | cons p ps ih =>
    rw [List.foldl_cons, ih]
    split
    · exact capture_me ..
    · rfl

theorem blkPut_me (s : State) (fn : Nat) (blk va : Word) (bs : List Byte) : (s.blkPut fn blk va bs).me = s.me := by
  unfold State.blkPut
  rw [devPut_me, captureAt_me]

theorem hdrBlkPut_me (s : State) (fn : Nat) (blk va : Word) (bs : List Byte) : (s.hdrBlkPut fn blk va bs).me = s.me := by
  unfold State.hdrBlkPut
  rw [hdrPut_me, captureAt_me]

theorem addClosed_me (s : State) (c : Chan) (n : Nat) : (s.addClosed c n).me = s.me := by
  unfold State.addClosed
  split
  · rfl
  · dsimp only
    split
    · exact devFault_me ..
    · split
      · exact devFault_me ..
      · split
        · exact devFault_me ..
        · exact blkPut_me ..

theorem sendFlit_me (s : State) (p clk fn : Nat) (ch : BitVec 12) (num : BitVec 32) (m : LinkMsg) :
    (s.sendFlit p clk fn ch num m).me = s.me := rfl

theorem linkFault_me (s : State) (fn p : Nat) : (s.linkFault fn p).me = s.me := by
  unfold State.linkFault
  dsimp only
  split
  · rfl
  · split
    · exact devFault_me ..
    · rfl

/-- A fold that carries a state beside something else keeps what each of its steps keeps. -/
theorem foldl_snd_me {α β : Type} (f : β × State → α → β × State) (hf : ∀ a x, (f a x).2.me = a.2.me) (l : List α) (a : β × State) :
    (l.foldl f a).2.me = a.2.me := by
  induction l generalizing a with
  | nil => rfl
  | cons x l ih => rw [List.foldl_cons, ih, hf]

theorem entryFaults_me (s : State) (pkg : BitVec 8) (fn : Nat) : (s.entryFaults pkg fn).2.me = s.me := by
  refine foldl_snd_me _ ?_ _ _
  intro a i
  split
  · rfl
  · split
    · rfl
    · exact linkFault_me ..

theorem pkgFaults_me (s : State) (pkg : BitVec 8) : (s.pkgFaults pkg).me = s.me := by
  refine foldl_snd_me _ ?_ _ _
  intro a f
  split
  · rfl
  · exact entryFaults_me ..

theorem sendPkg_me (s : State) (pkg : BitVec 8) (clk : Nat) (m : LinkMsg) : (s.sendPkg pkg clk m).me = s.me := by
  unfold State.sendPkg State.sendPkg?
  dsimp only
  cases (s.pkgFaults pkg).pkgPort pkg <;> exact pkgFaults_me ..

/-! ## Sources and destinations -/

/-- A pop moves the clock only, of the acting context, and no memory. -/
theorem pop_frame (s : State) (ch : BitVec 12) :
    (∃ k, (s.pop ch).me = { s.me with ctx := { s.me.ctx with clock := k } }) ∧ (s.pop ch).mem = s.mem := by
  unfold State.pop
  split
  · exact ⟨⟨s.me.ctx.clock, rfl⟩, rfl⟩
  · split
    · exact ⟨⟨s.me.ctx.clock, rfl⟩, rfl⟩
    · exact ⟨⟨_, rfl⟩, rfl⟩

/-- Taking sources moves the clock only, of the acting context, and no memory. -/
theorem popSrcs_frame (s : State) (rs : List (BitVec 5)) :
    (∃ k, (s.popSrcs rs).me = { s.me with ctx := { s.me.ctx with clock := k } }) ∧ (s.popSrcs rs).mem = s.mem := by
  unfold State.popSrcs
  generalize rs.eraseDups = l
  induction l generalizing s with
  | nil => exact ⟨⟨s.me.ctx.clock, rfl⟩, rfl⟩
  | cons r l ih =>
    rw [List.foldl_cons]
    cases hb : s.me.ctx.binding r with
    | none =>
      exact ih s
    | some b =>
      obtain ⟨⟨k, h1⟩, h2⟩ := pop_frame s b.ch
      obtain ⟨⟨j, h3⟩, h4⟩ := ih (s.pop b.ch)
      refine ⟨⟨j, ?_⟩, by rw [h4, h2]⟩
      rw [h3, h1]

/-- Counting for a task changes counters only, of the acting task at most. -/
theorem countFor_me (s : State) (t : TaskId) (e n : Nat) :
    ∃ c, (s.countFor t e n).me = { s.me with ctx := { s.me.ctx with ctrs := c } } := by
  unfold State.countFor State.mapTask State.mapTasks
  dsimp only
  split
  · split
    · exact ⟨_, rfl⟩
    · exact ⟨s.me.ctx.ctrs, rfl⟩
  · exact ⟨s.me.ctx.ctrs, rfl⟩

/-- A push of a plain word changes counters only, of the acting task. -/
theorem push_frame (s : State) (ch : BitVec 12) (v : Word) (k : Nat) :
    ∃ c, (s.push ch [⟨v, false, k⟩]).me = { s.me with ctx := { s.me.ctx with ctrs := c } } := by
  unfold State.push
  split
  · exact ⟨s.me.ctx.ctrs, rfl⟩
  · rename_i x hx
    dsimp only
    split
    · unfold State.discardFrom
      obtain ⟨c, h⟩ := countFor_me ((s.count 0x030 1).addClosed ((s.joined x).getD x) 1) ((s.joined x).getD x).consumer 0x032 1
      refine ⟨c, ?_⟩
      rw [addClosed_me] at h
      exact h
    · exact ⟨_, rfl⟩

/-! ## Objects and flumes do not touch the acting task -/

theorem objFree_me (s : State) (id : Nat) : (s.objFree id).me = s.me := by
  unfold State.objFree
  split
  · rfl
  · dsimp only
    split <;> rfl

theorem objDropOne_me (s : State) (id : Nat) : (s.objDropOne id).me = s.me := by
  unfold State.objDropOne
  dsimp only
  split
  · split
    · exact objFree_me ..
    · rfl
  · rfl

theorem publishAt_me (s : State) (id td : Nat) : (s.publishAt id td).me = s.me := by
  unfold State.publishAt
  split
  · rfl
  · exact objDropOne_me ..

theorem objPublish_me (s : State) (id c : Nat) : (s.objPublish id c).me = s.me := publishAt_me ..

theorem objAbandon_me (s : State) (id : Nat) : (s.objAbandon id).me = s.me := objDropOne_me ..

theorem disposeHandle_me (s : State) (h : BitVec 128) (p : Bool) (clk : Nat) : (s.disposeHandle h p clk).me = s.me := by
  unfold State.disposeHandle
  split
  · split
    · exact objDropOne_me ..
    · exact sendPkg_me ..
  · split
    · split
      · exact objPublish_me ..
      · exact objAbandon_me ..
    · rfl

theorem writeCounts_me (s : State) (f : Flume) : (s.writeCounts f).me = s.me := hdrBlkPut_me ..

end Sys2Proof.Machine
end

