-- ==== Sys2Proof/Laws/Memory.lean ====
section
/-!
SUPPORT. Sys2Proof/Laws/Memory.lean: memory as a canonical list: read after write, what a write leaves alone, and that every
memory operation keeps the canonical form.
-/

namespace Sys2Proof.Machine

/-! ## The canonical form -/

/-- Every address of a list lies above `a`. -/
def above (a : Nat) (m : List Host.Cell) : Prop := ∀ c ∈ m, a < c.1

theorem wf_cons {a : Nat} {v : Byte} {m : List Host.Cell} :
    Memory.wf ((a, v) :: m) = true ↔ v ≠ unlisted ∧ above a m ∧ Memory.wf m = true := by
  induction m generalizing a v with
  | nil => simp [Memory.wf, above]
  | cons c m ih =>
    obtain ⟨b, w⟩ := c
    simp only [Memory.wf, Bool.and_eq_true, bne_iff_ne, ne_eq, decide_eq_true_eq]
    constructor
    · rintro ⟨⟨h1, h2⟩, h3⟩
      refine ⟨h1, ?_, h3⟩
      obtain ⟨-, hb, -⟩ := ih.1 h3
      intro c hc
      rcases List.mem_cons.1 hc with rfl | hc
      · exact h2
      · exact Nat.lt_trans h2 (hb c hc)
    · rintro ⟨h1, h2, h3⟩
      exact ⟨⟨h1, h2 (b, w) (by simp)⟩, h3⟩

theorem above_mono {a b : Nat} {m : List Host.Cell} (h : a ≤ b) (hb : above b m) : above a m :=
  fun c hc => Nat.lt_of_le_of_lt h (hb c hc)

/-- An address at or below all that are listed reads as unlisted. -/
theorem memGet_above {a k : Nat} {m : List Host.Cell} (h : above a m) (hk : k ≤ a) : memGet m k = unlisted := by
  induction m with
  | nil => rfl
  | cons c m ih =>
    obtain ⟨b, w⟩ := c
    have hb : a < b := h (b, w) (by simp)
    rw [memGet, if_neg (by omega)]
    exact ih fun c hc => h c (by simp [hc])

theorem above_memSet {a k : Nat} {x : Byte} {m : List Host.Cell} (h : above a m) (hk : a < k) : above a (memSet m k x) := by
  induction m with
  | nil =>
    simp only [memSet]
    split <;> simp [above, hk]
  | cons c m ih =>
    obtain ⟨b, w⟩ := c
    have hm : above a m := fun c hc => h c (by simp [hc])
    have hb : a < b := h (b, w) (by simp)
    simp only [memSet]
    split
    · split
      · exact h
      · intro c hc
        rcases List.mem_cons.1 hc with rfl | hc
        · exact hk
        · exact h c hc
    · split
      · split
        · exact hm
        · intro c hc
          rcases List.mem_cons.1 hc with rfl | hc
          · exact hk
          · exact hm c hc
      · intro c hc
        rcases List.mem_cons.1 hc with rfl | hc
        · exact hb
        · exact ih hm c hc

/-- Writing a byte keeps the canonical form. -/
theorem wf_memSet {m : List Host.Cell} (h : Memory.wf m = true) (k : Nat) (x : Byte) : Memory.wf (memSet m k x) = true := by
  induction m with
  | nil =>
    simp only [memSet]
    split
    · rfl
    · rename_i hx; simp [Memory.wf, hx]
  | cons c m ih =>
    obtain ⟨a, v⟩ := c
    obtain ⟨hv, ha, hm⟩ := wf_cons.1 h
    simp only [memSet]
    split
    · rename_i hk
      split
      · exact h
      · rename_i hx
        refine wf_cons.2 ⟨hx, ?_, h⟩
        intro c hc
        rcases List.mem_cons.1 hc with rfl | hc
        · exact hk
        · exact Nat.lt_trans hk (ha c hc)
    · split
      · rename_i hk
        subst hk
        split
        · exact hm
        · rename_i hx; exact wf_cons.2 ⟨hx, ha, hm⟩
      · refine wf_cons.2 ⟨hv, above_memSet ha (by omega), ih hm⟩

/-- Writing bytes keeps the canonical form. -/
theorem wf_memPut {m : List Host.Cell} (h : Memory.wf m = true) (k : Nat) (bs : List Byte) :
    Memory.wf (memPut m k bs) = true := by
  induction bs generalizing m k with
  | nil => exact h
  | cons b bs ih => exact ih (wf_memSet h k b) (k + 1)

/-- Dropping entries keeps the canonical form. -/
theorem wf_filter {m : List Host.Cell} (h : Memory.wf m = true) (p : Host.Cell → Bool) : Memory.wf (m.filter p) = true := by
  induction m with
  | nil => rfl
  | cons c m ih =>
    obtain ⟨a, v⟩ := c
    obtain ⟨hv, ha, hm⟩ := wf_cons.1 h
    rw [List.filter_cons]
    split
    · exact wf_cons.2 ⟨hv, fun c hc => ha c (List.mem_filter.1 hc).1, ih hm⟩
    · exact ih hm

/-- Clearing a range keeps the canonical form. -/
theorem wf_memClear {m : List Host.Cell} (h : Memory.wf m = true) (k n : Nat) : Memory.wf (memClear m k n) = true :=
  wf_filter h _

/-! ## Reading after a write -/

/-- One byte after one byte is written. -/
theorem memGet_memSet {m : List Host.Cell} (h : Memory.wf m = true) (k j : Nat) (x : Byte) :
    memGet (memSet m k x) j = if j = k then x else memGet m j := by
  induction m with
  | nil =>
    simp only [memSet]
    split
    · rename_i hx; subst hx; simp [memGet]
    · simp only [memGet]
      by_cases hj : j = k
      · simp [hj]
      · rw [if_neg (by omega), if_neg hj]
  | cons c m ih =>
    obtain ⟨a, v⟩ := c
    obtain ⟨hv, ha, hm⟩ := wf_cons.1 h
    simp only [memSet]
    split
    · rename_i hk
      split
      · rename_i hx
        subst hx
        by_cases hj : j = k
        · subst hj
          rw [if_pos rfl, memGet, if_neg (by omega)]
          exact memGet_above ha (by omega)
        · rw [if_neg hj]
      · by_cases hj : j = k
        · subst hj; simp [memGet]
        · rw [if_neg hj, memGet, if_neg (by omega)]
    · split
      · rename_i hk
        subst hk
        split
        · rename_i hx
          subst hx
          by_cases hj : j = k
          · subst hj; rw [if_pos rfl]; exact memGet_above ha (by omega)
          · rw [if_neg hj, memGet, if_neg (by omega)]
        · by_cases hj : j = k
          · subst hj; simp [memGet]
          · rw [if_neg hj, memGet, memGet, if_neg (by omega), if_neg (by omega)]
      · rename_i h1 h2
        rw [memGet, memGet]
        by_cases hj : a = j
        · subst hj; rw [if_pos rfl, if_neg (by omega), if_pos rfl]
        · rw [if_neg hj, if_neg hj]; exact ih hm

/-- One byte after a run of bytes is written. -/
theorem memGet_memPut {m : List Host.Cell} (h : Memory.wf m = true) (k j : Nat) (bs : List Byte) :
    memGet (memPut m k bs) j = if k ≤ j ∧ j < k + bs.length then bs.getD (j - k) 0 else memGet m j := by
  induction bs generalizing m k with
  | nil => rw [memPut, if_neg (by simp)]
  | cons b bs ih =>
    rw [memPut, ih (wf_memSet h k b), memGet_memSet h]
    simp only [List.length_cons]
    by_cases h1 : k + 1 ≤ j ∧ j < k + 1 + bs.length
    · rw [if_pos h1, if_pos (by omega)]
      obtain ⟨i, rfl⟩ : ∃ i, j = k + 1 + i := ⟨j - (k + 1), by omega⟩
      rw [show k + 1 + i - (k + 1) = i by omega, show k + 1 + i - k = i + 1 by omega]
      rfl
    · rw [if_neg h1]
      by_cases hj : j = k
      · subst hj; simp
      · rw [if_neg hj, if_neg (by omega)]

/-- A run of bytes reads back. -/
theorem memBytes_memPut {m : List Host.Cell} (h : Memory.wf m = true) (k : Nat) (bs : List Byte) :
    memBytes (memPut m k bs) k bs.length = bs := by
  have key : ∀ n i, i + n = bs.length → memBytes (memPut m k bs) (k + i) n = bs.drop i := by
    intro n
    induction n with
    | zero => intro i hi; simp [memBytes, List.drop_eq_nil_iff]; omega
    | succ n ih =>
      intro i hi
      rw [memBytes, show k + i + 1 = k + (i + 1) by omega, ih (i + 1) (by omega), memGet_memPut h, if_pos (by omega),
        show k + i - k = i by omega]
      have hl : i < bs.length := by omega
      rw [List.drop_eq_getElem_cons hl]
      simp [hl]
  simpa using key bs.length 0 (by omega)

/-- A cleared range reads as unlisted, and the rest as before. -/
theorem memGet_memClear (m : List Host.Cell) (k n j : Nat) :
    memGet (memClear m k n) j = if k ≤ j ∧ j < k + n then unlisted else memGet m j := by
  unfold memClear
  induction m with
  | nil => simp [memGet]
  | cons c m ih =>
    obtain ⟨a, v⟩ := c
    rw [List.filter_cons]
    by_cases hc : k ≤ a ∧ a < k + n
    · have e : (!(decide (k ≤ (a, v).1) && decide ((a, v).1 < k + n))) = false := by simp [hc.1, hc.2]
      rw [if_neg (by rw [e]; decide), ih, memGet]
      by_cases hj : k ≤ j ∧ j < k + n
      · rw [if_pos hj, if_pos hj]
      · rw [if_neg hj, if_neg hj, if_neg (by omega)]
    · have e : (!(decide (k ≤ (a, v).1) && decide ((a, v).1 < k + n))) = true := by
        simp only [Bool.not_eq_true', Bool.and_eq_false_iff, decide_eq_false_iff_not]; omega
      rw [if_pos e, memGet, memGet, ih]
      by_cases hj : a = j
      · subst hj; rw [if_pos rfl, if_neg hc, if_pos rfl]
      · rw [if_neg hj, if_neg hj]

end Sys2Proof.Machine
end

