-- ==== Sys2Proof/Laws/Canonical.lean ====
section
/-!
SUPPORT. Sys2Proof/Laws/Canonical.lean: the operations over memory and the shared operations of the state keep the canonical
form of memory and of the snapshots, one lemma each, stated so that simp chains them.
-/

set_option linter.unusedSimpArgs false

namespace Sys2Proof.Machine

/-! ## Memory operations -/

/-- A fold keeps what each of its steps keeps. -/
theorem foldl_keeps {α β : Type} {P : α → Prop} {f : α → β → α} (hf : ∀ a b, P a → P (f a b)) (l : List β) {a : α} (h : P a) :
    P (l.foldl f a) := by
  induction l generalizing a with
  | nil => exact h
  | cons b l ih => exact ih (hf a b h)

theorem wf_memCopyUnit {m : List Host.Cell} (h : Memory.wf m = true) (a b : Nat) : Memory.wf (memCopyUnit m a b) = true :=
  foldl_keeps (P := fun m => Memory.wf m = true) (fun _ _ h => wf_memSet h ..) _ (wf_memClear h ..)

theorem wf_mergePlain {m : List Host.Cell} (h : Memory.wf m = true) (t : Task) : Memory.wf (mergePlain m t) = true :=
  foldl_keeps (P := fun m => Memory.wf m = true) (fun _ _ h => wf_memSet h ..) _ h

theorem wf_mergeAtoms {m : List Host.Cell} (h : Memory.wf m = true) (t : Task) : Memory.wf (mergeAtoms m t) = true :=
  foldl_keeps (P := fun m => Memory.wf m = true) (fun _ _ h => wf_memPut h ..) _ h

theorem wf_mergeReds {m : List Host.Cell × List (BitVec 32 × BitVec 32)} (h : Memory.wf m.1 = true) (t : Task) :
    Memory.wf (mergeReds m t).1 = true :=
  foldl_keeps (P := fun m : List Host.Cell × List (BitVec 32 × BitVec 32) => Memory.wf m.1 = true) (fun _ _ h => wf_memPut h ..) _ h

/-- Two canonical lists, the second above the first, make one. -/
theorem wf_append {a b : List Host.Cell} (ha : Memory.wf a = true) (hb : Memory.wf b = true) (h : ∀ c ∈ a, above c.1 b) :
    Memory.wf (a ++ b) = true := by
  induction a with
  | nil => exact hb
  | cons c a ih =>
    obtain ⟨k, v⟩ := c
    obtain ⟨hv, hk, hm⟩ := wf_cons.1 ha
    refine wf_cons.2 ⟨hv, fun d hd => ?_, ih hm fun c hc => h c (List.mem_cons_of_mem _ hc)⟩
    rcases List.mem_append.1 hd with hd | hd
    · exact hk d hd
    · exact h (k, v) (by simp) d hd

/-- Keys of a lower space stand below those of a higher one. -/
theorem lt_of_spaceOf {a b : Nat} (h : spaceOf a < spaceOf b) : a < b :=
  Nat.lt_of_not_le fun hb => Nat.not_le_of_lt h (Nat.div_le_div_right hb)

theorem wf_detBase {s : State} {g : Group} (hs : Memory.wf s.mem = true) (hg : Memory.wf g.snap = true) :
    Memory.wf (s.detBase g) = true := by
  unfold State.detBase inSpace
  refine wf_append (wf_append (wf_filter hg _) (wf_filter hs _) ?_) (wf_filter hg _) ?_
  all_goals
    intro c hc d hd
    simp only [List.mem_append, List.mem_filter, beq_iff_eq, decide_eq_true_eq] at hc hd
    exact lt_of_spaceOf (by omega)

theorem wf_mergeImage {g : Group} {base : List Host.Cell} (h : Memory.wf base = true) (kept : List Task) :
    Memory.wf (mergeImage g base kept).1 = true := by
  have h1 := foldl_keeps (P := fun m => Memory.wf m = true) (f := mergeAtoms) (fun _ t h => wf_mergeAtoms h t) kept
    (foldl_keeps (P := fun m => Memory.wf m = true)
      (f := fun (m : List Host.Cell) (v : Nat × Nat × Word × Nat) => memPut m v.1 (leBytes v.2.1 v.2.2.1.toNat))
      (fun _ _ h => wf_memPut h ..) g.vals.reverse h)
  have h2 := foldl_keeps (P := fun m : List Host.Cell × List (BitVec 32 × BitVec 32) => Memory.wf m.1 = true)
    (f := mergeReds) (fun _ t h => wf_mergeReds h t) kept (a := (_, [])) h1
  exact foldl_keeps (P := fun m => Memory.wf m = true) (fun _ t h => wf_mergePlain h t) _ h2

/-! ## The state right after reset, and states that hold the same memory -/

theorem canonical_reset : State.reset.Canonical := ⟨rfl, fun _ h => nomatch h⟩

theorem State.Canonical.of_eq {s t : State} (h : s.Canonical) (hm : t.mem = s.mem) (hg : t.groups = s.groups) : t.Canonical := by
  unfold State.Canonical; rw [hm, hg]; exact h

/-- New memory in the canonical form. -/
theorem State.Canonical.withMem {s : State} (h : s.Canonical) {m : List Host.Cell} (hm : Memory.wf m = true) :
    ({ s with mem := m } : State).Canonical := ⟨hm, h.2⟩

/-! ## Updates that touch no memory -/

theorem canonical_mapMe {s : State} (h : s.Canonical) (f : Task → Task) : (s.mapMe f).Canonical := h

theorem canonical_mapCtx {s : State} (h : s.Canonical) (f : Ctx → Ctx) : (s.mapCtx f).Canonical := h

theorem canonical_mapRun {s : State} (h : s.Canonical) (f : Run → Run) : (s.mapRun f).Canonical := h

theorem canonical_count {s : State} (h : s.Canonical) (e n : Nat) : (s.count e n).Canonical := h

theorem canonical_setMill {s : State} (h : s.Canonical) (n : Nat) (m : Mill) : (s.setMill n m).Canonical := h

theorem canonical_setDie {s : State} (h : s.Canonical) (n : Nat) (d : Die) : (s.setDie n d).Canonical := h

theorem canonical_setTile {s : State} (h : s.Canonical) (n : Nat) (t : Tile) : (s.setTile n t).Canonical := h

theorem canonical_setFn {s : State} (h : s.Canonical) (n : Nat) (f : Fn) : (s.setFn n f).Canonical := h

theorem canonical_setLink {s : State} (h : s.Canonical) (n : Nat) (l : Link) : (s.setLink n l).Canonical := h

theorem canonical_mapTasks {s : State} (h : s.Canonical) (p : Task → Bool) (f : Task → Task) : (s.mapTasks p f).Canonical := h

theorem canonical_mapTask {s : State} (h : s.Canonical) (t : TaskId) (f : Task → Task) : (s.mapTask t f).Canonical := h

theorem canonical_mapBlk {s : State} (h : s.Canonical) (fn : Nat) (a : Word) (f : Blk → Blk) : (s.mapBlk fn a f).Canonical := h

theorem canonical_mapObj {s : State} (h : s.Canonical) (id : Nat) (f : Obj → Obj) : (s.mapObj id f).Canonical := h

theorem canonical_mapChan {s : State} (h : s.Canonical) (fn : Nat) (blk : Word) (ch : BitVec 12) (f : Chan → Chan) : (s.mapChan fn blk ch f).Canonical := h

theorem canonical_source {s : State} (h : s.Canonical) (fn die b line : Nat) : (s.source fn die b line).Canonical := h

theorem canonical_waitOn {s : State} (h : s.Canonical) (w : WaitOn) : (s.waitOn w).Canonical := h

theorem canonical_lifeAdd {s : State} (h : s.Canonical) (i j n : Nat) : (s.lifeAdd i j n).Canonical := h

theorem canonical_msix {s : State} (h : s.Canonical) (fn v : Nat) : (s.msix fn v).Canonical := h

theorem canonical_mapLineage {s : State} (h : s.Canonical) (fn : Nat) (a : Word) (f : Blk → Blk) : (s.mapLineage fn a f).Canonical := h

theorem canonical_spillCharge {s : State} (h : s.Canonical) (fn : Nat) (b : Word) (n : Nat) : (s.spillCharge fn b n).Canonical := h

theorem canonical_spillReturn {s : State} (h : s.Canonical) (fn : Nat) (b : Word) (n : Nat) : (s.spillReturn fn b n).Canonical := h

theorem canonical_took {s : State} (h : s.Canonical) : s.took.Canonical := h

theorem canonical_aim {s : State} (h : s.Canonical) (q : BitVec 32) (e : Nat) (a : EvArg) : (s.aim q e a).Canonical := h

theorem canonical_traceOf {s : State} (h : s.Canonical) (t : Task) (ty : Nat) (a b : Word) (m : List Word) : (s.traceOf t ty a b m).Canonical := by
  unfold State.traceOf
  dsimp only
  repeat' split
  all_goals exact h

theorem canonical_trace {s : State} (h : s.Canonical) (ty : Nat) (a b : Word) : (s.trace ty a b).Canonical := canonical_traceOf h ..

theorem canonical_trap {s : State} (h : s.Canonical) (t : Trap) : (s.trap t).Canonical := by
  unfold State.trap
  dsimp only
  split <;> (try apply canonical_trace) <;> split <;> split <;> split <;> exact h

theorem canonical_trapAt {s : State} (h : s.Canonical) (c : BitVec 8) (x : Word) : (s.trapAt c x).Canonical := canonical_trap h ..

theorem canonical_takePend {s : State} (h : s.Canonical) (p : Pending) : (s.takePend p).Canonical := by
  unfold State.takePend
  refine canonical_trap ?_ _
  split <;> exact h

theorem canonical_boundary {s : State} (h : s.Canonical) : s.boundary.Canonical := by
  unfold State.boundary
  split
  · exact h
  · split
    · exact h
    · split
      · exact canonical_takePend h _
      · exact canonical_trapAt h _ _

theorem canonical_retireTo {s : State} (h : s.Canonical) (n : Word) : (s.retireTo n).Canonical := by
  unfold State.retireTo; exact canonical_boundary h

theorem canonical_jumpTo {s : State} (h : s.Canonical) (n : Word) : (s.jumpTo n).Canonical := by
  unfold State.jumpTo; exact canonical_boundary h

/-! ## Accesses -/

theorem canonical_storeAt {s : State} (h : s.Canonical) (fn k : Nat) (bs : List Byte) (c : Nat) :
    (storeAt s fn k bs c).2.Canonical := by
  obtain ⟨L, T, e⟩ := storeAt_eq s fn k bs c
  rw [e]
  exact ⟨wf_memPut h.1 .., h.2⟩

theorem canonical_underSlot {s : State} (h : s.Canonical) (k n : Nat) (slot : BitVec 7) : (s.underSlot k n slot).Canonical := by
  unfold State.underSlot; split <;> exact h

theorem canonical_noteTime {s : State} (h : s.Canonical) (fn t : Nat) : (s.noteTime fn t).Canonical := h

theorem canonical_loadTime {s : State} (h : s.Canonical) (k c : Nat) : (loadTime s k c).2.Canonical := h

theorem canonical_writeBy {s t : State} {resolve : Word → Except (BitVec 8) (Nat × Word)} {fn : Nat} {va : Word} {bs : List Byte}
    (h : s.Canonical) (hw : writeBy s resolve fn va bs = .ok t) : t.Canonical := by
  unfold writeBy at hw
  dsimp only at hw
  revert hw
  generalize List.foldlM (m := Except (BitVec 8 × Word)) _ _ _ = r
  intro hw
  cases r with
  | error e => simp [Except.map] at hw
  | ok ls =>
    simp only [Except.map, Except.ok.injEq] at hw
    rw [← hw]
    exact foldl_keeps (P := fun st : State × List Byte => st.1.Canonical) 
      (fun _ _ h => canonical_storeAt (canonical_underSlot h ..) ..) ls h

theorem canonical_devWrite {s t : State} {fn : Nat} {va : Word} {bs : List Byte} (h : s.Canonical)
    (hw : devWrite s fn va bs = .ok t) : t.Canonical := canonical_writeBy h hw

theorem canonical_fault {s : State} (h : s.Canonical) (fn : Nat) (r : FaultRec) : (s.fault fn r).Canonical := by
  unfold State.fault
  dsimp only
  split
  · exact h
  · split
    · exact h
    · rename_i t hw
      have := canonical_devWrite h hw
      split <;> exact this

theorem canonical_devFault {s : State} (h : s.Canonical) (fn : Nat) (c : BitVec 8) (va : Word) : (s.devFault fn c va).Canonical :=
  canonical_fault h ..

theorem canonical_taskFault {s : State} (h : s.Canonical) (t : Task) (c : BitVec 8) (va : Word) : (s.taskFault t c va).Canonical :=
  canonical_fault h ..

theorem canonical_devPut {s : State} (h : s.Canonical) (fn : Nat) (va : Word) (bs : List Byte) : (s.devPut fn va bs).Canonical := by
  unfold State.devPut
  split
  · rename_i t hw; exact canonical_devWrite h hw
  · exact canonical_devFault h ..

theorem canonical_hdrPut {s : State} (h : s.Canonical) (fn : Nat) (va : Word) (bs : List Byte) : (s.hdrPut fn va bs).Canonical := by
  unfold State.hdrPut
  split
  · rename_i t hw; exact canonical_writeBy h hw
  · exact canonical_devFault h ..

theorem canonical_capture {s : State} (h : s.Canonical) (fn : Nat) (blk : Word) (k : Nat) : (s.capture fn blk k).Canonical := by
  unfold State.capture
  dsimp only
  split
  · exact h
  · split
    · exact h
    · split
      · exact canonical_devFault h ..
      · rename_i d _ _
        exact canonical_devPut (canonical_underSlot (h.withMem (wf_memCopyUnit h.1 _ d)) ..) ..

theorem canonical_captureAt {s : State} (h : s.Canonical) (resolve : State → Word → Except (BitVec 8) (Nat × Word)) (fn : Nat)
    (blk va : Word) (n : Nat) : (s.captureAt resolve fn blk va n).Canonical :=
  foldl_keeps (P := State.Canonical) (fun _ x h => by
    split
    · exact canonical_capture h ..
    · exact h) _ h

theorem canonical_blkPut {s : State} (h : s.Canonical) (fn : Nat) (blk va : Word) (bs : List Byte) :
    (s.blkPut fn blk va bs).Canonical := canonical_devPut (canonical_captureAt h ..) ..

theorem canonical_hdrBlkPut {s : State} (h : s.Canonical) (fn : Nat) (blk va : Word) (bs : List Byte) :
    (s.hdrBlkPut fn blk va bs).Canonical := canonical_hdrPut (canonical_captureAt h ..) ..

theorem canonical_put {s : State} (h : s.Canonical) (k : Nat) (slot : BitVec 7) (bs : List Byte) (clk : Nat) :
    (s.put k slot bs clk).2.Canonical := by
  exact canonical_storeAt (canonical_underSlot (canonical_capture h ..) ..) ..

theorem canonical_storeTarget {s : State} (h : s.Canonical) (va : Word) (t : Target) (bs : List Byte) (clk : Nat) :
    (storeTarget s va t bs clk).2.Canonical := by
  unfold storeTarget
  split
  · split
    · exact h
    · exact canonical_put h ..
  · dsimp only
    split
    · exact h
    · exact canonical_storeAt h ..
  · exact canonical_storeAt h ..
  · exact canonical_storeAt h ..
  · exact h
  · exact h

theorem canonical_plainBytes {s : State} (h : s.Canonical) (k : Nat) (slot : BitVec 7) (n : Nat) :
    (s.plainBytes k slot n).2.Canonical := by
  unfold State.plainBytes
  dsimp only
  repeat' split
  all_goals exact h

theorem canonical_loadTimes {s : State} (h : s.Canonical) (k n c : Nat) : (loadTimes s k n c).2.Canonical := by
  obtain ⟨L, m, e⟩ := loadTimes_eq s k n c
  rw [e]
  exact h

theorem canonical_hostTimes {s : State} (h : s.Canonical) (k n c : Nat) : (hostTimes s k n c).2.Canonical := by
  obtain ⟨L, m, e⟩ := hostTimes_eq s k n c
  rw [e]
  exact h

theorem canonical_leased {s : State} (h : s.Canonical) (k n : Nat) : (s.leased k n).Canonical := canonical_loadTimes h k n _

theorem canonical_loadTarget {s : State} (h : s.Canonical) (va : Word) (t : Target) (n : Nat) :
    (loadTarget s va t n).2.Canonical := by
  unfold loadTarget
  split
  · exact h
  · exact h
  · exact canonical_hostTimes h ..
  · exact canonical_leased h ..
  · split
    · exact h
    · exact canonical_leased (canonical_plainBytes h ..) ..
  · dsimp only
    have h1 : ∀ b : Bool, ∀ t : Nat, (if b then s else s.clockTo t).Canonical := fun b t => by cases b <;> exact h
    split
    · exact h1 ..
    · exact canonical_leased (h1 ..) ..

theorem canonical_mergeByte {s : State} (h : s.Canonical) (fn : Nat) (blk : Word) (a : Touch) (x : Byte) :
    (s.mergeByte fn blk a x).Canonical := by
  unfold State.mergeByte
  dsimp only
  have hc := canonical_capture h fn blk a.loc
  refine State.Canonical.withMem ?_ (wf_memSet ?_ ..)
  all_goals repeat' split
  all_goals first
    | exact hc
    | exact hc.1
    | exact canonical_underSlot hc ..
    | exact (canonical_underSlot hc ..).1

/-! ## Objects and channels -/

theorem canonical_objFree {s : State} (h : s.Canonical) (id : Nat) : (s.objFree id).Canonical := by
  unfold State.objFree
  split
  · exact h
  · dsimp only
    split <;> exact ⟨wf_memClear h.1 .., h.2⟩

theorem canonical_objDropOne {s : State} (h : s.Canonical) (id : Nat) : (s.objDropOne id).Canonical := by
  unfold State.objDropOne
  dsimp only
  have h1 : (s.mapObj id fun o => { o with handles := o.handles - 1 }).Canonical := h
  repeat' split
  · exact canonical_objFree h1 id
  · exact h1
  · exact h1

theorem canonical_publishAt {s : State} (h : s.Canonical) (id td : Nat) : (s.publishAt id td).Canonical := by
  unfold State.publishAt
  split
  · exact h
  · exact canonical_objDropOne (s := (s.mapObj id _).noteTime _ _) h id

theorem canonical_objPublish {s : State} (h : s.Canonical) (id c : Nat) : (s.objPublish id c).Canonical :=
  canonical_publishAt (s := (wholeTime s _ _ c).2) h ..

theorem canonical_objAbandon {s : State} (h : s.Canonical) (id : Nat) : (s.objAbandon id).Canonical :=
  canonical_objDropOne (s := s.mapObj id _) h id

theorem canonical_sendFlit {s : State} (h : s.Canonical) (p clk fn : Nat) (ch : BitVec 12) (num : BitVec 32) (m : LinkMsg) :
    (s.sendFlit p clk fn ch num m).Canonical := h

theorem canonical_linkFault {s : State} (h : s.Canonical) (fn p : Nat) : (s.linkFault fn p).Canonical := by
  unfold State.linkFault
  dsimp only
  split
  · exact h
  · split
    · exact canonical_devFault h ..
    · exact h

theorem canonical_entryFaults {s : State} (h : s.Canonical) (pkg : BitVec 8) (fn : Nat) : (s.entryFaults pkg fn).2.Canonical := by
  refine foldl_keeps (P := fun a : Bool × State => a.2.Canonical) ?_ _ h
  intro a i h
  split
  · exact h
  · split
    · exact h
    · exact canonical_linkFault h ..

theorem canonical_pkgFaults {s : State} (h : s.Canonical) (pkg : BitVec 8) : (s.pkgFaults pkg).Canonical := by
  refine foldl_keeps (P := fun a : Bool × State => a.2.Canonical) ?_ _ h
  intro a f h
  split
  · exact h
  · exact canonical_entryFaults h ..

theorem canonical_sendPkg {s : State} (h : s.Canonical) (pkg : BitVec 8) (clk : Nat) (m : LinkMsg) :
    (s.sendPkg pkg clk m).Canonical := by
  unfold State.sendPkg State.sendPkg?
  dsimp only
  cases (s.pkgFaults pkg).pkgPort pkg <;> exact canonical_pkgFaults h _

theorem canonical_disposeHandle {s : State} (h : s.Canonical) (w : BitVec 128) (p : Bool) (clk : Nat) :
    (s.disposeHandle w p clk).Canonical := by
  unfold State.disposeHandle
  repeat' split
  all_goals first
    | exact h
    | exact canonical_objDropOne h _
    | exact canonical_objPublish h _ _
    | exact canonical_objAbandon h _
    | exact canonical_sendPkg h ..

theorem canonical_discardHandle {s : State} (h : s.Canonical) (who : TaskId) (w : BitVec 128) :
    (s.discardHandle who w).Canonical := by
  unfold State.discardHandle
  repeat' split
  all_goals first
    | exact h
    | exact canonical_disposeHandle h ..

theorem canonical_addClosed {s : State} (h : s.Canonical) (c : Chan) (n : Nat) : (s.addClosed c n).Canonical := by
  unfold State.addClosed
  dsimp only
  repeat' split
  · exact h
  all_goals first
    | exact canonical_devFault h ..
    | exact canonical_blkPut h ..

theorem canonical_discardFrom {s : State} (h : s.Canonical) (who : TaskId) (c : Chan) (ws : List ChWord) :
    (s.discardFrom who c ws).Canonical :=
  foldl_keeps (P := State.Canonical) (fun _ _ h => canonical_discardHandle h ..) (pairsOf ws) (canonical_addClosed h ..)

theorem canonical_discard {s : State} (h : s.Canonical) (c : Chan) (ws : List ChWord) : (s.discard c ws).Canonical :=
  canonical_discardFrom h ..

theorem canonical_push {s : State} (h : s.Canonical) (ch : BitVec 12) (ws : List ChWord) : (s.push ch ws).Canonical := by
  unfold State.push
  split
  · exact h
  · dsimp only
    split
    · exact canonical_discardFrom (s := s.count 0x030 ws.length) h ..
    · exact h

theorem canonical_pop {s : State} (h : s.Canonical) (ch : BitVec 12) : (s.pop ch).Canonical := by
  unfold State.pop
  repeat' split
  all_goals exact h

theorem canonical_popSrcs {s : State} (h : s.Canonical) (rs : List (BitVec 5)) : (s.popSrcs rs).Canonical := by
  refine foldl_keeps (P := State.Canonical) ?_ _ h
  intro s r h
  split
  · exact canonical_pop h _
  · exact h

theorem canonical_tellClosed {s : State} (h : s.Canonical) (c : Chan) : (s.tellClosed c).Canonical := by
  unfold State.tellClosed
  repeat' split
  all_goals first
    | exact h
    | exact canonical_linkFault h ..

theorem canonical_countFor {s : State} (h : s.Canonical) (t : TaskId) (e n : Nat) : (s.countFor t e n).Canonical := h

theorem canonical_discardMsg {s : State} (h : s.Canonical) (c : Chan) (n : Nat) : (s.discardMsg c n).Canonical :=
  canonical_countFor (canonical_addClosed h ..) ..

theorem canonical_closeConsumer {s : State} (h : s.Canonical) (c : Chan) : (s.closeConsumer c).Canonical :=
  canonical_tellClosed (canonical_discardMsg
    (canonical_discard (s := (s.mapChan c.fn c.blk c.ch _).spillReturn c.fn c.blk _) h ..) ..) ..

end Sys2Proof.Machine
end

