-- ==== Sys2Proof/Laws/Dispatch.lean ====
section
/-!
SUPPORT. Sys2Proof/Laws/Dispatch.lean: what exec calls, one equation per constructor, so that no proof unfolds exec.
-/

set_option Elab.async false

namespace Sys2Proof.Machine

theorem exec_add (g : Guard) (d : BitVec 5) (a : BitVec 5) (b : BitVec 5) (s : State) : exec (.add g d a b) s = execAdd g d a b s := rfl
theorem exec_addW (g : Guard) (d : BitVec 5) (a : BitVec 5) (b : BitVec 5) (s : State) : exec (.addW g d a b) s = execAddW g d a b s := rfl
theorem exec_sub (g : Guard) (d : BitVec 5) (a : BitVec 5) (b : BitVec 5) (s : State) : exec (.sub g d a b) s = execSub g d a b s := rfl
theorem exec_subW (g : Guard) (d : BitVec 5) (a : BitVec 5) (b : BitVec 5) (s : State) : exec (.subW g d a b) s = execSubW g d a b s := rfl
theorem exec_mul (g : Guard) (d : BitVec 5) (a : BitVec 5) (b : BitVec 5) (s : State) : exec (.mul g d a b) s = execMul g d a b s := rfl
theorem exec_mulW (g : Guard) (d : BitVec 5) (a : BitVec 5) (b : BitVec 5) (s : State) : exec (.mulW g d a b) s = execMulW g d a b s := rfl
theorem exec_mulh (g : Guard) (d : BitVec 5) (a : BitVec 5) (b : BitVec 5) (s : State) : exec (.mulh g d a b) s = execMulh g d a b s := rfl
theorem exec_mulhu (g : Guard) (d : BitVec 5) (a : BitVec 5) (b : BitVec 5) (s : State) : exec (.mulhu g d a b) s = execMulhu g d a b s := rfl
theorem exec_div (g : Guard) (d : BitVec 5) (a : BitVec 5) (b : BitVec 5) (s : State) : exec (.div g d a b) s = execDiv g d a b s := rfl
theorem exec_divW (g : Guard) (d : BitVec 5) (a : BitVec 5) (b : BitVec 5) (s : State) : exec (.divW g d a b) s = execDivW g d a b s := rfl
theorem exec_divu (g : Guard) (d : BitVec 5) (a : BitVec 5) (b : BitVec 5) (s : State) : exec (.divu g d a b) s = execDivu g d a b s := rfl
theorem exec_divuW (g : Guard) (d : BitVec 5) (a : BitVec 5) (b : BitVec 5) (s : State) : exec (.divuW g d a b) s = execDivuW g d a b s := rfl
theorem exec_rem (g : Guard) (d : BitVec 5) (a : BitVec 5) (b : BitVec 5) (s : State) : exec (.rem g d a b) s = execRem g d a b s := rfl
theorem exec_remW (g : Guard) (d : BitVec 5) (a : BitVec 5) (b : BitVec 5) (s : State) : exec (.remW g d a b) s = execRemW g d a b s := rfl
theorem exec_remu (g : Guard) (d : BitVec 5) (a : BitVec 5) (b : BitVec 5) (s : State) : exec (.remu g d a b) s = execRemu g d a b s := rfl
theorem exec_remuW (g : Guard) (d : BitVec 5) (a : BitVec 5) (b : BitVec 5) (s : State) : exec (.remuW g d a b) s = execRemuW g d a b s := rfl
theorem exec_min (g : Guard) (d : BitVec 5) (a : BitVec 5) (b : BitVec 5) (s : State) : exec (.min g d a b) s = execMin g d a b s := rfl
theorem exec_max (g : Guard) (d : BitVec 5) (a : BitVec 5) (b : BitVec 5) (s : State) : exec (.max g d a b) s = execMax g d a b s := rfl
theorem exec_minu (g : Guard) (d : BitVec 5) (a : BitVec 5) (b : BitVec 5) (s : State) : exec (.minu g d a b) s = execMinu g d a b s := rfl
theorem exec_maxu (g : Guard) (d : BitVec 5) (a : BitVec 5) (b : BitVec 5) (s : State) : exec (.maxu g d a b) s = execMaxu g d a b s := rfl
theorem exec_and (g : Guard) (d : BitVec 5) (a : BitVec 5) (b : BitVec 5) (s : State) : exec (.and g d a b) s = execAnd g d a b s := rfl
theorem exec_or (g : Guard) (d : BitVec 5) (a : BitVec 5) (b : BitVec 5) (s : State) : exec (.or g d a b) s = execOr g d a b s := rfl
theorem exec_xor (g : Guard) (d : BitVec 5) (a : BitVec 5) (b : BitVec 5) (s : State) : exec (.xor g d a b) s = execXor g d a b s := rfl
theorem exec_shl (g : Guard) (d : BitVec 5) (a : BitVec 5) (b : BitVec 5) (s : State) : exec (.shl g d a b) s = execShl g d a b s := rfl
theorem exec_shlW (g : Guard) (d : BitVec 5) (a : BitVec 5) (b : BitVec 5) (s : State) : exec (.shlW g d a b) s = execShlW g d a b s := rfl
theorem exec_shr (g : Guard) (d : BitVec 5) (a : BitVec 5) (b : BitVec 5) (s : State) : exec (.shr g d a b) s = execShr g d a b s := rfl
theorem exec_shrW (g : Guard) (d : BitVec 5) (a : BitVec 5) (b : BitVec 5) (s : State) : exec (.shrW g d a b) s = execShrW g d a b s := rfl
theorem exec_sra (g : Guard) (d : BitVec 5) (a : BitVec 5) (b : BitVec 5) (s : State) : exec (.sra g d a b) s = execSra g d a b s := rfl
theorem exec_sraW (g : Guard) (d : BitVec 5) (a : BitVec 5) (b : BitVec 5) (s : State) : exec (.sraW g d a b) s = execSraW g d a b s := rfl
theorem exec_clz (g : Guard) (d : BitVec 5) (a : BitVec 5) (s : State) : exec (.clz g d a) s = execClz g d a s := rfl
theorem exec_clzW (g : Guard) (d : BitVec 5) (a : BitVec 5) (s : State) : exec (.clzW g d a) s = execClzW g d a s := rfl
theorem exec_ctz (g : Guard) (d : BitVec 5) (a : BitVec 5) (s : State) : exec (.ctz g d a) s = execCtz g d a s := rfl
theorem exec_ctzW (g : Guard) (d : BitVec 5) (a : BitVec 5) (s : State) : exec (.ctzW g d a) s = execCtzW g d a s := rfl
theorem exec_popc (g : Guard) (d : BitVec 5) (a : BitVec 5) (s : State) : exec (.popc g d a) s = execPopc g d a s := rfl
theorem exec_popcW (g : Guard) (d : BitVec 5) (a : BitVec 5) (s : State) : exec (.popcW g d a) s = execPopcW g d a s := rfl
theorem exec_sextB (g : Guard) (d : BitVec 5) (a : BitVec 5) (s : State) : exec (.sextB g d a) s = execSextB g d a s := rfl
theorem exec_sextH (g : Guard) (d : BitVec 5) (a : BitVec 5) (s : State) : exec (.sextH g d a) s = execSextH g d a s := rfl
theorem exec_sextW (g : Guard) (d : BitVec 5) (a : BitVec 5) (s : State) : exec (.sextW g d a) s = execSextW g d a s := rfl
theorem exec_zextB (g : Guard) (d : BitVec 5) (a : BitVec 5) (s : State) : exec (.zextB g d a) s = execZextB g d a s := rfl
theorem exec_zextH (g : Guard) (d : BitVec 5) (a : BitVec 5) (s : State) : exec (.zextH g d a) s = execZextH g d a s := rfl
theorem exec_zextW (g : Guard) (d : BitVec 5) (a : BitVec 5) (s : State) : exec (.zextW g d a) s = execZextW g d a s := rfl
theorem exec_addi (g : Guard) (d : BitVec 5) (a : BitVec 5) (imm : BitVec 12) (s : State) : exec (.addi g d a imm) s = execAddi g d a imm s := rfl
theorem exec_addiW (g : Guard) (d : BitVec 5) (a : BitVec 5) (imm : BitVec 12) (s : State) : exec (.addiW g d a imm) s = execAddiW g d a imm s := rfl
theorem exec_andi (g : Guard) (d : BitVec 5) (a : BitVec 5) (imm : BitVec 12) (s : State) : exec (.andi g d a imm) s = execAndi g d a imm s := rfl
theorem exec_ori (g : Guard) (d : BitVec 5) (a : BitVec 5) (imm : BitVec 12) (s : State) : exec (.ori g d a imm) s = execOri g d a imm s := rfl
theorem exec_xori (g : Guard) (d : BitVec 5) (a : BitVec 5) (imm : BitVec 12) (s : State) : exec (.xori g d a imm) s = execXori g d a imm s := rfl
theorem exec_shlImm (g : Guard) (d : BitVec 5) (a : BitVec 5) (sh : BitVec 6) (s : State) : exec (.shlImm g d a sh) s = execShlImm g d a sh s := rfl
theorem exec_shlWImm (g : Guard) (d : BitVec 5) (a : BitVec 5) (sh : BitVec 6) (s : State) : exec (.shlWImm g d a sh) s = execShlWImm g d a sh s := rfl
theorem exec_shrImm (g : Guard) (d : BitVec 5) (a : BitVec 5) (sh : BitVec 6) (s : State) : exec (.shrImm g d a sh) s = execShrImm g d a sh s := rfl
theorem exec_shrWImm (g : Guard) (d : BitVec 5) (a : BitVec 5) (sh : BitVec 6) (s : State) : exec (.shrWImm g d a sh) s = execShrWImm g d a sh s := rfl
theorem exec_sraImm (g : Guard) (d : BitVec 5) (a : BitVec 5) (sh : BitVec 6) (s : State) : exec (.sraImm g d a sh) s = execSraImm g d a sh s := rfl
theorem exec_sraWImm (g : Guard) (d : BitVec 5) (a : BitVec 5) (sh : BitVec 6) (s : State) : exec (.sraWImm g d a sh) s = execSraWImm g d a sh s := rfl
theorem exec_li (g : Guard) (d : BitVec 5) (imm : BitVec 17) (s : State) : exec (.li g d imm) s = execLi g d imm s := rfl
theorem exec_lih (g : Guard) (d : BitVec 5) (imm : BitVec 17) (s : State) : exec (.lih g d imm) s = execLih g d imm s := rfl
theorem exec_addpc (g : Guard) (d : BitVec 5) (imm : BitVec 17) (s : State) : exec (.addpc g d imm) s = execAddpc g d imm s := rfl
theorem exec_cmpEqImm (g : Guard) (d : BitVec 5) (a : BitVec 5) (imm : BitVec 12) (s : State) : exec (.cmpEqImm g d a imm) s = execCmpEqImm g d a imm s := rfl
theorem exec_cmpNeImm (g : Guard) (d : BitVec 5) (a : BitVec 5) (imm : BitVec 12) (s : State) : exec (.cmpNeImm g d a imm) s = execCmpNeImm g d a imm s := rfl
theorem exec_cmpLtImm (g : Guard) (d : BitVec 5) (a : BitVec 5) (imm : BitVec 12) (s : State) : exec (.cmpLtImm g d a imm) s = execCmpLtImm g d a imm s := rfl
theorem exec_cmpLeImm (g : Guard) (d : BitVec 5) (a : BitVec 5) (imm : BitVec 12) (s : State) : exec (.cmpLeImm g d a imm) s = execCmpLeImm g d a imm s := rfl
theorem exec_cmpLtuImm (g : Guard) (d : BitVec 5) (a : BitVec 5) (imm : BitVec 12) (s : State) : exec (.cmpLtuImm g d a imm) s = execCmpLtuImm g d a imm s := rfl
theorem exec_cmpLeuImm (g : Guard) (d : BitVec 5) (a : BitVec 5) (imm : BitVec 12) (s : State) : exec (.cmpLeuImm g d a imm) s = execCmpLeuImm g d a imm s := rfl
theorem exec_cmpEq (g : Guard) (d : BitVec 5) (a : BitVec 5) (b : BitVec 5) (s : State) : exec (.cmpEq g d a b) s = execCmpEq g d a b s := rfl
theorem exec_cmpNe (g : Guard) (d : BitVec 5) (a : BitVec 5) (b : BitVec 5) (s : State) : exec (.cmpNe g d a b) s = execCmpNe g d a b s := rfl
theorem exec_cmpLt (g : Guard) (d : BitVec 5) (a : BitVec 5) (b : BitVec 5) (s : State) : exec (.cmpLt g d a b) s = execCmpLt g d a b s := rfl
theorem exec_cmpLe (g : Guard) (d : BitVec 5) (a : BitVec 5) (b : BitVec 5) (s : State) : exec (.cmpLe g d a b) s = execCmpLe g d a b s := rfl
theorem exec_cmpLtu (g : Guard) (d : BitVec 5) (a : BitVec 5) (b : BitVec 5) (s : State) : exec (.cmpLtu g d a b) s = execCmpLtu g d a b s := rfl
theorem exec_cmpLeu (g : Guard) (d : BitVec 5) (a : BitVec 5) (b : BitVec 5) (s : State) : exec (.cmpLeu g d a b) s = execCmpLeu g d a b s := rfl
theorem exec_gand (g : Guard) (d : BitVec 5) (a : BitVec 5) (b : BitVec 5) (s : State) : exec (.gand g d a b) s = execGand g d a b s := rfl
theorem exec_gor (g : Guard) (d : BitVec 5) (a : BitVec 5) (b : BitVec 5) (s : State) : exec (.gor g d a b) s = execGor g d a b s := rfl
theorem exec_gxor (g : Guard) (d : BitVec 5) (a : BitVec 5) (b : BitVec 5) (s : State) : exec (.gxor g d a b) s = execGxor g d a b s := rfl
theorem exec_gnot (g : Guard) (d : BitVec 5) (a : BitVec 5) (s : State) : exec (.gnot g d a) s = execGnot g d a s := rfl
theorem exec_br (g : Guard) (off : BitVec 22) (s : State) : exec (.br g off) s = execBr g off s := rfl
theorem exec_bl (g : Guard) (off : BitVec 22) (s : State) : exec (.bl g off) s = execBl g off s := rfl
theorem exec_bi (g : Guard) (a : BitVec 5) (imm : BitVec 12) (s : State) : exec (.bi g a imm) s = execBi g a imm s := rfl
theorem exec_rep (g : Guard) (a : BitVec 5) (imm : BitVec 12) (s : State) : exec (.rep g a imm) s = execRep g a imm s := rfl
theorem exec_waitch (g : Guard) (a : BitVec 5) (s : State) : exec (.waitch g a) s = execWaitch g a s := rfl
theorem exec_yield (g : Guard) (s : State) : exec (.yield g) s = execYield g s := rfl
theorem exec_exit (g : Guard) (s : State) : exec (.exit g) s = execExit g s := rfl
theorem exec_syncd (g : Guard) (s : State) : exec (.syncd g) s = execSyncd g s := rfl
theorem exec_wfe (g : Guard) (s : State) : exec (.wfe g) s = execWfe g s := rfl
theorem exec_eret (g : Guard) (s : State) : exec (.eret g) s = execEret g s := rfl
theorem exec_bkpt (g : Guard) (s : State) : exec (.bkpt g) s = execBkpt g s := rfl
theorem exec_bara (g : Guard) (n : BitVec 12) (s : State) : exec (.bara g n) s = execBara g n s := rfl
theorem exec_barw (g : Guard) (n : BitVec 12) (s : State) : exec (.barw g n) s = execBarw g n s := rfl
theorem exec_sel (g : Guard) (d : BitVec 5) (a : BitVec 5) (b : BitVec 5) (p : BitVec 3) (s : State) : exec (.sel g d a b p) s = execSel g d a b p s := rfl
theorem exec_ldB (g : Guard) (d : BitVec 5) (a : BitVec 5) (off : BitVec 12) (s : State) : exec (.ldB g d a off) s = execLdB g d a off s := rfl
theorem exec_ldBu (g : Guard) (d : BitVec 5) (a : BitVec 5) (off : BitVec 12) (s : State) : exec (.ldBu g d a off) s = execLdBu g d a off s := rfl
theorem exec_ldH (g : Guard) (d : BitVec 5) (a : BitVec 5) (off : BitVec 12) (s : State) : exec (.ldH g d a off) s = execLdH g d a off s := rfl
theorem exec_ldHu (g : Guard) (d : BitVec 5) (a : BitVec 5) (off : BitVec 12) (s : State) : exec (.ldHu g d a off) s = execLdHu g d a off s := rfl
theorem exec_ldW (g : Guard) (d : BitVec 5) (a : BitVec 5) (off : BitVec 12) (s : State) : exec (.ldW g d a off) s = execLdW g d a off s := rfl
theorem exec_ldWu (g : Guard) (d : BitVec 5) (a : BitVec 5) (off : BitVec 12) (s : State) : exec (.ldWu g d a off) s = execLdWu g d a off s := rfl
theorem exec_ldD (g : Guard) (d : BitVec 5) (a : BitVec 5) (off : BitVec 12) (s : State) : exec (.ldD g d a off) s = execLdD g d a off s := rfl
theorem exec_extr (g : Guard) (d : BitVec 5) (a : BitVec 5) (wm1 : BitVec 6) (pos : BitVec 6) (s : State) : exec (.extr g d a wm1 pos) s = execExtr g d a wm1 pos s := rfl
theorem exec_stB (g : Guard) (x : BitVec 5) (a : BitVec 5) (off : BitVec 12) (s : State) : exec (.stB g x a off) s = execStB g x a off s := rfl
theorem exec_stH (g : Guard) (x : BitVec 5) (a : BitVec 5) (off : BitVec 12) (s : State) : exec (.stH g x a off) s = execStH g x a off s := rfl
theorem exec_stW (g : Guard) (x : BitVec 5) (a : BitVec 5) (off : BitVec 12) (s : State) : exec (.stW g x a off) s = execStW g x a off s := rfl
theorem exec_stD (g : Guard) (x : BitVec 5) (a : BitVec 5) (off : BitVec 12) (s : State) : exec (.stD g x a off) s = execStD g x a off s := rfl
theorem exec_ldf (g : Guard) (d : BitVec 5) (a : BitVec 5) (off : BitVec 12) (s : State) : exec (.ldf g d a off) s = execLdf g d a off s := rfl
theorem exec_ldfS (g : Guard) (d : BitVec 5) (a : BitVec 5) (off : BitVec 12) (s : State) : exec (.ldfS g d a off) s = execLdfS g d a off s := rfl
theorem exec_stf (g : Guard) (x : BitVec 5) (a : BitVec 5) (off : BitVec 12) (s : State) : exec (.stf g x a off) s = execStf g x a off s := rfl
theorem exec_stfS (g : Guard) (x : BitVec 5) (a : BitVec 5) (off : BitVec 12) (s : State) : exec (.stfS g x a off) s = execStfS g x a off s := rfl
theorem exec_ldcW (g : Guard) (d : BitVec 5) (a : BitVec 5) (off : BitVec 12) (s : State) : exec (.ldcW g d a off) s = execLdcW g d a off s := rfl
theorem exec_ldcWu (g : Guard) (d : BitVec 5) (a : BitVec 5) (off : BitVec 12) (s : State) : exec (.ldcWu g d a off) s = execLdcWu g d a off s := rfl
theorem exec_ldcD (g : Guard) (d : BitVec 5) (a : BitVec 5) (off : BitVec 12) (s : State) : exec (.ldcD g d a off) s = execLdcD g d a off s := rfl
theorem exec_pref (g : Guard) (lvl : BitVec 5) (a : BitVec 5) (off : BitVec 12) (s : State) : exec (.pref g lvl a off) s = execPref g lvl a off s := rfl
theorem exec_aadd (g : Guard) (d : BitVec 5) (a : BitVec 5) (b : BitVec 5) (s : State) : exec (.aadd g d a b) s = execAadd g d a b s := rfl
theorem exec_aaddW (g : Guard) (d : BitVec 5) (a : BitVec 5) (b : BitVec 5) (s : State) : exec (.aaddW g d a b) s = execAaddW g d a b s := rfl
theorem exec_aand (g : Guard) (d : BitVec 5) (a : BitVec 5) (b : BitVec 5) (s : State) : exec (.aand g d a b) s = execAand g d a b s := rfl
theorem exec_aandW (g : Guard) (d : BitVec 5) (a : BitVec 5) (b : BitVec 5) (s : State) : exec (.aandW g d a b) s = execAandW g d a b s := rfl
theorem exec_aor (g : Guard) (d : BitVec 5) (a : BitVec 5) (b : BitVec 5) (s : State) : exec (.aor g d a b) s = execAor g d a b s := rfl
theorem exec_aorW (g : Guard) (d : BitVec 5) (a : BitVec 5) (b : BitVec 5) (s : State) : exec (.aorW g d a b) s = execAorW g d a b s := rfl
theorem exec_axor (g : Guard) (d : BitVec 5) (a : BitVec 5) (b : BitVec 5) (s : State) : exec (.axor g d a b) s = execAxor g d a b s := rfl
theorem exec_axorW (g : Guard) (d : BitVec 5) (a : BitVec 5) (b : BitVec 5) (s : State) : exec (.axorW g d a b) s = execAxorW g d a b s := rfl
theorem exec_amin (g : Guard) (d : BitVec 5) (a : BitVec 5) (b : BitVec 5) (s : State) : exec (.amin g d a b) s = execAmin g d a b s := rfl
theorem exec_aminW (g : Guard) (d : BitVec 5) (a : BitVec 5) (b : BitVec 5) (s : State) : exec (.aminW g d a b) s = execAminW g d a b s := rfl
theorem exec_amax (g : Guard) (d : BitVec 5) (a : BitVec 5) (b : BitVec 5) (s : State) : exec (.amax g d a b) s = execAmax g d a b s := rfl
theorem exec_amaxW (g : Guard) (d : BitVec 5) (a : BitVec 5) (b : BitVec 5) (s : State) : exec (.amaxW g d a b) s = execAmaxW g d a b s := rfl
theorem exec_aminu (g : Guard) (d : BitVec 5) (a : BitVec 5) (b : BitVec 5) (s : State) : exec (.aminu g d a b) s = execAminu g d a b s := rfl
theorem exec_aminuW (g : Guard) (d : BitVec 5) (a : BitVec 5) (b : BitVec 5) (s : State) : exec (.aminuW g d a b) s = execAminuW g d a b s := rfl
theorem exec_amaxu (g : Guard) (d : BitVec 5) (a : BitVec 5) (b : BitVec 5) (s : State) : exec (.amaxu g d a b) s = execAmaxu g d a b s := rfl
theorem exec_amaxuW (g : Guard) (d : BitVec 5) (a : BitVec 5) (b : BitVec 5) (s : State) : exec (.amaxuW g d a b) s = execAmaxuW g d a b s := rfl
theorem exec_aswp (g : Guard) (d : BitVec 5) (a : BitVec 5) (b : BitVec 5) (s : State) : exec (.aswp g d a b) s = execAswp g d a b s := rfl
theorem exec_aswpW (g : Guard) (d : BitVec 5) (a : BitVec 5) (b : BitVec 5) (s : State) : exec (.aswpW g d a b) s = execAswpW g d a b s := rfl
theorem exec_acas (g : Guard) (d : BitVec 5) (a : BitVec 5) (b : BitVec 5) (s : State) : exec (.acas g d a b) s = execAcas g d a b s := rfl
theorem exec_acasW (g : Guard) (d : BitVec 5) (a : BitVec 5) (b : BitVec 5) (s : State) : exec (.acasW g d a b) s = execAcasW g d a b s := rfl
theorem exec_fadd (g : Guard) (d : BitVec 5) (a : BitVec 5) (b : BitVec 5) (s : State) : exec (.fadd g d a b) s = execFadd g d a b s := rfl
theorem exec_faddS (g : Guard) (d : BitVec 5) (a : BitVec 5) (b : BitVec 5) (s : State) : exec (.faddS g d a b) s = execFaddS g d a b s := rfl
theorem exec_fsub (g : Guard) (d : BitVec 5) (a : BitVec 5) (b : BitVec 5) (s : State) : exec (.fsub g d a b) s = execFsub g d a b s := rfl
theorem exec_fsubS (g : Guard) (d : BitVec 5) (a : BitVec 5) (b : BitVec 5) (s : State) : exec (.fsubS g d a b) s = execFsubS g d a b s := rfl
theorem exec_fmul (g : Guard) (d : BitVec 5) (a : BitVec 5) (b : BitVec 5) (s : State) : exec (.fmul g d a b) s = execFmul g d a b s := rfl
theorem exec_fmulS (g : Guard) (d : BitVec 5) (a : BitVec 5) (b : BitVec 5) (s : State) : exec (.fmulS g d a b) s = execFmulS g d a b s := rfl
theorem exec_fdiv (g : Guard) (d : BitVec 5) (a : BitVec 5) (b : BitVec 5) (s : State) : exec (.fdiv g d a b) s = execFdiv g d a b s := rfl
theorem exec_fdivS (g : Guard) (d : BitVec 5) (a : BitVec 5) (b : BitVec 5) (s : State) : exec (.fdivS g d a b) s = execFdivS g d a b s := rfl
theorem exec_fsqrt (g : Guard) (d : BitVec 5) (a : BitVec 5) (s : State) : exec (.fsqrt g d a) s = execFsqrt g d a s := rfl
theorem exec_fsqrtS (g : Guard) (d : BitVec 5) (a : BitVec 5) (s : State) : exec (.fsqrtS g d a) s = execFsqrtS g d a s := rfl
theorem exec_ffma (g : Guard) (d : BitVec 5) (a : BitVec 5) (b : BitVec 5) (s : State) : exec (.ffma g d a b) s = execFfma g d a b s := rfl
theorem exec_ffmaS (g : Guard) (d : BitVec 5) (a : BitVec 5) (b : BitVec 5) (s : State) : exec (.ffmaS g d a b) s = execFfmaS g d a b s := rfl
theorem exec_fmin (g : Guard) (d : BitVec 5) (a : BitVec 5) (b : BitVec 5) (s : State) : exec (.fmin g d a b) s = execFmin g d a b s := rfl
theorem exec_fminS (g : Guard) (d : BitVec 5) (a : BitVec 5) (b : BitVec 5) (s : State) : exec (.fminS g d a b) s = execFminS g d a b s := rfl
theorem exec_fmax (g : Guard) (d : BitVec 5) (a : BitVec 5) (b : BitVec 5) (s : State) : exec (.fmax g d a b) s = execFmax g d a b s := rfl
theorem exec_fmaxS (g : Guard) (d : BitVec 5) (a : BitVec 5) (b : BitVec 5) (s : State) : exec (.fmaxS g d a b) s = execFmaxS g d a b s := rfl
theorem exec_fcmpEq (g : Guard) (d : BitVec 5) (a : BitVec 5) (b : BitVec 5) (s : State) : exec (.fcmpEq g d a b) s = execFcmpEq g d a b s := rfl
theorem exec_fcmpEqS (g : Guard) (d : BitVec 5) (a : BitVec 5) (b : BitVec 5) (s : State) : exec (.fcmpEqS g d a b) s = execFcmpEqS g d a b s := rfl
theorem exec_fcmpLt (g : Guard) (d : BitVec 5) (a : BitVec 5) (b : BitVec 5) (s : State) : exec (.fcmpLt g d a b) s = execFcmpLt g d a b s := rfl
theorem exec_fcmpLtS (g : Guard) (d : BitVec 5) (a : BitVec 5) (b : BitVec 5) (s : State) : exec (.fcmpLtS g d a b) s = execFcmpLtS g d a b s := rfl
theorem exec_fcmpLe (g : Guard) (d : BitVec 5) (a : BitVec 5) (b : BitVec 5) (s : State) : exec (.fcmpLe g d a b) s = execFcmpLe g d a b s := rfl
theorem exec_fcmpLeS (g : Guard) (d : BitVec 5) (a : BitVec 5) (b : BitVec 5) (s : State) : exec (.fcmpLeS g d a b) s = execFcmpLeS g d a b s := rfl
theorem exec_fcmpUn (g : Guard) (d : BitVec 5) (a : BitVec 5) (b : BitVec 5) (s : State) : exec (.fcmpUn g d a b) s = execFcmpUn g d a b s := rfl
theorem exec_fcmpUnS (g : Guard) (d : BitVec 5) (a : BitVec 5) (b : BitVec 5) (s : State) : exec (.fcmpUnS g d a b) s = execFcmpUnS g d a b s := rfl
theorem exec_fcvtSD (g : Guard) (d : BitVec 5) (a : BitVec 5) (s : State) : exec (.fcvtSD g d a) s = execFcvtSD g d a s := rfl
theorem exec_fcvtDS (g : Guard) (d : BitVec 5) (a : BitVec 5) (s : State) : exec (.fcvtDS g d a) s = execFcvtDS g d a s := rfl
theorem exec_fcvtLD (g : Guard) (d : BitVec 5) (a : BitVec 5) (s : State) : exec (.fcvtLD g d a) s = execFcvtLD g d a s := rfl
theorem exec_fcvtLuD (g : Guard) (d : BitVec 5) (a : BitVec 5) (s : State) : exec (.fcvtLuD g d a) s = execFcvtLuD g d a s := rfl
theorem exec_fcvtLS (g : Guard) (d : BitVec 5) (a : BitVec 5) (s : State) : exec (.fcvtLS g d a) s = execFcvtLS g d a s := rfl
theorem exec_fcvtLuS (g : Guard) (d : BitVec 5) (a : BitVec 5) (s : State) : exec (.fcvtLuS g d a) s = execFcvtLuS g d a s := rfl
theorem exec_fcvtDL (g : Guard) (d : BitVec 5) (a : BitVec 5) (s : State) : exec (.fcvtDL g d a) s = execFcvtDL g d a s := rfl
theorem exec_fcvtDLu (g : Guard) (d : BitVec 5) (a : BitVec 5) (s : State) : exec (.fcvtDLu g d a) s = execFcvtDLu g d a s := rfl
theorem exec_fcvtSL (g : Guard) (d : BitVec 5) (a : BitVec 5) (s : State) : exec (.fcvtSL g d a) s = execFcvtSL g d a s := rfl
theorem exec_fcvtSLu (g : Guard) (d : BitVec 5) (a : BitVec 5) (s : State) : exec (.fcvtSLu g d a) s = execFcvtSLu g d a s := rfl
theorem exec_fclass (g : Guard) (d : BitVec 5) (a : BitVec 5) (s : State) : exec (.fclass g d a) s = execFclass g d a s := rfl
theorem exec_fclassS (g : Guard) (d : BitVec 5) (a : BitVec 5) (s : State) : exec (.fclassS g d a) s = execFclassS g d a s := rfl
theorem exec_fmvg (g : Guard) (d : BitVec 5) (a : BitVec 5) (s : State) : exec (.fmvg g d a) s = execFmvg g d a s := rfl
theorem exec_gmvf (g : Guard) (d : BitVec 5) (a : BitVec 5) (s : State) : exec (.gmvf g d a) s = execGmvf g d a s := rfl
theorem exec_fli (g : Guard) (d : BitVec 5) (imm : BitVec 16) (s : State) : exec (.fli g d imm) s = execFli g d imm s := rfl
theorem exec_fliS (g : Guard) (d : BitVec 5) (imm : BitVec 16) (s : State) : exec (.fliS g d imm) s = execFliS g d imm s := rfl
theorem exec_ins (g : Guard) (d : BitVec 5) (a : BitVec 5) (wm1 : BitVec 6) (pos : BitVec 6) (s : State) : exec (.ins g d a wm1 pos) s = execIns g d a wm1 pos s := rfl
theorem exec_slnew (g : Guard) (d : BitVec 5) (a : BitVec 5) (b : BitVec 5) (s : State) : exec (.slnew g d a b) s = execSlnew g d a b s := rfl
theorem exec_slmap (g : Guard) (d : BitVec 5) (a : BitVec 5) (s : State) : exec (.slmap g d a) s = execSlmap g d a s := rfl
theorem exec_sldup (g : Guard) (d : BitVec 5) (a : BitVec 5) (s : State) : exec (.sldup g d a) s = execSldup g d a s := rfl
theorem exec_sldrop (g : Guard) (a : BitVec 5) (s : State) : exec (.sldrop g a) s = execSldrop g a s := rfl
theorem exec_hmov (g : Guard) (d : BitVec 5) (a : BitVec 5) (s : State) : exec (.hmov g d a) s = execHmov g d a s := rfl
theorem exec_slxfer (g : Guard) (d : BitVec 5) (a : BitVec 5) (s : State) : exec (.slxfer g d a) s = execSlxfer g d a s := rfl
theorem exec_hrecv (g : Guard) (d : BitVec 5) (a : BitVec 5) (s : State) : exec (.hrecv g d a) s = execHrecv g d a s := rfl
theorem exec_flnew (g : Guard) (d : BitVec 5) (a : BitVec 5) (b : BitVec 5) (s : State) : exec (.flnew g d a b) s = execFlnew g d a b s := rfl
theorem exec_flawait (g : Guard) (a : BitVec 5) (b : BitVec 5) (s : State) : exec (.flawait g a b) s = execFlawait g a b s := rfl
theorem exec_flrel (g : Guard) (a : BitVec 5) (b : BitVec 5) (s : State) : exec (.flrel g a b) s = execFlrel g a b s := rfl
theorem exec_chclose (g : Guard) (a : BitVec 5) (s : State) : exec (.chclose g a) s = execChclose g a s := rfl
theorem exec_scm (g : Guard) (d : BitVec 5) (a : BitVec 5) (s : State) : exec (.scm g d a) s = execScm g d a s := rfl
theorem exec_scw (g : Guard) (a : BitVec 5) (s : State) : exec (.scw g a) s = execScw g a s := rfl
theorem exec_dlaunch (g : Guard) (d : BitVec 5) (a : BitVec 5) (s : State) : exec (.dlaunch g d a) s = execDlaunch g d a s := rfl
theorem exec_rsvpin (g : Guard) (d : BitVec 5) (a : BitVec 5) (b : BitVec 5) (s : State) : exec (.rsvpin g d a b) s = execRsvpin g d a b s := rfl
theorem exec_rsvunpin (g : Guard) (a : BitVec 5) (s : State) : exec (.rsvunpin g a) s = execRsvunpin g a s := rfl
theorem exec_ctron (g : Guard) (k : BitVec 5) (s : State) : exec (.ctron g k) s = execCtron g k s := rfl
theorem exec_ctroff (g : Guard) (k : BitVec 5) (s : State) : exec (.ctroff g k) s = execCtroff g k s := rfl
theorem exec_ctrrd (g : Guard) (d : BitVec 5) (k : BitVec 5) (s : State) : exec (.ctrrd g d k) s = execCtrrd g d k s := rfl
theorem exec_tlbinv (g : Guard) (a : BitVec 5) (s : State) : exec (.tlbinv g a) s = execTlbinv g a s := rfl
theorem exec_mfs (g : Guard) (d : BitVec 5) (sr : BitVec 12) (s : State) : exec (.mfs g d sr) s = execMfs g d sr s := rfl
theorem exec_mts (g : Guard) (sr : BitVec 12) (a : BitVec 5) (s : State) : exec (.mts g sr a) s = execMts g sr a s := rfl
theorem exec_nstepi (g : Guard) (imm : BitVec 17) (s : State) : exec (.nstepi g imm) s = execNstepi g imm s := rfl
theorem exec_trap (g : Guard) (imm : BitVec 12) (s : State) : exec (.trap g imm) s = execTrap g imm s := rfl
theorem exec_ctrsel (g : Guard) (k : BitVec 5) (ev : BitVec 12) (s : State) : exec (.ctrsel g k ev) s = execCtrsel g k ev s := rfl
theorem exec_mark (g : Guard) (imm : BitVec 12) (s : State) : exec (.mark g imm) s = execMark g imm s := rfl
theorem exec_trig (g : Guard) (line : BitVec 12) (s : State) : exec (.trig g line) s = execTrig g line s := rfl
theorem exec_chbind (g : Guard) (d : BitVec 5) (ch : BitVec 12) (s : State) : exec (.chbind g d ch) s = execChbind g d ch s := rfl
theorem exec_nop (low : BitVec 28) (s : State) : exec (.nop low) s = execNop low s := rfl
theorem exec_liw (g : Guard) (d : BitVec 5) (two : Bool) (l0 : BitVec 32) (l1 : BitVec 32) (s : State) : exec (.liw g d two l0 l1) s = execLiw g d two l0 l1 s := rfl
theorem exec_sci (g : Guard) (d : BitVec 5) (a : BitVec 5) (cmd : BitVec 128) (s : State) : exec (.sci g d a cmd) s = execSci g d a cmd s := rfl
theorem exec_scNop (s : State) : exec .scNop s = execScNop s := rfl
theorem exec_scBind (port : BitVec 6) (cls : BitVec 2) (s : State) : exec (.scBind port cls) s = execScBind port cls s := rfl
theorem exec_scFence (s : State) : exec .scFence s = execScFence s := rfl
theorem exec_scTok (port : BitVec 6) (ch : BitVec 12) (tag : BitVec 64) (s : State) : exec (.scTok port ch tag) s = execScTok port ch tag s := rfl
theorem exec_scDrain (port : BitVec 6) (s : State) : exec (.scDrain port) s = execScDrain port s := rfl
theorem exec_scCopy (port : BitVec 6) (blk : BitVec 24) (s : State) : exec (.scCopy port blk) s = execScCopy port blk s := rfl
theorem exec_scRcopy (port : BitVec 6) (blk : BitVec 24) (rop : BitVec 4) (st : BitVec 24) (s : State) : exec (.scRcopy port blk rop st) s = execScRcopy port blk rop st s := rfl
theorem exec_scGath (port : BitVec 6) (blk : BitVec 24) (esz : BitVec 4) (lim : BitVec 24) (s : State) : exec (.scGath port blk esz lim) s = execScGath port blk esz lim s := rfl
theorem exec_scScat (port : BitVec 6) (blk : BitVec 24) (esz : BitVec 4) (lim : BitVec 24) (s : State) : exec (.scScat port blk esz lim) s = execScScat port blk esz lim s := rfl
theorem exec_scFlume (port : BitVec 6) (nslot : BitVec 32) (s : State) : exec (.scFlume port nslot) s = execScFlume port nslot s := rfl
theorem exec_scSlfill (port : BitVec 6) (blk : BitVec 24) (s : State) : exec (.scSlfill port blk) s = execScSlfill port blk s := rfl
theorem exec_scSlsee (port : BitVec 6) (blk : BitVec 24) (s : State) : exec (.scSlsee port blk) s = execScSlsee port blk s := rfl
theorem exec_scCfg (blk : BitVec 24) (s : State) : exec (.scCfg blk) s = execScCfg blk s := rfl
theorem exec_scSwap (s : State) : exec .scSwap s = execScSwap s := rfl
theorem exec_scJob (port : BitVec 6) (blk : BitVec 24) (s : State) : exec (.scJob port blk) s = execScJob port blk s := rfl
theorem exec_scHalo (port : BitVec 6) (blk : BitVec 24) (s : State) : exec (.scHalo port blk) s = execScHalo port blk s := rfl
theorem exec_scColl (port : BitVec 6) (blk : BitVec 24) (s : State) : exec (.scColl port blk) s = execScColl port blk s := rfl
theorem exec_pdot (s : State) : exec .pdot s = execPdot s := rfl
theorem exec_pdots (s : State) : exec .pdots s = execPdots s := rfl
theorem exec_pdotm (s : State) : exec .pdotm s = execPdotm s := rfl
theorem exec_accsw (s : State) : exec .accsw s = execAccsw s := rfl
theorem exec_drain (s : State) : exec .drain s = execDrain s := rfl
theorem exec_enc (s : State) : exec .enc s = execEnc s := rfl
theorem exec_dec (s : State) : exec .dec s = execDec s := rfl
theorem exec_padd (s : State) : exec .padd s = execPadd s := rfl
theorem exec_pscl (s : State) : exec .pscl s = execPscl s := rfl
theorem exec_pneg (s : State) : exec .pneg s = execPneg s := rfl
theorem exec_pmsk (s : State) : exec .pmsk s = execPmsk s := rfl
theorem exec_eadd (s : State) : exec .eadd s = execEadd s := rfl
theorem exec_esub (s : State) : exec .esub s = execEsub s := rfl
theorem exec_emul (s : State) : exec .emul s = execEmul s := rfl
theorem exec_efma (s : State) : exec .efma s = execEfma s := rfl
theorem exec_emin (s : State) : exec .emin s = execEmin s := rfl
theorem exec_emax (s : State) : exec .emax s = execEmax s := rfl
theorem exec_ecmp (s : State) : exec .ecmp s = execEcmp s := rfl
theorem exec_esel (s : State) : exec .esel s = execEsel s := rfl
theorem exec_eexp2 (s : State) : exec .eexp2 s = execEexp2 s := rfl
theorem exec_elog2 (s : State) : exec .elog2 s = execElog2 s := rfl
theorem exec_ercp (s : State) : exec .ercp s = execErcp s := rfl
theorem exec_ersq (s : State) : exec .ersq s = execErsq s := rfl
theorem exec_cvtBf16Fp32 (s : State) : exec .cvtBf16Fp32 s = execCvtBf16Fp32 s := rfl
theorem exec_cvtFp16Fp32 (s : State) : exec .cvtFp16Fp32 s = execCvtFp16Fp32 s := rfl
theorem exec_cvtE4m3Fp32 (s : State) : exec .cvtE4m3Fp32 s = execCvtE4m3Fp32 s := rfl
theorem exec_cvtE5m2Fp32 (s : State) : exec .cvtE5m2Fp32 s = execCvtE5m2Fp32 s := rfl
theorem exec_cvtInt8Fp32 (s : State) : exec .cvtInt8Fp32 s = execCvtInt8Fp32 s := rfl
theorem exec_cvtI4sFp32 (s : State) : exec .cvtI4sFp32 s = execCvtI4sFp32 s := rfl
theorem exec_cvtFp32Bf16 (s : State) : exec .cvtFp32Bf16 s = execCvtFp32Bf16 s := rfl
theorem exec_cvtFp32Fp16 (s : State) : exec .cvtFp32Fp16 s = execCvtFp32Fp16 s := rfl
theorem exec_cvtFp32E4m3 (s : State) : exec .cvtFp32E4m3 s = execCvtFp32E4m3 s := rfl
theorem exec_cvtFp32E5m2 (s : State) : exec .cvtFp32E5m2 s = execCvtFp32E5m2 s := rfl
theorem exec_cvtFp32Int8 (s : State) : exec .cvtFp32Int8 s = execCvtFp32Int8 s := rfl
theorem exec_cvtFp32I4s (s : State) : exec .cvtFp32I4s s = execCvtFp32I4s s := rfl
theorem exec_join (s : State) : exec .join s = execJoin s := rfl
theorem exec_merge (s : State) : exec .merge s = execMerge s := rfl
theorem exec_filt (s : State) : exec .filt s = execFilt s := rfl
theorem exec_agloop (s : State) : exec .agloop s = execAgloop s := rfl
theorem exec_agld (s : State) : exec .agld s = execAgld s := rfl
theorem exec_agst (s : State) : exec .agst s = execAgst s := rfl
theorem exec_agred (s : State) : exec .agred s = execAgred s := rfl
theorem exec_aggath (s : State) : exec .aggath s = execAggath s := rfl
theorem exec_repl (s : State) : exec .repl s = execRepl s := rfl
theorem exec_tokq (s : State) : exec .tokq s = execTokq s := rfl
theorem exec_pass (s : State) : exec .pass s = execPass s := rfl
theorem exec_asyncTrapTake (s : State) : exec .asyncTrapTake s = execAsyncTrapTake s := rfl
theorem exec_sleepingInstructionRetire (s : State) : exec .sleepingInstructionRetire s = execSleepingInstructionRetire s := rfl
theorem exec_stallRelease (s : State) : exec .stallRelease s = execStallRelease s := rfl
theorem exec_commandRetire (s : State) : exec .commandRetire s = execCommandRetire s := rfl
theorem exec_jobOvertake (s : State) : exec .jobOvertake s = execJobOvertake s := rfl
theorem exec_tokenChannelPush (s : State) : exec .tokenChannelPush s = execTokenChannelPush s := rfl
theorem exec_flumeSlotRetire (s : State) : exec .flumeSlotRetire s = execFlumeSlotRetire s := rfl
theorem exec_haloMessageArrival (s : State) : exec .haloMessageArrival s = execHaloMessageArrival s := rfl
theorem exec_collSum (s : State) : exec .collSum s = execCollSum s := rfl
theorem exec_planeDrain (s : State) : exec .planeDrain s = execPlaneDrain s := rfl
theorem exec_controlTokenPass (s : State) : exec .controlTokenPass s = execControlTokenPass s := rfl
theorem exec_tokenLinkTransfer (s : State) : exec .tokenLinkTransfer s = execTokenLinkTransfer s := rfl
theorem exec_channelWordArrival (s : State) : exec .channelWordArrival s = execChannelWordArrival s := rfl
theorem exec_spillfull (s : State) : exec .spillfull s = execSpillfull s := rfl
theorem exec_watchdog (s : State) : exec .watchdog s = execWatchdog s := rfl
theorem exec_intervalMerge (s : State) : exec .intervalMerge s = execIntervalMerge s := rfl
theorem exec_atomicRoundClose (s : State) : exec .atomicRoundClose s = execAtomicRoundClose s := rfl
theorem exec_barrierPhaseComplete (s : State) : exec .barrierPhaseComplete s = execBarrierPhaseComplete s := rfl
theorem exec_dieAck (s : State) : exec .dieAck s = execDieAck s := rfl
theorem exec_launch (s : State) : exec .launch s = execLaunch s := rfl
theorem exec_workBlockWalk (s : State) : exec .workBlockWalk s = execWorkBlockWalk s := rfl
theorem exec_allocatorDecision (s : State) : exec .allocatorDecision s = execAllocatorDecision s := rfl
theorem exec_headHoldPreempt (s : State) : exec .headHoldPreempt s = execHeadHoldPreempt s := rfl
theorem exec_taskStart (s : State) : exec .taskStart s = execTaskStart s := rfl
theorem exec_taskRetire (s : State) : exec .taskRetire s = execTaskRetire s := rfl
theorem exec_preempt (s : State) : exec .preempt s = execPreempt s := rfl
theorem exec_preemptSaveDone (s : State) : exec .preemptSaveDone s = execPreemptSaveDone s := rfl
theorem exec_ingressMeter (s : State) : exec .ingressMeter s = execIngressMeter s := rfl
theorem exec_linkFailure (s : State) : exec .linkFailure s = execLinkFailure s := rfl
theorem exec_linkFlitReceive (s : State) : exec .linkFlitReceive s = execLinkFlitReceive s := rfl
theorem exec_handleReleaseMessage (s : State) : exec .handleReleaseMessage s = execHandleReleaseMessage s := rfl
theorem exec_bankreq (s : State) : exec .bankreq s = execBankreq s := rfl
theorem exec_bankModeChangeDone (s : State) : exec .bankModeChangeDone s = execBankModeChangeDone s := rfl
theorem exec_ptctlMode (s : State) : exec .ptctlMode s = execPtctlMode s := rfl
theorem exec_tileModeChangeDone (s : State) : exec .tileModeChangeDone s = execTileModeChangeDone s := rfl
theorem exec_ptctlRunStart (s : State) : exec .ptctlRunStart s = execPtctlRunStart s := rfl
theorem exec_ptctlRunStop (s : State) : exec .ptctlRunStop s = execPtctlRunStop s := rfl
theorem exec_pushUnit (s : State) : exec .pushUnit s = execPushUnit s := rfl
theorem exec_tcopResume (s : State) : exec .tcopResume s = execTcopResume s := rfl
theorem exec_tcopKill (s : State) : exec .tcopKill s = execTcopKill s := rfl
theorem exec_unmap (s : State) : exec .unmap s = execUnmap s := rfl
theorem exec_unmapComplete (s : State) : exec .unmapComplete s = execUnmapComplete s := rfl
theorem exec_bar2Access (s : State) : exec .bar2Access s = execBar2Access s := rfl
theorem exec_registerWrite (s : State) : exec .registerWrite s = execRegisterWrite s := rfl
theorem exec_attach (s : State) : exec .attach s = execAttach s := rfl
theorem exec_detach (s : State) : exec .detach s = execDetach s := rfl
theorem exec_stop (s : State) : exec .stop s = execStop s := rfl
theorem exec_go (s : State) : exec .go s = execGo s := rfl
theorem exec_dump (s : State) : exec .dump s = execDump s := rfl
theorem exec_wrctl (s : State) : exec .wrctl s = execWrctl s := rfl
theorem exec_load (s : State) : exec .load s = execLoad s := rfl
theorem exec_triggerLineAssert (s : State) : exec .triggerLineAssert s = execTriggerLineAssert s := rfl
theorem exec_triggerSinkReach (s : State) : exec .triggerSinkReach s = execTriggerSinkReach s := rfl
theorem exec_trctlUnfreeze (s : State) : exec .trctlUnfreeze s = execTrctlUnfreeze s := rfl
theorem exec_samplePeriod (s : State) : exec .samplePeriod s = execSamplePeriod s := rfl
theorem exec_millPowerGate (s : State) : exec .millPowerGate s = execMillPowerGate s := rfl
theorem exec_millPowerUp (s : State) : exec .millPowerUp s = execMillPowerUp s := rfl
theorem exec_counterWrap (s : State) : exec .counterWrap s = execCounterWrap s := rfl
theorem exec_replayStart (s : State) : exec .replayStart s = execReplayStart s := rfl
theorem exec_replayPassEnd (s : State) : exec .replayPassEnd s = execReplayPassEnd s := rfl
theorem exec_gettel (s : State) : exec .gettel s = execGettel s := rfl
theorem exec_getlife (s : State) : exec .getlife s = execGetlife s := rfl
theorem exec_setlim (s : State) : exec .setlim s = execSetlim s := rfl
theorem exec_fwstage (s : State) : exec .fwstage s = execFwstage s := rfl
theorem exec_fwact (s : State) : exec .fwact s = execFwact s := rfl
theorem exec_fwcommit (s : State) : exec .fwcommit s = execFwcommit s := rfl
theorem exec_getharv (s : State) : exec .getharv s = execGetharv s := rfl
theorem exec_retire (s : State) : exec .retire s = execRetire s := rfl
theorem exec_setpart (s : State) : exec .setpart s = execSetpart s := rfl
theorem exec_setworld (s : State) : exec .setworld s = execSetworld s := rfl
theorem exec_setsr (s : State) : exec .setsr s = execSetsr s := rfl
theorem exec_loadkey (s : State) : exec .loadkey s = execLoadkey s := rfl
theorem exec_setkmask (s : State) : exec .setkmask s = execSetkmask s := rfl
theorem exec_settrig (s : State) : exec .settrig s = execSettrig s := rfl
theorem exec_setig (s : State) : exec .setig s = execSetig s := rfl
theorem exec_getpart (s : State) : exec .getpart s = execGetpart s := rfl
theorem exec_nonce (s : State) : exec .nonce s = execNonce s := rfl
theorem exec_auth (s : State) : exec .auth s = execAuth s := rfl
theorem exec_unsupportedCommand (s : State) : exec .unsupportedCommand s = execUnsupportedCommand s := rfl
theorem exec_sessionTimeout (s : State) : exec .sessionTimeout s = execSessionTimeout s := rfl
theorem exec_limitInterval (s : State) : exec .limitInterval s = execLimitInterval s := rfl
theorem exec_thermalShutdown (s : State) : exec .thermalShutdown s = execThermalShutdown s := rfl
theorem exec_lifetimeCommit (s : State) : exec .lifetimeCommit s = execLifetimeCommit s := rfl
theorem exec_resetBoot (s : State) : exec .resetBoot s = execResetBoot s := rfl
theorem exec_wheelhouseWakeRequest (s : State) : exec .wheelhouseWakeRequest s = execWheelhouseWakeRequest s := rfl
theorem exec_supplyDroop (s : State) : exec .supplyDroop s = execSupplyDroop s := rfl
theorem exec_powerLoss (s : State) : exec .powerLoss s = execPowerLoss s := rfl
theorem exec_tapInstruction (s : State) : exec .tapInstruction s = execTapInstruction s := rfl

end Sys2Proof.Machine
end

