-- ==== Sys2Proof/Laws/Encoding.lean ====
section
/-!
SUPPORT. Sys2Proof/Laws/Encoding.lean: what each field reader of Decode.lean finds in a word that a format of the encoder
writes, and a word as its fields.
-/

set_option linter.unusedSimpArgs false

namespace Sys2Proof

/-! ## A field of a concatenation -/

/-- The low part of a concatenation. -/
theorem extract_append_low {m n : Nat} (x : BitVec m) (y : BitVec n) (i k : Nat) (h : i + k ≤ n) :
    (x ++ y).extractLsb' i k = y.extractLsb' i k := by
  apply BitVec.eq_of_getLsbD_eq
  intro j hj
  simp only [BitVec.getLsbD_extractLsb', BitVec.getLsbD_append]
  simp [show i + j < n by omega]

/-- The high part of a concatenation. -/
theorem extract_append_high {m n : Nat} (x : BitVec m) (y : BitVec n) (i k : Nat) (h : n ≤ i) :
    (x ++ y).extractLsb' i k = x.extractLsb' (i - n) k := by
  apply BitVec.eq_of_getLsbD_eq
  intro j hj
  simp only [BitVec.getLsbD_extractLsb', BitVec.getLsbD_append]
  simp [show ¬ i + j < n by omega, show i + j - n = i - n + j by omega]

/-- The whole of a vector. -/
theorem extract_all {n : Nat} (x : BitVec n) : x.extractLsb' 0 n = x := by
  apply BitVec.eq_of_getLsbD_eq
  intro j hj
  simp [hj]

/-! ## The formats of miller words -/

/-- A guard is its register and its bit. -/
theorem guard_eta (g : Guard) : (⟨g.q, gBit g == 1⟩ : Guard) = g := by
  cases g with
  | mk q b => cases b <;> rfl

/-- The bits of a guard that is no hint are not those of hint space. -/
theorem guard_no_hint (g : Guard) (h : g.ok = true) : (g.q ++ gBit g == 1#4) = false := by
  cases g with
  | mk q b => revert h; revert q; cases b <;> decide

/-! ### f3 -/

@[simp] theorem wFunc7_f3 (g : Guard) (m : BitVec 6) (d a b : BitVec 5) (f : BitVec 7) : wFunc7 (f3 g m d a b f) = f := by
  simp (disch := decide) only [wFunc7, f3, extract_append_high, extract_append_low, extract_all, Nat.sub_self, Nat.reduceSub]
@[simp] theorem wB_f3 (g : Guard) (m : BitVec 6) (d a b : BitVec 5) (f : BitVec 7) : wB (f3 g m d a b f) = b := by
  simp (disch := decide) only [wB, f3, extract_append_high, extract_append_low, extract_all, Nat.sub_self, Nat.reduceSub]
@[simp] theorem wA_f3 (g : Guard) (m : BitVec 6) (d a b : BitVec 5) (f : BitVec 7) : wA (f3 g m d a b f) = a := by
  simp (disch := decide) only [wA, f3, extract_append_high, extract_append_low, extract_all, Nat.sub_self, Nat.reduceSub]
@[simp] theorem wD_f3 (g : Guard) (m : BitVec 6) (d a b : BitVec 5) (f : BitVec 7) : wD (f3 g m d a b f) = d := by
  simp (disch := decide) only [wD, f3, extract_append_high, extract_append_low, extract_all, Nat.sub_self, Nat.reduceSub]
@[simp] theorem wMajor_f3 (g : Guard) (m : BitVec 6) (d a b : BitVec 5) (f : BitVec 7) : wMajor (f3 g m d a b f) = m := by
  simp (disch := decide) only [wMajor, f3, extract_append_high, extract_append_low, extract_all, Nat.sub_self, Nat.reduceSub]
@[simp] theorem wGuard_f3 (g : Guard) (m : BitVec 6) (d a b : BitVec 5) (f : BitVec 7) : wGuard (f3 g m d a b f) = g := by
  simp (disch := decide) only [wGuard, f3, extract_append_high, extract_append_low, extract_all, Nat.sub_self, Nat.reduceSub]
  exact guard_eta g
@[simp] theorem isHint_f3 (g : Guard) (m : BitVec 6) (d a b : BitVec 5) (f : BitVec 7) (h : g.ok = true) : isHint (f3 g m d a b f) = false := by
  have e : (f3 g m d a b f).extractLsb' 28 4 = g.q ++ gBit g := by
    simp (disch := decide) only [f3, extract_append_high, Nat.reduceSub, Nat.sub_self, extract_all]
  unfold isHint
  rw [e]
  exact guard_no_hint g h

/-! ### fi -/

@[simp] theorem wImm12_fi (g : Guard) (m : BitVec 6) (d a : BitVec 5) (i : BitVec 12) : wImm12 (fi g m d a i) = i := by
  simp (disch := decide) only [wImm12, fi, extract_append_high, extract_append_low, extract_all, Nat.sub_self, Nat.reduceSub]
@[simp] theorem wA_fi (g : Guard) (m : BitVec 6) (d a : BitVec 5) (i : BitVec 12) : wA (fi g m d a i) = a := by
  simp (disch := decide) only [wA, fi, extract_append_high, extract_append_low, extract_all, Nat.sub_self, Nat.reduceSub]
@[simp] theorem wD_fi (g : Guard) (m : BitVec 6) (d a : BitVec 5) (i : BitVec 12) : wD (fi g m d a i) = d := by
  simp (disch := decide) only [wD, fi, extract_append_high, extract_append_low, extract_all, Nat.sub_self, Nat.reduceSub]
@[simp] theorem wMajor_fi (g : Guard) (m : BitVec 6) (d a : BitVec 5) (i : BitVec 12) : wMajor (fi g m d a i) = m := by
  simp (disch := decide) only [wMajor, fi, extract_append_high, extract_append_low, extract_all, Nat.sub_self, Nat.reduceSub]
@[simp] theorem wGuard_fi (g : Guard) (m : BitVec 6) (d a : BitVec 5) (i : BitVec 12) : wGuard (fi g m d a i) = g := by
  simp (disch := decide) only [wGuard, fi, extract_append_high, extract_append_low, extract_all, Nat.sub_self, Nat.reduceSub]
  exact guard_eta g
@[simp] theorem isHint_fi (g : Guard) (m : BitVec 6) (d a : BitVec 5) (i : BitVec 12) (h : g.ok = true) : isHint (fi g m d a i) = false := by
  have e : (fi g m d a i).extractLsb' 28 4 = g.q ++ gBit g := by
    simp (disch := decide) only [fi, extract_append_high, Nat.reduceSub, Nat.sub_self, extract_all]
  unfold isHint
  rw [e]
  exact guard_no_hint g h

/-! ### fl -/

@[simp] theorem wImm17_fl (g : Guard) (m : BitVec 6) (d : BitVec 5) (i : BitVec 17) : wImm17 (fl g m d i) = i := by
  simp (disch := decide) only [wImm17, fl, extract_append_high, extract_append_low, extract_all, Nat.sub_self, Nat.reduceSub]
@[simp] theorem wD_fl (g : Guard) (m : BitVec 6) (d : BitVec 5) (i : BitVec 17) : wD (fl g m d i) = d := by
  simp (disch := decide) only [wD, fl, extract_append_high, extract_append_low, extract_all, Nat.sub_self, Nat.reduceSub]
@[simp] theorem wMajor_fl (g : Guard) (m : BitVec 6) (d : BitVec 5) (i : BitVec 17) : wMajor (fl g m d i) = m := by
  simp (disch := decide) only [wMajor, fl, extract_append_high, extract_append_low, extract_all, Nat.sub_self, Nat.reduceSub]
@[simp] theorem wGuard_fl (g : Guard) (m : BitVec 6) (d : BitVec 5) (i : BitVec 17) : wGuard (fl g m d i) = g := by
  simp (disch := decide) only [wGuard, fl, extract_append_high, extract_append_low, extract_all, Nat.sub_self, Nat.reduceSub]
  exact guard_eta g
@[simp] theorem isHint_fl (g : Guard) (m : BitVec 6) (d : BitVec 5) (i : BitVec 17) (h : g.ok = true) : isHint (fl g m d i) = false := by
  have e : (fl g m d i).extractLsb' 28 4 = g.q ++ gBit g := by
    simp (disch := decide) only [fl, extract_append_high, Nat.reduceSub, Nat.sub_self, extract_all]
  unfold isHint
  rw [e]
  exact guard_no_hint g h

/-! ### fb -/

@[simp] theorem wOff22_fb (g : Guard) (m : BitVec 6) (o : BitVec 22) : wOff22 (fb g m o) = o := by
  simp (disch := decide) only [wOff22, fb, extract_append_high, extract_append_low, extract_all, Nat.sub_self, Nat.reduceSub]
@[simp] theorem wMajor_fb (g : Guard) (m : BitVec 6) (o : BitVec 22) : wMajor (fb g m o) = m := by
  simp (disch := decide) only [wMajor, fb, extract_append_high, extract_append_low, extract_all, Nat.sub_self, Nat.reduceSub]
@[simp] theorem wGuard_fb (g : Guard) (m : BitVec 6) (o : BitVec 22) : wGuard (fb g m o) = g := by
  simp (disch := decide) only [wGuard, fb, extract_append_high, extract_append_low, extract_all, Nat.sub_self, Nat.reduceSub]
  exact guard_eta g
@[simp] theorem isHint_fb (g : Guard) (m : BitVec 6) (o : BitVec 22) (h : g.ok = true) : isHint (fb g m o) = false := by
  have e : (fb g m o).extractLsb' 28 4 = g.q ++ gBit g := by
    simp (disch := decide) only [fb, extract_append_high, Nat.reduceSub, Nat.sub_self, extract_all]
  unfold isHint
  rw [e]
  exact guard_no_hint g h

/-! ### fx -/

@[simp] theorem wFunc9_fx (g : Guard) (m : BitVec 6) (d a : BitVec 5) (n : BitVec 3) (f : BitVec 9) : wFunc9 (fx g m d a n f) = f := by
  simp (disch := decide) only [wFunc9, fx, extract_append_high, extract_append_low, extract_all, Nat.sub_self, Nat.reduceSub]
@[simp] theorem wLcnt_fx (g : Guard) (m : BitVec 6) (d a : BitVec 5) (n : BitVec 3) (f : BitVec 9) : wLcnt (fx g m d a n f) = n := by
  simp (disch := decide) only [wLcnt, fx, extract_append_high, extract_append_low, extract_all, Nat.sub_self, Nat.reduceSub]
@[simp] theorem wA_fx (g : Guard) (m : BitVec 6) (d a : BitVec 5) (n : BitVec 3) (f : BitVec 9) : wA (fx g m d a n f) = a := by
  simp (disch := decide) only [wA, fx, extract_append_high, extract_append_low, extract_all, Nat.sub_self, Nat.reduceSub]
@[simp] theorem wD_fx (g : Guard) (m : BitVec 6) (d a : BitVec 5) (n : BitVec 3) (f : BitVec 9) : wD (fx g m d a n f) = d := by
  simp (disch := decide) only [wD, fx, extract_append_high, extract_append_low, extract_all, Nat.sub_self, Nat.reduceSub]
@[simp] theorem wMajor_fx (g : Guard) (m : BitVec 6) (d a : BitVec 5) (n : BitVec 3) (f : BitVec 9) : wMajor (fx g m d a n f) = m := by
  simp (disch := decide) only [wMajor, fx, extract_append_high, extract_append_low, extract_all, Nat.sub_self, Nat.reduceSub]
@[simp] theorem wGuard_fx (g : Guard) (m : BitVec 6) (d a : BitVec 5) (n : BitVec 3) (f : BitVec 9) : wGuard (fx g m d a n f) = g := by
  simp (disch := decide) only [wGuard, fx, extract_append_high, extract_append_low, extract_all, Nat.sub_self, Nat.reduceSub]
  exact guard_eta g
@[simp] theorem isHint_fx (g : Guard) (m : BitVec 6) (d a : BitVec 5) (n : BitVec 3) (f : BitVec 9) (h : g.ok = true) : isHint (fx g m d a n f) = false := by
  have e : (fx g m d a n f).extractLsb' 28 4 = g.q ++ gBit g := by
    simp (disch := decide) only [fx, extract_append_high, Nat.reduceSub, Nat.sub_self, extract_all]
  unfold isHint
  rw [e]
  exact guard_no_hint g h

/-! ### Parts of an immediate -/

@[simp] theorem split6_high (x y : BitVec 6) : (x ++ y).extractLsb' 6 6 = x := by
  simp (disch := decide) only [extract_append_high, Nat.sub_self, extract_all]
@[simp] theorem split6_low (x y : BitVec 6) : (x ++ y).extractLsb' 0 6 = y := by
  simp (disch := decide) only [extract_append_low, extract_all]
@[simp] theorem split4_high (x : BitVec 4) (y : BitVec 3) : (x ++ y).extractLsb' 3 4 = x := by
  simp (disch := decide) only [extract_append_high, Nat.sub_self, extract_all]
@[simp] theorem split4_low (x : BitVec 4) (y : BitVec 3) : (x ++ y).extractLsb' 0 3 = y := by
  simp (disch := decide) only [extract_append_low, extract_all]

@[simp] theorem split1_high (x : BitVec 1) (y : BitVec 16) : (x ++ y).extractLsb' 16 1 = x := by
  simp (disch := decide) only [extract_append_high, Nat.sub_self, extract_all]
@[simp] theorem split1_low (x : BitVec 1) (y : BitVec 16) : (x ++ y).extractLsb' 0 16 = y := by
  simp (disch := decide) only [extract_append_low, extract_all]

/-- A word of hint space is a NOP. -/
theorem decode_hint (low : BitVec 28) : decodeMiller (1#4 ++ low) 0 0 0 0 = .ok (.nop low) := by
  have h : isHint (1#4 ++ low) = true := by
    unfold isHint
    rw [extract_append_high _ _ _ _ (by decide), extract_all]
    rfl
  unfold decodeMiller
  rw [if_pos h, extract_append_low _ _ _ _ (by decide), extract_all]

/-- Four literal words make up a command word. -/
theorem join_lits (c : BitVec 128) :
    c.extractLsb' 96 32 ++ c.extractLsb' 64 32 ++ c.extractLsb' 32 32 ++ c.extractLsb' 0 32 = c := by
  apply BitVec.eq_of_getLsbD_eq
  intro j hj
  simp only [BitVec.getLsbD_append, BitVec.getLsbD_extractLsb']
  by_cases h0 : j < 32
  · simp [h0]
  by_cases h1 : j < 64
  · simp [h0, show j - 32 < 32 by omega, show 32 + (j - 32) = j by omega]
  by_cases h2 : j < 96
  · simp [h0, show ¬ j - 32 < 32 by omega, show j - 32 - 32 < 32 by omega, show 64 + (j - 32 - 32) = j by omega]
  · simp [h0, show ¬ j - 32 < 32 by omega, show ¬ j - 32 - 32 < 32 by omega, show j - 32 - 32 - 32 < 32 by omega,
      show 96 + (j - 32 - 32 - 32) = j by omega]

/-! ## Commands and element words -/

@[simp] theorem cOp_command (op : BitVec 8) (p : BitVec 6) (b : BitVec 112) : cOp (command op p b) = op := by
  simp (disch := decide) only [cOp, command, extract_append_high, extract_append_low, extract_all, Nat.sub_self, Nat.reduceSub]

@[simp] theorem cPort_command (op : BitVec 8) (p : BitVec 6) (b : BitVec 112) : cPort (command op p b) = p := by
  simp (disch := decide) only [cPort, command, extract_append_high, extract_append_low, extract_all, Nat.sub_self, Nat.reduceSub]

/-- A field of the body. -/
theorem body_command (op : BitVec 8) (p : BitVec 6) (b : BitVec 112) (i k : Nat) (h : i + k ≤ 112) :
    (command op p b).extractLsb' i k = b.extractLsb' i k := by
  unfold command
  exact extract_append_low _ _ _ _ h

/-- The two bits above the body are zero. -/
theorem gap_command (op : BitVec 8) (p : BitVec 6) (b : BitVec 112) : (command op p b).extractLsb' 112 2 = 0#2 := by
  simp (disch := decide) only [command, extract_append_high, extract_append_low, extract_all, Nat.sub_self, Nat.reduceSub]

/-- A body of zeros leaves bits 113:0 zero. -/
theorem zero_command (op : BitVec 8) (p : BitVec 6) : (command op p 0#112).extractLsb' 0 114 = 0#114 := by
  apply BitVec.eq_of_getLsbD_eq
  intro j hj
  simp only [command, BitVec.getLsbD_extractLsb', BitVec.getLsbD_append]
  by_cases h : j < 112
  · simp [h]
  · simp [h, hj, show j - 112 < 2 by omega]

@[simp] theorem cBlk_command (op : BitVec 8) (p : BitVec 6) (b : BitVec 24) (r : BitVec 88) :
    cBlk (command op p (blkBody b r)) = b := by
  unfold cBlk
  rw [body_command _ _ _ _ _ (by decide)]
  unfold blkBody
  rw [extract_append_high _ _ _ _ (by decide), extract_all]


/-! ### The bodies of the commands, field by field -/

@[simp] theorem blk_rest (op : BitVec 8) (p : BitVec 6) (b : BitVec 24) (r : BitVec 88) :
    (command op p (blkBody b r)).extractLsb' 0 88 = r := by
  rw [body_command _ _ _ _ _ (by decide)]
  simp (disch := decide) only [blkBody, extract_append_high, extract_append_low, extract_all, Nat.sub_self, Nat.reduceSub]
@[simp] theorem idx_low (op : BitVec 8) (p : BitVec 6) (b : BitVec 24) (r : BitVec 4) (t : BitVec 24) :
    (command op p (blkBody b (r ++ 0#4 ++ t ++ 0#56))).extractLsb' 0 56 = 0#56 := by
  rw [body_command _ _ _ _ _ (by decide)]
  simp (disch := decide) only [blkBody, extract_append_high, extract_append_low, extract_all, Nat.sub_self, Nat.reduceSub]
@[simp] theorem idx_gap (op : BitVec 8) (p : BitVec 6) (b : BitVec 24) (r : BitVec 4) (t : BitVec 24) :
    (command op p (blkBody b (r ++ 0#4 ++ t ++ 0#56))).extractLsb' 80 4 = 0#4 := by
  rw [body_command _ _ _ _ _ (by decide)]
  simp (disch := decide) only [blkBody, extract_append_high, extract_append_low, extract_all, Nat.sub_self, Nat.reduceSub]
@[simp] theorem idx_kind (op : BitVec 8) (p : BitVec 6) (b : BitVec 24) (r : BitVec 4) (t : BitVec 24) :
    (command op p (blkBody b (r ++ 0#4 ++ t ++ 0#56))).extractLsb' 84 4 = r := by
  rw [body_command _ _ _ _ _ (by decide)]
  simp (disch := decide) only [blkBody, extract_append_high, extract_append_low, extract_all, Nat.sub_self, Nat.reduceSub]
@[simp] theorem idx_table (op : BitVec 8) (p : BitVec 6) (b : BitVec 24) (r : BitVec 4) (t : BitVec 24) :
    (command op p (blkBody b (r ++ 0#4 ++ t ++ 0#56))).extractLsb' 56 24 = t := by
  rw [body_command _ _ _ _ _ (by decide)]
  simp (disch := decide) only [blkBody, extract_append_high, extract_append_low, extract_all, Nat.sub_self, Nat.reduceSub]
@[simp] theorem bind_rest (op : BitVec 8) (p : BitVec 6) (c : BitVec 2) :
    (command op p (c ++ 0#110)).extractLsb' 0 110 = 0#110 := by
  rw [body_command _ _ _ _ _ (by decide)]
  simp (disch := decide) only [blkBody, extract_append_high, extract_append_low, extract_all, Nat.sub_self, Nat.reduceSub]
@[simp] theorem bind_class (op : BitVec 8) (p : BitVec 6) (c : BitVec 2) :
    (command op p (c ++ 0#110)).extractLsb' 110 2 = c := by
  rw [body_command _ _ _ _ _ (by decide)]
  simp (disch := decide) only [blkBody, extract_append_high, extract_append_low, extract_all, Nat.sub_self, Nat.reduceSub]
@[simp] theorem tok_gap (op : BitVec 8) (p : BitVec 6) (c : BitVec 12) (t : BitVec 64) :
    (command op p (c ++ 0#36 ++ t)).extractLsb' 64 36 = 0#36 := by
  rw [body_command _ _ _ _ _ (by decide)]
  simp (disch := decide) only [blkBody, extract_append_high, extract_append_low, extract_all, Nat.sub_self, Nat.reduceSub]
@[simp] theorem tok_channel (op : BitVec 8) (p : BitVec 6) (c : BitVec 12) (t : BitVec 64) :
    (command op p (c ++ 0#36 ++ t)).extractLsb' 100 12 = c := by
  rw [body_command _ _ _ _ _ (by decide)]
  simp (disch := decide) only [blkBody, extract_append_high, extract_append_low, extract_all, Nat.sub_self, Nat.reduceSub]
@[simp] theorem tok_tag (op : BitVec 8) (p : BitVec 6) (c : BitVec 12) (t : BitVec 64) :
    (command op p (c ++ 0#36 ++ t)).extractLsb' 0 64 = t := by
  rw [body_command _ _ _ _ _ (by decide)]
  simp (disch := decide) only [blkBody, extract_append_high, extract_append_low, extract_all, Nat.sub_self, Nat.reduceSub]
@[simp] theorem flume_slot (op : BitVec 8) (p : BitVec 6) (n : BitVec 32) :
    (command op p (0#24 ++ n ++ 0#56)).extractLsb' 56 32 = n := by
  rw [body_command _ _ _ _ _ (by decide)]
  simp (disch := decide) only [blkBody, extract_append_high, extract_append_low, extract_all, Nat.sub_self, Nat.reduceSub]
@[simp] theorem flume_low (op : BitVec 8) (p : BitVec 6) (n : BitVec 32) :
    (command op p (0#24 ++ n ++ 0#56)).extractLsb' 0 56 = 0#56 := by
  rw [body_command _ _ _ _ _ (by decide)]
  simp (disch := decide) only [blkBody, extract_append_high, extract_append_low, extract_all, Nat.sub_self, Nat.reduceSub]
@[simp] theorem flume_high (op : BitVec 8) (p : BitVec 6) (n : BitVec 32) :
    (command op p (0#24 ++ n ++ 0#56)).extractLsb' 88 26 = 0#26 := by
  apply BitVec.eq_of_getLsbD_eq
  intro j hj
  simp only [command, BitVec.getLsbD_extractLsb', BitVec.getLsbD_append]
  by_cases h : j < 24
  · simp [show 88 + j < 112 by omega, show ¬ 88 + j < 56 by omega, show ¬ 88 + j - 56 < 32 by omega]
  · simp [hj, show ¬ 88 + j < 112 by omega, show 88 + j - 112 < 2 by omega]

@[simp] theorem eOp_elemWord (op : BitVec 8) (f : ElemFields) : eOp (elemWord op f) = op := by
  simp (disch := decide) only [eOp, elemWord, extract_append_high, extract_append_low, extract_all, Nat.sub_self, Nat.reduceSub]

@[simp] theorem eFields_elemWord (op : BitVec 8) (f : ElemFields) : eFields (elemWord op f) = f := by
  simp (disch := decide) only [eFields, elemWord, extract_append_high, extract_append_low, extract_all, Nat.sub_self, Nat.reduceSub]

end Sys2Proof
end

