-- ==== Sys2Proof/Laws/Operands.lean ====
section
/-!
SUPPORT. Sys2Proof/Laws/Operands.lean: ready operands pass every gate, and what each shape of register instruction then
answers.
-/

set_option linter.unusedSimpArgs false

namespace Sys2Proof.Machine

/-- Reading a destination as a source is fine where it is plain. -/
theorem State.Plain.srcReady {s : State} {r : BitVec 5} (h : s.Plain r) : s.SrcReady r := by
  intro b hb
  simp [State.Plain] at h
  simp [h] at hb

/-- A plain destination is ready. -/
theorem State.Plain.dstReady {s : State} {r : BitVec 5} (h : s.Plain r) : s.DstReady r := by
  intro b hb
  simp [State.Plain] at h
  simp [h] at hb

/-- A ready source passes its gate. -/
theorem srcGate_ready {s : State} {r : BitVec 5} (i : Instr) (h : s.SrcReady r) : s.srcGate i r = .go := by
  unfold State.srcGate
  cases hb : s.me.ctx.binding r with
  | none => rfl
  | some b =>
    obtain ⟨hc, w, hw, ht⟩ := h b hb
    simp [hc, hw, ht]

/-- A ready destination passes its gate. -/
theorem dstGate_ready {s : State} {d : BitVec 5} (i : Instr) (h : s.DstReady d) : s.dstGate i d false 1 = .go := by
  unfold State.dstGate
  cases hb : s.me.ctx.binding d with
  | none => rfl
  | some b =>
    obtain ⟨hc, hr⟩ := h b hb
    cases hm : s.myChan b.ch with
    | none => simp [hc, hm]
    | some c =>
      have := hr c hm
      by_cases hx : s.consumerClosed c = true
      · simp [hx] at this
        simp [hc, hm, hx, this]
      · simp [hx] at this
        simp [hc, hm, hx, this]

/-- The gates of a list of ready sources. -/
theorem srcGates_ready {s : State} (i : Instr) {rs : List (BitVec 5)} (h : ∀ r ∈ rs, s.SrcReady r) :
    rs.foldl (fun g r => Gate.and g (s.srcGate i r)) .go = .go := by
  induction rs with
  | nil => rfl
  | cons r rs ih =>
    simp only [List.foldl_cons, srcGate_ready i (h r (by simp)), Gate.and]
    exact ih fun x hx => h x (by simp [hx])

/-- Ready operands: a destination that is not read. -/
theorem gate_ready {s : State} {d : BitVec 5} {rs : List (BitVec 5)} (i : Instr) (h : ∀ r ∈ rs, s.SrcReady r)
    (hd : s.DstReady d) : s.gate i rs (some d) false = .go := by
  have he : s.endGate i rs (some d) false = .go := by
    unfold State.endGate
    rw [if_neg]
    rw [Bool.or_eq_true, List.any_eq_true]
    rintro (⟨r, hr, hx⟩ | hx)
    · cases hb : s.me.ctx.binding r with
      | none => simp [hb] at hx
      | some b => simp [hb, (h r hr b hb).1] at hx
    · cases hb : s.me.ctx.binding d with
      | none => simp [hb] at hx
      | some b => simp [hb, (hd b hb).1] at hx
  simp only [State.gate, he, dstGate_ready i hd, srcGates_ready i h]
  rfl

/-- Ready operands: a destination that is read too. -/
theorem gate_rw {s : State} {d : BitVec 5} {rs : List (BitVec 5)} (i : Instr) (h : ∀ r ∈ rs, s.SrcReady r)
    (hd : s.Plain d) : s.gate i rs (some d) true = .go := by
  have hd' : s.me.ctx.binding d = none := hd
  have he : s.endGate i rs (some d) true = .go := by
    unfold State.endGate
    rw [if_neg]
    rw [Bool.or_eq_true, List.any_eq_true]
    rintro (⟨r, hr, hx⟩ | hx)
    · cases hb : s.me.ctx.binding r with
      | none => simp [hb] at hx
      | some b => simp [hb, (h r hr b hb).1] at hx
    · simp [hd'] at hx
  have hg : s.dstGate i d true 1 = .go := by
    simp [State.dstGate, hd']
  simp only [State.gate, he, hg, srcGates_ready i h]
  rfl

/-- Ready operands: no g-register is written. -/
theorem gate_src {s : State} {rs : List (BitVec 5)} (i : Instr) (b : Bool) (h : ∀ r ∈ rs, s.SrcReady r) :
    s.gate i rs none b = .go := by
  have he : s.endGate i rs none b = .go := by
    unfold State.endGate
    rw [if_neg]
    rw [Bool.or_eq_true, List.any_eq_true]
    rintro (⟨r, hr, hx⟩ | hx)
    · cases hb : s.me.ctx.binding r with
      | none => simp [hb] at hx
      | some b => simp [hb, (h r hr b hb).1] at hx
    · simp at hx
  simp only [State.gate, he, srcGates_ready i h]
  rfl

/-- Two sources. -/
theorem ready2 {s : State} {a b : BitVec 5} (ha : s.SrcReady a) (hb : s.SrcReady b) : ∀ r ∈ [a, b], s.SrcReady r := by
  simp [ha, hb]

/-- One source. -/
theorem ready1 {s : State} {a : BitVec 5} (ha : s.SrcReady a) : ∀ r ∈ [a], s.SrcReady r := by
  simp [ha]

/-- What a two-source instruction answers. -/
theorem op3_ready {s : State} {i : Instr} {g : Guard} {d a b : BitVec 5} {f : Word → Word → Word}
    (hg : s.me.ctx.guardTrue g = true) (ha : s.SrcReady a) (hb : s.SrcReady b) (hd : s.DstReady d) :
    op3 i g d a b s f = s.answerG [a, b] d (f (s.src a) (s.src b)) (nextPc i s) := by
  simp [op3, gated, guarded, hg, gate_ready i (ready2 ha hb) hd, doneG, State.answerG]

/-- What a one-source instruction answers. -/
theorem op2_ready {s : State} {i : Instr} {g : Guard} {d a : BitVec 5} {f : Word → Word}
    (hg : s.me.ctx.guardTrue g = true) (ha : s.SrcReady a) (hd : s.DstReady d) :
    op2 i g d a s f = s.answerG [a] d (f (s.src a)) (nextPc i s) := by
  simp [op2, gated, guarded, hg, gate_ready i (ready1 ha) hd, doneG, State.answerG]

/-- What an instruction that reads its destination answers. -/
theorem opRw_ready {s : State} {i : Instr} {g : Guard} {d : BitVec 5} {rs : List (BitVec 5)} {f : State → Word}
    (hg : s.me.ctx.guardTrue g = true) (h : ∀ r ∈ rs, s.SrcReady r) (hd : s.Plain d) :
    opRw i g d rs s f = s.answerG rs d (f s) (nextPc i s) := by
  simp [opRw, gated, guarded, hg, gate_rw i h hd, doneG, State.answerG]

/-- What an instruction with a guard destination answers. -/
theorem opQ_ready {s : State} {i : Instr} {g : Guard} {d : BitVec 5} {rs : List (BitVec 5)} {f : State → Bool}
    (hg : s.me.ctx.guardTrue g = true) (h : ∀ r ∈ rs, s.SrcReady r) :
    opQ i g d rs s f = s.answerQ rs (d.setWidth 3) (f s) (nextPc i s) := by
  simp [opQ, gated, guarded, hg, gate_src i false h, State.answerQ, low3]

/-- The address after a word without literals. -/
theorem nextPc_zero {i : Instr} {s : State} (h : i.lits = 0) : nextPc i s = s.me.ctx.pc + 4 := by
  simp [nextPc, h, pcAfter]

end Sys2Proof.Machine
end

