-- ==== Sys2Proof/Laws/PerInstr.lean ====
section
/-!
SUPPORT. Sys2Proof/Laws/PerInstr.lean: one lemma per constructor of Instr: the decoder gives back what the encoder wrote.
-/

set_option Elab.async false
set_option linter.unusedSimpArgs false

namespace Sys2Proof.Laws.RoundTrip

/-- The decoder gives a well-formed instruction back from its code; an element operation stands in a word with the fields
`f`, and an event has no code. -/
def Statement (i : Instr) : Prop :=
  ∀ f : ElemFields, i.reject = none → (∀ op, encode i = .element op → i.elemReject f = none) → encode i ≠ .event →
    decodeCode f (encode i) = .ok i

/-- The guard check comes first. -/
theorem guard_ok {g : Guard} {l : List (Bool × Reject)} (h : firstReject ((g.ok, .guardHint) :: l) = none) :
    g.ok = true := by
  revert h
  simp only [firstReject]
  cases g.ok <;> simp

theorem add (g : Guard) (d : BitVec 5) (a : BitVec 5) (b : BitVec 5) : Statement (.add g d a b) := by
  intro f h _ _
  simp [decodeCode, encode, decodeMiller, isHint_f3, guard_ok h, rawMiller, checked, h, decInt, zeros]
theorem addW (g : Guard) (d : BitVec 5) (a : BitVec 5) (b : BitVec 5) : Statement (.addW g d a b) := by
  intro f h _ _
  simp [decodeCode, encode, decodeMiller, isHint_f3, guard_ok h, rawMiller, checked, h, decInt, zeros]
theorem sub (g : Guard) (d : BitVec 5) (a : BitVec 5) (b : BitVec 5) : Statement (.sub g d a b) := by
  intro f h _ _
  simp [decodeCode, encode, decodeMiller, isHint_f3, guard_ok h, rawMiller, checked, h, decInt, zeros]
theorem subW (g : Guard) (d : BitVec 5) (a : BitVec 5) (b : BitVec 5) : Statement (.subW g d a b) := by
  intro f h _ _
  simp [decodeCode, encode, decodeMiller, isHint_f3, guard_ok h, rawMiller, checked, h, decInt, zeros]
theorem mul (g : Guard) (d : BitVec 5) (a : BitVec 5) (b : BitVec 5) : Statement (.mul g d a b) := by
  intro f h _ _
  simp [decodeCode, encode, decodeMiller, isHint_f3, guard_ok h, rawMiller, checked, h, decInt, zeros]
theorem mulW (g : Guard) (d : BitVec 5) (a : BitVec 5) (b : BitVec 5) : Statement (.mulW g d a b) := by
  intro f h _ _
  simp [decodeCode, encode, decodeMiller, isHint_f3, guard_ok h, rawMiller, checked, h, decInt, zeros]
theorem mulh (g : Guard) (d : BitVec 5) (a : BitVec 5) (b : BitVec 5) : Statement (.mulh g d a b) := by
  intro f h _ _
  simp [decodeCode, encode, decodeMiller, isHint_f3, guard_ok h, rawMiller, checked, h, decInt, zeros]
theorem mulhu (g : Guard) (d : BitVec 5) (a : BitVec 5) (b : BitVec 5) : Statement (.mulhu g d a b) := by
  intro f h _ _
  simp [decodeCode, encode, decodeMiller, isHint_f3, guard_ok h, rawMiller, checked, h, decInt, zeros]
theorem div (g : Guard) (d : BitVec 5) (a : BitVec 5) (b : BitVec 5) : Statement (.div g d a b) := by
  intro f h _ _
  simp [decodeCode, encode, decodeMiller, isHint_f3, guard_ok h, rawMiller, checked, h, decInt, zeros]
theorem divW (g : Guard) (d : BitVec 5) (a : BitVec 5) (b : BitVec 5) : Statement (.divW g d a b) := by
  intro f h _ _
  simp [decodeCode, encode, decodeMiller, isHint_f3, guard_ok h, rawMiller, checked, h, decInt, zeros]
theorem divu (g : Guard) (d : BitVec 5) (a : BitVec 5) (b : BitVec 5) : Statement (.divu g d a b) := by
  intro f h _ _
  simp [decodeCode, encode, decodeMiller, isHint_f3, guard_ok h, rawMiller, checked, h, decInt, zeros]
theorem divuW (g : Guard) (d : BitVec 5) (a : BitVec 5) (b : BitVec 5) : Statement (.divuW g d a b) := by
  intro f h _ _
  simp [decodeCode, encode, decodeMiller, isHint_f3, guard_ok h, rawMiller, checked, h, decInt, zeros]
theorem rem (g : Guard) (d : BitVec 5) (a : BitVec 5) (b : BitVec 5) : Statement (.rem g d a b) := by
  intro f h _ _
  simp [decodeCode, encode, decodeMiller, isHint_f3, guard_ok h, rawMiller, checked, h, decInt, zeros]
theorem remW (g : Guard) (d : BitVec 5) (a : BitVec 5) (b : BitVec 5) : Statement (.remW g d a b) := by
  intro f h _ _
  simp [decodeCode, encode, decodeMiller, isHint_f3, guard_ok h, rawMiller, checked, h, decInt, zeros]
theorem remu (g : Guard) (d : BitVec 5) (a : BitVec 5) (b : BitVec 5) : Statement (.remu g d a b) := by
  intro f h _ _
  simp [decodeCode, encode, decodeMiller, isHint_f3, guard_ok h, rawMiller, checked, h, decInt, zeros]
theorem remuW (g : Guard) (d : BitVec 5) (a : BitVec 5) (b : BitVec 5) : Statement (.remuW g d a b) := by
  intro f h _ _
  simp [decodeCode, encode, decodeMiller, isHint_f3, guard_ok h, rawMiller, checked, h, decInt, zeros]
theorem min (g : Guard) (d : BitVec 5) (a : BitVec 5) (b : BitVec 5) : Statement (.min g d a b) := by
  intro f h _ _
  simp [decodeCode, encode, decodeMiller, isHint_f3, guard_ok h, rawMiller, checked, h, decInt, zeros]
theorem max (g : Guard) (d : BitVec 5) (a : BitVec 5) (b : BitVec 5) : Statement (.max g d a b) := by
  intro f h _ _
  simp [decodeCode, encode, decodeMiller, isHint_f3, guard_ok h, rawMiller, checked, h, decInt, zeros]
theorem minu (g : Guard) (d : BitVec 5) (a : BitVec 5) (b : BitVec 5) : Statement (.minu g d a b) := by
  intro f h _ _
  simp [decodeCode, encode, decodeMiller, isHint_f3, guard_ok h, rawMiller, checked, h, decInt, zeros]
theorem maxu (g : Guard) (d : BitVec 5) (a : BitVec 5) (b : BitVec 5) : Statement (.maxu g d a b) := by
  intro f h _ _
  simp [decodeCode, encode, decodeMiller, isHint_f3, guard_ok h, rawMiller, checked, h, decInt, zeros]
theorem and (g : Guard) (d : BitVec 5) (a : BitVec 5) (b : BitVec 5) : Statement (.and g d a b) := by
  intro f h _ _
  simp [decodeCode, encode, decodeMiller, isHint_f3, guard_ok h, rawMiller, checked, h, decInt, zeros]
theorem or (g : Guard) (d : BitVec 5) (a : BitVec 5) (b : BitVec 5) : Statement (.or g d a b) := by
  intro f h _ _
  simp [decodeCode, encode, decodeMiller, isHint_f3, guard_ok h, rawMiller, checked, h, decInt, zeros]
theorem xor (g : Guard) (d : BitVec 5) (a : BitVec 5) (b : BitVec 5) : Statement (.xor g d a b) := by
  intro f h _ _
  simp [decodeCode, encode, decodeMiller, isHint_f3, guard_ok h, rawMiller, checked, h, decInt, zeros]
theorem shl (g : Guard) (d : BitVec 5) (a : BitVec 5) (b : BitVec 5) : Statement (.shl g d a b) := by
  intro f h _ _
  simp [decodeCode, encode, decodeMiller, isHint_f3, guard_ok h, rawMiller, checked, h, decInt, zeros]
theorem shlW (g : Guard) (d : BitVec 5) (a : BitVec 5) (b : BitVec 5) : Statement (.shlW g d a b) := by
  intro f h _ _
  simp [decodeCode, encode, decodeMiller, isHint_f3, guard_ok h, rawMiller, checked, h, decInt, zeros]
theorem shr (g : Guard) (d : BitVec 5) (a : BitVec 5) (b : BitVec 5) : Statement (.shr g d a b) := by
  intro f h _ _
  simp [decodeCode, encode, decodeMiller, isHint_f3, guard_ok h, rawMiller, checked, h, decInt, zeros]
theorem shrW (g : Guard) (d : BitVec 5) (a : BitVec 5) (b : BitVec 5) : Statement (.shrW g d a b) := by
  intro f h _ _
  simp [decodeCode, encode, decodeMiller, isHint_f3, guard_ok h, rawMiller, checked, h, decInt, zeros]
theorem sra (g : Guard) (d : BitVec 5) (a : BitVec 5) (b : BitVec 5) : Statement (.sra g d a b) := by
  intro f h _ _
  simp [decodeCode, encode, decodeMiller, isHint_f3, guard_ok h, rawMiller, checked, h, decInt, zeros]
theorem sraW (g : Guard) (d : BitVec 5) (a : BitVec 5) (b : BitVec 5) : Statement (.sraW g d a b) := by
  intro f h _ _
  simp [decodeCode, encode, decodeMiller, isHint_f3, guard_ok h, rawMiller, checked, h, decInt, zeros]
theorem clz (g : Guard) (d : BitVec 5) (a : BitVec 5) : Statement (.clz g d a) := by
  intro f h _ _
  simp [decodeCode, encode, decodeMiller, isHint_f3, guard_ok h, rawMiller, checked, h, decInt, zeros]
theorem clzW (g : Guard) (d : BitVec 5) (a : BitVec 5) : Statement (.clzW g d a) := by
  intro f h _ _
  simp [decodeCode, encode, decodeMiller, isHint_f3, guard_ok h, rawMiller, checked, h, decInt, zeros]
theorem ctz (g : Guard) (d : BitVec 5) (a : BitVec 5) : Statement (.ctz g d a) := by
  intro f h _ _
  simp [decodeCode, encode, decodeMiller, isHint_f3, guard_ok h, rawMiller, checked, h, decInt, zeros]
theorem ctzW (g : Guard) (d : BitVec 5) (a : BitVec 5) : Statement (.ctzW g d a) := by
  intro f h _ _
  simp [decodeCode, encode, decodeMiller, isHint_f3, guard_ok h, rawMiller, checked, h, decInt, zeros]
theorem popc (g : Guard) (d : BitVec 5) (a : BitVec 5) : Statement (.popc g d a) := by
  intro f h _ _
  simp [decodeCode, encode, decodeMiller, isHint_f3, guard_ok h, rawMiller, checked, h, decInt, zeros]
theorem popcW (g : Guard) (d : BitVec 5) (a : BitVec 5) : Statement (.popcW g d a) := by
  intro f h _ _
  simp [decodeCode, encode, decodeMiller, isHint_f3, guard_ok h, rawMiller, checked, h, decInt, zeros]
theorem sextB (g : Guard) (d : BitVec 5) (a : BitVec 5) : Statement (.sextB g d a) := by
  intro f h _ _
  simp [decodeCode, encode, decodeMiller, isHint_f3, guard_ok h, rawMiller, checked, h, decInt, zeros]
theorem sextH (g : Guard) (d : BitVec 5) (a : BitVec 5) : Statement (.sextH g d a) := by
  intro f h _ _
  simp [decodeCode, encode, decodeMiller, isHint_f3, guard_ok h, rawMiller, checked, h, decInt, zeros]
theorem sextW (g : Guard) (d : BitVec 5) (a : BitVec 5) : Statement (.sextW g d a) := by
  intro f h _ _
  simp [decodeCode, encode, decodeMiller, isHint_f3, guard_ok h, rawMiller, checked, h, decInt, zeros]
theorem zextB (g : Guard) (d : BitVec 5) (a : BitVec 5) : Statement (.zextB g d a) := by
  intro f h _ _
  simp [decodeCode, encode, decodeMiller, isHint_f3, guard_ok h, rawMiller, checked, h, decInt, zeros]
theorem zextH (g : Guard) (d : BitVec 5) (a : BitVec 5) : Statement (.zextH g d a) := by
  intro f h _ _
  simp [decodeCode, encode, decodeMiller, isHint_f3, guard_ok h, rawMiller, checked, h, decInt, zeros]
theorem zextW (g : Guard) (d : BitVec 5) (a : BitVec 5) : Statement (.zextW g d a) := by
  intro f h _ _
  simp [decodeCode, encode, decodeMiller, isHint_f3, guard_ok h, rawMiller, checked, h, decInt, zeros]
theorem addi (g : Guard) (d : BitVec 5) (a : BitVec 5) (imm : BitVec 12) : Statement (.addi g d a imm) := by
  intro f h _ _
  simp [decodeCode, encode, decodeMiller, isHint_fi, guard_ok h, rawMiller, checked, h, zeros]
theorem addiW (g : Guard) (d : BitVec 5) (a : BitVec 5) (imm : BitVec 12) : Statement (.addiW g d a imm) := by
  intro f h _ _
  simp [decodeCode, encode, decodeMiller, isHint_fi, guard_ok h, rawMiller, checked, h, zeros]
theorem andi (g : Guard) (d : BitVec 5) (a : BitVec 5) (imm : BitVec 12) : Statement (.andi g d a imm) := by
  intro f h _ _
  simp [decodeCode, encode, decodeMiller, isHint_fi, guard_ok h, rawMiller, checked, h, zeros]
theorem ori (g : Guard) (d : BitVec 5) (a : BitVec 5) (imm : BitVec 12) : Statement (.ori g d a imm) := by
  intro f h _ _
  simp [decodeCode, encode, decodeMiller, isHint_fi, guard_ok h, rawMiller, checked, h, zeros]
theorem xori (g : Guard) (d : BitVec 5) (a : BitVec 5) (imm : BitVec 12) : Statement (.xori g d a imm) := by
  intro f h _ _
  simp [decodeCode, encode, decodeMiller, isHint_fi, guard_ok h, rawMiller, checked, h, zeros]
theorem shlImm (g : Guard) (d : BitVec 5) (a : BitVec 5) (sh : BitVec 6) : Statement (.shlImm g d a sh) := by
  intro f h _ _
  simp [decodeCode, encode, decodeMiller, isHint_fi, guard_ok h, rawMiller, checked, h, decShift, decFloat, zeros, -BitVec.extractLsb'_toNat]
theorem shlWImm (g : Guard) (d : BitVec 5) (a : BitVec 5) (sh : BitVec 6) : Statement (.shlWImm g d a sh) := by
  intro f h _ _
  simp [decodeCode, encode, decodeMiller, isHint_fi, guard_ok h, rawMiller, checked, h, decShift, decFloat, zeros, -BitVec.extractLsb'_toNat]
theorem shrImm (g : Guard) (d : BitVec 5) (a : BitVec 5) (sh : BitVec 6) : Statement (.shrImm g d a sh) := by
  intro f h _ _
  simp [decodeCode, encode, decodeMiller, isHint_fi, guard_ok h, rawMiller, checked, h, decShift, decFloat, zeros, -BitVec.extractLsb'_toNat]
theorem shrWImm (g : Guard) (d : BitVec 5) (a : BitVec 5) (sh : BitVec 6) : Statement (.shrWImm g d a sh) := by
  intro f h _ _
  simp [decodeCode, encode, decodeMiller, isHint_fi, guard_ok h, rawMiller, checked, h, decShift, decFloat, zeros, -BitVec.extractLsb'_toNat]
theorem sraImm (g : Guard) (d : BitVec 5) (a : BitVec 5) (sh : BitVec 6) : Statement (.sraImm g d a sh) := by
  intro f h _ _
  simp [decodeCode, encode, decodeMiller, isHint_fi, guard_ok h, rawMiller, checked, h, decShift, decFloat, zeros, -BitVec.extractLsb'_toNat]
theorem sraWImm (g : Guard) (d : BitVec 5) (a : BitVec 5) (sh : BitVec 6) : Statement (.sraWImm g d a sh) := by
  intro f h _ _
  simp [decodeCode, encode, decodeMiller, isHint_fi, guard_ok h, rawMiller, checked, h, decShift, decFloat, zeros, -BitVec.extractLsb'_toNat]
theorem li (g : Guard) (d : BitVec 5) (imm : BitVec 17) : Statement (.li g d imm) := by
  intro f h _ _
  simp [decodeCode, encode, decodeMiller, isHint_fl, guard_ok h, rawMiller, checked, h, zeros]
theorem lih (g : Guard) (d : BitVec 5) (imm : BitVec 17) : Statement (.lih g d imm) := by
  intro f h _ _
  simp [decodeCode, encode, decodeMiller, isHint_fl, guard_ok h, rawMiller, checked, h, zeros]
theorem addpc (g : Guard) (d : BitVec 5) (imm : BitVec 17) : Statement (.addpc g d imm) := by
  intro f h _ _
  simp [decodeCode, encode, decodeMiller, isHint_fl, guard_ok h, rawMiller, checked, h, zeros]
theorem cmpEqImm (g : Guard) (d : BitVec 5) (a : BitVec 5) (imm : BitVec 12) : Statement (.cmpEqImm g d a imm) := by
  intro f h _ _
  simp [decodeCode, encode, decodeMiller, isHint_fi, guard_ok h, rawMiller, checked, h, zeros]
theorem cmpNeImm (g : Guard) (d : BitVec 5) (a : BitVec 5) (imm : BitVec 12) : Statement (.cmpNeImm g d a imm) := by
  intro f h _ _
  simp [decodeCode, encode, decodeMiller, isHint_fi, guard_ok h, rawMiller, checked, h, zeros]
theorem cmpLtImm (g : Guard) (d : BitVec 5) (a : BitVec 5) (imm : BitVec 12) : Statement (.cmpLtImm g d a imm) := by
  intro f h _ _
  simp [decodeCode, encode, decodeMiller, isHint_fi, guard_ok h, rawMiller, checked, h, zeros]
theorem cmpLeImm (g : Guard) (d : BitVec 5) (a : BitVec 5) (imm : BitVec 12) : Statement (.cmpLeImm g d a imm) := by
  intro f h _ _
  simp [decodeCode, encode, decodeMiller, isHint_fi, guard_ok h, rawMiller, checked, h, zeros]
theorem cmpLtuImm (g : Guard) (d : BitVec 5) (a : BitVec 5) (imm : BitVec 12) : Statement (.cmpLtuImm g d a imm) := by
  intro f h _ _
  simp [decodeCode, encode, decodeMiller, isHint_fi, guard_ok h, rawMiller, checked, h, zeros]
theorem cmpLeuImm (g : Guard) (d : BitVec 5) (a : BitVec 5) (imm : BitVec 12) : Statement (.cmpLeuImm g d a imm) := by
  intro f h _ _
  simp [decodeCode, encode, decodeMiller, isHint_fi, guard_ok h, rawMiller, checked, h, zeros]
theorem cmpEq (g : Guard) (d : BitVec 5) (a : BitVec 5) (b : BitVec 5) : Statement (.cmpEq g d a b) := by
  intro f h _ _
  simp [decodeCode, encode, decodeMiller, isHint_f3, guard_ok h, rawMiller, checked, h, decCmp, zeros]
theorem cmpNe (g : Guard) (d : BitVec 5) (a : BitVec 5) (b : BitVec 5) : Statement (.cmpNe g d a b) := by
  intro f h _ _
  simp [decodeCode, encode, decodeMiller, isHint_f3, guard_ok h, rawMiller, checked, h, decCmp, zeros]
theorem cmpLt (g : Guard) (d : BitVec 5) (a : BitVec 5) (b : BitVec 5) : Statement (.cmpLt g d a b) := by
  intro f h _ _
  simp [decodeCode, encode, decodeMiller, isHint_f3, guard_ok h, rawMiller, checked, h, decCmp, zeros]
theorem cmpLe (g : Guard) (d : BitVec 5) (a : BitVec 5) (b : BitVec 5) : Statement (.cmpLe g d a b) := by
  intro f h _ _
  simp [decodeCode, encode, decodeMiller, isHint_f3, guard_ok h, rawMiller, checked, h, decCmp, zeros]
theorem cmpLtu (g : Guard) (d : BitVec 5) (a : BitVec 5) (b : BitVec 5) : Statement (.cmpLtu g d a b) := by
  intro f h _ _
  simp [decodeCode, encode, decodeMiller, isHint_f3, guard_ok h, rawMiller, checked, h, decCmp, zeros]
theorem cmpLeu (g : Guard) (d : BitVec 5) (a : BitVec 5) (b : BitVec 5) : Statement (.cmpLeu g d a b) := by
  intro f h _ _
  simp [decodeCode, encode, decodeMiller, isHint_f3, guard_ok h, rawMiller, checked, h, decCmp, zeros]
theorem gand (g : Guard) (d : BitVec 5) (a : BitVec 5) (b : BitVec 5) : Statement (.gand g d a b) := by
  intro f h _ _
  simp [decodeCode, encode, decodeMiller, isHint_f3, guard_ok h, rawMiller, checked, h, decCmp, zeros]
theorem gor (g : Guard) (d : BitVec 5) (a : BitVec 5) (b : BitVec 5) : Statement (.gor g d a b) := by
  intro f h _ _
  simp [decodeCode, encode, decodeMiller, isHint_f3, guard_ok h, rawMiller, checked, h, decCmp, zeros]
theorem gxor (g : Guard) (d : BitVec 5) (a : BitVec 5) (b : BitVec 5) : Statement (.gxor g d a b) := by
  intro f h _ _
  simp [decodeCode, encode, decodeMiller, isHint_f3, guard_ok h, rawMiller, checked, h, decCmp, zeros]
theorem gnot (g : Guard) (d : BitVec 5) (a : BitVec 5) : Statement (.gnot g d a) := by
  intro f h _ _
  simp [decodeCode, encode, decodeMiller, isHint_f3, guard_ok h, rawMiller, checked, h, decCmp, zeros]
theorem br (g : Guard) (off : BitVec 22) : Statement (.br g off) := by
  intro f h _ _
  simp [decodeCode, encode, decodeMiller, isHint_fb, guard_ok h, rawMiller, checked, h, zeros]
theorem bl (g : Guard) (off : BitVec 22) : Statement (.bl g off) := by
  intro f h _ _
  simp [decodeCode, encode, decodeMiller, isHint_fb, guard_ok h, rawMiller, checked, h, zeros]
theorem bi (g : Guard) (a : BitVec 5) (imm : BitVec 12) : Statement (.bi g a imm) := by
  intro f h _ _
  simp [decodeCode, encode, decodeMiller, isHint_fi, guard_ok h, rawMiller, checked, h, zeros]
theorem rep (g : Guard) (a : BitVec 5) (imm : BitVec 12) : Statement (.rep g a imm) := by
  intro f h _ _
  simp [decodeCode, encode, decodeMiller, isHint_fi, guard_ok h, rawMiller, checked, h, zeros]
theorem waitch (g : Guard) (a : BitVec 5) : Statement (.waitch g a) := by
  intro f h _ _
  simp [decodeCode, encode, decodeMiller, isHint_f3, guard_ok h, rawMiller, checked, h, decControl, zeros]
theorem yield (g : Guard) : Statement (.yield g) := by
  intro f h _ _
  simp [decodeCode, encode, decodeMiller, isHint_f3, guard_ok h, rawMiller, checked, h, decControl, zeros]
theorem exit (g : Guard) : Statement (.exit g) := by
  intro f h _ _
  simp [decodeCode, encode, decodeMiller, isHint_f3, guard_ok h, rawMiller, checked, h, decControl, zeros]
theorem syncd (g : Guard) : Statement (.syncd g) := by
  intro f h _ _
  simp [decodeCode, encode, decodeMiller, isHint_f3, guard_ok h, rawMiller, checked, h, decControl, zeros]
theorem wfe (g : Guard) : Statement (.wfe g) := by
  intro f h _ _
  simp [decodeCode, encode, decodeMiller, isHint_f3, guard_ok h, rawMiller, checked, h, decControl, zeros]
theorem eret (g : Guard) : Statement (.eret g) := by
  intro f h _ _
  simp [decodeCode, encode, decodeMiller, isHint_f3, guard_ok h, rawMiller, checked, h, decControl, zeros]
theorem bkpt (g : Guard) : Statement (.bkpt g) := by
  intro f h _ _
  simp [decodeCode, encode, decodeMiller, isHint_f3, guard_ok h, rawMiller, checked, h, decControl, zeros]
theorem bara (g : Guard) (n : BitVec 12) : Statement (.bara g n) := by
  intro f h _ _
  simp [decodeCode, encode, decodeMiller, isHint_fi, guard_ok h, rawMiller, checked, h, zeros]
theorem barw (g : Guard) (n : BitVec 12) : Statement (.barw g n) := by
  intro f h _ _
  simp [decodeCode, encode, decodeMiller, isHint_fi, guard_ok h, rawMiller, checked, h, zeros]
theorem sel (g : Guard) (d : BitVec 5) (a : BitVec 5) (b : BitVec 5) (p : BitVec 3) : Statement (.sel g d a b p) := by
  intro f h _ _
  simp [decodeCode, encode, decodeMiller, isHint_f3, guard_ok h, rawMiller, checked, h, decShift, decFloat, zeros, -BitVec.extractLsb'_toNat]
theorem ldB (g : Guard) (d : BitVec 5) (a : BitVec 5) (off : BitVec 12) : Statement (.ldB g d a off) := by
  intro f h _ _
  simp [decodeCode, encode, decodeMiller, isHint_fi, guard_ok h, rawMiller, checked, h, zeros]
theorem ldBu (g : Guard) (d : BitVec 5) (a : BitVec 5) (off : BitVec 12) : Statement (.ldBu g d a off) := by
  intro f h _ _
  simp [decodeCode, encode, decodeMiller, isHint_fi, guard_ok h, rawMiller, checked, h, zeros]
theorem ldH (g : Guard) (d : BitVec 5) (a : BitVec 5) (off : BitVec 12) : Statement (.ldH g d a off) := by
  intro f h _ _
  simp [decodeCode, encode, decodeMiller, isHint_fi, guard_ok h, rawMiller, checked, h, zeros]
theorem ldHu (g : Guard) (d : BitVec 5) (a : BitVec 5) (off : BitVec 12) : Statement (.ldHu g d a off) := by
  intro f h _ _
  simp [decodeCode, encode, decodeMiller, isHint_fi, guard_ok h, rawMiller, checked, h, zeros]
theorem ldW (g : Guard) (d : BitVec 5) (a : BitVec 5) (off : BitVec 12) : Statement (.ldW g d a off) := by
  intro f h _ _
  simp [decodeCode, encode, decodeMiller, isHint_fi, guard_ok h, rawMiller, checked, h, zeros]
theorem ldWu (g : Guard) (d : BitVec 5) (a : BitVec 5) (off : BitVec 12) : Statement (.ldWu g d a off) := by
  intro f h _ _
  simp [decodeCode, encode, decodeMiller, isHint_fi, guard_ok h, rawMiller, checked, h, zeros]
theorem ldD (g : Guard) (d : BitVec 5) (a : BitVec 5) (off : BitVec 12) : Statement (.ldD g d a off) := by
  intro f h _ _
  simp [decodeCode, encode, decodeMiller, isHint_fi, guard_ok h, rawMiller, checked, h, zeros]
theorem extr (g : Guard) (d : BitVec 5) (a : BitVec 5) (wm1 : BitVec 6) (pos : BitVec 6) : Statement (.extr g d a wm1 pos) := by
  intro f h _ _
  simp [decodeCode, encode, decodeMiller, isHint_fi, guard_ok h, rawMiller, checked, h, decShift, decFloat, zeros, -BitVec.extractLsb'_toNat]
theorem stB (g : Guard) (x : BitVec 5) (a : BitVec 5) (off : BitVec 12) : Statement (.stB g x a off) := by
  intro f h _ _
  simp [decodeCode, encode, decodeMiller, isHint_fi, guard_ok h, rawMiller, checked, h, zeros]
theorem stH (g : Guard) (x : BitVec 5) (a : BitVec 5) (off : BitVec 12) : Statement (.stH g x a off) := by
  intro f h _ _
  simp [decodeCode, encode, decodeMiller, isHint_fi, guard_ok h, rawMiller, checked, h, zeros]
theorem stW (g : Guard) (x : BitVec 5) (a : BitVec 5) (off : BitVec 12) : Statement (.stW g x a off) := by
  intro f h _ _
  simp [decodeCode, encode, decodeMiller, isHint_fi, guard_ok h, rawMiller, checked, h, zeros]
theorem stD (g : Guard) (x : BitVec 5) (a : BitVec 5) (off : BitVec 12) : Statement (.stD g x a off) := by
  intro f h _ _
  simp [decodeCode, encode, decodeMiller, isHint_fi, guard_ok h, rawMiller, checked, h, zeros]
theorem ldf (g : Guard) (d : BitVec 5) (a : BitVec 5) (off : BitVec 12) : Statement (.ldf g d a off) := by
  intro f h _ _
  simp [decodeCode, encode, decodeMiller, isHint_fi, guard_ok h, rawMiller, checked, h, zeros]
theorem ldfS (g : Guard) (d : BitVec 5) (a : BitVec 5) (off : BitVec 12) : Statement (.ldfS g d a off) := by
  intro f h _ _
  simp [decodeCode, encode, decodeMiller, isHint_fi, guard_ok h, rawMiller, checked, h, zeros]
theorem stf (g : Guard) (x : BitVec 5) (a : BitVec 5) (off : BitVec 12) : Statement (.stf g x a off) := by
  intro f h _ _
  simp [decodeCode, encode, decodeMiller, isHint_fi, guard_ok h, rawMiller, checked, h, zeros]
theorem stfS (g : Guard) (x : BitVec 5) (a : BitVec 5) (off : BitVec 12) : Statement (.stfS g x a off) := by
  intro f h _ _
  simp [decodeCode, encode, decodeMiller, isHint_fi, guard_ok h, rawMiller, checked, h, zeros]
theorem ldcW (g : Guard) (d : BitVec 5) (a : BitVec 5) (off : BitVec 12) : Statement (.ldcW g d a off) := by
  intro f h _ _
  simp [decodeCode, encode, decodeMiller, isHint_fi, guard_ok h, rawMiller, checked, h, zeros]
theorem ldcWu (g : Guard) (d : BitVec 5) (a : BitVec 5) (off : BitVec 12) : Statement (.ldcWu g d a off) := by
  intro f h _ _
  simp [decodeCode, encode, decodeMiller, isHint_fi, guard_ok h, rawMiller, checked, h, zeros]
theorem ldcD (g : Guard) (d : BitVec 5) (a : BitVec 5) (off : BitVec 12) : Statement (.ldcD g d a off) := by
  intro f h _ _
  simp [decodeCode, encode, decodeMiller, isHint_fi, guard_ok h, rawMiller, checked, h, zeros]
theorem pref (g : Guard) (lvl : BitVec 5) (a : BitVec 5) (off : BitVec 12) : Statement (.pref g lvl a off) := by
  intro f h _ _
  simp [decodeCode, encode, decodeMiller, isHint_fi, guard_ok h, rawMiller, checked, h, zeros]
theorem aadd (g : Guard) (d : BitVec 5) (a : BitVec 5) (b : BitVec 5) : Statement (.aadd g d a b) := by
  intro f h _ _
  simp [decodeCode, encode, decodeMiller, isHint_f3, guard_ok h, rawMiller, checked, h, decAtomic, zeros]
theorem aaddW (g : Guard) (d : BitVec 5) (a : BitVec 5) (b : BitVec 5) : Statement (.aaddW g d a b) := by
  intro f h _ _
  simp [decodeCode, encode, decodeMiller, isHint_f3, guard_ok h, rawMiller, checked, h, decAtomic, zeros]
theorem aand (g : Guard) (d : BitVec 5) (a : BitVec 5) (b : BitVec 5) : Statement (.aand g d a b) := by
  intro f h _ _
  simp [decodeCode, encode, decodeMiller, isHint_f3, guard_ok h, rawMiller, checked, h, decAtomic, zeros]
theorem aandW (g : Guard) (d : BitVec 5) (a : BitVec 5) (b : BitVec 5) : Statement (.aandW g d a b) := by
  intro f h _ _
  simp [decodeCode, encode, decodeMiller, isHint_f3, guard_ok h, rawMiller, checked, h, decAtomic, zeros]
theorem aor (g : Guard) (d : BitVec 5) (a : BitVec 5) (b : BitVec 5) : Statement (.aor g d a b) := by
  intro f h _ _
  simp [decodeCode, encode, decodeMiller, isHint_f3, guard_ok h, rawMiller, checked, h, decAtomic, zeros]
theorem aorW (g : Guard) (d : BitVec 5) (a : BitVec 5) (b : BitVec 5) : Statement (.aorW g d a b) := by
  intro f h _ _
  simp [decodeCode, encode, decodeMiller, isHint_f3, guard_ok h, rawMiller, checked, h, decAtomic, zeros]
theorem axor (g : Guard) (d : BitVec 5) (a : BitVec 5) (b : BitVec 5) : Statement (.axor g d a b) := by
  intro f h _ _
  simp [decodeCode, encode, decodeMiller, isHint_f3, guard_ok h, rawMiller, checked, h, decAtomic, zeros]
theorem axorW (g : Guard) (d : BitVec 5) (a : BitVec 5) (b : BitVec 5) : Statement (.axorW g d a b) := by
  intro f h _ _
  simp [decodeCode, encode, decodeMiller, isHint_f3, guard_ok h, rawMiller, checked, h, decAtomic, zeros]
theorem amin (g : Guard) (d : BitVec 5) (a : BitVec 5) (b : BitVec 5) : Statement (.amin g d a b) := by
  intro f h _ _
  simp [decodeCode, encode, decodeMiller, isHint_f3, guard_ok h, rawMiller, checked, h, decAtomic, zeros]
theorem aminW (g : Guard) (d : BitVec 5) (a : BitVec 5) (b : BitVec 5) : Statement (.aminW g d a b) := by
  intro f h _ _
  simp [decodeCode, encode, decodeMiller, isHint_f3, guard_ok h, rawMiller, checked, h, decAtomic, zeros]
theorem amax (g : Guard) (d : BitVec 5) (a : BitVec 5) (b : BitVec 5) : Statement (.amax g d a b) := by
  intro f h _ _
  simp [decodeCode, encode, decodeMiller, isHint_f3, guard_ok h, rawMiller, checked, h, decAtomic, zeros]
theorem amaxW (g : Guard) (d : BitVec 5) (a : BitVec 5) (b : BitVec 5) : Statement (.amaxW g d a b) := by
  intro f h _ _
  simp [decodeCode, encode, decodeMiller, isHint_f3, guard_ok h, rawMiller, checked, h, decAtomic, zeros]
theorem aminu (g : Guard) (d : BitVec 5) (a : BitVec 5) (b : BitVec 5) : Statement (.aminu g d a b) := by
  intro f h _ _
  simp [decodeCode, encode, decodeMiller, isHint_f3, guard_ok h, rawMiller, checked, h, decAtomic, zeros]
theorem aminuW (g : Guard) (d : BitVec 5) (a : BitVec 5) (b : BitVec 5) : Statement (.aminuW g d a b) := by
  intro f h _ _
  simp [decodeCode, encode, decodeMiller, isHint_f3, guard_ok h, rawMiller, checked, h, decAtomic, zeros]
theorem amaxu (g : Guard) (d : BitVec 5) (a : BitVec 5) (b : BitVec 5) : Statement (.amaxu g d a b) := by
  intro f h _ _
  simp [decodeCode, encode, decodeMiller, isHint_f3, guard_ok h, rawMiller, checked, h, decAtomic, zeros]
theorem amaxuW (g : Guard) (d : BitVec 5) (a : BitVec 5) (b : BitVec 5) : Statement (.amaxuW g d a b) := by
  intro f h _ _
  simp [decodeCode, encode, decodeMiller, isHint_f3, guard_ok h, rawMiller, checked, h, decAtomic, zeros]
theorem aswp (g : Guard) (d : BitVec 5) (a : BitVec 5) (b : BitVec 5) : Statement (.aswp g d a b) := by
  intro f h _ _
  simp [decodeCode, encode, decodeMiller, isHint_f3, guard_ok h, rawMiller, checked, h, decAtomic, zeros]
theorem aswpW (g : Guard) (d : BitVec 5) (a : BitVec 5) (b : BitVec 5) : Statement (.aswpW g d a b) := by
  intro f h _ _
  simp [decodeCode, encode, decodeMiller, isHint_f3, guard_ok h, rawMiller, checked, h, decAtomic, zeros]
theorem acas (g : Guard) (d : BitVec 5) (a : BitVec 5) (b : BitVec 5) : Statement (.acas g d a b) := by
  intro f h _ _
  simp [decodeCode, encode, decodeMiller, isHint_f3, guard_ok h, rawMiller, checked, h, decAtomic, zeros]
theorem acasW (g : Guard) (d : BitVec 5) (a : BitVec 5) (b : BitVec 5) : Statement (.acasW g d a b) := by
  intro f h _ _
  simp [decodeCode, encode, decodeMiller, isHint_f3, guard_ok h, rawMiller, checked, h, decAtomic, zeros]
theorem fadd (g : Guard) (d : BitVec 5) (a : BitVec 5) (b : BitVec 5) : Statement (.fadd g d a b) := by
  intro f h _ _
  simp [decodeCode, encode, decodeMiller, isHint_f3, guard_ok h, rawMiller, checked, h, decFloat, zeros]
theorem faddS (g : Guard) (d : BitVec 5) (a : BitVec 5) (b : BitVec 5) : Statement (.faddS g d a b) := by
  intro f h _ _
  simp [decodeCode, encode, decodeMiller, isHint_f3, guard_ok h, rawMiller, checked, h, decFloat, zeros]
theorem fsub (g : Guard) (d : BitVec 5) (a : BitVec 5) (b : BitVec 5) : Statement (.fsub g d a b) := by
  intro f h _ _
  simp [decodeCode, encode, decodeMiller, isHint_f3, guard_ok h, rawMiller, checked, h, decFloat, zeros]
theorem fsubS (g : Guard) (d : BitVec 5) (a : BitVec 5) (b : BitVec 5) : Statement (.fsubS g d a b) := by
  intro f h _ _
  simp [decodeCode, encode, decodeMiller, isHint_f3, guard_ok h, rawMiller, checked, h, decFloat, zeros]
theorem fmul (g : Guard) (d : BitVec 5) (a : BitVec 5) (b : BitVec 5) : Statement (.fmul g d a b) := by
  intro f h _ _
  simp [decodeCode, encode, decodeMiller, isHint_f3, guard_ok h, rawMiller, checked, h, decFloat, zeros]
theorem fmulS (g : Guard) (d : BitVec 5) (a : BitVec 5) (b : BitVec 5) : Statement (.fmulS g d a b) := by
  intro f h _ _
  simp [decodeCode, encode, decodeMiller, isHint_f3, guard_ok h, rawMiller, checked, h, decFloat, zeros]
theorem fdiv (g : Guard) (d : BitVec 5) (a : BitVec 5) (b : BitVec 5) : Statement (.fdiv g d a b) := by
  intro f h _ _
  simp [decodeCode, encode, decodeMiller, isHint_f3, guard_ok h, rawMiller, checked, h, decFloat, zeros]
theorem fdivS (g : Guard) (d : BitVec 5) (a : BitVec 5) (b : BitVec 5) : Statement (.fdivS g d a b) := by
  intro f h _ _
  simp [decodeCode, encode, decodeMiller, isHint_f3, guard_ok h, rawMiller, checked, h, decFloat, zeros]
theorem fsqrt (g : Guard) (d : BitVec 5) (a : BitVec 5) : Statement (.fsqrt g d a) := by
  intro f h _ _
  simp [decodeCode, encode, decodeMiller, isHint_f3, guard_ok h, rawMiller, checked, h, decFloat, zeros]
theorem fsqrtS (g : Guard) (d : BitVec 5) (a : BitVec 5) : Statement (.fsqrtS g d a) := by
  intro f h _ _
  simp [decodeCode, encode, decodeMiller, isHint_f3, guard_ok h, rawMiller, checked, h, decFloat, zeros]
theorem ffma (g : Guard) (d : BitVec 5) (a : BitVec 5) (b : BitVec 5) : Statement (.ffma g d a b) := by
  intro f h _ _
  simp [decodeCode, encode, decodeMiller, isHint_f3, guard_ok h, rawMiller, checked, h, decFloat, zeros]
theorem ffmaS (g : Guard) (d : BitVec 5) (a : BitVec 5) (b : BitVec 5) : Statement (.ffmaS g d a b) := by
  intro f h _ _
  simp [decodeCode, encode, decodeMiller, isHint_f3, guard_ok h, rawMiller, checked, h, decFloat, zeros]
theorem fmin (g : Guard) (d : BitVec 5) (a : BitVec 5) (b : BitVec 5) : Statement (.fmin g d a b) := by
  intro f h _ _
  simp [decodeCode, encode, decodeMiller, isHint_f3, guard_ok h, rawMiller, checked, h, decFloat, zeros]
theorem fminS (g : Guard) (d : BitVec 5) (a : BitVec 5) (b : BitVec 5) : Statement (.fminS g d a b) := by
  intro f h _ _
  simp [decodeCode, encode, decodeMiller, isHint_f3, guard_ok h, rawMiller, checked, h, decFloat, zeros]
theorem fmax (g : Guard) (d : BitVec 5) (a : BitVec 5) (b : BitVec 5) : Statement (.fmax g d a b) := by
  intro f h _ _
  simp [decodeCode, encode, decodeMiller, isHint_f3, guard_ok h, rawMiller, checked, h, decFloat, zeros]
theorem fmaxS (g : Guard) (d : BitVec 5) (a : BitVec 5) (b : BitVec 5) : Statement (.fmaxS g d a b) := by
  intro f h _ _
  simp [decodeCode, encode, decodeMiller, isHint_f3, guard_ok h, rawMiller, checked, h, decFloat, zeros]
theorem fcmpEq (g : Guard) (d : BitVec 5) (a : BitVec 5) (b : BitVec 5) : Statement (.fcmpEq g d a b) := by
  intro f h _ _
  simp [decodeCode, encode, decodeMiller, isHint_f3, guard_ok h, rawMiller, checked, h, decFloat, zeros]
theorem fcmpEqS (g : Guard) (d : BitVec 5) (a : BitVec 5) (b : BitVec 5) : Statement (.fcmpEqS g d a b) := by
  intro f h _ _
  simp [decodeCode, encode, decodeMiller, isHint_f3, guard_ok h, rawMiller, checked, h, decFloat, zeros]
theorem fcmpLt (g : Guard) (d : BitVec 5) (a : BitVec 5) (b : BitVec 5) : Statement (.fcmpLt g d a b) := by
  intro f h _ _
  simp [decodeCode, encode, decodeMiller, isHint_f3, guard_ok h, rawMiller, checked, h, decFloat, zeros]
theorem fcmpLtS (g : Guard) (d : BitVec 5) (a : BitVec 5) (b : BitVec 5) : Statement (.fcmpLtS g d a b) := by
  intro f h _ _
  simp [decodeCode, encode, decodeMiller, isHint_f3, guard_ok h, rawMiller, checked, h, decFloat, zeros]
theorem fcmpLe (g : Guard) (d : BitVec 5) (a : BitVec 5) (b : BitVec 5) : Statement (.fcmpLe g d a b) := by
  intro f h _ _
  simp [decodeCode, encode, decodeMiller, isHint_f3, guard_ok h, rawMiller, checked, h, decFloat, zeros]
theorem fcmpLeS (g : Guard) (d : BitVec 5) (a : BitVec 5) (b : BitVec 5) : Statement (.fcmpLeS g d a b) := by
  intro f h _ _
  simp [decodeCode, encode, decodeMiller, isHint_f3, guard_ok h, rawMiller, checked, h, decFloat, zeros]
theorem fcmpUn (g : Guard) (d : BitVec 5) (a : BitVec 5) (b : BitVec 5) : Statement (.fcmpUn g d a b) := by
  intro f h _ _
  simp [decodeCode, encode, decodeMiller, isHint_f3, guard_ok h, rawMiller, checked, h, decFloat, zeros]
theorem fcmpUnS (g : Guard) (d : BitVec 5) (a : BitVec 5) (b : BitVec 5) : Statement (.fcmpUnS g d a b) := by
  intro f h _ _
  simp [decodeCode, encode, decodeMiller, isHint_f3, guard_ok h, rawMiller, checked, h, decFloat, zeros]
theorem fcvtSD (g : Guard) (d : BitVec 5) (a : BitVec 5) : Statement (.fcvtSD g d a) := by
  intro f h _ _
  simp [decodeCode, encode, decodeMiller, isHint_f3, guard_ok h, rawMiller, checked, h, decFloat, zeros]
theorem fcvtDS (g : Guard) (d : BitVec 5) (a : BitVec 5) : Statement (.fcvtDS g d a) := by
  intro f h _ _
  simp [decodeCode, encode, decodeMiller, isHint_f3, guard_ok h, rawMiller, checked, h, decFloat, zeros]
theorem fcvtLD (g : Guard) (d : BitVec 5) (a : BitVec 5) : Statement (.fcvtLD g d a) := by
  intro f h _ _
  simp [decodeCode, encode, decodeMiller, isHint_f3, guard_ok h, rawMiller, checked, h, decFloat, zeros]
theorem fcvtLuD (g : Guard) (d : BitVec 5) (a : BitVec 5) : Statement (.fcvtLuD g d a) := by
  intro f h _ _
  simp [decodeCode, encode, decodeMiller, isHint_f3, guard_ok h, rawMiller, checked, h, decFloat, zeros]
theorem fcvtLS (g : Guard) (d : BitVec 5) (a : BitVec 5) : Statement (.fcvtLS g d a) := by
  intro f h _ _
  simp [decodeCode, encode, decodeMiller, isHint_f3, guard_ok h, rawMiller, checked, h, decFloat, zeros]
theorem fcvtLuS (g : Guard) (d : BitVec 5) (a : BitVec 5) : Statement (.fcvtLuS g d a) := by
  intro f h _ _
  simp [decodeCode, encode, decodeMiller, isHint_f3, guard_ok h, rawMiller, checked, h, decFloat, zeros]
theorem fcvtDL (g : Guard) (d : BitVec 5) (a : BitVec 5) : Statement (.fcvtDL g d a) := by
  intro f h _ _
  simp [decodeCode, encode, decodeMiller, isHint_f3, guard_ok h, rawMiller, checked, h, decFloat, zeros]
theorem fcvtDLu (g : Guard) (d : BitVec 5) (a : BitVec 5) : Statement (.fcvtDLu g d a) := by
  intro f h _ _
  simp [decodeCode, encode, decodeMiller, isHint_f3, guard_ok h, rawMiller, checked, h, decFloat, zeros]
theorem fcvtSL (g : Guard) (d : BitVec 5) (a : BitVec 5) : Statement (.fcvtSL g d a) := by
  intro f h _ _
  simp [decodeCode, encode, decodeMiller, isHint_f3, guard_ok h, rawMiller, checked, h, decFloat, zeros]
theorem fcvtSLu (g : Guard) (d : BitVec 5) (a : BitVec 5) : Statement (.fcvtSLu g d a) := by
  intro f h _ _
  simp [decodeCode, encode, decodeMiller, isHint_f3, guard_ok h, rawMiller, checked, h, decFloat, zeros]
theorem fclass (g : Guard) (d : BitVec 5) (a : BitVec 5) : Statement (.fclass g d a) := by
  intro f h _ _
  simp [decodeCode, encode, decodeMiller, isHint_f3, guard_ok h, rawMiller, checked, h, decFloat, zeros]
theorem fclassS (g : Guard) (d : BitVec 5) (a : BitVec 5) : Statement (.fclassS g d a) := by
  intro f h _ _
  simp [decodeCode, encode, decodeMiller, isHint_f3, guard_ok h, rawMiller, checked, h, decFloat, zeros]
theorem fmvg (g : Guard) (d : BitVec 5) (a : BitVec 5) : Statement (.fmvg g d a) := by
  intro f h _ _
  simp [decodeCode, encode, decodeMiller, isHint_f3, guard_ok h, rawMiller, checked, h, decFloat, zeros]
theorem gmvf (g : Guard) (d : BitVec 5) (a : BitVec 5) : Statement (.gmvf g d a) := by
  intro f h _ _
  simp [decodeCode, encode, decodeMiller, isHint_f3, guard_ok h, rawMiller, checked, h, decFloat, zeros]
theorem fli (g : Guard) (d : BitVec 5) (imm : BitVec 16) : Statement (.fli g d imm) := by
  intro f h _ _
  simp [decodeCode, encode, decodeMiller, isHint_fl, guard_ok h, rawMiller, checked, h, decShift, decFloat, zeros, -BitVec.extractLsb'_toNat]
theorem fliS (g : Guard) (d : BitVec 5) (imm : BitVec 16) : Statement (.fliS g d imm) := by
  intro f h _ _
  simp [decodeCode, encode, decodeMiller, isHint_fl, guard_ok h, rawMiller, checked, h, decShift, decFloat, zeros, -BitVec.extractLsb'_toNat]
theorem ins (g : Guard) (d : BitVec 5) (a : BitVec 5) (wm1 : BitVec 6) (pos : BitVec 6) : Statement (.ins g d a wm1 pos) := by
  intro f h _ _
  simp [decodeCode, encode, decodeMiller, isHint_fi, guard_ok h, rawMiller, checked, h, decShift, decFloat, zeros, -BitVec.extractLsb'_toNat]
theorem slnew (g : Guard) (d : BitVec 5) (a : BitVec 5) (b : BitVec 5) : Statement (.slnew g d a b) := by
  intro f h _ _
  simp [decodeCode, encode, decodeMiller, isHint_f3, guard_ok h, rawMiller, checked, h, decSystem, zeros]
theorem slmap (g : Guard) (d : BitVec 5) (a : BitVec 5) : Statement (.slmap g d a) := by
  intro f h _ _
  simp [decodeCode, encode, decodeMiller, isHint_f3, guard_ok h, rawMiller, checked, h, decSystem, zeros]
theorem sldup (g : Guard) (d : BitVec 5) (a : BitVec 5) : Statement (.sldup g d a) := by
  intro f h _ _
  simp [decodeCode, encode, decodeMiller, isHint_f3, guard_ok h, rawMiller, checked, h, decSystem, zeros]
theorem sldrop (g : Guard) (a : BitVec 5) : Statement (.sldrop g a) := by
  intro f h _ _
  simp [decodeCode, encode, decodeMiller, isHint_f3, guard_ok h, rawMiller, checked, h, decSystem, zeros]
theorem hmov (g : Guard) (d : BitVec 5) (a : BitVec 5) : Statement (.hmov g d a) := by
  intro f h _ _
  simp [decodeCode, encode, decodeMiller, isHint_f3, guard_ok h, rawMiller, checked, h, decSystem, zeros]
theorem slxfer (g : Guard) (d : BitVec 5) (a : BitVec 5) : Statement (.slxfer g d a) := by
  intro f h _ _
  simp [decodeCode, encode, decodeMiller, isHint_f3, guard_ok h, rawMiller, checked, h, decSystem, zeros]
theorem hrecv (g : Guard) (d : BitVec 5) (a : BitVec 5) : Statement (.hrecv g d a) := by
  intro f h _ _
  simp [decodeCode, encode, decodeMiller, isHint_f3, guard_ok h, rawMiller, checked, h, decSystem, zeros]
theorem flnew (g : Guard) (d : BitVec 5) (a : BitVec 5) (b : BitVec 5) : Statement (.flnew g d a b) := by
  intro f h _ _
  simp [decodeCode, encode, decodeMiller, isHint_f3, guard_ok h, rawMiller, checked, h, decSystem, zeros]
theorem flawait (g : Guard) (a : BitVec 5) (b : BitVec 5) : Statement (.flawait g a b) := by
  intro f h _ _
  simp [decodeCode, encode, decodeMiller, isHint_f3, guard_ok h, rawMiller, checked, h, decSystem, zeros]
theorem flrel (g : Guard) (a : BitVec 5) (b : BitVec 5) : Statement (.flrel g a b) := by
  intro f h _ _
  simp [decodeCode, encode, decodeMiller, isHint_f3, guard_ok h, rawMiller, checked, h, decSystem, zeros]
theorem chclose (g : Guard) (a : BitVec 5) : Statement (.chclose g a) := by
  intro f h _ _
  simp [decodeCode, encode, decodeMiller, isHint_f3, guard_ok h, rawMiller, checked, h, decSystem, zeros]
theorem scm (g : Guard) (d : BitVec 5) (a : BitVec 5) : Statement (.scm g d a) := by
  intro f h _ _
  simp [decodeCode, encode, decodeMiller, isHint_f3, guard_ok h, rawMiller, checked, h, decSystem, zeros]
theorem scw (g : Guard) (a : BitVec 5) : Statement (.scw g a) := by
  intro f h _ _
  simp [decodeCode, encode, decodeMiller, isHint_f3, guard_ok h, rawMiller, checked, h, decSystem, zeros]
theorem dlaunch (g : Guard) (d : BitVec 5) (a : BitVec 5) : Statement (.dlaunch g d a) := by
  intro f h _ _
  simp [decodeCode, encode, decodeMiller, isHint_f3, guard_ok h, rawMiller, checked, h, decSystem, zeros]
theorem rsvpin (g : Guard) (d : BitVec 5) (a : BitVec 5) (b : BitVec 5) : Statement (.rsvpin g d a b) := by
  intro f h _ _
  simp [decodeCode, encode, decodeMiller, isHint_f3, guard_ok h, rawMiller, checked, h, decSystem, zeros]
theorem rsvunpin (g : Guard) (a : BitVec 5) : Statement (.rsvunpin g a) := by
  intro f h _ _
  simp [decodeCode, encode, decodeMiller, isHint_f3, guard_ok h, rawMiller, checked, h, decSystem, zeros]
theorem ctron (g : Guard) (k : BitVec 5) : Statement (.ctron g k) := by
  intro f h _ _
  simp [decodeCode, encode, decodeMiller, isHint_f3, guard_ok h, rawMiller, checked, h, decSystem, zeros]
theorem ctroff (g : Guard) (k : BitVec 5) : Statement (.ctroff g k) := by
  intro f h _ _
  simp [decodeCode, encode, decodeMiller, isHint_f3, guard_ok h, rawMiller, checked, h, decSystem, zeros]
theorem ctrrd (g : Guard) (d : BitVec 5) (k : BitVec 5) : Statement (.ctrrd g d k) := by
  intro f h _ _
  simp [decodeCode, encode, decodeMiller, isHint_f3, guard_ok h, rawMiller, checked, h, decSystem, zeros]
theorem tlbinv (g : Guard) (a : BitVec 5) : Statement (.tlbinv g a) := by
  intro f h _ _
  simp [decodeCode, encode, decodeMiller, isHint_f3, guard_ok h, rawMiller, checked, h, decSystem, zeros]
theorem mfs (g : Guard) (d : BitVec 5) (sr : BitVec 12) : Statement (.mfs g d sr) := by
  intro f h _ _
  simp [decodeCode, encode, decodeMiller, isHint_fi, guard_ok h, rawMiller, checked, h, zeros]
theorem mts (g : Guard) (sr : BitVec 12) (a : BitVec 5) : Statement (.mts g sr a) := by
  intro f h _ _
  simp [decodeCode, encode, decodeMiller, isHint_fi, guard_ok h, rawMiller, checked, h, zeros]
theorem nstepi (g : Guard) (imm : BitVec 17) : Statement (.nstepi g imm) := by
  intro f h _ _
  simp [decodeCode, encode, decodeMiller, isHint_fl, guard_ok h, rawMiller, checked, h, zeros]
theorem trap (g : Guard) (imm : BitVec 12) : Statement (.trap g imm) := by
  intro f h _ _
  simp [decodeCode, encode, decodeMiller, isHint_fi, guard_ok h, rawMiller, checked, h, zeros]
theorem ctrsel (g : Guard) (k : BitVec 5) (ev : BitVec 12) : Statement (.ctrsel g k ev) := by
  intro f h _ _
  simp [decodeCode, encode, decodeMiller, isHint_fi, guard_ok h, rawMiller, checked, h, zeros]
theorem mark (g : Guard) (imm : BitVec 12) : Statement (.mark g imm) := by
  intro f h _ _
  simp [decodeCode, encode, decodeMiller, isHint_fi, guard_ok h, rawMiller, checked, h, zeros]
theorem trig (g : Guard) (line : BitVec 12) : Statement (.trig g line) := by
  intro f h _ _
  simp [decodeCode, encode, decodeMiller, isHint_fi, guard_ok h, rawMiller, checked, h, zeros]
theorem chbind (g : Guard) (d : BitVec 5) (ch : BitVec 12) : Statement (.chbind g d ch) := by
  intro f h _ _
  simp [decodeCode, encode, decodeMiller, isHint_fi, guard_ok h, rawMiller, checked, h, zeros]
theorem nop (low : BitVec 28) : Statement (.nop low) := by
  intro f _ _ _
  exact decode_hint low
theorem liw (g : Guard) (d : BitVec 5) (two : Bool) (l0 : BitVec 32) (l1 : BitVec 32) : Statement (.liw g d two l0 l1) := by
  intro f h _ _
  cases two
  · have hl : l1 = 0 := by
      have := h
      simp only [Instr.reject, firstReject, guard_ok h, Bool.false_or, if_true] at this
      simpa using this
    subst hl
    have h' : (Instr.liw g d false l0 0#32).reject = none := h
    simp [decodeCode, encode, decodeMiller, isHint_fx, guard_ok h, rawMiller, checked, h, h', decLit, zeros]
  · simp [decodeCode, encode, decodeMiller, isHint_fx, guard_ok h, rawMiller, checked, h, decLit, zeros]
theorem sci (g : Guard) (d : BitVec 5) (a : BitVec 5) (cmd : BitVec 128) : Statement (.sci g d a cmd) := by
  intro f h _ _
  simp [decodeCode, encode, decodeMiller, isHint_fx, guard_ok h, rawMiller, checked, h, decLit, join_lits]
theorem scNop : Statement .scNop := by
  intro f h _ _
  simp [decodeCode, encode, decodeCommand, rawCommand, checked, h, reserved, gap_command, zero_command]
theorem scBind (port : BitVec 6) (cls : BitVec 2) : Statement (.scBind port cls) := by
  intro f h _ _
  simp [decodeCode, encode, decodeCommand, rawCommand, checked, h, reserved, gap_command, zero_command]
theorem scFence : Statement .scFence := by
  intro f h _ _
  simp [decodeCode, encode, decodeCommand, rawCommand, checked, h, reserved, gap_command, zero_command]
theorem scTok (port : BitVec 6) (ch : BitVec 12) (tag : BitVec 64) : Statement (.scTok port ch tag) := by
  intro f h _ _
  simp [decodeCode, encode, decodeCommand, rawCommand, checked, h, reserved, gap_command, zero_command]
theorem scDrain (port : BitVec 6) : Statement (.scDrain port) := by
  intro f h _ _
  simp [decodeCode, encode, decodeCommand, rawCommand, checked, h, reserved, gap_command, zero_command]
theorem scCopy (port : BitVec 6) (blk : BitVec 24) : Statement (.scCopy port blk) := by
  intro f h _ _
  simp [decodeCode, encode, decodeCommand, rawCommand, checked, h, reserved, gap_command, zero_command]
theorem scRcopy (port : BitVec 6) (blk : BitVec 24) (rop : BitVec 4) (st : BitVec 24) : Statement (.scRcopy port blk rop st) := by
  intro f h _ _
  simp [decodeCode, encode, decodeCommand, rawCommand, checked, h, reserved, gap_command, zero_command]
theorem scGath (port : BitVec 6) (blk : BitVec 24) (esz : BitVec 4) (lim : BitVec 24) : Statement (.scGath port blk esz lim) := by
  intro f h _ _
  simp [decodeCode, encode, decodeCommand, rawCommand, checked, h, reserved, gap_command, zero_command]
theorem scScat (port : BitVec 6) (blk : BitVec 24) (esz : BitVec 4) (lim : BitVec 24) : Statement (.scScat port blk esz lim) := by
  intro f h _ _
  simp [decodeCode, encode, decodeCommand, rawCommand, checked, h, reserved, gap_command, zero_command]
theorem scFlume (port : BitVec 6) (nslot : BitVec 32) : Statement (.scFlume port nslot) := by
  intro f h _ _
  simp [decodeCode, encode, decodeCommand, rawCommand, checked, h, reserved, gap_command, zero_command]
theorem scSlfill (port : BitVec 6) (blk : BitVec 24) : Statement (.scSlfill port blk) := by
  intro f h _ _
  simp [decodeCode, encode, decodeCommand, rawCommand, checked, h, reserved, gap_command, zero_command]
theorem scSlsee (port : BitVec 6) (blk : BitVec 24) : Statement (.scSlsee port blk) := by
  intro f h _ _
  simp [decodeCode, encode, decodeCommand, rawCommand, checked, h, reserved, gap_command, zero_command]
theorem scCfg (blk : BitVec 24) : Statement (.scCfg blk) := by
  intro f h _ _
  simp [decodeCode, encode, decodeCommand, rawCommand, checked, h, reserved, gap_command, zero_command]
theorem scSwap : Statement .scSwap := by
  intro f h _ _
  simp [decodeCode, encode, decodeCommand, rawCommand, checked, h, reserved, gap_command, zero_command]
theorem scJob (port : BitVec 6) (blk : BitVec 24) : Statement (.scJob port blk) := by
  intro f h _ _
  simp [decodeCode, encode, decodeCommand, rawCommand, checked, h, reserved, gap_command, zero_command]
theorem scHalo (port : BitVec 6) (blk : BitVec 24) : Statement (.scHalo port blk) := by
  intro f h _ _
  simp [decodeCode, encode, decodeCommand, rawCommand, checked, h, reserved, gap_command, zero_command]
theorem scColl (port : BitVec 6) (blk : BitVec 24) : Statement (.scColl port blk) := by
  intro f h _ _
  simp [decodeCode, encode, decodeCommand, rawCommand, checked, h, reserved, gap_command, zero_command]
theorem pdot : Statement .pdot := by
  intro f _ h _
  simp [decodeCode, encode, decodeElement, eOp_elemWord, eFields_elemWord, rawElement, h _ rfl]
theorem pdots : Statement .pdots := by
  intro f _ h _
  simp [decodeCode, encode, decodeElement, eOp_elemWord, eFields_elemWord, rawElement, h _ rfl]
theorem pdotm : Statement .pdotm := by
  intro f _ h _
  simp [decodeCode, encode, decodeElement, eOp_elemWord, eFields_elemWord, rawElement, h _ rfl]
theorem accsw : Statement .accsw := by
  intro f _ h _
  simp [decodeCode, encode, decodeElement, eOp_elemWord, eFields_elemWord, rawElement, h _ rfl]
theorem drain : Statement .drain := by
  intro f _ h _
  simp [decodeCode, encode, decodeElement, eOp_elemWord, eFields_elemWord, rawElement, h _ rfl]
theorem enc : Statement .enc := by
  intro f _ h _
  simp [decodeCode, encode, decodeElement, eOp_elemWord, eFields_elemWord, rawElement, h _ rfl]
theorem dec : Statement .dec := by
  intro f _ h _
  simp [decodeCode, encode, decodeElement, eOp_elemWord, eFields_elemWord, rawElement, h _ rfl]
theorem padd : Statement .padd := by
  intro f _ h _
  simp [decodeCode, encode, decodeElement, eOp_elemWord, eFields_elemWord, rawElement, h _ rfl]
theorem pscl : Statement .pscl := by
  intro f _ h _
  simp [decodeCode, encode, decodeElement, eOp_elemWord, eFields_elemWord, rawElement, h _ rfl]
theorem pneg : Statement .pneg := by
  intro f _ h _
  simp [decodeCode, encode, decodeElement, eOp_elemWord, eFields_elemWord, rawElement, h _ rfl]
theorem pmsk : Statement .pmsk := by
  intro f _ h _
  simp [decodeCode, encode, decodeElement, eOp_elemWord, eFields_elemWord, rawElement, h _ rfl]
theorem eadd : Statement .eadd := by
  intro f _ h _
  simp [decodeCode, encode, decodeElement, eOp_elemWord, eFields_elemWord, rawElement, h _ rfl]
theorem esub : Statement .esub := by
  intro f _ h _
  simp [decodeCode, encode, decodeElement, eOp_elemWord, eFields_elemWord, rawElement, h _ rfl]
theorem emul : Statement .emul := by
  intro f _ h _
  simp [decodeCode, encode, decodeElement, eOp_elemWord, eFields_elemWord, rawElement, h _ rfl]
theorem efma : Statement .efma := by
  intro f _ h _
  simp [decodeCode, encode, decodeElement, eOp_elemWord, eFields_elemWord, rawElement, h _ rfl]
theorem emin : Statement .emin := by
  intro f _ h _
  simp [decodeCode, encode, decodeElement, eOp_elemWord, eFields_elemWord, rawElement, h _ rfl]
theorem emax : Statement .emax := by
  intro f _ h _
  simp [decodeCode, encode, decodeElement, eOp_elemWord, eFields_elemWord, rawElement, h _ rfl]
theorem ecmp : Statement .ecmp := by
  intro f _ h _
  simp [decodeCode, encode, decodeElement, eOp_elemWord, eFields_elemWord, rawElement, h _ rfl]
theorem esel : Statement .esel := by
  intro f _ h _
  simp [decodeCode, encode, decodeElement, eOp_elemWord, eFields_elemWord, rawElement, h _ rfl]
theorem eexp2 : Statement .eexp2 := by
  intro f _ h _
  simp [decodeCode, encode, decodeElement, eOp_elemWord, eFields_elemWord, rawElement, h _ rfl]
theorem elog2 : Statement .elog2 := by
  intro f _ h _
  simp [decodeCode, encode, decodeElement, eOp_elemWord, eFields_elemWord, rawElement, h _ rfl]
theorem ercp : Statement .ercp := by
  intro f _ h _
  simp [decodeCode, encode, decodeElement, eOp_elemWord, eFields_elemWord, rawElement, h _ rfl]
theorem ersq : Statement .ersq := by
  intro f _ h _
  simp [decodeCode, encode, decodeElement, eOp_elemWord, eFields_elemWord, rawElement, h _ rfl]
theorem cvtBf16Fp32 : Statement .cvtBf16Fp32 := by
  intro f _ h _
  simp [decodeCode, encode, decodeElement, eOp_elemWord, eFields_elemWord, rawElement, h _ rfl]
theorem cvtFp16Fp32 : Statement .cvtFp16Fp32 := by
  intro f _ h _
  simp [decodeCode, encode, decodeElement, eOp_elemWord, eFields_elemWord, rawElement, h _ rfl]
theorem cvtE4m3Fp32 : Statement .cvtE4m3Fp32 := by
  intro f _ h _
  simp [decodeCode, encode, decodeElement, eOp_elemWord, eFields_elemWord, rawElement, h _ rfl]
theorem cvtE5m2Fp32 : Statement .cvtE5m2Fp32 := by
  intro f _ h _
  simp [decodeCode, encode, decodeElement, eOp_elemWord, eFields_elemWord, rawElement, h _ rfl]
theorem cvtInt8Fp32 : Statement .cvtInt8Fp32 := by
  intro f _ h _
  simp [decodeCode, encode, decodeElement, eOp_elemWord, eFields_elemWord, rawElement, h _ rfl]
theorem cvtI4sFp32 : Statement .cvtI4sFp32 := by
  intro f _ h _
  simp [decodeCode, encode, decodeElement, eOp_elemWord, eFields_elemWord, rawElement, h _ rfl]
theorem cvtFp32Bf16 : Statement .cvtFp32Bf16 := by
  intro f _ h _
  simp [decodeCode, encode, decodeElement, eOp_elemWord, eFields_elemWord, rawElement, h _ rfl]
theorem cvtFp32Fp16 : Statement .cvtFp32Fp16 := by
  intro f _ h _
  simp [decodeCode, encode, decodeElement, eOp_elemWord, eFields_elemWord, rawElement, h _ rfl]
theorem cvtFp32E4m3 : Statement .cvtFp32E4m3 := by
  intro f _ h _
  simp [decodeCode, encode, decodeElement, eOp_elemWord, eFields_elemWord, rawElement, h _ rfl]
theorem cvtFp32E5m2 : Statement .cvtFp32E5m2 := by
  intro f _ h _
  simp [decodeCode, encode, decodeElement, eOp_elemWord, eFields_elemWord, rawElement, h _ rfl]
theorem cvtFp32Int8 : Statement .cvtFp32Int8 := by
  intro f _ h _
  simp [decodeCode, encode, decodeElement, eOp_elemWord, eFields_elemWord, rawElement, h _ rfl]
theorem cvtFp32I4s : Statement .cvtFp32I4s := by
  intro f _ h _
  simp [decodeCode, encode, decodeElement, eOp_elemWord, eFields_elemWord, rawElement, h _ rfl]
theorem join : Statement .join := by
  intro f _ h _
  simp [decodeCode, encode, decodeElement, eOp_elemWord, eFields_elemWord, rawElement, h _ rfl]
theorem merge : Statement .merge := by
  intro f _ h _
  simp [decodeCode, encode, decodeElement, eOp_elemWord, eFields_elemWord, rawElement, h _ rfl]
theorem filt : Statement .filt := by
  intro f _ h _
  simp [decodeCode, encode, decodeElement, eOp_elemWord, eFields_elemWord, rawElement, h _ rfl]
theorem agloop : Statement .agloop := by
  intro f _ h _
  simp [decodeCode, encode, decodeElement, eOp_elemWord, eFields_elemWord, rawElement, h _ rfl]
theorem agld : Statement .agld := by
  intro f _ h _
  simp [decodeCode, encode, decodeElement, eOp_elemWord, eFields_elemWord, rawElement, h _ rfl]
theorem agst : Statement .agst := by
  intro f _ h _
  simp [decodeCode, encode, decodeElement, eOp_elemWord, eFields_elemWord, rawElement, h _ rfl]
theorem agred : Statement .agred := by
  intro f _ h _
  simp [decodeCode, encode, decodeElement, eOp_elemWord, eFields_elemWord, rawElement, h _ rfl]
theorem aggath : Statement .aggath := by
  intro f _ h _
  simp [decodeCode, encode, decodeElement, eOp_elemWord, eFields_elemWord, rawElement, h _ rfl]
theorem repl : Statement .repl := by
  intro f _ h _
  simp [decodeCode, encode, decodeElement, eOp_elemWord, eFields_elemWord, rawElement, h _ rfl]
theorem tokq : Statement .tokq := by
  intro f _ h _
  simp [decodeCode, encode, decodeElement, eOp_elemWord, eFields_elemWord, rawElement, h _ rfl]
theorem pass : Statement .pass := by
  intro f _ h _
  simp [decodeCode, encode, decodeElement, eOp_elemWord, eFields_elemWord, rawElement, h _ rfl]
theorem asyncTrapTake : Statement .asyncTrapTake := by
  exact fun _ _ _ h => absurd rfl h
theorem sleepingInstructionRetire : Statement .sleepingInstructionRetire := by
  exact fun _ _ _ h => absurd rfl h
theorem stallRelease : Statement .stallRelease := by
  exact fun _ _ _ h => absurd rfl h
theorem commandRetire : Statement .commandRetire := by
  exact fun _ _ _ h => absurd rfl h
theorem jobOvertake : Statement .jobOvertake := by
  exact fun _ _ _ h => absurd rfl h
theorem tokenChannelPush : Statement .tokenChannelPush := by
  exact fun _ _ _ h => absurd rfl h
theorem flumeSlotRetire : Statement .flumeSlotRetire := by
  exact fun _ _ _ h => absurd rfl h
theorem haloMessageArrival : Statement .haloMessageArrival := by
  exact fun _ _ _ h => absurd rfl h
theorem collSum : Statement .collSum := by
  exact fun _ _ _ h => absurd rfl h
theorem planeDrain : Statement .planeDrain := by
  exact fun _ _ _ h => absurd rfl h
theorem controlTokenPass : Statement .controlTokenPass := by
  exact fun _ _ _ h => absurd rfl h
theorem tokenLinkTransfer : Statement .tokenLinkTransfer := by
  exact fun _ _ _ h => absurd rfl h
theorem channelWordArrival : Statement .channelWordArrival := by
  exact fun _ _ _ h => absurd rfl h
theorem spillfull : Statement .spillfull := by
  exact fun _ _ _ h => absurd rfl h
theorem watchdog : Statement .watchdog := by
  exact fun _ _ _ h => absurd rfl h
theorem intervalMerge : Statement .intervalMerge := by
  exact fun _ _ _ h => absurd rfl h
theorem atomicRoundClose : Statement .atomicRoundClose := by
  exact fun _ _ _ h => absurd rfl h
theorem barrierPhaseComplete : Statement .barrierPhaseComplete := by
  exact fun _ _ _ h => absurd rfl h
theorem dieAck : Statement .dieAck := by
  exact fun _ _ _ h => absurd rfl h
theorem launch : Statement .launch := by
  exact fun _ _ _ h => absurd rfl h
theorem workBlockWalk : Statement .workBlockWalk := by
  exact fun _ _ _ h => absurd rfl h
theorem allocatorDecision : Statement .allocatorDecision := by
  exact fun _ _ _ h => absurd rfl h
theorem headHoldPreempt : Statement .headHoldPreempt := by
  exact fun _ _ _ h => absurd rfl h
theorem taskStart : Statement .taskStart := by
  exact fun _ _ _ h => absurd rfl h
theorem taskRetire : Statement .taskRetire := by
  exact fun _ _ _ h => absurd rfl h
theorem preempt : Statement .preempt := by
  exact fun _ _ _ h => absurd rfl h
theorem preemptSaveDone : Statement .preemptSaveDone := by
  exact fun _ _ _ h => absurd rfl h
theorem ingressMeter : Statement .ingressMeter := by
  exact fun _ _ _ h => absurd rfl h
theorem linkFailure : Statement .linkFailure := by
  exact fun _ _ _ h => absurd rfl h
theorem linkFlitReceive : Statement .linkFlitReceive := by
  exact fun _ _ _ h => absurd rfl h
theorem handleReleaseMessage : Statement .handleReleaseMessage := by
  exact fun _ _ _ h => absurd rfl h
theorem bankreq : Statement .bankreq := by
  exact fun _ _ _ h => absurd rfl h
theorem bankModeChangeDone : Statement .bankModeChangeDone := by
  exact fun _ _ _ h => absurd rfl h
theorem ptctlMode : Statement .ptctlMode := by
  exact fun _ _ _ h => absurd rfl h
theorem tileModeChangeDone : Statement .tileModeChangeDone := by
  exact fun _ _ _ h => absurd rfl h
theorem ptctlRunStart : Statement .ptctlRunStart := by
  exact fun _ _ _ h => absurd rfl h
theorem ptctlRunStop : Statement .ptctlRunStop := by
  exact fun _ _ _ h => absurd rfl h
theorem pushUnit : Statement .pushUnit := by
  exact fun _ _ _ h => absurd rfl h
theorem tcopResume : Statement .tcopResume := by
  exact fun _ _ _ h => absurd rfl h
theorem tcopKill : Statement .tcopKill := by
  exact fun _ _ _ h => absurd rfl h
theorem unmap : Statement .unmap := by
  exact fun _ _ _ h => absurd rfl h
theorem unmapComplete : Statement .unmapComplete := by
  exact fun _ _ _ h => absurd rfl h
theorem bar2Access : Statement .bar2Access := by
  exact fun _ _ _ h => absurd rfl h
theorem registerWrite : Statement .registerWrite := by
  exact fun _ _ _ h => absurd rfl h
theorem attach : Statement .attach := by
  exact fun _ _ _ h => absurd rfl h
theorem detach : Statement .detach := by
  exact fun _ _ _ h => absurd rfl h
theorem stop : Statement .stop := by
  exact fun _ _ _ h => absurd rfl h
theorem go : Statement .go := by
  exact fun _ _ _ h => absurd rfl h
theorem dump : Statement .dump := by
  exact fun _ _ _ h => absurd rfl h
theorem wrctl : Statement .wrctl := by
  exact fun _ _ _ h => absurd rfl h
theorem load : Statement .load := by
  exact fun _ _ _ h => absurd rfl h
theorem triggerLineAssert : Statement .triggerLineAssert := by
  exact fun _ _ _ h => absurd rfl h
theorem triggerSinkReach : Statement .triggerSinkReach := by
  exact fun _ _ _ h => absurd rfl h
theorem trctlUnfreeze : Statement .trctlUnfreeze := by
  exact fun _ _ _ h => absurd rfl h
theorem samplePeriod : Statement .samplePeriod := by
  exact fun _ _ _ h => absurd rfl h
theorem millPowerGate : Statement .millPowerGate := by
  exact fun _ _ _ h => absurd rfl h
theorem millPowerUp : Statement .millPowerUp := by
  exact fun _ _ _ h => absurd rfl h
theorem counterWrap : Statement .counterWrap := by
  exact fun _ _ _ h => absurd rfl h
theorem replayStart : Statement .replayStart := by
  exact fun _ _ _ h => absurd rfl h
theorem replayPassEnd : Statement .replayPassEnd := by
  exact fun _ _ _ h => absurd rfl h
theorem gettel : Statement .gettel := by
  exact fun _ _ _ h => absurd rfl h
theorem getlife : Statement .getlife := by
  exact fun _ _ _ h => absurd rfl h
theorem setlim : Statement .setlim := by
  exact fun _ _ _ h => absurd rfl h
theorem fwstage : Statement .fwstage := by
  exact fun _ _ _ h => absurd rfl h
theorem fwact : Statement .fwact := by
  exact fun _ _ _ h => absurd rfl h
theorem fwcommit : Statement .fwcommit := by
  exact fun _ _ _ h => absurd rfl h
theorem getharv : Statement .getharv := by
  exact fun _ _ _ h => absurd rfl h
theorem retire : Statement .retire := by
  exact fun _ _ _ h => absurd rfl h
theorem setpart : Statement .setpart := by
  exact fun _ _ _ h => absurd rfl h
theorem setworld : Statement .setworld := by
  exact fun _ _ _ h => absurd rfl h
theorem setsr : Statement .setsr := by
  exact fun _ _ _ h => absurd rfl h
theorem loadkey : Statement .loadkey := by
  exact fun _ _ _ h => absurd rfl h
theorem setkmask : Statement .setkmask := by
  exact fun _ _ _ h => absurd rfl h
theorem settrig : Statement .settrig := by
  exact fun _ _ _ h => absurd rfl h
theorem setig : Statement .setig := by
  exact fun _ _ _ h => absurd rfl h
theorem getpart : Statement .getpart := by
  exact fun _ _ _ h => absurd rfl h
theorem nonce : Statement .nonce := by
  exact fun _ _ _ h => absurd rfl h
theorem auth : Statement .auth := by
  exact fun _ _ _ h => absurd rfl h
theorem unsupportedCommand : Statement .unsupportedCommand := by
  exact fun _ _ _ h => absurd rfl h
theorem sessionTimeout : Statement .sessionTimeout := by
  exact fun _ _ _ h => absurd rfl h
theorem limitInterval : Statement .limitInterval := by
  exact fun _ _ _ h => absurd rfl h
theorem thermalShutdown : Statement .thermalShutdown := by
  exact fun _ _ _ h => absurd rfl h
theorem lifetimeCommit : Statement .lifetimeCommit := by
  exact fun _ _ _ h => absurd rfl h
theorem resetBoot : Statement .resetBoot := by
  exact fun _ _ _ h => absurd rfl h
theorem wheelhouseWakeRequest : Statement .wheelhouseWakeRequest := by
  exact fun _ _ _ h => absurd rfl h
theorem supplyDroop : Statement .supplyDroop := by
  exact fun _ _ _ h => absurd rfl h
theorem powerLoss : Statement .powerLoss := by
  exact fun _ _ _ h => absurd rfl h
theorem tapInstruction : Statement .tapInstruction := by
  exact fun _ _ _ h => absurd rfl h

end Sys2Proof.Laws.RoundTrip
end

