-- ==== Sys2Proof/Laws/Step.lean ====
section
/-!
SUPPORT. Sys2Proof/Laws/Step.lean: what surrounds the instruction that a step runs.
-/

namespace Sys2Proof.Machine

/-- A trace record changes no task. -/
@[simp] theorem traceOf_me (s : State) (t : Task) (k : Nat) (a b : Word) (c : List Word) : (s.traceOf t k a b c).me = s.me := by
  simp only [State.traceOf]
  repeat' split
  all_goals rfl

/-- The CTXSW record changes nothing of the context. -/
@[simp] theorem noteRestored_ctx (s : State) : s.noteRestored.me.ctx = s.me.ctx := by
  unfold State.noteRestored State.trace
  split
  · simp [State.mapMe]
  · rfl

@[simp] theorem noteRestored_waitsStart (s : State) : s.noteRestored.me.waitsStart = s.me.waitsStart := by
  unfold State.noteRestored State.trace
  split
  · simp [State.mapMe]
  · rfl

/-- One entry needs no choice. -/
@[simp] theorem pickAct_single (a : Act) (s : State) : pickAct a [] s = (a, { s with agenda := [] }) := rfl

/-- What a step leaves, for a next state. -/
@[simp] theorem finish_next (s : State) : finish (.next s) = .next s.sync := rfl

/-- A powered step whose agenda holds one entry runs it. -/
theorem step_single {s : State} {a : Act} (h : s.wh.off = false) (ha : s.agenda = [a]) :
    step s = finish (runAct a { s with agenda := [] }) := by
  simp [step, h, ha]

end Sys2Proof.Machine
end

