-- ==== Sys2Proof/Tests/Slice0.lean ====
section
/-!
SUPPORT. Sys2Proof/Tests/Slice0.lean: tests of the model by the spec's own examples and tables, ill-formed terms, and for every
statement that has hypotheses a state and operands that meet them.
-/

set_option Elab.async false
set_option maxRecDepth 4000

namespace Sys2Proof.Tests

open Machine

/-! ## Decoding

The words of miller instructions are put together from the fixed bits and field places of spec/opcode_table.json: guard (!q5),
d 22, a 13, b 19, or the part of these that a shorter field holds, and immediates of mixed bits. Commands follow R180, R181 and
R270; element words R183 to R185 with operand A from the west, B from the north, C from the south and results to the east. -/

theorem test_decode_two_source : ∀ x ∈ ([
      (0xB02CD981, .add ⟨5, true⟩ 22 13 19), (0xB02CD9C1, .addW ⟨5, true⟩ 22 13 19), (0xB02CD982, .sub ⟨5, true⟩ 22 13 19),
      (0xB02CD9C2, .subW ⟨5, true⟩ 22 13 19), (0xB02CD983, .mul ⟨5, true⟩ 22 13 19), (0xB02CD9C3, .mulW ⟨5, true⟩ 22 13 19),
      (0xB02CD984, .mulh ⟨5, true⟩ 22 13 19), (0xB02CD985, .mulhu ⟨5, true⟩ 22 13 19), (0xB02CD986, .div ⟨5, true⟩ 22 13 19),
      (0xB02CD9C6, .divW ⟨5, true⟩ 22 13 19), (0xB02CD987, .divu ⟨5, true⟩ 22 13 19),
      (0xB02CD9C7, .divuW ⟨5, true⟩ 22 13 19), (0xB02CD988, .rem ⟨5, true⟩ 22 13 19), (0xB02CD9C8, .remW ⟨5, true⟩ 22 13 19),
      (0xB02CD989, .remu ⟨5, true⟩ 22 13 19), (0xB02CD9C9, .remuW ⟨5, true⟩ 22 13 19), (0xB02CD98A, .min ⟨5, true⟩ 22 13 19),
      (0xB02CD98B, .max ⟨5, true⟩ 22 13 19), (0xB02CD98C, .minu ⟨5, true⟩ 22 13 19), (0xB02CD98D, .maxu ⟨5, true⟩ 22 13 19),
      (0xB02CD98E, .and ⟨5, true⟩ 22 13 19), (0xB02CD98F, .or ⟨5, true⟩ 22 13 19), (0xB02CD990, .xor ⟨5, true⟩ 22 13 19),
      (0xB02CD991, .shl ⟨5, true⟩ 22 13 19), (0xB02CD9D1, .shlW ⟨5, true⟩ 22 13 19), (0xB02CD992, .shr ⟨5, true⟩ 22 13 19),
      (0xB02CD9D2, .shrW ⟨5, true⟩ 22 13 19), (0xB02CD993, .sra ⟨5, true⟩ 22 13 19), (0xB02CD9D3, .sraW ⟨5, true⟩ 22 13 19),
      (0xB02CD014, .clz ⟨5, true⟩ 22 13), (0xB02CD054, .clzW ⟨5, true⟩ 22 13), (0xB02CD015, .ctz ⟨5, true⟩ 22 13),
      (0xB02CD055, .ctzW ⟨5, true⟩ 22 13), (0xB02CD016, .popc ⟨5, true⟩ 22 13), (0xB02CD056, .popcW ⟨5, true⟩ 22 13),
      (0xB02CD018, .sextB ⟨5, true⟩ 22 13), (0xB02CD019, .sextH ⟨5, true⟩ 22 13), (0xB02CD01A, .sextW ⟨5, true⟩ 22 13),
      (0xB02CD01B, .zextB ⟨5, true⟩ 22 13), (0xB02CD01C, .zextH ⟨5, true⟩ 22 13), (0xB02CD01D, .zextW ⟨5, true⟩ 22 13)] : List (Nat × Instr)), decodeTableWord 32 x.1 = some x.2 := by
  decide +kernel

theorem test_decode_immediate : ∀ x ∈ ([
      (0xB06CDC3F, .addi ⟨5, true⟩ 22 13 3135), (0xB0ACDC3F, .addiW ⟨5, true⟩ 22 13 3135),
      (0xB0ECDC3F, .andi ⟨5, true⟩ 22 13 3135), (0xB12CDC3F, .ori ⟨5, true⟩ 22 13 3135),
      (0xB16CDC3F, .xori ⟨5, true⟩ 22 13 3135), (0xB1ACD035, .shlImm ⟨5, true⟩ 22 13 53),
      (0xB1ACD215, .shlWImm ⟨5, true⟩ 22 13 21), (0xB1ACD435, .shrImm ⟨5, true⟩ 22 13 53),
      (0xB1ACD615, .shrWImm ⟨5, true⟩ 22 13 21), (0xB1ACD835, .sraImm ⟨5, true⟩ 22 13 53),
      (0xB1ACDA15, .sraWImm ⟨5, true⟩ 22 13 21), (0xB1EC5C3F, .li ⟨5, true⟩ 22 0x5c3f),
      (0xB22C5C3F, .lih ⟨5, true⟩ 22 0x5c3f), (0xB26C5C3F, .addpc ⟨5, true⟩ 22 0x5c3f)] : List (Nat × Instr)), decodeTableWord 32 x.1 = some x.2 := by
  decide +kernel

theorem test_decode_compare : ∀ x ∈ ([
      (0xB28CDC3F, .cmpEqImm ⟨5, true⟩ 6 13 3135), (0xB2CCDC3F, .cmpNeImm ⟨5, true⟩ 6 13 3135),
      (0xB30CDC3F, .cmpLtImm ⟨5, true⟩ 6 13 3135), (0xB34CDC3F, .cmpLeImm ⟨5, true⟩ 6 13 3135),
      (0xB38CDC3F, .cmpLtuImm ⟨5, true⟩ 6 13 3135), (0xB3CCDC3F, .cmpLeuImm ⟨5, true⟩ 6 13 3135),
      (0xB40CD980, .cmpEq ⟨5, true⟩ 6 13 19), (0xB40CD981, .cmpNe ⟨5, true⟩ 6 13 19), (0xB40CD982, .cmpLt ⟨5, true⟩ 6 13 19),
      (0xB40CD983, .cmpLe ⟨5, true⟩ 6 13 19), (0xB40CD984, .cmpLtu ⟨5, true⟩ 6 13 19),
      (0xB40CD985, .cmpLeu ⟨5, true⟩ 6 13 19), (0xB40C5188, .gand ⟨5, true⟩ 6 5 3), (0xB40C5189, .gor ⟨5, true⟩ 6 5 3),
      (0xB40C518A, .gxor ⟨5, true⟩ 6 5 3), (0xB40C500B, .gnot ⟨5, true⟩ 6 5)] : List (Nat × Instr)), decodeTableWord 32 x.1 = some x.2 := by
  decide +kernel

theorem test_decode_control : ∀ x ∈ ([
      (0xB46A93C7, .br ⟨5, true⟩ 0x2a93c7), (0xB4AA93C7, .bl ⟨5, true⟩ 0x2a93c7), (0xB4C0DC3F, .bi ⟨5, true⟩ 13 3135),
      (0xB500D013, .rep ⟨5, true⟩ 13 19), (0xB541D001, .waitch ⟨5, true⟩ 29), (0xB5400002, .yield ⟨5, true⟩),
      (0xB5400003, .exit ⟨5, true⟩), (0xB5400004, .syncd ⟨5, true⟩), (0xB5400005, .wfe ⟨5, true⟩),
      (0xB5400006, .eret ⟨5, true⟩), (0xB5400007, .bkpt ⟨5, true⟩), (0xB580003F, .bara ⟨5, true⟩ 63),
      (0xB582003F, .barw ⟨5, true⟩ 63), (0xB5ECD986, .sel ⟨5, true⟩ 22 13 19 6), (0x19ABCDE5, .nop 0x9abcde5)] : List (Nat × Instr)), decodeTableWord 32 x.1 = some x.2 := by
  decide +kernel

theorem test_decode_load_and_store : ∀ x ∈ ([
      (0xB62CD3C7, .ldB ⟨5, true⟩ 22 13 967), (0xB66CD3C7, .ldBu ⟨5, true⟩ 22 13 967),
      (0xB6ACD3C7, .ldH ⟨5, true⟩ 22 13 967), (0xB6ECD3C7, .ldHu ⟨5, true⟩ 22 13 967),
      (0xB72CD3C7, .ldW ⟨5, true⟩ 22 13 967), (0xB76CD3C7, .ldWu ⟨5, true⟩ 22 13 967),
      (0xB7ACD3C7, .ldD ⟨5, true⟩ 22 13 967), (0xB7ECD6E4, .extr ⟨5, true⟩ 22 13 27 36),
      (0xB82AD3C7, .stB ⟨5, true⟩ 21 13 967), (0xB86AD3C7, .stH ⟨5, true⟩ 21 13 967), (0xB8AAD3C7, .stW ⟨5, true⟩ 21 13 967),
      (0xB8EAD3C7, .stD ⟨5, true⟩ 21 13 967), (0xB90CD3C7, .ldf ⟨5, true⟩ 6 13 967), (0xB94CD3C7, .ldfS ⟨5, true⟩ 6 13 967),
      (0xB98AD3C7, .stf ⟨5, true⟩ 5 13 967), (0xB9CAD3C7, .stfS ⟨5, true⟩ 5 13 967), (0xBA2CD3C7, .ldcW ⟨5, true⟩ 22 13 967),
      (0xBA6CD3C7, .ldcWu ⟨5, true⟩ 22 13 967), (0xBAACD3C7, .ldcD ⟨5, true⟩ 22 13 967),
      (0xBAC2D3C7, .pref ⟨5, true⟩ 1 13 967)] : List (Nat × Instr)), decodeTableWord 32 x.1 = some x.2 := by
  decide +kernel

theorem test_decode_atomic : ∀ x ∈ ([
      (0xBB2CD9C0, .aadd ⟨5, true⟩ 22 13 19), (0xBB2CD980, .aaddW ⟨5, true⟩ 22 13 19),
      (0xBB2CD9C1, .aand ⟨5, true⟩ 22 13 19), (0xBB2CD981, .aandW ⟨5, true⟩ 22 13 19), (0xBB2CD9C2, .aor ⟨5, true⟩ 22 13 19),
      (0xBB2CD982, .aorW ⟨5, true⟩ 22 13 19), (0xBB2CD9C3, .axor ⟨5, true⟩ 22 13 19),
      (0xBB2CD983, .axorW ⟨5, true⟩ 22 13 19), (0xBB2CD9C4, .amin ⟨5, true⟩ 22 13 19),
      (0xBB2CD984, .aminW ⟨5, true⟩ 22 13 19), (0xBB2CD9C5, .amax ⟨5, true⟩ 22 13 19),
      (0xBB2CD985, .amaxW ⟨5, true⟩ 22 13 19), (0xBB2CD9C6, .aminu ⟨5, true⟩ 22 13 19),
      (0xBB2CD986, .aminuW ⟨5, true⟩ 22 13 19), (0xBB2CD9C7, .amaxu ⟨5, true⟩ 22 13 19),
      (0xBB2CD987, .amaxuW ⟨5, true⟩ 22 13 19), (0xBB2CD9C8, .aswp ⟨5, true⟩ 22 13 19),
      (0xBB2CD988, .aswpW ⟨5, true⟩ 22 13 19), (0xBB2CD9C9, .acas ⟨5, true⟩ 22 13 19), (0xBB2CD989, .acasW ⟨5, true⟩ 22 13 19)] : List (Nat × Instr)), decodeTableWord 32 x.1 = some x.2 := by
  decide +kernel

theorem test_decode_float : ∀ x ∈ ([
      (0xBB4CD180, .fadd ⟨5, true⟩ 6 13 3), (0xBB4CD1C0, .faddS ⟨5, true⟩ 6 13 3), (0xBB4CD181, .fsub ⟨5, true⟩ 6 13 3),
      (0xBB4CD1C1, .fsubS ⟨5, true⟩ 6 13 3), (0xBB4CD182, .fmul ⟨5, true⟩ 6 13 3), (0xBB4CD1C2, .fmulS ⟨5, true⟩ 6 13 3),
      (0xBB4CD183, .fdiv ⟨5, true⟩ 6 13 3), (0xBB4CD1C3, .fdivS ⟨5, true⟩ 6 13 3), (0xBB4CD004, .fsqrt ⟨5, true⟩ 6 13),
      (0xBB4CD044, .fsqrtS ⟨5, true⟩ 6 13), (0xBB4CD185, .ffma ⟨5, true⟩ 6 13 3), (0xBB4CD1C5, .ffmaS ⟨5, true⟩ 6 13 3),
      (0xBB4CD186, .fmin ⟨5, true⟩ 6 13 3), (0xBB4CD1C6, .fminS ⟨5, true⟩ 6 13 3), (0xBB4CD187, .fmax ⟨5, true⟩ 6 13 3),
      (0xBB4CD1C7, .fmaxS ⟨5, true⟩ 6 13 3), (0xBB4CD188, .fcmpEq ⟨5, true⟩ 6 13 3), (0xBB4CD1C8, .fcmpEqS ⟨5, true⟩ 6 13 3),
      (0xBB4CD189, .fcmpLt ⟨5, true⟩ 6 13 3), (0xBB4CD1C9, .fcmpLtS ⟨5, true⟩ 6 13 3),
      (0xBB4CD18A, .fcmpLe ⟨5, true⟩ 6 13 3), (0xBB4CD1CA, .fcmpLeS ⟨5, true⟩ 6 13 3),
      (0xBB4CD18B, .fcmpUn ⟨5, true⟩ 6 13 3), (0xBB4CD1CB, .fcmpUnS ⟨5, true⟩ 6 13 3), (0xBB4CD010, .fcvtSD ⟨5, true⟩ 6 13),
      (0xBB4CD011, .fcvtDS ⟨5, true⟩ 6 13), (0xBB6CD012, .fcvtLD ⟨5, true⟩ 22 13), (0xBB6CD013, .fcvtLuD ⟨5, true⟩ 22 13),
      (0xBB6CD052, .fcvtLS ⟨5, true⟩ 22 13), (0xBB6CD053, .fcvtLuS ⟨5, true⟩ 22 13), (0xBB4CD014, .fcvtDL ⟨5, true⟩ 6 13),
      (0xBB4CD015, .fcvtDLu ⟨5, true⟩ 6 13), (0xBB4CD054, .fcvtSL ⟨5, true⟩ 6 13), (0xBB4CD055, .fcvtSLu ⟨5, true⟩ 6 13),
      (0xBB6CD018, .fclass ⟨5, true⟩ 22 13), (0xBB6CD058, .fclassS ⟨5, true⟩ 22 13), (0xBB6CD019, .fmvg ⟨5, true⟩ 22 13),
      (0xBB4CD01A, .gmvf ⟨5, true⟩ 6 13), (0xBB8C5C3F, .fli ⟨5, true⟩ 6 0x5c3f), (0xBB8D5C3F, .fliS ⟨5, true⟩ 6 0x5c3f)] : List (Nat × Instr)), decodeTableWord 32 x.1 = some x.2 := by
  decide +kernel

theorem test_decode_handle_and_system : ∀ x ∈ ([
      (0xBBECD6E4, .ins ⟨5, true⟩ 22 13 27 36), (0xBC0C5981, .slnew ⟨5, true⟩ 6 5 19), (0xBC2C5002, .slmap ⟨5, true⟩ 22 5),
      (0xBC0C5003, .sldup ⟨5, true⟩ 6 5), (0xBC005004, .sldrop ⟨5, true⟩ 5), (0xBC0C5005, .hmov ⟨5, true⟩ 6 5),
      (0xBC2C5006, .slxfer ⟨5, true⟩ 22 5), (0xBC0CD007, .hrecv ⟨5, true⟩ 6 13), (0xBC2CD988, .flnew ⟨5, true⟩ 22 13 19),
      (0xBC00D989, .flawait ⟨5, true⟩ 13 19), (0xBC00D98A, .flrel ⟨5, true⟩ 13 19), (0xBC01D00B, .chclose ⟨5, true⟩ 29),
      (0xBC2CD00C, .scm ⟨5, true⟩ 22 13), (0xBC00D00D, .scw ⟨5, true⟩ 13), (0xBC2CD00E, .dlaunch ⟨5, true⟩ 22 13),
      (0xBC2CD98F, .rsvpin ⟨5, true⟩ 22 13 19), (0xBC00D010, .rsvunpin ⟨5, true⟩ 13), (0xBC000091, .ctron ⟨5, true⟩ 1),
      (0xBC000092, .ctroff ⟨5, true⟩ 1), (0xBC2C0093, .ctrrd ⟨5, true⟩ 22 1), (0xBC00D014, .tlbinv ⟨5, true⟩ 13),
      (0xBC6C000A, .mfs ⟨5, true⟩ 22 10), (0xBC80D00A, .mts ⟨5, true⟩ 10 13), (0xBCC05C3F, .nstepi ⟨5, true⟩ 0x5c3f),
      (0xBD000C3F, .trap ⟨5, true⟩ 3135), (0xBD4200C3, .ctrsel ⟨5, true⟩ 1 195), (0xBD800C3F, .mark ⟨5, true⟩ 3135),
      (0xBDC00016, .trig ⟨5, true⟩ 22), (0xBE3A0C3F, .chbind ⟨5, true⟩ 29 3135)] : List (Nat × Instr)), decodeTableWord 32 x.1 = some x.2 := by
  decide +kernel

/-- R177, R164: LIW with one and with two literal words, and the SC.COPY line of R270's table as SCI g6, g5. -/
theorem test_decode_literals :
    (decodeBytes (bytesOf 4 0x0F060201 ++ bytesOf 4 0x80000001 ++ [7])).toOption = some (.liw ⟨0, false⟩ 3 false 0x80000001 0, [7]) ∧
    (decodeBytes (bytesOf 4 0x0F060401 ++ bytesOf 4 0x56789ABC ++ bytesOf 4 0x1234)).toOption =
      some (.liw ⟨0, false⟩ 3 true 0x56789ABC 0x1234, []) ∧
    (decodeBytes ([0x0F0C5804, 0, 0, 0xF8000000, 0x0800FFFF].flatMap (bytesOf 4))).toOption =
      some (.sci ⟨0, false⟩ 6 5 0x0800FFFFF80000000000000000000000, []) := by
  decide +kernel

theorem test_decode_commands : ∀ x ∈ ([
      (0x01000000000000000000000000000000, .scNop), (0x0294C000000000000000000000000000, .scBind 37 3),
      (0x03000000000000000000000000000000, .scFence), (0x0494ABC0000000000123456789ABCDEF, .scTok 37 0xABC 0x123456789ABCDEF),
      (0x05940000000000000000000000000000, .scDrain 37), (0x0894FFFFF80000000000000000000000, .scCopy 37 0xFFFFF8),
      (0x0994123456500ABCDE00000000000000, .scRcopy 37 0x123456 5 0x0ABCDE),
      (0x0A94123456200ABCDE00000000000000, .scGath 37 0x123456 2 0x0ABCDE),
      (0x0B94123456600ABCDE00000000000000, .scScat 37 0x123456 6 0x0ABCDE),
      (0x0C94000000FEDCBA9800000000000000, .scFlume 37 0xFEDCBA98), (0x0D94FFFFF70000000000000000000000, .scSlfill 37 0xFFFFF7),
      (0x0E941234560000000000000000000000, .scSlsee 37 0x123456), (0x10001234560000000000000000000000, .scCfg 0x123456),
      (0x11000000000000000000000000000000, .scSwap), (0x12941234560000000000000000000000, .scJob 37 0x123456),
      (0x18941234560000000000000000000000, .scHalo 37 0x123456), (0x19941234560000000000000000000000, .scColl 37 0x123456)] :
      List (Nat × Instr)), decodeTableWord 128 x.1 = some x.2 := by
  decide +kernel

theorem test_decode_elements : ∀ x ∈ ([
      (0x0112040000000000, .pdot), (0x0212040000000000, .pdots), (0x0312040000003FC0, .pdotm), (0x0410040000010000, .accsw),
      (0x0510040000000006, .drain), (0x0810040000000001, .enc), (0x0910040000000000, .dec), (0x0A12040000000001, .padd),
      (0x0B10040000000008, .pscl), (0x0C10040000000000, .pneg), (0x0D100400000001FF, .pmsk), (0x1012040000000000, .eadd),
      (0x1112040000000000, .esub), (0x1212040000000000, .emul), (0x1312440000000000, .efma), (0x1412040000000000, .emin),
      (0x1512040000000000, .emax), (0x1612040000000060, .ecmp), (0x1712440000000000, .esel), (0x1810040000000000, .eexp2),
      (0x1910040000000000, .elog2), (0x1A10040000000000, .ercp), (0x1B10040000000000, .ersq), (0x2010040000000001, .cvtBf16Fp32),
      (0x2110040000000000, .cvtFp16Fp32), (0x2210040000000000, .cvtE4m3Fp32), (0x2310040000000000, .cvtE5m2Fp32),
      (0x2410040000000000, .cvtInt8Fp32), (0x2510040000000000, .cvtI4sFp32), (0x2810040000000000, .cvtFp32Bf16),
      (0x2910040000000000, .cvtFp32Fp16), (0x2A10040000000000, .cvtFp32E4m3), (0x2B10040000000000, .cvtFp32E5m2),
      (0x2C10040000000000, .cvtFp32Int8), (0x2D10040000000000, .cvtFp32I4s), (0x3012040000000000, .join),
      (0x3112040000000001, .merge), (0x3210040000000001, .filt), (0x3800040000000000, .agloop), (0x3900040000000000, .agld),
      (0x3A10000000000000, .agst), (0x3B10000000001400, .agred), (0x3C10040000000000, .aggath), (0x4010060000000000, .repl),
      (0x4112040000000000, .tokq), (0x4210040000000000, .pass)] : List (Nat × Instr)), decodeTableWord 64 x.1 = some x.2 := by
  decide +kernel

/-- The four element words of R301's table decode, the third with the fields that the text under the table reads out. -/
theorem test_element_words_of_R301 :
    decodeTableWord 64 0x0B10040000000008 = some .pscl ∧ decodeTableWord 64 0x4250040500000000 = some .pass ∧
    decodeTableWord 64 0x011231000000003E = some .pdot ∧ decodeTableWord 64 0x0810040000010008 = some .enc ∧
    eFields 0x011231000000003E = ⟨1, 2, 3, 1, 0, 0x3E⟩ := by
  decide +kernel

/-- Reserved words are refused: a reserved MAJOR and function, a reserved OP and EOP, an all-zero command, hint space apart. -/
theorem test_reserved : decodeTableWord 32 0x0FC00000 = none ∧ decodeTableWord 32 0x0000007F = none ∧
    decodeTableWord 128 0 = none ∧ decodeTableWord 128 (0x07 * 2 ^ 120) = none ∧ decodeTableWord 128 (0x06 * 2 ^ 120) = none ∧
    decodeTableWord 64 (0x43 * 2 ^ 56) = none ∧ decodeTableWord 64 0 = none ∧ decodeTableWord 32 0x10000000 = some (.nop 0) := by
  decide +kernel

/-! ## Ill-formed terms: one for each check, refused by its name -/

theorem smoke_guard : (Instr.add ⟨0, true⟩ 1 2 3).reject = some .guardHint := by decide
theorem smoke_register_classes : ∀ i ∈ [Instr.fadd ⟨0, false⟩ 16 0 0, .fadd ⟨0, false⟩ 0 16 0, .fadd ⟨0, false⟩ 0 0 31,
    .cmpEq ⟨0, false⟩ 8 0 0, .gand ⟨0, false⟩ 0 8 0, .gand ⟨0, false⟩ 0 0 8, .slnew ⟨0, false⟩ 0 8 1, .sldrop ⟨0, false⟩ 8,
    .waitch ⟨0, false⟩ 27, .chbind ⟨0, false⟩ 27 0, .chclose ⟨0, false⟩ 0, .ldf ⟨0, false⟩ 16 0 0, .gmvf ⟨0, false⟩ 16 0,
    .fmvg ⟨0, false⟩ 0 16, .hrecv ⟨0, false⟩ 8 0], i.reject = some .regClass := by decide
theorem smoke_immediates : ∀ i ∈ [Instr.shlWImm ⟨0, false⟩ 1 1 32, .rep ⟨0, false⟩ 1 0, .bara ⟨0, false⟩ 64, .barw ⟨0, false⟩ 64,
    .extr ⟨0, false⟩ 1 1 63 1, .ins ⟨0, false⟩ 1 1 31 33, .pref ⟨0, false⟩ 4 1 0, .ctron ⟨0, false⟩ 4, .ctrsel ⟨0, false⟩ 4 0,
    .ctrrd ⟨0, false⟩ 1 4, .mfs ⟨0, false⟩ 1 7, .mts ⟨0, false⟩ 0x011 1, .trig ⟨0, false⟩ 32, .liw ⟨0, false⟩ 1 false 0 1],
    i.reject = some .immRange := by decide
theorem smoke_bodies : ∀ i ∈ [Instr.scRcopy 0 0 6 0, .scGath 0 0 1 1, .scGath 0 0 7 1, .scGath 0 0 2 0, .scScat 0 0 2 0,
    .scFlume 0 0], i.reject = some .bodyRange := by decide
theorem smoke_elements :
    Instr.pass.elemReject ⟨0, 0, 0, 4, 0, 0⟩ = some .source ∧ Instr.pass.elemReject ⟨8, 0, 0, 4, 0, 0⟩ = some .source ∧
    Instr.pass.elemReject ⟨1, 2, 0, 4, 0, 0⟩ = some .source ∧ Instr.join.elemReject ⟨1, 1, 0, 4, 0, 0⟩ = some .source ∧
    Instr.pass.elemReject ⟨1, 0, 0, 4, 1, 0⟩ = some .modField ∧ Instr.pass.elemReject ⟨5, 0, 0, 4, 64, 0⟩ = some .modField ∧
    Instr.pass.elemReject ⟨1, 0, 0, 6, 0, 0⟩ = some .dirs ∧ Instr.repl.elemReject ⟨1, 0, 0, 0, 0, 0⟩ = some .dirs ∧
    Instr.agst.elemReject ⟨1, 0, 0, 4, 0, 0⟩ = some .dirs ∧ Instr.pass.elemReject ⟨1, 0, 0, 4, 0, 1⟩ = some .param ∧
    Instr.accsw.elemReject ⟨1, 0, 0, 4, 0, 65537⟩ = some .param ∧ Instr.pscl.elemReject ⟨1, 0, 0, 4, 0, 255⟩ = some .param ∧
    Instr.filt.elemReject ⟨1, 0, 0, 4, 0, 3⟩ = some .param := by
  decide

/-! ## Single steps, with the results of the spec's tables -/

/-- A task placed on mill 0 whose context may issue: every register zero, PC 0. -/
def ready : State := { State.reset with me := bareTask }

/-- `ready` with x in g4 and y in g5. -/
def two (x y : Word) : State := ready.mapCtx fun c => (c.wg 4 x).wg 5 y

/-- The guard that is always true. -/
abbrev g0 : Guard := ⟨0, false⟩

/-- A g-register, a guard register, an f-register with FPF, and TRAPCAUSE, after a step. -/
def gAfter (r : Res) (d : BitVec 5) : Option Word := match r with
  | .next t => some (t.me.ctx.rg d)
  | _ => none
def qAfter (r : Res) (d : BitVec 3) : Option Bool := match r with
  | .next t => some (t.me.ctx.rq d)
  | _ => none
def fAfter (r : Res) (d : BitVec 4) : Option (Word × BitVec 5) := match r with
  | .next t => some (t.me.ctx.rf d, t.me.ctx.fpf)
  | _ => none
def causeAfter (r : Res) : Option Word := match r with
  | .next t => some t.me.ctx.trapCause
  | _ => none

/-- The table of R193. -/
theorem test_division : ∀ x ∈ ([(.div g0 3 4 5, -7, 2, -3), (.rem g0 3 4 5, -7, 2, -1), (.rem g0 3 4 5, -7, 0, -7),
    (.divu g0 3 4 5, 7, 0, 0xFFFFFFFFFFFFFFFF), (.div g0 3 4 5, 0x8000000000000000, -1, 0x8000000000000000),
    (.divuW g0 3 4 5, 0x0000000100000007, 2, 3), (.divW g0 3 4 5, 0x0000000080000000, -1, 0xFFFFFFFF80000000),
    (.divuW g0 3 4 5, 5, 0, 0xFFFFFFFFFFFFFFFF)] : List (Instr × Word × Word × Word)),
    gAfter (exec x.1 (two x.2.1 x.2.2.1)) 3 = some x.2.2.2 := by decide +kernel

/-- R194: an amount of 64 shifts by 0, and SRA.W takes bit 31 as the sign. -/
theorem test_shifts : gAfter (exec (.shl g0 3 4 5) (two 1 64)) 3 = some 1 ∧
    gAfter (exec (.sraWImm g0 3 4 31) (two 0x80000000 0)) 3 = some 0xFFFFFFFFFFFFFFFF := by decide +kernel

/-- R198: the value 0x1234_5678_9ABC in three words: LI, LIH, LIH. -/
theorem test_constants : gAfter (exec (.li g0 3 0x48D) ready) 3 = some 0x48D ∧
    gAfter (exec (.lih g0 4 0x2B3C) (two 0x48D 0)) 4 = some 0x91A2B3C ∧
    gAfter (exec (.lih g0 4 0x09ABC) (two 0x91A2B3C 0)) 4 = some 0x123456789ABC := by decide +kernel

/-- R200: CMP.LTU with #-1 is false of 2^64 - 1 alone; q0 discards. -/
theorem test_compare : qAfter (exec (.cmpLtuImm g0 2 4 0xFFF) (two 0xFFFFFFFFFFFFFFFE 0)) 2 = some true ∧
    qAfter (exec (.cmpLtuImm g0 2 4 0xFFF) (two 0xFFFFFFFFFFFFFFFF 0)) 2 = some false ∧
    qAfter (exec (.cmpNe g0 0 4 4) ready) 0 = some true := by decide +kernel

/-- `ready` with a pattern in f2. -/
def inF (w : Word) : State := ready.mapCtx fun c => c.wf 2 w

/-- The table of R223: -2.5, -0.5, -1.0 and 2^63 to integers; 10^39 to binary32; 2^53 + 1 from an integer. -/
theorem test_float_integer : ∀ x ∈ ([(.fcvtLD g0 3 2, 0xC004000000000000, -2, 16), (.fcvtLuD g0 3 2, 0xBFE0000000000000, 0, 16),
    (.fcvtLuD g0 3 2, 0xBFF0000000000000, 0, 1), (.fcvtLD g0 3 2, 0x43E0000000000000, 0x7FFFFFFFFFFFFFFF, 1)] :
    List (Instr × Word × Word × BitVec 5)), gAfter (exec x.1 (inF x.2.1)) 3 = some x.2.2.1 ∧
      (fAfter (exec x.1 (inF x.2.1)) 0).map (·.2) = some x.2.2.2 := by decide +kernel
theorem test_float_narrow : fAfter (exec (.fcvtSD g0 1 2) (inF 0x4807829CBC10AD40)) 1 = some (0xFFFFFFFF7F800000, 20) ∧
    fAfter (exec (.fcvtDL g0 1 4) (two 0x20000000000001 0)) 1 = some (0x4340000000000000, 16) := by decide +kernel

/-- The table of R171. -/
theorem test_float_immediates : fAfter (exec (.fli g0 1 0x3FC0) ready) 1 = some (0x3FF8000000000000, 0) ∧
    fAfter (exec (.fli g0 2 0x7FA5) ready) 2 = some (0x7FFCA00000000000, 0) ∧
    fAfter (exec (.fliS g0 3 0x7FA5) ready) 3 = some (0xFFFFFFFF7FE50000, 0) ∧
    fAfter (exec (.fli g0 4 0xFF80) ready) 4 = some (0xFFF0000000000000, 0) := by decide +kernel

/-- R220: an enabled flag traps FPX (0x13); R171: an unboxed register reads as a quiet NaN and adds no flag. -/
theorem test_float_traps : causeAfter (exec (.fdiv g0 1 2 3) ((inF 0x3FF0000000000000).mapCtx fun c => { c with fpe := 2 })) = some 0x13 ∧
    fAfter (exec (.fcvtDS g0 1 2) (inF 0x3FF0000000000000)) 1 = some (0x7FF8000000000000, 0) := by decide +kernel

/-- A memory page for the tests of accesses: VA 0x40_0000_0000 is HBM 0x10_0000_0000, as for a placed word. -/
def paged : State := { ready.placeMiller 0 with agenda := [] }

/-- R4, R209: a doubleword is stored with bits 7:0 lowest, and a byte read back from the next address is bits 15:8. -/
theorem test_store : (match exec (.stD g0 5 4 0) (paged.mapCtx fun c => (c.wg 4 0x4000000100).wg 5 0x8877665544339A11) with
    | .next t => (memGet t.mem (keyOf spHbm 0x1000000100), memGet t.mem (keyOf spHbm 0x1000000101),
        gAfter (exec (.ldB g0 3 4 1) t) 3)
    | _ => (0, 0, none)) = (0x11, 0x9A, some 0xFFFFFFFFFFFFFF9A) := by decide +kernel

/-- R210, R89: an address that is not canonical traps PGFLT (4) although it is no multiple of the size either. -/
theorem test_access_order : causeAfter (exec (.ldD g0 3 4 0) (paged.mapCtx fun c => c.wg 4 0x0200000000000001)) = some 4 ∧
    causeAfter (exec (.ldD g0 3 4 0) (paged.mapCtx fun c => c.wg 4 0x4000000001)) = some 3 := by decide +kernel

/-- R214: AADD.W returns the old word sign-extended and leaves the rest of the doubleword. -/
theorem test_atomic : (match exec (.aaddW g0 3 4 5) { (paged.mapCtx fun c => (c.wg 4 0x4000000100).wg 5 1) with
      mem := memPut paged.mem (keyOf spHbm 0x1000000100) (leBytes 8 0x11111111FFFFFFFF) } with
    | .next t => (t.me.ctx.rg 3, memNat t.mem (keyOf spHbm 0x1000000100) 8)
    | _ => (0, 0)) = (0xFFFFFFFFFFFFFFFF, 0x1111111100000000) := by decide +kernel

/-- R367's table: CMILLS 3, run size 4, SEED 0x0000_0009_0000_0005; and the worked program of the replay chapter (SEED 0x2A). -/
theorem test_draw_slot : (List.range 13).map (drawSlot 0x0000000900000005 12) = [0, 10, 8, 11, 2, 3, 7, 4, 5, 1, 6, 9, 0] ∧
    (List.range 2).map (drawSlot 0x2A 16) = [0, 3] := by decide +kernel

/-- R203: a REP of count 0 goes past its body, here the two words after it, and reads nothing else. -/
theorem test_rep : (match exec (.rep g0 4 2) { ({ paged with me := { paged.me with ctx := { paged.me.ctx with pc := 0x4000000000 } } } : State)
      with mem := memPut paged.mem (keyOf spHbm 0x1000000000) (bytesOf 4 0x05004002 ++ bytesOf 4 0x10000000 ++ bytesOf 4 0x10000000) } with
    | .next t => (t.me.ctx.pc, t.me.ctx.rep.count)
    | _ => (0, 0)) = (0x400000000C, 0) := by decide +kernel

/-- R136, R137: TRAP #5 enters a handler at 0x100 with TRAPPC the next instruction; R205: ERET goes back. -/
theorem test_trap_and_return : (match exec (.trap g0 5) { ready with me := { bareTask with trapEntry := some 0x100 } } with
    | .next t => (t.me.ctx.pc, t.me.ctx.trapPc, t.me.ctx.trapCause, t.me.ctx.trapInfo, t.me.ctx.tm,
        match exec (.eret g0) t with
          | .next u => (u.me.ctx.pc, u.me.ctx.tm)
          | _ => (1, true))
    | _ => (0, 0, 0, 0, false, (1, true))) = (0x100, 4, 0x19, 5, true, (4, false)) := by decide +kernel

/-- The placing of a word for the host: the very next step runs it. -/
theorem test_placed_word : (match step (State.reset.withFetchWord 32 0x01D67FFF) with
    | .next t => (t.me.ctx.pc, t.me.ctx.lastRetire)
    | _ => (0, 1)) = (0x4000000004, 0) := by decide +kernel

/-! ## Witnesses: the hypotheses of each statement can be met

`witness_<Name>` names states and operands that meet the hypotheses of the statement of that name, clause by clause; opaque free
values are met in either case, or in the form their hypotheses take. -/

/-- What ended well: a step, an address, an engine access, a block read, an issue, a trap of a given cause. -/
def ran (r : Res) : Bool := match r with
  | .next _ => true
  | _ => false
def placed (p : Place) : Bool := match p with
  | .ok _ _ => true
  | _ => false
def trapped (p : Place) : Option (BitVec 8) := match p with
  | .trap _ c => some c
  | _ => none
def moved {α : Type} (r : EngRes α) : Bool := match r with
  | .ok _ _ => true
  | _ => false
def faulted {α : Type} (r : EngRes α) : Bool := match r with
  | .fault _ _ _ => true
  | _ => false
def fetched (f : Fetched) : Option (BitVec 32) := match f with
  | .ok w _ => some w
  | _ => none

/-- Every guard is met by some guard, and every plain register is ready. -/
theorem witness_ready (s : State) (h : s.me.ctx.bind = Vector.replicate 4 none) (r : BitVec 5) :
    s.Plain r ∧ s.SrcReady r ∧ s.DstReady r := by
  have : s.Plain r := by
    unfold State.Plain Ctx.binding
    split
    · simp [h]
    · rfl
  exact ⟨this, this.srcReady, this.dstReady⟩

/-- DecodeEncode: well-formed instructions of the three encoded forms, operands at their ends. -/
theorem witness_DecodeEncode : Instr.reject (.add ⟨7, true⟩ 31 31 31) = none ∧ Instr.reject (.scDrain 63) = none ∧
    Instr.reject .pscl = none ∧ Instr.elemReject .pscl ⟨1, 0, 0, 4, 0, 8⟩ = none ∧ encode .pscl = .element 0x0B ∧
    (match encode (.liw ⟨7, true⟩ 31 true 0 0xFFFFFFFF) with
      | .miller _ l => l
      | _ => []) = [0, 0xFFFFFFFF] ∧
    (match encode (.scDrain 63) with
      | .command c => decodeTableWord 128 c.toNat
      | _ => none) = some (.scDrain 63) := by decide +kernel

/-- StepRunsWhatItFetches: the acting context of an issue slot, and the word and literals it fetches. -/
def slot (s : State) : Option State := match s.agenda with
  | [.issue m c] => (({ s with agenda := [] } : State).onCtx m c).bind ({ s with agenda := [] } : State).focus
  | _ => none
def slotOpen (s : State) : Bool := (slot s).any fun v => v.me.issues && !v.me.ctx.trapDue && v.me.ctx.stepSeq == 0 && !v.me.waitsStart
def slotTrap (s : State) : Option (BitVec 8) := (slot s).bind fun v =>
  match fetchWord v.took.noteRestored v.me.ctx.pc with
  | .trap _ c _ => some c
  | _ => none
def slotFetch (s : State) (n : Nat) : Option (BitVec 32 × List (BitVec 32)) := (slot s).bind fun v =>
  match fetchWord v.took.noteRestored v.me.ctx.pc with
  | .ok w u => match fetchLits u (v.me.ctx.pc + 4) n [] with
    | .ok (l, _) => some (w, l)
    | .error _ => none
  | _ => none

/-- An instruction without literals, one with two, one whose guard is false, a word that is none, and a sleeping one. -/
theorem witness_StepRunsWhatItFetches_miller :
    (∀ w ∈ [0x00064284, 0x01E0E001, 0x41E0E001, 0x0FC00000], slotOpen (State.reset.placeMiller w) = true) ∧
    slotFetch (State.reset.placeMiller 0x00064284) 0 = some (0x00064284, []) ∧ litsOf 0x00064284 = 0 ∧
    slotFetch (State.reset.placeMiller 0x0FC00000) 0 = some (0x0FC00000, []) ∧
    slotTrap { State.reset.placeMiller 0 with mem := [] } = some 4 ∧ ((slot { State.reset.placeMiller 0 with mem := [] }).map (·.me.ctx.parked)) = some none ∧
    (match decodeMiller 0x0FC00000 0 0 0 0 with
      | .error _ => true
      | .ok _ => false) = true ∧
    (slot { State.reset.placeMiller 0 with me := { bareTask with ctx := { bareTask.ctx with
      parked := some (.nop 0), wait := .barrier 0, st := .runnable } } }).map (·.me.ctx.parked) = some (some (.nop 0)) := by decide +kernel

/-- A command, an element, an event of a task and one of the package that run. -/
theorem witness_StepRunsWhatItFetches_rest :
    ran (step (State.reset.placeCommand 0x03000000000000000000000000000000)) = true ∧
    ((State.reset.placeCommand 0x03000000000000000000000000000000).focus bareTask.id).map (fun v => (v.me.cmd? 1).isSome) = some true ∧
    ran (step (State.reset.placeElement 0x4210040000000000)) = true ∧
    ((State.reset.placeElement 0x4210040000000000).focus bareTask.id).map
      (fun v => decodeTableWord 64 (v.me.run.act.wordOf 0).toNat) = some (some .pass) ∧
    ran (step { ready with agenda := [.ev bareTask.id 0 0 .wheelhouseWakeRequest .none] }) = true ∧
    (ready.focus bareTask.id).isSome = true ∧ ran (step { ready with agenda := [.dev .trctlUnfreeze .none] }) = true := by
  decide +kernel

/-- StepAlwaysAnswers, StepKeepsMemoryCanonical: power on and off, canonical memories, and a step that answers. -/
theorem witness_StepAlwaysAnswers : State.reset.wh.off = false ∧
    ({ State.reset with wh := { State.reset.wh with off := true } } : State).wh.off = true ∧
    Memory.wf (State.reset.placeMiller 0x00064284).mem = true ∧ (∀ g ∈ (State.reset.placeMiller 0x00064284).groups, Memory.wf g.snap = true) ∧
    ran (step (State.reset.placeMiller 0x00064284)) = true := by decide +kernel

/-- `ready` with a counter running, a REP body held at its last word, and q1 set: GuardAndRetirement. -/
theorem witness_GuardAndRetirement : Instr.guard (.bl ⟨0, true⟩ 10) = some ⟨0, true⟩ ∧ ready.me.ctx.guardTrue ⟨0, true⟩ = false ∧
    Instr.guard (.rep ⟨1, false⟩ 0 4095) = some ⟨1, false⟩ ∧ ready.me.ctx.guardTrue ⟨1, false⟩ = false ∧
    ready.me.ctx.pc.toNat + 4 * (4095 : BitVec 12).toNat < 2 ^ 56 ∧ ready.me.ctx.steps = false ∧
    ready.me.ctx.guardTrue g0 = true := by decide +kernel

/-- The block of the placed task, with no budgets. -/
def blk0 : Blk := ⟨0, 0, 0, 0, 0, 0, .zero, true, false, 0, .running, 0, 0, 0, 0, 0, 0, none, [], [], none, true, [], [], none⟩

/-- A channel of the task's node whose consumer and producer ends are both its own, bound to g28 at one of them. -/
def wired (consumer : Bool) (c : Chan) : State := { (ready.mapCtx fun x => { x with
  bind := Vector.replicate 4 none |>.set 0 (some ⟨0, consumer⟩) }) with chans := [c], blks := [blk0] }
def chanC : Chan := ⟨0, 0, 0, 0x4000000800, false, false, false, 0, 0, 0xFFFFFFFF, [], [], [], false, none, false, false, false, 0, 0, [], []⟩
def words (n : Nat) : List ChWord := List.replicate n ⟨7, false, 3⟩

/-- ReadingAndWritingRegisters: plain registers, the two ends, a word at the head, half a handle there, an empty channel, a full
one, and a strict one whose consumer has closed. -/
theorem witness_ReadingAndWritingRegisters :
    (wired false chanC).me.ctx.binding 28 = some ⟨0, false⟩ ∧ (wired true chanC).me.ctx.binding 28 = some ⟨0, true⟩ ∧
    (wired false chanC).myChan 0 = some chanC ∧ (wired false chanC).consumerClosed chanC = false ∧
    (wired false chanC).chanRoom chanC 1 = true ∧
    (wired false { chanC with wire := words 10 }).chanRoom { chanC with wire := words 10 } 1 = false ∧
    (wired true { chanC with buf := words 2 }).headOf 28 = some ⟨7, false, 3⟩ ∧ Chan.front { chanC with buf := words 2 } = words 2 ∧
    (wired true { chanC with buf := [⟨7, true, 3⟩] }).headOf 28 = some ⟨7, true, 3⟩ ∧ (wired true chanC).headOf 28 = none ∧
    (wired false { chanC with closed := true, strict := true }).consumerClosed { chanC with closed := true, strict := true } = true ∧
    (wired true chanC).me.ctx.guardTrue g0 = true ∧ ran (exec (.add g0 3 4 5) ready) = true ∧
    Instr.dest (.add g0 3 4 5) ≠ none := by decide +kernel

/-- A bound source that is ready, and a bound destination that is. -/
theorem witness_ready_bound : (wired true { chanC with buf := words 1 }).SrcReady 28 ∧ (wired false chanC).DstReady 28 := by
  constructor
  · intro b hb
    rw [show (wired true { chanC with buf := words 1 }).me.ctx.binding 28 = some ⟨0, true⟩ by decide +kernel] at hb
    cases hb
    exact ⟨rfl, ⟨7, false, 3⟩, by decide +kernel, rfl⟩
  · intro b hb
    rw [show (wired false chanC).me.ctx.binding 28 = some ⟨0, false⟩ by decide +kernel] at hb
    cases hb
    refine ⟨rfl, fun c hc => ?_⟩
    rw [show (wired false chanC).myChan 0 = some chanC by decide +kernel] at hc
    cases hc
    decide +kernel

def finite (v : FV) : Bool := match v with
  | .fin _ _ _ => true
  | _ => false

/-- FloatArithmeticResults, FloatCompareConvertAndMoveResults, FloatSpecialCasesAndRounding: flags enabled and not, a NaN, and
finite patterns of each format that round to themselves. -/
theorem witness_float : (fp64.div (fp64.read 0x3FF0000000000000) (fp64.read 0)).2 &&& (2 : BitVec 5) ≠ 0 ∧
    (fp64.add (fp64.read 0x3FF0000000000000) (fp64.read 0)).2 &&& (31 : BitVec 5) = 0 ∧ FV.isNan (.nan true) = true ∧
    fp64.read 0x3FF0000000000000 = .fin false 0x10000000000000 (-52) ∧ (0x7FA5#16).extractLsb' 7 8 = 0xFF#8 ∧
    (0x7FA5#16).extractLsb' 0 7 ≠ 0 ∧ (0x3FC0#16).extractLsb' 7 8 ≠ 0xFF#8 ∧
    (∀ x ∈ [(fp64, 0x3FF0000000000000), (fp32, 0x3F800000), (bf16, 0x3F80), (fp16, 0x3C00), (e5m2, 0x3C), (e4m3, 0x38)],
      finite (x.1.read x.2) = true) := by decide +kernel

def skipped (last pc : Word) (s : State) : Option Word := match skipBody last 3 pc s with
  | .ok x => some x.1
  | .error _ => none

/-- ControlFlowResults: no REP state and some; jump targets aligned, not aligned and not canonical; a body that can be passed
and one that faults. WaitExitAndBarrierResults: the first arrival, a complete phase, and a phase that is not. -/
theorem witness_ControlFlowResults : ready.me.ctx.rep.count = 0 ∧
    (ready.mapCtx fun c => { c with rep := ⟨4, 8, 2⟩ }).me.ctx.rep.count ≠ 0 ∧
    (two 0x100 0).src 4 + (0 : BitVec 12).signExtend 64 * 4 = 0x100 ∧ (two 0x101 0).src 4 &&& 3 ≠ 0 ∧
    (two 0x0200000000000000 0).src 4 &&& 3 = 0 ∧ ¬ ((two 0x0200000000000000 0).src 4).toNat < 2 ^ 56 ∧
    (two 5 0).src 4 ≠ 0 ∧ (two 0 0).src 4 = 0 ∧
    skipped 0x4000000004 0x4000000004 (State.reset.placeMiller (0x05004002 + 0x10000000 * 2 ^ 32 + 0x10000000 * 2 ^ 64)) =
      some 0x4000000008 ∧
    skipped 0x100 0x4 ready = none := by decide +kernel

/-- WaitExitAndBarrierResults: no arrival and one, a phase that is complete and one that is not. -/
def arrived (b : Blk) : State := { (ready.mapCtx fun c => { c with bars := [⟨0, 1, 0, 0⟩] }) with blks := [b] }
theorem witness_WaitExitAndBarrierResults : (ready.me.ctx.barOf 0).ara = 0 ∧ (ready.me.ctx.barOf 0).ara = (ready.me.ctx.barOf 0).arw ∧
    ((arrived blk0).me.ctx.barOf 0).ara = 1 ∧ ((arrived blk0).me.ctx.barOf 0).arw = 0 ∧ (arrived blk0).phaseDone 0 0 0 1 = true ∧
    (arrived { blk0 with eff := { Eff.zero with tcount := 2 } }).phaseDone 0 0 0 1 = false ∧ (0xFC0 : BitVec 12).setWidth 6 = (0 : BitVec 6) ∧
    ready.me.ctx.rep.count = 0 ∧ (wired true chanC).headOf 28 = none ∧
    (wired true { chanC with buf := words 1 }).headOf 28 = some ⟨7, false, 3⟩ := by decide +kernel

/-! ### Memory -/

/-- `paged` with g4 an address, g5 a value, and the leaf entry of the page replaced. -/
def mapped (pte va v : Word) : State := { (paged.mapCtx fun c => (c.wg 4 va).wg 5 v) with
  mem := memPut paged.mem (keyOf spHbm 0x2000020800) (leBytes 8 pte.toNat) }
def ordPte : Word := 0x0000001000000003
def bankAt (mode : BitVec 2) (busy : Option (Nat × BitVec 2)) (va : Word) : State :=
  (mapped ordPte va 5).setMill 0 { paged.mill 0 with modes := (paged.mill 0).modes.set 0 mode, busy := busy }
/-- The acting task is in a deterministic block. -/
def detOf (s : State) : State := { s with me := { s.me with eff := { s.me.eff with det := true, adepth := 1 } } }
def key0 : Nat := keyOf spHbm 0x1000000100

/-- LoadResultsAndFrame, StoreResultsAndFrame: accesses at the top of a page and at an SRAM bank that are admitted and lead to a
key, their race link there; a store within the SPILL budget and one that is not, and a mode without deterministic groups. -/
theorem witness_LoadResultsAndFrame :
    (∀ x ∈ ([(1, (0x403FFFFFFF : Word)), (2, 0x403FFFFFFE), (4, 0x403FFFFFFC), (8, 0x403FFFFFF8)] : List (Nat × Word)), ∀ k ∈ [Kind.load, .store],
      placed (checkAccess (mapped ordPte x.2 5) x.2 x.1 k) = true) ∧
    (match checkAccess (mapped ordPte 0x4000000100 5) 0x4000000100 8 .store with
      | .ok u t => (t, t.key, u.severed t, storeFits u 0x4000000100 t 8, u.me.eff.det, u.replays 0 0)
      | _ => (.host 0, none, true, false, true, true)) = (.mem key0 0, some key0, false, true, false, false) ∧
    placed (checkAccess (bankAt 1 none 0xFFFFFFFFFFE00008) 0xFFFFFFFFFFE00008 8 .load) = true ∧
    (match checkAccess { detOf (mapped ordPte 0x4000000100 5) with blks := [blk0] } 0x4000000100 8 .store with
      | .ok u t => storeFits u 0x4000000100 t 8
      | _ => true) = false ∧
    Memory.wf (mapped ordPte 0x4000000100 5).mem = true ∧ lineTimes ready.lines 7 = (0, 0) ∧
    (mapped ordPte 0x4000000100 5).me.ctx.guardTrue g0 = true := by decide +kernel

def leaf (s : State) (va : Word) : Option (Word × Nat) := match (s.translate va).1 with
  | .ok x => some x
  | .error _ => none

/-- The page at 0x40_4000_0000 is a NOISE page with a descriptor of zeros, at 0x40_0001_0000. -/
def noised : State := { (mapped ordPte 0 5).setFn 0 { paged.fn 0 with ndt := 0x4000010000 } with
  mem := memPut paged.mem (keyOf spHbm 0x2000020808) (leBytes 8 7) }

/-- AccessChecks: addresses that are not canonical at both ends of the gap, canonical ones beside them, one off its size; an
access that traps for a later check and one that waits; the window's bounds; page types and rights. -/
theorem witness_AccessChecks :
    (∀ a ∈ [(0x0100000000000000 : Word).toNat, (0xFEFFFFFFFFFFFFF8 : Word).toNat], ¬ (a < 2 ^ 56 ∨ 2 ^ 64 - 2 ^ 56 ≤ a)) ∧
    (∀ a ∈ [(0x00FFFFFFFFFFFFFF : Word).toNat, (0xFF00000000000001 : Word).toNat], (a < 2 ^ 56 ∨ 2 ^ 64 - 2 ^ 56 ≤ a) ∧ a % 8 ≠ 0) ∧
    trapped (checkAccess (mapped ordPte 0 5) 0 8 .load) = some 4 ∧
    checkAccess (bankAt 1 (some (0, 0)) 0xFFFFFFFFFFE00000) 0xFFFFFFFFFFE00000 8 .load = .wait .bankBusy ∧
    (0xFFFFFFFFFFE00000 : Word).toNat = 0xFFFFFFFFFFE00000 + 0 * 65536 ∧ ((paged.mill 0).busy = none) ∧ (paged.mill 0).modes[0] ≠ 1 ∧
    ((bankAt 1 none 0).mill 0).modes[0] = 1 ∧ inWindow 0xFFFFFFFFFFDFFFFF = false ∧ inSluice 0xFFFFFDFFFFFFFFFF = false ∧
    inSluice 0xFFFFFE0100000000 = false ∧ leaf (mapped ordPte 0 5) 0 = none ∧
    (∀ x ∈ ([(ordPte, 0, false, false, 0), (0x0000001000000023, 0, false, true, 0), (0x000000100000000F, 3, false, false, 0), (0x0020001000000003, 0, false, false, 2)] :
        List (Word × Nat × Bool × Bool × Nat)),
      leaf (mapped x.1 0x4000000100 5) 0x4000000100 = some (x.1, 30) ∧ pteType x.1 = x.2.1 ∧ pteWorld x.1 = x.2.2.1 ∧
        pteRo x.1 = x.2.2.2.1 ∧ pteLoc x.1 = x.2.2.2.2) ∧
    leaf noised 0x4040000000 = some (7, 30) ∧ pteType 7 = 1 ∧ pteWorld 7 = false ∧
    (paged.tile 0).busy = none ∧ pteLoc 0x0010000000000003 = 1 ∧ (paged.setTile 0 { paged.tile 0 with busy := some 0 } |>.tile 0).busy.isSome = true ∧
    (paged.tile 0).mode ≠ 2 ∧ (paged.setTile 0 { paged.tile 0 with mode := 2 } |>.tile 0).mode = 2 ∧
    paged.inRound 4 3 8 = none ∧ pteWorld ordPte ≠ ({ ready with me := { bareTask with eff := { Eff.zero with world := true } } } : State).me.eff.world := by decide +kernel

/-- AccessChecks: a pond page in a tile that is not HOME, which an entry of a TLB may still serve. -/
def kept : TlbEntry := ⟨0, BitVec.ofNat 64 (0x4000000100 >>> 16), 16, 0x0010000000000003⟩
def served : State := (mapped 0 0x4000000100 5).setMill 0 { paged.mill 0 with tlb := [kept] }
theorem witness_AccessChecks_served (h : Config.tlbServes served.free = true) :
    leaf served 0x4000000100 = some (0x0010000000000003, 16) ∧ pteLoc 0x0010000000000003 = 1 ∧ pteType 0x0010000000000003 = 0 ∧
    pteWorld 0x0010000000000003 = served.me.eff.world ∧ (served.tile 0).busy = none ∧ (served.tile 0).mode ≠ 2 := by
  refine ⟨?_, by decide +kernel⟩
  have w : walk served served.me.id.fn 0x4000000100 = .error 4 := by decide +kernel
  have l : (served.mill served.me.mill).tlb.find? (TlbEntry.hits · served.me.id.fn 0x4000000100) = some kept := by decide +kernel
  simp only [leaf, State.translate, w, l, Option.orElse_some, Option.isSome_some, if_true, State.choose, h, kept]

/-- AtomicResultsInBothModes: an atomic at ordinary memory of either width; in deterministic mode with no round open, and with
another task's round open at ADEPTH 1. -/
def grouped (rs : List AtomRec) : State := { detOf (mapped ordPte 0x4000000100 5) with groups := [⟨0, 0, 0, [], rs, []⟩] }
def inside (s : State) : State := s.mapCtx fun c => { c with wait := .atomicRound key0 }
def handling (s : State) : State := s.mapCtx fun c => { c with nest := 1, held := [(0, .atomicRound key0)] }
theorem witness_AtomicResultsInBothModes :
    (∀ n ∈ [4, 8], (match checkAccess (mapped ordPte 0x4000000100 5) ((mapped ordPte 0x4000000100 5).src 4) n .atomic with
      | .ok _ t => t
      | _ => .host 0) = .mem key0 0) ∧
    (∀ x ∈ ([([], 0, false), ([⟨1, key0, 0x4000000100, 8, 0, 1, 0, 3, none, 0⟩], 1, false),
        ([⟨1, key0, 0x4000000100, 8, 0, 1, 0, 1, none, 0⟩], 1, true)] :
        List (List AtomRec × Nat × Bool)),
      (match checkAccess (grouped x.1) ((grouped x.1).src 4) 8 .atomic with
        | .ok u t => (t, u.me.eff.det, storeFits u 0x4000000100 t 8, (u.myRounds key0 8).length, (u.openRounds key0 8).length,
            (u.openRounds key0 8).contains 1, !u.me.ctx.keepsBelow (.atomicRound key0))
        | _ => (.host 0, false, false, 9, 9, false, false)) = (.mem key0 0, true, true, 0, x.2.1, x.2.2, true)) ∧
    (grouped []).me.eff.adepth = 1 ∧ (grouped []).inRound 4 3 8 = none ∧ (mapped ordPte 0x4000000100 5).inRound 4 3 4 = none ∧
    (inside (grouped [⟨0, key0, 0x4000000100, 8, 0, 1, 0, 1, none, 0⟩])).me.ctx.wait = .atomicRound key0 ∧
    (handling (grouped [])).me.ctx.keepsBelow (.atomicRound key0) = true := by decide +kernel
def inRound (r : Option (Word × Word)) : State := inside (grouped [⟨0, key0, 0x4000000100, 8, 0, 1, 0, 1, r, 0⟩])
theorem witness_AtomicResultsInBothModes_round : (inRound (some (5, 6))).me.ctx.wait = .atomicRound key0 ∧
    (((inRound none).myRounds key0 8).getLast?).bind (·.res) = none ∧
    (((inRound (some (5, 6))).myRounds key0 8).getLast?).bind (·.res) = some (5, 6) := by decide +kernel

/-! ### Handles, channels, flumes -/

/-- Object 5 with two handles, h3 holding a handle of it, and h2 another. -/
def obj5 (st : ObjSt) : Obj := ⟨5, 0, st, 100, 1, none, 0, 0, 2, [], 0⟩
def holding (h3 h2 : BitVec 128) (s : State) : State :=
  { (s.mapCtx fun c => (c.wh 3 h3).wh 2 h2) with objs := [obj5 .published] }
def fillH : BitVec 128 := mkHandle 5 0 0 1 0b000111 0
def seeH : BitVec 128 := mkHandle 5 0 0 2 0b011101 0

/-- HandleOperationsAndTraps, HandlesOnChannels: handles that pass their checks, of both kinds, with the rights that the clauses
ask for, and words that are no handles. -/
theorem witness_handles (s : State) (hs : s.wh.pkg = 0) : handleOk (holding fillH 0 s) fillH = true ∧ hKind fillH = 1 ∧
    handleOk (holding seeH 0 s) seeH = true ∧ hKind seeH = 2 ∧ (hRights seeH).getLsbD 3 = true ∧ (hRights seeH).getLsbD 2 = true ∧
    (hRights seeH).getLsbD 4 = true ∧ (hRights fillH).getLsbD 3 = false ∧ (hRights fillH).getLsbD 4 = false ∧ hPkg seeH = 0 ∧
    hLive 0 = false ∧ hLive seeH = true ∧ handleOk s 0 = false ∧ hRights (mkHandle 5 0 0 2 0b011001 0) = 0b011001 := by
  have lo : ∀ (b : BitVec 80) i k, i + k ≤ 80 → (Config.handleCheck b ++ b).extractLsb' i k = b.extractLsb' i k :=
    fun b i k h => extract_append_low _ b i k h
  have hi : ∀ b : BitVec 80, (Config.handleCheck b ++ b).extractLsb' 80 48 = Config.handleCheck b := fun b => by
    rw [extract_append_high _ b 80 48 (by decide)]
    simp
  simp only [handleOk, fillH, seeH, mkHandle, hLive, hKind, hCheck, hPkg, hObj, hGen, hRights, lo, hi, Nat.reduceLeDiff,
    State.obj?, holding, State.mapCtx, hs]
  simp +decide [obj5]

/-- The other clauses: a mapped slot and none, a full window and its lowest free slot, commands into the object and none,
deterministic or not, one register or two. -/
theorem witness_HandleOperationsAndTraps :
    ({ ready with me := { bareTask with window := [⟨0, 5, 0, 0, false⟩] } } : State).me.window.find?
      (fun w => w.obj == 5 && w.pkg == 0 && w.fill == false) = some ⟨0, 5, 0, 0, false⟩ ∧
    ready.me.window.find? (fun w => w.obj == 5 && w.pkg == 0 && w.fill == false) = none ∧
    (∀ w ∈ ready.me.window, w.slot ≠ 0) ∧
    ((List.range 256).map fun k => (⟨k, 1000 + k, 0, 0, false⟩ : WinSlot)).map (·.slot) = List.range 256 ∧
    ready.me.fillsInto 5 = false ∧ ready.me.eff.det = false ∧ (detOf ready).me.eff.det = true ∧ low3 3 ≠ low3 2 ∧ low3 3 = low3 11 ∧
    (holding fillH 0 ready).obj? 5 = some (obj5 .published) ∧ 1 < (obj5 .published).handles ∧
    ({ ready with me := { bareTask with
      window := [⟨0, 5, 0, 0, true⟩]
      cmds := [{ placedCmd 0x0D000000000000000000000000000000 with foot := [⟨sluiceBase, sluiceBase, true, true⟩] }] } } : State).me.fillsInto 5 = true := by
  decide +kernel

/-- SluiceTiles: requests at both ends of the size, with and without POND, and requests whose first failing check is each one. -/
def slots8 (o : ObjSt) : State := { ready with objs := [obj5 o], blks := [blk0] }
theorem witness_SluiceTiles :
    ([(1 : Word), 0x1000000, 0x300000001].all fun r => decide (1 ≤ (r.extractLsb' 0 25).toNat ∧
      (r.extractLsb' 0 25).toNat ≤ 16777216 ∧ r.extractLsb' 25 7 = 0 ∧ r.extractLsb' 34 30 = 0)) = true ∧
    (0x300000001 : Word).getLsbD 33 = true ∧ (∀ x ∈ ready.lineage 0 0, x.usePond + 1 ≤ x.eff.pond) ∧
    (∃ x ∈ (slots8 .published).lineage 0 0, x.eff.pond < x.usePond + 1) ∧ ready.liveObjs < 1048576 ∧
    hLive (ready.me.ctx.rh (low3 3)) = false ∧ low3 3 ≠ low3 2 ∧ (0 : Word).extractLsb' 0 25 = 0 ∧
    16777216 < ((0x1000001 : Word).extractLsb' 0 25).toNat := by decide +kernel

/-- HandlesOnChannels: the two ends, rooms for two words and none, a strict closed channel, and the heads that HRECV meets. -/
theorem witness_HandlesOnChannels :
    (wired false chanC).chanRoom chanC 2 = true ∧
    (wired false { chanC with wire := words 7 }).chanRoom { chanC with wire := words 7 } 2 = false ∧
    Chan.front chanC = [] ∧ Chan.front { chanC with buf := words 1 } = [⟨7, false, 3⟩] ∧
    Chan.front { chanC with buf := [⟨1, true, 0⟩, ⟨2, true, 0⟩] } = [⟨1, true, 0⟩, ⟨2, true, 0⟩] ∧
    crossesLink ready chanC = false ∧ ready.me.ctx.binding 28 = none ∧ ready.me.fillsInto 5 = false ∧
    (wired false chanC).myChan 0 = some chanC ∧ (wired false chanC).me.ctx.binding 28 = some ⟨0, false⟩ := by decide +kernel

/-- Flumes: slot sizes at both ends, in memory and in a bank; a page that serves and one that does not; no budget, no header, one;
the flume's slots, none ready, all ready, and another task's. -/
def fl1 (owner : BitVec 32) (wr rd : BitVec 32) : Flume := ⟨0, 0x4000010000, ⟨0, 0, owner⟩, 64, 4, none, 0x4000000000, wr, rd, rd, 0, [], false⟩
def flumed (f : Flume) : State := { paged with flumes := [f] }
theorem witness_Flumes :
    ([(0x0000000100000040 : Word), 0x0000FFFF00010000, 0x0001000100000040].all fun v => decide (
      (v.extractLsb' 0 32).toNat % 64 = 0 ∧ 64 ≤ (v.extractLsb' 0 32).toNat ∧ (v.extractLsb' 0 32).toNat ≤ 65536 ∧
      1 ≤ (v.extractLsb' 32 16).toNat ∧ (v.extractLsb' 48 2).toNat ≤ 1 ∧ v.extractLsb' 55 9 = 0)) = true ∧
    (0x0001000100000040 : Word).extractLsb' 48 2 = 1 ∧ paged.flBankOk 0x0001000100000040 = false ∧
    (paged.setMill 0 { paged.mill 0 with modes := (paged.mill 0).modes.set 0 2 }).flBankOk 0x0001000100000040 = true ∧
    paged.badPlain 0x4000000000 (flArea 0x0000000100000040 0x4000000000) = none ∧
    paged.flPondFits [] = true ∧ ({ paged with blks := [blk0] } : State).flPondFits [0] = false ∧
    paged.badPlain 0x80 (flArea 0x0000000100000040 0x80) = some 0x80 ∧
    (∀ x ∈ paged.lineage 0 0, x.useFl + 1 ≤ x.eff.flslots) ∧
    ¬ (∀ x ∈ ({ paged with blks := [blk0] } : State).lineage 0 0, x.useFl + 1 ≤ x.eff.flslots) ∧
    paged.freeHeader 0 = none ∧ (paged.setFn 0 { paged.fn 0 with fha := 0x4000010001 }).freeHeader 0 = some 0x4000010000 ∧
    (∀ f ∈ [fl1 0 0 0, fl1 0 4 0, fl1 1 0xFFFFFFFF 0xFFFFFFFD], (flumed f).flume? 0 0x4000010000 = some f) ∧
    paged.flume? 0 0x4000010000 = none ∧ (fl1 1 0 0).owner ≠ paged.me.id := by decide +kernel

/-- ChannelBinding: a channel whose ends this task has, a halo channel, one of another task, none; bound and unbound registers. -/
theorem witness_ChannelBinding : ready.myChan 0 = none ∧ 28 ≤ (28 : BitVec 5).toNat ∧
    (∀ x ∈ [(chanC, some true), ({ chanC with ctask := 1 }, some false), ({ chanC with ctask := 1, ptask := 0 }, some false),
      ({ chanC with ctask := 1, ptask := 2 }, none)], Chan.endOf x.1 ready.me.id = x.2 ∧ x.1.peer = 0) ∧
    ({ ready with chans := [chanC] } : State).me.ctx.binding 28 = none ∧ (wired true chanC).me.ctx.binding 28 = some ⟨0, true⟩ ∧
    ({ chanC with halo := true } : Chan).halo = true ∧ chanC.closed = false := by decide +kernel

/-! ### Traps, special registers, translation -/

/-- TakingTraps, TrapsAndReturn, SpecialRegistersAndCounters, CounterWraps: a handler and none, TM set and clear, a debugger and
none, a REP body, counters on, off and wrapping, and the two counter ends. -/
def withCtx (f : Ctx → Ctx) : State := ready.mapCtx f
def handled : State := { ready with me := { bareTask with trapEntry := some 0x100 } }
theorem witness_TakingTraps : ready.me.ctx.tm = false ∧ (withCtx fun c => { c with tm := true }).me.ctx.tm = true ∧
    handled.me.trapEntry = some 0x100 ∧ ready.me.trapEntry = none ∧ ready.me.ctx.dbg.getLsbD 0 = false ∧
    (withCtx fun c => { c with dbg := 1 }).me.ctx.dbg.getLsbD 0 = true ∧ ready.me.ctx.rep.count = 0 ∧
    (withCtx fun c => { c with rep := ⟨0, 4, 1⟩ }).me.ctx.rep.count ≠ 0 ∧ ready.me.ctx.latch = false ∧
    (withCtx fun c => { c with latch := true }).me.ctx.latch = true ∧
    (withCtx fun c => { c with dbg := 0x18 }).me.ctx.dbg.getLsbD 3 = true ∧ (0x1F : BitVec 5).toNat % 4 < 4 := by decide +kernel
theorem witness_CounterWraps : (⟨1, true, 0xFFFFFFFFFFFF, none⟩ : Counter).on = true ∧
    (⟨1, true, 0xFFFFFFFFFFFF, none⟩ : Counter).ev.toNat = 1 ∧ 2 ^ 48 ≤ (⟨1, true, 0xFFFFFFFFFFFF, none⟩ : Counter).val.toNat + 1 ∧
    (⟨1, false, 5, none⟩ : Counter).on = false ∧ (⟨2, true, 5, none⟩ : Counter).ev.toNat ≠ 1 ∧
    (∀ i : Fin 4, (withCtx fun c => { c with ctrs := Vector.replicate 4 ⟨1, true, 0, some 1⟩ }).me.ctx.ctrs[i].wrapped = some 1) ∧
    ({ ready with cur := { ready.cur with arg := { EvArg.none with n := 3 } } } : State).cur.arg.n = (3 : Fin 4).val ∧
    ((ready.setFn 0 { ready.fn 0 with tren := true }).fn 0).tren = true ∧ (ready.fn 0).frozenDies = [] := by decide +kernel

/-- TranslationAndRetention: canonical addresses and one that is not, register numbers 0, 15 and 16, ranges in and out of order. -/
theorem witness_TranslationAndRetention : canonical ((two 0x4000000000 0).src 4) = true ∧ canonical ((two 0x0100000000000000 0).src 4) = false ∧
    ((two 15 0).src 4).toNat = 15 ∧ 16 ≤ ((two 16 0).src 4).toNat ∧ ((two 0 0).src 4).toNat = 0 ∧
    ((0x10000 : Word).extractLsb' 16 41).toNat ≤ ((0x10000 : Word).extractLsb' 16 41).toNat ∧
    ((0 : Word).extractLsb' 16 41).toNat < ((0x10000 : Word).extractLsb' 16 41).toNat := by decide +kernel

/-! ### Commands -/

/-- A pattern of two units of one word, four bytes apart. -/
def pat1 : List Byte := [(0x101 : Word), 0, 2, 4].flatMap fun v => leBytes 8 v.toNat
/-- A command of an operation on port 0, with its base in the page and its block as read. -/
def cmdOf (op : Nat) (raw : List Byte) (ph : Phase) : Cmd :=
  { placedCmd (BitVec.ofNat 128 (op * 2 ^ 120)) with raw := raw, phase := ph, base := 0x4000000100, ctr := [0] }
/-- The command in focus, with one port. -/
def engine (c : Cmd) (out : Bool) (x : Port) (s : State) : State := { s with
  me := { s.me with
    cmds := [c]
    run := { Run.empty with
      act := { Plane.empty with valid := true, ports := [⟨true, out, 0, 0, false, 0⟩, ⟨true, out, 0, 0, false, 0⟩,
        ⟨true, true, 0, 0, false, 0⟩] }
      ports := [x, x, x] } }
  cur := { s.cur with seq := 1 } }
def page0 : State := mapped ordPte 0x4000000000 0
def some4 : Port := { Port.reset with outq := [1, 2, 3, 4] }

/-- Focus: a command in each phase, whatever its operation and port, of a run that goes on. -/
theorem witness_Focus (c : Cmd) (out : Bool) (x : Port) (s : State) (hs : s.me.saving = false) (hq : c.seq = 1)
    (hr : c.rawErr = none) : (engine c out x s).Focus c c.phase :=
  ⟨by simp [engine, Task.cmd?, hq], rfl, hs, by simp [hr], rfl⟩

/-- CommandIssueAndWait: words that are refused and not, a block in memory, room for a command and none, what SCW meets. -/
def issued (r : Issued) : Option (BitVec 32) := match r with
  | .ok q _ => some q
  | _ => none
def withBlock : State := { page0 with mem := memPut page0.mem (keyOf spHbm 0x1000000000) pat1 }
def copyWord : BitVec 128 := 0x08000000000000000000000000000000
def fenceWord : BitVec 128 := 0x03000000000000000000000000000000
def full16 : State := { ready with me := { bareTask with cmds := List.replicate 16 (cmdOf 3 [] .running) } }
theorem witness_CommandIssueAndWait : ready.refuses (1 : BitVec 128) = some 1 ∧ ready.refuses fenceWord = none ∧
    blockHead (cOp fenceWord).toNat = 0 ∧ withBlock.refuses copyWord = none ∧ blockHead (cOp copyWord).toNat ≠ 0 ∧
    (match readBlock withBlock (cOp copyWord).toNat ((0x4000000000 &&& ~~~63) + (cBlk copyWord).signExtend 64 * 64) with
      | .ok bs _ => bs.take 32
      | _ => []) = pat1 ∧
    issued (issueCmd (.sci g0 3 4 fenceWord) fenceWord 0 0 ready) = some 1 ∧
    16 ≤ (full16.me.cmds.filter Cmd.live).length ∧ (ready.me.cmds.filter Cmd.live).length < 16 ∧
    ready.spillFits 0 0 0 = true ∧ (withCtx fun c => { c with seq := 0xFFFFFFFF }).me.ctx.seq = 0xFFFFFFFF ∧
    (withCtx fun c => { c with seq := 1 }).me.ctx.seq - 1 = 0 ∧ 2 ^ 31 ≤ ((0 : BitVec 32) - 1).toNat ∧
    (match checkAccess page0 0x4000000000 16 .load with
      | .ok u t => (loadTarget u 0x4000000000 t 16).1.length
      | _ => 0) = 16 ∧ Cmd.live (cmdOf 3 [] .running) = true ∧ Cmd.live (cmdOf 3 [] .done) = false := by decide +kernel

/-- The same: a full queue, and SCM's operand in an object whose path is lost and in one whose path is not. -/
def waits (r : Issued) : Bool := match r with
  | .wait _ => true
  | _ => false
def scmAt (pkg : BitVec 8) : State := { page0 with
  me := { page0.me with window := [⟨0, 5, pkg, 0, false⟩] }
  objs := [obj5 .published] }
theorem witness_CommandIssueAndWait_stalls : waits (issueCmd (.scm g0 3 4) fenceWord 0 0 full16) = true ∧
    waits (issueCmd (.sci g0 3 4 fenceWord) fenceWord 0 0 full16) = true ∧
    (match checkAccess (scmAt 0) 0xFFFFFE0000000000 16 .load with
      | .ok u t => some (u.severed t)
      | _ => none) = some false := by decide +kernel
def farSlot : WinSlot := ⟨0, 5, 1, 0, false⟩
theorem witness_CommandIssueAndWait_severed (h : 15 ≤ (Config.remoteSize farSlot.id).toNat) :
    checkAccess (scmAt 1) 0xFFFFFE0000000000 16 .load = .ok (scmAt 1) (.remote 1 farSlot.id 0) ∧
    (scmAt 1).severed (.remote 1 farSlot.id 0) = true := by
  have r : (scmAt 1).reaches 1 = false := by decide +kernel
  have p : place (scmAt 1) 0xFFFFFE0000000000 16 .load = .ok (scmAt 1) (.remote 1 farSlot.id 0) := by
    have f : (scmAt 1).me.window.find? (fun w => w.slot == ((0xFFFFFE0000000000 : Word).toNat - sluiceBase) / 2 ^ 24) = some farSlot := by
      decide +kernel
    simp only [place, placeSluice, f, show inWindow 0xFFFFFE0000000000 = false by decide, show inSluice 0xFFFFFE0000000000 = true by decide]
    simp [Nat.not_lt.2, h]
    rfl
  have b : (scmAt 1).heldBack 0xFFFFFE0000000000 16 Kind.load.writes = false := by decide +kernel
  refine ⟨?_, by rw [State.severed, r]; rfl⟩
  rw [checkAccess, if_neg (by decide), if_neg (by decide), p]
  dsimp only
  rw [if_neg (by rw [b]; decide)]
  simp only [seeCheck, r]
  rfl

/-- CommandStartAndRetirement: a command that may start and one held back, one whose start fails, blocks of the three kinds; a
status record asked for and none, and where its write goes well, faults and waits. -/
def card1 : List Byte := leBytes 8 1 ++ List.replicate 32 0 ++ leBytes 4 1 ++ List.replicate 76 0 ++
  leBytes 8 (8 + 8 * 2 ^ 20 + 4 * 2 ^ 40)
def ready1 (c : Cmd) (out : Bool) (x : Port) : State := engine c out x page0
def behind (c : Cmd) : State := { ready1 { c with acc := 1 } true .reset with me :=
  { (ready1 { c with acc := 1 } true .reset).me with cmds := [{ c with acc := 1 }, { c with seq := 2, acc := 0 }] } }
theorem witness_CommandStartAndRetirement :
    (∀ c ∈ [cmdOf 8 pat1 .accepted, cmdOf 0x0D pat1 .accepted], (ready1 c true .reset).startable c = true) ∧
    (behind (cmdOf 8 pat1 .accepted)).startable { cmdOf 8 pat1 .accepted with acc := 1 } = false ∧
    (ready1 (cmdOf 8 pat1 .accepted) true .reset).startFault (cmdOf 8 pat1 .accepted) = none ∧
    (ready1 (cmdOf 8 [] .accepted) true .reset).startFault (cmdOf 8 [] .accepted) = some (1, 0) ∧
    (patOf pat1).isSome = true ∧ (cardOf card1 0).isSome = true ∧
    (ready1 (cmdOf 0x0C [] .accepted) true .reset).cmdFlume (cmdOf 0x0C [] .accepted) = none ∧
    ({ ready1 (cmdOf 0x0C [] .accepted) true .reset with flumes := [{ fl1 0 0 0 with hdr := 0x4000000100 }] } : State).cmdFlume
      (cmdOf 0x0C [] .accepted) = some { fl1 0 0 0 with hdr := 0x4000000100 } ∧
    (cmdOf 8 pat1 .finished).status = none ∧ (cmdOf 0x18 [] .finished).status = some 64 ∧
    moved (engWrite (enginePlace false) page0 0x4000000040 (leBytes 8 1)) = true ∧
    faulted (engWrite (enginePlace false) page0 0x40 (leBytes 8 1)) = true ∧
    (match engWrite (enginePlace false) (bankAt 1 (some (0, 0)) 0) 0xFFFFFFFFFFE00000 (leBytes 8 1) with
      | .wait => true
      | _ => false) = true ∧ (cmdOf 8 pat1 .accepted).rawErr = none ∧
    ({ cmdOf 8 pat1 .accepted with rawErr := some (4, 0) } : Cmd).rawErr.map (·.1) ≠ some 0 := by decide +kernel

/-- The same: a block in an abandoned object, and two cards that wait behind a job on the same ports, the later of the higher PRIO. -/
def cards : State := { page0 with me := { page0.me with
  cmds := [cmdOf 0x12 card1 .done, { cmdOf 0x12 (card1.set 3 1) .accepted with seq := 3, acc := 1 },
    { cmdOf 0x12 (card1.set 3 2) .accepted with seq := 2, acc := 2 }] } }
def cardSeq (n : BitVec 32) : Cmd := (cards.me.cmd? n).getD (cmdOf 0x12 card1 .done)
theorem witness_CommandStartAndRetirement_cards :
    (ready1 { cmdOf 8 pat1 .accepted with rawErr := some (8, 0) } true .reset).startFault
      { cmdOf 8 pat1 .accepted with rawErr := some (8, 0) } = some (8, 0) ∧
    (ready1 { cmdOf 8 pat1 .accepted with rawErr := some (8, 0) } true .reset).startable
      { cmdOf 8 pat1 .accepted with rawErr := some (8, 0) } = true ∧
    (cardSeq 3).acc < (cardSeq 2).acc ∧ (cardSeq 3).cardPrio < (cardSeq 2).cardPrio ∧ cards.me.behindJob (cardSeq 3) = true ∧
    cards.mayStart (cardSeq 2) = true ∧ cards.startable (cardSeq 3) = false ∧ cards.startable (cardSeq 2) = true := by decide +kernel

/-- CopiesMoveUnits, PortOrderAndConfigurationCommands, FlumeFilling: units that have arrived and not, at aligned and other
addresses; a port at rest, mid-burst and offering; planes valid, invalid and empty. -/
theorem witness_CopiesMoveUnits :
    ((ready1 (cmdOf 8 pat1 .running) true some4).me.run.decl 0).out = true ∧
    ((ready1 (cmdOf 8 pat1 .running) false some4).me.run.decl 0).out = false ∧
    ((0x4000000100 : Word) + BitVec.ofInt 64 (0 + dotCtr [0] [4])).toNat % 4 = 0 ∧
    ((0x4000000101 : Word) + BitVec.ofInt 64 (0 + dotCtr [0] [4])).toNat % 4 ≠ 0 ∧
    4 * 1 ≤ ((ready1 (cmdOf 8 pat1 .running) true some4).me.run.port 0).outq.length ∧
    ((ready1 (cmdOf 8 pat1 .running) true .reset).me.run.port 0).outq.length < 4 * 1 ∧
    moved (engWrite (enginePlace false) (ready1 (cmdOf 8 pat1 .running) true some4) 0x4000000100 [1, 2, 3, 4]) = true ∧
    faulted (engWrite (slotPlace true) (ready1 (cmdOf 0x0D pat1 .running) true some4) 0x4000000100 [1, 2, 3, 4]) = true ∧
    moved (engRead (enginePlace false) (ready1 (cmdOf 8 pat1 .running) false .reset) 0x4000000100 4 0 0) = true ∧
    ((ready1 (cmdOf 8 pat1 .running) false .reset).me.run.port 0).offer = [] ∧
    (match indexed ⟨1, 0, [2], [4]⟩ page0 { cmdOf 0x0B pat1 .running with word := 0x0B000000002000010000000000000000 } with
      | .ok a _ => a
      | _ => 0) = 0x4000000100 ∧
    ((patOf pat1).map fun t => (t.chunkLeft [0], t.chunkLeft [1], t.chunk [1], t.usz)) = some (2, 1, 0, 1) ∧
    ({ cmdOf 9 pat1 .running with bits := 1 } : Cmd).bits.testBit 0 = true ∧ (cmdOf 9 pat1 .running).bits.testBit 0 = false ∧
    (nextIter [1] [2]).2 = true ∧ (nextIter [0] [2]).2 = false ∧
    (0x4000000100 : Word).toNat % ropAlign 0 = 0 := by decide +kernel

/-- The same, at an object of the task's window: fill and see slots, an object being filled, published and abandoned. -/
def windowed (fill : Bool) (st : ObjSt) : State := { page0 with
  me := { page0.me with window := [⟨0, 5, 0, 0, fill⟩] }
  objs := [obj5 st] }
/-- The path to the object of slot 0 is lost; 0 a unit that can be read, 1 one that waits, 8 SLABANDON. -/
def seeAt (s : State) : Bool × Nat := match slotPlace false s 0xFFFFFE0000000000 .engRead with
  | .ok w x => (w.severed x, match seeCheck w x with
    | none => 0
    | some (.error _) => 1
    | some (.ok e) => e.toNat)
  | _ => (false, 2)
theorem witness_CopiesMoveUnits_sluice :
    moved (engWrite (slotPlace true) (windowed true .filling) 0xFFFFFE0000000000 [1, 2, 3, 4]) = true ∧
    seeAt (windowed false .filling) = (false, 1) ∧ seeAt (windowed false .abandoned) = (false, 8) ∧
    seeAt (windowed false .published) = (false, 0) ∧
    (seeAt { windowed false .published with me := { page0.me with window := [⟨0, 5, 1, 0, false⟩] } }).1 = true ∧
    (windowed false .filling).objs.find? (fun o => o.id == 5) = some (obj5 .filling) := by decide +kernel
/-- The page's first 2 MiB in two HOME tiles of the partition. -/
def homeMem : List Host.Cell := memPut (memPut page0.mem (keyOf spHbm 0x2000020800) (leBytes 8 0x0000002000030001))
  (keyOf spHbm 0x2000030000) (leBytes 8 0x0010000000000003)
def home : State := ((({ page0 with mem := homeMem } : State).setTile 0 { page0.tile 0 with mode := 2 }).setTile 1
    { page0.tile 1 with mode := 2 }).setFn 0 { page0.fn 0 with tiles := [0, 1] }
theorem witness_CopiesMoveUnits_reduce : moved (engReduce (enginePlace false) home 0x4000000100 0 1 [1, 2, 3, 4]) = true := by
  decide +kernel
/-- A chunk of two units: both can be combined, the first faults, the first waits, and the second faults with the first performed. -/
def chunked (base stride : Word) (s : State) : State := engine
  { cmdOf 9 ([(0x101 : Word), 0, 2, stride].flatMap fun v => leBytes 8 v.toNat) .running with base := base } true
  { Port.reset with outq := [1, 2, 3, 4, 5, 6, 7, 8] } s
def ends (s : State) : Option (List Nat × Phase) := match exec (.scRcopy 0 0 0 0) s with
  | .next t => (t.me.cmd? 1).map fun c => (c.ctr, c.phase)
  | _ => none
theorem witness_CopiesMoveUnits_chunk : ends (chunked 0x4000000100 4 home) = some ([], .finished) ∧
    ends (chunked 0x100 4 home) = some ([0], .faulted) ∧ ends (chunked 0x4000000102 4 home) = some ([0], .faulted) ∧
    ends (chunked 0xFFFFFFFFFFE00000 4 (bankAt 1 (some (0, 0)) 0)) = some ([0], .running) ∧
    ends (chunked 0x4000000100 (0 - 0x2000000000) home) = some ([1], .faulted) := by decide +kernel

theorem witness_PortOrder : Port.reset.due = 0 ∧ Port.reset.coord = none ∧ Port.reset.offer = [] ∧
    ({ Port.reset with due := 3 } : Port).due ≠ 0 ∧ ({ Port.reset with offer := [(.data 1, 1)] } : Port).offer ≠ [] ∧
    (∃ y ∈ (behind (cmdOf 0x10 [] .accepted)).me.cmds, y.live = true ∧ y.acc < 1 ∧ (y.op = 0x10 ∨ y.op = 0x11)) ∧
    (∀ y ∈ (ready1 (cmdOf 0x10 [] .running) true .reset).me.cmds, y.acc < 0 → y.live = false) ∧
    (ready1 (cmdOf 0x11 [] .running) true .reset).me.run.isEmpty = true ∧
    (ready1 (cmdOf 0x11 [] .running) true { Port.reset with due := 3, offer := [(.data 1, 1)] }).me.run.isEmpty = false ∧
    (ready1 (cmdOf 0x11 [] .running) true .reset).me.run.inact.valid = false ∧
    (match (ready1 (cmdOf 0x10 [] .running) true .reset).loadImage [] 0 0 with
      | .rej _ => true
      | _ => false) = true ∧
    (wired false chanC).myChan 0 = some chanC ∧ (wired false chanC).chanRoom chanC 1 = true := by decide +kernel
theorem witness_FlumeFilling : (∀ f ∈ [fl1 0 0 0, fl1 0 4 0, fl1 0 1 0xFFFFFFFD],
      ({ ready1 { cmdOf 0x0C [] .running with base := 0x4000010000 } true .reset with flumes := [f] } : State).cmdFlume
        { cmdOf 0x0C [] .running with base := 0x4000010000 } = some f) ∧
    ((fl1 0 0 0).wr - (fl1 0 0 0).rd).toNat < 4 ∧ 4 ≤ ((fl1 0 4 0).wr - (fl1 0 4 0).rd).toNat ∧
    ({ ready1 { cmdOf 0x0C [] .running with base := 0x4000010000, sub := 1 } true .reset with flumes := [fl1 0 0 0] } : State).slotBusy
      (fl1 0 0 0) = true ∧ ({ ready1 { cmdOf 0x0C [] .running with base := 0x4000010000 } true .reset with flumes := [fl1 0 0 0] } :
      State).slotBusy (fl1 0 0 0) = false ∧
    moved (writeSlot (fl1 0 0 0) page0 (List.replicate 64 0)) = true ∧ (fl1 0 0 0).bank = none ∧
    (cmdOf 0x0C [] .running).op = 0x0C := by decide +kernel

/-- JobCards: a burst of eight long atoms at the operand's address, the ends of a reduction and of the job, a C unit that has come
and none, and a job that overtakes. -/
def burst4 : List Byte := leBytes 4 (mkHdr 127 1 false true 16).toNat ++ leBytes 4 0
def jobAt (c : Cmd) : State := { ready1 c false .reset with mem := memPut page0.mem (keyOf spHbm 0x1000000100) burst4 }
def jobCard : Card := { (cardOf card1 0).getD ⟨0, false, 0, 0, 0, false, 0, 0, 0, 0, 0, [], [], [], [], 0, 0, 0⟩ with
  long := true, km1 := 15, ovt := true }
/-- A job, with two behind it on the same ports, the later of the higher PRIO. -/
def overtaken : State := { jobAt (cmdOf 0x12 card1 .running) with me := { (jobAt (cmdOf 0x12 card1 .running)).me with
  cmds := [cmdOf 0x12 card1 .running, { cmdOf 0x12 (card1.set 3 1) .accepted with seq := 3, acc := 1 },
    { cmdOf 0x12 (card1.set 3 2) .accepted with seq := 2, acc := 2 }]
  run := { (jobAt (cmdOf 0x12 card1 .running)).me.run with act := { Plane.empty with valid := true, ports :=
    [⟨true, false, 1, 0, false, 0⟩, ⟨true, false, 1, 0, false, 0⟩, ⟨true, true, 0, 0, false, 0⟩] } } } }
def cardOn2 (raw : List Byte) : Cmd := { cmdOf 0x12 raw .accepted with seq := 2, acc := 2 }
theorem witness_JobCards : (cardOf card1 0x4000000100).isSome = true ∧ lastOf [1] [0] 1 = true ∧ lastOf [2] [0] 1 = false ∧
    (0x4000000100 + BitVec.ofInt 64 (0 + dotCtr [0] [0]) : Word).toNat % 4 = 0 ∧
    moved (cardBurst jobCard 8 (jobAt (cmdOf 0x12 card1 .running)) (cmdOf 0x12 card1 .running) 0x4000000100) = true ∧
    ((jobAt (cmdOf 0x12 card1 .running)).offer 0 burst4).isSome = true ∧
    (jobAt (cmdOf 0x12 card1 .running)).overtaker (cmdOf 0x12 card1 .running) jobCard = none ∧ nextIter [0] [2] = ([1], false) ∧
    (match spillPlanes (cmdOf 0x12 card1 .running) jobCard (List.range 1) 0 (jobAt (cmdOf 0x12 card1 .running)) with
      | .ok _ _ => true
      | _ => false) = true ∧
    (jobAt (cmdOf 0x12 card1 .running)).freeJobPorts (cmdOf 0x12 card1 .running) jobCard = jobAt (cmdOf 0x12 card1 .running) ∧
    (nextIter [1] [2]).2 = true ∧ ((jobAt (cmdOf 0x12 card1 .running)).me.run.port 0).offer = [] ∧
    overtaken.me.jobAtRest (cmdOf 0x12 card1 .running) = true ∧ (overtaken.startFault (cardOn2 card1)).isNone = true ∧
    (overtaken.startFault (cardOn2 [])).map (·.1) = some 1 ∧
    (overtaken.overtaker (cmdOf 0x12 card1 .running) jobCard).map (·.seq) = some 2 := by decide +kernel

/-! ### The fabric -/

/-- The element word w with an element's state, in focus. -/
def firing (w : Nat) (x : Elem) : State := { State.reset.placeElement w with
  me := { (State.reset.placeElement w).me with run := { (State.reset.placeElement w).me.run with elems := [x], grant := [0] } }
  cur := ⟨0, 0, eFields (BitVec.ofNat 64 w), .none⟩
  agenda := [] }
def longIn (due : Nat) : InState := ⟨mkHdr 127 4 false true 16, due, false, 0, false⟩
/-- Data at the heads of A, B and C. -/
def fed (a b c : List InTok) : Elem := { Elem.zero with a := a, b := b, c := c }
def one : InTok := ⟨.data 0x3F800000, 5⟩

/-- FiringTakesEffect, ElementArithmetic: a free element with its operands at their heads and without them, with one slot taken,
with no parameter, and with the words of a packed format staged. -/
theorem witness_ElementArithmetic : (firing 0x1012040000000000 (fed [one] [one] [])).cur.elem <
      (firing 0x1012040000000000 (fed [one] [one] [])).me.run.elems.length ∧
    (firing 0x1012040000000000 (fed [one] [one] [])).me.run.elem 0 = fed [one] [one] [] ∧
    (firing 0x1012040000000000 (fed [one] [one] [])).me.run.gated = false ∧ (fed [one] [one] []).emit = [] ∧
    (fed [one] [one] []).out.length ≤ 1 ∧ ({ fed [one] [one] [one] with out := [⟨.data 0, 4, false, false⟩] } : Elem).out.length ≤ 1 ∧
    (firing 0x1012040000000000 .zero).cur.w.param.extractLsb' 0 4 = 0 ∧ (firing 0x2010040000000000 .zero).cur.w.param = 0 ∧
    ((firing 0x1612040000000060 .zero).cur.w.param.extractLsb' 5 3).toNat = 3 ∧
    (({ Elem.zero with stage := [1] } : Elem).stage.length + 1) * 16 = 32 ∧
    (({ Elem.zero with stage := List.replicate 7 1 } : Elem).stage.length + 1) * 4 = 32 ∧ (Elem.zero.stage.length + 1) * 16 < 32 ∧
    (∀ y ∈ ([1] : List Word).map (·.toNat), y < 2 ^ 16) ∧ (bf16.convert (fp32.read 0x3F800000)).1 < 2 ^ 16 ∧
    (firing 0x1012040000000000 .zero).me.run.grant.contains (firing 0x1012040000000000 .zero).cur.elem = true ∧
    Run.empty.grant.contains 0 = false ∧ ran (exec .eadd (firing 0x1012040000000000 (fed [one] [one] []))) = true := by decide +kernel

/-- PulseCells, AtomOperations, RoutingOperations: long bursts under way and at their last atom, counts at their ends, a value
waiting to drain, control tokens of either kind, equal and unequal coordinates, and the modes of FILT, MERGE and PMSK. -/
theorem witness_PulseCells : hdrLong (longIn 2).hdr = true ∧ (longIn 1).due ≠ 0 ∧ AccPlane.zero.steps < 65536 ∧
    ({ AccPlane.zero with steps := 65535 } : AccPlane).steps < 65536 ∧ AccPlane.zero.steps + 1 < 65536 ∧ 2 ≤ (longIn 2).due ∧
    65536 ≤ ({ AccPlane.zero with steps := 65536 } : AccPlane).steps ∧ (one.tok == .data 0x3F800000) = true ∧
    ({ fed [⟨.ctl .accsw 3, 0⟩] [one] [] with queue := [none] } : Elem).atHdr .b = false ∧
    (fed [⟨.ctl .accsw 3, 0⟩] [one] []).queue = [] ∧ Elem.zero.fwdLeft = 0 ∧
    ran (exec .pdot (firing 0x0112020000000000 { fed [one] [one] [] with ia := longIn 2, ib := longIn 2 })) = true ∧
    ran (exec .planeDrain (firing 0x0112020000000000 { Elem.zero with queue := [none] })) = true := by decide +kernel
theorem witness_no_accsw (id : BitVec 16) : one.tok ≠ .ctl .accsw id := by simp [one]
theorem witness_AtomOperations : Elem.zero.ends = false ∧ Elem.zero.cnt + 1 < (2 : BitVec 32).toNat ∧
    (1 : BitVec 32).toNat ≤ Elem.zero.cnt + 1 ∧ (longIn 1).due = 1 ∧
    ((firing 0x0510040000000000 .zero).fenv ((firing 0x0510040000000000 .zero).cur.w.param.toNat % 4) 0).fmt = 0 ∧
    ((firing 0x0510040000000009 .zero).fenv ((firing 0x0510040000000009 .zero).cur.w.param.toNat % 4) 0).fmt ≠ 0 ∧
    Elem.zero.cnt + 1 < 9 / 4 ∧ Elem.zero.stage = [] ∧ Elem.zero.stage.length < 7 ∧ (List.replicate 7 (1 : Word)).length = 7 ∧
    (firing 0x0810040000000000 .zero).me.run.grant.contains 0 = true ∧ Run.empty.grant.contains 0 = false ∧
    Elem.zero.pats.length + 1 < (2 : BitVec 32).toNat % 2 ^ 16 ∧ (0x200 : BitVec 32).extractLsb' 0 9 = 0 ∧
    (psclAtom (longIn 1).hdr 1 0x3F800000).1 < 2 ^ 32 ∧ (pnegAtom (longIn 1).hdr 0x3F800000).1 < 2 ^ 32 ∧
    (canonAtom (longIn 1).hdr 0x3F800000).1 < 2 ^ 32 := by decide +kernel
/-- PMSK of mask 1 with the bus and without; the last atom of its burst sends the burst, under a header of its own. -/
def masked (due : Nat) (g : List Nat) : State := { firing 0x0D10040000000001 { Elem.zero with a := [one], ia := longIn due } with
  me := { (firing 0x0D10040000000001 { Elem.zero with a := [one], ia := longIn due }).me with run :=
    { (firing 0x0D10040000000001 { Elem.zero with a := [one], ia := longIn due }).me.run with grant := g } } }
def elemAfter (r : Res) : Option (Nat × Nat × Nat) := match r with
  | .next t => some ((t.me.run.elem 0).a.length, (t.me.run.elem 0).pats.length, (t.me.run.elem 0).out.length)
  | _ => none
theorem witness_AtomOperations_mask : (0x101 : BitVec 32).extractLsb' 0 9 ≠ 0 ∧ (masked 2 [0]).cur.w.param.extractLsb' 0 9 ≠ 0 ∧
    Elem.zero.queue = [] ∧ elemAfter (exec .pmsk (masked 2 [])) = some (1, 0, 0) ∧
    elemAfter (exec .pmsk (masked 2 [0])) = some (0, 1, 0) ∧ elemAfter (exec .pmsk (masked 1 [0])) = some (0, 0, 2) := by decide +kernel
/-- FiringTakesEffect: counters on and off at the events of a firing. -/
theorem test_firing_counts : (match exec .eadd ((firing 0x1012040000000000 (fed [one] [one] [])).mapCtx fun c => { c with ctrs :=
      #v[⟨0x010, true, 7, none⟩, ⟨0x012, true, 0xFFFFFFFFFFFF, none⟩, ⟨0x010, false, 7, none⟩, ⟨0x014, true, 7, none⟩] }) with
    | .next t => t.me.ctx.ctrs.toList.map (·.val)
    | _ => []) = [8, 0, 7, 7] := by decide +kernel
theorem witness_RoutingOperations : (Tok.ctl .accsw 3).observes = false ∧ (Tok.ctl (.tag 0 0 0 0) 3).observes = false ∧
    (Tok.ctl (.mark 1) 3).observes = true ∧ (0 : BitVec 32).getLsbD 0 = false ∧ (1 : BitVec 32).getLsbD 0 = true ∧
    Elem.zero.tie = false ∧ ({ Elem.zero with tie := true } : Elem).tie = true ∧ Elem.zero.lock = none ∧ Elem.zero.turn = 0 ∧ 2 ≤ (longIn 2).due ∧ (longIn 2).mark = false ∧
    (0x100000000 : Word).toNat / 2 ^ 32 = (0x1FFFFFFFF : Word).toNat / 2 ^ 32 ∧
    (0x0FFFFFFFF : Word).toNat / 2 ^ 32 < (0x100000000 : Word).toNat / 2 ^ 32 ∧ (1 : BitVec 32).extractLsb' 0 2 = 1 ∧
    (6 : BitVec 32).extractLsb' 0 2 = 2 ∧ (4 : BitVec 32).extractLsb' 0 2 = 0 ∧
    ran (exec .join (firing 0x3012040000000001 { fed [one] [one] [] with ia := longIn 2, ib := longIn 2 })) = true := by
  decide +kernel

/-- AddressGenerators: passes to come and none, passes without end, units at aligned addresses and others, an index below LIM and
one at it, a unit collected and one that is not. -/
def looped (w : Nat) (x : Elem) (l : LoopEntry) : State := { page0 with
  me := { (firing w x).me with run := { (firing w x).me.run with
    act := { (firing w x).me.run.act with loops := [l], base := 0x4000000100 } } }
  cur := ⟨0, 0, eFields (BitVec.ofNat 64 w), .none⟩ }
def loop1 (off : Int) : LoopEntry := ⟨1, 1, 2, 1, off, [2], [4], 8⟩
theorem witness_AddressGenerators :
    (looped 0x3900040000000000 .zero (loop1 0)).me.run.act.loops[agEntry (looped 0x3900040000000000 .zero (loop1 0)).cur.w]? =
      some (loop1 0) ∧ Elem.zero.waiting = true ∧ Elem.zero.bursts < (loop1 0).passes ∧
    (loop1 0).passes ≤ ({ Elem.zero with bursts := 1 } : Elem).bursts ∧ ({ loop1 0 with passes := 0 } : LoopEntry).passes = 0 ∧
    (looped 0x3900040000000000 .zero (loop1 0)).cur.w.param.getLsbD 9 = false ∧
    (looped 0x3900040000000000 .zero (loop1 0)).cur.w.param.getLsbD 8 = false ∧
    (0x4000000100 + BitVec.ofInt 64 (0 + dotCtr [0] [4]) : Word).toNat % 4 = 0 ∧
    (0x4000000100 + BitVec.ofInt 64 (1 + dotCtr [0] [4]) : Word).toNat % 4 ≠ 0 ∧
    moved (engRead (latchPlace 0) (looped 0x3900040000000000 { Elem.zero with waiting := false, ctr := [0], latches :=
      [(0x4000000100 / 2 ^ 30, 30, ordPte)] } (loop1 0)) 0x4000000100 4 0 0) = true ∧
    moved (engWrite (latchPlace 0) (looped 0x3A10000000000000 { Elem.zero with waiting := false, ctr := [0], stage := [7], latches :=
      [(0x4000000100 / 2 ^ 30, 30, ordPte)] } (loop1 0)) 0x4000000100 (leBytes 4 7)) = true ∧
    (loop1 0).usz ≤ [(7 : Word)].length ∧ (0 : Nat) < (loop1 0).usz ∧ (8 : Word).toNat % 2 ^ 32 = (loop1 0).lim ∧
    (7 : Word).toNat % 2 ^ 32 < (loop1 0).lim ∧ page0.me.eff.det = false ∧ Elem.zero.stopped = false ∧
    (0x4000000100 : Word).toNat % min (2 ^ 2) 8 = 0 ∧ ({ loop1 0 with usz := 2 } : LoopEntry).usz > 0 + 1 ∧
    (0x100 : BitVec 32).getLsbD 8 = true ∧ hdrLong (mkHdr 127 1 false false 16) = false ∧ (longIn 1).due = 1 := by decide +kernel

/-- TokensInMotion: a MARK and a RELATCH at an element, seen before and not; two neighbours, the second with room and without;
a port's word; a TAG at an output port; the ingress meter with nothing and with one port to let in, LEVEL below its weight and at it. -/
def pair (x y : Elem) : State := { State.reset.placeElement 0x4210040000000000 with
  me := { (State.reset.placeElement 0x4210040000000000).me with run := { (State.reset.placeElement 0x4210040000000000).me.run with
    act := { (State.reset.placeElement 0x4210040000000000).me.run.act with cells := [1, 1] }
    elems := [x, y] } }
  cur := ⟨0, 0, eFields 0x4210040000000000, { EvArg.none with lend := .out 0 2 }⟩ }
def ported (p : Port) : State := { firing 0x4250040000000000 .zero with
  me := { (firing 0x4250040000000000 .zero).me with run := { (firing 0x4250040000000000 .zero).me.run with ports := [p] } }
  chans := [chanC] }
def outE : OutTok := ⟨.data 1, 4, false, false⟩
theorem witness_TokensInMotion :
    (fed [⟨.ctl (.mark 1) 3, 0⟩] [] []).slot .a = [⟨.ctl (.mark 1) 3, 0⟩] ∧ (Tok.ctl (.relatch 0 0) 3).observes = true ∧
    Elem.zero.ids.contains 3 = false ∧ ({ Elem.zero with ids := [3] } : Elem).ids.contains 3 = true ∧
    isCell (eOp 0x4210040000000000).toNat = false ∧ outDirs 0x4210040000000000 ≠ [] ∧
    outE.dirs = BitVec.ofNat 4 (2 ^ (2 : BitVec 2).toNat) ∧ neighbour 8 0 2 = some 1 ∧
    (pair { Elem.zero with out := [outE] } .zero).me.lanes = 8 ∧
    1 < (pair { Elem.zero with out := [outE] } .zero).me.run.elems.length ∧
    opdOf (eFields ((pair .zero .zero).me.run.act.wordOf 1)) (opposite 2 + 1) = some .a ∧
    2 ≤ ((pair .zero (fed [one, one] [] [])).me.run.elem 1).a.length ∧ ((pair .zero .zero).me.run.elem 1).a.length < 2 ∧
    (ported { Port.reset with inq := [(.data 1, 1)] }).me.run.act.fed 8 0 0 false = some 0 ∧
    (ported .reset).me.run.decl 0 = ⟨false, false, 0, 0, false, 0⟩ ∧
    opdOf (eFields ((ported .reset).me.run.act.wordOf 0)) 5 = some .a ∧
    ((ported { Port.reset with ctlq := [(0, .ctl (.tag 0 9 1 0) 3)] }).me.run.port 0).ctlq = [(0, .ctl (.tag 0 9 1 0) 3)] ∧
    Cmd.slotInFlight { cmdOf 0x0C [] .running with sub := 1 } = true ∧ (cmdOf 0x0C [] .running).slotInFlight = false ∧
    (ported .reset).myChan 0 = some chanC ∧ (ported .reset).chanRoom chanC 1 = true ∧ (ported .reset).consumerClosed chanC = false ∧
    ({ Die.reset with igctl := 0x0000010000010001 } : Die).igctl.getLsbD 0 = true ∧
    igOffers ready 0 { Die.reset with igctl := 0x0000010000010001 } = [] ∧
    igOffers (ported { Port.reset with offer := [(.data 1, 1)] }) 0 { Die.reset with igctl := 0x0000010000010001 } = [(0, ⟨0, 0, 0⟩, 0)] ∧
    (ported .reset).task? ⟨0, 0, 0⟩ = some (ported .reset).me ∧
    (1 : BitVec 48).toNat < 256 * min (((0x01010101 : Word).extractLsb' 0 8)).toNat 1 ∧
    256 * min (((0x01010101 : Word).extractLsb' 0 8)).toNat 1 ≤ (256 : BitVec 48).toNat := by decide +kernel

/-! ### Exchanges, events -/

/-- ExchangesWithPeers: descriptors, a face that can be sent, a message that has come with its tag and one of another length, a
group of two members that have contributed. -/
def halo1 : List Byte := leBytes 8 0 ++ leBytes 8 64 ++ leBytes 8 4 ++ leBytes 8 7 ++ List.replicate 32 0
def coll1 (g : Nat) : List Byte := leBytes 8 0 ++ leBytes 8 (1 + 2 ^ 20 + g * 2 ^ 32) ++ List.replicate 48 0
def haloC : Chan := { chanC with halo := true }
def msg4 : HaloMsg := ⟨7, [1, 2, 3, 4], 0, ⟨0, 0, 0⟩, 1, false, 0⟩
def member (i : BitVec 32) : Task := { bareTask with
  id := ⟨0, 0, i⟩
  cmds := [{ cmdOf 0x19 (coll1 0) .running with sub := 1, left := leBytes 8 5, mems := [0, 0x100000000] }] }
def group0 : List Byte := leBytes 8 2 ++ leBytes 8 0x4000000200
def grouped2 : State := { (page0.setFn 0 { page0.fn 0 with cgt := 0x4000010001 }) with
  me := member 0
  tasks := [member 1]
  mem := memPut (memPut page0.mem (keyOf spHbm 0x1000010000) group0) (keyOf spHbm 0x1000000200) (leBytes 8 0 ++ leBytes 8 (2 ^ 32)) }
/-- A second member with another NREC. -/
def other : Task := { member 1 with cmds := [{ cmdOf 0x19 (leBytes 8 0 ++ leBytes 8 (2 + 2 ^ 20) ++ List.replicate 48 0) .running with
  sub := 1, left := leBytes 16 5, mems := [0, 0x100000000] }] }
/-- The members that a sum is asked of, the shares of the package, and whether lists differ. -/
def sumOf (s : State) : Option (List Word × List (TaskId × Nat) × Bool) := (s.collList 0 0).map fun ms =>
  (ms, (s.localShares 0 ms).map fun y => (y.1, y.2.2.nrec), s.collClash 0 ms (s.localShares 0 ms))
theorem witness_ExchangesWithPeers : (haloOf halo1).map (fun d => (d.nosend, d.norecv, d.len, d.tag)) = some (false, false, 4, 7) ∧
    ({ page0 with chans := [haloC] } : State).myChan 0 = some haloC ∧ haloC.msgWire = [] ∧
    ({ page0 with chans := [haloC] } : State).consumerClosed haloC = false ∧
    moved (engRead (enginePlace false) page0 (0x4000000100 + BitVec.ofInt 64 0) 4 0 0) = true ∧ msg4.tag = 7 ∧ msg4.bytes.length = 4 ∧
    moved (engWrite (enginePlace false) page0 (0x4000000100 + BitVec.ofInt 64 64) [1, 2, 3, 4]) = true ∧
    ready.msgAccepted (cmdOf 0x18 halo1 .running) = true ∧
    ({ ready with chans := [{ haloC with msgWire := [msg4] }] } : State).msgAccepted (cmdOf 0x18 halo1 .running) = false ∧
    (collOf (coll1 0)).map (fun d => (d.op, d.nrec, d.off)) = some (1, 1, 0) ∧
    (0x4000000100 + BitVec.ofInt 64 0 : Word).toNat % 8 = 0 ∧ (0x4000000101 + BitVec.ofInt 64 0 : Word).toNat % 8 ≠ 0 ∧
    ({ page0 with chans := [{ haloC with closed := true, strict := true }] } : State).consumerClosed
      { haloC with closed := true, strict := true } = true := by decide +kernel
/-- ExchangesWithPeers: all members have contributed, one is missing, their NREC differ, one saw another list; the list is read of a
group that can be, and a member of another package has its list in the same form. -/
def seen (ms : List Word) : Task := { member 1 with cmds := [{ cmdOf 0x19 (coll1 0) .running with
  sub := 1, left := leBytes 8 5, mems := ms }] }
theorem witness_ExchangesWithPeers_lists : collMembers grouped2 0 0 = some [0, 0x100000000] ∧
    grouped2.peerShares 0 [0, 0x100000000] = [] ∧ (grouped2.all.map (·.id)).Nodup ∧ memPkg 0 = 0 ∧ memPkg 0x100000000 = 0 ∧
    ((grouped2.localShares 0 [0, 0x100000000]).map fun y => (y.2.2.op, y.2.2.members)) =
      [(1, [0, 0x100000000]), (1, [0, 0x100000000])] := by decide +kernel
theorem witness_ExchangesWithPeers_group :
    (∀ x ∈ ([(member 0, [member 1], [(⟨0, 0, 0⟩, 1), (⟨0, 0, 1⟩, 1)], false), (member 0, [], [(⟨0, 0, 0⟩, 1)], false),
        (member 0, [other], [(⟨0, 0, 0⟩, 1), (⟨0, 0, 1⟩, 2)], false), (member 0, [seen [0]], [(⟨0, 0, 0⟩, 1), (⟨0, 0, 1⟩, 1)], true)] :
        List (Task × List Task × List (TaskId × Nat) × Bool)),
      sumOf { grouped2 with me := x.1, tasks := x.2.1 } = some ([0, 0x100000000], x.2.2)) := by decide +kernel
theorem witness_ExchangesWithPeers_far : ∃ m : Word, memPkg m ≠ 0 := ⟨1, by decide⟩

/-- ContextEvents: a pending trap taken and none, of each class and origin; a sleeping and a stalled instruction whose condition
holds and does not; a watchdog at its interval and before. -/
def pending (c : BitVec 8) (o : BitVec 2) : State := withCtx fun x => { x with pend := [⟨c, o, 1, 0, false, false⟩] }
def waiting (w : WaitOn) (st : CtxSt) (c : Chan) : State := { (wired true c) with
  me := { (wired true c).me with ctx := { (wired true c).me.ctx with wait := w, st := st } } }
theorem witness_ContextEvents : ready.me.ctx.pend.find? ready.me.ctx.takes = none ∧
    (∀ x ∈ ([(0x0A, 1), (0x04, 1), (0x04, 2), (0x17, 3)] : List (BitVec 8 × BitVec 2)),
      (pending x.1 x.2).me.ctx.pend.find? (pending x.1 x.2).me.ctx.takes = some ⟨x.1, x.2, 1, 0, false, false⟩) ∧
    (WaitOn.chanWord 0).sleeps = true ∧ (WaitOn.wfe).sleeps = false ∧
    (waiting (.chanWord 0) .sleeping { chanC with buf := words 1 }).waitHolds = true ∧
    (waiting (.chanWord 0) .sleeping chanC).waitHolds = false ∧ (waiting .wfe .runnable chanC).waitHolds = false ∧
    ({ waiting .wfe .runnable chanC with me := { (waiting .wfe .runnable chanC).me with
      ctx := { (waiting .wfe .runnable chanC).me.ctx with latch := true } } } : State).waitHolds = true ∧
    (withCtx fun x => { x with dbg := 2, pend := [⟨0x17, 2, 0, 0, false, true⟩] }).me.ctx.pend.find?
      (withCtx fun x => { x with dbg := 2, pend := [⟨0x17, 2, 0, 0, false, true⟩] }).me.ctx.takes = none ∧
    WaitOn.wfe ≠ .start ∧ WaitOn.wfe ≠ .none ∧ ({ Eff.zero with wdog := 1 } : Eff).wdog ≠ 0 ∧ (waiting .wfe .runnable chanC).me.ctx.lastRetire + 1 * 65536 = 65536 ∧
    (waiting .wfe .runnable chanC).me.stop = .none ∧ (0 : Fin 4).val = EvArg.none.n ∧
    ready.me.ctx.ctrs[(0 : Fin 4)].wrapped = none := by decide +kernel

/-- ArrivalsOnChannels: nothing on the way, a word or a pair on the way to an open and a closed end, with room, with none and no
budget, with none and a budget; a halo message that is waited for and one that is not; the interval of SPILLFULL. -/
def arriving (c : Chan) (b : Blk) : State := { ready with
  chans := [c]
  blks := [b]
  cur := { ready.cur with arg := EvArg.none } }
def rich : Blk := { blk0 with eff := { Eff.zero with spill := 1, wdog := 1 } }
def full8 : Chan := { chanC with buf := words 8, wire := words 1 }
theorem witness_ArrivalsOnChannels : (arriving chanC blk0).chan? 0 0 (BitVec.ofNat 12 0) = some chanC ∧ chanC.wire = [] ∧
    (arriving { chanC with wire := words 1 } blk0).bufFree { chanC with wire := words 1 } = 8 ∧
    (arriving full8 blk0).bufFree full8 = 0 ∧ full8.fault = false ∧ (arriving full8 blk0).spillFits 0 0 8 = false ∧
    (arriving full8 rich).spillFits 0 0 8 = true ∧ full8.wire = ⟨7, false, 3⟩ :: [] ∧ chanC.msgWire = [] ∧
    (arriving { haloC with msgWire := [msg4] } blk0).haloWaiting { haloC with msgWire := [msg4] } 7 = false ∧
    ({ arriving { haloC with msgWire := [msg4] } blk0 with me := { bareTask with cmds := [cmdOf 0x18 halo1 .running] } } :
      State).haloWaiting { haloC with msgWire := [msg4] } 7 = true ∧
    msgWords msg4.bytes.length ≤ (arriving { haloC with msgWire := [msg4] } blk0).bufFree { haloC with msgWire := [msg4] } ∧
    (arriving full8 rich).blk? 0 0 = some rich ∧ rich.eff.wdog ≠ 0 ∧
    (arriving full8 blk0).areaFull { full8 with fullSince := some 0 } = true ∧ (arriving full8 rich).areaFull full8 = false ∧ ({ full8 with fullSince := some 0 } : Chan).reported = false ∧
    (arriving full8 blk0).wordsFit full8 1 = false ∧ (arriving chanC rich).wordsFit chanC 1 = true := by decide +kernel
/-- A spill write goes well or faults: the free value leaves it open. -/
theorem witness_spill (n : Nat) : Config.spillFaults n = true ∨ Config.spillFaults n = false := by
  cases Config.spillFaults n <;> simp

/-! ### Deterministic mode, launches, the life of a task, allocation -/

/-- Two tasks of a deterministic block, both at their SYNCD, with writes that meet in a byte. -/
def detBlk : Blk := { blk0 with eff := { Eff.zero with det := true, tcount := 2 } }
def party (i : BitVec 32) (arr : Bool) (ws : List WByte) : Task := { bareTask with
  id := ⟨0, 0, i⟩
  eff := detBlk.eff
  ctx := { bareTask.ctx with wait := .syncd, st := .sleeping }
  det := { DetTask.zero with arrived := arr, writes := ws } }
def rnd (i : BitVec 32) : AtomRec := ⟨i, key0, 0x4000000100, 8, 0, 1, 0, 1, none, 0⟩
def det2 (arr : Bool) (rs : List AtomRec) : State := { State.reset with
  me := party 0 arr [⟨key0, 0x4000000100, 1⟩]
  tasks := [party 1 true [⟨key0, 0x4000000100, 2⟩, ⟨key0 + 1, 0x4000000101, 3⟩]]
  blks := [detBlk]
  groups := [⟨0, 0, 0, [], rs, []⟩]
  cur := ⟨0, 0, ⟨0, 0, 0, 0, 0, 0⟩, { EvArg.none with k := key0, n := 8 }⟩ }
theorem witness_DeterministicMode : (det2 true []).me.eff.det = true ∧ ready.me.eff.det = false ∧ ready.me.ctx.held = [] ∧
    (∀ y ∈ (withCtx fun c => { c with nest := 1, held := [(0, .syncd)] }).me.ctx.held, y.1 < 1) ∧
    ((1, WaitOn.syncd) ∉ (withCtx fun c => { c with nest := 1, held := [(0, .syncd)] }).me.ctx.held) ∧
    ((0, WaitOn.syncd) ∈ (withCtx fun c => { c with held := [(0, .syncd)] }).me.ctx.held) ∧ (det2 true []).me.ctx.wait = .syncd ∧
    (det2 true []).neverMeets 0 0 = false ∧ (det2 true []).me.det.arrived = true ∧ (det2 false []).me.det.arrived = false ∧ (det2 true []).me.ctx.rep.count = 0 ∧
    (det2 true []).me.det.conflict = none ∧ (detOf ready).me.ctx.wait ≠ .syncd ∧ (detOf ready).me.busy = false ∧
    (detOf full16).me.busy = true ∧ (det2 true []).groupOf 0 0 = some ⟨0, 0, 0, [], [], []⟩ ∧ (det2 true []).blk? 0 0 = some detBlk ∧
    (det2 true []).party 0 0 = [(det2 true []).me, party 1 true [⟨key0, 0x4000000100, 2⟩, ⟨key0 + 1, 0x4000000101, 3⟩]] ∧
    detBlk.eff.tcount.toNat = 2 ∧ ((det2 true []).fn 0).rpbusy = false ∧ Memory.wf (det2 true []).mem = true ∧
    ((det2 true []).me.exited = false) ∧ (rnd 0).idx < (rnd 1).idx ∧ (rnd 0).loc = (det2 true []).cur.arg.k ∧
    detBlk.eff.tcount.toNat ≤ (((det2 true [rnd 0, rnd 1]).party 0 0).filter fun t =>
      t.id.idx = 0 ∨ t.id.idx = 1 ∨ t.det.arrived = true ∨ t.exited = true).length ∧
    (({ det2 false [rnd 0, rnd 1] with tasks := [] } : State).party 0 0).length < detBlk.eff.tcount.toNat ∧
    ran (exec .intervalMerge (det2 true [])) = true := by decide +kernel

/-- LaunchAndWalk: a queued root, a block that passes every check and one that offends, a queue with room and a full one, a
DLAUNCH of each outcome, a launch to acknowledge. -/
def image256 (w0 khdr n : Nat) : List Byte :=
  leBytes 8 w0 ++ List.replicate 36 0 ++ [1] ++ List.replicate 27 0 ++ leBytes 8 khdr ++ leBytes 4 0 ++ leBytes 4 n ++ List.replicate 168 0
def launching (bs : List Byte) : State := ({ page0 with mem := memPut page0.mem (keyOf spHbm 0x1000001000) bs }).setFn 0
  { page0.fn 0 with launches := [0x4000001000], mills := [0] }
def entry0 : QEntry := ⟨0, 0, 0, 1, 0, 0, 0⟩
theorem witness_LaunchAndWalk : (launching []).unentered 0 = [] ∧
    ({ ready with blks := [{ blk0 with eff := { Eff.zero with tcount := 1 }, st := .idle }] } : State).unentered 0 ≠ [] ∧ ((launching []).fn 0).launches = [0x4000001000] ∧ (page0.fn 0).launches = [] ∧
    (match devRead (launching (image256 1 0x4000002000 1)) 0 0x4000001000 256 with
      | .ok bs => bs
      | .error _ => []) = image256 1 0x4000002000 1 ∧
    (match devRead page0 0 0x80 256 with
      | .ok _ => 0
      | .error e => e.1) = 4 ∧
    blkOffence page0 0 none (image256 1 0x4000002000 1) = none ∧ blkOffence page0 0 none (image256 2 0x4000002000 1) = some 1 ∧
    dword (image256 1 0x4000002000 1) 0x10 = 0 ∧ (mkBlk 0 0 ⟨0, 0, none, 0⟩ (image256 1 0x4000002000 1) 0).isNode = true ∧
    (mkBlk 0 0 ⟨0, 0, none, 0⟩ (image256 1 0x4000002000 1) 0).eff.tcount = 1 ∧
    ((Die.reset.queue.filter fun e => e.prio == 0).length < 4096) ∧
    4096 ≤ ((List.replicate 4096 entry0).filter fun e => e.prio == 0).length ∧
    (0x4000001000 : Word).extractLsb' 0 8 = 0 ∧ (0x4000001001 : Word).extractLsb' 0 8 ≠ 0 ∧
    (match taskBlock (launching (image256 1 0x4000002000 1)) 0x4000001000 with
      | .ok bs _ => bs
      | _ => []) = image256 1 0x4000002000 1 ∧
    (match taskBlock page0 0x80 with
      | .fault _ c _ => c
      | _ => 0) = 4 ∧
    overBudget Eff.zero (image256 1 0x4000002000 1) = none ∧
    overBudget Eff.zero (leBytes 8 0x10001 ++ List.replicate 24 0 ++ leBytes 8 1 ++ List.replicate 216 0) = some 0 ∧
    (({ blk0 with started := false, cut := [0, 1] } : Blk).started = false) ∧ BlkSt.over .running = false ∧
    (0 : Nat) ∈ ({ blk0 with cut := [0, 1] } : Blk).cut ∧
    (match (launching (image256 2 0x4000002000 1)).linkTree taskBlock true 0x4000001000 with
      | .ok (x, _) => x
      | .error _ => some 99).isSome = true := by decide +kernel
/-- LaunchAndWalk: a DLAUNCH whose block is read and whose LINK leads to a block that has to wait. -/
def linkWaits (s : State) : Bool := match s.linkTree taskBlock true 0x4000001000 with
  | .error _ => true
  | .ok _ => false
def dlaunching : State :=
  let bs := leBytes 8 5 ++ leBytes 8 0x4000005000 ++ leBytes 8 0xFFFFFFFFFFE00000 ++ (image256 1 0x4000002000 1).drop 24
  { (launching bs).setMill 0 { page0.mill 0 with modes := (page0.mill 0).modes.set 0 1, busy := some (0, 0) } with
    blks := [{ blk0 with addr := 0x4000005000 }]
    me := { page0.me with id := ⟨0, 0x4000005000, 0⟩ } }
theorem witness_LaunchAndWalk_waits : (match taskBlock dlaunching 0x4000001000 with
      | .ok bs _ => overBudget dlaunching.me.eff bs
      | _ => some 9) = none ∧ dlaunching.me.eff.det = false ∧ linkWaits dlaunching = true := by decide +kernel
/-- The same: a block in another package's object to which no path is left. -/
theorem witness_LaunchAndWalk_severed (h : 255 ≤ (Config.remoteSize farSlot.id).toNat) :
    taskBlock (scmAt 1) 0xFFFFFE0000000000 = .sever 0xFFFFFE0000000000 := by
  have r : (scmAt 1).reaches 1 = false := by decide +kernel
  have b : (scmAt 1).heldBack 0xFFFFFE0000000000 256 false = false := by decide +kernel
  have p (x : Word) (o : Nat) (hc : canonical x = true) (hw : inWindow x = false) (hs : inSluice x = true)
      (hk : (x.toNat - sluiceBase) / 2 ^ 24 = 0) (ho : x.toNat % 2 ^ 24 = o) (hl : o ≤ 255) :
      place (scmAt 1) x 1 .load = .ok (scmAt 1) (.remote 1 farSlot.id o) := by
    have f : (scmAt 1).me.window.find? (fun w => w.slot == 0) = some farSlot := by decide +kernel
    have n : (farSlot.pkg != (scmAt 1).wh.pkg) = true := by decide +kernel
    rw [place, if_neg (by simp [hc]), if_neg (by simp [hw]), if_pos hs, placeSluice]
    simp only [hk, ho, f]
    rw [if_pos n, if_neg (by omega), if_neg (by decide)]
    rfl
  rw [taskBlock, ordinaryRead, show rangePieces 0xFFFFFE0000000000 256 = [(0xFFFFFE0000000000, 256)] by decide +kernel, loadPieces,
    placeRange, p 0xFFFFFE0000000000 0 (by decide) (by decide) (by decide) (by decide) (by decide) (by decide),
    show (0xFFFFFE0000000000 : Word) + BitVec.ofNat 64 (256 - 1) = 0xFFFFFE00000000FF by decide]
  dsimp only
  rw [p 0xFFFFFE00000000FF 255 (by decide) (by decide) (by decide) (by decide) (by decide) (by decide)]
  dsimp only
  rw [b, State.severed, r]
  simp

/-- A launch is cut across no die or across two at least: the free value leaves it open. -/
theorem witness_cut (n : Nat) (root : Word) : cutDies n root = [] ∨ 2 ≤ (cutDies n root).length := by
  by_cases h : ((List.range Config.dies).filter fun d => (Config.launchCut n root).getLsbD d).length ≤ 1
  · exact .inl (by simp [cutDies, h])
  · exact .inr (by simp only [cutDies, h, if_false]; omega)

/-- TaskLife: an image that loads and one that does not; tasks placed, swapped out, draining, at rest and at work, being saved. -/
def image1 : List Byte := [(9 : Word), 0x0001000100000001, 0x0000020000000000, 0, 0x0000008000000040, 0x00000000000000C0,
  0x000001C000000000, 0, 0, 0x0000000100000000].flatMap (fun v => leBytes 8 v.toNat) ++ List.replicate 432 0
def starting (bs : List Byte) : State := { page0 with
  mem := memPut page0.mem (keyOf spHbm 0x1000001000) bs
  me := { page0.me with cfg := 0x4000001000, ctx := { page0.me.ctx with st := .free } } }
/-- The task swapped out, with the identity its image has; what its plane loads to when it is restored. -/
def swappedOut (i : BitVec 64) : State := { starting image1 with me := { (starting image1).me with
  ctx := { page0.me.ctx with st := .swapped }
  run := { Run.empty with act := { Plane.empty with addr := 0x4000001000, id := i } } } }
def restored (s : State) : Nat × Bool := match s.loadFrom 0x4000001000 0 with
  | .ok p u => (p.id.toNat, u.me.run.inact.valid)
  | _ => (0, true)
theorem witness_swapped_plane : (swappedOut 9).dropPlane (swappedOut 9).me.run.act = swappedOut 9 := by decide +kernel
theorem witness_restored : restored (swappedOut 9) = (9, false) ∧ (swappedOut 9).me.run.act.id = 9 ∧
    restored (swappedOut 8) = (9, false) ∧ (swappedOut 8).me.run.act.id ≠ 9 := by decide +kernel
theorem witness_TaskLife : (starting image1).me.st = .placed ∧ (starting image1).me.ctx.st = .free ∧
    (match (starting image1).loadFrom 0x4000001000 0 with
      | .ok p _ => p.id
      | _ => 0) = 9 ∧
    (match (starting []).loadFrom 0x4000001000 0 with
      | .failed c u => (c, u.launchStarted)
      | _ => (0, false)) = (0x0C, true) ∧
    (match (bankAt 1 (some (0, 0)) 0).loadFrom 0xFFFFFFFFFFE00000 0 with
      | .wait => true
      | _ => false) = true ∧
    (swappedOut 9).me.ctx.st = .swapped ∧
    ready.me.run.stopAt = none ∧ ready.me.ctx.pend = [] ∧ ({ ready.me with saving := true } : Task).saving = true ∧
    ready.me.saving = false ∧ ready.me.eff.det = false ∧ ready.me.det = { DetTask.zero with interval := ready.me.det.interval } ∧
    ready.me.busy = false ∧ full16.me.busy = true ∧ ready.me.stop = .none ∧ ready.me.run.tagWaits = false ∧
    (ready.fn 0).rpbusy = false ∧ ({ ready with blks := [blk0] } : State).blk? 0 0 = some blk0 ∧ ready.me.moveTo = none ∧
    ready.me.ctx.st ≠ .free ∧ ready.me.ctx.st ≠ .swapped ∧ ready.me.st = .placed := by decide +kernel
/-- A save image is written or its write fails: the free value leaves it open. -/
theorem witness_save (n : Nat) : Config.saveFails n = true ∨ Config.saveFails n = false := by
  cases Config.saveFails n <;> simp

/-- TaskLife: an exited task of a deterministic block with nothing at work; a save with room in the queue that it enters and without,
and with a slot whose writes have still to retire. -/
def leaving : State := { detOf ready with me := { (detOf ready).me with st := .draining } }
theorem witness_TaskLife_queues : leaving.me.st = .draining ∧ leaving.me.merged = false ∧ leaving.me.eff.det = true ∧
    leaving.me.busy = false ∧ leaving.me.saving = false ∧ leaving.me.run.tagWaits = false ∧
    ({ ready with blks := [blk0] } : State).slotRetires = false ∧ ({ ready with blks := [blk0] } : State).blkDie blk0 = 0 ∧
    (({ ready with blks := [blk0] } : State).die 0).count 0 < 4096 ∧
    4096 ≤ ({ Die.reset with queue := List.replicate 4096 entry0 } : Die).count 0 ∧
    ({ ready1 { cmdOf 0x0C [] .running with base := 0x4000010000, sub := 1 } true .reset with flumes := [fl1 0 0 0] } :
      State).slotRetires = true := by decide +kernel

/-- Allocation, DrawnSlotsAreAPermutation: entries of two priorities and of age; a head whose stones the budget admits and one it
does not; a slot in ordinary and one in deterministic mode; a head held for its interval and a task to preempt. -/
def khdr1 : KHdr := ⟨0, 0, none, 0, 1, 0, false⟩
def queueing (b : Blk) : State := { ((State.reset.setDie 0 { Die.reset with queue := [entry0], holder := some (0, 0, 0, 0) }).setFn 0
  { Fn.reset with mills := [0] }) with blks := [b] }
theorem witness_Allocation : (entry0.effPrio 0 < ({ entry0 with prio := 1 } : QEntry).effPrio 0) ∧
    ((queueing blk0).die 0).queue = [entry0] ∧ (∀ k, k < 8 → k ≠ 0 → ((queueing blk0).die k).queue = []) ∧
    (queueing { blk0 with hdr := some khdr1 }).blk? 0 0 = some { blk0 with hdr := some khdr1 } ∧
    (queueing blk0).task? ⟨0, 0, 0⟩ = some Task.idle ∧
    ({ queueing { blk0 with addr := 0x100, hdr := some khdr1 } with me := Task.idle } : State).task? ⟨0, 0x100, 0⟩ = none ∧
    (∃ x ∈ (queueing blk0).lineage 0 0, x.eff.stones < x.useStones + 1) ∧
    (∀ x ∈ (queueing { blk0 with eff := { Eff.zero with stones := 1 } }).lineage 0 0, x.useStones + 1 ≤ x.eff.stones) ∧
    (queueing blk0).millsOf blk0 = [(0, 0)] ∧ (slotStarts 1).find? (fun i => (queueing blk0).slotFree 0 i 1) = some 0 ∧
    (queueing blk0).freeCtx 0 = some 0 ∧ ((queueing blk0).fn 0).mills[0]? = some 0 ∧
    ((queueing blk0).mill 0).open false = true ∧ (queueing blk0).slotFree 0 (1 * (drawSlot 0 (1 * (16 / 1)) 0 % (16 / 1))) 1 = true ∧
    drawSlot 0 (1 * (16 / 1)) 0 / (16 / 1) = 0 ∧
    ((queueing blk0).drawnSlot { blk0 with eff := { Eff.zero with cmills := 1 } } 1 0).isSome = true ∧
    ((queueing blk0).die 0).holder = some (0, 0, 0, 0) ∧
    ((queueing blk0).die 0).queue.find? (fun e => e.fn == 0 && e.blk == 0 && e.next == 0) = some entry0 ∧
    (({ queueing blk0 with me := bareTask } : State).victim blk0 2).isSome = true ∧ (13 ≤ 2 ^ 4 ∧ ¬ 13 ≤ 2 ^ 3) := by decide +kernel

/-! ### Links, banks, tiles -/

/-- RaceLinks: flits in sequence, ahead, behind and broken, of each kind; a release that leaves handles and one that leaves none;
die links and ports that fail with a path left and without. -/
def linked : State := { (page0.setFn 0 { page0.fn 0 with llt := 0x4000010001, lports := 1 }) with
  mem := memPut page0.mem (keyOf spHbm 0x1000010010) (leBytes 8 0x0000000100000001)
  chans := [{ chanC with peer := 1 }] }
/-- Two functions on dies 0 and 1 with a channel between their nodes, and no way between the dies but their own link. -/
def chanL : Chan := { chanC with locend := true, peer := 1 }
def crossed : State := [34, 35, 36, 37, 38, 39].foldl (fun (s : State) k => s.setLink k { Link.reset with up := false })
  { ((page0.setFn 0 { page0.fn 0 with llt := 0x4000010001, mills := [0] }).setFn 1
      { page0.fn 0 with llt := 0x4000020001, mills := [264] }) with
    mem := memPut page0.mem (keyOf spHbm 0x1000010010) (leBytes 8 0x100)
    chans := [chanL, { chanC with fn := 1, peer := 1 }]
    blks := [blk0, { blk0 with fn := 1 }] }
def downed : State := State.reset.setLink 33 { Link.reset with up := false }
/-- An entry that names the peer's channel 0 under two ports. -/
def twoPorts : State := { (page0.setFn 0 { page0.fn 0 with llt := 0x4000010001, lports := 3 }) with
  mem := memPut page0.mem (keyOf spHbm 0x1000010010) (leBytes 8 0x0000000300000001) }
theorem witness_RaceLinks : Link.reset.up = true ∧ ({ Link.reset with up := false } : Link).up = false ∧
    (0 : BitVec 32) = Link.reset.got ∧ (Link.reset.got - (0xFFFFFFFF : BitVec 32)).toNat < 2 ^ 31 ∧
    2 ^ 31 ≤ (Link.reset.got - (1 : BitVec 32)).toNat ∧
    linkEntry linked 0 1 = some (1, 0, 0, 1) ∧ 
    linked.linkEnd ⟨0, true, 0, 1, 0, 0, 0, .word 0 0 5⟩ 0 0 false = some { chanC with peer := 1 } ∧ chanC.got = 0 ∧
    (chanC.got - (0xFFFFFFFF : BitVec 32)).toNat < 2 ^ 31 ∧ (aget (0, 0) linked.peers 1).2 = 0 ∧
    linked.linkPort 0 1 = some 0 ∧
    linked.chanPort { chanC with peer := 1 } 1 = some 0 ∧
    (linked.setLink 0 { Link.reset with up := false }).chanPort { chanC with peer := 1 } 1 = none ∧ linked.wh.pkg ≠ 1 ∧ linked.chan? 0 0 0 = some { chanC with peer := 1 } ∧
    1 ≤ linked.bufFree { chanC with peer := 1 } ∧
    ({ ready with objs := [{ obj5 .published with remote := [(1, 2)] }] } : State).obj? 5 = some { obj5 .published with remote := [(1, 2)] } ∧
    (obj5 .published).st ≠ .freed ∧ (1 : Nat) < 2 ∧ (obj5 .published).handles = 2 ∧
    (∀ x, x < 8 → ∀ y, y < 8 → (ready.setLink 33 { ready.link 33 with up := false }).diesMeet x y = true) ∧
    crossed.chans = [chanL, { chanC with fn := 1, peer := 1 }] ∧ crossed.joined chanL = some { chanC with fn := 1, peer := 1 } ∧
    crossed.joined { chanC with fn := 1, peer := 1 } = none ∧ crossed.dieOfNode 0 0 = 0 ∧ crossed.dieOfNode 1 0 = 1 ∧
    crossed.diesMeet 0 1 = true ∧ (crossed.setLink 33 { crossed.link 33 with up := false }).diesMeet 0 1 = false ∧
    newPort (twoPorts.setLink 0 { twoPorts.link 0 with up := false, outq := [] }) 0 ⟨0, true, 0, 0, 0, 0, 0, .word 0 0 5⟩ = some 1 ∧
    (((List.range 8).foldl (fun (s : State) c => s.setLink (32 + 8 * min 0 c + max 0 c) { Link.reset with up := false }) ready).diesMeet 0 1 =
      false) ∧ ready.chans = [] ∧ ready.objs = [] ∧ Link.reset.outq = [] ∧
    linked.cutOff (linked.setLink 0 { Link.reset with up := false }) 0 { chanC with peer := 1 } = true := by decide +kernel
/-- RaceLinks: a contribution of another package, with data and none, to members whose table gives the same list and another. -/
def shareOf (ms : List Word) (bs : List Byte) : CollShare := ⟨0, 1, 1, 0, 0, ms, 1, 1, bs⟩
theorem witness_RaceLinks_shares : (shareOf [0, 1] []).data = [] ∧
    ((shareOf [0, 0x100000000] (leBytes 8 5)).members.all fun m =>
      (otherList grouped2 (shareOf [0, 0x100000000] (leBytes 8 5)) m).isNone) = true ∧
    otherList grouped2 (shareOf [0] (leBytes 8 5)) 0 = some [0, 0x100000000] := by decide +kernel

/-- A die link whose loss parts no dies: one that had gone before. -/
theorem witness_die_link (x y : Nat) (h : downed.diesMeet x y = true) :
    (downed.setLink 33 { downed.link 33 with up := false }).diesMeet x y = true := by
  rw [show downed.setLink 33 { downed.link 33 with up := false } = downed by decide +kernel]
  exact h

/-- BanksAndTiles: selected mills and tiles and none, banks 0, 23 and 24, each refusal of R93 and each mode change of a tile, a push
program that starts and one that does not, units within the tile, past its end and taken by a run. -/
def banked (x : Mill) : State := (page0.setMill 0 x).setFn 0 { page0.fn 0 with mills := [0], tiles := [0] }
def pushing (x : Tile) (c : Cmd) : State := ((ready1 c false .reset).setTile 0 x).setFn 0 { page0.fn 0 with mills := [0], tiles := [0] }
def tile1 : Tile := { Tile.reset with mode := 1, run := true, push := pat1, ctr := [0] }
theorem witness_BanksAndTiles : (banked .reset).selMill 0 = some 0 ∧ ready.selMill 0 = none ∧ (banked .reset).selTile 0 = some 0 ∧
    ready.selTile 0 = none ∧ (0x117 : Word).extractLsb' 0 5 = 23 ∧ 24 ≤ ((0x118 : Word).extractLsb' 0 5).toNat ∧
    (0x317 : Word).extractLsb' 8 2 = 3 ∧ (0x117 : Word).extractLsb' 8 2 ≠ Mill.reset.modes[23] ∧
    (0x017 : Word).extractLsb' 8 2 = Mill.reset.modes[23] ∧ (banked .reset).bankFlume 0 23 = none ∧
    (banked .reset).bankCovered 0 23 = false ∧
    ({ banked .reset with me := { ready.me with cmds := [{ cmdOf 8 pat1 .running with foot := [⟨windowBase, windowBase, true, false⟩] }] } } :
      State).bankCovered 0 0 = true ∧
    (∀ f ∈ [{ fl1 0 0 0 with bank := some (0, 1), base := 0 }, { fl1 0 4 0 with bank := some (0, 1) }],
      ({ banked .reset with flumes := [f] } : State).bankFlume 0 1 = some f) ∧ (fl1 0 4 0).filled ≠ 0 ∧ (fl1 0 0 0).filled = 0 ∧
    (banked .reset).copiesInto (fl1 0 0 0) = false ∧ Tile.reset.busy = none ∧ tile1.mode = 1 ∧
    ({ Tile.reset with busy := some 1 } : Tile).busy.isSome = true ∧ (4 : Word).getLsbD 2 = true ∧ (0 : Word).getLsbD 2 = false ∧
    (match pushBlock withBlock 0 false 0x4000000000 with
      | .ok bs => (patOf bs).isSome
      | .error _ => false) = true ∧
    (match pushBlock page0 0 false 0x4000000000 with
      | .ok bs => (patOf bs).isSome
      | .error _ => true) = false ∧
    (match pushBlock page0 0 false 0x80 with
      | .ok _ => 0
      | .error e => e.1) = 4 ∧
    (pushing tile1 (cmdOf 8 pat1 .running)).tileFn 0 = some 0 ∧ patOf tile1.push = some ⟨1, 0, [2], [4]⟩ ∧
    (pushing tile1 (cmdOf 8 pat1 .running)).pushTask 0 0 = some ⟨0, 0, 0⟩ ∧ page0.pushTask 0 0 = none ∧
    (banked .reset).tileHolds 0 = false ∧ (page0.setTile 0 { Tile.reset with mode := 2, used := 1 }).tileHolds 0 = true ∧
    (engine (cmdOf 8 pat1 .running) false { Port.reset with offer := [(.data 1, 1)] } ready).portFree 0 = false ∧
    (pushing tile1 (cmdOf 8 pat1 .running)).portFree 0 = true ∧
    ((pushing tile1 (cmdOf 8 pat1 .running)).offer 0 [1, 2, 3, 4]).isSome = true ∧ (0 : Int) + 4 ≤ 2 ^ 20 ∧
    (2 : Int) ^ 20 < 2 ^ 20 - 4 + 8 ∧ (2 : Int) % 4 ≠ 0 ∧ (2 ^ 20 - 4 : Int) % 4 = 0 ∧ Tile.reset.mode = 0 ∧
    ({ Tile.reset with busy := some 2 } : Tile).busy = some 2 := by decide +kernel

/-! ### The host, debug, replay, the fleet -/

/-- A request of the host: its register or item, its word, whether it writes, and its bytes. -/
def asked (s : State) (n : Nat) (w : Word) (wr : Bool) (bs : List Byte) : State :=
  { s with cur := ⟨0, 0, ⟨0, 0, 0, 0, 0, 0⟩, { EvArg.none with n := n, w := w, wr := wr, bytes := bs, k := 0x100 }⟩ }
def stopped (c : BitVec 8) : State := { page0 with me := { page0.me with
  stop := .driver
  stopCause := c
  ctx := { page0.me.ctx with st := .trapped } } }
def win0 : State := page0.setFn 0 { page0.fn 0 with win := 0x4000000000 }
theorem witness_HostInterface : (stopped 4).me.resumable = true ∧ (stopped 4).me.alive = true ∧ (stopped 0x16).me.resumable = false ∧
    (stopped 0x16).me.stop ≠ .none ∧ (stopped 4).me.killable = true ∧ Task.idle.killable = false ∧
    (stopped 4).task? ⟨0, 0, 0⟩ = some (stopped 4).me ∧ ready.task? ⟨0, 0x100, 0⟩ = none ∧
    ({ Fn.reset with tcbusy := true, tcop := 0x100000000 } : Fn).tcop.extractLsb' 32 2 = 1 ∧
    ({ Fn.reset with tcbusy := true, tcop := 0x200000000 } : Fn).tcop.extractLsb' 32 2 = 2 ∧
    (∀ c ∈ page0.chans, c.fault = false) ∧ (3 : Word).extractLsb' 0 2 = 3 ∧ (0 : Word).extractLsb' 0 2 ≠ 3 ∧
    16 ≤ (List.replicate 16 (⟨0, 0, []⟩ : Unmap)).length ∧ (page0.fn 0).unmaps.length < 16 ∧
    (∀ t ∈ page0.all, t.run.act.hasGen = false) ∧ ((page0.setFn 0 { page0.fn 0 with unmaps := [⟨0, 0, []⟩] }).fn 0).unmaps.map page0.waits =
      [⟨0, 0, []⟩] ∧ (page0.waits ⟨0, 0, [(⟨0, 0, 0⟩, [(0, true)])]⟩).runs = [] ∧
    ((looped 0x3900040000000000 .zero (loop1 0)).waits ⟨0, 0, [(⟨0, 0, 0⟩, [(0, false)])]⟩).runs ≠ [] ∧
    (looped 0x3900040000000000 .zero (loop1 0)).task? ⟨0, 0, 0⟩ = some (looped 0x3900040000000000 .zero (loop1 0)).me ∧
    win0.meetsBusy 0 0x4000000100 8 = false ∧
    (home.setTile 0 { home.tile 0 with busy := some 0 }).meetsBusy 0 0x4000000100 8 = true ∧
    page0.wh.recovery = false ∧ page0.wh.shut = false ∧ ({ page0.wh with shut := true } : Wheel).shut = true ∧
    BitVec.ofInt 64 (signed 57 ((0x4000000000 : Word).extractLsb' 36 21).toNat * 2 ^ 36 + 0x100 % 2 ^ 36) = 0x4000000100 ∧
    (match devWrite win0 0 0x4000000100 [1, 2, 3, 4] with
      | .ok _ => true
      | .error _ => false) = true ∧
    (match devRead win0 0 0x4000000100 512 with
      | .ok bs => bs.length
      | .error _ => 0) = 512 ∧
    (match devWrite win0 0 0x80 [1] with
      | .ok _ => true
      | .error _ => false) = false ∧ page0.fnActive 1 = false ∧ page0.fnActive 0 = true ∧ (page0.fn 0).tcbusy = false ∧
    (0 : Word).extractLsb' 32 2 = 0 ∧ (asked page0 0x0E8 4 true []).cur.arg.n = 0x0E8 := by decide +kernel

/-- DebugRequests: a request in progress of each operation, of one task and of every task, attached and not, stopped for the debugger,
for the driver and running; an aligned buffer that is written and read and others. -/
def debugged (op : Nat) (att : Bool) (st : Stop) (data : Word) : State := ({ page0 with me := { page0.me with
  stop := st
  ctx := { page0.me.ctx with st := (if st == Stop.none then CtxSt.runnable else CtxSt.trapped), dbg := if att then 1 else 0 } } }).setFn 0
    { page0.fn 0 with dbgbusy := true, dbgop := BitVec.ofNat 64 (op * 2 ^ 32), dbgdata := data }
theorem witness_DebugRequests : (∀ op ∈ [1, 2, 3, 4, 5, 6, 7], (((debugged op true .none 0).fn 0).dbgop.extractLsb' 32 4).toNat = op ∧
      ((debugged op true .none 0).fn 0).dbgbusy = true) ∧ (0 : BitVec 32) ≠ 0xFFFFFFFF ∧
    ((0x1FFFFFFFF : Word).extractLsb' 0 32 = 0xFFFFFFFF) ∧ (debugged 1 true .none 0).task? ⟨0, 0, 0⟩ = some (debugged 1 true .none 0).me ∧
    (debugged 3 true .none 0).me.ctx.dbg.getLsbD 0 = true ∧ (debugged 3 false .none 0).me.ctx.dbg.getLsbD 0 = false ∧
    (debugged 3 true .none 0).me.st = .placed ∧ (debugged 3 true .none 0).me.ctx.pend = [] ∧ page0.me.run.stopAt = none ∧
    (match devRead page0 0 0x80 64 with
      | .ok _ => true
      | .error _ => false) = false ∧
    (debugged 4 true .debugger 0).me.stop = .debugger ∧ (debugged 4 true .debugger 0).me.ctx.st = .trapped ∧
    (debugged 3 true .driver 0).me.stop ≠ .none ∧ (0x40 : Word).extractLsb' 0 6 = 0 ∧ (0x3F : Word).extractLsb' 0 6 ≠ 0 ∧
    ready.task? ⟨0, 0x100, 0⟩ = none ∧ (match devWrite { page0 with free := 1 } 0 0x4000000000 (List.replicate 64 1) with
      | .ok _ => true
      | .error _ => false) = true ∧
    (match devWrite { page0 with free := 1 } 0 0x80 (List.replicate 64 1) with
      | .ok _ => true
      | .error _ => false) = false ∧
    (match devRead page0 0 0x4000000000 64 with
      | .ok h => (word4 h 4, dword h 16)
      | .error _ => (1, 1)) = (page0.me.id.idx, page0.me.run.act.id) ∧
    (match devRead page0 0 (0x4000000000 + (0 : BitVec 32).setWidth 64) 768 with
      | .ok bs => bs.length
      | .error _ => 0) = 768 ∧ page0.me.size < 256 := by decide +kernel

/-- TriggersAndTrace: a line with a source that holds and without, owned and not; a line on its way to its sinks; a sample due and
not; a mill with a task, without, and gated with records lost. -/
def lined (cfg : Word) : State := { (ready.setFn 0 { ready.fn 0 with trig := [(0, cfg)] }) with
  wh := { ready.wh with trigOwn := [(0, 0)] } }
def sampling (at_ : Nat) : State := { ready with me := { bareTask with
  sampleAt := at_
  ctx := { bareTask.ctx with dbg := 0x808 } } }
theorem witness_TriggersAndTrace : (lined 0x5).sources 0 0 0 2 = 0 ∧ (lined 0x3).sources 0 0 0 2 = 2 ∧ (lined 0x2).sources 0 0 0 2 = 0 ∧
    (lined 0).lineOwner 0 = some 0 ∧ (ready.die 0).trig.find? (fun x => x.1 == 0) = none ∧
    ((ready.setDie 0 { Die.reset with trig := [(0, 2, false)] }).die 0).trig.find? (fun x => x.1 == 0) = some (0, 2, false) ∧
    (0x1E0000 : Word).getLsbD 16 = false ∧ (0x1E0000 : Word).getLsbD 17 = true ∧ ready.me.ctx.dbg.getLsbD 3 = false ∧
    (sampling 0).me.ctx.dbg.getLsbD 3 = true ∧ ((sampling 0).me.ctx.dbg.extractLsb' 8 5).toNat = 8 ∧
    ready.time < (sampling 0).me.sampleAt + 2 ^ 8 ∧ ({ sampling 0 with time := 256 } : State).time = (sampling 0).me.sampleAt + 2 ^ 8 ∧
    (0x10000 : Word).extractLsb' 16 5 = 1 ∧ ready.tasks = [] ∧ ready.me.isPlaced = true ∧ dieOf ready.me.mill = 0 ∧
    ready.me.stop = .none ∧ ready.me.ctx.pend = [] ∧ ready.me.ctx.st ≠ .free ∧ (∀ x ∈ (ready.fn 0).frozenDies, x.1 ≠ 0) ∧
    (sampling 0).me.ctx.st ≠ .swapped ∧ (∃ x ∈ ready.all, x.isPlaced = true ∧ x.mill = 0) ∧
    (∀ x ∈ ready.all, x.isPlaced = true → x.mill ≠ 5) ∧ (ready.mill 5).on = true ∧
    ({ Mill.reset with on := false, lost := [(0, 3)] } : Mill).lost = [(0, 3)] := by decide +kernel

/-- TriggersAndTrace: a task stopped after a step that takes STEP in the cycle in which a line stops it. -/
def stepStop : State := { ready with me := { bareTask with
  stop := .debugger, stopCause := 0x15
  ctx := { bareTask.ctx with dbg := 3, st := .trapped } } }
theorem witness_TriggersAndTrace_late : stepStop.me.stop = .debugger ∧ stepStop.me.stopCause = 0x15 ∧ stepStop.me.isPlaced = true ∧
    stepStop.me.ctx.dbg.getLsbD 0 = true ∧ stepStop.me.ctx.lastIssue = stepStop.time ∧ stepStop.me.ctx.pend = [] := by decide +kernel

/-- ReplayOfALaunch: RUNS 0, 1, 16 and 17, a function at rest and one at work, a root that is aligned and one that is not, a pass that
has ended and one that has not, the first and the last. -/
def replaying (runs : Nat) (pass : BitVec 5) (busy : Bool) : State := State.reset.setFn 0 { Fn.reset with
  rpctl := BitVec.ofNat 64 runs
  rppass := pass
  rpbusy := busy
  rproot := 0x100 }
theorem witness_ReplayOfALaunch : (((replaying 0 0 false).fn 0).rpctl.extractLsb' 0 5).toNat = 0 ∧
    16 < (((replaying 17 0 false).fn 0).rpctl.extractLsb' 0 5).toNat ∧ (((replaying 16 0 false).fn 0).rpctl.extractLsb' 0 5).toNat = 16 ∧
    ((replaying 1 0 false).fn 0).launches = [] ∧ ((replaying 1 0 false).fn 0).live = [] ∧ (replaying 1 0 false).fnActive 0 = false ∧
    ready.fnActive 0 = true ∧ ((replaying 1 0 false).fn 0).rpctl.getLsbD 5 = false ∧ canonical (0x100 : Word) = true ∧
    (0x100 : Word).extractLsb' 0 8 = 0 ∧ (0x101 : Word).extractLsb' 0 8 ≠ 0 ∧ (replaying 2 1 true).passOver 0 = true ∧
    (replaying 2 1 false).passOver 0 = false ∧ ((replaying 2 1 true).fn 0).rpfull = false ∧
    (((replaying 2 2 true).fn 0).rpctl.extractLsb' 0 5).toNat ≤ ((replaying 2 2 true).fn 0).rppass.toNat ∧
    ((replaying 2 1 true).fn 0).rppass.toNat < (((replaying 2 1 true).fn 0).rpctl.extractLsb' 0 5).toNat := by decide +kernel

/-- ReplayOfALaunch: a counter plan that can be read and one that cannot, and a task of a pass whose image loads. -/
def planned (evt : Word) : State := page0.setFn 0 { page0.fn 0 with rpctl := 0x22, rpevt := evt, live := [], launches := [] }
def planRead (s : State) : Bool := match devRead s 0 (regBase (s.fn 0).rpevt 3) 16 with
  | .ok _ => true
  | .error _ => false
def passing : State := ({ starting image1 with blks := [blk0] } : State).setFn 0 { (starting image1).fn 0 with
  rpctl := 0x22
  rpbusy := true
  rppass := 1
  rpplan := [0x8010, 0] }
theorem witness_ReplayOfALaunch_plan : (0x22 : Word).getLsbD 5 = true ∧ ((0x22 : Word).extractLsb' 0 5).toNat = 2 ∧
    planRead (planned 0x4000000000) = true ∧ planRead (planned 0x80) = false ∧
    passing.replays 0 0 = true ∧ passing.me.st = .placed ∧ passing.me.ctx.st = .free ∧
    (match exec .taskStart passing with
      | .next t => t.me.ctx.ctrs.toList.map fun c => (c.ev, c.on)
      | _ => []) = [(0x010, true), (0, false), (0, false), (0, false)] := by decide +kernel

/-- FleetLimits: requests whose bytes are there and are not, limits at both ends of their ranges and past them, an image to stage at
its shortest and longest, a mill that is on, one that is not and one that is marked, and the timers at their ends and before. -/
theorem witness_FleetLimits : (0x00550960 : Word).extractLsb' 16 8 = 85 ∧
    ([(0x005504B0 : Word), 0x00690BB8].all fun lim => decide (lim &&& 0xFFFFFFFFFF00F000 = 0 ∧ 1200 ≤ (lim.extractLsb' 0 12).toNat ∧
      (lim.extractLsb' 0 12).toNat ≤ 3000 ∧ 85 ≤ (lim.extractLsb' 16 8).toNat ∧ (lim.extractLsb' 16 8).toNat ≤ 105)) = true ∧
    ((0x005504AF : Word).extractLsb' 0 12).toNat < 1200 ∧ 3000 < ((0x00690BB9 : Word).extractLsb' 0 12).toNat ∧
    105 < ((0x006A0BB8 : Word).extractLsb' 16 8).toNat ∧ lifeRange 2 = 12 ∧ State.reset.wh.fwbusy = false ∧ State.reset.wh.active ≤ 1 ∧
    State.reset.wh.banks.length = 2 ∧ State.reset.wh.fallbk = false ∧ State.reset.wh.millOn 0 255 = true ∧
    State.reset.wh.millOn 0 256 = false ∧ (0, 255) ∉ State.reset.wh.retiredM ∧
    (State.reset.wh.retiredM.filter fun x => x.1 == 0).length < (State.reset.wh.spares 0).length ∧
    State.reset.wh.clock < State.reset.wh.lifeAt + 60000 * (2250000 * 720720) ∧
    (∃ x ∈ [((0 : Nat), (115 : Nat))], 115 ≤ x.2) ∧ (∀ x ∈ [((0 : Nat), (114 : Nat))], x.2 < 115) ∧
    ((0x00690BB8 : Word).extractLsb' 0 12).toNat < 3001 ∧ (asked State.reset 0 0 true []).cur.arg.wr = true ∧
    (asked State.reset 0 0 true (List.replicate 4101 0)).cur.arg.bytes.length = 4101 := by decide +kernel
/-- Firmware verifies or not, a token verifies or not, a key unwraps or not: the free values leave each open. -/
theorem witness_free (k : Nat) (i : List (Nat × Byte)) (b : List Byte) (n : Nat) :
    (Config.imageVerifies k i = true ∨ Config.imageVerifies k i = false) ∧ (Config.tokenVerifies b n = true ∨ Config.tokenVerifies b n = false) ∧
    (Config.debugTokenVerifies b = true ∨ Config.debugTokenVerifies b = false) ∧
    (Config.unwrapKey b n b = none ∨ ∃ k, Config.unwrapKey b n b = some k) := by
  refine ⟨?_, ?_, ?_, ?_⟩
  · cases Config.imageVerifies k i <;> simp
  · cases Config.tokenVerifies b n <;> simp
  · cases Config.debugTokenVerifies b <;> simp
  · cases Config.unwrapKey b n b <;> simp

/-- FleetSessions: with a session and without, a partition that changes, of a function at rest and of one at work, worlds, keys, key
masks, lines, ingress words and ranges at their ends, and what the debug port is asked. -/
def session (b : List Byte) : State := asked { State.reset with wh := { State.reset.wh with session := true, nonce := some 3 } } 0 0 false b
def partReq : List Byte := [0, 32, 5] ++ [1] ++ List.replicate 263 0 ++ List.replicate 64 0 ++ [0, 0, 0]
def ranged : State := { looped 0x3900040000000000 { Elem.zero with latches := [(0x4000000100 / 2 ^ 30, 30, ordPte)] } (loop1 0) with
  wh := { ready.wh with sr := ready.wh.sr.set 0 (0x1000000001, 0x1000010000) } }
theorem witness_FleetSessions : State.reset.wh.session = false ∧ State.reset.wh.shut = false ∧ (session []).wh.session = true ∧
    (session []).wh.nonce = some 3 ∧ 334 ≤ partReq.length ∧ (partReq.getD 1 0).toNat = 32 ∧ partReq.getD 2 0 ≠ 0 ∧
    (session partReq).reqMap 3 33 264 264 = [0] ∧ (session partReq).reqMap 267 8 64 64 = [] ∧
    leNat ((partReq.drop 331).take 3) < 2 ^ 18 ∧ (∀ m ∈ [0], State.reset.wh.millOn (m / 264) (m % 264) = true) ∧
    (∀ x ∈ State.reset.fns, x.1 = 32) ∧ [0] ≠ (State.reset.fn 32).mills ∧ State.reset.fnActive 32 = false ∧ ready.fnActive 0 = true ∧
    (State.reset.fn 4).world = false ∧ (State.reset.fn 32).kmask ≠ 1 ∧
    State.reset.rangePending = false ∧ ranged.rangePending = true ∧
    ({ State.reset with lineKeys := [(5, 3)] } : State).objs = [] ∧ ((3 : BitVec 7).toNat = 3 ∧ (3 : BitVec 7).toNat ≠ 4) ∧
    ({ Die.reset with igNext := some (0, 0) } : Die).igNext = some (0, 0) ∧ ready.wh.clock < ready.wh.lastReq + 600000 * (2250000 * 720720) ∧
    ({ (session []).wh with clock := 600000 * (2250000 * 720720) } : Wheel).clock = (session []).wh.lastReq + 600000 * (2250000 * 720720) ∧
    State.reset.tap.mailbox = false ∧ (∀ t ∈ State.reset.all, t.isPlaced = false) := by decide +kernel
/-- FleetSessions: a mill marked for retirement beside a spare; worlds of each kind that change, with a task there and without; the
commands that a session allows by their first byte. -/
def marked : Wheel := { State.reset.wh with retiredM := [(0, 3)] }
theorem witness_FleetSessions_worlds : marked.millOn 0 3 = true ∧ (marked.spares 0).head? = some 256 ∧
    (([2112, 8448, 512, 18, 33] : List Nat).getD 4 0 = 33) ∧ (ready.mill 0).world = false ∧ (ready.mill 1).eworld[(0 : Fin 4)] = false ∧
    (ready.tile 5).world = false ∧ (ready.link 3).world = false ∧ (∃ t ∈ ready.all, t.isPlaced = true ∧ t.mill = 0) ∧
    (∀ t ∈ ready.all, t.onMill 7 = false) ∧ (∀ t ∈ ready.all, ready.usesTile 5 t = false) ∧ (∀ t ∈ ready.all, ready.usesPort 3 t = false) ∧
    (∃ t ∈ ready.all, ({ ready with blks := [{ blk0 with pages := [0] }] } : State).usesTile 0 t = true) ∧
    (∃ t ∈ linked.all, linked.usesPort 0 t = true) := by decide +kernel

end Sys2Proof.Tests
end

/-!
SUPPORT. Canonical memory: every operation of the model gives a canonical state from a canonical one, and every powered step
answers a next state. One lemma per operation, in the order of the model's files: `canonical_f` for an operation on states,
`answers_f` for what an instruction does.
-/

section

set_option Elab.async false

namespace Sys2Proof.Machine

/-! ## Canonical states in what an operation gives -/

/-- What is said of a state is said of either branch of a conditional. -/
theorem canonical_ite {p : Prop} [Decidable p] {s t : State} (hs : s.Canonical) (ht : t.Canonical) :
    (if p then s else t).Canonical := by
  split
  · exact hs
  · exact ht

/-- A fold over states keeps what each of its steps keeps. -/
theorem canonical_foldl {α : Type} {f : State → α → State} {l : List α} {s : State}
    (hf : ∀ {s x}, s.Canonical → (f s x).Canonical) (h : s.Canonical) : (l.foldl f s).Canonical :=
  foldl_keeps (P := State.Canonical) (fun _ _ => hf) l h

/-- A state with the memory and the groups of a canonical one. -/
theorem State.Canonical.same {s t : State} (h : s.Canonical) (hm : t.mem = s.mem := by rfl)
    (hg : t.groups = s.groups := by rfl) : t.Canonical := h.of_eq hm hg

/-- The state of an optional one is canonical. -/
def OptCanonical (o : Option State) : Prop := ∀ t, o = some t → t.Canonical

/-- The states of what a delivery gives, what it leaves where it is held back included, are canonical. -/
def BothCanonical (r : Option State × State) : Prop := OptCanonical r.1 ∧ r.2.Canonical

/-- The state of what a placing gives is canonical. -/
def Place.Canonical : Place → Prop
  | .ok s _ => s.Canonical
  | .trap s _ => s.Canonical
  | .wait _ => True

theorem Place.Canonical.ok {r : Place} {s : State} {t : Target} (h : r.Canonical) (e : r = .ok s t) : s.Canonical := by
  subst e; exact h

theorem Place.Canonical.trap {r : Place} {s : State} {c : BitVec 8} (h : r.Canonical) (e : r = .trap s c) : s.Canonical := by
  subst e; exact h

/-- The state of what a fetch gives is canonical. -/
def Fetched.Canonical : Fetched → Prop
  | .ok _ s => s.Canonical
  | .trap s _ _ => s.Canonical
  | .wait _ => True

theorem Fetched.Canonical.ok {r : Fetched} {s : State} {w : BitVec 32} (h : r.Canonical) (e : r = .ok w s) : s.Canonical := by
  subst e; exact h

theorem Fetched.Canonical.trap {r : Fetched} {s : State} {c : BitVec 8} {va : Word} (h : r.Canonical) (e : r = .trap s c va) :
    s.Canonical := by
  subst e; exact h

/-- The state of what an engine access gives is canonical. -/
def EngRes.Canonical {α : Type} : EngRes α → Prop
  | .ok _ s => s.Canonical
  | .fault s _ _ => s.Canonical
  | .wait => True

theorem EngRes.Canonical.ok {α : Type} {r : EngRes α} {s : State} {v : α} (h : r.Canonical) (e : r = .ok v s) :
    s.Canonical := by
  subst e; exact h

theorem EngRes.Canonical.fault {α : Type} {r : EngRes α} {s : State} {c : BitVec 8} {va : Word} (h : r.Canonical)
    (e : r = .fault s c va) : s.Canonical := by
  subst e; exact h

/-- The state of what a read of a block gives is canonical. -/
def BlockRead.Canonical : BlockRead → Prop
  | .ok _ s => s.Canonical
  | .fault s _ _ => s.Canonical
  | .wait _ => True
  | .sever _ => True

theorem BlockRead.Canonical.ok {r : BlockRead} {s : State} {bs : List Byte} (h : r.Canonical) (e : r = .ok bs s) :
    s.Canonical := by
  subst e; exact h

theorem BlockRead.Canonical.fault {r : BlockRead} {s : State} {c : BitVec 8} {va : Word} (h : r.Canonical)
    (e : r = .fault s c va) : s.Canonical := by
  subst e; exact h

/-- The state of what the reading of an image gives is canonical. -/
def CfgRes.Canonical : CfgRes → Prop
  | .ok _ s => s.Canonical
  | .rej s => s.Canonical
  | .ue s => s.Canonical
  | .fault s _ _ => s.Canonical
  | .wait => True
  | .sever _ => True

theorem CfgRes.Canonical.ok {r : CfgRes} {s : State} {p : Plane} (h : r.Canonical) (e : r = .ok p s) : s.Canonical := by
  subst e; exact h

theorem CfgRes.Canonical.rej {r : CfgRes} {s : State} (h : r.Canonical) (e : r = .rej s) : s.Canonical := by
  subst e; exact h

theorem CfgRes.Canonical.ue {r : CfgRes} {s : State} (h : r.Canonical) (e : r = .ue s) : s.Canonical := by
  subst e; exact h

theorem CfgRes.Canonical.fault {r : CfgRes} {s : State} {c : BitVec 8} {va : Word} (h : r.Canonical) (e : r = .fault s c va) :
    s.Canonical := by
  subst e; exact h

/-- The state of what a load for a task gives is canonical. -/
def LoadEnd.Canonical : LoadEnd → Prop
  | .ok _ s => s.Canonical
  | .failed _ s => s.Canonical
  | .wait => True
  | .sever _ => True

theorem LoadEnd.Canonical.ok {r : LoadEnd} {s : State} {p : Plane} (h : r.Canonical) (e : r = .ok p s) : s.Canonical := by
  subst e; exact h

theorem LoadEnd.Canonical.failed {r : LoadEnd} {s : State} {c : BitVec 8} (h : r.Canonical) (e : r = .failed c s) :
    s.Canonical := by
  subst e; exact h

/-- The state of what an issue leads to is canonical. -/
def Issued.Canonical : Issued → Prop
  | .ok _ s => s.Canonical
  | .trap _ _ => True
  | .wait _ => True
  | .sever _ => True

theorem Issued.Canonical.ok {r : Issued} {s : State} {q : BitVec 32} (h : r.Canonical) (e : r = .ok q s) : s.Canonical := by
  subst e; exact h

/-- The state of what a walk gives is canonical. -/
def WalkRes.Canonical : WalkRes → Prop
  | .ok _ s => s.Canonical
  | .refused _ _ s => s.Canonical
  | .wait _ => True

theorem WalkRes.Canonical.ok {r : WalkRes} {s : State} {bs : List Blk} (h : r.Canonical) (e : r = .ok bs s) : s.Canonical := by
  subst e; exact h

theorem WalkRes.Canonical.refused {r : WalkRes} {s : State} {a : Word} {c : BitVec 8} (h : r.Canonical)
    (e : r = .refused a c s) : s.Canonical := by
  subst e; exact h

/-- The state of what the fetching of an instruction gives is canonical. -/
def Next.Canonical : Next → Prop
  | .instr _ s => s.Canonical
  | .illegal _ s => s.Canonical
  | .trap s _ _ => s.Canonical
  | .wait _ => True

theorem Next.Canonical.instr {r : Next} {s : State} {i : Instr} (h : r.Canonical) (e : r = .instr i s) : s.Canonical := by
  subst e; exact h

theorem Next.Canonical.illegal {r : Next} {s : State} {w : BitVec 32} (h : r.Canonical) (e : r = .illegal w s) :
    s.Canonical := by
  subst e; exact h

theorem Next.Canonical.trap {r : Next} {s : State} {c : BitVec 8} {va : Word} (h : r.Canonical) (e : r = .trap s c va) :
    s.Canonical := by
  subst e; exact h

/-- An instruction answers a next state, and under `c` one that is canonical. -/
inductive Answers (c : Prop) : Res → Prop
  | next {t : State} (h : c → t.Canonical) : Answers c (.next t)

theorem answers_ite {c p : Prop} [Decidable p] {r q : Res} (hr : Answers c r) (hq : Answers c q) :
    Answers c (if p then r else q) := by
  split
  · exact hr
  · exact hq

/-! ## Optional states and pairs -/

theorem optCanonical_none : OptCanonical none := fun _ e => nomatch e

theorem optCanonical_some {s : State} (h : s.Canonical) : OptCanonical (some s) := by
  rintro t ⟨⟩; exact h

theorem optCanonical_map {o : Option State} {f : State → State} (hf : ∀ {t}, t.Canonical → (f t).Canonical)
    (h : OptCanonical o) : OptCanonical (o.map f) := by
  intro t e
  obtain ⟨u, hu, rfl⟩ := Option.map_eq_some_iff.1 e
  exact hf (h u hu)

theorem optCanonical_getD {o : Option State} {s : State} (ho : OptCanonical o) (h : s.Canonical) : (o.getD s).Canonical := by
  cases o with
  | none => exact h
  | some t => exact ho t rfl

theorem canonical_snd {α : Type} {r : α × State} {a : α} {s : State} (h : r.2.Canonical) (e : r = (a, s)) : s.Canonical := by
  subst e; exact h

theorem canonical_snd_ite {α : Type} {p : Prop} [Decidable p] {r q : α × State} (hr : r.2.Canonical) (hq : q.2.Canonical) :
    (if p then r else q).2.Canonical := by
  split
  · exact hr
  · exact hq

theorem BothCanonical.left {r : Option State × State} {t u : State} (h : BothCanonical r) (e : r = (some t, u)) :
    t.Canonical := by
  subst e; exact h.1 t rfl

theorem BothCanonical.right {r : Option State × State} {o : Option State} {u : State} (h : BothCanonical r) (e : r = (o, u)) :
    u.Canonical := by
  subst e; exact h.2

/-! ## Groups -/

theorem State.Canonical.filterGroups {s : State} (h : s.Canonical) (p : Group → Bool) :
    ∀ g ∈ s.groups.filter p, Memory.wf g.snap = true := fun g hg => h.2 g (List.mem_filter.1 hg).1

theorem snaps_map {s : State} {f : Group → Group}
    (hf : ∀ g ∈ s.groups, Memory.wf (f g).snap = true) : ∀ g ∈ s.groups.map f, Memory.wf g.snap = true := by
  intro g hg
  obtain ⟨x, hx, rfl⟩ := List.mem_map.1 hg
  exact hf x hx

/-! ## Canonical: Machine/Ops -/

theorem canonical_focus {s : State} {t : TaskId} (h : s.Canonical) : OptCanonical (s.focus t) := by
  unfold State.focus
  split
  · exact optCanonical_some h
  · split
    · exact optCanonical_none
    · exact optCanonical_some h.same

theorem canonical_choose {s : State} (h : s.Canonical) : s.choose.2.Canonical := h

theorem canonical_mySource {s : State} {b line : Nat} (h : s.Canonical) : (s.mySource b line).Canonical := h

theorem canonical_wrapRecord {s : State} {i : Fin 4} (h : s.Canonical) : (s.wrapRecord i).Canonical := by
  unfold State.wrapRecord
  extract_lets c s1
  have h1 : s1.Canonical := canonical_mapCtx h ..
  split
  · exact h
  · exact canonical_mySource (canonical_msix (canonical_trace h1 ..) ..)

theorem canonical_wrapRecords {s : State} (h : s.Canonical) : s.wrapRecords.Canonical := canonical_foldl canonical_wrapRecord h

/-! ## Canonical: Machine/Translate -/

theorem canonical_tlbKeep {s : State} {e : TlbEntry} (h : s.Canonical) : (s.tlbKeep e).Canonical := h

theorem canonical_translate {s : State} {va : Word} (h : s.Canonical) : (s.translate va).2.Canonical := by
  unfold State.translate
  extract_lets fn w l1 t1 t2
  have h1 : t1.Canonical := canonical_ite h (canonical_count h ..)
  have h2 : t2.Canonical := canonical_count (canonical_count h ..) ..
  clear_value w
  split
  · split
    · exact canonical_snd_ite h1 (canonical_snd_ite (canonical_choose h1) (canonical_choose h1))
    · exact canonical_snd_ite (canonical_choose h1) (canonical_choose h1)
  · split
    · exact canonical_tlbKeep h2
    · exact h2

/-! ## Canonical: Machine/Access -/

theorem canonical_placeWindow {s : State} {va : Word} (h : s.Canonical) : (placeWindow s va).Canonical := by
  unfold placeWindow
  extract_lets b m
  split
  · split
    · exact trivial
    · split
      · exact h
      · exact h
  · exact h

theorem canonical_placeSluice {s : State} {va : Word} {size : Nat} {kind : Kind} (h : s.Canonical) :
    (placeSluice s va size kind).Canonical := by
  unfold placeSluice
  extract_lets k off
  (repeat' split) <;> exact h

theorem canonical_placePage {s : State} {va : Word} {size : Nat} {kind : Kind} {p : Word} {sz : Nat} (h : s.Canonical) :
    (placePage s va size kind p sz).Canonical := by
  unfold placePage
  split
  · split
    · exact h
    · split
      · exact h
      · split
        · exact h
        · extract_lets es
          (repeat' split) <;> exact h
  · split
    · exact trivial
    · (repeat' split) <;> exact h

theorem canonical_place {s : State} {va : Word} {size : Nat} {kind : Kind} (h : s.Canonical) :
    (place s va size kind).Canonical := by
  unfold place
  split
  · exact h
  · split
    · exact canonical_placeWindow h
    · split
      · exact canonical_placeSluice h
      · split
        · rename_i e
          have h1 := canonical_snd (canonical_translate h) e
          split
          · rename_i e
            exact canonical_snd (canonical_translate h) e
          · rename_i e
            have h2 := canonical_snd (canonical_translate h) e
            split
            · exact h2
            · exact canonical_placePage h2

theorem canonical_accessTrap {s : State} {c : BitVec 8} {va : Word} (h : s.Canonical) : (s.accessTrap c va).Canonical :=
  canonical_trapAt h ..

theorem canonical_checkAccess {s : State} {va : Word} {size : Nat} {kind : Kind} (h : s.Canonical) :
    (checkAccess s va size kind).Canonical := by
  unfold checkAccess
  split
  · exact h
  · split
    · exact h
    · split
      · rename_i e
        have h1 := (canonical_place h).ok e
        split
        · exact trivial
        · split
          · exact trivial
          · exact h1
          · split
            · exact h1
            · exact h1
      · exact canonical_place h

theorem canonical_rsvUnpin {s : State} {fn r : Nat} (h : s.Canonical) : (s.rsvUnpin fn r).Canonical := h

theorem canonical_pondUse {s : State} {k : Nat} (h : s.Canonical) : (s.pondUse k).Canonical := h

theorem canonical_pondEvent {s : State} {tile : Nat} {wr : Bool} (h : s.Canonical) : (s.pondEvent tile wr).Canonical :=
  canonical_ite (canonical_count h ..) h

theorem canonical_cacheEvent {s : State} {x : RsvLine × Bool} (h : s.Canonical) : (s.cacheEvent x).Canonical := h

theorem canonical_accessEvent {s : State} {t : Target} {n : Nat} {va : Word} {wr : Bool} (h : s.Canonical) :
    (s.accessEvent t n va wr).Canonical := by
  unfold State.accessEvent
  split
  · exact canonical_ite (canonical_pondUse (canonical_pondEvent h))
        (canonical_ite (canonical_foldl (fun h => canonical_cacheEvent h) h) h)
  · split
    · exact canonical_pondEvent h
    · exact canonical_foldl (fun h => canonical_cacheEvent h) h
  · exact h

theorem canonical_clockTo {s : State} {t : Nat} (h : s.Canonical) : (s.clockTo t).Canonical := h

/-! ## Canonical: Machine/Objects -/

theorem canonical_withEnd {s : State} {x : Chan} (h : s.Canonical) : (s.withEnd x).Canonical := canonical_ite h h.same

theorem canonical_refit {s : State} {c : Chan} {ws : List ChWord} (h : s.Canonical) : (s.refit c ws).Canonical := h

/-! ## Canonical: Machine/Operands -/

theorem canonical_putG {s : State} {d : BitVec 5} {v : Word} (h : s.Canonical) : (s.putG d v).Canonical := by
  unfold State.putG
  split
  · exact canonical_push h ..
  · exact canonical_mapCtx h ..

theorem answers_guarded {c : Prop} {i : Instr} {g : Guard} {s : State} {k : State → Res} (h : c → s.Canonical)
    (hk : ∀ {t}, (c → t.Canonical) → Answers c (k t)) : Answers c (guarded i g s k) :=
  answers_ite (hk h) (.next fun k => canonical_retireTo (h k) ..)

theorem answers_gated {c : Prop} {i : Instr} {g : Guard} {srcs : List (BitVec 5)} {dst : Option (BitVec 5)} {both : Bool}
    {s : State} {k : State → Res} (h : c → s.Canonical) (hk : ∀ {t}, (c → t.Canonical) → Answers c (k t)) : Answers c
    (gated i g srcs dst both s k) := by
  unfold gated
  refine answers_guarded h ?_
  intro t h'
  split
  · exact hk h'
  · exact .next fun k => canonical_trapAt (h' k) ..
  · exact .next fun k => canonical_waitOn (h' k) ..

theorem answers_doneG {c : Prop} {i : Instr} {s : State} {srcs : List (BitVec 5)} {d : BitVec 5} {v : Word}
    (h : c → s.Canonical) : Answers c (doneG i s srcs d v) :=
  .next fun k => canonical_retireTo (canonical_putG (canonical_popSrcs (h k) ..)) ..

theorem answers_done {c : Prop} {i : Instr} {s : State} {srcs : List (BitVec 5)} (h : c → s.Canonical) : Answers c
    (done i s srcs) :=
  .next fun k => canonical_retireTo (canonical_popSrcs (h k) ..) ..

theorem answers_op3 {c : Prop} {i : Instr} {g : Guard} {d a b : BitVec 5} {s : State} {f : Word → Word → Word}
    (h : c → s.Canonical) : Answers c (op3 i g d a b s f) :=
  answers_gated h answers_doneG

theorem answers_op2 {c : Prop} {i : Instr} {g : Guard} {d a : BitVec 5} {s : State} {f : Word → Word} (h : c → s.Canonical) :
    Answers c (op2 i g d a s f) :=
  answers_gated h answers_doneG

theorem answers_opRw {c : Prop} {i : Instr} {g : Guard} {d : BitVec 5} {srcs : List (BitVec 5)} {s : State} {f : State → Word}
    (h : c → s.Canonical) : Answers c (opRw i g d srcs s f) :=
  answers_gated h answers_doneG

theorem answers_opQ {c : Prop} {i : Instr} {g : Guard} {d : BitVec 5} {srcs : List (BitVec 5)} {s : State} {f : State → Bool}
    (h : c → s.Canonical) : Answers c (opQ i g d srcs s f) :=
  answers_gated h (fun h => .next fun k => canonical_retireTo (canonical_mapCtx (canonical_popSrcs (h k) ..) ..) ..)

/-! ## Canonical: Machine/LoadStore -/

theorem canonical_stopMe {s : State} {cause : BitVec 8} {va : Word} (h : s.Canonical) : (s.stopMe cause va).Canonical :=
  canonical_mapMe (canonical_taskFault h ..) ..

theorem answers_loadOp {c : Prop} {i : Instr} {g : Guard} {a : BitVec 5} {off : BitVec 12} {size : Nat} {dst : Option (BitVec 5)}
    {s : State} {put : State → Nat → State} (h : c → s.Canonical) (hput : ∀ {t x0}, t.Canonical → (put t x0).Canonical) : Answers
    c (loadOp i g a off size dst s put) := by
  unfold loadOp
  refine answers_gated h ?_
  intro t h'
  extract_lets addr
  split
  · rename_i e
    exact .next fun k => canonical_accessTrap ((canonical_checkAccess (h' k)).trap e)
  · exact .next fun k => canonical_waitOn (h' k) ..
  · rename_i e
    have h1 := fun k => (canonical_checkAccess (h' k)).ok e
    split
    · exact .next fun k => canonical_stopMe (h1 k)
    · exact .next fun k => canonical_retireTo (hput (canonical_popSrcs
          (canonical_loadTarget (canonical_accessEvent (h1 k)) ..) ..)) ..

theorem answers_loadG {c : Prop} {i : Instr} {g : Guard} {d a : BitVec 5} {off : BitVec 12} {size : Nat} {s : State}
    {ext : Nat → Word} (h : c → s.Canonical) : Answers c (loadG i g d a off size s ext) :=
  answers_loadOp h canonical_putG

theorem answers_loadF {c : Prop} {i : Instr} {g : Guard} {d a : BitVec 5} {off : BitVec 12} {size : Nat} {s : State}
    {ext : Nat → Word} (h : c → s.Canonical) : Answers c (loadF i g d a off size s ext) :=
  answers_loadOp h (fun h => canonical_mapCtx h ..)

theorem answers_storeOp {c : Prop} {i : Instr} {g : Guard} {srcs : List (BitVec 5)} {a : BitVec 5} {off : BitVec 12} {size : Nat}
    {s : State} {val : State → Word} (h : c → s.Canonical) : Answers c (storeOp i g srcs a off size s val) := by
  unfold storeOp
  refine answers_gated h ?_
  intro t h'
  extract_lets addr
  split
  · rename_i e
    exact .next fun k => canonical_accessTrap ((canonical_checkAccess (h' k)).trap e)
  · exact .next fun k => canonical_waitOn (h' k) ..
  · rename_i e
    have h1 := fun k => (canonical_checkAccess (h' k)).ok e
    split
    · exact .next fun k => canonical_trapAt (h' k) ..
    · exact .next fun k => canonical_retireTo (canonical_popSrcs
          (canonical_mapCtx (canonical_storeTarget (canonical_accessEvent (h1 k)) ..) ..) ..) ..

/-! ## Canonical: Machine/Atomics -/

theorem canonical_enterAtomic {s : State} {r : AtomRec} (h : s.Canonical) : (s.enterAtomic r).Canonical := by
  unfold State.enterAtomic
  extract_lets gs s1
  have h1 : s1.Canonical := h
  split
  · exact h1
  · refine ⟨h1.1, snaps_map fun g hg => ?_⟩
    split <;> exact h1.2 g hg

theorem canonical_atomicNow {s : State} {va : Word} {t : Target} {n : Nat} {op : BitVec 4} {v cmp : Nat} (h : s.Canonical) :
    (atomicNow s va t n op v cmp).2.Canonical := by
  unfold atomicNow
  split
  · split
    · rename_i e
      have h1 := canonical_snd (canonical_plainBytes h ..) e
      extract_lets old
      exact canonical_clockTo (canonical_put h1 ..)
  · extract_lets old
    exact canonical_clockTo (canonical_storeAt h ..)
  · extract_lets k old
    exact canonical_clockTo (canonical_storeAt h ..)
  · exact h

theorem answers_atomicDone {c : Prop} {i : Instr} {s : State} {srcs : List (BitVec 5)} {d : BitVec 5} {n old : Nat}
    {held : Option WaitOn} (h : c → s.Canonical) : Answers c (atomicDone i s srcs d n old held) := by
  unfold atomicDone
  extract_lets s1 s2
  have h1 : c → s1.Canonical := fun k => canonical_putG (canonical_popSrcs (h k) ..)
  have h2 : c → s2.Canonical := fun k => canonical_ite (h1 k) (canonical_mapCtx (canonical_count (h1 k) ..) ..)
  refine .next fun k => ?_
  refine canonical_retireTo ?_ ..
  split
  · exact canonical_mapCtx (h2 k) ..
  · exact (h2 k)

theorem answers_atomicRejoin {c : Prop} {i : Instr} {s : State} {srcs : List (BitVec 5)} {d : BitVec 5} {k n : Nat}
    (h : c → s.Canonical) : Answers c (atomicRejoin i s srcs d k n) := by
  unfold atomicRejoin
  split
  · exact answers_atomicDone h
  · exact .next fun k => canonical_waitOn (h k) ..

theorem answers_atomicRound {c : Prop} {i : Instr} {s : State} {va : Word} {t : Target} {k n : Nat} {op : BitVec 4} {v cmp : Nat}
    (h : c → s.Canonical) : Answers c (atomicRound i s va t k n op v cmp) := by
  unfold atomicRound
  extract_lets m op_
  split
  · exact .next fun k => canonical_trapAt (h k) ..
  · exact answers_ite (.next fun k => canonical_waitOn (h k) ..)
        (.next fun k => canonical_waitOn (canonical_enterAtomic (canonical_accessEvent (h k))) ..)

theorem answers_atomicOp {c : Prop} {i : Instr} {g : Guard} {op : BitVec 4} {n : Nat} {d a b : BitVec 5} {s : State}
    (h : c → s.Canonical) : Answers c (atomicOp i g op n d a b s) := by
  unfold atomicOp
  refine answers_guarded h ?_
  intro t h'
  split
  · exact answers_atomicRejoin h'
  · refine answers_gated h' ?_
    intro t_1 h'
    extract_lets addr v cmp
    split
    · rename_i e
      exact .next fun k => canonical_accessTrap ((canonical_checkAccess (h' k)).trap e)
    · exact .next fun k => canonical_waitOn (h' k) ..
    · rename_i e
      have h1 := fun k => (canonical_checkAccess (h' k)).ok e
      split
      · split
        · exact .next h1
        · split
          · exact .next fun k => canonical_trapAt (h' k) ..
          · exact answers_ite (answers_done (fun k => canonical_enterAtomic (canonical_accessEvent (h1 k))))
                (answers_atomicRound h1)
      · exact answers_atomicDone (fun k => canonical_atomicNow (canonical_accessEvent (h1 k)))

/-! ## Canonical: Machine/Fetch -/

theorem canonical_fetchWord {s : State} {va : Word} (h : s.Canonical) : (fetchWord s va).Canonical := by
  unfold fetchWord
  split
  · exact h
  · split
    · exact h
    · split
      · rename_i e
        exact (canonical_place h).trap e
      · exact trivial
      · rename_i e
        have h1 := (canonical_place h).ok e
        split
        · exact h1
        · exact canonical_loadTarget h1 ..

/-- The state of what fetching literal words gives is canonical. -/
def LitsCanonical : Except Fetched (List (BitVec 32) × State) → Prop
  | .ok r => r.2.Canonical
  | .error f => f.Canonical

theorem LitsCanonical.ok {r : Except Fetched (List (BitVec 32) × State)} {l : List (BitVec 32)} {s : State}
    (h : LitsCanonical r) (e : r = .ok (l, s)) : s.Canonical := by
  subst e; exact h

theorem LitsCanonical.error {r : Except Fetched (List (BitVec 32) × State)} {f : Fetched} (h : LitsCanonical r)
    (e : r = .error f) : f.Canonical := by
  subst e; exact h

theorem canonical_fetchLits {s : State} {va : Word} {n : Nat} {acc : List (BitVec 32)} (h : s.Canonical) :
    LitsCanonical (fetchLits s va n acc) := by
  induction n generalizing s va acc with
  | zero => exact h
  | succ n ih =>
    unfold fetchLits
    have hw := canonical_fetchWord (va := va) h
    split
    · rename_i e
      exact ih (hw.ok e)
    · exact hw

theorem canonical_fetchedAt {s : State} {va : Word} (h : s.Canonical) : (s.fetchedAt va).Canonical := by
  unfold State.fetchedAt
  split
  · rename_i e
    have h1 := (canonical_place h).ok e
    exact canonical_loadTarget h ..
  · exact h

/-- The state of what skipping a REP body gives is canonical. -/
def SkipCanonical : Except Fetched (Word × State) → Prop
  | .ok r => r.2.Canonical
  | .error f => f.Canonical

theorem SkipCanonical.ok {r : Except Fetched (Word × State)} {pc : Word} {s : State} (h : SkipCanonical r)
    (e : r = .ok (pc, s)) : s.Canonical := by
  subst e; exact h

theorem SkipCanonical.error {r : Except Fetched (Word × State)} {f : Fetched} (h : SkipCanonical r) (e : r = .error f) :
    f.Canonical := by
  subst e; exact h

theorem canonical_skipBody {last : Word} {n : Nat} {pc : Word} {s : State} (h : s.Canonical) :
    SkipCanonical (skipBody last n pc s) := by
  induction n generalizing pc s with
  | zero => exact h
  | succ n ih =>
    unfold skipBody
    have hw := canonical_fetchWord (va := pc) h
    split
    · rename_i e
      have h1 := hw.ok e
      dsimp only
      split
      · exact h1
      · exact ih h1
    · exact hw

/-! ## Canonical: Machine/Tasks -/

theorem canonical_exitHandle {s : State} {kill : Bool} {h_1 : BitVec 128} (h : s.Canonical) :
    (s.exitHandle kill h_1).Canonical := by
  unfold State.exitHandle
  split
  · exact canonical_ite (canonical_mapMe h ..) (canonical_objPublish h ..)
  · exact canonical_disposeHandle h ..

theorem canonical_closeChannels {s : State} {t : TaskId} (h : s.Canonical) : (s.closeChannels t).Canonical :=
  canonical_foldl (fun h => canonical_closeConsumer h ..) h

theorem canonical_endTask {s : State} {kill : Bool} (h : s.Canonical) : (s.endTask kill).Canonical :=
  canonical_mapMe (canonical_closeChannels (canonical_foldl canonical_exitHandle h)) ..

theorem canonical_withdrawHeld {s : State} (h : s.Canonical) : s.withdrawHeld.Canonical := by
  refine ⟨h.1, snaps_map fun g hg => ?_⟩
  split <;> exact h.2 g hg

/-! ## Canonical: Machine/Control -/

theorem answers_noRep {c : Prop} {i : Instr} {g : Guard} {s : State} {k : State → Res} (h : c → s.Canonical)
    (hk : ∀ {t}, (c → t.Canonical) → Answers c (k t)) : Answers c (noRep i g s k) :=
  answers_guarded h (fun h => answers_ite (.next fun k => canonical_trapAt (h k) ..) (hk h))

theorem answers_branch {c : Prop} {i : Instr} {g : Guard} {s : State} {k : State → Res} (h : c → s.Canonical)
    (hk : ∀ {t}, (c → t.Canonical) → Answers c (k t)) : Answers c (branch i g s k) :=
  answers_ite (answers_noRep h (fun h => hk h)) (.next fun k => canonical_retireTo (canonical_mapCtx (h k) ..) ..)

theorem answers_execBr {c : Prop} {g : Guard} {off : BitVec 22} {s : State} (h : c → s.Canonical) : Answers c (execBr g off s) :=
  answers_branch h (fun h => .next fun k => canonical_jumpTo (canonical_mapCtx (h k) ..) ..)

theorem answers_execBl {c : Prop} {g : Guard} {off : BitVec 22} {s : State} (h : c → s.Canonical) : Answers c (execBl g off s) :=
  answers_branch h (fun h => .next fun k => canonical_jumpTo (canonical_mapCtx (h k) ..) ..)

theorem answers_execBi {c : Prop} {g : Guard} {a : BitVec 5} {imm : BitVec 12} {s : State} (h : c → s.Canonical) : Answers c
    (execBi g a imm s) := by
  unfold execBi
  refine answers_branch h ?_
  intro t h'
  extract_lets t_1
  split
  · exact .next fun k => canonical_trapAt (h' k) ..
  · exact .next fun k => canonical_waitOn (h' k) ..
  · split
    · exact .next fun k => canonical_trapAt (h' k) ..
    · exact answers_ite (.next fun k => canonical_trapAt (h' k) ..)
          (.next fun k => canonical_jumpTo (canonical_mapCtx (canonical_popSrcs (h' k) ..) ..) ..)

theorem answers_execRep {c : Prop} {g : Guard} {a : BitVec 5} {imm : BitVec 12} {s : State} (h : c → s.Canonical) :
    Answers c (execRep g a imm s) := by
  unfold execRep
  refine answers_ite (.next fun k => canonical_trapAt (h k) ..) (answers_noRep h fun {s} h => ?_)
  split
  · exact .next fun k => canonical_trapAt (h k) ..
  · exact .next h
  · extract_lets n pc last
    refine answers_ite ?_ (.next fun k => canonical_jumpTo (canonical_mapCtx (canonical_popSrcs (h k) _) _) _)
    have hs := fun k => canonical_skipBody (last := last) (n := imm.toNat + 1) (pc := pc + 4) (h k)
    split
    · rename_i e
      exact .next fun k => canonical_jumpTo (canonical_popSrcs ((hs k).ok e) _) _
    · rename_i e
      exact .next fun k => canonical_trapAt (((hs k).error e).trap rfl) ..
    · exact .next h
    · exact .next fun k => canonical_jumpTo (h k) ..

theorem answers_execWaitch {c : Prop} {g : Guard} {a : BitVec 5} {s : State} (h : c → s.Canonical) : Answers c
    (execWaitch g a s) := by
  unfold execWaitch
  refine answers_guarded h ?_
  intro t h'
  split
  · exact .next fun k => canonical_retireTo (h' k) ..
  · exact answers_ite (.next fun k => canonical_trapAt (h' k) ..)
        (answers_ite (.next fun k => canonical_retireTo (h' k) ..) (.next fun k => canonical_waitOn (h' k) ..))

theorem answers_execYield {c : Prop} {g : Guard} {s : State} (h : c → s.Canonical) : Answers c (execYield g s) :=
  answers_guarded h (fun h => .next fun k => canonical_retireTo (canonical_mapCtx (h k) ..) ..)

theorem answers_execExit {c : Prop} {g : Guard} {s : State} (h : c → s.Canonical) : Answers c (execExit g s) :=
  answers_noRep h (fun h => .next fun k => canonical_endTask (canonical_withdrawHeld (canonical_mapCtx (h k) ..)))

theorem answers_execNop {c : Prop} {low : BitVec 28} {s : State} (h : c → s.Canonical) : Answers c (execNop low s) :=
  .next fun k => canonical_retireTo (h k) ..

theorem answers_execBara {c : Prop} {g : Guard} {n : BitVec 12} {s : State} (h : c → s.Canonical) : Answers c
    (execBara g n s) := by
  unfold execBara
  extract_lets b
  refine answers_guarded h (fun h => answers_ite (.next fun k => canonical_waitOn (h k) ..)
      (.next fun k => canonical_retireTo (canonical_mapCtx (h k) ..) ..))

theorem answers_execBarw {c : Prop} {g : Guard} {n : BitVec 12} {s : State} (h : c → s.Canonical) : Answers c
    (execBarw g n s) := by
  unfold execBarw
  extract_lets b
  refine answers_guarded h (fun h => answers_ite (.next fun k => canonical_retireTo (h k) ..)
      (answers_ite (.next fun k => canonical_retireTo (canonical_mapCtx (h k) ..) ..) (.next fun k => canonical_waitOn (h k) ..)))

/-! ## Canonical: Machine/Channels -/

theorem answers_execChbind {c : Prop} {g : Guard} {d : BitVec 5} {ch : BitVec 12} {s : State} (h : c → s.Canonical) : Answers c
    (execChbind g d ch s) := by
  unfold execChbind
  extract_lets i
  refine answers_guarded h ?_
  intro t h'
  split
  · exact .next fun k => canonical_trapAt (h' k) ..
  · split
    · exact .next fun k => canonical_trapAt (h' k) ..
    · exact answers_ite (.next fun k => canonical_trapAt (h' k) ..) (answers_done (fun k => canonical_mapCtx (h' k) ..))

theorem answers_execChclose {c : Prop} {g : Guard} {a : BitVec 5} {s : State} (h : c → s.Canonical) : Answers c
    (execChclose g a s) := by
  unfold execChclose
  refine answers_guarded h ?_
  intro t h'
  split
  · exact answers_done h'
  · extract_lets s1
    have h1 : c → s1.Canonical := by
      intro k
      unfold s1
      split
      · exact canonical_ite (canonical_closeConsumer (h' k) ..) (h' k)
      · exact (h' k)
    exact answers_done (fun k => canonical_mapCtx (h1 k) ..)

/-! ## Canonical: Machine/Flags -/

theorem answers_fpDone {c : Prop} {i : Instr} {s : State} {srcs : List (BitVec 5)} {fl : FFlags} {put : State → State}
    (h : c → s.Canonical) (hput : ∀ {t}, t.Canonical → (put t).Canonical) : Answers c (fpDone i s srcs fl put) :=
  answers_ite (.next fun k => canonical_trapAt (h k) ..) (.next fun k => canonical_retireTo
    (canonical_mapCtx (hput (canonical_popSrcs (h k) ..)) ..) ..)

theorem canonical_atomFlags {s : State} {m : Nat} {name : Word} (h : s.Canonical) : (s.atomFlags m name).Canonical :=
  canonical_ite (canonical_count (canonical_mapCtx h ..) ..) (canonical_mapCtx h ..)

/-! ## Canonical: Machine/System -/

theorem answers_execMts {c : Prop} {g : Guard} {sr : BitVec 12} {a : BitVec 5} {s : State} (h : c → s.Canonical) : Answers c
    (execMts g sr a s) := by
  unfold execMts
  refine answers_gated h (fun h => answers_ite (.next fun k => canonical_trapAt (h k) ..)
      (.next fun k => canonical_retireTo (canonical_mapCtx (canonical_popSrcs (h k) ..) ..) ..))

theorem answers_execNstepi {c : Prop} {g : Guard} {imm : BitVec 17} {s : State} (h : c → s.Canonical) : Answers c
    (execNstepi g imm s) :=
  answers_guarded h (fun h => .next fun k => canonical_retireTo (canonical_mapCtx (h k) ..) ..)

theorem canonical_retireTrap {s : State} {next : Word} {cause : BitVec 8} {info : Word} (h : s.Canonical) :
    (s.retireTrap next cause info).Canonical :=
  canonical_trapAt (canonical_mapCtx h ..) ..

theorem answers_execTrap {c : Prop} {g : Guard} {imm : BitVec 12} {s : State} (h : c → s.Canonical) : Answers c
    (execTrap g imm s) :=
  answers_guarded h (fun h => .next fun k => canonical_retireTrap (h k))

theorem answers_execBkpt {c : Prop} {g : Guard} {s : State} (h : c → s.Canonical) : Answers c (execBkpt g s) :=
  answers_guarded h (fun h => .next fun k => canonical_retireTrap (h k))

theorem answers_execEret {c : Prop} {g : Guard} {s : State} (h : c → s.Canonical) : Answers c (execEret g s) := by
  unfold execEret
  refine answers_noRep h (fun h => answers_ite (.next fun k => canonical_trapAt (h k) ..)
      (.next fun k => canonical_ite (canonical_boundary (canonical_mapCtx (h k) ..)) (canonical_mapCtx (h k) ..)))

theorem answers_execWfe {c : Prop} {g : Guard} {s : State} (h : c → s.Canonical) : Answers c (execWfe g s) :=
  answers_guarded h (fun h => answers_ite (.next fun k => canonical_retireTo (canonical_mapCtx (h k) ..) ..)
    (.next fun k => canonical_waitOn (h k) ..))

theorem answers_execCtrsel {c : Prop} {g : Guard} {k : BitVec 5} {ev : BitVec 12} {s : State} (h : c → s.Canonical) : Answers c
    (execCtrsel g k ev s) :=
  answers_guarded h (fun h => .next fun k => canonical_retireTo (canonical_mapCtx (h k) ..) ..)

theorem answers_execCtron {c : Prop} {g : Guard} {k : BitVec 5} {s : State} (h : c → s.Canonical) : Answers c (execCtron g k s) :=
  answers_guarded h (fun h => .next fun k => canonical_retireTo (canonical_mapCtx (h k) ..) ..)

theorem answers_execCtroff {c : Prop} {g : Guard} {k : BitVec 5} {s : State} (h : c → s.Canonical) : Answers c
    (execCtroff g k s) :=
  answers_guarded h (fun h => .next fun k => canonical_retireTo (canonical_mapCtx (h k) ..) ..)

theorem answers_execMark {c : Prop} {g : Guard} {imm : BitVec 12} {s : State} (h : c → s.Canonical) : Answers c
    (execMark g imm s) := by
  unfold execMark
  refine answers_guarded h (fun h => .next fun k => canonical_retireTo
      (canonical_ite (canonical_mapMe (canonical_ite (canonical_trace (h k) ..) (h k)) ..)
      (canonical_ite (canonical_trace (h k) ..) (h k))) ..)

theorem answers_execTrig {c : Prop} {g : Guard} {line : BitVec 12} {s : State} (h : c → s.Canonical) : Answers c
    (execTrig g line s) :=
  answers_guarded h (fun h => .next fun k => canonical_retireTo (canonical_mySource (h k)) ..)

theorem answers_execTlbinv {c : Prop} {g : Guard} {a : BitVec 5} {s : State} (h : c → s.Canonical) : Answers c
    (execTlbinv g a s) :=
  answers_gated h (fun h => answers_done (fun k => canonical_ite (canonical_setMill (h k) ..) (h k)))

theorem canonical_setRetain {s : State} {fn i : Nat} {b l : Word} (h : s.Canonical) : (s.setRetain fn i b l).Canonical := by
  unfold State.setRetain
  extract_lets f
  split
  · exact canonical_setFn h ..
  · exact h

theorem answers_execRsvpin {c : Prop} {g : Guard} {d a b : BitVec 5} {s : State} (h : c → s.Canonical) : Answers c
    (execRsvpin g d a b s) := by
  unfold execRsvpin
  refine answers_gated h (fun h => answers_ite (.next fun k => canonical_trapAt (h k) ..)
      (answers_done (fun k => canonical_setRetain (canonical_rsvUnpin (h k)))))

theorem answers_execRsvunpin {c : Prop} {g : Guard} {a : BitVec 5} {s : State} (h : c → s.Canonical) : Answers c
    (execRsvunpin g a s) := by
  unfold execRsvunpin
  refine answers_gated h ?_
  intro t h'
  extract_lets n
  split
  · exact answers_done (fun k => canonical_setRetain (canonical_rsvUnpin (h' k)))
  · exact .next fun k => canonical_trapAt (h' k) ..

/-! ## Canonical: Machine/Fabric -/

theorem canonical_pathRecord {s : State} {e : Nat} {num : BitVec 12} {id : BitVec 16} (h : s.Canonical) :
    (s.pathRecord e num id).Canonical :=
  canonical_ite h (canonical_mapRun (canonical_traceOf h ..) ..)

/-! ## Canonical: Machine/Engine -/

theorem canonical_enginePlace {sluice : Bool} {s : State} {l : Word} {l_1 : Kind} (h : s.Canonical) :
    (enginePlace sluice s l l_1).Canonical := by
  unfold enginePlace
  split
  · exact h
  · exact canonical_place h

theorem canonical_placeAll {pl : Placer} {kind : Kind} {l : List (Word × Nat)} {s : State}
    (hpl : ∀ {t x0 x1}, t.Canonical → (pl t x0 x1).Canonical) (h : s.Canonical) : (placeAll pl kind l s).Canonical := by
  induction l generalizing s with
  | nil => exact h
  | cons p rest ih =>
    unfold placeAll
    split
    · rename_i e
      exact (hpl h).trap e
    · trivial
    · rename_i e
      have h1 := (hpl h).ok e
      split
      · rename_i e
        exact (hpl h1).trap e
      · trivial
      · rename_i e
        have h2 := (hpl h1).ok e
        split
        · rename_i e
          exact (ih h2).ok e
        · exact ih h2

theorem canonical_engLoad {s : State} {va : Word} {t : Target} {n : Nat} {seed : Word} {step : BitVec 32} (h : s.Canonical) :
    (engLoad s va t n seed step).2.Canonical := by
  unfold engLoad
  extract_lets c
  split
  · exact h
  · exact canonical_mapCtx (canonical_loadTarget (canonical_accessEvent h) ..) ..

theorem canonical_engRead {pl : Placer} {s : State} {va : Word} {n : Nat} {seed : Word} {step : BitVec 32} (h : s.Canonical)
    (hpl : ∀ {t x0 x1}, t.Canonical → (pl t x0 x1).Canonical) : (engRead pl s va n seed step).Canonical := by
  unfold engRead
  split
  · rename_i e
    exact (canonical_placeAll hpl h).fault e
  · trivial
  · rename_i e
    have h1 := (canonical_placeAll hpl h).ok e
    split
    · exact h1
    · split
      rename_i e
      refine canonical_snd (foldl_keeps (P := fun acc : List Byte × State => acc.2.Canonical) ?_ _ h1) e
      exact fun acc _ (h : acc.2.Canonical) => canonical_engLoad h

theorem canonical_engWrite {pl : Placer} {s : State} {va : Word} {bs : List Byte} (h : s.Canonical)
    (hpl : ∀ {t x0 x1}, t.Canonical → (pl t x0 x1).Canonical) : (engWrite pl s va bs).Canonical := by
  unfold engWrite
  split
  · rename_i e
    exact (canonical_placeAll hpl h).fault e
  · trivial
  · rename_i e
    have h1 := (canonical_placeAll hpl h).ok e
    exact foldl_keeps (P := fun acc : Nat × State × List Byte => acc.2.1.Canonical)
      (fun _ _ h => canonical_storeTarget (canonical_accessEvent h) ..) _ h1

theorem canonical_placeRange {s : State} {va : Word} {n : Nat} (h : s.Canonical) : (placeRange s va n).Canonical := by
  unfold placeRange
  split
  · rename_i e
    have h1 := (canonical_place h).ok e
    split
    · rename_i e
      exact (canonical_place h1).ok e
    · exact canonical_place h1
  · exact canonical_place h

theorem canonical_loadPieces {held : Bool} {l : List (Word × Nat)} {s : State} {acc : List Byte} (h : s.Canonical) :
    (loadPieces held l s acc).Canonical := by
  induction l generalizing s acc with
  | nil => exact h
  | cons p rest ih =>
    unfold loadPieces
    split
    · rename_i e
      exact (canonical_placeRange h).trap e
    · trivial
    · rename_i e
      have h1 := (canonical_placeRange h).ok e
      split
      · trivial
      · split
        · trivial
        · split
          · trivial
          · exact h1
          · split
            · exact h1
            · exact ih (canonical_loadTarget (canonical_accessEvent h1) ..)

theorem canonical_ordinaryRead {s : State} {va : Word} {n : Nat} (h : s.Canonical) : (ordinaryRead s va n).Canonical :=
  canonical_loadPieces h

theorem canonical_commandRead {s : State} {va : Word} {n : Nat} (h : s.Canonical) : (commandRead s va n).Canonical := by
  unfold commandRead
  split
  · rename_i e
    exact canonical_mapCtx ((canonical_loadPieces h).ok e) ..
  · exact canonical_loadPieces h

theorem canonical_engReduce {pl : Placer} {s : State} {va : Word} {rop : Nat} {seq : BitVec 32} {bs : List Byte}
    (hpl : ∀ {t x0 x1}, t.Canonical → (pl t x0 x1).Canonical) (h : s.Canonical) : (engReduce pl s va rop seq bs).Canonical := by
  unfold engReduce
  split
  · rename_i e
    exact (hpl h).trap e
  · exact trivial
  · rename_i e
    have h1 := (hpl h).ok e
    split
    · rename_i e
      have h2 := (hpl h).ok e
      split
      · exact h2
      · split
        · exact canonical_mapMe (canonical_accessEvent h2) ..
        · split
          · exact h2
          · exact canonical_put (canonical_plainBytes (canonical_accessEvent h2) ..) ..
    · exact h1

theorem canonical_mapCmd {s : State} {q : BitVec 32} {f : Cmd → Cmd} (h : s.Canonical) : (s.mapCmd q f).Canonical := h

theorem canonical_postStop {s : State} {p : Pending} (h : s.Canonical) : (s.postStop p).Canonical := by
  unfold State.postStop
  extract_lets s1
  have h1 : s1.Canonical := canonical_mapMe h ..
  exact canonical_ite (canonical_ite (canonical_mySource h1) (canonical_ite (canonical_mySource h1) h1)) (canonical_mapCtx h ..)

theorem canonical_cmdRecord {s : State} {c : Cmd} {cause : BitVec 8} {va : Word} {ctrs : List Nat} (h : s.Canonical) :
    (s.cmdRecord c cause va ctrs).Canonical :=
  canonical_fault h ..

theorem canonical_cmdFault {s : State} {c : Cmd} {cause : BitVec 8} {va : Word} {ctrs : List Nat} (h : s.Canonical) :
    (s.cmdFault c cause va ctrs).Canonical :=
  canonical_postStop (canonical_mapRun (canonical_mapCmd (canonical_cmdRecord h)) ..)

theorem canonical_elemFault {s : State} {e : Nat} {cause : BitVec 8} {va : Word} {ctrs : List Nat} (h : s.Canonical) :
    (s.elemFault e cause va ctrs).Canonical :=
  canonical_postStop (canonical_mapRun (canonical_fault h ..) ..)

theorem canonical_offer {s : State} {p : Nat} {bs : List Byte} (h : s.Canonical) : OptCanonical (s.offer p bs) := by
  unfold State.offer
  split
  · exact optCanonical_none
  · exact optCanonical_some (canonical_mapRun h ..)

theorem canonical_tokenCame {s : State} {e : Nat} {c : Ctl} (h : s.Canonical) : (s.tokenCame e c).Canonical := by
  unfold State.tokenCame
  extract_lets f
  split
  · exact canonical_ite h (canonical_setFn h ..)
  · exact h

theorem canonical_flushRelatch {s : State} {k : Nat} (h : s.Canonical) : (s.flushRelatch k).Canonical :=
  canonical_ite h (canonical_mapRun (canonical_foldl canonical_tokenCame h) ..)

theorem canonical_offerCtl {s : State} {p : Nat} {c : Ctl} (h : s.Canonical) : (s.offerCtl p c).Canonical :=
  canonical_mapRun (canonical_flushRelatch h) ..

/-! ## Canonical: Machine/Firing -/

theorem canonical_stopRun {s : State} {origin : BitVec 2} {info : Word} (h : s.Canonical) :
    (s.stopRun origin info).Canonical := by
  unfold State.stopRun
  extract_lets t s1 named
  have h1 : s1.Canonical := canonical_mapRun h ..
  have hnamed : ∀ {st}, st.Canonical → (named st).Canonical := fun h => canonical_trace h ..
  split
  · exact h1
  · exact canonical_ite (hnamed h1) (canonical_ite (hnamed (canonical_mapMe h1 ..)) (canonical_mapCtx h1 ..))

theorem canonical_nodeStop {s : State} (h : s.Canonical) : s.nodeStop.Canonical := by
  unfold State.nodeStop
  split
  · exact h
  · exact canonical_stopRun (canonical_mapRun h ..)

theorem canonical_fire {s : State} {op : Nat} {f : Fired} (h : s.Canonical) : (s.fire op f).Canonical := by
  unfold State.fire
  extract_lets e before x s1 s2 s3 s4
  have h1 : s1.Canonical := canonical_mapRun h ..
  have h2 : s2.Canonical := canonical_count (canonical_ite (canonical_count h1 ..) h1) ..
  have h3 : s3.Canonical := canonical_foldl (fun h => canonical_count h ..) h2
  have h4 : s4.Canonical := canonical_ite h3 (canonical_atomFlags h3)
  split
  · exact h4
  · exact canonical_ite (canonical_mapRun (canonical_mySource h4) ..) h4

theorem answers_fireWith {c : Prop} {op : Nat} {s : State} {fmt up : Nat} {k : FEnv → Elem → Option Fired} (h : c → s.Canonical) :
    Answers c (fireWith op s fmt up k) := by
  unfold fireWith
  extract_lets e
  split
  · exact .next h
  · split
    · exact .next h
    · exact answers_ite (.next fun k => canonical_fire (h k)) (.next h)

/-! ## Canonical: Machine/ConfigImage -/

theorem canonical_latchFirst {p : Plane} {l : List Nat} {s : State} (h : s.Canonical) : (latchFirst p l s).2.Canonical := by
  induction l generalizing s with
  | nil => exact h
  | cons e es ih =>
    unfold latchFirst
    split
    · exact ih h
    · split
      · exact ih h
      · dsimp only
        split <;> exact ih (canonical_translate h)

theorem canonical_loadImage {s : State} {hdr : List Byte} {addr base : Word} (h : s.Canonical) :
    (s.loadImage hdr addr base).Canonical := by
  unfold State.loadImage
  extract_lets n
  split
  · exact h
  · split
    · exact trivial
    · rename_i e
      have h1 := (canonical_commandRead h).fault e
      split
      · exact h1
      · exact h1
    · exact trivial
    · rename_i e
      have h1 := (canonical_commandRead h).ok e
      split
      · exact h1
      · extract_lets c
        split
        · exact h1
        · exact canonical_spillCharge (canonical_latchFirst h1) ..

theorem canonical_dropPlane {s : State} {p : Plane} (h : s.Canonical) : (s.dropPlane p).Canonical := h

/-! ## Canonical: Machine/Handles -/

theorem answers_badHandle {c : Prop} {s : State} {r : BitVec 5} (h : c → s.Canonical) : Answers c (s.badHandle r) :=
  .next fun k => canonical_trapAt (h k) ..

theorem answers_intoFree {c : Prop} {s : State} {d : BitVec 5} {k : State → Res} (h : c → s.Canonical)
    (hk : ∀ {t}, (c → t.Canonical) → Answers c (k t)) : Answers c (intoFree s d k) :=
  answers_ite (answers_badHandle h) (hk h)

theorem answers_withHandle {c : Prop} {s : State} {a : BitVec 5} {k : BitVec 128 → State → Res} (h : c → s.Canonical)
    (hk : ∀ {x0 t}, (c → t.Canonical) → Answers c (k x0 t)) : Answers c (withHandle s a k) :=
  answers_ite (hk h) (answers_badHandle h)

theorem canonical_clearHandle {s : State} {a : BitVec 5} (h : s.Canonical) : (s.clearHandle a).Canonical := h

theorem canonical_newObj {s : State} {req : Word} (h : s.Canonical) : (s.newObj req).2.2.Canonical := by
  unfold State.newObj
  extract_lets n tile
  have h1 : ∀ t : Option Nat, (match t with
      | none => s
      | some t => (s.setTile t { s.tile t with used := (s.tile t).used + n }).mapLineage s.me.id.fn s.me.id.blk fun b =>
        { b with usePond := b.usePond + n }).Canonical := fun t => by cases t <;> exact h
  exact ⟨wf_memClear (h1 _).1 .., (h1 _).2⟩

theorem answers_execSlnew {c : Prop} {g : Guard} {d a b : BitVec 5} {s : State} (h : c → s.Canonical) :
    Answers c (execSlnew g d a b s) := by
  unfold execSlnew
  refine answers_gated h fun {s} h => answers_ite (.next fun k => canonical_trapAt (h k) ..) ?_
  refine answers_intoFree h fun {s} h => answers_intoFree h fun {s} h => ?_
  refine answers_ite (.next fun k => canonical_trapAt (h k) ..) (answers_ite (.next fun k => canonical_trapAt (h k) ..) ?_)
  exact answers_ite (.next fun k => canonical_trapAt (h k) ..) (answers_done fun k => canonical_newObj (h k))

theorem answers_execSlmap {c : Prop} {g : Guard} {d a : BitVec 5} {s : State} (h : c → s.Canonical) : Answers c
    (execSlmap g d a s) := by
  unfold execSlmap
  refine answers_gated h ?_
  intro t h'
  refine answers_withHandle h' ?_
  intro x0 t_1 h'
  split
  · exact .next fun k => canonical_trapAt (h' k) ..
  · exact answers_doneG (fun k => canonical_mapMe (h' k) ..)

theorem answers_execSldup {c : Prop} {g : Guard} {d a : BitVec 5} {s : State} (h : c → s.Canonical) : Answers c
    (execSldup g d a s) := by
  unfold execSldup
  refine answers_guarded h (fun h => answers_intoFree h (fun h' => answers_withHandle h'
      (fun h'' => answers_ite (answers_badHandle h'') (answers_done
      (fun k => canonical_mapCtx (canonical_ite (canonical_mapObj (h'' k) ..) (canonical_sendPkg (h'' k) ..)) ..)))))

theorem answers_execSldrop {c : Prop} {g : Guard} {a : BitVec 5} {s : State} (h : c → s.Canonical) : Answers c
    (execSldrop g a s) := by
  unfold execSldrop
  refine answers_guarded h (fun h => answers_withHandle h (fun h' => answers_ite
      (answers_ite (.next fun k => canonical_waitOn (h' k) ..)
      (answers_ite (answers_done (fun k => canonical_clearHandle (canonical_mapMe (h' k) ..)))
      (answers_done (fun k => canonical_mapCtx (canonical_clearHandle (canonical_objPublish (h' k) ..)) ..))))
      (answers_done (fun k => canonical_clearHandle (canonical_disposeHandle (h' k) ..)))))

theorem answers_execHmov {c : Prop} {g : Guard} {d a : BitVec 5} {s : State} (h : c → s.Canonical) : Answers c
    (execHmov g d a s) := by
  unfold execHmov
  refine answers_guarded h (fun h => answers_ite (answers_withHandle h answers_done)
      (answers_intoFree h (fun h' => answers_withHandle h' (fun h'' => answers_done (fun k => canonical_mapCtx (h'' k) ..)))))

theorem answers_execSlxfer {c : Prop} {g : Guard} {d a : BitVec 5} {s : State} (h : c → s.Canonical) : Answers c
    (execSlxfer g d a s) := by
  unfold execSlxfer
  extract_lets i
  refine answers_guarded h ?_
  intro t h'
  split
  · exact .next fun k => canonical_trapAt (h' k) ..
  · split
    · exact .next fun k => canonical_trapAt (h' k) ..
    · split
      · exact .next fun k => canonical_trapAt (h' k) ..
      · refine answers_withHandle h' (fun h => answers_ite (answers_badHandle h)
            (answers_ite (.next fun k => canonical_trapAt (h k) ..)
            (answers_ite (.next fun k => canonical_waitOn (h k) ..)
            (answers_ite (.next fun k => canonical_waitOn (h k) ..)
            (answers_done (fun k => canonical_push (canonical_clearHandle (h k)) ..))))))

theorem answers_execHrecv {c : Prop} {g : Guard} {d a : BitVec 5} {s : State} (h : c → s.Canonical) : Answers c
    (execHrecv g d a s) := by
  unfold execHrecv
  extract_lets i
  refine answers_guarded h ?_
  intro t h'
  split
  · exact .next fun k => canonical_trapAt (h' k) ..
  · split
    · exact .next fun k => canonical_trapAt (h' k) ..
    · refine answers_intoFree h' ?_
      intro t_1 h'
      split
      · exact .next fun k => canonical_waitOn (h' k) ..
      · split
        · exact .next fun k => canonical_waitOn (h' k) ..
        · split
          · exact answers_badHandle h'
          · split
            · exact .next fun k => canonical_waitOn (h' k) ..
            · exact answers_done (fun k => canonical_mapCtx (canonical_pop (canonical_pop (h' k) ..) ..) ..)

/-! ## Canonical: Machine/Commands -/

theorem canonical_readBlock {s : State} {op : Nat} {blk : Word} (h : s.Canonical) : (readBlock s op blk).Canonical := by
  unfold readBlock
  split
  · rename_i e
    have h1 := (canonical_ordinaryRead h).ok e
    split
    · split
      · rename_i e
        exact (canonical_ordinaryRead h1).ok e
      · rename_i e
        exact (canonical_ordinaryRead h1).fault e
      · exact canonical_ordinaryRead h1
    · exact h1
  · rename_i e
    exact (canonical_ordinaryRead h).fault e
  · exact canonical_ordinaryRead h

theorem canonical_accept {s : State} {c : Cmd} {gs : List Nat} (h : s.Canonical) : (s.accept c gs).Canonical := h

theorem canonical_issueCmd {i : Instr} {w : BitVec 128} {base anchor : Word} {s : State} (h : s.Canonical) :
    (issueCmd i w base anchor s).Canonical := by
  unfold issueCmd
  split
  · trivial
  · extract_lets op blk c0
    have hr : (if blockHead op = 0 then BlockRead.ok [] s else readBlock s op blk).Canonical := by
      split
      · exact h
      · exact canonical_readBlock h
    split
    · trivial
    · trivial
    · rename_i e
      have h1 := hr.fault e
      extract_lets c1
      split
      · exact canonical_accept h1
      · trivial
    · rename_i e
      have h1 := hr.ok e
      extract_lets c1 fs gs
      split
      · trivial
      · split
        · trivial
        · exact canonical_accept h1

theorem answers_execSci {c : Prop} {g : Guard} {d a : BitVec 5} {cmd : BitVec 128} {s : State} (h : c → s.Canonical) : Answers c
    (execSci g d a cmd s) := by
  unfold execSci
  extract_lets i
  refine answers_gated h ?_
  intro t h'
  split
  · exact .next fun k => canonical_trapAt (h' k) ..
  · exact .next fun k => canonical_waitOn (h' k) ..
  · exact .next fun k => canonical_stopMe (h' k)
  · rename_i e
    have h1 := fun k => (canonical_issueCmd (h' k)).ok e
    exact answers_doneG h1

theorem answers_execScm {c : Prop} {g : Guard} {d a : BitVec 5} {s : State} (h : c → s.Canonical) : Answers c
    (execScm g d a s) := by
  unfold execScm
  extract_lets i
  refine answers_gated h ?_
  intro t h'
  extract_lets va
  split
  · rename_i e
    exact .next fun k => canonical_accessTrap ((canonical_checkAccess (h' k)).trap e)
  · exact .next fun k => canonical_waitOn (h' k) ..
  · rename_i e
    have h1 := fun k => (canonical_checkAccess (h' k)).ok e
    split
    · exact .next fun k => canonical_stopMe (h1 k)
    · split
      · rename_i e
        have h2 := fun k => canonical_snd (canonical_loadTarget (canonical_accessEvent (h1 k)) ..) e
        split
        · exact .next fun k => canonical_trapAt (h' k) ..
        · exact .next fun k => canonical_waitOn (h' k) ..
        · exact .next fun k => canonical_stopMe (h' k)
        · rename_i e
          have h3 := fun k => (canonical_issueCmd (h2 k)).ok e
          exact answers_doneG h3

theorem answers_execScw {c : Prop} {g : Guard} {a : BitVec 5} {s : State} (h : c → s.Canonical) : Answers c (execScw g a s) := by
  unfold execScw
  extract_lets i
  refine answers_gated h ?_
  intro t h'
  extract_lets n cs
  split
  · exact answers_done h'
  · split
    · exact .next fun k => canonical_trap (canonical_mapCtx (h' k) ..) ..
    · exact answers_ite (.next fun k => canonical_waitOn (h' k) ..) (answers_done (fun k => canonical_mapCtx (h' k) ..))

/-! ## Canonical: Machine/Launch -/

theorem canonical_syncBlk {s : State} {b : Blk} (h : s.Canonical) : (s.syncBlk b).Canonical :=
  canonical_ite h (canonical_mapBlk (canonical_devPut h ..) ..)

theorem canonical_sync {s : State} (h : s.Canonical) : s.sync.Canonical := canonical_foldl canonical_syncBlk h

theorem canonical_rootEnded {s : State} {fn : Nat} {root : Word} (h : s.Canonical) : (s.rootEnded fn root).Canonical :=
  canonical_ite (canonical_msix (canonical_setFn h ..) ..) h

theorem canonical_endBlk {s : State} {fn : Nat} {a : Word} {st : BlkSt} {cause : BitVec 8} (h : s.Canonical) :
    (s.endBlk fn a st cause).Canonical := by
  unfold State.endBlk
  extract_lets s1
  have h1 : s1.Canonical := canonical_mapBlk h ..
  split
  · exact h
  · exact canonical_ite h (canonical_ite (canonical_rootEnded h1) h1)

theorem canonical_settleLevel {s : State} {level : Nat} (h : s.Canonical) : (s.settleLevel level).Canonical := by
  unfold State.settleLevel
  refine canonical_foldl ?_ h
  intro s_1 x h'
  split
  · exact canonical_endBlk h'
  · exact h'

theorem canonical_settle {s : State} (h : s.Canonical) : s.settle.Canonical := canonical_foldl canonical_settleLevel h

theorem canonical_walkTree {rd : State → Word → BlockRead} {fn : Nat} {root : Word} {n : Nat} {fs : List Frame} {acc : List Blk}
    {s : State} (hrd : ∀ {t x0}, t.Canonical → (rd t x0).Canonical) (h : s.Canonical) :
    (walkTree rd fn root n fs acc s).Canonical := by
  induction n generalizing fs acc s with
  | zero => exact h
  | succ n ih =>
    cases fs with
    | nil => exact h
    | cons f rest =>
      unfold walkTree
      split
      · exact h
      · split
        · trivial
        · rename_i e
          exact (hrd h).fault e
        · exact h
        · rename_i e
          have h1 := (hrd h).ok e
          split
          · exact h1
          · exact ih h1

theorem canonical_devBlock {fn : Nat} {s : State} {a : Word} (h : s.Canonical) : (devBlock fn s a).Canonical := by
  unfold devBlock
  split
  · exact h
  · exact h

theorem canonical_refuseBlk {s : State} {fn : Nat} {a : Word} {cause : BitVec 8} (h : s.Canonical) :
    (s.refuseBlk fn a cause).Canonical :=
  canonical_devPut h ..

theorem canonical_enqueue {s : State} {d : Nat} {e : QEntry} (h : s.Canonical) : (s.enqueue d e).Canonical := h

theorem canonical_enterBlks {l : List Blk} {s : State} (h : s.Canonical) : (State.enterBlks l s).Canonical := by
  induction l generalizing s with
  | nil => exact h
  | cons b rest ih => exact canonical_ite h (ih (canonical_mapBlk (canonical_enqueue h) ..))

theorem canonical_enterTree {s : State} {fn : Nat} {bs : List Blk} (h : s.Canonical) : (s.enterTree fn bs).Canonical := by
  unfold State.enterTree
  exact canonical_settle (canonical_enterBlks ⟨h.1, h.filterGroups _⟩)

theorem answers_execLaunch {c : Prop} {s : State} (h : c → s.Canonical) : Answers c (execLaunch s) :=
  .next fun k => canonical_setFn (h k) ..

theorem canonical_replayRefused {s : State} {fn : Nat} {root : Word} (h : s.Canonical) : (s.replayRefused fn root).Canonical :=
  canonical_ite (canonical_setFn h ..) h

theorem canonical_refuseLaunch {s : State} {fn : Nat} {root named : Word} {cause : BitVec 8} (h : s.Canonical) :
    (s.refuseLaunch fn root named cause).Canonical := by
  unfold State.refuseLaunch
  extract_lets s1
  have h1 : s1.Canonical := canonical_refuseBlk h
  exact canonical_replayRefused (canonical_msix (canonical_ite h1 (canonical_refuseBlk h1)) ..)

theorem answers_execWorkBlockWalk {c : Prop} {s : State} (h : c → s.Canonical) : Answers c (execWorkBlockWalk s) := by
  unfold execWorkBlockWalk
  extract_lets n f
  split
  · exact .next fun k => canonical_enterBlks (h k)
  · split
    · exact .next h
    · extract_lets s1 cut
      have h1 : c → s1.Canonical := fun k => canonical_setFn (h k) ..
      split
      · exact .next fun k => canonical_replayRefused (canonical_msix (canonical_devFault (h1 k) ..) ..)
      · split
        · exact .next h
        · rename_i e
          exact .next fun k => canonical_refuseLaunch ((canonical_walkTree canonical_devBlock (h1 k)).refused e)
        · rename_i e
          exact answers_ite (.next h) (.next fun k => canonical_enterTree
              (canonical_setFn ((canonical_walkTree canonical_devBlock (h1 k)).ok e) ..))

theorem canonical_linkTree {s t : State} {rd : State → Word → BlockRead} {wait : Bool} {a : Word} {r : Option (BitVec 8)}
    (h : s.Canonical) (hrd : ∀ {t x0}, t.Canonical → (rd t x0).Canonical) (e : s.linkTree rd wait a = .ok (r, t)) :
    t.Canonical := by
  unfold State.linkTree at e
  dsimp only at e
  split at e
  · cases e
    exact canonical_refuseBlk h
  · split at e
    · cases e
      exact canonical_refuseBlk h
    · split at e
      · cases e
        exact canonical_refuseBlk h
      · split at e
        · cases e
        · rename_i ew
          have h1 := (canonical_walkTree hrd h).refused ew
          cases e
          exact canonical_ite (canonical_refuseBlk (canonical_blkPut h1 ..))
              (canonical_refuseBlk (canonical_refuseBlk (canonical_blkPut h1 ..)))
        · rename_i ew
          have h1 := (canonical_walkTree hrd h).ok ew
          split at e
          · cases e
          · cases e
            exact canonical_enterTree (canonical_blkPut h1 ..)

theorem canonical_taskBlock {s : State} {a : Word} (h : s.Canonical) : (taskBlock s a).Canonical := canonical_ordinaryRead h

theorem answers_execDlaunch {c : Prop} {g : Guard} {d a : BitVec 5} {s : State} (h : c → s.Canonical) :
    Answers c (execDlaunch g d a s) := by
  unfold execDlaunch
  refine answers_gated h fun {s} h => ?_
  extract_lets va
  refine answers_ite (.next fun k => canonical_trapAt (h k) ..) (answers_ite (.next fun k => canonical_trapAt (h k) ..) ?_)
  split
  · exact .next h
  · rename_i e
    exact .next fun k => canonical_trapAt ((canonical_taskBlock (h k)).fault e) ..
  · exact .next fun k => canonical_stopMe (h k)
  · rename_i e
    have h1 := fun k => (canonical_taskBlock (h k)).ok e
    split
    · exact .next fun k => canonical_trapAt (h k) ..
    · split
      · exact answers_doneG h1
      · split
        · exact .next h
        · rename_i e
          exact answers_doneG fun k => canonical_linkTree (h1 k) canonical_taskBlock e

/-! ## Canonical: Machine/Elements -/

theorem answers_cell {c : Prop} {op : Nat} {s : State} (h : c → s.Canonical) : Answers c (cell op s) := by
  unfold cell
  extract_lets n nl fmt up
  split
  · exact .next h
  · split
    · exact .next fun k => canonical_mapRun (h k) ..
    · exact answers_fireWith h

theorem answers_execPlaneDrain {c : Prop} {s : State} (h : c → s.Canonical) : Answers c (execPlaneDrain s) :=
  answers_ite (.next h) (.next fun k => canonical_mapRun (h k) ..)

theorem answers_execAccsw {c : Prop} {s : State} (h : c → s.Canonical) : Answers c (execAccsw s) :=
  answers_fireWith (fun k => canonical_flushRelatch (h k))

/-! ## Canonical: Machine/AddrGen -/

theorem canonical_latchUse {s : State} {va : Word} {kind : Kind} {pte : Word} {sz : Nat} (h : s.Canonical) :
    (latchUse s va kind pte sz).Canonical := by
  unfold latchUse
  split
  · exact h
  · exact canonical_placePage h

theorem canonical_latchPlace {e : Nat} {s : State} {l : Word} {l_1 : Kind} (h : s.Canonical) :
    (latchPlace e s l l_1).Canonical := by
  unfold latchPlace
  split
  · exact h
  · split
    · exact canonical_placeWindow h
    · split
      · exact h
      · split
        · exact canonical_latchUse h
        · split
          · rename_i e_1
            have h1 := canonical_snd (canonical_translate h) e_1
            split
            · rename_i e_1
              exact canonical_snd (canonical_translate h) e_1
            · rename_i e_1
              exact canonical_latchUse (canonical_mapRun (canonical_snd (canonical_translate h) e_1) ..)

theorem answers_agStep {c : Prop} {op : Nat} {s : State} {k : LoopEntry → Elem → Res} (h : c → s.Canonical)
    (hk : ∀ {x0 x1}, Answers c (k x0 x1)) : Answers c (agStep op s k) := by
  unfold agStep
  extract_lets e x w v
  split
  · exact .next h
  · extract_lets y
    split
    · exact .next h
    · split
      · exact hk
      · split
        · exact .next h
        · split
          · exact .next fun k => canonical_mapRun (h k) ..
          · split
            · exact .next h
            · exact answers_ite (.next fun k => canonical_fire (h k)) (.next h)

theorem answers_execAgloop {c : Prop} {s : State} (h : c → s.Canonical) : Answers c (execAgloop s) :=
  answers_agStep h (answers_ite (.next fun k => canonical_fire (h k)) (.next h))

theorem answers_execAgld {c : Prop} {s : State} (h : c → s.Canonical) : Answers c (execAgld s) := by
  unfold execAgld
  extract_lets e
  refine answers_agStep h ?_
  intro x0 x1
  extract_lets va
  split
  · exact .next h
  · split
    · exact .next fun k => canonical_elemFault (h k)
    · split
      · rename_i e_1
        exact .next fun k => canonical_elemFault ((canonical_engRead (h k) (fun h => canonical_latchPlace h)).fault e_1)
      · exact .next h
      · rename_i e_1
        have h1 := fun k => (canonical_engRead (h k) (fun h => canonical_latchPlace h)).ok e_1
        extract_lets v y src
        split
        · split
          · exact .next fun k => canonical_elemFault (h1 k)
          · split
            · exact .next fun k => canonical_elemFault (h1 k)
            · exact .next fun k => canonical_fire (h1 k)
        · exact .next fun k => canonical_fire (h1 k)

theorem canonical_agWrite {e : Nat} {s : State} {va : Word} {bs : List Byte} (h : s.Canonical) :
    (agWrite e s va bs).Canonical := by
  unfold agWrite
  extract_lets gs charge
  have hcharge : ∀ {f s}, s.Canonical → (charge f s).Canonical := fun h => canonical_mapMe h ..
  split
  · exact canonical_engWrite h (fun h => canonical_latchPlace h)
  · split
    · rename_i e_1
      exact hcharge ((canonical_engWrite (hcharge h) (fun h => canonical_latchPlace h)).ok e_1)
    · rename_i e_1
      exact hcharge ((canonical_engWrite (hcharge h) (fun h => canonical_latchPlace h)).fault e_1)
    · exact trivial

theorem answers_agSink {c : Prop} {op : Nat} {atoms : Bool} {align : Nat} {s : State}
    {wr : State → Word → List Byte → EngRes Unit} (h : c → s.Canonical)
    (hwr : ∀ {t x0 x1}, t.Canonical → (wr t x0 x1).Canonical) : Answers c (agSink op atoms align s wr) := by
  unfold agSink
  extract_lets e v x
  split
  · exact answers_ite (.next h) (.next fun k => canonical_fire (h k))
  · refine answers_agStep h ?_
    intro x0 x1
    extract_lets va write
    have hwrite : ∀ {s}, s.Canonical → (write s).Canonical := by
      intro s_1 h'
      unfold write
      split
      · exact canonical_elemFault h'
      · split
        · rename_i e_1
          exact canonical_elemFault ((hwr h').fault e_1)
        · exact h'
        · rename_i e_1
          exact canonical_mapRun ((hwr h').ok e_1) ..
    split
    · exact .next fun k => hwrite (h k)
    · split
      · exact .next h
      · split
        · exact .next fun k => canonical_elemFault (h k)
        · exact answers_ite (.next fun k => hwrite (canonical_fire (h k))) (.next fun k => canonical_fire (h k))

theorem answers_execAgst {c : Prop} {s : State} (h : c → s.Canonical) : Answers c (execAgst s) := by
  unfold execAgst
  refine answers_agSink h ?_
  intro t x0 x1 h'
  split
  · rename_i e
    exact (canonical_agWrite h').ok e
  · rename_i e
    exact (canonical_agWrite h').fault e
  · exact trivial

theorem answers_execAgred {c : Prop} {s : State} (h : c → s.Canonical) : Answers c (execAgred s) := by
  unfold execAgred
  extract_lets rop
  refine answers_agSink h ?_
  intro t x0 x1 h'
  split
  · rename_i e
    exact (canonical_engReduce (fun h => canonical_latchPlace h) h').ok e
  · rename_i e
    exact (canonical_engReduce (fun h => canonical_latchPlace h) h').fault e
  · exact trivial

theorem answers_execAggath {c : Prop} {s : State} (h : c → s.Canonical) : Answers c (execAggath s) := by
  unfold execAggath
  extract_lets e v
  refine answers_agStep h ?_
  intro x0 x1
  extract_lets n
  split
  · exact .next h
  · exact answers_ite (.next fun k => canonical_fire (h k)) (.next h)
  · split
    · exact .next fun k => canonical_fire (h k)
    · extract_lets va
      split
      · exact .next h
      · split
        · exact .next fun k => canonical_elemFault (h k)
        · split
          · exact .next fun k => canonical_elemFault (h k)
          · split
            · rename_i e_1
              exact .next fun k => canonical_elemFault ((canonical_engRead (h k) (fun h => canonical_latchPlace h)).fault e_1)
            · exact .next h
            · rename_i e_1
              exact .next fun k => canonical_fire ((canonical_engRead (h k) (fun h => canonical_latchPlace h)).ok e_1)

/-! ## Canonical: Machine/Flumes -/

theorem canonical_mapFlume {s : State} {fn : Nat} {hdr : Word} {f : Flume → Flume} (h : s.Canonical) :
    (s.mapFlume fn hdr f).Canonical :=
  h

theorem canonical_writeCounts {s : State} {f : Flume} (h : s.Canonical) : (s.writeCounts f).Canonical := canonical_hdrBlkPut h ..

theorem answers_execFlnew {c : Prop} {g : Guard} {d a b : BitVec 5} {s : State} (h : c → s.Canonical) : Answers c
    (execFlnew g d a b s) := by
  unfold execFlnew
  extract_lets i
  refine answers_gated h ?_
  intro t h'
  extract_lets v base us
  split
  · exact .next fun k => canonical_trapAt (h' k) ..
  · split
    · exact .next fun k => canonical_trapAt (h' k) ..
    · split
      · exact .next fun k => canonical_trapAt (h' k) ..
      · split
        · exact .next fun k => canonical_trapAt (h' k) ..
        · split
          · exact .next fun k => canonical_trapAt (h' k) ..
          · split
            · exact .next fun k => canonical_trapAt (h' k) ..
            · exact answers_doneG (fun k => canonical_mapLineage (canonical_hdrBlkPut ((h' k).same) ..) ..)

theorem canonical_writeOwners {s : State} (h : s.Canonical) : s.writeOwners.Canonical :=
  canonical_foldl (fun h => canonical_hdrBlkPut h ..) h

theorem answers_execFlawait {c : Prop} {g : Guard} {a b : BitVec 5} {s : State} (h : c → s.Canonical) : Answers c
    (execFlawait g a b s) := by
  unfold execFlawait
  extract_lets i
  refine answers_gated h ?_
  intro t h'
  extract_lets hdr n
  split
  · exact answers_done h'
  · split
    · exact .next fun k => canonical_trapAt (h' k) ..
    · exact answers_ite (.next fun k => canonical_trapAt (h' k) ..)
          (answers_ite (answers_done (fun k => canonical_mapCtx (h' k) ..)) (.next fun k => canonical_waitOn (h' k) ..))

theorem answers_execFlrel {c : Prop} {g : Guard} {a b : BitVec 5} {s : State} (h : c → s.Canonical) : Answers c
    (execFlrel g a b s) := by
  unfold execFlrel
  extract_lets i
  refine answers_gated h ?_
  intro t h'
  extract_lets hdr n
  split
  · exact answers_done h'
  · split
    · exact .next fun k => canonical_trapAt (h' k) ..
    · extract_lets f1
      exact answers_ite (.next fun k => canonical_trapAt (h' k) ..)
          (answers_done (fun k => canonical_writeCounts (canonical_mapFlume (h' k))))

/-! ## Canonical: Machine/Streams -/

theorem canonical_startCmd {s : State} {c : Cmd} {ctr : List Nat} (h : s.Canonical) : (s.startCmd c ctr).Canonical := h

theorem canonical_finishCmd {s : State} {q : BitVec 32} (h : s.Canonical) : (s.finishCmd q).Canonical := h

theorem canonical_postEnd {s : State} {p : Pending} (h : s.Canonical) : (s.postEnd p).Canonical :=
  canonical_ite h (canonical_mapCtx h ..)

theorem canonical_endCmd {s : State} {c : Cmd} {cause : BitVec 8} (h : s.Canonical) : (s.endCmd c cause).Canonical :=
  canonical_postEnd (canonical_finishCmd (canonical_mapCmd h))

theorem canonical_rereadBlock {s : State} {c : Cmd} (h : s.Canonical) : (s.rereadBlock c).Canonical := by
  unfold State.rereadBlock
  split
  · rename_i e
    exact canonical_mapCmd ((canonical_readBlock h).ok e)
  · rename_i e
    exact canonical_mapCmd ((canonical_readBlock h).fault e)
  · exact h
  · exact canonical_stopMe h

theorem canonical_startStop {s : State} {c : Cmd} {e : BitVec 8} {va : Word} (h : s.Canonical) : (s.startStop c e va).Canonical :=
  canonical_ite (canonical_endCmd (canonical_cmdRecord h)) (canonical_cmdFault h)

theorem answers_runCmd {c : Prop} {s : State} {check : State → Cmd → Option (BitVec 8 × Word)} {start work : State → Cmd → State}
    (h : c → s.Canonical) (hstart : ∀ {t x0}, t.Canonical → (start t x0).Canonical)
    (hwork : ∀ {t x0}, t.Canonical → (work t x0).Canonical) : Answers c (runCmd s check start work) := by
  unfold runCmd
  split
  · exact .next h
  · split
    · exact .next h
    · split
      · exact .next fun k => canonical_rereadBlock (h k)
      · split
        · split
          · exact .next h
          · split
            · exact .next fun k => canonical_startStop (h k)
            · exact .next fun k => hstart (h k)
        · exact .next fun k => hwork (h k)
        · exact .next h

theorem canonical_presentUnit {s : State} {c : Cmd} {pl : Placer} {va : Word} {bs : List Byte} {next : List Nat} (h : s.Canonical) :
    (s.presentUnit c pl va bs next).Canonical := by
  unfold State.presentUnit
  extract_lets p
  split
  · exact canonical_cmdFault h
  · split
    · exact canonical_cmdFault h
    · rename_i e
      exact canonical_mapCmd (canonical_offer h _ e)

theorem canonical_drainInput {s : State} {c : Cmd} (h : s.Canonical) : (s.drainInput c).Canonical :=
  canonical_ite (canonical_finishCmd h) h

theorem canonical_copyIn {pl : Placer} {p : Pat} {s : State} {c : Cmd} (hpl : ∀ {t x0 x1}, t.Canonical → (pl t x0 x1).Canonical)
    (h : s.Canonical) : (copyIn pl p s c).Canonical := by
  unfold copyIn
  extract_lets va
  split
  · exact h
  · split
    · exact canonical_drainInput h
    · split
      · exact canonical_cmdFault h
      · split
        · rename_i e
          exact canonical_cmdFault ((canonical_engRead h (fun h => hpl h)).fault e)
        · exact h
        · rename_i e
          exact canonical_presentUnit ((canonical_engRead h (fun h => hpl h)).ok e)

theorem canonical_wroteUnit {s : State} {c : Cmd} {p n clk : Nat} {tiles : List Nat} {sat : Bool} {next : List Nat}
    (h : s.Canonical) : (s.wroteUnit c p n clk tiles sat next).Canonical := by
  unfold State.wroteUnit
  extract_lets new s1 s2
  have h1 : s1.Canonical := canonical_foldl (fun h => canonical_setTile h ..) h
  have h2 : s2.Canonical := canonical_mapCmd (canonical_mapRun h1 ..)
  exact canonical_ite (canonical_finishCmd h2) h2

theorem canonical_copyOut {c : Cmd} {n : Nat} {va : Word} {next : List Nat} {s : State}
    {wr : State → Word → List Byte → EngRes (Nat × List Nat × Bool)} (h : s.Canonical)
    (hwr : ∀ {t x0 x1}, t.Canonical → (wr t x0 x1).Canonical) : (copyOut c n va next s wr).Canonical := by
  unfold copyOut
  extract_lets q
  split
  · exact h
  · split
    · rename_i e
      exact canonical_cmdFault ((hwr h).fault e)
    · exact h
    · rename_i e
      exact canonical_wroteUnit ((hwr h).ok e)

theorem canonical_plainWrite {pl : Placer} {s : State} {va : Word} {bs : List Byte}
    (hpl : ∀ {t x0 x1}, t.Canonical → (pl t x0 x1).Canonical) (h : s.Canonical) : (plainWrite pl s va bs).Canonical := by
  unfold plainWrite
  split
  · rename_i e
    exact (canonical_engWrite h (fun h => hpl h)).ok e
  · rename_i e
    exact (canonical_engWrite h (fun h => hpl h)).fault e
  · exact trivial

theorem canonical_patOut {p : Pat} {align : Nat} {s : State} {c : Cmd}
    {wr : State → Word → List Byte → EngRes (Nat × List Nat × Bool)} (h : s.Canonical)
    (hwr : ∀ {t x0 x1}, t.Canonical → (wr t x0 x1).Canonical) : (patOut p align s c wr).Canonical :=
  canonical_ite (canonical_cmdFault h) (canonical_copyOut h (fun h => hwr h))

theorem canonical_startPat {s : State} {c : Cmd} (h : s.Canonical) : (startPat s c).Canonical := by
  unfold startPat
  split
  · exact h
  · exact canonical_startCmd h

theorem canonical_withPat {c : Cmd} {s : State} {k : Pat → State} (h : s.Canonical) (hk : ∀ {x0}, (k x0).Canonical) :
    (withPat c s k).Canonical := by
  unfold withPat
  split
  · exact h
  · exact hk

theorem answers_execScCopy {c : Prop} {p : BitVec 6} {blk : BitVec 24} {s : State} (h : c → s.Canonical) : Answers c
    (execScCopy p blk s) := by
  unfold execScCopy
  refine answers_runCmd h canonical_startPat (fun h => canonical_withPat h
      (canonical_ite (canonical_patOut h (canonical_plainWrite canonical_enginePlace))
      (canonical_copyIn canonical_enginePlace h)))

theorem canonical_slotPlace {fill : Bool} {s : State} {l : Word} {l_1 : Kind} (h : s.Canonical) :
    (slotPlace fill s l l_1).Canonical := by
  unfold slotPlace
  split
  · exact h
  · split
    · exact h
    · split
      · exact h
      · exact canonical_placeSluice h

theorem answers_execScSlfill {c : Prop} {p : BitVec 6} {blk : BitVec 24} {s : State} (h : c → s.Canonical) : Answers c
    (execScSlfill p blk s) :=
  answers_runCmd h canonical_startPat (fun h => canonical_withPat h
    (canonical_patOut h (canonical_plainWrite canonical_slotPlace)))

theorem answers_execScSlsee {c : Prop} {p : BitVec 6} {blk : BitVec 24} {s : State} (h : c → s.Canonical) : Answers c
    (execScSlsee p blk s) := by
  unfold execScSlsee
  refine answers_runCmd h canonical_startPat ?_
  intro t x0 h'
  refine canonical_withPat h' ?_
  intro x0_1
  extract_lets va
  split
  · exact canonical_copyIn canonical_slotPlace h'
  · split
    · rename_i e
      have h1 := (canonical_slotPlace h').ok e
      split
      · exact canonical_stopMe h'
      · split
        · exact h'
        · exact canonical_endCmd h'
        · exact canonical_copyIn canonical_slotPlace h'
    · exact canonical_copyIn canonical_slotPlace h'

theorem canonical_indexed {p : Pat} {s : State} {c : Cmd} (h : s.Canonical) : (indexed p s c).Canonical := by
  unfold indexed
  extract_lets ia n
  split
  · exact h
  · split
    · rename_i e
      exact (canonical_engRead h canonical_enginePlace).fault e
    · exact trivial
    · rename_i e
      have h1 := (canonical_engRead h canonical_enginePlace).ok e
      extract_lets x a
      split
      · exact h1
      · split
        · exact h1
        · exact h1

theorem answers_execScGath {c : Prop} {p : BitVec 6} {blk : BitVec 24} {esz : BitVec 4} {lim : BitVec 24} {s : State}
    (h : c → s.Canonical) : Answers c (execScGath p blk esz lim s) := by
  unfold execScGath
  refine answers_runCmd h canonical_startPat ?_
  intro t x0 h'
  refine canonical_withPat h' ?_
  intro x0_1
  split
  · exact h'
  · split
    · exact canonical_drainInput h'
    · split
      · rename_i e
        exact canonical_cmdFault ((canonical_indexed h').fault e)
      · exact h'
      · rename_i e
        have h1 := (canonical_indexed h').ok e
        split
        · rename_i e
          exact canonical_cmdFault ((canonical_engRead h1 canonical_enginePlace).fault e)
        · exact h'
        · rename_i e
          exact canonical_presentUnit ((canonical_engRead h1 canonical_enginePlace).ok e)

theorem answers_execScScat {c : Prop} {p : BitVec 6} {blk : BitVec 24} {esz : BitVec 4} {lim : BitVec 24} {s : State}
    (h : c → s.Canonical) : Answers c (execScScat p blk esz lim s) := by
  unfold execScScat
  refine answers_runCmd h canonical_startPat ?_
  intro t x0 h'
  refine canonical_withPat h' ?_
  intro x0_1
  split
  · rename_i e
    exact canonical_cmdFault ((canonical_indexed h').fault e)
  · exact h'
  · rename_i e
    exact canonical_copyOut ((canonical_indexed h').ok e) (canonical_plainWrite canonical_enginePlace)

theorem canonical_writeSlot {f : Flume} {s : State} {bs : List Byte} (h : s.Canonical) : (writeSlot f s bs).Canonical := by
  unfold writeSlot
  extract_lets i
  split
  · exact canonical_engWrite h canonical_enginePlace
  · split
    · trivial
    · exact canonical_storeTarget h ..

theorem answers_execScFlume {c : Prop} {p : BitVec 6} {n : BitVec 32} {s : State} (h : c → s.Canonical) : Answers c
    (execScFlume p n s) := by
  unfold execScFlume
  refine answers_runCmd h canonical_startCmd ?_
  intro t x0 h'
  extract_lets q
  split
  · exact canonical_cmdFault h'
  · split
    · exact h'
    · split
      · rename_i e
        exact canonical_cmdFault ((canonical_writeSlot h').fault e)
      · exact h'
      · rename_i e
        exact canonical_mapCmd (canonical_mapRun ((canonical_writeSlot h').ok e) ..)

theorem answers_execFlumeSlotRetire {c : Prop} {s : State} (h : c → s.Canonical) : Answers c (execFlumeSlotRetire s) := by
  unfold execFlumeSlotRetire
  split
  · exact .next h
  · extract_lets k
    split
    · exact .next h
    · split
      · exact .next h
      · extract_lets f1 s1 s2
        have h1 : c → s1.Canonical := fun k => canonical_writeCounts (canonical_mapFlume (h k))
        have h2 : c → s2.Canonical := fun k => canonical_mapCmd (h1 k)
        exact .next fun k => canonical_ite (canonical_finishCmd (h2 k)) (h2 k)

theorem canonical_reduceWrite {c : Cmd} {s : State} {va : Word} {bs : List Byte} (h : s.Canonical) :
    (reduceWrite c s va bs).Canonical := by
  unfold reduceWrite
  split
  · rename_i e
    exact (canonical_engReduce canonical_enginePlace h).ok e
  · rename_i e
    exact (canonical_engReduce canonical_enginePlace h).fault e
  · exact trivial

theorem canonical_combineUnits {p : Pat} {s0 : State} {n : Nat} {s : State} (h0 : s0.Canonical) (h : s.Canonical) :
    (combineUnits p s0 n s).Canonical := by
  induction n generalizing s with
  | zero => exact h
  | succ n ih =>
    unfold combineUnits
    split
    · exact h
    · dsimp only
      split
      · exact canonical_cmdFault h
      · split
        · rename_i e
          exact canonical_cmdFault ((canonical_reduceWrite h).fault e)
        · exact h0
        · rename_i e
          exact ih (canonical_wroteUnit ((canonical_reduceWrite h).ok e))

theorem canonical_skipUnits {p : Pat} {n : Nat} {s : State} (h : s.Canonical) : (skipUnits p n s).Canonical := by
  induction n generalizing s with
  | zero => exact h
  | succ n ih =>
    unfold skipUnits
    split
    · exact h
    · exact ih (canonical_wroteUnit h)

theorem answers_execScRcopy {c : Prop} {p : BitVec 6} {blk : BitVec 24} {rop : BitVec 4} {st : BitVec 24} {s : State}
    (h : c → s.Canonical) : Answers c (execScRcopy p blk rop st s) := by
  unfold execScRcopy
  refine answers_runCmd h canonical_startPat (fun h => canonical_withPat h
      (canonical_ite h (canonical_ite (canonical_skipUnits h)
      (canonical_ite (canonical_mapCmd (canonical_combineUnits h h)) (canonical_combineUnits h h)))))

theorem answers_execScBind {c : Prop} {p : BitVec 6} {cls : BitVec 2} {s : State} (h : c → s.Canonical) : Answers c
    (execScBind p cls s) := by
  unfold execScBind
  refine answers_runCmd h (fun h => canonical_ite (canonical_cmdFault (canonical_mapRun h ..))
      (canonical_finishCmd (canonical_mapRun h ..))) (fun h => h)

theorem canonical_pushTag {s : State} {ch : BitVec 12} {tag : Word} {seq : BitVec 32} {ipc : Word} {clk : Nat} (h : s.Canonical) :
    OptCanonical (s.pushTag ch tag seq ipc clk) := by
  unfold State.pushTag
  extract_lets s1
  have h1 : s1.Canonical := canonical_push h ..
  split
  · exact optCanonical_some h
  · split
    · exact optCanonical_some (canonical_ite (canonical_postEnd h1) h1)
    · split
      · exact optCanonical_some (canonical_push h ..)
      · exact optCanonical_none

theorem answers_execScTok {c : Prop} {p : BitVec 6} {ch : BitVec 12} {tag : Word} {s : State} (h : c → s.Canonical) : Answers c
    (execScTok p ch tag s) := by
  unfold execScTok
  refine answers_runCmd h (fun h => canonical_ite (canonical_startCmd h) (canonical_startCmd (canonical_offerCtl h))) ?_
  intro t x0 h'
  split
  · split
    · exact h'
    · rename_i e
      exact canonical_finishCmd (canonical_pushTag h' _ e)
  · exact canonical_drainInput h'

theorem answers_execScDrain {c : Prop} {p : BitVec 6} {s : State} (h : c → s.Canonical) : Answers c (execScDrain p s) :=
  answers_runCmd h (fun h => canonical_startCmd (canonical_offerCtl h)) canonical_drainInput

theorem answers_execScNop {c : Prop} {s : State} (h : c → s.Canonical) : Answers c (execScNop s) :=
  answers_runCmd h (fun h => canonical_finishCmd h) (fun h => h)

theorem answers_execScFence {c : Prop} {s : State} (h : c → s.Canonical) : Answers c (execScFence s) :=
  answers_runCmd h canonical_startCmd (fun h => canonical_ite h (canonical_finishCmd (canonical_mapCmd h)))

theorem canonical_setInact {s : State} {p : Plane} (h : s.Canonical) : (s.setInact p).Canonical := h

theorem canonical_endLoad {s : State} {c : Cmd} {cause : BitVec 8} (h : s.Canonical) : (s.endLoad c cause).Canonical := by
  unfold State.endLoad
  extract_lets src s1
  have h1 : s1.Canonical := canonical_endCmd (canonical_setInact h)
  exact canonical_ite (canonical_lifeAdd h1 ..) h1

theorem answers_execScCfg {c : Prop} {blk : BitVec 24} {s : State} (h : c → s.Canonical) : Answers c (execScCfg blk s) := by
  unfold execScCfg
  extract_lets src
  refine answers_runCmd h (fun h => canonical_ite h (canonical_startCmd h)) ?_
  intro t x0 h'
  extract_lets s0
  have h0 : s0.Canonical := canonical_setInact h'
  split
  · exact canonical_ite (canonical_endLoad (canonical_cmdRecord h')) (canonical_cmdFault h')
  · split
    · exact canonical_endLoad h'
    · split
      · exact h'
      · exact canonical_stopMe h'
      · rename_i e
        exact canonical_ite (canonical_endLoad ((canonical_loadImage h0).fault e)) (canonical_cmdFault h')
      · rename_i e
        exact canonical_endLoad ((canonical_loadImage h0).ue e)
      · rename_i e
        exact canonical_endLoad ((canonical_loadImage h0).rej e)
      · rename_i e
        exact canonical_finishCmd (canonical_mapRun ((canonical_loadImage h0).ok e) ..)

theorem answers_execScSwap {c : Prop} {s : State} (h : c → s.Canonical) : Answers c (execScSwap s) :=
  answers_runCmd h canonical_startCmd (fun h => canonical_ite h
    (canonical_ite (canonical_endCmd h) (canonical_finishCmd (canonical_mapRun h ..))))

theorem canonical_withCard {c : Cmd} {s : State} {k : Card → State} (h : s.Canonical) (hk : ∀ {x0}, (k x0).Canonical) :
    (withCard c s k).Canonical := by
  unfold withCard
  split
  · exact h
  · exact hk

theorem canonical_takeCard {s : State} {q : BitVec 32} {d : Card} (h : s.Canonical) : (s.takeCard q d).Canonical := h

theorem canonical_leaveCard {s : State} {q : BitVec 32} (h : s.Canonical) : (s.leaveCard q).Canonical := h

theorem canonical_startJob {s : State} {c : Cmd} (h : s.Canonical) : (startJob s c).Canonical :=
  canonical_withCard h (canonical_startCmd (canonical_takeCard h))

theorem canonical_cardBurst {d : Card} {limit : Nat} {s : State} {c : Cmd} {va : Word} (h : s.Canonical) :
    (cardBurst d limit s c va).Canonical := by
  unfold cardBurst
  split
  · rename_i e
    exact (canonical_engRead h canonical_enginePlace).fault e
  · exact trivial
  · rename_i e
    have h1 := (canonical_engRead h canonical_enginePlace).ok e
    extract_lets h_1 n
    split
    · exact h1
    · split
      · exact h1
      · exact canonical_engRead h1 canonical_enginePlace

theorem canonical_freeJobPorts {s : State} {c : Cmd} {d : Card} (h : s.Canonical) : (s.freeJobPorts c d).Canonical :=
  canonical_ite h (canonical_mapMe (canonical_mapCmd h) ..)

theorem canonical_jobNext {s : State} {c : Cmd} {d : Card} (h : s.Canonical) : (s.jobNext c d).Canonical := by
  unfold State.jobNext
  split
  · exact canonical_ite (canonical_finishCmd (canonical_leaveCard h)) h
  · exact canonical_mapCmd h

theorem canonical_spillPlanes {c : Cmd} {d : Card} {l : List Nat} {k : Nat} {s : State} (h : s.Canonical) :
    (spillPlanes c d l k s).Canonical := by
  induction l generalizing s k with
  | nil => exact h
  | cons e es ih =>
    unfold spillPlanes
    split
    · exact ih h
    · dsimp only
      split
      · rename_i e
        exact (canonical_engWrite h canonical_enginePlace).fault e
      · trivial
      · rename_i e
        exact ih ((canonical_engWrite h canonical_enginePlace).ok e)

theorem canonical_reloadPlanes {c : Cmd} {d : Card} {l : List Nat} {s : State} (h : s.Canonical) :
    (reloadPlanes c d l s).Canonical := by
  induction l generalizing s with
  | nil => exact h
  | cons e es ih =>
    unfold reloadPlanes
    have hr : (engRead (enginePlace false) s (spillAddr c d e) 144 0 0).Canonical := canonical_engRead h canonical_enginePlace
    split
    · exact ih h
    · split
      · rename_i e
        exact hr.fault e
      · trivial
      · rename_i e
        exact ih (canonical_mapRun (hr.ok e) _)

theorem canonical_jobPresent {d : Card} {s : State} {c : Cmd} (h : s.Canonical) : (jobPresent d s c).Canonical := by
  unfold jobPresent
  extract_lets p a b
  split
  · exact h
  · split
    · exact canonical_cmdFault h
    · split
      · exact canonical_cmdFault h
      · split
        · rename_i e
          exact canonical_cmdFault ((canonical_cardBurst h).fault e)
        · exact h
        · rename_i e
          have h1 := (canonical_cardBurst h).ok e
          split
          · rename_i e
            exact canonical_cmdFault ((canonical_cardBurst h1).fault e)
          · exact h
          · rename_i e
            have h2 := (canonical_cardBurst h1).ok e
            split
            · exact canonical_cmdFault h2
            · rename_i e
              have h3 := canonical_offer h2 _ e
              split
              · exact canonical_cmdFault h2
              · rename_i e
                have h4 := canonical_offer h3 _ e
                exact canonical_ite (canonical_mapCmd (canonical_offerCtl (canonical_offerCtl h4)))
                    (canonical_ite (canonical_mapCmd h4) (canonical_jobNext h4))

theorem canonical_jobTake {d : Card} {s : State} {c : Cmd} (h : s.Canonical) : (jobTake d s c).Canonical := by
  unfold jobTake
  extract_lets va q
  split
  · exact canonical_cmdFault h
  · split
    · exact h
    · split
      · rename_i e
        exact canonical_cmdFault ((canonical_engWrite h canonical_enginePlace).fault e)
      · exact h
      · rename_i e
        exact canonical_mapCmd (canonical_mapRun ((canonical_engWrite h canonical_enginePlace).ok e) ..)

theorem answers_execScJob {c : Prop} {p : BitVec 6} {blk : BitVec 24} {s : State} (h : c → s.Canonical) : Answers c
    (execScJob p blk s) := by
  unfold execScJob
  refine answers_runCmd h canonical_startJob ?_
  intro t x0 h'
  refine canonical_withCard h' ?_
  intro x0_1
  extract_lets s1
  have h1 : s1.Canonical := canonical_freeJobPorts h'
  split
  · split
    · exact h'
    · split
      · rename_i e
        exact canonical_cmdFault ((canonical_reloadPlanes h').fault e)
      · exact h'
      · rename_i e
        exact canonical_jobNext (canonical_takeCard ((canonical_reloadPlanes h').ok e))
  · split
    · exact canonical_jobPresent h'
    · exact canonical_jobTake h1
    · exact canonical_ite h1 (canonical_jobNext h1)

theorem answers_execJobOvertake {c : Prop} {s : State} (h : c → s.Canonical) : Answers c (execJobOvertake s) := by
  unfold execJobOvertake
  split
  · exact .next h
  · split
    · exact .next h
    · split
      · exact .next h
      · split
        · exact .next h
        · split
          · rename_i e
            exact .next fun k => canonical_cmdFault ((canonical_spillPlanes (h k)).fault e)
          · exact .next h
          · rename_i e
            have h1 := fun k => (canonical_spillPlanes (h k)).ok e
            extract_lets s2
            have h2 : c → s2.Canonical := fun k => canonical_mapCmd (canonical_mapRun (h1 k) ..)
            refine .next fun k => ?_
            split
            · exact canonical_startStop (h2 k)
            · exact canonical_startJob (h2 k)

theorem canonical_haloSend {d : HaloDesc} {s : State} {c : Cmd} (h : s.Canonical) : (haloSend d s c).Canonical := by
  unfold haloSend
  extract_lets va
  split
  · exact h
  · split
    · exact canonical_endCmd h
    · split
      · exact h
      · split
        · rename_i e
          exact canonical_cmdFault ((canonical_engRead h canonical_enginePlace).fault e)
        · exact h
        · rename_i e
          have h1 := (canonical_engRead h canonical_enginePlace).ok e
          exact canonical_ite (canonical_discardMsg (canonical_mapCmd h1) ..) (canonical_mapChan (canonical_mapCmd h1) ..)

theorem canonical_dropMsg {s : State} {x : Chan} {i : Nat} {m : HaloMsg} (h : s.Canonical) : (s.dropMsg x i m).Canonical := h

theorem canonical_haloReceive {d : HaloDesc} {s : State} {c : Cmd} (h : s.Canonical) : (haloReceive d s c).Canonical := by
  unfold haloReceive
  extract_lets va
  split
  · exact h
  · split
    · exact h
    · split
      · exact h
      · split
        · exact canonical_cmdFault (canonical_discardMsg (canonical_dropMsg h) ..)
        · split
          · rename_i e
            exact canonical_cmdFault ((canonical_engWrite h canonical_enginePlace).fault e)
          · exact h
          · rename_i e
            exact canonical_mapCmd (canonical_dropMsg ((canonical_engWrite h canonical_enginePlace).ok e))

theorem answers_execScHalo {c : Prop} {p : BitVec 6} {blk : BitVec 24} {s : State} (h : c → s.Canonical) : Answers c
    (execScHalo p blk s) := by
  unfold execScHalo
  refine answers_runCmd h canonical_startCmd ?_
  intro t x0 h'
  split
  · exact h'
  · exact canonical_ite (canonical_haloSend h') (canonical_ite (canonical_haloReceive h')
        (canonical_ite (canonical_finishCmd h') h'))

theorem canonical_collFaulted {s : State} {fn g : Nat} (h : s.Canonical) : (s.collFaulted fn g).Canonical := by
  unfold State.collFaulted
  extract_lets t
  split
  · exact h
  · split
    · exact canonical_devFault h ..
    · split
      · exact canonical_devFault h ..
      · exact h

theorem canonical_contribute {s : State} {c : Cmd} {d : CollDesc} {bs : List Byte} (h : s.Canonical) :
    (s.contribute c d bs).Canonical := by
  unfold State.contribute
  extract_lets s0 ms
  have h0 : s0.Canonical := canonical_ite h (canonical_collFaulted h)
  exact canonical_foldl (fun h => canonical_sendPkg h ..) (canonical_mapCmd h0)

theorem answers_execScColl {c : Prop} {p : BitVec 6} {blk : BitVec 24} {s : State} (h : c → s.Canonical) : Answers c
    (execScColl p blk s) := by
  unfold execScColl
  refine answers_runCmd h canonical_startCmd ?_
  intro t x0 h'
  split
  · exact h'
  · extract_lets va
    split
    · split
      · rename_i e
        exact canonical_cmdFault ((canonical_engRead h' canonical_enginePlace).fault e)
      · exact h'
      · rename_i e
        exact canonical_contribute ((canonical_engRead h' canonical_enginePlace).ok e)
    · exact h'
    · split
      · rename_i e
        exact canonical_cmdFault ((canonical_engWrite h' canonical_enginePlace).fault e)
      · exact h'
      · rename_i e
        exact canonical_finishCmd (canonical_mapCmd ((canonical_engWrite h' canonical_enginePlace).ok e))

theorem canonical_asTask {s : State} {t : TaskId} {f : State → State} (h : s.Canonical)
    (hf : ∀ {t}, t.Canonical → (f t).Canonical) : (s.asTask t f).Canonical := by
  unfold State.asTask
  split
  · rename_i e
    exact hf (canonical_focus h _ e)
  · exact h

theorem canonical_freeTiles {s : State} {c : Cmd} (h : s.Canonical) : (s.freeTiles c).Canonical :=
  canonical_foldl (fun h => canonical_setTile h ..) h

theorem canonical_retireCmd {s : State} {c : Cmd} (h : s.Canonical) : (s.retireCmd c).Canonical :=
  canonical_mapCtx (canonical_mapCmd (canonical_freeTiles h)) ..

theorem canonical_noteStatus {s : State} {c : Cmd} {va : Word} (h : s.Canonical) : (s.noteStatus c va).Canonical := by
  unfold State.noteStatus
  split
  · exact h
  · split
    · rename_i e
      have h1 := (canonical_enginePlace h).ok e
      exact canonical_mapMe h ..
    · exact h

theorem canonical_reapFlumes {s : State} (h : s.Canonical) : s.reapFlumes.Canonical :=
  canonical_foldl (fun h => canonical_mapLineage (canonical_mapFlume h) ..) h

theorem answers_execCommandRetire {c : Prop} {s : State} (h : c → s.Canonical) : Answers c (execCommandRetire s) := by
  unfold execCommandRetire
  split
  · exact .next h
  · split
    · exact .next h
    · split
      · exact .next fun k => canonical_reapFlumes (canonical_retireCmd (h k))
      · split
        · exact .next h
        · rename_i e
          exact .next fun k => canonical_cmdFault ((canonical_engWrite (h k) canonical_enginePlace).fault e)
        · rename_i e
          exact .next fun k => canonical_retireCmd (canonical_mapCmd
              (canonical_noteStatus ((canonical_engWrite (h k) canonical_enginePlace).ok e)))

/-! ## Canonical: Machine/Det -/

theorem canonical_leaveSyncd {s : State} {next : Word} (h : s.Canonical) : (s.leaveSyncd next).Canonical := by
  unfold State.leaveSyncd
  extract_lets s1
  have h1 : s1.Canonical := canonical_mapMe (canonical_mapCtx h ..) ..
  split
  · exact canonical_retireTrap h1
  · exact canonical_retireTo h1 ..

theorem answers_execSyncd {c : Prop} {g : Guard} {s : State} (h : c → s.Canonical) : Answers c (execSyncd g s) := by
  unfold execSyncd
  extract_lets i
  refine answers_guarded h (fun h => answers_ite (.next fun k => canonical_retireTo (h k) ..)
      (answers_ite (answers_ite (.next fun k => canonical_waitOn (h k) ..) (.next fun k => canonical_leaveSyncd (h k)))
      (answers_ite (.next fun k => canonical_trapAt (h k) ..)
      (answers_ite (.next fun k => canonical_waitOn (h k) ..) (.next fun k => canonical_waitOn (canonical_mapMe (h k) ..) ..)))))

theorem canonical_mapGroup {s : State} {fn : Nat} {blk : Word} {f : Group → Group} (h : s.Canonical)
    (hf : ∀ g, Memory.wf g.snap = true → Memory.wf (f g).snap = true) : (s.mapGroup fn blk f).Canonical := by
  refine ⟨h.1, snaps_map fun g hg => ?_⟩
  split
  · exact hf g (h.2 g hg)
  · exact h.2 g hg

-- no info for Sys2Proof.Machine.canonical_mapGroup

theorem snap_closeRound (g : Group) (base : List Host.Cell) (loc size m : Nat) : (g.closeRound base loc size m).snap =
    g.snap := by
  unfold Group.closeRound
  rfl

theorem answers_execAtomicRoundClose {c : Prop} {s : State} (h : c → s.Canonical) : Answers c (execAtomicRoundClose s) := by
  unfold execAtomicRoundClose
  extract_lets fn blk loc size
  split
  · exact .next h
  · split
    · exact .next h
    · exact answers_ite (.next fun k => canonical_mapGroup (h k) fun g hg => (snap_closeRound g ..).symm ▸ hg) (.next h)

theorem canonical_stamp {s : State} {fn : Nat} {keys drops : List Nat} {prev clk : Nat} (h : s.Canonical) :
    (s.stamp fn keys drops prev clk).2.Canonical := by
  unfold State.stamp
  extract_lets ks t
  exact canonical_snd_ite h (canonical_noteTime h.same ..)

theorem canonical_mergeDrops {s : State} {t : Task} {keep : Bool} {td : Nat} (h : s.Canonical) :
    (s.mergeDrops t keep td).Canonical :=
  canonical_foldl (fun h => canonical_ite (canonical_publishAt h ..) (canonical_objAbandon h ..)) h

theorem canonical_mergeLaunches {s : State} {t : TaskId} {as_ : List Word} (h : s.Canonical) :
    (s.mergeLaunches t as_).Canonical := by
  refine canonical_foldl (fun h => canonical_asTask h fun h => ?_) h
  split
  · exact h
  · rename_i e
    exact canonical_linkTree h canonical_devBlock e

theorem canonical_mergeOrder {g : Group} {lost : Task → Bool} {l : List Task} {t0 : Nat} {s : State} (h : s.Canonical) :
    (mergeOrder g lost l t0 s).2.Canonical := by
  induction l generalizing s t0 with
  | nil => exact h
  | cons t rest ih =>
    unfold mergeOrder
    extract_lets keys
    split
    rename_i e
    have h1 := canonical_snd (canonical_stamp h) e
    refine ih (canonical_ite ?_ (canonical_mergeLaunches ?_))
    all_goals exact canonical_mergeDrops h1

theorem canonical_merge {s : State} {g : Group} (h : s.Canonical) : (s.merge g).Canonical := by
  unfold State.merge
  extract_lets ts cs conflict lost kept cells bytes
  split
  extract_lets s1 psat s2
  have h1 : s1.Canonical := foldl_keeps (P := State.Canonical) (fun _ _ h => canonical_mergeByte h ..) _ h
  have h2 : s2.Canonical := h1.withMem (foldl_keeps (P := fun m => Memory.wf m = true) (fun _ _ h => wf_memSet h ..) _ h1.1)
  split
  rename_i e
  have h3 := canonical_snd (canonical_mergeOrder h2) e
  extract_lets s4 s5
  have h4 : s4.Canonical := canonical_mapTasks (canonical_spillReturn h3 ..) ..
  have h5 : s5.Canonical := canonical_ite (canonical_settle (canonical_endBlk h4)) h4
  exact canonical_mapGroup h5 fun _ _ => h5.1

theorem answers_execIntervalMerge {c : Prop} {s : State} (h : c → s.Canonical) : Answers c (execIntervalMerge s) := by
  unfold execIntervalMerge
  extract_lets fn blk me
  split
  · exact .next h
  · exact answers_ite (.next h) (.next fun k => optCanonical_getD (canonical_focus (canonical_merge (h k)))
        (canonical_merge (h k)))

/-! ## Canonical: Machine/Ending -/

theorem canonical_replayRecord {s : State} {t : Task} {cause : BitVec 8} (h : s.Canonical) : (s.replayRecord t cause).Canonical :=
  canonical_ite h (canonical_ite (canonical_setFn h ..) (canonical_devPut (canonical_setFn h ..) ..))

theorem canonical_freeStones {s : State} {t : Task} (h : s.Canonical) : (s.freeStones t).Canonical := h

theorem canonical_leaveMill {s : State} {st : TaskSt} (h : s.Canonical) : (s.leaveMill st).Canonical := by
  unfold State.leaveMill
  extract_lets t s0 s1
  have h0 : s0.Canonical := canonical_wrapRecords h
  have h1 : s1.Canonical := canonical_ite (canonical_freeStones h0) h0
  exact canonical_mapMe (canonical_dropPlane (canonical_dropPlane h1)) ..

theorem canonical_finishTask {s : State} {exit : Bool} {cause : BitVec 8} (h : s.Canonical) :
    (s.finishTask exit cause).Canonical := by
  unfold State.finishTask
  extract_lets t s3 s4 s5
  have h3 : s3.Canonical := canonical_mapMe (canonical_leaveMill h) ..
  have h4 : s4.Canonical := canonical_mapBlk h3 ..
  have h5 : s5.Canonical := canonical_ite (canonical_mapLineage h4 ..) h4
  exact canonical_settle (canonical_reapFlumes (canonical_replayRecord h5))

theorem canonical_lateDrops {s : State} (h : s.Canonical) : s.lateDrops.Canonical :=
  canonical_mapMe (canonical_foldl (fun h => canonical_objPublish h ..) h) ..

theorem answers_execTaskRetire {c : Prop} {s : State} (h : c → s.Canonical) : Answers c (execTaskRetire s) := by
  unfold execTaskRetire
  extract_lets s1
  have h1 : c → s1.Canonical := fun k => canonical_ite (h k) (canonical_lateDrops (h k))
  exact answers_ite (.next h) (answers_ite (.next fun k => canonical_finishTask (h1 k))
      (.next fun k => canonical_ite (canonical_leaveMill (h1 k)) (h1 k)))

theorem canonical_killStatus {s : State} {c : Cmd} (h : s.Canonical) : (s.killStatus c).Canonical := by
  unfold State.killStatus
  split
  · exact h
  · split
    · exact h
    · split
      · rename_i e
        exact (canonical_engWrite h canonical_enginePlace).ok e
      · exact h

theorem canonical_dropDet {s : State} (h : s.Canonical) : s.dropDet.Canonical :=
  canonical_mapMe (canonical_spillReturn (canonical_foldl (fun h => canonical_objAbandon h ..) h) ..) ..

theorem canonical_killMe {s : State} {cause : BitVec 8} (h : s.Canonical) : (s.killMe cause).Canonical := by
  unfold State.killMe
  extract_lets live s1 p s2
  have h1 : s1.Canonical := canonical_foldl (fun h => canonical_retireCmd (canonical_killStatus h)) h
  have h2 : s2.Canonical := canonical_ite h1 (canonical_mapMe (canonical_endTask (canonical_withdrawHeld h1)) ..)
  exact canonical_finishTask (canonical_dropDet h2)

theorem canonical_killBlk {s : State} {b : Blk} {cause : BitVec 8} (h : s.Canonical) : (s.killBlk b cause).Canonical := by
  unfold State.killBlk
  extract_lets u s1 s2 s3
  have h1 : s1.Canonical := canonical_foldl (fun h => canonical_asTask h canonical_killMe) h
  have h2 : s2.Canonical := h1.same
  have h3 : s3.Canonical := canonical_mapBlk h2 ..
  exact canonical_foldl (fun h => canonical_closeConsumer h ..) h3

theorem canonical_killTree {s : State} {fn : Nat} {a : Word} {st : BlkSt} {cause : BitVec 8} (h : s.Canonical) :
    (s.killTree fn a st cause).Canonical :=
  canonical_settle (canonical_foldl canonical_killBlk (canonical_endBlk h))

theorem canonical_contain {s : State} {fn : Nat} {a : Word} {st : BlkSt} {cause : BitVec 8} (h : s.Canonical) :
    (s.contain fn a st cause).Canonical :=
  canonical_killTree h

/-! ## Canonical: Machine/Preempt -/

theorem canonical_stopFirst {s : State} (h : s.Canonical) : s.stopFirst.Canonical := by
  unfold State.stopFirst
  extract_lets s1
  have h1 : s1.Canonical := canonical_nodeStop h
  split
  · exact h1
  · exact canonical_takePend h1 ..

theorem canonical_preemptLater {s : State} {t : TaskId} (h : s.Canonical) : (s.preemptLater t).Canonical := h

theorem answers_execPreempt {c : Prop} {s : State} (h : c → s.Canonical) : Answers c (execPreempt s) := by
  unfold execPreempt
  split
  · exact .next h
  · split
    · exact .next fun k => canonical_mapMe (h k) ..
    · exact .next fun k => canonical_mapMe (canonical_stopFirst (h k)) ..

theorem canonical_takeSlot {s : State} {mill canon stone : Nat} {c : BitVec 4} (h : s.Canonical) :
    (s.takeSlot mill canon stone c).Canonical :=
  h

theorem canonical_execPreemptSaveDone_killAndReturn {s : State} {c : BitVec 8} (h : s.Canonical) :
    (execPreemptSaveDone.killAndReturn s c).Canonical :=
  canonical_contain h

theorem canonical_swapOut {s : State} (h : s.Canonical) : OptCanonical s.swapOut := by
  unfold State.swapOut
  extract_lets t s1 back
  have h1 : s1.Canonical := canonical_mapMe (canonical_freeStones (canonical_trace (canonical_wrapRecords h) ..)) ..
  split
  · unfold back
    split
    · exact optCanonical_some h1
    · split
      · exact optCanonical_none
      · exact optCanonical_some (canonical_enqueue h1)
  · split
    · unfold back
      split
      · exact optCanonical_some h1
      · split
        · exact optCanonical_none
        · exact optCanonical_some (canonical_enqueue h1)
    · split
      · unfold back
        split
        · exact optCanonical_some h1
        · split
          · exact optCanonical_none
          · exact optCanonical_some (canonical_enqueue h1)
      · exact optCanonical_some (canonical_takeSlot h1)

theorem answers_execPreemptSaveDone {c : Prop} {s : State} (h : c → s.Canonical) : Answers c (execPreemptSaveDone s) := by
  unfold execPreemptSaveDone
  split
  · exact .next h
  · split
    · rename_i e
      have h1 := fun k => canonical_snd (canonical_choose (h k)) e
      exact answers_ite (.next fun k => canonical_execPreemptSaveDone_killAndReturn (h1 k))
          (.next fun k => optCanonical_getD (canonical_swapOut (h1 k)) (h k))

theorem canonical_openGroup {s : State} (h : s.Canonical) : s.openGroup.Canonical := by
  unfold State.openGroup
  split
  · exact h
  · refine ⟨h.1, fun g hg => ?_⟩
    rcases List.mem_append.1 hg with hg | hg
    · exact h.2 g hg
    · rw [List.mem_singleton.1 hg]
      exact h.1

theorem canonical_loadFrom {s : State} {addr base : Word} (h : s.Canonical) : (s.loadFrom addr base).Canonical := by
  unfold State.loadFrom
  extract_lets failed
  split
  · exact trivial
  · rename_i e
    have h1 := (canonical_commandRead h).fault e
    unfold failed
    split
    · exact canonical_lifeAdd h1 ..
    · exact h1
  · exact trivial
  · rename_i e
    have h1 := (canonical_commandRead h).ok e
    split
    · rename_i e
      exact (canonical_loadImage h1).ok e
    · rename_i e
      exact (canonical_loadImage h1).rej e
    · rename_i e
      have h2 := (canonical_loadImage h1).ue e
      unfold failed
      split
      · exact canonical_lifeAdd h2 ..
      · exact h2
    · rename_i e
      have h2 := (canonical_loadImage h1).fault e
      unfold failed
      split
      · exact canonical_lifeAdd h2 ..
      · exact h2
    · exact trivial
    · exact trivial

theorem canonical_startFailed {s : State} {cause : BitVec 8} (h : s.Canonical) : (s.startFailed cause).Canonical := by
  unfold State.startFailed
  split
  · split
    · exact canonical_killTree h
    · exact canonical_finishTask h
  · exact canonical_finishTask (canonical_closeChannels h)

theorem canonical_begin {s : State} {p : Plane} (h : s.Canonical) : (s.begin p).Canonical :=
  canonical_mapMe (canonical_mapMe (canonical_openGroup h) ..) ..

theorem canonical_reloadInact {s : State} (h : s.Canonical) : OptCanonical s.reloadInact := by
  unfold State.reloadInact
  extract_lets old src s1
  have h1 : s1.Canonical := canonical_setInact h
  split
  · exact optCanonical_some h
  · split
    · rename_i e
      have h2 := (canonical_loadFrom h1).ok e
      exact optCanonical_some (canonical_ite (canonical_mapRun h2 ..) (canonical_dropPlane h2))
    · rename_i e
      exact optCanonical_some ((canonical_loadFrom h1).failed e)
    · exact optCanonical_some h1
    · exact optCanonical_none

theorem canonical_renumber {s : State} (h : s.Canonical) : s.renumber.Canonical := h

theorem answers_execTaskStart {c : Prop} {s : State} (h : c → s.Canonical) : Answers c (execTaskStart s) := by
  unfold execTaskStart
  extract_lets t old
  split
  · exact .next h
  · split
    · split
      · exact .next h
      · exact .next fun k => canonical_stopMe (h k)
      · rename_i e
        exact .next fun k => canonical_startFailed ((canonical_loadFrom (h k)).failed e)
      · rename_i e
        exact .next fun k => canonical_begin ((canonical_loadFrom (h k)).ok e)
    · split
      · split
        · exact .next h
        · exact .next fun k => canonical_stopMe (h k)
        · rename_i e
          exact .next fun k => canonical_contain (canonical_mapRun ((canonical_loadFrom (canonical_dropPlane (h k))).failed e) ..)
        · rename_i e
          have h1 := fun k => (canonical_loadFrom (canonical_dropPlane (h k))).ok e
          split
          · exact .next fun k => canonical_contain (canonical_mapRun (canonical_dropPlane (h1 k)) ..)
          · split
            · exact .next h
            · rename_i e
              exact .next fun k => canonical_writeOwners (canonical_mapMe
                  (canonical_renumber (canonical_reloadInact (canonical_mapRun (h1 k) ..) _ e)) ..)
      · exact .next h

/-! ## Canonical: Machine/Alloc -/

theorem canonical_fillBufs {s : State} {t : TaskId} (h : s.Canonical) : (s.fillBufs t).Canonical :=
  canonical_foldl canonical_refit h

theorem canonical_openEnds {s : State} {b : Blk} {cs : List Chan} (h : s.Canonical) : (s.openEnds b cs).Canonical := h

theorem canonical_placeTask {s : State} {n : Nat} {e : QEntry} {w : Want} {x : Nat × Nat × Nat × BitVec 4} (h : s.Canonical) :
    (s.placeTask n e w x).Canonical := by
  unfold State.placeTask
  extract_lets s1 s2 s3 s4
  have h1 : s1.Canonical := canonical_setDie h ..
  have h2 : s2.Canonical := canonical_mapBlk h1 ..
  have h3 : s3.Canonical := canonical_ite h2 (canonical_openEnds h2)
  have h4 : s4.Canonical := canonical_ite h3 h3.same
  exact canonical_fillBufs (canonical_asTask h4 canonical_takeSlot)

theorem canonical_refuseNode {s : State} {b : Blk} {cause : BitVec 8} (h : s.Canonical) : (s.refuseNode b cause).Canonical := by
  unfold State.refuseNode
  extract_lets s1 s2
  have h1 : s1.Canonical := h.same
  have h2 : s2.Canonical := canonical_settle (canonical_endBlk (canonical_mapBlk h1 ..))
  exact canonical_ite (canonical_killTree h2) h2

theorem canonical_compact {s : State} {n : Nat} {e : QEntry} {w : Want} (h : s.Canonical) : (s.compact n e w).Canonical := by
  unfold State.compact
  extract_lets d
  split
  · exact h
  · split
    · exact canonical_setDie h ..
    · exact h
    · exact canonical_preemptLater (canonical_mapTask h ..)

theorem canonical_tryEntries {n : Nat} {first : Bool} {l : List QEntry} {s : State} (h : s.Canonical) :
    (tryEntries n first l s).1.Canonical := by
  induction l generalizing s first with
  | nil => exact h
  | cons e rest ih =>
    unfold tryEntries
    split
    · exact ih h
    · split
      · exact ih h
      · split
        · exact ih (canonical_refuseNode h)
        · exact ih h
      · split
        · exact canonical_placeTask h
        · dsimp only
          split
          · exact canonical_compact (canonical_setDie h ..)
          · exact ih (canonical_ite (canonical_setDie h ..) h)

theorem canonical_dieDecision {s : State} {acc : State × List (Nat × Nat × Nat)} {n : Nat} (h : acc.1.Canonical) :
    (dieDecision s acc n).1.Canonical := by
  unfold dieDecision
  split
  · exact h
  · exact canonical_tryEntries h

theorem answers_execAllocatorDecision {c : Prop} {s : State} (h : c → s.Canonical) : Answers c (execAllocatorDecision s) :=
  .next fun k => foldl_keeps (P := fun acc : State × List (Nat × Nat × Nat) => acc.1.Canonical)
    (fun _ _ h => canonical_dieDecision h) _ (h k)

theorem answers_execHeadHoldPreempt {c : Prop} {s : State} (h : c → s.Canonical) : Answers c (execHeadHoldPreempt s) := by
  unfold execHeadHoldPreempt
  extract_lets n d
  split
  · exact .next h
  · split
    · exact .next h
    · split
      · split
        · exact .next h
        · exact .next fun k => canonical_preemptLater (canonical_setDie (h k) ..)
      · exact .next h

theorem canonical_startLaunch {s : State} {fn : Nat} {root : Word} (h : s.Canonical) : (s.startLaunch fn root).Canonical := h

theorem answers_execDieAck {c : Prop} {s : State} (h : c → s.Canonical) : Answers c (execDieAck s) := by
  unfold execDieAck
  extract_lets fn n
  split
  · exact .next h
  · extract_lets acks s1
    have h1 : c → s1.Canonical := fun k => canonical_mapBlk (h k) ..
    exact answers_ite (.next h) (.next fun k => canonical_ite (canonical_startLaunch (h1 k)) (h1 k))

/-! ## Canonical: Machine/FabricEvents -/

theorem canonical_ctlAct {s : State} {e : Nat} {c : Ctl} {id : BitVec 16} (h : s.Canonical) : (s.ctlAct e c id).Canonical := by
  unfold State.ctlAct
  extract_lets x
  split
  · exact canonical_mapRun h ..
  · exact canonical_mapRun (canonical_tokenCame h) ..
  · exact h

theorem answers_execControlTokenPass {c : Prop} {s : State} (h : c → s.Canonical) : Answers c (execControlTokenPass s) := by
  unfold execControlTokenPass
  extract_lets e x o w src v
  split
  · extract_lets f s1 src_1
    have h1 : c → s1.Canonical := fun k => canonical_ite (canonical_ctlAct (h k)) (h k)
    exact answers_ite (.next h) (answers_ite (.next h) (.next fun k => canonical_mapRun (h1 k) ..))
  · exact .next h

theorem canonical_portCtl {s : State} {p e : Nat} {c : Ctl} {id : BitVec 16} (h : s.Canonical) :
    (s.portCtl p e c id).Canonical := by
  unfold State.portCtl
  split
  · exact canonical_mapRun h ..
  · exact canonical_mapRun (canonical_pathRecord h) ..
  · exact h

theorem canonical_toPort {s : State} {p e d i : Nat} {t : OutTok} (h : s.Canonical) : (s.toPort p e d i t).Canonical := by
  unfold State.toPort
  extract_lets r dc gone
  have hgone : ∀ {s}, s.Canonical → (gone s).Canonical := fun h => canonical_mapRun h ..
  split
  · exact h
  · split
    · split
      · exact h
      · extract_lets whole
        split
        · exact hgone (canonical_mapRun (canonical_ite (canonical_pathRecord h) h) ..)
        · exact hgone (canonical_mapRun h ..)
        · exact hgone (canonical_mapRun h ..)
        · exact hgone (canonical_mapRun h ..)
      · exact canonical_mapRun h ..
    · split
      · exact hgone (canonical_portCtl h)
      · exact canonical_ite (hgone (canonical_mapRun h ..)) h

theorem canonical_fromPort {s : State} {p : Nat} (h : s.Canonical) : (s.fromPort p).Canonical := by
  unfold State.fromPort
  extract_lets r deal
  split
  · exact h
  · exact canonical_mapRun h ..

theorem answers_execTokenLinkTransfer {c : Prop} {s : State} (h : c → s.Canonical) : Answers c (execTokenLinkTransfer s) := by
  unfold execTokenLinkTransfer
  extract_lets r
  split
  · exact .next h
  · split
    · exact .next fun k => canonical_fromPort (h k)
    · split
      · exact .next h
      · split
        · exact .next h
        · exact .next fun k => canonical_mapRun (h k) ..
    · split
      · split
        · exact .next h
        · exact .next fun k => canonical_mapRun (h k) ..
      · exact .next h
    · extract_lets d
      split
      · exact .next h
      · split
        · split
          · exact .next h
          · exact .next fun k => canonical_mapRun (h k) ..
        · split
          · exact .next h
          · exact .next fun k => canonical_toPort (h k)

theorem answers_execTokenChannelPush {c : Prop} {s : State} (h : c → s.Canonical) : Answers c (execTokenChannelPush s) := by
  unfold execTokenChannelPush
  extract_lets p clk
  split
  · split
    · exact .next h
    · split
      · exact .next h
      · rename_i e
        exact .next fun k => canonical_mapRun (canonical_pushTag (h k) _ e) ..
  · exact .next h

theorem canonical_igRun {die : Nat} {l : List (Nat × TaskId × Nat)} {s : State} (h : s.Canonical) :
    (igRun die l s).Canonical := by
  induction l generalizing s with
  | nil => exact h
  | cons x rest ih =>
    exact canonical_ite (canonical_mapTask (canonical_setDie h ..) ..) (ih (canonical_mapTask (canonical_setDie h ..) ..))

theorem answers_execIngressMeter {c : Prop} {s : State} (h : c → s.Canonical) : Answers c (execIngressMeter s) := by
  unfold execIngressMeter
  extract_lets n d s1 d1
  have h1 : c → s1.Canonical := fun k => canonical_mapTasks (h k) ..
  exact answers_ite (.next h1) (.next fun k => canonical_igRun (canonical_setDie (h1 k) ..))

/-! ## Canonical: Machine/Events -/

theorem answers_execAsyncTrapTake {c : Prop} {s : State} (h : c → s.Canonical) : Answers c (execAsyncTrapTake s) := by
  unfold execAsyncTrapTake
  split
  · exact .next h
  · exact .next fun k => canonical_takePend (h k) ..

theorem canonical_issueNext {s : State} (h : s.Canonical) : s.issueNext.Canonical := h

theorem canonical_wake {s : State} (h : s.Canonical) : s.wake.Canonical := canonical_ite (canonical_mapCtx h ..) h

theorem answers_execSleepingInstructionRetire {c : Prop} {s : State} (h : c → s.Canonical) : Answers c
    (execSleepingInstructionRetire s) :=
  answers_ite (.next h) (.next fun k => canonical_issueNext (canonical_mapCtx (h k) ..))

theorem answers_execStallRelease {c : Prop} {s : State} (h : c → s.Canonical) : Answers c (execStallRelease s) :=
  answers_ite (.next h) (.next fun k => canonical_issueNext (canonical_mapCtx (h k) ..))

theorem answers_execWatchdog {c : Prop} {s : State} (h : c → s.Canonical) : Answers c (execWatchdog s) :=
  answers_ite (.next h) (.next fun k => canonical_trap (h k) ..)

theorem canonical_noteFull {s : State} (h : s.Canonical) : s.noteFull.Canonical := h

theorem canonical_consumerFault {s : State} {c : Chan} {cause : BitVec 8} (h : s.Canonical) :
    (s.consumerFault c cause).Canonical := by
  unfold State.consumerFault
  split
  · exact canonical_taskFault h ..
  · exact canonical_fault h ..

theorem canonical_spillTry {s : State} {c : Chan} {bytes : Nat} (h : s.Canonical) : (s.spillTry c bytes).2.Canonical := by
  unfold State.spillTry
  split
  · exact h
  · split
    · exact canonical_mapChan h ..
    · exact canonical_snd_ite (canonical_consumerFault (canonical_mapChan (canonical_choose h) ..))
          (canonical_spillCharge (canonical_choose h) ..)

theorem answers_execSpillfull {c : Prop} {s : State} (h : c → s.Canonical) : Answers c (execSpillfull s) := by
  unfold execSpillfull
  split
  · exact .next h
  · split
    · split
      · exact .next h
      · exact answers_ite (.next fun k => canonical_mapChan (h k) ..)
            (.next fun k => canonical_source (canonical_consumerFault (canonical_mapChan (h k) ..)) ..)
    · exact .next h

theorem canonical_dropWire {s : State} {c : Chan} {n : Nat} (h : s.Canonical) : (s.dropWire c n).Canonical := h

theorem canonical_deliver {s : State} {x : Chan} {ws : List ChWord} (h : s.Canonical) : BothCanonical (s.deliver x ws) := by
  unfold State.deliver
  extract_lets s_1 k put
  have h_1 : s_1.Canonical := canonical_withEnd h
  have hput : ∀ {st}, st.Canonical → (put st).Canonical := fun h => canonical_mapTask (canonical_mapChan h ..) ..
  split
  · exact ⟨optCanonical_some (hput h_1), h_1⟩
  · split
    · rename_i e
      have h1 := canonical_snd (canonical_spillTry h_1) e
      split
      · exact ⟨optCanonical_some (canonical_countFor (hput h1) ..), h1⟩
      · exact ⟨optCanonical_none, h1⟩

theorem canonical_sendChan {s : State} {c : Chan} {p clk : Nat} {m : LinkMsg} (h : s.Canonical) :
    (s.sendChan c p clk m).Canonical :=
  h

theorem canonical_noteRemote {s : State} {pkg : BitVec 8} {clk : Nat} {h_1 : BitVec 128} (h : s.Canonical) :
    (s.noteRemote pkg clk h_1).Canonical :=
  canonical_ite (canonical_mapObj h ..) (canonical_ite h (canonical_sendPkg (canonical_sendPkg h ..) ..))

theorem answers_execChannelWordArrival {c : Prop} {s : State} (h : c → s.Canonical) : Answers c (execChannelWordArrival s) := by
  unfold execChannelWordArrival
  split
  · exact .next h
  · split
    · exact .next h
    · extract_lets ws n s1 k
      have h1 : c → s1.Canonical := fun k => canonical_dropWire (h k)
      split
      · split
        · exact .next fun k => canonical_discard (canonical_dropWire (h k)) ..
        · split
          · rename_i e
            have h2 := fun k => (canonical_deliver (h k)).right e
            have h3 := fun k => (canonical_deliver (h k)).left e
            exact .next fun k => canonical_dropWire (h3 k)
          · rename_i e
            have h2 := fun k => (canonical_deliver (h k)).right e
            exact .next h2
      · split
        · exact .next fun k => canonical_discard (canonical_dropWire (canonical_linkFault (h k) ..)) ..
        · split
          · exact .next fun k => canonical_discard (canonical_dropWire (h k)) ..
          · split
            · exact .next h
            · split
              · exact .next fun k => canonical_sendChan (canonical_noteRemote (canonical_dropWire (h k)))
              · exact .next fun k => canonical_sendChan (canonical_dropWire (h k))

theorem canonical_deliverMsg {s : State} {x : Chan} {m : HaloMsg} (h : s.Canonical) : BothCanonical (s.deliverMsg x m) := by
  unfold State.deliverMsg
  extract_lets n s_1 k put
  have h_1 : s_1.Canonical := canonical_withEnd h
  have hput : ∀ {st}, st.Canonical → (put st).Canonical := fun h => canonical_mapChan h ..
  split
  · exact ⟨optCanonical_some (canonical_discardMsg h_1 ..), h_1⟩
  · split
    · exact ⟨optCanonical_some (canonical_mapChan h_1 ..), h_1⟩
    · split
      · exact ⟨optCanonical_some (hput h_1), h_1⟩
      · split
        · rename_i e
          have h1 := canonical_snd (canonical_spillTry h_1) e
          split
          · exact ⟨optCanonical_some (canonical_countFor (hput h1) ..), h1⟩
          · exact ⟨optCanonical_none, h1⟩

theorem canonical_dropMsgWire {s : State} {c : Chan} (h : s.Canonical) : (s.dropMsgWire c).Canonical := h

theorem answers_execHaloMessageArrival {c : Prop} {s : State} (h : c → s.Canonical) : Answers c (execHaloMessageArrival s) := by
  unfold execHaloMessageArrival
  split
  · exact .next h
  · split
    · exact .next h
    · split
      · split
        · rename_i e
          have h1 := fun k => (canonical_deliverMsg (h k)).right e
          have h2 := fun k => (canonical_deliverMsg (h k)).left e
          exact .next fun k => canonical_dropMsgWire (h2 k)
        · rename_i e
          have h1 := fun k => (canonical_deliverMsg (h k)).right e
          exact .next h1
      · split
        · exact .next fun k => canonical_discardMsg (canonical_dropMsgWire (canonical_linkFault (h k) ..)) ..
        · split
          · exact .next fun k => canonical_discardMsg (canonical_dropMsgWire (h k)) ..
          · split
            · exact .next h
            · split
              · exact .next h
              · exact .next fun k => canonical_sendChan (canonical_mapChan (h k) ..)

theorem answers_execBarrierPhaseComplete {c : Prop} {s : State} (h : c → s.Canonical) : Answers c (execBarrierPhaseComplete s) :=
  .next fun k => canonical_mapTasks (h k) ..

theorem answers_execCounterWrap {c : Prop} {s : State} (h : c → s.Canonical) : Answers c (execCounterWrap s) :=
  .next fun k => canonical_wrapRecord (h k)

/-! ## Canonical: Machine/HostRegs -/

theorem answers_execBankreq {c : Prop} {s : State} (h : c → s.Canonical) : Answers c (execBankreq s) := by
  unfold execBankreq
  extract_lets b mode
  split
  · exact .next h
  · extract_lets x
    split
    · exact .next fun k => canonical_setMill (h k) ..
    · exact .next fun k => canonical_setMill (h k) ..

theorem answers_execBankModeChangeDone {c : Prop} {s : State} (h : c → s.Canonical) : Answers c (execBankModeChangeDone s) := by
  unfold execBankModeChangeDone
  extract_lets m x
  split
  · exact .next h
  · split
    · exact .next fun k => ⟨wf_memClear (h k).1 .., (h k).2⟩
    · exact .next fun k => canonical_setMill (h k) ..

theorem answers_execPtctlMode {c : Prop} {s : State} (h : c → s.Canonical) : Answers c (execPtctlMode s) := by
  unfold execPtctlMode
  split
  · exact .next h
  · exact .next fun k => canonical_setTile (canonical_ite ((h k).withMem (wf_memClear (h k).1 ..)) (h k)) ..

theorem answers_execTileModeChangeDone {c : Prop} {s : State} (h : c → s.Canonical) : Answers c (execTileModeChangeDone s) := by
  unfold execTileModeChangeDone
  extract_lets n x
  split
  · exact .next h
  · exact .next fun k => canonical_setTile (h k) ..

theorem canonical_pushStop {s : State} {n fn : Nat} {cause : BitVec 8} {va : Word} (h : s.Canonical) :
    (s.pushStop n fn cause va).Canonical :=
  canonical_setTile (canonical_devFault h ..) ..

theorem answers_execPtctlRunStart {c : Prop} {s : State} (h : c → s.Canonical) : Answers c (execPtctlRunStart s) := by
  unfold execPtctlRunStart
  extract_lets fn
  split
  · exact .next h
  · extract_lets x va
    split
    · exact .next h
    · split
      · exact .next fun k => canonical_pushStop (h k)
      · split
        · exact .next fun k => canonical_pushStop (h k)
        · exact .next fun k => canonical_setTile (h k) ..

theorem answers_execPtctlRunStop {c : Prop} {s : State} (h : c → s.Canonical) : Answers c (execPtctlRunStop s) := by
  unfold execPtctlRunStop
  split
  · exact .next h
  · exact .next fun k => canonical_ite (h k) (canonical_setTile (h k) ..)

theorem answers_execPushUnit {c : Prop} {s : State} (h : c → s.Canonical) : Answers c (execPushUnit s) := by
  unfold execPushUnit
  extract_lets n x port
  split
  · exact .next h
  · split
    · extract_lets o
      split
      · exact .next fun k => canonical_pushStop (h k)
      · split
        · exact .next fun k => canonical_pushStop (h k)
        · split
          · exact .next h
          · split
            · exact .next h
            · rename_i e
              have h1 := fun k => canonical_focus (h k) _ e
              split
              · exact .next h1
              · split
                · exact .next fun k => canonical_pushStop (h1 k)
                · rename_i e
                  exact .next fun k => canonical_setTile (canonical_offer (h1 k) _ e) ..
    · exact .next h

theorem canonical_tcEnd {s : State} {fn : Nat} {code : BitVec 4} (h : s.Canonical) : (s.tcEnd fn code).Canonical := h

theorem answers_execTcopResume {c : Prop} {s : State} (h : c → s.Canonical) : Answers c (execTcopResume s) := by
  unfold execTcopResume
  extract_lets fn f id spilt s1
  have h1 : c → s1.Canonical := fun k => canonical_ite ((h k).same) (h k)
  split
  · exact .next h
  · split
    · exact .next fun k => canonical_tcEnd (h1 k)
    · exact answers_ite (.next fun k => canonical_tcEnd (canonical_mapTask (h1 k) ..)) (.next fun k => canonical_tcEnd (h1 k))

theorem answers_execTcopKill {c : Prop} {s : State} (h : c → s.Canonical) : Answers c (execTcopKill s) := by
  unfold execTcopKill
  extract_lets fn f
  split
  · exact .next h
  · split
    · exact .next fun k => canonical_tcEnd (h k)
    · exact answers_ite (.next fun k => canonical_tcEnd (h k)) (.next fun k => canonical_tcEnd (canonical_contain (h k)))

theorem canonical_tlbDrop {s : State} {fn : Nat} {page : Word} {sz : BitVec 2} (h : s.Canonical) :
    (s.tlbDrop fn page sz).Canonical :=
  h

theorem canonical_injectRelatch {s : State} {page : Word} {sz : BitVec 2} (h : s.Canonical) :
    (s.injectRelatch page sz).Canonical :=
  h

theorem answers_execUnmap {c : Prop} {s : State} (h : c → s.Canonical) : Answers c (execUnmap s) := by
  unfold execUnmap
  extract_lets fn f sz page me runs s1 s2
  have h1 : c → s1.Canonical := fun k => canonical_mapTasks (canonical_tlbDrop (h k)) ..
  have h2 : c → s2.Canonical := fun k => canonical_foldl (fun h => canonical_asTask h canonical_injectRelatch) (h1 k)
  split
  · exact .next fun k => canonical_setFn (h k) ..
  · exact answers_ite (.next fun k => canonical_setFn (h k) ..)
        (.next fun k => canonical_setFn (optCanonical_getD (canonical_focus (h2 k)) (h2 k)) ..)

theorem answers_execUnmapComplete {c : Prop} {s : State} (h : c → s.Canonical) : Answers c (execUnmapComplete s) := by
  unfold execUnmapComplete
  extract_lets fn f
  split
  · exact .next h
  · extract_lets s1
    have h1 : c → s1.Canonical := fun k => canonical_setFn (h k) ..
    exact answers_ite (.next fun k => canonical_setFn (h k) ..) (.next fun k => canonical_ite (canonical_msix (h1 k) ..) (h1 k))

theorem answers_execBar2Access {c : Prop} {s : State} (h : c → s.Canonical) : Answers c (execBar2Access s) := by
  unfold execBar2Access
  extract_lets fn va
  split
  · exact .next fun k => (h k).same
  · split
    · split
      · exact .next fun k => (h k).same
      · split
        · rename_i e
          exact .next fun k => (canonical_devWrite (h k) e).same
        · exact .next fun k => (canonical_devFault (h k) ..).same
    · split
      · exact .next fun k => (h k).same
      · split
        · exact .next fun k => (h k).same
        · exact .next fun k => (canonical_devFault (h k) ..).same

theorem canonical_raise {s : State} {i : Instr} {a : EvArg} (h : s.Canonical) : (s.raise i a).Canonical := h

theorem canonical_tileReg {s : State} {fn off : Nat} {w : Word} (h : s.Canonical) : (s.tileReg fn off w).Canonical := by
  unfold State.tileReg
  split
  · exact h
  · exact canonical_setTile h ..

theorem answers_execRegisterWrite {c : Prop} {s : State} (h : c → s.Canonical) : Answers c (execRegisterWrite s) := by
  unfold execRegisterWrite
  extract_lets a f w s1
  have h1 : c → s1.Canonical := fun k => canonical_setFn (h k) ..
  split
  · exact .next h
  · split
    · exact .next fun k => canonical_ite (canonical_setFn (h k) ..) (canonical_setFn (h k) ..)
    · exact .next fun k => canonical_raise (h k)
    · exact .next fun k => canonical_ite (h k) (canonical_ite (canonical_setFn (h k) ..) (canonical_setFn (h k) ..))
    · exact .next fun k => canonical_raise (h k)
    · exact .next fun k => canonical_raise (h k)
    · exact .next fun k => canonical_raise (canonical_raise (h k))
    · exact .next fun k => canonical_tileReg (h k)
    · exact .next fun k => canonical_tileReg (h k)
    · exact .next fun k => canonical_ite (h k) (canonical_ite (canonical_setFn (h k) ..) (canonical_setFn (h k) ..))
    · exact .next fun k => canonical_ite (canonical_raise (h1 k)) (h1 k)
    · exact .next fun k => canonical_raise (h k)
    · exact .next fun k => canonical_ite (h k) (canonical_setFn (h k) ..)
    · exact .next fun k => canonical_ite (h k) (canonical_setFn (h k) ..)
    · exact .next fun k => canonical_ite (h k) (canonical_setFn (h k) ..)
    · exact .next fun k => canonical_ite (h k) (canonical_setFn (h k) ..)
    · exact .next fun k => canonical_ite (canonical_ite (canonical_setFn (h k) ..) (h k)) (canonical_setFn (h k) ..)

/-! ## Canonical: Machine/Debug -/

theorem canonical_dbgEnd {s : State} {fn : Nat} {code : BitVec 4} (h : s.Canonical) : (s.dbgEnd fn code).Canonical := h

theorem canonical_takeStop {s : State} (h : s.Canonical) : s.takeStop.Canonical := by
  unfold State.takeStop
  split
  · exact h
  · exact canonical_takePend h ..

theorem canonical_detachMe {s : State} (h : s.Canonical) : s.detachMe.Canonical :=
  canonical_mapMe (canonical_takeStop (canonical_nodeStop h)) ..

theorem answers_dbgRequest {c : Prop} {op : Nat} {att : Bool} {k : TaskId → Task → State → Option State} {s : State}
    (hk : ∀ {x0 x1 t}, t.Canonical → OptCanonical (k x0 x1 t)) (h : c → s.Canonical) : Answers c (dbgRequest op att k s) := by
  unfold dbgRequest
  extract_lets fn f id
  split
  · exact .next h
  · split
    · exact .next fun k => canonical_dbgEnd (h k)
    · split
      · exact .next fun k => canonical_dbgEnd (h k)
      · split
        · exact .next fun k => canonical_dbgEnd (h k)
        · rename_i e
          have h1 := fun k => hk (h k) _ e
          exact .next h1

theorem answers_execAttach {c : Prop} {s : State} (h : c → s.Canonical) : Answers c (execAttach s) := by
  unfold execAttach
  extract_lets fn f s1
  have h1 : c → s1.Canonical := fun k => canonical_mapTasks (h k) ..
  exact answers_ite (.next fun k => canonical_dbgEnd (canonical_setFn (h1 k) ..))
      (answers_dbgRequest (fun h => optCanonical_some (canonical_dbgEnd (canonical_mapTask h ..))) h)

theorem answers_execDetach {c : Prop} {s : State} (h : c → s.Canonical) : Answers c (execDetach s) := by
  unfold execDetach
  extract_lets fn f me ts s1
  have h1 : c → s1.Canonical := fun k => canonical_foldl (fun h => canonical_asTask h canonical_detachMe)
      (canonical_setFn (h k) ..)
  split
  · exact answers_ite (.next fun k => canonical_dbgEnd (h k))
        (.next fun k => canonical_dbgEnd (optCanonical_getD (canonical_focus (h1 k)) (h1 k)))
  · refine answers_dbgRequest ?_ h
    intro x0 x1 t h'
    extract_lets s1_1
    have h1_1 : s1_1.Canonical := canonical_asTask h' (fun h => canonical_detachMe h)
    exact optCanonical_some (canonical_dbgEnd (optCanonical_getD (canonical_focus h1_1) h1_1))

theorem answers_execStop {c : Prop} {s : State} (h : c → s.Canonical) : Answers c (execStop s) := by
  unfold execStop
  extract_lets fn me
  refine answers_dbgRequest ?_ h
  intro x0 x1 t h'
  extract_lets s1
  have h1 : s1.Canonical := canonical_asTask h' canonical_stopRun
  split
  · exact optCanonical_none
  · exact optCanonical_some (canonical_dbgEnd (optCanonical_getD (canonical_focus h1) h1))

theorem answers_execGo {c : Prop} {s : State} (h : c → s.Canonical) : Answers c (execGo s) := by
  unfold execGo
  extract_lets fn
  refine answers_dbgRequest ?_ h
  intro x0 x1 t h'
  split
  · exact optCanonical_none
  · exact optCanonical_some (canonical_dbgEnd (canonical_mapTask h' ..))

theorem answers_execWrctl {c : Prop} {s : State} (h : c → s.Canonical) : Answers c (execWrctl s) :=
  answers_dbgRequest (fun h => optCanonical_some (canonical_dbgEnd (canonical_mapTask h ..))) h

theorem answers_execDump {c : Prop} {s : State} (h : c → s.Canonical) : Answers c (execDump s) := by
  unfold execDump
  extract_lets fn a
  refine answers_dbgRequest ?_ h
  intro x0 x1 t h'
  split
  · exact optCanonical_none
  · split
    · exact optCanonical_some (canonical_dbgEnd h')
    · split
      · rename_i e
        have h1 := canonical_snd (canonical_choose h') e
        split
        · rename_i e
          exact optCanonical_some (canonical_dbgEnd (canonical_devWrite h1 e))
        · exact optCanonical_some (canonical_dbgEnd h1)

theorem answers_execLoad {c : Prop} {s : State} (h : c → s.Canonical) : Answers c (execLoad s) := by
  unfold execLoad
  extract_lets fn a
  refine answers_dbgRequest ?_ h
  intro x0 x1 t h'
  split
  · exact optCanonical_none
  · split
    · exact optCanonical_some (canonical_dbgEnd h')
    · split
      · exact optCanonical_some (canonical_dbgEnd h')
      · split
        · exact optCanonical_some (canonical_dbgEnd h')
        · split
          · exact optCanonical_some (canonical_dbgEnd h')
          · exact optCanonical_some (canonical_dbgEnd (canonical_mapTask h' ..))

theorem canonical_dieRecord {s : State} {fn type mill die : Nat} {d0 d1 : Word} (h : s.Canonical) :
    (s.dieRecord fn type mill die d0 d1).Canonical :=
  canonical_ite h (canonical_ite (canonical_setFn h ..) h.same)

theorem canonical_ringPut {s : State} {fn : Nat} {ws : List Word} (h : s.Canonical) : (s.ringPut fn ws).Canonical := by
  unfold State.ringPut
  extract_lets f n
  split
  · exact canonical_setFn h ..
  · split
    · exact canonical_devFault h ..
    · rename_i e
      exact canonical_setFn (canonical_devWrite h e) ..

theorem canonical_ringEntry {s : State} {r : TraceRec} (h : s.Canonical) : (s.ringEntry r).Canonical :=
  canonical_foldl canonical_ringPut h

theorem canonical_drainTrace {s : State} (h : s.Canonical) : s.drainTrace.Canonical := by
  unfold State.drainTrace
  extract_lets out up s1
  have h1 : s1.Canonical := canonical_foldl canonical_ringEntry h.same
  exact canonical_ite h h1.same

theorem answers_execTriggerLineAssert {c : Prop} {s : State} (h : c → s.Canonical) : Answers c (execTriggerLineAssert s) :=
  answers_ite (.next h) (.next fun k => canonical_setDie (h k) ..)

theorem canonical_freeze {s : State} {fn die l m : Nat} (h : s.Canonical) : (s.freeze fn die l m).Canonical :=
  canonical_ite h (canonical_setFn (canonical_dieRecord h.same) ..)

theorem canonical_stopAll {s : State} {fn die : Nat} (h : s.Canonical) : (s.stopAll fn die).Canonical := by
  unfold State.stopAll
  extract_lets here s1 s2
  have h1 : s1.Canonical := canonical_mapTasks h ..
  have h2 : s2.Canonical := canonical_foldl (fun h => canonical_asTask h canonical_stopRun) h1
  exact optCanonical_getD (canonical_focus h2) h2

theorem answers_execTriggerSinkReach {c : Prop} {s : State} (h : c → s.Canonical) : Answers c (execTriggerSinkReach s) := by
  unfold execTriggerSinkReach
  extract_lets a d
  split
  · extract_lets cfg s1 s2 s3 s4 s5
    have h1 : c → s1.Canonical := fun k => canonical_setDie (h k) ..
    have h2 : c → s2.Canonical := fun k => canonical_ite (canonical_stopAll (h1 k)) (h1 k)
    have h3 : c → s3.Canonical := fun k => canonical_ite (canonical_freeze (h2 k)) (h2 k)
    have h4 : c → s4.Canonical := fun k => canonical_ite (canonical_mapTasks (h3 k) ..) (h3 k)
    have h5 : c → s5.Canonical := fun k => canonical_ite ((h4 k).same) (h4 k)
    exact .next fun k => canonical_ite (canonical_foldl (fun h => canonical_source h ..) (h5 k)) (h5 k)
  · exact .next fun k => canonical_setDie (h k) ..
  · exact .next h

theorem answers_execTrctlUnfreeze {c : Prop} {s : State} (h : c → s.Canonical) : Answers c (execTrctlUnfreeze s) :=
  .next fun k => canonical_foldl canonical_dieRecord (canonical_setFn (h k) ..)

theorem answers_execSamplePeriod {c : Prop} {s : State} (h : c → s.Canonical) : Answers c (execSamplePeriod s) := by
  unfold execSamplePeriod
  split
  · exact .next h
  · exact answers_ite (.next h) (.next fun k => canonical_mapMe (canonical_trace (h k) ..) ..)

theorem answers_execMillPowerGate {c : Prop} {s : State} (h : c → s.Canonical) : Answers c (execMillPowerGate s) :=
  answers_ite (.next h) (.next fun k => canonical_setMill (h k) ..)

theorem answers_execMillPowerUp {c : Prop} {s : State} (h : c → s.Canonical) : Answers c (execMillPowerUp s) :=
  answers_ite (.next h) (.next fun k => canonical_foldl canonical_dieRecord (canonical_setMill (h k) ..))

/-! ## Canonical: Machine/Compare -/

theorem answers_cmpOp {c : Prop} {i : Instr} {g : Guard} {d a b : BitVec 5} {s : State} {f : Word → Word → Bool}
    (h : c → s.Canonical) : Answers c (cmpOp i g d a b s f) :=
  answers_opQ h

theorem answers_cmpImm {c : Prop} {i : Instr} {g : Guard} {d a : BitVec 5} {imm : BitVec 12} {s : State} {f : Word → Word → Bool}
    (h : c → s.Canonical) : Answers c (cmpImm i g d a imm s f) :=
  answers_opQ h

/-! ## Canonical: Machine/Rekey -/

theorem wf_rekeyMem {old new : BitVec 512} {m : List Host.Cell} {ls : List (Nat × Nat)} (h : Memory.wf m = true) :
    Memory.wf (rekeyMem old new m ls) = true :=
  foldl_keeps (P := fun m => Memory.wf m = true) (fun _ _ h => wf_memPut h ..) _ h

theorem canonical_rekeySlot {s : State} {slot : Nat} {old new : BitVec 512} (h : s.Canonical) :
    (s.rekeySlot slot old new).Canonical := ⟨wf_rekeyMem h.1, h.2⟩

/-! ## Canonical: Machine/Fleet -/

theorem canonical_answer {s : State} {code : Nat} {more : List Byte} (h : s.Canonical) : (s.answer code more).Canonical := h

theorem answers_request {c : Prop} {always : Bool} {k : State → State} {s : State} (hk : ∀ {t}, t.Canonical → (k t).Canonical)
    (h : c → s.Canonical) : Answers c (request always k s) :=
  answers_ite (.next h) (.next fun k => hk ((h k).same))

theorem answers_inSession {c : Prop} {k : State → State} {s : State} (hk : ∀ {t}, t.Canonical → (k t).Canonical)
    (h : c → s.Canonical) : Answers c (inSession k s) :=
  answers_request (fun h => canonical_ite (hk h) (canonical_answer h)) h

theorem answers_execGettel {c : Prop} {s : State} (h : c → s.Canonical) : Answers c (execGettel s) :=
  answers_request (fun h => canonical_ite (canonical_answer h) (canonical_answer h)) h

theorem answers_execGetlife {c : Prop} {s : State} (h : c → s.Canonical) : Answers c (execGetlife s) :=
  answers_request (fun h => canonical_ite (canonical_answer h) (canonical_answer h)) h

theorem answers_execSetlim {c : Prop} {s : State} (h : c → s.Canonical) : Answers c (execSetlim s) :=
  answers_request (fun h => canonical_ite (canonical_answer h) (canonical_answer h.same)) h

theorem answers_execFwstage {c : Prop} {s : State} (h : c → s.Canonical) : Answers c (execFwstage s) := by
  unfold execFwstage
  refine answers_request (fun h => canonical_ite (canonical_answer h)
      (canonical_ite (canonical_answer h) (canonical_answer h.same))) h

theorem answers_execFwact {c : Prop} {s : State} (h : c → s.Canonical) : Answers c (execFwact s) := by
  unfold execFwact
  extract_lets i b src w src_1
  split
  · exact answers_ite (.next h) (answers_ite (.next fun k => canonical_answer ((h k).same))
        (.next fun k => canonical_answer ((h k).same)))
  · exact answers_request (fun h => canonical_ite (canonical_answer h) h.same) h

theorem answers_execFwcommit {c : Prop} {s : State} (h : c → s.Canonical) : Answers c (execFwcommit s) :=
  answers_request (fun h => canonical_ite (canonical_answer h) (canonical_answer h.same)) h

theorem answers_execGetharv {c : Prop} {s : State} (h : c → s.Canonical) : Answers c (execGetharv s) :=
  answers_request (fun h => canonical_ite (canonical_answer h) (canonical_answer h)) h

theorem answers_execRetire {c : Prop} {s : State} (h : c → s.Canonical) : Answers c (execRetire s) := by
  unfold execRetire
  refine answers_request (fun h => canonical_ite (canonical_answer h)
      (canonical_ite (canonical_answer h) (canonical_ite (canonical_answer h) (canonical_answer h.same)))) h

theorem answers_execSetpart {c : Prop} {s : State} (h : c → s.Canonical) : Answers c (execSetpart s) := by
  unfold execSetpart
  refine answers_inSession (fun h => canonical_ite (canonical_answer h)
      (canonical_ite (canonical_answer h) (canonical_ite (canonical_answer h)
      (canonical_ite (canonical_answer h) (canonical_ite (canonical_answer h)
      (canonical_answer (canonical_setFn (canonical_foldl (fun h' => canonical_setTile h' ..)
      (canonical_foldl (fun h' => canonical_setTile h' ..) h)) ..))))))) h

theorem canonical_setWorld {s : State} {kind i : Nat} {w : Bool} (h : s.Canonical) : (s.setWorld kind i w).Canonical := by
  unfold State.setWorld
  extract_lets src m src_1 src_2 src_3
  split
  · exact canonical_setMill h ..
  · exact canonical_setMill h ..
  · exact canonical_setTile h ..
  · exact canonical_setLink h ..
  · exact canonical_setFn h ..

theorem answers_execSetworld {c : Prop} {s : State} (h : c → s.Canonical) : Answers c (execSetworld s) := by
  unfold execSetworld
  refine answers_inSession (fun h => canonical_ite (canonical_answer h)
      (canonical_ite (canonical_answer h) (canonical_ite (canonical_answer h) (canonical_answer (canonical_setWorld h))))) h

theorem canonical_unmapRanges {s : State} {a b : Word × Word} (h : s.Canonical) : (s.unmapRanges a b).Canonical := by
  unfold State.unmapRanges
  extract_lets hit keep s1 s1_1 me ts s2
  have h1 : s1.Canonical := h.same
  have h1_1 : s1_1.Canonical := canonical_mapTasks h1 ..
  have h2 : s2.Canonical := canonical_foldl (fun h => canonical_foldl (fun h' => canonical_asTask h' canonical_injectRelatch) h)
      h1_1
  exact optCanonical_getD (canonical_focus h2) h2

theorem answers_execSetsr {c : Prop} {s : State} (h : c → s.Canonical) : Answers c (execSetsr s) := by
  unfold execSetsr
  extract_lets n new later
  have hlater : ∀ {s}, s.Canonical → (later s).Canonical := fun h => h.same
  split
  · exact .next fun k => canonical_ite (hlater (h k)) (canonical_answer (h k))
  · refine answers_inSession ?_ h
    intro t h'
    extract_lets src
    split
    · exact hlater (canonical_unmapRanges h'.same)
    · exact canonical_answer h'

theorem answers_execLoadkey {c : Prop} {s : State} (h : c → s.Canonical) : Answers c (execLoadkey s) := by
  unfold execLoadkey
  refine answers_inSession ?_ h
  intro t h'
  extract_lets n
  split
  · exact canonical_answer h'
  · split
    · exact canonical_answer h'
    · exact canonical_answer ((canonical_rekeySlot h').same)

theorem answers_execSetkmask {c : Prop} {s : State} (h : c → s.Canonical) : Answers c (execSetkmask s) := by
  unfold execSetkmask
  refine answers_inSession (fun h => canonical_ite (canonical_answer h)
      (canonical_ite (canonical_answer h) (canonical_ite (canonical_answer h) (canonical_answer (canonical_setFn h ..))))) h

theorem answers_execSettrig {c : Prop} {s : State} (h : c → s.Canonical) : Answers c (execSettrig s) := by
  unfold execSettrig
  refine answers_inSession ?_ h
  intro t h'
  extract_lets d l own k before clear s1 src
  have hclear : ∀ {st f}, st.Canonical → (clear st f).Canonical := by
    intro st f h'
    unfold clear
    split
    · exact canonical_setFn h' ..
    · exact h'
  have h1 : s1.Canonical := canonical_ite h' (hclear (hclear h'))
  exact canonical_ite (canonical_answer h') (canonical_answer h1.same)

theorem answers_execSetig {c : Prop} {s : State} (h : c → s.Canonical) : Answers c (execSetig s) :=
  answers_inSession (fun h => canonical_ite (canonical_answer h) (canonical_answer (canonical_setDie h ..))) h

theorem answers_execGetpart {c : Prop} {s : State} (h : c → s.Canonical) : Answers c (execGetpart s) :=
  answers_request (fun h => canonical_ite (canonical_answer h) (canonical_answer h)) h

theorem answers_execNonce {c : Prop} {s : State} (h : c → s.Canonical) : Answers c (execNonce s) :=
  answers_request (fun h => canonical_answer ((canonical_choose h).same)) h

theorem answers_execAuth {c : Prop} {s : State} (h : c → s.Canonical) : Answers c (execAuth s) :=
  answers_request (fun h => canonical_answer h.same) h

theorem answers_execSessionTimeout {c : Prop} {s : State} (h : c → s.Canonical) : Answers c (execSessionTimeout s) :=
  answers_ite (.next h) (.next fun k => (h k).same)

theorem canonical_lifeTick {s : State} {ms : Nat} {temps : List (Nat × Nat)} (h : s.Canonical) :
    (s.lifeTick ms temps).Canonical := by
  unfold State.lifeTick
  extract_lets s1
  have h1 : s1.Canonical := canonical_ite (canonical_foldl (fun h => canonical_lifeAdd h ..) h) h
  exact canonical_ite (canonical_lifeAdd h1 ..) h1

theorem answers_execLimitInterval {c : Prop} {s : State} (h : c → s.Canonical) : Answers c (execLimitInterval s) :=
  answers_ite (.next h) (.next fun k => canonical_lifeTick ((canonical_choose (h k)).same))

theorem answers_execLifetimeCommit {c : Prop} {s : State} (h : c → s.Canonical) : Answers c (execLifetimeCommit s) :=
  answers_ite (.next h) (.next fun k => (h k).same)

theorem answers_execThermalShutdown {c : Prop} {s : State} (h : c → s.Canonical) : Answers c (execThermalShutdown s) := by
  unfold execThermalShutdown
  extract_lets s1 src
  have h1 : c → s1.Canonical := fun k => canonical_lifeAdd (h k) ..
  exact answers_ite (.next h) (.next fun k => (h1 k).same)

theorem answers_execSupplyDroop {c : Prop} {s : State} (h : c → s.Canonical) : Answers c (execSupplyDroop s) :=
  answers_ite (.next h) (.next fun k => canonical_lifeAdd (h k) ..)

theorem answers_execPowerLoss {c : Prop} {s : State} (h : c → s.Canonical) : Answers c (execPowerLoss s) :=
  .next fun k => (h k).same

theorem answers_execWheelhouseWakeRequest {c : Prop} {s : State} (h : c → s.Canonical) : Answers c
    (execWheelhouseWakeRequest s) :=
  .next fun k => canonical_mapCtx (h k) ..

theorem answers_execResetBoot {c : Prop} {s : State} (h : c → s.Canonical) : Answers c (execResetBoot s) :=
  .next fun k => ⟨wf_filter (h k).1 _, canonical_reset.2⟩

theorem answers_execTapInstruction {c : Prop} {s : State} (h : c → s.Canonical) : Answers c (execTapInstruction s) := by
  unfold execTapInstruction
  extract_lets t
  split
  · exact .next fun k => (h k).same
  · exact .next fun k => (h k).same
  · exact .next fun k => (canonical_choose (h k)).same
  · exact .next fun k => (h k).same
  · exact .next fun k => (h k).same
  · exact .next fun k => canonical_ite (((h k).same).same) ((h k).same)

/-! ## Canonical: Machine/Links -/

theorem canonical_releaseRemote {s : State} {obj : Nat} {pkg : BitVec 8} {n : Nat} (h : s.Canonical) :
    (s.releaseRemote obj pkg n).Canonical := by
  unfold State.releaseRemote
  extract_lets s1
  have h1 : s1.Canonical := canonical_mapObj h ..
  split
  · exact canonical_ite (canonical_objFree h1 ..) h1
  · exact h1

theorem answers_execHandleReleaseMessage {c : Prop} {s : State} (h : c → s.Canonical) : Answers c
    (execHandleReleaseMessage s) := by
  unfold execHandleReleaseMessage
  split
  · exact .next fun k => canonical_releaseRemote (h k)
  · exact .next h

theorem canonical_homeHandle {s : State} {pkg : BitVec 8} {h_1 : BitVec 128} (h : s.Canonical) :
    (s.homeHandle pkg h_1).Canonical :=
  canonical_ite h (canonical_mapObj h ..)

theorem canonical_strayWords {s : State} {fn : Nat} {ch : BitVec 12} {ws : List ChWord} (h : s.Canonical) :
    (s.strayWords fn ch ws).Canonical := by
  unfold State.strayWords
  split
  · exact canonical_discard (canonical_linkFault h ..) ..
  · exact canonical_foldl (fun h => canonical_disposeHandle h ..) h

theorem canonical_inOrder {s : State} {x : Chan} {num : BitVec 32} {r : Option State × State} (h : s.Canonical)
    (hr : BothCanonical r) : BothCanonical (s.inOrder x num r) := by
  unfold State.inOrder
  split
  · exact ⟨optCanonical_map (fun h => canonical_mapChan h ..) hr.1, hr.2⟩
  · split
    · exact ⟨optCanonical_some h, h⟩
    · exact ⟨optCanonical_none, h⟩

theorem canonical_linkWords {s : State} {f : Flit} {fn : Nat} {ch : BitVec 12} {ws : List ChWord} (h : s.Canonical) :
    BothCanonical (s.linkWords f fn ch ws) := by
  unfold State.linkWords
  split
  · exact ⟨optCanonical_some (canonical_strayWords h), h⟩
  · refine canonical_inOrder h ?_
    split
    · exact ⟨optCanonical_some (canonical_discard h ..), h⟩
    · exact canonical_deliver h

theorem canonical_pkgMsg {s : State} {f : Flit} {k : State → State} (h : s.Canonical)
    (hk : ∀ {t}, t.Canonical → (k t).Canonical) : BothCanonical (s.pkgMsg f k) := by
  unfold State.pkgMsg
  extract_lets x
  split
  · exact ⟨optCanonical_some (hk h.same), h⟩
  · split
    · exact ⟨optCanonical_some h, h⟩
    · exact ⟨optCanonical_none, h⟩

theorem canonical_haloAcked {s : State} {p : Nat} {n : BitVec 32} (h : s.Canonical) : (s.haloAcked p n).Canonical := by
  unfold State.haloAcked
  refine canonical_foldl ?_ h
  intro s_1 x h'
  split
  · exact h'.same
  · exact h'

theorem canonical_endFaults {s : State} {fn : Nat} {ch : BitVec 12} {prod : Bool} (h : s.Canonical) :
    (s.endFaults fn ch prod).Canonical :=
  canonical_foldl (fun h => canonical_linkFault h ..) h

theorem canonical_tellProducers {s : State} {x : Chan} {t : Nat} (h : s.Canonical) : (s.tellProducers x t).Canonical := h

theorem canonical_noteObj {s : State} {id t : Nat} (h : s.Canonical) : (s.noteObj id t).Canonical := by
  unfold State.noteObj
  split
  · exact canonical_noteTime h ..
  · exact h

theorem canonical_takeShare {s : State} {c : CollShare} {clk : Nat} (h : s.Canonical) : (s.takeShare c clk).Canonical := by
  unfold State.takeShare
  extract_lets old s1
  have h1 : s1.Canonical := h.same
  split
  · exact h1
  · refine canonical_foldl ?_ h1
    intro s_1 x h'
    split
    · exact canonical_sendPkg h' ..
    · exact h'

theorem canonical_receive {s : State} {f : Flit} (h : s.Canonical) : BothCanonical (s.receive f) := by
  unfold State.receive
  split
  · exact canonical_linkWords h
  · split
    · rename_i e
      exact ⟨optCanonical_some (canonical_homeHandle ((canonical_linkWords h).left e)), (canonical_linkWords h).right e⟩
    · exact canonical_linkWords h
  · split
    · refine ⟨optCanonical_some ?_, h⟩
      split
      · exact canonical_discardMsg h ..
      · exact h
    · exact canonical_inOrder h (canonical_deliverMsg h)
  · split
    · exact ⟨optCanonical_some (canonical_endFaults h), h⟩
    · exact canonical_inOrder h ⟨optCanonical_some (canonical_tellProducers (canonical_mapChan h ..)), h⟩
  · exact canonical_pkgMsg h fun h => canonical_releaseRemote (canonical_noteObj h)
  · exact canonical_pkgMsg h fun h => canonical_mapObj (canonical_noteObj h) ..
  · exact canonical_pkgMsg h canonical_takeShare
  · exact ⟨optCanonical_some h, h⟩

theorem answers_execLinkFlitReceive {c : Prop} {s : State} (h : c → s.Canonical) : Answers c (execLinkFlitReceive s) := by
  unfold execLinkFlitReceive
  extract_lets p f l
  split
  · exact .next h
  · split
    · exact .next fun k => canonical_lifeAdd (canonical_setLink (h k) ..) ..
    · split
      · exact .next fun k => canonical_setLink (canonical_haloAcked (h k)) ..
      · split
        · split
          · rename_i e
            have h1 := fun k => (canonical_receive (h k)).right e
            have h2 := fun k => (canonical_receive (h k)).left e
            exact .next fun k => canonical_setLink (h2 k) ..
          · rename_i e
            have h1 := fun k => (canonical_receive (h k)).right e
            exact .next h1
        · exact answers_ite (.next h) (.next fun k => canonical_lifeAdd (canonical_setLink (h k) ..) ..)

theorem canonical_sever {s : State} {fn : Nat} {a : Word} (h : s.Canonical) : (s.sever fn a).Canonical := by
  unfold State.sever
  extract_lets bs hit s0 s1 s2
  have h0 : s0.Canonical := canonical_foldl (fun h => canonical_foldl (fun h' => canonical_fault h' ..)
      (canonical_taskFault h ..)) (canonical_endBlk h)
  have h1 : s1.Canonical := canonical_foldl (fun h => canonical_foldl (fun h' => canonical_fault h' ..) h) h0
  have h2 : s2.Canonical := h1.same
  exact canonical_settle (canonical_mapTasks h2 ..)

theorem canonical_severDomain {s : State} {fn : Nat} {blk : Word} (h : s.Canonical) : (s.severDomain fn blk).Canonical :=
  canonical_sever h

theorem canonical_resend {s : State} {q : Nat} {f : Flit} (h : s.Canonical) : (s.resend q f).Canonical := h

theorem canonical_losePair {s : State} {p : Nat} {h_1 : BitVec 128} {clk : Nat} (h : s.Canonical) :
    (s.losePair p h_1 clk).Canonical := by
  unfold State.losePair
  split
  · exact canonical_ite (canonical_disposeHandle (canonical_homeHandle h) ..) (canonical_ite (canonical_disposeHandle h ..) h)
  · exact h

theorem canonical_drainPort {s : State} {p : Nat} (h : s.Canonical) : (s.drainPort p).Canonical := by
  unfold State.drainPort
  extract_lets l
  refine canonical_foldl ?_ (canonical_setLink h ..)
  intro s_1 x h'
  split
  · exact canonical_resend h'
  · split
    · exact canonical_losePair h'
    · exact h'

theorem canonical_dropLost {s : State} (h : s.Canonical) : s.dropLost.Canonical :=
  canonical_foldl (canonical_foldl canonical_releaseRemote) h

theorem canonical_severAll {s : State} {cs : List Chan} (h : s.Canonical) : (s.severAll cs).Canonical :=
  canonical_foldl canonical_severDomain h

theorem answers_execLinkFailure {c : Prop} {s : State} (h : c → s.Canonical) : Answers c (execLinkFailure s) := by
  unfold execLinkFailure
  extract_lets n l src s1 s1_1
  have h1 : c → s1.Canonical := fun k => canonical_setLink (h k) ..
  have h1_1 : c → s1_1.Canonical := fun k => canonical_drainPort (h k)
  exact answers_ite (.next fun k => canonical_severAll (h1 k)) (.next fun k => canonical_dropLost (canonical_severAll (h1_1 k)))

theorem canonical_collDiffer {s : State} {l : List (TaskId × Cmd × CollShare)} (h : s.Canonical) : (s.collDiffer l).Canonical :=
  canonical_foldl (fun h => canonical_asTask h (fun h' => canonical_cmdFault (canonical_mapCmd h'))) h

theorem canonical_collGive {s : State} {l : List (TaskId × Cmd × CollShare)} {r : List (Word × Bool)} {clk : Nat}
    (h : s.Canonical) : (s.collGive l r clk).Canonical :=
  canonical_foldl (fun h => canonical_asTask h (fun h' => canonical_mapCtx (canonical_mapCmd h') ..)) h

theorem canonical_collDone {s : State} {g : Nat} {ms : List Word} {l : List (TaskId × Cmd × CollShare)} {d : CollShare}
    (h : s.Canonical) : (s.collDone g ms l d).Canonical :=
  canonical_ite (canonical_collDiffer h.same) (canonical_collGive h.same)

theorem canonical_collStop {s : State} {g : Nat} {ms : List Word} {l : List (TaskId × Cmd × CollShare)} (h : s.Canonical) :
    (s.collStop g ms l).Canonical :=
  canonical_collDiffer h.same

theorem answers_execCollSum {c : Prop} {s : State} (h : c → s.Canonical) : Answers c (execCollSum s) := by
  unfold execCollSum
  extract_lets g
  split
  · exact .next h
  · extract_lets l
    clear_value l
    split
    · exact .next h
    · split
      · exact .next fun k => canonical_asTask (canonical_collStop (h k)) (fun h => h)
      · split
        · exact .next fun k => canonical_asTask (canonical_collDone (h k)) (fun h => h)
        · exact answers_ite (.next fun k => canonical_foldl canonical_severDomain (h k)) (.next h)

/-! ## Canonical: Machine/Replay -/

theorem answers_execReplayStart {c : Prop} {s : State} (h : c → s.Canonical) : Answers c (execReplayStart s) := by
  unfold execReplayStart
  extract_lets n root f s0 refused p f1
  have h0 : c → s0.Canonical := fun k => canonical_setFn (h k) ..
  have hrefused : ∀ {st c}, st.Canonical → (refused st c).Canonical := fun h => canonical_setFn h ..
  split
  · exact .next fun k => canonical_setFn (h k) ..
  · split
    · exact .next fun k => hrefused (h0 k)
    · split
      · exact .next fun k => hrefused (h0 k)
      · split
        · exact .next fun k => hrefused (canonical_devFault (h0 k) ..)
        · exact answers_ite (.next fun k => hrefused (h0 k)) (.next fun k => canonical_raise (canonical_setFn (h0 k) ..))

theorem canonical_restoreUnits {s : State} {fn : Nat} (h : s.Canonical) : (s.restoreUnits fn).Canonical := by
  unfold State.restoreUnits
  refine canonical_foldl ?_ h
  intro s x h
  dsimp only
  split
  · exact canonical_devFault h ..
  · exact h.withMem (wf_memCopyUnit h.1 ..)

theorem canonical_canonReset {s : State} {fn : Nat} (h : s.Canonical) : (s.canonReset fn).Canonical :=
  ⟨foldl_keeps (P := fun m => Memory.wf m = true) (fun _ _ h => wf_memClear h ..) _ h.1, h.2⟩

theorem canonical_clearTree {s : State} {fn : Nat} {root : Word} (h : s.Canonical) : (s.clearTree fn root).Canonical := by
  unfold State.clearTree
  extract_lets mine of gone s1
  have h1 : s1.Canonical := canonical_foldl (fun h => canonical_devPut h ..) h
  exact ⟨h1.1, h1.filterGroups _⟩

theorem answers_execReplayPassEnd {c : Prop} {s : State} (h : c → s.Canonical) : Answers c (execReplayPassEnd s) := by
  unfold execReplayPassEnd
  extract_lets n f s1 s2 src
  have h1 : c → s1.Canonical := fun k => canonical_setFn (h k) ..
  have h2 : c → s2.Canonical := fun k => canonical_clearTree (canonical_canonReset (canonical_restoreUnits (h1 k)))
  exact answers_ite (.next h) (answers_ite (.next fun k => canonical_setFn (h1 k) ..) (.next fun k => canonical_setFn (h2 k) ..))

/-! ## Canonical: Machine/ScalarFp -/

theorem canonical_putF {s : State} {d : BitVec 5} {v : Word} (h : s.Canonical) : (s.putF d v).Canonical := h

theorem canonical_putQ {s : State} {d : BitVec 5} {v : Bool} (h : s.Canonical) : (s.putQ d v).Canonical := h

theorem answers_fpF {c : Prop} {i : Instr} {g : Guard} {k : Scalar} {d : BitVec 5} {s : State} {f : Ctx → Nat × FFlags}
    (h : c → s.Canonical) : Answers c (fpF i g k d s f) :=
  answers_guarded h (fun h => answers_fpDone h canonical_putF)

theorem answers_fp2 {c : Prop} {i : Instr} {g : Guard} {k : Scalar} {d a b : BitVec 5} {s : State}
    {f : Fmt → FV → FV → Nat × FFlags} (h : c → s.Canonical) : Answers c (fp2 i g k d a b s f) :=
  answers_fpF h

theorem answers_fpCmp {c : Prop} {i : Instr} {g : Guard} {k : Scalar} {d a b : BitVec 5} {quiet : Bool} {s : State}
    {f : FV → FV → Bool} (h : c → s.Canonical) : Answers c (fpCmp i g k d a b quiet s f) :=
  answers_guarded h (fun h => answers_fpDone h canonical_putQ)

theorem answers_fpToInt {c : Prop} {i : Instr} {g : Guard} {k : Scalar} {d a : BitVec 5} {lo hi : Int} {s : State}
    (h : c → s.Canonical) : Answers c (fpToInt i g k d a lo hi s) :=
  answers_gated h (fun h => answers_fpDone h canonical_putG)

theorem answers_fpOfInt {c : Prop} {i : Instr} {g : Guard} {k : Scalar} {d a : BitVec 5} {s : State} {f : Word → Int}
    (h : c → s.Canonical) : Answers c (fpOfInt i g k d a s f) :=
  answers_gated h (fun h => answers_fpDone h canonical_putF)

theorem answers_execGmvf {c : Prop} {g : Guard} {d a : BitVec 5} {s : State} (h : c → s.Canonical) : Answers c
    (execGmvf g d a s) :=
  answers_gated h (fun h => .next fun k => canonical_retireTo (canonical_putF (canonical_popSrcs (h k) ..)) ..)

theorem answers_execFli {c : Prop} {g : Guard} {d : BitVec 5} {imm : BitVec 16} {s : State} (h : c → s.Canonical) : Answers c
    (execFli g d imm s) :=
  answers_guarded h (fun h => .next fun k => canonical_retireTo (canonical_putF (h k)) ..)

theorem answers_execFliS {c : Prop} {g : Guard} {d : BitVec 5} {imm : BitVec 16} {s : State} (h : c → s.Canonical) : Answers c
    (execFliS g d imm s) :=
  answers_guarded h (fun h => .next fun k => canonical_retireTo (canonical_putF (h k)) ..)

/-! ## Canonical: Machine/Agenda -/

theorem canonical_nextOf {f : Fetched} (h : f.Canonical) : (nextOf f).Canonical := by
  cases f <;> exact h

theorem canonical_fetchNext {s : State} (h : s.Canonical) : (fetchNext s).Canonical := by
  unfold fetchNext
  extract_lets pc
  have hw := canonical_fetchWord (va := pc) h
  split
  · rename_i e
    have h1 := hw.ok e
    split
    · exact h1
    · split
      · exact h1
      · split
        · rename_i e
          exact canonical_nextOf ((canonical_fetchLits h1).error e)
        · rename_i e
          have h2 := (canonical_fetchLits h1).ok e
          split
          · exact canonical_fetchedAt h2
          · exact h2
  · exact canonical_nextOf hw

theorem canonical_grantQuad {s : State} {rs : List (Task × List Nat)} {mill q : Nat} (h : s.Canonical) :
    (s.grantQuad rs mill q).Canonical := by
  unfold State.grantQuad
  extract_lets here asks m
  split
  · exact h
  · split
    · exact h
    · split
      · exact h
      · exact canonical_mapTask (canonical_setMill h ..) ..

theorem canonical_grantAll {s : State} (h : s.Canonical) : s.grantAll.Canonical := canonical_foldl canonical_grantQuad h

theorem canonical_eachTask {s : State} {p : Task → Bool} {f : State → State} (h : s.Canonical)
    (hf : ∀ {t}, t.Canonical → (f t).Canonical) : (s.eachTask p f).Canonical :=
  canonical_asTask (canonical_foldl (fun h => canonical_asTask h hf) h) (fun h => h)

theorem canonical_memError {s : State} (h : s.Canonical) : s.memError.Canonical := by
  unfold State.memError
  split
  · rename_i e
    have h1 := canonical_snd (canonical_choose h) e
    split
    · exact h1
    · extract_lets hbm
      have hhbm : ∀ {item st}, st.Canonical → (hbm item st).Canonical := fun h => canonical_ite (canonical_lifeAdd h ..) h
      split
      · exact canonical_source (canonical_ite (canonical_lifeAdd h1 ..) (hhbm h1)) ..
      · exact hhbm h1.same
      · exact h1.same

theorem canonical_endCycle {s : State} (h : s.Canonical) : s.endCycle.Canonical := by
  unfold State.endCycle
  extract_lets s1 s2
  have h1 : s1.Canonical := canonical_eachTask h (fun h => canonical_flushRelatch h)
  have h2 : s2.Canonical := canonical_eachTask h1 canonical_nodeStop
  exact canonical_eachTask h2 canonical_wake

theorem canonical_tick {s : State} (h : s.Canonical) : s.tick.Canonical := by
  unfold State.tick
  extract_lets s0 s1 s2
  have h0 : s0.Canonical := canonical_endCycle h
  have h1 : s1.Canonical := canonical_drainTrace h0.same
  have h2 : s2.Canonical := canonical_grantAll (canonical_noteFull (canonical_memError h1))
  exact h2.same

theorem canonical_noteRestored {s : State} (h : s.Canonical) : s.noteRestored.Canonical :=
  canonical_ite (canonical_mapMe (canonical_trace h ..) ..) h

theorem canonical_park {i : Instr} {s : State} (h : s.Canonical) : (State.park i s).Canonical :=
  canonical_ite (canonical_mapCtx h ..) h

theorem canonical_pickAct {a : Act} {rest : List Act} {s : State} (h : s.Canonical) : (pickAct a rest s).2.Canonical := by
  unfold pickAct
  extract_lets l n
  exact canonical_snd_ite h.same h.same

/-! ## Canonical: Machine/Dispatch -/

theorem Answers.of_eq {c : Prop} {r r' : Res} (e : r = r') (h : Answers c r') : Answers c r := e ▸ h

/-- Every instruction, command, element operation and event answers a next state, and from a canonical state a canonical one. -/
theorem answers_exec {c : Prop} {i : Instr} {s : State} (h : c → s.Canonical) : Answers c (exec i s) := by
  cases i with
  | ldB => exact .of_eq (exec_ldB ..) (answers_loadG h)
  | ldBu => exact .of_eq (exec_ldBu ..) (answers_loadG h)
  | ldH => exact .of_eq (exec_ldH ..) (answers_loadG h)
  | ldHu => exact .of_eq (exec_ldHu ..) (answers_loadG h)
  | ldW => exact .of_eq (exec_ldW ..) (answers_loadG h)
  | ldWu => exact .of_eq (exec_ldWu ..) (answers_loadG h)
  | ldD => exact .of_eq (exec_ldD ..) (answers_loadG h)
  | ldcW => exact .of_eq (exec_ldcW ..) (answers_loadG h)
  | ldcWu => exact .of_eq (exec_ldcWu ..) (answers_loadG h)
  | ldcD => exact .of_eq (exec_ldcD ..) (answers_loadG h)
  | stB => exact .of_eq (exec_stB ..) (answers_storeOp h)
  | stH => exact .of_eq (exec_stH ..) (answers_storeOp h)
  | stW => exact .of_eq (exec_stW ..) (answers_storeOp h)
  | stD => exact .of_eq (exec_stD ..) (answers_storeOp h)
  | stf => exact .of_eq (exec_stf ..) (answers_storeOp h)
  | stfS => exact .of_eq (exec_stfS ..) (answers_storeOp h)
  | ldf => exact .of_eq (exec_ldf ..) (answers_loadF h)
  | ldfS => exact .of_eq (exec_ldfS ..) (answers_loadF h)
  | aadd => exact .of_eq (exec_aadd ..) (answers_atomicOp h)
  | aaddW => exact .of_eq (exec_aaddW ..) (answers_atomicOp h)
  | aand => exact .of_eq (exec_aand ..) (answers_atomicOp h)
  | aandW => exact .of_eq (exec_aandW ..) (answers_atomicOp h)
  | aor => exact .of_eq (exec_aor ..) (answers_atomicOp h)
  | aorW => exact .of_eq (exec_aorW ..) (answers_atomicOp h)
  | axor => exact .of_eq (exec_axor ..) (answers_atomicOp h)
  | axorW => exact .of_eq (exec_axorW ..) (answers_atomicOp h)
  | amin => exact .of_eq (exec_amin ..) (answers_atomicOp h)
  | aminW => exact .of_eq (exec_aminW ..) (answers_atomicOp h)
  | amax => exact .of_eq (exec_amax ..) (answers_atomicOp h)
  | amaxW => exact .of_eq (exec_amaxW ..) (answers_atomicOp h)
  | aminu => exact .of_eq (exec_aminu ..) (answers_atomicOp h)
  | aminuW => exact .of_eq (exec_aminuW ..) (answers_atomicOp h)
  | amaxu => exact .of_eq (exec_amaxu ..) (answers_atomicOp h)
  | amaxuW => exact .of_eq (exec_amaxuW ..) (answers_atomicOp h)
  | aswp => exact .of_eq (exec_aswp ..) (answers_atomicOp h)
  | aswpW => exact .of_eq (exec_aswpW ..) (answers_atomicOp h)
  | acas => exact .of_eq (exec_acas ..) (answers_atomicOp h)
  | acasW => exact .of_eq (exec_acasW ..) (answers_atomicOp h)
  | mfs => exact .of_eq (exec_mfs ..) (answers_gated h answers_doneG)
  | ctrrd => exact .of_eq (exec_ctrrd ..) (answers_gated h answers_doneG)
  | li => exact .of_eq (exec_li ..) (answers_gated h answers_doneG)
  | addpc => exact .of_eq (exec_addpc ..) (answers_gated h answers_doneG)
  | liw => exact .of_eq (exec_liw ..) (answers_gated h answers_doneG)
  | sel => exact .of_eq (exec_sel ..) (answers_gated h answers_doneG)
  | fclass => exact .of_eq (exec_fclass ..) (answers_gated h answers_doneG)
  | fclassS => exact .of_eq (exec_fclassS ..) (answers_gated h answers_doneG)
  | fmvg => exact .of_eq (exec_fmvg ..) (answers_gated h answers_doneG)
  | pdot => exact .of_eq (exec_pdot ..) (answers_cell h)
  | pdots => exact .of_eq (exec_pdots ..) (answers_cell h)
  | pdotm => exact .of_eq (exec_pdotm ..) (answers_cell h)
  | drain => exact .of_eq (exec_drain ..) (answers_fireWith h)
  | enc => exact .of_eq (exec_enc ..) (answers_fireWith h)
  | dec => exact .of_eq (exec_dec ..) (answers_fireWith h)
  | padd => exact .of_eq (exec_padd ..) (answers_fireWith h)
  | pscl => exact .of_eq (exec_pscl ..) (answers_fireWith h)
  | pneg => exact .of_eq (exec_pneg ..) (answers_fireWith h)
  | pmsk => exact .of_eq (exec_pmsk ..) (answers_fireWith h)
  | eadd => exact .of_eq (exec_eadd ..) (answers_fireWith h)
  | esub => exact .of_eq (exec_esub ..) (answers_fireWith h)
  | emul => exact .of_eq (exec_emul ..) (answers_fireWith h)
  | efma => exact .of_eq (exec_efma ..) (answers_fireWith h)
  | emin => exact .of_eq (exec_emin ..) (answers_fireWith h)
  | emax => exact .of_eq (exec_emax ..) (answers_fireWith h)
  | ecmp => exact .of_eq (exec_ecmp ..) (answers_fireWith h)
  | esel => exact .of_eq (exec_esel ..) (answers_fireWith h)
  | eexp2 => exact .of_eq (exec_eexp2 ..) (answers_fireWith h)
  | elog2 => exact .of_eq (exec_elog2 ..) (answers_fireWith h)
  | ercp => exact .of_eq (exec_ercp ..) (answers_fireWith h)
  | ersq => exact .of_eq (exec_ersq ..) (answers_fireWith h)
  | cvtBf16Fp32 => exact .of_eq (exec_cvtBf16Fp32 ..) (answers_fireWith h)
  | cvtFp16Fp32 => exact .of_eq (exec_cvtFp16Fp32 ..) (answers_fireWith h)
  | cvtE4m3Fp32 => exact .of_eq (exec_cvtE4m3Fp32 ..) (answers_fireWith h)
  | cvtE5m2Fp32 => exact .of_eq (exec_cvtE5m2Fp32 ..) (answers_fireWith h)
  | cvtInt8Fp32 => exact .of_eq (exec_cvtInt8Fp32 ..) (answers_fireWith h)
  | cvtI4sFp32 => exact .of_eq (exec_cvtI4sFp32 ..) (answers_fireWith h)
  | cvtFp32Bf16 => exact .of_eq (exec_cvtFp32Bf16 ..) (answers_fireWith h)
  | cvtFp32Fp16 => exact .of_eq (exec_cvtFp32Fp16 ..) (answers_fireWith h)
  | cvtFp32E4m3 => exact .of_eq (exec_cvtFp32E4m3 ..) (answers_fireWith h)
  | cvtFp32E5m2 => exact .of_eq (exec_cvtFp32E5m2 ..) (answers_fireWith h)
  | cvtFp32Int8 => exact .of_eq (exec_cvtFp32Int8 ..) (answers_fireWith h)
  | cvtFp32I4s => exact .of_eq (exec_cvtFp32I4s ..) (answers_fireWith h)
  | join => exact .of_eq (exec_join ..) (answers_fireWith h)
  | merge => exact .of_eq (exec_merge ..) (answers_fireWith h)
  | filt => exact .of_eq (exec_filt ..) (answers_fireWith h)
  | pass => exact .of_eq (exec_pass ..) (answers_fireWith h)
  | repl => exact .of_eq (exec_repl ..) (answers_fireWith h)
  | tokq => exact .of_eq (exec_tokq ..) (answers_fireWith h)
  | add => exact .of_eq (exec_add ..) (answers_op3 h)
  | addW => exact .of_eq (exec_addW ..) (answers_op3 h)
  | sub => exact .of_eq (exec_sub ..) (answers_op3 h)
  | subW => exact .of_eq (exec_subW ..) (answers_op3 h)
  | mul => exact .of_eq (exec_mul ..) (answers_op3 h)
  | mulW => exact .of_eq (exec_mulW ..) (answers_op3 h)
  | mulh => exact .of_eq (exec_mulh ..) (answers_op3 h)
  | mulhu => exact .of_eq (exec_mulhu ..) (answers_op3 h)
  | div => exact .of_eq (exec_div ..) (answers_op3 h)
  | divW => exact .of_eq (exec_divW ..) (answers_op3 h)
  | divu => exact .of_eq (exec_divu ..) (answers_op3 h)
  | divuW => exact .of_eq (exec_divuW ..) (answers_op3 h)
  | rem => exact .of_eq (exec_rem ..) (answers_op3 h)
  | remW => exact .of_eq (exec_remW ..) (answers_op3 h)
  | remu => exact .of_eq (exec_remu ..) (answers_op3 h)
  | remuW => exact .of_eq (exec_remuW ..) (answers_op3 h)
  | min => exact .of_eq (exec_min ..) (answers_op3 h)
  | max => exact .of_eq (exec_max ..) (answers_op3 h)
  | minu => exact .of_eq (exec_minu ..) (answers_op3 h)
  | maxu => exact .of_eq (exec_maxu ..) (answers_op3 h)
  | and => exact .of_eq (exec_and ..) (answers_op3 h)
  | or => exact .of_eq (exec_or ..) (answers_op3 h)
  | xor => exact .of_eq (exec_xor ..) (answers_op3 h)
  | shl => exact .of_eq (exec_shl ..) (answers_op3 h)
  | shlW => exact .of_eq (exec_shlW ..) (answers_op3 h)
  | shr => exact .of_eq (exec_shr ..) (answers_op3 h)
  | shrW => exact .of_eq (exec_shrW ..) (answers_op3 h)
  | sra => exact .of_eq (exec_sra ..) (answers_op3 h)
  | sraW => exact .of_eq (exec_sraW ..) (answers_op3 h)
  | clz => exact .of_eq (exec_clz ..) (answers_op2 h)
  | clzW => exact .of_eq (exec_clzW ..) (answers_op2 h)
  | ctz => exact .of_eq (exec_ctz ..) (answers_op2 h)
  | ctzW => exact .of_eq (exec_ctzW ..) (answers_op2 h)
  | popc => exact .of_eq (exec_popc ..) (answers_op2 h)
  | popcW => exact .of_eq (exec_popcW ..) (answers_op2 h)
  | sextB => exact .of_eq (exec_sextB ..) (answers_op2 h)
  | sextH => exact .of_eq (exec_sextH ..) (answers_op2 h)
  | sextW => exact .of_eq (exec_sextW ..) (answers_op2 h)
  | zextB => exact .of_eq (exec_zextB ..) (answers_op2 h)
  | zextH => exact .of_eq (exec_zextH ..) (answers_op2 h)
  | zextW => exact .of_eq (exec_zextW ..) (answers_op2 h)
  | addi => exact .of_eq (exec_addi ..) (answers_op2 h)
  | addiW => exact .of_eq (exec_addiW ..) (answers_op2 h)
  | andi => exact .of_eq (exec_andi ..) (answers_op2 h)
  | ori => exact .of_eq (exec_ori ..) (answers_op2 h)
  | xori => exact .of_eq (exec_xori ..) (answers_op2 h)
  | shlImm => exact .of_eq (exec_shlImm ..) (answers_op2 h)
  | shlWImm => exact .of_eq (exec_shlWImm ..) (answers_op2 h)
  | shrImm => exact .of_eq (exec_shrImm ..) (answers_op2 h)
  | shrWImm => exact .of_eq (exec_shrWImm ..) (answers_op2 h)
  | sraImm => exact .of_eq (exec_sraImm ..) (answers_op2 h)
  | sraWImm => exact .of_eq (exec_sraWImm ..) (answers_op2 h)
  | extr => exact .of_eq (exec_extr ..) (answers_op2 h)
  | lih => exact .of_eq (exec_lih ..) (answers_opRw h)
  | ins => exact .of_eq (exec_ins ..) (answers_opRw h)
  | cmpEqImm => exact .of_eq (exec_cmpEqImm ..) (answers_cmpImm h)
  | cmpNeImm => exact .of_eq (exec_cmpNeImm ..) (answers_cmpImm h)
  | cmpLtImm => exact .of_eq (exec_cmpLtImm ..) (answers_cmpImm h)
  | cmpLeImm => exact .of_eq (exec_cmpLeImm ..) (answers_cmpImm h)
  | cmpLtuImm => exact .of_eq (exec_cmpLtuImm ..) (answers_cmpImm h)
  | cmpLeuImm => exact .of_eq (exec_cmpLeuImm ..) (answers_cmpImm h)
  | cmpEq => exact .of_eq (exec_cmpEq ..) (answers_cmpOp h)
  | cmpNe => exact .of_eq (exec_cmpNe ..) (answers_cmpOp h)
  | cmpLt => exact .of_eq (exec_cmpLt ..) (answers_cmpOp h)
  | cmpLe => exact .of_eq (exec_cmpLe ..) (answers_cmpOp h)
  | cmpLtu => exact .of_eq (exec_cmpLtu ..) (answers_cmpOp h)
  | cmpLeu => exact .of_eq (exec_cmpLeu ..) (answers_cmpOp h)
  | gand => exact .of_eq (exec_gand ..) (answers_opQ h)
  | gor => exact .of_eq (exec_gor ..) (answers_opQ h)
  | gxor => exact .of_eq (exec_gxor ..) (answers_opQ h)
  | gnot => exact .of_eq (exec_gnot ..) (answers_opQ h)
  | fadd => exact .of_eq (exec_fadd ..) (answers_fp2 h)
  | faddS => exact .of_eq (exec_faddS ..) (answers_fp2 h)
  | fsub => exact .of_eq (exec_fsub ..) (answers_fp2 h)
  | fsubS => exact .of_eq (exec_fsubS ..) (answers_fp2 h)
  | fmul => exact .of_eq (exec_fmul ..) (answers_fp2 h)
  | fmulS => exact .of_eq (exec_fmulS ..) (answers_fp2 h)
  | fdiv => exact .of_eq (exec_fdiv ..) (answers_fp2 h)
  | fdivS => exact .of_eq (exec_fdivS ..) (answers_fp2 h)
  | fsqrt => exact .of_eq (exec_fsqrt ..) (answers_fpF h)
  | fsqrtS => exact .of_eq (exec_fsqrtS ..) (answers_fpF h)
  | ffma => exact .of_eq (exec_ffma ..) (answers_fpF h)
  | ffmaS => exact .of_eq (exec_ffmaS ..) (answers_fpF h)
  | fmin => exact .of_eq (exec_fmin ..) (answers_fpF h)
  | fminS => exact .of_eq (exec_fminS ..) (answers_fpF h)
  | fmax => exact .of_eq (exec_fmax ..) (answers_fpF h)
  | fmaxS => exact .of_eq (exec_fmaxS ..) (answers_fpF h)
  | fcvtSD => exact .of_eq (exec_fcvtSD ..) (answers_fpF h)
  | fcvtDS => exact .of_eq (exec_fcvtDS ..) (answers_fpF h)
  | fcmpEq => exact .of_eq (exec_fcmpEq ..) (answers_fpCmp h)
  | fcmpEqS => exact .of_eq (exec_fcmpEqS ..) (answers_fpCmp h)
  | fcmpLt => exact .of_eq (exec_fcmpLt ..) (answers_fpCmp h)
  | fcmpLtS => exact .of_eq (exec_fcmpLtS ..) (answers_fpCmp h)
  | fcmpLe => exact .of_eq (exec_fcmpLe ..) (answers_fpCmp h)
  | fcmpLeS => exact .of_eq (exec_fcmpLeS ..) (answers_fpCmp h)
  | fcmpUn => exact .of_eq (exec_fcmpUn ..) (answers_fpCmp h)
  | fcmpUnS => exact .of_eq (exec_fcmpUnS ..) (answers_fpCmp h)
  | fcvtLD => exact .of_eq (exec_fcvtLD ..) (answers_fpToInt h)
  | fcvtLuD => exact .of_eq (exec_fcvtLuD ..) (answers_fpToInt h)
  | fcvtLS => exact .of_eq (exec_fcvtLS ..) (answers_fpToInt h)
  | fcvtLuS => exact .of_eq (exec_fcvtLuS ..) (answers_fpToInt h)
  | fcvtDL => exact .of_eq (exec_fcvtDL ..) (answers_fpOfInt h)
  | fcvtDLu => exact .of_eq (exec_fcvtDLu ..) (answers_fpOfInt h)
  | fcvtSL => exact .of_eq (exec_fcvtSL ..) (answers_fpOfInt h)
  | fcvtSLu => exact .of_eq (exec_fcvtSLu ..) (answers_fpOfInt h)
  | pref => exact .of_eq (exec_pref ..) (answers_gated h answers_done)
  | br => exact .of_eq (exec_br ..) (answers_execBr h)
  | bl => exact .of_eq (exec_bl ..) (answers_execBl h)
  | bi => exact .of_eq (exec_bi ..) (answers_execBi h)
  | rep => exact .of_eq (exec_rep ..) (answers_execRep h)
  | waitch => exact .of_eq (exec_waitch ..) (answers_execWaitch h)
  | yield => exact .of_eq (exec_yield ..) (answers_execYield h)
  | exit => exact .of_eq (exec_exit ..) (answers_execExit h)
  | nop => exact .of_eq (exec_nop ..) (answers_execNop h)
  | bara => exact .of_eq (exec_bara ..) (answers_execBara h)
  | barw => exact .of_eq (exec_barw ..) (answers_execBarw h)
  | chbind => exact .of_eq (exec_chbind ..) (answers_execChbind h)
  | chclose => exact .of_eq (exec_chclose ..) (answers_execChclose h)
  | mts => exact .of_eq (exec_mts ..) (answers_execMts h)
  | nstepi => exact .of_eq (exec_nstepi ..) (answers_execNstepi h)
  | trap => exact .of_eq (exec_trap ..) (answers_execTrap h)
  | bkpt => exact .of_eq (exec_bkpt ..) (answers_execBkpt h)
  | eret => exact .of_eq (exec_eret ..) (answers_execEret h)
  | wfe => exact .of_eq (exec_wfe ..) (answers_execWfe h)
  | ctrsel => exact .of_eq (exec_ctrsel ..) (answers_execCtrsel h)
  | ctron => exact .of_eq (exec_ctron ..) (answers_execCtron h)
  | ctroff => exact .of_eq (exec_ctroff ..) (answers_execCtroff h)
  | mark => exact .of_eq (exec_mark ..) (answers_execMark h)
  | trig => exact .of_eq (exec_trig ..) (answers_execTrig h)
  | tlbinv => exact .of_eq (exec_tlbinv ..) (answers_execTlbinv h)
  | rsvpin => exact .of_eq (exec_rsvpin ..) (answers_execRsvpin h)
  | rsvunpin => exact .of_eq (exec_rsvunpin ..) (answers_execRsvunpin h)
  | slnew => exact .of_eq (exec_slnew ..) (answers_execSlnew h)
  | slmap => exact .of_eq (exec_slmap ..) (answers_execSlmap h)
  | sldup => exact .of_eq (exec_sldup ..) (answers_execSldup h)
  | sldrop => exact .of_eq (exec_sldrop ..) (answers_execSldrop h)
  | hmov => exact .of_eq (exec_hmov ..) (answers_execHmov h)
  | slxfer => exact .of_eq (exec_slxfer ..) (answers_execSlxfer h)
  | hrecv => exact .of_eq (exec_hrecv ..) (answers_execHrecv h)
  | sci => exact .of_eq (exec_sci ..) (answers_execSci h)
  | scm => exact .of_eq (exec_scm ..) (answers_execScm h)
  | scw => exact .of_eq (exec_scw ..) (answers_execScw h)
  | launch => exact .of_eq (exec_launch ..) (answers_execLaunch h)
  | workBlockWalk => exact .of_eq (exec_workBlockWalk ..) (answers_execWorkBlockWalk h)
  | dlaunch => exact .of_eq (exec_dlaunch ..) (answers_execDlaunch h)
  | planeDrain => exact .of_eq (exec_planeDrain ..) (answers_execPlaneDrain h)
  | accsw => exact .of_eq (exec_accsw ..) (answers_execAccsw h)
  | agloop => exact .of_eq (exec_agloop ..) (answers_execAgloop h)
  | agld => exact .of_eq (exec_agld ..) (answers_execAgld h)
  | agst => exact .of_eq (exec_agst ..) (answers_execAgst h)
  | agred => exact .of_eq (exec_agred ..) (answers_execAgred h)
  | aggath => exact .of_eq (exec_aggath ..) (answers_execAggath h)
  | flnew => exact .of_eq (exec_flnew ..) (answers_execFlnew h)
  | flawait => exact .of_eq (exec_flawait ..) (answers_execFlawait h)
  | flrel => exact .of_eq (exec_flrel ..) (answers_execFlrel h)
  | scCopy => exact .of_eq (exec_scCopy ..) (answers_execScCopy h)
  | scSlfill => exact .of_eq (exec_scSlfill ..) (answers_execScSlfill h)
  | scSlsee => exact .of_eq (exec_scSlsee ..) (answers_execScSlsee h)
  | scGath => exact .of_eq (exec_scGath ..) (answers_execScGath h)
  | scScat => exact .of_eq (exec_scScat ..) (answers_execScScat h)
  | scFlume => exact .of_eq (exec_scFlume ..) (answers_execScFlume h)
  | flumeSlotRetire => exact .of_eq (exec_flumeSlotRetire ..) (answers_execFlumeSlotRetire h)
  | scRcopy => exact .of_eq (exec_scRcopy ..) (answers_execScRcopy h)
  | scBind => exact .of_eq (exec_scBind ..) (answers_execScBind h)
  | scTok => exact .of_eq (exec_scTok ..) (answers_execScTok h)
  | scDrain => exact .of_eq (exec_scDrain ..) (answers_execScDrain h)
  | scNop => exact .of_eq (exec_scNop ..) (answers_execScNop h)
  | scFence => exact .of_eq (exec_scFence ..) (answers_execScFence h)
  | scCfg => exact .of_eq (exec_scCfg ..) (answers_execScCfg h)
  | scSwap => exact .of_eq (exec_scSwap ..) (answers_execScSwap h)
  | scJob => exact .of_eq (exec_scJob ..) (answers_execScJob h)
  | jobOvertake => exact .of_eq (exec_jobOvertake ..) (answers_execJobOvertake h)
  | scHalo => exact .of_eq (exec_scHalo ..) (answers_execScHalo h)
  | scColl => exact .of_eq (exec_scColl ..) (answers_execScColl h)
  | commandRetire => exact .of_eq (exec_commandRetire ..) (answers_execCommandRetire h)
  | syncd => exact .of_eq (exec_syncd ..) (answers_execSyncd h)
  | atomicRoundClose => exact .of_eq (exec_atomicRoundClose ..) (answers_execAtomicRoundClose h)
  | intervalMerge => exact .of_eq (exec_intervalMerge ..) (answers_execIntervalMerge h)
  | taskRetire => exact .of_eq (exec_taskRetire ..) (answers_execTaskRetire h)
  | preempt => exact .of_eq (exec_preempt ..) (answers_execPreempt h)
  | preemptSaveDone => exact .of_eq (exec_preemptSaveDone ..) (answers_execPreemptSaveDone h)
  | taskStart => exact .of_eq (exec_taskStart ..) (answers_execTaskStart h)
  | allocatorDecision => exact .of_eq (exec_allocatorDecision ..) (answers_execAllocatorDecision h)
  | headHoldPreempt => exact .of_eq (exec_headHoldPreempt ..) (answers_execHeadHoldPreempt h)
  | dieAck => exact .of_eq (exec_dieAck ..) (answers_execDieAck h)
  | controlTokenPass => exact .of_eq (exec_controlTokenPass ..) (answers_execControlTokenPass h)
  | tokenLinkTransfer => exact .of_eq (exec_tokenLinkTransfer ..) (answers_execTokenLinkTransfer h)
  | tokenChannelPush => exact .of_eq (exec_tokenChannelPush ..) (answers_execTokenChannelPush h)
  | ingressMeter => exact .of_eq (exec_ingressMeter ..) (answers_execIngressMeter h)
  | asyncTrapTake => exact .of_eq (exec_asyncTrapTake ..) (answers_execAsyncTrapTake h)
  | sleepingInstructionRetire => exact .of_eq (exec_sleepingInstructionRetire ..) (answers_execSleepingInstructionRetire h)
  | stallRelease => exact .of_eq (exec_stallRelease ..) (answers_execStallRelease h)
  | watchdog => exact .of_eq (exec_watchdog ..) (answers_execWatchdog h)
  | spillfull => exact .of_eq (exec_spillfull ..) (answers_execSpillfull h)
  | channelWordArrival => exact .of_eq (exec_channelWordArrival ..) (answers_execChannelWordArrival h)
  | haloMessageArrival => exact .of_eq (exec_haloMessageArrival ..) (answers_execHaloMessageArrival h)
  | barrierPhaseComplete => exact .of_eq (exec_barrierPhaseComplete ..) (answers_execBarrierPhaseComplete h)
  | counterWrap => exact .of_eq (exec_counterWrap ..) (answers_execCounterWrap h)
  | bankreq => exact .of_eq (exec_bankreq ..) (answers_execBankreq h)
  | bankModeChangeDone => exact .of_eq (exec_bankModeChangeDone ..) (answers_execBankModeChangeDone h)
  | ptctlMode => exact .of_eq (exec_ptctlMode ..) (answers_execPtctlMode h)
  | tileModeChangeDone => exact .of_eq (exec_tileModeChangeDone ..) (answers_execTileModeChangeDone h)
  | ptctlRunStart => exact .of_eq (exec_ptctlRunStart ..) (answers_execPtctlRunStart h)
  | ptctlRunStop => exact .of_eq (exec_ptctlRunStop ..) (answers_execPtctlRunStop h)
  | pushUnit => exact .of_eq (exec_pushUnit ..) (answers_execPushUnit h)
  | tcopResume => exact .of_eq (exec_tcopResume ..) (answers_execTcopResume h)
  | tcopKill => exact .of_eq (exec_tcopKill ..) (answers_execTcopKill h)
  | unmap => exact .of_eq (exec_unmap ..) (answers_execUnmap h)
  | unmapComplete => exact .of_eq (exec_unmapComplete ..) (answers_execUnmapComplete h)
  | bar2Access => exact .of_eq (exec_bar2Access ..) (answers_execBar2Access h)
  | registerWrite => exact .of_eq (exec_registerWrite ..) (answers_execRegisterWrite h)
  | attach => exact .of_eq (exec_attach ..) (answers_execAttach h)
  | detach => exact .of_eq (exec_detach ..) (answers_execDetach h)
  | stop => exact .of_eq (exec_stop ..) (answers_execStop h)
  | go => exact .of_eq (exec_go ..) (answers_execGo h)
  | wrctl => exact .of_eq (exec_wrctl ..) (answers_execWrctl h)
  | dump => exact .of_eq (exec_dump ..) (answers_execDump h)
  | load => exact .of_eq (exec_load ..) (answers_execLoad h)
  | triggerLineAssert => exact .of_eq (exec_triggerLineAssert ..) (answers_execTriggerLineAssert h)
  | triggerSinkReach => exact .of_eq (exec_triggerSinkReach ..) (answers_execTriggerSinkReach h)
  | trctlUnfreeze => exact .of_eq (exec_trctlUnfreeze ..) (answers_execTrctlUnfreeze h)
  | samplePeriod => exact .of_eq (exec_samplePeriod ..) (answers_execSamplePeriod h)
  | millPowerGate => exact .of_eq (exec_millPowerGate ..) (answers_execMillPowerGate h)
  | millPowerUp => exact .of_eq (exec_millPowerUp ..) (answers_execMillPowerUp h)
  | unsupportedCommand => exact .of_eq (exec_unsupportedCommand ..) (answers_request canonical_answer h)
  | gettel => exact .of_eq (exec_gettel ..) (answers_execGettel h)
  | getlife => exact .of_eq (exec_getlife ..) (answers_execGetlife h)
  | setlim => exact .of_eq (exec_setlim ..) (answers_execSetlim h)
  | fwstage => exact .of_eq (exec_fwstage ..) (answers_execFwstage h)
  | fwact => exact .of_eq (exec_fwact ..) (answers_execFwact h)
  | fwcommit => exact .of_eq (exec_fwcommit ..) (answers_execFwcommit h)
  | getharv => exact .of_eq (exec_getharv ..) (answers_execGetharv h)
  | retire => exact .of_eq (exec_retire ..) (answers_execRetire h)
  | setpart => exact .of_eq (exec_setpart ..) (answers_execSetpart h)
  | setworld => exact .of_eq (exec_setworld ..) (answers_execSetworld h)
  | setsr => exact .of_eq (exec_setsr ..) (answers_execSetsr h)
  | loadkey => exact .of_eq (exec_loadkey ..) (answers_execLoadkey h)
  | setkmask => exact .of_eq (exec_setkmask ..) (answers_execSetkmask h)
  | settrig => exact .of_eq (exec_settrig ..) (answers_execSettrig h)
  | setig => exact .of_eq (exec_setig ..) (answers_execSetig h)
  | getpart => exact .of_eq (exec_getpart ..) (answers_execGetpart h)
  | nonce => exact .of_eq (exec_nonce ..) (answers_execNonce h)
  | auth => exact .of_eq (exec_auth ..) (answers_execAuth h)
  | sessionTimeout => exact .of_eq (exec_sessionTimeout ..) (answers_execSessionTimeout h)
  | limitInterval => exact .of_eq (exec_limitInterval ..) (answers_execLimitInterval h)
  | lifetimeCommit => exact .of_eq (exec_lifetimeCommit ..) (answers_execLifetimeCommit h)
  | thermalShutdown => exact .of_eq (exec_thermalShutdown ..) (answers_execThermalShutdown h)
  | supplyDroop => exact .of_eq (exec_supplyDroop ..) (answers_execSupplyDroop h)
  | powerLoss => exact .of_eq (exec_powerLoss ..) (answers_execPowerLoss h)
  | wheelhouseWakeRequest => exact .of_eq (exec_wheelhouseWakeRequest ..) (answers_execWheelhouseWakeRequest h)
  | resetBoot => exact .of_eq (exec_resetBoot ..) (answers_execResetBoot h)
  | tapInstruction => exact .of_eq (exec_tapInstruction ..) (answers_execTapInstruction h)
  | handleReleaseMessage => exact .of_eq (exec_handleReleaseMessage ..) (answers_execHandleReleaseMessage h)
  | linkFlitReceive => exact .of_eq (exec_linkFlitReceive ..) (answers_execLinkFlitReceive h)
  | linkFailure => exact .of_eq (exec_linkFailure ..) (answers_execLinkFailure h)
  | collSum => exact .of_eq (exec_collSum ..) (answers_execCollSum h)
  | replayStart => exact .of_eq (exec_replayStart ..) (answers_execReplayStart h)
  | replayPassEnd => exact .of_eq (exec_replayPassEnd ..) (answers_execReplayPassEnd h)
  | gmvf => exact .of_eq (exec_gmvf ..) (answers_execGmvf h)
  | fli => exact .of_eq (exec_fli ..) (answers_execFli h)
  | fliS => exact .of_eq (exec_fliS ..) (answers_execFliS h)

/-! ## Running what is due -/

theorem answers_runInstr {c : Prop} {i : Instr} {s : State} (h : c → s.Canonical) : Answers c (runInstr i s) := by
  unfold runInstr
  have hr : Answers c (exec i s) := answers_exec h
  split
  · rename_i t e
    rw [e] at hr
    cases hr with
    | next ht => exact .next fun k => canonical_park (ht k)
  · exact hr

theorem answers_issueMe {c : Prop} {s : State} (h : c → s.Canonical) : Answers c (issueMe s) := by
  unfold issueMe
  refine answers_ite (answers_exec h) ?_
  extract_lets s1
  have h1 : c → s1.Canonical := fun k => canonical_noteRestored (h k)
  refine answers_ite (.next fun k => canonical_boundary (canonical_mapCtx (h1 k) _)) (answers_ite (.next h1) ?_)
  split
  · exact answers_runInstr h1
  · split
    · rename_i e
      exact answers_runInstr fun k => (canonical_fetchNext (h1 k)).instr e
    · rename_i e
      exact .next fun k => canonical_trapAt ((canonical_fetchNext (h1 k)).illegal e) ..
    · rename_i e
      exact .next fun k => canonical_trapAt ((canonical_fetchNext (h1 k)).trap e) ..
    · exact .next h1

theorem answers_runAct {c : Prop} {a : Act} {s : State} (h : c → s.Canonical) : Answers c (runAct a s) := by
  cases a with
  | issue mill n =>
    rw [runAct]
    split
    · exact .next h
    · rename_i e
      obtain ⟨t, _, e⟩ := Option.bind_eq_some_iff.1 e
      have h1 := fun k => canonical_focus (h k) _ e
      exact answers_ite (answers_issueMe fun k => canonical_took (h1 k)) (.next h1)
  | cmd t q =>
    rw [runAct]
    split
    · exact .next h
    · rename_i e
      have h1 := fun k => canonical_focus (h k) _ e
      split
      · exact .next h1
      · split
        · exact answers_exec fun k => canonical_aim (h1 k) ..
        · exact .next h1
  | elem t n =>
    rw [runAct]
    split
    · exact .next h
    · rename_i e
      have h1 := fun k => canonical_focus (h k) _ e
      split
      · exact answers_exec fun k => canonical_aim (h1 k) ..
      · exact .next h1
  | ev t q n i arg =>
    rw [runAct]
    split
    · exact .next h
    · rename_i e
      exact answers_exec fun k => canonical_aim (canonical_focus (h k) _ e) ..
  | dev i arg => exact answers_exec fun k => (h k).same

/-! ## Steps -/

theorem answers_finish {c : Prop} {r : Res} (h : Answers c r) : Answers c (finish r) := by
  cases h with
  | next ht => exact .next fun k => canonical_sync (ht k)

/-- A powered step answers a next state, and from a canonical state a canonical one. -/
theorem answers_step {c : Prop} {s : State} (h : c → s.Canonical) (hp : s.wh.off = false) : Answers c (step s) := by
  unfold step
  rw [if_neg (by simp [hp])]
  split
  · split
    · exact answers_finish (.next fun k => canonical_tick (h k))
    · exact answers_finish (.next fun k => (h k).same)
  · exact answers_finish (answers_runAct fun k => canonical_pickAct (h k))

/-- Without power a step is the one fault. -/
theorem step_powerOff {s : State} (h : s.wh.off = true) : step s = .fault .powerOff := by
  unfold step
  exact if_pos h

theorem Answers.exists_next {c : Prop} {r : Res} (h : Answers c r) : ∃ t, r = .next t := by
  cases h with
  | next _ => exact ⟨_, rfl⟩

theorem Answers.canonical {c : Prop} {t : State} (h : Answers c (.next t)) (hc : c) : t.Canonical := by
  cases h with
  | next ht => exact ht hc

/-- A powered step from a canonical state keeps it canonical. -/
theorem step_canonical {s t : State} (h : s.Canonical) (e : step s = .next t) : t.Canonical := by
  cases hp : s.wh.off with
  | true => rw [step_powerOff hp] at e; nomatch e
  | false => exact (e ▸ answers_step (c := s.Canonical) id hp).canonical h

end Sys2Proof.Machine

/-! ## The obligations of memory and of answering -/

namespace Sys2Proof.Machine

/-- Settles O5: every operation gives a canonical state from a canonical one, and a step is made of them. -/
theorem stepKeepsMemoryCanonical : Obligations.StepKeepsMemoryCanonical := by
  unfold Obligations.StepKeepsMemoryCanonical
  intro s t hm hg e
  exact step_canonical ⟨hm, hg⟩ e

/-- Settles O4: no branch of a powered step answers a fault, and without power there is the one fault. -/
theorem stepAlwaysAnswers : Obligations.StepAlwaysAnswers := by
  unfold Obligations.StepAlwaysAnswers
  intro s
  exact ⟨fun hp => (answers_step (c := False) False.elim hp).exists_next, step_powerOff⟩

end Sys2Proof.Machine

/-! ## An instruction whose guard is false -/

namespace Sys2Proof.Machine

section

variable {i : Instr} {g : Guard} {s : State}

theorem guarded_false {k : State → Res} (hg : s.me.ctx.guardTrue g = false) :
    guarded i g s k = .next (s.retireTo (nextPc i s)) := by
  unfold guarded
  rw [if_neg (by simp [hg])]

theorem gated_false {srcs : List (BitVec 5)} {dst : Option (BitVec 5)} {both : Bool} {k : State → Res}
    (hg : s.me.ctx.guardTrue g = false) : gated i g srcs dst both s k = .next (s.retireTo (nextPc i s)) :=
  guarded_false hg

theorem op3_false {d a b : BitVec 5} {f : Word → Word → Word}
    (hg : s.me.ctx.guardTrue g = false) : op3 i g d a b s f = .next (s.retireTo (nextPc i s)) :=
  gated_false hg

theorem op2_false {d a : BitVec 5} {f : Word → Word}
    (hg : s.me.ctx.guardTrue g = false) : op2 i g d a s f = .next (s.retireTo (nextPc i s)) :=
  gated_false hg

theorem opRw_false {d : BitVec 5} {srcs : List (BitVec 5)} {f : State → Word}
    (hg : s.me.ctx.guardTrue g = false) : opRw i g d srcs s f = .next (s.retireTo (nextPc i s)) :=
  gated_false hg

theorem opQ_false {d : BitVec 5} {srcs : List (BitVec 5)} {f : State → Bool}
    (hg : s.me.ctx.guardTrue g = false) : opQ i g d srcs s f = .next (s.retireTo (nextPc i s)) :=
  gated_false hg

theorem cmpOp_false {d a b : BitVec 5} {f : Word → Word → Bool}
    (hg : s.me.ctx.guardTrue g = false) : cmpOp i g d a b s f = .next (s.retireTo (nextPc i s)) :=
  opQ_false hg

theorem cmpImm_false {d a : BitVec 5} {imm : BitVec 12} {f : Word → Word → Bool}
    (hg : s.me.ctx.guardTrue g = false) : cmpImm i g d a imm s f = .next (s.retireTo (nextPc i s)) :=
  opQ_false hg

theorem noRep_false {k : State → Res}
    (hg : s.me.ctx.guardTrue g = false) : noRep i g s k = .next (s.retireTo (nextPc i s)) :=
  guarded_false hg

theorem loadOp_false {a : BitVec 5} {off : BitVec 12} {size : Nat} {dst : Option (BitVec 5)} {put : State → Nat → State}
    (hg : s.me.ctx.guardTrue g = false) : loadOp i g a off size dst s put = .next (s.retireTo (nextPc i s)) :=
  gated_false hg

theorem loadG_false {d a : BitVec 5} {off : BitVec 12} {size : Nat} {ext : Nat → Word}
    (hg : s.me.ctx.guardTrue g = false) : loadG i g d a off size s ext = .next (s.retireTo (nextPc i s)) :=
  loadOp_false hg

theorem loadF_false {d a : BitVec 5} {off : BitVec 12} {size : Nat} {ext : Nat → Word}
    (hg : s.me.ctx.guardTrue g = false) : loadF i g d a off size s ext = .next (s.retireTo (nextPc i s)) :=
  loadOp_false hg

theorem storeOp_false {srcs : List (BitVec 5)} {a : BitVec 5} {off : BitVec 12} {size : Nat} {val : State → Word}
    (hg : s.me.ctx.guardTrue g = false) : storeOp i g srcs a off size s val = .next (s.retireTo (nextPc i s)) :=
  gated_false hg

theorem atomicOp_false {op : BitVec 4} {n : Nat} {d a b : BitVec 5}
    (hg : s.me.ctx.guardTrue g = false) : atomicOp i g op n d a b s = .next (s.retireTo (nextPc i s)) :=
  guarded_false hg

theorem fpF_false {k : Scalar} {d : BitVec 5} {f : Ctx → Nat × FFlags}
    (hg : s.me.ctx.guardTrue g = false) : fpF i g k d s f = .next (s.retireTo (nextPc i s)) :=
  guarded_false hg

theorem fp2_false {k : Scalar} {d a b : BitVec 5} {f : Fmt → FV → FV → Nat × FFlags}
    (hg : s.me.ctx.guardTrue g = false) : fp2 i g k d a b s f = .next (s.retireTo (nextPc i s)) :=
  fpF_false hg

theorem fpCmp_false {k : Scalar} {d a b : BitVec 5} {quiet : Bool} {f : FV → FV → Bool}
    (hg : s.me.ctx.guardTrue g = false) : fpCmp i g k d a b quiet s f = .next (s.retireTo (nextPc i s)) :=
  guarded_false hg

theorem fpToInt_false {k : Scalar} {d a : BitVec 5} {lo hi : Int}
    (hg : s.me.ctx.guardTrue g = false) : fpToInt i g k d a lo hi s = .next (s.retireTo (nextPc i s)) :=
  gated_false hg

theorem fpOfInt_false {k : Scalar} {d a : BitVec 5} {f : Word → Int}
    (hg : s.me.ctx.guardTrue g = false) : fpOfInt i g k d a s f = .next (s.retireTo (nextPc i s)) :=
  gated_false hg

/-- A guarded-off branch enters its signature before it retires. -/
theorem branch_false {k : State → Res} (hg : s.me.ctx.guardTrue g = false) :
    branch i g s k = .next ((s.mapCtx fun c => c.sign g false).retireTo (nextPc i s)) := by
  unfold branch
  rw [if_neg (by simp [hg])]

end

theorem repTooFar_eq_true {pc : Word} {imm : BitVec 12} (h : 2 ^ 56 ≤ pc.toNat + 4 * imm.toNat) : repTooFar pc imm = true := by
  unfold repTooFar
  exact decide_eq_true (by omega)

theorem repTooFar_eq_false {pc : Word} {imm : BitVec 12} (h : pc.toNat + 4 * imm.toNat < 2 ^ 56) : repTooFar pc imm = false := by
  unfold repTooFar
  exact decide_eq_false (by omega)

theorem execRep_reserved {g : Guard} {a : BitVec 5} {imm : BitVec 12} {s : State}
    (h : 2 ^ 56 ≤ s.me.ctx.pc.toNat + 4 * imm.toNat) : execRep g a imm s = .next (s.trapAt 0x01 (infoWord (.rep g a imm))) := by
  unfold execRep
  rw [repTooFar_eq_true h]
  rfl

theorem execRep_false {g : Guard} {a : BitVec 5} {imm : BitVec 12} {s : State}
    (h : s.me.ctx.pc.toNat + 4 * imm.toNat < 2 ^ 56) (hg : s.me.ctx.guardTrue g = false) :
    execRep g a imm s = .next (s.retireTo (nextPc (.rep g a imm) s)) := by
  unfold execRep
  rw [repTooFar_eq_false h, if_neg Bool.false_ne_true]
  exact noRep_false hg

theorem execSyncd_false {g : Guard} {s : State} (hg : s.me.ctx.guardTrue g = false) :
    execSyncd g s = .next (s.retireTo (nextPc (.syncd g) s)) := by
  unfold execSyncd
  exact guarded_false hg

theorem execSlxfer_false {g : Guard} {d a : BitVec 5} {s : State} (hg : s.me.ctx.guardTrue g = false) :
    execSlxfer g d a s = .next (s.retireTo (nextPc (.slxfer g d a) s)) := by
  unfold execSlxfer
  exact guarded_false hg

theorem execHrecv_false {g : Guard} {d a : BitVec 5} {s : State} (hg : s.me.ctx.guardTrue g = false) :
    execHrecv g d a s = .next (s.retireTo (nextPc (.hrecv g d a) s)) := by
  unfold execHrecv
  exact guarded_false hg

theorem execChbind_false {g : Guard} {d : BitVec 5} {ch : BitVec 12} {s : State} (hg : s.me.ctx.guardTrue g = false) :
    execChbind g d ch s = .next (s.retireTo (nextPc (.chbind g d ch) s)) := by
  unfold execChbind
  exact guarded_false hg

/-- Every guarded form but the branches, and but a reserved REP, runs under its guard alone: a false one leaves the retirement. -/
theorem exec_guarded_false {i : Instr} {g : Guard} {s : State} (hi : i.guard = some g) (hb : i.isBranch = false)
    (hrep : ∀ a imm, i = .rep g a imm → s.me.ctx.pc.toNat + 4 * imm.toNat < 2 ^ 56)
    (hg : s.me.ctx.guardTrue g = false) :
    exec i s = .next (s.retireTo (nextPc i s)) := by
  cases i with
  | br | bl | bi => nomatch hb
  | rep => cases hi; exact (exec_rep ..).trans (execRep_false (hrep _ _ rfl) hg)
  | add => cases hi; exact (exec_add ..).trans (op3_false hg)
  | addW => cases hi; exact (exec_addW ..).trans (op3_false hg)
  | sub => cases hi; exact (exec_sub ..).trans (op3_false hg)
  | subW => cases hi; exact (exec_subW ..).trans (op3_false hg)
  | mul => cases hi; exact (exec_mul ..).trans (op3_false hg)
  | mulW => cases hi; exact (exec_mulW ..).trans (op3_false hg)
  | mulh => cases hi; exact (exec_mulh ..).trans (op3_false hg)
  | mulhu => cases hi; exact (exec_mulhu ..).trans (op3_false hg)
  | div => cases hi; exact (exec_div ..).trans (op3_false hg)
  | divW => cases hi; exact (exec_divW ..).trans (op3_false hg)
  | divu => cases hi; exact (exec_divu ..).trans (op3_false hg)
  | divuW => cases hi; exact (exec_divuW ..).trans (op3_false hg)
  | rem => cases hi; exact (exec_rem ..).trans (op3_false hg)
  | remW => cases hi; exact (exec_remW ..).trans (op3_false hg)
  | remu => cases hi; exact (exec_remu ..).trans (op3_false hg)
  | remuW => cases hi; exact (exec_remuW ..).trans (op3_false hg)
  | min => cases hi; exact (exec_min ..).trans (op3_false hg)
  | max => cases hi; exact (exec_max ..).trans (op3_false hg)
  | minu => cases hi; exact (exec_minu ..).trans (op3_false hg)
  | maxu => cases hi; exact (exec_maxu ..).trans (op3_false hg)
  | and => cases hi; exact (exec_and ..).trans (op3_false hg)
  | or => cases hi; exact (exec_or ..).trans (op3_false hg)
  | xor => cases hi; exact (exec_xor ..).trans (op3_false hg)
  | shl => cases hi; exact (exec_shl ..).trans (op3_false hg)
  | shlW => cases hi; exact (exec_shlW ..).trans (op3_false hg)
  | shr => cases hi; exact (exec_shr ..).trans (op3_false hg)
  | shrW => cases hi; exact (exec_shrW ..).trans (op3_false hg)
  | sra => cases hi; exact (exec_sra ..).trans (op3_false hg)
  | sraW => cases hi; exact (exec_sraW ..).trans (op3_false hg)
  | clz => cases hi; exact (exec_clz ..).trans (op2_false hg)
  | clzW => cases hi; exact (exec_clzW ..).trans (op2_false hg)
  | ctz => cases hi; exact (exec_ctz ..).trans (op2_false hg)
  | ctzW => cases hi; exact (exec_ctzW ..).trans (op2_false hg)
  | popc => cases hi; exact (exec_popc ..).trans (op2_false hg)
  | popcW => cases hi; exact (exec_popcW ..).trans (op2_false hg)
  | sextB => cases hi; exact (exec_sextB ..).trans (op2_false hg)
  | sextH => cases hi; exact (exec_sextH ..).trans (op2_false hg)
  | sextW => cases hi; exact (exec_sextW ..).trans (op2_false hg)
  | zextB => cases hi; exact (exec_zextB ..).trans (op2_false hg)
  | zextH => cases hi; exact (exec_zextH ..).trans (op2_false hg)
  | zextW => cases hi; exact (exec_zextW ..).trans (op2_false hg)
  | addi => cases hi; exact (exec_addi ..).trans (op2_false hg)
  | addiW => cases hi; exact (exec_addiW ..).trans (op2_false hg)
  | andi => cases hi; exact (exec_andi ..).trans (op2_false hg)
  | ori => cases hi; exact (exec_ori ..).trans (op2_false hg)
  | xori => cases hi; exact (exec_xori ..).trans (op2_false hg)
  | shlImm => cases hi; exact (exec_shlImm ..).trans (op2_false hg)
  | shlWImm => cases hi; exact (exec_shlWImm ..).trans (op2_false hg)
  | shrImm => cases hi; exact (exec_shrImm ..).trans (op2_false hg)
  | shrWImm => cases hi; exact (exec_shrWImm ..).trans (op2_false hg)
  | sraImm => cases hi; exact (exec_sraImm ..).trans (op2_false hg)
  | sraWImm => cases hi; exact (exec_sraWImm ..).trans (op2_false hg)
  | li => cases hi; exact (exec_li ..).trans (gated_false hg)
  | lih => cases hi; exact (exec_lih ..).trans (opRw_false hg)
  | addpc => cases hi; exact (exec_addpc ..).trans (gated_false hg)
  | cmpEqImm => cases hi; exact (exec_cmpEqImm ..).trans (cmpImm_false hg)
  | cmpNeImm => cases hi; exact (exec_cmpNeImm ..).trans (cmpImm_false hg)
  | cmpLtImm => cases hi; exact (exec_cmpLtImm ..).trans (cmpImm_false hg)
  | cmpLeImm => cases hi; exact (exec_cmpLeImm ..).trans (cmpImm_false hg)
  | cmpLtuImm => cases hi; exact (exec_cmpLtuImm ..).trans (cmpImm_false hg)
  | cmpLeuImm => cases hi; exact (exec_cmpLeuImm ..).trans (cmpImm_false hg)
  | cmpEq => cases hi; exact (exec_cmpEq ..).trans (cmpOp_false hg)
  | cmpNe => cases hi; exact (exec_cmpNe ..).trans (cmpOp_false hg)
  | cmpLt => cases hi; exact (exec_cmpLt ..).trans (cmpOp_false hg)
  | cmpLe => cases hi; exact (exec_cmpLe ..).trans (cmpOp_false hg)
  | cmpLtu => cases hi; exact (exec_cmpLtu ..).trans (cmpOp_false hg)
  | cmpLeu => cases hi; exact (exec_cmpLeu ..).trans (cmpOp_false hg)
  | gand => cases hi; exact (exec_gand ..).trans (opQ_false hg)
  | gor => cases hi; exact (exec_gor ..).trans (opQ_false hg)
  | gxor => cases hi; exact (exec_gxor ..).trans (opQ_false hg)
  | gnot => cases hi; exact (exec_gnot ..).trans (opQ_false hg)
  | waitch => cases hi; exact (exec_waitch ..).trans (guarded_false hg)
  | yield => cases hi; exact (exec_yield ..).trans (guarded_false hg)
  | exit => cases hi; exact (exec_exit ..).trans (noRep_false hg)
  | syncd => cases hi; exact (exec_syncd ..).trans (execSyncd_false hg)
  | wfe => cases hi; exact (exec_wfe ..).trans (guarded_false hg)
  | eret => cases hi; exact (exec_eret ..).trans (noRep_false hg)
  | bkpt => cases hi; exact (exec_bkpt ..).trans (guarded_false hg)
  | bara => cases hi; exact (exec_bara ..).trans (guarded_false hg)
  | barw => cases hi; exact (exec_barw ..).trans (guarded_false hg)
  | sel => cases hi; exact (exec_sel ..).trans (gated_false hg)
  | ldB => cases hi; exact (exec_ldB ..).trans (loadG_false hg)
  | ldBu => cases hi; exact (exec_ldBu ..).trans (loadG_false hg)
  | ldH => cases hi; exact (exec_ldH ..).trans (loadG_false hg)
  | ldHu => cases hi; exact (exec_ldHu ..).trans (loadG_false hg)
  | ldW => cases hi; exact (exec_ldW ..).trans (loadG_false hg)
  | ldWu => cases hi; exact (exec_ldWu ..).trans (loadG_false hg)
  | ldD => cases hi; exact (exec_ldD ..).trans (loadG_false hg)
  | extr => cases hi; exact (exec_extr ..).trans (op2_false hg)
  | stB => cases hi; exact (exec_stB ..).trans (storeOp_false hg)
  | stH => cases hi; exact (exec_stH ..).trans (storeOp_false hg)
  | stW => cases hi; exact (exec_stW ..).trans (storeOp_false hg)
  | stD => cases hi; exact (exec_stD ..).trans (storeOp_false hg)
  | ldf => cases hi; exact (exec_ldf ..).trans (loadF_false hg)
  | ldfS => cases hi; exact (exec_ldfS ..).trans (loadF_false hg)
  | stf => cases hi; exact (exec_stf ..).trans (storeOp_false hg)
  | stfS => cases hi; exact (exec_stfS ..).trans (storeOp_false hg)
  | ldcW => cases hi; exact (exec_ldcW ..).trans (loadG_false hg)
  | ldcWu => cases hi; exact (exec_ldcWu ..).trans (loadG_false hg)
  | ldcD => cases hi; exact (exec_ldcD ..).trans (loadG_false hg)
  | pref => cases hi; exact (exec_pref ..).trans (gated_false hg)
  | aadd => cases hi; exact (exec_aadd ..).trans (atomicOp_false hg)
  | aaddW => cases hi; exact (exec_aaddW ..).trans (atomicOp_false hg)
  | aand => cases hi; exact (exec_aand ..).trans (atomicOp_false hg)
  | aandW => cases hi; exact (exec_aandW ..).trans (atomicOp_false hg)
  | aor => cases hi; exact (exec_aor ..).trans (atomicOp_false hg)
  | aorW => cases hi; exact (exec_aorW ..).trans (atomicOp_false hg)
  | axor => cases hi; exact (exec_axor ..).trans (atomicOp_false hg)
  | axorW => cases hi; exact (exec_axorW ..).trans (atomicOp_false hg)
  | amin => cases hi; exact (exec_amin ..).trans (atomicOp_false hg)
  | aminW => cases hi; exact (exec_aminW ..).trans (atomicOp_false hg)
  | amax => cases hi; exact (exec_amax ..).trans (atomicOp_false hg)
  | amaxW => cases hi; exact (exec_amaxW ..).trans (atomicOp_false hg)
  | aminu => cases hi; exact (exec_aminu ..).trans (atomicOp_false hg)
  | aminuW => cases hi; exact (exec_aminuW ..).trans (atomicOp_false hg)
  | amaxu => cases hi; exact (exec_amaxu ..).trans (atomicOp_false hg)
  | amaxuW => cases hi; exact (exec_amaxuW ..).trans (atomicOp_false hg)
  | aswp => cases hi; exact (exec_aswp ..).trans (atomicOp_false hg)
  | aswpW => cases hi; exact (exec_aswpW ..).trans (atomicOp_false hg)
  | acas => cases hi; exact (exec_acas ..).trans (atomicOp_false hg)
  | acasW => cases hi; exact (exec_acasW ..).trans (atomicOp_false hg)
  | fadd => cases hi; exact (exec_fadd ..).trans (fp2_false hg)
  | faddS => cases hi; exact (exec_faddS ..).trans (fp2_false hg)
  | fsub => cases hi; exact (exec_fsub ..).trans (fp2_false hg)
  | fsubS => cases hi; exact (exec_fsubS ..).trans (fp2_false hg)
  | fmul => cases hi; exact (exec_fmul ..).trans (fp2_false hg)
  | fmulS => cases hi; exact (exec_fmulS ..).trans (fp2_false hg)
  | fdiv => cases hi; exact (exec_fdiv ..).trans (fp2_false hg)
  | fdivS => cases hi; exact (exec_fdivS ..).trans (fp2_false hg)
  | fsqrt => cases hi; exact (exec_fsqrt ..).trans (fpF_false hg)
  | fsqrtS => cases hi; exact (exec_fsqrtS ..).trans (fpF_false hg)
  | ffma => cases hi; exact (exec_ffma ..).trans (fpF_false hg)
  | ffmaS => cases hi; exact (exec_ffmaS ..).trans (fpF_false hg)
  | fmin => cases hi; exact (exec_fmin ..).trans (fpF_false hg)
  | fminS => cases hi; exact (exec_fminS ..).trans (fpF_false hg)
  | fmax => cases hi; exact (exec_fmax ..).trans (fpF_false hg)
  | fmaxS => cases hi; exact (exec_fmaxS ..).trans (fpF_false hg)
  | fcmpEq => cases hi; exact (exec_fcmpEq ..).trans (fpCmp_false hg)
  | fcmpEqS => cases hi; exact (exec_fcmpEqS ..).trans (fpCmp_false hg)
  | fcmpLt => cases hi; exact (exec_fcmpLt ..).trans (fpCmp_false hg)
  | fcmpLtS => cases hi; exact (exec_fcmpLtS ..).trans (fpCmp_false hg)
  | fcmpLe => cases hi; exact (exec_fcmpLe ..).trans (fpCmp_false hg)
  | fcmpLeS => cases hi; exact (exec_fcmpLeS ..).trans (fpCmp_false hg)
  | fcmpUn => cases hi; exact (exec_fcmpUn ..).trans (fpCmp_false hg)
  | fcmpUnS => cases hi; exact (exec_fcmpUnS ..).trans (fpCmp_false hg)
  | fcvtSD => cases hi; exact (exec_fcvtSD ..).trans (fpF_false hg)
  | fcvtDS => cases hi; exact (exec_fcvtDS ..).trans (fpF_false hg)
  | fcvtLD => cases hi; exact (exec_fcvtLD ..).trans (fpToInt_false hg)
  | fcvtLuD => cases hi; exact (exec_fcvtLuD ..).trans (fpToInt_false hg)
  | fcvtLS => cases hi; exact (exec_fcvtLS ..).trans (fpToInt_false hg)
  | fcvtLuS => cases hi; exact (exec_fcvtLuS ..).trans (fpToInt_false hg)
  | fcvtDL => cases hi; exact (exec_fcvtDL ..).trans (fpOfInt_false hg)
  | fcvtDLu => cases hi; exact (exec_fcvtDLu ..).trans (fpOfInt_false hg)
  | fcvtSL => cases hi; exact (exec_fcvtSL ..).trans (fpOfInt_false hg)
  | fcvtSLu => cases hi; exact (exec_fcvtSLu ..).trans (fpOfInt_false hg)
  | fclass => cases hi; exact (exec_fclass ..).trans (gated_false hg)
  | fclassS => cases hi; exact (exec_fclassS ..).trans (gated_false hg)
  | fmvg => cases hi; exact (exec_fmvg ..).trans (gated_false hg)
  | gmvf => cases hi; exact (exec_gmvf ..).trans (gated_false hg)
  | fli => cases hi; exact (exec_fli ..).trans (guarded_false hg)
  | fliS => cases hi; exact (exec_fliS ..).trans (guarded_false hg)
  | ins => cases hi; exact (exec_ins ..).trans (opRw_false hg)
  | slnew => cases hi; exact (exec_slnew ..).trans (gated_false hg)
  | slmap => cases hi; exact (exec_slmap ..).trans (gated_false hg)
  | sldup => cases hi; exact (exec_sldup ..).trans (guarded_false hg)
  | sldrop => cases hi; exact (exec_sldrop ..).trans (guarded_false hg)
  | hmov => cases hi; exact (exec_hmov ..).trans (guarded_false hg)
  | slxfer => cases hi; exact (exec_slxfer ..).trans (execSlxfer_false hg)
  | hrecv => cases hi; exact (exec_hrecv ..).trans (execHrecv_false hg)
  | flnew => cases hi; exact (exec_flnew ..).trans (gated_false hg)
  | flawait => cases hi; exact (exec_flawait ..).trans (gated_false hg)
  | flrel => cases hi; exact (exec_flrel ..).trans (gated_false hg)
  | chclose => cases hi; exact (exec_chclose ..).trans (guarded_false hg)
  | scm => cases hi; exact (exec_scm ..).trans (gated_false hg)
  | scw => cases hi; exact (exec_scw ..).trans (gated_false hg)
  | dlaunch => cases hi; exact (exec_dlaunch ..).trans (gated_false hg)
  | rsvpin => cases hi; exact (exec_rsvpin ..).trans (gated_false hg)
  | rsvunpin => cases hi; exact (exec_rsvunpin ..).trans (gated_false hg)
  | ctron => cases hi; exact (exec_ctron ..).trans (guarded_false hg)
  | ctroff => cases hi; exact (exec_ctroff ..).trans (guarded_false hg)
  | ctrrd => cases hi; exact (exec_ctrrd ..).trans (gated_false hg)
  | tlbinv => cases hi; exact (exec_tlbinv ..).trans (gated_false hg)
  | mfs => cases hi; exact (exec_mfs ..).trans (gated_false hg)
  | mts => cases hi; exact (exec_mts ..).trans (gated_false hg)
  | nstepi => cases hi; exact (exec_nstepi ..).trans (guarded_false hg)
  | trap => cases hi; exact (exec_trap ..).trans (guarded_false hg)
  | ctrsel => cases hi; exact (exec_ctrsel ..).trans (guarded_false hg)
  | mark => cases hi; exact (exec_mark ..).trans (guarded_false hg)
  | trig => cases hi; exact (exec_trig ..).trans (guarded_false hg)
  | chbind => cases hi; exact (exec_chbind ..).trans (execChbind_false hg)
  | liw => cases hi; exact (exec_liw ..).trans (gated_false hg)
  | sci => cases hi; exact (exec_sci ..).trans (gated_false hg)
  | _ => nomatch hi

theorem exec_branch_false {i : Instr} {g : Guard} {s : State} (hi : i.guard = some g) (hb : i.isBranch = true)
    (hg : s.me.ctx.guardTrue g = false) :
    exec i s = .next ((s.mapCtx fun c => c.sign g false).retireTo (nextPc i s)) := by
  cases i with
  | br => cases hi; exact (exec_br ..).trans (branch_false hg)
  | bl => cases hi; exact (exec_bl ..).trans (branch_false hg)
  | bi => cases hi; exact (exec_bi ..).trans (branch_false hg)
  | _ => nomatch hb

end Sys2Proof.Machine

/-! ## What retirement does to a context that does not step -/

namespace Sys2Proof.Machine

theorem boundary_of_not_steps {s : State} (h : s.me.ctx.steps = false) : s.boundary = s := by
  unfold State.boundary
  rw [if_pos (by simp [h])]

theorem Ctx.advance_falls {c : Ctx} (next : Word) (h : c.rep.count = 0 ∨ c.pc.toNat < c.rep.stop.toNat) :
    c.advance next = { c with pc := next } := by
  unfold Ctx.advance
  rw [if_neg (by simpa [Nat.not_le, or_iff_not_imp_left] using h)]

/-- The last pass of a REP body ends. -/
theorem Ctx.advance_last {c : Ctx} (next : Word) (h : ¬ (c.rep.count = 0 ∨ c.pc.toNat < c.rep.stop.toNat))
    (h1 : c.rep.count = 1) : c.advance next = { c with pc := next, rep := ⟨0, 0, 0⟩ } := by
  unfold Ctx.advance
  rw [if_pos (by simpa [not_or, Nat.not_lt] using h)]
  exact if_pos (by rw [h1]; rfl)

/-- A pass that is not the last ends. -/
theorem Ctx.advance_again {c : Ctx} (next : Word) (h : ¬ (c.rep.count = 0 ∨ c.pc.toNat < c.rep.stop.toNat))
    (h1 : c.rep.count ≠ 1) :
    c.advance next = { c with pc := c.rep.first, rep := { c.rep with count := c.rep.count - 1 } } := by
  unfold Ctx.advance
  rw [if_pos (by simpa [not_or, Nat.not_lt] using h)]
  exact if_neg fun e => h1 (by simpa using sub_eq_zero.1 e)

/-- Only PC and the REP state advance. -/
theorem Ctx.advance_eq (c : Ctx) (next : Word) :
    c.advance next = { c with pc := (c.advance next).pc, rep := (c.advance next).rep } := by
  unfold Ctx.advance
  split
  · dsimp only
    split <;> rfl
  · rfl

theorem Ctx.advance_steps (c : Ctx) (next : Word) : (c.advance next).steps = c.steps := by
  rw [Ctx.advance_eq]; rfl

theorem retireTo_of_not_steps {s : State} (next : Word) (h : s.me.ctx.steps = false) :
    s.retireTo next = { s with me := { s.me with ctx := (s.me.ctx.advance next).retire s.time } } :=
  boundary_of_not_steps ((s.me.ctx.advance_steps next).trans h)

theorem jumpTo_of_not_steps {s : State} (target : Word) (h : s.me.ctx.steps = false) :
    s.jumpTo target = { s with me := { s.me with ctx := { s.me.ctx with pc := target }.retire s.time } } :=
  boundary_of_not_steps h

/-- Where a context goes on when an instruction retires. -/
theorem Ctx.advance_retire_place (c : Ctx) (next : Word) (t : Nat) :
    if c.rep.count = 0 ∨ c.pc.toNat < c.rep.stop.toNat then
      ((c.advance next).retire t).pc = next ∧ ((c.advance next).retire t).rep = c.rep
    else if c.rep.count = 1 then
      ((c.advance next).retire t).pc = next ∧ ((c.advance next).retire t).rep = ⟨0, 0, 0⟩
    else ((c.advance next).retire t).pc = c.rep.first ∧
      ((c.advance next).retire t).rep = { c.rep with count := c.rep.count - 1 } := by
  split
  · rename_i h
    rw [Ctx.advance_falls next h]
    exact ⟨rfl, rfl⟩
  · rename_i h
    split
    · rename_i h1
      rw [Ctx.advance_last next h h1]
      exact ⟨rfl, rfl⟩
    · rename_i h1
      rw [Ctx.advance_again next h h1]
      exact ⟨rfl, rfl⟩

/-- SLEEPING ends with the instruction slept in. -/
theorem Ctx.retire_st (c : Ctx) (t : Nat) :
    (c.retire t).st = if c.st = .sleeping then (if c.handler then .trapped else .runnable) else c.st := by
  unfold Ctx.retire
  simp only [beq_iff_eq]

end Sys2Proof.Machine

/-! ## The obligation of guards and of retirement -/

namespace Sys2Proof.Machine

/-- Settles O7: the shapes of the guarded forms each begin with the guard, REP with its reserved bodies, and a context that does
not step meets no boundary. -/
theorem guardAndRetirement : Obligations.GuardAndRetirement := by
  unfold Obligations.GuardAndRetirement
  refine ⟨fun i g s pc hi hg hpc => ⟨fun hrep => ?_, fun a imm e hfar => ?_⟩, fun s next hs => ⟨?_, ?_⟩⟩
  · subst hpc
    cases hb : i.isBranch with
    | true => exact exec_branch_false hi hb hg
    | false => exact exec_guarded_false hi hb hrep hg
  · subst e
    exact (exec_rep ..).trans (execRep_reserved hfar)
  · refine ⟨(s.me.ctx.advance next).retire s.time, retireTo_of_not_steps next hs, ?_⟩
    have hplace := s.me.ctx.advance_retire_place next s.time
    have hst := (s.me.ctx.advance next).retire_st s.time
    rw [Ctx.advance_eq] at hst ⊢
    exact ⟨rfl, rfl, rfl, rfl, rfl, hst, hplace, rfl⟩
  · exact ⟨_, _, jumpTo_of_not_steps next hs, rfl, Ctx.retire_st { s.me.ctx with pc := next } s.time⟩

end Sys2Proof.Machine

/-! ## What taking the sources changes -/

namespace Sys2Proof.Machine

/-- A channel without the words that have arrived at its consumer end. -/
def Chan.drained (c : Chan) : Chan := { c with buf := [], spill := [] }

/-- A block without its charge to SPILL. -/
def Blk.uncharged (b : Blk) : Blk := { b with spillB := 0 }

/-- `u` is `s` after sources among `named` were taken: the acting context's clock, what has arrived in the channels that those
registers are bound to, and the charges to SPILL. -/
structure State.Took (s u : State) (named : List (BitVec 5)) : Prop where
  me : ∃ k, u.me = { s.me with ctx := { s.me.ctx with clock := k } }
  rest : u = { s with me := u.me, chans := u.chans, blks := u.blks }
  blocks : u.blks.map Blk.uncharged = s.blks.map Blk.uncharged
  drained : u.chans.map Chan.drained = s.chans.map Chan.drained
  channels : ∀ fn blk ch,
    (∀ r ∈ named, ∀ b, s.me.ctx.binding r = some b → ¬ (fn = s.me.id.fn ∧ blk = s.me.id.blk ∧ ch = b.ch)) →
    u.chan? fn blk ch = s.chan? fn blk ch

section

variable {s u : State} {named : List (BitVec 5)}

theorem State.Took.linkEntry (h : s.Took u named) (fn p : Nat) : linkEntry u fn p = linkEntry s fn p := by
  rw [h.rest]; rfl

theorem State.Took.entryNames (h : s.Took u named) : u.entryNames = s.entryNames := by
  funext x pkg fn ch
  unfold State.entryNames
  rw [h.linkEntry]

/-- The ends that queued nodes are foreseen to have do not depend on what is charged to SPILL. -/
theorem foreseen_uncharged (s : State) (fn : Nat) (ch : BitVec 12) :
    ({ s with blks := s.blks.map Blk.uncharged } : State).foreseen fn ch = s.foreseen fn ch := by
  unfold State.foreseen
  simp only [List.filter_map, List.findSome?_map]
  rfl

theorem State.Took.foreseen (h : s.Took u named) (fn : Nat) (ch : BitVec 12) : u.foreseen fn ch = s.foreseen fn ch := by
  rw [← foreseen_uncharged u, ← foreseen_uncharged s, ← h.blocks, h.rest]
  rfl

/-- Of a consumer end, all but what has arrived at it is as before. -/
theorem State.Took.consumerEnd (h : s.Took u named) (fn : Nat) (ch : BitVec 12) (pkg : BitVec 8) (sfn : Nat) (sch : BitVec 12) :
    (u.consumerEnd fn ch pkg sfn sch).map Chan.drained = (s.consumerEnd fn ch pkg sfn sch).map Chan.drained := by
  unfold State.consumerEnd
  rw [h.foreseen, h.entryNames]
  generalize hq : (fun x : Chan => x.fn == fn && x.ch == ch && x.peer != 0 && !x.locend && s.entryNames x pkg sfn sch) = q
  have hl : (u.chans.filter q).map Chan.drained = (s.chans.filter q).map Chan.drained := by
    have hd : q = q ∘ Chan.drained := by subst hq; rfl
    rw [hd, ← List.filter_map, ← List.filter_map, h.drained]
  have hf : ∀ l : List Chan, (l.find? fun x => !x.closed).map Chan.drained = (l.map Chan.drained).find? fun x => !x.closed :=
    fun l => by rw [List.find?_map]; rfl
  simp only [Option.orElse_eq_or, Option.map_or, ← List.head?_map, hf, hl]

theorem State.Took.joined (h : s.Took u named) {c d : Chan} (hc : c.drained = d.drained) :
    (u.joined c).map Chan.drained = (s.joined d).map Chan.drained := by
  have hp : c.peer = d.peer := (congrArg Chan.peer hc :)
  have hfn : c.fn = d.fn := (congrArg Chan.fn hc :)
  have hch : c.ch = d.ch := (congrArg Chan.ch hc :)
  have hw : u.wh = s.wh := by rw [h.rest]
  unfold State.joined
  rw [hp, hfn, hch, h.linkEntry, hw]
  split
  · exact congrArg some hc
  · split
    · rfl
    · split
      · rfl
      · exact h.consumerEnd ..

/-- Whether a consumer end has closed is known of what remains of a channel. -/
theorem consumerClosed_eq (s : State) (c : Chan) :
    s.consumerClosed c = (((s.joined c).map Chan.drained).map (·.closed)).getD c.peerClosed := by
  unfold State.consumerClosed
  cases s.joined c <;> rfl

theorem State.Took.consumerClosed (h : s.Took u named) {c d : Chan} (hc : c.drained = d.drained) :
    u.consumerClosed c = s.consumerClosed d := by
  have hp : c.peerClosed = d.peerClosed := (congrArg Chan.peerClosed hc :)
  rw [consumerClosed_eq, consumerClosed_eq, h.joined hc, hp]

theorem chan?_drained (s : State) (fn : Nat) (blk : Word) (ch : BitVec 12) :
    (s.chan? fn blk ch).map Chan.drained =
      (s.chans.map Chan.drained).find? fun c => c.fn == fn && c.blk == blk && c.ch == ch := by
  unfold State.chan?
  rw [List.find?_map]
  rfl

theorem State.Took.myChan (h : s.Took u named) (ch : BitVec 12) :
    (u.myChan ch).map Chan.drained = (s.myChan ch).map Chan.drained := by
  obtain ⟨k, hk⟩ := h.me
  unfold State.myChan
  rw [chan?_drained, chan?_drained, h.drained, hk]

/-! ### Taking is what taking the sources does -/

theorem State.Took.refl (s : State) (named : List (BitVec 5)) : s.Took s named :=
  ⟨⟨s.me.ctx.clock, rfl⟩, rfl, rfl, rfl, fun _ _ _ _ => rfl⟩

theorem State.Took.binding (h : s.Took u named) (r : BitVec 5) : u.me.ctx.binding r = s.me.ctx.binding r := by
  obtain ⟨k, hk⟩ := h.me
  rw [hk]; rfl

theorem State.Took.meId (h : s.Took u named) : u.me.id = s.me.id := by
  obtain ⟨k, hk⟩ := h.me
  rw [hk]

theorem State.Took.trans {v : State} (h : s.Took u named) (h' : u.Took v named) : s.Took v named where
  me := by
    obtain ⟨k, hk⟩ := h.me
    obtain ⟨j, hj⟩ := h'.me
    exact ⟨j, by rw [hj, hk]⟩
  rest := by rw [h'.rest, h.rest]
  blocks := h'.blocks.trans h.blocks
  drained := h'.drained.trans h.drained
  channels fn blk ch hn := by
    rw [h'.channels fn blk ch (by simpa only [h.binding, h.meId] using hn), h.channels fn blk ch hn]

end

/-- A channel of another key is as before when one is changed. -/
theorem chan?_mapChan_of_ne {s : State} {fn fn' : Nat} {blk blk' : Word} {ch ch' : BitVec 12} {f : Chan → Chan}
    (hf : ∀ c, (f c).fn = c.fn ∧ (f c).blk = c.blk ∧ (f c).ch = c.ch) (hne : ¬ (fn' = fn ∧ blk' = blk ∧ ch' = ch)) :
    (s.mapChan fn blk ch f).chan? fn' blk' ch' = s.chan? fn' blk' ch' := by
  unfold State.mapChan State.chan?
  dsimp only
  induction s.chans with
  | nil => rfl
  | cons c l ih =>
    rw [List.map_cons, List.find?_cons, List.find?_cons, ih]
    obtain ⟨h1, h2, h3⟩ := hf c
    by_cases hc : (c.fn == fn && c.blk == blk && c.ch == ch) = true
    · have hn : (c.fn == fn' && c.blk == blk' && c.ch == ch') = false := by
        simp only [Bool.and_eq_true, beq_iff_eq] at hc
        obtain ⟨⟨rfl, rfl⟩, rfl⟩ := hc
        refine Bool.eq_false_iff.2 fun e => hne ?_
        simp only [Bool.and_eq_true, beq_iff_eq] at e
        obtain ⟨⟨e1, e2⟩, e3⟩ := e
        exact ⟨e1.symm, e2.symm, e3.symm⟩
      rw [if_pos hc, h1, h2, h3, hn]
    · rw [if_neg hc]

/-- The channel found has the key sought. -/
theorem chan?_key {s : State} {fn : Nat} {blk : Word} {ch : BitVec 12} {c : Chan} (h : s.chan? fn blk ch = some c) :
    c.fn = fn ∧ c.blk = blk ∧ c.ch = ch := by
  unfold State.chan? at h
  simpa [and_assoc] using List.find?_some h

theorem took_pop {s : State} {named : List (BitVec 5)} {r : BitVec 5} {b : Binding} (hr : r ∈ named)
    (hb : s.me.ctx.binding r = some b) : s.Took (s.pop b.ch) named := by
  unfold State.pop
  split
  · exact .refl s named
  · rename_i c hc
    split
    · exact .refl s named
    · rename_i w rest hw
      obtain ⟨h1, h2, h3⟩ := chan?_key hc
      refine ⟨⟨_, rfl⟩, rfl, ?_, ?_, fun fn blk ch hn => ?_⟩
      · simp only [State.mapCtx, State.refit, State.spillReturn, State.mapLineage, State.mapChan, List.map_map]
        exact List.map_congr_left fun x _ => by
          dsimp only [Function.comp_apply]
          split <;> rfl
      · simp only [State.mapCtx, State.refit, State.spillReturn, State.mapLineage, State.mapChan, List.map_map]
        exact List.map_congr_left fun x _ => by
          dsimp only [Function.comp_apply]
          split <;> rfl
      · exact chan?_mapChan_of_ne (f := fun x => { x with buf := rest.take c.places, spill := rest.drop c.places })
          (fun _ => ⟨rfl, rfl, rfl⟩) (by rw [h1, h2, h3]; exact hn r hr b hb)

theorem took_popSrcs (s : State) {named srcs : List (BitVec 5)} (h : srcs ⊆ named) : s.Took (s.popSrcs srcs) named := by
  unfold State.popSrcs
  have hsub : srcs.eraseDups ⊆ named := fun r hr => h (List.mem_eraseDups.1 hr)
  generalize srcs.eraseDups = l at hsub
  induction l generalizing s with
  | nil => exact .refl s named
  | cons r l ih =>
    obtain ⟨hr, hl⟩ := List.cons_subset.1 hsub
    rw [List.foldl_cons]
    split
    · rename_i b hb
      exact (took_pop hr hb).trans (ih _ hl)
    · exact ih s hl

end Sys2Proof.Machine

/-! ## What counting a discarded word writes -/

namespace Sys2Proof.Machine

/-- `u` is `s` with writes to memory and to the records of the functions. -/
def State.Stored (s u : State) : Prop :=
  u = { s with mem := u.mem, lines := u.lines, tops := u.tops, lineKeys := u.lineKeys, fns := u.fns }

theorem State.Stored.refl (s : State) : s.Stored s := rfl

theorem State.Stored.trans {s u v : State} (h : s.Stored u) (h' : u.Stored v) : s.Stored v := by
  unfold State.Stored at h h' ⊢
  rw [h', h]

theorem stored_setFn {s u : State} (h : s.Stored u) (n : Nat) (f : Fn) : s.Stored (u.setFn n f) :=
  h.trans (rfl : u.Stored (u.setFn n f))

theorem stored_underSlot (s : State) (k n : Nat) (slot : BitVec 7) : s.Stored (s.underSlot k n slot) := by
  unfold State.underSlot
  split <;> rfl

theorem stored_storeAt (s : State) (fn k : Nat) (bs : List Byte) (c : Nat) : s.Stored (storeAt s fn k bs c).2 := by
  obtain ⟨L, T, e⟩ := storeAt_eq s fn k bs c
  rw [e]
  rfl

theorem stored_writeBy {s t : State} {resolve : Word → Except (BitVec 8) (Nat × Word)} {fn : Nat} {va : Word} {bs : List Byte}
    (h : writeBy s resolve fn va bs = .ok t) : s.Stored t := by
  unfold writeBy at h
  dsimp only at h
  revert h
  generalize List.foldlM (m := Except (BitVec 8 × Word)) _ _ _ = r
  intro h
  cases r with
  | error e => simp [Except.map] at h
  | ok ls =>
    simp only [Except.map, Except.ok.injEq] at h
    rw [← h]
    exact foldl_keeps (P := fun st : State × List Byte => s.Stored st.1)
      (fun _ _ h => (h.trans (stored_underSlot ..)).trans (stored_storeAt ..)) ls (.refl s)

theorem stored_fault (s : State) (fn : Nat) (r : FaultRec) : s.Stored (s.fault fn r) := by
  unfold State.fault
  dsimp only
  split
  · rfl
  · split
    · rfl
    · rename_i t ht
      have hs : s.Stored t := stored_writeBy ht
      split
      · exact stored_setFn (stored_setFn hs ..) ..
      · exact stored_setFn hs ..

theorem stored_devFault (s : State) (fn : Nat) (c : BitVec 8) (va : Word) : s.Stored (s.devFault fn c va) := stored_fault ..

theorem stored_devPut (s : State) (fn : Nat) (va : Word) (bs : List Byte) : s.Stored (s.devPut fn va bs) := by
  unfold State.devPut
  split
  · rename_i t ht
    exact stored_writeBy ht
  · exact stored_devFault ..

theorem stored_capture (s : State) (fn : Nat) (blk : Word) (k : Nat) : s.Stored (s.capture fn blk k) := by
  unfold State.capture
  dsimp only
  split
  · rfl
  · split
    · rfl
    · split
      · exact stored_devFault ..
      · rename_i d _ _
        have hm : s.Stored { s with mem := memCopyUnit s.mem (k / 65536 * 65536) d } := rfl
        exact stored_setFn ((hm.trans (stored_underSlot ..)).trans (stored_devPut ..)) ..

theorem stored_captureAt (s : State) (resolve : State → Word → Except (BitVec 8) (Nat × Word)) (fn : Nat) (blk va : Word)
    (n : Nat) : s.Stored (s.captureAt resolve fn blk va n) :=
  foldl_keeps (P := s.Stored) (fun _ _ h => by
    split
    · exact h.trans (stored_capture ..)
    · exact h) _ (.refl s)

theorem stored_addClosed (s : State) (c : Chan) (n : Nat) : s.Stored (s.addClosed c n) := by
  unfold State.addClosed
  split
  · rfl
  · dsimp only
    split
    · exact stored_devFault ..
    · split
      · exact stored_devFault ..
      · split
        · exact stored_devFault ..
        · exact (stored_captureAt ..).trans (stored_devPut ..)

/-- Counting for a task touches the counters of tasks alone. -/
theorem countFor_frame (s : State) (t : TaskId) (e n : Nat) :
    s.countFor t e n = { s with me := (s.countFor t e n).me, tasks := (s.countFor t e n).tasks } ∧
    ∀ c, (s.countFor t e n).tasks.map (fun x => { x with ctx := { x.ctx with ctrs := c } }) =
      s.tasks.map fun x => { x with ctx := { x.ctx with ctrs := c } } := by
  refine ⟨rfl, fun c => ?_⟩
  simp only [State.countFor, State.mapTask, State.mapTasks, List.map_map]
  refine List.map_congr_left fun x _ => ?_
  dsimp only [Function.comp_apply]
  split
  · split <;> rfl
  · rfl

end Sys2Proof.Machine

/-! ## What register instructions leave alone -/

namespace Sys2Proof.Machine

section

variable {s u : State} {dest : Option Dest} {named : List (BitVec 5)}

/-- After the sources are taken, an instruction that writes registers and FPF of the acting context leaves the rest. -/
theorem State.Took.sameBut_mapCtx {f : Ctx → Ctx} (h : s.Took u named)
    (hf : ∀ c, f c = { c with g := (f c).g, q := (f c).q, f := (f c).f, fpf := (f c).fpf })
    (hg : ∀ c r, dest ≠ some (.g r) → (f c).rg r = c.rg r) (hq : ∀ c r, dest ≠ some (.q r) → (f c).rq r = c.rq r)
    (hr : ∀ c r, dest ≠ some (.f r) → (f c).rf r = c.rf r) : s.SameBut (u.mapCtx f) dest named := by
  obtain ⟨k, hk⟩ := h.me
  have hme : (u.mapCtx f).me = { s.me with ctx := f { s.me.ctx with clock := k } } := by
    unfold State.mapCtx
    rw [hk]
  have hctx := hf { s.me.ctx with clock := k }
  constructor
  case g => rw [hme]; exact fun r hd => hg _ r hd
  case q => rw [hme]; exact fun r hd => hq _ r hd
  case f => rw [hme]; exact fun r hd => hr _ r hd
  case context => rw [hme]; dsimp only; rw [hctx]
  case counters => rw [hme]; dsimp only; rw [hctx]; exact fun _ => rfl
  case task => rw [hme]
  case blocks => exact h.blocks
  case channels => exact h.channels
  case rest => intro _; unfold State.mapCtx; rw [h.rest]
  case closed => unfold State.mapCtx; rw [h.rest]
  case others => unfold State.mapCtx; rw [h.rest]

theorem State.SameBut.mapFpf (h : s.SameBut u dest named) (fl : FFlags) :
    s.SameBut (u.mapCtx (·.orFpf fl)) dest named where
  g := h.g
  q := h.q
  f := h.f
  context := congrArg (·.orFpf fl) h.context
  counters := h.counters
  task := congrArg (fun t : Task => { t with ctx := u.me.ctx.orFpf fl }) h.task
  blocks := h.blocks
  channels := h.channels
  rest hc := congrArg (fun v : State => { v with me := { u.me with ctx := u.me.ctx.orFpf fl } }) (h.rest hc)
  closed := congrArg (fun v : State => { v with me := { u.me with ctx := u.me.ctx.orFpf fl } }) h.closed
  others := h.others

theorem State.Took.sameBut (h : s.Took u named) : s.SameBut u dest named :=
  h.sameBut_mapCtx (f := fun c => c) (fun _ => rfl) (fun _ _ _ => rfl) (fun _ _ _ => rfl) fun _ _ _ => rfl

theorem State.SameBut.refl : s.SameBut s dest named := (State.Took.refl s named).sameBut

/-! ### A word pushed -/

theorem push_open {s : State} {ch : BitVec 12} {c : Chan} (hc : s.myChan ch = some c) (h : s.consumerClosed c = false)
    (ws : List ChWord) :
    s.push ch ws = (s.count 0x030 ws.length).mapChan c.fn c.blk c.ch fun c => { c with wire := c.wire ++ ws } := by
  simp [State.push, hc, h]

/-- A plain word that is discarded is counted, in the table entry and for the consumer. -/
theorem push_closed {s : State} {ch : BitVec 12} {c : Chan} (hc : s.myChan ch = some c) (h : s.consumerClosed c = true)
    (v : Word) (k : Nat) :
    s.push ch [⟨v, false, k⟩] = ((s.count 0x030 1).addClosed ((s.joined c).getD c) 1).countFor
      ((s.joined c).getD c).consumer 0x032 1 := by
  simp only [State.push, hc, h]
  rfl

theorem push_none {s : State} {ch : BitVec 12} (hc : s.myChan ch = none) (ws : List ChWord) : s.push ch ws = s := by
  simp [State.push, hc]

/-- What a push of one word may change where the consumer is closed: tasks, and what writes to memory change. -/
def State.Pushed (s u : State) : Prop :=
  u = { s with
    me := u.me, tasks := u.tasks, chans := u.chans, mem := u.mem, lines := u.lines, tops := u.tops
    lineKeys := u.lineKeys, fns := u.fns }

theorem State.Stored.countFor (h : s.Stored u) (t : TaskId) (e n : Nat) : s.Pushed (u.countFor t e n) :=
  (congrArg (fun v : State => { v with
    me := (u.countFor t e n).me, tasks := (u.countFor t e n).tasks, chans := u.chans }) h :)

theorem pushed_push (s : State) (ch : BitVec 12) (v : Word) (k : Nat) : s.Pushed (s.push ch [⟨v, false, k⟩]) := by
  cases hc : s.myChan ch with
  | none => rw [push_none hc]; rfl
  | some c =>
    cases h : s.consumerClosed c with
    | false => rw [push_open hc h]; rfl
    | true =>
      rw [push_closed hc h]
      exact (stored_addClosed (s.count 0x030 1) ..).countFor ..

/-- A word pushed to an open consumer changes the counters of the acting context and channels alone. -/
theorem push_rest_open {s : State} {ch : BitVec 12} (h : ∀ c, s.myChan ch = some c → s.consumerClosed c = false)
    (ws : List ChWord) : s.push ch ws = { s with me := (s.push ch ws).me, chans := (s.push ch ws).chans } := by
  cases hc : s.myChan ch with
  | none => rw [push_none hc]
  | some c => rw [push_open hc (h c hc)]; rfl

theorem push_tasks (s : State) (ch : BitVec 12) (v : Word) (k : Nat) (n : Vector Counter 4) :
    (s.push ch [⟨v, false, k⟩]).tasks.map (fun x => { x with ctx := { x.ctx with ctrs := n } }) =
      s.tasks.map fun x => { x with ctx := { x.ctx with ctrs := n } } := by
  cases hc : s.myChan ch with
  | none => rw [push_none hc]
  | some c =>
    cases h : s.consumerClosed c with
    | false => rw [push_open hc h]; rfl
    | true =>
      have ha := stored_addClosed (s.count 0x030 1) ((s.joined c).getD c) 1
      rw [push_closed hc h, (countFor_frame ..).2, ha]
      rfl

/-- A push changes no channel but the one it is made to. -/
theorem push_chan? {s : State} {ch : BitVec 12} {v : Word} {k fn : Nat} {blk : Word} {ch' : BitVec 12}
    (hne : ¬ (fn = s.me.id.fn ∧ blk = s.me.id.blk ∧ ch' = ch)) :
    (s.push ch [⟨v, false, k⟩]).chan? fn blk ch' = s.chan? fn blk ch' := by
  cases hc : s.myChan ch with
  | none => rw [push_none hc]
  | some c =>
    cases h : s.consumerClosed c with
    | false =>
      obtain ⟨h1, h2, h3⟩ := chan?_key hc
      rw [push_open hc h, chan?_mapChan_of_ne (by exact fun _ => ⟨rfl, rfl, rfl⟩) (by rw [h1, h2, h3]; exact hne)]
      rfl
    | true =>
      have ha := stored_addClosed (s.count 0x030 1) ((s.joined c).getD c) 1
      rw [push_closed hc h, (countFor_frame ..).1, ha]
      rfl

theorem State.Took.sameBut_push {d : BitVec 5} {b : Binding} (h : s.Took u named) (hd : d ∈ named)
    (hb : s.me.ctx.binding d = some b) (v : Word) : s.SameBut (u.push b.ch [⟨v, false, 0⟩]) (some (.g d)) named := by
  obtain ⟨k, hk⟩ := h.me
  obtain ⟨c, hc⟩ := push_frame u b.ch v 0
  rw [hk] at hc
  have hrest : u.Pushed (u.push b.ch [⟨v, false, 0⟩]) := pushed_push ..
  constructor
  case g => rw [hc]; exact fun _ _ => rfl
  case q => rw [hc]; exact fun _ _ => rfl
  case f => rw [hc]; exact fun _ _ => rfl
  case context => rw [hc]
  case counters => exact fun hp => nomatch hb.symm.trans (hp d rfl)
  case task => rw [hc]
  case blocks => rw [hrest]; exact h.blocks
  case channels =>
    intro fn blk ch hn
    rw [push_chan? (by rw [h.meId]; exact hn d hd b hb), h.channels fn blk ch hn]
  case rest =>
    intro hopen
    have hblks : (u.push b.ch [⟨v, false, 0⟩]).blks = u.blks := (congrArg (·.blks) hrest :)
    rw [hblks]
    refine (push_rest_open (fun x hx => ?_) _).trans
      (congrArg (fun w : State => { w with
        me := (u.push b.ch [⟨v, false, 0⟩]).me, chans := (u.push b.ch [⟨v, false, 0⟩]).chans }) h.rest)
    have hm := h.myChan b.ch
    rw [hx] at hm
    obtain ⟨y, hy, e⟩ := Option.map_eq_some_iff.1 hm.symm
    exact (h.consumerClosed e.symm).trans (hopen d b y rfl hb hy)
  case closed => rw [hrest, h.rest]
  case others =>
    exact (push_tasks u b.ch v 0 _).trans (by rw [h.rest])

end
end Sys2Proof.Machine

/-! ## Every register instruction keeps the rest -/

namespace Sys2Proof.Machine

section

variable {s u : State} {named : List (BitVec 5)}

theorem Ctx.rg_wg_of_ne (c : Ctx) {d r : BitVec 5} (v : Word) (h : r ≠ d) : (c.wg d v).rg r = c.rg r := by
  rw [rg_wg, if_neg h]

theorem Ctx.rq_wq_of_ne (c : Ctx) {d r : BitVec 3} (v : Bool) (h : r ≠ d) : (c.wq d v).rq r = c.rq r := by
  have hn : d.toNat ≠ r.toNat := fun e => h (BitVec.eq_of_toNat_eq e.symm)
  unfold Ctx.rq Ctx.wq
  split
  · rfl
  · split
    · rfl
    · exact Vector.getElem_set_ne d.isLt r.isLt hn

theorem Ctx.rf_wf_of_ne (c : Ctx) {d r : BitVec 4} (v : Word) (h : r ≠ d) : (c.wf d v).rf r = c.rf r :=
  Vector.getElem_set_ne d.isLt r.isLt fun e => h (BitVec.eq_of_toNat_eq e.symm)

theorem State.Took.sameBut_putF (h : s.Took u named) (d : BitVec 5) (v : Word) :
    s.SameBut (u.putF d v) (some (.f (low4 d))) named :=
  h.sameBut_mapCtx (fun _ => rfl) (fun _ _ _ => rfl) (fun _ _ _ => rfl)
    fun c _ hr => c.rf_wf_of_ne v fun e => hr (e ▸ rfl)

theorem State.Took.sameBut_putQ (h : s.Took u named) (d : BitVec 5) (v : Bool) :
    s.SameBut (u.putQ d v) (some (.q (low3 d))) named := by
  refine h.sameBut_mapCtx (fun c => ?_) (fun c r _ => ?_) (fun c _ hr => c.rq_wq_of_ne v fun e => hr (e ▸ rfl)) fun c r _ => ?_
  · unfold Ctx.wq
    split <;> rfl
  · unfold Ctx.wq
    split <;> rfl
  · unfold Ctx.wq
    split <;> rfl

theorem State.Took.sameBut_putG {d : BitVec 5} (h : s.Took u named) (hd : d ∈ named) (v : Word) :
    s.SameBut (u.putG d v) (some (.g d)) named := by
  unfold State.putG
  rw [h.binding]
  split
  · rename_i b hb
    exact h.sameBut_push hd hb v
  · refine h.sameBut_mapCtx (fun c => ?_) (fun c _ hr => c.rg_wg_of_ne v fun e => hr (e ▸ rfl)) (fun c r _ => ?_) fun c r _ => ?_
    · unfold Ctx.wg
      split <;> rfl
    · unfold Ctx.wg
      split <;> rfl
    · unfold Ctx.wg
      split <;> rfl

end

/-- An instruction waits or traps with all as it was, or retires after changing its destination and what its bound operands
touch. -/
inductive Keeps (s : State) (dest : Option Dest) (named : List (BitVec 5)) : Res → Prop
  | wait (w : WaitOn) : Keeps s dest named (.next (s.waitOn w))
  | trap (c : BitVec 8) (x : Word) : Keeps s dest named (.next (s.trapAt c x))
  | retire {u : State} (h : s.SameBut u dest named) (pc : Word) : Keeps s dest named (.next (u.retireTo pc))

section

variable {s : State} {dest : Option Dest} {named : List (BitVec 5)} {i : Instr} {g : Guard}

theorem Keeps.of_eq {r r' : Res} (e : r = r') (h : Keeps s dest named r') : Keeps s dest named r := e ▸ h

theorem Keeps.next {t : State} (h : Keeps s dest named (.next t)) :
    (∃ w, t = s.waitOn w) ∨ (∃ c x, t = s.trapAt c x) ∨ ∃ u pc, t = u.retireTo pc ∧ s.SameBut u dest named := by
  cases h with
  | wait w => exact .inl ⟨w, rfl⟩
  | trap c x => exact .inr (.inl ⟨c, x, rfl⟩)
  | retire h pc => exact .inr (.inr ⟨_, pc, rfl, h⟩)

/-! ### The registers that a word names -/

theorem mem_named_d {d : BitVec 5} (h : wD i.word = d) : d ∈ i.named := by
  subst h
  exact List.mem_cons_self

theorem subset_named_a {a : BitVec 5} (h : wA i.word = a) : [a] ⊆ i.named := by
  subst h
  exact List.cons_subset.2 ⟨List.mem_cons_of_mem _ List.mem_cons_self, List.nil_subset _⟩

theorem subset_named_ab {a b : BitVec 5} (ha : wA i.word = a) (hb : wB i.word = b) : [a, b] ⊆ i.named := by
  subst ha hb
  exact List.subset_cons_self _ _

theorem fields_f3 {h : Guard} {m : BitVec 6} {d a b : BitVec 5} {f : BitVec 7} (e : i.word = f3 h m d a b f) :
    wD i.word = d ∧ wA i.word = a ∧ wB i.word = b := by
  rw [e]
  exact ⟨wD_f3 .., wA_f3 .., wB_f3 ..⟩

theorem fields_f3_da {h : Guard} {m : BitVec 6} {d a b : BitVec 5} {f : BitVec 7} (e : i.word = f3 h m d a b f) :
    wD i.word = d ∧ wA i.word = a := by
  rw [e]
  exact ⟨wD_f3 .., wA_f3 ..⟩

theorem fields_fi {h : Guard} {m : BitVec 6} {d a : BitVec 5} {imm : BitVec 12} (e : i.word = fi h m d a imm) :
    wD i.word = d ∧ wA i.word = a := by
  rw [e]
  exact ⟨wD_fi .., wA_fi ..⟩

theorem field_fl {h : Guard} {m : BitVec 6} {d : BitVec 5} {imm : BitVec 17} (e : i.word = fl h m d imm) : wD i.word = d := by
  rw [e]
  exact wD_fl ..

theorem field_fx {h : Guard} {m : BitVec 6} {d a : BitVec 5} {n : BitVec 3} {f : BitVec 9} (e : i.word = fx h m d a n f) :
    wD i.word = d := by
  rw [e]
  exact wD_fx ..

/-! ### The shapes -/

theorem keeps_guarded {k : State → Res} (hk : Keeps s dest named (k s)) : Keeps s dest named (guarded i g s k) := by
  unfold guarded
  split
  · exact hk
  · exact .retire .refl _

theorem keeps_gated {srcs : List (BitVec 5)} {dst : Option (BitVec 5)} {both : Bool} {k : State → Res}
    (hk : Keeps s dest named (k s)) : Keeps s dest named (gated i g srcs dst both s k) := by
  refine keeps_guarded ?_
  split
  · exact hk
  · exact .trap ..
  · exact .wait _

theorem keeps_doneG {d : BitVec 5} {srcs : List (BitVec 5)} {v : Word} (hd : d ∈ named) (hs : srcs ⊆ named) :
    Keeps s (some (.g d)) named (doneG i s srcs d v) := .retire ((took_popSrcs s hs).sameBut_putG hd v) _

theorem keeps_op3 {d a b : BitVec 5} {f : Word → Word → Word} 
    (h : wD i.word = d ∧ wA i.word = a ∧ wB i.word = b) : Keeps s (some (.g d)) i.named (op3 i g d a b s f) :=
  keeps_gated (keeps_doneG (mem_named_d h.1) (subset_named_ab h.2.1 h.2.2))

theorem keeps_op2 {d a : BitVec 5} {f : Word → Word} (h : wD i.word = d ∧ wA i.word = a) :
    Keeps s (some (.g d)) i.named (op2 i g d a s f) := keeps_gated (keeps_doneG (mem_named_d h.1) (subset_named_a h.2))

theorem keeps_opRw {d : BitVec 5} {srcs : List (BitVec 5)} {f : State → Word} (hd : wD i.word = d) (hs : srcs ⊆ i.named) :
    Keeps s (some (.g d)) i.named (opRw i g d srcs s f) := keeps_gated (keeps_doneG (mem_named_d hd) hs)

theorem keeps_opQ {d : BitVec 5} {srcs : List (BitVec 5)} {f : State → Bool} (hs : srcs ⊆ named) :
    Keeps s (some (.q (low3 d))) named (opQ i g d srcs s f) :=
  keeps_gated (.retire ((took_popSrcs s hs).sameBut_putQ d (f s)) _)

theorem keeps_cmpOp {d a b : BitVec 5} {f : Word → Word → Bool} (h : wD i.word = d ∧ wA i.word = a ∧ wB i.word = b) :
    Keeps s (some (.q (low3 d))) i.named (cmpOp i g d a b s f) := keeps_opQ (subset_named_ab h.2.1 h.2.2)

theorem keeps_cmpImm {d a : BitVec 5} {imm : BitVec 12} {f : Word → Word → Bool} 
    (h : wD i.word = d ∧ wA i.word = a) : Keeps s (some (.q (low3 d))) i.named (cmpImm i g d a imm s f) :=
  keeps_opQ (subset_named_a h.2)

theorem keeps_fpDone {srcs : List (BitVec 5)} {fl : FFlags} {put : State → State}
    (h : s.SameBut (put (s.popSrcs srcs)) dest named) : Keeps s dest named (fpDone i s srcs fl put) := by
  unfold fpDone
  split
  · exact .trap ..
  · exact .retire (h.mapFpf fl) _

theorem keeps_fpF {k : Scalar} {d : BitVec 5} {f : Ctx → Nat × FFlags} :
    Keeps s (some (.f (low4 d))) named (fpF i g k d s f) :=
  keeps_guarded (keeps_fpDone ((State.Took.refl s named).sameBut_putF ..))

theorem keeps_fp2 {k : Scalar} {d a b : BitVec 5} {f : Fmt → FV → FV → Nat × FFlags} :
    Keeps s (some (.f (low4 d))) named (fp2 i g k d a b s f) := keeps_fpF

theorem keeps_fpCmp {k : Scalar} {d a b : BitVec 5} {quiet : Bool} {f : FV → FV → Bool} :
    Keeps s (some (.q (low3 d))) named (fpCmp i g k d a b quiet s f) :=
  keeps_guarded (keeps_fpDone ((State.Took.refl s named).sameBut_putQ ..))

theorem keeps_fpToInt {k : Scalar} {d a : BitVec 5} {lo hi : Int} (h : wD i.word = d ∧ wA i.word = a) :
    Keeps s (some (.g d)) i.named (fpToInt i g k d a lo hi s) :=
  keeps_gated (keeps_fpDone ((State.Took.refl s i.named).sameBut_putG (mem_named_d h.1) _))

theorem keeps_fpOfInt {k : Scalar} {d a : BitVec 5} {f : Word → Int} (h : wD i.word = d ∧ wA i.word = a) :
    Keeps s (some (.f (low4 d))) i.named (fpOfInt i g k d a s f) :=
  keeps_gated (keeps_fpDone ((took_popSrcs s (subset_named_a h.2)).sameBut_putF ..))

theorem keeps_execSel {d a b : BitVec 5} {p : BitVec 3} : Keeps s (some (.g d)) (Instr.sel g d a b p).named (execSel g d a b p s) :=
  have h := fields_f3 (i := .sel g d a b p) rfl
  keeps_gated (keeps_doneG (mem_named_d h.1) (subset_named_ab h.2.1 h.2.2))

theorem keeps_execIns {d a : BitVec 5} {w p : BitVec 6} :
    Keeps s (some (.g d)) (Instr.ins g d a w p).named (execIns g d a w p s) :=
  have h := fields_fi (i := .ins g d a w p) rfl
  keeps_opRw h.1 (subset_named_a h.2)

theorem keeps_execGmvf {d a : BitVec 5} : Keeps s (some (.f (low4 d))) (Instr.gmvf g d a).named (execGmvf g d a s) :=
  have h := fields_f3_da (i := .gmvf g d a) rfl
  keeps_gated (.retire ((took_popSrcs s (subset_named_a h.2)).sameBut_putF ..) _)

/-- LIW, with one literal word or two. -/
theorem keeps_execLiw {d : BitVec 5} {two : Bool} {l0 l1 : BitVec 32} :
    Keeps s (some (.g d)) (Instr.liw g d two l0 l1).named (execLiw g d two l0 l1 s) := by
  refine keeps_gated (keeps_doneG (mem_named_d ?_) (List.nil_subset _))
  cases two with
  | true => exact field_fx rfl
  | false => exact field_fx rfl

/-- The instructions of the integer, guard and floating-point families, by their shapes. -/
theorem keeps_exec (hi : i.dest ≠ none) : Keeps s i.dest i.named (exec i s) := by
  cases i with
  | add => exact .of_eq (exec_add ..) (keeps_op3 (fields_f3 rfl))
  | addW => exact .of_eq (exec_addW ..) (keeps_op3 (fields_f3 rfl))
  | sub => exact .of_eq (exec_sub ..) (keeps_op3 (fields_f3 rfl))
  | subW => exact .of_eq (exec_subW ..) (keeps_op3 (fields_f3 rfl))
  | mul => exact .of_eq (exec_mul ..) (keeps_op3 (fields_f3 rfl))
  | mulW => exact .of_eq (exec_mulW ..) (keeps_op3 (fields_f3 rfl))
  | mulh => exact .of_eq (exec_mulh ..) (keeps_op3 (fields_f3 rfl))
  | mulhu => exact .of_eq (exec_mulhu ..) (keeps_op3 (fields_f3 rfl))
  | div => exact .of_eq (exec_div ..) (keeps_op3 (fields_f3 rfl))
  | divW => exact .of_eq (exec_divW ..) (keeps_op3 (fields_f3 rfl))
  | divu => exact .of_eq (exec_divu ..) (keeps_op3 (fields_f3 rfl))
  | divuW => exact .of_eq (exec_divuW ..) (keeps_op3 (fields_f3 rfl))
  | rem => exact .of_eq (exec_rem ..) (keeps_op3 (fields_f3 rfl))
  | remW => exact .of_eq (exec_remW ..) (keeps_op3 (fields_f3 rfl))
  | remu => exact .of_eq (exec_remu ..) (keeps_op3 (fields_f3 rfl))
  | remuW => exact .of_eq (exec_remuW ..) (keeps_op3 (fields_f3 rfl))
  | min => exact .of_eq (exec_min ..) (keeps_op3 (fields_f3 rfl))
  | max => exact .of_eq (exec_max ..) (keeps_op3 (fields_f3 rfl))
  | minu => exact .of_eq (exec_minu ..) (keeps_op3 (fields_f3 rfl))
  | maxu => exact .of_eq (exec_maxu ..) (keeps_op3 (fields_f3 rfl))
  | and => exact .of_eq (exec_and ..) (keeps_op3 (fields_f3 rfl))
  | or => exact .of_eq (exec_or ..) (keeps_op3 (fields_f3 rfl))
  | xor => exact .of_eq (exec_xor ..) (keeps_op3 (fields_f3 rfl))
  | shl => exact .of_eq (exec_shl ..) (keeps_op3 (fields_f3 rfl))
  | shlW => exact .of_eq (exec_shlW ..) (keeps_op3 (fields_f3 rfl))
  | shr => exact .of_eq (exec_shr ..) (keeps_op3 (fields_f3 rfl))
  | shrW => exact .of_eq (exec_shrW ..) (keeps_op3 (fields_f3 rfl))
  | sra => exact .of_eq (exec_sra ..) (keeps_op3 (fields_f3 rfl))
  | sraW => exact .of_eq (exec_sraW ..) (keeps_op3 (fields_f3 rfl))
  | clz => exact .of_eq (exec_clz ..) (keeps_op2 (fields_f3_da rfl))
  | clzW => exact .of_eq (exec_clzW ..) (keeps_op2 (fields_f3_da rfl))
  | ctz => exact .of_eq (exec_ctz ..) (keeps_op2 (fields_f3_da rfl))
  | ctzW => exact .of_eq (exec_ctzW ..) (keeps_op2 (fields_f3_da rfl))
  | popc => exact .of_eq (exec_popc ..) (keeps_op2 (fields_f3_da rfl))
  | popcW => exact .of_eq (exec_popcW ..) (keeps_op2 (fields_f3_da rfl))
  | sextB => exact .of_eq (exec_sextB ..) (keeps_op2 (fields_f3_da rfl))
  | sextH => exact .of_eq (exec_sextH ..) (keeps_op2 (fields_f3_da rfl))
  | sextW => exact .of_eq (exec_sextW ..) (keeps_op2 (fields_f3_da rfl))
  | zextB => exact .of_eq (exec_zextB ..) (keeps_op2 (fields_f3_da rfl))
  | zextH => exact .of_eq (exec_zextH ..) (keeps_op2 (fields_f3_da rfl))
  | zextW => exact .of_eq (exec_zextW ..) (keeps_op2 (fields_f3_da rfl))
  | addi => exact .of_eq (exec_addi ..) (keeps_op2 (fields_fi rfl))
  | addiW => exact .of_eq (exec_addiW ..) (keeps_op2 (fields_fi rfl))
  | andi => exact .of_eq (exec_andi ..) (keeps_op2 (fields_fi rfl))
  | ori => exact .of_eq (exec_ori ..) (keeps_op2 (fields_fi rfl))
  | xori => exact .of_eq (exec_xori ..) (keeps_op2 (fields_fi rfl))
  | shlImm => exact .of_eq (exec_shlImm ..) (keeps_op2 (fields_fi rfl))
  | shlWImm => exact .of_eq (exec_shlWImm ..) (keeps_op2 (fields_fi rfl))
  | shrImm => exact .of_eq (exec_shrImm ..) (keeps_op2 (fields_fi rfl))
  | shrWImm => exact .of_eq (exec_shrWImm ..) (keeps_op2 (fields_fi rfl))
  | sraImm => exact .of_eq (exec_sraImm ..) (keeps_op2 (fields_fi rfl))
  | sraWImm => exact .of_eq (exec_sraWImm ..) (keeps_op2 (fields_fi rfl))
  | li => exact .of_eq (exec_li ..) (keeps_gated (keeps_doneG (mem_named_d (field_fl rfl)) (List.nil_subset _)))
  | lih => exact .of_eq (exec_lih ..) (keeps_opRw (field_fl rfl) (List.nil_subset _))
  | addpc => exact .of_eq (exec_addpc ..) (keeps_gated (keeps_doneG (mem_named_d (field_fl rfl)) (List.nil_subset _)))
  | liw => exact .of_eq (exec_liw ..) (keeps_execLiw)
  | sel => exact .of_eq (exec_sel ..) (keeps_execSel)
  | extr => exact .of_eq (exec_extr ..) (keeps_op2 (fields_fi rfl))
  | ins => exact .of_eq (exec_ins ..) (keeps_execIns)
  | cmpEqImm => exact .of_eq (exec_cmpEqImm ..) (keeps_cmpImm (fields_fi rfl))
  | cmpNeImm => exact .of_eq (exec_cmpNeImm ..) (keeps_cmpImm (fields_fi rfl))
  | cmpLtImm => exact .of_eq (exec_cmpLtImm ..) (keeps_cmpImm (fields_fi rfl))
  | cmpLeImm => exact .of_eq (exec_cmpLeImm ..) (keeps_cmpImm (fields_fi rfl))
  | cmpLtuImm => exact .of_eq (exec_cmpLtuImm ..) (keeps_cmpImm (fields_fi rfl))
  | cmpLeuImm => exact .of_eq (exec_cmpLeuImm ..) (keeps_cmpImm (fields_fi rfl))
  | cmpEq => exact .of_eq (exec_cmpEq ..) (keeps_cmpOp (fields_f3 rfl))
  | cmpNe => exact .of_eq (exec_cmpNe ..) (keeps_cmpOp (fields_f3 rfl))
  | cmpLt => exact .of_eq (exec_cmpLt ..) (keeps_cmpOp (fields_f3 rfl))
  | cmpLe => exact .of_eq (exec_cmpLe ..) (keeps_cmpOp (fields_f3 rfl))
  | cmpLtu => exact .of_eq (exec_cmpLtu ..) (keeps_cmpOp (fields_f3 rfl))
  | cmpLeu => exact .of_eq (exec_cmpLeu ..) (keeps_cmpOp (fields_f3 rfl))
  | gand => exact .of_eq (exec_gand ..) (keeps_opQ (List.nil_subset _))
  | gor => exact .of_eq (exec_gor ..) (keeps_opQ (List.nil_subset _))
  | gxor => exact .of_eq (exec_gxor ..) (keeps_opQ (List.nil_subset _))
  | gnot => exact .of_eq (exec_gnot ..) (keeps_opQ (List.nil_subset _))
  | fadd => exact .of_eq (exec_fadd ..) (keeps_fp2)
  | faddS => exact .of_eq (exec_faddS ..) (keeps_fp2)
  | fsub => exact .of_eq (exec_fsub ..) (keeps_fp2)
  | fsubS => exact .of_eq (exec_fsubS ..) (keeps_fp2)
  | fmul => exact .of_eq (exec_fmul ..) (keeps_fp2)
  | fmulS => exact .of_eq (exec_fmulS ..) (keeps_fp2)
  | fdiv => exact .of_eq (exec_fdiv ..) (keeps_fp2)
  | fdivS => exact .of_eq (exec_fdivS ..) (keeps_fp2)
  | fsqrt => exact .of_eq (exec_fsqrt ..) (keeps_fpF)
  | fsqrtS => exact .of_eq (exec_fsqrtS ..) (keeps_fpF)
  | ffma => exact .of_eq (exec_ffma ..) (keeps_fpF)
  | ffmaS => exact .of_eq (exec_ffmaS ..) (keeps_fpF)
  | fmin => exact .of_eq (exec_fmin ..) (keeps_fpF)
  | fminS => exact .of_eq (exec_fminS ..) (keeps_fpF)
  | fmax => exact .of_eq (exec_fmax ..) (keeps_fpF)
  | fmaxS => exact .of_eq (exec_fmaxS ..) (keeps_fpF)
  | fcmpEq => exact .of_eq (exec_fcmpEq ..) (keeps_fpCmp)
  | fcmpEqS => exact .of_eq (exec_fcmpEqS ..) (keeps_fpCmp)
  | fcmpLt => exact .of_eq (exec_fcmpLt ..) (keeps_fpCmp)
  | fcmpLtS => exact .of_eq (exec_fcmpLtS ..) (keeps_fpCmp)
  | fcmpLe => exact .of_eq (exec_fcmpLe ..) (keeps_fpCmp)
  | fcmpLeS => exact .of_eq (exec_fcmpLeS ..) (keeps_fpCmp)
  | fcmpUn => exact .of_eq (exec_fcmpUn ..) (keeps_fpCmp)
  | fcmpUnS => exact .of_eq (exec_fcmpUnS ..) (keeps_fpCmp)
  | fcvtSD => exact .of_eq (exec_fcvtSD ..) (keeps_fpF)
  | fcvtDS => exact .of_eq (exec_fcvtDS ..) (keeps_fpF)
  | fcvtLD => exact .of_eq (exec_fcvtLD ..) (keeps_fpToInt (fields_f3_da rfl))
  | fcvtLuD => exact .of_eq (exec_fcvtLuD ..) (keeps_fpToInt (fields_f3_da rfl))
  | fcvtDL => exact .of_eq (exec_fcvtDL ..) (keeps_fpOfInt (fields_f3_da rfl))
  | fcvtDLu => exact .of_eq (exec_fcvtDLu ..) (keeps_fpOfInt (fields_f3_da rfl))
  | fcvtLS => exact .of_eq (exec_fcvtLS ..) (keeps_fpToInt (fields_f3_da rfl))
  | fcvtLuS => exact .of_eq (exec_fcvtLuS ..) (keeps_fpToInt (fields_f3_da rfl))
  | fcvtSL => exact .of_eq (exec_fcvtSL ..) (keeps_fpOfInt (fields_f3_da rfl))
  | fcvtSLu => exact .of_eq (exec_fcvtSLu ..) (keeps_fpOfInt (fields_f3_da rfl))
  | fclass => exact .of_eq (exec_fclass ..) (keeps_gated (keeps_doneG (mem_named_d (fields_f3_da rfl).1) (List.nil_subset _)))
  | fclassS => exact .of_eq (exec_fclassS ..) (keeps_gated (keeps_doneG (mem_named_d (fields_f3_da rfl).1) (List.nil_subset _)))
  | fmvg => exact .of_eq (exec_fmvg ..) (keeps_gated (keeps_doneG (mem_named_d (fields_f3_da rfl).1) (List.nil_subset _)))
  | gmvf => exact .of_eq (exec_gmvf ..) (keeps_execGmvf)
  | fli => exact .of_eq (exec_fli ..) (keeps_guarded (.retire ((State.Took.refl ..).sameBut_putF ..) _))
  | fliS => exact .of_eq (exec_fliS ..) (keeps_guarded (.retire ((State.Took.refl ..).sameBut_putF ..) _))
  | _ => exact absurd rfl hi

end

/-- Settles O9: each shape takes sources, then writes one register or pushes one word. -/
theorem registerInstructionsKeepTheRest : Obligations.RegisterInstructionsKeepTheRest := by
  unfold Obligations.RegisterInstructionsKeepTheRest
  intro i s t hi e
  exact (e ▸ keeps_exec hi : Keeps s i.dest i.named (.next t)).next

end Sys2Proof.Machine

end

/-!
SUPPORT. What a step runs (R32, R33, R155, R163, R164): what the issue slot of a context comes to, by what is fetched there.
-/
section

namespace Sys2Proof.Machine

/-! ## What is fetched at PC -/

theorem fetchNext_trap {s u : State} {c : BitVec 8} {va : Word} (h : fetchWord s s.me.ctx.pc = .trap u c va) :
    fetchNext s = .trap u c va := by
  simp only [fetchNext, h, nextOf]

theorem fetchNext_illegal {s u : State} {w : BitVec 32} {r : Reject} (h : fetchWord s s.me.ctx.pc = .ok w u)
    (hd : decodeMiller w 0 0 0 0 = .error r) : fetchNext s = .illegal w u := by
  simp only [fetchNext, h, hd]

/-- No literal is fetched where there is none, or the guard is false (R19). -/
theorem fetchNext_plain {s u : State} {w : BitVec 32} {i : Instr} (h : fetchWord s s.me.ctx.pc = .ok w u)
    (hd : decodeMiller w 0 0 0 0 = .ok i) (hl : litsOf w = 0 ∨ s.me.ctx.guardTrue (wGuard w) = false) :
    fetchNext s = .instr i u := by
  have hb : (litsOf w = 0 || !s.me.ctx.guardTrue (wGuard w)) = true := by simpa using hl
  simp only [fetchNext, h, hd, hb, if_true]

theorem fetchNext_lits {s u v : State} {w : BitVec 32} {i j : Instr} {l : List (BitVec 32)}
    (h : fetchWord s s.me.ctx.pc = .ok w u) (hd : decodeMiller w 0 0 0 0 = .ok i) (hl : litsOf w ≠ 0)
    (hg : s.me.ctx.guardTrue (wGuard w) = true) (hf : fetchLits u (s.me.ctx.pc + 4) (litsOf w) [] = .ok (l, v))
    (hj : decodeMiller w (l.getD 0 0) (l.getD 1 0) (l.getD 2 0) (l.getD 3 0) = .ok j) :
    fetchNext s = .instr j (v.fetchedAt s.me.ctx.pc) := by
  have hb : (litsOf w = 0 || !s.me.ctx.guardTrue (wGuard w)) = false := by simp [hl, hg]
  simp only [fetchNext, h, hd, hb, hf, hj, Bool.false_eq_true, if_false]

/-! ## Running it -/

theorem runInstr_next {i : Instr} {s t : State} (h : exec i s = .next t) : runInstr i s = .next (t.park i) := by
  simp only [runInstr, h]

theorem park_eq (i : Instr) (t : State) :
    t.park i = if t.me.ctx.st = .sleeping then t.mapCtx fun x => { x with parked := some i } else t := by
  simp only [State.park, beq_iff_eq]

section

variable {v u : State} {m : Nat} {c : BitVec 4}

/-- The context `v` in focus issues: nothing stops it, no trap waits, and it stands at no boundary. -/
structure Issues (v : State) : Prop where
  issues : v.me.issues = true
  noTrap : v.me.ctx.trapDue = false
  noStep : v.me.ctx.stepSeq = 0
  started : v.me.waitsStart = false

theorem took_noteRestored_ctx (v : State) : v.took.noteRestored.me.ctx = { v.me.ctx with lastIssue := v.time } :=
  noteRestored_ctx _

/-- Noting the slot and the CTXSW record leave what decides the slot as it was. -/
theorem Issues.afterNotes (h : Issues v) : v.took.me.ctx.trapDue = false ∧ v.took.noteRestored.me.ctx.stepSeq = 0 ∧
    v.took.noteRestored.me.waitsStart = false ∧ v.took.noteRestored.me.ctx.parked = v.me.ctx.parked := by
  rw [took_noteRestored_ctx, noteRestored_waitsStart]
  exact ⟨h.noTrap, h.noStep, h.started, rfl⟩

theorem issueMe_parked (h : Issues v) {i : Instr} (hk : v.me.ctx.parked = some i) :
    issueMe v.took = runInstr i v.took.noteRestored := by
  obtain ⟨ht, hs, hw, hp⟩ := h.afterNotes
  simp only [issueMe, ht, hs, hw, hp, hk, ne_eq, not_true_eq_false, Bool.false_eq_true, if_false]

section

variable (h : Issues v) (hk : v.me.ctx.parked = none)

include h hk

theorem issueMe_instr {i : Instr} (hf : fetchNext v.took.noteRestored = .instr i u) : issueMe v.took = runInstr i u := by
  obtain ⟨ht, hs, hw, hp⟩ := h.afterNotes
  simp only [issueMe, ht, hs, hw, hp, hk, hf, ne_eq, not_true_eq_false, Bool.false_eq_true, if_false]

theorem issueMe_illegal {w : BitVec 32} (hf : fetchNext v.took.noteRestored = .illegal w u) :
    issueMe v.took = .next (u.trapAt tcILLOP (w.setWidth 64)) := by
  obtain ⟨ht, hs, hw, hp⟩ := h.afterNotes
  simp only [issueMe, ht, hs, hw, hp, hk, hf, ne_eq, not_true_eq_false, Bool.false_eq_true, if_false]

theorem issueMe_trap {c : BitVec 8} {va : Word} (hf : fetchNext v.took.noteRestored = .trap u c va) :
    issueMe v.took = .next (u.trapAt c va) := by
  obtain ⟨ht, hs, hw, hp⟩ := h.afterNotes
  simp only [issueMe, ht, hs, hw, hp, hk, hf, ne_eq, not_true_eq_false, Bool.false_eq_true, if_false]

end

/-- A powered step whose one entry is the slot of a context that issues. -/
theorem step_issue {s : State} (hp : s.wh.off = false) (ha : s.agenda = [.issue m c])
    (hv : (({ s with agenda := [] } : State).onCtx m c).bind ({ s with agenda := [] } : State).focus = some v) (h : Issues v) :
    step s = finish (issueMe v.took) := by
  rw [step_single hp ha]
  simp only [runAct, hv, h.issues, if_true]

/-- A step of a context that issues takes one slot, for what is fetched. -/
theorem step_instr {s t : State} {i : Instr} (he : step s = finish (issueMe v.took)) (h : Issues v)
    (hi : v.me.ctx.parked = some i ∧ u = v.took.noteRestored ∨
      v.me.ctx.parked = none ∧ fetchNext v.took.noteRestored = .instr i u) (hx : exec i u = .next t) :
    step s = .next (if t.me.ctx.st = .sleeping then t.mapCtx fun x => { x with parked := some i } else t).sync := by
  rw [he, ← park_eq]
  rcases hi with ⟨hk, rfl⟩ | ⟨hk, hf⟩
  · rw [issueMe_parked h hk, runInstr_next hx, finish_next]
  · rw [issueMe_instr h hk hf, runInstr_next hx, finish_next]

/-- A word that is no instruction raises ILLOP (R163). -/
theorem step_illegal {s : State} {w : BitVec 32} (he : step s = finish (issueMe v.took)) (h : Issues v)
    (hk : v.me.ctx.parked = none) (hf : fetchNext v.took.noteRestored = .illegal w u) :
    step s = .next (u.trapAt 0x01 (w.setWidth 64)).sync := by
  rw [he, issueMe_illegal h hk hf, finish_next]
  rfl

/-- A fetch that fails raises its trap. -/
theorem step_fetchTrap {s : State} {c : BitVec 8} {va : Word} (he : step s = finish (issueMe v.took)) (h : Issues v)
    (hk : v.me.ctx.parked = none) (hf : fetchNext v.took.noteRestored = .trap u c va) :
    step s = .next (u.trapAt c va).sync := by
  rw [he, issueMe_trap h hk hf, finish_next]

end

/-! ## The obligation of what a step runs -/

theorem step_cycle {s : State} (hp : s.wh.off = false) (ha : s.agenda = []) (hl : s.later = []) :
    step s = .next s.tick.sync := by
  simp [step, hp, ha, hl]

theorem step_group {s : State} {g : List Act} {rest : List (List Act)} (hp : s.wh.off = false) (ha : s.agenda = [])
    (hl : s.later = g :: rest) : step s = .next ({ s with agenda := g, later := rest } : State).sync := by
  simp [step, hp, ha, hl]

/-- Settles O3: one equation per kind of entry, and for the issue slot one per outcome of the fetch. -/
theorem stepRunsWhatItFetches : Obligations.StepRunsWhatItFetches := by
  unfold Obligations.StepRunsWhatItFetches
  intro s s0 hp h0
  subst h0
  refine ⟨step_cycle hp, fun g rest => step_group hp, ?_, ?_, ?_, ?_, ?_⟩
  · intro m c v u pc ha hv hissues htrap hstep hstart hu hpc
    have h : Issues v := ⟨hissues, htrap, hstep, hstart⟩
    have he := step_issue hp ha hv h
    have hc : u.me.ctx = { v.me.ctx with lastIssue := v.time } := by rw [hu]; exact took_noteRestored_ctx v
    have hupc : u.me.ctx.pc = pc := by rw [hc, hpc]
    have hguard : ∀ g, u.me.ctx.guardTrue g = v.me.ctx.guardTrue g := fun g => by rw [hc]; rfl
    clear hpc
    subst hupc hu
    refine ⟨fun i t hk hx => step_instr he h (.inl ⟨hk, rfl⟩) hx,
      fun hk u1 c va hf => step_fetchTrap he h hk (fetchNext_trap hf), fun hk w u1 hf =>
        ⟨fun r hd => step_illegal he h hk (fetchNext_illegal hf hd), fun i hd => ⟨?_, ?_⟩⟩⟩
    · intro t hl hx
      exact step_instr he h (.inr ⟨hk, fetchNext_plain hf hd (by rwa [hguard])⟩) hx
    · intro l u2 j t hl hg hls hj hx
      exact step_instr he h (.inr ⟨hk, fetchNext_lits hf hd hl (by rwa [hguard]) hls hj⟩) hx
  · intro t q v c i u ha hv hc hd hx
    simp only [step_single hp ha, runAct, hv, hc, hd, State.aim, hx, finish_next]
  · intro t e v i u ha hv hd hx
    simp only [step_single hp ha, runAct, hv, hd, State.aim, hx, finish_next]
  · intro t q e i a v u ha hv hx
    simp only [step_single hp ha, runAct, hv, State.aim, hx, finish_next]
  · intro i a u ha hx
    simp only [step_single hp ha, runAct, hx, finish_next]

end Sys2Proof.Machine
end

/-!
SUPPORT. Words and messages that reach a consumer end (R38, R39, R156, R157, R288, R412): what delivering does, and what each
arrival comes to by where its oldest word or message can go.
-/
section

namespace Sys2Proof.Machine

section

variable {s t : State} {c d : Chan}

/-! ## Finding a channel -/

theorem chan?_of_chans (h : t.chans = s.chans) (fn : Nat) (blk : Word) (ch : BitVec 12) : t.chan? fn blk ch = s.chan? fn blk ch := by
  simp only [State.chan?, h]

/-- What is sought is found as it has become, where some of a list are changed and none in what it is sought by. -/
theorem find?_map_ite {α : Type} {p q : α → Bool} {f : α → α} {l : List α} {x : α} (h : l.find? p = some x)
    (hf : ∀ y, p (f y) = p y) : (l.map fun y => if q y then f y else y).find? p = some (if q x then f x else x) := by
  have hkey : (p ∘ fun y => if q y then f y else y) = p := by
    funext y
    rw [Function.comp_apply]
    split
    · exact hf y
    · rfl
  rw [List.find?_map, hkey, h, Option.map_some]

/-- A channel that is changed is found as it has become. -/
theorem chan?_mapChan {fn : Nat} {blk : Word} {ch : BitVec 12} {f : Chan → Chan} (h : s.chan? fn blk ch = some c)
    (hf : ∀ x, (f x).fn = x.fn ∧ (f x).blk = x.blk ∧ (f x).ch = x.ch) :
    (s.mapChan fn blk ch f).chan? fn blk ch = some (f c) := by
  refine (find?_map_ite h fun x => ?_).trans (congrArg some (if_pos (List.find?_some h :)))
  obtain ⟨h1, h2, h3⟩ := hf x
  rw [h1, h2, h3]

/-- A channel that is found is found under its own key. -/
theorem chan?_self {fn : Nat} {blk : Word} {ch : BitVec 12} (h : s.chan? fn blk ch = some c) : s.chan? c.fn c.blk c.ch = some c := by
  obtain ⟨h1, h2, h3⟩ := chan?_key h
  rw [h1, h2, h3, h]

theorem withEnd_found (h : s.chan? c.fn c.blk c.ch = some c) : s.withEnd c = s := by
  simp only [State.withEnd, h, Option.isSome_some, if_true]

theorem chan?_dropWire (h : s.chan? c.fn c.blk c.ch = some d) (n : Nat) :
    (s.dropWire c n).chan? c.fn c.blk c.ch = some { d with wire := d.wire.drop n } :=
  chan?_mapChan h fun _ => ⟨rfl, rfl, rfl⟩

theorem chan?_dropMsgWire (h : s.chan? c.fn c.blk c.ch = some d) :
    (s.dropMsgWire c).chan? c.fn c.blk c.ch = some { d with msgWire := d.msgWire.drop 1 } :=
  chan?_mapChan h fun _ => ⟨rfl, rfl, rfl⟩

/-- Discarding a word that is no half of a handle changes no channel. -/
theorem chans_discard_single (s : State) (c : Chan) (v : ChWord) : (s.discard c [v]).chans = s.chans := by
  have h : (s.addClosed c 1).chans = s.chans := by rw [stored_addClosed s c 1]
  exact h

/-! ## The spill area -/

theorem spillTry_fault (h : c.fault = true) (n : Nat) : s.spillTry c n = (false, s) := by
  simp only [State.spillTry, h, if_true]

theorem spillTry_full {n : Nat} (h : c.fault = false) (hn : s.spillFits c.fn c.blk n = false) : s.spillTry c n =
    (false, s.mapChan c.fn c.blk c.ch fun x => { x with fullSince := x.fullSince.orElse fun _ => some s.time }) := by
  simp [State.spillTry, h, hn]

theorem spillTry_fits {n : Nat} (h : c.fault = false) (hn : s.spillFits c.fn c.blk n = true)
    (hf : Config.spillFaults s.free = false) :
    s.spillTry c n = (true, ({ s with free := s.free + 1 } : State).spillCharge c.fn c.blk n) := by
  simp [State.spillTry, h, hn, State.choose, hf]

/-! ## Delivering -/

/-- The words enter the buffer, and from the place `k` on the spill area; the consumer is told. -/
def State.enter (s : State) (c : Chan) (ws : List ChWord) (k : Nat) : State :=
  (s.mapChan c.fn c.blk c.ch fun y => { y with buf := y.buf ++ ws.take k, spill := y.spill ++ ws.drop k }).mapTask c.consumer
    (Task.wordAt c.ch)

theorem chan?_enter (h : s.chan? c.fn c.blk c.ch = some c) (ws : List ChWord) (k : Nat) :
    (s.enter c ws k).chan? c.fn c.blk c.ch = some { c with buf := c.buf ++ ws.take k, spill := c.spill ++ ws.drop k } :=
  chan?_mapChan h fun _ => ⟨rfl, rfl, rfl⟩

theorem deliver_buffered (h : s.chan? c.fn c.blk c.ch = some c) {ws : List ChWord} (hk : ws.length ≤ s.bufFree c) :
    s.deliver c ws = (some (s.enter c ws (s.bufFree c)), s) := by
  simp only [State.deliver, withEnd_found h, if_pos hk]
  rfl

theorem deliver_spilled (h : s.chan? c.fn c.blk c.ch = some c) {ws : List ChWord} (hk : ¬ ws.length ≤ s.bufFree c) {s1 : State}
    (ht : s.spillTry c (8 * (ws.length - s.bufFree c)) = (true, s1)) : s.deliver c ws =
      (some ((s1.enter c ws (s.bufFree c)).countFor c.consumer 0x031 (ws.length - s.bufFree c)), s1) := by
  simp only [State.deliver, withEnd_found h, if_neg hk, ht]
  rfl

theorem deliver_held (h : s.chan? c.fn c.blk c.ch = some c) {ws : List ChWord} (hk : ¬ ws.length ≤ s.bufFree c) {s1 : State}
    (ht : s.spillTry c (8 * (ws.length - s.bufFree c)) = (false, s1)) : s.deliver c ws = (none, s1) := by
  simp only [State.deliver, withEnd_found h, if_neg hk, ht]
  rfl

/-! ## A word arrives -/

/-- The channel `c` is the one that the arrival in hand is about. -/
abbrev State.Arriving (s : State) (c : Chan) : Prop := s.chan? s.cur.arg.fn s.cur.arg.w (BitVec.ofNat 12 s.cur.arg.k) = some c

theorem headWords_single {v : ChWord} (h : v.handle = false) (rest : List ChWord) : headWords (v :: rest) = [v] := by
  cases rest with
  | nil => rfl
  | cons z rest => simp [headWords, h]

theorem headWords_pair {v z : ChWord} (hv : v.handle = true) (hz : z.handle = true) (rest : List ChWord) :
    headWords (v :: z :: rest) = [v, z] := by
  simp [headWords, hv, hz]

theorem joined_self (h : c.peer = 0) : s.joined c = some c := by
  simp only [State.joined, h, if_true]

theorem joined_away {pkg : BitVec 8} {fn : Nat} {rch : BitVec 12} {ports : BitVec 18} (hc : c.peer ≠ 0)
    (hl : linkEntry s c.fn c.peer = some (pkg, fn, rch, ports)) (hp : pkg ≠ s.wh.pkg) : s.joined c = none := by
  simp [State.joined, hc, hl, hp]

theorem wordArrival_nothing (h : s.Arriving c) (hw : c.wire = []) : exec .channelWordArrival s = .next s := by
  simp only [exec_channelWordArrival, execChannelWordArrival, h, hw, headWords]

/-- At a closed end the word is discarded (R156). -/
theorem wordArrival_closed (h : s.Arriving c) (hp : c.peer = 0) {v : ChWord} {rest : List ChWord} (hw : c.wire = v :: rest)
    (hv : v.handle = false) (hc : c.closed = true) :
    ∃ t : State, exec .channelWordArrival s = .next t ∧ t.chan? c.fn c.blk c.ch = some { c with wire := rest } := by
  refine ⟨(s.dropWire c 1).discard c [v], ?_, ?_⟩
  · have hh : headWords c.wire = [v] := hw ▸ headWords_single hv rest
    simp only [exec_channelWordArrival, execChannelWordArrival, h, hh, joined_self hp, hc, List.length_singleton, if_true]
  · rw [chan?_of_chans (chans_discard_single ..), chan?_dropWire (chan?_self h), hw]
    rfl

theorem wordArrival_delivered (h : s.Arriving c) (hp : c.peer = 0) {v : ChWord} {more : List ChWord}
    (hw : headWords c.wire = v :: more) (hc : c.closed = false) {u : State} (hd : s.deliver c (v :: more) = (some t, u)) :
    exec .channelWordArrival s = .next (t.dropWire c (v :: more).length) := by
  simp only [exec_channelWordArrival, execChannelWordArrival, h, hw, joined_self hp, hc, hd, Bool.false_eq_true, if_false]

theorem wordArrival_held (h : s.Arriving c) (hp : c.peer = 0) {v : ChWord} {more : List ChWord}
    (hw : headWords c.wire = v :: more) (hc : c.closed = false) (hd : s.deliver c (v :: more) = (none, t)) :
    exec .channelWordArrival s = .next t := by
  simp only [exec_channelWordArrival, execChannelWordArrival, h, hw, joined_self hp, hc, hd, Bool.false_eq_true, if_false]

/-- Words that find places in the buffer enter it. -/
theorem wordArrival_buffered (h : s.Arriving c) (hp : c.peer = 0) {v : ChWord} {more : List ChWord}
    (hw : headWords c.wire = v :: more) (hc : c.closed = false) (hk : (v :: more).length ≤ s.bufFree c) :
    ∃ t : State, exec .channelWordArrival s = .next t ∧ t.mem = s.mem ∧ t.chan? c.fn c.blk c.ch =
      some { c with buf := c.buf ++ v :: more, wire := c.wire.drop (v :: more).length } := by
  refine ⟨_, wordArrival_delivered h hp hw hc (deliver_buffered (chan?_self h) hk), rfl, ?_⟩
  rw [chan?_dropWire (chan?_enter (chan?_self h) ..), List.take_of_length_le hk, List.drop_of_length_le hk, List.append_nil]

/-- A word that finds no place in the buffer, and one in the spill area, enters that. -/
theorem wordArrival_spilled (h : s.Arriving c) (hp : c.peer = 0) {v : ChWord} {rest : List ChWord} (hw : c.wire = v :: rest)
    (hv : v.handle = false) (hc : c.closed = false) (hk : s.bufFree c = 0) (hf : c.fault = false)
    (hs : s.spillFits c.fn c.blk 8 = true) (hg : Config.spillFaults s.free = false) :
    ∃ t : State, exec .channelWordArrival s = .next t ∧ t.mem = s.mem ∧ t.chan? c.fn c.blk c.ch =
      some { c with spill := c.spill ++ [v], wire := rest } := by
  have hk' : ¬ [v].length ≤ s.bufFree c := by simp [hk]
  have ht : s.spillTry c (8 * ([v].length - s.bufFree c)) =
      (true, ({ s with free := s.free + 1 } : State).spillCharge c.fn c.blk 8) := by
    rw [hk]; exact spillTry_fits hf hs hg
  refine ⟨_, wordArrival_delivered h hp (hw ▸ headWords_single hv rest) hc (deliver_spilled (chan?_self h) hk' ht), rfl, ?_⟩
  have hfound : (({ s with free := s.free + 1 } : State).spillCharge c.fn c.blk 8).chan? c.fn c.blk c.ch = some c := chan?_self h
  refine (chan?_dropWire (chan?_enter hfound ..) _).trans ?_
  rw [hk, hw, List.take_zero, List.append_nil]
  rfl

/-- A word that neither holds stays on the way. -/
theorem wordArrival_stays (h : s.Arriving c) (hp : c.peer = 0) {v : ChWord} {rest : List ChWord} (hw : c.wire = v :: rest)
    (hv : v.handle = false) (hc : c.closed = false) (hk : s.bufFree c = 0) (ht : s.spillTry c 8 = (false, t)) :
    exec .channelWordArrival s = .next t := by
  have hk' : ¬ [v].length ≤ s.bufFree c := by simp [hk]
  exact wordArrival_held h hp (hw ▸ headWords_single hv rest) hc (deliver_held (chan?_self h) hk' (by rw [hk]; exact ht))

section

variable {v : ChWord} {rest : List ChWord} {pkg : BitVec 8} {fn : Nat} {rch : BitVec 12} {ports : BitVec 18}

/-- Over a link a word stays where no port serves the channel. -/
theorem wordArrival_noPort (h : s.Arriving c) (hw : c.wire = v :: rest) (hv : v.handle = false)
    (hl : linkEntry s c.fn c.peer = some (pkg, fn, rch, ports)) (hp : c.peer ≠ 0) (hpkg : pkg ≠ s.wh.pkg)
    (hc : c.peerClosed = false) (hn : s.chanPort c ports = none) : exec .channelWordArrival s = .next s := by
  have hh : headWords c.wire = [v] := hw ▸ headWords_single hv rest
  simp only [exec_channelWordArrival, execChannelWordArrival, h, hh, joined_away hp hl hpkg, hl, hc, hpkg, hn, decide_false,
    Bool.or_self, Bool.false_eq_true, if_false]

/-- Over a link a word leaves as a flit, by the port that the channel's messages take. -/
theorem wordArrival_link (h : s.Arriving c) (hw : c.wire = v :: rest) (hv : v.handle = false)
    (hl : linkEntry s c.fn c.peer = some (pkg, fn, rch, ports)) (hp : c.peer ≠ 0) (hpkg : pkg ≠ s.wh.pkg)
    (hc : c.peerClosed = false) {p : Nat} (hn : s.chanPort c ports = some p) : exec .channelWordArrival s =
      .next ((s.dropWire c 1).sendChan c p (s.senderClock c v) (.word fn rch v.val)) := by
  have hh : headWords c.wire = [v] := hw ▸ headWords_single hv rest
  simp only [exec_channelWordArrival, execChannelWordArrival, h, hh, joined_away hp hl hpkg, hl, hc, hpkg, hn, decide_false,
    Bool.or_self, Bool.false_eq_true, if_false, List.length_singleton]

end

theorem chan?_sendChan (h : s.chan? c.fn c.blk c.ch = some d) (p clk : Nat) (m : LinkMsg) :
    (s.sendChan c p clk m).chan? c.fn c.blk c.ch = some { d with sent := d.sent + 1 } :=
  chan?_mapChan h fun _ => ⟨rfl, rfl, rfl⟩

theorem link_sendChan (s : State) (c : Chan) (p clk : Nat) (m : LinkMsg) : (s.sendChan c p clk m).link p = { s.link p with
    outq := (s.link p).outq ++ [⟨(s.link p).next, true, clk, s.wh.pkg, c.fn, c.ch, c.sent, m⟩]
    next := (s.link p).next + 1 } :=
  link_setLink ..

/-! ## A halo message arrives -/

theorem haloArrival_nothing (h : s.Arriving c) (hw : c.msgWire = []) : exec .haloMessageArrival s = .next s := by
  simp only [exec_haloMessageArrival, execHaloMessageArrival, h, hw]

theorem haloArrival_delivered (h : s.Arriving c) (hp : c.peer = 0) {m : HaloMsg} {rest : List HaloMsg} (hw : c.msgWire = m :: rest)
    {u : State} (hd : s.deliverMsg c m = (some t, u)) : exec .haloMessageArrival s = .next (t.dropMsgWire c) := by
  simp only [exec_haloMessageArrival, execHaloMessageArrival, h, hw, joined_self hp, hd]

/-- A message that a running SC.HALO waits for. -/
theorem deliverMsg_matched (h : s.chan? c.fn c.blk c.ch = some c) {m : HaloMsg} (hc : c.closed = false)
    (hm : s.haloWaiting c m.tag = true) : s.deliverMsg c m = (some (s.mapChan c.fn c.blk c.ch fun y =>
      { y with msgs := y.msgs ++ [{ m with held := false, spilt := 0 }] }), s) := by
  simp only [State.deliverMsg, withEnd_found h, hc, hm, Bool.false_eq_true, if_false, if_true]

/-- A message that is held as words are, all of it in the buffer. -/
theorem deliverMsg_buffered (h : s.chan? c.fn c.blk c.ch = some c) {m : HaloMsg} (hc : c.closed = false)
    (hm : s.haloWaiting c m.tag = false) (hk : msgWords m.bytes.length ≤ s.bufFree c) : s.deliverMsg c m =
      (some (s.mapChan c.fn c.blk c.ch fun y => { y with msgs := y.msgs ++ [{ m with held := true, spilt := 0 }] }), s) := by
  simp only [State.deliverMsg, withEnd_found h, hc, hm, Nat.sub_eq_zero_of_le hk, Bool.false_eq_true, if_false, if_true]

/-- The message goes from the wire to the messages that have come. -/
theorem chan?_messageIn (h : s.chan? c.fn c.blk c.ch = some c) (x : HaloMsg) {m : HaloMsg} {rest : List HaloMsg}
    (hw : c.msgWire = m :: rest) :
    ((s.mapChan c.fn c.blk c.ch fun y => { y with msgs := y.msgs ++ [x] }).dropMsgWire c).chan? c.fn c.blk c.ch =
      some { c with msgWire := rest, msgs := c.msgs ++ [x] } := by
  have hin := chan?_mapChan h (f := fun y => { y with msgs := y.msgs ++ [x] }) fun _ => ⟨rfl, rfl, rfl⟩
  rw [chan?_dropMsgWire hin, hw]
  rfl

/-! ## SPILLFULL -/

theorem spillfull_early (h : s.Arriving c) {b : Blk} {since : Nat} (hb : s.blk? c.fn c.blk = some b)
    (hf : c.fullSince = some since) (ht : s.time < since + b.eff.wdog * 65536) : exec .spillfull s = .next s := by
  simp [exec_spillfull, execSpillfull, h, hb, hf, Eff.wdogCycles, ht]

/-- Once the interval has passed. -/
theorem spillfull_due (h : s.Arriving c) {b : Blk} {since : Nat} (hb : s.blk? c.fn c.blk = some b) (hf : c.fullSince = some since)
    (hr : c.reported = false) (hw : b.eff.wdog ≠ 0) (ht : since + b.eff.wdog * 65536 ≤ s.time) : exec .spillfull s =
      if !s.areaFull c then .next (s.mapChan c.fn c.blk c.ch fun x => { x with fullSince := none })
      else .next (((s.mapChan c.fn c.blk c.ch fun x => { x with reported := true }).consumerFault c tcSPILLFULL).source c.fn
        (s.consumerDie c) 6 0) := by
  simp [exec_spillfull, execSpillfull, h, hb, hf, hr, hw, Eff.wdogCycles, Nat.not_lt.2 ht]

end

/-! ## The obligation of arrivals -/

/-- Settles O47: a clause for each place that an arriving word or message can go to. -/
theorem arrivalsOnChannels : Obligations.ArrivalsOnChannels := by
  unfold Obligations.ArrivalsOnChannels
  intro s c h
  have hself := chan?_self h
  refine ⟨wordArrival_nothing h, ?_, ?_, ?_, haloArrival_nothing h, ?_, ?_⟩
  · intro v rest hp hw hv
    refine ⟨wordArrival_closed h hp hw hv, fun hc hk => ?_, fun hc hk hf => ?_, fun hc hk hf => ⟨fun hs => ?_, fun hs hg => ?_⟩⟩
    · obtain ⟨t, e, hm, ht⟩ := wordArrival_buffered h hp (hw ▸ headWords_single hv rest) hc (by exact hk)
      exact ⟨t, _, e, hm, ht, rfl, rfl, by rw [hw]; rfl⟩
    · exact wordArrival_stays h hp hw hv hc hk (spillTry_fault hf 8)
    · refine ⟨_, _, wordArrival_stays h hp hw hv hc hk (spillTry_full hf hs), chan?_mapChan hself fun _ => ⟨rfl, rfl, rfl⟩,
        rfl, rfl, rfl, ?_⟩
      cases c.fullSince <;> rfl
    · obtain ⟨t, e, hm, ht⟩ := wordArrival_spilled h hp hw hv hc hk hf hs hg
      exact ⟨t, _, e, ht, rfl, rfl, rfl, hm⟩
  · intro v z rest hp hw hv hz hc hk
    obtain ⟨t, e, -, ht⟩ := wordArrival_buffered h hp (hw ▸ headWords_pair hv hz rest) hc (by exact hk)
    exact ⟨t, _, e, ht, rfl, by rw [hw]; rfl⟩
  · intro v rest pkg fn rch ports p hw hv hl hp hpkg hc
    refine ⟨wordArrival_noPort h hw hv hl hp hpkg hc, fun hn =>
      ⟨_, s.senderClock c v, wordArrival_link h hw hv hl hp hpkg hc hn, ?_, link_sendChan ..⟩⟩
    rw [chan?_sendChan (chan?_dropWire hself 1), hw]
    rfl
  · intro m rest hp hw hc
    exact ⟨fun hm => ⟨_, haloArrival_delivered h hp hw (deliverMsg_matched hself hc hm), chan?_messageIn hself _ hw⟩,
      fun hm hk => ⟨_, _, haloArrival_delivered h hp hw (deliverMsg_buffered hself hc hm hk), chan?_messageIn hself _ hw,
        rfl, rfl⟩⟩
  · intro b since hb hf hr hw
    refine ⟨spillfull_early h hb hf, fun ht => ⟨fun ha => ?_, fun ha => ?_⟩⟩
    · rw [spillfull_due h hb hf hr hw ht, ha, Bool.not_false, if_pos rfl]
    · rw [spillfull_due h hb hf hr hw ht, ha, Bool.not_true, if_neg Bool.false_ne_true]
      rfl

end Sys2Proof.Machine
end

/-!
SUPPORT. Allocation (R46, R47, R366 to R368, R381 to R385): the order of entries, the slot that a head task takes, what a placement
writes, and the decision of one die where the others have nothing queued.
-/
section

namespace Sys2Proof.Machine

/-! ## The order of entries -/

theorem sortBy_swap {α : Type} {lt : α → α → Bool} {x y : α} (h : lt y x = true) (h' : lt x y = false) : sortBy lt [x, y] = [y, x] := by
  simp [sortBy, insertBy, h, h']

theorem before_of_effPrio {now : Nat} {x y : QEntry} (h : x.effPrio now < y.effPrio now) :
    QEntry.before now y x = true ∧ QEntry.before now x y = false := by
  simp [QEntry.before, h, Nat.ne_of_gt h, Nat.ne_of_lt h, Nat.le_of_lt h]

/-- The entry of the higher effective priority is tried first. -/
theorem ranked_pair {d : Die} {now : Nat} {x y : QEntry} (hq : d.queue = [x, y]) (h : x.effPrio now < y.effPrio now) :
    d.ranked now = [y, x] := by
  obtain ⟨hyx, hxy⟩ := before_of_effPrio h
  rw [Die.ranked, hq, sortBy_swap hyx hxy]

theorem effPrio_eq (e : QEntry) (now : Nat) : e.effPrio now = if e.prio = 7 ∨ e.age = 0 then e.prio.toNat
    else min 6 (e.prio.toNat + (now - e.since) / (512 * 2 ^ e.age.toNat)) := by
  have hp : 2 ^ (e.age.toNat + 9) = 512 * 2 ^ e.age.toNat := by rw [Nat.pow_add, Nat.mul_comm]
  simp only [QEntry.effPrio, hp, Bool.or_eq_true, decide_eq_true_eq]

/-! ## The slot for a head task -/

section

variable {s s0 : State} {b : Blk} {n m k lo : Nat} {c : BitVec 4}

theorem stonesFit_iff : s.stonesFit b n = true ↔ ∀ x ∈ s.lineage b.fn b.addr, x.useStones + n ≤ x.eff.stones := by
  simp [State.stonesFit]

theorem stonesFit_false (h : ∃ x ∈ s.lineage b.fn b.addr, x.eff.stones < x.useStones + n) : s.stonesFit b n = false := by
  rw [Bool.eq_false_iff, ne_eq, stonesFit_iff]
  push Not
  exact h

/-- The first aligned free slot of the first mill in canonical order (R46). -/
theorem firstSlot_eq {rest : List (Nat × Nat)} (hm : s.millsOf b = (m, k) :: rest)
    (hl : (slotStarts n).find? (fun i => s.slotFree m i n) = some lo) (hc : s.freeCtx m = some c) :
    s.firstSlot b n = some (m, k, lo, c) := by
  simp only [State.firstSlot, hm, List.findSome?_cons, hl, hc]

/-- A canonical number names one mill. -/
theorem millsOf_unique {x : Nat × Nat} (hx : x ∈ s.millsOf b) (hm : (m, x.2) ∈ s.millsOf b) : x.1 = m := by
  have hget : ∀ {x : Nat × Nat}, x ∈ s.millsOf b → (s.fn b.fn).mills[x.2]? = some x.1 := by
    intro x hx
    obtain ⟨i, hi⟩ := List.mem_iff_getElem?.1 (List.mem_of_mem_filter hx)
    obtain ⟨h1, h2⟩ := List.getElem?_zip_eq_some.1 hi
    obtain ⟨_, h3⟩ := List.getElem?_eq_some_iff.1 h2
    rwa [← h3, List.getElem_range]
  exact Option.some.inj ((hget hx).symm.trans (hget hm))

/-- The drawn slot (R366, R367). -/
theorem drawnSlot_eq {i z : Nat} (hm : (m, k) ∈ s.millsOf b) (hz : z = drawSlot b.eff.seed (b.eff.cmills * (16 / n)) i)
    (hlo : lo = n * (z % (16 / n))) (hk : k = z / (16 / n)) (hf : s.slotFree m lo n = true) (hc : s.freeCtx m = some c) :
    s.drawnSlot b n i = some (m, k, lo, c) := by
  have hfind : (s.millsOf b).find? (fun x => x.2 == k) = some (m, k) := by
    cases h : (s.millsOf b).find? (fun x => x.2 == k) with
    | none => exact absurd (List.find?_eq_none.1 h _ hm) (by simp)
    | some x =>
      obtain ⟨x1, x2⟩ := x
      have h2 : x2 = k := by simpa using List.find?_some h
      subst h2
      have h1 : x1 = m := millsOf_unique (List.mem_of_find?_eq_some h) hm
      rw [h1]
  subst hz hlo hk
  simp only [State.drawnSlot, hfind, hf, hc, Bool.not_true, Bool.false_eq_true, if_false, Option.map_some]

/-! ## A placement -/

/-- `u` is `s` with changes to channels and blocks alone. -/
def State.EndsOnly (s u : State) : Prop := u = { s with chans := u.chans, blks := u.blks }

theorem endsOnly_refit {u : State} (h : s.EndsOnly u) (x : Chan) (ws : List ChWord) : s.EndsOnly (u.refit x ws) := by
  unfold State.EndsOnly at h ⊢
  rw [h]
  rfl

theorem endsOnly_fillBufs (s : State) (t : TaskId) : s.EndsOnly (s.fillBufs t) :=
  foldl_keeps (P := s.EndsOnly) (fun _ x h => endsOnly_refit h x x.front) _ rfl

theorem focus_head {t : TaskId} {x : Task} {l : List Task} (hme : s.me.id ≠ t) (hl : s.tasks = x :: l) (hx : x.id = t) :
    s.focus t = some { s with me := x, tasks := s.me :: s.tasks.filter fun y => y.id != t } := by
  simp only [State.focus, if_neg hme, hl, List.find?_cons, hx, beq_self_eq_true]

/-- The task that a placement creates, in the slot it takes. -/
def State.placedNew (s : State) (w : Want) (x : Nat × Nat × Nat × BitVec 4) : Task :=
  { newTask s w with st := .placed, mill := x.1, canon := x.2.1, stone := x.2.2.1, ctxNo := x.2.2.2, placedAt := s.time, moveTo := none }

/-- The first placement of a task whose block has its header: the task is in focus, the entry goes on, and no memory is written. -/
theorem placeTask_new {e : QEntry} {w : Want} {x : Nat × Nat × Nat × BitVec 4} (hh : w.b.hdr.isSome = true) (ho : w.old = false)
    (ht : s.task? w.id = none) : (s.placeTask n e w x).mem = s.mem ∧ (s.placeTask n e w x).me = s.placedNew w x ∧
      (s.placeTask n e w x).dies = (s.setDie n ((s.die n).advance e s.time)).dies := by
  have hme : s.me.id ≠ w.id := by
    simpa using List.find?_eq_none.1 ht s.me (List.mem_cons_self ..)
  unfold State.placeTask
  extract_lets s1 s2 s3 s4
  have hs3 : s3 = s2 := if_pos hh
  have hs4 : s4 = { s2 with tasks := newTask s w :: s2.tasks } := by
    simp only [s4, ho, hs3, Bool.false_eq_true, if_false]
    rfl
  have hf : s4.focus w.id = some { s4 with me := newTask s w, tasks := s4.me :: s4.tasks.filter fun y => y.id != w.id } :=
    focus_head (by rw [hs4]; exact hme) (by rw [hs4]) rfl
  have ha := endsOnly_fillBufs (s4.asTask w.id fun st => st.takeSlot x.1 x.2.1 x.2.2.1 x.2.2.2) w.id
  rw [State.EndsOnly] at ha
  rw [ha, State.asTask, hf, hs4]
  exact ⟨rfl, rfl, rfl⟩

/-! ## The decision of a die -/

theorem tryEntries_nil (s : State) (n : Nat) (first : Bool) : tryEntries n first [] s = (s, none) := by
  cases first <;> rfl

theorem dieDecision_idle {a : State × List (Nat × Nat × Nat)} (h0 : (s0.die n).queue = []) (h : (a.1.die n).queue = []) :
    dieDecision s0 a n = a := by
  simp [dieDecision, Die.ranked, h0, h, sortBy, tryEntries_nil]

theorem foldl_dieDecision_idle {l : List Nat} {a : State × List (Nat × Nat × Nat)} (h0 : ∀ k ∈ l, (s0.die k).queue = [])
    (h : ∀ k ∈ l, (a.1.die k).queue = []) : l.foldl (dieDecision s0) a = a := by
  induction l with
  | nil => rfl
  | cons k l ih =>
    rw [List.forall_mem_cons] at h0 h
    rw [List.foldl_cons, dieDecision_idle h0.1 h.1, ih h0.2 h.2]

theorem dieDecision_first (s : State) (n : Nat) : (dieDecision s (s, []) n).1 = (tryEntries n true ((s.die n).ranked s.time) s).1 := by
  simp [dieDecision, taken]

theorem die_of_dies {u : State} (h : u.dies = s.dies) (k : Nat) : u.die k = s.die k := by
  simp only [State.die, h]

theorem die_setDie_ne {d : Die} (h : k ≠ n) : (s.setDie n d).die k = s.die k := aget_aset_ne _ _ _ h

/-- Where one die alone has entries, the decision is that of its allocator. -/
theorem allocatorDecision_one {u : State} {d : Die} (hn : n < 8) (hq : ∀ k, k < 8 → k ≠ n → (s.die k).queue = [])
    (hu : (tryEntries n true ((s.die n).ranked s.time) s).1 = u) (hd : u.dies = (s.setDie n d).dies) :
    exec .allocatorDecision s = .next u := by
  obtain ⟨l, l', hl⟩ := List.append_of_mem (List.mem_range.2 hn)
  have hnodup : (l ++ n :: l').Nodup := hl ▸ List.nodup_range
  have hidle : ∀ k ∈ l ++ l', k < 8 ∧ k ≠ n := by
    intro k hk
    refine ⟨List.mem_range.1 (hl ▸ ((List.sublist_cons_self n l').append_left l).subset hk), ?_⟩
    rintro rfl
    exact (List.nodup_middle.1 hnodup).notMem hk
  have hs : ∀ k ∈ l ++ l', (s.die k).queue = [] := fun k hk => hq k (hidle k hk).1 (hidle k hk).2
  rw [List.forall_mem_append] at hs
  rw [exec_allocatorDecision, execAllocatorDecision, show Config.dies = 8 from rfl, hl, List.foldl_append, List.foldl_cons,
    foldl_dieDecision_idle hs.1 hs.1, foldl_dieDecision_idle hs.2, dieDecision_first, hu]
  intro k hk
  rw [dieDecision_first, hu, die_of_dies hd, die_setDie_ne (hidle k (List.mem_append_right _ hk)).2]
  exact hs.2 k hk

/-- An entry whose block has its header wants what the header says. -/
theorem want_hdr {e : QEntry} {h : KHdr} (hb : s.blk? e.fn e.blk = some b) (hh : b.hdr = some h)
    (ht : s.task? ⟨e.fn, e.blk, e.next⟩ = none) : s.want e = some (.ok ⟨b, ⟨e.fn, e.blk, e.next⟩, h, [], false⟩) := by
  simp only [State.want, hb, hh, ht, Option.isSome_none]

theorem tryEntries_placed {e : QEntry} {rest : List QEntry} {w : Want} {x : Nat × Nat × Nat × BitVec 4} {first : Bool}
    (hq : e ∈ (s.die n).queue) (hw : s.want e = some (.ok w)) (hx : s.slotFor w = some x) :
    (tryEntries n first (e :: rest) s).1 = s.placeTask n e w x := by
  simp [tryEntries, hq, hw, hx]

/-- An entry whose stones the budgets do not admit is passed over, and no entry holds the head. -/
theorem tryEntries_unfit {e : QEntry} {w : Want} (hq : e ∈ (s.die n).queue) (hw : s.want e = some (.ok w))
    (hf : s.stonesFit w.b w.hdr.size = false) :
    (tryEntries n true [e] s).1 = s.setDie n { s.die n with holder := none } := by
  simp [tryEntries, hq, hw, State.slotFor, State.holds, hf]

theorem ranked_single {d : Die} {e : QEntry} (h : d.queue = [e]) (now : Nat) : d.ranked now = [e] := by
  rw [Die.ranked, h]
  rfl

theorem advance_single {d : Die} {e : QEntry} (h : d.queue = [e]) (now : Nat) :
    (d.advance e now).queue = if e.next + 1 = e.last then [] else [{ e with next := e.next + 1, since := now }] := by
  simp [Die.advance, h]

/-! ## The hold of the head -/

/-- The best of a list, by any rule that keeps one or the other, is in it. -/
theorem foldl_best_mem {α : Type} {f : Option α → α → Option α} (hf : ∀ o x, f o x = o ∨ f o x = some x) {l : List α} {v : α}
    (h : l.foldl f none = some v) : v ∈ l := by
  have hgen : ∀ (l : List α) (o : Option α), l.foldl f o = some v → o = some v ∨ v ∈ l := by
    intro l
    induction l with
    | nil => exact fun o h => .inl h
    | cons x l ih =>
      intro o h
      rcases ih _ h with h | h
      · rcases hf o x with e | e
        · exact .inl (e ▸ h)
        · exact .inr (by rw [Option.some.inj (e.symm.trans h)]; exact List.mem_cons_self ..)
      · exact .inr (List.mem_cons_of_mem _ h)
  exact (hgen l none h).resolve_left nofun

/-- The victim is a task at least two priorities lower (R385). -/
theorem victim_lower {p : Nat} {v : Task} (h : s.victim b p = some v) : v.eff.prio.toNat + 2 ≤ p ∧ v ∈ s.all := by
  unfold State.victim at h
  extract_lets ms at h
  have hv := foldl_best_mem (fun o x => ?_) h
  · obtain ⟨hall, hp⟩ := List.mem_filter.1 hv
    simp only [Bool.and_eq_true, decide_eq_true_eq] at hp
    obtain ⟨⟨-, hprio⟩, -⟩ := hp
    exact ⟨hprio, hall⟩
  · cases o with
    | none => exact .inr rfl
    | some y =>
      dsimp only
      split
      · exact .inr rfl
      · exact .inl rfl

theorem key_beq (e : QEntry) (fn : Nat) (blk : Word) (i : BitVec 32) :
    (e.key == (fn, blk, i)) = (e.fn == fn && e.blk == blk && e.next == i) := by
  rw [Bool.and_assoc]
  rfl

theorem headHoldPreempt_early {fn since : Nat} {blk : Word} {i : BitVec 32}
    (hh : (s.die s.cur.arg.n).holder = some (fn, blk, i, since)) (ht : s.time < since + 65536) :
    exec .headHoldPreempt s = .next s := by
  simp only [exec_headHoldPreempt, execHeadHoldPreempt, hh, ht, if_true]

theorem headHoldPreempt_due {fn since : Nat} {blk : Word} {i : BitVec 32} {e : QEntry} {v : Task}
    (hh : (s.die s.cur.arg.n).holder = some (fn, blk, i, since)) (ht : since + 65536 ≤ s.time)
    (he : (s.die s.cur.arg.n).queue.find? (fun e => e.fn == fn && e.blk == blk && e.next == i) = some e)
    (hb : s.blk? fn blk = some b) (hv : s.victim b (e.effPrio s.time) = some v) : exec .headHoldPreempt s =
      .next ((s.setDie s.cur.arg.n { s.die s.cur.arg.n with holder := some (fn, blk, i, s.time) }).preemptLater v.id) := by
  simp only [exec_headHoldPreempt, execHeadHoldPreempt, hh, Nat.not_lt.2 ht, key_beq, he, hb, hv, if_false]

end

/-! ## The obligation of allocation -/

/-- Settles O51: the order of two entries, the one entry that cannot be placed and the one that can, and the hold of a head. -/
theorem allocation : Obligations.Allocation := by
  unfold Obligations.Allocation
  intro s
  refine ⟨⟨_, rfl⟩, fun d now x y => ranked_pair, effPrio_eq, ?_, ?_⟩
  · intro n e b h hn hq hother hb hh ht
    have hmem : e ∈ (s.die n).queue := hq ▸ List.mem_singleton_self e
    have hw := want_hdr hb hh ht
    have hr := ranked_single hq s.time
    refine ⟨fun hunfit => ?_, fun hfit m k lo c hord hdet hc => ?_⟩
    · have hu := hr ▸ tryEntries_unfit hmem hw (stonesFit_false hunfit)
      exact ⟨_, allocatorDecision_one hn hother hu rfl, rfl, rfl, rfl, by rw [die_setDie, hq]⟩
    · have hslot : s.slotFor ⟨b, ⟨e.fn, e.blk, e.next⟩, h, [], false⟩ = some (m, k, lo, c) := by
        simp only [State.slotFor, stonesFit_iff.2 hfit, Bool.not_true, Bool.false_eq_true, if_false]
        cases hb : b.eff.det with
        | false =>
          obtain ⟨rest, hm, hl⟩ := hord hb
          exact firstSlot_eq hm hl hc
        | true =>
          obtain ⟨hm, hlo, hk, hf⟩ := hdet hb
          exact drawnSlot_eq hm rfl hlo hk hf hc
      have hu := hr ▸ tryEntries_placed (first := true) (rest := []) hmem hw hslot
      obtain ⟨hmem', hme, hdies⟩ := placeTask_new (n := n) (e := e) (w := ⟨b, ⟨e.fn, e.blk, e.next⟩, h, [], false⟩)
        (x := (m, k, lo, c)) (by rw [hh]; rfl) rfl ht
      refine ⟨_, allocatorDecision_one hn hother hu hdies, hmem', ?_⟩
      rw [hme, die_of_dies hdies, die_setDie, advance_single hq]
      exact ⟨rfl, rfl, rfl, rfl, rfl, rfl, rfl, rfl, rfl, rfl, rfl, rfl, rfl⟩
  · intro d fn blk i since hd hh
    subst hd
    refine ⟨headHoldPreempt_early hh, fun e b v ht he hb hv => ?_⟩
    obtain ⟨hprio, hall⟩ := victim_lower hv
    exact ⟨hprio, hall, headHoldPreempt_due hh ht he hb hv⟩

end Sys2Proof.Machine
end

/-!
SUPPORT. What shared operations of a task's life leave alone: the counters' records (R436), the counts of a block (R40, R464), and
what a task gives back as it leaves its mill (R37, R44, R208).
-/
section

namespace Sys2Proof.Machine

/-! ## Records of the acting task -/

/-- A function without what trace records and vectors write in it. -/
def Fn.quiet (f : Fn) : Fn := { f with msix := 0, frozenDies := [] }

/-- `u` is `s` after records of the acting task, which leave their traces and move its counters alone. -/
structure State.Recorded (s u : State) : Prop where
  rest : u = { s with me := u.me, fns := u.fns, mills := u.mills, trigSrc := u.trigSrc }
  me : ∃ v, u.me = { s.me with ctx := { s.me.ctx with ctrs := v } }
  fns : ∀ n, (u.fn n).quiet = (s.fn n).quiet

theorem State.Recorded.refl (s : State) : s.Recorded s := ⟨rfl, ⟨_, rfl⟩, fun _ => rfl⟩

theorem State.Recorded.trans {s u v : State} (h : s.Recorded u) (h' : u.Recorded v) : s.Recorded v where
  rest := by rw [h'.rest, h.rest]
  me := by
    obtain ⟨x, hx⟩ := h.me
    obtain ⟨y, hy⟩ := h'.me
    exact ⟨y, by rw [hy, hx]⟩
  fns n := (h'.fns n).trans (h.fns n)

theorem State.Recorded.mills_fn {s u : State} (h : s.Recorded u) (n : Nat) : (u.fn n).mills = (s.fn n).mills :=
  (congrArg Fn.mills (h.fns n) :)

theorem State.Recorded.rpbusy {s u : State} (h : s.Recorded u) (n : Nat) : (u.fn n).rpbusy = (s.fn n).rpbusy :=
  (congrArg Fn.rpbusy (h.fns n) :)

theorem quiet_setFn {s : State} {n : Nat} {f : Fn} (h : f.quiet = (s.fn n).quiet) (k : Nat) :
    ((s.setFn n f).fn k).quiet = (s.fn k).quiet := by
  by_cases hk : k = n
  · rw [hk, fn_setFn, h]
  · exact congrArg Fn.quiet (aget_aset_ne _ _ _ hk)

theorem recorded_setFn {s : State} {n : Nat} {f : Fn} (h : f.quiet = (s.fn n).quiet) : s.Recorded (s.setFn n f) :=
  ⟨rfl, ⟨_, rfl⟩, quiet_setFn h⟩

theorem recorded_trace (s : State) (k : Nat) (a b : Word) : s.Recorded (s.trace k a b) := by
  unfold State.trace State.traceOf
  dsimp only
  split
  · exact .refl s
  · split
    · exact recorded_setFn rfl
    · exact ⟨rfl, ⟨_, rfl⟩, fun _ => rfl⟩

theorem recorded_msix (s : State) (n v : Nat) : s.Recorded (s.msix n v) := recorded_setFn rfl

theorem recorded_mySource (s : State) (b line : Nat) : s.Recorded (s.mySource b line) := ⟨rfl, ⟨_, rfl⟩, fun _ => rfl⟩

theorem recorded_wrapRecord (s : State) (i : Fin 4) : s.Recorded (s.wrapRecord i) := by
  unfold State.wrapRecord
  dsimp only
  split
  · exact .refl s
  · have hctrs : ∀ v : Ctx → Vector Counter 4, s.Recorded (s.mapCtx fun x => { x with ctrs := v x }) := fun v => ⟨rfl, ⟨_, rfl⟩, fun _ => rfl⟩
    exact (((hctrs _).trans (recorded_trace ..)).trans (recorded_msix ..)).trans (recorded_mySource ..)

theorem recorded_wrapRecords (s : State) : s.Recorded s.wrapRecords :=
  foldl_keeps (P := s.Recorded) (fun _ i h => h.trans (recorded_wrapRecord _ i)) _ (.refl s)

/-- A counter whose wrap has been recorded. -/
def Counter.settled (c : Counter) : Counter := { c with wrapped := none }

theorem wrapRecord_ctrs (s : State) (i : Fin 4) :
    (s.wrapRecord i).me.ctx.ctrs = s.me.ctx.ctrs.set i s.me.ctx.ctrs[i].settled := by
  unfold State.wrapRecord
  dsimp only
  split
  · rename_i h
    have hc : s.me.ctx.ctrs[i].settled = s.me.ctx.ctrs[i] := by rw [Counter.settled, ← h]
    rw [hc]
    exact (Vector.set_getElem_self ..).symm
  · simp only [State.mySource, source_me, msix_me, State.trace, traceOf_me]
    rfl

/-- Of each counter the wrap is recorded, and its value stays. -/
theorem wrapRecords_ctrs (s : State) (i : Fin 4) : s.wrapRecords.me.ctx.ctrs[i] = s.me.ctx.ctrs[i].settled := by
  have hgen : ∀ (l : List (Fin 4)) (s : State), (l.foldl State.wrapRecord s).me.ctx.ctrs[i] =
      if i ∈ l then s.me.ctx.ctrs[i].settled else s.me.ctx.ctrs[i] := by
    intro l
    induction l with
    | nil => exact fun s => rfl
    | cons j l ih =>
      intro s
      rw [List.foldl_cons, ih, wrapRecord_ctrs]
      by_cases hij : i = j
      · subst hij
        simp [Counter.settled]
      · have hne : (j : Nat) ≠ i := fun e => hij (Fin.ext e.symm)
        simp [hij, Vector.getElem_set_ne _ _ hne]
  exact (hgen _ s).trans (if_pos (List.mem_finRange i))

/-! ## The counts of a block -/

/-- A block by its key, with its tasks gone and the tasks of its subtree retired. -/
def Blk.tally (b : Blk) : Nat × Word × Nat × BitVec 32 := (b.fn, b.addr, b.gone, b.retired)

/-- `u` is `s` with changes beside the acting task, memory and what blocks count. -/
structure State.Counted (s u : State) : Prop where
  me : u.me = s.me
  mem : u.mem = s.mem
  blocks : u.blks.map Blk.tally = s.blks.map Blk.tally

theorem State.Counted.refl (s : State) : s.Counted s := ⟨rfl, rfl, rfl⟩

theorem State.Counted.trans {s u v : State} (h : s.Counted u) (h' : u.Counted v) : s.Counted v :=
  ⟨h'.me.trans h.me, h'.mem.trans h.mem, h'.blocks.trans h.blocks⟩

theorem blk?_key {s : State} {fn : Nat} {a : Word} {b : Blk} (h : s.blk? fn a = some b) : b.fn = fn ∧ b.addr = a := by
  unfold State.blk? at h
  simpa using List.find?_some h

theorem blk?_tally (s : State) (fn : Nat) (a : Word) :
    (s.blk? fn a).map Blk.tally = (s.blks.map Blk.tally).find? fun x => x.1 == fn && x.2.1 == a := by
  rw [State.blk?, List.find?_map]
  rfl

/-- A block is there still, with its counts. -/
theorem State.Counted.blk? {s u : State} (h : s.Counted u) {fn : Nat} {a : Word} {b : Blk} (hb : s.blk? fn a = some b) :
    ∃ x, u.blk? fn a = some x ∧ x.gone = b.gone ∧ x.retired = b.retired := by
  have ht := blk?_tally u fn a
  rw [h.blocks, ← blk?_tally, hb, Option.map_some, Option.map_eq_some_iff] at ht
  obtain ⟨x, hx, e⟩ := ht
  simp only [Blk.tally, Prod.mk.injEq] at e
  obtain ⟨-, -, hgone, hretired⟩ := e
  exact ⟨x, hx, hgone, hretired⟩

/-- Changes to blocks that satisfy a test, none of them to a count. -/
theorem tally_map (l : List Blk) (p : Blk → Bool) {f : Blk → Blk} (hf : ∀ b, (f b).tally = b.tally) :
    (l.map fun b => if p b then f b else b).map Blk.tally = l.map Blk.tally := by
  rw [List.map_map]
  refine List.map_congr_left fun b _ => ?_
  rw [Function.comp_apply]
  split
  · exact hf b
  · rfl

theorem counted_mapLineage (s : State) (fn : Nat) (a : Word) {f : Blk → Blk} (hf : ∀ b, (f b).tally = b.tally) :
    s.Counted (s.mapLineage fn a f) :=
  ⟨rfl, rfl, tally_map s.blks (fun b => b.fn == fn && ((s.lineage fn a).map Blk.addr).contains b.addr) hf⟩

theorem counted_mapBlk (s : State) (fn : Nat) (a : Word) {f : Blk → Blk} (hf : ∀ b, (f b).tally = b.tally) :
    s.Counted (s.mapBlk fn a f) :=
  ⟨rfl, rfl, tally_map s.blks (fun b => b.fn == fn && b.addr == a) hf⟩

theorem counted_foldl {α : Type} {f : State → α → State} (hf : ∀ (s : State) x, s.Counted (f s x)) (l : List α) (s : State) :
    s.Counted (l.foldl f s) :=
  foldl_keeps (P := s.Counted) (fun u x h => h.trans (hf u x)) l (.refl s)

theorem counted_rootEnded (s : State) (fn : Nat) (root : Word) : s.Counted (s.rootEnded fn root) := by
  unfold State.rootEnded
  dsimp only
  split
  · exact ⟨rfl, rfl, rfl⟩
  · exact .refl s

theorem counted_endBlk (s : State) (fn : Nat) (a : Word) (st : BlkSt) (cause : BitVec 8) : s.Counted (s.endBlk fn a st cause) := by
  unfold State.endBlk
  have h : s.Counted (s.mapBlk fn a fun x => { x with st := st, cause := cause, pages := [] }) := counted_mapBlk s fn a fun _ => rfl
  split
  · exact .refl s
  · split
    · exact .refl s
    · dsimp only
      split
      · exact h.trans (counted_rootEnded ..)
      · exact h

theorem counted_settleLevel (s : State) (level : Nat) : s.Counted (s.settleLevel level) := by
  refine counted_foldl (fun s b => ?_) _ s
  split
  · exact counted_endBlk ..
  · exact .refl s

theorem counted_settle (s : State) : s.Counted s.settle := counted_foldl counted_settleLevel _ s

theorem counted_reapFlumes (s : State) : s.Counted s.reapFlumes := by
  refine counted_foldl (fun s f => ?_) _ s
  have h : s.Counted (s.mapFlume f.fn f.hdr fun x => { x with gone := true }) := ⟨rfl, rfl, rfl⟩
  exact h.trans (counted_mapLineage _ f.fn f.owner.blk fun _ => rfl)

theorem counted_dropPlane (s : State) (p : Plane) : s.Counted (s.dropPlane p) := counted_mapLineage _ _ _ fun _ => rfl

theorem counted_freeStones (s : State) (t : Task) : s.Counted (s.freeStones t) :=
  (counted_mapLineage s t.id.fn t.id.blk (f := fun b => { b with useStones := b.useStones - t.size }) fun _ => rfl).trans
    ⟨rfl, rfl, rfl⟩

theorem blk?_mapBlk {s : State} {fn : Nat} {a : Word} {b : Blk} {f : Blk → Blk} (hb : s.blk? fn a = some b)
    (hf : ∀ x, (f x).fn = x.fn ∧ (f x).addr = x.addr) : (s.mapBlk fn a f).blk? fn a = some (f b) := by
  refine (find?_map_ite hb fun x => ?_).trans (congrArg some (if_pos (List.find?_some hb :)))
  obtain ⟨h1, h2⟩ := hf x
  rw [h1, h2]

/-- A block stands in its own lineage. -/
theorem mem_lineage_self {s : State} {fn : Nat} {a : Word} {b : Blk} (hb : s.blk? fn a = some b) :
    a ∈ (s.lineage fn a).map (·.addr) := by
  rw [State.lineage, State.chain, hb, List.map_cons, (blk?_key hb).2]
  exact List.mem_cons_self ..

theorem blk?_mapLineage {s : State} {fn : Nat} {a : Word} {b : Blk} {f : Blk → Blk} (hb : s.blk? fn a = some b)
    (hf : ∀ x, (f x).fn = x.fn ∧ (f x).addr = x.addr) : (s.mapLineage fn a f).blk? fn a = some (f b) := by
  have hin : (b.fn == fn && ((s.lineage fn a).map (·.addr)).contains b.addr) = true := by
    obtain ⟨h1, h2⟩ := blk?_key hb
    rw [h1, h2, beq_self_eq_true, Bool.true_and]
    exact List.contains_iff_mem.2 (mem_lineage_self hb)
  refine (find?_map_ite hb fun x => ?_).trans (congrArg some (if_pos hin))
  obtain ⟨h1, h2⟩ := hf x
  rw [h1, h2]

/-! ## Leaving a mill -/

/-- The task without what it held on its mill (R37). -/
def Task.left (t : Task) (st : TaskSt) : Task :=
  { t with
    st := st, saving := false, moveTo := none, waitsStart := false
    run := .empty, cmds := [], window := []
    ctx := { t.ctx with st := .free, wait := .none, parked := none, pend := [] } }

/-- What a task gives back as it leaves its mill: its stones and the charges of its planes. -/
def State.givenBack (s : State) : State :=
  ((if s.me.isPlaced then s.wrapRecords.freeStones s.me else s.wrapRecords).dropPlane s.me.run.act).dropPlane s.me.run.inact

theorem leaveMill_eq (s : State) (st : TaskSt) : s.leaveMill st = s.givenBack.mapMe fun t => t.left st := rfl

theorem counted_givenBack (s : State) : s.wrapRecords.Counted s.givenBack := by
  have h : s.wrapRecords.Counted (if s.me.isPlaced then s.wrapRecords.freeStones s.me else s.wrapRecords) := by
    split
    · exact counted_freeStones ..
    · exact .refl _
  exact (h.trans (counted_dropPlane ..)).trans (counted_dropPlane ..)

theorem dropPlane_fns (s : State) (p : Plane) : (s.dropPlane p).fns = s.fns := rfl

theorem freeStones_fns (s : State) (t : Task) : (s.freeStones t).fns = s.fns := rfl

theorem givenBack_fns (s : State) : s.givenBack.fns = s.wrapRecords.fns := by
  rw [State.givenBack, dropPlane_fns, dropPlane_fns]
  split
  · exact freeStones_fns ..
  · rfl

theorem leaveMill_me (s : State) (st : TaskSt) : (s.leaveMill st).me = s.wrapRecords.me.left st := by
  rw [leaveMill_eq, mapMe_me, (counted_givenBack s).me]

theorem leaveMill_mem (s : State) (st : TaskSt) : (s.leaveMill st).mem = s.mem := by
  rw [leaveMill_eq, mapMe_mem, (counted_givenBack s).mem, (recorded_wrapRecords s).rest]

/-- A block is there still as a task leaves its mill, with its counts. -/
theorem leaveMill_blk? {s : State} {fn : Nat} {a : Word} {b : Blk} (hb : s.blk? fn a = some b) (st : TaskSt) :
    ∃ x, (s.leaveMill st).blk? fn a = some x ∧ x.gone = b.gone ∧ x.retired = b.retired := by
  have hw : s.wrapRecords.blk? fn a = some b := by rw [(recorded_wrapRecords s).rest]; exact hb
  obtain ⟨x, hx, hcounts⟩ := (counted_givenBack s).blk? hw
  exact ⟨x, by rw [leaveMill_eq]; exact hx, hcounts⟩

end Sys2Proof.Machine
end

/-!
SUPPORT. The life of a task (R36, R37, R148 to R151, R158, R208): how its start and its restore, its pre-emption and the end of its
save, and its retirement come out.
-/
section

namespace Sys2Proof.Machine

/-! ## The end of a task -/

theorem replayRecord_me (s : State) (t : Task) (cause : BitVec 8) : (s.replayRecord t cause).me = s.me := by
  unfold State.replayRecord
  dsimp only
  split
  · rfl
  · split
    · rfl
    · exact devPut_me ..

/-- Outside a replay no record is written (R442). -/
theorem replayRecord_none {s : State} {t : Task} (h : (s.fn t.id.fn).rpbusy = false) (cause : BitVec 8) :
    s.replayRecord t cause = s := by
  simp [State.replayRecord, State.replays, h]

theorem finishTask_me (s : State) (exit : Bool) (cause : BitVec 8) : (s.finishTask exit cause).me =
    { s.wrapRecords.me.left (if exit then .ended else .killed) with cause := cause, counted := true, stop := .none } := by
  unfold State.finishTask
  extract_lets t s3 s4 s5
  have h5 : s5.me = s3.me := by
    simp only [s5, s4]
    split <;> rfl
  rw [(counted_settle _).me, (counted_reapFlumes _).me, replayRecord_me, h5, mapMe_me, leaveMill_me]

/-- A task that ends by EXIT is counted in its block, and outside a replay no memory is written. -/
theorem finishTask_exit {s : State} {b : Blk} (hr : (s.fn s.me.id.fn).rpbusy = false) (hb : s.blk? s.me.id.fn s.me.id.blk = some b) :
    (s.finishTask true 0).mem = s.mem ∧ ∃ x, (s.finishTask true 0).blk? s.me.id.fn s.me.id.blk = some x ∧
      x.gone = b.gone + 1 ∧ x.retired = b.retired + 1 := by
  obtain ⟨x, hx, hgone, hretired⟩ := leaveMill_blk? hb .ended
  have hfn : ((s.leaveMill .ended).fn s.me.id.fn).rpbusy = false := by
    rw [← hr, ← (recorded_wrapRecords s).rpbusy, State.fn, State.fn, leaveMill_eq, mapMe_fns, givenBack_fns]
  unfold State.finishTask
  extract_lets t s3 s4 s5
  have hx3 : s3.blk? t.id.fn t.id.blk = some x := hx
  have hx4 := blk?_mapBlk hx3 (f := fun b => { b with
    gone := b.gone + 1
    badTask := if true then b.badTask else lowerBad b.badTask t.id.idx 0
    sigs := b.sigs ++ [(t.id.idx, t.ctx.sig)] }) fun _ => ⟨rfl, rfl⟩
  have hx5 := blk?_mapLineage hx4 (f := fun b => { b with retired := b.retired + 1 }) fun _ => ⟨rfl, rfl⟩
  have hc : s5.Counted (s5.replayRecord t 0).reapFlumes.settle := by
    rw [replayRecord_none (by exact hfn)]
    exact (counted_reapFlumes _).trans (counted_settle _)
  refine ⟨hc.mem.trans (leaveMill_mem s .ended), ?_⟩
  obtain ⟨y, hy, hgone', hretired'⟩ := hc.blk? hx5
  exact ⟨y, hy, hgone'.trans (congrArg (· + 1) hgone), hretired'.trans (congrArg (· + 1) hretired)⟩

/-! ## Retirement -/

theorem lateDrops_none {s : State} (h : s.me.det.drops = []) : s.lateDrops = s.mapMe Task.trimWindow := by
  have hd : ({ s.me.det with drops := [] } : DetTask) = s.me.det := by rw [← h]
  simp only [State.lateDrops, h, List.filter_nil, List.foldl_nil, State.mapMe, hd]

section

variable {s : State} (hst : s.me.st = .draining) (hsv : s.me.saving = false)

include hst hsv

/-- Outside deterministic mode, with no deferred drop. -/
theorem taskRetire_plain (hd : s.me.eff.det = false) (hdrops : s.me.det.drops = []) : exec .taskRetire s =
    if (s.me.trimWindow).mayRetire then .next ((s.mapMe Task.trimWindow).finishTask true 0) else .next (s.mapMe Task.trimWindow) := by
  have hd' : s.me.trimWindow.eff.det = false := hd
  simp [exec_taskRetire, execTaskRetire, hst, hsv, hd, lateDrops_none hdrops, State.retiresLater, hd']

/-- In deterministic mode, before the merge (log 16). -/
theorem taskRetire_det (hd : s.me.eff.det = true) (hm : s.me.merged = false) (hl : s.me.mayLeave = true) :
    exec .taskRetire s = .next (s.leaveMill .exited) := by
  have hp : s.me.mayRetire = false := by simp [Task.mayRetire, Task.pending, hd, hm, hst]
  simp [exec_taskRetire, execTaskRetire, hst, hsv, hd, hp, hl]

theorem mayLeave_eq : s.me.mayLeave = (!s.me.busy && s.me.stop == .none && !s.me.run.tagWaits) := by
  simp [Task.mayLeave, hst, hsv]

/-- A task whose commands have not retired waits. -/
theorem retire_busy (hd : s.me.eff.det = false) (hdrops : s.me.det.drops = []) (hb : s.me.busy = true) :
    exec .taskRetire s = .next (s.mapMe Task.trimWindow) := by
  have hl : s.me.trimWindow.mayLeave = false := by
    rw [show s.me.trimWindow.mayLeave = s.me.mayLeave from rfl, mayLeave_eq hst hsv, hb]
    rfl
  have hst' : s.me.trimWindow.st = .draining := hst
  rw [taskRetire_plain hst hsv hd hdrops, if_neg (by simp [Task.mayRetire, hl, hst'])]

/-- A task with nothing left to wait for ends, outside deterministic mode. -/
theorem retire_ends (hd : s.me.eff.det = false) (hz : s.me.det = { DetTask.zero with interval := s.me.det.interval })
    (hb : s.me.busy = false) (hstop : s.me.stop = .none) (ht : s.me.run.tagWaits = false) :
    exec .taskRetire s = .next ((s.mapMe Task.trimWindow).finishTask true 0) := by
  have hl : s.me.trimWindow.mayLeave = true := by
    rw [show s.me.trimWindow.mayLeave = s.me.mayLeave from rfl, mayLeave_eq hst hsv, hb, hstop, ht]
    rfl
  have hp : s.me.trimWindow.pending = false := by
    rw [show s.me.trimWindow.pending = s.me.pending from rfl, Task.pending, hd, hz]
    rfl
  rw [taskRetire_plain hst hsv hd (by rw [hz]; rfl), if_pos (by simp [Task.mayRetire, hl, hp])]

end

/-! ## Start (R36) -/

section

variable {s u : State} {p : Plane}

theorem openGroup_me (s : State) : s.openGroup.me = s.me := by
  unfold State.openGroup
  split <;> rfl

theorem openGroup_mem (s : State) : s.openGroup.mem = s.mem := by
  unfold State.openGroup
  split <;> rfl

theorem begin_mem (s : State) (p : Plane) : (s.begin p).mem = s.mem := openGroup_mem s

theorem begin_me (s : State) (p : Plane) : (s.begin p).me = { s.me with
    run := { Run.empty with
      act := p, elems := p.fresh, ports := List.replicate (4 * s.me.size) .reset, gated := !s.launchStarted }
    ctx := s.startCtx
    det := { DetTask.zero with charged := s.me.det.charged }
    waitsStart := !s.launchStarted
    sampleAt := s.time } := by
  simp only [State.begin, mapMe_me, openGroup_me]

/-- A counter plan changes the counters alone (R441). -/
theorem planCtrs_eq (s : State) (c : Ctx) : s.planCtrs c = { c with ctrs := (s.planCtrs c).ctrs } := by
  unfold State.planCtrs
  dsimp only
  split <;> rfl

theorem startCtx_eq (s : State) : s.startCtx = { Ctx.reset with
    pc := s.me.entry, st := .runnable, nseed := s.me.eff.seed, clock := maxTime s s.me.id.fn, sig := s.me.id.idx.setWidth 64
    dbg := if (s.fn s.me.id.fn).attach.contains s.me.id.blk then 1 else 0, lastRetire := s.time
    ctrs := s.startCtx.ctrs } := planCtrs_eq ..

theorem taskStart_wait (hst : s.me.st = .placed) (hc : s.me.ctx.st = .free) (hl : s.loadFrom s.me.cfg s.me.dataBase = .wait) :
    exec .taskStart s = .next s := by
  simp [exec_taskStart, execTaskStart, hst, hc, hl]

theorem taskStart_begins (hst : s.me.st = .placed) (hc : s.me.ctx.st = .free)
    (hl : s.loadFrom s.me.cfg s.me.dataBase = .ok p u) : exec .taskStart s = .next (u.begin p) := by
  simp [exec_taskStart, execTaskStart, hst, hc, hl]

/-- A load that fails ends the task with its cause. -/
theorem taskStart_fails {c : BitVec 8} (hst : s.me.st = .placed) (hc : s.me.ctx.st = .free)
    (hl : s.loadFrom s.me.cfg s.me.dataBase = .failed c u) (hs : u.launchStarted = true) :
    exec .taskStart s = .next ((u.closeChannels u.me.id).finishTask false c) := by
  simp [exec_taskStart, execTaskStart, hst, hc, hl, State.startFailed, hs]

/-! ## Restore (R151) -/

theorem reloadInact_none (h : s.me.run.inact.valid = false) : s.reloadInact = some s := by
  simp [State.reloadInact, h]

/-- The task goes on with the plane that its image named. -/
def State.restoredWith (s : State) (p : Plane) : State :=
  (((s.mapRun fun r => r.relatch p).renumber.mapMe Task.resumed)).writeOwners

theorem taskStart_restores (hst : s.me.st = .placed) (hc : s.me.ctx.st = .swapped)
    (hl : (s.dropPlane s.me.run.act).loadFrom s.me.run.act.addr s.me.run.act.base = .ok p u) (hp : p.id = s.me.run.act.id)
    (hi : u.me.run.inact.valid = false) : exec .taskStart s = .next (u.restoredWith p) := by
  have hr : (u.mapRun fun r => r.relatch p).reloadInact = some (u.mapRun fun r => r.relatch p) := reloadInact_none hi
  simp [exec_taskStart, execTaskStart, hst, hc, hl, hp, hr, State.restoredWith]

/-- An image that differs is refused with CFGREJ. -/
theorem taskStart_differs (hst : s.me.st = .placed) (hc : s.me.ctx.st = .swapped)
    (hl : (s.dropPlane s.me.run.act).loadFrom s.me.run.act.addr s.me.run.act.base = .ok p u) (hp : p.id ≠ s.me.run.act.id) :
    exec .taskStart s = .next (((u.dropPlane p).mapRun fun r => { r with
      act := { r.act with charge := 0 } }).contain s.me.id.fn s.me.id.blk .faulted tcCFGREJ) := by
  simp [exec_taskStart, execTaskStart, hst, hc, hl, hp]

theorem writeOwners_me (s : State) : s.writeOwners.me = s.me :=
  foldl_keeps (P := fun t : State => t.me = s.me) (fun _ _ h => (hdrBlkPut_me ..).trans h) _ rfl

/-- A task that owns no flume writes no OWNER. -/
theorem writeOwners_none (h : ∀ f ∈ s.flumes, f.owner = s.me.id → f.gone = true) : s.writeOwners = s := by
  have hnil : (s.flumes.filter fun f => f.owner == s.me.id && !f.gone) = [] :=
    List.filter_eq_nil_iff.2 fun f hf => by
      simp only [Bool.and_eq_true, beq_iff_eq, Bool.not_eq_true', not_and, Bool.not_eq_false]
      exact h f hf
  rw [State.writeOwners, hnil, List.foldl_nil]

theorem restoredWith_mem (h : ∀ f ∈ u.flumes, f.owner = u.me.id → f.gone = true) (p : Plane) : (u.restoredWith p).mem = u.mem := by
  rw [State.restoredWith, writeOwners_none (by exact h)]
  rfl

theorem restoredWith_ctx (u : State) (p : Plane) : (u.restoredWith p).me.ctx = { u.me.ctx with
    st := if u.me.stop != .none || u.me.ctx.handler then .trapped else .runnable, lastRetire := u.me.placedAt } := by
  rw [State.restoredWith, writeOwners_me]
  rfl

/-! ## Pre-emption (R148, R152) -/

theorem preempt_unstarted (hsv : s.me.saving = false) (hc : s.me.ctx.st = .free ∨ s.me.ctx.st = .swapped) :
    exec .preempt s = .next { s with me := { s.me with moveTo := none } } := by
  rcases hc with hc | hc <;> simp [exec_preempt, execPreempt, hsv, hc, State.mapMe]

theorem preempt_running (hst : s.me.st = .placed) (hsv : s.me.saving = false) (hf : s.me.ctx.st ≠ .free)
    (hw : s.me.ctx.st ≠ .swapped) : exec .preempt s =
      .next (s.stopFirst.mapMe fun t => { t with saving := true, run := { t.run with gated := true } }) := by
  simp [exec_preempt, execPreempt, hsv, hst, hf, hw]

theorem stopRun_mem (s : State) (origin : BitVec 2) (info : Word) : (s.stopRun origin info).mem = s.mem := by
  unfold State.stopRun
  dsimp only
  split
  · rfl
  · split
    · exact trace_mem ..
    · split
      · exact trace_mem ..
      · rfl

theorem nodeStop_mem (s : State) : s.nodeStop.mem = s.mem := by
  unfold State.nodeStop
  split
  · rfl
  · exact stopRun_mem ..

theorem stopFirst_mem (s : State) : s.stopFirst.mem = s.mem := by
  unfold State.stopFirst
  dsimp only
  split
  · exact nodeStop_mem s
  · rw [takePend_mem, nodeStop_mem]

/-- No stop has struck the run. -/
theorem stopFirst_none (hs : s.me.run.stopAt = none) (hp : ∀ y ∈ s.me.ctx.pend, y.sev = false ∧ y.cause ≠ 0x17) : s.stopFirst = s := by
  have hn : s.nodeStop = s := by simp only [State.nodeStop, hs]
  have hf : s.me.ctx.pend.find? Pending.stops = none := List.find?_eq_none.2 fun y hy => by
    obtain ⟨hsev, hcause⟩ := hp y hy
    have hc : (y.cause == tcTRIGSTOP) = false := beq_eq_false_iff_ne.2 hcause
    simp [Pending.stops, hsev, hc]
  simp only [State.stopFirst, hn, hf]

/-! ## The end of a save (R148, R380) -/

theorem blk?_mapMe (s : State) (f : Task → Task) (fn : Nat) (a : Word) : (s.mapMe f).blk? fn a = s.blk? fn a := rfl

theorem die_mapMe (s : State) (f : Task → Task) (n : Nat) : (s.mapMe f).die n = s.die n := rfl

theorem blkDie_eq {x b : Blk} (hc : x.cut = b.cut) (hf : x.fn = b.fn) (hr : x.root = b.root) (ha : x.addr = b.addr)
    (hm : (u.fn b.fn).mills = (s.fn b.fn).mills) : u.blkDie x = s.blkDie b := by
  simp only [State.blkDie, hc, hf, hr, ha, hm]

/-- What is barred from holding the head is no matter of the queue. -/
theorem die_freeStones_queue (s : State) (t : Task) (n : Nat) : ((s.freeStones t).die n).queue = (s.die n).queue := by
  unfold State.freeStones State.die
  dsimp only
  rw [mapLineage_dies]
  induction s.dies with
  | nil => rfl
  | cons d l ih =>
    rw [List.map_cons, aget, aget]
    split
    · rfl
    · exact ih

theorem blk?_freeStones {t : Task} {b : Blk} (hb : s.blk? t.id.fn t.id.blk = some b) :
    (s.freeStones t).blk? t.id.fn t.id.blk = some { b with useStones := b.useStones - t.size } :=
  blk?_mapLineage hb fun _ => ⟨rfl, rfl⟩

/-- The state with the acting task's last records made, its stones given back, and its context saved. -/
def State.savedOut (s : State) : State :=
  ((s.wrapRecords.trace 0x03 0 s.me.ctxid).freeStones s.me).mapMe fun t => { t with
    st := .swapped, saving := false, moveTo := none, imageSt := BitVec.ofNat 8 t.imageState, ctx := t.ctx.saved }

theorem recorded_savedOut (s : State) : s.Recorded (s.wrapRecords.trace 0x03 0 s.me.ctxid) :=
  (recorded_wrapRecords s).trans (recorded_trace ..)

theorem savedOut_mem (s : State) : s.savedOut.mem = s.mem := by
  rw [State.savedOut, mapMe_mem, (counted_freeStones ..).mem, (recorded_savedOut s).rest]

theorem savedOut_me (s : State) : s.savedOut.me = { s.me with
    st := .swapped, saving := false, moveTo := none, imageSt := BitVec.ofNat 8 s.me.imageState
    ctx := { s.me.ctx.saved with ctrs := s.wrapRecords.me.ctx.ctrs } } := by
  obtain ⟨v, hv⟩ := (recorded_wrapRecords s).me
  rw [State.savedOut, mapMe_me, (counted_freeStones ..).me, State.trace, traceOf_me, hv]
  rfl

theorem savedOut_blk? {b : Blk} (hb : s.blk? s.me.id.fn s.me.id.blk = some b) :
    s.savedOut.blk? s.me.id.fn s.me.id.blk = some { b with useStones := b.useStones - s.me.size } := by
  have h : (s.wrapRecords.trace 0x03 0 s.me.ctxid).blk? s.me.id.fn s.me.id.blk = some b := by
    rw [(recorded_savedOut s).rest]
    exact hb
  rw [State.savedOut, blk?_mapMe]
  exact blk?_freeStones h

/-- The die whose queue the task re-enters, and that queue, are as before. -/
theorem savedOut_die (s : State) (b : Blk) :
    s.savedOut.blkDie { b with useStones := b.useStones - s.me.size } = s.blkDie b ∧
    (s.savedOut.die (s.blkDie b)).queue = (s.die (s.blkDie b)).queue := by
  have hm : s.savedOut.fns = (s.wrapRecords.trace 0x03 0 s.me.ctxid).fns := by
    rw [State.savedOut, mapMe_fns, freeStones_fns]
  have hq : (s.savedOut.die (s.blkDie b)).queue = ((s.wrapRecords.trace 0x03 0 s.me.ctxid).die (s.blkDie b)).queue := by
    rw [State.savedOut, die_mapMe, die_freeStones_queue]
  refine ⟨blkDie_eq rfl rfl rfl rfl ?_, ?_⟩
  · rw [← (recorded_savedOut s).mills_fn b.fn, State.fn, hm]
    rfl
  · rw [hq, (recorded_savedOut s).rest]
    rfl

/-- The entry by which a task that is swapped out queues again (R380). -/
def State.again (s : State) (b : Blk) : QEntry := ⟨b.fn, b.addr, s.me.id.idx, s.me.id.idx + 1, b.eff.prio, b.eff.age, s.time⟩

/-- The state in which the task, swapped out, stands in its die's queue. -/
def State.requeued (s : State) (b : Blk) : State := s.savedOut.enqueue (s.blkDie b) (s.again b)

theorem savedOut_time (s : State) : s.savedOut.time = s.time := by
  rw [State.savedOut, mapMe_time, State.freeStones, (recorded_savedOut s).rest]
  rfl

/-- A task that is moved to no slot re-enters its die's queue, once that has room. -/
theorem swapOut_eq {b : Blk} (hb : s.blk? s.me.id.fn s.me.id.blk = some b) (hm : s.me.moveTo = none) : s.swapOut =
    if 4096 ≤ (s.die (s.blkDie b)).count b.eff.prio then none else some (s.requeued b) := by
  obtain ⟨hd, hq⟩ := savedOut_die s b
  have hc : (s.savedOut.die (s.blkDie b)).count b.eff.prio = (s.die (s.blkDie b)).count b.eff.prio := by
    simp only [Die.count, hq]
  have hs : ((s.wrapRecords.trace 0x03 0 s.me.ctxid).freeStones s.me).mapMe (fun t => { t with
    st := .swapped, saving := false, moveTo := none, imageSt := BitVec.ofNat 8 t.imageState, ctx := t.ctx.saved }) =
      s.savedOut := rfl
  simp only [State.swapOut, hs, hm, savedOut_blk? hb, hd, hc, savedOut_time, State.requeued, State.again]

theorem enqueue_me (s : State) (n : Nat) (e : QEntry) : (s.enqueue n e).me = s.me := rfl

theorem enqueue_mem (s : State) (n : Nat) (e : QEntry) : (s.enqueue n e).mem = s.mem := rfl

theorem enqueue_mem_queue (s : State) (n : Nat) (e : QEntry) : e ∈ ((s.enqueue n e).die n).queue := by
  rw [State.enqueue, die_setDie]
  exact List.mem_append_right _ (List.mem_singleton_self e)

/-- Of the task whose save is done, all is as it was but its state and its counters' records. -/
theorem requeued_task (s : State) (b : Blk) : (s.requeued b).me.st = .swapped ∧ (s.requeued b).me.saving = false ∧
    (s.requeued b).me.ctx = { s.me.ctx with st := .swapped, parked := none, ctrs := (s.requeued b).me.ctx.ctrs } ∧
    (∀ i : Fin 4, (s.requeued b).me.ctx.ctrs[i] = { s.me.ctx.ctrs[i] with wrapped := none }) ∧
    (s.requeued b).me.imageSt = BitVec.ofNat 8 s.me.imageState ∧ (s.requeued b).me.run = s.me.run ∧
    (s.requeued b).me.cmds = s.me.cmds := by
  rw [State.requeued, enqueue_me, savedOut_me]
  exact ⟨rfl, rfl, rfl, wrapRecords_ctrs s, rfl, rfl, rfl⟩

theorem requeued_mem (s : State) (b : Blk) : (s.requeued b).mem = s.mem := by
  rw [State.requeued, enqueue_mem, savedOut_mem]

/-- The task queues again. -/
theorem requeued_entry (s : State) (b : Blk) : s.again b ∈ ((s.requeued b).die (s.blkDie b)).queue := enqueue_mem_queue ..

section

variable (hst : s.me.st = .placed) (hsv : s.me.saving = true) (hr : s.slotRetires = false)

include hst hsv hr

/-- A write of the image that fails kills the task (R151). -/
theorem saveDone_fails (hf : Config.saveFails s.free = true) : exec .preemptSaveDone s =
    .next (({ s with free := s.free + 1 } : State).contain s.me.id.fn s.me.id.blk .faulted tcECCUE) := by
  simp [exec_preemptSaveDone, execPreemptSaveDone, execPreemptSaveDone.killAndReturn, hst, hsv, hr, State.choose, hf]

theorem saveDone_out (hf : Config.saveFails s.free = false) : exec .preemptSaveDone s =
    .next ((({ s with free := s.free + 1 } : State).swapOut).getD s) := by
  simp [exec_preemptSaveDone, execPreemptSaveDone, hst, hsv, hr, State.choose, hf]

end

end

/-! ## The obligation of a task's life -/

/-- Settles O50: start and restore, retirement in and outside deterministic mode, pre-emption and the end of its save. -/
theorem taskLife : Obligations.TaskLife := by
  unfold Obligations.TaskLife
  intro s
  refine ⟨fun hst hc => ⟨taskStart_wait hst hc, fun p u hl => ?_, fun c u hl hs => ?_⟩, fun hst hc p u hl => ⟨fun hp hi => ?_,
    taskStart_differs hst hc hl⟩, fun hst hsv hd hz => ⟨fun hb => ?_, fun hb hstop ht hr b hblk => ?_⟩,
    fun hst hsv hd hm hb hstop ht => ?_, fun hst hsv => ⟨preempt_unstarted hsv, fun hf hw => ⟨?_, fun hs hp => ?_⟩⟩,
    fun hst hsv hr => ⟨saveDone_fails hst hsv hr, fun hf hm b hblk => ⟨fun hfull => ?_, fun hroom => ?_⟩⟩⟩
  · refine ⟨_, taskStart_begins hst hc hl, begin_mem u p, ?_⟩
    rw [begin_me, startCtx_eq]
    exact ⟨rfl, rfl, rfl, rfl, rfl, rfl, rfl, rfl, rfl, rfl, rfl, rfl, rfl, rfl, rfl⟩
  · refine ⟨_, taskStart_fails hst hc hl hs, ?_⟩
    rw [finishTask_me]
    exact ⟨rfl, rfl, rfl⟩
  · refine ⟨_, taskStart_restores hst hc hl hp hi, fun hfl => restoredWith_mem hfl p, ?_⟩
    rw [restoredWith_ctx]
    exact ⟨rfl, rfl, rfl, rfl, rfl, rfl, by simp⟩
  · exact ⟨_, retire_busy hst hsv hd (by rw [hz]; rfl) hb, hst, rfl⟩
  · obtain ⟨hmem, x, hx, hgone, hretired⟩ := finishTask_exit (s := s.mapMe Task.trimWindow) hr hblk
    refine ⟨_, x, retire_ends hst hsv hd hz hb hstop ht, hmem, ?_⟩
    rw [finishTask_me]
    exact ⟨rfl, rfl, rfl, rfl, rfl, hx, hgone, hretired⟩
  · have hl : s.me.mayLeave = true := by rw [mayLeave_eq hst hsv, hb, hstop, ht]; rfl
    obtain ⟨v, hv⟩ := (recorded_wrapRecords s).me
    refine ⟨_, taskRetire_det hst hsv hd hm hl, leaveMill_mem .., ?_⟩
    rw [leaveMill_me, hv]
    exact ⟨rfl, rfl, rfl, rfl, rfl, rfl⟩
  · exact ⟨_, preempt_running hst hsv hf hw, rfl, rfl, stopFirst_mem s⟩
  · rw [preempt_running hst hsv hf hw, stopFirst_none hs hp]
    rfl
  · rw [saveDone_out hst hsv hr hf, swapOut_eq (s := { s with free := s.free + 1 }) hblk hm]
    exact congrArg (fun o => Host.Outcome.next (Option.getD o s)) (if_pos hfull)
  · have hout := (swapOut_eq (s := { s with free := s.free + 1 }) hblk hm).trans (if_neg (Nat.not_le.2 hroom))
    obtain ⟨hst', hsv', hctx, hctrs, himg, hrun, hcmds⟩ := requeued_task { s with free := s.free + 1 } b
    have hexec : exec .preemptSaveDone s = .next (({ s with free := s.free + 1 } : State).requeued b) := by
      rw [saveDone_out hst hsv hr hf, hout, Option.getD_some]
    exact ⟨_, hexec, requeued_mem { s with free := s.free + 1 } b, hst', hsv', hctx, hctrs, himg, hrun, hcmds, _,
      requeued_entry { s with free := s.free + 1 } b, rfl, rfl, rfl, rfl, rfl, rfl⟩

end Sys2Proof.Machine
end

/-!
SUPPORT. The registers after reset (R405, R406, R415, R437), and SRAM banks and pond tiles (R92 to R99): how a bank request is
judged, what the beginning and the end of a mode change do, and how a push program starts, delivers its units and stops.
-/
section

namespace Sys2Proof.Machine

/-! ## The registers after reset (R405, R406, R415, R437) -/

theorem fn_reset (n : Nat) : State.reset.fn n = .reset := rfl

/-- Outside recovery and before a thermal shutdown every register is reached. -/
theorem bar0_reset (n off : Nat) : State.reset.bar0 n off = some (State.reset.bar0Word n off) := rfl

/-- Every function has its reset values, none owns a trigger line, and no page holds a secure range. -/
theorem bar0Word_reset (n : Nat) {off : Nat} (hflctl : off ≠ 0x050) (htrctl : off ≠ 0x448) : State.reset.bar0Word n off = 0 := by
  unfold State.bar0Word
  split
  case h_8 => exact absurd rfl hflctl
  case h_33 => exact absurd rfl htrctl
  -- the TRIGCFG array, the secure ranges and the offsets that hold no register
  case h_44 =>
    dsimp only
    split
    · rfl
    · split
      · simp [State.reset, Wheel.reset]
      · rfl
  -- the registers packed of several fields
  case h_2 | h_6 | h_17 | h_41 => simp [fn_reset, Fn.reset, Fn.rpstat, bool1, sumNat]
  all_goals rfl

/-- FLCTL holds 4 and TRCTL 7 in LOG2N (R405, R422). -/
theorem bar0_reset_log2n (n : Nat) : State.reset.bar0 n 0x050 = some 4 ∧ State.reset.bar0 n 0x448 = some 0x70000 := by
  simp [bar0_reset, State.bar0Word, fn_reset, Fn.reset, bool1]

/-- A bank of a mill that has seen no mode change is in mode CACHE (R92). -/
theorem mill_reset_mode (m : Nat) (b : Fin 24) : (State.reset.mill m).modes[b] = 0 := Vector.getElem_replicate ..

/-- Settles O6: a list that reset leaves empty gives each function, mill, tile and die its reset value. -/
theorem resetState : Obligations.ResetState := by
  unfold Obligations.ResetState
  have hzero (n : Nat) {off : Nat} (hflctl : off ≠ 0x050) (htrctl : off ≠ 0x448) : State.reset.bar0 n off = some 0 := by
    rw [bar0_reset, bar0Word_reset n hflctl htrctl]
  refine ⟨fun n off _ hoff => hzero n ?_ ?_, bar0_reset_log2n, fun n k _ => hzero n (by omega) (by omega),
    fun k _ => ⟨hzero 0 (by omega) (by omega), hzero 0 (by omega) (by omega)⟩, fun m b => ⟨mill_reset_mode m b, rfl⟩,
    fun _ => ⟨rfl, rfl, rfl, rfl⟩, fun _ => ⟨rfl, rfl⟩, rfl, rfl, rfl, rfl, fun _ => rfl, rfl, rfl, rfl, rfl, rfl, rfl, rfl, rfl, rfl, rfl⟩
  · rintro rfl
    exact absurd hoff (by decide)
  · rintro rfl
    exact absurd hoff (by decide)

/-! ## Bit fields as slices of a word -/

theorem toNat_slice (w : Word) (lo len : Nat) : (w.extractLsb' lo len).toNat = bitsAt w lo len := BitVec.extractLsb'_toNat ..

theorem ofNat_bitsAt (w : Word) (lo len : Nat) : BitVec.ofNat len (bitsAt w lo len) = w.extractLsb' lo len := by
  rw [← toNat_slice, BitVec.ofNat_toNat, BitVec.setWidth_eq]

/-- The number that a field is in two's complement, narrowed to a word, is the field with its sign extended. -/
theorem ofInt_signed (w : Word) (lo len : Nat) : BitVec.ofInt 64 (signed (len + 1) (bitsAt w lo (len + 1))) =
    (w.extractLsb' lo (len + 1)).signExtend 64 := by
  have hp : 2 ^ (len + 1) = 2 * 2 ^ len := Nat.pow_succ'
  have hlt : (w.extractLsb' lo (len + 1)).toNat < 2 ^ (len + 1) := BitVec.isLt _
  rw [BitVec.signExtend, BitVec.toInt_eq_toNat_cond, ← toNat_slice, signed, Nat.mod_eq_of_lt hlt, Nat.add_sub_cancel, hp]
  simp only [Nat.mul_lt_mul_left (show 0 < 2 by decide)]

/-! ## SRAM banks (R92 to R94) -/

section

variable {s : State} {m b : Nat} {mode : BitVec 2}

theorem bankreq_unselected (hm : s.selMill s.cur.arg.fn = none) : exec .bankreq s = .next s := by
  simp [exec_bankreq, execBankreq, hm]

theorem bankreq_refused {c : BitVec 4} (hm : s.selMill s.cur.arg.fn = some m)
    (hc : s.bankCode m (s.cur.arg.w.extractLsb' 0 5).toNat (s.cur.arg.w.extractLsb' 8 2) = some c) :
    exec .bankreq s = .next (s.setMill m { s.mill m with code := c }) := by
  rw [toNat_slice] at hc
  simp [exec_bankreq, execBankreq, hm, ofNat_bitsAt, hc]

theorem bankreq_begins (hm : s.selMill s.cur.arg.fn = some m)
    (hc : s.bankCode m (s.cur.arg.w.extractLsb' 0 5).toNat (s.cur.arg.w.extractLsb' 8 2) = none) : exec .bankreq s = .next
      (s.setMill m { s.mill m with busy := some ((s.cur.arg.w.extractLsb' 0 5).toNat, s.cur.arg.w.extractLsb' 8 2) }) := by
  rw [toNat_slice] at hc ⊢
  simp [exec_bankreq, execBankreq, hm, ofNat_bitsAt, hc]

theorem bankCode_busy (h : (s.mill m).busy.isSome = true) : s.bankCode m b mode = some 1 := if_pos h

theorem bankCode_beyond (h : (s.mill m).busy = none) (hb : 24 ≤ b) : s.bankCode m b mode = some 2 := by
  simp [State.bankCode, h, Nat.not_lt.2 hb]

/-- Where no change is in progress, the codes that can apply to a bank, in the order of log 109. -/
theorem bankCode_idle (h : (s.mill m).busy = none) (hb : b < 24) : s.bankCode m b mode =
    if mode = 3 then some 2
    else if mode = (s.mill m).modes[b] then some 6
    else if (mode = 2 ∨ (s.mill m).modes[b] = 2) ∧ ∃ f, s.bankFlume m b = some f ∧ (f.filled ≠ 0 ∨ s.copiesInto f = true) then some 3
    else if (s.mill m).modes[b] = 2 ∧ ∃ f, s.bankFlume m b = some f ∧ f.base = 0 then some 4
    else if (s.mill m).modes[b] = 1 ∧ s.bankCovered m b = true then some 5
    else none := by
  simp [State.bankCode, h, hb, Option.any_eq_true]

section

variable (hbusy : (s.mill m).busy = none) (hb : b < 24)

include hbusy

include hb in
theorem bankCode_reserved : s.bankCode m b 3 = some 2 := by
  rw [bankCode_idle hbusy hb, if_pos rfl]

section

variable (hthree : mode ≠ 3)

include hthree

theorem bankCode_same (hsame : mode = (s.mill m).modes[b]) : s.bankCode m b mode = some 6 := by
  rw [bankCode_idle hbusy hb, if_neg hthree, if_pos hsame]

variable (hother : mode ≠ (s.mill m).modes[b])

include hother

/-- A change into or out of FIFO finds slots filled, or a copy into them. -/
theorem bankCode_filled {f : Flume} (hf : s.bankFlume m b = some f) (hfifo : mode = 2 ∨ (s.mill m).modes[b] = 2)
    (hfilled : f.filled ≠ 0 ∨ s.copiesInto f = true) : s.bankCode m b mode = some 3 := by
  rw [bankCode_idle hbusy hb, if_neg hthree, if_neg hother, if_pos ⟨hfifo, f, hf, hfilled⟩]

/-- The flume that a change out of FIFO would displace has no BACKING (R94). -/
theorem bankCode_unbacked {f : Flume} (hf : s.bankFlume m b = some f) (hfilled : f.filled = 0) (hcopies : s.copiesInto f = false)
    (hold : (s.mill m).modes[b] = 2) (hbase : f.base = 0) : s.bankCode m b mode = some 4 := by
  have hempty : ¬ ∃ g, s.bankFlume m b = some g ∧ (g.filled ≠ 0 ∨ s.copiesInto g = true) := by simp [hf, hfilled, hcopies]
  rw [bankCode_idle hbusy hb, if_neg hthree, if_neg hother, if_neg fun h => hempty h.2, if_pos ⟨hold, f, hf, hbase⟩]

/-- Where no flume stands against the change, a command whose footprint covers a SCRATCH bank can. -/
theorem bankCode_noFlume (hflume : ∀ f, s.bankFlume m b = some f → mode = 2 ∨ (s.mill m).modes[b] = 2 →
    f.filled = 0 ∧ s.copiesInto f = false ∧ ¬ ((s.mill m).modes[b] = 2 ∧ f.base = 0)) : s.bankCode m b mode =
      if (s.mill m).modes[b] = 1 ∧ s.bankCovered m b = true then some 5 else none := by
  rw [bankCode_idle hbusy hb, if_neg hthree, if_neg hother, if_neg, if_neg]
  · rintro ⟨hold, f, hf, hbase⟩
    obtain ⟨-, -, hbacked⟩ := hflume f hf (.inr hold)
    exact hbacked ⟨hold, hbase⟩
  · rintro ⟨hfifo, f, hf, hfilled⟩
    obtain ⟨hempty, hcopies, -⟩ := hflume f hf hfifo
    simp [hempty, hcopies] at hfilled

end

end

/-! ### The end of a bank's change -/

theorem bankModeChangeDone_idle (h : (s.mill s.cur.arg.n).busy = none) : exec .bankModeChangeDone s = .next s := by
  simp [exec_bankModeChangeDone, execBankModeChangeDone, h]

/-- The state with bank `b` of mill `m` cleared, and the flume that stood there going on at its BACKING (R94). -/
def State.bankVacated (s : State) (m b : Nat) : State := { s with
  mem := memClear s.mem (keyOf 3 ((m * 24 + b) * 65536)) 65536
  flumes := s.flumes.map fun f => if f.bank == some (m, b) && !f.gone then { f with bank := none } else f }

theorem bankModeChangeDone_eq (hb : b < 24) (h : (s.mill s.cur.arg.n).busy = some (b, mode)) : exec .bankModeChangeDone s = .next
    ((s.bankVacated s.cur.arg.n b).setMill s.cur.arg.n { s.mill s.cur.arg.n with
      modes := (s.mill s.cur.arg.n).modes.set b mode hb, busy := none, code := 0 }) := by
  simp only [exec_bankModeChangeDone, execBankModeChangeDone, h, dif_pos hb]
  rfl

theorem bankVacated_flumes {f : Flume} (hf : f ∈ (s.bankVacated m b).flumes) (hgone : f.gone = false) : f.bank ≠ some (m, b) := by
  obtain ⟨g, _, rfl⟩ := List.mem_map.1 hf
  by_cases hb : (g.bank == some (m, b) && !g.gone) = true
  · rw [if_pos hb]
    exact nofun
  · rw [if_neg hb] at hgone ⊢
    simpa [hgone] using hb

end

/-! ## Pond tiles (R97 to R99) -/

section

variable {s : State} {n : Nat}

theorem selTile_none_ignored (h : s.selTile s.cur.arg.fn = none) :
    exec .ptctlMode s = .next s ∧ exec .ptctlRunStart s = .next s ∧ exec .ptctlRunStop s = .next s := by
  simp [exec_ptctlMode, execPtctlMode, exec_ptctlRunStart, execPtctlRunStart, exec_ptctlRunStop, execPtctlRunStop, h]

/-- Tile `n` after a request of another mode: refused with its STATUS, or BUSY (R97, R99). -/
def State.modeRequested (s : State) (n : Nat) (mode : BitVec 2) : Tile :=
  if mode = 3 then { s.tile n with status := 2 }
  else if (s.tile n).mode = 1 ∧ (s.tile n).run = true then { s.tile n with status := 3 }
  else if (s.tile n).mode = 2 ∧ s.tileHolds n = true then { s.tile n with status := 1 }
  else { s.tile n with busy := some mode }

/-- Nothing keeps a tile in CACHE. -/
theorem modeRequested_cache {mode : BitVec 2} (hthree : mode ≠ 3) (hcache : (s.tile n).mode = 0) :
    s.modeRequested n mode = { s.tile n with busy := some mode } := by
  rw [State.modeRequested, if_neg hthree, if_neg (by simp [hcache]), if_neg (by simp [hcache])]

section

variable (hn : s.selTile s.cur.arg.fn = some n)

include hn

section

variable {mode : BitVec 2} (hw : mode = s.cur.arg.w.extractLsb' 0 2)

include hw

/-- A change of MODE that no change in progress holds up: the storage of a tile that leaves CACHE is cleared as it begins (log 123). -/
theorem ptctlMode_changes (hbusy : (s.tile n).busy = none) (hmode : mode ≠ (s.tile n).mode) :
    exec .ptctlMode s = .next ((if (s.tile n).mode = 0 ∧ mode ≠ 3 then
      { s with mem := memClear s.mem (keyOf 1 (n * 2 ^ 20)) (2 ^ 20) } else s : State).setTile n
        (s.modeRequested n mode)) := by
  simp [exec_ptctlMode, execPtctlMode, ← hw, State.modeRequested, hn, ofNat_bitsAt, hbusy, hmode, spPond, and_comm]

theorem ptctlMode_leavesCache (hbusy : (s.tile n).busy = none) (hthree : mode ≠ 3) (hmode : mode ≠ (s.tile n).mode)
    (hcache : (s.tile n).mode = 0) : exec .ptctlMode s = .next
      (({ s with mem := memClear s.mem (keyOf 1 (n * 2 ^ 20)) (2 ^ 20) } : State).setTile n
        { s.tile n with busy := some mode }) := by
  rw [ptctlMode_changes hn hw hbusy hmode, if_pos ⟨hcache, hthree⟩, modeRequested_cache hthree hcache]

/-- From another mode, or to the reserved one, no storage is cleared. -/
theorem ptctlMode_keepsStorage (hbusy : (s.tile n).busy = none) (hmode : mode ≠ (s.tile n).mode)
    (h : mode = 3 ∨ (s.tile n).mode ≠ 0) :
    exec .ptctlMode s = .next (s.setTile n (s.modeRequested n mode)) := by
  have hkeeps : ¬ ((s.tile n).mode = 0 ∧ mode ≠ 3) := fun ⟨hcache, hthree⟩ => h.elim hthree fun hm => hm hcache
  rw [ptctlMode_changes hn hw hbusy hmode, if_neg hkeeps]

/-- A write that leaves MODE as it is, or comes in a change, changes nothing (log 110). -/
theorem ptctlMode_ignored (h : (s.tile n).busy.isSome = true ∨ mode = (s.tile n).mode) :
    exec .ptctlMode s = .next (s.setTile n (s.tile n)) := by
  rcases h with h | h <;> simp [exec_ptctlMode, execPtctlMode, hn, ofNat_bitsAt, ← hw, h]

end

theorem ptctlRunStop_clears (h : s.cur.arg.w.getLsbD 2 = false) :
    exec .ptctlRunStop s = .next (s.setTile n { s.tile n with run := false }) := by
  simp only [exec_ptctlRunStop, execPtctlRunStop, hn, bitAt, h, Bool.false_eq_true, if_false]

theorem ptctlRunStop_set (h : s.cur.arg.w.getLsbD 2 = true) : exec .ptctlRunStop s = .next s := by
  simp only [exec_ptctlRunStop, execPtctlRunStop, hn, bitAt, h, if_true]

/-- RUN changes to 1 in a PUSH tile: what its pattern block comes to. -/
theorem ptctlRunStart_push (hmode : (s.tile n).mode = 1) (hrun : (s.tile n).run = false) (hbusy : (s.tile n).busy = none)
    (hset : s.cur.arg.w.getLsbD 2 = true) {va : Word} (hva : va = ((s.tile n).pat.extractLsb' 0 57).signExtend 64) :
    (∀ c a, pushBlock s s.cur.arg.fn (s.tile n).world va = .error (c, a) →
      exec .ptctlRunStart s = .next (s.pushStop n s.cur.arg.fn c a)) ∧
    (∀ bs p, pushBlock s s.cur.arg.fn (s.tile n).world va = .ok bs → patOf bs = some p → exec .ptctlRunStart s =
      .next (s.setTile n { s.tile n with run := true, push := bs, ctr := List.replicate p.counts.length 0, pass := 0 })) ∧
    ∀ bs, pushBlock s s.cur.arg.fn (s.tile n).world va = .ok bs → patOf bs = none →
      exec .ptctlRunStart s = .next (s.pushStop n s.cur.arg.fn tcILLOP va) := by
  rw [← ofInt_signed] at hva
  subst hva
  refine ⟨fun c a hblock => ?_, fun bs p hblock hpat => ?_, fun bs hblock hpat => ?_⟩
  all_goals simp [exec_ptctlRunStart, execPtctlRunStart, bitAt, *]

end

theorem tileModeChangeDone_idle (h : (s.tile s.cur.arg.n).busy = none) : exec .tileModeChangeDone s = .next s := by
  simp [exec_tileModeChangeDone, execTileModeChangeDone, h]

theorem tileModeChangeDone_eq {mode : BitVec 2} (h : (s.tile s.cur.arg.n).busy = some mode) : exec .tileModeChangeDone s =
    .next (s.setTile s.cur.arg.n { s.tile s.cur.arg.n with mode := mode, busy := none, status := 0, run := false }) := by
  simp [exec_tileModeChangeDone, execTileModeChangeDone, h]

end

/-! ## The units of a push program (R98, R267) -/

/-- What a delivered unit leaves of the tile: the next unit of the pass, the end, or the next pass. -/
theorem Tile.pushed_eq (x : Tile) (counts : List Nat) : x.pushed counts =
    if (nextIter x.ctr counts).2 = false then { x with ctr := (nextIter x.ctr counts).1 }
    else if (x.dst.extractLsb' 22 32).toNat ≠ 0 ∧ (x.dst.extractLsb' 22 32).toNat ≤ x.pass + 1 then
      { x with run := false, pass := x.pass + 1 }
    else { x with ctr := List.replicate counts.length 0, pass := x.pass + 1 } := by
  simp only [toNat_slice]
  simp [Tile.pushed]

theorem focus_self (s : State) : s.focus s.me.id = some s := if_pos rfl

section

variable {s : State} {n q : Nat} {p : Pat} {o : Int}

theorem pushUnit_idle (h : (s.tile s.cur.arg.n).mode ≠ 1 ∨ (s.tile s.cur.arg.n).run = false) : exec .pushUnit s = .next s := by
  have hidle : ((s.tile s.cur.arg.n).mode ≠ 1 || !(s.tile s.cur.arg.n).run : Bool) = true := by simpa using h
  simp only [exec_pushUnit, execPushUnit, hidle, if_true]

/-- Tile `n` runs the push program `p` for function `q`, whose next unit stands at offset `o`. -/
structure Pushes (s : State) (n q : Nat) (p : Pat) (o : Int) : Prop where
  tile : n = s.cur.arg.n
  mode : (s.tile n).mode = 1
  run : (s.tile n).run = true
  fn : s.tileFn n = some q
  pat : patOf (s.tile n).push = some p
  off : o = p.offset + dotCtr (s.tile n).ctr p.strides

variable (h : Pushes s n q p o)

include h

theorem pushUnit_misaligned (ho : o % 4 ≠ 0) : exec .pushUnit s = .next (s.pushStop n q tcALIGN (BitVec.ofInt 64 o)) := by
  obtain ⟨rfl, hmode, hrun, hfn, hpat, rfl⟩ := h
  simp [exec_pushUnit, execPushUnit, hmode, hrun, hfn, hpat, ho]

theorem pushUnit_outside (ho : o % 4 = 0) (hout : o < 0 ∨ 2 ^ 20 < o + p.unit) :
    exec .pushUnit s = .next (s.pushStop n q tcPROT (BitVec.ofInt 64 o)) := by
  obtain ⟨rfl, hmode, hrun, hfn, hpat, rfl⟩ := h
  simp [exec_pushUnit, execPushUnit, hmode, hrun, hfn, hpat, ho, hout, -Int.reducePow]

section

variable (ho : o % 4 = 0) (hlo : 0 ≤ o) (hhi : o + p.unit ≤ 2 ^ 20)

include ho hlo hhi

theorem pushUnit_untaken (ht : s.pushTask q (s.tile n).dst = none) : exec .pushUnit s = .next s := by
  obtain ⟨rfl, hmode, hrun, hfn, hpat, rfl⟩ := h
  simp [exec_pushUnit, execPushUnit, hmode, hrun, hfn, hpat, ho, ht, Int.not_lt.2 hlo, Int.not_lt.2 hhi, -Int.reducePow]

theorem pushUnit_portTaken (ht : s.pushTask q (s.tile n).dst = some s.me.id)
    (hport : s.portFree ((s.tile n).dst.extractLsb' 16 6).toNat = false) : exec .pushUnit s = .next s := by
  obtain ⟨rfl, hmode, hrun, hfn, hpat, rfl⟩ := h
  rw [toNat_slice] at hport
  simp [exec_pushUnit, execPushUnit, hmode, hrun, hfn, hpat, ho, ht, Int.not_lt.2 hlo, Int.not_lt.2 hhi, focus_self, hport, -Int.reducePow]

theorem pushUnit_delivers (ht : s.pushTask q (s.tile n).dst = some s.me.id)
    (hport : s.portFree ((s.tile n).dst.extractLsb' 16 6).toNat = true) {v : State}
    (hv : s.offer ((s.tile n).dst.extractLsb' 16 6).toNat (memBytes s.mem (keyOf 1 (n * 2 ^ 20 + o.toNat)) p.unit) = some v) :
    exec .pushUnit s = .next (v.setTile n ((s.tile n).pushed p.counts)) := by
  obtain ⟨rfl, hmode, hrun, hfn, hpat, rfl⟩ := h
  rw [toNat_slice] at hport hv
  simp [exec_pushUnit, execPushUnit, hmode, hrun, hfn, hpat, ho, ht, Int.not_lt.2 hlo, Int.not_lt.2 hhi, focus_self, hport, spPond, hv,
    -Int.reducePow, -Nat.reducePow]

end

end

/-! ## The obligation of banks and tiles -/

/-- Settles O54: what each request, end of a change and unit of a push comes to, by the rule of its event. -/
theorem banksAndTiles : Obligations.BanksAndTiles := by
  unfold Obligations.BanksAndTiles
  rintro s fn w rfl rfl
  refine ⟨bankreq_unselected, ?_, ?_, selTile_none_ignored, ?_, ?_⟩
  · rintro m x b mode hm rfl rfl rfl
    refine ⟨fun hbusy => bankreq_refused hm (bankCode_busy hbusy), fun hbusy hb => bankreq_refused hm (bankCode_beyond hbusy hb),
      fun hbusy hb => ⟨fun hthree => bankreq_refused hm ?_, fun hthree hsame => bankreq_refused hm (bankCode_same hbusy hb hthree hsame),
      fun f hthree hother hf hfifo => ⟨fun hfilled => bankreq_refused hm (bankCode_filled hbusy hb hthree hother hf hfifo hfilled),
        fun hfilled hcopies hold hbase => bankreq_refused hm (bankCode_unbacked hbusy hb hthree hother hf hfilled hcopies hold hbase)⟩,
      fun hthree hother hflume => ⟨fun hold hcov => bankreq_refused hm ?_, fun hfree => bankreq_begins hm ?_⟩⟩⟩
    · rw [hthree, bankCode_reserved hbusy hb]
    · rw [bankCode_noFlume hbusy hb hthree hother hflume, if_pos ⟨hold, hcov⟩]
    · rw [bankCode_noFlume hbusy hb hthree hother hflume, if_neg]
      rintro ⟨hold, hcov⟩
      exact hfree.elim (· hold) fun huncov => Bool.false_ne_true (huncov.symm.trans hcov)
  · rintro x rfl
    exact ⟨bankModeChangeDone_idle, fun b mode hb hbusy => ⟨_, bankModeChangeDone_eq hb hbusy, mill_setMill .., memGet_memClear s.mem _ _,
      fun f hf => bankVacated_flumes hf⟩⟩
  · rintro n x mode hn rfl rfl
    exact ⟨fun hbusy hthree hmode hcache => ⟨_, ptctlMode_leavesCache hn rfl hbusy hthree hmode hcache, tile_setTile .., rfl,
      memGet_memClear s.mem _ _⟩, ptctlMode_keepsStorage hn rfl, ptctlMode_ignored hn rfl, ptctlRunStop_clears hn, ptctlRunStop_set hn,
      fun hmode hrun hbusy hset _ => ptctlRunStart_push hn hmode hrun hbusy hset⟩
  · rintro n x rfl rfl
    refine ⟨tileModeChangeDone_idle, fun mode => tileModeChangeDone_eq, pushUnit_idle, fun q p o hmode hrun hfn hpat hoff => ?_⟩
    have h : Pushes s s.cur.arg.n q p o := ⟨rfl, hmode, hrun, hfn, hpat, hoff⟩
    refine ⟨pushUnit_misaligned h, pushUnit_outside h, pushUnit_untaken h, pushUnit_portTaken h, fun ho hlo hhi ht hport v hv => ?_⟩
    rw [pushUnit_delivers h ho hlo hhi ht hport hv, Tile.pushed_eq]

end Sys2Proof.Machine
end

/-!
SUPPORT. Bits of a word with a field replaced, and of the fields that a register keeps.
-/
section

namespace Sys2Proof.Machine

theorem getLsbD_setBits (w : Word) (lo len v : Nat) {k : Nat} (hk : k < 64) :
    (setBits w lo len v).getLsbD k = if lo ≤ k ∧ k < lo + len then v.testBit (k - lo) else w.getLsbD k := by
  have hm : (BitVec.ofNat 64 ((2 ^ len - 1) <<< lo)).getLsbD k = decide (lo ≤ k ∧ k < lo + len) := by
    simp only [BitVec.getLsbD_ofNat, hk, decide_true, Bool.true_and, Nat.testBit_shiftLeft, Nat.testBit_two_pow_sub_one]
    rw [← Bool.decide_and]
    exact decide_eq_decide.2 ⟨fun ⟨h, h'⟩ => ⟨h, by omega⟩, fun ⟨h, h'⟩ => ⟨h, by omega⟩⟩
  have hv : (BitVec.ofNat 64 ((v % 2 ^ len) <<< lo)).getLsbD k = (decide (lo ≤ k ∧ k < lo + len) && v.testBit (k - lo)) := by
    rw [← hm]
    simp only [BitVec.getLsbD_ofNat, hk, decide_true, Bool.true_and, Nat.testBit_shiftLeft, Nat.testBit_two_pow_sub_one,
      Nat.testBit_mod_two_pow, Bool.and_assoc]
  rw [setBits, BitVec.getLsbD_or, BitVec.getLsbD_and, BitVec.getLsbD_not, hm, hv]
  split <;> rename_i h <;> simp [h, hk]

theorem getLsbD_setBit (w : Word) (i : Nat) (b : Bool) {k : Nat} (hk : k < 64) :
    (setBit w i b).getLsbD k = if k = i then b else w.getLsbD k := by
  rw [setBit, getLsbD_setBits _ _ _ _ hk]
  by_cases h : k = i
  · subst h
    cases b <;> simp
  · rw [if_neg (by omega), if_neg h]

/-- A field of a word in its place is the word under the field's mask. -/
theorem field_eq_and (w : Word) (lo len : Nat) :
    BitVec.ofNat 64 (bitsAt w lo len * 2 ^ lo) = w &&& BitVec.ofNat 64 (bitsAt (BitVec.allOnes 64) lo len * 2 ^ lo) := by
  refine BitVec.eq_of_getLsbD_eq fun k hk => ?_
  have hbit : ∀ x : Word, (BitVec.ofNat 64 (bitsAt x lo len * 2 ^ lo)).getLsbD k =
      (decide (lo ≤ k ∧ k - lo < len) && x.getLsbD k) := by
    intro x
    rw [← Nat.shiftLeft_eq, BitVec.getLsbD_ofNat, Nat.testBit_shiftLeft, bitsAt, Nat.testBit_mod_two_pow, Nat.testBit_shiftRight]
    by_cases h : lo ≤ k
    · rw [Nat.add_sub_cancel' h]
      simp [hk, h, BitVec.testBit_toNat]
    · simp [h]
  rw [BitVec.getLsbD_and, hbit, hbit, BitVec.getLsbD_allOnes, decide_eq_true hk, Bool.and_true, Bool.and_comm]

/-- The fields of a word are its bits under the mask that the fields of all ones make. -/
theorem fieldsOf_eq_and (w : Word) (fs : List (Nat × Nat)) : fieldsOf w fs = w &&& fieldsOf (BitVec.allOnes 64) fs := by
  have hgen : ∀ a : Word, fs.foldl (fun a f => a ||| BitVec.ofNat 64 (bitsAt w f.1 f.2 * 2 ^ f.1)) (w &&& a) =
      w &&& fs.foldl (fun a f => a ||| BitVec.ofNat 64 (bitsAt (BitVec.allOnes 64) f.1 f.2 * 2 ^ f.1)) a := by
    induction fs with
    | nil => exact fun a => rfl
    | cons f fs ih =>
      intro a
      rw [List.foldl_cons, List.foldl_cons, field_eq_and w, ← BitVec.and_or_distrib_left, ih]
  have h := hgen 0#64
  rwa [BitVec.and_zero] at h

end Sys2Proof.Machine
end

/-!
SUPPORT. Trap entry of an instruction (R136 to R138, R142, R205, R423): its class, the context that it leaves, and where that goes on.
-/
section

namespace Sys2Proof.Machine

/-! ## The trap of an instruction -/

/-- The trap that an instruction of a context takes: of origin 0, with TRAPPC at PC (R137, R138). -/
def Ctx.raised (c : Ctx) (cause : BitVec 8) (info : Word) : Trap := ⟨cause, 0, false, 0, info, c.pc⟩

theorem raised_word (c : Ctx) (cause : BitVec 8) (info : Word) : (c.raised cause info).word = cause.setWidth 64 := by
  apply BitVec.eq_of_toNat_eq
  simp [Trap.word, Ctx.raised, bool1]

/-- The class of an instruction's trap (R136, R143). -/
theorem classOf_raised (cause : BitVec 8) : classOf cause 0 =
    if cause = 0x14 ∨ cause = 0x15 ∨ cause = 0x17 then .d else if cause = 0x0D ∨ cause = 0x11 then .s else .p := by
  simp [classOf, tcBKPT, tcSTEP, tcTRIGSTOP, tcECCUE, tcBURSTBAD, or_assoc]

theorem classOf_raised_d {cause : BitVec 8} : classOf cause 0 = .d ↔ cause = 0x14 ∨ cause = 0x15 ∨ cause = 0x17 := by
  rw [classOf_raised]
  split
  · simp_all
  · split <;> simp_all

theorem classOf_raised_s {cause : BitVec 8} : classOf cause 0 = .s ↔ cause = 0x0D ∨ cause = 0x11 := by
  rw [classOf_raised]
  split
  · rename_i h
    rcases h with rfl | rfl | rfl <;> decide
  · split <;> simp_all

/-- An instruction's trap stops its task for the debugger on TRIGSTOP, and on BKPT and STEP under a debugger (R136, R423). -/
theorem debugStop_raised {c : Ctx} {cause : BitVec 8} {info : Word} : c.debugStop (c.raised cause info) = true ↔
    cause = 0x17 ∨ (cause = 0x14 ∨ cause = 0x15) ∧ c.dbg.getLsbD 0 = true := by
  have hc : c.debugStop (c.raised cause info) = true ↔ classOf cause 0 = .d ∧ (c.dbg.getLsbD 0 = true ∨ cause = 0x17) := by
    simp [Ctx.debugStop, Ctx.raised, Ctx.attached, bitAt, tcTRIGSTOP]
  rw [hc, classOf_raised_d]
  constructor
  · rintro ⟨h | h | h, hd⟩ <;> simp_all
  · rintro (h | ⟨h, hd⟩)
    · exact ⟨.inr (.inr h), .inr h⟩
    · exact ⟨h.imp_right .inl, .inl hd⟩

theorem debugStop_raised_false {c : Ctx} {cause : BitVec 8} {info : Word} (h17 : cause ≠ 0x17)
    (hbreak : cause ≠ 0x14 ∧ cause ≠ 0x15 ∨ c.dbg.getLsbD 0 = false) : c.debugStop (c.raised cause info) = false := by
  rw [Bool.eq_false_iff, Ne, debugStop_raised]
  rintro (h | ⟨h, hd⟩)
  · exact h17 h
  · rcases hbreak with ⟨h14, h15⟩ | hd'
    · exact h.elim h14 h15
    · exact Bool.false_ne_true (hd'.symm.trans hd)

/-! ## The context that trap entry leaves -/

/-- The context with a trap recorded in TRAPPC, TRAPCAUSE and TRAPINFO and its REP state in the shadow (R137, R138, R205). -/
def Ctx.entered (c : Ctx) (t : Trap) : Ctx := { c with
  trapPc := t.pc, trapCause := t.word, trapInfo := t.info
  repSh := if c.rep.count = 0 then .none else c.rep, rep := .none
  st := .trapped, held := heldBy c.held c.nest c.wait, parked := none, wait := .none }

/-- The context with a trap recorded as the second of a handler, in DOUBLE and CAUSE2 (R142). -/
def Ctx.doubled (c : Ctx) (cause : BitVec 8) : Ctx := { c with
  trapCause := setBits (setBit c.trapCause 11 true) 16 8 cause.toNat
  st := .trapped, held := heldBy c.held c.nest c.wait, parked := none, wait := .none }

/-- Bit 11 is DOUBLE and bits 23 to 16 are CAUSE2 (R138). -/
theorem doubled_trapCause (c : Ctx) (cause : BitVec 8) {k : Nat} (hk : k < 64) : (c.doubled cause).trapCause.getLsbD k =
    if k = 11 then true else if 16 ≤ k ∧ k < 24 then cause.getLsbD (k - 16) else c.trapCause.getLsbD k := by
  rw [Ctx.doubled, getLsbD_setBits _ _ _ _ hk, getLsbD_setBit _ _ _ hk]
  by_cases h11 : k = 11
  · rw [if_pos h11, if_pos h11, if_neg (by omega)]
  · rw [if_neg h11, if_neg h11]
    rfl

section

variable {c : Ctx} {h : Option Word} {t : Trap}

/-- Of class S: for the driver. -/
theorem enterTrap_s (hs : classOf t.cause t.origin = .s) : c.enterTrap h t = (c.entered t, .driver) := by
  simp [Ctx.enterTrap, hs, Ctx.entered]

/-- A stop for the debugger, of class D. -/
theorem enterTrap_debug (hd : c.debugStop t = true) : c.enterTrap h t = (c.entered t, .debugger) := by
  have hcls : classOf t.cause t.origin = .d := by
    rw [Ctx.debugStop, Bool.and_eq_true, beq_iff_eq] at hd
    exact hd.1
  simp only [Ctx.enterTrap, hd, hcls, Bool.not_true, Bool.and_false, Bool.false_eq_true, if_false, if_true, Ctx.entered]

/-- Any other trap with TM clear goes to the handler, if there is one. -/
theorem enterTrap_handle (htm : c.tm = false) (hs : classOf t.cause t.origin ≠ .s) (hd : c.debugStop t = false) :
    c.enterTrap h t = (c.entered t).handle h := by
  cases hcls : classOf t.cause t.origin with
  | p => simp [Ctx.enterTrap, htm, hcls, Ctx.entered]
  | s => exact absurd hcls hs
  | d => simp [Ctx.enterTrap, htm, hd, hcls, Ctx.entered]

/-- Any other trap with TM set enters no handler. -/
theorem enterTrap_double (htm : c.tm = true) (hs : classOf t.cause t.origin ≠ .s) (hd : c.debugStop t = false) :
    c.enterTrap h t = (c.doubled t.cause, .driver) := by
  simp [Ctx.enterTrap, htm, hs, hd, Ctx.doubled]

/-- A trap with TM clear, of class S or for the debugger, is recorded whole, whatever the context goes on with. -/
theorem enterTrap_entered (hfull : c.tm = false ∨ classOf t.cause t.origin = .s ∨ c.debugStop t = true) :
    ∃ tm handler nest pc, (c.enterTrap h t).1 = { c.entered t with tm := tm, handler := handler, nest := nest, pc := pc } := by
  by_cases hs : classOf t.cause t.origin = .s
  · exact ⟨_, _, _, _, by rw [enterTrap_s hs]⟩
  by_cases hd : c.debugStop t = true
  · exact ⟨_, _, _, _, by rw [enterTrap_debug hd]⟩
  · have htm : c.tm = false := hfull.resolve_right fun h => h.elim hs hd
    rw [enterTrap_handle htm hs (Bool.eq_false_iff.2 hd)]
    cases h with
    | none => exact ⟨_, _, _, _, rfl⟩
    | some a => exact ⟨_, _, _, _, rfl⟩

end

/-! ## The task that takes a trap -/

section

variable {s : State} {cause : BitVec 8} {info : Word}

theorem trap_me (s : State) (t : Trap) : (s.trap t).me = { s.me with
    ctx := { (s.me.ctx.enterTrap s.me.trapEntry t).1 with lastRetire := s.time }
    stop := (s.me.ctx.enterTrap s.me.trapEntry t).2
    stopCause := if (s.me.ctx.enterTrap s.me.trapEntry t).2 = .none then s.me.stopCause else t.cause } := by
  have hsource : ∀ (p : Prop) [Decidable p] (u : State) (b : Nat), (if p then u.mySource b 0 else u).me = u.me := by
    intro p _ u b
    split <;> rfl
  unfold State.trap
  dsimp only
  split
  · rw [State.trace, traceOf_me, hsource, hsource, hsource]
  · rw [hsource, hsource, hsource]

theorem trapAt_stop (s : State) (cause : BitVec 8) (info : Word) : (s.trapAt cause info).me.stop =
    (s.me.ctx.enterTrap s.me.trapEntry (s.me.ctx.raised cause info)).2 := congrArg Task.stop (trap_me ..)

theorem trapAt_ctx (s : State) (cause : BitVec 8) (info : Word) : (s.trapAt cause info).me.ctx =
    { (s.me.ctx.enterTrap s.me.trapEntry (s.me.ctx.raised cause info)).1 with lastRetire := s.time } :=
  congrArg Task.ctx (trap_me ..)

theorem trapAt_entered (hfull : s.me.ctx.tm = false ∨ classOf cause 0 = .s ∨ s.me.ctx.debugStop (s.me.ctx.raised cause info) = true) :
    ∃ tm handler nest pc, (s.trapAt cause info).me.ctx = { s.me.ctx.entered (s.me.ctx.raised cause info) with
      tm := tm, handler := handler, nest := nest, pc := pc, lastRetire := s.time } := by
  obtain ⟨tm, handler, nest, pc, hctx⟩ := enterTrap_entered (h := s.me.trapEntry) (t := s.me.ctx.raised cause info) hfull
  exact ⟨tm, handler, nest, pc, by rw [trapAt_ctx, hctx]⟩

/-- A handler is entered, or with none the task stops for the driver (R136, R344). -/
theorem trapAt_handle (htm : s.me.ctx.tm = false) (hs : classOf cause 0 ≠ .s)
    (hd : s.me.ctx.debugStop (s.me.ctx.raised cause info) = false) :
    (∀ a, s.me.trapEntry = some a → (s.trapAt cause info).me.ctx.pc = a ∧ (s.trapAt cause info).me.ctx.tm = true ∧
      (s.trapAt cause info).me.stop = .none) ∧
    (s.me.trapEntry = none → (s.trapAt cause info).me.ctx.pc = s.me.ctx.pc ∧ (s.trapAt cause info).me.ctx.tm = false ∧
      (s.trapAt cause info).me.stop = .driver) := by
  rw [trapAt_stop, trapAt_ctx, enterTrap_handle htm (by exact hs) hd]
  refine ⟨fun a ha => ?_, fun hn => ?_⟩
  · rw [ha]
    exact ⟨rfl, rfl, rfl⟩
  · rw [hn]
    exact ⟨rfl, htm, rfl⟩

end

/-! ## The obligation of trap entry -/

/-- Settles O27: each clause from the class of the cause, by what trap entry leaves in that class. -/
theorem takingTraps : Obligations.TakingTraps := by
  unfold Obligations.TakingTraps
  simp only [List.mem_cons, List.not_mem_nil, or_false]
  refine ⟨fun s cause info hfull => ?_, fun s cause info htm h0D h11 h17 hbreak => ?_⟩
  · have hwhole : s.me.ctx.tm = false ∨ classOf cause 0 = .s ∨ s.me.ctx.debugStop (s.me.ctx.raised cause info) = true := by
      rw [classOf_raised_s, debugStop_raised]
      tauto
    obtain ⟨tm, handler, nest, pc, hctx⟩ := trapAt_entered hwhole
    refine ⟨congrArg Ctx.trapPc hctx, (congrArg Ctx.trapCause hctx).trans (raised_word ..), congrArg Ctx.trapInfo hctx,
      congrArg Ctx.repSh hctx, congrArg Ctx.rep hctx, congrArg Ctx.st hctx, congrArg Ctx.wait hctx, (congrArg Ctx.g hctx :),
      (congrArg Ctx.f hctx :), (congrArg Ctx.q hctx :), (congrArg Ctx.h hctx :), trapAt_mem .., fun h0D h11 h17 hbreak => ?_,
      fun h => ?_, fun h => ?_⟩
    · have hs : classOf cause 0 ≠ .s := fun h => (classOf_raised_s.1 h).elim h0D h11
      have hd := debugStop_raised_false (info := info) h17 hbreak
      exact trapAt_handle (hwhole.resolve_right fun h => h.elim hs (Bool.eq_false_iff.1 hd)) hs hd
    · rw [trapAt_stop, enterTrap_s (classOf_raised_s.2 h)]
    · rw [trapAt_stop, trapAt_ctx, enterTrap_debug (debugStop_raised.2 h)]
      exact ⟨rfl, rfl⟩
  · have hs : classOf cause 0 ≠ .s := fun h => (classOf_raised_s.1 h).elim h0D h11
    have hd := debugStop_raised_false (info := info) h17 hbreak
    rw [trapAt_stop, trapAt_ctx, enterTrap_double htm (by exact hs) hd, trapAt_mem]
    exact ⟨rfl, rfl, rfl, htm, rfl, rfl, fun k hk => doubled_trapCause _ _ hk, rfl, rfl⟩

end Sys2Proof.Machine
end

/-!
SUPPORT. The host interface (R146, R403 to R406, R408): what RESUME and KILL, an unmap and its end, an access of BAR2 and a register
write come to, case by case.
-/
section

namespace Sys2Proof.Machine

/-! ## Lists by key -/

/-- A change of every value that leaves the default as it is changes the value of each key. -/
theorem aget_map {α : Type} {d : α} {g : α → α} (hd : g d = d) (l : List (Nat × α)) (i : Nat) :
    aget d (l.map fun x => (x.1, g x.2)) i = g (aget d l i) := by
  induction l with
  | nil => exact hd.symm
  | cons x l ih =>
    rw [List.map_cons, aget, aget]
    split
    · rfl
    · exact ih

theorem slice_eq_iff {w : Word} {lo len : Nat} {v : BitVec len} : w.extractLsb' lo len = v ↔ bitsAt w lo len = v.toNat := by
  rw [← toNat_slice, BitVec.toNat_inj]

/-! ## RESUME and KILL (R146, R408) -/

theorem tcEnd_eq {s : State} {n : Nat} {f : Fn} (hf : f = s.fn n) (code : BitVec 4) :
    s.tcEnd n code = s.setFn n { f with tcbusy := false, tccode := code } := by
  rw [State.tcEnd, hf]

theorem tcTask_eq (f : Fn) (n : Nat) : f.tcTask n = ⟨n, f.tcaddr, f.tcop.extractLsb' 0 32⟩ := by
  rw [Fn.tcTask, ofNat_bitsAt]

/-- What RESUME continues is stopped for the driver, and not SEVERED nor by ECCUE or BURSTBAD. -/
theorem resumable_stop {t : Task} (h : t.resumable = true) :
    t.stop = .driver ∧ t.stopCause ≠ 0x16 ∧ t.stopCause ≠ 0x0D ∧ t.stopCause ≠ 0x11 := by
  simp only [Task.resumable, Bool.and_eq_true, beq_iff_eq, bne_iff_ne] at h
  obtain ⟨⟨⟨hstop, hsev⟩, -⟩, hcls⟩ := h
  have hne : ∀ c : BitVec 8, (∀ o, classOf c o = .s) → (c != tcPGFLT && c != tcPROT && c != tcNOISEWR) = true →
      t.stopCause ≠ c := by
    rintro c hs hc rfl
    simp_all
  exact ⟨hstop, hsev, hne 0x0D (fun _ => rfl) rfl, hne 0x11 (fun _ => rfl) rfl⟩

/-- A trapped context that is resumed goes on at TRAPPC with the REP state of its shadow. -/
theorem resume_trapped {c : Ctx} (h : c.st = .trapped) : c.resume.pc = c.trapPc ∧ c.resume.tm = c.tm ∧ c.resume.g = c.g ∧
    c.resume.rep = if c.repSh.count = 0 then ⟨0, 0, 0⟩ else c.repSh := by
  simp [Ctx.resume, h, RepState.none]

/-- A command that is faulted still was to go on in that phase. -/
theorem faulted_of_mem_resume {t : Task} {now : Nat} {c : Cmd} (hc : c ∈ (t.resume now).cmds) (hph : c.phase = .faulted) :
    ∃ d ∈ t.cmds, d.prior = .faulted ∧ d.seq = c.seq := by
  obtain ⟨d, hd, rfl⟩ := List.mem_map.1 hc
  by_cases h : d.phase = .faulted
  · simp only [h, beq_self_eq_true, if_true] at hph ⊢
    exact ⟨d, hd, hph, rfl⟩
  · simp only [beq_eq_false_iff_ne.2 h] at hph
    exact absurd hph h

section

variable {s : State} {n : Nat} {f : Fn} {id : TaskId} {t : Task} (hn : n = s.cur.arg.fn) (hf : f = s.fn n)
  (hid : id = ⟨n, f.tcaddr, f.tcop.extractLsb' 0 32⟩) (hbusy : f.tcbusy = true)

include hn hf hid hbusy

section

variable (hop : f.tcop.extractLsb' 32 2 = 1) (hspill : ∀ c ∈ s.chans, c.consumer = id → c.fault = false)

include hop hspill

/-- RESUME where no spill write for the task has faulted. -/
theorem tcopResume_eq : exec .tcopResume s = .next ((s.task? id).elim (s.tcEnd n 2) fun t =>
    if t.resumable && t.alive then (s.mapTask id fun x => x.resume s.time).tcEnd n 0
    else s.tcEnd n (if t.alive && t.stop != .none then 1 else 2)) := by
  have hop' : bitsAt f.tcop 32 2 = 1 := slice_eq_iff.1 hop
  have hs : s.chans.any (Chan.spillFault id) = false := List.any_eq_false.2 fun c hc => by
    simpa [Chan.spillFault] using hspill c hc
  rw [← tcTask_eq] at hid
  subst hid hf hn
  simp only [exec_tcopResume, execTcopResume, hbusy, hop', hs, Bool.not_true, Bool.false_or, decide_false,
    Bool.false_eq_true, if_false, ne_eq, not_true]
  cases s.task? ((s.fn s.cur.arg.fn).tcTask s.cur.arg.fn) with
  | none => rfl
  | some t => exact (apply_ite _ ..).symm

theorem tcopResume_absent (ht : s.task? id = none) :
    exec .tcopResume s = .next (s.setFn n { f with tcbusy := false, tccode := 2 }) := by
  rw [tcopResume_eq hn hf hid hbusy hop hspill, ht, Option.elim_none, tcEnd_eq hf]

theorem tcopResume_resumes (ht : s.task? id = some t) (hr : t.resumable = true) (ha : t.alive = true) :
    exec .tcopResume s = .next ((s.mapTask id fun x => x.resume s.time).setFn n { f with tcbusy := false, tccode := 0 }) := by
  rw [tcopResume_eq hn hf hid hbusy hop hspill, ht, Option.elim_some, hr, ha, Bool.and_true, if_pos rfl, tcEnd_eq (by exact hf)]

theorem tcopResume_refused (ht : s.task? id = some t) (hr : t.resumable = false) (ha : t.alive = true) (hs : t.stop ≠ .none) :
    exec .tcopResume s = .next (s.setFn n { f with tcbusy := false, tccode := 1 }) := by
  rw [tcopResume_eq hn hf hid hbusy hop hspill, ht, Option.elim_some, hr, ha, bne_iff_ne.2 hs, ← tcEnd_eq hf]
  rfl

end

section

variable (hop : f.tcop.extractLsb' 32 2 = 2)

include hop

theorem tcopKill_eq : exec .tcopKill s = .next ((s.task? id).elim (s.tcEnd n 2) fun t =>
    if t.killable then (s.contain n t.id.blk .faulted (if t.stop = .none then 0 else t.stopCause)).tcEnd n 0 else s.tcEnd n 2) := by
  have hop' : bitsAt f.tcop 32 2 = 2 := slice_eq_iff.1 hop
  rw [← tcTask_eq] at hid
  subst hid hf hn
  simp only [exec_tcopKill, execTcopKill, hbusy, hop', Bool.not_true, Bool.false_or, decide_false,
    Bool.false_eq_true, if_false, ne_eq, not_true]
  cases s.task? ((s.fn s.cur.arg.fn).tcTask s.cur.arg.fn) with
  | none => rfl
  | some t => cases hk : t.killable <;> simp [hk]

theorem tcopKill_absent (ht : s.task? id = none) : exec .tcopKill s = .next (s.setFn n { f with tcbusy := false, tccode := 2 }) := by
  rw [tcopKill_eq hn hf hid hbusy hop, ht, Option.elim_none, tcEnd_eq hf]

theorem tcopKill_refused (ht : s.task? id = some t) (hk : t.killable = false) :
    exec .tcopKill s = .next (s.setFn n { f with tcbusy := false, tccode := 2 }) := by
  rw [tcopKill_eq hn hf hid hbusy hop, ht, Option.elim_some, hk, ← tcEnd_eq hf]
  rfl

theorem tcopKill_kills {u : State} (ht : s.task? id = some t) (hk : t.killable = true)
    (hu : u = s.contain n t.id.blk .faulted (if t.stop = .none then 0 else t.stopCause)) :
    exec .tcopKill s = .next (u.setFn n { u.fn n with tcbusy := false, tccode := 0 }) := by
  rw [tcopKill_eq hn hf hid hbusy hop, ht, Option.elim_some, hk, if_pos rfl, ← hu, tcEnd_eq rfl]

end

end

/-! ## Unmapping (R132, R291, R403) -/

/-- What an unmap drops from the TLBs of a mill. -/
theorem tlb_tlbDrop (s : State) (fn : Nat) (page : Word) (sz : BitVec 2) (m : Nat) : ((s.tlbDrop fn page sz).mill m).tlb =
    (s.mill m).tlb.filter fun e => !(e.fn == fn && inPage page sz (e.page.toNat, e.sz, e.pte)) :=
  (congrArg Mill.tlb (aget_map (d := Mill.reset) (g := fun x => { x with
    tlb := x.tlb.filter fun e => !(e.fn == fn && inPage page sz (e.page.toNat, e.sz, e.pte)) }) rfl s.mills m) :)

theorem inPage_of_mem_tlbDrop {s : State} {fn : Nat} {page : Word} {sz : BitVec 2} {m : Nat} {e : TlbEntry}
    (he : e ∈ ((s.tlbDrop fn page sz).mill m).tlb) (hfn : e.fn = fn) : inPage page sz (e.page.toNat, e.sz, e.pte) = false := by
  rw [tlb_tlbDrop, List.mem_filter] at he
  simpa [hfn] using he.2

section

variable {s : State} {n : Nat} {f : Fn} {w : Word} (hn : n = s.cur.arg.fn) (hf : f = s.fn n) (hw : w = s.cur.arg.w)

include hn hf

section

include hw

theorem unmap_reserved (hsz : w.extractLsb' 0 2 = 3) : exec .unmap s = .next (s.setFn n { f with ucode := 2 }) := by
  subst hn hf hw
  rw [exec_unmap, execUnmap, ofNat_bitsAt, if_pos hsz]

theorem unmap_full (hsz : w.extractLsb' 0 2 ≠ 3) (hfull : 16 ≤ f.unmaps.length) :
    exec .unmap s = .next (s.setFn n { f with ucode := 1 }) := by
  subst hn hf hw
  rw [exec_unmap, execUnmap, ofNat_bitsAt, if_neg hsz, if_pos hfull]

/-- An unmap that no run of the function has to pass on is queued with its TLB entries dropped. -/
theorem unmap_queued {page : Word} {sz : BitVec 2} (hpage : page = (f.unmapva.extractLsb' 16 41).setWidth 64)
    (hsz : sz = w.extractLsb' 0 2) (hvalid : sz ≠ 3) (hroom : f.unmaps.length < 16)
    (hgen : ∀ t ∈ s.all, t.id.fn = n → t.isPlaced = true → t.run.act.hasGen = false) :
    exec .unmap s = .next (((s.tlbDrop n page sz).mapTasks (fun t => t.id.fn == n) (Task.forget (inPage page sz))).setFn n
      { f with ucode := 0, unmaps := f.unmaps ++ [⟨page, sz, []⟩] }) := by
  have hpage' : BitVec.ofNat 64 (bitsAt f.unmapva 16 41) = page := by rw [hpage, ← toNat_slice, BitVec.ofNat_toNat]
  have hruns : (s.all.filter fun t => t.id.fn == n && t.isPlaced && t.run.act.hasGen) = [] :=
    List.filter_eq_nil_iff.2 fun t ht => by
      have h := hgen t ht
      simp_all
  have hme : ((s.tlbDrop n page sz).mapTasks (fun t => t.id.fn == n) (Task.forget (inPage page sz))).me.id = s.me.id := by
    rw [mapTasks_me]
    split <;> rfl
  subst hn hf hw hsz
  rw [exec_unmap, execUnmap]
  dsimp only
  rw [ofNat_bitsAt, if_neg hvalid, if_neg (by omega), hruns, hpage', List.map_nil, List.foldl_nil, ← hme, focus_self, Option.getD_some]

end

/-! ### The end of an unmap -/

theorem unmapComplete_none (h : f.unmaps = []) : exec .unmapComplete s = .next s := by
  subst hn hf
  rw [exec_unmapComplete, execUnmapComplete]
  simp [h]

section

variable {u : Unmap} {rest : List Unmap} (hu : f.unmaps.map s.waits = u :: rest)

include hu

theorem unmapComplete_waits (h : u.runs ≠ []) : exec .unmapComplete s = .next (s.setFn n { f with unmaps := u :: rest }) := by
  subst hn hf
  simp [exec_unmapComplete, execUnmapComplete, hu, h]

theorem unmapComplete_ends (h : u.runs = []) : exec .unmapComplete s = .next
    (if rest = [] then (s.setFn n { f with unmaps := rest }).msix n 2 else s.setFn n { f with unmaps := rest }) := by
  subst hn hf
  simp [exec_unmapComplete, execUnmapComplete, hu, h]

end

end

theorem waits_runs_eq_nil_iff {s : State} {u : Unmap} : (s.waits u).runs = [] ↔ ∀ x ∈ u.runs, (s.unleft u x).2 = [] := by
  simp only [State.waits, List.filter_eq_nil_iff, List.forall_mem_map, Bool.not_eq_true, Bool.not_eq_false', List.isEmpty_iff]

/-- A run has no element left once each that had latched the page has let the token go or has been stopped by a fault, or the run has
left its mill (R132, R403). -/
theorem unleft_eq_nil_iff {s : State} {u : Unmap} {x : TaskId × List (Nat × Bool)} : (s.unleft u x).2 = [] ↔
    ∀ t, s.task? x.1 = some t → t.isPlaced = true → t.ctx.st ≠ .swapped → ∀ e ∈ x.2,
      (t.run.elem e.1).stopped = true ∨ e.2 = true ∧ (t.run.elem e.1).carries u.page u.sz = false := by
  unfold State.unleft
  split
  · rename_i h
    exact ⟨fun _ t ht => absurd (h.symm.trans ht) nofun, fun _ => rfl⟩
  · rename_i t h
    simp only [h, Option.some.injEq, forall_eq']
    split
    · rename_i hgone
      refine ⟨fun _ hp hs => ?_, fun _ => rfl⟩
      simp [hp, hs] at hgone
    · rename_i hthere
      simp only [Bool.or_eq_true, Bool.not_eq_true', beq_iff_eq, not_or, Bool.not_eq_false] at hthere
      obtain ⟨hp, hs⟩ := hthere
      simp only [hp, hs, ne_eq, not_false_eq_true, forall_const, List.filter_eq_nil_iff]
      refine forall₂_congr fun e _ => ?_
      cases (t.run.elem e.1).stopped <;> cases e.2 <;> simp

theorem msix_getLsbD (s : State) (n : Nat) : ((s.msix n 2).fn n).msix.getLsbD 2 = true := by
  rw [State.msix, fn_setFn]
  simp

/-- With the last request vector 2 fires. -/
theorem unmaps_rest {s t : State} {n : Nat} {f : Fn} {rest : List Unmap}
    (ht : t = if rest = [] then (s.setFn n { f with unmaps := rest }).msix n 2 else s.setFn n { f with unmaps := rest }) :
    (t.fn n).unmaps = rest ∧ (rest = [] → (t.fn n).msix.getLsbD 2 = true) ∧ t.mem = s.mem := by
  subst ht
  split
  · exact ⟨by rw [State.msix, fn_setFn, fn_setFn], fun _ => msix_getLsbD .., rfl⟩
  · rename_i h
    exact ⟨by rw [fn_setFn], fun h' => absurd h' h, rfl⟩

/-! ## BAR2 (R404) -/

/-- What an access of BAR2 that is reached ends with: its data, or a fault with its record. -/
def State.bar2End (s : State) (n : Nat) : Except (BitVec 8 × Word) (State × List Byte) → State
  | .ok (u, bs) => { u with bar2 := some bs }
  | .error (c, a) => { s.devFault n c a with bar2 := none }

theorem bar2_unreached {s : State} (h : s.wh.recovery = true ∨ s.wh.shut = true) :
    exec .bar2Access s = .next { s with bar2 := none } := by
  rcases h with h | h <;> simp [exec_bar2Access, execBar2Access, h]

section

variable {s : State} {n : Nat} {va : Word} (hn : n = s.cur.arg.fn)
  (hva : va = BitVec.ofInt 64 (signed 57 (((s.fn n).win.extractLsb' 36 21).toNat * 2 ^ 36 + s.cur.arg.k % 2 ^ 36)))
  (hrec : s.wh.recovery = false) (hshut : s.wh.shut = false)

include hn hva hrec hshut

theorem bar2_held (hbusy : s.meetsBusy n va (if s.cur.arg.wr then s.cur.arg.bytes.length else s.cur.arg.n) = true) :
    exec .bar2Access s = .next { s with inputs := (.bar2Access, s.cur.arg) :: s.inputs } := by
  rw [toNat_slice] at hva
  subst hn hva
  rw [exec_bar2Access, execBar2Access, hrec, hshut]
  exact if_pos hbusy

variable (hfree : s.meetsBusy n va (if s.cur.arg.wr then s.cur.arg.bytes.length else s.cur.arg.n) = false)

include hfree

theorem bar2_writes (hwr : s.cur.arg.wr = true) :
    exec .bar2Access s = .next (s.bar2End n ((devWrite s n va s.cur.arg.bytes).map fun u => (u, []))) := by
  rw [toNat_slice] at hva
  subst hn hva
  rw [exec_bar2Access, execBar2Access, hrec, hshut]
  refine (if_neg (Bool.eq_false_iff.1 hfree)).trans ((if_pos hwr).trans ?_)
  split <;> rename_i h <;> rw [h] <;> rfl

theorem bar2_reads (hwr : s.cur.arg.wr = false) :
    exec .bar2Access s = .next (s.bar2End n ((devRead s n va s.cur.arg.n).map fun bs => (s, bs))) := by
  rw [toNat_slice] at hva
  subst hn hva
  rw [exec_bar2Access, execBar2Access, hrec, hshut]
  refine (if_neg (Bool.eq_false_iff.1 hfree)).trans ((if_neg (Bool.eq_false_iff.1 hwr)).trans ?_)
  split <;> rename_i h <;> rw [h] <;> rfl

end

/-! ## Register writes (R405, R406, R437) -/

theorem registerWrite_unreached {s : State} (h : s.wh.recovery = true ∨ s.wh.shut = true) :
    exec .registerWrite s = .next s ∧ ∀ n off, s.bar0 n off = none := by
  rcases h with h | h <;> simp [exec_registerWrite, execRegisterWrite, State.bar0, h]

/-- Of a root that is in use only bit 0 changes. -/
theorem ptroot_written (active : Bool) (r w : Word) {v : Word}
    (hv : v = if active then setBit r 0 (w.getLsbD 0) else w &&& 0x000FFFFFFFFFF001) : v.getLsbD 0 = w.getLsbD 0 ∧
    (active = true → v.extractLsb' 1 63 = r.extractLsb' 1 63) ∧ (active = false → v = w &&& 0x000FFFFFFFFFF001) := by
  subst hv
  cases active
  · refine ⟨?_, nofun, fun _ => rfl⟩
    simp
  · refine ⟨?_, fun _ => BitVec.eq_of_getLsbD_eq fun k hk => ?_, nofun⟩
    · exact getLsbD_setBit r 0 _ (by decide)
    · simp only [BitVec.getLsbD_extractLsb', if_true, getLsbD_setBit r 0 _ (show 1 + k < 64 by omega), Nat.add_eq_zero_iff,
        one_ne_zero, false_and, if_false]

/-- The registers of a function that only keep what is written, by the bits that they keep. -/
def plainRegs : List (Nat × Word) := [(0x018, 0xFFFFFFFFFFFFFFFF), (0x030, 0x01FFFFFFFFFF0000), (0x048, 0x01FFFFFFFFFFF000), (0x050, 0x1F),
  (0x070, 0x01FFFFFFFFFFE000), (0x078, 0x01FFFFFFFFFFFFFF), (0x080, 0x01FFFFFFFFFF1FFF), (0x088, 0x01FFFFFFFFFFFFFF),
  (0x090, 0x01FFFFF000000000), (0x0C0, 0x7FF), (0x0E0, 0x3F07), (0x400, 0xFFFFFFFFFFFFFFFF), (0x410, 0xFFFFFFFFFFFFFFFF),
  (0x420, 0x0003FFFFFFFFFFFF), (0x440, 0x01FFFFFFFFFFF000)]

/-- Those of a replay, which keep it only while none is in progress (R447). -/
def replayRegs : List (Nat × Word) := [(0x488, 0x3F), (0x490, 0x01FFFFFFFFFFFFFF),
  (0x498, 0x01FFFFFFFFFFFFF8), (0x4A0, 0x01FFFFFFFFFFFFDF)]

/-- The fields of a register that keeps what is written, each by its lowest bit and its width (R405, R422, R437). -/
def regFields : Nat → List (Nat × Nat)
  | 0x018 | 0x400 | 0x410 => [(0, 64)]
  | 0x030 => [(16, 41)]
  | 0x048 | 0x440 => [(12, 45)]
  | 0x050 => [(0, 5)]
  | 0x070 => [(13, 44)]
  | 0x078 | 0x088 | 0x490 => [(0, 16), (16, 41)]
  | 0x080 => [(0, 13), (16, 41)]
  | 0x090 => [(36, 21)]
  | 0x0C0 => [(0, 11)]
  | 0x0E0 => [(0, 3), (8, 6)]
  | 0x420 => [(0, 50)]
  | 0x488 => [(0, 6)]
  | 0x498 => [(3, 54)]
  | 0x4A0 => [(0, 5), (6, 51)]
  | _ => []

/-- The bits that a register keeps are those of its fields. -/
theorem mask_eq_fieldsOf {x : Nat × Word} (hx : x ∈ plainRegs ++ replayRegs) :
    fieldsOf (BitVec.allOnes 64) (regFields x.1) = x.2 := by
  fin_cases hx <;> rfl

theorem fieldsOf_whole (w : Word) : fieldsOf w [(0, 64)] = w :=
  (fieldsOf_eq_and w _).trans BitVec.and_allOnes

theorem fieldsOf_low5 (w : Word) : fieldsOf w [(0, 5)] = (BitVec.ofNat 5 (bitsAt w 0 5)).setWidth 64 := by
  rw [ofNat_bitsAt, ← BitVec.ofNat_toNat, toNat_slice, fieldsOf_eq_and]
  exact ((congrArg _ (Nat.mul_one _).symm).trans (field_eq_and w 0 5)).symm

/-- A register reads as the fields that it keeps of the word written. -/
theorem bar0Word_store {x : Nat × Word} (hx : x ∈ plainRegs ++ replayRegs) (s : State) (n : Nat) (f : Fn) (w : Word) :
    (s.setFn n (f.store x.1 w)).bar0Word n x.1 = fieldsOf w (regFields x.1) := by
  fin_cases hx <;>
    simp only [State.bar0Word, Fn.store, fn_setFn, regFields, fieldsOf_whole, fieldsOf_low5, Vector.getElem_set_self]

section

variable {s : State} {n : Nat} {f : Fn} {w : Word} (hn : n = s.cur.arg.fn) (hf : f = s.fn n) (hw : w = s.cur.arg.w)
  (hrec : s.wh.recovery = false) (hshut : s.wh.shut = false)

include hrec hshut

/-- A read gives the bits of a written word that the register keeps. -/
theorem bar0_store {x : Nat × Word} (hx : x ∈ plainRegs ++ replayRegs) :
    (s.setFn n (f.store x.1 w)).bar0 n x.1 = some (w &&& x.2) := by
  have hread : (s.setFn n (f.store x.1 w)).bar0 n x.1 = some ((s.setFn n (f.store x.1 w)).bar0Word n x.1) := by
    simp [State.bar0, hrec, hshut]
  rw [hread, bar0Word_store hx, fieldsOf_eq_and, mask_eq_fieldsOf hx]

include hn hf hw

theorem registerWrite_stores {x : Nat × Word} (hx : x ∈ plainRegs) (hoff : s.cur.arg.n = x.1) :
    exec .registerWrite s = .next (s.setFn n (f.store x.1 w)) := by
  subst hn hf hw
  rw [exec_registerWrite, execRegisterWrite, hrec, hshut, hoff]
  fin_cases hx <;> rfl

theorem registerWrite_replay {x : Nat × Word} (hx : x ∈ replayRegs) (hoff : s.cur.arg.n = x.1) :
    exec .registerWrite s = .next (if f.rpbusy then s else s.setFn n (f.store x.1 w)) := by
  subst hn hf hw
  rw [exec_registerWrite, execRegisterWrite, hrec, hshut, hoff]
  fin_cases hx <;> rfl

/-- PTROOT keeps its root while a task of the function is queued or placed. -/
theorem registerWrite_ptroot (hoff : s.cur.arg.n = 0x000) : exec .registerWrite s = .next (s.setFn n { f with
    ptroot := if s.fnActive n then setBit f.ptroot 0 (w.getLsbD 0) else w &&& 0x000FFFFFFFFFF001 }) := by
  have hroot : fieldsOf w [(0, 1), (12, 40)] = w &&& 0x000FFFFFFFFFF001 := fieldsOf_eq_and w _
  rw [← hroot]
  subst hn hf hw
  rw [exec_registerWrite, execRegisterWrite, hrec, hshut, hoff]
  cases s.fnActive s.cur.arg.fn <;> rfl

theorem registerWrite_tcop_eq (hoff : s.cur.arg.n = 0x020) : exec .registerWrite s = .next (if f.tcbusy then s
    else if w.extractLsb' 32 2 = 1 ∨ w.extractLsb' 32 2 = 2 then s.setFn n { f with tcop := w &&& 0x3FFFFFFFF, tcbusy := true }
    else s.setFn n { f with tccode := 3 }) := by
  have hop : fieldsOf w [(0, 34)] = w &&& 0x3FFFFFFFF := fieldsOf_eq_and w _
  rw [← hop]
  subst hn hf hw
  simp [exec_registerWrite, execRegisterWrite, hrec, hshut, hoff, slice_eq_iff]

theorem registerWrite_tcop_busy (hoff : s.cur.arg.n = 0x020) (hbusy : f.tcbusy = true) : exec .registerWrite s = .next s := by
  rw [registerWrite_tcop_eq hn hf hw hrec hshut hoff, if_pos hbusy]

section

variable (hoff : s.cur.arg.n = 0x020) (hidle : f.tcbusy = false)

include hoff hidle

theorem registerWrite_tcop_reserved (hop : w.extractLsb' 32 2 = 0 ∨ w.extractLsb' 32 2 = 3) :
    exec .registerWrite s = .next (s.setFn n { f with tccode := 3 }) := by
  have hop' : ¬ (w.extractLsb' 32 2 = 1 ∨ w.extractLsb' 32 2 = 2) := by
    rcases hop with h | h <;> rw [h] <;> decide
  rw [registerWrite_tcop_eq hn hf hw hrec hshut hoff, if_neg (Bool.eq_false_iff.1 hidle), if_neg hop']

theorem registerWrite_tcop_begins (hop : w.extractLsb' 32 2 = 1 ∨ w.extractLsb' 32 2 = 2) :
    exec .registerWrite s = .next (s.setFn n { f with tcop := w &&& 0x3FFFFFFFF, tcbusy := true }) := by
  rw [registerWrite_tcop_eq hn hf hw hrec hshut hoff, if_neg (Bool.eq_false_iff.1 hidle), if_pos hop]

end

end

/-- A register whose write has a behaviour of its own hands it to its event. -/
theorem registerWrite_raises {s : State} (hrec : s.wh.recovery = false) (hshut : s.wh.shut = false) {x : Nat × Instr}
    (hx : x ∈ [((0x008 : Nat), Instr.launch), (0x038, .unmap), (0x0D0, .bankreq), (0x480, .replayStart)])
    (hoff : s.cur.arg.n = x.1) : exec .registerWrite s = .next (s.raise x.2 s.cur.arg) := by
  rw [exec_registerWrite, execRegisterWrite, hrec, hshut, hoff]
  fin_cases hx <;> rfl

theorem registerWrite_ptctl {s : State} (hrec : s.wh.recovery = false) (hshut : s.wh.shut = false) (hoff : s.cur.arg.n = 0x0E8) :
    exec .registerWrite s = .next
      ((s.raise (if s.cur.arg.w.getLsbD 2 then .ptctlRunStart else .ptctlRunStop) s.cur.arg).raise .ptctlMode s.cur.arg) := by
  rw [exec_registerWrite, execRegisterWrite, hrec, hshut, hoff]
  rfl

/-! ## The obligation of the host interface -/

/-- Settles O55: RESUME and KILL, an unmap and its end, BAR2 and register writes, each by the lemmas of its cases. -/
theorem hostInterface : Obligations.HostInterface := by
  unfold Obligations.HostInterface
  intro s n f w id hn hf hw hid
  refine ⟨fun hbusy hop hspill => ⟨tcopResume_absent hn hf hid hbusy hop hspill, fun t => tcopResume_resumes hn hf hid hbusy hop hspill,
      fun t => tcopResume_refused hn hf hid hbusy hop hspill⟩,
    fun t => ⟨resumable_stop, fun now hst => ?_⟩,
    fun hbusy hop => ⟨tcopKill_absent hn hf hid hbusy hop, fun t => tcopKill_refused hn hf hid hbusy hop,
      fun t u => tcopKill_kills hn hf hid hbusy hop⟩,
    unmap_reserved hn hf hw, unmap_full hn hf hw,
    fun hsz hroom hgen => ⟨_, unmap_queued hn hf hw rfl rfl hsz hroom hgen, ?_⟩, unmapComplete_none hn hf, fun u => ?_,
    fun u rest hu => ⟨unmapComplete_waits hn hf hu, fun hruns => ⟨_, unmapComplete_ends hn hf hu hruns, unmaps_rest rfl⟩⟩,
    fun va hva => ?_, fun h => ?_, fun hrec hshut => ?_⟩
  · obtain ⟨hpc, htm, hg, hrep⟩ := resume_trapped hst
    exact ⟨rfl, hpc, htm, hg, hrep, fun c => faulted_of_mem_resume⟩
  · rw [fn_setFn]
    exact ⟨rfl, rfl, rfl, fun m e he hfn => inPage_of_mem_tlbDrop he hfn⟩
  · rw [waits_runs_eq_nil_iff]
    exact forall₂_congr fun x _ => unleft_eq_nil_iff.symm
  · rw [hf] at hva
    refine ⟨bar2_unreached, bar2_held hn hva, fun hrec hshut hfree => ?_⟩
    have hwrites := bar2_writes hn hva hrec hshut hfree
    have hreads := bar2_reads hn hva hrec hshut hfree
    exact ⟨fun u hwr hu => by rw [hwrites hwr, hu]; rfl, fun bs hwr hbs => by rw [hreads hwr, hbs]; rfl,
      fun c a hwr he => by rw [hwrites hwr, he]; rfl, fun c a hwr he => by rw [hreads hwr, he]; rfl⟩
  · obtain ⟨hwrite, hread⟩ := registerWrite_unreached h
    exact ⟨hwrite, hread n⟩
  · refine ⟨fun x => registerWrite_raises hrec hshut, fun hoff => ?_,
      fun hoff => ⟨_, registerWrite_ptroot hn hf hw hrec hshut hoff, ?_⟩,
      fun hoff hidle => ⟨registerWrite_tcop_reserved hn hf hw hrec hshut hoff hidle,
        registerWrite_tcop_begins hn hf hw hrec hshut hoff hidle⟩,
      registerWrite_tcop_busy hn hf hw hrec hshut,
      fun x hx hoff => ⟨_, registerWrite_stores hn hf hw hrec hshut hx hoff, bar0_store hrec hshut (List.mem_append_left _ hx), rfl⟩,
      fun x hx hoff => ⟨fun hbusy => ?_, fun hidle => ⟨s.setFn n (f.store x.1 w), ?_,
        bar0_store hrec hshut (List.mem_append_right _ hx), rfl⟩⟩⟩
    · rw [registerWrite_ptctl hrec hshut hoff, hw]
      rfl
    · rw [fn_setFn]
      exact ptroot_written (s.fnActive n) f.ptroot w rfl
    · rw [registerWrite_replay hn hf hw hrec hshut hx hoff, if_pos hbusy]
    · rw [registerWrite_replay hn hf hw hrec hshut hx hoff, if_neg (Bool.eq_false_iff.1 hidle)]

end Sys2Proof.Machine
end

/-!
SUPPORT. The words of an instruction read back from bytes (R4, R161, R164, R177): four bytes make a word, the literal words that
follow are as many as MAJOR and LCNT say, and one lemma per constructor gathers into one over every instruction.
-/
section

namespace Sys2Proof.Laws.RoundTrip

/-- The decoder gives every well-formed instruction back: each constructor by its own lemma, and an event has no code. -/
theorem roundTrip (i : Instr) : Statement i := by
  cases i with
  | add g d a b => exact add g d a b
  | addW g d a b => exact addW g d a b
  | sub g d a b => exact sub g d a b
  | subW g d a b => exact subW g d a b
  | mul g d a b => exact mul g d a b
  | mulW g d a b => exact mulW g d a b
  | mulh g d a b => exact mulh g d a b
  | mulhu g d a b => exact mulhu g d a b
  | div g d a b => exact div g d a b
  | divW g d a b => exact divW g d a b
  | divu g d a b => exact divu g d a b
  | divuW g d a b => exact divuW g d a b
  | rem g d a b => exact rem g d a b
  | remW g d a b => exact remW g d a b
  | remu g d a b => exact remu g d a b
  | remuW g d a b => exact remuW g d a b
  | min g d a b => exact min g d a b
  | max g d a b => exact max g d a b
  | minu g d a b => exact minu g d a b
  | maxu g d a b => exact maxu g d a b
  | and g d a b => exact and g d a b
  | or g d a b => exact or g d a b
  | xor g d a b => exact xor g d a b
  | shl g d a b => exact shl g d a b
  | shlW g d a b => exact shlW g d a b
  | shr g d a b => exact shr g d a b
  | shrW g d a b => exact shrW g d a b
  | sra g d a b => exact sra g d a b
  | sraW g d a b => exact sraW g d a b
  | clz g d a => exact clz g d a
  | clzW g d a => exact clzW g d a
  | ctz g d a => exact ctz g d a
  | ctzW g d a => exact ctzW g d a
  | popc g d a => exact popc g d a
  | popcW g d a => exact popcW g d a
  | sextB g d a => exact sextB g d a
  | sextH g d a => exact sextH g d a
  | sextW g d a => exact sextW g d a
  | zextB g d a => exact zextB g d a
  | zextH g d a => exact zextH g d a
  | zextW g d a => exact zextW g d a
  | addi g d a imm => exact addi g d a imm
  | addiW g d a imm => exact addiW g d a imm
  | andi g d a imm => exact andi g d a imm
  | ori g d a imm => exact ori g d a imm
  | xori g d a imm => exact xori g d a imm
  | shlImm g d a sh => exact shlImm g d a sh
  | shlWImm g d a sh => exact shlWImm g d a sh
  | shrImm g d a sh => exact shrImm g d a sh
  | shrWImm g d a sh => exact shrWImm g d a sh
  | sraImm g d a sh => exact sraImm g d a sh
  | sraWImm g d a sh => exact sraWImm g d a sh
  | li g d imm => exact li g d imm
  | lih g d imm => exact lih g d imm
  | addpc g d imm => exact addpc g d imm
  | cmpEqImm g d a imm => exact cmpEqImm g d a imm
  | cmpNeImm g d a imm => exact cmpNeImm g d a imm
  | cmpLtImm g d a imm => exact cmpLtImm g d a imm
  | cmpLeImm g d a imm => exact cmpLeImm g d a imm
  | cmpLtuImm g d a imm => exact cmpLtuImm g d a imm
  | cmpLeuImm g d a imm => exact cmpLeuImm g d a imm
  | cmpEq g d a b => exact cmpEq g d a b
  | cmpNe g d a b => exact cmpNe g d a b
  | cmpLt g d a b => exact cmpLt g d a b
  | cmpLe g d a b => exact cmpLe g d a b
  | cmpLtu g d a b => exact cmpLtu g d a b
  | cmpLeu g d a b => exact cmpLeu g d a b
  | gand g d a b => exact gand g d a b
  | gor g d a b => exact gor g d a b
  | gxor g d a b => exact gxor g d a b
  | gnot g d a => exact gnot g d a
  | br g off => exact br g off
  | bl g off => exact bl g off
  | bi g a imm => exact bi g a imm
  | rep g a imm => exact rep g a imm
  | waitch g a => exact waitch g a
  | yield g => exact yield g
  | exit g => exact exit g
  | syncd g => exact syncd g
  | wfe g => exact wfe g
  | eret g => exact eret g
  | bkpt g => exact bkpt g
  | bara g n => exact bara g n
  | barw g n => exact barw g n
  | sel g d a b p => exact sel g d a b p
  | ldB g d a off => exact ldB g d a off
  | ldBu g d a off => exact ldBu g d a off
  | ldH g d a off => exact ldH g d a off
  | ldHu g d a off => exact ldHu g d a off
  | ldW g d a off => exact ldW g d a off
  | ldWu g d a off => exact ldWu g d a off
  | ldD g d a off => exact ldD g d a off
  | extr g d a wm1 pos => exact extr g d a wm1 pos
  | stB g x a off => exact stB g x a off
  | stH g x a off => exact stH g x a off
  | stW g x a off => exact stW g x a off
  | stD g x a off => exact stD g x a off
  | ldf g d a off => exact ldf g d a off
  | ldfS g d a off => exact ldfS g d a off
  | stf g x a off => exact stf g x a off
  | stfS g x a off => exact stfS g x a off
  | ldcW g d a off => exact ldcW g d a off
  | ldcWu g d a off => exact ldcWu g d a off
  | ldcD g d a off => exact ldcD g d a off
  | pref g lvl a off => exact pref g lvl a off
  | aadd g d a b => exact aadd g d a b
  | aaddW g d a b => exact aaddW g d a b
  | aand g d a b => exact aand g d a b
  | aandW g d a b => exact aandW g d a b
  | aor g d a b => exact aor g d a b
  | aorW g d a b => exact aorW g d a b
  | axor g d a b => exact axor g d a b
  | axorW g d a b => exact axorW g d a b
  | amin g d a b => exact amin g d a b
  | aminW g d a b => exact aminW g d a b
  | amax g d a b => exact amax g d a b
  | amaxW g d a b => exact amaxW g d a b
  | aminu g d a b => exact aminu g d a b
  | aminuW g d a b => exact aminuW g d a b
  | amaxu g d a b => exact amaxu g d a b
  | amaxuW g d a b => exact amaxuW g d a b
  | aswp g d a b => exact aswp g d a b
  | aswpW g d a b => exact aswpW g d a b
  | acas g d a b => exact acas g d a b
  | acasW g d a b => exact acasW g d a b
  | fadd g d a b => exact fadd g d a b
  | faddS g d a b => exact faddS g d a b
  | fsub g d a b => exact fsub g d a b
  | fsubS g d a b => exact fsubS g d a b
  | fmul g d a b => exact fmul g d a b
  | fmulS g d a b => exact fmulS g d a b
  | fdiv g d a b => exact fdiv g d a b
  | fdivS g d a b => exact fdivS g d a b
  | fsqrt g d a => exact fsqrt g d a
  | fsqrtS g d a => exact fsqrtS g d a
  | ffma g d a b => exact ffma g d a b
  | ffmaS g d a b => exact ffmaS g d a b
  | fmin g d a b => exact fmin g d a b
  | fminS g d a b => exact fminS g d a b
  | fmax g d a b => exact fmax g d a b
  | fmaxS g d a b => exact fmaxS g d a b
  | fcmpEq g d a b => exact fcmpEq g d a b
  | fcmpEqS g d a b => exact fcmpEqS g d a b
  | fcmpLt g d a b => exact fcmpLt g d a b
  | fcmpLtS g d a b => exact fcmpLtS g d a b
  | fcmpLe g d a b => exact fcmpLe g d a b
  | fcmpLeS g d a b => exact fcmpLeS g d a b
  | fcmpUn g d a b => exact fcmpUn g d a b
  | fcmpUnS g d a b => exact fcmpUnS g d a b
  | fcvtSD g d a => exact fcvtSD g d a
  | fcvtDS g d a => exact fcvtDS g d a
  | fcvtLD g d a => exact fcvtLD g d a
  | fcvtLuD g d a => exact fcvtLuD g d a
  | fcvtLS g d a => exact fcvtLS g d a
  | fcvtLuS g d a => exact fcvtLuS g d a
  | fcvtDL g d a => exact fcvtDL g d a
  | fcvtDLu g d a => exact fcvtDLu g d a
  | fcvtSL g d a => exact fcvtSL g d a
  | fcvtSLu g d a => exact fcvtSLu g d a
  | fclass g d a => exact fclass g d a
  | fclassS g d a => exact fclassS g d a
  | fmvg g d a => exact fmvg g d a
  | gmvf g d a => exact gmvf g d a
  | fli g d imm => exact fli g d imm
  | fliS g d imm => exact fliS g d imm
  | ins g d a wm1 pos => exact ins g d a wm1 pos
  | slnew g d a b => exact slnew g d a b
  | slmap g d a => exact slmap g d a
  | sldup g d a => exact sldup g d a
  | sldrop g a => exact sldrop g a
  | hmov g d a => exact hmov g d a
  | slxfer g d a => exact slxfer g d a
  | hrecv g d a => exact hrecv g d a
  | flnew g d a b => exact flnew g d a b
  | flawait g a b => exact flawait g a b
  | flrel g a b => exact flrel g a b
  | chclose g a => exact chclose g a
  | scm g d a => exact scm g d a
  | scw g a => exact scw g a
  | dlaunch g d a => exact dlaunch g d a
  | rsvpin g d a b => exact rsvpin g d a b
  | rsvunpin g a => exact rsvunpin g a
  | ctron g k => exact ctron g k
  | ctroff g k => exact ctroff g k
  | ctrrd g d k => exact ctrrd g d k
  | tlbinv g a => exact tlbinv g a
  | mfs g d sr => exact mfs g d sr
  | mts g sr a => exact mts g sr a
  | nstepi g imm => exact nstepi g imm
  | trap g imm => exact trap g imm
  | ctrsel g k ev => exact ctrsel g k ev
  | mark g imm => exact mark g imm
  | trig g line => exact trig g line
  | chbind g d ch => exact chbind g d ch
  | nop low => exact nop low
  | liw g d two l0 l1 => exact liw g d two l0 l1
  | sci g d a cmd => exact sci g d a cmd
  | scNop => exact scNop
  | scBind port cls => exact scBind port cls
  | scFence => exact scFence
  | scTok port ch tag => exact scTok port ch tag
  | scDrain port => exact scDrain port
  | scCopy port blk => exact scCopy port blk
  | scRcopy port blk rop st => exact scRcopy port blk rop st
  | scGath port blk esz lim => exact scGath port blk esz lim
  | scScat port blk esz lim => exact scScat port blk esz lim
  | scFlume port nslot => exact scFlume port nslot
  | scSlfill port blk => exact scSlfill port blk
  | scSlsee port blk => exact scSlsee port blk
  | scCfg blk => exact scCfg blk
  | scSwap => exact scSwap
  | scJob port blk => exact scJob port blk
  | scHalo port blk => exact scHalo port blk
  | scColl port blk => exact scColl port blk
  | pdot => exact pdot
  | pdots => exact pdots
  | pdotm => exact pdotm
  | accsw => exact accsw
  | drain => exact drain
  | enc => exact enc
  | dec => exact dec
  | padd => exact padd
  | pscl => exact pscl
  | pneg => exact pneg
  | pmsk => exact pmsk
  | eadd => exact eadd
  | esub => exact esub
  | emul => exact emul
  | efma => exact efma
  | emin => exact emin
  | emax => exact emax
  | ecmp => exact ecmp
  | esel => exact esel
  | eexp2 => exact eexp2
  | elog2 => exact elog2
  | ercp => exact ercp
  | ersq => exact ersq
  | cvtBf16Fp32 => exact cvtBf16Fp32
  | cvtFp16Fp32 => exact cvtFp16Fp32
  | cvtE4m3Fp32 => exact cvtE4m3Fp32
  | cvtE5m2Fp32 => exact cvtE5m2Fp32
  | cvtInt8Fp32 => exact cvtInt8Fp32
  | cvtI4sFp32 => exact cvtI4sFp32
  | cvtFp32Bf16 => exact cvtFp32Bf16
  | cvtFp32Fp16 => exact cvtFp32Fp16
  | cvtFp32E4m3 => exact cvtFp32E4m3
  | cvtFp32E5m2 => exact cvtFp32E5m2
  | cvtFp32Int8 => exact cvtFp32Int8
  | cvtFp32I4s => exact cvtFp32I4s
  | join => exact join
  | merge => exact merge
  | filt => exact filt
  | agloop => exact agloop
  | agld => exact agld
  | agst => exact agst
  | agred => exact agred
  | aggath => exact aggath
  | repl => exact repl
  | tokq => exact tokq
  | pass => exact pass
  | _ => exact fun _ _ _ h => absurd rfl h

end Sys2Proof.Laws.RoundTrip

namespace Sys2Proof

/-! ## Words from bytes (R4) -/

/-- A concatenation as a number. -/
theorem toNat_append_add {m n : Nat} (x : BitVec m) (y : BitVec n) : (x ++ y).toNat = x.toNat * 2 ^ n + y.toNat := by
  rw [BitVec.toNat_append, ← Nat.shiftLeft_add_eq_or_of_lt y.isLt, Nat.shiftLeft_eq]

/-- The bytes of a word, lowest first, make it up again. -/
theorem word32_bytes (w : BitVec 32) :
    word32 (.ofNat 8 w.toNat) (.ofNat 8 (w.toNat / 256)) (.ofNat 8 (w.toNat / 256 / 256))
      (.ofNat 8 (w.toNat / 256 / 256 / 256)) = w := by
  apply BitVec.eq_of_toNat_eq
  have hw := w.isLt
  unfold word32
  simp only [toNat_append_add, BitVec.toNat_ofNat]
  omega

theorem takeWord_bytesOf (w : BitVec 32) (rest : List Byte) : takeWord (bytesOf 4 w.toNat ++ rest) = some (w, rest) := by
  simp only [bytesOf, List.cons_append, List.nil_append, takeWord, word32_bytes]

theorem takeLits_bytesOf (ls : List (BitVec 32)) (rest : List Byte) :
    takeLits ls.length ((ls.flatMap fun x => bytesOf 4 x.toNat) ++ rest) = some (ls, rest) := by
  induction ls with
  | nil => rfl
  | cons l ls ih =>
    simp only [List.flatMap_cons, List.append_assoc, List.length_cons, takeLits, takeWord_bytesOf, ih, Option.map_some]

/-! ## Literal words (R164, R177) -/

theorem isHint_nop (low : BitVec 28) : isHint (1#4 ++ low) = true := by
  unfold isHint
  rw [extract_append_high _ _ _ _ (by decide), extract_all]
  rfl

/-- An instruction has as many literal words as its word says. -/
theorem litsOf_encode {i : Instr} {w : BitVec 32} {lits : List (BitVec 32)} (hr : i.reject = none)
    (h : encode i = .miller w lits) : Machine.litsOf w = lits.length := by
  unfold Machine.litsOf litCount
  cases i with
  | nop low => cases h; rw [isHint_nop, if_pos rfl, List.length_nil]
  | liw g d two l0 l1 =>
    have hg : g.ok = true := Laws.RoundTrip.guard_ok hr
    cases two with
    | false => cases h; rw [isHint_fx _ _ _ _ _ _ hg, wMajor_fx, wLcnt_fx]; rfl
    | true => cases h; rw [isHint_fx _ _ _ _ _ _ hg, wMajor_fx, wLcnt_fx]; rfl
  | sci g d a c => cases h; rw [isHint_fx _ _ _ _ _ _ (Laws.RoundTrip.guard_ok hr), wMajor_fx, wLcnt_fx]; rfl
  | _ => cases h <;> simp

/-! ## Decoding what was encoded -/

theorem decodeMiller_encode {i : Instr} {w : BitVec 32} {lits : List (BitVec 32)} (hr : i.reject = none)
    (h : encode i = .miller w lits) :
    decodeMiller w (lits.getD 0 0) (lits.getD 1 0) (lits.getD 2 0) (lits.getD 3 0) = .ok i := by
  have hs := Laws.RoundTrip.roundTrip i ⟨0, 0, 0, 0, 0, 0⟩ hr (by simp [h]) (by simp [h])
  rwa [h] at hs

/-- A word decodes before its literal words are read: as the instruction whose literal words are zero. -/
theorem decodeMiller_word {i : Instr} {w : BitVec 32} {lits : List (BitVec 32)} (hr : i.reject = none)
    (h : encode i = .miller w lits) : ∃ j, decodeMiller w 0 0 0 0 = .ok j := by
  by_cases hl : lits = []
  · subst hl
    exact ⟨i, decodeMiller_encode hr h⟩
  cases i with
  | liw g d two l0 l1 =>
    have hz : (Instr.liw g d two 0 0).reject = none := by
      simp [Instr.reject, firstReject, Laws.RoundTrip.guard_ok hr]
    cases two with
    | false => cases h; exact ⟨_, decodeMiller_encode hz rfl⟩
    | true => cases h; exact ⟨_, decodeMiller_encode hz rfl⟩
  | sci g d a c =>
    cases h
    exact ⟨_, decodeMiller_encode (i := .sci g d a 0) hr rfl⟩
  | _ => cases h <;> exact absurd rfl hl

/-- A miller instruction is read back from its bytes, and what follows them is left over (R4, R164). -/
theorem decodeBytes_encode {i : Instr} {w : BitVec 32} {lits : List (BitVec 32)} (hr : i.reject = none)
    (h : encode i = .miller w lits) (rest : List Byte) :
    decodeBytes (((w :: lits).flatMap fun x => bytesOf 4 x.toNat) ++ rest) = .ok (i, rest) := by
  obtain ⟨j, hj⟩ := decodeMiller_word hr h
  have hi := decodeMiller_encode hr h
  have hn : (if isHint w then 0 else litCount w) = lits.length := litsOf_encode hr h
  simp only [decodeBytes, List.flatMap_cons, List.append_assoc, takeWord_bytesOf, hj, hn, takeLits_bytesOf]
  cases lits with
  | nil => exact congrArg (fun x => x.map (·, rest)) (hj.symm.trans hi)
  | cons l ls => rw [hi]; rfl

theorem decodeCommand_encode {i : Instr} {c : BitVec 128} (hr : i.reject = none) (h : encode i = .command c) :
    decodeCommand c = .ok i := by
  have hs := Laws.RoundTrip.roundTrip i ⟨0, 0, 0, 0, 0, 0⟩ hr (by simp [h]) (by simp [h])
  rwa [h] at hs

theorem decodeElement_encode {i : Instr} {op : BitVec 8} {f : ElemFields} (hr : i.reject = none) (h : encode i = .element op)
    (hf : i.elemReject f = none) : decodeElement (elemWord op f) = .ok i := by
  have hs := Laws.RoundTrip.roundTrip i f hr (fun _ _ => hf) (by simp [h])
  rwa [h] at hs

theorem decodeTableWord_command (c : BitVec 128) : decodeTableWord 128 c.toNat = (decodeCommand c).toOption := by
  simp [decodeTableWord]

theorem decodeTableWord_element (w : BitVec 64) : decodeTableWord 64 w.toNat = (decodeElement w).toOption := by
  simp [decodeTableWord]

end Sys2Proof

namespace Sys2Proof.Machine

/-- Settles O1: each layer decodes what it encodes, and the literal words of a miller instruction are as many as its word says. -/
theorem decodeEncode : Obligations.DecodeEncode := by
  unfold Obligations.DecodeEncode
  refine fun i hr => ⟨fun w lits rest h => decodeBytes_encode hr h rest, fun c h => ?_, fun op f h hf => ?_⟩
  · have hd := decodeCommand_encode hr h
    exact ⟨hd, by rw [decodeTableWord_command, hd]; rfl⟩
  · have hd := decodeElement_encode hr h hf
    exact ⟨hd, eFields_elemWord op f, by rw [decodeTableWord_element, hd]; rfl⟩

/-- Settles O2: the decoder evaluated at each word. -/
theorem specWords : Obligations.SpecWords := by
  unfold Obligations.SpecWords
  decide +kernel

end Sys2Proof.Machine

end

/-!
SUPPORT. What an instruction answers once its guard holds and its operands say whether it runs (R19, R20), registers as destinations
and sources (R20, R162), and the gate of operands that are not ready (R188, R238, R245).
-/
section

namespace Sys2Proof.Machine

/-! ## An instruction whose guard is true -/

section

variable {i : Instr} {g : Guard} {s : State} {k : State → Res} {srcs : List (BitVec 5)} {dst : Option (BitVec 5)} {both : Bool}

theorem guarded_true (hg : s.me.ctx.guardTrue g = true) : guarded i g s k = k s := if_pos hg

theorem gated_go (hg : s.me.ctx.guardTrue g = true) (h : s.gate i srcs dst both = .go) :
    gated i g srcs dst both s k = k s := by
  unfold gated
  rw [guarded_true hg, h]

theorem gated_trap (hg : s.me.ctx.guardTrue g = true) {c : BitVec 8} {x : Word} (h : s.gate i srcs dst both = .trap c x) :
    gated i g srcs dst both s k = .next (s.trapAt c x) := by
  unfold gated
  rw [guarded_true hg, h]

theorem gated_wait (hg : s.me.ctx.guardTrue g = true) {w : WaitOn} (h : s.gate i srcs dst both = .wait w) :
    gated i g srcs dst both s k = .next (s.waitOn w) := by
  unfold gated
  rw [guarded_true hg, h]

/-- No source, and a destination that is ready. -/
theorem gated_dst {d : BitVec 5} (hg : s.me.ctx.guardTrue g = true) (hd : s.DstReady d) :
    gated i g [] (some d) false s k = k s := gated_go hg (gate_ready i (fun _ h => nomatch h) hd)

/-- One source that is ready, and no destination. -/
theorem gated_src {a : BitVec 5} (hg : s.me.ctx.guardTrue g = true) (ha : s.SrcReady a) :
    gated i g [a] none false s k = k s := gated_go hg (gate_src i false (ready1 ha))

/-- One source and a destination that are ready. -/
theorem gated_src_dst {a d : BitVec 5} (hg : s.me.ctx.guardTrue g = true) (ha : s.SrcReady a) (hd : s.DstReady d) :
    gated i g [a] (some d) false s k = k s := gated_go hg (gate_ready i (ready1 ha) hd)

end

/-! ## A channel that is changed -/

/-- A channel of the acting task's node is found as it has been changed. -/
theorem myChan_mapChan {s : State} {ch : BitVec 12} {x : Chan} {f : Chan → Chan} (hx : s.myChan ch = some x)
    (hf : ∀ y, (f y).fn = y.fn ∧ (f y).blk = y.blk ∧ (f y).ch = y.ch) :
    (s.mapChan x.fn x.blk x.ch f).myChan ch = some (f x) := by
  obtain ⟨h1, h2, h3⟩ := chan?_key hx
  rw [h1, h2, h3]
  exact chan?_mapChan hx hf

/-! ## A destination -/

section

variable {s : State} {d : BitVec 5}

/-- A write to a register that names no channel changes that register alone (R162). -/
theorem putG_plain (h : s.Plain d) (v : Word) : s.putG d v = { s with me := { s.me with ctx := s.me.ctx.wg d v } } := by
  unfold State.putG
  rw [h]
  rfl

theorem wg_frame (c : Ctx) (d : BitVec 5) (v : Word) : c.wg d v = { c with g := (c.wg d v).g } := by
  unfold Ctx.wg
  split <;> rfl

/-- A write to a register bound to a producer end whose consumer is open puts one word on the channel (R20). -/
theorem putG_open {b : Binding} {x : Chan} (hb : s.me.ctx.binding d = some b) (hx : s.myChan b.ch = some x)
    (ho : s.consumerClosed x = false) (v : Word) : s.putG d v =
      (s.count 0x030 1).mapChan x.fn x.blk x.ch fun c => { c with wire := c.wire ++ [⟨v, false, 0⟩] } := by
  unfold State.putG
  rw [hb]
  exact push_open hx ho _

end

/-! ## Sources -/

section

variable {s : State} {a : BitVec 5}

theorem popSrcs_plain {rs : List (BitVec 5)} (h : ∀ r ∈ rs, s.Plain r) : s.popSrcs rs = s := by
  unfold State.popSrcs
  have hp : ∀ r ∈ rs.eraseDups, s.Plain r := fun r hr => h r (List.mem_eraseDups.1 hr)
  generalize rs.eraseDups = l at hp
  induction l with
  | nil => rfl
  | cons r l ih =>
    rw [List.foldl_cons, hp r List.mem_cons_self]
    exact ih fun x hx => hp x (List.mem_cons_of_mem _ hx)

theorem src_plain (h : s.Plain a) : s.src a = if a = 0 then 0 else s.me.ctx.g[a.toNat]'(a.isLt) := by
  unfold State.src
  rw [h]
  rfl

theorem popSrcs_twice (s : State) (a : BitVec 5) : s.popSrcs [a, a] = s.popSrcs [a] := by
  simp [State.popSrcs, List.eraseDups_cons]

theorem popSrcs_bound {e : Binding} (he : s.me.ctx.binding a = some e) : s.popSrcs [a] = s.pop e.ch := by
  simp [State.popSrcs, List.eraseDups_cons, he]

theorem headOf_bound {e : Binding} {x : Chan} (he : s.me.ctx.binding a = some e) (hx : s.myChan e.ch = some x) :
    s.headOf a = x.front.head? := by
  simp only [State.headOf, he, hx]

theorem src_bound {e : Binding} {w : ChWord} (he : s.me.ctx.binding a = some e) (hw : s.headOf a = some w) : s.src a = w.val := by
  simp only [State.src, he, hw, Option.map_some, Option.getD_some]

theorem pop_front {ch : BitVec 12} {x : Chan} {w : ChWord} {rest : List ChWord} (hx : s.myChan ch = some x)
    (hf : x.front = w :: rest) :
    s.pop ch = (s.refit x rest).mapCtx fun c => { c with clock := max c.clock w.clk } := by
  simp only [State.pop, hx, hf]

/-- What has arrived at a consumer end after a pop is what stood behind the head (R39). -/
theorem pop_myChan {ch : BitVec 12} {x : Chan} {w : ChWord} {rest : List ChWord} (hx : s.myChan ch = some x)
    (hf : x.front = w :: rest) : ∃ y, (s.pop ch).myChan ch = some y ∧ y.front = rest := by
  refine ⟨{ x with buf := rest.take x.places, spill := rest.drop x.places }, ?_, List.take_append_drop ..⟩
  rw [pop_front hx hf]
  exact myChan_mapChan hx (f := fun y => { y with buf := rest.take x.places, spill := rest.drop x.places })
    fun _ => ⟨rfl, rfl, rfl⟩

end

/-! ## Gates that an operand closes (R20, R188, R238, R245) -/

section

variable {s : State} {i : Instr} {srcs : List (BitVec 5)} {dst : Option (BitVec 5)} {both : Bool}

theorem endGate_src {r : BitVec 5} {e : Binding} (hr : r ∈ srcs) (he : s.me.ctx.binding r = some e) (hc : e.consumer = false) :
    s.endGate i srcs dst both = .trap 0x01 (infoWord i) := by
  unfold State.endGate
  refine if_pos ?_
  rw [Bool.or_eq_true, List.any_eq_true]
  exact .inl ⟨r, hr, by simp [he, hc]⟩

theorem endGate_dst {d : BitVec 5} {e : Binding} (he : s.me.ctx.binding d = some e) (hc : e.consumer = true) :
    s.endGate i srcs (some d) both = .trap 0x01 (infoWord i) := by
  unfold State.endGate
  refine if_pos ?_
  simp [he, hc]

/-- Every end is the right one. -/
theorem endGate_right {d : BitVec 5} (hs : ∀ r ∈ srcs, ∀ y, s.me.ctx.binding r = some y → y.consumer = true)
    (hd : ∀ y, s.me.ctx.binding d = some y → y.consumer = false) : s.endGate i srcs (some d) false = .go := by
  unfold State.endGate
  refine if_neg ?_
  rw [Bool.or_eq_true, List.any_eq_true]
  rintro (⟨r, hr, hx⟩ | hx)
  · cases hb : s.me.ctx.binding r with
    | none => simp [hb] at hx
    | some b => simp [hb, hs r hr b hb] at hx
  · cases hb : s.me.ctx.binding d with
    | none => simp [hb] at hx
    | some b => simp [hb, hd b hb] at hx

theorem gate_end {x : Gate} (h : s.endGate i srcs dst both = x) (hx : x ≠ .go) : s.gate i srcs dst both = x := by
  unfold State.gate
  rw [h]
  cases x with
  | go => exact absurd rfl hx
  | trap => rfl
  | wait => rfl

theorem gate_some (d : BitVec 5) : s.gate i srcs (some d) both =
    (s.endGate i srcs (some d) both).and
      ((s.dstGate i d both 1).and (srcs.foldl (fun g r => g.and (s.srcGate i r)) .go)) := rfl

/-- A destination's channel is looked at before any source. -/
theorem gate_dst {d : BitVec 5} {x : Gate} (he : s.endGate i srcs (some d) both = .go) (h : s.dstGate i d both 1 = x)
    (hx : x ≠ .go) : s.gate i srcs (some d) both = x := by
  rw [gate_some, he, h]
  cases x with
  | go => exact absurd rfl hx
  | trap => rfl
  | wait => rfl

/-- The first of two gates that fails, of many. -/
theorem foldl_and_closed {α : Type} (f : α → Gate) {x : Gate} (hx : x ≠ .go) (l : List α) :
    l.foldl (fun g r => g.and (f r)) x = x := by
  induction l with
  | nil => rfl
  | cons r l ih =>
    have hs : x.and (f r) = x := by
      cases x with
      | go => exact absurd rfl hx
      | trap => rfl
      | wait => rfl
    rw [List.foldl_cons, hs, ih]

theorem gate_first_src {d a : BitVec 5} {x : Gate} (he : s.endGate i (a :: srcs) (some d) both = .go)
    (hd : s.dstGate i d both 1 = .go) (h : s.srcGate i a = x) (hx : x ≠ .go) : s.gate i (a :: srcs) (some d) both = x := by
  rw [gate_some, he, hd]
  exact (congrArg (fun g => srcs.foldl (fun g r => g.and (s.srcGate i r)) g) h).trans (foldl_and_closed (s.srcGate i) hx srcs)

section

variable {d : BitVec 5} {e : Binding} {x : Chan} (he : s.me.ctx.binding d = some e) (hc : e.consumer = false)
  (hx : s.myChan e.ch = some x)

include he hc hx

theorem dstGate_strict (h : s.consumerClosed x = true) (hs : x.strict = true) :
    s.dstGate i d false 1 = .trap 0x0A (infoWord i) := by
  simp only [State.dstGate, he, hc, hx, h, hs]
  rfl

theorem dstGate_full (h : s.consumerClosed x = false) (hr : s.chanRoom x 1 = false) :
    s.dstGate i d false 1 = .wait (.chanRoom (d.setWidth 2) 1) := by
  simp only [State.dstGate, he, hc, hx, h, hr]
  rfl

end

section

variable {a : BitVec 5} {e : Binding} (he : s.me.ctx.binding a = some e) (hc : e.consumer = true)

include he hc

theorem srcGate_empty (h : s.headOf a = none) : s.srcGate i a = .wait (.chanWord (a.setWidth 2)) := by
  simp only [State.srcGate, he, hc, h]
  rfl

theorem srcGate_handle {w : ChWord} (h : s.headOf a = some w) (hw : w.handle = true) :
    s.srcGate i a = .trap 0x07 (a.setWidth 64) := by
  simp only [State.srcGate, he, hc, h, hw]
  rfl

end

end

/-! ## The instructions of two sources -/

/-- The instructions that read two g-registers and write a third. -/
def twoSource (g : Guard) (d a b : BitVec 5) : List Instr :=
  [.add g d a b, .sub g d a b, .mul g d a b, .mulh g d a b, .mulhu g d a b, .div g d a b, .divu g d a b, .rem g d a b,
    .remu g d a b, .min g d a b, .max g d a b, .minu g d a b, .maxu g d a b, .and g d a b, .or g d a b, .xor g d a b,
    .shl g d a b, .shr g d a b, .sra g d a b, .addW g d a b, .subW g d a b, .mulW g d a b, .divW g d a b, .divuW g d a b,
    .remW g d a b, .remuW g d a b, .shlW g d a b, .shrW g d a b, .sraW g d a b, .sel g d a b 0]

theorem gated_of_op3 {s : State} {g : Guard} {d a b : BitVec 5} {i : Instr} {f : Word → Word → Word}
    (h : exec i s = op3 i g d a b s f) : ∃ k, exec i s = gated i g [a, b] (some d) false s k := ⟨_, h⟩

/-- Each of them passes one gate before anything else. -/
theorem exec_twoSource (s : State) {g : Guard} {d a b : BitVec 5} {i : Instr} (hi : i ∈ twoSource g d a b) :
    ∃ k, exec i s = gated i g [a, b] (some d) false s k := by
  revert i
  simp only [twoSource, List.forall_mem_cons]
  exact ⟨gated_of_op3 (exec_add ..), gated_of_op3 (exec_sub ..), gated_of_op3 (exec_mul ..), gated_of_op3 (exec_mulh ..),
    gated_of_op3 (exec_mulhu ..), gated_of_op3 (exec_div ..), gated_of_op3 (exec_divu ..), gated_of_op3 (exec_rem ..),
    gated_of_op3 (exec_remu ..), gated_of_op3 (exec_min ..), gated_of_op3 (exec_max ..), gated_of_op3 (exec_minu ..),
    gated_of_op3 (exec_maxu ..), gated_of_op3 (exec_and ..), gated_of_op3 (exec_or ..), gated_of_op3 (exec_xor ..),
    gated_of_op3 (exec_shl ..), gated_of_op3 (exec_shr ..), gated_of_op3 (exec_sra ..), gated_of_op3 (exec_addW ..),
    gated_of_op3 (exec_subW ..), gated_of_op3 (exec_mulW ..), gated_of_op3 (exec_divW ..), gated_of_op3 (exec_divuW ..),
    gated_of_op3 (exec_remW ..), gated_of_op3 (exec_remuW ..), gated_of_op3 (exec_shlW ..), gated_of_op3 (exec_shrW ..),
    gated_of_op3 (exec_sraW ..), ⟨_, exec_sel ..⟩, fun _ h => nomatch h⟩

/-! ## The obligation of registers -/

/-- Settles O8: a destination is one register or one channel, a bound source its channel's head, and the first gate that an operand
closes is what a two-source instruction answers. -/
theorem readingAndWritingRegisters : Obligations.ReadingAndWritingRegisters := by
  unfold Obligations.ReadingAndWritingRegisters
  refine ⟨fun s d v => ⟨fun hp => ?_, fun b x hb hx ho => ?_⟩, fun s a b => ⟨fun ha hb => ?_, src_plain, ?_⟩, ?_⟩
  · refine ⟨s.me.ctx.wg d v, putG_plain hp v, ?_, fun r hr => Ctx.rg_wg_of_ne _ v hr, wg_frame ..⟩
    rw [rg_wg, if_pos rfl]
  · rw [putG_open hb hx ho]
    exact ⟨myChan_mapChan hx fun _ => ⟨rfl, rfl, rfl⟩, rfl, rfl⟩
  · exact ⟨popSrcs_plain (by simp [ha, hb]), popSrcs_plain (by simp [ha])⟩
  · intro e x w rest he hx hf
    have hw : s.headOf a = some w := by rw [headOf_bound he hx, hf]; rfl
    refine ⟨src_bound he hw, popSrcs_twice s a, ?_⟩
    rw [popSrcs_bound he]
    refine ⟨pop_myChan hx hf, ?_⟩
    rw [pop_front hx hf]
    exact ⟨rfl, rfl, rfl⟩
  · intro s g d a b i hi hg
    obtain ⟨k, hk⟩ := exec_twoSource s hi
    rw [hk]
    refine ⟨fun e he hc => gated_trap hg (gate_end (endGate_src List.mem_cons_self he hc) nofun),
      fun e he hc => gated_trap hg (gate_end (endGate_dst he hc) nofun), fun e x hs he hc hx => ?_, fun e hb hd he hc => ?_⟩
    · have hend : s.endGate i [a, b] (some d) false = .go :=
        endGate_right hs fun y hy => Option.some.inj (he.symm.trans hy) ▸ hc
      exact ⟨fun h1 h2 => gated_trap hg (gate_dst hend (dstGate_strict he hc hx h1 h2) nofun),
        fun h1 h2 => gated_wait hg (gate_dst hend (dstGate_full he hc hx h1 h2) nofun)⟩
    · have hend : s.endGate i [a, b] (some d) false = .go := by
        refine endGate_right (fun r hr y hy => ?_) fun y hy => (hd y hy).1
        rcases List.mem_pair.1 hr with rfl | rfl
        · exact Option.some.inj (he.symm.trans hy) ▸ hc
        · exact (hb y hy).1
      have hdst := dstGate_ready i hd
      exact ⟨fun h => gated_wait hg (gate_first_src hend hdst (srcGate_empty he hc h) nofun),
        fun w h hw => gated_trap hg (gate_first_src hend hdst (srcGate_handle he hc h hw) nofun)⟩

end Sys2Proof.Machine

end

/-!
SUPPORT. The values that MFS reads and the fields that MTS writes (R179, R228, R229), the counters (R254), and MARK and TRIG (R255).
-/
section

namespace Sys2Proof.Machine

/-! ## One-bit numbers -/

/-- A one-bit number of a Boolean, of either spelling. -/
theorem toNat_bool1 (b : Bool) : b.toNat = bool1 b := by
  cases b <;> rfl

theorem ofNat_bool1 (b : Bool) : BitVec.ofNat 64 (bool1 b) = if b then 1 else 0 := by
  cases b <;> rfl

/-! ## System registers (R179, R228, R229) -/

/-- STATUS, field by field (R229). -/
theorem status_eq (t : Task) : t.status = (0#43 ++ t.ctx.fpe ++ 0#3 ++ t.ctx.fpf ++ 0#5 ++ BitVec.ofBool t.eff.world ++
    BitVec.ofBool t.busy ++ BitVec.ofBool t.ctx.tm : BitVec 64) := by
  apply BitVec.eq_of_toNat_eq
  have he := t.ctx.fpe.isLt
  have hf := t.ctx.fpf.isLt
  have h1 : ∀ b, bool1 b < 2 := fun b => by cases b <;> decide
  have hw := h1 t.eff.world
  have hb := h1 t.busy
  have ht := h1 t.ctx.tm
  simp only [toNat_append_add, BitVec.toNat_ofBool, BitVec.toNat_ofNat, toNat_bool1]
  unfold Task.status Task.ebusy
  rw [BitVec.toNat_ofNat]
  omega

/-- The width of the atom network and the length of its atoms (R179). -/
theorem sysRead_knet (t : Task) : t.sysRead 0x006 = BitVec.ofNat 64 (t.knet.toNat + if t.long then 256 else 0) := by
  have h : bool1 t.long * 2 ^ 8 = if t.long then 256 else 0 := by
    cases t.long <;> rfl
  rw [← h]
  rfl

/-- MTS to ATOMFLAGS, as masks of the word (R59). -/
theorem atomFlagsWrite_eq (old set v : Word) :
    atomFlagsWrite old set v = (((old &&& ~~~v) ||| set) &&& 0x1F) ||| (v &&& 0x10000) := by
  generalize hx : (old &&& ~~~v) ||| set = x
  have hlow : (x &&& 0x1F).toNat = bitsAt x 0 5 := by
    rw [BitVec.toNat_and]
    exact Nat.and_two_pow_sub_one_eq_mod x.toNat 5
  have hhigh : (v &&& 0x10000).toNat = bool1 (bitAt v 16) * 2 ^ 16 := by
    rw [BitVec.toNat_and]
    refine (Nat.and_two_pow v.toNat 16).trans ?_
    rw [toNat_bool1]
    rfl
  have hlt : bitsAt x 0 5 < 2 ^ 16 := lt_of_lt_of_le (Nat.mod_lt _ (by decide)) (by decide : 2 ^ 5 ≤ 2 ^ 16)
  apply BitVec.eq_of_toNat_eq
  have hbit : bool1 (bitAt v 16) ≤ 1 := by cases bitAt v 16 <;> decide
  rw [BitVec.toNat_or, hlow, hhigh, Nat.or_comm, ← Nat.shiftLeft_eq, ← Nat.shiftLeft_add_eq_or_of_lt hlt]
  unfold atomFlagsWrite
  rw [hx, BitVec.toNat_ofNat, Nat.shiftLeft_eq]
  omega

/-- MTS to STATUS writes TM, FPF and FPE (R229). -/
theorem sysWrite_status (c : Ctx) (v : Word) :
    c.sysWrite 0x001 v = { c with tm := v.getLsbD 0, fpf := v.extractLsb' 8 5, fpe := v.extractLsb' 16 5 } := by
  rw [← ofNat_bitsAt v 8 5, ← ofNat_bitsAt v 16 5]
  rfl

theorem sysWrite_atomFlags (c : Ctx) (v : Word) : c.sysWrite 0x00B v =
    { c with atomFlags := (((c.atomFlags &&& ~~~v) ||| c.atomSet) &&& 0x1F) ||| (v &&& 0x10000) } :=
  congrArg (fun x : Word => { c with atomFlags := x }) (atomFlagsWrite_eq ..)

section

variable {s : State} {g : Guard} (hg : s.me.ctx.guardTrue g = true)

include hg

theorem exec_mfs_ready {d : BitVec 5} (hd : s.DstReady d) (r : BitVec 12) :
    exec (.mfs g d r) s = s.answerG [] d (s.me.sysRead r) (s.me.ctx.pc + 4) := by
  rw [exec_mfs, execMfs, gated_dst hg hd]
  rfl

theorem exec_mts_ready {a : BitVec 5} (ha : s.SrcReady a) {r : BitVec 12} (hr : r = 0x00C → s.me.ctx.attached = false) :
    exec (.mts g r a) s =
      .next (((s.popSrcs [a]).mapCtx fun c => c.sysWrite r (s.src a)).retireTo (s.me.ctx.pc + 4)) := by
  have hn : ¬ (decide (r = 0x00C) && s.me.ctx.attached) = true := by
    rw [Bool.and_eq_true, decide_eq_true_eq]
    exact fun h => Bool.eq_false_iff.1 (hr h.1) h.2
  rw [exec_mts, execMts, gated_src hg ha, if_neg hn]
  rfl

/-- DBGCTL is the debugger's while one is attached (R228). -/
theorem exec_mts_attached {a : BitVec 5} (ha : s.SrcReady a) (h : s.me.ctx.attached = true) :
    exec (.mts g 0x00C a) s = .next (s.trapAt 0x02 (infoWord (.mts g 0x00C a))) := by
  rw [exec_mts, execMts, gated_src hg ha, h]
  rfl

/-- NSTEPI adds modulo 2^32 (R250). -/
theorem exec_nstepi_eq (imm : BitVec 17) : exec (.nstepi g imm) s = .next ((s.mapCtx fun c =>
    { c with nstep := BitVec.ofNat 32 (c.nstep.toNat + imm.toNat) }).retireTo (s.me.ctx.pc + 4)) := by
  have h : ∀ n : BitVec 32, n + imm.setWidth 32 = BitVec.ofNat 32 (n.toNat + imm.toNat) := fun n => by
    rw [BitVec.ofNat_add, BitVec.ofNat_toNat, BitVec.ofNat_toNat, BitVec.setWidth_eq]
  rw [exec_nstepi, execNstepi, guarded_true hg]
  simp only [h]
  rfl

/-! ## WFE and TRIG (R259, R255) -/

theorem exec_wfe_latched (h : s.me.ctx.latch = true) :
    exec (.wfe g) s = .next ((s.mapCtx fun c => { c with latch := false }).retireTo (s.me.ctx.pc + 4)) := by
  rw [exec_wfe, execWfe, guarded_true hg, if_pos h]
  rfl

theorem exec_wfe_waits (h : s.me.ctx.latch = false) : exec (.wfe g) s = .next (s.waitOn .wfe) := by
  rw [exec_wfe, execWfe, guarded_true hg, if_neg (Bool.eq_false_iff.1 h)]

theorem exec_trig_eq (n : BitVec 12) : exec (.trig g n) s = .next ((s.mySource 1 n.toNat).retireTo (s.me.ctx.pc + 4)) := by
  rw [exec_trig, execTrig, guarded_true hg]
  rfl

end

/-! ## Counters (R254) -/

/-- Four counters: of the field's bits the two lowest name one. -/
theorem counter_eq (c : Ctx) (k : BitVec 5) (f : Counter → Counter) {j : Nat} (hj : j < 4) (h : j = k.toNat % 4) :
    c.counter k f = { c with ctrs := c.ctrs.set j (f (c.ctrs[j]'hj)) hj } := by
  subst h
  rfl

theorem counterVal_eq (c : Ctx) (k : BitVec 5) {j : Nat} (hj : j < 4) (h : j = k.toNat % 4) :
    c.counterVal k = (c.ctrs[j]'hj).val.setWidth 64 := by
  subst h
  rfl

/-! ## Marks (R255) -/

/-- The record that MARK writes with TREN set. -/
def State.markTraced (s : State) (n : BitVec 12) : State := if bitAt s.me.ctx.dbg 3 then s.trace 0x01 s.me.ctx.pc (zx n) else s

/-- The state that MARK retires from: the record, and MARK tokens with CPS set. -/
def State.marked (s : State) (n : BitVec 12) : State :=
  if bitAt s.me.ctx.dbg 4 then (s.markTraced n).mapMe fun t => t.injectMark n else s.markTraced n

theorem exec_mark_eq {s : State} {g : Guard} (hg : s.me.ctx.guardTrue g = true) (n : BitVec 12) :
    exec (.mark g n) s = .next ((s.marked n).retireTo (s.me.ctx.pc + 4)) := by
  rw [exec_mark, execMark, guarded_true hg]
  rfl

theorem traceOf_chans (s : State) (t : Task) (k : Nat) (a b : Word) (l : List Word) : (s.traceOf t k a b l).chans = s.chans := by
  unfold State.traceOf
  dsimp only
  split
  · rfl
  · split <;> rfl

theorem markTraced_frame (s : State) (n : BitVec 12) :
    (s.markTraced n).me = s.me ∧ (s.markTraced n).mem = s.mem ∧ (s.markTraced n).chans = s.chans := by
  unfold State.markTraced
  split
  · exact ⟨traceOf_me .., traceOf_mem .., traceOf_chans ..⟩
  · exact ⟨rfl, rfl, rfl⟩

/-- A mark reaches the trace and the run of the acting task, and nothing that a program can read. -/
theorem marked_frame (s : State) (n : BitVec 12) :
    (s.marked n).me.ctx = s.me.ctx ∧ (s.marked n).mem = s.mem ∧ (s.marked n).chans = s.chans := by
  obtain ⟨hme, hmem, hchans⟩ := markTraced_frame s n
  unfold State.marked
  split
  · exact ⟨(congrArg Task.ctx hme :), hmem, hchans⟩
  · exact ⟨congrArg Task.ctx hme, hmem, hchans⟩

theorem marked_off {s : State} (n : BitVec 12) (h4 : s.me.ctx.dbg.getLsbD 4 = false) (h3 : s.me.ctx.dbg.getLsbD 3 = false) :
    s.marked n = s := by
  simp only [State.marked, State.markTraced, bitAt, h4, h3, Bool.false_eq_true, if_false]

/-- The tokens of one MARK share one identity, the next of the run. -/
theorem marked_ident {s : State} (n : BitVec 12) (h : s.me.ctx.dbg.getLsbD 4 = true) :
    (s.marked n).me.run.ident = s.me.run.ident + 1 := by
  rw [State.marked, bitAt, if_pos h]
  exact congrArg (fun t : Task => t.run.ident + 1) (markTraced_frame s n).1

/-! ## The obligation of system registers and counters -/

/-- Settles O29: MFS and MTS by a table of the registers each, the counters by the two low bits of the field that names one. -/
theorem specialRegistersAndCounters : Obligations.SpecialRegistersAndCounters := by
  unfold Obligations.SpecialRegistersAndCounters
  refine ⟨?_, ?_⟩
  · rintro s g d a c v pc hg rfl rfl rfl
    refine ⟨fun hd y hy => ?_, fun hd => ?_, fun ha => ⟨fun y hy => ?_, exec_mts_attached hg ha, fun h => ?_⟩⟩
    · suffices h : s.me.sysRead y.1 = y.2 by rw [exec_mfs_ready hg hd, h]
      revert y
      simp only [List.forall_mem_cons]
      exact ⟨rfl, status_eq _, rfl, rfl, rfl, ofNat_bool1 _, rfl, rfl, rfl, rfl, rfl, rfl, rfl, rfl, fun _ h => nomatch h⟩
    · rw [exec_mfs_ready hg hd, sysRead_knet]
    · suffices h : y.1 ≠ 0x00C ∧ ∀ c : Ctx, c.sysWrite y.1 (s.src a) = y.2 c by
        rw [exec_mts_ready hg ha fun e => absurd e h.1, funext h.2]
      revert y
      simp only [List.forall_mem_cons]
      exact ⟨⟨by decide, fun _ => rfl⟩, ⟨by decide, fun _ => rfl⟩, ⟨by decide, fun _ => rfl⟩, ⟨by decide, fun _ => rfl⟩,
        ⟨by decide, fun c => sysWrite_status c _⟩, ⟨by decide, fun _ => rfl⟩, ⟨by decide, fun _ => rfl⟩,
        ⟨by decide, fun _ => rfl⟩, ⟨by decide, fun _ => rfl⟩, ⟨by decide, fun _ => rfl⟩,
        ⟨by decide, fun c => sysWrite_atomFlags c _⟩, ⟨by decide, fun _ => rfl⟩, ⟨by decide, fun _ => rfl⟩,
        ⟨by decide, fun _ => rfl⟩, fun _ h => nomatch h⟩
    · exact exec_mts_ready hg ha fun _ => h
  · rintro s g d k n imm pc j hj hg rfl h
    obtain ⟨hctx, hmem, hchans⟩ := marked_frame s n
    refine ⟨exec_nstepi_eq hg imm, ?_, ?_, ?_, fun hd => ?_, exec_wfe_latched hg, exec_wfe_waits hg,
      ⟨s.marked n, exec_mark_eq hg n, hctx, hmem, hchans, marked_off n, marked_ident n⟩,
      ⟨s.mySource 1 n.toNat, exec_trig_eq hg n, rfl, List.mem_cons_self⟩⟩
    · rw [exec_ctrsel, execCtrsel, guarded_true hg, funext fun c : Ctx => counter_eq c k _ hj h]; rfl
    · rw [exec_ctron, execCtron, guarded_true hg, funext fun c : Ctx => counter_eq c k _ hj h]; rfl
    · rw [exec_ctroff, execCtroff, guarded_true hg, funext fun c : Ctx => counter_eq c k _ hj h]; rfl
    · rw [exec_ctrrd, execCtrrd, gated_dst hg hd, counterVal_eq _ k hj h]; rfl

end Sys2Proof.Machine

end

/-!
SUPPORT. Commands (R182, R247 to R249): what handing one over comes to by what is found, what acceptance enters, and which commands
SCW waits for.
-/
section

namespace Sys2Proof.Machine

/-! ## Handing a command over (R247, R248) -/

theorem nextSeq_eq (n : BitVec 32) : nextSeq n = if n = 0xFFFFFFFF then 1 else n + 1 := by
  unfold nextSeq
  have h : n + 1 = 0 ↔ n = 0xFFFFFFFF := by bv_omega
  simp only [h]

/-- No command has the number 0 (R247). -/
theorem nextSeq_ne_zero (n : BitVec 32) : nextSeq n ≠ 0 := by
  unfold nextSeq
  split
  · decide
  · assumption

theorem hasPlace_iff (s : State) (n : Nat) :
    s.hasPlace n = true ↔ (s.me.cmds.filter Cmd.live).length < 16 ∧ s.feet.length + n ≤ 32 := by
  unfold State.hasPlace
  rw [Bool.and_eq_true, decide_eq_true_iff, decide_eq_true_iff]
  rfl

section

variable {s u : State} {i : Instr} {w : BitVec 128} {base anchor : Word} {bs : List Byte}

theorem issueCmd_refused {c : BitVec 8} (h : s.refuses w = some c) : issueCmd i w base anchor s = .trap c (infoWord i) := by
  simp only [issueCmd, h]

/-- A command at issue, with the bytes of its block. -/
def atIssue (s : State) (w : BitVec 128) (base anchor : Word) (bs : List Byte) : Cmd :=
  { newCmd s.me w base (anchorLine anchor + lineOff (cBlk w)) (s.mill s.me.mill).accn with raw := bs }

/-- The footprint of a command at issue (R269). -/
def footAtIssue (s : State) (c : Cmd) : List Foot := footOf ((c.spans s.me.size (s.me.copyWrites c.portNo)).getD [])

/-- The command that is entered where there is room. -/
def handedOver (s : State) (w : BitVec 128) (base anchor : Word) (bs : List Byte) : Cmd :=
  { atIssue s w base anchor bs with foot := footAtIssue s (atIssue s w base anchor bs) }

/-- The bytes of a command's block, where it has one (R264). -/
def findsBlock (s : State) (w : BitVec 128) (anchor : Word) (bs : List Byte) (u : State) : Prop :=
  blockHead (cOp w).toNat = 0 ∧ bs = [] ∧ u = s ∨
    blockHead (cOp w).toNat ≠ 0 ∧ readBlock s (cOp w).toNat (anchorLine anchor + lineOff (cBlk w)) = .ok bs u

theorem findsBlock_eq (h : findsBlock s w anchor bs u) :
    (if blockHead (cOp w).toNat = 0 then .ok [] s else readBlock s (cOp w).toNat (anchorLine anchor + lineOff (cBlk w))) =
      BlockRead.ok bs u := by
  rcases h with ⟨h0, rfl, rfl⟩ | ⟨h0, hr⟩
  · rw [if_pos h0]
  · rw [if_neg h0, hr]

section

variable (hw : s.refuses w = none) (hb : findsBlock s w anchor bs u)

include hw hb

theorem issueCmd_full (h : u.hasPlace (footAtIssue s (atIssue s w base anchor bs)).length = false) :
    issueCmd i w base anchor s = .wait (.dispatcher (footAtIssue s (atIssue s w base anchor bs)).length) := by
  have hp : (!u.hasPlace (footAtIssue s (atIssue s w base anchor bs)).length) = true := by rw [h]; rfl
  simp only [issueCmd, hw, findsBlock_eq hb]
  exact if_pos hp

theorem issueCmd_accepts (h : u.hasPlace (footAtIssue s (atIssue s w base anchor bs)).length = true) (hd : u.me.eff.det = false)
    (hf : u.spillFits u.me.id.fn u.me.id.blk 0 = true) :
    issueCmd i w base anchor s = .ok (nextSeq s.me.ctx.seq) (u.accept (handedOver s w base anchor bs) []) := by
  have hp : ¬ (!u.hasPlace (footAtIssue s (atIssue s w base anchor bs)).length) = true := by rw [h]; decide
  have hn : ¬ (!u.spillFits u.me.id.fn u.me.id.blk (128 * ([] : List Nat).length)) = true := by
    rw [List.length_nil, Nat.mul_zero, hf]; decide
  simp only [issueCmd, hw, findsBlock_eq hb, hd, Bool.false_eq_true, if_false]
  exact (if_neg hp).trans (if_neg hn)

end

end

/-- A command as acceptance enters it: SC.NOP has retired at once (R281). -/
def Cmd.entered (c : Cmd) : Cmd := { c with phase := if c.op = 0x01 then .done else c.phase }

/-- The commands of the context after an acceptance: those it had, but for the dead one whose number comes round, and the new one. -/
theorem accept_cmds (s : State) (c : Cmd) (gs : List Nat) :
    (s.accept c gs).me.cmds = (s.me.cmds.filter fun x => x.live || x.seq != c.seq) ++ [c.entered] := by
  have h : (if c.op = 0x01 then { c with phase := .done } else c) = c.entered := by
    unfold Cmd.entered
    split <;> rfl
  rw [← h]
  rfl

theorem accept_frame (s : State) (c : Cmd) (gs : List Nat) :
    (s.accept c gs).me.ctx.seq = c.seq ∧ (s.accept c gs).me.ctx.g = s.me.ctx.g ∧ (s.accept c gs).mem = s.mem := ⟨rfl, rfl, rfl⟩

theorem entered_mem_accept (s : State) (c : Cmd) (gs : List Nat) : c.entered ∈ (s.accept c gs).me.cmds := by
  rw [accept_cmds]
  exact List.mem_append_right _ List.mem_cons_self

theorem live_mem_accept {s : State} {y : Cmd} (hy : y ∈ s.me.cmds) (hl : y.live = true) (c : Cmd) (gs : List Nat) :
    y ∈ (s.accept c gs).me.cmds := by
  rw [accept_cmds]
  exact List.mem_append_left _ (List.mem_filter.2 ⟨hy, by rw [hl, Bool.true_or]⟩)

/-! ## SCI and SCM -/

/-- What SCI and SCM answer to what the issue of their command leads to; `n` is the length of the instruction. -/
def State.answerIssue (s : State) (a d : BitVec 5) (n : Word) : Issued → Res
  | .trap c x => .next (s.trapAt c x)
  | .wait x => .next (s.waitOn x)
  | .sever va => .next (s.stopMe tcSEVERED va)
  | .ok q u => .next (((u.popSrcs [a]).putG d (q.setWidth 64)).retireTo (u.me.ctx.pc + n))

section

variable {s : State} {g : Guard} {d a : BitVec 5} (hg : s.me.ctx.guardTrue g = true) (ha : s.SrcReady a) (hd : s.DstReady d)

include hg ha hd

theorem exec_sci_eq (w : BitVec 128) : exec (.sci g d a w) s =
    s.answerIssue a d 20 (issueCmd (.sci g d a w) w (s.src a) s.me.ctx.pc s) := by
  rw [exec_sci, execSci, gated_src_dst hg ha hd]
  cases issueCmd (.sci g d a w) w (s.src a) s.me.ctx.pc s <;> rfl

theorem exec_scm_severed {u : State} {t : Target} (hc : checkAccess s (s.src a) 16 .load = .ok u t) (ht : u.severed t = true) :
    exec (.scm g d a) s = .next (u.stopMe 0x16 (s.src a)) := by
  rw [exec_scm, execScm, gated_src_dst hg ha hd]
  simp only [hc, ht, if_true]
  rfl

/-- The command that SCM reads by an ordinary load is issued from the state that the load leaves. -/
theorem exec_scm_eq {u v : State} {t : Target} {bs : List Byte} (hc : checkAccess s (s.src a) 16 .load = .ok u t)
    (ht : u.severed t = false) (hl : loadTarget (u.accessEvent t 16 (s.src a) false) (s.src a) t 16 = (bs, v)) :
    exec (.scm g d a) s =
      s.answerIssue a d 4 (issueCmd (.scm g d a) (BitVec.ofNat 128 (leNat bs)) 0 (s.src a) v) := by
  rw [exec_scm, execScm, gated_src_dst hg ha hd]
  simp only [hc, ht, hl, Bool.false_eq_true, if_false]
  cases issueCmd (.scm g d a) (BitVec.ofNat 128 (leNat bs)) 0 (s.src a) v <;> rfl

end

/-! ## SCW (R249) -/

/-- The clock of a context once it knows the writes of commands (R121). -/
def clockAfter (k : Nat) (cs : List Cmd) : Nat := cs.foldl (fun m x => max m x.wclk) k

theorem clockAfter_reaches (k : Nat) (cs : List Cmd) : k ≤ clockAfter k cs ∧ ∀ y ∈ cs, y.wclk ≤ clockAfter k cs := by
  induction cs generalizing k with
  | nil => exact ⟨le_rfl, fun _ h => nomatch h⟩
  | cons c cs ih =>
    obtain ⟨hk, hcs⟩ := ih (max k c.wclk)
    refine ⟨(le_max_left ..).trans hk, fun y hy => ?_⟩
    rcases List.mem_cons.1 hy with rfl | hy
    · exact (le_max_right ..).trans hk
    · exact hcs y hy

theorem covered_named {t : Task} {n : BitVec 32} {x : Cmd} (hn : (t.ctx.seq - n).toNat < 2 ^ 31) (hx : t.cmd? n = some x) :
    t.covered n = t.cmds.filter fun c => c.acc ≤ x.acc := by
  unfold Task.cmd? at hx
  rw [Task.covered, if_pos hn, hx]

theorem covered_all {t : Task} {n : BitVec 32} (hn : 2 ^ 31 ≤ (t.ctx.seq - n).toNat) : t.covered n = t.cmds := by
  rw [Task.covered, if_neg (Nat.not_lt.2 hn)]

theorem mem_covered_named {t : Task} {n : BitVec 32} {x : Cmd} (hn : (t.ctx.seq - n).toNat < 2 ^ 31) (hx : t.cmd? n = some x)
    (y : Cmd) : y ∈ t.covered n ↔ y ∈ t.cmds ∧ y.acc ≤ x.acc := by
  rw [covered_named hn hx, List.mem_filter, decide_eq_true_eq]

section

variable {s : State} {g : Guard} {a : BitVec 5} (hg : s.me.ctx.guardTrue g = true) (ha : s.SrcReady a)

include hg ha

theorem exec_scw_zero (hn : (s.src a).setWidth 32 = 0#32) :
    exec (.scw g a) s = .next ((s.popSrcs [a]).retireTo (s.me.ctx.pc + 4)) := by
  rw [exec_scw, execScw, gated_src hg ha]
  exact if_pos hn

section

variable (hn : (s.src a).setWidth 32 ≠ 0#32) (hp : ∀ p ∈ s.me.ctx.pend, p.origin ≠ 1)

include hn hp

theorem exec_scw_eq : exec (.scw g a) s =
    if (s.me.covered ((s.src a).setWidth 32)).any Cmd.live then .next (s.waitOn (.scw ((s.src a).setWidth 32)))
    else .next (((s.mapCtx fun c => { c with
      clock := clockAfter c.clock (s.me.covered ((s.src a).setWidth 32)) }).popSrcs [a]).retireTo (s.me.ctx.pc + 4)) := by
  have ht : s.me.ctx.cmdTrap (s.me.covered (lo32 (s.src a))) = none :=
    List.find?_eq_none.2 fun p h hb => hp p h (beq_iff_eq.1 (Bool.and_eq_true_iff.1 hb).1)
  rw [exec_scw, execScw, gated_src hg ha]
  refine (if_neg hn).trans ?_
  simp only [ht]
  rfl

theorem exec_scw_waits (h : ∃ y ∈ s.me.covered ((s.src a).setWidth 32), y.live = true) :
    exec (.scw g a) s = .next (s.waitOn (.scw ((s.src a).setWidth 32))) := by
  rw [exec_scw_eq hg ha hn hp, if_pos (List.any_eq_true.2 h)]

theorem exec_scw_retires (h : ∀ y ∈ s.me.covered ((s.src a).setWidth 32), y.live = false) :
    ∃ k, exec (.scw g a) s = .next (((s.mapCtx fun c => { c with clock := k }).popSrcs [a]).retireTo (s.me.ctx.pc + 4)) ∧
      s.me.ctx.clock ≤ k ∧ ∀ y ∈ s.me.covered ((s.src a).setWidth 32), y.wclk ≤ k := by
  refine ⟨_, ?_, clockAfter_reaches s.me.ctx.clock _⟩
  rw [exec_scw_eq hg ha hn hp, if_neg]
  · rfl
  · rw [List.any_eq_true]
    rintro ⟨y, hy, hl⟩
    exact absurd hl (by simp [h y hy])

end

end

/-! ## The obligation of command issue -/

/-- Settles O32: a command is refused, waits or is accepted by what its issue finds, and SCW by the commands it covers. -/
theorem commandIssueAndWait : Obligations.CommandIssueAndWait := by
  unfold Obligations.CommandIssueAndWait
  refine ⟨?_, ?_⟩
  · rintro s g d a w i base anchor n rfl
    refine ⟨fun c hc => issueCmd_refused hc, fun hw bs u hb c hc fs hfs => ?_, fun hg ha hd => ?_⟩
    · have hb' : findsBlock s w anchor bs u := hb
      have hc' : c = atIssue s w base anchor bs := hc
      subst hc'
      have hfs' : fs = footAtIssue s (atIssue s w base anchor bs) := hfs
      subst hfs'
      refine ⟨fun h => issueCmd_full hw hb' ?_, fun hq hf hdet hs => ?_⟩
      · rw [Bool.eq_false_iff, Ne, hasPlace_iff]
        omega
      · rw [← nextSeq_eq]
        obtain ⟨hseq, hg, hmem⟩ := accept_frame u (handedOver s w base anchor bs) []
        exact ⟨_, (handedOver s w base anchor bs).entered, issueCmd_accepts hw hb' ((hasPlace_iff ..).2 ⟨hq, hf⟩) hdet hs,
          rfl, nextSeq_ne_zero _, rfl, rfl, rfl, rfl, rfl, rfl, rfl, rfl, hseq, entered_mem_accept ..,
          fun y hy hl => live_mem_accept hy hl .., hg, hmem⟩
    · refine ⟨fun c x h => ?_, fun x h => ?_, fun q u h => ?_, fun u t hc ht => exec_scm_severed hg ha hd hc ht,
        fun u t bs v hc ht hl => ⟨fun x h => ?_, fun c x h => ?_, fun q y h => ?_⟩⟩
      · rw [exec_sci_eq hg ha hd, h]; rfl
      · rw [exec_sci_eq hg ha hd, h]; rfl
      · rw [exec_sci_eq hg ha hd, h]; rfl
      · rw [exec_scm_eq hg ha hd hc ht hl, h]; rfl
      · rw [exec_scm_eq hg ha hd hc ht hl, h]; rfl
      · rw [exec_scm_eq hg ha hd hc ht hl, h]; rfl
  · rintro s g a n pc hg ha rfl rfl
    refine ⟨exec_scw_zero hg ha, fun hn hp => ⟨fun x hlt hx => ?_, fun hle => ?_⟩⟩
    · have hm := mem_covered_named hlt hx
      refine ⟨fun ⟨y, hy, hacc, hl⟩ => exec_scw_waits hg ha hn hp ⟨y, (hm y).2 ⟨hy, hacc⟩, hl⟩, fun h => ?_⟩
      obtain ⟨k, hk, hclk, hcov⟩ := exec_scw_retires hg ha hn hp fun y hy => h y ((hm y).1 hy).1 ((hm y).1 hy).2
      exact ⟨k, hk, hclk, fun y hy hacc => hcov y ((hm y).2 ⟨hy, hacc⟩)⟩
    · have hm : s.me.covered ((s.src a).setWidth 32) = s.me.cmds := covered_all hle
      refine ⟨fun h => exec_scw_waits hg ha hn hp (hm ▸ h), fun h => ?_⟩
      have hr := exec_scw_retires hg ha hn hp (hm ▸ h)
      rwa [hm] at hr

end Sys2Proof.Machine

end

/-!
SUPPORT. Results of the two-source integer operations and divisions (R169, R192, R193).
-/
section

namespace Sys2Proof.Machine

/-! ## What the operations compute (R192 to R196) -/

/-- The high half of the signed product. -/
theorem mulHigh_eq (x y : Word) : mulHigh x y = (x.signExtend 128 * y.signExtend 128).extractLsb' 64 64 := by
  have hp : x.signExtend 128 * y.signExtend 128 = BitVec.ofInt 128 (x.toInt * y.toInt) := by
    apply BitVec.eq_of_toInt_eq
    rw [BitVec.toInt_mul, BitVec.toInt_ofInt, BitVec.toInt_signExtend_of_le (by decide), BitVec.toInt_signExtend_of_le (by decide)]
  rw [hp]
  apply BitVec.eq_of_toNat_eq
  rw [mulHigh, BitVec.extractLsb'_toNat, BitVec.toNat_ofInt, BitVec.toNat_ofInt, Nat.shiftRight_eq_div_pow]
  generalize x.toInt * y.toInt = p
  omega

/-- The high half of the unsigned product. -/
theorem mulHighU_eq (x y : Word) : mulHighU x y = (x.setWidth 128 * y.setWidth 128).extractLsb' 64 64 := by
  have hp : x.toNat * y.toNat < 2 ^ 128 := Nat.mul_lt_mul'' (c := 2 ^ 64) (d := 2 ^ 64) x.isLt y.isLt
  apply BitVec.eq_of_toNat_eq
  rw [mulHighU, BitVec.toNat_ofNat, BitVec.extractLsb'_toNat, BitVec.toNat_mul, BitVec.toNat_setWidth_of_le (by decide),
    BitVec.toNat_setWidth_of_le (by decide), Nat.mod_eq_of_lt hp, Nat.shiftRight_eq_div_pow]

section

variable {n : Nat} (x y : BitVec n)

theorem divS_eq : divS x y = if y = 0 then BitVec.allOnes n else x.sdiv y := by
  unfold divS
  rw [← BitVec.neg_one_eq_allOnes]
  congr 1
  apply BitVec.eq_of_toInt_eq
  rw [BitVec.toInt_ofInt, BitVec.toInt_sdiv]

theorem divU_eq : divU x y = if y = 0 then BitVec.allOnes n else x.udiv y := by
  unfold divU
  rw [← BitVec.neg_one_eq_allOnes]
  congr 1
  apply BitVec.eq_of_toNat_eq
  rw [BitVec.toNat_ofNat, Nat.mod_eq_of_lt (Nat.lt_of_le_of_lt (Nat.div_le_self ..) x.isLt)]
  exact BitVec.toNat_udiv.symm

theorem remS_eq : remS x y = if y = 0 then x else x.srem y := by
  unfold remS
  congr 1
  rw [← BitVec.toInt_srem, BitVec.ofInt_toInt]

theorem remU_eq : remU x y = if y = 0 then x else x.umod y := by
  unfold remU
  congr 1
  rw [← BitVec.toNat_umod]
  exact (BitVec.ofNat_toNat ..).trans (BitVec.setWidth_eq _)

end

/-! ## The instructions of two sources -/

section

variable {s : State} {i : Instr} {g : Guard} {d a b : BitVec 5} (hg : s.me.ctx.guardTrue g = true) (ha : s.SrcReady a)

include hg ha

/-- An operation on two ready sources answers its value. -/
theorem op3_answers (hb : s.SrcReady b) (hd : s.DstReady d) {f : Word → Word → Word} {v : Word}
    (he : exec i s = op3 i g d a b s f) (hl : i.lits = 0) (hv : f (s.src a) (s.src b) = v) :
    exec i s = s.answerG [a, b] d v (s.me.ctx.pc + 4) := by
  rw [he, op3_ready hg ha hb hd, nextPc_zero hl, hv]

end

/-- Settles O10: each of them is its operation on two ready sources. -/
theorem integerTwoSourceResults : Obligations.IntegerTwoSourceResults := by
  unfold Obligations.IntegerTwoSourceResults
  rintro s g d a b x y pc u v hg ha hb hd rfl rfl rfl rfl rfl
  have op {i : Instr} {f : Word → Word → Word} {v : Word} := op3_answers (i := i) (f := f) (v := v) hg ha hb hd
  exact ⟨op (exec_add ..) rfl rfl, op (exec_sub ..) rfl rfl, op (exec_mul ..) rfl rfl,
    op (exec_mulh ..) rfl (mulHigh_eq ..), op (exec_mulhu ..) rfl (mulHighU_eq ..),
    op (exec_div ..) rfl (divS_eq ..), op (exec_divu ..) rfl (divU_eq ..), op (exec_rem ..) rfl (remS_eq ..),
    op (exec_remu ..) rfl (remU_eq ..), op (exec_min ..) rfl (by simp only [BitVec.sle, decide_eq_true_eq]),
    op (exec_max ..) rfl (by simp only [BitVec.sle, decide_eq_true_eq]),
    op (exec_minu ..) rfl (by simp only [BitVec.ule, decide_eq_true_eq]),
    op (exec_maxu ..) rfl (by simp only [BitVec.ule, decide_eq_true_eq]),
    op (exec_and ..) rfl rfl, op (exec_or ..) rfl rfl, op (exec_xor ..) rfl rfl,
    op (exec_addW ..) rfl rfl, op (exec_subW ..) rfl rfl, op (exec_mulW ..) rfl rfl,
    op (exec_divW ..) rfl (congrArg sx (divS_eq ..)), op (exec_divuW ..) rfl (congrArg sx (divU_eq ..)),
    op (exec_remW ..) rfl (congrArg sx (remS_eq ..)), op (exec_remuW ..) rfl (congrArg sx (remU_eq ..))⟩

end Sys2Proof.Machine

end

/-!
SUPPORT. Results of shifts, unary operations, immediates, bit fields, constants and SEL (R169, R194 to R199).
-/
section

namespace Sys2Proof.Machine

/-! ## Bits counted, cut out and put in (R195, R196) -/

theorem leadZeros_eq {w : Nat} (x : BitVec w) : ∀ n, n < w →
    x.clzAuxRec n = BitVec.ofNat w (w - 1 - n + leadZeros x.toNat (n + 1)) := by
  intro n
  induction n with
  | zero =>
    intro h
    simp only [BitVec.clzAuxRec, leadZeros, BitVec.testBit_toNat]
    split
    · rfl
    · congr 1; omega
  | succ n ih =>
    intro h
    rw [BitVec.clzAuxRec, leadZeros, BitVec.testBit_toNat, ih (by omega)]
    split
    · rfl
    · congr 1; omega

theorem clz_eq {w : Nat} (x : BitVec w) (h : 0 < w) : BitVec.ofNat w (leadZeros x.toNat w) = x.clz := by
  obtain ⟨n, rfl⟩ : ∃ n, w = n + 1 := ⟨w - 1, by omega⟩
  rw [BitVec.clz, leadZeros_eq x _ (by omega)]
  congr 1
  simp

theorem trailZeros_eq (n u v : Nat) (h : ∀ i < n, v.testBit i = u.testBit (n - 1 - i)) : trailZeros n u = leadZeros v n := by
  induction n generalizing u with
  | zero => rfl
  | succ n ih =>
    have h0 : v.testBit n = decide (u % 2 = 1) := by
      rw [h n (by omega), show n + 1 - 1 - n = 0 by omega, Nat.testBit_zero]
    rw [trailZeros, leadZeros, h0]
    simp only [decide_eq_true_eq]
    rw [ih (u / 2)]
    intro i hi
    rw [h i (by omega), Nat.testBit_div_two, show n - 1 - i + 1 = n + 1 - 1 - i by omega]

theorem ctz_eq {w : Nat} (x : BitVec w) (h : 0 < w) : BitVec.ofNat w (trailZeros w x.toNat) = x.ctz := by
  rw [BitVec.ctz, ← clz_eq _ h, trailZeros_eq w x.toNat x.reverse.toNat]
  intro i hi
  rw [BitVec.testBit_toNat, BitVec.testBit_toNat, BitVec.getLsbD_reverse, BitVec.getMsbD_eq_getLsbD, decide_eq_true hi,
    Bool.true_and]

theorem popCount_succ (n v : Nat) : popCount (n + 1) v = popCount n v + (v.testBit n).toNat := by
  induction n generalizing v with
  | zero => simp [popCount, Nat.testBit_zero]; rcases Nat.mod_two_eq_zero_or_one v with h | h <;> simp [h]
  | succ n ih =>
    rw [popCount, ih, Nat.testBit_div_two, popCount]
    omega

theorem cpop_eq {w : Nat} (x : BitVec w) : BitVec.ofNat w (popCount w x.toNat) = x.cpop := by
  have h : ∀ n, x.cpopNatRec n 0 = popCount n x.toNat := by
    intro n
    induction n with
    | zero => rfl
    | succ n ih => rw [BitVec.cpopNatRec_succ, BitVec.cpopNatRec_eq, ih, popCount_succ, BitVec.testBit_toNat]; omega
  rw [BitVec.cpop, h]

/-- A count of up to 32 bits has the same number in 32 and in 64 bits. -/
theorem ofNat_of_ofNat32 {n : Nat} (h : n ≤ 32) : BitVec.ofNat 64 n = (BitVec.ofNat 32 n).setWidth 64 := by
  apply BitVec.eq_of_toNat_eq
  rw [BitVec.toNat_setWidth, BitVec.toNat_ofNat, BitVec.toNat_ofNat]
  omega

theorem leadZeros_le (v n : Nat) : leadZeros v n ≤ n := by
  induction n with
  | zero => rfl
  | succ n ih => rw [leadZeros]; split <;> omega

theorem trailZeros_le (n v : Nat) : trailZeros n v ≤ n := by
  induction n generalizing v with
  | zero => rfl
  | succ n ih => rw [trailZeros]; have := ih (v / 2); split <;> omega

theorem popCount_le (n v : Nat) : popCount n v ≤ n := by
  induction n generalizing v with
  | zero => rfl
  | succ n ih => rw [popCount]; have := ih (v / 2); omega

/-- The low `k + 1` bits set. -/
theorem ofNat_mask {k : Nat} (h : k < 64) : BitVec.ofNat 64 (2 ^ (k + 1) - 1) = BitVec.allOnes 64 >>> (63 - k) := by
  ext i hi
  rw [← BitVec.getLsbD_eq_getElem, BitVec.getLsbD_ofNat, decide_eq_true hi, Bool.true_and,
    Nat.testBit_two_pow_sub_one, BitVec.getElem_ushiftRight, BitVec.getLsbD_allOnes]
  congr 1
  simp
  omega

theorem extract_eq (v : Word) (pos k : BitVec 6) :
    extract v pos.toNat (k.toNat + 1) = (v >>> pos) &&& (BitVec.allOnes 64 >>> (63 - k.toNat)) := by
  rw [← ofNat_mask k.isLt]
  apply BitVec.eq_of_toNat_eq
  have h : 2 ^ (k.toNat + 1) ≤ 2 ^ 64 := Nat.pow_le_pow_right (by decide) k.isLt
  rw [extract, bitsAt, BitVec.toNat_and, BitVec.toNat_ofNat, BitVec.toNat_ofNat, BitVec.ushiftRight_eq', BitVec.toNat_ushiftRight,
    Nat.mod_eq_of_lt (a := 2 ^ (k.toNat + 1) - 1) (by omega), Nat.and_two_pow_sub_one_eq_mod, Nat.mod_eq_of_lt]
  exact Nat.lt_of_lt_of_le (Nat.mod_lt _ (by positivity)) h

theorem ofNat_shiftLeft (a n : Nat) : BitVec.ofNat 64 (a <<< n) = BitVec.ofNat 64 a <<< n := by
  apply BitVec.eq_of_toNat_eq
  simp [Nat.shiftLeft_eq]

theorem insert_eq (old v : Word) (pos k : BitVec 6) : insert old v pos.toNat (k.toNat + 1) =
    (old &&& ~~~((BitVec.allOnes 64 >>> (63 - k.toNat)) <<< pos)) |||
      ((v &&& (BitVec.allOnes 64 >>> (63 - k.toNat))) <<< pos) := by
  have hv : BitVec.ofNat 64 (v.toNat % 2 ^ (k.toNat + 1)) = v &&& (BitVec.allOnes 64 >>> (63 - k.toNat)) := 
    extract_eq v 0 k
  rw [Machine.insert, setBits]
  simp only [ofNat_shiftLeft, hv, ofNat_mask k.isLt, BitVec.shiftLeft_eq']

theorem setWidth_setWidth_eq_and (x : Word) (n : Nat) :
   (x.setWidth n).setWidth 64 = x &&& BitVec.ofNat 64 (2 ^ n - 1) := by
  ext i hi
  simp [← BitVec.getLsbD_eq_getElem, BitVec.getLsbD_ofNat, hi, Bool.and_comm]
/-! ## The shapes of register instructions -/

section

variable {s : State} {i : Instr} {g : Guard} {d a : BitVec 5} {v : Word} (hg : s.me.ctx.guardTrue g = true)

include hg

/-- An operation on one ready source answers its value. -/
theorem op2_answers (ha : s.SrcReady a) (hd : s.DstReady d) {f : Word → Word}
    (he : exec i s = op2 i g d a s f) (hl : i.lits = 0) (hv : f (s.src a) = v) :
    exec i s = s.answerG [a] d v (s.me.ctx.pc + 4) := by
  rw [he, op2_ready hg ha hd, nextPc_zero hl, hv]

/-- An operation without sources answers its value. -/
theorem const_answers (hd : s.DstReady d) {f : State → Word}
    (he : exec i s = gated i g [] (some d) false s fun s => doneG i s [] d (f s)) (hv : f s = v) :
    exec i s = s.answerG [] d v (nextPc i s) := by
  rw [he, gated_dst hg hd, hv]
  rfl

/-- An operation that reads its plain destination answers its value. -/
theorem opRw_answers {rs : List (BitVec 5)} (hs : ∀ r ∈ rs, s.SrcReady r) (hd : s.Plain d) {f : State → Word}
    (he : exec i s = opRw i g d rs s f) (hl : i.lits = 0) (hv : f s = v) :
    exec i s = s.answerG rs d v (s.me.ctx.pc + 4) := by
  rw [he, opRw_ready hg hs hd, nextPc_zero hl, hv]

/-- A bound destination cannot be read: the end gate refuses it before any source is looked at (R245). -/
theorem opRw_bound {rs : List (BitVec 5)} (hd : ¬ s.Plain d) {f : State → Word} (he : exec i s = opRw i g d rs s f) :
    exec i s = .next (s.trapAt 0x01 (infoWord i)) := by
  obtain ⟨e, hb⟩ := Option.ne_none_iff_exists'.1 hd
  rw [he]
  refine gated_trap hg (gate_end (if_pos ?_) (by simp))
  simp [hb]

end

/-- Settles O11: each is its operation on ready sources, and one that reads a bound destination is illegal. -/
theorem shiftUnaryAndFieldResults : Obligations.ShiftUnaryAndFieldResults := by
  unfold Obligations.ShiftUnaryAndFieldResults
  refine ⟨?_, ?_, ?_⟩
  · rintro s g d a b sh x y pc u v hg ha hd rfl rfl rfl rfl rfl
    have op {i : Instr} {f : Word → Word} {v : Word} := op2_answers (i := i) (f := f) (v := v) hg ha hd
    have h5 (z : Word) : amount32 z = ((z.setWidth 32).setWidth 5).toNat := by simp [amount32]
    have h5' : sh.toNat % 32 = (sh.setWidth 5).toNat := by simp
    refine ⟨fun hb => ?_, ?_⟩
    · have op {i : Instr} {f : Word → Word → Word} {v : Word} := op3_answers (i := i) (f := f) (v := v) hg ha hb hd
      exact ⟨op (exec_shl ..) rfl rfl, op (exec_shr ..) rfl rfl, op (exec_sra ..) rfl rfl,
        op (exec_shlW ..) rfl (by rw [h5]; rfl), op (exec_shrW ..) rfl (by rw [h5]; rfl), op (exec_sraW ..) rfl (by rw [h5]; rfl)⟩
    · exact ⟨op (exec_shlImm ..) rfl rfl, op (exec_shrImm ..) rfl rfl, op (exec_sraImm ..) rfl rfl,
        op (exec_shlWImm ..) rfl (by rw [h5']; rfl), op (exec_shrWImm ..) rfl (by rw [h5']; rfl),
        op (exec_sraWImm ..) rfl (by rw [h5']; rfl)⟩
  · rintro s g d a imm x w pc hg ha hd rfl rfl rfl
    have op {i : Instr} {f : Word → Word} {v : Word} := op2_answers (i := i) (f := f) (v := v) hg ha hd
    exact ⟨op (exec_clz ..) rfl (clz_eq _ (by decide)), op (exec_ctz ..) rfl (ctz_eq _ (by decide)),
      op (exec_popc ..) rfl (cpop_eq _),
      op (exec_clzW ..) rfl ((ofNat_of_ofNat32 (leadZeros_le ..)).trans (congrArg _ (clz_eq _ (by decide)))),
      op (exec_ctzW ..) rfl ((ofNat_of_ofNat32 (trailZeros_le ..)).trans (congrArg _ (ctz_eq _ (by decide)))),
      op (exec_popcW ..) rfl ((ofNat_of_ofNat32 (popCount_le ..)).trans (congrArg _ (cpop_eq _))),
      op (exec_sextB ..) rfl rfl, op (exec_sextH ..) rfl rfl, op (exec_sextW ..) rfl rfl,
      op (exec_zextB ..) rfl (setWidth_setWidth_eq_and _ 8), op (exec_zextH ..) rfl (setWidth_setWidth_eq_and _ 16),
      op (exec_zextW ..) rfl (setWidth_setWidth_eq_and _ 32), op (exec_addi ..) rfl rfl, op (exec_addiW ..) rfl rfl,
      op (exec_andi ..) rfl rfl, op (exec_ori ..) rfl rfl, op (exec_xori ..) rfl rfl⟩
  · rintro s g d a b p wm1 pos imm l0 l1 pc m hg ha hb rfl rfl
    refine ⟨fun hd => ⟨op2_answers hg ha hd (exec_extr ..) rfl (extract_eq ..), const_answers hg hd (exec_li ..) rfl,
      const_answers hg hd (exec_liw ..) rfl, const_answers hg hd (exec_liw ..) rfl, const_answers hg hd (exec_addpc ..) rfl, ?_⟩,
      fun hd => ⟨opRw_answers hg (ready1 ha) hd (exec_ins ..) rfl (insert_eq ..),
        opRw_answers hg (by simp) hd (exec_lih ..) rfl ?_⟩,
      fun hd => ⟨opRw_bound hg hd (exec_ins ..), opRw_bound hg hd (exec_lih ..)⟩⟩
    · exact (exec_sel ..).trans (gated_go hg (gate_ready _ (ready2 ha hb) hd))
    · rw [BitVec.shiftLeft_eq_mul_twoPow]
      rfl

end Sys2Proof.Machine

end

/-!
SUPPORT. Results of comparisons and of guard logic (R200, R201).
-/
section

namespace Sys2Proof.Machine

/-! ## Comparisons and guard logic (R200, R201) -/

section

variable {s : State} {i : Instr} {g : Guard} {d a b : BitVec 5} {v : Bool} (hg : s.me.ctx.guardTrue g = true)

include hg

/-- An operation on ready sources answers its value for a guard register. -/
theorem opQ_answers {rs : List (BitVec 5)} (hs : ∀ r ∈ rs, s.SrcReady r) {f : State → Bool}
    (he : exec i s = opQ i g d rs s f) (hl : i.lits = 0) (hv : f s = v) :
    exec i s = s.answerQ rs (d.setWidth 3) v (s.me.ctx.pc + 4) := by
  rw [he, opQ_ready hg hs, nextPc_zero hl, hv]

theorem logic_answers {f : State → Bool} (he : exec i s = opQ i g d [] s f) (hl : i.lits = 0) (hv : f s = v) :
    exec i s = s.answerQ [] (d.setWidth 3) v (s.me.ctx.pc + 4) := opQ_answers hg (fun _ h => nomatch h) he hl hv

theorem cmpOp_answers (ha : s.SrcReady a) (hb : s.SrcReady b) {f : Word → Word → Bool}
    (he : exec i s = cmpOp i g d a b s f) (hl : i.lits = 0) (hv : f (s.src a) (s.src b) = v) :
    exec i s = s.answerQ [a, b] (d.setWidth 3) v (s.me.ctx.pc + 4) := opQ_answers hg (ready2 ha hb) he hl hv

theorem cmpImm_answers (ha : s.SrcReady a) {imm : BitVec 12} {f : Word → Word → Bool}
    (he : exec i s = cmpImm i g d a imm s f) (hl : i.lits = 0) (hv : f (s.src a) (imm.signExtend 64) = v) :
    exec i s = s.answerQ [a] (d.setWidth 3) v (s.me.ctx.pc + 4) := opQ_answers hg (ready1 ha) he hl hv

end

/-- Settles O12: each is its relation or its operation, for a guard register. -/
theorem compareAndGuardLogicResults : Obligations.CompareAndGuardLogicResults := by
  unfold Obligations.CompareAndGuardLogicResults
  rintro s g d a b imm x y i pc p q hg rfl rfl rfl rfl rfl rfl
  have cmp {j : Instr} {f : Word → Word → Bool} {v : Bool} := cmpOp_answers (i := j) (d := d) (a := a) (b := b) (f := f) (v := v) hg
  have cmpi {j : Instr} {f : Word → Word → Bool} {v : Bool} :=
    cmpImm_answers (i := j) (d := d) (a := a) (imm := imm) (f := f) (v := v) hg
  exact ⟨fun ha hb => ⟨cmp ha hb (exec_cmpEq ..) rfl rfl, cmp ha hb (exec_cmpNe ..) rfl rfl, cmp ha hb (exec_cmpLt ..) rfl rfl,
      cmp ha hb (exec_cmpLe ..) rfl rfl, cmp ha hb (exec_cmpLtu ..) rfl rfl, cmp ha hb (exec_cmpLeu ..) rfl rfl⟩,
    fun ha => ⟨cmpi ha (exec_cmpEqImm ..) rfl rfl, cmpi ha (exec_cmpNeImm ..) rfl rfl, cmpi ha (exec_cmpLtImm ..) rfl rfl,
      cmpi ha (exec_cmpLeImm ..) rfl rfl, cmpi ha (exec_cmpLtuImm ..) rfl rfl, cmpi ha (exec_cmpLeuImm ..) rfl rfl⟩,
    logic_answers hg (exec_gand ..) rfl rfl, logic_answers hg (exec_gor ..) rfl rfl, logic_answers hg (exec_gxor ..) rfl rfl,
    logic_answers hg (exec_gnot ..) rfl rfl⟩

end Sys2Proof.Machine

end

/-!
SUPPORT. Results, flags and traps of floating-point arithmetic (R139, R171, R220, R221).
-/
section

namespace Sys2Proof.Machine

/-! ## Operands and results (R171, R221) -/

theorem fS_eq (c : Ctx) (r : BitVec 5) : c.fS r = unboxed (c.rf (r.setWidth 4)) := by
  unfold Ctx.fS unboxed
  rw [BitVec.toNat_setWidth]
  rfl

theorem Scalar.box_eq (k : Scalar) (v : Nat) :
    k.box v = if k.s then BitVec.allOnes 32 ++ BitVec.ofNat 32 v else BitVec.ofNat 64 v := rfl

theorem sigFlag_pair (x y : FV) : sigFlag [x, y] = if x = .nan true ∨ y = .nan true then 1 else 0 := by
  have h (v : FV) : v.isSig = decide (v = .nan true) := by
    cases v with
    | nan sig => cases sig <;> rfl
    | inf | fin => rfl
  simp [sigFlag, flInvalid, h]

section

variable {s : State} {i : Instr} {g : Guard} {k : Scalar} {d a b : BitVec 5} (hg : s.me.ctx.guardTrue g = true)

/-- A scalar instruction that leaves `u` and raises `fl`: it retires where no raised flag is enabled, and traps FPX otherwise. -/
def FpAnswers (s u : State) (i : Instr) (fl : FFlags) : Prop :=
  (fl &&& s.me.ctx.fpe = 0 → exec i s = fpAnswer u fl (s.me.ctx.pc + 4)) ∧
  (fl &&& s.me.ctx.fpe ≠ 0 → exec i s = .next (s.trapAt 0x13 (fl.setWidth 64)))

/-- A scalar instruction with its result and flags, boxed where it is of binary32, answers `u` with the result in an f-register. -/
def FpWrites (s u : State) (d : BitVec 5) (x : Instr × (Nat × FFlags) × Bool) : Prop :=
  FpAnswers s (u.mapCtx fun c => c.wf (d.setWidth 4)
    (if x.2.2 then BitVec.allOnes 32 ++ BitVec.ofNat 32 x.2.1.1 else BitVec.ofNat 64 x.2.1.1)) x.1 x.2.1.2

theorem fpAnswers_of_fpDone {srcs : List (BitVec 5)} {fl : FFlags} {put : State → State}
    (he : exec i s = fpDone i s srcs fl put) (hl : i.lits = 0) : FpAnswers s (put (s.popSrcs srcs)) i fl := by
  rw [FpAnswers, he, fpDone, nextPc_zero hl]
  exact ⟨fun h => if_neg (by simp [Ctx.fpTraps, h]), fun h => if_pos (bne_iff_ne.2 h)⟩

include hg

theorem fpWrites_of_fpF {f : Ctx → Nat × FFlags} {r : Nat × FFlags} (he : exec i s = fpF i g k d s f) (hl : i.lits = 0)
    (hr : f s.me.ctx = r) : FpWrites s s d (i, r, k.s) := by
  subst hr
  rw [fpF, guarded_true hg] at he
  rw [FpWrites, ← k.box_eq]
  exact fpAnswers_of_fpDone (srcs := []) (put := fun s => s.putF d (k.box (f s.me.ctx).1)) he hl

theorem fpWrites_of_fp2 {f : Fmt → FV → FV → Nat × FFlags} {r : Nat × FFlags} (he : exec i s = fp2 i g k d a b s f)
    (hl : i.lits = 0) (hr : f k.fmt (k.val s.me.ctx a) (k.val s.me.ctx b) = r) : FpWrites s s d (i, r, k.s) :=
  fpWrites_of_fpF hg he hl hr

end

/-- Settles O13: each is its operation on the patterns its operands hold, finished as R221 says. -/
theorem floatArithmeticResults : Obligations.FloatArithmeticResults := by
  unfold Obligations.FloatArithmeticResults
  rintro s g d a b ra rb rd pc hg rfl rfl rfl rfl
  change ∀ x ∈ _, FpWrites s s d x
  simp only [← fS_eq, List.forall_mem_cons]
  have one (k : Scalar) {i : Instr} {f : Ctx → Nat × FFlags} {r : Nat × FFlags} :=
    fpWrites_of_fpF (k := k) (i := i) (d := d) (f := f) (r := r) hg
  have two (k : Scalar) {i : Instr} {f : Fmt → FV → FV → Nat × FFlags} {r : Nat × FFlags} :=
    fpWrites_of_fp2 (k := k) (i := i) (d := d) (a := a) (b := b) (f := f) (r := r) hg
  exact ⟨two scD (exec_fadd ..) rfl rfl, two scD (exec_fsub ..) rfl rfl, two scD (exec_fmul ..) rfl rfl,
    two scD (exec_fdiv ..) rfl rfl,
    one scD (exec_fsqrt ..) rfl rfl, one scD (exec_ffma ..) rfl rfl, one scD (exec_fmin ..) rfl rfl, one scD (exec_fmax ..) rfl rfl,
    two scS (exec_faddS ..) rfl rfl, two scS (exec_fsubS ..) rfl rfl, two scS (exec_fmulS ..) rfl rfl,
    two scS (exec_fdivS ..) rfl rfl,
    one scS (exec_fsqrtS ..) rfl rfl, one scS (exec_ffmaS ..) rfl rfl, one scS (exec_fminS ..) rfl rfl,
    one scS (exec_fmaxS ..) rfl rfl,
    one scS (exec_fcvtSD ..) rfl rfl, one scD (exec_fcvtDS ..) rfl rfl, fun _ h => nomatch h⟩

end Sys2Proof.Machine

end

/-!
SUPPORT. Results of floating-point comparisons, conversions, classes, moves and immediates (R170, R222 to R224).
-/
section

namespace Sys2Proof.Machine

/-! ## Comparisons and conversions (R222, R223) -/

section

variable {s : State} {i : Instr} {g : Guard} {d a b : BitVec 5} (k : Scalar) (hg : s.me.ctx.guardTrue g = true)

/-- The flag that a comparison raises for its operands. -/
def cmpFlags (quiet : Bool) (x y : FV) : FFlags :=
  if quiet then (if x = .nan true ∨ y = .nan true then 1 else 0) else if x.isNan ∨ y.isNan then 1 else 0

include hg

theorem fpAnswers_of_fpCmp (quiet : Bool) {f : FV → FV → Bool} {x y : FV} {v : Bool}
    (he : exec i s = fpCmp i g k d a b quiet s f) (hl : i.lits = 0) (hx : k.val s.me.ctx a = x) (hy : k.val s.me.ctx b = y)
    (hv : f x y = v) :
    FpAnswers s (s.mapCtx fun c => c.wq (d.setWidth 3) v) i (cmpFlags quiet x y) := by
  subst hx hy hv
  rw [fpCmp, guarded_true hg] at he
  have hf : (if quiet then sigFlag [k.val s.me.ctx a, k.val s.me.ctx b]
      else if (k.val s.me.ctx a).isNan || (k.val s.me.ctx b).isNan then flInvalid else 0) =
      cmpFlags quiet (k.val s.me.ctx a) (k.val s.me.ctx b) := by
    simp only [cmpFlags, sigFlag_pair, Bool.or_eq_true]
    rfl
  rw [← hf]
  exact fpAnswers_of_fpDone (srcs := []) (put := fun u => u.putQ d (f (k.val s.me.ctx a) (k.val s.me.ctx b))) he hl

theorem fpAnswers_of_fpToInt {lo hi v : Int} {fl : FFlags} {x : FV} (hd : s.DstReady d)
    (he : exec i s = fpToInt i g k d a lo hi s) (hl : i.lits = 0) (hx : k.val s.me.ctx a = x) (hv : toIntSat x lo hi = (v, fl)) :
    FpAnswers s (s.putG d (BitVec.ofInt 64 v)) i fl := by
  subst hx
  rw [fpToInt, gated_dst hg hd, hv] at he
  exact fpAnswers_of_fpDone (srcs := []) (put := fun s => s.putG d (wordOf v)) he hl

theorem fpWrites_of_fpOfInt {f : Word → Int} {r : Nat × FFlags} (ha : s.SrcReady a)
    (he : exec i s = fpOfInt i g k d a s f) (hl : i.lits = 0) (hr : k.fmt.ofInt (f (s.src a)) = r) :
    FpWrites s (s.popSrcs [a]) d (i, r, k.s) := by
  subst hr
  rw [fpOfInt, gated_src hg ha] at he
  rw [FpWrites, ← k.box_eq]
  exact fpAnswers_of_fpDone (srcs := [a]) (put := fun u => u.putF d (k.box (k.fmt.ofInt (f (s.src a))).1)) he hl

end

/-! ## Classes (R224) -/

/-- The class of a pattern by its fields. -/
theorem classify_eq (eb mb bits : Nat) : (Fmt.mk eb mb true).classify bits =
    if bits / 2 ^ mb % 2 ^ eb = 2 ^ eb - 1 then
      (if bits % 2 ^ mb = 0 then (if bits / 2 ^ (eb + mb) % 2 = 1 then 0 else 7)
        else if bits % 2 ^ mb < 2 ^ (mb - 1) then 8 else 9)
    else if bits / 2 ^ mb % 2 ^ eb = 0 then
      (if bits % 2 ^ mb = 0 then (if bits / 2 ^ (eb + mb) % 2 = 1 then 3 else 4)
        else if bits / 2 ^ (eb + mb) % 2 = 1 then 2 else 5)
    else if bits / 2 ^ (eb + mb) % 2 = 1 then 1 else 6 := by
  have hm : bits % 2 ^ mb < 2 ^ mb := Nat.mod_lt _ (by positivity)
  unfold Fmt.classify Fmt.read
  by_cases hx : bits / 2 ^ mb % 2 ^ eb = 2 ^ eb - 1
  · by_cases hz : bits % 2 ^ mb = 0 <;> simp [hx, hz]
  · by_cases h0 : bits / 2 ^ mb % 2 ^ eb = 0
    · rw [h0] at hx
      simp [h0, hx, hm]
    · simp [hx, h0]

/-- The top bit of the low `k + 1` bits. -/
theorem getLsbD_iff_le_mod {w : Nat} (v : BitVec w) (k : Nat) : v.getLsbD k = true ↔ ¬ v.toNat % 2 ^ (k + 1) < 2 ^ k := by
  have hr : v.toNat % 2 ^ k < 2 ^ k := Nat.mod_lt _ (by positivity)
  rw [← BitVec.testBit_toNat, Nat.testBit_eq_decide_div_mod_eq, decide_eq_true_eq, Nat.mod_pow_succ]
  rcases Nat.mod_two_eq_zero_or_one (v.toNat / 2 ^ k) with h | h <;> rw [h] <;> omega

theorem extractLsb'_eq_iff {w : Nat} (v : BitVec w) (lo n : Nat) (c : BitVec n) :
    v.extractLsb' lo n = c ↔ v.toNat / 2 ^ lo % 2 ^ n = c.toNat := by
  rw [← BitVec.toNat_inj, BitVec.extractLsb'_toNat, Nat.shiftRight_eq_div_pow]

theorem classify_toNat {eb mb : Nat} (v : BitVec (eb + mb + 1)) (hm : 0 < mb) :
    (Fmt.mk eb mb true).classify v.toNat =
    if v.extractLsb' mb eb = BitVec.allOnes eb then
      (if v.extractLsb' 0 mb = 0 then (if v.msb then 0 else 7) else if v.getLsbD (mb - 1) then 9 else 8)
    else if v.extractLsb' mb eb = 0 then
      (if v.extractLsb' 0 mb = 0 then (if v.msb then 3 else 4) else if v.msb then 2 else 5)
    else if v.msb then 1 else 6 := by
  have hs : v.toNat / 2 ^ (eb + mb) % 2 = 1 ↔ v.msb = true := by
    rw [BitVec.msb_eq_getLsbD_last, ← BitVec.testBit_toNat, Nat.testBit_eq_decide_div_mod_eq, decide_eq_true_eq]
    rfl
  have hq : v.toNat % 2 ^ mb < 2 ^ (mb - 1) ↔ ¬ v.getLsbD (mb - 1) = true := by
    rw [getLsbD_iff_le_mod, Nat.sub_add_cancel hm, Decidable.not_not]
  have hz : v.extractLsb' 0 mb = 0 ↔ v.toNat % 2 ^ mb = 0 := by
    rw [extractLsb'_eq_iff, Nat.pow_zero, Nat.div_one]
    rfl
  rw [classify_eq]
  simp only [extractLsb'_eq_iff v mb, hz, hs, hq, ite_not, BitVec.toNat_allOnes]
  rfl

theorem toNat_unboxed (w : Word) : (BitVec.ofNat 32 (unboxed w)).toNat = unboxed w := by
  rw [BitVec.toNat_ofNat, Nat.mod_eq_of_lt]
  unfold unboxed
  split
  · exact BitVec.isLt _
  · decide

theorem two_pow_word (n : Nat) : BitVec.ofNat 64 (2 ^ n) = 1 <<< n := by
  apply BitVec.eq_of_toNat_eq
  simp [Nat.shiftLeft_eq]

/-! ## Immediates (R170) -/

/-- The 16-bit patterns of a NaN. -/
theorem bf16_nan_iff (b : BitVec 16) : (b.toNat / 2 ^ 7 % 256 = 255 && b.toNat % 128 ≠ 0) = true ↔
    b.extractLsb' 7 8 = 0xFF#8 ∧ b.extractLsb' 0 7 ≠ 0 := by
  rw [Bool.and_eq_true, decide_eq_true_eq, decide_eq_true_eq, ne_eq, ne_eq, extractLsb'_eq_iff,
    extractLsb'_eq_iff, Nat.pow_zero, Nat.div_one]
  rfl

theorem fliD_nan {b : BitVec 16} (hx : b.extractLsb' 7 8 = 0xFF#8) (hm : b.extractLsb' 0 7 ≠ 0) :
    fliD b = b.extractLsb' 15 1 ++ 0x7FF#11 ++ (b.extractLsb' 0 7 ||| 0x40#7) ++ 0#45 := by
  unfold fliD
  rw [if_pos ((bf16_nan_iff b).2 ⟨hx, hm⟩)]
  have hl : b.toNat / 2 ^ 15 % 2 ^ 1 = b.toNat / 2 ^ 15 := by have := b.isLt; omega
  apply BitVec.eq_of_toNat_eq
  simp only [toNat_append_add, BitVec.toNat_or, BitVec.extractLsb'_toNat, Nat.shiftRight_eq_div_pow, Nat.pow_zero, Nat.div_one, hl]
  have ho : (b.toNat % 128 ||| 64) < 2 ^ 7 := Nat.or_lt_two_pow (Nat.mod_lt _ (by decide)) (by decide)
  have hb := b.isLt
  simp
  omega

theorem fliD_number {b : BitVec 16} (h : b.extractLsb' 7 8 ≠ 0xFF#8 ∨ b.extractLsb' 0 7 = 0) :
    fliD b = BitVec.ofNat 64 (fp64.convert (bf16.read b.toNat)).1 := by
  unfold fliD
  refine if_neg fun hn => ?_
  obtain ⟨hx, hm⟩ := (bf16_nan_iff b).1 hn
  exact h.elim (absurd hx) hm

theorem boxed_fliBits (b : BitVec 16) : boxed (fliBits b) = BitVec.allOnes 32 ++
    (if b.extractLsb' 7 8 = 0xFF#8 ∧ b.extractLsb' 0 7 ≠ 0 then (b ||| 0x40) ++ 0#16 else b ++ 0#16) := by
  have hs (w : BitVec 16) : BitVec.ofNat 32 (w.toNat * 2 ^ 16) = w ++ 0#16 := by
    apply BitVec.eq_of_toNat_eq
    rw [toNat_append_add]
    have := w.isLt
    simp
    omega
  have hb : BitVec.ofNat 32 (fliBits b) =
      if b.extractLsb' 7 8 = 0xFF#8 ∧ b.extractLsb' 0 7 ≠ 0 then (b ||| 0x40) ++ 0#16 else b ++ 0#16 := by
    unfold fliBits
    simp only [bf16_nan_iff]
    split
    · exact hs (b ||| 0x40)
    · exact hs b
  rw [boxed, hb]
  rfl

/-- Settles O14: each is its relation, conversion, class, move or immediate; the flags of the first two finish as R221 says. -/
theorem floatCompareConvertAndMoveResults : Obligations.FloatCompareConvertAndMoveResults := by
  unfold Obligations.FloatCompareConvertAndMoveResults
  refine ⟨?_, ?_, ?_⟩
  · rintro s g d a b ra rb pc x y u v sig any sig' any' hg rfl rfl rfl rfl rfl hu hv rfl rfl rfl rfl
    rw [← fS_eq] at hu hv
    subst hu hv
    change ∀ z : Instr × Bool × FFlags, z ∈ _ → FpAnswers s (s.mapCtx fun c => c.wq (d.setWidth 3) z.2.1) z.1 z.2.2
    simp only [List.forall_mem_cons]
    exact ⟨fpAnswers_of_fpCmp scD hg true (exec_fcmpEq ..) rfl rfl rfl rfl,
      fpAnswers_of_fpCmp scD hg false (exec_fcmpLt ..) rfl rfl rfl rfl,
      fpAnswers_of_fpCmp scD hg false (exec_fcmpLe ..) rfl rfl rfl rfl,
      fpAnswers_of_fpCmp scD hg true (exec_fcmpUn ..) rfl rfl rfl rfl,
      fpAnswers_of_fpCmp scS hg true (exec_fcmpEqS ..) rfl rfl rfl rfl,
      fpAnswers_of_fpCmp scS hg false (exec_fcmpLtS ..) rfl rfl rfl rfl,
      fpAnswers_of_fpCmp scS hg false (exec_fcmpLeS ..) rfl rfl rfl rfl,
      fpAnswers_of_fpCmp scS hg true (exec_fcmpUnS ..) rfl rfl rfl rfl,
      fun _ h => nomatch h⟩
  · rintro s g d a ra pc hg rfl rfl
    rw [← fS_eq]
    refine ⟨?_, ?_⟩
    · simp only [List.forall_mem_cons]
      exact ⟨fun v fl hv hd => fpAnswers_of_fpToInt scD hg hd (exec_fcvtLD ..) rfl rfl hv,
        fun v fl hv hd => fpAnswers_of_fpToInt scD hg hd (exec_fcvtLuD ..) rfl rfl hv,
        fun v fl hv hd => fpAnswers_of_fpToInt scS hg hd (exec_fcvtLS ..) rfl rfl hv,
        fun v fl hv hd => fpAnswers_of_fpToInt scS hg hd (exec_fcvtLuS ..) rfl rfl hv, fun _ h => nomatch h⟩
    · intro x hx ha
      revert x
      change ∀ x ∈ _, FpWrites s (s.popSrcs [a]) d x
      simp only [List.forall_mem_cons]
      exact ⟨fpWrites_of_fpOfInt scD hg ha (exec_fcvtDL ..) rfl rfl, fpWrites_of_fpOfInt scD hg ha (exec_fcvtDLu ..) rfl rfl,
        fpWrites_of_fpOfInt scS hg ha (exec_fcvtSL ..) rfl rfl, fpWrites_of_fpOfInt scS hg ha (exec_fcvtSLu ..) rfl rfl,
        fun _ h => nomatch h⟩
  · rintro s g d a imm ra u pc v hg rfl rfl rfl
    refine ⟨fun hd => ⟨const_answers hg hd (exec_fclass ..) ?_, const_answers hg hd (exec_fclassS ..) ?_,
      const_answers hg hd (exec_fmvg ..) rfl⟩, fun ha => ?_, ?_, fun hx hm => ?_, fun h hu => ?_⟩
    · rw [← two_pow_word]
      exact congrArg (fun n => BitVec.ofNat 64 (2 ^ n)) (classify_toNat (eb := 11) (mb := 52) _ (by decide))
    · rw [← two_pow_word]
      refine congrArg (fun n => BitVec.ofNat 64 (2 ^ n)) (.trans ?_ (classify_toNat (eb := 8) (mb := 23) _ (by decide)))
      rw [toNat_unboxed, ← fS_eq]
      rfl
    · exact (exec_gmvf ..).trans (gated_src hg ha)
    · rw [← boxed_fliBits]
      exact (exec_fliS ..).trans (guarded_true hg)
    · rw [← fliD_nan hx hm]
      exact (exec_fli ..).trans (guarded_true hg)
    · rw [hu, ← fliD_number h]
      exact (exec_fli ..).trans (guarded_true hg)

end Sys2Proof.Machine

end

/-!
SUPPORT. What NaNs, infinities and zeros give, and rounding to nearest even (R73, R220, R221).
-/
section

namespace Sys2Proof.Machine

/-! ## What NaNs give (R220, R221) -/

/-- An operation that answers a NaN operand with one pattern and the flag of its operands. -/
theorem nan_result {op : FV → FV → Nat × FFlags} {n : Nat} (hl : ∀ sig y, op (.nan sig) y = (n, sigFlag [.nan sig, y]))
    (hr : ∀ x sig, op x (.nan sig) = (n, sigFlag [x, .nan sig])) {x y : FV} (h : x.isNan = true ∨ y.isNan = true) :
    op x y = (n, if x = .nan true ∨ y = .nan true then 1 else 0) := by
  rw [← sigFlag_pair]
  rcases h with h | h
  · cases x with
    | nan sig => exact hl sig y
    | inf | fin => nomatch h
  · cases y with
    | nan sig => exact hr x sig
    | inf | fin => nomatch h

theorem sigFlag_neg (x y : FV) : sigFlag [x, y.neg] = sigFlag [x, y] := by cases y <;> rfl

section

variable (f : Fmt) {x y : FV} (h : x.isNan = true ∨ y.isNan = true)

include h

theorem add_nan : f.add x y = (f.nanBits, if x = .nan true ∨ y = .nan true then 1 else 0) :=
  nan_result (fun _ y => by cases y <;> rfl) (fun x _ => by cases x <;> rfl) h

theorem sub_nan : f.sub x y = (f.nanBits, if x = .nan true ∨ y = .nan true then 1 else 0) :=
  nan_result (fun sig y => by rw [← sigFlag_neg]; cases y <;> rfl) (fun x _ => by cases x <;> rfl) h

theorem mul_nan : f.mul x y = (f.nanBits, if x = .nan true ∨ y = .nan true then 1 else 0) :=
  nan_result (fun _ y => by cases y <;> rfl) (fun x _ => by cases x <;> rfl) h

theorem div_nan : f.div x y = (f.nanBits, if x = .nan true ∨ y = .nan true then 1 else 0) :=
  nan_result (fun _ y => by cases y <;> rfl) (fun x _ => by cases x <;> rfl) h

end

/-! ## A discarded tail -/

/-- Rounding away `k` bits: the quotient, one more where the tail is above half, or is half and the quotient odd. -/
theorem rneShift_nearest (m k : Nat) :
    2 * ((rneShift m k false).1 * 2 ^ k) ≤ 2 * m + 2 ^ k ∧ 2 * m ≤ 2 * ((rneShift m k false).1 * 2 ^ k) + 2 ^ k ∧
    (2 * ((rneShift m k false).1 * 2 ^ k) = 2 * m + 2 ^ k ∨ 2 * m = 2 * ((rneShift m k false).1 * 2 ^ k) + 2 ^ k → 0 < k →
      (rneShift m k false).1 % 2 = 0) ∧
    ((rneShift m k false).2 = true ↔ m % 2 ^ k ≠ 0) := by
  cases k with
  | zero => simp [rneShift, Nat.mod_one]
  | succ j =>
    have hp : 2 ^ (j + 1) = 2 * 2 ^ j := by rw [Nat.pow_succ, Nat.mul_comm]
    have hr : m % 2 ^ (j + 1) < 2 ^ (j + 1) := Nat.mod_lt _ (by positivity)
    have hm : m / 2 ^ (j + 1) * 2 ^ (j + 1) + m % 2 ^ (j + 1) = m := Nat.div_add_mod' ..
    have hs : (m / 2 ^ (j + 1) + 1) * 2 ^ (j + 1) = m / 2 ^ (j + 1) * 2 ^ (j + 1) + 2 ^ (j + 1) := Nat.succ_mul ..
    simp only [rneShift, Nat.add_one_ne_zero, if_false, Nat.add_one_sub_one, Bool.false_or, Bool.or_false, Bool.or_eq_true,
      Bool.and_eq_true, decide_eq_true_eq, bne_iff_ne]
    refine ⟨?_, ?_, ?_, trivial⟩ <;> split <;> omega

/-! ## Rounding back what was read (R73) -/

/-- What a pattern of a number reads as, by its exponent field. -/
theorem read_eq_fin {f : Fmt} {bits m : Nat} {neg : Bool} {e : Int} (h : f.read bits = .fin neg m e) :
    neg = decide (bits / 2 ^ (f.eb + f.mb) % 2 = 1) ∧
    ((bits / 2 ^ f.mb % 2 ^ f.eb = 0 ∧ m = bits % 2 ^ f.mb ∧ e = f.emin) ∨
      (bits / 2 ^ f.mb % 2 ^ f.eb ≠ 0 ∧ m = bits % 2 ^ f.mb + 2 ^ f.mb ∧
        e = f.emin + (bits / 2 ^ f.mb % 2 ^ f.eb : Nat) - 1 ∧
        (bits / 2 ^ f.mb % 2 ^ f.eb = 2 ^ f.eb - 1 → f.inf = false ∧ bits % 2 ^ f.mb ≠ 2 ^ f.mb - 1))) := by
  unfold Fmt.read at h
  dsimp only at h
  split at h
  · split at h <;> nomatch h
  · rename_i htop
    split at h
    · rename_i hz
      injection h with hn hm he
      exact ⟨hn.symm, .inl ⟨hz, hm.symm, he.symm⟩⟩
    · rename_i hz
      injection h with hn hm he
      exact ⟨hn.symm, .inr ⟨hz, hm.symm, he.symm, fun hx => by simpa [hx] using htop⟩⟩

/-- A number that stands on the grid of its exponent is not changed by rounding. -/
theorem round_exact {f : Fmt} {m : Nat} {e : Int} (neg : Bool) (hm : m ≠ 0) (he : max (e + Nat.log2 m - f.mb) f.emin = e)
    {bits : Nat} (hb : bits = if m < 2 ^ f.mb then m else ((e - f.emin).toNat + 1) * 2 ^ f.mb + (m - 2 ^ f.mb))
    (hinf : f.inf = true → bits < f.infBits false) (hmax : bits ≤ f.maxBits false) :
    f.round neg m e false = (f.sign neg + bits, 0) := by
  have hi : (f.infBits false ≤ bits && f.inf || f.maxBits false < bits) = false := by
    rw [Bool.or_eq_false_iff, Bool.and_eq_false_imp]
    simp only [decide_eq_true_eq, decide_eq_false_iff_not]
    refine ⟨fun h => ?_, by omega⟩
    cases hf : f.inf with
    | false => rfl
    | true => exact absurd (hinf hf) (by omega)
  have hbits : (if m < 2 ^ f.mb then m
      else (if m < 2 ^ f.mb then 0 else (e - f.emin).toNat + 1) * 2 ^ f.mb + (m - 2 ^ f.mb)) = bits := by
    rw [hb]
    split <;> rfl
  unfold Fmt.round
  rw [if_neg hm]
  simp only [he, Int.sub_self, Int.le_refl, if_true, Int.neg_zero, Int.toNat_zero, Nat.pow_zero, Nat.mul_one, hbits, hi,
    Bool.false_and, Bool.false_eq_true, if_false]
  rfl

/-- A pattern by its fields. -/
theorem fields_eq (f : Fmt) {bits : Nat} (hw : bits < 2 ^ f.width) :
    f.sign (decide (bits / 2 ^ (f.eb + f.mb) % 2 = 1)) + (bits / 2 ^ f.mb % 2 ^ f.eb * 2 ^ f.mb + bits % 2 ^ f.mb) = bits := by
  have hs : bits / 2 ^ (f.eb + f.mb) < 2 := by
    rw [Nat.div_lt_iff_lt_mul (by positivity), ← Nat.pow_succ']
    rwa [Fmt.width, show 1 + f.eb + f.mb = (f.eb + f.mb).succ by omega] at hw
  have hsign : f.sign (decide (bits / 2 ^ (f.eb + f.mb) % 2 = 1)) = bits / 2 ^ (f.eb + f.mb) * 2 ^ (f.eb + f.mb) := by
    unfold Fmt.sign
    rcases Nat.le_one_iff_eq_zero_or_eq_one.1 (Nat.lt_succ_iff.1 hs) with h | h <;> simp [h]
  calc _ = (bits / 2 ^ f.mb / 2 ^ f.eb * 2 ^ f.eb + bits / 2 ^ f.mb % 2 ^ f.eb) * 2 ^ f.mb + bits % 2 ^ f.mb := by
        rw [hsign, Nat.div_div_eq_div_mul, ← Nat.pow_add, Nat.add_comm f.mb, Nat.pow_add]
        ring
    _ = bits := by rw [Nat.div_add_mod', Nat.div_add_mod']

/-- The fields of a number stay below the infinities and within the largest finite pattern. -/
theorem fields_le_max {f : Fmt} {x r : Nat} (hx : x < 2 ^ f.eb) (hr : r < 2 ^ f.mb) (hmb : 1 ≤ f.mb)
    (htop : x = 2 ^ f.eb - 1 → f.inf = false ∧ r ≠ 2 ^ f.mb - 1) :
    (f.inf = true → x * 2 ^ f.mb + r < f.infBits false) ∧ x * 2 ^ f.mb + r ≤ f.maxBits false := by
  have hP : 2 ≤ 2 ^ f.mb := Nat.pow_le_pow_right (n := 2) (by decide) hmb
  simp only [Fmt.infBits, Fmt.maxBits, Fmt.sign, Bool.false_eq_true, if_false, Nat.zero_add]
  by_cases h : x = 2 ^ f.eb - 1
  · obtain ⟨hi, hne⟩ := htop h
    simp only [hi, Bool.false_eq_true, if_false, false_implies, true_and, ← h]
    omega
  · have hl : (x + 1) * 2 ^ f.mb ≤ (2 ^ f.eb - 1) * 2 ^ f.mb := Nat.mul_le_mul_right _ (by omega)
    rw [Nat.succ_mul] at hl
    refine ⟨fun _ => by omega, ?_⟩
    split <;> omega

/-- Rounding the value of a finite pattern into its format gives the pattern. -/
theorem round_read {f : Fmt} (heb : 1 ≤ f.eb) (hmb : 1 ≤ f.mb) {bits m : Nat} {neg : Bool} {e : Int} (hw : bits < 2 ^ f.width)
    (h : f.read bits = .fin neg m e) : f.round neg m e false = (bits, 0) := by
  have hr : bits % 2 ^ f.mb < 2 ^ f.mb := Nat.mod_lt _ (by positivity)
  have hx : bits / 2 ^ f.mb % 2 ^ f.eb < 2 ^ f.eb := Nat.mod_lt _ (by positivity)
  have hQ : 2 ≤ 2 ^ f.eb := Nat.pow_le_pow_right (n := 2) (by decide) heb
  have hbits := fields_eq f hw
  obtain ⟨rfl, ⟨h0, rfl, rfl⟩ | ⟨h0, rfl, rfl, htop⟩⟩ := read_eq_fin h
  · obtain ⟨hinf, hmax⟩ := fields_le_max (f := f) (x := 0) (by omega) hr hmb (by omega)
    rw [Nat.zero_mul, Nat.zero_add] at hinf hmax
    rw [h0, Nat.zero_mul, Nat.zero_add] at hbits
    by_cases hz : bits % 2 ^ f.mb = 0
    · rw [hz, Nat.add_zero] at hbits
      rw [hz, Fmt.round, if_pos rfl, hbits]
      rfl
    · have hl : Nat.log2 (bits % 2 ^ f.mb) < f.mb := (Nat.log2_lt hz).2 hr
      rw [round_exact _ hz (by omega) (if_pos hr).symm hinf hmax, hbits]
  · obtain ⟨hinf, hmax⟩ := fields_le_max hx hr hmb htop
    have hl : Nat.log2 (bits % 2 ^ f.mb + 2 ^ f.mb) = f.mb := by
      rw [Nat.log2_eq_iff (by omega), Nat.pow_succ]
      omega
    rw [round_exact _ (by omega) (by omega) (.symm (.trans (if_neg (by omega)) ?_)) hinf hmax, hbits]
    rw [Nat.add_sub_cancel]
    congr 2
    omega

/-- Settles O15: NaN operands, the invalid forms and the special values by the operations' cases; rounding by what the
tail holds. -/
theorem floatSpecialCasesAndRounding : Obligations.FloatSpecialCasesAndRounding := by
  unfold Obligations.FloatSpecialCasesAndRounding
  refine ⟨fun f x y z _ => ⟨fun h => ?_, fun p q n m => ⟨rfl, rfl, rfl, ?_, ?_, rfl⟩,
    fun p q n m e hm => ⟨if_neg hm, ?_⟩, fun _ => rfl,
    rfl, rfl⟩, rneShift_nearest, ?_⟩
  · simp only [List.forall_mem_cons]
    exact ⟨add_nan f h, sub_nan f h, mul_nan f h, div_nan f h, fun _ h => nomatch h⟩
  · cases p <;> rfl
  · cases p <;> rfl
  · exact (if_neg hm).trans rfl
  · simp only [List.forall_mem_cons]
    exact ⟨fun _ _ _ _ => round_read (by decide) (by decide), fun _ _ _ _ => round_read (by decide) (by decide),
      fun _ _ _ _ => round_read (by decide) (by decide), fun _ _ _ _ => round_read (by decide) (by decide),
      fun _ _ _ _ => round_read (by decide) (by decide), fun _ _ _ _ => round_read (by decide) (by decide),
      fun _ h => nomatch h⟩

end Sys2Proof.Machine

end

/-!
SUPPORT. Branches and REP, with and without REP state (R176, R202 to R204, R440).
-/
section

namespace Sys2Proof.Machine

/-! ## Instructions that REP state forbids (R204) -/

section

variable {i : Instr} {g : Guard} {s : State} {k : State → Res} (hg : s.me.ctx.guardTrue g = true)

include hg

theorem noRep_go (hr : s.me.ctx.rep.count = 0) : noRep i g s k = k s :=
  (guarded_true hg).trans (if_neg (not_not.2 hr))

theorem noRep_held (hr : s.me.ctx.rep.count ≠ 0) : noRep i g s k = .next (s.trapAt 0x01 (infoWord i)) :=
  (guarded_true hg).trans (if_pos hr)

theorem branch_go (hr : s.me.ctx.rep.count = 0) : branch i g s k = k s := (if_pos hg).trans (noRep_go hg hr)

theorem branch_held (hr : s.me.ctx.rep.count ≠ 0) : branch i g s k = .next (s.trapAt 0x01 (infoWord i)) :=
  (if_pos hg).trans (noRep_held hg hr)

end

/-! ## Branches -/

theorem and_three_eq_zero_iff (t : Word) : t &&& 3 = 0 ↔ t.toNat % 4 = 0 := by
  rw [← BitVec.toNat_inj, BitVec.toNat_and]
  exact iff_of_eq (congrArg (· = 0) (Nat.and_two_pow_sub_one_eq_mod t.toNat 2))

theorem canonical_iff (t : Word) : canonical t = true ↔ t.toNat < 2 ^ 56 ∨ 2 ^ 64 - 2 ^ 56 ≤ t.toNat := by
  rw [canonical, Bool.or_eq_true, decide_eq_true_eq, decide_eq_true_eq]

section

variable {s : State} {g : Guard} {a : BitVec 5} {imm : BitVec 12} (hg : s.me.ctx.guardTrue g = true)
  (hr : s.me.ctx.rep.count = 0) (ha : s.SrcReady a)

include hg hr ha

theorem exec_bi_eq {t : Word} (ht : t = s.src a + imm.signExtend 64 * 4) : exec (.bi g a imm) s =
    if t.toNat % 4 ≠ 0 then .next (s.trapAt 0x03 t)
    else if !canonical t then .next (s.trapAt 0x04 t)
    else .next (((s.popSrcs [a]).mapCtx fun c => c.sign g true).jumpTo t) := by
  rw [exec_bi, execBi, branch_go hg hr, gate_src _ false (ready1 ha), ht]
  rfl

end

theorem repLast_eq {pc last : Word} {imm : BitVec 12} (h : last = pc + imm.setWidth 64 * 4) :
    pc + BitVec.ofNat 64 (4 * imm.toNat) = last := by
  rw [h, Nat.mul_comm, BitVec.ofNat_mul, BitVec.ofNat_toNat]
  rfl

/-- Settles O16: the branches by their targets, all six under REP state by one rule, and REP by its count and its limit. -/
theorem controlFlowResults : Obligations.ControlFlowResults := by
  unfold Obligations.ControlFlowResults
  refine ⟨?_, ?_, ?_⟩
  · rintro s g off a imm pc t hg hr rfl ht
    refine ⟨(exec_br ..).trans (branch_go hg hr), (exec_bl ..).trans (branch_go hg hr), fun ha => ?_⟩
    rw [exec_bi_eq hg hr ha ht, ← canonical_iff, ne_eq, and_three_eq_zero_iff]
    refine ⟨fun h => if_pos h, fun h hc => ?_, fun h hc => ?_⟩
    · rw [if_neg (not_not.2 h), if_pos (by simpa using hc)]
    · rw [if_neg (not_not.2 h), if_neg (by simpa using hc)]
  · intro s g off a imm hg hr
    simp only [List.forall_mem_cons]
    refine ⟨(exec_br ..).trans (branch_held hg hr), (exec_bl ..).trans (branch_held hg hr),
      (exec_bi ..).trans (branch_held hg hr), ?_,
      (exec_exit ..).trans (noRep_held hg hr), (exec_eret ..).trans (noRep_held hg hr), fun _ h => nomatch h⟩
    rw [exec_rep, execRep, noRep_held hg hr]
    exact ite_self _
  · rintro s g a imm pc last n rfl
    refine ⟨fun h => (exec_rep ..).trans (execRep_reserved h), ?_⟩
    rintro hg hr ha rfl hlt hlast
    have hfar : ¬ repTooFar s.me.ctx.pc imm = true := by simp [repTooFar_eq_false hlt]
    rw [exec_rep, execRep, if_neg hfar, noRep_go hg hr, gate_src _ false (ready1 ha)]
    dsimp only
    rw [repLast_eq hlast]
    refine ⟨fun h => if_neg h, fun t u h hs => ?_, fun u c va h hs => ?_, fun w h hs => ?_⟩ <;> rw [if_pos h, hs]

end Sys2Proof.Machine

end

/-!
SUPPORT. What the disposal of handles and the closing of channels leave, and WAITCH, YIELD, NOP, EXIT and the barriers (R37, R134,
R156, R206 to R208, R217, R218, R239).
-/
section

namespace Sys2Proof.Machine

/-! ## Messages to other packages write records alone -/

theorem stored_linkFault (s : State) (fn p : Nat) : s.Stored (s.linkFault fn p) := by
  unfold State.linkFault
  dsimp only
  split
  · exact .refl s
  · split
    · exact stored_devFault ..
    · exact .refl s

/-- A fold that carries a state beside something else writes what its steps write. -/
theorem stored_foldl_snd {α β : Type} {f : β × State → α → β × State} (hf : ∀ (a : β × State) x, a.2.Stored (f a x).2) (l : List α)
    (a : β × State) : a.2.Stored (l.foldl f a).2 :=
  foldl_keeps (P := fun b : β × State => a.2.Stored b.2) (fun b x h => h.trans (hf b x)) l (.refl a.2)

theorem stored_entryFaults (s : State) (pkg : BitVec 8) (fn : Nat) : s.Stored (s.entryFaults pkg fn).2 := by
  refine stored_foldl_snd (fun a i => ?_) _ (false, s)
  split
  · exact .refl a.2
  · split
    · exact .refl a.2
    · exact stored_linkFault ..

theorem stored_pkgFaults (s : State) (pkg : BitVec 8) : s.Stored (s.pkgFaults pkg) := by
  refine stored_foldl_snd (fun a f => ?_) _ (false, s)
  split
  · exact .refl a.2
  · exact stored_entryFaults ..

/-! ## Disposals

What a handle's end changes of the channels and of the acting task: nothing of the first, counters and deterministic state of the
second. -/

/-- `u` has the channels of `s`, and its acting task but for counters and deterministic state. -/
def State.Disposed (s u : State) : Prop :=
  u.chans = s.chans ∧ ∃ c d, u.me = { s.me with ctx := { s.me.ctx with ctrs := c }, det := d }

theorem State.Disposed.of_me {s u : State} (hc : u.chans = s.chans) (hm : u.me = s.me) : s.Disposed u :=
  ⟨hc, s.me.ctx.ctrs, s.me.det, hm⟩

theorem State.Disposed.refl (s : State) : s.Disposed s := .of_me rfl rfl

theorem State.Disposed.trans {s u v : State} (h : s.Disposed u) (h' : u.Disposed v) : s.Disposed v := by
  obtain ⟨hc, c, d, hm⟩ := h
  obtain ⟨hc', c', d', hm'⟩ := h'
  exact ⟨hc'.trans hc, c', d', by rw [hm', hm]⟩

theorem State.Stored.disposed {s u : State} (h : s.Stored u) : s.Disposed u := by
  unfold State.Stored at h
  exact .of_me (by rw [h]) (by rw [h])

theorem disposed_objFree (s : State) (id : Nat) : s.Disposed (s.objFree id) := by
  refine .of_me ?_ (objFree_me s id)
  unfold State.objFree
  split
  · rfl
  · dsimp only
    split <;> rfl

theorem disposed_objDropOne (s : State) (id : Nat) : s.Disposed (s.objDropOne id) := by
  unfold State.objDropOne
  dsimp only
  split
  · split
    · exact disposed_objFree (s.mapObj id _) id
    · exact .of_me rfl rfl
  · exact .of_me rfl rfl

theorem disposed_objPublish (s : State) (id c : Nat) : s.Disposed (s.objPublish id c) := by
  unfold State.objPublish State.publishAt
  split
  · exact .of_me rfl rfl
  · exact .trans (.of_me rfl rfl) (disposed_objDropOne ..)

theorem disposed_objAbandon (s : State) (id : Nat) : s.Disposed (s.objAbandon id) :=
  .trans (.of_me rfl rfl) (disposed_objDropOne ..)

theorem disposed_sendPkg (s : State) (pkg : BitVec 8) (clk : Nat) (m : LinkMsg) : s.Disposed (s.sendPkg pkg clk m) := by
  refine (stored_pkgFaults s pkg).disposed.trans ?_
  unfold State.sendPkg State.sendPkg?
  dsimp only
  cases (s.pkgFaults pkg).pkgPort pkg <;> exact .of_me rfl rfl

theorem disposed_disposeHandle (s : State) (h : BitVec 128) (p : Bool) (clk : Nat) : s.Disposed (s.disposeHandle h p clk) := by
  unfold State.disposeHandle
  split
  · split
    · exact disposed_objDropOne ..
    · exact disposed_sendPkg ..
  · split
    · split
      · exact disposed_objPublish ..
      · exact disposed_objAbandon ..
    · exact .refl s

/-- A drop that waits for the merge is noted in its task's deterministic state. -/
theorem disposed_mapTask (s : State) (who : TaskId) (f : DetTask → DetTask) :
    s.Disposed (s.mapTask who fun t => { t with det := f t.det }) := by
  refine ⟨rfl, s.me.ctx.ctrs, if s.me.id == who then f s.me.det else s.me.det, ?_⟩
  unfold State.mapTask
  rw [mapTasks_me]
  split <;> rfl

theorem disposed_discardHandle (s : State) (who : TaskId) (h : BitVec 128) : s.Disposed (s.discardHandle who h) := by
  unfold State.discardHandle
  split
  · split
    · exact disposed_mapTask s who fun d => { d with drops := d.drops ++ [hObj h] }
    · exact disposed_disposeHandle ..
  · exact disposed_disposeHandle ..

theorem disposed_countFor (s : State) (t : TaskId) (e n : Nat) : s.Disposed (s.countFor t e n) := by
  obtain ⟨c, h⟩ := countFor_me s t e n
  exact ⟨rfl, c, s.me.det, h⟩

theorem disposed_discardFrom (s : State) (who : TaskId) (c : Chan) (ws : List ChWord) : s.Disposed (s.discardFrom who c ws) :=
  .trans (.trans (stored_addClosed ..).disposed
    (foldl_keeps (P := (s.addClosed c ws.length).Disposed) (fun b h hb => hb.trans (disposed_discardHandle b who h)) _ (.refl _)))
    (disposed_countFor ..)

theorem disposed_discardMsg (s : State) (c : Chan) (n : Nat) : s.Disposed (s.discardMsg c n) :=
  .trans (stored_addClosed ..).disposed (disposed_countFor ..)

theorem disposed_exitHandle (s : State) (kill : Bool) (h : BitVec 128) : s.Disposed (s.exitHandle kill h) := by
  unfold State.exitHandle
  split
  · split
    · exact ⟨rfl, s.me.ctx.ctrs, _, rfl⟩
    · exact disposed_objPublish ..
  · exact disposed_disposeHandle ..

/-! ## Closing -/

/-- A channel's place in its node. -/
def Chan.at (c d : Chan) : Prop := c.fn = d.fn ∧ c.blk = d.blk ∧ c.ch = d.ch

theorem Chan.at_iff (x c : Chan) : (x.fn == c.fn && x.blk == c.blk && x.ch == c.ch) = true ↔ x.at c := by
  simp [Chan.at, and_assoc]

theorem chans_mapChan (s : State) (c : Chan) (f : Chan → Chan) {x : Chan} (hx : x ∈ (s.mapChan c.fn c.blk c.ch f).chans) :
    ∃ y ∈ s.chans, (y.at c ∧ x = f y) ∨ (¬ y.at c ∧ x = y) := by
  obtain ⟨y, hy, rfl⟩ := List.mem_map.1 hx
  refine ⟨y, hy, ?_⟩
  by_cases h : y.at c
  · exact .inl ⟨h, if_pos ((Chan.at_iff y c).2 h)⟩
  · exact .inr ⟨h, if_neg fun h' => h ((Chan.at_iff y c).1 h')⟩

/-- Telling the peer of a close counts a message at the channel (R156). -/
theorem disposed_tellClosed (s : State) (c : Chan) : (s.tellClosed c).me = s.me ∧
    ∀ x ∈ (s.tellClosed c).chans, ∃ y ∈ s.chans, ∃ n, x = { y with sent := n } := by
  have hself : ∀ x ∈ s.chans, ∃ y ∈ s.chans, ∃ n, x = { y with sent := n } := fun x hx => ⟨x, hx, x.sent, rfl⟩
  unfold State.tellClosed
  split
  · split
    · exact ⟨rfl, hself⟩
    · split
      · exact ⟨rfl, hself⟩
      · refine ⟨rfl, fun x hx => ?_⟩
        obtain ⟨y, hy, ⟨-, h⟩ | ⟨-, h⟩⟩ := chans_mapChan s c (fun x => { x with sent := x.sent + 1 }) hx
        · exact ⟨y, hy, _, h⟩
        · exact ⟨y, hy, y.sent, h⟩
  · have h := (stored_linkFault s c.fn c.peer).disposed
    rw [h.1]
    exact ⟨linkFault_me .., hself⟩

/-- Closing a consumer end leaves the acting task, but for counters and deterministic state, and the other ends open as they
were. -/
theorem closeConsumer_frame (s : State) (c : Chan) :
    (∃ k d, (s.closeConsumer c).me = { s.me with ctx := { s.me.ctx with ctrs := k }, det := d }) ∧
    ∀ x ∈ (s.closeConsumer c).chans, x.closed = true ∨ ∃ y ∈ s.chans, ¬ y.at c ∧ ∃ n, x = { y with sent := n } := by
  unfold State.closeConsumer
  dsimp only
  generalize hf : (fun c : Chan => { c with
    closed := true, buf := [], spill := [], wire := [], msgs := [], msgWire := [], fullSince := none }) = f
  have hclosed (y : Chan) : (f y).closed = true := by rw [← hf]
  generalize hu : ((s.mapChan c.fn c.blk c.ch f).spillReturn c.fn c.blk
    (8 * (c.spill.length + sumNat (c.msgs.map (·.spilt))))) = u
  have hd : u.Disposed ((u.discard c (c.buf ++ c.spill ++ c.wire)).discardMsg c
      (sumNat ((c.msgs ++ c.msgWire).map fun (m : HaloMsg) => msgWords m.bytes.length))) :=
    (disposed_discardFrom ..).trans (disposed_discardMsg ..)
  obtain ⟨hc, k, d, hm⟩ := hd
  obtain ⟨ht, hx⟩ := disposed_tellClosed ((u.discard c (c.buf ++ c.spill ++ c.wire)).discardMsg c
      (sumNat ((c.msgs ++ c.msgWire).map fun (m : HaloMsg) => msgWords m.bytes.length))) c
  refine ⟨⟨k, d, by rw [ht, hm, ← hu]; rfl⟩, fun x h => ?_⟩
  obtain ⟨y, hy, n, rfl⟩ := hx x h
  rw [hc, ← hu] at hy
  obtain ⟨z, hz, ⟨-, rfl⟩ | ⟨hne, rfl⟩⟩ := chans_mapChan s c f hy
  · exact .inl (hclosed z)
  · exact .inr ⟨y, hz, hne, n, rfl⟩

/-- After closing every end of a list that holds the ends a task consumes, it consumes none (R156). -/
theorem closeAll_frame (t : TaskId) (l : List Chan) (s : State)
    (h : ∀ x ∈ s.chans, Chan.consumes t x = true → ∃ c ∈ l, x.at c) :
    (∃ k d, (l.foldl State.closeConsumer s).me = { s.me with ctx := { s.me.ctx with ctrs := k }, det := d }) ∧
    ∀ x ∈ (l.foldl State.closeConsumer s).chans, Chan.consumes t x = false := by
  induction l generalizing s with
  | nil =>
    refine ⟨⟨s.me.ctx.ctrs, s.me.det, rfl⟩, fun x hx => Bool.eq_false_iff.2 fun hc => ?_⟩
    obtain ⟨c, hm, -⟩ := h x hx hc
    nomatch hm
  | cons c l ih =>
    obtain ⟨⟨k, d, hm⟩, hx⟩ := closeConsumer_frame s c
    obtain ⟨⟨k', d', hm'⟩, hx'⟩ := ih (s.closeConsumer c) fun x hin hcons => by
      rcases hx x hin with hcl | ⟨y, hy, hne, n, rfl⟩
      · simp [Chan.consumes, hcl] at hcons
      · obtain ⟨b, hb, hat⟩ := h y hy hcons
        rcases List.mem_cons.1 hb with rfl | hb
        · exact absurd hat hne
        · exact ⟨b, hb, hat⟩
    exact ⟨⟨k', d', by rw [List.foldl_cons, hm', hm]⟩, hx'⟩

/-! ## EXIT -/

/-- The end of a task: its context is free of handles and bindings, its clock and commands stay, and it consumes no open end. -/
theorem endTask_frame (s : State) (kill : Bool) :
    (s.endTask kill).me.id = s.me.id ∧ (s.endTask kill).me.st = .draining ∧ (s.endTask kill).me.ctx.st = .free ∧
    (s.endTask kill).me.ctx.h = Vector.replicate 8 0 ∧ (s.endTask kill).me.ctx.bind = Vector.replicate 4 none ∧
    (s.endTask kill).me.ctx.clock = s.me.ctx.clock ∧ (s.endTask kill).me.cmds = s.me.cmds ∧
    ∀ c ∈ (s.endTask kill).chans, Chan.consumes s.me.id c = false := by
  obtain ⟨-, k, d, hm⟩ : s.Disposed (s.me.ctx.h.toList.foldl (fun st h => st.exitHandle kill h) s) :=
    foldl_keeps (P := s.Disposed) (fun u h hu => hu.trans (disposed_exitHandle u kill h)) _ (.refl s)
  unfold State.endTask
  dsimp only
  generalize s.me.ctx.h.toList.foldl (fun st h => st.exitHandle kill h) s = u at hm
  obtain ⟨⟨k', d', hm'⟩, hx⟩ := closeAll_frame s.me.id (u.chans.filter (Chan.consumes s.me.id)) u
    fun x hx hc => ⟨x, List.mem_filter.2 ⟨hx, hc⟩, rfl, rfl, rfl⟩
  have hme : (u.closeChannels s.me.id).me = { s.me with ctx := { s.me.ctx with ctrs := k' }, det := d' } := by
    rw [State.closeChannels, hm', hm]
  refine ⟨?_, rfl, rfl, rfl, rfl, ?_, ?_, hx⟩
  · exact (by rw [hme] : (u.closeChannels s.me.id).me.id = s.me.id)
  · exact (by rw [hme] : (u.closeChannels s.me.id).me.ctx.clock = s.me.ctx.clock)
  · exact (by rw [hme] : (u.closeChannels s.me.id).me.cmds = s.me.cmds)

/-! ## WAITCH, YIELD, NOP and the barriers -/

section

variable {s : State} {g : Guard} (hg : s.me.ctx.guardTrue g = true)

include hg

theorem exec_waitch_plain {a : BitVec 5} (h : s.Plain a) : exec (.waitch g a) s = .next (s.retireTo (s.me.ctx.pc + 4)) := by
  rw [exec_waitch, execWaitch, guarded_true hg, h]
  rfl

theorem exec_waitch_bound {a : BitVec 5} {e : Binding} (h : s.me.ctx.binding a = some e) : exec (.waitch g a) s =
    if !e.consumer then .next (s.trapAt 0x01 (infoWord (.waitch g a)))
    else if (s.headOf a).isSome then .next (s.retireTo (s.me.ctx.pc + 4)) else .next (s.waitOn (.chanWord (a.setWidth 2))) := by
  rw [exec_waitch, execWaitch, guarded_true hg, h]
  rfl

variable {n : BitVec 12} {x : BarCount} {full : Bool} (hx : x = s.me.ctx.barOf (n.setWidth 6))
  (hf : full = s.phaseDone s.me.id.fn s.me.id.blk (n.setWidth 6) x.ara)

include hx hf

theorem exec_bara_eq : exec (.bara g n) s = if x.ara ≠ 0 && !full then .next (s.waitOn (.barArrive (n.setWidth 6)))
    else .next ((s.mapCtx fun c => c.setBar { x with ara := x.ara + 1, clk := c.clock }).retireTo (s.me.ctx.pc + 4)) := by
  subst hf hx
  exact (exec_bara ..).trans (guarded_true hg)

theorem exec_barw_eq : exec (.barw g n) s = if x.ara = x.arw then .next (s.retireTo (s.me.ctx.pc + 4))
    else if full then .next ((s.mapCtx fun c => { c.setBar { x with arw := x.ara } with
      clock := max c.clock (s.barClock s.me.id.fn s.me.id.blk (n.setWidth 6)) }).retireTo (s.me.ctx.pc + 4))
    else .next (s.waitOn (.barrier (n.setWidth 6))) := by
  subst hf hx
  exact (exec_barw ..).trans (guarded_true hg)

end

/-- Settles O17: the six instructions by their cases; EXIT by what the end of a task leaves. -/
theorem waitExitAndBarrierResults : Obligations.WaitExitAndBarrierResults := by
  unfold Obligations.WaitExitAndBarrierResults
  refine ⟨?_, ?_, ?_⟩
  · rintro s g a low pc rfl
    refine ⟨exec_nop .., fun hg => ⟨(exec_yield ..).trans (guarded_true hg), exec_waitch_plain hg, fun e he => ?_⟩⟩
    rw [exec_waitch_bound hg he]
    refine ⟨fun hc => ?_, fun hc w hw => ?_, fun hc hw => ?_⟩
    · rw [hc]; rfl
    · rw [hc, hw]; rfl
    · rw [hc, hw]; rfl
  · intro s g hg hr
    obtain ⟨hid, hst, hfree, hh, hb, hclk, hcmds, hch⟩ := endTask_frame
      (s.mapCtx fun c => { c with pc := nextPc (.exit g) s }.retire s.time).withdrawHeld false
    exact ⟨_, (exec_exit ..).trans (noRep_go hg hr), hid, hst, hfree, hh, hb, hclk, hcmds, fun c hc => hid ▸ hch c hc⟩
  · rintro s g n b x pc full hg rfl hx rfl hf
    rw [exec_bara_eq hg hx hf, exec_barw_eq hg hx hf]
    refine ⟨fun h => if_neg ?_, fun h0 h => if_pos ?_, fun h => if_pos h, fun h0 h => ?_, fun h0 h => ?_⟩
    · rcases h with h | h <;> simp [h]
    · simp [h0, h]
    · rw [if_neg h0, if_pos h]
    · rw [if_neg h0, h]; rfl

end Sys2Proof.Machine

end

/-!
SUPPORT. What the frame of an access leaves: a trap, a wait and a retirement keep memory and the g-registers (R136, R164), and the
checks and the events of an access keep memory and the acting task but for counters (R210).
-/
section

namespace Sys2Proof.Machine

/-! ## Memory and g-registers -/

/-- `u` has the memory of `s`, and the g-registers of its acting context and their bindings. -/
def State.Kept (s u : State) : Prop :=
  u.mem = s.mem ∧ u.me.ctx.g = s.me.ctx.g ∧ u.me.ctx.bind = s.me.ctx.bind

theorem State.Kept.refl (s : State) : s.Kept s := ⟨rfl, rfl, rfl⟩

theorem State.Kept.trans {s u v : State} (h : s.Kept u) (h' : u.Kept v) : s.Kept v := by
  obtain ⟨hm, hg, hb⟩ := h
  obtain ⟨hm', hg', hb'⟩ := h'
  exact ⟨hm'.trans hm, hg'.trans hg, hb'.trans hb⟩

theorem State.Kept.mem {s u : State} (h : s.Kept u) : u.mem = s.mem := h.1

theorem State.Kept.rg {s u : State} (h : s.Kept u) (d : BitVec 5) : u.me.ctx.rg d = s.me.ctx.rg d := by
  obtain ⟨-, hg, -⟩ := h
  unfold Ctx.rg
  rw [hg]

theorem State.Kept.plain {s u : State} (h : s.Kept u) {d : BitVec 5} (hd : s.Plain d) : u.Plain d := by
  obtain ⟨-, -, hb⟩ := h
  unfold State.Plain Ctx.binding at hd ⊢
  rwa [hb]

theorem enterTrap_kept (c : Ctx) (h : Option Word) (t : Trap) :
    (c.enterTrap h t).1.g = c.g ∧ (c.enterTrap h t).1.bind = c.bind := by
  have hh (x : Ctx) : (x.handle h).1.g = x.g ∧ (x.handle h).1.bind = x.bind := by
    unfold Ctx.handle
    split <;> exact ⟨rfl, rfl⟩
  unfold Ctx.enterTrap
  dsimp only
  split
  · exact ⟨rfl, rfl⟩
  · split
    · exact ⟨rfl, rfl⟩
    · split
      · exact ⟨rfl, rfl⟩
      · exact hh _
    · exact hh _

theorem kept_trap (s : State) (t : Trap) : s.Kept (s.trap t) := by
  refine ⟨?_, ?_⟩
  · have hsource : ∀ (p : Prop) [Decidable p] (u : State) (b : Nat), (if p then u.mySource b 0 else u).mem = u.mem := by
      intro p _ u b
      split <;> rfl
    unfold State.trap
    dsimp only
    split
    · rw [trace_mem, hsource, hsource, hsource]
    · rw [hsource, hsource, hsource]
  · rw [trap_me]
    exact enterTrap_kept ..

theorem kept_trapAt (s : State) (c : BitVec 8) (x : Word) : s.Kept (s.trapAt c x) := kept_trap ..

theorem kept_accessTrap (s : State) (c : BitVec 8) (va : Word) : s.Kept (s.accessTrap c va) := kept_trap ..

theorem kept_waitOn (s : State) (w : WaitOn) : s.Kept (s.waitOn w) := ⟨rfl, rfl, rfl⟩

theorem kept_takePend (s : State) (p : Pending) : s.Kept (s.takePend p) :=
  .trans (by split <;> exact ⟨rfl, rfl, rfl⟩) (kept_trap ..)

theorem kept_boundary (s : State) : s.Kept s.boundary := by
  unfold State.boundary
  split
  · exact .refl s
  · split
    · exact .refl s
    · split
      · exact kept_takePend ..
      · exact kept_trapAt ..

theorem kept_retireTo (s : State) (pc : Word) : s.Kept (s.retireTo pc) := by
  have hg : ((s.me.ctx.advance pc).retire s.time).g = s.me.ctx.g ∧
      ((s.me.ctx.advance pc).retire s.time).bind = s.me.ctx.bind := by
    unfold Ctx.advance Ctx.retire Ctx.count
    split
    · dsimp only
      split <;> exact ⟨rfl, rfl⟩
    · exact ⟨rfl, rfl⟩
  have hs : s.Kept (s.mapCtx fun c => (c.advance pc).retire s.time) := ⟨rfl, hg⟩
  exact hs.trans (kept_boundary ..)

theorem kept_popSrcs (s : State) (rs : List (BitVec 5)) : s.Kept (s.popSrcs rs) := by
  obtain ⟨⟨k, hme⟩, hmem⟩ := popSrcs_frame s rs
  exact ⟨hmem, by rw [hme], by rw [hme]⟩

theorem kept_clockTo (s : State) (t : Nat) : s.Kept (s.clockTo t) := ⟨rfl, rfl, rfl⟩

/-! ## Looking at a place

What the checks and the events of an access may change: the free value, translations, reservations, pages of POND and counters. -/

/-- `u` has the memory of `s`, its acting task but for counters, and captures the same work. -/
def State.Looks (s u : State) : Prop :=
  u.mem = s.mem ∧ (∀ fn blk, u.replays fn blk = s.replays fn blk) ∧
    ∃ k, u.me = { s.me with ctx := { s.me.ctx with ctrs := k } }

theorem State.Looks.of_me {s u : State} (hm : u.mem = s.mem) (hr : u.fns = s.fns) (hb : u.blks = s.blks) (h : u.me = s.me) :
    s.Looks u := by
  refine ⟨hm, fun fn blk => ?_, s.me.ctx.ctrs, h⟩
  unfold State.replays State.fn State.blk?
  rw [hr, hb]

theorem State.Looks.refl (s : State) : s.Looks s := .of_me rfl rfl rfl rfl

theorem State.Looks.trans {s u v : State} (h : s.Looks u) (h' : u.Looks v) : s.Looks v := by
  obtain ⟨hm, hr, k, hme⟩ := h
  obtain ⟨hm', hr', k', hme'⟩ := h'
  exact ⟨hm'.trans hm, fun fn blk => (hr' fn blk).trans (hr fn blk), k', by rw [hme', hme]⟩

theorem State.Looks.kept {s u : State} (h : s.Looks u) : s.Kept u := by
  obtain ⟨hm, -, k, hme⟩ := h
  exact ⟨hm, by rw [hme], by rw [hme]⟩

theorem looks_count (s : State) (e n : Nat) : s.Looks (s.count e n) := ⟨rfl, fun _ _ => rfl, _, rfl⟩

theorem looks_translate (s : State) (va : Word) : s.Looks (s.translate va).2 := by
  have hchoose (u : State) : u.Looks u.choose.2 := .of_me rfl rfl rfl rfl
  have hmiss : s.Looks ((s.count 0x026 1).count 0x027 1) := (looks_count ..).trans (looks_count ..)
  unfold State.translate
  dsimp only
  split
  · rename_i e _
    generalize hu : (if (Option.isSome _) = true then s else s.count 0x026 1) = u
    have hu : s.Looks u := by
      rw [← hu]
      split
      · exact .refl s
      · exact looks_count ..
    have hc := hu.trans (hchoose u)
    split
    · split
      · exact hu
      · split <;> exact hc
    · split <;> exact hc
  · split
    · exact hmiss.trans (.of_me rfl rfl rfl rfl)
    · exact hmiss

/-- The state that an access leaves which its checks let go on or trap. -/
def Place.Leaves (P : State → Prop) : Place → Prop
  | .ok u _ => P u
  | .trap u _ => P u
  | .wait _ => True

theorem Place.Leaves.ok {P : State → Prop} {r : Place} {u : State} {t : Target} (h : r.Leaves P) (e : r = .ok u t) : P u := by
  subst e; exact h

theorem Place.Leaves.trap {P : State → Prop} {r : Place} {u : State} {c : BitVec 8} (h : r.Leaves P) (e : r = .trap u c) : P u := by
  subst e; exact h

theorem leaves_placeWindow {P : State → Prop} {s : State} (h : P s) (va : Word) : (placeWindow s va).Leaves P := by
  unfold placeWindow
  dsimp only
  split
  · split
    · trivial
    · split <;> exact h
  · exact h

theorem leaves_placeSluice {P : State → Prop} {s : State} (h : P s) (va : Word) (size : Nat) (kind : Kind) :
    (placeSluice s va size kind).Leaves P := by
  unfold placeSluice
  dsimp only
  repeat' split
  all_goals exact h

theorem leaves_placePage {P : State → Prop} {s : State} (h : P s) (va : Word) (size : Nat) (kind : Kind) (p : Word) (sz : Nat) :
    (placePage s va size kind p sz).Leaves P := by
  unfold placePage
  dsimp only
  split
  · repeat' split
    all_goals exact h
  · split
    · trivial
    · repeat' split
      all_goals exact h

theorem leaves_place (s : State) (va : Word) (size : Nat) (kind : Kind) : (place s va size kind).Leaves s.Looks := by
  have hs := State.Looks.refl s
  have ht := looks_translate s va
  unfold place
  split
  · exact hs
  · split
    · exact leaves_placeWindow hs va
    · split
      · exact leaves_placeSluice hs va size kind
      · generalize s.translate va = r at ht
        obtain ⟨_ | ⟨p, sz⟩, u⟩ := r
        · exact ht
        · dsimp only
          split
          · exact ht
          · exact leaves_placePage ht va size kind p sz

theorem leaves_checkAccess (s : State) (va : Word) (size : Nat) (kind : Kind) :
    (checkAccess s va size kind).Leaves s.Looks := by
  have hs := State.Looks.refl s
  have hp := leaves_place s va size kind
  unfold checkAccess
  split
  · exact hs
  · split
    · exact hs
    · split
      · rename_i u t e
        have hu := hp.ok e
        split
        · trivial
        · split
          · trivial
          · exact hu
          · split <;> exact hu
      · exact hp

theorem looks_ok {s u : State} {va : Word} {size : Nat} {kind : Kind} {t : Target} (h : checkAccess s va size kind = .ok u t) :
    s.Looks u := (leaves_checkAccess s va size kind).ok h

theorem looks_trap {s u : State} {va : Word} {size : Nat} {kind : Kind} {c : BitVec 8}
    (h : checkAccess s va size kind = .trap u c) :
    s.Looks u := (leaves_checkAccess s va size kind).trap h

/-! ## The events of an access -/

theorem looks_pondEvent (s : State) (tile : Nat) (wr : Bool) : s.Looks (s.pondEvent tile wr) := by
  unfold State.pondEvent
  split
  · exact looks_count ..
  · exact .refl s

/-- A task's work is captured by its function's replay and its block's root (R448). -/
theorem replays_eq (s : State) (fn : Nat) (blk : Word) :
    s.replays fn blk = ((s.fn fn).rpbusy && ((s.blk? fn blk).map Blk.root).any (· == (s.fn fn).rproot)) := by
  unfold State.replays
  cases s.blk? fn blk <;> rfl

/-- A change of a block that keeps keys and roots leaves the root found at every key. -/
theorem root_mapBlk (s : State) {n : Nat} {a : Word} {f : Blk → Blk}
    (hf : ∀ b, (f b).fn = b.fn ∧ (f b).addr = b.addr ∧ (f b).root = b.root)
    (fn : Nat) (blk : Word) :
    ((s.mapBlk n a f).blk? fn blk).map Blk.root = (s.blk? fn blk).map Blk.root := by
  have hkeys (b : Blk) : (if b.fn == n && b.addr == a then f b else b).fn = b.fn ∧
      (if b.fn == n && b.addr == a then f b else b).addr = b.addr ∧
      (if b.fn == n && b.addr == a then f b else b).root = b.root := by
    split
    · exact hf b
    · exact ⟨rfl, rfl, rfl⟩
  unfold State.blk?
  rw [mapBlk_blks]
  induction s.blks with
  | nil => rfl
  | cons b l ih =>
    obtain ⟨hfn, haddr, hroot⟩ := hkeys b
    rw [List.map_cons, List.find?_cons, List.find?_cons, hfn, haddr]
    split
    · exact congrArg some hroot
    · exact ih

theorem looks_pondUse (s : State) (k : Nat) : s.Looks (s.pondUse k) := by
  refine ⟨rfl, fun fn blk => ?_, s.me.ctx.ctrs, rfl⟩
  rw [replays_eq, replays_eq, State.pondUse, root_mapBlk s fun b => by split <;> exact ⟨rfl, rfl, rfl⟩]
  rfl

theorem looks_cacheEvent (s : State) (x : RsvLine × Bool) : s.Looks (s.cacheEvent x) := ⟨rfl, fun _ _ => rfl, _, rfl⟩

theorem looks_accessEvent (s : State) (t : Target) (n : Nat) (va : Word) (wr : Bool) : s.Looks (s.accessEvent t n va wr) := by
  unfold State.accessEvent
  split
  · split
    · exact (looks_pondEvent ..).trans (looks_pondUse ..)
    · split
      · exact foldl_keeps (P := s.Looks) (fun u l h => h.trans (looks_cacheEvent ..)) _ (.refl s)
      · exact .refl s
  · split
    · exact looks_pondEvent ..
    · exact foldl_keeps (P := s.Looks) (fun u l h => h.trans (looks_cacheEvent ..)) _ (.refl s)
  · exact .refl s

end Sys2Proof.Machine

end

/-!
SUPPORT. Loads: their results, the memory they leave, and logical time (R114, R160, R171, R209, R210, R212, R213).
-/
section

namespace Sys2Proof.Machine

/-! ## Extension of a loaded value -/

theorem signed_eq_toInt {n : Nat} (hn : 0 < n) (v : Nat) : signed n v = (BitVec.ofNat n v).toInt := by
  have h2 : 2 ^ n = 2 * 2 ^ (n - 1) := by rw [← Nat.pow_succ']; congr 1; omega
  unfold signed
  rw [BitVec.toInt, BitVec.toNat_ofNat]
  by_cases h : v % 2 ^ n < 2 ^ (n - 1)
  · rw [if_pos h, if_pos (by omega)]
  · rw [if_neg h, if_neg (by omega)]

theorem extS_eq {size : Nat} (h : 0 < size) (v : Nat) : extS size v = (BitVec.ofNat (8 * size) v).signExtend 64 := by
  rw [extS, signed_eq_toInt (by omega)]
  rfl

/-! ## What a load answers -/

section

variable {s : State} {i : Instr} {g : Guard} {d a : BitVec 5} {off : BitVec 12} {size : Nat} {dst : Option (BitVec 5)}

/-- A load whose access is admitted, and how it ends with its value. -/
def LoadAnswers (s : State) (a : BitVec 5) (off : BitVec 12) (i : Instr) (size : Nat) (put : State → Nat → State) : Prop :=
  ∀ addr, addr = s.src a + off.signExtend 64 * BitVec.ofNat 64 size → s.admits addr size .load = true →
    ∃ (u v : State) (tg : Target) (bs : List Byte), checkAccess s addr size .load = .ok u tg ∧
      loadTarget (u.accessEvent tg size addr false) addr tg size = (bs, v) ∧
      exec i s = .next ((put (v.popSrcs [a]) (leNat bs)).retireTo (s.me.ctx.pc + 4))

theorem admits_ok {addr : Word} {kind : Kind} (h : s.admits addr size kind = true) :
    ∃ u tg, checkAccess s addr size kind = .ok u tg ∧ u.severed tg = false := by
  unfold State.admits at h
  cases hc : checkAccess s addr size kind with
  | ok u tg => exact ⟨u, tg, rfl, by simpa [hc] using h⟩
  | trap u c => simp [hc] at h
  | wait w => simp [hc] at h

theorem loadAnswers_of_loadOp {put : State → Nat → State} (hg : s.me.ctx.guardTrue g = true)
    (hgate : s.gate i [a] dst false = .go) (he : exec i s = loadOp i g a off size dst s put) (hl : i.lits = 0) :
    LoadAnswers s a off i size put := by
  rintro addr rfl had
  obtain ⟨u, tg, hc, hs⟩ := admits_ok had
  refine ⟨u, _, tg, _, hc, rfl, ?_⟩
  have hc' : checkAccess s (lsAddr (s.src a) off size) size .load = .ok u tg := hc
  rw [he, loadOp, gated_go hg hgate]
  dsimp only
  rw [hc']
  dsimp only
  rw [hs, nextPc_zero hl]
  rfl

theorem loadAnswers_of_loadG {ext ext' : Nat → Word} (hg : s.me.ctx.guardTrue g = true) (ha : s.SrcReady a) (hd : s.DstReady d)
    (he : exec i s = loadG i g d a off size s ext) (hl : i.lits = 0) (hext : ∀ v, ext v = ext' v) :
    LoadAnswers s a off i size fun u v => u.putG d (ext' v) := by
  obtain rfl := funext hext
  exact loadAnswers_of_loadOp hg (gate_ready i (ready1 ha) hd) he hl

theorem loadAnswers_of_loadF {ext : Nat → Word} (hg : s.me.ctx.guardTrue g = true) (ha : s.SrcReady a)
    (he : exec i s = loadF i g d a off size s ext) (hl : i.lits = 0) :
    LoadAnswers s a off i size fun u v => u.mapCtx fun c => c.wf (d.setWidth 4) (ext v) :=
  loadAnswers_of_loadOp hg (gate_src i false (ready1 ha)) he hl

end

/-- An address whose checks pass is admitted (R210). -/
theorem admits_of_checks {s u : State} {va : Word} {size : Nat} {kind : Kind} {tg : Target} (hcan : canonical va = true)
    (hal : va.toNat % size = 0) (hp : place s va size kind = .ok u tg) (hb : u.heldBack va size kind.writes = false)
    (hsee : seeCheck u tg = none) (hbad : kind = .store ∨ u.bad tg = false) (hsev : u.severed tg = false) :
    s.admits va size kind = true := by
  have hecc : (u.bad tg && kind != .store) = false := by rcases hbad with rfl | h <;> simp [*]
  have hc : checkAccess s va size kind = .ok u tg := by
    simp only [checkAccess, hcan, hal, hp, hb, hsee, hecc]
    rfl
  simp only [State.admits, hc, hsev]
  rfl

/-! ## The memory that a load leaves -/

theorem kept_plainBytes (s : State) (k : Nat) (slot : BitVec 7) (n : Nat) : s.Kept (s.plainBytes k slot n).2 := by
  unfold State.plainBytes
  dsimp only
  repeat' split
  all_goals exact ⟨rfl, rfl, rfl⟩

theorem kept_leased (s : State) (k n : Nat) : s.Kept (s.leased k n) := by
  obtain ⟨L, m, h⟩ := loadTimes_eq s k n s.me.ctx.clock
  unfold State.leased
  dsimp only
  rw [h]
  exact ⟨rfl, rfl, rfl⟩

theorem kept_loadTarget (s : State) (va : Word) (t : Target) (n : Nat) : s.Kept (loadTarget s va t n).2 := by
  cases t with
  | noise d => exact .refl s
  | remote pkg obj off => exact kept_clockTo ..
  | host k =>
    obtain ⟨L, m, h⟩ := hostTimes_eq s k n s.me.ctx.clock
    unfold loadTarget
    dsimp only
    rw [h]
    exact ⟨rfl, rfl, rfl⟩
  | bank k => exact kept_leased ..
  | mem k slot =>
    unfold loadTarget
    dsimp only
    split
    · exact .refl s
    · exact (kept_plainBytes ..).trans (kept_leased ..)
  | sluice o off fill =>
    unfold loadTarget
    dsimp only
    generalize hu : ite (fill = true) s _ = u
    have hu : s.Kept u := by
      rw [← hu]
      split
      · exact .refl s
      · exact kept_clockTo ..
    split
    · exact hu
    · exact hu.trans (kept_leased ..)

/-- What runs under a guard keeps memory where its body does. -/
theorem mem_gated {s t : State} {i : Instr} {g : Guard} {srcs : List (BitVec 5)} {dst : Option (BitVec 5)} {both : Bool}
    {k : State → Res} (hk : k s = .next t → t.mem = s.mem) (h : gated i g srcs dst both s k = .next t) : t.mem = s.mem := by
  unfold gated guarded at h
  split at h
  · dsimp only at h
    split at h
    · exact hk h
    · cases h; exact (kept_trapAt ..).mem
    · cases h; exact (kept_waitOn ..).mem
  · cases h; exact (kept_retireTo ..).mem

/-- A load leaves memory where the end of it with its value does, unless its race link has gone. -/
theorem mem_loadOp {s t : State} {i : Instr} {g : Guard} {a : BitVec 5} {off : BitVec 12} {size : Nat} {dst : Option (BitVec 5)}
    {put : State → Nat → State} (hput : ∀ u v, s.Kept u → (put u v).mem = u.mem)
    (hsev : ∀ addr size u tg, checkAccess s addr size .load = .ok u tg → u.severed tg = false)
    (h : loadOp i g a off size dst s put = .next t) : t.mem = s.mem := by
  refine mem_gated (fun h => ?_) h
  dsimp only at h
  split at h
  · rename_i u c hc
    cases h
    exact ((looks_trap hc).kept.trans (kept_accessTrap ..)).mem
  · cases h
    exact (kept_waitOn ..).mem
  · rename_i u tg hc
    rw [hsev _ _ _ _ hc] at h
    cases h
    have hv := (((looks_ok hc).kept.trans (looks_accessEvent u tg size (lsAddr (s.src a) off size) false).kept).trans
      (kept_loadTarget _ (lsAddr (s.src a) off size) tg size)).trans (kept_popSrcs _ [a])
    exact (kept_retireTo ..).mem.trans ((hput _ _ hv).trans hv.mem)

theorem mem_putG_plain {s : State} {d : BitVec 5} (h : s.Plain d) (v : Word) : (s.putG d v).mem = s.mem := by
  rw [putG_plain h]

theorem mem_loadG {s t : State} {i : Instr} {g : Guard} {d a : BitVec 5} {off : BitVec 12} {size : Nat} {ext : Nat → Word}
    (hd : s.Plain d) (hsev : ∀ addr size u tg, checkAccess s addr size .load = .ok u tg → u.severed tg = false)
    (h : loadG i g d a off size s ext = .next t) : t.mem = s.mem := by
  unfold loadG at h
  have hput (u : State) (v : Nat) (hu : s.Kept u) : (u.putG d (ext v)).mem = u.mem := mem_putG_plain (hu.plain hd) (ext v)
  exact mem_loadOp hput hsev h

theorem mem_loadF {s t : State} {i : Instr} {g : Guard} {d a : BitVec 5} {off : BitVec 12} {size : Nat} {ext : Nat → Word}
    (hsev : ∀ addr size u tg, checkAccess s addr size .load = .ok u tg → u.severed tg = false)
    (h : loadF i g d a off size s ext = .next t) : t.mem = s.mem := by
  unfold loadF at h
  have hput (u : State) (v : Nat) (_ : s.Kept u) : (u.mapCtx fun c => c.wf (low4 d) (ext v)).mem = u.mem := rfl
  exact mem_loadOp hput hsev h

/-! ## Lines -/

theorem mem_lineSpan {k n i : Nat} (h : i < n) : lineOf (k + i) ∈ lineSpan k n := by
  unfold lineSpan lineOf
  rw [if_neg (by omega)]
  exact List.mem_map.2 ⟨(k + i) / 128 - k / 128, List.mem_range.2 (by omega), by omega⟩

theorem nodup_lineSpan (k n : Nat) : (lineSpan k n).Nodup := by
  unfold lineSpan
  split
  · exact List.nodup_nil
  · exact List.nodup_range.map fun x y h => Nat.add_left_cancel h

theorem lineOf_line (l : Nat) : lineOf (128 * l) = l := by
  unfold lineOf
  omega

theorem loadTime_fst (s : State) (k c : Nat) : (loadTime s k c).1 = max c (lineTimes s.lines k).1 := rfl

theorem loadTime_lines (s : State) (k c : Nat) : (loadTime s k c).2.lines = aset s.lines (lineOf k)
    ((lineTimes s.lines k).1,
      max (lineTimes s.lines k).2 (max c (lineTimes s.lines k).1 + ((Config.lease s.free).toNat + 1))) := rfl

/-- A load keeps the write time of every line, and no line's lease is shortened. -/
theorem loadTime_line {s : State} {l w r : Nat} (h : aget (0, 0) s.lines l = (w, r)) (k c : Nat) :
    ∃ q, aget (0, 0) (loadTime s k c).2.lines l = (w, q) ∧ r ≤ q := by
  rw [loadTime_lines]
  by_cases hl : lineOf k = l
  · subst hl
    rw [aget_aset, lineTimes, h]
    exact ⟨_, rfl, le_max_left ..⟩
  · rw [aget_aset_ne _ _ _ (Ne.symm hl)]
    exact ⟨r, h, le_rfl⟩

/-- A load of several lines, one after the other. -/
def loadLines (ls : List Nat) (s : State) (c : Nat) : Nat × State :=
  ls.foldl (fun (a : Nat × State) l => loadTime a.2 (128 * l) a.1) (c, s)

theorem loadTimes_eq_loadLines (s : State) (k n c : Nat) : loadTimes s k n c = loadLines (lineSpan k n) s c := rfl

theorem loadLines_cons (l : Nat) (ls : List Nat) (s : State) (c : Nat) :
    loadLines (l :: ls) s c = loadLines ls (loadTime s (128 * l) c).2 (loadTime s (128 * l) c).1 := rfl

/-- A load over several lines takes a time no earlier than its clock and than any of their write times. -/
theorem loadLines_line (ls : List Nat) (s : State) (c : Nat) {l w r : Nat} (h : aget (0, 0) s.lines l = (w, r)) :
    c ≤ (loadLines ls s c).1 ∧ (l ∈ ls → w ≤ (loadLines ls s c).1) ∧
      ∃ q, aget (0, 0) (loadLines ls s c).2.lines l = (w, q) ∧ r ≤ q := by
  induction ls generalizing s c r with
  | nil => exact ⟨le_rfl, fun hl => absurd hl List.not_mem_nil, r, h, le_rfl⟩
  | cons x ls ih =>
    obtain ⟨q, hq, hrq⟩ := loadTime_line h (128 * x) c
    obtain ⟨hc, hw, q', hq', hqq⟩ := ih (loadTime s (128 * x) c).2 (loadTime s (128 * x) c).1 hq
    have hx : c ≤ (loadTime s (128 * x) c).1 := le_max_left ..
    rw [loadLines_cons]
    refine ⟨hx.trans hc, fun hl => ?_, q', hq', hrq.trans hqq⟩
    rcases List.mem_cons.1 hl with rfl | hl
    · refine le_trans ?_ hc
      rw [loadTime_fst, lineTimes, lineOf_line, h]
      exact le_max_right ..
    · exact hw hl

/-- A store of several lines, `m` the largest time so far. -/
def storeLines (ls : List Nat) (s : State) (c m : Nat) : Nat × State :=
  ls.foldl (fun (a : Nat × State) l =>
    let r := lineStore a.2 l c
    (max a.1 r.1, r.2)) (m, s)

theorem storeTime_eq_storeLines (s : State) (k n c : Nat) : storeTime s k n c = storeLines (lineSpan k n) s c c := rfl

theorem storeLines_cons (l : Nat) (ls : List Nat) (s : State) (c m : Nat) :
    storeLines (l :: ls) s c m = storeLines ls (lineStore s l c).2 c (max m (lineStore s l c).1) := rfl

theorem lineStore_fst {s : State} {l w r : Nat} (h : aget (0, 0) s.lines l = (w, r)) (c : Nat) :
    (lineStore s l c).1 = max c (max (r + 1) (w + 1)) := by
  unfold lineStore
  rw [h]

theorem lineStore_line {s : State} {l w r : Nat} (h : aget (0, 0) s.lines l = (w, r)) (c x : Nat) :
    aget (0, 0) (lineStore s x c).2.lines l =
      if l = x then (max c (max (r + 1) (w + 1)), max c (max (r + 1) (w + 1))) else (w, r) := by
  unfold lineStore
  by_cases hx : l = x
  · subst hx
    rw [if_pos rfl, h]
    exact aget_aset ..
  · rw [if_neg hx]
    exact (aget_aset_ne _ _ _ hx).trans h

/-- A store gives each of its lines one time, later than every read and write that the line has seen, and at least the clock. -/
theorem storeLines_line (ls : List Nat) (hnd : ls.Nodup) (s : State) (c m : Nat) {l w r t : Nat}
    (h : aget (0, 0) s.lines l = (w, r)) (ht : t = max c (max (r + 1) (w + 1))) :
    m ≤ (storeLines ls s c m).1 ∧ (l ∈ ls → aget (0, 0) (storeLines ls s c m).2.lines l = (t, t) ∧ t ≤ (storeLines ls s c m).1) ∧
      (l ∉ ls → aget (0, 0) (storeLines ls s c m).2.lines l = (w, r)) := by
  subst ht
  induction ls generalizing s m w r with
  | nil => exact ⟨le_rfl, fun hl => absurd hl List.not_mem_nil, fun _ => h⟩
  | cons x ls ih =>
    obtain ⟨hx, hls⟩ := List.nodup_cons.1 hnd
    have hline := lineStore_line h c x
    rw [storeLines_cons]
    by_cases hlx : l = x
    · subst hlx
      rw [if_pos rfl] at hline
      obtain ⟨hm, -, hout⟩ := ih hls _ (max m (lineStore s l c).1) hline
      rw [lineStore_fst h] at hm hout ⊢
      exact ⟨(le_max_left ..).trans hm, fun _ => ⟨hout hx, (le_max_right ..).trans hm⟩,
        fun hn => absurd List.mem_cons_self hn⟩
    · rw [if_neg hlx] at hline
      obtain ⟨hm, hin, hout⟩ := ih hls _ (max m (lineStore s x c).1) hline
      exact ⟨(le_max_left ..).trans hm, fun hl => hin (List.mem_of_ne_of_mem hlx hl),
        fun hn => hout fun hl => hn (List.mem_cons_of_mem _ hl)⟩

/-- Settles O18: a load's answer from its checks, its frame, and the times of its lines. -/
theorem loadResultsAndFrame : Obligations.LoadResultsAndFrame := by
  unfold Obligations.LoadResultsAndFrame
  refine ⟨⟨?_, ?_⟩, ?_, ?_⟩
  · rintro s g d a off pc hg ha rfl
    refine ⟨?_, ?_, fun hd => ?_⟩
    · rw [exec_pref, execPref, gated_src hg ha, done, nextPc_zero rfl]
    · change ∀ x ∈ (_ : List (Instr × Nat × (Nat → Word))), LoadAnswers s a off x.1 x.2.1
        fun u v => u.mapCtx fun c => c.wf (d.setWidth 4) (x.2.2 v)
      simp only [List.forall_mem_cons]
      exact ⟨loadAnswers_of_loadF hg ha (exec_ldf ..) rfl, loadAnswers_of_loadF hg ha (exec_ldfS ..) rfl, fun _ h => nomatch h⟩
    · change ∀ x ∈ (_ : List (Instr × Nat × (Nat → Word))), LoadAnswers s a off x.1 x.2.1 fun u v => u.putG d (x.2.2 v)
      have load {i : Instr} {size : Nat} {ext ext' : Nat → Word} :=
        loadAnswers_of_loadG (i := i) (size := size) (ext := ext) (ext' := ext') (off := off) hg ha hd
      simp only [List.forall_mem_cons]
      exact ⟨load (exec_ldB ..) rfl (extS_eq (by decide)), load (exec_ldBu ..) rfl fun _ => rfl,
        load (exec_ldH ..) rfl (extS_eq (by decide)), load (exec_ldHu ..) rfl fun _ => rfl,
        load (exec_ldW ..) rfl (extS_eq (by decide)), load (exec_ldWu ..) rfl fun _ => rfl, load (exec_ldD ..) rfl fun _ => rfl,
        load (exec_ldcW ..) rfl (extS_eq (by decide)), load (exec_ldcWu ..) rfl fun _ => rfl,
        load (exec_ldcD ..) rfl fun _ => rfl, fun _ h => nomatch h⟩
  · intro s u va size kind tg hcan hal hp hb hsee hbad hsev
    exact admits_of_checks hcan hal hp hb hsee hbad hsev
  · intro s t g d a off hd i hi hsev he j
    refine congrArg (memGet · j) ?_
    revert he i
    have loadG {i : Instr} {size : Nat} {ext : Nat → Word} (hi : exec i s = loadG i g d a off size s ext)
        (he : exec i s = .next t) : t.mem = s.mem := mem_loadG hd hsev (hi ▸ he)
    have loadF {i : Instr} {size : Nat} {ext : Nat → Word} (hi : exec i s = loadF i g d a off size s ext)
        (he : exec i s = .next t) : t.mem = s.mem := mem_loadF hsev (hi ▸ he)
    simp only [List.forall_mem_cons]
    exact ⟨loadG (exec_ldB ..), loadG (exec_ldBu ..), loadG (exec_ldH ..), loadG (exec_ldHu ..), loadG (exec_ldW ..),
      loadG (exec_ldWu ..), loadG (exec_ldD ..), loadF (exec_ldf ..), loadF (exec_ldfS ..), loadG (exec_ldcW ..),
      loadG (exec_ldcWu ..), loadG (exec_ldcD ..), fun _ h => nomatch h⟩
  · intro s k c w r h
    refine ⟨⟨?_, ?_⟩, fun n i w r hi hl => ?_, fun n i w r t hi hl ht => ?_⟩
    · rw [loadTime_fst, h]
    · refine ⟨_, by rw [loadTime_lines, lineTimes, aget_aset, h], le_max_left .., lt_max_of_lt_right ?_⟩
      rw [loadTime_fst, h]
      omega
    · obtain ⟨hc, hw, hq⟩ := loadLines_line (lineSpan k n) s c hl
      rw [loadTimes_eq_loadLines]
      exact ⟨hw (mem_lineSpan hi), hc, hq⟩
    · obtain ⟨-, hin, -⟩ := storeLines_line (lineSpan k n) (nodup_lineSpan k n) s c c hl ht
      rw [storeTime_eq_storeLines]
      exact hin (mem_lineSpan hi)

end Sys2Proof.Machine

end

/-!
SUPPORT. Stores: their answers and the bytes that they write (R113, R209, R211, R373).
-/
section

namespace Sys2Proof.Machine

/-! ## The bytes of a value -/

/-- The bytes of a value are its groups of eight bits, the least significant first. -/
theorem leBytes_getD {w n i : Nat} (v : BitVec w) (h : i < n) : (leBytes n v.toNat).getD i 0 = v.extractLsb' (8 * i) 8 := by
  have key : ∀ (n i v : Nat), i < n → (leBytes n v).getD i 0 = BitVec.ofNat 8 (v / 2 ^ (8 * i)) := by
    intro n
    induction n with
    | zero => omega
    | succ n ih =>
      intro i v h
      cases i with
      | zero => simp [leBytes]
      | succ i =>
        rw [leBytes, List.getD_cons_succ, ih i _ (by omega), Nat.div_div_eq_div_mul, Nat.mul_add, Nat.add_comm, Nat.pow_add]
  rw [key n i v.toNat h, ← Nat.shiftRight_eq_div_pow]
  rfl

theorem leBytes_length (n v : Nat) : (leBytes n v).length = n := by
  induction n generalizing v with
  | zero => rfl
  | succ n ih => rw [leBytes, List.length_cons, ih]

/-! ## What a store answers -/

/-- A store whose access is admitted: it writes the low bytes of `val` where the charge of its bytes fits, and traps BUDGET
otherwise. -/
def StoreAnswers (s : State) (addr : Word) (u : State) (tg : Target) (i : Instr) (size : Nat) (srcs : List (BitVec 5))
    (val : Word) : Prop :=
  (storeFits u addr tg size = false → exec i s = .next (s.trapAt 0x18 3)) ∧
  (∀ clk v, storeFits u addr tg size = true →
    storeTarget (u.accessEvent tg size addr true) addr tg (leBytes size val.toNat) u.me.ctx.clock = (clk, v) →
    exec i s = .next (((v.mapCtx fun c => { c with clock := max c.clock clk }).popSrcs srcs).retireTo (s.me.ctx.pc + 4)))

section

variable {s u : State} {i : Instr} {g : Guard} {a x : BitVec 5} {off : BitVec 12} {size : Nat} {tg : Target}
  {srcs : List (BitVec 5)} {addr : Word}

theorem storeAnswers_of_storeOp {val : State → Word} (hg : s.me.ctx.guardTrue g = true) (hr : ∀ r ∈ srcs, s.SrcReady r)
    (haddr : addr = s.src a + off.signExtend 64 * BitVec.ofNat 64 size) (hc : checkAccess s addr size .store = .ok u tg)
    (he : exec i s = storeOp i g srcs a off size s val) (hl : i.lits = 0) : StoreAnswers s addr u tg i size srcs (val s) := by
  subst haddr
  have hc' : checkAccess s (lsAddr (s.src a) off size) size .store = .ok u tg := hc
  rw [StoreAnswers, he, storeOp, gated_go hg (gate_src i false hr)]
  dsimp only
  rw [hc']
  dsimp only
  refine ⟨fun hf => ?_, fun clk v hf hv => ?_⟩
  · have hf' : storeFits u (lsAddr (s.src a) off size) tg size = false := hf
    rw [hf']
    rfl
  · have hf' : storeFits u (lsAddr (s.src a) off size) tg size = true := hf
    have hv' : storeTarget (u.accessEvent tg size (lsAddr (s.src a) off size) true) (lsAddr (s.src a) off size) tg
      (leBytes size (val s).toNat) u.me.ctx.clock = (clk, v) := hv
    rw [hf', hv', nextPc_zero hl]
    rfl

/-! ## What a store writes -/

theorem State.Looks.task {s u : State} (h : s.Looks u) : u.me.id = s.me.id ∧ u.me.eff = s.me.eff := by
  obtain ⟨-, -, k, hme⟩ := h
  exact ⟨by rw [hme], by rw [hme]⟩

theorem capture_of_not_replays {fn : Nat} {blk : Word} (h : s.replays fn blk = false) (k : Nat) : s.capture fn blk k = s := by
  unfold State.capture
  rw [h]
  rfl

theorem mem_storeAt (s : State) (fn k : Nat) (bs : List Byte) (c : Nat) : (storeAt s fn k bs c).2.mem = memPut s.mem k bs := by
  obtain ⟨L, T, h⟩ := storeAt_eq s fn k bs c
  rw [h]

theorem underSlot_mem (s : State) (k n : Nat) (slot : BitVec 7) : (s.underSlot k n slot).mem = s.mem := by
  unfold State.underSlot
  split <;> rfl

theorem mem_put (hr : s.replays s.me.id.fn s.me.id.blk = false) (k : Nat) (slot : BitVec 7) (bs : List Byte) (clk : Nat) :
    (s.put k slot bs clk).2.mem = memPut s.mem k bs := by
  rw [State.put, mem_storeAt, underSlot_mem, capture_of_not_replays hr]

theorem mem_storeTarget (hd : s.me.eff.det = false) (hr : s.replays s.me.id.fn s.me.id.blk = false) {t : Target} {k : Nat}
    (hk : t.key = some k) (va : Word) (bs : List Byte) (clk : Nat) : (storeTarget s va t bs clk).2.mem = memPut s.mem k bs := by
  cases t with
  | mem key slot =>
    cases hk
    rw [storeTarget, hd]
    exact mem_put hr ..
  | host key | bank key =>
    cases hk
    exact mem_storeAt ..
  | sluice o off fill =>
    cases hk
    unfold storeTarget
    rw [hd]
    exact mem_storeAt ..
  | noise | remote => cases hk

/-- A value written at `k` is what the bytes from `k` on read as; the others read as before. -/
theorem memGet_memPut_leBytes {m : List Host.Cell} (h : Memory.wf m = true) (k j n : Nat) {w : Nat} (v : BitVec w) :
    memGet (memPut m k (leBytes n v.toNat)) j = if k ≤ j ∧ j < k + n then v.extractLsb' (8 * (j - k)) 8 else memGet m j := by
  rw [memGet_memPut h, leBytes_length]
  split
  · exact leBytes_getD v (by omega)
  · rfl

theorem StoreAnswers.writes {k : Nat} {val : Word} (h : StoreAnswers s addr u tg i size srcs val) (hwf : Memory.wf s.mem = true)
    (hd : s.me.eff.det = false) (hr : s.replays s.me.id.fn s.me.id.blk = false)
    (hc : checkAccess s addr size .store = .ok u tg) (hk : tg.key = some k) : ∃ t, exec i s = .next t ∧ ∀ j, memGet t.mem j =
      if k ≤ j ∧ j < k + size then val.extractLsb' (8 * (j - k)) 8 else memGet s.mem j := by
  obtain ⟨-, hgo⟩ := h
  have hl : s.Looks (u.accessEvent tg size addr true) := (looks_ok hc).trans (looks_accessEvent ..)
  have hfit : storeFits u addr tg size = true := by
    obtain ⟨-, heff⟩ := (looks_ok hc).task
    rw [storeFits, heff, hd]
    rfl
  have hmem := mem_storeTarget (s := u.accessEvent tg size addr true) (by rw [hl.task.2, hd]) (by
    obtain ⟨hid, -⟩ := hl.task
    obtain ⟨-, hrep, -⟩ := hl
    rw [hid, hrep, hr]) hk addr (leBytes size val.toNat) u.me.ctx.clock
  refine ⟨_, hgo _ _ hfit rfl, fun j => ?_⟩
  rw [(kept_retireTo ..).mem, (kept_popSrcs ..).mem]
  refine (congrArg (memGet · j) hmem).trans ?_
  rw [hl.kept.mem]
  exact memGet_memPut_leBytes hwf ..

end

/-- The stores: their sizes, the sources that they take, and the values that they write. -/
def storeForms (s : State) (g : Guard) (x a : BitVec 5) (off : BitVec 12) : List (Instr × Nat × List (BitVec 5) × Word) :=
  [(.stB g x a off, 1, [a, x], s.src x), (.stH g x a off, 2, [a, x], s.src x), (.stW g x a off, 4, [a, x], s.src x),
    (.stD g x a off, 8, [a, x], s.src x), (.stf g x a off, 8, [a], s.me.ctx.rf (x.setWidth 4)),
    (.stfS g x a off, 4, [a], s.me.ctx.rf (x.setWidth 4))]

theorem storeForms_answer {s u : State} {g : Guard} {x a : BitVec 5} {off : BitVec 12} {addr : Word} {size : Nat} {tg : Target}
    (hg : s.me.ctx.guardTrue g = true) (ha : s.SrcReady a) (haddr : addr = s.src a + off.signExtend 64 * BitVec.ofNat 64 size)
    (hc : checkAccess s addr size .store = .ok u tg) : ∀ y ∈ storeForms s g x a off, size = y.2.1 →
      (x ∈ y.2.2.1 → s.SrcReady x) → StoreAnswers s addr u tg y.1 size y.2.2.1 y.2.2.2 := by
  have both {i : Instr} {n : Nat} (he : exec i s = storeOp i g [a, x] a off n s fun s => s.src x) (hl : i.lits = 0) :
      size = n → (x ∈ [a, x] → s.SrcReady x) → StoreAnswers s addr u tg i size [a, x] (s.src x) := by
    rintro rfl hx
    exact storeAnswers_of_storeOp (val := fun s => s.src x) hg (ready2 ha (hx (by simp))) haddr hc he hl
  have one {i : Instr} {n : Nat} (he : exec i s = storeOp i g [a] a off n s fun s => s.me.ctx.rf (low4 x)) (hl : i.lits = 0) :
      size = n → (x ∈ [a] → s.SrcReady x) → StoreAnswers s addr u tg i size [a] (s.me.ctx.rf (x.setWidth 4)) := by
    rintro rfl -
    exact storeAnswers_of_storeOp (val := fun s => s.me.ctx.rf (low4 x)) hg (ready1 ha) haddr hc he hl
  simp only [storeForms, List.forall_mem_cons]
  exact ⟨both (exec_stB ..) rfl, both (exec_stH ..) rfl, both (exec_stW ..) rfl, both (exec_stD ..) rfl, one (exec_stf ..) rfl,
    one (exec_stfS ..) rfl, fun _ h => nomatch h⟩

/-- Settles O19: the answers of the six stores, and the bytes that an admitted one writes. -/
theorem storeResultsAndFrame : Obligations.StoreResultsAndFrame := by
  unfold Obligations.StoreResultsAndFrame
  refine ⟨?_, ?_⟩
  · rintro s g x a off pc addr size u tg hg ha rfl haddr hc y hy hsize hx
    exact storeForms_answer hg ha haddr hc y hy hsize hx
  · rintro s g x a off addr size u tg k hg ha hwf hd hr haddr hc hk y hy hsize hx
    exact (storeForms_answer hg ha haddr hc y hy hsize hx).writes hwf hd hr hc hk

end Sys2Proof.Machine

end

/-!
SUPPORT. The checks of an access in their order (R210), and what decides where an address leads (R90, R91, R98, R106, R215, R401).
-/
section

namespace Sys2Proof.Machine

/-! ## The checks in their order -/

/-- What an instruction answers where a check of its access fails or the access has to wait. -/
def ChecksAnswer (s : State) (addr : Word) (size : Nat) (kind : Kind) (i : Instr) : Prop :=
  (¬ (addr.toNat < 2 ^ 56 ∨ 2 ^ 64 - 2 ^ 56 ≤ addr.toNat) → exec i s = .next (s.trapAt 0x04 addr)) ∧
  ((addr.toNat < 2 ^ 56 ∨ 2 ^ 64 - 2 ^ 56 ≤ addr.toNat) → addr.toNat % size ≠ 0 → exec i s = .next (s.trapAt 0x03 addr)) ∧
  (∀ u c, checkAccess s addr size kind = .trap u c → exec i s = .next (u.trapAt c (if c = 0x08 then 0 else addr))) ∧
  (∀ w, checkAccess s addr size kind = .wait w → exec i s = .next (s.waitOn w))

theorem checkAccess_not_canonical {s : State} {va : Word} (h : canonical va = false) (size : Nat) (kind : Kind) :
    checkAccess s va size kind = .trap s tcPGFLT := by
  unfold checkAccess
  rw [h]
  rfl

theorem checkAccess_not_aligned {s : State} {va : Word} {size : Nat} (hc : canonical va = true) (h : va.toNat % size ≠ 0)
    (kind : Kind) : checkAccess s va size kind = .trap s tcALIGN := by
  unfold checkAccess
  rw [hc, if_pos h]
  rfl

section

variable {s : State} {i : Instr} {g : Guard} {d a b : BitVec 5} {off : BitVec 12} {size : Nat} {addr : Word}

/-- An instruction that traps and waits as its checks say meets the checks that come first by the same. -/
theorem checksAnswer_of {kind : Kind}
    (htrap : ∀ u c, checkAccess s addr size kind = .trap u c → exec i s = .next (u.accessTrap c addr))
    (hwait : ∀ w, checkAccess s addr size kind = .wait w → exec i s = .next (s.waitOn w)) : ChecksAnswer s addr size kind i := by
  refine ⟨fun h => ?_, fun h hal => ?_, htrap, hwait⟩
  · rw [← canonical_iff, Bool.not_eq_true] at h
    exact htrap _ _ (checkAccess_not_canonical h size kind)
  · rw [← canonical_iff] at h
    exact htrap _ _ (checkAccess_not_aligned h hal kind)

theorem checksAnswer_of_loadOp {dst : Option (BitVec 5)} {put : State → Nat → State} (hg : s.me.ctx.guardTrue g = true)
    (hgate : s.gate i [a] dst false = .go) (haddr : addr = s.src a + off.signExtend 64 * BitVec.ofNat 64 size)
    (he : exec i s = loadOp i g a off size dst s put) : ChecksAnswer s addr size .load i := by
  have haddr : addr = lsAddr (s.src a) off size := haddr
  subst haddr
  refine checksAnswer_of (fun u c h => ?_) fun w h => ?_
  all_goals
    rw [he, loadOp, gated_go hg hgate]
    dsimp only
    rw [h]

theorem checksAnswer_of_storeOp {srcs : List (BitVec 5)} {val : State → Word} (hg : s.me.ctx.guardTrue g = true)
    (hr : ∀ r ∈ srcs, s.SrcReady r) (haddr : addr = s.src a + off.signExtend 64 * BitVec.ofNat 64 size)
    (he : exec i s = storeOp i g srcs a off size s val) : ChecksAnswer s addr size .store i := by
  have haddr : addr = lsAddr (s.src a) off size := haddr
  subst haddr
  refine checksAnswer_of (fun u c h => ?_) fun w h => ?_
  all_goals
    rw [he, storeOp, gated_go hg (gate_src i false hr)]
    dsimp only
    rw [h]

/-- An atomic reads its destination where it compares, and a plain destination is ready either way. -/
theorem gate_atomic (i : Instr) (ha : s.SrcReady a) (hb : s.SrcReady b) (hd : s.Plain d) (both : Bool) :
    s.gate i [a, b] (some d) both = .go := by
  cases both with
  | false => exact gate_ready i (ready2 ha hb) hd.dstReady
  | true => exact gate_rw i (ready2 ha hb) hd

theorem checksAnswer_of_atomicOp {op : BitVec 4} (hg : s.me.ctx.guardTrue g = true) (ha : s.SrcReady a) (hb : s.SrcReady b)
    (hd : s.Plain d) (hin : s.inRound a d size = none) (he : exec i s = atomicOp i g op size d a b s) :
    ChecksAnswer s (s.src a) size .atomic i := by
  refine checksAnswer_of (fun u c h => ?_) fun w h => ?_
  all_goals
    rw [he, atomicOp, guarded_true hg, hin]
    dsimp only
    rw [gated_go hg (gate_atomic i ha hb hd _)]
    rw [h]

end

/-! ## The mill-local window (R91) -/

section

variable {s : State} {va : Word} (hcan : canonical va = true) (size : Nat) (kind : Kind)

include hcan

theorem place_window (h : windowBase ≤ va.toNat) : place s va size kind = placeWindow s va := by
  have hw : inWindow va = true := decide_eq_true h
  unfold place
  rw [if_neg (by rw [hcan]; decide), if_pos hw]

theorem place_aboveBanks (h : 0xFFFFFFFFFFF80000 ≤ va.toNat) : place s va size kind = .trap s 0x05 := by
  rw [place_window hcan size kind (by unfold windowBase; omega)]
  unfold placeWindow windowBase
  exact dif_neg (by omega)

/-- An address in a bank of the window that is under no mode change leads there in SCRATCH mode, and nowhere in another mode. -/
theorem place_bank {b : Nat} (hb : b < 24) (hlo : 0xFFFFFFFFFFE00000 + b * 65536 ≤ va.toNat)
    (hhi : va.toNat < 0xFFFFFFFFFFE00000 + (b + 1) * 65536) (hbusy : (s.mill s.me.mill).busy = none) :
    place s va size kind = if (s.mill s.me.mill).modes[b] != 1 then .trap s 0x05
      else .ok s (.bank (keyOf spBank ((s.me.mill * 24 + b) * 65536 + va.toNat % 65536))) := by
  have hidx : (va.toNat - windowBase) / 65536 = b := by
    unfold windowBase
    omega
  rw [place_window hcan size kind (by unfold windowBase; omega)]
  unfold placeWindow
  dsimp only
  rw [hbusy]
  subst hidx
  exact dif_pos hb

/-! ## Pages (R90, R98, R106, R215, R401) -/

variable {u : State} (hw : inWindow va = false) (hs : inSluice va = false)

include hw hs

theorem place_untranslated {c : BitVec 8} (h : s.translate va = (.error c, u)) : place s va size kind = .trap u c := by
  unfold place
  rw [if_neg (by rw [hcan]; decide), if_neg (by rw [hw]; decide), if_neg (by rw [hs]; decide), h]

variable {p : Word} {sz : Nat} (h : s.translate va = (.ok (p, sz), u))

include h

theorem place_otherWorld (hp : pteWorld p ≠ u.me.eff.world) : place s va size kind = .trap u 0x05 := by
  unfold place
  rw [if_neg (by rw [hcan]; decide), if_neg (by rw [hw]; decide), if_neg (by rw [hs]; decide), h]
  exact if_pos (bne_iff_ne.2 hp)

theorem place_page (hp : pteWorld p = u.me.eff.world) : place s va size kind = placePage u va size kind p sz := by
  unfold place
  rw [if_neg (by rw [hcan]; decide), if_neg (by rw [hw]; decide), if_neg (by rw [hs]; decide), h]
  exact if_neg (by rw [hp, bne_self_eq_false]; decide)

end

section

variable {s : State} {va : Word} {size : Nat} {kind : Kind} {p : Word} {sz : Nat}

/-- A page of noise takes no write. -/
theorem placePage_noise_writes (h1 : pteType p = 1) (hk : kind.writes = true) :
    placePage s va size kind p sz = .trap s 0x06 := by
  have hf : (kind == .fetch) = false := by
    cases kind with
    | fetch => cases hk
    | _ => rfl
  unfold placePage
  rw [if_pos h1, hf, hk]
  rfl

/-- No instruction is fetched from a page of noise. -/
theorem placePage_noise_fetch (h1 : pteType p = 1) (hk : kind = .fetch) : placePage s va size kind p sz = .trap s 0x05 := by
  unfold placePage
  rw [if_pos h1, hk]
  rfl

variable (h1 : pteType p ≠ 1)

include h1

theorem placePage_busy (hloc : pteLoc p = 1) (hb : (s.tile (pteTile p sz va)).busy.isSome = true) :
    placePage s va size kind p sz = .wait .bankBusy := by
  unfold placePage
  rw [if_neg h1, if_pos (by simp [hloc, hb])]

theorem placePage_notHome (hloc : pteLoc p = 1) (hb : (s.tile (pteTile p sz va)).busy = none)
    (hm : (s.tile (pteTile p sz va)).mode ≠ 2) : placePage s va size kind p sz = .trap s 0x05 := by
  unfold placePage
  rw [if_neg h1, if_neg (by simp [hb]), if_pos (Bool.and_eq_true_iff.2 ⟨decide_eq_true hloc, bne_iff_ne.2 hm⟩)]
  rfl

variable (hh : pteLoc p = 1 → (s.tile (pteTile p sz va)).busy = none ∧ (s.tile (pteTile p sz va)).mode = 2)

include hh

/-- A page that is no noise, and in no tile or one in HOME mode, is decided by its type, its read-only bit and its location. -/
theorem placePage_open : placePage s va size kind p sz =
    if pteType p = 3 then
      if kind == .load then .ok s (.mem (physKey p sz va) (pteKey p)) else .trap s 0x05
    else if kind.writes && pteRo p then .trap s 0x05
    else if pteLoc p = 2 then
      if kind == .atomic then .trap s 0x05 else .ok s (.host (physKey p sz va))
    else .ok s (.mem (physKey p sz va) (pteKey p)) := by
  unfold placePage
  rw [if_neg h1, if_neg, if_neg]
  · rfl
  · intro h
    obtain ⟨hloc, hm⟩ := Bool.and_eq_true_iff.1 h
    exact absurd (hh (of_decide_eq_true hloc)).2 (bne_iff_ne.1 hm)
  · intro h
    obtain ⟨hloc, hb⟩ := Bool.and_eq_true_iff.1 h
    rw [(hh (of_decide_eq_true hloc)).1] at hb
    cases hb

end

/-- Settles O20: the checks that come first by what each of the instructions does with them, and where an address leads by the
branches of its page. -/
theorem accessChecks : Obligations.AccessChecks := by
  unfold Obligations.AccessChecks
  refine ⟨?_, ?_⟩
  · intro s g d a b off addr size kind hg ha hb hd hin
    have hab := ready2 ha hb
    have loadG {i : Instr} {n : Nat} {ext : Nat → Word} (he : exec i s = loadG i g d a off n s ext) : size = n → kind = .load →
        addr = s.src a + off.signExtend 64 * BitVec.ofNat 64 size → ChecksAnswer s addr size kind i := by
      rintro rfl rfl haddr
      exact checksAnswer_of_loadOp (put := fun u v => u.putG d (ext v)) hg (gate_ready i (ready1 ha) hd.dstReady) haddr he
    have loadF {i : Instr} {n : Nat} {ext : Nat → Word} (he : exec i s = loadF i g d a off n s ext) : size = n → kind = .load →
        addr = s.src a + off.signExtend 64 * BitVec.ofNat 64 size → ChecksAnswer s addr size kind i := by
      rintro rfl rfl haddr
      exact checksAnswer_of_loadOp (put := fun u v => u.mapCtx fun c => c.wf (low4 d) (ext v)) hg (gate_src i false (ready1 ha))
        haddr he
    have storeG {i : Instr} {n : Nat} (he : exec i s = storeOp i g [a, b] a off n s fun s => s.src b) : size = n → kind = .store →
        addr = s.src a + off.signExtend 64 * BitVec.ofNat 64 size → ChecksAnswer s addr size kind i := by
      rintro rfl rfl haddr
      exact checksAnswer_of_storeOp (val := fun s => s.src b) hg hab haddr he
    have storeF {i : Instr} {n : Nat} (he : exec i s = storeOp i g [a] a off n s fun s => s.me.ctx.rf (low4 b)) : size = n →
        kind = .store → addr = s.src a + off.signExtend 64 * BitVec.ofNat 64 size → ChecksAnswer s addr size kind i := by
      rintro rfl rfl haddr
      exact checksAnswer_of_storeOp (val := fun s => s.me.ctx.rf (low4 b)) hg (ready1 ha) haddr he
    have atomic {i : Instr} {op : BitVec 4} {n : Nat} (he : exec i s = atomicOp i g op n d a b s) : size = n → kind = .atomic →
        addr = s.src a → ChecksAnswer s addr size kind i := by
      rintro rfl rfl rfl
      exact checksAnswer_of_atomicOp hg ha hb hd (hin rfl) he
    simp only [List.forall_mem_cons, if_true, Bool.false_eq_true, if_false]
    exact ⟨loadG (exec_ldB ..), loadG (exec_ldBu ..), loadG (exec_ldH ..), loadG (exec_ldHu ..), loadG (exec_ldW ..),
      loadG (exec_ldWu ..), loadG (exec_ldD ..), loadF (exec_ldf ..), loadF (exec_ldfS ..), loadG (exec_ldcW ..),
      loadG (exec_ldcWu ..), loadG (exec_ldcD ..),
      storeG (exec_stB ..), storeG (exec_stH ..), storeG (exec_stW ..), storeG (exec_stD ..), storeF (exec_stf ..),
      storeF (exec_stfS ..),
      atomic (exec_aadd ..), atomic (exec_aand ..), atomic (exec_aor ..), atomic (exec_axor ..), atomic (exec_amin ..),
      atomic (exec_amax ..), atomic (exec_aminu ..), atomic (exec_amaxu ..), atomic (exec_aswp ..), atomic (exec_acas ..),
      atomic (exec_aaddW ..), atomic (exec_aandW ..), atomic (exec_aorW ..), atomic (exec_axorW ..), atomic (exec_aminW ..),
      atomic (exec_amaxW ..), atomic (exec_aminuW ..), atomic (exec_amaxuW ..), atomic (exec_aswpW ..), atomic (exec_acasW ..),
      fun _ h => nomatch h⟩
  · intro s u va size kind p sz hcan
    refine ⟨place_aboveBanks hcan size kind, fun b hb hlo hhi hbusy => ?_, fun hw hs =>
      ⟨fun c => place_untranslated hcan size kind hw hs,
      fun h => ⟨place_otherWorld hcan size kind hw hs h, fun hworld => ?_⟩⟩⟩
    · rw [place_bank hcan size kind hb hlo hhi hbusy]
      refine ⟨fun hm => if_pos (bne_iff_ne.2 hm), fun hm => ?_⟩
      rw [hm, keyOf, ← Nat.add_assoc]
      rfl
    · rw [place_page hcan size kind hw hs h hworld]
      refine ⟨placePage_noise_writes, placePage_noise_fetch, placePage_busy, placePage_notHome, fun hh => ⟨fun ht hk => ?_,
        fun ht hk hro => ?_, fun ht hk hloc => ?_, fun ht hro hloc => ?_⟩⟩
      · rw [placePage_open (by rw [ht]; decide) hh, if_pos ht, if_neg (by simpa using hk)]
      · rw [placePage_open (by rw [ht]; decide) hh, if_neg (by rw [ht]; decide), if_pos (by rw [hk, hro]; rfl)]
      · rw [placePage_open (by rw [ht]; decide) hh, if_neg (by rw [ht]; decide), hk, if_pos hloc]
        split <;> rfl
      · rw [placePage_open (by rw [ht]; decide) hh, if_neg (by rw [ht]; decide), if_neg (by rwa [Bool.and_eq_true]),
          if_neg (by rw [hloc]; decide), physKey, hloc, keyOf, Nat.zero_mul, Nat.zero_add]

end Sys2Proof.Machine

end

/-!
SUPPORT. Atomics: what they find and what they write (R214), their frame, and their rounds in deterministic mode (R130, R131, R216).
-/
section

namespace Sys2Proof.Machine

/-! ## The bytes that an atomic finds are no more than its own -/

theorem length_xorBytes_le (a b : List Byte) : (xorBytes a b).length ≤ a.length := by
  rw [xorBytes, List.length_zipWith]
  exact min_le_left ..

theorem length_aesDecrypt_le (rk : List (List Byte)) (b : List Byte) : (aesDecrypt rk b).length ≤ 16 := by
  refine (length_xorBytes_le ..).trans ?_
  simp [rotateRows]

theorem length_xtsBlocks_le {f : List Byte → List Byte} (hf : ∀ b, (f b).length ≤ 16) (n : Nat) (t bs : List Byte) :
    (xtsBlocks f n t bs).length ≤ 16 * n := by
  induction n generalizing t bs with
  | zero => exact le_rfl
  | succ n ih =>
    have hhead := (length_xorBytes_le (f (xorBytes (bs.take 16) t)) t).trans (hf _)
    have htail := ih (nextTweak t) (bs.drop 16)
    rw [xtsBlocks, List.length_append]
    omega

theorem length_rekeyLine_le (old new : BitVec 512) (tweak : Nat) {line : List Byte} (h : line.length ≤ 128) :
    (rekeyLine old new tweak line).length ≤ 128 := by
  unfold rekeyLine
  split
  · exact h
  · exact length_xtsBlocks_le (length_aesDecrypt_le _) 8 _ _

theorem length_memBytes (m : List Host.Cell) (k n : Nat) : (memBytes m k n).length = n := by
  induction n generalizing k with
  | zero => rfl
  | succ n ih => rw [memBytes, List.length_cons, ih]

theorem length_plainBytes_le (s : State) (k : Nat) (slot : BitVec 7) (n : Nat) : (s.plainBytes k slot n).1.length ≤ n := by
  have hbs := (length_memBytes s.mem k n).le
  unfold State.plainBytes
  dsimp only
  split
  · exact hbs
  · split
    · exact hbs
    · split
      · exact hbs
      · split
        · exact hbs
        · have hl := length_rekeyLine_le (aget 0 s.wh.keys (BitVec.toNat ‹_›)) (aget 0 s.wh.keys slot.toNat) (lineOf k)
            (length_memBytes s.mem (lineOf k * 128) 128).le
          dsimp only
          rw [List.length_append, List.length_take, List.length_drop, List.length_drop, length_memBytes]
          omega

theorem leNat_lt (bs : List Byte) : leNat bs < 2 ^ (8 * bs.length) := by
  induction bs with
  | nil => exact Nat.one_pos
  | cons b bs ih =>
    have hb := b.isLt
    have hp : 2 ^ (8 * (bs.length + 1)) = 256 * 2 ^ (8 * bs.length) := by rw [Nat.mul_add, Nat.pow_add]; omega
    rw [leNat, List.length_cons, hp]
    omega

theorem leNat_plainBytes_lt (s : State) (k : Nat) (slot : BitVec 7) (n : Nat) : leNat (s.plainBytes k slot n).1 < 2 ^ (8 * n) :=
  (leNat_lt _).trans_le (Nat.pow_le_pow_right (by decide) (by have := length_plainBytes_le s k slot n; omega))

/-! ## What an operation gives -/

/-- An operation code means `f`, on words of either size; `ACAS` alone has a third operand. -/
def AtomicMeans (op : BitVec 4) (f : (n : Nat) → BitVec n → BitVec n → BitVec n → BitVec n) : Prop :=
  ∀ n, 0 < n → ∀ (x y z : BitVec (8 * n)),
    atomicNew op n x.toNat y.toNat (if op = 9 then z.toNat else 0) = (f (8 * n) x y z).toNat

theorem signed_toNat {n : Nat} (h : 0 < n) (x : BitVec (8 * n)) : signed (8 * n) x.toNat = x.toInt := by
  rw [signed_eq_toInt (by omega), BitVec.ofNat_toNat, BitVec.setWidth_eq]

theorem atomicMeans_add : AtomicMeans 0 fun _ o v _ => o + v := fun _ _ x y _ => (BitVec.toNat_add x y).symm

theorem atomicMeans_and : AtomicMeans 1 fun _ o v _ => o &&& v := fun _ _ _ _ _ => (BitVec.toNat_and ..).symm

theorem atomicMeans_or : AtomicMeans 2 fun _ o v _ => o ||| v := fun _ _ _ _ _ => (BitVec.toNat_or ..).symm

theorem atomicMeans_xor : AtomicMeans 3 fun _ o v _ => o ^^^ v := fun _ _ _ _ _ => (BitVec.toNat_xor ..).symm

theorem atomicMeans_min : AtomicMeans 4 fun _ o v _ => if o.sle v then o else v := fun n h x y _ => by
  change (if signed (8 * n) x.toNat ≤ signed (8 * n) y.toNat then x.toNat else y.toNat) = _
  simp only [signed_toNat h, BitVec.sle, decide_eq_true_eq]
  split <;> rfl

theorem atomicMeans_max : AtomicMeans 5 fun _ o v _ => if o.sle v then v else o := fun n h x y _ => by
  change (if signed (8 * n) x.toNat ≤ signed (8 * n) y.toNat then y.toNat else x.toNat) = _
  simp only [signed_toNat h, BitVec.sle, decide_eq_true_eq]
  split <;> rfl

theorem atomicMeans_minu : AtomicMeans 6 fun _ o v _ => if o.ule v then o else v := fun n _ x y _ => by
  change (if x.toNat ≤ y.toNat then x.toNat else y.toNat) = _
  simp only [BitVec.ule, decide_eq_true_eq]
  split <;> rfl

theorem atomicMeans_maxu : AtomicMeans 7 fun _ o v _ => if o.ule v then v else o := fun n _ x y _ => by
  change (if x.toNat ≤ y.toNat then y.toNat else x.toNat) = _
  simp only [BitVec.ule, decide_eq_true_eq]
  split <;> rfl

theorem atomicMeans_swp : AtomicMeans 8 fun _ _ v _ => v := fun _ _ _ _ _ => rfl

theorem atomicMeans_cas : AtomicMeans 9 fun _ o v c => if o = c then v else o := fun n _ x y z => by
  change (if x.toNat = z.toNat then y.toNat else x.toNat) = _
  simp only [BitVec.toNat_inj]
  split <;> rfl

theorem lowBytes_eq (n : Nat) (v : Word) : lowBytes n v = (v.setWidth (8 * n)).toNat := (BitVec.toNat_setWidth ..).symm

/-! ## The frame of an atomic -/

theorem looks_plainBytes (s : State) (k : Nat) (slot : BitVec 7) (n : Nat) : s.Looks (s.plainBytes k slot n).2 := by
  unfold State.plainBytes
  dsimp only
  repeat' split
  all_goals exact .of_me rfl rfl rfl rfl

theorem put_me (s : State) (k : Nat) (slot : BitVec 7) (bs : List Byte) (clk : Nat) : (s.put k slot bs clk).2.me = s.me := by
  rw [State.put, storeAt_me, underSlot_me, capture_me]

section

variable {s : State} {i : Instr} {d : BitVec 5}

/-- An atomic with a plain destination ends with what it found, and leaves the memory. -/
theorem atomicDone_plain (hd : s.Plain d) (i : Instr) (srcs : List (BitVec 5)) (n old : Nat) (held : Option WaitOn) :
    ∃ t, atomicDone i s srcs d n old held = .next t ∧ t.mem = s.mem ∧ t.me.ctx.rg d = if d = 0 then 0 else atomicOld n old := by
  have hp := kept_popSrcs s srcs
  have hput := putG_plain (hp.plain hd) (atomicOld n old)
  have hmem : ((s.popSrcs srcs).putG d (atomicOld n old)).mem = s.mem := by rw [hput, hp.mem]
  have hrg : ((s.popSrcs srcs).putG d (atomicOld n old)).me.ctx.rg d = if d = 0 then 0 else atomicOld n old := by
    rw [hput]
    exact (rg_wg ..).trans (if_pos rfl)
  unfold atomicDone
  generalize (s.popSrcs srcs).putG d (atomicOld n old) = v at hmem hrg
  have hk : ∀ w : State, v.Kept w → w.mem = s.mem ∧ w.me.ctx.rg d = if d = 0 then 0 else atomicOld n old :=
    fun w h => ⟨h.mem.trans hmem, (h.rg d).trans hrg⟩
  refine ⟨_, rfl, hk _ (.trans ?_ (kept_retireTo ..))⟩
  generalize hu : ite (d = 0) v _ = u
  have hu : v.Kept u := by
    rw [← hu]
    split <;> exact ⟨rfl, rfl, rfl⟩
  cases held with
  | none => exact hu
  | some w => exact hu.trans ⟨rfl, rfl, rfl⟩

end

/-! ## An atomic at ordinary memory -/

section

variable {s u : State} {i : Instr} {g : Guard} {op : BitVec 4} {n k : Nat} {slot : BitVec 7} {d a b : BitVec 5}
  {f : (n : Nat) → BitVec n → BitVec n → BitVec n → BitVec n}

/-- What an atomic does once it runs and its checks pass. -/
theorem exec_atomic_ok (hg : s.me.ctx.guardTrue g = true) (ha : s.SrcReady a) (hb : s.SrcReady b) (hd : s.Plain d)
    (hin : s.inRound a d n = none) (hc : checkAccess s (s.src a) n .atomic = .ok u (.mem k slot))
    (he : exec i s = atomicOp i g op n d a b s) {v cmp : Nat} (hv : v = lowBytes n (s.src b))
    (hcmp : cmp = if op = 9 then lowBytes n (s.me.ctx.rg d) else 0) : exec i s =
      if u.me.eff.det then
        if !storeFits u (s.src a) (.mem k slot) n then .next (s.trapAt tcBUDGET 3)
        else if d = 0 then
          done i ((u.accessEvent (.mem k slot) n (s.src a) true).enterAtomic ⟨u.me.id.idx, k, s.src a, n, op, BitVec.ofNat 64 v,
            BitVec.ofNat 64 cmp, 0, none, u.me.det.writes.length⟩) [a, b]
        else atomicRound i u (s.src a) (.mem k slot) k n op v cmp
      else atomicDone i (atomicNow (u.accessEvent (.mem k slot) n (s.src a) true) (s.src a) (.mem k slot) n op v cmp).2 [a, b] d n
        (atomicNow (u.accessEvent (.mem k slot) n (s.src a) true) (s.src a) (.mem k slot) n op v cmp).1 none := by
  subst hv hcmp
  rw [he, atomicOp, guarded_true hg, hin]
  dsimp only
  rw [gated_go hg (gate_atomic i ha hb hd _)]
  rw [hc]
  dsimp only
  cases u.me.eff.det <;> rfl

end

theorem atomicNow_mem_eq {s w : State} {k n : Nat} {slot : BitVec 7} {bs : List Byte} (h : s.plainBytes k slot n = (bs, w))
    (va : Word) (op : BitVec 4) (v cmp : Nat) : atomicNow s va (.mem k slot) n op v cmp = (leNat bs,
      (w.put k slot (leBytes n (atomicNew op n (leNat bs) v cmp)) w.me.ctx.clock).2.clockTo
        (w.put k slot (leBytes n (atomicNew op n (leNat bs) v cmp)) w.me.ctx.clock).1) := by
  unfold atomicNow
  dsimp only
  rw [h]

/-- An atomic at ordinary memory finds what its bytes read as, and writes what its operation gives. -/
theorem atomicNow_mem {s : State} (hr : s.replays s.me.id.fn s.me.id.blk = false) (va : Word) (k : Nat) (slot : BitVec 7) (n : Nat)
    (op : BitVec 4) (v cmp : Nat) :
    (atomicNow s va (.mem k slot) n op v cmp).1 = leNat (s.plainBytes k slot n).1 ∧
    (atomicNow s va (.mem k slot) n op v cmp).2.mem =
      memPut s.mem k (leBytes n (atomicNew op n (leNat (s.plainBytes k slot n).1) v cmp)) ∧
    (∀ r, s.Plain r → (atomicNow s va (.mem k slot) n op v cmp).2.Plain r) := by
  have hl := looks_plainBytes s k slot n
  rcases hp : s.plainBytes k slot n with ⟨bs, w⟩
  rw [hp] at hl
  have hr' : w.replays w.me.id.fn w.me.id.blk = false := by
    obtain ⟨hid, -⟩ := hl.task
    obtain ⟨-, hrep, -⟩ := hl
    rw [hid, hrep, hr]
  rw [atomicNow_mem_eq hp]
  refine ⟨rfl, ?_, fun r h => (kept_clockTo ..).plain ?_⟩
  · rw [(kept_clockTo ..).mem, mem_put hr', hl.kept.mem]
  · have hw := hl.kept.plain h
    unfold State.Plain at hw ⊢
    rw [put_me, hw]

section

variable {s u : State} {i : Instr} {g : Guard} {op : BitVec 4} {n k : Nat} {slot : BitVec 7} {d a b : BitVec 5}
  {f : (n : Nat) → BitVec n → BitVec n → BitVec n → BitVec n}

theorem src_eq_rg (hd : s.Plain d) : s.src d = s.me.ctx.rg d := by
  unfold State.src
  rw [hd]

theorem atomic_ordinary (hg : s.me.ctx.guardTrue g = true) (ha : s.SrcReady a) (hb : s.SrcReady b) (hd : s.Plain d)
    (hwf : Memory.wf s.mem = true) (hdet : s.me.eff.det = false) (hr : s.replays s.me.id.fn s.me.id.blk = false)
    (hin : s.inRound a d n = none) (hc : checkAccess s (s.src a) n .atomic = .ok u (.mem k slot)) (hn : 0 < n)
    (hf : AtomicMeans op f) (he : exec i s = atomicOp i g op n d a b s) {old : BitVec (8 * n)}
    (hold : old = BitVec.ofNat (8 * n) (leNat ((u.accessEvent (.mem k slot) n (s.src a) true).plainBytes k slot n).1)) :
    ∃ t, exec i s = .next t ∧ t.me.ctx.rg d = (if d = 0 then 0 else atomicOld n old.toNat) ∧ ∀ j, memGet t.mem j =
      if k ≤ j ∧ j < k + n then
        (f (8 * n) old ((s.src b).setWidth (8 * n)) ((s.src d).setWidth (8 * n))).extractLsb' (8 * (j - k)) 8
      else memGet s.mem j := by
  have hl : s.Looks (u.accessEvent (.mem k slot) n (s.src a) true) := (looks_ok hc).trans (looks_accessEvent ..)
  obtain ⟨hid, -⟩ := hl.task
  obtain ⟨hmem, hrep, -⟩ := id hl
  have hdet' : u.me.eff.det = false := by rw [(looks_ok hc).task.2, hdet]
  have hold' : old.toNat = leNat ((u.accessEvent (.mem k slot) n (s.src a) true).plainBytes k slot n).1 := by
    rw [hold, BitVec.toNat_ofNat, Nat.mod_eq_of_lt (leNat_plainBytes_lt ..)]
  have hnew := hf n hn old ((s.src b).setWidth (8 * n)) ((s.src d).setWidth (8 * n))
  rw [← lowBytes_eq, ← lowBytes_eq, src_eq_rg hd] at hnew
  obtain ⟨hfound, hwrites, hplain⟩ := atomicNow_mem (s := u.accessEvent (.mem k slot) n (s.src a) true) (by rw [hid, hrep, hr])
    (s.src a) k slot n op (lowBytes n (s.src b)) (if op = 9 then lowBytes n (s.me.ctx.rg d) else 0)
  rw [exec_atomic_ok hg ha hb hd hin hc he rfl rfl, hdet', if_neg (by decide), hfound, ← hold']
  rw [← hold', hnew, hmem] at hwrites
  obtain ⟨t, ht, htm, htd⟩ := atomicDone_plain (hplain d (hl.kept.plain hd)) i [a, b] n old.toNat none
  refine ⟨t, ht, htd, fun j => ?_⟩
  rw [htm, hwrites, src_eq_rg hd]
  exact memGet_memPut_leBytes hwf ..

end

theorem atomicOld_dword (v : BitVec 64) : atomicOld 8 v.toNat = v := (BitVec.ofNat_toNat ..).trans (BitVec.setWidth_eq _)

theorem atomicOld_word (v : BitVec 32) : atomicOld 4 v.toNat = v.signExtend 64 := by
  change extS 4 v.toNat = _
  rw [extS_eq (by decide)]
  congr 1
  exact (BitVec.ofNat_toNat ..).trans (BitVec.setWidth_eq _)

/-! ## Rounds (R130, R131, R216) -/

section

variable {s u : State} {i : Instr} {g : Guard} {op : BitVec 4} {n k : Nat} {slot : BitVec 7} {d a b : BitVec 5}

theorem exec_atomic_rejoin (hg : s.me.ctx.guardTrue g = true) (hw : s.me.ctx.wait = .atomicRound k)
    (he : exec i s = atomicOp i g op n d a b s) : exec i s = atomicRejoin i s [a, b] d k n := by
  have hin : s.inRound a d n = some k := by
    unfold State.inRound
    rw [hw]
  rw [he, atomicOp, guarded_true hg, hin]

theorem kept_enterAtomic (s : State) (r : AtomRec) : s.Kept (s.enterAtomic r) := by
  unfold State.enterAtomic
  dsimp only
  split <;> exact ⟨rfl, rfl, rfl⟩

theorem pc_enterAtomic (s : State) (r : AtomRec) : (s.enterAtomic r).me.ctx.pc = s.me.ctx.pc := by
  unfold State.enterAtomic
  dsimp only
  split <;> rfl

/-- An operand as the record of an atomic holds it. -/
theorem ofNat_lowBytes (hn : n = 8 ∨ n = 4) (v : Word) :
    BitVec.ofNat 64 (lowBytes n v) = if n = 8 then v else (v.setWidth 32).setWidth 64 := by
  rw [lowBytes_eq, BitVec.ofNat_toNat]
  rcases hn with rfl | rfl
  · rw [if_pos rfl, BitVec.setWidth_eq, BitVec.setWidth_eq]
  · rfl

/-- What an atomic answers that stands in its round already. -/
def RejoinAnswers (s : State) (d : BitVec 5) (k n : Nat) (i : Instr) : Prop :=
  (((s.myRounds k n).getLast?).bind (·.res) = none → exec i s = .next (s.waitOn (.atomicRound k))) ∧
  (∀ old new, ((s.myRounds k n).getLast?).bind (·.res) = some (old, new) → ∃ t, exec i s = .next t ∧ t.mem = s.mem ∧
    t.me.ctx.rg d = (if d = 0 then 0 else if n = 8 then old else (old.setWidth 32).signExtend 64))

theorem rejoinAnswers (hg : s.me.ctx.guardTrue g = true) (hd : s.Plain d) (hw : s.me.ctx.wait = .atomicRound k)
    (hn : n = 8 ∨ n = 4) (he : exec i s = atomicOp i g op n d a b s) : RejoinAnswers s d k n i := by
  rw [RejoinAnswers, exec_atomic_rejoin hg hw he, atomicRejoin]
  refine ⟨fun h => by rw [h], fun old new h => ?_⟩
  rw [h]
  obtain ⟨t, ht, hm, hr⟩ := atomicDone_plain hd i [a, b] n old.toNat (some (.atomicRound k))
  refine ⟨t, ht, hm, hr.trans ?_⟩
  have hold : atomicOld n old.toNat = if n = 8 then old else (old.setWidth 32).signExtend 64 := by
    rcases hn with rfl | rfl
    · exact atomicOld_dword old
    · change extS 4 old.toNat = _
      rw [extS_eq (by decide), BitVec.ofNat_toNat]
      rfl
  rw [hold]

/-- What an atomic answers that is collected, or enters a round of the task. -/
def RoundAnswers (s u v : State) (d a b : BitVec 5) (k : Nat) (slot : BitVec 7) (m n : Nat) (pc x c : Word) (op : BitVec 4)
    (i : Instr) : Prop :=
  checkAccess s (s.src a) n .atomic = .ok u (.mem k slot) → u.me.eff.det = true →
    storeFits u (s.src a) (.mem k slot) n = true → m = (u.myRounds k n).length + 1 → s.inRound a d n = none →
    v = u.accessEvent (.mem k slot) n (s.src a) true →
    (d ≠ 0 → u.me.ctx.keepsBelow (.atomicRound k) = true → exec i s = .next (u.trapAt 0x01 (infoWord i))) ∧
    (u.me.ctx.keepsBelow (.atomicRound k) = false →
    (d = 0 → exec i s = .next (((v.enterAtomic
      ⟨u.me.id.idx, k, s.src a, n, op, x, c, 0, none, u.me.det.writes.length⟩).popSrcs [a, b]).retireTo pc)) ∧
    (d ≠ 0 → (u.openRounds k n).length < u.me.eff.adepth ∨ (u.openRounds k n).contains m = true →
      exec i s = .next ((v.enterAtomic
        ⟨u.me.id.idx, k, s.src a, n, op, x, c, m, none, u.me.det.writes.length⟩).waitOn (.atomicRound k))) ∧
    (d ≠ 0 → ¬ ((u.openRounds k n).length < u.me.eff.adepth ∨ (u.openRounds k n).contains m = true) →
      exec i s = .next (u.waitOn (.adepth k))) ∧
    (∀ t, exec i s = .next t → t.mem = u.mem))

theorem roundAnswers {v : State} {m : Nat} {x c : Word} (hg : s.me.ctx.guardTrue g = true) (ha : s.SrcReady a) (hb : s.SrcReady b)
    (hd : s.Plain d) (hn : n = 8 ∨ n = 4) (hx : x = if n = 8 then s.src b else ((s.src b).setWidth 32).setWidth 64)
    (hcmp : c = if op ≠ 9 then 0 else if n = 8 then s.me.ctx.rg d else ((s.me.ctx.rg d).setWidth 32).setWidth 64)
    (he : exec i s = atomicOp i g op n d a b s) (hl : i.lits = 0) :
    RoundAnswers s u v d a b k slot m n (s.me.ctx.pc + 4) x c op i := by
  rintro hc hdet hfit rfl hin rfl
  have hc' : BitVec.ofNat 64 (if op = 9 then lowBytes n (s.me.ctx.rg d) else 0) = c := by
    rw [hcmp, apply_ite (BitVec.ofNat 64), ofNat_lowBytes hn, ite_not]
    rfl
  have h := exec_atomic_ok hg ha hb hd hin hc he rfl rfl
  rw [hdet, if_pos rfl, hfit, if_neg (by decide), ofNat_lowBytes hn, ← hx, hc'] at h
  have hpc : (u.accessEvent (.mem k slot) n (s.src a) true).me.ctx.pc = s.me.ctx.pc := by
    obtain ⟨-, -, k, hme⟩ := (looks_ok hc).trans (looks_accessEvent u (.mem k slot) n (s.src a) true)
    rw [hme]
  have hround (hk : u.me.ctx.keepsBelow (.atomicRound k) = false) (hd0 : d ≠ 0) : exec i s =
      if u.me.eff.adepth ≤ (u.openRounds k n).length && !(u.openRounds k n).contains ((u.myRounds k n).length + 1) then
        .next (u.waitOn (.adepth k))
      else .next (((u.accessEvent (.mem k slot) n (s.src a) true).enterAtomic ⟨u.me.id.idx, k, s.src a, n, op, x, c,
        (u.myRounds k n).length + 1, none, u.me.det.writes.length⟩).waitOn (.atomicRound k)) := by
    rw [h, if_neg hd0, atomicRound, hk, ofNat_lowBytes hn, ← hx, hc']
    rfl
  have hcollect (hd0 : d = 0) : exec i s = .next ((((u.accessEvent (.mem k slot) n (s.src a) true).enterAtomic
      ⟨u.me.id.idx, k, s.src a, n, op, x, c, 0, none, u.me.det.writes.length⟩).popSrcs [a, b]).retireTo (s.me.ctx.pc + 4)) := by
    rw [h, if_pos hd0, done, nextPc_zero hl, pc_enterAtomic, hpc]
  have hkept (r : AtomRec) : ((u.accessEvent (.mem k slot) n (s.src a) true).enterAtomic r).mem = u.mem :=
    (kept_enterAtomic ..).mem.trans (looks_accessEvent ..).kept.mem
  refine ⟨fun hd0 hk => ?_, fun hk => ⟨hcollect, fun hd0 hroom => ?_, fun hd0 hroom => ?_, fun t ht => ?_⟩⟩
  · rw [h, if_neg hd0, atomicRound, if_pos hk]
    rfl
  · rw [hround hk hd0, if_neg]
    simpa [imp_iff_not_or] using hroom
  · rw [hround hk hd0, if_pos]
    simpa using hroom
  · by_cases hd0 : d = 0
    · cases (hcollect hd0).symm.trans ht
      exact ((kept_retireTo ..).mem.trans (kept_popSrcs ..).mem).trans (hkept _)
    · rw [hround hk hd0] at ht
      split at ht
      · cases ht
        rfl
      · cases ht
        exact hkept _

end

/-- Settles O21: an atomic at ordinary memory by the meaning of its operation code; the others by their rounds. -/
theorem atomicResultsInBothModes : Obligations.AtomicResultsInBothModes := by
  unfold Obligations.AtomicResultsInBothModes
  refine ⟨?_, ?_⟩
  · rintro s u g d a b k slot hg ha hb hd hwf hdet hr hin8 hin4
    have both {i i' : Instr} {op : BitVec 4} {f : (n : Nat) → BitVec n → BitVec n → BitVec n → BitVec n} (hf : AtomicMeans op f)
        (he : exec i s = atomicOp i g op 8 d a b s) (he' : exec i' s = atomicOp i' g op 4 d a b s) :
        (∀ old, checkAccess s (s.src a) 8 .atomic = .ok u (.mem k slot) →
          old = BitVec.ofNat 64 (leNat ((u.accessEvent (.mem k slot) 8 (s.src a) true).plainBytes k slot 8).1) →
          ∃ t, exec i s = .next t ∧ t.me.ctx.rg d = (if d = 0 then 0 else old) ∧ ∀ j, memGet t.mem j =
            if k ≤ j ∧ j < k + 8 then (f 64 old (s.src b) (s.src d)).extractLsb' (8 * (j - k)) 8 else memGet s.mem j) ∧
        (∀ old, checkAccess s (s.src a) 4 .atomic = .ok u (.mem k slot) →
          old = BitVec.ofNat 32 (leNat ((u.accessEvent (.mem k slot) 4 (s.src a) true).plainBytes k slot 4).1) →
          ∃ t, exec i' s = .next t ∧ t.me.ctx.rg d = (if d = 0 then 0 else old.signExtend 64) ∧ ∀ j, memGet t.mem j =
            if k ≤ j ∧ j < k + 4 then
              (f 32 old ((s.src b).setWidth 32) ((s.src d).setWidth 32)).extractLsb' (8 * (j - k)) 8
            else memGet s.mem j) := by
      refine ⟨fun old hc hold => ?_, fun old hc hold => ?_⟩
      · have h := atomic_ordinary hg ha hb hd hwf hdet hr hin8 hc (by decide) hf he (old := old) hold
        simpa only [atomicOld_dword, BitVec.setWidth_eq] using h
      · have h := atomic_ordinary hg ha hb hd hwf hdet hr hin4 hc (by decide) hf he' (old := old) hold
        simpa only [atomicOld_word] using h
    simp only [List.forall_mem_cons]
    exact ⟨both atomicMeans_add (exec_aadd ..) (exec_aaddW ..), both atomicMeans_and (exec_aand ..) (exec_aandW ..),
      both atomicMeans_or (exec_aor ..) (exec_aorW ..), both atomicMeans_xor (exec_axor ..) (exec_axorW ..),
      both atomicMeans_min (exec_amin ..) (exec_aminW ..), both atomicMeans_max (exec_amax ..) (exec_amaxW ..),
      both atomicMeans_minu (exec_aminu ..) (exec_aminuW ..), both atomicMeans_maxu (exec_amaxu ..) (exec_amaxuW ..),
      both atomicMeans_swp (exec_aswp ..) (exec_aswpW ..), both atomicMeans_cas (exec_acas ..) (exec_acasW ..),
      fun _ h => nomatch h⟩
  · rintro s u v g d a b k slot m n pc x c op hg ha hb hd rfl
    have one {i : Instr} {o : BitVec 4} {l : Nat} (hn : l = 8 ∨ l = 4) (he : exec i s = atomicOp i g o l d a b s) (hl : i.lits = 0) :
        op = o → n = l → x = (if n = 8 then s.src b else ((s.src b).setWidth 32).setWidth 64) →
        c = (if op ≠ 9 then 0 else if n = 8 then s.me.ctx.rg d else ((s.me.ctx.rg d).setWidth 32).setWidth 64) →
        (s.me.ctx.wait = .atomicRound k → RejoinAnswers s d k n i) ∧
          RoundAnswers s u v d a b k slot m n (s.me.ctx.pc + 4) x c op i := by
      rintro rfl rfl hx hc
      exact ⟨fun hw => rejoinAnswers hg hd hw hn he, roundAnswers hg ha hb hd hn hx hc he hl⟩
    have dword {i : Instr} {o : BitVec 4} := one (i := i) (o := o) (l := 8) (.inl rfl)
    have word {i : Instr} {o : BitVec 4} := one (i := i) (o := o) (l := 4) (.inr rfl)
    simp only [List.forall_mem_cons]
    exact ⟨dword (exec_aadd ..) rfl, dword (exec_aand ..) rfl, dword (exec_aor ..) rfl, dword (exec_axor ..) rfl,
      dword (exec_amin ..) rfl, dword (exec_amax ..) rfl, dword (exec_aminu ..) rfl, dword (exec_amaxu ..) rfl,
      dword (exec_aswp ..) rfl, dword (exec_acas ..) rfl, word (exec_aaddW ..) rfl, word (exec_aandW ..) rfl,
      word (exec_aorW ..) rfl, word (exec_axorW ..) rfl, word (exec_aminW ..) rfl, word (exec_amaxW ..) rfl,
      word (exec_aminuW ..) rfl, word (exec_amaxuW ..) rfl, word (exec_aswpW ..) rfl, word (exec_acasW ..) rfl,
      fun _ h => nomatch h⟩

end Sys2Proof.Machine

end

/-!
SUPPORT. TRAP, BKPT and ERET (R140, R205, R256 to R258).
-/
section

namespace Sys2Proof.Machine

section

variable {s : State} {g : Guard} (hg : s.me.ctx.guardTrue g = true)

include hg

theorem exec_trap_eq (n : BitVec 12) :
    exec (.trap g n) s = .next (s.retireTrap (s.me.ctx.pc + 4) 0x19 (n.setWidth 64)) :=
  (exec_trap ..).trans (guarded_true hg)

theorem exec_bkpt_eq : exec (.bkpt g) s = .next (s.retireTrap (s.me.ctx.pc + 4) 0x14 s.me.ctx.pc) :=
  (exec_bkpt ..).trans (guarded_true hg)

/-- Outside a handler there is no trap to return from (R258). -/
theorem exec_eret_outside (h : s.me.ctx.tm = false) : exec (.eret g) s = .next (s.trapAt 0x01 (infoWord (.eret g))) := by
  rw [exec_eret, execEret]
  by_cases hr : s.me.ctx.rep.count = 0
  · rw [noRep_go hg hr, h]
    rfl
  · exact noRep_held hg hr

/-- The last instruction of a handler retires and goes back; without a debugger no step boundary follows (R136). -/
theorem exec_eret_returns (hr : s.me.ctx.rep.count = 0) (ht : s.me.ctx.tm = true) (hd : s.me.ctx.dbg.getLsbD 0 = false) :
    exec (.eret g) s = .next (s.mapCtx fun c => (c.retire s.time).returnTrap) := by
  have ha : s.me.ctx.attached = false := hd
  rw [exec_eret, execEret, noRep_go hg hr, ht, ha]
  rfl

end

/-- Settles O28: TRAP and BKPT by how a retiring instruction traps, ERET by what a return leaves of the context. -/
theorem trapsAndReturn : Obligations.TrapsAndReturn := by
  unfold Obligations.TrapsAndReturn
  intro s g n hg
  refine ⟨exec_trap_eq hg n, exec_bkpt_eq hg, fun h => ?_, fun hr ht hd => ?_⟩
  · rcases h with ht | hr
    · exact exec_eret_outside hg ht
    · exact (exec_eret ..).trans (noRep_held hg hr)
  · exact ⟨_, exec_eret_returns hg hr ht hd, rfl, rfl, rfl, rfl, rfl, rfl, rfl, rfl, rfl, rfl, rfl, rfl, rfl, rfl⟩

end Sys2Proof.Machine

end

/-!
SUPPORT. TLBINV (R260) and the retention registers (R102, R103, R253).
-/
section

namespace Sys2Proof.Machine

/-! ## TLBINV -/

/-- The acting task's mill holds no entry of the page of an address. -/
def State.tlbDropped (s : State) (va : Word) : State :=
  s.setMill s.me.mill { s.mill s.me.mill with tlb := (s.mill s.me.mill).tlb.filter fun e => !e.hits s.me.id.fn va }

theorem tlbDropped_misses (s : State) (va : Word) :
    ∀ e ∈ ((s.tlbDropped va).mill s.me.mill).tlb, e.hits s.me.id.fn va = false := by
  intro e he
  rw [State.tlbDropped, mill_setMill] at he
  simpa using (List.mem_filter.1 he).2

theorem tlbDropped_mill (s : State) (va : Word) {m : Nat} (h : m ≠ s.me.mill) : (s.tlbDropped va).mill m = s.mill m :=
  aget_aset_ne _ _ _ h

theorem exec_tlbinv_eq {s : State} {g : Guard} {a : BitVec 5} (hg : s.me.ctx.guardTrue g = true) (ha : s.SrcReady a) :
    exec (.tlbinv g a) s =
      .next (((if canonical (s.src a) then s.tlbDropped (s.src a) else s).popSrcs [a]).retireTo (s.me.ctx.pc + 4)) := by
  rw [exec_tlbinv, execTlbinv, gated_src hg ha]
  dsimp only
  split <;> rfl

/-! ## Retention registers -/

/-- The lines that a retention register pinned are pinned no longer (R103). -/
theorem rsvUnpin_pins (s : State) (fn n : Nat) :
    ∀ x ∈ (s.rsvUnpin fn n).rsv, ∀ l ∈ x.2, l.fn = fn → l.pin ≠ some n := by
  intro x hx l hl hfn
  obtain ⟨y, -, rfl⟩ := List.mem_map.1 hx
  obtain ⟨k, -, rfl⟩ := List.mem_map.1 hl
  split at hfn <;> rename_i h
  · simp [h]
  · rw [if_neg h]
    intro hp
    simp [hfn, hp] at h

theorem setRetain_eq (s : State) (fn : Nat) {n : Nat} (h : n < 16) (b l : Word) :
    s.setRetain fn n b l = s.setFn fn { s.fn fn with retain := (s.fn fn).retain.set n (b, l) h } := dif_pos h

/-- Bits 56:16 of an address, as RSVLIM holds them. -/
theorem retain_limit (w : Word) :
    BitVec.ofNat 64 (bitsAt w 16 41 * 2 ^ 16) = (0#7 ++ w.extractLsb' 16 41 ++ 0#16 : BitVec 64) := by
  apply BitVec.eq_of_toNat_eq
  have hw : bitsAt w 16 41 < 2 ^ 41 := Nat.mod_lt _ (by decide)
  simp only [toNat_append_add, toNat_slice, BitVec.toNat_ofNat]
  omega

/-- RSVBASE has VALID beside them. -/
theorem retain_base (w : Word) :
    BitVec.ofNat 64 (bitsAt w 16 41 * 2 ^ 16 + 1) = (0#7 ++ w.extractLsb' 16 41 ++ 1#16 : BitVec 64) := by
  apply BitVec.eq_of_toNat_eq
  have hw : bitsAt w 16 41 < 2 ^ 41 := Nat.mod_lt _ (by decide)
  simp only [toNat_append_add, toNat_slice, BitVec.toNat_ofNat]
  omega

theorem setBit_valid (w : Word) : setBit w 0 false = w &&& ~~~1 := by
  simp [setBit, setBits]

section

variable {s : State} {g : Guard} (hg : s.me.ctx.guardTrue g = true)

include hg

/-- RSVPIN by what its three sources hold (R253). -/
theorem exec_rsvpin_eq {d a b : BitVec 5} (hs : ∀ r ∈ [d, a, b], s.SrcReady r) : exec (.rsvpin g d a b) s =
    if 16 ≤ (s.src d).toNat ∨ canonical (s.src a) = false ∨ canonical (s.src b) = false ∨
        bitsAt (s.src b) 16 41 < bitsAt (s.src a) 16 41 then .next (s.trapAt 0x01 (infoWord (.rsvpin g d a b)))
    else done (.rsvpin g d a b) ((s.rsvUnpin s.me.id.fn (s.src d).toNat).setRetain s.me.id.fn (s.src d).toNat
      (0#7 ++ (s.src a).extractLsb' 16 41 ++ 1#16 : BitVec 64) (0#7 ++ (s.src b).extractLsb' 16 41 ++ 0#16 : BitVec 64)) [d, a, b] := by
  rw [exec_rsvpin, execRsvpin, gated_go hg (gate_src _ false hs), ← retain_base, ← retain_limit]
  refine if_congr ?_ rfl rfl
  simp only [Bool.or_eq_true, decide_eq_true_eq, Bool.not_eq_true', or_assoc]

theorem exec_rsvunpin_eq {a : BitVec 5} (ha : s.SrcReady a) {n : Nat} (h : n < 16) (hn : (s.src a).toNat = n) :
    exec (.rsvunpin g a) s = done (.rsvunpin g a) ((s.rsvUnpin s.me.id.fn n).setRetain s.me.id.fn n
      (((s.fn s.me.id.fn).retain[n]).1 &&& ~~~1) ((s.fn s.me.id.fn).retain[n]).2) [a] := by
  subst hn
  rw [exec_rsvunpin, execRsvunpin, gated_src hg ha, ← setBit_valid]
  exact dif_pos h

theorem exec_rsvunpin_none {a : BitVec 5} (ha : s.SrcReady a) (h : 16 ≤ (s.src a).toNat) :
    exec (.rsvunpin g a) s = .next (s.trapAt 0x01 (infoWord (.rsvunpin g a))) := by
  rw [exec_rsvunpin, execRsvunpin, gated_src hg ha]
  exact dif_neg (Nat.not_lt.2 h)

end

/-- Settles O31: TLBINV by the entries it drops, RSVPIN and RSVUNPIN by the lines unpinned and the register written. -/
theorem translationAndRetention : Obligations.TranslationAndRetention := by
  unfold Obligations.TranslationAndRetention
  rintro s g d a b pc hg rfl hd ha hb
  have hs : ∀ r ∈ [d, a, b], s.SrcReady r := by simp [hd, ha, hb]
  refine ⟨?_, fun n h hn ca cb hle => ?_, fun h => ?_, fun n h hn => ?_, exec_rsvunpin_none hg ha⟩
  · refine ⟨_, exec_tlbinv_eq hg ha, ?_⟩
    cases hc : canonical (s.src a) with
    | false => exact ⟨rfl, fun _ => rfl, nofun, fun _ _ => rfl⟩
    | true => exact ⟨rfl, nofun, fun _ => tlbDropped_misses s _, fun m hm => tlbDropped_mill s _ hm⟩
  · subst hn
    rw [toNat_slice, toNat_slice] at hle
    rw [exec_rsvpin_eq hg hs, if_neg (by simp [ca, cb, Nat.not_le.2 h, Nat.not_lt.2 hle]), setRetain_eq _ _ h]
    exact ⟨_, rfl, rsvUnpin_pins s _ _, rfl⟩
  · rw [toNat_slice, toNat_slice] at h
    rw [exec_rsvpin_eq hg hs, if_pos h]
  · rw [exec_rsvunpin_eq hg ha h hn, setRetain_eq _ _ h]
    exact ⟨_, rfl, rsvUnpin_pins s _ _, rfl, rfl, congrArg Fn.retain (fn_setFn ..)⟩

end Sys2Proof.Machine

end

/-!
SUPPORT. Channel registers bound and unbound (R245, R246, R352), and the channel that closing a consumer end leaves (R156).
-/
section

namespace Sys2Proof.Machine

/-! ## Bindings -/

theorem binding_setBind_self (c : Ctx) {d : BitVec 5} (hd : 28 ≤ d.toNat) (b : Option Binding) : (c.setBind d b).binding d = b := by
  simp [Ctx.binding, Ctx.setBind, hd]

theorem binding_setBind_ne (c : Ctx) {d r : BitVec 5} (hd : 28 ≤ d.toNat) (b : Option Binding) (h : r ≠ d) :
    (c.setBind d b).binding r = c.binding r := by
  unfold Ctx.binding Ctx.setBind
  split
  · rename_i hr
    refine Vector.getElem_set_ne (xs := c.bind) (d.setWidth 2).isLt (r.setWidth 2).isLt fun he => h (BitVec.eq_of_toNat_eq ?_)
    have h1 := r.isLt
    have h2 := d.isLt
    simp only [BitVec.toNat_setWidth] at he
    omega
  · rfl

/-- A channel has an end bound where some register names it. -/
theorem hasBound_iff (c : Ctx) (ch : BitVec 12) : c.hasBound ch = true ↔ ∃ r b, c.binding r = some b ∧ b.ch = ch := by
  unfold Ctx.hasBound
  rw [List.any_eq_true]
  constructor
  · rintro ⟨o, ho, hb⟩
    cases o with
    | none => exact absurd hb nofun
    | some b =>
      obtain ⟨i, hi, hget⟩ := List.mem_iff_getElem.1 ho
      have hi4 : i < 4 := hi.trans_eq c.bind.size_toArray
      refine ⟨BitVec.ofNat 5 (28 + i), b, ?_, of_decide_eq_true hb⟩
      have h1 : (BitVec.ofNat 5 (28 + i)).toNat = 28 + i := by rw [BitVec.toNat_ofNat]; omega
      have h2 : ((BitVec.ofNat 5 (28 + i)).setWidth 2).toNat = i := by rw [BitVec.toNat_setWidth, h1]; omega
      simp only [Ctx.binding, h1, h2, Nat.le_add_right, if_true, ← hget]
      rfl
  · rintro ⟨r, b, hb, rfl⟩
    unfold Ctx.binding at hb
    split at hb
    · exact ⟨some b, hb ▸ List.getElem_mem .., beq_self_eq_true b.ch⟩
    · exact absurd hb nofun

/-! ## CHBIND -/

theorem endOf_consumer {c : Chan} {t : TaskId} (hp : c.peer = 0) (hc : c.ctask = t.idx) : c.endOf t = some true := by
  simp [Chan.endOf, hp, hc]

theorem endOf_producer {c : Chan} {t : TaskId} (hp : c.peer = 0) (hc : c.ctask ≠ t.idx) (h : c.ptask = t.idx ∨ c.ptask = 0xFFFFFFFF) :
    c.endOf t = some false := by
  rcases h with h | h <;> simp [Chan.endOf, hp, hc, h]

section

variable {s : State} {g : Guard} {d : BitVec 5} {ch : BitVec 12} (hg : s.me.ctx.guardTrue g = true)

include hg

theorem exec_chbind_absent (h : s.myChan ch = none) :
    exec (.chbind g d ch) s = .next (s.trapAt 0x01 (infoWord (.chbind g d ch))) := by
  rw [exec_chbind, execChbind, guarded_true hg, h]
  rfl

/-- What cannot be bound: a register or a channel bound already, a HALO entry, and a channel with no end for the task. -/
theorem exec_chbind_refused {x : Chan} (hx : s.myChan ch = some x) (h : (s.me.ctx.binding d).isSome = true ∨ x.halo = true ∨
    x.endOf s.me.id = none ∨ s.me.ctx.hasBound ch = true) :
    exec (.chbind g d ch) s = .next (s.trapAt 0x01 (infoWord (.chbind g d ch))) := by
  rw [exec_chbind, execChbind, guarded_true hg, hx]
  dsimp only
  cases he : x.endOf s.me.id with
  | none => rfl
  | some e =>
    refine if_pos ?_
    rcases h with h | h | h | h
    · simp [h]
    · simp [h]
    · exact absurd (he.symm.trans h) nofun
    · simp [h]

theorem exec_chbind_binds {x : Chan} {e : Bool} (hx : s.myChan ch = some x) (hd : s.me.ctx.binding d = none) (hh : x.halo = false)
    (he : x.endOf s.me.id = some e) (hb : s.me.ctx.hasBound ch = false) : exec (.chbind g d ch) s =
      .next ((s.mapCtx fun c => c.setBind d (some ⟨ch, e⟩)).retireTo (s.me.ctx.pc + 4)) := by
  rw [exec_chbind, execChbind, guarded_true hg, hx]
  dsimp only
  rw [he]
  refine if_neg ?_
  simp [hd, hh, hb]

/-! ## CHCLOSE -/

theorem exec_chclose_plain (h : s.me.ctx.binding d = none) : exec (.chclose g d) s = .next (s.retireTo (s.me.ctx.pc + 4)) := by
  rw [exec_chclose, execChclose, guarded_true hg, h]
  rfl

end

/-- Telling the peer leaves a channel but for its count of messages. -/
theorem tellClosed_myChan {s : State} {c x : Chan} {ch : BitVec 12} (hx : s.myChan ch = some x) :
    ∃ n, (s.tellClosed c).myChan ch = some { x with sent := n } := by
  unfold State.tellClosed
  split
  · split
    · exact ⟨x.sent, hx⟩
    · split
      · exact ⟨x.sent, hx⟩
      · refine ⟨if x.fn == c.fn && x.blk == c.blk && x.ch == c.ch then x.sent + 1 else x.sent, ?_⟩
        refine (find?_map_ite (f := fun y : Chan => { y with sent := y.sent + 1 }) hx fun y => rfl).trans (congrArg some ?_)
        split <;> rfl
  · obtain ⟨hc, -⟩ := (stored_linkFault s c.fn c.peer).disposed
    refine ⟨x.sent, ?_⟩
    rw [State.myChan, linkFault_me, chan?_of_chans hc]
    exact hx

/-- A channel that has been closed holds no word and no message. -/
def Chan.shut (c : Chan) : Chan :=
  { c with closed := true, buf := [], spill := [], wire := [], msgs := [], msgWire := [], fullSince := none }

/-- A consumer end of the acting task's node is found as its closing leaves it (R156). -/
theorem closeConsumer_myChan {s : State} {x : Chan} {ch : BitVec 12} (hx : s.myChan ch = some x) :
    ∃ n, (s.closeConsumer x).myChan ch = some { x.shut with sent := n } := by
  unfold State.closeConsumer
  dsimp only
  generalize hu : (s.mapChan x.fn x.blk x.ch _).spillReturn x.fn x.blk _ = u
  have hux : u.myChan ch = some x.shut := by
    rw [← hu]
    exact myChan_mapChan (f := Chan.shut) hx fun _ => ⟨rfl, rfl, rfl⟩
  obtain ⟨hc, k, d, hm⟩ : u.Disposed ((u.discard x (x.buf ++ x.spill ++ x.wire)).discardMsg x
      (sumNat ((x.msgs ++ x.msgWire).map fun (m : HaloMsg) => msgWords m.bytes.length))) :=
    (disposed_discardFrom ..).trans (disposed_discardMsg ..)
  refine tellClosed_myChan (x := x.shut) ?_
  rw [State.myChan, hm, chan?_of_chans hc]
  exact hux

/-- CHCLOSE of a register bound to an end closes a consumer end that is open (R246). -/
def State.endClosed (s : State) (b : Binding) : State :=
  match s.myChan b.ch with
  | some c => if b.consumer && !c.closed then s.closeConsumer c else s
  | none => s

theorem endClosed_me (s : State) (b : Binding) :
    ∃ k d, (s.endClosed b).me = { s.me with ctx := { s.me.ctx with ctrs := k }, det := d } := by
  unfold State.endClosed
  split
  · split
    · exact (closeConsumer_frame ..).1
    · exact ⟨s.me.ctx.ctrs, s.me.det, rfl⟩
  · exact ⟨s.me.ctx.ctrs, s.me.det, rfl⟩

theorem endClosed_producer (s : State) {b : Binding} (h : b.consumer = false) : s.endClosed b = s := by
  unfold State.endClosed
  split
  · simp [h]
  · rfl

theorem endClosed_consumer {s : State} {b : Binding} {x : Chan} (h : b.consumer = true) (hx : s.myChan b.ch = some x)
    (ho : x.closed = false) : s.endClosed b = s.closeConsumer x := by
  simp [State.endClosed, hx, h, ho]

theorem exec_chclose_bound {s : State} {g : Guard} {d : BitVec 5} {b : Binding} (hg : s.me.ctx.guardTrue g = true)
    (hb : s.me.ctx.binding d = some b) : exec (.chclose g d) s =
      .next (((s.endClosed b).mapCtx fun c => (c.setBind d none).wg d 0).retireTo (s.me.ctx.pc + 4)) := by
  obtain ⟨k, x, hm⟩ := endClosed_me s b
  have hpc : (((s.endClosed b).me.ctx.setBind d none).wg d 0).pc = s.me.ctx.pc := by
    rw [wg_frame, hm]
    rfl
  rw [← hpc, exec_chclose, execChclose, guarded_true hg, hb]
  rfl

/-- Settles O26: CHBIND by what the register and the channel are, CHCLOSE by the end it closes. -/
theorem channelBinding : Obligations.ChannelBinding := by
  unfold Obligations.ChannelBinding
  rintro s g d ch pc hg rfl hd
  refine ⟨exec_chbind_absent hg, fun x hx => ⟨fun h => ?_, fun e hn hh he hb => ?_, endOf_consumer, endOf_producer⟩,
    exec_chclose_plain hg, fun b hb => ?_⟩
  · rw [← hasBound_iff] at h
    exact exec_chbind_refused hg hx h
  · have hfree : s.me.ctx.hasBound ch = false := Bool.eq_false_iff.2 fun h => by
      obtain ⟨r, b, hr, hc⟩ := (hasBound_iff ..).1 h
      exact hb r b hr hc
    exact ⟨_, exec_chbind_binds hg hx hn hh he hfree, rfl, rfl, binding_setBind_self _ hd _,
      fun r hr => binding_setBind_ne _ hd _ hr⟩
  · refine ⟨_, exec_chclose_bound hg hb, ?_, ?_, fun hc => ?_, fun hc x hx ho => ?_⟩
    · rw [mapCtx_me, wg_frame]
      exact binding_setBind_self (s.endClosed b).me.ctx hd none
    · refine (rg_wg ..).trans ?_
      rw [if_pos rfl, ite_self]
    · rw [endClosed_producer s hc]
      rfl
    · obtain ⟨n, hn⟩ := closeConsumer_myChan hx
      rw [endClosed_consumer hc hx ho]
      exact ⟨_, hn, rfl, rfl, rfl⟩

end Sys2Proof.Machine

end

/-!
SUPPORT. Handles in registers: the checks of a handle operand, what a handle's copy, its drop and its way through a channel leave
(R109, R124, R230, R232, R234 to R238).
-/
section

namespace Sys2Proof.Machine

/-! ## Handle registers -/

theorem rh_wh_self (c : Ctx) (r : BitVec 3) (v : BitVec 128) : (c.wh r v).rh r = v := Vector.getElem_set_self ..

/-! ## Handle operands (R109, R230) -/

section

variable {s : State} {a d : BitVec 5}

theorem withHandle_ok {h : BitVec 128} (hh : h = s.me.ctx.rh (low3 a)) (ok : handleOk s h = true) (k : BitVec 128 → State → Res) :
    withHandle s a k = k h s := by
  subst hh
  exact if_pos ok

theorem withHandle_bad (bad : handleOk s (s.me.ctx.rh (low3 a)) = false) (k : BitVec 128 → State → Res) :
    withHandle s a k = .next (s.trapAt 0x07 ((low3 a).setWidth 64)) := if_neg (Bool.eq_false_iff.1 bad)

theorem intoFree_free (h : hLive (s.me.ctx.rh (low3 d)) = false) (k : State → Res) : intoFree s d k = k s :=
  if_neg (Bool.eq_false_iff.1 h)

theorem intoFree_live (h : hLive (s.me.ctx.rh (low3 d)) = true) (k : State → Res) :
    intoFree s d k = .next (s.trapAt 0x07 ((low3 d).setWidth 64)) := if_pos h

theorem handleOk_live {h : BitVec 128} (ok : handleOk s h = true) : hLive h = true := by
  unfold handleOk at ok
  simp only [Bool.and_eq_true] at ok
  exact ok.1.1

/-- No handle has kind 0. -/
theorem handleOk_kind {h : BitVec 128} (hk : h.extractLsb' 64 2 = 0) : handleOk s h = false := by
  have h0 : hKind h = 0 := congrArg BitVec.toNat hk
  simp [handleOk, hLive, h0]

theorem handleOk_check {h : BitVec 128} (hc : h.extractLsb' 80 48 ≠ Config.handleCheck (h.extractLsb' 0 80)) :
    handleOk s h = false := by
  have hn : (hCheck h == Config.handleCheck (h.extractLsb' 0 80)) = false := beq_eq_false_iff_ne.2 hc
  simp [handleOk, hn]

end

/-- An instruction without literals and sources retires from a state that has kept PC. -/
theorem done_eq {i : Instr} {s u : State} (hl : i.lits = 0) (hpc : u.me.ctx.pc = s.me.ctx.pc) :
    done i u [] = .next (u.retireTo (s.me.ctx.pc + 4)) := by
  rw [done, nextPc_zero hl, hpc]
  rfl

/-! ## SLMAP (R232) -/

/-- A slot of the window maps the object of a handle, under its kind. -/
def Task.maps (t : Task) (h : BitVec 128) : Option WinSlot :=
  t.window.find? fun w => w.obj == hObj h && w.pkg == hPkg h && w.gen == hGen h && w.fill == (hKind h == 1)

theorem slotFor_mapped {t : Task} {h : BitVec 128} {w : WinSlot} (hw : t.maps h = some w) : t.slotFor h = some w.slot := by
  unfold Task.maps at hw
  simp only [Task.slotFor, hw]

theorem slot_free_iff (t : Task) (k : Nat) : (!t.window.any fun w => w.slot == k) = true ↔ ∀ w ∈ t.window, w.slot ≠ k := by
  simp

/-- The lowest free slot of the window. -/
theorem slotFor_free {t : Task} {h : BitVec 128} {k : Nat} (hw : t.maps h = none) (hk : k < 256) (hf : ∀ w ∈ t.window, w.slot ≠ k)
    (hl : ∀ j, j < k → ∃ w ∈ t.window, w.slot = j) : t.slotFor h = some k := by
  unfold Task.maps at hw
  simp only [Task.slotFor, hw]
  refine List.find?_range_eq_some.2 ⟨(slot_free_iff t k).2 hf, List.mem_range.2 hk, fun j hj => ?_⟩
  obtain ⟨w, hw, rfl⟩ := hl j hj
  simpa using ⟨w, hw, rfl⟩

theorem slotFor_full {t : Task} {h : BitVec 128} (hw : t.maps h = none) (hf : ∀ k, k < 256 → ∃ w ∈ t.window, w.slot = k) :
    t.slotFor h = none := by
  unfold Task.maps at hw
  simp only [Task.slotFor, hw, List.find?_eq_none]
  intro k hk
  rw [slot_free_iff]
  obtain ⟨w, hw, rfl⟩ := hf k (List.mem_range.1 hk)
  exact fun h => h w hw rfl

theorem slotBase_eq (k : Nat) : slotBase k = 0xFFFFFE0000000000 + BitVec.ofNat 64 k * 0x1000000 := by
  rw [slotBase, BitVec.ofNat_add, BitVec.ofNat_mul]
  rfl

theorem mapSlot_new {t : Task} {h : BitVec 128} {k : Nat} (hf : ∀ w ∈ t.window, w.slot ≠ k) :
    t.mapSlot h k = { t with window := t.window ++ [⟨k, hObj h, hPkg h, hGen h, hKind h == 1⟩] } := by
  have hn := (slot_free_iff t k).2 hf
  rw [Bool.not_eq_true'] at hn
  simp only [Task.mapSlot, hn, Bool.false_eq_true, if_false]

section

variable {s : State} {g : Guard} {d a : BitVec 5} {h : BitVec 128} (hg : s.me.ctx.guardTrue g = true) (hd : s.DstReady d)

include hg hd

theorem exec_slmap_slot (hh : h = s.me.ctx.rh (low3 a)) (ok : handleOk s h = true) {k : Nat} (hk : s.me.slotFor h = some k) :
    exec (.slmap g d a) s = .next (((s.mapMe fun t => t.mapSlot h k).putG d (slotBase k)).retireTo (s.me.ctx.pc + 4)) := by
  have hpc : (s.mapMe fun t => t.mapSlot h k).me.ctx.pc = s.me.ctx.pc := by
    rw [mapMe_me, Task.mapSlot]
    split <;> rfl
  rw [exec_slmap, execSlmap, gated_dst hg hd, withHandle_ok hh ok, hk]
  dsimp only
  rw [doneG, nextPc_zero rfl, hpc]
  rfl

theorem exec_slmap_full (hh : h = s.me.ctx.rh (low3 a)) (ok : handleOk s h = true) (hk : s.me.slotFor h = none) :
    exec (.slmap g d a) s = .next (s.trapAt 0x18 12) := by
  rw [exec_slmap, execSlmap, gated_dst hg hd, withHandle_ok hh ok, hk]
  rfl

end

/-! ## SLDUP and HMOV (R234, R236) -/

/-- A see handle is held once more: in its object's count, or by a message to the object's package. -/
def State.heldMore (s : State) (h : BitVec 128) : State :=
  if hPkg h = s.wh.pkg then s.mapObj (hObj h) fun o => { o with handles := o.handles + 1 }
  else s.sendPkg (hPkg h) s.me.ctx.clock (.hold (BitVec.ofNat 40 (hObj h)) s.wh.pkg 1)

theorem heldMore_me (s : State) (h : BitVec 128) : (s.heldMore h).me = s.me := by
  unfold State.heldMore
  split
  · rfl
  · exact sendPkg_me ..

section

variable {s : State} {g : Guard} {d a : BitVec 5} {h : BitVec 128} (hg : s.me.ctx.guardTrue g = true)

include hg

theorem exec_sldup_copies (hh : h = s.me.ctx.rh (low3 a)) (ok : handleOk s h = true) (hd : hLive (s.me.ctx.rh (low3 d)) = false)
    (hk : hKind h = 2) (hr : (hRights h).getLsbD 3 = true) :
    exec (.sldup g d a) s = .next (((s.heldMore h).mapCtx fun c => c.wh (low3 d) h).retireTo (s.me.ctx.pc + 4)) := by
  rw [exec_sldup, execSldup, guarded_true hg, intoFree_free hd, withHandle_ok hh ok]
  refine (if_neg (by simp [hk, hr])).trans (done_eq rfl ?_)
  exact (congrArg (fun t : Task => t.ctx.pc) (heldMore_me s h) :)

/-- SLDUP of a fill handle, of one without the duplicate right and of what is no handle names the source (R234). -/
theorem exec_sldup_bad (hd : hLive (s.me.ctx.rh (low3 d)) = false) (hb : handleOk s (s.me.ctx.rh (low3 a)) = false ∨
    hKind (s.me.ctx.rh (low3 a)) = 1 ∨ (hRights (s.me.ctx.rh (low3 a))).getLsbD 3 = false) :
    exec (.sldup g d a) s = .next (s.trapAt 0x07 ((low3 a).setWidth 64)) := by
  rw [exec_sldup, execSldup, guarded_true hg, intoFree_free hd]
  cases ok : handleOk s (s.me.ctx.rh (low3 a)) with
  | false => exact withHandle_bad ok _
  | true =>
    rw [withHandle_ok rfl ok]
    refine if_pos ?_
    rcases hb with hb | hb | hb
    · exact absurd (ok.symm.trans hb) nofun
    · simp [hb]
    · rw [hb, Bool.not_false, Bool.or_true]

theorem exec_hmov_moves (hh : h = s.me.ctx.rh (low3 a)) (ok : handleOk s h = true) (hd : hLive (s.me.ctx.rh (low3 d)) = false)
    (hne : low3 d ≠ low3 a) : exec (.hmov g d a) s =
      .next ((s.mapCtx fun c => (c.wh (low3 d) h).wh (low3 a) 0).retireTo (s.me.ctx.pc + 4)) := by
  rw [exec_hmov, execHmov, guarded_true hg, if_neg hne, intoFree_free hd, withHandle_ok hh ok]
  rfl

theorem exec_hmov_self (hh : h = s.me.ctx.rh (low3 a)) (ok : handleOk s h = true) (he : low3 d = low3 a) :
    exec (.hmov g d a) s = .next (s.retireTo (s.me.ctx.pc + 4)) := by
  rw [exec_hmov, execHmov, guarded_true hg, if_pos he, withHandle_ok hh ok]
  rfl

theorem exec_hmov_bad (hd : hLive (s.me.ctx.rh (low3 d)) = false) (bad : handleOk s (s.me.ctx.rh (low3 a)) = false) :
    exec (.hmov g d a) s = .next (s.trapAt 0x07 ((low3 a).setWidth 64)) := by
  rw [exec_hmov, execHmov, guarded_true hg]
  by_cases he : low3 d = low3 a
  · rw [if_pos he, withHandle_bad bad]
  · rw [if_neg he, intoFree_free hd, withHandle_bad bad]

end

/-! ## SLDROP (R124, R131, R235) -/

theorem le_foldl_max {α : Type} (f : Nat → α → Nat) (hf : ∀ m x, m ≤ f m x) (l : List α) (m : Nat) : m ≤ l.foldl f m := by
  induction l generalizing m with
  | nil => exact le_refl m
  | cons x l ih => exact (hf m x).trans (ih _)

/-- A fold of a maximum reaches what any of its steps reaches. -/
theorem lt_foldl_of_mem {α : Type} (f : Nat → α → Nat) (hf : ∀ m x, m ≤ f m x) {n : Nat} {x : α} (hx : ∀ m, n < f m x) {l : List α}
    (hl : x ∈ l) (m : Nat) : n < l.foldl f m := by
  induction l generalizing m with
  | nil => exact absurd hl List.not_mem_nil
  | cons y l ih =>
    rcases List.mem_cons.1 hl with rfl | hl
    · exact (hx m).trans_le (le_foldl_max f hf l _)
    · exact ih hl _

theorem aget_mem {α : Type} (d : α) (l : List (Nat × α)) (i : Nat) : aget d l i = d ∨ (i, aget d l i) ∈ l := by
  induction l with
  | nil => exact .inl rfl
  | cons c l ih =>
    obtain ⟨k, v⟩ := c
    by_cases h : k = i
    · exact .inr (by simp [aget, h])
    · rcases ih with ih | ih
      · exact .inl (by simp [aget, h, ih])
      · refine .inr ?_
        simp only [aget, if_neg h]
        exact List.mem_cons_of_mem _ ih

theorem wholeTime_grows (k n m : Nat) (x : Nat × Nat × Nat) :
    m ≤ if decide (lineOf k ≤ x.1) && decide (x.1 ≤ lineOf (k + n - 1)) then max m (max (x.2.1 + 1) (x.2.2 + 1)) else m := by
  split
  · exact le_max_left ..
  · exact le_refl m

/-- A store over a whole range comes after its party's clock. -/
theorem le_wholeTime (s : State) (k n c : Nat) : c ≤ (wholeTime s k n c).1 ∧ 1 ≤ (wholeTime s k n c).1 := by
  rw [← Nat.max_le]
  exact le_foldl_max _ (wholeTime_grows k n) s.lines _

/-- It comes after every access to a line of the range. -/
theorem lineTimes_lt_wholeTime (s : State) {k n j : Nat} (c : Nat) (h1 : k ≤ j) (h2 : j < k + n) :
    (lineTimes s.lines j).1 < (wholeTime s k n c).1 ∧ (lineTimes s.lines j).2 < (wholeTime s k n c).1 := by
  rcases aget_mem (0, 0) s.lines (lineOf j) with h | h
  · rw [lineTimes, h]
    exact ⟨(le_wholeTime s k n c).2, (le_wholeTime s k n c).2⟩
  · have hin : (decide (lineOf k ≤ lineOf j) && decide (lineOf j ≤ lineOf (k + n - 1))) = true := by
      rw [Bool.and_eq_true, decide_eq_true_iff, decide_eq_true_iff]
      exact ⟨Nat.div_le_div_right h1, Nat.div_le_div_right (by omega)⟩
    have hreach {t : Nat} (ht : t < max ((lineTimes s.lines j).1 + 1) ((lineTimes s.lines j).2 + 1)) : t < (wholeTime s k n c).1 := by
      refine lt_foldl_of_mem _ (wholeTime_grows k n) (fun m => ?_) h _
      rw [if_pos hin]
      exact lt_max_of_lt_right ht
    exact ⟨hreach (lt_max_of_lt_left (Nat.lt_succ_self _)), hreach (lt_max_of_lt_right (Nat.lt_succ_self _))⟩

/-- A published object that has handles beside the fill handle is found with one handle fewer. -/
theorem objPublish_obj? {s : State} {id c : Nat} {o : Obj} (ho : s.obj? id = some o) (hn : 1 < o.handles) :
    (s.objPublish id c).obj? id = some { o with
      st := if o.st = .filling then .published else o.st, td := dropTime s id c, handles := o.handles - 1 } := by
  have hid : (o.id == id) = true := List.find?_some (p := fun o : Obj => o.id == id) ho
  have hmap {u : State} {x : Obj} (f : Obj → Obj) (hx : u.obj? id = some x) (hxid : (x.id == id) = true) (hf : ∀ y, (f y).id = y.id) :
      (u.mapObj id f).obj? id = some (f x) := by
    refine (find?_map_ite hx fun y => by rw [hf]).trans (congrArg some (if_pos hxid))
  have hw : (wholeTime s (keyOf spSluice (id * 2 ^ 24)) (2 ^ 24) c).2.obj? id = some o := ho
  have h1 := hmap (fun o => { o with st := if o.st == .filling then .published else o.st, td := dropTime s id c }) hw hid fun _ => rfl
  unfold State.objPublish State.publishAt
  rw [hw]
  dsimp only
  have h2 := hmap (u := ((wholeTime s (keyOf spSluice (id * 2 ^ 24)) (2 ^ 24) c).2.mapObj id fun o => { o with
    st := if o.st == .filling then .published else o.st, td := dropTime s id c }).noteTime o.fn (dropTime s id c))
    (fun o => { o with handles := o.handles - 1 }) h1 hid fun _ => rfl
  unfold State.objDropOne
  dsimp only
  rw [h2]
  have hpos : o.handles - 1 ≠ 0 := by omega
  simp only [hpos, decide_false, Bool.false_and, Bool.false_eq_true, if_false]
  rw [h2]
  simp only [beq_iff_eq]

section

variable {s : State} {g : Guard} {a : BitVec 5} {h : BitVec 128} (hg : s.me.ctx.guardTrue g = true)
  (hh : h = s.me.ctx.rh (low3 a)) (ok : handleOk s h = true)

include hg hh ok

/-- A see handle that is dropped is disposed of. -/
theorem exec_sldrop_see (hk : hKind h = 2) : exec (.sldrop g a) s =
    .next (((s.disposeHandle h false s.me.ctx.clock).clearHandle a).retireTo (s.me.ctx.pc + 4)) := by
  rw [exec_sldrop, execSldrop, guarded_true hg, withHandle_ok hh ok]
  refine (if_neg (by simp [hk])).trans (done_eq rfl ?_)
  exact (congrArg (fun t : Task => t.ctx.pc) (disposeHandle_me s h false s.me.ctx.clock) :)

/-- A fill handle waits for the fills into its object. -/
theorem exec_sldrop_waits (hk : hKind h = 1) (hf : s.me.fillsInto (hObj h) = true) :
    exec (.sldrop g a) s = .next (s.waitOn (.fills (hObj h))) := by
  rw [exec_sldrop, execSldrop, guarded_true hg, withHandle_ok hh ok, hk, hf]
  rfl

theorem exec_sldrop_publishes (hk : hKind h = 1) (hf : s.me.fillsInto (hObj h) = false) (hd : s.me.eff.det = false) :
    exec (.sldrop g a) s = .next ((((s.objPublish (hObj h) s.me.ctx.clock).clearHandle a).mapCtx fun c =>
      { c with clock := dropTime s (hObj h) s.me.ctx.clock }).retireTo (s.me.ctx.pc + 4)) := by
  rw [exec_sldrop, execSldrop, guarded_true hg, withHandle_ok hh ok, hk, hf, hd]
  exact done_eq rfl (congrArg (fun t : Task => t.ctx.pc) (objPublish_me s (hObj h) s.me.ctx.clock) :)

theorem exec_sldrop_merges (hk : hKind h = 1) (hf : s.me.fillsInto (hObj h) = false) (hd : s.me.eff.det = true) :
    exec (.sldrop g a) s = .next (((s.mapMe fun t => { t with det := { t.det with drops := t.det.drops ++ [hObj h] } }).clearHandle
      a).retireTo (s.me.ctx.pc + 4)) := by
  rw [exec_sldrop, execSldrop, guarded_true hg, withHandle_ok hh ok, hk, hf, hd]
  rfl

end

/-- Settles O23: the checks of an operand, then what each of the four leaves, SLDROP by kind and mode. -/
theorem handleOperationsAndTraps : Obligations.HandleOperationsAndTraps := by
  unfold Obligations.HandleOperationsAndTraps
  refine ⟨?_, ?_⟩
  · rintro s g d a h pc hg hh ok rfl
    refine ⟨fun hd => ⟨fun w hw => ⟨exec_slmap_slot hg hd hh ok (slotFor_mapped hw), slotBase_eq _⟩,
      fun hn => ⟨fun k hk hf hl => ?_, fun hf => exec_slmap_full hg hd hh ok (slotFor_full hn hf)⟩⟩,
      exec_sldup_copies hg hh ok, fun hk hp => ?_, fun hk hp => ?_, exec_sldrop_waits hg hh ok, fun hk hf hd => ?_,
      fun hk hf hd => ⟨_, exec_sldrop_merges hg hh ok hk hf hd, rfl, rfl, rfl, rh_wh_self ..⟩,
      fun hne hd => exec_hmov_moves hg hh ok hd hne, exec_hmov_self hg hh ok⟩
    · rw [exec_slmap_slot hg hd hh ok (slotFor_free hn hk hf hl), slotBase_eq, State.mapMe, mapSlot_new hf]
    · rw [exec_sldrop_see hg hh ok hk, State.disposeHandle, if_pos hk, if_pos hp]
    · rw [exec_sldrop_see hg hh ok hk, State.disposeHandle, if_pos hk, if_neg hp]
    · exact ⟨_, (le_wholeTime ..).1, fun k h1 h2 => lineTimes_lt_wholeTime s _ h1 h2, exec_sldrop_publishes hg hh ok hk hf hd,
        fun o ho hn => objPublish_obj? ho hn⟩
  · intro s g d a hg hd
    refine ⟨fun bad => ⟨?_, ?_, fun hf => ⟨exec_sldup_bad hg hf (.inl bad), exec_hmov_bad hg hf bad⟩⟩, fun hl => ⟨?_, fun hne => ?_⟩,
      fun hf hb => exec_sldup_bad hg hf (.inr hb), fun _ => handleOk_kind, fun _ => handleOk_check⟩
    · rw [exec_slmap, execSlmap, gated_dst hg hd.dstReady, withHandle_bad bad]
    · rw [exec_sldrop, execSldrop, guarded_true hg, withHandle_bad bad]
    · rw [exec_sldup, execSldup, guarded_true hg, intoFree_live hl]
    · rw [exec_hmov, execHmov, guarded_true hg, if_neg hne, intoFree_live hl]

end Sys2Proof.Machine

end

/-!
SUPPORT. Handles on channels: SLXFER and HRECV (R237, R238).
-/
section

namespace Sys2Proof.Machine

/-! ## What is read of tables and channels does not depend on the acting task -/

section

variable (s : State) (t : Task)

theorem fn_withMe : State.fn { s with me := t } = s.fn := rfl

theorem tile_withMe : State.tile { s with me := t } = s.tile := rfl

theorem walkFrom_withMe : walkFrom { s with me := t } = walkFrom s := by
  funext fn va table ls
  induction ls generalizing table with
  | nil => rfl
  | cons l ls ih =>
    obtain ⟨sh, n, may, must⟩ := l
    simp only [walkFrom, ih]
    rfl

theorem walkTables_withMe : walkTables { s with me := t } = walkTables s := by
  unfold walkTables
  rw [walkFrom_withMe, fn_withMe]

theorem readBy_withMe : readBy { s with me := t } = readBy s := by
  unfold readBy
  rfl

theorem devLeaf_withMe : devLeaf { s with me := t } = devLeaf s := by
  unfold devLeaf leavesHome
  rw [fn_withMe, tile_withMe]

theorem noiseDesc_withMe : noiseDesc { s with me := t } = noiseDesc s := by
  unfold noiseDesc
  rw [walkTables_withMe, fn_withMe, devLeaf_withMe, readBy_withMe]

theorem walk_withMe : walk { s with me := t } = walk s := by
  unfold walk
  rw [walkTables_withMe, noiseDesc_withMe, fn_withMe]

theorem devRead_withMe : devRead { s with me := t } = devRead s := by
  unfold devRead devResolve
  rw [walk_withMe, devLeaf_withMe, readBy_withMe]

theorem devRead8_withMe : devRead8 { s with me := t } = devRead8 s := by
  unfold devRead8
  rw [devRead_withMe]

theorem linkEntry_withMe : linkEntry { s with me := t } = linkEntry s := by
  unfold linkEntry
  rw [devRead8_withMe, fn_withMe]

theorem checkHeader_withMe : State.checkHeader { s with me := t } = s.checkHeader := by
  unfold State.checkHeader State.chanTable State.splitTable
  rw [devRead8_withMe, devRead_withMe]

theorem foreseen_withMe : State.foreseen { s with me := t } = s.foreseen := by
  unfold State.foreseen
  rw [checkHeader_withMe]

theorem entryNames_withMe : State.entryNames { s with me := t } = s.entryNames := by
  unfold State.entryNames
  rw [linkEntry_withMe]

theorem consumerEnd_withMe : State.consumerEnd { s with me := t } = s.consumerEnd := by
  unfold State.consumerEnd
  rw [foreseen_withMe, entryNames_withMe]

/-- Whether a consumer end has closed does not depend on the acting task. -/
theorem consumerClosed_withMe : State.consumerClosed { s with me := t } = s.consumerClosed := by
  unfold State.consumerClosed State.joined
  rw [consumerEnd_withMe, linkEntry_withMe]

end

/-! ## SLXFER -/

section

variable {s : State} {g : Guard} {d a : BitVec 5} {e : Binding} {x : Chan} {h : BitVec 128} (hg : s.me.ctx.guardTrue g = true)

include hg

theorem exec_slxfer_unbound (hb : s.me.ctx.binding d = none) :
    exec (.slxfer g d a) s = .next (s.trapAt 0x01 (infoWord (.slxfer g d a))) := by
  rw [exec_slxfer, execSlxfer, guarded_true hg, hb]
  rfl

variable (hb : s.me.ctx.binding d = some e) (hx : s.myChan e.ch = some x)

include hb hx

theorem exec_slxfer_consumer (hc : e.consumer = true) :
    exec (.slxfer g d a) s = .next (s.trapAt 0x01 (infoWord (.slxfer g d a))) := by
  rw [exec_slxfer, execSlxfer, guarded_true hg, hb]
  dsimp only
  rw [hx]
  exact if_pos hc

/-- SLXFER of a good handle at a producer end: right, closed channel, fills and room in turn. -/
theorem exec_slxfer_producer (hc : e.consumer = false) (hh : h = s.me.ctx.rh (low3 a)) (ok : handleOk s h = true) :
    exec (.slxfer g d a) s =
      if !(hRights h).getLsbD 2 || (crossesLink s x && !(hRights h).getLsbD 4) then .next (s.trapAt 0x07 ((low3 a).setWidth 64))
      else if s.consumerClosed x && x.strict then .next (s.trapAt 0x0A (infoWord (.slxfer g d a)))
      else if hKind h = 1 && s.me.fillsInto (hObj h) then .next (s.waitOn (.fills (hObj h)))
      else if !s.consumerClosed x && !s.chanRoom x 2 then .next (s.waitOn (.chanRoom (d.setWidth 2) 2))
      else done (.slxfer g d a) ((s.clearHandle a).push e.ch (pairWords h s.me.ctx.clock)) [] := by
  rw [exec_slxfer, execSlxfer, guarded_true hg, hb]
  dsimp only
  rw [hx]
  refine (if_neg (Bool.eq_false_iff.1 hc)).trans ?_
  rw [withHandle_ok hh ok]
  rfl

end

/-- A handle that may be sent: it has the transfer right, and across a link the link right. -/
theorem mayTransfer {h : BitVec 128} {crosses : Bool} (h2 : (hRights h).getLsbD 2 = true)
    (h4 : crosses = true → (hRights h).getLsbD 4 = true) : (!(hRights h).getLsbD 2 || (crosses && !(hRights h).getLsbD 4)) = false := by
  rw [h2]
  cases crosses with
  | false => rfl
  | true => rw [h4 rfl]; rfl

theorem clearHandle_rh (s : State) (a : BitVec 5) : (s.clearHandle a).me.ctx.rh (low3 a) = 0 := rh_wh_self ..

/-- The pair goes behind the words on their way, and the register is clear. -/
theorem push_clearHandle {s : State} {a : BitVec 5} {ch : BitVec 12} {x : Chan} (hx : s.myChan ch = some x)
    (ho : s.consumerClosed x = false) (ws : List ChWord) :
    (((s.clearHandle a).push ch ws).objs = s.objs ∧ ((s.clearHandle a).push ch ws).me.ctx.rh (low3 a) = 0) ∧
      ((s.clearHandle a).push ch ws).me.ctx.pc = s.me.ctx.pc := by
  rw [push_open (s := s.clearHandle a) hx (by rw [State.clearHandle, State.mapMe, consumerClosed_withMe, ho])]
  exact ⟨⟨rfl, clearHandle_rh s a⟩, rfl⟩

/-! ## HRECV -/

section

variable {s : State} {g : Guard} {d a : BitVec 5} {e : Binding} {x : Chan} (hg : s.me.ctx.guardTrue g = true)

include hg

theorem exec_hrecv_unbound (hb : s.me.ctx.binding a = none) :
    exec (.hrecv g d a) s = .next (s.trapAt 0x01 (infoWord (.hrecv g d a))) := by
  rw [exec_hrecv, execHrecv, guarded_true hg, hb]
  rfl

variable (hb : s.me.ctx.binding a = some e)

include hb

theorem exec_hrecv_producer (hc : e.consumer = false) :
    exec (.hrecv g d a) s = .next (s.trapAt 0x01 (infoWord (.hrecv g d a))) := by
  rw [exec_hrecv, execHrecv, guarded_true hg, hb]
  dsimp only
  rw [hc]
  rfl

variable (hc : e.consumer = true) (hd : hLive (s.me.ctx.rh (low3 d)) = false) (hx : s.myChan e.ch = some x)

include hc hd hx

theorem exec_hrecv_empty (hf : x.front = []) : exec (.hrecv g d a) s = .next (s.waitOn (.chanWord (a.setWidth 2))) := by
  simp only [exec_hrecv, execHrecv, guarded_true hg, hb, hc, intoFree_free hd, hx, hf]
  rfl

theorem exec_hrecv_word {w : ChWord} {l : List ChWord} (hf : x.front = w :: l) (hw : w.handle = false) :
    exec (.hrecv g d a) s = .next (s.trapAt 0x07 ((low3 d).setWidth 64)) := by
  simp only [exec_hrecv, execHrecv, guarded_true hg, hb, hc, intoFree_free hd, hx, hf, hw]
  rfl

theorem exec_hrecv_pair {w v : ChWord} {l : List ChWord} (hf : x.front = w :: v :: l) (hw : w.handle = true) :
    exec (.hrecv g d a) s = .next ((((s.pop e.ch).pop e.ch).mapCtx fun c => c.wh (low3 d) (v.val ++ w.val)).retireTo
      (s.me.ctx.pc + 4)) := by
  obtain ⟨⟨k, h1⟩, -⟩ := pop_frame s e.ch
  obtain ⟨⟨j, h2⟩, -⟩ := pop_frame (s.pop e.ch) e.ch
  have hpc : (((s.pop e.ch).pop e.ch).mapCtx fun c => c.wh (low3 d) (v.val ++ w.val)).me.ctx.pc = s.me.ctx.pc := by
    rw [mapCtx_me, h2, h1]
    rfl
  simp only [exec_hrecv, execHrecv, guarded_true hg, hb, hc, intoFree_free hd, hx, hf, hw]
  exact done_eq rfl hpc

end

/-- Settles O24: SLXFER by its checks in turn, HRECV by the end and by what stands at its head. -/
theorem handlesOnChannels : Obligations.HandlesOnChannels := by
  unfold Obligations.HandlesOnChannels
  rintro s g d a e x h pc hg rfl hx
  refine ⟨fun hh hb => ⟨exec_slxfer_consumer hg hb hx, fun hc ok => ?_⟩, fun hb => ⟨exec_hrecv_producer hg hb, fun hc hd =>
    ⟨exec_hrecv_empty hg hb hc hd hx, fun w l => exec_hrecv_word hg hb hc hd hx, fun w v l => exec_hrecv_pair hg hb hc hd hx⟩⟩,
    exec_slxfer_unbound hg, exec_hrecv_unbound hg⟩
  rw [exec_slxfer_producer hg hb hx hc hh ok]
  refine ⟨fun hr => if_pos ?_, fun h2 h4 => ?_⟩
  · rcases hr with hr | ⟨hl, hr⟩
    · rw [hr]; rfl
    · rw [hl, hr, Bool.not_false, Bool.and_true, Bool.or_true]
  · rw [mayTransfer h2 h4]
    refine ⟨fun hcl hst => ?_, fun hcl hk hf => ?_, fun ho hf => ?_⟩
    · rw [hcl, hst]; rfl
    · have hns : (s.consumerClosed x && x.strict) = false := by
        cases hcc : s.consumerClosed x with
        | false => rfl
        | true => rw [hcl hcc]; rfl
      rw [hns, hk, hf]; rfl
    · have hnf : (decide (hKind h = 1) && s.me.fillsInto (hObj h)) = false := by
        by_cases hk : hKind h = 1
        · rw [hf hk, Bool.and_false]
        · rw [decide_eq_false hk, Bool.false_and]
      rw [ho, hnf]
      refine ⟨fun hr => by rw [hr]; rfl, fun hr => ?_⟩
      obtain ⟨⟨hobjs, hclear⟩, hpc⟩ := push_clearHandle (a := a) hx ho (pairWords h s.me.ctx.clock)
      rw [hr]
      exact ⟨_, done_eq rfl hpc, rfl, hobjs, hclear⟩

end Sys2Proof.Machine

end

/-!
SUPPORT. Flumes: the checks of FLNEW and what it leaves, FLAWAIT and FLREL (R44, R98, R111, R112, R242, R244).
-/
section

namespace Sys2Proof.Machine

/-! ## FLNEW -/

/-- The first check of FLNEW, field by field (R242). -/
theorem flWordOk_iff (v base : Word) : flWordOk v base = true ↔ (v.extractLsb' 0 32).toNat % 64 = 0 ∧ 64 ≤ (v.extractLsb' 0 32).toNat ∧
    (v.extractLsb' 0 32).toNat ≤ 65536 ∧ 1 ≤ (v.extractLsb' 32 16).toNat ∧ (v.extractLsb' 48 2).toNat ≤ 1 ∧
    v.extractLsb' 55 9 = 0 ∧ base.toNat % 64 = 0 := by
  rw [slice_eq_iff, toNat_slice, toNat_slice, toNat_slice]
  simp only [flWordOk, Bool.and_eq_true, beq_iff_eq, decide_eq_true_eq, and_assoc]
  rfl

theorem flStore_eq_one_iff (v : Word) : flStore v = 1 ↔ v.extractLsb' 48 2 = 1 := (slice_eq_iff (v := 1#2)).symm

theorem flStore_eq_zero_iff (v : Word) : flStore v = 0 ↔ v.extractLsb' 48 2 = 0 := (slice_eq_iff (v := 0#2)).symm

theorem flFits_iff (s : State) (n : Nat) :
    s.flFits n = true ↔ ∀ x ∈ s.lineage s.me.id.fn s.me.id.blk, x.useFl + n ≤ x.eff.flslots := by
  simp [State.flFits]

/-- The flume that FLNEW makes, empty. -/
def State.newFlume (s : State) (v base h : Word) : Flume where
  fn := s.me.id.fn
  hdr := h
  owner := s.me.id
  slotsz := flSlotsz v
  slots := flSlots v
  bank := if flStore v = 1 then some (s.me.mill, flBank v) else none
  base := base
  wr := 0
  rd := 0
  rd0 := 0
  wclk := 0
  pond := s.pondUnits s.me.id.fn base (flArea v base)
  gone := false

/-- The flume stands in the list, its header in memory, and its slots are charged (R44). -/
def State.flumeMade (s : State) (v base h : Word) : State :=
  (({ s with flumes := s.flumes ++ [s.newFlume v base h] } : State).hdrBlkPut s.me.id.fn s.me.id.blk h (flHeader s.me v
    base)).mapLineage s.me.id.fn s.me.id.blk fun x => { x with useFl := x.useFl + flSlots v }

theorem stored_hdrBlkPut (s : State) (fn : Nat) (blk va : Word) (bs : List Byte) : s.Stored (s.hdrBlkPut fn blk va bs) := by
  unfold State.hdrBlkPut
  refine (stored_captureAt s (fun st a => hdrResolve st fn a) fn blk va bs.length).trans ?_
  unfold State.hdrPut
  split
  · rename_i t h
    exact stored_writeBy h
  · exact stored_devFault ..

theorem flumes_hdrBlkPut (s : State) (fn : Nat) (blk va : Word) (bs : List Byte) : (s.hdrBlkPut fn blk va bs).flumes = s.flumes :=
  (congrArg State.flumes (stored_hdrBlkPut s fn blk va bs) :)

theorem flumeMade_me (s : State) (v base h : Word) : (s.flumeMade v base h).me = s.me :=
  hdrBlkPut_me { s with flumes := s.flumes ++ [s.newFlume v base h] } s.me.id.fn s.me.id.blk h (flHeader s.me v base)

theorem flumeMade_flumes (s : State) (v base h : Word) : (s.flumeMade v base h).flumes = s.flumes ++ [s.newFlume v base h] :=
  flumes_hdrBlkPut { s with flumes := s.flumes ++ [s.newFlume v base h] } s.me.id.fn s.me.id.blk h (flHeader s.me v base)

/-- The header of a new flume, doubleword by doubleword (R111). -/
theorem flHeader_eq (t : Task) (v base : Word) : flHeader t v base =
    leBytes 8 v.toNat ++ leBytes 8 (if v.extractLsb' 48 2 = 0 then base else 0).toNat ++
      leBytes 8 (if v.extractLsb' 48 2 = 1 then base else 0).toNat ++ leBytes 8 0 ++
      leBytes 8 (t.ctxid.toNat % 2 ^ 16) ++ List.replicate 24 0 := by
  simp only [flHeader, flStore_eq_one_iff, flStore_eq_zero_iff]
  rfl

section

variable {s : State} {g : Guard} {d a b : BitVec 5} (hg : s.me.ctx.guardTrue g = true) (ha : s.SrcReady a) (hb : s.SrcReady b)

include hg ha hb

/-- FLNEW, by its checks in order. -/
theorem exec_flnew_eq (hd : s.DstReady d) {v base : Word}
    (hv : v = s.src a) (hbase : base = s.src b) : exec (.flnew g d a b) s =
      if !flWordOk v base then .next (s.trapAt 0x01 (infoWord (.flnew g d a b)))
      else if flStore v = 1 && !s.flBankOk v then .next (s.trapAt 0x05 0)
      else (s.badPlain base (flArea v base)).elim
        (if !s.flFits (flSlots v) then .next (s.trapAt 0x18 2)
          else if !s.flPondFits (s.pondUnits s.me.id.fn base (flArea v base)) then .next (s.trapAt 0x18 1)
          else (s.freeHeader s.me.id.fn).elim (.next (s.trapAt 0x18 11)) fun h =>
            .next ((((s.flumeMade v base h).popSrcs [a, b]).putG d h).retireTo (s.me.ctx.pc + 4)))
        fun x => .next (s.trapAt 0x05 x) := by
  subst hv hbase
  rw [exec_flnew, execFlnew, gated_go hg (gate_ready _ (ready2 ha hb) hd)]
  refine if_congr Iff.rfl rfl (if_congr Iff.rfl rfl ?_)
  cases s.badPlain (s.src b) (flArea (s.src a) (s.src b)) with
  | some x => rfl
  | none =>
    refine if_congr Iff.rfl rfl (if_congr Iff.rfl rfl ?_)
    cases s.freeHeader s.me.id.fn with
    | none => rfl
    | some h =>
      have hpc := congrArg (fun t : Task => t.ctx.pc) (flumeMade_me s (s.src a) (s.src b) h)
      rw [Option.elim, ← hpc]
      rfl

/-! ## FLAWAIT and FLREL -/

theorem exec_flawait_eq {hdr : Word} {n : BitVec 32} (hh : hdr = s.src a) (hn : n = (s.src b).setWidth 32) : exec (.flawait g a b) s =
    if n = 0 then .next ((s.popSrcs [a, b]).retireTo (s.me.ctx.pc + 4))
    else (s.flume? s.me.id.fn hdr).elim (.next (s.trapAt 0x05 hdr)) fun f =>
      if f.owner ≠ s.me.id || f.slots < n.toNat then .next (s.trapAt 0x05 hdr)
      else if n.toNat ≤ f.filled.toNat then
        .next (((s.mapCtx fun c => { c with clock := max c.clock f.wclk }).popSrcs [a, b]).retireTo (s.me.ctx.pc + 4))
      else .next (s.waitOn (.flumeSlots hdr n)) := by
  subst hh hn
  rw [exec_flawait, execFlawait, gated_go hg (gate_src _ false (ready2 ha hb))]
  refine if_congr Iff.rfl rfl ?_
  cases s.flume? s.me.id.fn (s.src a) <;> rfl

/-- RD of a flume moves on, in its header too. -/
def State.flReleased (s : State) (f : Flume) (n : BitVec 32) : State :=
  (s.mapFlume f.fn f.hdr fun _ => { f with rd := f.rd + n }).writeCounts { f with rd := f.rd + n }

theorem exec_flrel_eq {hdr : Word} {n : BitVec 32} (hh : hdr = s.src a) (hn : n = (s.src b).setWidth 32) : exec (.flrel g a b) s =
    if n = 0 then .next ((s.popSrcs [a, b]).retireTo (s.me.ctx.pc + 4))
    else (s.flume? s.me.id.fn hdr).elim (.next (s.trapAt 0x05 hdr)) fun f =>
      if f.owner ≠ s.me.id || f.filled.toNat < n.toNat then .next (s.trapAt 0x05 hdr)
      else .next (((s.flReleased f n).popSrcs [a, b]).retireTo (s.me.ctx.pc + 4)) := by
  subst hh hn
  rw [exec_flrel, execFlrel, gated_go hg (gate_src _ false (ready2 ha hb))]
  refine if_congr Iff.rfl rfl ?_
  cases s.flume? s.me.id.fn (s.src a) with
  | none => rfl
  | some f =>
    have hpc : (s.flReleased f ((s.src b).setWidth 32)).me.ctx.pc = s.me.ctx.pc :=
      (congrArg (fun t : Task => t.ctx.pc) (writeCounts_me (s.mapFlume f.fn f.hdr _) _) :)
    rw [Option.elim, ← hpc]
    rfl

end

/-- What is put in the place of each element that is sought is found. -/
theorem find?_replace {α : Type} {p : α → Bool} {l : List α} {x y : α} (h : l.find? p = some x) (hy : p y = true) :
    (l.map fun z => if p z then y else z).find? p = some y := by
  induction l with
  | nil => exact absurd h nofun
  | cons z l ih =>
    cases hz : p z with
    | true => simp [hz, hy]
    | false =>
      rw [List.find?_cons, hz] at h
      simpa [hz] using ih h

theorem flume?_flReleased {s : State} {fn : Nat} {hdr : Word} {f : Flume} (hf : s.flume? fn hdr = some f) (n : BitVec 32) :
    (s.flReleased f n).flume? fn hdr = some { f with rd := f.rd + n } := by
  have hp := List.find?_some (p := fun f : Flume => f.fn == fn && f.hdr == hdr && !f.gone) hf
  obtain ⟨⟨rfl, rfl⟩, -⟩ : (f.fn = fn ∧ f.hdr = hdr) ∧ f.gone = false := by
    simpa only [Bool.and_eq_true, beq_iff_eq, Bool.not_eq_true'] using hp
  unfold State.flReleased State.writeCounts State.flume?
  rw [flumes_hdrBlkPut]
  exact find?_replace (y := { f with rd := f.rd + n }) hf hp

/-- Settles O25: the three instructions by their checks in order, and what the one that passes them leaves. -/
theorem flumes : Obligations.Flumes := by
  unfold Obligations.Flumes
  refine ⟨?_, ?_⟩
  · rintro s g d a b v base pc sz n us hg ha hb hd rfl hv hbase rfl rfl rfl
    have he := exec_flnew_eq hg ha hb hd hv hbase
    rw [← flWordOk_iff]
    refine ⟨fun h => he.trans (if_pos (by simpa using h)), fun h1 h2 h3 h4 h5 h6 h7 => ?_⟩
    replace he := he.trans (if_neg (by rw [(flWordOk_iff v base).2 ⟨h1, h2, h3, h4, h5, h6, h7⟩]; decide))
    refine ⟨fun hst hbk => he.trans (if_pos (by rw [(flStore_eq_one_iff v).2 hst, hbk]; rfl)), fun hbk => ?_⟩
    replace he := he.trans (if_neg (by
      rw [Bool.and_eq_true, decide_eq_true_eq]
      exact fun h => absurd (hbk ((flStore_eq_one_iff v).1 h.1)) (by simpa using h.2)))
    refine ⟨fun x hx => he.trans (by rw [hx]; rfl), fun hx => ?_⟩
    rw [hx] at he
    refine ⟨fun hf => he.trans (if_pos ?_), fun hf => ?_⟩
    · rw [Bool.not_eq_true', Bool.eq_false_iff]
      exact fun h => hf ((flFits_iff s _).1 h)
    replace he := he.trans (if_neg (by rw [(flFits_iff s (flSlots v)).2 hf]; decide))
    refine ⟨fun hp => he.trans (if_pos (by rw [hp]; rfl)), fun hp hn => ?_, fun h hp hn => ?_⟩
    · rw [hp, hn] at he
      exact he
    · rw [hp, hn] at he
      refine ⟨s.flumeMade v base h, s.newFlume v base h, he, flumeMade_flumes .., rfl, rfl, rfl, rfl, rfl,
        if_congr (flStore_eq_one_iff v) rfl rfl, rfl, rfl, rfl, rfl, rfl, rfl, flumeMade_me .., ?_⟩
      rw [← flHeader_eq]
      rfl
  · rintro s g a b hdr n pc hg ha hb rfl hh hn
    have hw := exec_flawait_eq hg ha hb hh hn
    have hr := exec_flrel_eq hg ha hb hh hn
    refine ⟨fun h0 => ⟨hw.trans (if_pos h0), hr.trans (if_pos h0)⟩, fun h0 hf => ?_, fun f h0 hf => ?_⟩
    · rw [hf] at hw hr
      exact ⟨hw.trans (if_neg h0), hr.trans (if_neg h0)⟩
    replace hw := hw.trans (if_neg h0)
    replace hr := hr.trans (if_neg h0)
    rw [hf] at hw hr
    refine ⟨fun ho => ⟨hw.trans (if_pos (by simp [ho])), hr.trans (if_pos (by simp [ho]))⟩, fun hs => hw.trans (if_pos (by simp [hs])),
      fun hs => hr.trans (if_pos ?_), fun ho hs hl => ?_, fun ho hs hl => ?_, fun ho hl => ?_⟩
    · rw [Bool.or_eq_true, decide_eq_true_eq, decide_eq_true_eq]
      exact .inr hs
    · exact (hw.trans (if_neg (by simp [ho, hs]))).trans (if_pos hl)
    · exact (hw.trans (if_neg (by simp [ho, hs]))).trans (if_neg (Nat.not_le.2 hl))
    · refine ⟨s.flReleased f n, hr.trans (if_neg ?_), writeCounts_me .., flume?_flReleased hf n⟩
      rw [Bool.or_eq_true, decide_eq_true_eq, decide_eq_true_eq]
      exact not_or.2 ⟨not_not.2 ho, Nat.not_lt.2 hl⟩

end Sys2Proof.Machine

end

/-!
SUPPORT. SLNEW: its checks in order, the object it makes and the fields of its two handles (R44, R109, R230, R231).
-/
section

namespace Sys2Proof.Machine

/-! ## The fields of a handle (R109) -/

section

variable (obj : Nat) (pkg : BitVec 8) (gen : BitVec 16) (kind : BitVec 2) (rights : BitVec 6) (flags : BitVec 8)

/-- A field of a handle below its check code is a field of the body. -/
theorem mkHandle_field {lo len : Nat} (h : lo + len ≤ 80) : (mkHandle obj pkg gen kind rights flags).extractLsb' lo len =
    (flags ++ rights ++ kind ++ gen ++ pkg ++ BitVec.ofNat 40 obj : BitVec 80).extractLsb' lo len :=
  BitVec.extractLsb'_append_eq_of_add_le h

theorem mkHandle_obj : (mkHandle obj pkg gen kind rights flags).extractLsb' 0 40 = BitVec.ofNat 40 obj := by
  rw [mkHandle_field _ _ _ _ _ _ (by decide), BitVec.extractLsb'_append_eq_of_add_le (by decide), BitVec.extractLsb'_eq_self]

theorem hPkg_mkHandle : hPkg (mkHandle obj pkg gen kind rights flags) = pkg := by
  rw [hPkg, mkHandle_field _ _ _ _ _ _ (by decide), BitVec.extractLsb'_append_eq_of_le (by decide),
    BitVec.extractLsb'_append_eq_of_add_le (by decide), BitVec.extractLsb'_eq_self]

theorem hGen_mkHandle : hGen (mkHandle obj pkg gen kind rights flags) = gen := by
  rw [hGen, mkHandle_field _ _ _ _ _ _ (by decide), BitVec.extractLsb'_append_eq_of_le (by decide),
    BitVec.extractLsb'_append_eq_of_le (by decide), BitVec.extractLsb'_append_eq_of_add_le (by decide), BitVec.extractLsb'_eq_self]

theorem hKind_mkHandle : hKind (mkHandle obj pkg gen kind rights flags) = kind.toNat := by
  rw [hKind, mkHandle_field _ _ _ _ _ _ (by decide), BitVec.extractLsb'_append_eq_of_le (by decide),
    BitVec.extractLsb'_append_eq_of_le (by decide), BitVec.extractLsb'_append_eq_of_le (by decide),
    BitVec.extractLsb'_append_eq_of_add_le (by decide), BitVec.extractLsb'_eq_self]

theorem hRights_mkHandle : hRights (mkHandle obj pkg gen kind rights flags) = rights := by
  rw [hRights, mkHandle_field _ _ _ _ _ _ (by decide), BitVec.extractLsb'_append_eq_of_le (by decide),
    BitVec.extractLsb'_append_eq_of_le (by decide), BitVec.extractLsb'_append_eq_of_le (by decide),
    BitVec.extractLsb'_append_eq_of_le (by decide), BitVec.extractLsb'_append_eq_of_add_le (by decide), BitVec.extractLsb'_eq_self]

theorem hFlags_mkHandle : hFlags (mkHandle obj pkg gen kind rights flags) = flags := by
  rw [hFlags, mkHandle_field _ _ _ _ _ _ (by decide), BitVec.extractLsb'_append_eq_of_le (by decide),
    BitVec.extractLsb'_append_eq_of_le (by decide), BitVec.extractLsb'_append_eq_of_le (by decide),
    BitVec.extractLsb'_append_eq_of_le (by decide), BitVec.extractLsb'_append_eq_of_le (by decide), BitVec.extractLsb'_eq_self]

/-- The check code verifies. -/
theorem hCheck_mkHandle : hCheck (mkHandle obj pkg gen kind rights flags) =
    Config.handleCheck ((mkHandle obj pkg gen kind rights flags).extractLsb' 0 80) := by
  rw [mkHandle_field _ _ _ _ _ _ (by decide), BitVec.extractLsb'_eq_self]
  exact BitVec.extractLsb'_append_eq_left

end

/-- A flag of a handle, by its place among the flags. -/
theorem getLsbD_hFlags (h : BitVec 128) {i : Nat} (hi : i < 8) : h.getLsbD (72 + i) = (hFlags h).getLsbD i := by
  rw [hFlags, BitVec.getLsbD_extractLsb', decide_eq_true hi, Bool.true_and]

theorem extract_hFlags (h : BitVec 128) : h.extractLsb' 74 6 = (hFlags h).extractLsb' 2 6 := by
  refine BitVec.eq_of_getLsbD_eq fun i hi => ?_
  have h8 : 2 + i < 8 := by omega
  rw [BitVec.getLsbD_extractLsb', BitVec.getLsbD_extractLsb', ← getLsbD_hFlags h h8, ← Nat.add_assoc]

/-- The flags of a new object's handle: whether it has a tile, and whether it drops on exit. -/
def newFlags (tile dx : Bool) : BitVec 8 := BitVec.ofNat 8 (bool1 tile * 2 + bool1 dx)

theorem newFlags_fields (tile dx : Bool) :
    (newFlags tile dx).getLsbD 0 = dx ∧ (newFlags tile dx).getLsbD 1 = tile ∧ (newFlags tile dx).extractLsb' 2 6 = 0 := by
  revert tile dx
  decide

/-- A handle of a live object of this package passes its check. -/
theorem handleOk_mkHandle {u : State} {o : Obj} {kind : BitVec 2} {rights : BitVec 6} {flags : BitVec 8} (ho : u.obj? o.id = some o)
    (hst : o.st ≠ .freed) (hid : o.id < 2 ^ 40) (hk : kind = 1 ∨ kind = 2) :
    handleOk u (mkHandle o.id u.wh.pkg o.gen kind rights flags) = true := by
  have hlive : hLive (mkHandle o.id u.wh.pkg o.gen kind rights flags) = true := by
    rw [hLive, hKind_mkHandle]
    rcases hk with rfl | rfl <;> rfl
  have hobj : hObj (mkHandle o.id u.wh.pkg o.gen kind rights flags) = o.id := by
    rw [hObj, mkHandle_obj, BitVec.toNat_ofNat, Nat.mod_eq_of_lt hid]
  have hne : (o.st != .freed) = true := bne_iff_ne.2 hst
  simp [handleOk, hlive, hCheck_mkHandle, hobj, ho, hGen_mkHandle, hne]

/-! ## The object -/

/-- The tile of a new object: with POND a HOME tile of the die that has room. -/
def State.newTile (s : State) (req : Word) : Option Nat :=
  if bitAt req 33 then s.homeRoom s.me.id.fn (dieOf s.me.mill) (reqUnits req) else none

/-- The object that SLNEW makes. -/
def State.newObject (s : State) (req : Word) : Obj where
  id := s.freeObj.1
  gen := s.freeObj.2
  st := .filling
  size := reqSize req
  units := reqUnits req
  tile := s.newTile req
  fn := s.me.id.fn
  blk := s.me.id.blk
  handles := 2
  remote := []
  td := 0

def State.newFill (s : State) (req : Word) : BitVec 128 :=
  mkHandle (s.newObject req).id s.wh.pkg (s.newObject req).gen 1 0b000111 (newFlags (s.newTile req).isSome (bitAt req 32))

def State.newSee (s : State) (req : Word) : BitVec 128 :=
  mkHandle (s.newObject req).id s.wh.pkg (s.newObject req).gen 2 0b011101 (newFlags (s.newTile req).isSome false)

/-- The units of a new object are charged where it has a tile. -/
def State.tileCharged (s : State) (tile : Option Nat) (n : Nat) : State :=
  match tile with
  | none => s
  | some t => (s.setTile t { s.tile t with used := (s.tile t).used + n }).mapLineage s.me.id.fn s.me.id.blk fun b =>
      { b with usePond := b.usePond + n }

/-- SLNEW with its checks passed: the object stands first, its storage is clear, and the two registers hold its handles. -/
def State.objMade (s : State) (req : Word) (d a : BitVec 5) : State :=
  ({ s.tileCharged (s.newTile req) (reqUnits req) with
    objs := s.newObject req :: s.objs.filter fun x => x.id != (s.newObject req).id
    mem := memClear s.mem (keyOf spSluice ((s.newObject req).id * 2 ^ 24)) (2 ^ 24) } : State).mapCtx fun c =>
      (c.wh (low3 d) (s.newFill req)).wh (low3 a) (s.newSee req)

theorem tileCharged_eq (s : State) (tile : Option Nat) (n : Nat) : s.tileCharged tile n =
    { s with tiles := (s.tileCharged tile n).tiles, blks := (s.tileCharged tile n).blks } := by
  cases tile <;> rfl

theorem newObj_eq (s : State) (req : Word) (d a : BitVec 5) : ((s.newObj req).2.2.mapCtx fun c =>
    (c.wh (low3 d) (s.newObj req).1).wh (low3 a) (s.newObj req).2.1) = s.objMade req d a := by
  unfold State.objMade State.newObj State.newFill State.newSee State.newObject State.newTile State.tileCharged newFlags
  rcases s.freeObj with ⟨id, gen⟩
  dsimp only
  generalize (if bitAt req 33 = true then s.homeRoom s.me.id.fn (dieOf s.me.mill) (reqUnits req) else none) = tile
  cases tile <;> rfl

theorem objMade_ctx (s : State) (req : Word) (d a : BitVec 5) :
    (s.objMade req d a).me.ctx = (s.me.ctx.wh (low3 d) (s.newFill req)).wh (low3 a) (s.newSee req) := by
  unfold State.objMade
  rw [tileCharged_eq]
  rfl

theorem objMade_pkg (s : State) (req : Word) (d a : BitVec 5) : (s.objMade req d a).wh.pkg = s.wh.pkg := by
  unfold State.objMade
  rw [tileCharged_eq]
  rfl

/-- The new object stands before the others. -/
theorem objMade_objs (s : State) (req : Word) (d a : BitVec 5) :
    (s.objMade req d a).objs = s.newObject req :: s.objs.filter fun x => x.id != (s.newObject req).id := rfl

theorem objMade_obj? (s : State) (req : Word) (d a : BitVec 5) :
    (s.objMade req d a).obj? (s.newObject req).id = some (s.newObject req) := by
  rw [State.obj?, objMade_objs]
  exact List.find?_cons_of_pos (beq_self_eq_true (s.newObject req).id)

theorem objMade_mem (s : State) (req : Word) (d a : BitVec 5) :
    (s.objMade req d a).mem = memClear s.mem (keyOf spSluice ((s.newObject req).id * 2 ^ 24)) (2 ^ 24) := by
  unfold State.objMade
  rfl

/-- The storage of the object is zero, and memory beside it as before (R231). -/
theorem memGet_objMade (s : State) (req : Word) (d a : BitVec 5) (k : Nat) : memGet (s.objMade req d a).mem k =
    if keyOf spSluice ((s.newObject req).id * 2 ^ 24) ≤ k ∧ k < keyOf spSluice ((s.newObject req).id * 2 ^ 24) + 2 ^ 24 then 0
    else memGet s.mem k := by
  rw [objMade_mem, memGet_memClear, unlisted]

theorem objMade_tiled {s : State} {req : Word} {t : Nat} (d a : BitVec 5) (ht : s.newTile req = some t) :
    ((s.objMade req d a).tile t).used = (s.tile t).used + reqUnits req ∧ (s.objMade req d a).blks =
      (s.mapLineage s.me.id.fn s.me.id.blk fun x => { x with usePond := x.usePond + reqUnits req }).blks := by
  unfold State.objMade
  rw [ht]
  exact ⟨congrArg Tile.used (tile_setTile ..), rfl⟩

theorem objMade_untiled {s : State} {req : Word} (d a : BitVec 5) (ht : s.newTile req = none) :
    (s.objMade req d a).blks = s.blks ∧ (s.objMade req d a).tiles = s.tiles := by
  unfold State.objMade
  rw [ht]
  exact ⟨rfl, rfl⟩

/-! ## The checks -/

theorem reqUnits_eq (req : Word) : reqUnits req = ((req.extractLsb' 0 25).toNat + 65535) / 65536 := by
  rw [toNat_slice, reqUnits, ceilDiv, Nat.add_sub_assoc (by decide)]
  rfl

theorem reqOk_iff (req : Word) : reqOk req = true ↔ ¬ (req.extractLsb' 0 25 = 0 ∨ 16777216 < (req.extractLsb' 0 25).toNat ∨
    req.extractLsb' 25 7 ≠ 0 ∨ req.extractLsb' 34 30 ≠ 0) := by
  rw [ne_eq, ne_eq, slice_eq_iff, slice_eq_iff, slice_eq_iff, toNat_slice]
  have h25 : (0 : BitVec 25).toNat = 0 := rfl
  have h7 : (0 : BitVec 7).toNat = 0 := rfl
  have h30 : (0 : BitVec 30).toNat = 0 := rfl
  rw [h25, h7, h30]
  simp only [reqOk, Bool.and_eq_true, beq_iff_eq, decide_eq_true_eq]
  unfold reqSize
  omega

theorem pondFits_iff (s : State) (n : Nat) : s.pondFits s.me.id.fn s.me.id.blk n = true ↔
    ¬ ∃ x ∈ s.lineage s.me.id.fn s.me.id.blk, x.eff.pond < x.usePond + (s.pondPages s.me.id.fn x.addr).length + n := by
  simp [State.pondFits]

/-- SLNEW, by its checks in order. -/
theorem exec_slnew_eq {s : State} {g : Guard} {d a b : BitVec 5} {req : Word} {n : Nat} (hg : s.me.ctx.guardTrue g = true)
    (hb : s.SrcReady b) (hreq : req = s.src b) (hn : n = ((req.extractLsb' 0 25).toNat + 65535) / 65536) :
    exec (.slnew g d a b) s = .next
      (if low3 d = low3 a then s.trapAt 0x01 (infoWord (.slnew g d a b))
      else if hLive (s.me.ctx.rh (low3 d)) then s.trapAt 0x07 ((low3 d).setWidth 64)
      else if hLive (s.me.ctx.rh (low3 a)) then s.trapAt 0x07 ((low3 a).setWidth 64)
      else if req.extractLsb' 0 25 = 0 ∨ 16777216 < (req.extractLsb' 0 25).toNat ∨ req.extractLsb' 25 7 ≠ 0 ∨
          req.extractLsb' 34 30 ≠ 0 then s.trapAt 0x01 (infoWord (.slnew g d a b))
      else if req.getLsbD 33 = true ∧ ∃ x ∈ s.lineage s.me.id.fn s.me.id.blk,
        x.eff.pond < x.usePond + (s.pondPages s.me.id.fn x.addr).length + n then
        s.trapAt 0x18 1
      else if 1048576 ≤ s.liveObjs then s.trapAt 0x18 10
      else ((s.objMade req d a).popSrcs [b]).retireTo (s.me.ctx.pc + 4)) := by
  rw [← reqUnits_eq] at hn
  subst hreq hn
  rw [exec_slnew, execSlnew, gated_src hg hb]
  simp only [apply_ite Host.Outcome.next]
  refine if_congr Iff.rfl rfl (if_congr Iff.rfl rfl (if_congr Iff.rfl rfl (if_congr ?_ rfl (if_congr ?_ rfl (if_congr Iff.rfl rfl ?_)))))
  · rw [Bool.not_eq_true', Bool.eq_false_iff, ne_eq, reqOk_iff, not_not]
  · rw [Bool.and_eq_true, Bool.not_eq_true', Bool.eq_false_iff, ne_eq, pondFits_iff, not_not]
    rfl
  · have hpc := congrArg Ctx.pc (objMade_ctx s (s.src b) d a)
    rw [newObj_eq, done, nextPc_zero rfl, hpc]
    rfl

/-- Settles O22: the checks of SLNEW in order, and the object with its two handles, field by field. -/
theorem sluiceTiles : Obligations.SluiceTiles := by
  unfold Obligations.SluiceTiles
  refine ⟨?_, fun s g d a b req n hg hb hreq hn => ⟨_, exec_slnew_eq hg hb hreq hn⟩⟩
  rintro s g d a b req n pc hg hb rfl hreq hn hne hd ha h1 h2 h3 h4 hp hl
  have he := exec_slnew_eq (d := d) (a := a) hg hb hreq hn
  rw [if_neg hne, hd, ha, if_neg Bool.false_ne_true, if_neg Bool.false_ne_true, if_neg, if_neg, if_neg (Nat.not_le.2 hl)] at he
  rotate_left
  · rintro ⟨hpond, x, hx, hlt⟩
    exact absurd (hp hpond x hx) (Nat.not_le.2 hlt)
  · rintro (h | h | h | h)
    · rw [h] at h1
      exact absurd h1 (by decide)
    · exact absurd h2 (Nat.not_le.2 h)
    · exact h h3
    · exact h h4
  rw [← reqUnits_eq] at hn
  subst hn
  refine ⟨s.objMade req d a, s.newObject req, s.newFill req, s.newSee req, he, ⟨_, objMade_objs .., fun x hx => ?_, fun x hx hne => ?_⟩,
    rfl, (toNat_slice ..).symm, rfl, rfl, rfl, rfl, rfl, fun t ht => objMade_tiled d a ht, fun ht => objMade_untiled d a ht,
    objMade_ctx .., fun hid => ⟨?_, ?_⟩, fun h hh => ?_, ?_⟩
  · obtain ⟨hin, hid⟩ := List.mem_filter.1 hx
    exact ⟨bne_iff_ne.1 hid, hin⟩
  · exact List.mem_filter.2 ⟨hx, bne_iff_ne.2 hne⟩
  · rw [State.newFill, ← objMade_pkg s req d a]
    exact handleOk_mkHandle (objMade_obj? ..) nofun hid (.inl rfl)
  · rw [State.newSee, ← objMade_pkg s req d a]
    exact handleOk_mkHandle (objMade_obj? ..) nofun hid (.inr rfl)
  · have hflags {x : BitVec 128} {dx : Bool} (hx : hFlags x = newFlags (s.newTile req).isSome dx) :
        x.getLsbD 73 = (s.newTile req).isSome ∧ x.extractLsb' 74 6 = 0 := by
      obtain ⟨-, htile, hzero⟩ := newFlags_fields (s.newTile req).isSome dx
      exact ⟨(getLsbD_hFlags x (by decide)).trans (hx ▸ htile), (extract_hFlags x).trans (hx ▸ hzero)⟩
    rcases List.mem_pair.1 hh with rfl | rfl
    · exact ⟨mkHandle_obj .., hPkg_mkHandle .., hGen_mkHandle .., hflags (hFlags_mkHandle ..)⟩
    · exact ⟨mkHandle_obj .., hPkg_mkHandle .., hGen_mkHandle .., hflags (hFlags_mkHandle ..)⟩
  · refine ⟨hKind_mkHandle .., hRights_mkHandle .., ?_, hKind_mkHandle .., hRights_mkHandle .., ?_, memGet_objMade s req d a⟩
    · rw [getLsbD_hFlags _ (i := 0) (by decide), State.newFill, hFlags_mkHandle]
      exact (newFlags_fields ..).1
    · rw [getLsbD_hFlags _ (i := 0) (by decide), State.newSee, hFlags_mkHandle]
      exact (newFlags_fields ..).1

end Sys2Proof.Machine

end

/-!
SUPPORT. SYNCD (R251, R137, R141): what it answers by the place it holds, and how it leaves its interval.
-/
section

namespace Sys2Proof.Machine

variable {s : State}

theorem Ctx.keeps_iff {c : Ctx} {w : WaitOn} : c.keeps w = true ↔ (c.nest, w) ∈ c.held := List.contains_iff_mem

/-- The SYNCD at PC sleeps in its interval, or keeps its place there under a trap (R141). -/
def Ctx.inSyncd (c : Ctx) : Bool := c.wait == .syncd || c.keeps .syncd

theorem Ctx.inSyncd_iff {c : Ctx} : c.inSyncd = true ↔ c.wait = .syncd ∨ (c.nest, WaitOn.syncd) ∈ c.held := by
  rw [Ctx.inSyncd, Bool.or_eq_true, beq_iff_eq, Ctx.keeps_iff]

theorem Ctx.not_inSyncd {c : Ctx} (hw : c.wait ≠ .syncd) (hh : (c.nest, WaitOn.syncd) ∉ c.held) : c.inSyncd = false :=
  Bool.eq_false_iff.2 fun h => (Ctx.inSyncd_iff.1 h).elim hw hh

theorem Ctx.holdsBelow_of_mem {c : Ctx} {y : Nat × WaitOn} (hy : y ∈ c.held) (hn : y.1 < c.nest) : c.holdsBelow = true :=
  List.any_eq_true.2 ⟨y, hy, decide_eq_true hn⟩

theorem Ctx.not_holdsBelow {c : Ctx} (h : ∀ y ∈ c.held, c.nest ≤ y.1) : c.holdsBelow = false :=
  List.any_eq_false.2 fun y hy hn => Nat.not_lt_of_le (h y hy) (of_decide_eq_true hn)

/-! ## Entering the interval -/

section

variable {g : Guard} (hg : s.me.ctx.guardTrue g = true)

include hg

/-- SYNCD decides by the task's mode, by whether it is in its interval, by what a handler has interrupted, and by the task's commands,
in this order. -/
theorem exec_syncd_eq : exec (.syncd g) s = .next (
    if !s.me.eff.det then s.retireTo (s.me.ctx.pc + 4)
    else if s.me.ctx.inSyncd then (if s.me.det.arrived then s.waitOn .syncd else s.leaveSyncd (s.me.ctx.pc + 4))
    else if s.me.ctx.holdsBelow then s.trapAt 0x01 (infoWord (.syncd g))
    else if s.me.busy then s.waitOn .cmdsRetired
    else (s.mapMe fun t => { t with det := { t.det with arrived := true } }).waitOn .syncd) := by
  rw [exec_syncd]
  unfold execSyncd
  dsimp only
  rw [guarded_true hg, nextPc_zero (by rfl)]
  simp only [apply_ite Host.Outcome.next]
  rfl

theorem exec_syncd_retires (hd : s.me.eff.det = false) : exec (.syncd g) s = .next (s.retireTo (s.me.ctx.pc + 4)) := by
  rw [exec_syncd_eq hg, hd]
  rfl

section

variable (hd : s.me.eff.det = true)

include hd

theorem exec_syncd_illegal (hi : s.me.ctx.inSyncd = false) (hb : s.me.ctx.holdsBelow = true) :
    exec (.syncd g) s = .next (s.trapAt 0x01 (infoWord (.syncd g))) := by
  rw [exec_syncd_eq hg, hd, hi, hb]
  rfl

theorem exec_syncd_busy (hi : s.me.ctx.inSyncd = false) (hb : s.me.ctx.holdsBelow = false) (hc : s.me.busy = true) :
    exec (.syncd g) s = .next (s.waitOn .cmdsRetired) := by
  rw [exec_syncd_eq hg, hd, hi, hb, hc]
  rfl

theorem exec_syncd_arrives (hi : s.me.ctx.inSyncd = false) (hb : s.me.ctx.holdsBelow = false) (hc : s.me.busy = false) :
    exec (.syncd g) s = .next ((s.mapMe fun t => { t with det := { t.det with arrived := true } }).waitOn .syncd) := by
  rw [exec_syncd_eq hg, hd, hi, hb, hc]
  rfl

theorem exec_syncd_rejoins (hi : s.me.ctx.inSyncd = true) (ha : s.me.det.arrived = true) :
    exec (.syncd g) s = .next (s.waitOn .syncd) := by
  rw [exec_syncd_eq hg, hd, hi, ha]
  rfl

theorem exec_syncd_leaves (hi : s.me.ctx.inSyncd = true) (ha : s.me.det.arrived = false) :
    exec (.syncd g) s = .next (s.leaveSyncd (s.me.ctx.pc + 4)) := by
  rw [exec_syncd_eq hg, hd, hi, ha]
  rfl

end

end

/-! ## Leaving the interval -/

/-- The state whose SYNCD has given up its place and taken note of its conflict. -/
def State.unsyncd (s : State) : State :=
  (s.mapCtx (·.unhold .syncd)).mapMe fun t => { t with det := { t.det with conflict := none } }

theorem leaveSyncd_won (next : Word) (h : s.me.det.conflict = none) : s.leaveSyncd next = s.unsyncd.retireTo next := by
  unfold State.leaveSyncd State.unsyncd
  rw [h]

theorem leaveSyncd_lost (next : Word) {va : Word} (h : s.me.det.conflict = some va) :
    s.leaveSyncd next = s.unsyncd.retireTrap next 0x09 va := by
  unfold State.leaveSyncd State.unsyncd
  rw [h]
  rfl

/-- A SYNCD whose task has won retires. -/
theorem leaveSyncd_won_ctx {next : Word} (hc : s.me.det.conflict = none) (hs : s.me.ctx.steps = false)
    (hr : s.me.ctx.rep.count = 0) :
    (s.leaveSyncd next).me.ctx = { (s.me.ctx.unhold .syncd) with pc := next }.retire s.time ∧ (s.leaveSyncd next).mem = s.mem := by
  rw [leaveSyncd_won next hc, retireTo_of_not_steps next (s := s.unsyncd) hs,
    Ctx.advance_falls (c := s.unsyncd.me.ctx) next (.inl hr)]
  exact ⟨rfl, rfl⟩

/-- A SYNCD whose task has lost retires and takes its conflict (R137). -/
theorem leaveSyncd_lost_trap {next va : Word} (hc : s.me.det.conflict = some va) (htm : s.me.ctx.tm = false)
    (hr : s.me.ctx.rep.count = 0) :
    (s.leaveSyncd next).me.ctx.trapPc = next ∧ (s.leaveSyncd next).me.ctx.trapCause = 0x09 ∧
      (s.leaveSyncd next).me.ctx.trapInfo = va ∧ (s.leaveSyncd next).me.ctx.st = .trapped ∧
      (s.leaveSyncd next).me.det.conflict = none ∧ (s.leaveSyncd next).mem = s.mem := by
  rw [leaveSyncd_lost next hc, State.retireTrap]
  have hm : (s.unsyncd.mapCtx fun c => (c.advance next).retire s.unsyncd.time).me.ctx =
      { (s.me.ctx.unhold .syncd) with pc := next }.retire s.time := by
    show (s.unsyncd.me.ctx.advance next).retire s.time = _
    rw [Ctx.advance_falls (c := s.unsyncd.me.ctx) next (.inl hr)]
    rfl
  obtain ⟨tm, handler, nest, pc, hctx⟩ := trapAt_entered
    (s := s.unsyncd.mapCtx fun c => (c.advance next).retire s.unsyncd.time) (cause := 0x09) (info := va)
    (.inl ((congrArg Ctx.tm hm).trans htm))
  exact ⟨(congrArg Ctx.trapPc hctx).trans (congrArg Ctx.pc hm :), (congrArg Ctx.trapCause hctx).trans (raised_word ..),
    congrArg Ctx.trapInfo hctx, congrArg Ctx.st hctx, congrArg (fun t => t.det.conflict) (trap_me ..), trapAt_mem ..⟩

end Sys2Proof.Machine

end

/-!
SUPPORT. Rounds of atomics (R130): when the round of two atomics closes, and what it leaves of their group.
-/
section

namespace Sys2Proof.Machine

theorem memBytes_eq_map (m : List Host.Cell) (k n : Nat) : memBytes m k n = (List.range n).map fun i => memGet m (k + i) := by
  induction n generalizing k with
  | zero => rfl
  | succ n ih =>
    rw [memBytes, ih, List.range_succ_eq_map, List.map_cons, List.map_map, Nat.add_zero]
    simp [Function.comp_def, Nat.add_assoc, Nat.add_comm 1]

/-- Before any round of it has closed, a word's value is what memory holds there (R374). -/
theorem wordVal_memNat {g : Group} (hv : g.vals = []) (base : List Host.Cell) (loc size : Nat) :
    g.wordVal base loc size = memNat base loc size := by
  rw [memNat, memBytes_eq_map, Group.wordVal, hv]
  rfl

theorem sortBy_pair {α : Type} {lt : α → α → Bool} {x y : α} (h : lt x y = true) : sortBy lt [x, y] = [x, y] := by
  simp [sortBy, insertBy, h]

section

variable {g : Group} {r q : AtomRec} {loc size : Nat}
  (hrs : g.rounds = [r, q]) (hrl : r.loc = loc) (hql : q.loc = loc) (hrz : r.size = size) (hqz : q.size = size)

include hrs hrl hql hrz hqz

theorem openRound_pair (hr : r.round = 1) (hq : q.round = 1) (hrn : r.res = none) (hqn : q.res = none) :
    g.openRound loc size = some 1 := by
  simp [Group.openRound, hrs, hrl, hql, hrz, hqz, hr, hq, hrn, hqn]

/-- A task has issued an atomic of the round of two exactly where it is one of the two tasks. -/
theorem issued_pair (idx : BitVec 32) : 1 ≤ g.issued idx loc size ↔ idx = r.idx ∨ idx = q.idx := by
  rw [Group.issued, hrs, Nat.one_le_iff_ne_zero, Ne, List.length_eq_zero_iff, List.filter_eq_nil_iff]
  simp only [List.forall_mem_cons, List.not_mem_nil, false_imp_iff, implies_true, and_true, hrl, hql, hrz, hqz, beq_self_eq_true,
    Bool.and_true, beq_iff_eq, not_and_or, Decidable.not_not, eq_comm (b := idx)]

/-- The two atomics of a round apply in ascending task index, each finding what the one before it left (R130). -/
theorem closeRound_pair (base : List Host.Cell) (hr : r.round = 1) (hq : q.round = 1) (hrn : r.res = none) (hqn : q.res = none)
    (hlt : r.idx < q.idx) (hv : g.vals = []) {v w z : Nat} (hbase : v = memNat base loc size)
    (hw : w = atomicNew r.op size v r.val.toNat r.cmp.toNat) (hz : z = atomicNew q.op size w q.val.toNat q.cmp.toNat) :
    g.closeRound base loc size 1 = { g with
      rounds := [{ r with res := some (BitVec.ofNat 64 v, BitVec.ofNat 64 z) },
        { q with res := some (BitVec.ofNat 64 w, BitVec.ofNat 64 z) }]
      vals := [(loc, size, BitVec.ofNat 64 z, 1)] } := by
  have hne : r.idx ≠ q.idx := fun h => absurd hlt (h ▸ BitVec.lt_irrefl _)
  have hsort : sortBy (fun x y : AtomRec => x.idx < y.idx) [r, q] = [r, q] := sortBy_pair (decide_eq_true hlt)
  have hr' : (r.loc == loc && r.size == size && r.round == 1 && r.res.isNone) = true := by simp [hrl, hrz, hr, hrn]
  have hq' : (q.loc == loc && q.size == size && q.round == 1 && q.res.isNone) = true := by simp [hql, hqz, hq, hqn]
  have hkept : [r, q].filter (fun r => r.loc == loc && r.size == size && r.round == 1 && r.res.isNone) = [r, q] := by
    simp only [List.filter_cons, hr', hq', if_pos, List.filter_nil]
  have happly : applyRound size [r, q] v = ([(r.idx, v), (q.idx, w)], z) := by
    rw [applyRound, applyRound, ← hw, ← hz]
    rfl
  unfold Group.closeRound
  simp only [hrs, hv, hkept, hsort, wordVal_memNat hv, ← hbase, happly, List.map_cons, List.map_nil, hr', hq', if_pos,
    List.filter_nil]
  simp [hne]

end

/-- A changed group is found under the same name. -/
theorem groupOf_mapGroup {s : State} {fn : Nat} {blk : Word} {f : Group → Group} {g : Group} (h : s.groupOf fn blk = some g)
    (hf : ∀ g, (f g).fn = g.fn ∧ (f g).blk = g.blk) : (s.mapGroup fn blk f).groupOf fn blk = some (f g) := by
  have hg := List.find?_some h
  refine (find?_map_ite h fun y => ?_).trans ?_
  · rw [(hf y).1, (hf y).2]
  · rw [hg]
    rfl

section

variable {s : State} {g : Group} (hgr : s.groupOf s.cur.arg.fn s.cur.arg.w = some g) {m : Nat}
  (ho : g.openRound s.cur.arg.k s.cur.arg.n = some m)

include hgr ho

/-- A round closes once every task has issued in it, arrived or exited (R130). -/
theorem exec_atomicRoundClose_eq : exec .atomicRoundClose s = .next (
    if s.everyTask s.cur.arg.fn s.cur.arg.w (fun t => m ≤ g.issued t.id.idx s.cur.arg.k s.cur.arg.n || t.det.arrived || t.exited)
    then s.mapGroup s.cur.arg.fn s.cur.arg.w fun g => g.closeRound (s.detBase g) s.cur.arg.k s.cur.arg.n m
    else s) := by
  rw [exec_atomicRoundClose]
  unfold execAtomicRoundClose
  simp only [hgr, ho]
  split <;> rfl

end

theorem everyTask_eq {s : State} {fn : Nat} {blk : Word} {b : Blk} (hb : s.blk? fn blk = some b) (p : Task → Bool) :
    s.everyTask fn blk p = decide (b.eff.tcount.toNat ≤ ((s.party fn blk).filter p).length) := by
  rw [State.everyTask, hb]

/-- The tasks of a node block that keep no round of two atomics open: those that have issued one, arrived or exited. -/
theorem everyTask_round {s : State} {fn : Nat} {blk : Word} {b : Blk} (hb : s.blk? fn blk = some b) {g : Group} {r q : AtomRec}
    {loc size : Nat} (hrs : g.rounds = [r, q]) (hrl : r.loc = loc) (hql : q.loc = loc) (hrz : r.size = size) (hqz : q.size = size) :
    s.everyTask fn blk (fun t => 1 ≤ g.issued t.id.idx loc size || t.det.arrived || t.exited) =
      decide (b.eff.tcount.toNat ≤ ((s.party fn blk).filter fun t =>
        t.id.idx = r.idx ∨ t.id.idx = q.idx ∨ t.det.arrived = true ∨ t.exited = true).length) := by
  rw [everyTask_eq hb]
  congr 4
  funext t
  simp only [issued_pair hrs hrl hql hrz hqz, Bool.decide_or, Bool.decide_eq_true, Bool.or_assoc]

end Sys2Proof.Machine

end

/-!
SUPPORT. The merge of an interval (R127 to R131): what the interval started from, the bytes that plain writes leave, and the conflict
of two tasks.
-/
section

namespace Sys2Proof.Machine

/-! ## What the interval started from (R128, R231) -/

theorem memGet_append_left {a b : List Host.Cell} {k : Nat} (h : ∀ c ∈ b, c.1 ≠ k) : memGet (a ++ b) k = memGet a k := by
  induction a with
  | nil =>
    induction b with
    | nil => rfl
    | cons c b ih =>
      obtain ⟨hc, hb⟩ := List.forall_mem_cons.1 h
      exact (if_neg hc).trans (ih hb)
  | cons c a ih =>
    rw [List.cons_append, memGet, memGet, ih]

theorem memGet_append_right {a b : List Host.Cell} {k : Nat} (h : ∀ c ∈ a, c.1 ≠ k) : memGet (a ++ b) k = memGet b k := by
  induction a with
  | nil => rfl
  | cons c a ih =>
    obtain ⟨hc, ha⟩ := List.forall_mem_cons.1 h
    rw [List.cons_append, memGet, if_neg hc, ih ha]

/-- The cells of chosen spaces hold the bytes of those spaces. -/
theorem memGet_inSpace {p : Nat → Bool} {k : Nat} (h : p (spaceOf k) = true) (m : List Host.Cell) :
    memGet (inSpace p m) k = memGet m k := by
  induction m with
  | nil => rfl
  | cons c m ih =>
    obtain ⟨a, v⟩ := c
    rw [inSpace, List.filter_cons, memGet]
    by_cases ha : a = k
    · rw [if_pos ha, if_pos (by rw [ha]; exact h), memGet, if_pos ha]
    · rw [if_neg ha]
      split
      · rw [memGet, if_neg ha]
        exact ih
      · exact ih

theorem ne_of_inSpace {p : Nat → Bool} {k : Nat} (h : p (spaceOf k) = false) (m : List Host.Cell) :
    ∀ c ∈ inSpace p m, c.1 ≠ k := by
  rintro c hc rfl
  exact absurd (List.mem_filter.1 hc).2 (by rw [h]; decide)

/-- Sluice storage is taken as it stands, every other space from the snapshot. -/
theorem memGet_detBase (s : State) (g : Group) (k : Nat) :
    memGet (s.detBase g) k = if spaceOf k = 4 then memGet s.mem k else memGet g.snap k := by
  unfold State.detBase
  rcases Nat.lt_trichotomy (spaceOf k) 4 with h | h | h
  · rw [if_neg (Nat.ne_of_lt h),
      memGet_append_left (ne_of_inSpace (decide_eq_false (Nat.lt_asymm h)) _),
      memGet_append_left (ne_of_inSpace (p := (· == spSluice)) (beq_false_of_ne (Nat.ne_of_lt h)) _), memGet_inSpace (decide_eq_true h)]
  · rw [if_pos h,
      memGet_append_left (ne_of_inSpace (decide_eq_false (Nat.not_lt_of_le (Nat.le_of_eq h))) _),
      memGet_append_right (ne_of_inSpace (decide_eq_false (Nat.not_lt_of_le (Nat.le_of_eq h.symm))) _),
      memGet_inSpace (p := (· == spSluice)) (beq_iff_eq.2 h)]
  · rw [if_neg (Nat.ne_of_gt h), List.append_assoc,
      memGet_append_right (ne_of_inSpace (decide_eq_false (Nat.lt_asymm h)) _),
      memGet_append_right (ne_of_inSpace (p := (· == spSluice)) (beq_false_of_ne (Nat.ne_of_gt h)) _), memGet_inSpace (decide_eq_true h)]

/-! ## The bytes of plain writes -/

/-- The byte that a write set, newest first, leaves over memory. -/
def overlaid (ws : List WByte) (k : Nat) (x : Byte) : Byte :=
  match ws.find? fun w => w.loc == k with
  | some w => w.val
  | none => x

theorem memGet_mergePlain {m : List Host.Cell} (h : Memory.wf m = true) (t : Task) (k : Nat) :
    memGet (mergePlain m t) k = overlaid t.det.writes k (memGet m k) := by
  unfold mergePlain
  induction t.det.writes with
  | nil => rfl
  | cons w ws ih =>
    rw [List.reverse_cons, List.foldl_append, List.foldl_cons, List.foldl_nil, memGet_memSet, ih]
    · unfold overlaid
      rw [List.find?_cons]
      by_cases hk : w.loc = k
      · rw [if_pos hk.symm, beq_iff_eq.2 hk]
      · rw [if_neg (Ne.symm hk), beq_false_of_ne hk]
    · exact foldl_keeps (P := fun m => Memory.wf m = true) (fun _ _ h => wf_memSet h ..) _ h

theorem overlaid_some {ws : List WByte} {k : Nat} (h : ws.any (·.loc == k) = true) (x y : Byte) :
    overlaid ws k x = overlaid ws k y := by
  unfold overlaid
  rw [List.any_eq_true] at h
  obtain ⟨w, hw⟩ := Option.isSome_iff_exists.1 (List.find?_isSome.2 h)
  rw [hw]

theorem overlaid_none {ws : List WByte} {k : Nat} (h : ws.any (·.loc == k) = false) (x : Byte) : overlaid ws k x = x := by
  unfold overlaid
  rw [List.find?_eq_none.2 (List.any_eq_false.1 h)]

/-! ## The state while the bytes of a merge are put -/

/-- `u` is `s` with bytes of memory, times of lines and keys of lines changed. -/
def State.Merging (s u : State) : Prop :=
  u = { s with mem := u.mem, lines := u.lines, tops := u.tops, lineKeys := u.lineKeys }

theorem State.Merging.refl (s : State) : s.Merging s := rfl

theorem State.Merging.trans {s u v : State} (h : s.Merging u) (h' : u.Merging v) : s.Merging v := by
  unfold State.Merging at h h' ⊢
  rw [h', h]

theorem State.Merging.me {s u : State} (h : s.Merging u) : u.me = s.me := by rw [h]

theorem State.Merging.tasks {s u : State} (h : s.Merging u) : u.tasks = s.tasks := by rw [h]

theorem State.Merging.replays {s u : State} (h : s.Merging u) (fn : Nat) (blk : Word) : u.replays fn blk = s.replays fn blk := by
  rw [h]
  rfl

theorem merging_underSlot (s : State) (k n : Nat) (slot : BitVec 7) : s.Merging (s.underSlot k n slot) := by
  unfold State.underSlot
  split <;> rfl

section

variable {s : State} {fn : Nat} {blk : Word} (hr : s.replays fn blk = false)

include hr

/-- With no replay capturing, a byte of the merge is put and no more (R438, R417). -/
theorem mergeByte_put (a : Touch) (x : Byte) :
    s.Merging (s.mergeByte fn blk a x) ∧ (s.mergeByte fn blk a x).mem = memSet s.mem a.loc x := by
  unfold State.mergeByte
  dsimp only
  rw [capture_of_not_replays hr]
  split
  · split
    · exact ⟨(merging_underSlot ..).trans rfl, by rw [underSlot_mem]⟩
    · exact ⟨rfl, rfl⟩
  · exact ⟨rfl, rfl⟩

/-- The bytes of a merge: those of the cells from its image, the rest as they were. -/
theorem mergeBytes_put (hm : Memory.wf s.mem = true) (img : List Host.Cell) (cells : List Touch) :
    s.Merging (cells.foldl (fun (st : State) a => st.mergeByte fn blk a (memGet img a.loc)) s) ∧
      ∀ k, memGet (cells.foldl (fun (st : State) a => st.mergeByte fn blk a (memGet img a.loc)) s).mem k =
        if cells.any (·.loc == k) then memGet img k else memGet s.mem k := by
  induction cells generalizing s with
  | nil => exact ⟨rfl, fun _ => rfl⟩
  | cons a cells ih =>
    obtain ⟨hs, hmem⟩ := mergeByte_put hr a (memGet img a.loc)
    obtain ⟨hs', hmem'⟩ := ih ((hs.replays fn blk).trans hr) (by rw [hmem]; exact wf_memSet hm ..)
    refine ⟨hs.trans hs', fun k => (hmem' k).trans ?_⟩
    rw [hmem, memGet_memSet hm, List.any_cons]
    by_cases hk : a.loc = k
    · subst hk
      simp
    · rw [if_neg (Ne.symm hk), beq_false_of_ne hk, Bool.false_or]

end

/-! ## Stamps -/

theorem stamp_merging (s : State) (fn : Nat) (keys : List Nat) (drops : List Nat) (prev clk : Nat) :
    s.Merging (s.stamp fn keys drops prev clk).2 ∧ (s.stamp fn keys drops prev clk).2.mem = s.mem := by
  unfold State.stamp
  dsimp only
  split <;> exact ⟨rfl, rfl⟩

/-- Tasks with no drops and no launches are stamped and no more (R131). -/
theorem mergeOrder_merging (g : Group) (lost : Task → Bool) {l : List Task}
    (hl : ∀ t ∈ l, t.det.drops = [] ∧ t.det.launches = []) (t0 : Nat) (s : State) :
    s.Merging (mergeOrder g lost l t0 s).2 ∧ (mergeOrder g lost l t0 s).2.mem = s.mem := by
  induction l generalizing t0 s with
  | nil => exact ⟨rfl, rfl⟩
  | cons t l ih =>
    obtain ⟨⟨hd, hn⟩, hl⟩ := List.forall_mem_cons.1 hl
    unfold mergeOrder State.mergeDrops State.mergeLaunches
    rw [hd, hn]
    simp only [List.foldl_nil, ite_self]
    obtain ⟨hs, hm⟩ := stamp_merging s t.id.fn ((if lost t then roundTouches g t else touches g t).map (·.loc)) [] t0 t.ctx.clock
    obtain ⟨hs', hm'⟩ := ih hl (s.stamp t.id.fn ((if lost t then roundTouches g t else touches g t).map (·.loc)) [] t0 t.ctx.clock).1
      (s.stamp t.id.fn ((if lost t then roundTouches g t else touches g t).map (·.loc)) [] t0 t.ctx.clock).2
    exact ⟨hs.trans hs', hm'.trans hm⟩

end Sys2Proof.Machine

end

/-!
SUPPORT. The merge of an interval whose tasks have made plain writes only: conflicts, the bytes it makes, and what it leaves of each task.
-/
section

namespace Sys2Proof.Machine

/-! ## Conflicts (R129) -/

/-- The lowest address of some bytes. -/
def lowestVa (l : List Touch) : Option Word := l.foldl (fun m a =>
  match m with
  | none => some a.va
  | some v => some (if a.va < v then a.va else v)) none

theorem lowestVa_from (l : List Touch) (v : Word) : ∃ u, l.foldl (fun (m : Option Word) (a : Touch) =>
      match m with
      | none => some a.va
      | some v => some (if a.va < v then a.va else v)) (some v) = some u ∧
    u ≤ v ∧ (∀ a ∈ l, u ≤ a.va) ∧ (u = v ∨ ∃ a ∈ l, a.va = u) := by
  induction l generalizing v with
  | nil => exact ⟨v, rfl, BitVec.le_refl v, fun _ h => (List.not_mem_nil h).elim, .inl rfl⟩
  | cons a l ih =>
    obtain ⟨u, hu, hle, hall, hex⟩ := ih (if a.va < v then a.va else v)
    have hmin : (if a.va < v then a.va else v) ≤ v ∧ (if a.va < v then a.va else v) ≤ a.va := by
      split
      · rename_i h
        exact ⟨BitVec.le_of_lt h, BitVec.le_refl _⟩
      · rename_i h
        exact ⟨BitVec.le_refl _, BitVec.not_lt.1 h⟩
    refine ⟨u, hu, BitVec.le_trans hle hmin.1, List.forall_mem_cons.2 ⟨BitVec.le_trans hle hmin.2, hall⟩, ?_⟩
    rcases hex with rfl | ⟨b, hb, rfl⟩
    · split
      · exact .inr ⟨a, List.mem_cons_self, rfl⟩
      · exact .inl rfl
    · exact .inr ⟨b, List.mem_cons_of_mem _ hb, rfl⟩

theorem lowestVa_some {l : List Touch} (h : l ≠ []) :
    ∃ u, lowestVa l = some u ∧ (∀ a ∈ l, u ≤ a.va) ∧ ∃ a ∈ l, a.va = u := by
  obtain ⟨a, l, rfl⟩ := List.exists_cons_of_ne_nil h
  obtain ⟨u, hu, hle, hall, hex⟩ := lowestVa_from l a.va
  refine ⟨u, hu, List.forall_mem_cons.2 ⟨hle, hall⟩, ?_⟩
  rcases hex with rfl | ⟨b, hb, he⟩
  · exact ⟨a, List.mem_cons_self, rfl⟩
  · exact ⟨b, List.mem_cons_of_mem _ hb, he⟩

/-- A byte of a plain write, as the merge sees it. -/
def WByte.touch (w : WByte) : Touch := ⟨w.loc, w.va, .plain⟩

/-- A task's write set holds the byte of a write. -/
def Task.wrote (x : Task) (w : WByte) : Bool := x.det.writes.any fun z => z.loc == w.loc

section

variable {g : Group} (hg : g.rounds = [])

include hg

theorem roundTouches_none (t : Task) : roundTouches g t = [] := by
  rw [roundTouches, hg]
  rfl

theorem touches_plain {t : Task} (ha : t.det.atoms = []) (hr : t.det.reds = []) : touches g t = t.det.writes.map WByte.touch := by
  rw [touches, ha, hr, roundTouches_none hg]
  simp [WByte.touch]

end

/-- A task's conflict is the lowest of its bytes that clash with a task of lower index. -/
theorem conflictOf_eq_lowestVa (g : Group) (ts : List Task) (t : Task) : conflictOf g ts t = lowestVa ((touches g t).filter fun a =>
    ((ts.filter fun x => x.id.idx < t.id.idx).flatMap (touches g)).any fun b => a.loc == b.loc && a.shape.clash b.shape) := rfl

theorem conflictOf_first (g : Group) {x y : Task} (hlt : x.id.idx < y.id.idx) : conflictOf g [x, y] x = none := by
  have hlower : [x, y].filter (fun z => z.id.idx < x.id.idx) = [] := by
    simp [BitVec.not_lt.2 (BitVec.le_of_lt hlt), BitVec.lt_irrefl]
  rw [conflictOf_eq_lowestVa, hlower]
  simp [lowestVa]

/-- The bytes at which the second task loses are those of its writes that the first has written too. -/
theorem conflictOf_second {g : Group} {x y : Task} (hlt : x.id.idx < y.id.idx) (hx : touches g x = x.det.writes.map WByte.touch)
    (hy : touches g y = y.det.writes.map WByte.touch) :
    conflictOf g [x, y] y = lowestVa ((y.det.writes.filter x.wrote).map WByte.touch) := by
  have hlower : [x, y].filter (fun z => z.id.idx < y.id.idx) = [x] := by
    simp [hlt, BitVec.lt_irrefl]
  have hclash : ((fun a : Touch => (x.det.writes.map WByte.touch).any fun b => a.loc == b.loc && a.shape.clash b.shape) ∘
      WByte.touch) = x.wrote := by
    funext w
    simp [Task.wrote, WByte.touch, Shape.clash, Function.comp_def, Bool.beq_comm]
  rw [conflictOf_eq_lowestVa, hlower, List.flatMap_singleton, hx, hy, List.filter_map, hclash]

/-! ## What a merge leaves -/

/-- The conflict that a task takes from the merge of its group. -/
def conflictIn (g : Group) (ts : List Task) (t : Task) : Option Word :=
  (((ts.map fun t => (t.id.idx, conflictOf g ts t)).find? fun c => c.1 == t.id.idx).map (·.2)).getD none

/-- The tasks whose writes the merge makes. -/
def keptIn (g : Group) (ts : List Task) : List Task := ts.filter fun t => !(conflictIn g ts t).isSome

/-- The bytes that the merge makes. -/
def cellsIn (g : Group) (ts : List Task) : List Touch :=
  (keptIn g ts).flatMap (touches g) ++ (ts.filter fun t => (conflictIn g ts t).isSome).flatMap (roundTouches g)

/-- A task after the merge of its interval, at logical time `clk`. -/
def Task.merges (conflict : Task → Option Word) (clk : Nat) (t : Task) : Task :=
  ({ t with
    merged := t.exited
    det := t.det.close (if t.exited then none else conflict t), ctx := { t.ctx with clock := max t.ctx.clock clk } } :
    Task).trimWindow

/-- The status records of the kept tasks' commands that saturated (R277). -/
def saturatedIn (g : Group) (base : List Host.Cell) (ts : List Task) : List Nat :=
  (keptIn g ts).flatMap fun t =>
    (t.det.stats.filter fun x => (mergeImage g base (keptIn g ts)).2.contains (t.id.idx, x.1)).map (·.2)

/-- The state with the bytes of a merge put. -/
def State.mergeCells (s : State) (g : Group) (ts : List Task) : State :=
  (cellsIn g ts).foldl (fun st a => st.mergeByte g.fn g.blk a (memGet (mergeImage g (s.detBase g) (keptIn g ts)).1 a.loc)) s

/-- The state in which the tasks of a group have taken what the merge has for them, in order. -/
def State.mergeTasks (s : State) (g : Group) (ts : List Task) : State :=
  let o := mergeOrder g (fun t => (conflictIn g ts t).isSome) ts 0 s
  (o.2.spillReturn g.fn g.blk (128 * sumNat (ts.map fun t => t.det.charged.length))).mapTasks
    (fun t => t.id.fn == g.fn && t.id.blk == g.blk) (Task.merges (conflictIn g ts) o.1)

/-- A merge puts its bytes, marks the status records of what saturated, has the tasks take what they have to, ends the block of one that
has lost and exited, and starts the next interval of the group (R129, R131). -/
theorem merge_eq {s : State} {g : Group} {ts : List Task}
    (hts : sortBy (fun x y : Task => x.id.idx < y.id.idx) (s.party g.fn g.blk) = ts) :
    ∃ f, s.merge g =
      (let s1 := s.mergeCells g ts
       let s2 : State := { s1 with mem := (saturatedIn g (s.detBase g) ts).foldl (fun m k => memSet m k (memGet m k ||| 2)) s1.mem }
       let s4 := s2.mergeTasks g ts
       if ts.any fun t => (conflictIn g ts t).isSome && t.exited then (s4.endBlk g.fn g.blk .faulted tcDETCONFLICT).settle
        else s4 : State).mapGroup g.fn g.blk f := by
  subst hts
  exact ⟨_, rfl⟩

/-- The merge of tasks that have not exited and wait for no status record puts its bytes and has them take what they have to. -/
theorem merge_quiet {s : State} {g : Group} {ts : List Task}
    (hts : sortBy (fun x y : Task => x.id.idx < y.id.idx) (s.party g.fn g.blk) = ts)
    (hs : ∀ t ∈ ts, t.det.stats = []) (hex : ∀ t ∈ ts, t.exited = false) :
    ∃ f, s.merge g = ((s.mergeCells g ts).mergeTasks g ts).mapGroup g.fn g.blk f := by
  have hsat : saturatedIn g (s.detBase g) ts = [] := by
    refine List.flatMap_eq_nil_iff.2 fun t ht => ?_
    rw [hs t (List.mem_filter.1 ht).1]
    rfl
  have hlate : (ts.any fun t => (conflictIn g ts t).isSome && t.exited) = false := by
    refine List.any_eq_false.2 fun t ht => ?_
    rw [hex t ht, Bool.and_false]
    decide
  obtain ⟨f, h⟩ := merge_eq (g := g) hts
  rw [hsat, hlate] at h
  exact ⟨f, h⟩

theorem State.Merging.all {s u : State} (h : s.Merging u) : u.all = s.all := by rw [State.all, h.me, h.tasks, State.all]

/-- Of tasks with no drops and no launches the merge changes only what `Task.merges` says, and no byte. -/
theorem mergeTasks_all {g : Group} {ts : List Task} (h : ∀ t ∈ ts, t.det.drops = [] ∧ t.det.launches = []) (s : State) :
    (∃ clk, (s.mergeTasks g ts).all = s.all.map fun t =>
      if t.id.fn == g.fn && t.id.blk == g.blk then t.merges (conflictIn g ts) clk else t) ∧ (s.mergeTasks g ts).mem = s.mem := by
  obtain ⟨hord, hmem⟩ := mergeOrder_merging g (fun t => (conflictIn g ts t).isSome) h 0 s
  refine ⟨⟨(mergeOrder g (fun t => (conflictIn g ts t).isSome) ts 0 s).1, ?_⟩, hmem⟩
  rw [← hord.all]
  rfl

/-- The merge of tasks that have not exited and of which it has nothing to take but bytes. -/
theorem merge_bytes {s : State} {g : Group} {ts : List Task}
    (hts : sortBy (fun x y : Task => x.id.idx < y.id.idx) (s.party g.fn g.blk) = ts)
    (hq : ∀ t ∈ ts, t.det.stats = [] ∧ t.det.drops = [] ∧ t.det.launches = []) (hex : ∀ t ∈ ts, t.exited = false)
    (hr : s.replays g.fn g.blk = false) (hm : Memory.wf s.mem = true) :
    (∃ clk, (s.merge g).all = s.all.map fun t =>
      if t.id.fn == g.fn && t.id.blk == g.blk then t.merges (conflictIn g ts) clk else t) ∧
    ∀ k, memGet (s.merge g).mem k = if (cellsIn g ts).any (·.loc == k) then memGet (mergeImage g (s.detBase g) (keptIn g ts)).1 k
      else memGet s.mem k := by
  obtain ⟨hput, hbytes⟩ := mergeBytes_put hr hm (mergeImage g (s.detBase g) (keptIn g ts)).1 (cellsIn g ts)
  obtain ⟨⟨clk, hall⟩, hmem⟩ := mergeTasks_all (g := g) (fun t ht => (hq t ht).2) (s.mergeCells g ts)
  obtain ⟨f, h⟩ := merge_quiet (g := g) hts (fun t ht => (hq t ht).1) hex
  refine ⟨⟨clk, ?_⟩, fun k => ?_⟩
  · rw [← hput.all, h]
    exact hall
  · rw [← hbytes k, h]
    exact congrArg (memGet · k) hmem

/-! ## Two tasks -/

section

variable {g : Group} {x y : Task} (hlt : x.id.idx < y.id.idx)

include hlt

theorem conflictIn_first : conflictIn g [x, y] x = none := by
  simp [conflictIn, conflictOf_first g hlt]

theorem conflictIn_second : conflictIn g [x, y] y = conflictOf g [x, y] y := by
  have hne : (x.id.idx == y.id.idx) = false := beq_false_of_ne fun h => absurd hlt (h ▸ BitVec.lt_irrefl _)
  simp [conflictIn, hne]

/-- Where nothing clashes both tasks are kept. -/
theorem keptIn_both (h : conflictOf g [x, y] y = none) : keptIn g [x, y] = [x, y] := by
  simp [keptIn, conflictIn_first hlt, conflictIn_second hlt, h]

/-- Where a byte clashes only the task of the lower index is kept. -/
theorem keptIn_first {v : Word} (h : conflictOf g [x, y] y = some v) : keptIn g [x, y] = [x] := by
  simp [keptIn, conflictIn_first hlt, conflictIn_second hlt, h]

end

/-- With no rounds, the merge makes the bytes of the tasks that it keeps. -/
theorem cellsIn_plain {g : Group} (hg : g.rounds = []) (ts : List Task) : cellsIn g ts = (keptIn g ts).flatMap (touches g) := by
  have h : (ts.filter fun t => (conflictIn g ts t).isSome).flatMap (roundTouches g) = [] :=
    List.flatMap_eq_nil_iff.2 fun t _ => roundTouches_none hg t
  rw [cellsIn, h, List.append_nil]

/-- With no rounds, no atomics and no reducing copies, the image of a merge is that of the plain writes. -/
theorem mergeImage_plain {g : Group} (hv : g.vals = []) (base : List Host.Cell) {kept : List Task}
    (h : ∀ t ∈ kept, t.det.atoms = [] ∧ t.det.reds = []) : (mergeImage g base kept).1 = kept.foldl mergePlain base := by
  have hatoms : kept.foldl mergeAtoms base = base := by
    refine (List.foldl_ext mergeAtoms (fun m _ => m) base fun m t ht => ?_).trans (List.foldl_fixed ..)
    rw [mergeAtoms, (h t ht).1]
    rfl
  have hreds : kept.foldl mergeReds (base, []) = (base, []) := by
    refine (List.foldl_ext mergeReds (fun m _ => m) (base, []) fun m t ht => ?_).trans (List.foldl_fixed ..)
    rw [mergeReds, (h t ht).2]
    rfl
  unfold mergeImage
  dsimp only
  rw [hv, List.reverse_nil, List.foldl_nil, hatoms, hreds]

end Sys2Proof.Machine

end

/-!
SUPPORT. The merge of two tasks (R127, R129, R371), and the obligation of deterministic mode.
-/
section

namespace Sys2Proof.Machine

/-! ## Bytes and conflict of two tasks -/

theorem any_touch (ws : List WByte) (k : Nat) : (ws.map WByte.touch).any (·.loc == k) = ws.any (·.loc == k) := List.any_map ..

section

variable {g : Group} {x y : Task} (hlt : x.id.idx < y.id.idx) (hrs : g.rounds = [])
  (hplain : ∀ z ∈ [x, y], z.det.atoms = [] ∧ z.det.reds = [])

include hlt hrs hplain

/-- The second task keeps its writes where none meets the first's. -/
theorem conflictOf_pair_none (h : y.det.writes.any x.wrote = false) : conflictOf g [x, y] y = none := by
  obtain ⟨⟨hxa, hxr⟩, ⟨hya, hyr⟩, -⟩ := List.forall_mem_cons.1 hplain |>.imp_right List.forall_mem_cons.1
  rw [conflictOf_second hlt (touches_plain hrs hxa hxr) (touches_plain hrs hya hyr),
    List.filter_eq_nil_iff.2 (List.any_eq_false.1 h)]
  rfl

/-- Otherwise it takes the lowest address at which one does. -/
theorem conflictOf_pair_some (h : y.det.writes.any x.wrote = true) : ∃ va, conflictOf g [x, y] y = some va ∧
    (∀ w ∈ y.det.writes, x.wrote w = true → va ≤ w.va) ∧ ∃ u ∈ y.det.writes, u.va = va ∧ x.wrote u = true := by
  obtain ⟨⟨hxa, hxr⟩, ⟨hya, hyr⟩, -⟩ := List.forall_mem_cons.1 hplain |>.imp_right List.forall_mem_cons.1
  rw [conflictOf_second hlt (touches_plain hrs hxa hxr) (touches_plain hrs hya hyr)]
  obtain ⟨w, hw, hmeet⟩ := List.any_eq_true.1 h
  have hne : (y.det.writes.filter x.wrote).map WByte.touch ≠ [] :=
    List.ne_nil_of_mem (List.mem_map_of_mem (List.mem_filter.2 ⟨hw, hmeet⟩))
  obtain ⟨va, hva, hall, a, ha, rfl⟩ := lowestVa_some hne
  obtain ⟨u, hu, rfl⟩ := List.mem_map.1 ha
  obtain ⟨hu, hmet⟩ := List.mem_filter.1 hu
  exact ⟨_, hva, fun w hw hm => hall _ (List.mem_map_of_mem (List.mem_filter.2 ⟨hw, hm⟩)), u, hu, rfl, hmet⟩

/-- The bytes that the merge of two tasks makes (R129). -/
theorem merged_pair (hv : g.vals = []) {base : List Host.Cell} (hb : Memory.wf base = true) (k : Nat) (old : Byte) :
    (if (cellsIn g [x, y]).any (·.loc == k) then memGet (mergeImage g base (keptIn g [x, y])).1 k else old) =
      overlaid x.det.writes k (if y.det.writes.any x.wrote then old else overlaid y.det.writes k old) := by
  obtain ⟨hx, hy, -⟩ := List.forall_mem_cons.1 hplain |>.imp_right List.forall_mem_cons.1
  rw [cellsIn_plain hrs]
  cases hm : y.det.writes.any x.wrote with
  | true =>
    obtain ⟨va, hva, -⟩ := conflictOf_pair_some hlt hrs hplain hm
    rw [keptIn_first hlt hva, mergeImage_plain hv base (by simpa using hx), List.flatMap_singleton, touches_plain hrs hx.1 hx.2,
      any_touch, List.foldl_cons, List.foldl_nil, memGet_mergePlain hb, if_pos rfl]
    split
    · rename_i h
      exact overlaid_some h ..
    · rename_i h
      exact (overlaid_none (Bool.eq_false_iff.2 h) _).symm
  | false =>
    rw [keptIn_both hlt (conflictOf_pair_none hlt hrs hplain hm), mergeImage_plain hv base hplain, List.flatMap_cons,
      List.flatMap_singleton, touches_plain hrs hx.1 hx.2, touches_plain hrs hy.1 hy.2, List.any_append, any_touch, any_touch,
      List.foldl_cons, List.foldl_cons, List.foldl_nil, memGet_mergePlain (wf_mergePlain hb x), memGet_mergePlain hb,
      if_neg Bool.false_ne_true]
    cases hxk : x.det.writes.any (·.loc == k) with
    | true =>
      have hyk : y.det.writes.any (·.loc == k) = false := by
        refine List.any_eq_false.2 fun w hw hk => List.any_eq_false.1 hm w hw ?_
        rw [Task.wrote, beq_iff_eq.1 hk]
        exact hxk
      rw [Bool.true_or, if_pos rfl, overlaid_none hyk, overlaid_none hyk, overlaid_some hxk _ old]
    | false =>
      rw [Bool.false_or, overlaid_none hxk, overlaid_none hxk]
      cases hyk : y.det.writes.any (·.loc == k) with
      | true => rw [if_pos rfl, overlaid_some hyk _ old]
      | false => rw [if_neg Bool.false_ne_true, overlaid_none hyk]

end

/-! ## When an interval merges (R127) -/

section

variable {s : State} {g : Group} (hgr : s.groupOf s.cur.arg.fn s.cur.arg.w = some g)

include hgr

theorem groupOf_name : g.fn = s.cur.arg.fn ∧ g.blk = s.cur.arg.w := by
  simpa using List.find?_some hgr

/-- The interval goes on while a task has neither arrived nor exited. -/
theorem exec_intervalMerge_waits
    (h : s.everyTask s.cur.arg.fn s.cur.arg.w (fun t => t.det.arrived || t.exited) = false) : exec .intervalMerge s = .next s := by
  rw [exec_intervalMerge]
  unfold execIntervalMerge
  simp only [hgr, h, Bool.not_false, Bool.or_true, if_pos]

theorem exec_intervalMerge_merges (hn : s.neverMeets s.cur.arg.fn s.cur.arg.w = false)
    (hp : (s.party s.cur.arg.fn s.cur.arg.w).any Task.pending = true)
    (h : s.everyTask s.cur.arg.fn s.cur.arg.w (fun t => t.det.arrived || t.exited) = true)
    (hme : (s.merge g).me.id = s.me.id) : exec .intervalMerge s = .next (s.merge g) := by
  rw [exec_intervalMerge]
  unfold execIntervalMerge
  simp only [hgr, hn, hp, h]
  rw [← hme, focus_self]
  rfl

end

theorem merges_id (c : Task → Option Word) (clk : Nat) (t : Task) : (t.merges c clk).id = t.id := rfl

theorem merges_det {t : Task} (h : t.exited = false) (c : Task → Option Word) (clk : Nat) :
    (t.merges c clk).det = t.det.close (c t) := by
  show t.det.close (if t.exited then none else c t) = _
  rw [h]
  rfl

section

variable {s : State} {g : Group} {x y : Task} (hgr : s.groupOf s.cur.arg.fn s.cur.arg.w = some g)
  (hparty : s.party s.cur.arg.fn s.cur.arg.w = [x, y]) (hlt : x.id.idx < y.id.idx)
  (hplain : ∀ z ∈ [x, y], z.det.atoms = [] ∧ z.det.reds = [] ∧ z.det.stats = [] ∧ z.det.drops = [] ∧ z.det.launches = [])
  (hrp : (s.fn s.cur.arg.fn).rpbusy = false) (hm : Memory.wf s.mem = true) (hx : x.exited = false) (hy : y.exited = false)

include hgr hparty hlt hplain hrp hm hx hy

/-- The merge of two tasks gives each the rest of its next interval, and memory the bytes of those that it keeps. -/
theorem merge_pair : (∃ clk, (s.merge g).all = s.all.map fun t =>
      if t.id.fn == s.cur.arg.fn && t.id.blk == s.cur.arg.w then t.merges (conflictIn g [x, y]) clk else t) ∧
    ∀ k, memGet (s.merge g).mem k = if (cellsIn g [x, y]).any (·.loc == k) then
      memGet (mergeImage g (s.detBase g) (keptIn g [x, y])).1 k else memGet s.mem k := by
  obtain ⟨hfn, hblk⟩ := groupOf_name hgr
  have hts : sortBy (fun x y : Task => x.id.idx < y.id.idx) (s.party g.fn g.blk) = [x, y] := by
    rw [hfn, hblk, hparty]
    exact sortBy_pair (decide_eq_true hlt)
  have hr : s.replays g.fn g.blk = false := by
    rw [replays_eq, hfn, hrp]
    rfl
  rw [← hfn, ← hblk]
  exact merge_bytes hts (fun t ht => (hplain t ht).2.2) (by simp [hx, hy]) hr hm

end

section

variable {s u : State} {fn : Nat} {blk : Word} {f : Task → Task}
  (h : u.all = s.all.map fun t => if t.id.fn == fn && t.id.blk == blk then f t else t)

include h

/-- The acting task keeps its name where the tasks of a node are changed. -/
theorem me_id_of_all (hf : ∀ t, (f t).id = t.id) : u.me.id = s.me.id := by
  refine (congrArg Task.id (List.cons.inj h).1).trans ((apply_ite Task.id ..).trans ?_)
  rw [hf, ite_self]

theorem mem_all_of_party : ∀ t ∈ s.party fn blk, f t ∈ u.all := by
  intro t ht
  obtain ⟨ht, hname⟩ := List.mem_filter.1 ht
  rw [h]
  exact List.mem_map.2 ⟨t, ht, if_pos hname⟩

end

/-- Both tasks of a node have reached their SYNCD where each has arrived. -/
theorem everyTask_pair {s : State} {fn : Nat} {blk : Word} {b : Blk} {x y : Task} (hb : s.blk? fn blk = some b)
    (hcount : b.eff.tcount.toNat = 2) (hparty : s.party fn blk = [x, y]) (hx : x.exited = false) (hy : y.exited = false) :
    s.everyTask fn blk (fun t => t.det.arrived || t.exited) = (x.det.arrived && y.det.arrived) := by
  rw [everyTask_eq hb, hcount, hparty]
  cases hxa : x.det.arrived <;> cases hya : y.det.arrived <;> simp [hx, hy, hxa, hya]

/-- Settles O48: SYNCD by the place that it holds, a round of two atomics by applying them in order, and the merge of two tasks by the
writes that it keeps. -/
theorem deterministicMode : Obligations.DeterministicMode := by
  unfold Obligations.DeterministicMode
  intro s
  refine ⟨fun g hg => ⟨exec_syncd_retires hg, fun hd => ⟨fun hw hh y hy hn => ?_, fun hw hh hb => ⟨fun hc => ?_, fun hc => ?_⟩,
    fun hi ha => ?_, fun hi ha hr => ⟨fun hc hst => ?_, fun va hc htm => ?_⟩⟩⟩, ?_, memGet_detBase s, ?_⟩
  · exact exec_syncd_illegal hg hd (Ctx.not_inSyncd hw hh) (Ctx.holdsBelow_of_mem hy hn)
  · exact exec_syncd_busy hg hd (Ctx.not_inSyncd hw hh) (Ctx.not_holdsBelow hb) hc
  · exact ⟨_, exec_syncd_arrives hg hd (Ctx.not_inSyncd hw hh) (Ctx.not_holdsBelow hb) hc, rfl, rfl, rfl⟩
  · exact exec_syncd_rejoins hg hd (Ctx.inSyncd_iff.2 hi) ha
  · obtain ⟨hctx, hmem⟩ := leaveSyncd_won_ctx (next := s.me.ctx.pc + 4) hc hst hr
    exact ⟨_, exec_syncd_leaves hg hd (Ctx.inSyncd_iff.2 hi) ha, (congrArg Ctx.pc hctx :), (congrArg Ctx.clock hctx :),
      (congrArg Ctx.wait hctx :), (congrArg Ctx.g hctx :), hmem⟩
  · exact ⟨_, exec_syncd_leaves hg hd (Ctx.inSyncd_iff.2 hi) ha, leaveSyncd_lost_trap hc htm hr⟩
  · intro g b r q v w z hgr hb hrs hv hrl hql hrz hqz hr hq hrn hqn hlt hbase hw hz
    rw [exec_atomicRoundClose_eq hgr (openRound_pair hrs hrl hql hrz hqz hr hq hrn hqn),
      everyTask_round hb hrs hrl hql hrz hqz]
    refine ⟨fun hall => ?_, fun hlack => ?_⟩
    · rw [if_pos (decide_eq_true hall)]
      refine ⟨_, _, rfl, rfl, rfl, groupOf_mapGroup hgr fun _ => ⟨rfl, rfl⟩, ?_⟩
      rw [closeRound_pair hrs hrl hql hrz hqz _ hr hq hrn hqn hlt hv hbase (hrz ▸ hw) rfl, hz, hqz]
      exact ⟨rfl, rfl, rfl⟩
    · rw [if_neg fun h => Nat.not_le_of_lt hlack (of_decide_eq_true h)]
  · intro g b x y hgr hb hcount hparty hlt hrs hv hplain hn hrp hm hsnap hx hy
    have hplain' : ∀ z ∈ [x, y], z.det.atoms = [] ∧ z.det.reds = [] := fun z hz => ⟨(hplain z hz).1, (hplain z hz).2.1⟩
    have hevery := everyTask_pair hb hcount hparty hx hy
    refine ⟨fun ha => exec_intervalMerge_waits hgr ?_, fun hxa hya => ?_⟩
    · rw [hevery, Bool.and_eq_false_iff]
      exact ha
    obtain ⟨⟨clk, hall⟩, hmem⟩ := merge_pair hgr hparty hlt hplain hrp hm hx hy
    have hin := mem_all_of_party hall
    rw [hparty] at hin
    refine ⟨s.merge g, _, _, exec_intervalMerge_merges hgr hn ?_ ?_ (me_id_of_all hall fun _ => rfl), hin x (by simp), rfl,
      hin y (by simp), rfl, ?_⟩
    · rw [hparty, List.any_cons, Task.pending, hxa]
      rfl
    · rw [hevery, hxa, hya]
      rfl
    rw [merges_det hx, merges_det hy, conflictIn_first hlt, conflictIn_second hlt]
    refine ⟨rfl, rfl, rfl, rfl, rfl, rfl, rfl, fun k => ?_, conflictOf_pair_none hlt hrs hplain', fun w hw hmeet => ?_⟩
    · exact (hmem k).trans (merged_pair hlt hrs hplain' hv (wf_detBase hm hsnap) k _)
    · obtain ⟨va, hva, hle, hmet⟩ := conflictOf_pair_some hlt hrs hplain' (List.any_eq_true.2 ⟨w, hw, hmeet⟩)
      exact ⟨va, hva, hle w hw hmeet, hmet⟩

end Sys2Proof.Machine

end

/-!
SUPPORT. Stream commands: what the command in focus does in each phase (R262 to R264), and what the shared operations on commands
leave of them.
-/
section

namespace Sys2Proof.Machine

/-! ## The command in focus -/

section

variable {s : State} {c : Cmd} {p : Phase} {check : State → Cmd → Option (BitVec 8 × Word)} {start work : State → Cmd → State}

/-- The number of a command in focus is the one that is sought. -/
theorem State.Focus.seq (h : s.Focus c p) : s.cur.seq = c.seq := by
  have hc := List.find?_some (p := fun x : Cmd => x.seq == s.cur.seq) h.cmd
  exact (beq_iff_eq.1 hc).symm

theorem State.Focus.cmd_seq (h : s.Focus c p) : s.me.cmd? c.seq = some c := h.seq ▸ h.cmd

theorem State.Focus.mem (h : s.Focus c p) : c ∈ s.me.cmds := List.mem_of_find?_eq_some h.cmd

theorem runCmd_focus (h : s.Focus c p) : runCmd s check start work =
    match c.phase with
    | .accepted =>
      if !s.startable c then .next s
      else match check s c with
        | some (e, va) => .next (s.startStop c e va)
        | none => .next (start s c)
    | .running => .next (work s c)
    | _ => .next s := by
  unfold runCmd
  rw [h.cmd]
  simp only [h.open_, h.kept, h.read, Bool.or_self, Bool.false_eq_true, if_false] <;> rfl

theorem runCmd_held (h : s.Focus c .accepted) (hs : s.startable c = false) : runCmd s check start work = .next s := by
  rw [runCmd_focus h, h.phase, hs]
  rfl

theorem runCmd_stopped (h : s.Focus c .accepted) (hs : s.startable c = true) {e : BitVec 8} {va : Word}
    (hc : check s c = some (e, va)) : runCmd s check start work = .next (s.startStop c e va) := by
  rw [runCmd_focus h, h.phase, hs, hc]
  rfl

theorem runCmd_starts (h : s.Focus c .accepted) (hs : s.startable c = true) (hc : check s c = none) :
    runCmd s check start work = .next (start s c) := by
  rw [runCmd_focus h, h.phase, hs, hc]
  rfl

theorem runCmd_works (h : s.Focus c .running) : runCmd s check start work = .next (work s c) := by
  rw [runCmd_focus h, h.phase]

theorem withPat_some {t : Pat} (h : patOf c.raw = some t) (k : Pat → State) : withPat c s k = k t := by
  unfold withPat
  rw [h]

theorem withCard_some {d : Card} (h : cardOf c.raw c.base = some d) (k : Card → State) : withCard c s k = k d := by
  unfold withCard
  rw [h]

theorem startPat_some {t : Pat} (h : patOf c.raw = some t) : startPat s c = s.startCmd c (List.replicate t.counts.length 0) := by
  unfold startPat
  rw [h]

theorem portFree_iff {k : Nat} : s.portFree k = true ↔ (s.me.run.port k).offer = [] := List.isEmpty_iff

theorem drainInput_free (h : (s.me.run.port c.portNo).offer = []) : s.drainInput c = s.finishCmd c.seq :=
  if_pos (portFree_iff.2 h)

theorem drainInput_taken (h : (s.me.run.port c.portNo).offer ≠ []) : s.drainInput c = s :=
  if_neg (mt portFree_iff.1 h)

theorem startStop_fault {e : BitVec 8} {va : Word} (he : e ≠ 0x08) : s.startStop c e va = s.cmdFault c e va [] := if_neg he

theorem startStop_abandoned {va : Word} : s.startStop c 0x08 va = (s.cmdRecord c 0x08 va []).endCmd c 0x08 := if_pos rfl

end

/-! ## Commands after a change -/

section

variable {s : State}

/-- A command that is changed, its number apart, is found as it has become. -/
theorem cmd?_mapCmd (q : BitVec 32) {f : Cmd → Cmd} (hf : ∀ x, (f x).seq = x.seq) (t : Task) :
    (t.mapCmd q f).cmd? q = (t.cmd? q).map f := by
  unfold Task.cmd? Task.mapCmd
  induction t.cmds with
  | nil => rfl
  | cons x l ih =>
    rw [List.map_cons, List.find?_cons, List.find?_cons]
    cases hx : x.seq == q with
    | true => simp only [if_true, hf, hx, Option.map_some]
    | false => simpa only [Bool.false_eq_true, if_false, hx] using ih

@[simp] theorem mapCmd_me (q : BitVec 32) (f : Cmd → Cmd) : (s.mapCmd q f).me = s.me.mapCmd q f := rfl

/-- What a command that has moved its last word is. -/
def Cmd.ended (x : Cmd) : Cmd := { x with phase := .finished, ctr := [] }

/-- What a command that a class S fault has stopped is. -/
def Cmd.stopped (cause : BitVec 8) (x : Cmd) : Cmd := { x with phase := .faulted, prior := x.phase, cause := cause }

theorem finishCmd_me (s : State) (q : BitVec 32) : (s.finishCmd q).me = (s.me.mapCmd q Cmd.ended).flushPorts := rfl

theorem finishCmd_mem (s : State) (q : BitVec 32) : (s.finishCmd q).mem = s.mem := rfl

theorem cmd?_finishCmd (s : State) (q : BitVec 32) : (s.finishCmd q).me.cmd? q = (s.me.cmd? q).map Cmd.ended :=
  cmd?_mapCmd q (f := Cmd.ended) (fun _ => rfl) s.me

/-- A stop leaves the commands and the run. -/
theorem postStop_task (s : State) (p : Pending) : (s.postStop p).me.id = s.me.id ∧ (s.postStop p).me.cmds = s.me.cmds ∧
    (s.postStop p).me.run = s.me.run := by
  unfold State.postStop
  split
  · dsimp only
    split
    · exact ⟨rfl, rfl, rfl⟩
    · split <;> exact ⟨rfl, rfl, rfl⟩
  · exact ⟨rfl, rfl, rfl⟩

theorem cmdFault_task (s : State) (c : Cmd) (cause : BitVec 8) (va : Word) (ctrs : List Nat) :
    (s.cmdFault c cause va ctrs).me.id = s.me.id ∧
    (s.cmdFault c cause va ctrs).me.cmds = (s.me.mapCmd c.seq (Cmd.stopped cause)).cmds ∧
    (s.cmdFault c cause va ctrs).me.run = { s.me.run with gated := true } := by
  have hr : (s.cmdRecord c cause va ctrs).me = s.me := fault_me ..
  unfold State.cmdFault
  dsimp only
  obtain ⟨hid, hcmds, hrun⟩ := postStop_task
    (((s.cmdRecord c cause va ctrs).mapCmd c.seq (Cmd.stopped cause)).mapRun fun r => { r with gated := true })
    ⟨cause, 1, c.seq, c.ipc, true, false⟩
  rw [mapRun_me, mapCmd_me, hr] at hid hcmds hrun
  exact ⟨hid, hcmds, hrun⟩

/-- A command that a fault has stopped is found so. -/
theorem cmd?_cmdFault (s : State) (c : Cmd) (cause : BitVec 8) (va : Word) (ctrs : List Nat) :
    (s.cmdFault c cause va ctrs).me.cmd? c.seq = (s.me.cmd? c.seq).map (Cmd.stopped cause) := by
  obtain ⟨-, hcmds, -⟩ := cmdFault_task s c cause va ctrs
  have h := cmd?_mapCmd c.seq (f := Cmd.stopped cause) (fun _ => rfl) s.me
  unfold Task.cmd? at h ⊢
  rwa [hcmds]

end

end Sys2Proof.Machine

end

/-!
SUPPORT. Start and retirement of commands (R119, R262 to R264, R276, R292, R386).
-/
section

namespace Sys2Proof.Machine

/-! ## What starts by which checks -/

section

variable {s : State} {c : Cmd} {p : BitVec 6} {blk st lim : BitVec 24} {rop esz : BitVec 4} {n : BitVec 32} {i : Instr}

theorem exec_of_held (hi : i ∈ [Instr.scCopy p blk, .scRcopy p blk rop st, .scGath p blk esz lim, .scScat p blk esz lim,
    .scSlfill p blk, .scSlsee p blk, .scJob p blk, .scHalo p blk, .scColl p blk, .scFlume p n, .scCfg blk, .scSwap,
    .scFence, .scDrain p]) : ∃ check start work, exec i s = runCmd s check start work := by
  revert i
  simp only [List.forall_mem_cons, List.not_mem_nil, false_imp_iff, implies_true, and_true]
  exact ⟨⟨_, _, _, exec_scCopy ..⟩, ⟨_, _, _, exec_scRcopy ..⟩, ⟨_, _, _, exec_scGath ..⟩, ⟨_, _, _, exec_scScat ..⟩,
    ⟨_, _, _, exec_scSlfill ..⟩, ⟨_, _, _, exec_scSlsee ..⟩, ⟨_, _, _, exec_scJob ..⟩, ⟨_, _, _, exec_scHalo ..⟩,
    ⟨_, _, _, exec_scColl ..⟩, ⟨_, _, _, exec_scFlume ..⟩, ⟨_, _, _, exec_scCfg ..⟩, ⟨_, _, _, exec_scSwap ..⟩,
    ⟨_, _, _, exec_scFence ..⟩, ⟨_, _, _, exec_scDrain ..⟩⟩

/-- The first check of a start that fails is among R264's where one of those does. -/
theorem exec_of_checked (hi : i ∈ [Instr.scCopy p blk, .scRcopy p blk rop st, .scGath p blk esz lim, .scScat p blk esz lim,
    .scSlfill p blk, .scSlsee p blk, .scJob p blk, .scHalo p blk, .scColl p blk, .scFlume p n, .scDrain p])
    {x : BitVec 8 × Word} (hx : s.startFault c = some x) :
    ∃ check start work, exec i s = runCmd s check start work ∧ check s c = some x := by
  have horElse (f : Unit → Option (BitVec 8 × Word)) : (s.startFault c).orElse f = some x := by rw [hx]; rfl
  revert i
  simp only [List.forall_mem_cons, List.not_mem_nil, false_imp_iff, implies_true, and_true]
  exact ⟨⟨_, _, _, exec_scCopy .., hx⟩, ⟨_, _, _, exec_scRcopy .., hx⟩, ⟨_, _, _, exec_scGath .., hx⟩,
    ⟨_, _, _, exec_scScat .., hx⟩, ⟨_, _, _, exec_scSlfill .., hx⟩, ⟨_, _, _, exec_scSlsee .., hx⟩, ⟨_, _, _, exec_scJob .., hx⟩,
    ⟨_, _, _, exec_scHalo .., hx⟩, ⟨_, _, _, exec_scColl .., horElse _⟩, ⟨_, _, _, exec_scFlume .., horElse _⟩,
    ⟨_, _, _, exec_scDrain .., hx⟩⟩

theorem exec_of_pattern (hi : i ∈ [Instr.scCopy p blk, .scRcopy p blk rop st, .scGath p blk esz lim, .scScat p blk esz lim,
    .scSlfill p blk, .scSlsee p blk]) : ∃ work, exec i s = runCmd s State.startFault startPat work := by
  revert i
  simp only [List.forall_mem_cons, List.not_mem_nil, false_imp_iff, implies_true, and_true]
  exact ⟨⟨_, exec_scCopy ..⟩, ⟨_, exec_scRcopy ..⟩, ⟨_, exec_scGath ..⟩, ⟨_, exec_scScat ..⟩, ⟨_, exec_scSlfill ..⟩,
    ⟨_, exec_scSlsee ..⟩⟩

theorem startJob_some {d : Card} (h : cardOf c.raw c.base = some d) :
    startJob s c = (s.takeCard c.seq d).startCmd c (List.replicate d.counts.length 0) := withCard_some h _

theorem flumeFault_none (hf : s.startFault c = none) (h : (s.cmdFlume c).isSome = true) : flumeFault s c = none := by
  unfold flumeFault
  rw [hf, ← Option.not_isSome, h]
  rfl

theorem flumeFault_gone (hf : s.startFault c = none) (h : s.cmdFlume c = none) : flumeFault s c = some (tcPROT, c.base) := by
  unfold flumeFault
  rw [hf, h]
  rfl

/-! ## What holds a start back -/

theorem startable_of_not_mayStart (h : s.mayStart c = false) : s.startable c = false := by
  unfold State.startable
  rw [h, Bool.false_and]

theorem goesBefore_iff (t : Task) (c x : Cmd) : t.goesBefore c x = true ↔ (c.op = 0x12 ∧ c.phase = .accepted) ∧
    (x.op = 0x12 ∧ x.phase = .accepted ∧ x.portNo = c.portNo) ∧ x.cardPrio < c.cardPrio ∧ t.behindJob x = true := by
  simp [Task.goesBefore, Cmd.cardOn, and_assoc]

/-- An earlier command that holds a port of a command holds it back, but for a card that it goes before. -/
theorem startable_of_port {x : Cmd} (hx : x ∈ s.me.cmds) (hacc : x.acc < c.acc) (hport : c.ports.any x.holdsPort = true)
    (h : s.me.goesBefore c x = false) : s.startable c = false := by
  have hany : (s.me.cmds.any fun x => x.acc < c.acc && c.ports.any x.holdsPort && !s.me.goesBefore c x) = true :=
    List.any_eq_true.2 ⟨x, hx, by simp [hacc, hport, h]⟩
  refine startable_of_not_mayStart ?_
  unfold State.mayStart
  rw [hany]
  rfl

/-- A later card that goes before a card, and may start, holds it back. -/
theorem startable_of_later {x : Cmd} (hx : x ∈ s.me.cmds) (hacc : c.acc < x.acc) (hgo : s.me.goesBefore x c = true)
    (hmay : s.mayStart x = true) : s.startable c = false := by
  have hany : (s.me.cmds.any fun x => c.acc < x.acc && s.me.goesBefore x c && s.mayStart x) = true :=
    List.any_eq_true.2 ⟨x, hx, by simp [hacc, hgo, hmay]⟩
  unfold State.startable
  rw [hany, Bool.not_true, Bool.and_false]

/-- An earlier command of the task whose footprint meets a command's holds it back. -/
theorem startable_of_footprint {x : Cmd} (hx : x ∈ s.me.cmds) (hplaced : s.me.isPlaced = true) (hlive : x.live = true)
    (hacc : x.acc < c.acc) (hfeet : feetClash true x.foot c.foot = true) : s.startable c = false := by
  have hme : (s.me.cmds.any fun x => x.live && x.acc < c.acc && feetClash (s.me.id == s.me.id) x.foot c.foot) = true :=
    List.any_eq_true.2 ⟨x, hx, by simp [hlive, hacc, hfeet]⟩
  have hclash : s.clashes c = true := List.any_eq_true.2 ⟨s.me, List.mem_cons_self .., by rw [hme, hplaced, beq_self_eq_true]; rfl⟩
  refine startable_of_not_mayStart ?_
  unfold State.mayStart
  rw [hclash, Bool.not_true, Bool.and_false]

theorem startFault_unread {x : BitVec 8 × Word} (h : c.rawErr = some x) : s.startFault c = some x := by
  unfold State.startFault
  rw [h]

theorem startFault_malformed (h : c.rawErr = none) (hsp : c.spans s.me.size true = none) :
    s.startFault c = some (tcILLOP, c.blk) := by
  unfold State.startFault
  rw [h, hsp]

/-! ## Retirement -/

/-- What a command that has retired is. -/
def Cmd.retired (x : Cmd) : Cmd := { x with phase := .done, foot := [], raw := [], left := [], tiles := [] }

theorem freeTiles_frame (s : State) (c : Cmd) : (s.freeTiles c).me = s.me ∧ (s.freeTiles c).mem = s.mem := by
  unfold State.freeTiles
  refine foldl_keeps (P := fun u : State => u.me = s.me ∧ u.mem = s.mem) (fun u t h => ?_) c.tiles ⟨rfl, rfl⟩
  exact h

/-- A retirement leaves memory; it sets the event latch, and releases the command's footprint and number. -/
theorem retireCmd_frame (s : State) (c : Cmd) : (s.retireCmd c).mem = s.mem ∧ (s.retireCmd c).me.ctx.latch = true ∧
    (s.retireCmd c).me.cmd? c.seq = (s.me.cmd? c.seq).map Cmd.retired := by
  obtain ⟨hme, hmem⟩ := freeTiles_frame s c
  refine ⟨hmem, rfl, ?_⟩
  rw [← hme]
  exact cmd?_mapCmd c.seq (f := Cmd.retired) (fun _ => rfl) (s.freeTiles c).me

theorem noteStatus_mem (s : State) (c : Cmd) (va : Word) : (s.noteStatus c va).mem = s.mem := by
  unfold State.noteStatus
  split
  · rfl
  · split <;> rfl

section

variable (h : s.Focus c .finished)

include h

theorem commandRetire_plain (hst : c.status = none) : exec .commandRetire s = .next (s.retireCmd c).reapFlumes := by
  rw [exec_commandRetire, execCommandRetire, h.cmd]
  simp only [h.phase, hst]
  rfl

theorem commandRetire_status {va : Word} (hst : c.status = some va) : exec .commandRetire s =
    match engWrite (enginePlace false) s va (dbytes (statusWord c (c.cause == 0))) with
    | .wait => .next s
    | .fault s e a => .next (s.cmdFault c e a c.ctr)
    | .ok clk s1 => .next (((s1.noteStatus c va).mapCmd c.seq fun x => { x with wclk := max x.wclk clk }).retireCmd c) := by
  rw [exec_commandRetire, execCommandRetire, h.cmd]
  simp only [h.phase, hst] <;> rfl

end

/-- The first doubleword of a status record has room for each of its fields. -/
theorem dbytes_statusWord (c : Cmd) : dbytes (statusWord c (c.cause == 0)) =
    leBytes 8 ((if c.cause = 0 then 1 else 0) + (if c.psat then 2 else 0) + c.cause.toNat * 2 ^ 8 + c.seq.toNat * 2 ^ 32) := by
  have hc := c.cause.isLt
  have hq := c.seq.isLt
  have hdone : bool1 (c.cause == 0) = if c.cause = 0 then 1 else 0 := by simp [bool1]
  have hsat : bool1 c.psat * 2 = if c.psat then 2 else 0 := by cases c.psat <;> rfl
  have hdone' : (if c.cause = 0 then 1 else 0) ≤ 1 := by split <;> decide
  have hsat' : (if c.psat then 2 else 0) ≤ 2 := by split <;> decide
  rw [dbytes, statusWord, hdone, hsat, BitVec.toNat_ofNat, Nat.mod_eq_of_lt (by omega)]

end

/-- Settles O33: a start by what holds it back, what its checks find, and what it leaves; a retirement by its status record. -/
theorem commandStartAndRetirement : Obligations.CommandStartAndRetirement := by
  unfold Obligations.CommandStartAndRetirement
  refine ⟨fun s c p blk st lim rop esz n h => ⟨fun hs i hi => ?_, fun hs => ⟨fun e va he i hi => ?_, fun hf =>
    ⟨fun t ht i hi => ?_, fun t ht => ?_, ?_, fun hg => ?_, fun hg => ?_⟩⟩,
    fun x hx hacc hport hn => ?_, fun x hx hacc hxop hcop hxph hxport hprio hbeh hmay => ?_,
    fun x hx hpl hl hacc hfeet => startable_of_footprint hx hpl hl hacc hfeet,
    fun e he => startFault_unread he, fun he hsp => startFault_malformed he hsp⟩,
    fun s c h => ⟨fun hst => ?_, fun va rec hst hrec => ?_⟩⟩
  · obtain ⟨check, start, work, he⟩ := exec_of_held (s := s) hi
    rw [he, runCmd_held h hs]
  · obtain ⟨check, start, work, hex, hc⟩ := exec_of_checked hi he
    rw [hex, runCmd_stopped h hs hc]
    refine ⟨fun hne => by rw [startStop_fault hne], ?_⟩
    rintro rfl
    rw [startStop_abandoned]
  · obtain ⟨work, he⟩ := exec_of_pattern (s := s) hi
    rw [he, runCmd_starts h hs hf, startPat_some ht]
    rfl
  · rw [exec_scJob, execScJob, runCmd_starts h hs hf, startJob_some ht]
    rfl
  · rw [exec_scHalo, execScHalo, runCmd_starts h hs hf]
    rfl
  · rw [exec_scFlume, execScFlume, runCmd_stopped h hs (flumeFault_gone hf hg), startStop_fault (by decide)]
    rfl
  · rw [exec_scFlume, execScFlume, runCmd_starts h hs (flumeFault_none hf hg)]
    rfl
  · refine startable_of_port hx hacc hport (Bool.eq_false_iff.2 fun hg => hn ?_)
    obtain ⟨⟨hcop, -⟩, ⟨hxop, hxph, hxport⟩, hprio, -⟩ := (goesBefore_iff ..).1 hg
    exact ⟨hcop, hxop, hxport, hxph, hprio⟩
  · exact startable_of_later hx hacc ((goesBefore_iff ..).2 ⟨⟨hxop, hxph⟩, ⟨hcop, h.phase, hxport.symm⟩, hprio, hbeh⟩) hmay
  · obtain ⟨hmem, hlatch, hcmd⟩ := retireCmd_frame s c
    have hreap := counted_reapFlumes (s.retireCmd c)
    refine ⟨_, commandRetire_plain h hst, by rw [hreap.me, hlatch], ⟨c.retired, ?_, rfl, rfl⟩, hreap.mem.trans hmem⟩
    rw [hreap.me, hcmd, h.cmd_seq]
    rfl
  · rw [hrec, ← dbytes_statusWord, commandRetire_status h hst]
    refine ⟨fun hw => by rw [hw], fun u e a hw => by rw [hw], fun clk u hw => ?_⟩
    rw [hw]
    obtain ⟨hmem, hlatch, -⟩ := retireCmd_frame ((u.noteStatus c va).mapCmd c.seq fun x => { x with wclk := max x.wclk clk }) c
    exact ⟨_, rfl, hmem.trans (noteStatus_mem u c va), hlatch⟩

end Sys2Proof.Machine

end

/-!
SUPPORT. Units of running copies (R144, R159, R267, R271 to R273, R275).
-/
section

namespace Sys2Proof.Machine

/-- A block that is a pattern has units of at least one word (R266). -/
theorem patOf_unit_pos {raw : List Byte} {t : Pat} (h : patOf raw = some t) : 0 < t.unit := by
  unfold patOf at h
  dsimp only at h
  split at h
  · exact absurd h nofun
  · rename_i hn
    simp only [Bool.or_eq_true, decide_eq_true_eq, not_or] at hn
    obtain ⟨⟨⟨⟨-, -⟩, hlo⟩, -⟩, -⟩ := hn
    cases h
    exact Nat.mul_pos (by decide) (by dsimp only; omega)

section

variable {s : State} {c : Cmd} {t : Pat} {p : BitVec 6} {blk st lim : BitVec 24} {rop esz : BitVec 4}

/-! ## Units out of a port -/

theorem patOut_misaligned {n : Nat} (h : (t.addr c.base c.ctr).toNat % n ≠ 0)
    (wr : State → Word → List Byte → EngRes (Nat × List Nat × Bool)) :
    patOut t n s c wr = s.cmdFault c tcALIGN (t.addr c.base c.ctr) c.ctr := if_pos h

theorem patOut_aligned {n : Nat} (h : (t.addr c.base c.ctr).toNat % n = 0)
    (wr : State → Word → List Byte → EngRes (Nat × List Nat × Bool)) :
    patOut t n s c wr = copyOut c t.unit (t.addr c.base c.ctr) (nextCtr t.counts c.ctr) s wr := if_neg (not_not_intro h)

theorem copyOut_short {n : Nat} (h : (s.me.run.port c.portNo).outq.length < n) (va : Word) (next : List Nat)
    (wr : State → Word → List Byte → EngRes (Nat × List Nat × Bool)) : copyOut c n va next s wr = s := if_pos h

theorem copyOut_writes {n : Nat} (hn : n ≤ (s.me.run.port c.portNo).outq.length) {pl : Placer} {va : Word} {clk : Nat} {u : State}
    (hw : engWrite pl s va ((s.me.run.port c.portNo).outq.take n) = .ok clk u) (next : List Nat) :
    copyOut c n va next s (plainWrite pl) = u.wroteUnit c c.portNo n clk [] false next := by
  unfold copyOut plainWrite
  dsimp only
  rw [if_neg (Nat.not_lt.2 hn), hw]

theorem copyOut_faults {n : Nat} (hn : n ≤ (s.me.run.port c.portNo).outq.length) {pl : Placer} {va v : Word} {e : BitVec 8}
    {u : State} (hw : engWrite pl s va ((s.me.run.port c.portNo).outq.take n) = .fault u e v) (next : List Nat) :
    copyOut c n va next s (plainWrite pl) = u.cmdFault c e v c.ctr := by
  unfold copyOut plainWrite
  dsimp only
  rw [if_neg (Nat.not_lt.2 hn), hw]

/-! ## Units into a port -/

theorem copyIn_ended {pl : Placer} (ho : (s.me.run.port c.portNo).offer = []) (hc : c.ctr = []) :
    copyIn pl t s c = s.finishCmd c.seq := by
  unfold copyIn
  rw [portFree_iff.2 ho, hc, drainInput_free ho]
  rfl

theorem copyIn_misaligned {pl : Placer} (ho : (s.me.run.port c.portNo).offer = []) (hc : c.ctr ≠ [])
    (hva : (t.addr c.base c.ctr).toNat % 4 ≠ 0) : copyIn pl t s c = s.cmdFault c tcALIGN (t.addr c.base c.ctr) c.ctr := by
  unfold copyIn
  rw [portFree_iff.2 ho, if_neg (by decide), if_neg (mt List.isEmpty_iff.1 hc)]
  exact if_pos hva

theorem copyIn_reads {pl : Placer} (ho : (s.me.run.port c.portNo).offer = []) (hc : c.ctr ≠ [])
    (hva : (t.addr c.base c.ctr).toNat % 4 = 0) {bs : List Byte} {u : State}
    (hr : engRead pl s (t.addr c.base c.ctr) t.unit c.nseed c.nstep = .ok bs u) :
    copyIn pl t s c = u.presentUnit c pl (t.addr c.base c.ctr) bs (nextCtr t.counts c.ctr) := by
  unfold copyIn
  rw [portFree_iff.2 ho, if_neg (by decide), if_neg (mt List.isEmpty_iff.1 hc)]
  dsimp only
  rw [if_neg (not_not_intro hva), hr]

/-! ## The commands at work -/

section

variable (h : s.Focus c .running) (ht : patOf c.raw = some t)

include h ht

theorem scCopy_takes (ho : (s.me.run.decl c.portNo).out = true) :
    exec (.scCopy p blk) s = .next (patOut t 4 s c (plainWrite (enginePlace false))) := by
  rw [exec_scCopy, execScCopy, runCmd_works h, withPat_some ht, if_pos ho]

theorem scCopy_presents (ho : (s.me.run.decl c.portNo).out = false) :
    exec (.scCopy p blk) s = .next (copyIn (enginePlace false) t s c) := by
  rw [exec_scCopy, execScCopy, runCmd_works h, withPat_some ht, if_neg (by rw [ho]; decide)]

theorem scSlfill_takes : exec (.scSlfill p blk) s = .next (patOut t 4 s c (plainWrite (slotPlace true))) := by
  rw [exec_scSlfill, execScSlfill, runCmd_works h, withPat_some ht]

/-- An SC.SLSEE with no unit to read goes as SC.COPY does. -/
theorem scSlsee_copies (hno : c.ctr = [] ∨ (t.addr c.base c.ctr).toNat % 4 ≠ 0) :
    exec (.scSlsee p blk) s = .next (copyIn (slotPlace false) t s c) := by
  rw [exec_scSlsee, execScSlsee, runCmd_works h, withPat_some ht]
  refine congrArg Host.Outcome.next (if_pos ?_)
  rcases hno with hno | hno <;> simp [hno]

theorem scSlsee_places (ho : (s.me.run.port c.portNo).offer = []) (hc : c.ctr ≠ []) (hva : (t.addr c.base c.ctr).toNat % 4 = 0)
    {w : State} {x : Target} (hp : slotPlace false s (t.addr c.base c.ctr) .engRead = .ok w x) :
    exec (.scSlsee p blk) s = .next (if w.severed x then s.stopMe tcSEVERED (t.addr c.base c.ctr)
      else match seeCheck w x with
        | some (.error _) => s
        | some (.ok e) => s.endCmd c e
        | none => copyIn (slotPlace false) t s c) := by
  rw [exec_scSlsee, execScSlsee, runCmd_works h, withPat_some ht]
  dsimp only
  rw [if_neg (by simp [portFree_iff.2 ho, hc, hva]), hp] <;> rfl

theorem scGath_ended (ho : (s.me.run.port c.portNo).offer = []) (hc : c.ctr = []) :
    exec (.scGath p blk esz lim) s = .next (s.finishCmd c.seq) := by
  rw [exec_scGath, execScGath, runCmd_works h, withPat_some ht, portFree_iff.2 ho, hc, drainInput_free ho]
  rfl

theorem scGath_presents (ho : (s.me.run.port c.portNo).offer = []) (hc : c.ctr ≠ []) {a : Word} {u v : State} {bs : List Byte}
    (hi : indexed t s c = .ok a u) (hr : engRead (enginePlace false) u a (2 ^ cRop c.word) c.nseed c.nstep = .ok bs v) :
    exec (.scGath p blk esz lim) s = .next (v.presentUnit c (enginePlace false) a bs (nextCtr t.counts c.ctr)) := by
  rw [exec_scGath, execScGath, runCmd_works h, withPat_some ht, portFree_iff.2 ho, if_neg (by decide),
    if_neg (mt List.isEmpty_iff.1 hc), hi]
  dsimp only
  rw [hr]

theorem scScat_takes {a : Word} {u : State} (hi : indexed t s c = .ok a u) : exec (.scScat p blk esz lim) s =
    .next (copyOut c (2 ^ cRop c.word) a (nextCtr t.counts c.ctr) u (plainWrite (enginePlace false))) := by
  rw [exec_scScat, execScScat, runCmd_works h, withPat_some ht, hi]

end

/-! ## A unit that has left its port -/

/-- Tiles hold one copy more. -/
def State.tilesHeld (s : State) (l : List Nat) : State :=
  l.foldl (fun (st : State) t => st.setTile t { st.tile t with copies := (st.tile t).copies + 1 }) s

theorem tilesHeld_frame (s : State) (l : List Nat) : (s.tilesHeld l).me = s.me ∧ (s.tilesHeld l).mem = s.mem := by
  unfold State.tilesHeld
  refine foldl_keeps (P := fun u : State => u.me = s.me ∧ u.mem = s.mem) (fun u t h => ?_) l ⟨rfl, rfl⟩
  exact h

/-- What a command is, a unit of which has been performed. -/
def Cmd.unitDone (clk : Nat) (new : List Nat) (sat : Bool) (next : List Nat) (x : Cmd) : Cmd :=
  { x with ctr := next, wclk := max x.wclk clk, tiles := x.tiles ++ new, psat := x.psat || sat }

/-- The state after a unit, before a command that has none left ends. -/
def State.unitOut (s : State) (c : Cmd) (p n clk : Nat) (new : List Nat) (sat : Bool) (next : List Nat) : State :=
  ((s.tilesHeld new).mapRun fun r => r.mapPort p fun x => x.leave n).mapCmd c.seq (Cmd.unitDone clk new sat next)

theorem wroteUnit_eq (s : State) (c : Cmd) (p n clk : Nat) (tiles : List Nat) (sat : Bool) (next : List Nat) :
    s.wroteUnit c p n clk tiles sat next =
      if next.isEmpty then (s.unitOut c p n clk (tiles.filter fun t => !c.tiles.contains t) sat next).finishCmd c.seq
      else s.unitOut c p n clk (tiles.filter fun t => !c.tiles.contains t) sat next := rfl

theorem unitOut_mem (s : State) (c : Cmd) (p n clk : Nat) (new : List Nat) (sat : Bool) (next : List Nat) :
    (s.unitOut c p n clk new sat next).mem = s.mem := by
  obtain ⟨-, hmem⟩ := tilesHeld_frame s new
  rw [State.unitOut]
  exact hmem

theorem wroteUnit_mem (s : State) (c : Cmd) (p n clk : Nat) (tiles : List Nat) (sat : Bool) (next : List Nat) :
    (s.wroteUnit c p n clk tiles sat next).mem = s.mem := by
  have h := unitOut_mem s c p n clk (tiles.filter fun t => !c.tiles.contains t) sat next
  rw [wroteUnit_eq]
  split
  · rw [finishCmd_mem, h]
  · exact h

theorem cmd?_unitOut (s : State) (c : Cmd) (p n clk : Nat) (new : List Nat) (sat : Bool) (next : List Nat) :
    (s.unitOut c p n clk new sat next).me.cmd? c.seq = (s.me.cmd? c.seq).map (Cmd.unitDone clk new sat next) := by
  obtain ⟨hme, -⟩ := tilesHeld_frame s new
  rw [← hme]
  exact cmd?_mapCmd c.seq (f := Cmd.unitDone clk new sat next) (fun _ => rfl) (s.tilesHeld new).me

/-- The command whose unit has left its port stands at the next iteration, or has ended. -/
theorem cmd?_wroteUnit {x : Cmd} (hx : s.me.cmd? c.seq = some x) (p n clk : Nat) (tiles : List Nat) (sat : Bool) (next : List Nat) :
    ∃ y, (s.wroteUnit c p n clk tiles sat next).me.cmd? c.seq = some y ∧ y.ctr = next ∧
      (y.phase = x.phase ∨ y.phase = .finished) := by
  rw [wroteUnit_eq]
  split
  · rename_i hn
    rw [cmd?_finishCmd, cmd?_unitOut, hx]
    exact ⟨_, rfl, (List.isEmpty_iff.1 hn).symm, .inr rfl⟩
  · rw [cmd?_unitOut, hx]
    exact ⟨_, rfl, rfl, .inl rfl⟩

/-! ## Reducing copies, chunk by chunk (R159) -/

theorem chunkUnits_short (h : (s.me.run.port c.portNo).outq.length / t.unit < t.chunkLeft c.ctr) : chunkUnits t s c = 0 :=
  if_neg (Nat.not_le.2 h)

theorem chunkUnits_whole (hu : 0 < t.unit) (h : t.chunkLeft c.ctr * t.unit ≤ (s.me.run.port c.portNo).outq.length) :
    chunkUnits t s c = t.chunkLeft c.ctr := if_pos ((Nat.le_div_iff_mul_le hu).2 h)

/-- The state after units of a chunk have been combined: where the last of them was, the chunk's bit is set. -/
def chunkEnd (t : Pat) (c : Cmd) (u : State) : State :=
  if (u.me.cmd? c.seq).any fun x => x.phase != .faulted && x.ctr != c.ctr && (x.ctr.isEmpty || t.chunk x.ctr ≠ t.chunk c.ctr) then
    u.mapCmd c.seq fun x => x.setBit (t.chunk c.ctr)
  else u

theorem chunkEnd_same {u : State} (h : u.me.cmd? c.seq = some c) : chunkEnd t c u = u := by
  unfold chunkEnd
  rw [h]
  simp

/-- A copy that a fault has stopped keeps its chunk's bit clear. -/
theorem chunkEnd_fault {d : Cmd} (hd : d.seq = c.seq) (u : State) (e : BitVec 8) (va : Word) (ctrs : List Nat) :
    chunkEnd t c (u.cmdFault d e va ctrs) = u.cmdFault d e va ctrs := by
  unfold chunkEnd
  rw [← hd, cmd?_cmdFault]
  cases u.me.cmd? d.seq <;> simp [Cmd.stopped]

theorem chunkEnd_at {u : State} {x : Cmd} (h : u.me.cmd? c.seq = some x) (hp : x.phase ≠ .faulted) : chunkEnd t c u =
    if x.ctr ≠ c.ctr ∧ (x.ctr = [] ∨ t.chunk x.ctr ≠ t.chunk c.ctr) then
      u.mapCmd c.seq fun x => x.setBit (t.chunk c.ctr)
    else u := by
  unfold chunkEnd
  rw [h]
  refine if_congr ?_ rfl rfl
  simp [hp]

section

variable {s0 : State} {k : Nat} (hc : s.me.cmd? s.cur.seq = some c)

include hc

theorem combineUnits_misaligned (hva : (t.addr c.base c.ctr).toNat % ropAlign (cRop c.word) ≠ 0) :
    combineUnits t s0 (k + 1) s = s.cmdFault c tcALIGN (t.addr c.base c.ctr) c.ctr := by
  rw [combineUnits, hc]
  exact if_pos hva

variable (hva : (t.addr c.base c.ctr).toNat % ropAlign (cRop c.word) = 0)

include hva

theorem combineUnits_waits (hr : engReduce (enginePlace false) s (t.addr c.base c.ctr) (cRop c.word) c.seq
    ((s.me.run.port c.portNo).outq.take t.unit) = .wait) : combineUnits t s0 (k + 1) s = s0 := by
  rw [combineUnits, hc]
  dsimp only [reduceWrite]
  rw [if_neg (not_not_intro hva), hr]

theorem combineUnits_faults {u : State} {e : BitVec 8} {v : Word} (hr : engReduce (enginePlace false) s (t.addr c.base c.ctr)
    (cRop c.word) c.seq ((s.me.run.port c.portNo).outq.take t.unit) = .fault u e v) :
    combineUnits t s0 (k + 1) s = u.cmdFault c e v c.ctr := by
  rw [combineUnits, hc]
  dsimp only [reduceWrite]
  rw [if_neg (not_not_intro hva), hr]

theorem combineUnits_next {u : State} {tile clk : Nat} {sat : Bool} (hr : engReduce (enginePlace false) s (t.addr c.base c.ctr)
    (cRop c.word) c.seq ((s.me.run.port c.portNo).outq.take t.unit) = .ok (tile, clk, sat) u) :
    combineUnits t s0 (k + 1) s =
      combineUnits t s0 k (u.wroteUnit c c.portNo t.unit clk [tile] sat (nextCtr t.counts c.ctr)) := by
  rw [combineUnits, hc]
  dsimp only [reduceWrite]
  rw [if_neg (not_not_intro hva), hr]

end

/-- Units that are skipped leave memory. -/
theorem skipUnits_mem (t : Pat) (k : Nat) (s : State) : (skipUnits t k s).mem = s.mem := by
  induction k generalizing s with
  | zero => rfl
  | succ k ih =>
    rw [skipUnits]
    split
    · rfl
    · rw [ih, wroteUnit_mem]

/-- Combining a unit leaves the commands of the task. -/
theorem engReduce_cmds {sl : Bool} {va : Word} {rop : Nat} {seq : BitVec 32} {bs : List Byte} {r : Nat × Nat × Bool} {u : State}
    (h : engReduce (enginePlace sl) s va rop seq bs = .ok r u) : u.me.cmds = s.me.cmds := by
  have hlooks {v w : State} (h : v.Looks w) : w.me.cmds = v.me.cmds := by
    obtain ⟨-, -, k, hme⟩ := h
    rw [hme]
  unfold engReduce at h
  split at h
  · exact absurd h nofun
  · exact absurd h nofun
  · rename_i v x hp
    have hv : v.me.cmds = s.me.cmds := by
      unfold enginePlace at hp
      split at hp
      · exact absurd hp nofun
      · exact hlooks ((leaves_place s va 1 .engWrite).ok hp)
    split at h
    · rename_i k slot
      have ha := hlooks (looks_accessEvent v (.mem k slot) bs.length va true)
      split at h
      · exact absurd h nofun
      · split at h
        · cases h
          exact ha.trans hv
        · split at h
          · exact absurd h nofun
          · cases h
            exact ((congrArg Task.cmds (put_me ..)).trans (hlooks (looks_plainBytes ..))).trans (ha.trans hv)
    · exact absurd h nofun

section

variable (h : s.Focus c .running) (ht : patOf c.raw = some t)

include h ht

theorem scRcopy_waits (hk : chunkUnits t s c = 0) : exec (.scRcopy p blk rop st) s = .next s := by
  rw [exec_scRcopy, execScRcopy, runCmd_works h, withPat_some ht]
  exact congrArg Host.Outcome.next (if_pos (by simp [hk]))

variable (hc : c.ctr ≠ [])

include hc

theorem scRcopy_skips (hk : chunkUnits t s c ≠ 0) (hb : c.bits.testBit (t.chunk c.ctr % 262144) = true) :
    exec (.scRcopy p blk rop st) s = .next (skipUnits t (chunkUnits t s c) s) := by
  rw [exec_scRcopy, execScRcopy, runCmd_works h, withPat_some ht]
  refine congrArg Host.Outcome.next ((if_neg (by simp [hk, hc])).trans (if_pos hb))

theorem scRcopy_combines (hu : 0 < t.unit) (hk : t.chunkLeft c.ctr * t.unit ≤ (s.me.run.port c.portNo).outq.length)
    (hk0 : 0 < t.chunkLeft c.ctr) (hb : c.bits.testBit (t.chunk c.ctr % 262144) = false) :
    exec (.scRcopy p blk rop st) s = .next (chunkEnd t c (combineUnits t s (t.chunkLeft c.ctr) s)) := by
  rw [exec_scRcopy, execScRcopy, runCmd_works h, withPat_some ht]
  dsimp only
  rw [chunkUnits_whole hu hk, if_neg (by simp [hc, hk0.ne']), hb, if_neg (by decide)]
  rfl

end

/-! ## A see mapping's object (R125) -/

theorem seeCheck_of_found {w : State} {o off : Nat} {x : Obj} (hx : w.objs.find? (fun o' => o'.id == o) = some x) :
    seeCheck w (.sluice o off false) = if x.st == .filling then some (.error (.seeLoad o))
      else if x.st == .abandoned then some (.ok tcSLABANDON) else none := by
  unfold seeCheck
  dsimp only
  rw [hx]

end

/-- Settles O34: a unit out of a port or into one by its address, what has come, and the access; a chunk by what combines its
units. -/
theorem copiesMoveUnits : Obligations.CopiesMoveUnits := by
  unfold Obligations.CopiesMoveUnits
  intro s c p blk st lim rop esz t va q next h ht hva hq hnext
  obtain rfl : va = t.addr c.base c.ctr := hva
  obtain rfl : next = nextCtr t.counts c.ctr := hnext
  subst hq
  have hu := patOf_unit_pos ht
  rw [show 4 * t.usz = t.unit from rfl]
  refine ⟨fun ho hva => ?_, fun hva hshort => ⟨?_, fun ho => ?_⟩, fun hva hn => ⟨fun clk u hw => ?_, fun u e v hw => ?_, fun ho =>
      ⟨fun clk u hw => ?_, fun u e v hw => ?_⟩⟩,
    fun hc => ⟨fun hshort _ => scRcopy_waits h ht (chunkUnits_short hshort),
      fun hone hn hb hva tile clk sat u hr => ?_, fun hb => ?_, fun hn _ hk hb => ⟨fun hva => ?_, fun hva =>
        ⟨fun hr => ?_, fun u e v hr => ?_, fun tile clk sat u w y e v x htwo hr hw hy hcur hv hva' hr' => ?_⟩⟩⟩,
    fun a u clk v hi hn hw => ?_,
    fun ho => ⟨fun hc => ⟨scGath_ended h ht ho hc, ?_, fun hin => ?_⟩, fun hc hva =>
      ⟨fun hin bs u hr => ?_, fun w x hp hsev hsee bs u hr => ?_, fun a u bs v hi hr => scGath_presents h ht ho hc hi hr⟩⟩,
    fun ho hc => ⟨fun hva => ?_, fun hva w x hp => ⟨fun hsev => ?_, fun hsev => ⟨fun y hy => ?_, fun e he => ?_⟩⟩⟩,
    fun w o off x hx => ?_⟩
  · rw [scCopy_takes h ht ho, patOut_misaligned hva]
    rfl
  · rw [scSlfill_takes h ht, patOut_aligned hva, copyOut_short hshort]
  · rw [scCopy_takes h ht ho, patOut_aligned hva, copyOut_short hshort]
  · rw [scSlfill_takes h ht, patOut_aligned hva, copyOut_writes hn hw]
  · rw [scSlfill_takes h ht, patOut_aligned hva, copyOut_faults hn hw]
  · rw [scCopy_takes h ht ho, patOut_aligned hva, copyOut_writes hn hw]
  · rw [scCopy_takes h ht ho, patOut_aligned hva, copyOut_faults hn hw]
  · have hcmd : u.me.cmd? c.seq = some c := (congrArg (List.find? _) (engReduce_cmds hr)).trans h.cmd_seq
    obtain ⟨y, hy, hctr, hph⟩ := cmd?_wroteUnit hcmd c.portNo t.unit clk [tile] sat (nextCtr t.counts c.ctr)
    have hphase : y.phase ≠ .faulted := by rcases hph with hph | hph <;> simp [hph, h.phase]
    rw [scRcopy_combines h ht hc hu (by rw [hone, Nat.one_mul]; exact hn) (by omega) hb, hone,
      combineUnits_next h.cmd hva hr]
    exact congrArg Host.Outcome.next ((chunkEnd_at hy hphase).trans (by rw [hctr]))
  · by_cases hk : chunkUnits t s c = 0
    · exact ⟨s, scRcopy_waits h ht hk, rfl⟩
    · exact ⟨_, scRcopy_skips h ht hc hk hb, skipUnits_mem ..⟩
  · obtain ⟨k, hk'⟩ := Nat.exists_eq_add_one.2 hk
    rw [scRcopy_combines h ht hc hu hn hk hb, hk', combineUnits_misaligned h.cmd hva, chunkEnd_fault rfl]
    rfl
  · obtain ⟨k, hk'⟩ := Nat.exists_eq_add_one.2 hk
    rw [scRcopy_combines h ht hc hu hn hk hb, hk', combineUnits_waits h.cmd hva hr, chunkEnd_same h.cmd_seq]
  · obtain ⟨k, hk'⟩ := Nat.exists_eq_add_one.2 hk
    rw [scRcopy_combines h ht hc hu hn hk hb, hk', combineUnits_faults h.cmd hva hr, chunkEnd_fault rfl]
  · obtain rfl : w = u.wroteUnit c c.portNo t.unit clk [tile] sat (nextCtr t.counts c.ctr) := hw
    have hyseq : y.seq = c.seq := beq_iff_eq.1 (List.find?_some (p := fun x : Cmd => x.seq == c.seq) hy)
    subst hv
    rw [scRcopy_combines h ht hc hu hn hk hb, htwo, combineUnits_next h.cmd hva hr,
      combineUnits_faults (hcur.symm ▸ hy) hva' hr', chunkEnd_fault hyseq]
  · rw [scScat_takes h ht hi, copyOut_writes hn hw]
  · rw [scSlsee_copies h ht (.inl hc), copyIn_ended ho hc]
  · rw [scCopy_presents h ht hin, copyIn_ended ho hc]
  · rw [scCopy_presents h ht hin, copyIn_reads ho hc hva hr]
  · rw [scSlsee_places h ht ho hc hva hp, hsev, if_neg (by decide), hsee]
    exact congrArg Host.Outcome.next (copyIn_reads ho hc hva hr)
  · rw [scSlsee_copies h ht (.inr hva), copyIn_misaligned ho hc hva]
    rfl
  · rw [scSlsee_places h ht ho hc hva hp, hsev]
    rfl
  · rw [scSlsee_places h ht ho hc hva hp, hsev, hy]
    rfl
  · rw [scSlsee_places h ht ho hc hva hp, hsev, he]
    rfl
  · rw [seeCheck_of_found hx]
    refine ⟨fun hst => ?_, fun hst => ?_, fun hst => ?_⟩ <;> rw [hst] <;> rfl

end Sys2Proof.Machine

end

/-!
SUPPORT. The commands of ports, order and configurations (R278 to R283), and SC.FLUME (R112, R243, R274, R387).
-/
section

namespace Sys2Proof.Machine

section

variable {s : State} {c : Cmd} {p : BitVec 6} {blk : BitVec 24} {cls : BitVec 2} {ch : BitVec 12} {tag : Word}

/-! ## Ports -/

section

variable (h : s.Focus c .accepted) (hs : s.startable c = true) (hf : s.startFault c = none)

include h hs hf

theorem scBind_eq : exec (.scBind p cls) s =
    .next (if (s.me.run.port c.portNo).due ≠ 0 || (s.me.run.port c.portNo).coord.isSome then
      (s.mapRun fun r => r.mapPort c.portNo fun y => y.bindTo y.cls).cmdFault c tcBURSTBAD 0 []
    else (s.mapRun fun r => r.mapPort c.portNo fun y => y.bindTo cls).finishCmd c.seq) := by
  rw [exec_scBind, execScBind, runCmd_starts h hs hf]

theorem scTok_offers (ho : (s.me.run.decl c.portNo).out = false) : exec (.scTok p ch tag) s =
    .next ((s.offerCtl c.portNo (.tag ch tag c.seq c.ipc)).startCmd c []) := by
  rw [exec_scTok, execScTok, runCmd_starts h hs hf, if_neg (by rw [ho]; decide)]

theorem scDrain_offers : exec (.scDrain p) s = .next ((s.offerCtl c.portNo .accsw).startCmd c []) := by
  rw [exec_scDrain, execScDrain, runCmd_starts h hs hf]

end

section

variable (h : s.Focus c .running)

include h

theorem scTok_input (ho : (s.me.run.decl c.portNo).out = false) : exec (.scTok p ch tag) s = .next (s.drainInput c) := by
  rw [exec_scTok, execScTok, runCmd_works h, if_neg (by rw [ho]; decide)]

theorem scTok_output (ho : (s.me.run.decl c.portNo).out = true) : exec (.scTok p ch tag) s =
    .next ((s.pushTag ch tag c.seq c.ipc (s.me.portClock c.portNo c.acc)).elim s fun u => u.finishCmd c.seq) := by
  rw [exec_scTok, execScTok, runCmd_works h, if_pos ho]
  cases s.pushTag ch tag c.seq c.ipc (s.me.portClock c.portNo c.acc) <;> rfl

theorem scDrain_input : exec (.scDrain p) s = .next (s.drainInput c) := by
  rw [exec_scDrain, execScDrain, runCmd_works h]

end

/-- A TAG for a consumer that is there is pushed once its channel has room. -/
theorem pushTag_open {x : Chan} (hx : s.myChan ch = some x) (hopen : s.consumerClosed x = false) (seq : BitVec 32) (ipc : Word)
    (clk : Nat) : s.pushTag ch tag seq ipc clk = if s.chanRoom x 1 then some (s.push ch [⟨tag, false, clk⟩]) else none := by
  unfold State.pushTag
  rw [hx]
  dsimp only
  rw [hopen]
  rfl

/-! ## Order -/

/-- A test of the earlier commands that have not retired fails where there are none. -/
theorem any_earlier_false {t : Task} {n : Nat} (h : ∀ y ∈ t.cmds, y.acc < n → y.live = false) :
    (t.cmds.any fun x => x.live && x.acc < n) = false := by
  refine List.any_eq_false.2 fun y hy => ?_
  rw [Bool.and_eq_true, decide_eq_true_eq]
  exact fun ⟨hl, ha⟩ => Bool.false_ne_true ((h y hy ha).symm.trans hl)

theorem scNop_eq (h : s.Focus c .accepted) (hs : s.startable c = true) : exec .scNop s = .next (s.finishCmd c.seq) := by
  rw [exec_scNop, execScNop, runCmd_starts h hs rfl]

theorem scFence_starts (h : s.Focus c .accepted) (hs : s.startable c = true) : exec .scFence s = .next (s.startCmd c []) := by
  rw [exec_scFence, execScFence, runCmd_starts h hs rfl]

theorem scFence_works (h : s.Focus c .running) : exec .scFence s =
    .next (if s.me.cmds.any fun x => x.live && x.acc < c.acc then s
      else (s.mapCmd c.seq fun x => { x with wclk := maxTime s s.me.id.fn }).finishCmd c.seq) := by
  rw [exec_scFence, execScFence, runCmd_works h]

/-! ## Configurations -/

theorem cfgAhead_iff (t : Task) (c : Cmd) : t.cfgAhead c = true ↔
    ∃ y ∈ t.cmds, y.live = true ∧ y.acc < c.acc ∧ (y.op = 0x10 ∨ y.op = 0x11) := by
  simp [Task.cfgAhead, and_assoc]

/-- A command that has retired holds no port. -/
theorem holdsPort_of_retired {x : Cmd} (h : x.live = false) (k : Nat) : x.holdsPort k = false := by
  have hp : x.phase = .done := by simpa [Cmd.live] using h
  unfold Cmd.holdsPort
  rw [hp]
  rfl

theorem setInact_run (s : State) (p : Plane) : (s.setInact p).me.run = { s.me.run with inact := p } := rfl

theorem postEnd_run (s : State) (p : Pending) : (s.postEnd p).me.run = s.me.run := by
  unfold State.postEnd
  split <;> rfl

/-- A command that ends leaves both planes of its run. -/
theorem endCmd_planes (s : State) (c : Cmd) (cause : BitVec 8) :
    (s.endCmd c cause).me.run.act = s.me.run.act ∧ (s.endCmd c cause).me.run.inact = s.me.run.inact := by
  unfold State.endCmd
  rw [postEnd_run]
  exact ⟨rfl, rfl⟩

theorem endLoad_planes (s : State) (c : Cmd) {cause : BitVec 8} (hc : cause ≠ tcCFGUE) :
    (s.endLoad c cause).me.run.inact.valid = false ∧ (s.endLoad c cause).me.run.act = s.me.run.act := by
  obtain ⟨hact, hinact⟩ := endCmd_planes (s.setInact { Plane.empty with addr := c.blk }) c cause
  unfold State.endLoad
  dsimp only
  rw [if_neg hc, hact, hinact]
  exact ⟨rfl, rfl⟩

theorem scCfg_starts (h : s.Focus c .accepted) (hs : s.startable c = true) : exec (.scCfg blk) s =
    .next (if s.me.cfgAhead c then s else s.startCmd c []) := by
  rw [exec_scCfg, execScCfg, runCmd_starts h hs rfl]

theorem scCfg_loads (h : s.Focus c .running) (hr : c.rawErr = none) (hf : s.startFault c = none) : exec (.scCfg blk) s =
    .next (match (s.setInact { Plane.empty with addr := c.blk }).loadImage c.raw c.blk c.base with
      | .wait => s
      | .sever va => s.stopMe tcSEVERED va
      | .fault u e va => if e = tcSLABANDON then u.endLoad c e else s.cmdFault c e va []
      | .ue u => u.endLoad c tcCFGUE
      | .rej u => u.endLoad c tcCFGREJ
      | .ok pl u => (u.mapRun fun r => { r with inact := pl }).finishCmd c.seq) := by
  have hcheck : cfgFault s c = none := by
    unfold cfgFault
    rw [hr]
    exact hf
  rw [exec_scCfg, execScCfg, runCmd_works h, hcheck]
  dsimp only
  rw [hr] <;> rfl

theorem scSwap_starts (h : s.Focus c .accepted) (hs : s.startable c = true) : exec .scSwap s = .next (s.startCmd c []) := by
  rw [exec_scSwap, execScSwap, runCmd_starts h hs rfl]

theorem scSwap_waits (h : s.Focus c .running) (he : s.me.run.isEmpty = false) : exec .scSwap s = .next s := by
  rw [exec_scSwap, execScSwap, runCmd_works h, he, Bool.not_false, Bool.or_true]
  rfl

theorem scSwap_ends (h : s.Focus c .running) (hy : ∀ y ∈ s.me.cmds, y.acc < c.acc → y.live = false) (he : s.me.run.isEmpty = true) :
    exec .scSwap s = .next (if !s.me.run.inact.valid then s.endCmd c tcCFGREJ else (s.mapRun Run.swap).finishCmd c.seq) := by
  have hcfg : s.me.cfgAhead c = false := by
    refine Bool.eq_false_iff.2 fun hc => ?_
    obtain ⟨y, hmem, hl, ha, -⟩ := (cfgAhead_iff ..).1 hc
    exact Bool.false_ne_true ((hy y hmem ha).symm.trans hl)
  have hports : (s.me.cmds.any fun x => x.acc < c.acc && x.ports.any x.holdsPort) = false := by
    refine List.any_eq_false.2 fun y hmem => ?_
    rw [Bool.and_eq_true, decide_eq_true_eq]
    rintro ⟨ha, hp⟩
    obtain ⟨k, -, hk⟩ := List.any_eq_true.1 hp
    exact Bool.false_ne_true ((holdsPort_of_retired (hy y hmem ha) k).symm.trans hk)
  rw [exec_scSwap, execScSwap, runCmd_works h, hcfg, hports, he]
  rfl

end

/-- Settles O35: each of the commands by what its start or its work finds. -/
theorem portOrderAndConfigurationCommands : Obligations.PortOrderAndConfigurationCommands := by
  unfold Obligations.PortOrderAndConfigurationCommands
  rintro s c p blk cls ch tag x rfl
  refine ⟨fun h hs => ⟨fun hf => ⟨fun hdue hco => ?_, fun hdue => ?_, scTok_offers h hs hf, scDrain_offers h hs hf⟩,
      scNop_eq h hs, scFence_starts h hs, scSwap_starts h hs, fun hy => ?_, fun hy => ?_⟩,
    fun h => ⟨fun ho => ⟨fun hx => ?_, fun hx => ?_⟩, fun ho y hy hopen => ⟨fun hroom => ?_, fun hroom => ?_⟩,
      fun hx => ?_, fun hx => ?_, fun ⟨y, hy, hl, ha⟩ => ?_, fun hy => ?_, scSwap_waits h,
      fun hy he => ⟨fun hv => ?_, fun hv => ?_⟩,
      fun hr hf u pl hl => ?_, fun hr hf u hl => ?_⟩⟩
  · rw [scBind_eq h hs hf, hdue, hco]
    rfl
  · rw [scBind_eq h hs hf, if_pos (by simp [hdue])]
    rfl
  · rw [scCfg_starts h hs, if_pos ((cfgAhead_iff ..).2 hy)]
  · rw [scCfg_starts h hs, if_neg]
    · rfl
    · intro hc
      obtain ⟨y, hmem, hl, ha, hop⟩ := (cfgAhead_iff ..).1 hc
      obtain ⟨h1, h2⟩ := hy y hmem hl ha
      exact hop.elim h1 h2
  · rw [scTok_input h ho, drainInput_free hx]
  · rw [scTok_input h ho, drainInput_taken hx]
  · rw [scTok_output h ho, pushTag_open hy hopen, hroom]
    rfl
  · rw [scTok_output h ho, pushTag_open hy hopen, hroom]
    rfl
  · rw [scDrain_input h, drainInput_free hx]
  · rw [scDrain_input h, drainInput_taken hx]
  · rw [scFence_works h, if_pos (List.any_eq_true.2 ⟨y, hy, by simp [hl, ha]⟩)]
  · rw [scFence_works h, any_earlier_false hy]
    rfl
  · rw [scSwap_ends h hy he, hv]
    rfl
  · rw [scSwap_ends h hy he, hv]
    rfl
  · rw [scCfg_loads h hr hf, hl]
  · exact ⟨_, by rw [scCfg_loads h hr hf, hl], endLoad_planes u c (by decide)⟩

/-! ## Flume slots -/

section

variable {s : State} {c : Cmd} {p : BitVec 6} {n : BitVec 32} {f : Flume}

theorem scFlume_gone (h : s.Focus c .running) (hf : s.cmdFlume c = none) :
    exec (.scFlume p n) s = .next (s.cmdFault c 0x05 c.base []) := by
  rw [exec_scFlume, execScFlume, runCmd_works h, hf]
  rfl

theorem scFlume_waits (h : s.Focus c .running) (hf : s.cmdFlume c = some f)
    (hw : s.slotBusy f = true ∨ f.slots ≤ (f.wr - f.rd0).toNat ∨ (s.me.run.port c.portNo).outq.length < f.slotsz) :
    exec (.scFlume p n) s = .next s := by
  rw [exec_scFlume, execScFlume, runCmd_works h, hf]
  refine congrArg Host.Outcome.next (if_pos ?_)
  simpa [Flume.fullNow, or_assoc] using hw

theorem scFlume_fills (h : s.Focus c .running) (hf : s.cmdFlume c = some f) (hb : s.slotBusy f = false)
    (hr : (f.wr - f.rd0).toNat < f.slots) (hq : f.slotsz ≤ (s.me.run.port c.portNo).outq.length) {clk : Nat} {u : State}
    (hw : writeSlot f s ((s.me.run.port c.portNo).outq.take f.slotsz) = .ok clk u) : exec (.scFlume p n) s =
      .next ((u.mapRun fun r => r.mapPort c.portNo fun x => x.leave f.slotsz).mapCmd c.seq fun x =>
        { x with sub := 1, wclk := max x.wclk clk }) := by
  have hfull : f.fullNow = false := decide_eq_false (Nat.not_le.2 hr)
  rw [exec_scFlume, execScFlume, runCmd_works h, hf]
  dsimp only
  rw [if_neg (by simp [hb, hfull, hq]), hw]

theorem slotBusy_of_copy {t : Task} (ht : t ∈ s.all) {y : Cmd} (hy : y ∈ t.cmds) (hfn : t.id.fn = f.fn)
    (hblk : t.id.blk = f.owner.blk) (hop : y.op = 0x0C) (hph : y.phase = .running) (hsub : y.sub = 1) (hbase : y.base = f.hdr) : s.slotBusy f = true := by
  have hcmd : (t.cmds.any fun c => c.base == f.hdr && c.slotInFlight) = true :=
    List.any_eq_true.2 ⟨y, hy, by simp [Cmd.slotInFlight, hop, hph, hsub, hbase]⟩
  exact List.any_eq_true.2 ⟨t, ht, by rw [hfn, hblk, hcmd, beq_self_eq_true, beq_self_eq_true]; rfl⟩

/-- A command's flume is found under its header. -/
theorem cmdFlume_found (h : s.cmdFlume c = some f) : s.flume? s.me.id.fn c.base = some f := by
  unfold State.cmdFlume at h
  split at h
  · split at h
    · rename_i g hg _
      rw [hg, h]
    · exact absurd h nofun
  · exact absurd h nofun

/-- The flume after a slot's writes have retired. -/
def Flume.slotDone (f : Flume) (c : Cmd) : Flume := { f with wr := f.wr + 1, wclk := max f.wclk c.wclk }

/-- The state once WR has advanced in the flume and in its header. -/
def State.slotDone (s : State) (c : Cmd) (f : Flume) : State :=
  (s.mapFlume f.fn f.hdr fun _ => f.slotDone c).writeCounts (f.slotDone c)

theorem slotDone_me (s : State) (c : Cmd) (f : Flume) : (s.slotDone c f).me = s.me := writeCounts_me ..

theorem flume?_slotDone {fn : Nat} {hdr : Word} (hf : s.flume? fn hdr = some f) (c : Cmd) :
    (s.slotDone c f).flume? fn hdr = some (f.slotDone c) := by
  have hp := List.find?_some (p := fun f : Flume => f.fn == fn && f.hdr == hdr && !f.gone) hf
  obtain ⟨⟨rfl, rfl⟩, -⟩ : (f.fn = fn ∧ f.hdr = hdr) ∧ f.gone = false := by
    simpa only [Bool.and_eq_true, beq_iff_eq, Bool.not_eq_true'] using hp
  unfold State.slotDone State.writeCounts State.flume?
  rw [flumes_hdrBlkPut]
  exact find?_replace (y := f.slotDone c) hf hp

theorem flume?_mapCmd (s : State) (q : BitVec 32) (g : Cmd → Cmd) (fn : Nat) (hdr : Word) :
    (s.mapCmd q g).flume? fn hdr = s.flume? fn hdr := rfl

theorem flume?_finishCmd (s : State) (q : BitVec 32) (fn : Nat) (hdr : Word) :
    (s.finishCmd q).flume? fn hdr = s.flume? fn hdr := rfl

/-- What a command is, a slot of which has retired. -/
def Cmd.slotRetired (k : Nat) (x : Cmd) : Cmd := { x with sub := 0, ctr := [k] }

theorem flumeSlotRetire_eq (h : s.Focus c .running) (hop : c.op = 0x0C) (hsub : c.sub = 1) (hf : s.cmdFlume c = some f) :
    exec .flumeSlotRetire s = .next (if cField c.word 56 32 ≤ c.ctr.headD 0 + 1 then
        ((s.slotDone c f).mapCmd c.seq (Cmd.slotRetired (c.ctr.headD 0 + 1))).finishCmd c.seq
      else (s.slotDone c f).mapCmd c.seq (Cmd.slotRetired (c.ctr.headD 0 + 1))) := by
  have hfl : c.slotInFlight = true := by simp [Cmd.slotInFlight, hop, hsub, h.phase]
  rw [exec_flumeSlotRetire, execFlumeSlotRetire, h.cmd]
  dsimp only
  rw [hfl, hf]
  rfl

end

/-- Settles O36: a slot is filled by what its flume and port hold, and retires by the command that filled it. -/
theorem flumeFilling : Obligations.FlumeFilling := by
  unfold Obligations.FlumeFilling
  intro s c p n h
  refine ⟨scFlume_gone h, fun f q hf hq => ?_⟩
  subst hq
  refine ⟨scFlume_waits h hf, fun t ht y hy hfn hblk hop hph hsub hbase => slotBusy_of_copy ht hy hfn hblk hop hph hsub hbase,
    fun hb hr hq => ⟨fun clk u hw => scFlume_fills h hf hb hr hq hw, fun hbank => ?_⟩, fun hop hsub => ?_⟩
  · unfold writeSlot
    rw [hbank]
  · have hcmd := cmd?_mapCmd c.seq (f := Cmd.slotRetired (c.ctr.headD 0 + 1)) (fun _ => rfl) (s.slotDone c f).me
    rw [slotDone_me, h.cmd_seq] at hcmd
    refine ⟨_, flumeSlotRetire_eq h hop hsub hf, ?_⟩
    have hfound := flume?_slotDone (cmdFlume_found hf) c
    split
    · refine ⟨?_, (c.slotRetired (c.ctr.headD 0 + 1)).ended, ?_, rfl, rfl⟩
      · rw [flume?_finishCmd, flume?_mapCmd, hfound]
        rfl
      · rw [cmd?_finishCmd, mapCmd_me, slotDone_me, hcmd]
        rfl
    · refine ⟨?_, c.slotRetired (c.ctr.headD 0 + 1), ?_, rfl, h.phase⟩
      · rw [flume?_mapCmd, hfound]
        rfl
      · rw [mapCmd_me, slotDone_me, hcmd]
        rfl

end Sys2Proof.Machine

end

/-!
SUPPORT. Job cards: the bursts and the C unit of an iteration, the ports that fall free, and overtaking (R153, R263, R285, R286,
R386).
-/
section

namespace Sys2Proof.Machine

/-! ## Iterations -/

theorem nextCtr_last {counts ctr : List Nat} (h : (nextIter ctr counts).2 = true) : nextCtr counts ctr = [] := if_pos h

theorem nextCtr_more {counts ctr : List Nat} (h : (nextIter ctr counts).2 = false) (hne : (nextIter ctr counts).1 ≠ []) :
    (nextCtr counts ctr).isEmpty = false := by
  have he : nextCtr counts ctr = (nextIter ctr counts).1 := if_neg (by rw [h]; decide)
  rw [he]
  exact Bool.eq_false_iff.2 (mt List.isEmpty_iff.1 hne)

/-- Ports that are all changed in other than the bytes at them hold the same bytes. -/
theorem outq_mapPorts {f : Nat → Port → Port} (hf : ∀ k x, (f k x).outq = x.outq) (r : Run) (k : Nat) :
    ((r.mapPorts f).port k).outq = (r.port k).outq := by
  unfold Run.port Run.mapPorts
  rw [List.getD_eq_getElem?_getD, List.getD_eq_getElem?_getD, List.getElem?_map, List.zip_eq_zipWith, List.getElem?_zipWith]
  by_cases hk : k < r.ports.length
  · simp [List.getElem?_range hk, List.getElem?_eq_getElem hk, hf]
  · simp [List.getElem?_eq_none (Nat.le_of_not_lt hk)]

theorem outq_flushPorts (t : Task) (k : Nat) : (t.flushPorts.run.port k).outq = (t.run.port k).outq :=
  outq_mapPorts (f := fun p x => flushMarks t.cmds p x) (fun _ _ => rfl) t.run k

section

variable {s : State} {c : Cmd} {d : Card} {p : BitVec 6} {blk : BitVec 24}

/-! ## Ports that fall free (R263) -/

/-- The ports of a job that fall free with its last words. -/
def State.jobFrees (s : State) (c : Cmd) : List Nat :=
  ([c.portNo, c.portNo + 1].filter fun k => s.portFree k && !c.freed.contains k) ++
    if c.sub = 3 && !c.freed.contains (c.portNo + 2) then [c.portNo + 2] else []

theorem freeJobPorts_eq (s : State) (c : Cmd) (d : Card) : s.freeJobPorts c d =
    if c.sub < 2 || !(nextCtr d.counts c.ctr).isEmpty || (s.jobFrees c).isEmpty then s
    else (s.mapCmd c.seq fun x => { x with freed := x.freed ++ s.jobFrees c }).mapMe Task.flushPorts := rfl

theorem outq_freeJobPorts (s : State) (c : Cmd) (d : Card) (k : Nat) :
    ((s.freeJobPorts c d).me.run.port k).outq = (s.me.run.port k).outq := by
  rw [freeJobPorts_eq]
  split
  · rfl
  · exact outq_flushPorts ..

/-- A job in its last iteration has freed the ports that fall free. -/
theorem cmd?_freeJobPorts (h : s.me.cmd? c.seq = some c) (hsub : 2 ≤ c.sub) (hlast : nextCtr d.counts c.ctr = []) :
    (s.freeJobPorts c d).me.cmd? c.seq = some { c with freed := c.freed ++ s.jobFrees c } := by
  rw [freeJobPorts_eq, hlast]
  split
  · rename_i hno
    have hnone : s.jobFrees c = [] := by
      rcases Bool.or_eq_true_iff.1 hno with hno | hno
      · exact absurd ((Bool.or_false _).symm.trans hno) (by rw [decide_eq_true_eq]; omega)
      · exact List.isEmpty_iff.1 hno
    rw [hnone, List.append_nil]
    exact h
  · have hcmd := cmd?_mapCmd c.seq (f := fun x => { x with freed := x.freed ++ s.jobFrees c }) (fun _ => rfl) s.me
    rw [h] at hcmd
    exact hcmd

theorem holdsPort_of_freed {y : Cmd} {k : Nat} (h : k ∈ y.freed) : y.holdsPort k = false := by
  unfold Cmd.holdsPort
  dsimp only
  rw [List.contains_iff_mem.2 h, Bool.not_true, Bool.and_false, Bool.false_and]

theorem mem_freed_input {k : Nat} (hk : k ∈ [c.portNo, c.portNo + 1]) (ho : (s.me.run.port k).offer = []) :
    k ∈ c.freed ++ s.jobFrees c := by
  by_cases hf : k ∈ c.freed
  · exact List.mem_append_left _ hf
  · refine List.mem_append_right _ (List.mem_append_left _ (List.mem_filter.2 ⟨hk, ?_⟩))
    rw [portFree_iff.2 ho]
    simpa using hf

theorem mem_freed_output (hsub : c.sub = 3) : c.portNo + 2 ∈ c.freed ++ s.jobFrees c := by
  by_cases hf : c.portNo + 2 ∈ c.freed
  · exact List.mem_append_left _ hf
  · refine List.mem_append_right _ (List.mem_append_right _ ?_)
    rw [if_pos (by simpa [hsub] using hf)]
    exact List.mem_cons_self ..

/-! ## Bursts in, the C unit out -/

/-- The addresses of an iteration's units of A, B and C (R285). -/
def Card.aAddr (d : Card) (c : Cmd) : Word := c.base + BitVec.ofInt 64 (d.aoff + dotCtr c.ctr d.astr)
def Card.bAddr (d : Card) (c : Cmd) : Word := c.base + BitVec.ofInt 64 (d.boff + dotCtr c.ctr d.bstr)
def Card.cAddr (d : Card) (c : Cmd) : Word := c.base + BitVec.ofInt 64 (d.coff + dotCtr c.ctr d.cstr)

section

variable (hpa : (s.me.run.port c.portNo).offer = []) (hpb : (s.me.run.port (c.portNo + 1)).offer = [])

include hpa hpb

theorem jobPresent_misalignedA (ha : (d.aAddr c).toNat % 4 ≠ 0) : jobPresent d s c = s.cmdFault c tcALIGN (d.aAddr c) c.ctr := by
  unfold jobPresent
  dsimp only
  rw [if_neg (by simp [portFree_iff.2 hpa, portFree_iff.2 hpb])]
  exact if_pos ha

variable (ha : (d.aAddr c).toNat % 4 = 0)

include ha

theorem jobPresent_misalignedB (hb : (d.bAddr c).toNat % 4 ≠ 0) : jobPresent d s c = s.cmdFault c tcALIGN (d.bAddr c) c.ctr := by
  unfold jobPresent
  dsimp only
  rw [if_neg (by simp [portFree_iff.2 hpa, portFree_iff.2 hpb])]
  exact (if_neg (not_not_intro ha)).trans (if_pos hb)

theorem jobPresent_bursts (hb : (d.bAddr c).toNat % 4 = 0) {xa xb : List Byte} {u v w t : State}
    (hra : cardBurst d d.alen s c (d.aAddr c) = .ok xa u) (hrb : cardBurst d d.blen u c (d.bAddr c) = .ok xb v)
    (hoa : v.offer c.portNo xa = some w) (hob : w.offer (c.portNo + 1) xb = some t) : jobPresent d s c =
      if lastOf d.counts c.ctr (d.klev + 1) then
        ((t.offerCtl c.portNo .accsw).offerCtl (c.portNo + 1) .accsw).mapCmd c.seq fun x => { x with sub := 2 }
      else if lastOf d.counts c.ctr d.klev then t.mapCmd c.seq fun x => { x with sub := 3 }
      else t.jobNext c d := by
  unfold jobPresent
  dsimp only
  rw [if_neg (by simp [portFree_iff.2 hpa, portFree_iff.2 hpb])]
  refine (if_neg (not_not_intro ha)).trans ((if_neg (not_not_intro hb)).trans ?_)
  rw [Card.aAddr] at hra
  rw [Card.bAddr] at hrb
  rw [hra]
  dsimp only
  rw [hrb]
  dsimp only
  rw [hoa]
  dsimp only
  rw [hob]

end

theorem jobTake_misaligned (hva : (d.cAddr c).toNat % 4 ≠ 0) : jobTake d s c = s.cmdFault c tcALIGN (d.cAddr c) c.ctr := if_pos hva

theorem jobTake_short (hva : (d.cAddr c).toNat % 4 = 0) (hq : (s.me.run.port (c.portNo + 2)).outq.length < d.cunit) :
    jobTake d s c = s := (if_neg (not_not_intro hva)).trans (if_pos hq)

theorem jobTake_writes (hva : (d.cAddr c).toNat % 4 = 0) (hq : d.cunit ≤ (s.me.run.port (c.portNo + 2)).outq.length)
    {clk : Nat} {u : State} (hw : engWrite (enginePlace false) s (d.cAddr c) ((s.me.run.port (c.portNo + 2)).outq.take d.cunit) = .ok clk u) :
    jobTake d s c = (u.mapRun fun r => r.mapPort (c.portNo + 2) fun x => x.leave d.cunit).mapCmd c.seq fun x =>
      { x with sub := 3, wclk := max x.wclk clk } := by
  refine (if_neg (not_not_intro hva)).trans ((if_neg (Nat.not_lt.2 hq)).trans ?_)
  rw [Card.cAddr] at hw
  rw [hw]

section

variable (h : s.Focus c .running) (hd : cardOf c.raw c.base = some d) (hsp : c.spilt = false)

include h hd hsp

theorem scJob_presents (hsub : c.sub = 0) : exec (.scJob p blk) s = .next (jobPresent d s c) := by
  rw [exec_scJob, execScJob, runCmd_works h, withCard_some hd, hsp, hsub]
  rfl

theorem scJob_takes (hsub : c.sub = 2) : exec (.scJob p blk) s = .next (jobTake d (s.freeJobPorts c d) c) := by
  rw [exec_scJob, execScJob, runCmd_works h, withCard_some hd, hsp, hsub]
  rfl

theorem scJob_goesOn (hsub : c.sub = 3) : exec (.scJob p blk) s =
    .next (if ((s.freeJobPorts c d).overtaker c d).isSome && !(nextCtr d.counts c.ctr).isEmpty then s.freeJobPorts c d
      else (s.freeJobPorts c d).jobNext (((s.freeJobPorts c d).me.cmd? c.seq).getD c) d) := by
  rw [exec_scJob, execScJob, runCmd_works h, withCard_some hd, hsp, hsub]
  rfl

end

/-! ## Overtaking (R153, R286, R386) -/

/-- Of a job found so far and another the one of higher PRIO, the first of equal ones. -/
def higherPrio : Option Cmd → Cmd → Option Cmd
  | none, x => some x
  | some y, x => if y.cardPrio < x.cardPrio then some x else some y

theorem highestPrio_eq (l : List Cmd) : highestPrio l = l.foldl higherPrio none := by
  refine congrArg (fun f => l.foldl f none) (funext fun m => funext fun x => ?_)
  cases m <;> rfl

theorem higherPrio_spec (m : Option Cmd) (a : Cmd) : ∃ z, higherPrio m a = some z ∧ (z = a ∨ m = some z) ∧
    a.cardPrio ≤ z.cardPrio ∧ ∀ y, m = some y → y.cardPrio ≤ z.cardPrio := by
  cases m with
  | none => exact ⟨a, rfl, .inl rfl, le_rfl, nofun⟩
  | some y =>
    by_cases hlt : y.cardPrio < a.cardPrio
    · exact ⟨a, if_pos hlt, .inl rfl, le_rfl, fun z hz => Option.some.inj hz ▸ hlt.le⟩
    · exact ⟨y, if_neg hlt, .inr rfl, Nat.le_of_not_lt hlt, fun z hz => Option.some.inj hz ▸ le_rfl⟩

theorem foldl_higherPrio {l : List Cmd} {m : Option Cmd} {x : Cmd} (h : l.foldl higherPrio m = some x) :
    (x ∈ l ∨ m = some x) ∧ (∀ y ∈ l, y.cardPrio ≤ x.cardPrio) ∧ ∀ y, m = some y → y.cardPrio ≤ x.cardPrio := by
  induction l generalizing m with
  | nil => exact ⟨.inr h, nofun, fun y hy => (Option.some.inj (hy.symm.trans h)) ▸ le_rfl⟩
  | cons a l ih =>
    obtain ⟨z, hz, hza, ha, hm⟩ := higherPrio_spec m a
    rw [List.foldl_cons, hz] at h
    obtain ⟨hx, hl, hzx⟩ := ih h
    have hzx := hzx z rfl
    refine ⟨?_, List.forall_mem_cons.2 ⟨ha.trans hzx, hl⟩, fun y hy => (hm y hy).trans hzx⟩
    rcases hx with hx | hx
    · exact .inl (List.mem_cons_of_mem a hx)
    · obtain rfl := Option.some.inj hx
      exact hza.imp_left fun e => by rw [e]; exact List.mem_cons_self ..

/-- One of the highest PRIO of a list, and its members are no higher. -/
theorem highestPrio_spec {l : List Cmd} {x : Cmd} (h : highestPrio l = some x) : x ∈ l ∧ ∀ y ∈ l, y.cardPrio ≤ x.cardPrio := by
  rw [highestPrio_eq] at h
  obtain ⟨hx, hl, -⟩ := foldl_higherPrio h
  exact ⟨hx.resolve_right nofun, hl⟩

/-- A job may overtake a running one of lower PRIO at its boundary. -/
def State.mayOvertake (s : State) (c : Cmd) (x : Cmd) : Prop :=
  x.op = 0x12 ∧ x.phase = .accepted ∧ x.portNo = c.portNo ∧ c.acc < x.acc ∧ feetClash true c.foot x.foot = false ∧
    s.clashes x = false ∧ s.me.swapAhead x = false

theorem overtaker_spec {x : Cmd} (h : s.overtaker c d = some x) : d.ovt = true ∧ s.mayOvertake c x ∧ d.prio < x.cardPrio ∧
    ∀ y ∈ s.me.cmds, s.mayOvertake c y → y.cardPrio ≤ x.cardPrio := by
  have hmem (y : Cmd) : (y ∈ s.me.cmds.filter fun x =>
      x.op == 0x12 && x.phase == .accepted && x.portNo == c.portNo && c.acc < x.acc && !feetClash true c.foot x.foot &&
      !s.clashes x && !s.me.swapAhead x && d.prio < x.cardPrio) ↔ y ∈ s.me.cmds ∧ s.mayOvertake c y ∧ d.prio < y.cardPrio := by
    simp [State.mayOvertake, List.mem_filter, and_assoc]
  unfold State.overtaker at h
  cases hovt : d.ovt with
  | false => simp [hovt] at h
  | true =>
    rw [hovt, Bool.not_true, if_neg (by decide)] at h
    obtain ⟨hx, hmax⟩ := highestPrio_spec h
    obtain ⟨-, hmay, hprio⟩ := (hmem x).1 hx
    refine ⟨rfl, hmay, hprio, fun y hy hymay => ?_⟩
    by_cases hlt : d.prio < y.cardPrio
    · exact hmax y ((hmem y).2 ⟨hy, hymay, hlt⟩)
    · exact (Nat.le_of_not_lt hlt).trans hprio.le

theorem cardPrio_above {x : Cmd} {n : Nat} (h : n < x.cardPrio) : ∃ e, cardOf x.raw x.base = some e ∧ n < e.prio := by
  unfold Cmd.cardPrio at h
  cases he : cardOf x.raw x.base with
  | none => simp [he] at h
  | some e => exact ⟨e, rfl, by simpa [he] using h⟩

/-- The state in which a job's planes have been spilled for one that overtakes it. -/
def State.spilled (u : State) (c : Cmd) (k : Nat) : State :=
  (u.mapRun fun r => r.clearPlanes (u.me.jobElems c)).mapCmd c.seq fun y => { y with spilt := true, wclk := max y.wclk k }

theorem jobOvertake_spills (h : s.Focus c .running) (hd : cardOf c.raw c.base = some d) (hsp : c.spilt = false) (hsub : c.sub = 3)
    (hop : c.op = 0x12) (hrest : s.me.jobAtRest c = true) (hmore : (nextCtr d.counts c.ctr).isEmpty = false) {x : Cmd}
    (hx : s.overtaker c d = some x) {k : Nat} {u : State} (hk : spillPlanes c d (List.range s.me.run.elems.length) 0 s = .ok k u) :
    exec .jobOvertake s = .next (((u.spilled c k).startFault x).elim (startJob (u.spilled c k) x) fun y =>
      (u.spilled c k).startStop x y.1 y.2) := by
  rw [exec_jobOvertake, execJobOvertake, h.cmd]
  dsimp only
  rw [hd]
  dsimp only
  rw [if_neg (by simp [hop, h.phase, hsub, hsp, h.open_, hrest, hmore]), hx]
  dsimp only
  rw [hk]
  dsimp only
  unfold State.spilled
  split
  · rename_i hf
    rw [hf]
    rfl
  · rename_i hf
    rw [hf]
    rfl

end

/-- Settles O37: an iteration by the step of the job it is at, the ports by what falls free, and the job that overtakes by its
PRIO. -/
theorem jobCards : Obligations.JobCards := by
  unfold Obligations.JobCards
  intro s c p blk d a b va q z hz h hd hsp ha hb hva hq
  obtain rfl : a = d.aAddr c := ha
  obtain rfl : b = d.bAddr c := hb
  obtain rfl : va = d.cAddr c := hva
  have hzq := outq_freeJobPorts s c d (c.portNo + 2)
  rw [← hz, ← hq] at hzq
  refine ⟨fun hsub hpa hpb => ⟨fun ha => ?_, fun ha hb => ?_,
      fun ha hb xa u xb v w t hra hrb hoa hob => ⟨fun hl => ?_, fun hl hl1 => ?_⟩⟩,
    fun hsub => ⟨fun hva => ?_, fun hva hs => ?_, fun hva hs clk u hw => ?_⟩, fun hsub => ⟨fun hno => ?_, fun x hx hn hne => ?_⟩,
    fun hl hsub k hk ho => ⟨{ c with freed := c.freed ++ s.jobFrees c }, ?_, mem_freed_input hk ho,
      holdsPort_of_freed (mem_freed_input hk ho)⟩,
    fun hl hsub => ⟨{ c with freed := c.freed ++ s.jobFrees c }, ?_, mem_freed_output hsub,
      holdsPort_of_freed (mem_freed_output hsub)⟩,
    fun x u hsub hop hrest hn hne hx k hk w hw => ⟨fun hf => ?_, fun e v hf he => ?_⟩, fun x hx => ?_⟩
  · rw [scJob_presents h hd hsp hsub, jobPresent_misalignedA hpa hpb ha]
    rfl
  · rw [scJob_presents h hd hsp hsub, jobPresent_misalignedB hpa hpb ha hb]
    rfl
  · rw [scJob_presents h hd hsp hsub, jobPresent_bursts hpa hpb ha hb hra hrb hoa hob, if_pos hl]
  · rw [scJob_presents h hd hsp hsub, jobPresent_bursts hpa hpb ha hb hra hrb hoa hob, if_neg (by rw [hl1]; decide),
      if_neg (by rw [hl]; decide)]
  · rw [scJob_takes h hd hsp hsub, ← hz, jobTake_misaligned hva]
    rfl
  · rw [scJob_takes h hd hsp hsub, ← hz, jobTake_short hva (hzq ▸ hs)]
  · rw [scJob_takes h hd hsp hsub, ← hz, jobTake_writes hva (hzq ▸ hs) (hzq ▸ hw)]
  · rw [scJob_goesOn h hd hsp hsub, ← hz, hno]
    rfl
  · rw [scJob_goesOn h hd hsp hsub, ← hz, hx, nextCtr_more hn hne]
    rfl
  · rw [hz]
    exact cmd?_freeJobPorts h.cmd_seq hsub (nextCtr_last hl)
  · rw [hz]
    exact cmd?_freeJobPorts h.cmd_seq (by omega) (nextCtr_last hl)
  · obtain rfl : w = u.spilled c k := hw
    rw [jobOvertake_spills h hd hsp hsub hop hrest (nextCtr_more hn hne) hx hk, hf]
    rfl
  · obtain rfl : w = u.spilled c k := hw
    rw [jobOvertake_spills h hd hsp hsub hop hrest (nextCtr_more hn hne) hx hk, hf]
    exact congrArg Host.Outcome.next (startStop_fault he)
  · obtain ⟨hovt, ⟨-, -, hport, hacc, hfeet, -, -⟩, hprio, hmax⟩ := overtaker_spec hx
    exact ⟨hovt, hacc, hport, hfeet, cardPrio_above hprio, fun y hy hyop hyph hyport hyacc hyfeet hycl hysw =>
      hmax y hy ⟨hyop, hyph, hyport, hyacc, hyfeet, hycl, hysw⟩⟩

end Sys2Proof.Machine

end

/-!
SUPPORT. SC.HALO, and SC.COLL on the side of one member (R287 to R290, R410).
-/
section

namespace Sys2Proof.Machine

section

variable {s : State} {c : Cmd} {p : BitVec 6} {blk : BitVec 24}

/-! ## Halo messages -/

/-- The first element that satisfies a test is found at its place. -/
theorem findIdx_first {α : Type} {q : α → Bool} {l : List α} {i : Nat} (hi : i < l.length) (hq : q l[i] = true)
    (hj : ∀ j, (h : j < i) → q (l[j]'(h.trans hi)) = false) : findIdx q l = some i := by
  induction l generalizing i with
  | nil => exact absurd hi (Nat.not_lt_zero _)
  | cons x l ih =>
    cases i with
    | zero => exact if_pos hq
    | succ i =>
      have hx : q x = false := hj 0 (Nat.succ_pos i)
      rw [findIdx, hx, if_neg (by decide), ih (Nat.lt_of_succ_lt_succ hi) hq fun j h => hj (j + 1) (Nat.succ_lt_succ h)]
      rfl

section

variable {d : HaloDesc} {x : Chan}

theorem scHalo_works (h : s.Focus c .running) (hd : haloOf c.raw = some d) : exec (.scHalo p blk) s =
    .next (if !d.nosend && c.sub % 2 = 0 then haloSend d s c
      else if !d.norecv && c.sub < 2 then haloReceive d s c
      else if s.msgAccepted c then s.finishCmd c.seq else s) := by
  rw [exec_scHalo, execScHalo, runCmd_works h, hd]

theorem haloSend_closed (hx : s.myChan d.chout = some x) (hc : s.consumerClosed x = true) (hst : x.strict = true) :
    haloSend d s c = s.endCmd c tcCHCLOSED := by
  unfold haloSend
  rw [hx]
  exact if_pos (by rw [hc, hst]; rfl)

theorem haloSend_sends (hx : s.myChan d.chout = some x) (hc : s.consumerClosed x = false) (hw : x.msgWire = []) {bs : List Byte}
    {u : State} (hr : engRead (enginePlace false) s (c.base + BitVec.ofInt 64 d.soff) d.len c.nseed c.nstep = .ok bs u) :
    haloSend d s c = (u.mapCmd c.seq fun y => { y with sub := y.sub + 1 }).mapChan x.fn x.blk x.ch fun y =>
      { y with msgWire := y.msgWire ++ [⟨d.tag, bs, s.me.ctx.clock, s.me.id, c.seq, false, 0⟩] } := by
  unfold haloSend
  rw [hx]
  dsimp only
  rw [hc, if_neg (by simp), hw, if_neg (by decide), hr]
  rfl

section

variable {i : Nat} {m : HaloMsg} (hx : s.myChan d.chin = some x) (hi : findIdx (fun m => m.tag == d.tag) x.msgs = some i)
  (hm : x.msgs[i]? = some m)

include hx hi hm

theorem haloReceive_refuses (hl : m.bytes.length ≠ d.len) : haloReceive d s c =
    ((s.dropMsg x i m).discardMsg x (msgWords m.bytes.length)).cmdFault c tcPROT (c.base + BitVec.ofInt 64 d.roff) [] := by
  unfold haloReceive
  rw [hx]
  dsimp only
  rw [hi]
  dsimp only
  rw [hm]
  exact if_pos hl

theorem haloReceive_takes (hl : m.bytes.length = d.len) {clk : Nat} {u : State}
    (hw : engWrite (enginePlace false) s (c.base + BitVec.ofInt 64 d.roff) m.bytes = .ok clk u) : haloReceive d s c =
      (u.dropMsg x i m).mapCmd c.seq fun y => { y with sub := y.sub + 2, wclk := max y.wclk (max clk m.clk) } := by
  unfold haloReceive
  rw [hx]
  dsimp only
  rw [hi]
  dsimp only
  rw [hm]
  dsimp only
  rw [if_neg (not_not_intro hl), hw]

end

end

/-! ## A member of a collective -/

section

variable {d : CollDesc} (hd : collOf c.raw = some d)

include hd

theorem collFault_eq (hf : s.startFault c = none) : collFault s c =
    if (c.base + BitVec.ofInt 64 d.off).toNat % d.recSize ≠ 0 then some (tcALIGN, c.base + BitVec.ofInt 64 d.off) else none := by
  unfold collFault
  rw [hf, hd]
  rfl

theorem scColl_contributes (h : s.Focus c .running) (hsub : c.sub = 0) {bs : List Byte} {u : State}
    (hr : engRead (enginePlace false) s (c.base + BitVec.ofInt 64 d.off) (d.nrec * d.recSize) c.nseed c.nstep = .ok bs u) :
    exec (.scColl p blk) s = .next (u.contribute c d bs) := by
  rw [exec_scColl, execScColl, runCmd_works h, hd]
  simp only [hsub, hr]

theorem scColl_waits (h : s.Focus c .running) (hsub : c.sub = 1) : exec (.scColl p blk) s = .next s := by
  rw [exec_scColl, execScColl, runCmd_works h, hd]
  simp only [hsub]

theorem scColl_writes (h : s.Focus c .running) (hsub : c.sub = 2) {clk : Nat} {u : State}
    (hw : engWrite (enginePlace false) s (c.base + BitVec.ofInt 64 d.off) c.left = .ok clk u) : exec (.scColl p blk) s =
      .next ((u.mapCmd c.seq fun y => { y with left := [], wclk := max y.wclk clk }).finishCmd c.seq) := by
  rw [exec_scColl, execScColl, runCmd_works h, hd]
  simp only [hsub, hw]

end

/-- A list of one value alone has that value once. -/
theorem eraseDups_of_forall_eq {α : Type} [BEq α] [LawfulBEq α] {l : List α} {a : α} (hne : l ≠ []) (h : ∀ x ∈ l, x = a) :
    l.eraseDups = [a] := by
  cases l with
  | nil => exact absurd rfl hne
  | cons x l =>
    obtain ⟨rfl, hl⟩ := List.forall_mem_cons.1 h
    have hrest : (l.filter fun b => !b == x) = [] := List.filter_eq_nil_iff.2 fun b hb => by rw [hl b hb]; simp
    rw [List.eraseDups_cons, hrest]
    rfl

/-- The packages of a member list other than this one, each once. -/
def State.farPkgs (u : State) (ms : List Word) : List (BitVec 8) := ((ms.map memPkg).filter (· != u.wh.pkg)).eraseDups

theorem contribute_eq {u : State} {d : CollDesc} {ms : List Word} (hms : collMembers u u.me.id.fn d.group = some ms)
    (bs : List Byte) : u.contribute c d bs = (u.farPkgs ms).foldl (fun (st : State) p =>
      st.sendPkg p st.me.ctx.clock (.share (shareOf u u.me.id d c.seq ms bs)))
        (u.mapCmd c.seq fun y => { y with sub := 1, left := bs, mems := ms }) := by
  unfold State.contribute
  dsimp only
  rw [hms]
  rfl

theorem farPkgs_none {u : State} {ms : List Word} (h : ∀ m ∈ ms, memPkg m = u.wh.pkg) : u.farPkgs ms = [] := by
  have hnil : (ms.map memPkg).filter (· != u.wh.pkg) = [] := List.filter_eq_nil_iff.2 fun q hq => by
    obtain ⟨m, hm, rfl⟩ := List.mem_map.1 hq
    simp [h m hm]
  unfold State.farPkgs
  rw [hnil]
  rfl

theorem farPkgs_one {u : State} {ms : List Word} {q : BitVec 8} (hq : ∃ m ∈ ms, memPkg m = q)
    (h : ∀ m ∈ ms, memPkg m = u.wh.pkg ∨ memPkg m = q) (hne : q ≠ u.wh.pkg) : u.farPkgs ms = [q] := by
  obtain ⟨m, hm, rfl⟩ := hq
  have hmem : memPkg m ∈ (ms.map memPkg).filter (· != u.wh.pkg) :=
    List.mem_filter.2 ⟨List.mem_map_of_mem hm, bne_iff_ne.2 hne⟩
  refine eraseDups_of_forall_eq (List.ne_nil_of_mem hmem) fun r hr => ?_
  obtain ⟨hr, hrne⟩ := List.mem_filter.1 hr
  obtain ⟨n, hn, rfl⟩ := List.mem_map.1 hr
  exact (h n hn).resolve_left (bne_iff_ne.1 hrne)

end

end Sys2Proof.Machine

end

/-!
SUPPORT. COLL_SUM: what the members of a group find in their commands once their lists, counts and data are compared (R290, R410).
-/
section

namespace Sys2Proof.Machine

/-! ## The tasks that an operation on one task leaves -/

section

variable {s u : State} {t k : TaskId}

/-- A task that comes into focus is found as before, and so are the others. -/
theorem task?_focus (h : s.focus t = some u) (k : TaskId) : u.task? k = s.task? k := by
  unfold State.focus at h
  split at h
  · rw [Option.some.inj h]
  · rename_i hme
    split at h
    · exact absurd h nofun
    · rename_i x hx
      obtain rfl := Option.some.inj h
      have hxt : x.id = t := beq_iff_eq.1 (List.find?_some (p := fun x : Task => x.id == t) hx)
      unfold State.task? State.all
      dsimp only
      rw [List.find?_cons, List.find?_cons, List.find?_cons]
      by_cases hk : k = t
      · subst hk
        rw [beq_iff_eq.2 hxt, beq_eq_false_iff_ne.2 hme]
        exact hx.symm
      · rw [beq_eq_false_iff_ne.2 (hxt.trans_ne (Ne.symm hk))]
        dsimp only
        split
        · rfl
        · rw [List.find?_filter]
          refine congrArg (fun q => s.tasks.find? q) (funext fun y => ?_)
          by_cases hy : y.id = k
          · rw [beq_iff_eq.2 hy, bne_iff_ne.2 (hy.trans_ne hk)]
            rfl
          · rw [beq_eq_false_iff_ne.2 hy]
            simp

theorem focus_me {z : Task} (hz : s.task? t = some z) : ∃ u, s.focus t = some u ∧ u.me = z := by
  unfold State.task? State.all at hz
  unfold State.focus
  rw [List.find?_cons] at hz
  by_cases hme : s.me.id = t
  · rw [beq_iff_eq.2 hme] at hz
    exact ⟨s, if_pos hme, Option.some.inj hz⟩
  · rw [beq_eq_false_iff_ne.2 hme] at hz
    dsimp only at hz
    rw [if_neg hme, hz]
    exact ⟨_, rfl, rfl⟩

theorem task?_asTask_id (s : State) (t k : TaskId) : (s.asTask t id).task? k = s.task? k := by
  unfold State.asTask
  split
  · rename_i u hu
    exact task?_focus hu k
  · rfl

/-- An operation on the task in focus leaves the others, and the task's name. -/
def OnMe (f : State → State) : Prop := ∀ u, (f u).tasks = u.tasks ∧ (f u).me.id = u.me.id

theorem task?_asTask_of_ne {f : State → State} (hf : OnMe f) (hk : k ≠ t) : (s.asTask t f).task? k = s.task? k := by
  unfold State.asTask
  split
  · rename_i u hu
    obtain ⟨htasks, hid⟩ := hf u
    obtain hut : u.me.id = t := by
      unfold State.focus at hu
      split at hu
      · rename_i hme
        rw [← Option.some.inj hu]
        exact hme
      · split at hu
        · exact absurd hu nofun
        · rename_i x hx
          rw [← Option.some.inj hu]
          exact beq_iff_eq.1 (List.find?_some (p := fun x : Task => x.id == t) hx)
    rw [← task?_focus hu k]
    unfold State.task? State.all
    rw [List.find?_cons, List.find?_cons, htasks, hid, hut, beq_eq_false_iff_ne.2 (Ne.symm hk)]
  · rfl

theorem task?_asTask_self {f : State → State} (hf : OnMe f) {z : Task} (hz : s.task? t = some z) :
    ∃ u, u.me = z ∧ (s.asTask t f).task? t = some (f u).me := by
  obtain ⟨u, hu, hme⟩ := focus_me hz
  have hid : (f u).me.id = t := by
    rw [(hf u).2, hme]
    exact beq_iff_eq.1 (List.find?_some (p := fun x : Task => x.id == t) hz)
  refine ⟨u, hme, ?_⟩
  unfold State.asTask
  rw [hu]
  unfold State.task? State.all
  rw [List.find?_cons, beq_iff_eq.2 hid]

/-- After operations on tasks by turns, a task among them is as its own leave it. -/
theorem task?_foldl_asTask {α : Type} {who : α → TaskId} {f : α → State → State} (hf : ∀ x, OnMe (f x)) {R Q : Task → Prop}
    {l : List α} (hRQ : ∀ x ∈ l, who x = k → ∀ u : State, R u.me → Q (f x u).me) (hQR : ∀ z, Q z → R z) {s : State} {z : Task}
    (hz : s.task? k = some z) (hR : R z) (hQ : Q z ∨ ∃ x ∈ l, who x = k) :
    ∃ z', (l.foldl (fun (st : State) x => st.asTask (who x) (f x)) s).task? k = some z' ∧ Q z' := by
  induction l generalizing s z with
  | nil => exact ⟨z, hz, hQ.resolve_right nofun⟩
  | cons x l ih =>
    obtain ⟨hx, hl⟩ := List.forall_mem_cons.1 hRQ
    by_cases hk : who x = k
    · subst hk
      obtain ⟨u, rfl, hu⟩ := task?_asTask_self (hf x) hz
      exact ih hl hu (hQR _ (hx rfl u hR)) (.inl (hx rfl u hR))
    · refine ih hl ((task?_asTask_of_ne (hf x) (Ne.symm hk)).trans hz) hR (hQ.imp_right ?_)
      rintro ⟨y, hy, rfl⟩
      rcases List.mem_cons.1 hy with rfl | hy
      · exact absurd rfl hk
      · exact ⟨y, hy, rfl⟩

/-- What a change of focus keeps, and an operation on the task in focus, they keep by turns. -/
theorem asTask_keeps {P : State → Prop} (hP : ∀ u (me : Task) ts, P u → P { u with me := me, tasks := ts }) {f : State → State}
    (hf : ∀ u, P u → P (f u)) (h : P s) (t : TaskId) : P (s.asTask t f) := by
  unfold State.asTask State.focus
  split
  · rename_i u hu
    refine hf u ?_
    split at hu
    · exact Option.some.inj hu ▸ h
    · split at hu
      · exact absurd hu nofun
      · exact Option.some.inj hu ▸ hP s _ _ h
  · exact h

theorem mem_all_of_task? {z : Task} (h : s.task? t = some z) : z ∈ s.all ∧ z.id = t :=
  ⟨List.mem_of_find?_eq_some h, beq_iff_eq.1 (List.find?_some (p := fun x : Task => x.id == t) h)⟩

/-- With each task's name its own, a task is found by its name. -/
theorem task?_of_mem (hn : (s.all.map (·.id)).Nodup) {z : Task} (hz : z ∈ s.all) : s.task? z.id = some z := by
  unfold State.task?
  generalize s.all = l at hn hz
  induction l with
  | nil => exact absurd hz (List.not_mem_nil)
  | cons y l ih =>
    obtain ⟨hy, hn⟩ := List.nodup_cons.1 hn
    rw [List.find?_cons]
    rcases List.mem_cons.1 hz with rfl | hz
    · rw [beq_self_eq_true]
    · have hne : y.id ≠ z.id := fun e => hy (List.mem_map.2 ⟨z, hz, e.symm⟩)
      rw [beq_eq_false_iff_ne.2 hne]
      exact ih hn hz

end

/-! ## What the members have contributed -/

section

variable {s : State} {g : Nat} {ms : List Word}

theorem contributed_mem {t : Task} {x : Cmd × CollDesc} (h : contributed t g = some x) : x.1 ∈ t.cmds := by
  obtain ⟨c, hc, hx⟩ := List.mem_filterMap.1 (List.mem_of_mem_head? (Option.mem_def.2 h))
  split at hx
  · split at hx
    · split at hx
      · exact Option.some.inj hx ▸ hc
      · exact absurd hx nofun
    · exact absurd hx nofun
  · exact absurd hx nofun

/-- A share of this package is that of a task's own command. -/
theorem localShares_task (hn : (s.all.map (·.id)).Nodup) {y : TaskId × Cmd × CollShare} (hy : y ∈ s.localShares g ms) :
    ∃ t e, s.task? y.1 = some t ∧ contributed t g = some (y.2.1, e) := by
  obtain ⟨m, -, hm⟩ := List.mem_filterMap.1 hy
  obtain ⟨t, ht, hx⟩ := Option.bind_eq_some_iff.1 hm
  obtain ⟨x, hc, rfl⟩ := Option.map_eq_some_iff.1 hx
  exact ⟨t, x.2, task?_of_mem hn (List.mem_of_find?_eq_some ht), hc⟩

/-- The shares of one task are those of one command. -/
theorem localShares_cmd (hn : (s.all.map (·.id)).Nodup) {x y : TaskId × Cmd × CollShare} (hx : x ∈ s.localShares g ms)
    (hy : y ∈ s.localShares g ms) (he : x.1 = y.1) : x.2.1 = y.2.1 := by
  obtain ⟨t, e, ht, hc⟩ := localShares_task hn hx
  obtain ⟨t', e', ht', hc'⟩ := localShares_task hn hy
  obtain rfl : t = t' := Option.some.inj (ht.symm.trans (he ▸ ht'))
  exact (Prod.mk.inj (Option.some.inj (hc.symm.trans hc'))).1

/-! ## Lists that differ (R410) -/

theorem collClash_of_table {x : Word} (hx : x ∈ ms) (hp : memPkg x = s.wh.pkg) {ws : List Word}
    (hws : collMembers s (memFn x) g = some ws) (hne : ws ≠ ms) (l : List (TaskId × Cmd × CollShare)) : s.collClash g ms l = true := by
  have h : (ms.any fun m => memPkg m == s.wh.pkg && ((collMembers s (memFn m) g).filter fun x => x != ms).isSome) = true :=
    List.any_eq_true.2 ⟨x, hx, by simp [hp, hws, Option.filter, hne]⟩
  unfold State.collClash
  dsimp only
  rw [h, Bool.true_or, Bool.true_or]

theorem collClash_of_task {t : Task} (ht : t ∈ s.all) {x : Cmd × CollDesc} (hx : contributed t g = some x) (hne : x.1.mems ≠ ms)
    (hm : ∃ m ∈ ms, memberIs s t.id m = true) (l : List (TaskId × Cmd × CollShare)) : s.collClash g ms l = true := by
  unfold State.collClash
  dsimp only
  rw [Bool.or_eq_true, Bool.or_eq_true]
  refine .inl (.inr (List.any_eq_true.2 ⟨t, ht, ?_⟩))
  rw [hx]
  dsimp only
  rw [List.any_eq_true.2 hm, bne_iff_ne.2 hne]
  rfl

theorem collClash_of_share {x : Word} (hx : x ∈ ms) {y : CollShare × Nat} (hy : y ∈ s.shares) (hs : isShareOf g x y.1 = true)
    (hne : y.1.members ≠ ms) (l : List (TaskId × Cmd × CollShare)) : s.collClash g ms l = true := by
  have hg : y.1.grp = g := by
    simp only [isShareOf, Bool.and_eq_true, beq_iff_eq] at hs
    obtain ⟨⟨⟨hg, -⟩, -⟩, -⟩ := hs
    exact hg
  have hany : ms.any (isShareOf g · y.1) = true := List.any_eq_true.2 ⟨x, hx, hs⟩
  unfold State.collClash
  dsimp only
  rw [Bool.or_eq_true]
  refine .inr (List.any_eq_true.2 ⟨y, hy, ?_⟩)
  rw [hany, bne_iff_ne.2 hne, beq_iff_eq.2 hg]
  rfl

/-! ## Members that stop, members that take the sum -/

/-- A command of a number has been stopped with PROT, and its run with it. -/
def Task.StoppedAt (q : BitVec 32) (z : Task) : Prop :=
  z.run.gated = true ∧ ∃ w ∈ z.cmds, w.seq = q ∧ w.phase = .faulted ∧ w.cause = tcPROT

/-- A command of a number has taken a sum. -/
def Task.TakenAt (q : BitVec 32) (bs : List Byte) (z : Task) : Prop := ∃ w ∈ z.cmds, w.seq = q ∧ w.sub = 2 ∧ w.left = bs

theorem mem_mapCmd {t : Task} {c : Cmd} (hc : c ∈ t.cmds) (f : Cmd → Cmd) : f c ∈ (t.mapCmd c.seq f).cmds :=
  List.mem_map.2 ⟨c, hc, if_pos (beq_self_eq_true _)⟩

/-- What a command is that is to contribute anew. -/
def Cmd.anew (y : Cmd) : Cmd := { y with sub := 0, left := [] }

/-- What a command is that has taken a sum. -/
def Cmd.took (bs : List Byte) (sat : Bool) (clk : Nat) (y : Cmd) : Cmd :=
  { y with sub := 2, left := bs, psat := y.psat || sat, wclk := max y.wclk clk }

/-- A member's command stops. -/
def collHalt (x : TaskId × Cmd × CollShare) (u : State) : State := (u.mapCmd x.2.1.seq Cmd.anew).cmdFault x.2.1 tcPROT 0 []

/-- A member's command takes the sum. -/
def collTake (bs : List Byte) (sat : Bool) (clk : Nat) (x : TaskId × Cmd × CollShare) (u : State) : State :=
  (u.mapCmd x.2.1.seq (Cmd.took bs sat clk)).mapCtx fun c => { c with clock := max c.clock clk }

theorem collDiffer_eq (u : State) (l : List (TaskId × Cmd × CollShare)) :
    u.collDiffer l = l.foldl (fun (st : State) x => st.asTask x.1 (collHalt x)) u := rfl

theorem collGive_eq (u : State) (l : List (TaskId × Cmd × CollShare)) (r : List (Word × Bool)) (clk : Nat) : u.collGive l r clk =
    l.foldl (fun (st : State) x => st.asTask x.1 (collTake (r.flatMap fun x => dbytes x.1) (r.any (·.2)) clk x)) u := rfl

theorem postStop_tasks (s : State) (p : Pending) : (s.postStop p).tasks = s.tasks := by
  unfold State.postStop
  split
  · dsimp only
    split
    · rfl
    · split <;> rfl
  · rfl

theorem cmdFault_tasks (s : State) (c : Cmd) (cause : BitVec 8) (va : Word) (ctrs : List Nat) :
    (s.cmdFault c cause va ctrs).tasks = s.tasks := by
  unfold State.cmdFault
  dsimp only
  rw [postStop_tasks]
  change (s.cmdRecord c cause va ctrs).tasks = s.tasks
  unfold State.cmdRecord
  dsimp only
  rw [stored_fault]

theorem onMe_collHalt (x : TaskId × Cmd × CollShare) : OnMe (collHalt x) := fun u => by
  obtain ⟨hid, -, -⟩ := cmdFault_task (u.mapCmd x.2.1.seq Cmd.anew) x.2.1 tcPROT 0 []
  exact ⟨cmdFault_tasks .., hid⟩

theorem onMe_collTake (bs : List Byte) (sat : Bool) (clk : Nat) (x : TaskId × Cmd × CollShare) : OnMe (collTake bs sat clk x) :=
  fun _ => ⟨rfl, rfl⟩

theorem collHalt_stops {x : TaskId × Cmd × CollShare} {u : State} (h : ∃ w ∈ u.me.cmds, w.seq = x.2.1.seq) :
    (collHalt x u).me.StoppedAt x.2.1.seq := by
  obtain ⟨w, hw, hq⟩ := h
  obtain ⟨-, hcmds, hrun⟩ := cmdFault_task (u.mapCmd x.2.1.seq Cmd.anew) x.2.1 tcPROT 0 []
  have hw' := mem_mapCmd (mem_mapCmd hw Cmd.anew) (Cmd.stopped tcPROT)
  have hq' : w.anew.seq = x.2.1.seq := hq
  rw [hq', hq] at hw'
  exact ⟨congrArg Run.gated hrun, w.anew.stopped tcPROT, hcmds.symm ▸ hw', hq, rfl, rfl⟩

theorem collTake_takes {bs : List Byte} {sat : Bool} {clk : Nat} {x : TaskId × Cmd × CollShare} {u : State}
    (h : ∃ w ∈ u.me.cmds, w.seq = x.2.1.seq) : (collTake bs sat clk x u).me.TakenAt x.2.1.seq bs := by
  obtain ⟨w, hw, hq⟩ := h
  have hw' := mem_mapCmd hw (Cmd.took bs sat clk)
  rw [hq] at hw'
  exact ⟨w.took bs sat clk, hw', hq, rfl, rfl⟩

section

variable (hn : (s.all.map (·.id)).Nodup) {u : State} (hu : ∀ k, u.task? k = s.task? k)

include hn hu

/-- Operations on the members of a group leave in each of their tasks what each leaves of its own. -/
theorem members_foldl {f : TaskId × Cmd × CollShare → State → State} (hf : ∀ x, OnMe (f x)) {Q : BitVec 32 → Task → Prop}
    (hQ : ∀ x u, (∃ w ∈ u.me.cmds, w.seq = x.2.1.seq) → Q x.2.1.seq (f x u).me)
    (hcmd : ∀ q z, Q q z → ∃ w ∈ z.cmds, w.seq = q) {y : TaskId × Cmd × CollShare} (hy : y ∈ s.localShares g ms) (t : TaskId) :
    ∃ z ∈ (((s.localShares g ms).foldl (fun (st : State) x => st.asTask x.1 (f x)) u).asTask t id).all,
      z.id = y.1 ∧ Q y.2.1.seq z := by
  obtain ⟨z, e, hz, hc⟩ := localShares_task hn hy
  obtain ⟨z', hz', hQz⟩ := task?_foldl_asTask (who := fun x : TaskId × Cmd × CollShare => x.1) (f := f) (k := y.1) hf
    (R := fun z => ∃ w ∈ z.cmds, w.seq = y.2.1.seq) (Q := Q y.2.1.seq) (l := s.localShares g ms)
    (fun x hx he v hR => by
      rw [← localShares_cmd hn hx hy he] at hR ⊢
      exact hQ x v hR)
    (hcmd y.2.1.seq) ((hu y.1).trans hz) ⟨_, contributed_mem hc, rfl⟩ (.inr ⟨y, hy, rfl⟩)
  obtain ⟨hmem, hid⟩ := mem_all_of_task? ((task?_asTask_id ..).trans hz')
  exact ⟨z', hmem, hid, hQz⟩

theorem collDiffer_stops {y : TaskId × Cmd × CollShare} (hy : y ∈ s.localShares g ms) (t : TaskId) :
    ∃ z ∈ ((u.collDiffer (s.localShares g ms)).asTask t id).all, z.id = y.1 ∧ z.StoppedAt y.2.1.seq := by
  rw [collDiffer_eq]
  exact members_foldl hn hu (f := collHalt) onMe_collHalt (Q := Task.StoppedAt) (fun _ _ => collHalt_stops)
    (fun _ _ ⟨_, w, hw, hq, _⟩ => ⟨w, hw, hq⟩) hy t

theorem collTake_foldl {y : TaskId × Cmd × CollShare} (hy : y ∈ s.localShares g ms) (bs : List Byte) (sat : Bool) (clk : Nat)
    (t : TaskId) :
    ∃ z ∈ (((s.localShares g ms).foldl (fun (st : State) x => st.asTask x.1 (collTake bs sat clk x)) u).asTask t id).all,
      z.id = y.1 ∧ z.TakenAt y.2.1.seq bs :=
  members_foldl hn hu (f := collTake bs sat clk) (onMe_collTake bs sat clk) (Q := fun q => Task.TakenAt q bs)
    (fun _ _ => collTake_takes) (fun _ _ ⟨w, hw, hq, _⟩ => ⟨w, hw, hq⟩) hy t

theorem collGive_gives {y : TaskId × Cmd × CollShare} (hy : y ∈ s.localShares g ms) (r : List (Word × Bool)) (clk : Nat)
    (t : TaskId) :
    ∃ z ∈ ((u.collGive (s.localShares g ms) r clk).asTask t id).all, z.id = y.1 ∧
      z.TakenAt y.2.1.seq (r.flatMap fun x => dbytes x.1) := by
  rw [collGive_eq]
  exact collTake_foldl hn hu hy ..

end

/-- Members that take the sum leave memory and channels. -/
theorem collGive_frame (u : State) (l : List (TaskId × Cmd × CollShare)) (r : List (Word × Bool)) (clk : Nat) (t : TaskId) :
    ((u.collGive l r clk).asTask t id).mem = u.mem ∧ ((u.collGive l r clk).asTask t id).chans = u.chans := by
  have hP (v : State) (me : Task) (ts : List Task) (h : v.mem = u.mem ∧ v.chans = u.chans) :
      ({ v with me := me, tasks := ts } : State).mem = u.mem ∧ ({ v with me := me, tasks := ts } : State).chans = u.chans := h
  refine asTask_keeps (P := fun v : State => v.mem = u.mem ∧ v.chans = u.chans) hP (fun _ h => h) ?_ t
  rw [collGive_eq]
  exact foldl_keeps (P := fun v : State => v.mem = u.mem ∧ v.chans = u.chans)
    (fun v x h => asTask_keeps (P := fun v : State => v.mem = u.mem ∧ v.chans = u.chans) hP (f := collTake _ _ _ x)
      (fun _ h => h) h x.1) l ⟨rfl, rfl⟩

/-! ## The sum -/

/-- The sum's records hold the sum of each field. -/
theorem collSums_bytes (op n : Nat) (all : List CollShare) :
    (collSums op (all.map fun x => fields64 x.data n) n).flatMap (fun x => dbytes x.1) =
      (List.range n).flatMap fun i => leBytes 8 (collField op (all.map fun m => (dword m.data (8 * i)).toInt)).1.toNat := by
  unfold collSums
  rw [List.flatMap_map]
  refine List.flatMap_congr fun i hi => ?_
  have hfield (m : CollShare) : (fields64 m.data n).getD i 0 = dword m.data (8 * i) := by
    unfold fields64
    rw [List.getD_eq_getElem?_getD, List.getElem?_map, List.getElem?_range (List.mem_range.1 hi)]
    rfl
  simp only [List.map_map, Function.comp_def, hfield, dbytes]

theorem foldl_add_eq_sum (vs : List Int) : vs.foldl (· + ·) 0 = vs.sum := List.sum_eq_foldl.symm

theorem collField_wraps (vs : List Int) : collField 1 vs = (BitVec.ofInt 64 vs.sum, false) := by
  unfold collField
  dsimp only
  rw [foldl_add_eq_sum, if_pos rfl]

theorem collField_saturates (vs : List Int) : collField 5 vs =
    if 2 ^ 63 - 1 < vs.sum then (BitVec.ofInt 64 (2 ^ 63 - 1), true)
    else if vs.sum < -(2 ^ 63 - 1) then (BitVec.ofInt 64 (-(2 ^ 63 - 1)), true) else (BitVec.ofInt 64 vs.sum, false) := by
  unfold collField
  dsimp only
  rw [foldl_add_eq_sum, if_neg (by decide)]

/-- The state once the contributions of a group's other packages have been used up. -/
def State.sharesUsed (s : State) (g : Nat) (ms : List Word) : State :=
  { s with shares := ms.foldl (fun l m => l.eraseP fun x => isShareOf g m x.1) s.shares }

/-- The state once what was contributed to a group for other lists has gone. -/
def State.sharesKept (s : State) (g : Nat) (ms : List Word) : State :=
  { s with shares := s.shares.filter fun x => x.1.grp != g || x.1.members == ms }

/-- Every contribution to a group. -/
def State.allShares (s : State) (g : Nat) (ms : List Word) : List CollShare :=
  (s.localShares g ms).map (·.2.2) ++ (s.peerShares g ms).map (·.1)

theorem collDone_differs {d : CollShare} (h : ∃ y ∈ s.allShares g ms, y.nrec ≠ d.nrec ∨ y.op ≠ d.op ∨ y.members ≠ ms) :
    s.collDone g ms (s.localShares g ms) d = (s.sharesUsed g ms).collDiffer (s.localShares g ms) := by
  obtain ⟨y, hy, hne⟩ := h
  refine if_pos (List.any_eq_true.2 ⟨y, hy, ?_⟩)
  rcases hne with hne | hne | hne <;> simp [hne]

theorem collDone_agrees {d : CollShare} (h : ∀ y ∈ s.allShares g ms, y.nrec = d.nrec ∧ y.op = d.op ∧ y.members = ms) :
    ∃ clk, s.collDone g ms (s.localShares g ms) d = (s.sharesUsed g ms).collGive (s.localShares g ms)
      (collSums d.op ((s.allShares g ms).map fun x => fields64 x.data (if d.op = 1 then d.nrec else 8 * d.nrec))
        (if d.op = 1 then d.nrec else 8 * d.nrec)) clk := by
  refine ⟨_, if_neg ?_⟩
  rw [List.any_eq_true]
  rintro ⟨y, hy, hne⟩
  obtain ⟨hnrec, hop, hmem⟩ := h y hy
  simp [hnrec, hop, hmem] at hne

/-- COLL_SUM by what its first member's group has come to. -/
theorem collSum_eq {m : TaskId × Cmd × CollShare} (hl : s.collList s.cur.arg.fn s.cur.arg.k = some ms)
    (hm : (s.localShares s.cur.arg.k ms).head? = some m) : exec .collSum s =
      if s.collClash s.cur.arg.k ms (s.localShares s.cur.arg.k ms) then
        .next ((s.collStop s.cur.arg.k ms (s.localShares s.cur.arg.k ms)).asTask s.me.id id)
      else if (s.localShares s.cur.arg.k ms).length + (s.peerShares s.cur.arg.k ms).length = ms.length then
        .next ((s.collDone s.cur.arg.k ms (s.localShares s.cur.arg.k ms) m.2.2).asTask s.me.id id)
      else if ms.any fun m => memPkg m != s.wh.pkg && !s.reaches (memPkg m) then
        .next ((s.localShares s.cur.arg.k ms).foldl (fun (st : State) x => st.severDomain x.1.fn x.1.blk) s)
      else .next s := by
  rw [exec_collSum, execCollSum]
  dsimp only
  rw [hl]
  dsimp only
  generalize s.localShares s.cur.arg.k ms = l at hm ⊢
  cases l with
  | nil => exact absurd hm nofun
  | cons x l =>
    obtain rfl := Option.some.inj hm
    rfl

end

/-- Settles O38: the message and the contribution of one member, and the group by its lists, counts and fields. -/
theorem exchangesWithPeers : Obligations.ExchangesWithPeers := by
  unfold Obligations.ExchangesWithPeers
  intro s c p blk
  refine ⟨fun h d hd => ⟨fun x hns hsub hx => ⟨fun hc hst => ?_, fun hc hw bs u hr => ?_⟩,
      fun x i m hnr hsub hx hi hm htag hfirst => ?_, fun hsub ha => ?_, fun hsub ha => ?_⟩,
    fun h hs hf d hd => ⟨fun hva => ?_, fun hva => ?_⟩,
    fun h d hd => ⟨fun hsub bs u hr => scColl_contributes hd h hsub hr, scColl_waits hd h,
      fun hsub clk u hw => scColl_writes hd h hsub hw⟩,
    fun u d bs ms hms => ⟨fun hm => ?_, fun q hq hm hne => ?_⟩,
    fun g ms l => ⟨fun x hx hp ws hws hne => collClash_of_table hx hp hws hne l,
      fun x hx y hy hs hne => collClash_of_share hx hy hs hne l,
      fun t ht x hx hne hm => collClash_of_task ht hx hne hm l⟩,
    fun ms l far all d m hl hloc hm hd hfar hall hn => ?_,
    fun vs => ⟨foldl_add_eq_sum vs, by rw [collField_wraps], by rw [collField_wraps], collField_saturates vs⟩⟩
  · rw [scHalo_works h hd, if_pos (by simp [hns, hsub]), haloSend_closed hx hc hst]
    rfl
  · rw [scHalo_works h hd, if_pos (by simp [hns, hsub]), haloSend_sends hx hc hw hr]
  · have hidx : findIdx (fun m => m.tag == d.tag) x.msgs = some i :=
      findIdx_first hi (by rw [hm]; exact beq_iff_eq.2 htag) fun j hj => beq_eq_false_iff_ne.2 (hfirst j hj)
    have hget : x.msgs[i]? = some m := (List.getElem?_eq_getElem hi).trans (congrArg some hm)
    rw [scHalo_works h hd, if_neg (by simp [hsub]), if_pos (by simp [hnr, hsub])]
    refine ⟨fun hl clk u hw => by rw [haloReceive_takes hx hidx hget hl hw], fun hl => ?_⟩
    rw [haloReceive_refuses hx hidx hget hl]
    rfl
  · rw [scHalo_works h hd, if_neg (by simp [hsub]), if_neg (by simp [hsub]), if_pos ha]
  · rw [scHalo_works h hd, if_neg (by simp [hsub]), if_neg (by simp [hsub]), if_neg (by rw [ha]; decide)]
  · rw [exec_scColl, execScColl, runCmd_stopped h hs ((collFault_eq hd hf).trans (if_pos hva)), startStop_fault (by decide)]
    rfl
  · rw [exec_scColl, execScColl, runCmd_starts h hs ((collFault_eq hd hf).trans (if_neg (not_not_intro hva)))]
    rfl
  · rw [contribute_eq hms, farPkgs_none hm]
    rfl
  · rw [contribute_eq hms, farPkgs_one hq hm hne]
    rfl
  · subst hloc hd hfar
    obtain rfl : all = s.allShares s.cur.arg.k ms := hall
    have hlen : (s.allShares s.cur.arg.k ms).length =
        (s.localShares s.cur.arg.k ms).length + (s.peerShares s.cur.arg.k ms).length := by
      rw [State.allShares, List.length_append, List.length_map, List.length_map]
    rw [collSum_eq hl hm, hlen]
    refine ⟨fun hcl hne hreach => ?_, fun hcl heq hagree => ?_, fun hdiff => ?_⟩
    · rw [hcl, if_neg (by decide), if_neg hne, if_neg]
      rw [List.any_eq_true]
      rintro ⟨x, hx, hfar⟩
      rcases hreach x hx with hx | hx <;> simp [hx] at hfar
    · obtain ⟨clk, hdone⟩ := collDone_agrees hagree
      rw [hcl, if_neg (by decide), if_pos heq, hdone]
      obtain ⟨hmem, hchans⟩ := collGive_frame (s.sharesUsed s.cur.arg.k ms) (s.localShares s.cur.arg.k ms) _ clk s.me.id
      refine ⟨_, rfl, hmem, hchans, fun y hy => ?_⟩
      rw [← collSums_bytes]
      exact collGive_gives hn (u := s.sharesUsed s.cur.arg.k ms) (fun _ => rfl) hy _ clk s.me.id
    · by_cases hcl : s.collClash s.cur.arg.k ms (s.localShares s.cur.arg.k ms) = true
      · rw [if_pos hcl]
        exact ⟨_, rfl, fun y hy => collDiffer_stops hn (u := s.sharesKept s.cur.arg.k ms) (fun _ => rfl) hy s.me.id⟩
      · obtain ⟨heq, hne⟩ := hdiff.resolve_left hcl
        rw [if_neg hcl, if_pos heq, collDone_differs hne]
        exact ⟨_, rfl, fun y hy => collDiffer_stops hn (u := s.sharesUsed s.cur.arg.k ms) (fun _ => rfl) hy s.me.id⟩

end Sys2Proof.Machine

end

/-!
SUPPORT. What a firing leaves (R293, R295, R424, R432, R435).
-/
section

namespace Sys2Proof.Machine

/-! ## An element that is changed -/

theorem getD_modifyAt_self {α : Type} (f : α → α) (d : α) {l : List α} {i : Nat} (h : i < l.length) :
    (modifyAt l i f).getD i d = f (l.getD i d) := by
  induction l generalizing i with
  | nil => exact absurd h (Nat.not_lt_zero i)
  | cons x l ih =>
    cases i with
    | zero => rfl
    | succ i => exact ih (Nat.lt_of_succ_lt_succ h)

theorem getD_modifyAt_ne {α : Type} (f : α → α) (d : α) (l : List α) {i j : Nat} (h : j ≠ i) :
    (modifyAt l i f).getD j d = l.getD j d := by
  induction l generalizing i j with
  | nil => rfl
  | cons x l ih =>
    cases i with
    | zero =>
      obtain ⟨j, rfl⟩ := Nat.exists_eq_succ_of_ne_zero h
      rfl
    | succ i =>
      cases j with
      | zero => rfl
      | succ j => exact ih fun e => h (congrArg Nat.succ e)

theorem length_modifyAt {α : Type} (f : α → α) (l : List α) (i : Nat) : (modifyAt l i f).length = l.length := by
  induction l generalizing i with
  | nil => rfl
  | cons x l ih =>
    cases i with
    | zero => rfl
    | succ i => exact congrArg Nat.succ (ih i)

/-- Two changes of an element are one where they agree on it. -/
theorem modifyAt_congr {α : Type} {f g : α → α} {d : α} {l : List α} {i : Nat} (h : f (l.getD i d) = g (l.getD i d)) :
    modifyAt l i f = modifyAt l i g := by
  induction l generalizing i with
  | nil => rfl
  | cons x l ih =>
    cases i with
    | zero => exact congrArg (· :: l) h
    | succ i => exact congrArg (x :: ·) (ih h)

theorem elem_mapElem_self {r : Run} {e : Nat} (f : Elem → Elem) (h : e < r.elems.length) :
    (r.mapElem e f).elem e = f (r.elem e) := getD_modifyAt_self f _ h

theorem elem_mapElem_ne (r : Run) {e k : Nat} (f : Elem → Elem) (h : k ≠ e) : (r.mapElem e f).elem k = r.elem k :=
  getD_modifyAt_ne f _ _ h

theorem mapElem_congr {r : Run} {e : Nat} {f g : Elem → Elem} (h : f (r.elem e) = g (r.elem e)) :
    r.mapElem e f = r.mapElem e g := congrArg (fun l => { r with elems := l }) (modifyAt_congr h)

@[simp] theorem mapElem_elems_length (r : Run) (e : Nat) (f : Elem → Elem) : (r.mapElem e f).elems.length = r.elems.length :=
  length_modifyAt ..

/-! ## Counters (R254, R435) -/

/-- A counter after a list of events, each with its number. -/
def Counter.counts (l : List (Nat × Nat)) (c : Counter) : Counter := l.foldl (fun c v => c.count v.1 v.2) c

theorem counter_count_keeps (e n : Nat) (c : Counter) : (c.count e n).on = c.on ∧ (c.count e n).ev = c.ev := by
  unfold Counter.count
  split <;> exact ⟨rfl, rfl⟩

theorem counter_counts_keeps (l : List (Nat × Nat)) (c : Counter) : (c.counts l).on = c.on ∧ (c.counts l).ev = c.ev := by
  induction l generalizing c with
  | nil => exact ⟨rfl, rfl⟩
  | cons v l ih =>
    obtain ⟨hon, hev⟩ := ih (c.count v.1 v.2)
    obtain ⟨hon', hev'⟩ := counter_count_keeps v.1 v.2 c
    exact ⟨hon.trans hon', hev.trans hev'⟩

theorem counter_counts_off (l : List (Nat × Nat)) {c : Counter} (h : c.on = false) : c.counts l = c := by
  induction l with
  | nil => rfl
  | cons v l ih =>
    have hv : c.count v.1 v.2 = c := if_neg (by simp [h])
    exact (congrArg (Counter.counts l) hv).trans ih

theorem counter_count_val {c : Counter} (h : c.on = true) (e n : Nat) :
    (c.count e n).val = c.val + BitVec.ofNat 48 (if c.ev.toNat = e then n else 0) := by
  unfold Counter.count
  dsimp only
  by_cases he : c.ev.toNat = e
  · rw [if_pos (by simp [h, he]), if_pos he, BitVec.ofNat_add, BitVec.ofNat_toNat, BitVec.setWidth_eq]
  · rw [if_neg (by simp [he]), if_neg he, BitVec.add_zero]

theorem counter_counts_val (l : List (Nat × Nat)) {c : Counter} (h : c.on = true) :
    (c.counts l).val = c.val + BitVec.ofNat 48 (l.map fun v => if c.ev.toNat = v.1 then v.2 else 0).sum := by
  induction l generalizing c with
  | nil => exact (BitVec.add_zero _).symm
  | cons v l ih =>
    obtain ⟨hon, hev⟩ := counter_count_keeps v.1 v.2 c
    have hrest := ih (hon.trans h)
    rw [hev, counter_count_val h, BitVec.add_assoc, ← BitVec.ofNat_add] at hrest
    exact hrest

/-- A context after a list of events. -/
def Ctx.counted (l : List (Nat × Nat)) (c : Ctx) : Ctx := { c with ctrs := c.ctrs.map (Counter.counts l) }

theorem counted_nil (c : Ctx) : c.counted [] = c :=
  congrArg (fun v => { c with ctrs := v }) (Vector.map_id c.ctrs)

theorem counted_cons (v : Nat × Nat) (l : List (Nat × Nat)) (c : Ctx) : c.counted (v :: l) = (c.count v.1 v.2).counted l :=
  congrArg (fun x => { c with ctrs := x }) (Vector.map_map (f := Counter.count v.1 v.2) (g := Counter.counts l)).symm

theorem counted_append (l m : List (Nat × Nat)) (c : Ctx) : c.counted (l ++ m) = (c.counted l).counted m := by
  induction l generalizing c with
  | nil => rw [counted_nil, List.nil_append]
  | cons v l ih => rw [List.cons_append, counted_cons, counted_cons, ih]

theorem mapCtx_same {s : State} {f : Ctx → Ctx} (h : f s.me.ctx = s.me.ctx) : s.mapCtx f = s :=
  congrArg (fun c => { s with me := { s.me with ctx := c } }) h

theorem mapCtx_mapCtx (s : State) (f g : Ctx → Ctx) : (s.mapCtx f).mapCtx g = s.mapCtx fun c => g (f c) := rfl

/-- A list of events counted one after the other. -/
theorem foldl_count (l : List (Nat × Nat)) (s : State) :
    l.foldl (fun (st : State) v => st.count v.1 v.2) s = s.mapCtx (Ctx.counted l) := by
  induction l generalizing s with
  | nil => exact (mapCtx_same (counted_nil _)).symm
  | cons v l ih =>
    rw [List.foldl_cons, ih]
    exact (mapCtx_mapCtx s (Ctx.count v.1 v.2) (Ctx.counted l)).trans
      (congrArg s.mapCtx (funext fun c => (counted_cons v l c).symm))

/-! ## ATOMFLAGS (R58 to R60) -/

/-- A context with other atom flags, those set in the cycle, and traps. -/
def Ctx.withFlags (fl set : Word) (ps : List Pending) (c : Ctx) : Ctx := { c with atomFlags := fl, atomSet := set, pend := ps }

theorem post_ite (b : Prop) [Decidable b] (c : Ctx) (p : Pending) :
    ∃ ps, (if b then c.post p else c) = c.withFlags c.atomFlags c.atomSet ps := by
  unfold Ctx.post
  split
  · split <;> exact ⟨_, rfl⟩
  · exact ⟨c.pend, rfl⟩

/-- An element's flags write the flags, post a trap at most, and count a clamp. -/
theorem atomFlags_eq (s : State) (m : Nat) (nm : Word) : ∃ set ps, s.atomFlags m nm = s.mapCtx fun c =>
    (c.withFlags (c.atomFlags ||| BitVec.ofNat 64 (m % 32)) set ps).counted (if m / 8 % 2 = 1 then [(0x014, 1)] else []) := by
  have hcount (c : Ctx) : (if m / 8 % 2 = 1 then (s.mapCtx fun _ => c).count 0x014 1 else s.mapCtx fun _ => c) =
      s.mapCtx fun _ => c.counted (if m / 8 % 2 = 1 then [(0x014, 1)] else []) := by
    split
    · exact congrArg (fun c => s.mapCtx fun _ => c) ((counted_cons (0x014, 1) [] c).trans (counted_nil _)).symm
    · rw [counted_nil]
  unfold State.atomFlags
  extract_lets c c1 c2
  rw [hcount]
  obtain ⟨ps, hps⟩ : ∃ ps, c2 = c1.withFlags c1.atomFlags c1.atomSet ps := post_ite ..
  exact ⟨c1.atomSet, ps, congrArg (fun c => s.mapCtx fun _ => Ctx.counted _ c) hps⟩

/-! ## A firing takes place (R295) -/

/-- The events that a firing counts. -/
def Fired.counts (op : Nat) (f : Fired) : List (Nat × Nat) :=
  (if isBolter op then [(0x012, 1)] else []) ++ (0x010, 1) :: f.evs ++ if f.flags / 8 % 2 = 1 then [(0x014, 1)] else []

/-- The element in focus after a firing. -/
def State.firedElem (s : State) (f : Fired) : Elem := f.placed.latchLast f.used (s.me.run.elem s.cur.elem).roomAt s.time

/-- ATOMFLAGS after a firing. -/
def Fired.flagsOn (f : Fired) (fl : Word) : Word := if f.flags = 0 then fl else fl ||| BitVec.ofNat 64 (f.flags % 32)

/-- The run after a firing, with the node stop that it may ask for. -/
def State.firedRun (s : State) (f : Fired) (stop : Option Nat) : Run :=
  { s.me.run.mapElem s.cur.elem fun _ => s.firedElem f with ident := f.ident, stopAt := stop }

/-- All that a firing changes: its element, the identity counter, the stop it may ask for, counters, flags, and what they post. -/
theorem fire_eq (s : State) (op : Nat) (f : Fired) : ∃ src stop set ps, s.fire op f = { s with
    trigSrc := src
    me := { s.me with
      run := s.firedRun f stop
      ctx := (s.me.ctx.withFlags (f.flagsOn s.me.ctx.atomFlags) set ps).counted (f.counts op) } } := by
  unfold State.fire
  extract_lets e before x s1 s2 s3 s4
  have h3 : s3 = s1.mapCtx (Ctx.counted ((if isBolter op then [(0x012, 1)] else []) ++ (0x010, 1) :: f.evs)) := by
    show f.evs.foldl _ _ = _
    rw [foldl_count]
    have h2 : s2 = s1.mapCtx (Ctx.counted ((if isBolter op then [(0x012, 1)] else []) ++ [(0x010, 1)])) := by
      show (if _ then _ else _ : State).count _ _ = _
      split
      · exact foldl_count [(0x012, 1), (0x010, 1)] s1
      · exact foldl_count [(0x010, 1)] s1
    rw [h2, mapCtx_mapCtx]
    refine congrArg s1.mapCtx (funext fun c => ?_)
    rw [← counted_append, List.append_assoc]
    rfl
  obtain ⟨set, ps, h4⟩ : ∃ set ps, s4 = s1.mapCtx fun c => (c.withFlags (f.flagsOn c.atomFlags) set ps).counted (f.counts op) := by
    show ∃ set ps, (if f.flags = 0 then s3 else s3.atomFlags f.flags _) = _
    by_cases hf : f.flags = 0
    · have hon (fl : Word) : f.flagsOn fl = fl := if_pos hf
      have hev : f.counts op = (if isBolter op then [(0x012, 1)] else []) ++ (0x010, 1) :: f.evs := by
        rw [Fired.counts, hf]
        exact List.append_nil _
      simp only [if_pos hf, hon, hev]
      exact ⟨s1.me.ctx.atomSet, s1.me.ctx.pend, h3⟩
    · have hon (fl : Word) : f.flagsOn fl = fl ||| BitVec.ofNat 64 (f.flags % 32) := if_neg hf
      obtain ⟨set, ps, hs⟩ := atomFlags_eq s3 f.flags (elemName s3.me e)
      simp only [if_neg hf, hon, Fired.counts, counted_append]
      refine ⟨set, ps, hs.trans ?_⟩
      rw [h3, mapCtx_mapCtx]
      simp only [counted_append]
      rfl
  clear_value s4
  subst h4
  split
  · exact ⟨s.trigSrc, s.me.run.stopAt, set, ps, rfl⟩
  · split
    · exact ⟨_, _, set, ps, rfl⟩
    · exact ⟨s.trigSrc, s.me.run.stopAt, set, ps, rfl⟩

theorem fire_elem_self (s : State) (op : Nat) (f : Fired) (h : s.cur.elem < s.me.run.elems.length) :
    (s.fire op f).me.run.elem s.cur.elem = s.firedElem f := by
  obtain ⟨src, stop, set, ps, hfire⟩ := fire_eq s op f
  rw [hfire]
  exact elem_mapElem_self _ h

theorem fire_elem_ne (s : State) (op : Nat) (f : Fired) {e : Nat} (h : e ≠ s.cur.elem) :
    (s.fire op f).me.run.elem e = s.me.run.elem e := by
  obtain ⟨src, stop, set, ps, hfire⟩ := fire_eq s op f
  rw [hfire]
  exact elem_mapElem_ne _ _ h

/-- The last-arrival latch of an element is all that `latchLast` writes. -/
theorem latchLast_eq (e : Elem) (used : List (Nat × Nat)) (roomAt now : Nat) :
    ∃ n k, e.latchLast used roomAt now = { e with lastIn := n, lastWait := k } := by
  unfold Elem.latchLast
  split
  · exact ⟨e.lastIn, e.lastWait, rfl⟩
  · exact ⟨_, _, rfl⟩

/-- A counter after a firing. -/
theorem fired_ctr (op : Nat) (f : Fired) (c : Ctx) (i : Nat) (h : i < 4) :
    (c.counted (f.counts op)).ctrs[i] = c.ctrs[i].counts (f.counts op) := Vector.getElem_map ..

/-- The events of a firing as a counter of an event sums them. -/
theorem fired_sum (op : Nat) (f : Fired) (ev : Nat) : ((f.counts op).map fun v => if ev = v.1 then v.2 else 0).sum =
    (if ev = 0x010 then 1 else 0) + (if ev = 0x012 ∧ isBolter op = true then 1 else 0) +
      (if ev = 0x014 ∧ f.flags / 8 % 2 = 1 then 1 else 0) + (f.evs.map fun v => if ev = v.1 then v.2 else 0).sum := by
  unfold Fired.counts
  cases isBolter op <;> by_cases hc : f.flags / 8 % 2 = 1 <;> simp [hc] <;> omega

/-- Settles O39: the frame of a firing, field by field. -/
theorem firingTakesEffect : Obligations.FiringTakesEffect := by
  unfold Obligations.FiringTakesEffect
  rintro s op f t rfl he
  have hself := fire_elem_self s op f he
  have hother : ∀ e, e ≠ s.cur.elem → (s.fire op f).me.run.elem e = s.me.run.elem e := fun e => fire_elem_ne s op f
  obtain ⟨lastIn, lastWait, hx⟩ := latchLast_eq f.placed f.used (s.me.run.elem s.cur.elem).roomAt s.time
  rw [State.firedElem, hx] at hself
  have hfit : f.e.out.length + f.out.length ≤ 2 → f.out.take (2 - f.e.out.length) = f.out ∧
      f.out.drop (2 - f.e.out.length) = [] := fun h => ⟨List.take_of_length_le (by omega), List.drop_eq_nil_of_le (by omega)⟩
  rw [hself]
  obtain ⟨src, stop, set, ps, hfire⟩ := fire_eq s op f
  refine ⟨rfl, rfl, rfl, rfl, rfl, fun h => ?_, fun h => ?_, hother, ?_⟩
  · obtain ⟨htake, hdrop⟩ := hfit h
    exact ⟨congrArg (f.e.out ++ ·) htake, (congrArg (f.e.emit ++ ·) hdrop).trans (List.append_nil _)⟩
  · unfold Fired.placed
    simp [h]
  · rw [hfire]
    refine ⟨rfl, rfl, rfl, rfl, rfl, rfl, rfl, rfl, fun h => if_pos h, fun h => if_neg h, fun i hi => ?_⟩
    have hctr := fired_ctr op f (s.me.ctx.withFlags (f.flagsOn s.me.ctx.atomFlags) set ps) i hi
    obtain ⟨hon, hev⟩ := counter_counts_keeps (f.counts op) s.me.ctx.ctrs[i]
    dsimp only
    rw [hctr]
    refine ⟨hon, hev, fun h => congrArg Counter.val (counter_counts_off _ h), ?_⟩
    rintro h ev rfl
    exact (counter_counts_val _ h).trans (congrArg (fun n => s.me.ctx.ctrs[i].val + BitVec.ofNat 48 n) (fired_sum op f _))

end Sys2Proof.Machine

end

/-!
SUPPORT. When an element fires, and what its firing takes (R294, R295, R297, R303, R317).
-/
section

namespace Sys2Proof.Machine

/-! ## Firing and waiting (R295) -/

/-- A firing of any number of tokens fits an element whose output slots are free. -/
theorem fits_of_free {x : Elem} (hemit : x.emit = []) (hout : x.out = []) (f : Fired) : f.fits x = true := by
  unfold Fired.fits
  rw [hemit, hout]
  by_cases h : f.out.length ≤ 2
  · simp [h]
  · simp [show 2 < f.out.length by omega]

/-- A firing of one token fits an element with one output slot free. -/
theorem fits_one {x : Elem} {f : Fired} (hemit : x.emit = []) (hout : x.out.length ≤ 1) (hf : f.out.length = 1) :
    f.fits x = true := by
  unfold Fired.fits
  rw [hemit, hf]
  simp [show x.out.length + 1 ≤ 2 by omega]

section

variable {s : State} {x : Elem} {op fmt up : Nat} {k : FEnv → Elem → Option Fired} (hx : x = s.me.run.elem s.cur.elem)

include hx

theorem fireWith_fires {f : Fired} (hg : s.me.run.gated = false) (hk : k (s.fenv fmt up) x = some f) (hfit : f.fits x = true)
    (hbus : needsBus op x f.e = true → s.me.run.grant.contains s.cur.elem = true) :
    fireWith op s fmt up k = .next (s.fire op f) := by
  subst hx
  have hb : (!needsBus op (s.me.run.elem s.cur.elem) f.e || s.me.run.grant.contains s.cur.elem) = true := by
    cases hn : needsBus op (s.me.run.elem s.cur.elem) f.e with
    | false => rfl
    | true => exact hbus hn
  unfold fireWith
  dsimp only
  rw [hg, hk, if_neg Bool.false_ne_true]
  exact if_pos (Bool.and_eq_true_iff.2 ⟨hfit, hb⟩)

theorem fireWith_waits (hk : k (s.fenv fmt up) x = none) : fireWith op s fmt up k = .next s := by
  subst hx
  unfold fireWith
  dsimp only
  rw [hk]
  exact ite_self _

theorem fireWith_no_bus (hbus : ∀ f, k (s.fenv fmt up) x = some f → needsBus op x f.e = true)
    (hgr : s.me.run.grant.contains s.cur.elem = false) : fireWith op s fmt up k = .next s := by
  subst hx
  unfold fireWith
  dsimp only
  cases hk : k (s.fenv fmt up) (s.me.run.elem s.cur.elem) with
  | none => exact ite_self _
  | some f =>
    dsimp only
    rw [hbus f hk, hgr, Bool.not_true, Bool.or_false, Bool.and_false]
    exact ite_self _

end

/-- The element in focus, in a run that is not stopped, with nothing to emit and its output slots free. -/
structure State.Clear (s : State) (x : Elem) : Prop where
  elem : x = s.me.run.elem s.cur.elem
  open_ : s.me.run.gated = false
  emit : x.emit = []
  out : x.out = []

section

variable {s : State} {x : Elem} (h : s.Clear x) {i : Instr} {op fmt up : Nat} {k : FEnv → Elem → Option Fired}
  (hi : exec i s = fireWith op s fmt up k)

include h hi

theorem State.Clear.waits (hk : k (s.fenv fmt up) x = none) : exec i s = .next s := hi.trans (fireWith_waits h.elem hk)

variable (hbus : isBolter op = false ∨ s.me.run.grant.contains s.cur.elem = true)

include hbus

theorem State.Clear.fires {f : Fired} (hk : k (s.fenv fmt up) x = some f) : exec i s = .next (s.fire op f) :=
  hi.trans (fireWith_fires h.elem h.open_ hk (fits_of_free h.emit h.out f) fun hn =>
    hbus.resolve_left fun hop => absurd hn (by simp [needsBus, hop]))

theorem State.Clear.firesSome {P : Fired → Prop} (hk : ∃ f, k (s.fenv fmt up) x = some f ∧ P f) :
    ∃ f, exec i s = .next (s.fire op f) ∧ P f := by
  obtain ⟨f, hkf, hp⟩ := hk
  exact ⟨f, h.fires hi hbus hkf, hp⟩

end

theorem outTok_fenv (s : State) (fmt up : Nat) (t : Tok) : (s.fenv fmt up).outTok t = leaves s.cur.w t := rfl

/-! ## Fields of PARAM -/

theorem bits_eq (v : FEnv) (lo len : Nat) : v.bits lo len = (v.w.param.extractLsb' lo len).toNat := by
  rw [BitVec.extractLsb'_toNat, Nat.shiftRight_eq_div_pow]
  rfl

theorem bits_one (v : FEnv) (i : Nat) : v.bits i 1 = (v.w.param.getLsbD i).toNat := (Nat.toNat_testBit ..).symm

/-! ## Slots, streams and identities -/

@[simp] theorem slot_setInp (e : Elem) (o q : Opd) (i : InState) : (e.setInp o i).slot q = e.slot q := by
  cases o <;> rfl

@[simp] theorem ids_setSlot (e : Elem) (o : Opd) (l : List InTok) : (e.setSlot o l).ids = e.ids := by
  cases o <;> rfl

/-! ## Heads -/

section

variable {e : Elem} {o : Opd} {n : Nat} {l : List InTok}

theorem head_nil (h : e.slot o = []) : e.head o = none := by
  unfold Elem.head
  rw [h]

theorem head_cons {t : Tok} (h : e.slot o = ⟨t, n⟩ :: l) (ht : t.observes = false) : e.head o = some ⟨t, n⟩ := by
  unfold Elem.head
  rw [h]
  exact if_neg (by rw [ht]; decide)

theorem atHdr_nil (h : e.slot o = []) : e.atHdr o = false := by
  unfold Elem.atHdr
  rw [head_nil h]

theorem ctl?_nil (h : e.slot o = []) : e.ctl? o = none := by
  unfold Elem.ctl?
  rw [head_nil h]

theorem atom?_nil (h : e.slot o = []) : e.atom? o = none := by
  unfold Elem.atom?
  rw [head_nil h]
  exact ite_self _

theorem value?_nil (h : e.slot o = []) (atoms : Bool) : e.value? o atoms = none := by
  unfold Elem.value?
  rw [head_nil h, atom?_nil h]
  exact ite_self _

section

variable {a : Word} (h : e.slot o = ⟨.data a, n⟩ :: l)

include h

theorem head_data : e.head o = some ⟨.data a, n⟩ := head_cons h rfl

theorem atHdr_data : e.atHdr o = false := by
  unfold Elem.atHdr
  rw [head_data h]

theorem ctl?_data : e.ctl? o = none := by
  unfold Elem.ctl?
  rw [head_data h]

theorem atom?_long (hl : hdrLong (e.inp o).hdr = true) (hd : (e.inp o).due ≠ 0) :
    e.atom? o = some (a.toNat % 2 ^ 32, a.toNat / 2 ^ 32, true) := by
  unfold Elem.atom?
  dsimp only
  rw [if_neg hd, head_data h]
  exact if_pos hl

theorem value?_data : e.value? o false = some (a.toNat % 2 ^ 32, 0) := by
  unfold Elem.value?
  rw [if_neg Bool.false_ne_true, head_data h]

end

section

variable {c : Ctl} {id : BitVec 16} (h : e.slot o = ⟨.ctl c id, n⟩ :: l) (hc : (Tok.ctl c id).observes = false)

include h hc

theorem atHdr_ctl : e.atHdr o = false := by
  unfold Elem.atHdr
  rw [head_cons h hc]

theorem ctl?_ctl : e.ctl? o = some (.ctl c id) := by
  unfold Elem.ctl?
  rw [head_cons h hc]

end

end

/-! ## What a firing takes -/

/-- An element after the next atom of an operand has been taken, and its token with it. -/
def Elem.took (e : Elem) (o : Opd) (l : List InTok) : Elem :=
  (e.setInp o { e.inp o with due := (e.inp o).due - 1, half := false, idx := 0 }).setSlot o l

section

variable {f : Fired} {o : Opd} {n : Nat} {l : List InTok} (v : FEnv)

theorem drop_cons {e : Elem} {t : InTok} (h : e.slot o = t :: l) : e.drop o = e.setSlot o l := by
  unfold Elem.drop
  rw [h]
  rfl

theorem consume_cons {t : Tok} (h : f.e.slot o = ⟨t, n⟩ :: l) : f.consume v o =
    { f with e := f.e.setSlot o l, used := if t.carries then f.used ++ [(srcCode v.w o, n)] else f.used } := by
  unfold Fired.consume
  rw [h, drop_cons h]

theorem takeAtom_cons {t : Tok} (h : f.e.slot o = ⟨t, n⟩ :: l) : f.takeAtom v o true =
    { f with e := f.e.took o l, used := if t.carries then f.used ++ [(srcCode v.w o, n)] else f.used } :=
  consume_cons v ((slot_setInp ..).trans h)

/-- A control token is taken, and passes on once (R297). -/
theorem takeCtl_eq {c : Ctl} {id : BitVec 16} (h : f.e.slot o = ⟨.ctl c id, n⟩ :: l) : takeCtl v o (.ctl c id) f =
    if f.e.ids.contains id then { f with e := f.e.setSlot o l }
    else { f with e := (f.e.setSlot o l).noteId id, out := f.out ++ [v.outTok (.ctl c id)] } := by
  unfold takeCtl Fired.forward Elem.forwards
  rw [consume_cons v h]
  dsimp only
  rw [ids_setSlot]
  cases f.e.ids.contains id <;> rfl

theorem takeCtl_slot {c : Ctl} {id : BitVec 16} (h : f.e.slot o = ⟨.ctl c id, n⟩ :: l) (q : Opd) :
    (takeCtl v o (.ctl c id) f).e.slot q = (f.e.setSlot o l).slot q := by
  rw [takeCtl_eq v h]
  split
  · rfl
  · cases q <;> rfl

theorem takeCtl_out {c : Ctl} {id : BitVec 16} (h : f.e.slot o = ⟨.ctl c id, n⟩ :: l) :
    (takeCtl v o (.ctl c id) f).out = f.out ++ if f.e.ids.contains id then [] else [v.outTok (.ctl c id)] := by
  rw [takeCtl_eq v h]
  split
  · exact (List.append_nil _).symm
  · rfl

end

end Sys2Proof.Machine

end

/-!
SUPPORT. Routing: PASS, REPL, TOKQ, JOIN, MERGE and FILT (R298, R321 to R324, R336 to R338).
-/
section

namespace Sys2Proof.Machine

/-! ## PASS, REPL and TOKQ -/

section

variable {x : Elem} (v : FEnv)

/-- The firing that moves a data token from A to the output. -/
def Elem.moves (x : Elem) (v : FEnv) (a : Word) (t : Nat) (l : List InTok) : Fired :=
  ⟨{ x with a := l }, [v.outTok (.data a)], 0, [], v.ident, [(v.w.ina.toNat, t)]⟩

theorem passFire_data {a : Word} {t : Nat} {l : List InTok} (h : x.a = ⟨.data a, t⟩ :: l) :
    passFire v x = some (x.moves v a t l) := by
  unfold passFire
  dsimp only
  rw [head_data (o := .a) h]
  dsimp only
  rw [consume_cons (f := fired v x) (o := .a) v h]
  rfl

theorem passFire_nil (h : x.a = []) : passFire v x = none := by
  unfold passFire
  rw [head_nil (o := .a) h]

theorem passFire_ctl {c : Ctl} {id : BitVec 16} {t : Nat} {l : List InTok} (h : x.a = ⟨.ctl c id, t⟩ :: l)
    (hc : (Tok.ctl c id).observes = false) : passFire v x = some (takeCtl v .a (.ctl c id) (fired v x)) := by
  unfold passFire
  rw [head_cons (o := .a) h hc]

theorem tokqFire_data {a : Word} {t : Nat} {l : List InTok} (h : x.a = ⟨.data a, t⟩ :: l) (hb : x.b = []) :
    tokqFire v x = some (x.moves v a t l) := by
  unfold tokqFire tokqFire.plain
  dsimp only
  rw [head_nil (o := .b) hb, head_data (o := .a) h, consume_cons (f := fired v x) (o := .a) v h]
  rfl

theorem tokqFire_nil (h : x.a = []) (hb : x.b = []) : tokqFire v x = none := by
  unfold tokqFire tokqFire.plain
  dsimp only
  rw [head_nil (o := .b) hb, head_nil (o := .a) h]

theorem tokqFire_holds {c : Ctl} {id : BitVec 16} {t : Nat} {l : List InTok} (h : x.a = ⟨.ctl c id, t⟩ :: l)
    (hc : (Tok.ctl c id).observes = false) (hb : x.b = []) : tokqFire v x = none := by
  unfold tokqFire tokqFire.plain
  dsimp only
  rw [head_nil (o := .b) hb, head_cons (o := .a) h hc]

theorem tokqFire_ctl {c k : Ctl} {id jd : BitVec 16} {t u : Nat} {l m : List InTok} (h : x.a = ⟨.ctl c id, t⟩ :: l)
    (hc : (Tok.ctl c id).observes = false) (hb : x.b = ⟨.ctl k jd, u⟩ :: m) (hk : (Tok.ctl k jd).observes = false) :
    tokqFire v x = some (takeCtl v .a (.ctl c id) { fired v x with e := { x with b := m } }) := by
  unfold tokqFire
  dsimp only
  rw [head_cons (o := .b) hb hk, ctl?_ctl (o := .a) h hc, consume_cons (f := fired v x) (o := .b) v hb]
  rfl

end

/-! ## Atoms under a coordinate (R320) -/

/-- An atom and its coordinate make the word they came from. -/
theorem ofNat_coord (a : Word) : BitVec.ofNat 64 (a.toNat / 2 ^ 32 * 2 ^ 32 + a.toNat % 2 ^ 32) = a := by
  rw [Nat.div_add_mod', BitVec.ofNat_toNat, BitVec.setWidth_eq]

section

variable {e : Elem} {o : Opd} {a : Word} {n : Nat} {l : List InTok} (v : FEnv)

theorem jhead_atom (h : e.slot o = ⟨.data a, n⟩ :: l) (hl : hdrLong (e.inp o).hdr = true) (hd : (e.inp o).due ≠ 0)
    (hm : (e.inp o).mark = false) : e.jhead o = .atom (a.toNat % 2 ^ 32) (a.toNat / 2 ^ 32) true := by
  unfold Elem.jhead
  rw [hm, atHdr_data h, ctl?_data h, atom?_long h hl hd]
  rfl

theorem inp_took_due (e : Elem) (o : Opd) (l : List InTok) : ((e.took o l).inp o).due = (e.inp o).due - 1 := by
  cases o <;> rfl

variable {f : Fired} (h : f.e.slot o = ⟨.data a, n⟩ :: l) (hd : 2 ≤ (f.e.inp o).due)

include h hd

/-- An atom taken that is not the last of its burst leaves no mark of a tile's end. -/
theorem takeTagged_data : f.takeTagged v o true = { f with e := f.e.took o l, used := f.used ++ [(srcCode v.w o, n)] } := by
  have hdue := inp_took_due f.e o l
  unfold Fired.takeTagged
  rw [takeAtom_cons v h]
  exact if_neg (by simp [hdue]; omega)

theorem skip_data (x : Nat) : (f.skip v o x true).e = f.e.took o l ∧ (f.skip v o x true).out = f.out := by
  unfold Fired.skip
  rw [takeTagged_data v h hd]
  split <;> exact ⟨rfl, rfl⟩

theorem takeStaged_keeps (hst : (f.e.took o l).stage = []) (x c : Nat) :
    ∃ u, f.takeStaged v o x c true true = { f with
      e := { f.e.took o l with stage := [BitVec.ofNat 64 (c * 2 ^ 32 + x)], stageHdr := (f.e.inp o).hdr }, used := u } := by
  have hdue := inp_took_due f.e o l
  refine ⟨f.used ++ [(srcCode v.w o, n)], ?_⟩
  unfold Fired.takeStaged Fired.stageOne
  rw [takeAtom_cons v h]
  simp [hdue, hst, show (f.e.inp o).due - 1 ≠ 0 by omega]
  rfl

theorem takeStaged_drops (x c : Nat) :
    f.takeStaged v o x c true false = { f with e := f.e.took o l, used := f.used ++ [(srcCode v.w o, n)] } := by
  have hdue := inp_took_due f.e o l
  unfold Fired.takeStaged
  rw [takeAtom_cons v h]
  simp [hdue, show (f.e.inp o).due - 1 ≠ 0 by omega]
  rfl

end

/-! ## JOIN, MERGE and FILT -/

/-- The first pair that JOIN stages. -/
theorem stagePair_first {f : Fired} (h : f.e.stage = []) (v : FEnv) (xa xb : Nat) (ha hb : BitVec 32) (last : Bool) :
    f.stagePair v xa xb ha hb last = { f with e := { f.e with
      stage := [BitVec.ofNat 64 xa], stageB := f.e.stageB ++ [BitVec.ofNat 64 xb], stageHdr := ha, stageHdrB := hb } } := by
  unfold Fired.stagePair
  simp [h]

section

variable {x : Elem} (v : FEnv) {a b : Word} {ta tb : Nat} {la lb : List InTok}

theorem merge0Fire_data (h : x.a = ⟨.data a, ta⟩ :: la) (hlock : x.lock = none) (hturn : x.turn = 0) :
    ∃ f, merge0Fire v x = some f ∧ f.out = [v.outTok (.data a)] ∧ f.e.a = la ∧ f.e.b = x.b ∧ f.e.turn = 1 := by
  have hfind : [x.turn, (x.turn + 1) % 3, (x.turn + 2) % 3].find? (fun i => (x.head (opdNo i)).isSome) = some 0 := by
    rw [hturn]
    exact List.find?_cons_of_pos (by rw [show opdNo 0 = .a from rfl, head_data (o := .a) h]; rfl)
  unfold merge0Fire
  rw [hlock]
  dsimp only
  rw [hfind]
  unfold mergeTake
  dsimp only
  rw [show opdNo 0 = .a from rfl, head_data (o := .a) h]
  dsimp only
  rw [consume_cons (t := .data a) (o := .a) (n := ta) (l := la) v]
  · exact ⟨_, rfl, rfl, rfl, rfl, rfl⟩
  · exact h

variable (ha : x.a = ⟨.data a, ta⟩ :: la) (hla : hdrLong x.ia.hdr = true) (hda : 2 ≤ x.ia.due) (hma : x.ia.mark = false)

include ha hla hda hma

theorem filtFire_data (hst : x.stage = []) : ∃ f, filtFire v x = some f ∧ f.e.a = la ∧ f.out = [] ∧
    f.e.stage = if filtKeeps v x.ia.hdr (a.toNat % 2 ^ 32) (a.toNat / 2 ^ 32) then [a] else [] := by
  unfold filtFire
  rw [jhead_atom (o := .a) ha hla (by simp only [Elem.inp]; omega) hma]
  refine ⟨_, rfl, ?_⟩
  cases filtKeeps v x.ia.hdr (a.toNat % 2 ^ 32) (a.toNat / 2 ^ 32) with
  | true =>
    obtain ⟨u, hk⟩ := takeStaged_keeps (f := fired v x) (o := .a) v ha hda hst (a.toNat % 2 ^ 32) (a.toNat / 2 ^ 32)
    rw [hk, ofNat_coord]
    exact ⟨rfl, rfl, rfl⟩
  | false =>
    rw [takeStaged_drops (f := fired v x) (o := .a) v ha hda]
    exact ⟨rfl, rfl, hst⟩

variable (hb : x.b = ⟨.data b, tb⟩ :: lb) (hlb : hdrLong x.ib.hdr = true) (hdb : 2 ≤ x.ib.due) (hmb : x.ib.mark = false)

include hb hlb hdb hmb

theorem joinFire_atoms : joinFire v x = some (
    if a.toNat / 2 ^ 32 = b.toNat / 2 ^ 32 then
      (((fired v x).takeTagged v .a true).takeTagged v .b true).stagePair v (a.toNat % 2 ^ 32) (b.toNat % 2 ^ 32) x.ia.hdr x.ib.hdr
        ((((fired v x).takeTagged v .a true).takeTagged v .b true).e.ia.mark ||
          (((fired v x).takeTagged v .a true).takeTagged v .b true).e.ib.mark)
    else if a.toNat / 2 ^ 32 < b.toNat / 2 ^ 32 then (fired v x).skip v .a (a.toNat % 2 ^ 32) true
    else (fired v x).skip v .b (b.toNat % 2 ^ 32) true) := by
  unfold joinFire
  rw [jhead_atom (o := .a) ha hla (by simp only [Elem.inp]; omega) hma,
    jhead_atom (o := .b) hb hlb (by simp only [Elem.inp]; omega) hmb]
  dsimp only
  split
  · rfl
  · split <;> rfl

theorem joinFire_pairs (hst : x.stage = []) (hstB : x.stageB = []) (h : a.toNat / 2 ^ 32 = b.toNat / 2 ^ 32) :
    ∃ f, joinFire v x = some f ∧ f.out = [] ∧ f.e.a = la ∧ f.e.b = lb ∧ f.e.stage = [BitVec.ofNat 64 (a.toNat % 2 ^ 32)] ∧
      f.e.stageB = [BitVec.ofNat 64 (b.toNat % 2 ^ 32)] := by
  rw [joinFire_atoms v ha hla hda hma hb hlb hdb hmb, if_pos h, takeTagged_data (f := fired v x) (o := .a) v ha hda,
    takeTagged_data (o := .b) (a := b) (n := tb) (l := lb) v, stagePair_first]
  · exact ⟨_, rfl, rfl, rfl, rfl, rfl, congrArg (· ++ [BitVec.ofNat 64 (b.toNat % 2 ^ 32)]) hstB⟩
  · exact hst
  · exact hb
  · exact hdb

theorem joinFire_skipsA (hst : x.stage = []) (h : a.toNat / 2 ^ 32 < b.toNat / 2 ^ 32) :
    ∃ f, joinFire v x = some f ∧ f.out = [] ∧ f.e.a = la ∧ f.e.b = x.b ∧ f.e.stage = [] := by
  obtain ⟨he, ho⟩ := skip_data (f := fired v x) (o := .a) v ha hda (a.toNat % 2 ^ 32)
  rw [joinFire_atoms v ha hla hda hma hb hlb hdb hmb, if_neg h.ne, if_pos h]
  refine ⟨_, rfl, ho, ?_⟩
  rw [he]
  exact ⟨rfl, rfl, hst⟩

theorem joinFire_skipsB (hst : x.stage = []) (h : b.toNat / 2 ^ 32 < a.toNat / 2 ^ 32) :
    ∃ f, joinFire v x = some f ∧ f.out = [] ∧ f.e.a = x.a ∧ f.e.b = lb ∧ f.e.stage = [] := by
  obtain ⟨he, ho⟩ := skip_data (f := fired v x) (o := .b) v hb hdb (b.toNat % 2 ^ 32)
  rw [joinFire_atoms v ha hla hda hma hb hlb hdb hmb, if_neg h.ne', if_neg h.asymm]
  refine ⟨_, rfl, ho, ?_⟩
  rw [he]
  exact ⟨rfl, rfl, hst⟩

omit ha hla hda hma in
/-- B of a tie follows A (R323). -/
theorem merge1Fire_tie (hst : x.stage = []) (ht : x.tie = true) :
    ∃ f, merge1Fire v x = some f ∧ f.e.a = x.a ∧ f.e.b = lb ∧ f.e.stage = [b] ∧ f.e.tie = false := by
  unfold merge1Fire
  rw [jhead_atom (o := .b) hb hlb (by simp only [Elem.inp]; omega) hmb, ht]
  obtain ⟨u, hk⟩ := takeStaged_keeps (f := { fired v x with e := { x with tie := false } }) (o := .b) v hb hdb hst
    (b.toNat % 2 ^ 32) (b.toNat / 2 ^ 32)
  rw [ofNat_coord] at hk
  exact ⟨_, congrArg some hk, rfl, rfl, rfl, rfl⟩

theorem merge1Fire_atoms (ht : x.tie = false) : merge1Fire v x = some (
    if a.toNat / 2 ^ 32 ≤ b.toNat / 2 ^ 32 then
      { fired v x with e := { x with tie := a.toNat / 2 ^ 32 == b.toNat / 2 ^ 32 } }.takeStaged v .a (a.toNat % 2 ^ 32)
        (a.toNat / 2 ^ 32) true true
    else (fired v x).takeStaged v .b (b.toNat % 2 ^ 32) (b.toNat / 2 ^ 32) true true) := by
  unfold merge1Fire
  rw [jhead_atom (o := .a) ha hla (by simp only [Elem.inp]; omega) hma,
    jhead_atom (o := .b) hb hlb (by simp only [Elem.inp]; omega) hmb, ht]
  dsimp only
  split <;> rfl

theorem merge1Fire_takesA (hst : x.stage = []) (ht : x.tie = false) (h : a.toNat / 2 ^ 32 ≤ b.toNat / 2 ^ 32) :
    ∃ f, merge1Fire v x = some f ∧ f.e.a = la ∧ f.e.b = x.b ∧ f.e.stage = [a] ∧
      f.e.tie = (a.toNat / 2 ^ 32 == b.toNat / 2 ^ 32) := by
  obtain ⟨u, hk⟩ := takeStaged_keeps (f := { fired v x with e := { x with tie := a.toNat / 2 ^ 32 == b.toNat / 2 ^ 32 } })
    (o := .a) v ha hda hst (a.toNat % 2 ^ 32) (a.toNat / 2 ^ 32)
  rw [ofNat_coord] at hk
  rw [merge1Fire_atoms v ha hla hda hma hb hlb hdb hmb ht, if_pos h, hk]
  exact ⟨_, rfl, rfl, rfl, rfl, rfl⟩

theorem merge1Fire_takesB (hst : x.stage = []) (ht : x.tie = false) (h : b.toNat / 2 ^ 32 < a.toNat / 2 ^ 32) :
    ∃ f, merge1Fire v x = some f ∧ f.e.a = x.a ∧ f.e.b = lb ∧ f.e.stage = [b] := by
  obtain ⟨u, hk⟩ := takeStaged_keeps (f := fired v x) (o := .b) v hb hdb hst (b.toNat % 2 ^ 32) (b.toNat / 2 ^ 32)
  rw [ofNat_coord] at hk
  rw [merge1Fire_atoms v ha hla hda hma hb hlb hdb hmb ht, if_neg h.not_ge, hk]
  exact ⟨_, rfl, rfl, rfl, rfl⟩

end

/-! ## The modes of MERGE and FILT -/

theorem merge_mode0 {v : FEnv} (h : v.w.param.getLsbD 0 = false) : v.bits 0 1 = 0 := by
  rw [bits_one, h]
  rfl

theorem merge_mode1 {v : FEnv} (h : v.w.param.getLsbD 0 = true) : v.bits 0 1 ≠ 0 := by
  rw [bits_one, h]
  decide

section

variable {v : FEnv} (h : BitVec 32) (x c : Nat)

theorem filtKeeps_below (hm : v.w.param.extractLsb' 0 2 = 1) : filtKeeps v h x c = decide (c < v.w.param.toNat / 4) := by
  unfold filtKeeps
  rw [bits_eq, hm]
  rfl

theorem filtKeeps_from (hm : v.w.param.extractLsb' 0 2 = 2) : filtKeeps v h x c = decide (v.w.param.toNat / 4 ≤ c) := by
  unfold filtKeeps
  rw [bits_eq, hm]
  rfl

theorem filtKeeps_zero (hm : v.w.param.extractLsb' 0 2 = 0) : filtKeeps v h x c = true ↔
    ¬ (atomGain (hdrLong h) x = 0 ∧ atomIdx (hdrLong h) x = 0 ∧ hdrS h ≠ 255) := by
  unfold filtKeeps
  rw [bits_eq, hm]
  simp
  tauto

end

/-- Settles O43: each operation fires as its heads and its mode have it. -/
theorem routingOperations : Obligations.RoutingOperations := by
  unfold Obligations.RoutingOperations
  rintro s x w a b ta tb la lb id jd c k hx rfl hg hemit hout hc hk
  have h : s.Clear x := ⟨hx, hg, hemit, hout⟩
  have hmerge : exec .merge s = fireWith 0x31 s 0 0 fun v e => if v.bits 0 1 = 0 then merge0Fire v e else merge1Fire v e := rfl
  refine ⟨fun ha => ⟨?_, fun hb => h.fires (exec_tokq s) (.inl rfl) (tokqFire_data _ ha hb), fun hm hlock hturn => ?_⟩,
    fun ha => ⟨?_, fun hb => h.waits (exec_tokq s) (tokqFire_holds _ ha hc hb), fun hb => ?_⟩, ?_,
    fun ha hla hda hma => ⟨fun hb hlb hdb hmb hst hstB => ⟨fun hab => ?_, fun hab => ?_, fun hab => ?_, fun hm ht => ?_,
      fun hm ht => ⟨fun hab => ?_, fun hab => ?_⟩⟩, fun hst => ?_⟩⟩
  · exact List.forall_mem_cons.2 ⟨h.fires (exec_pass s) (.inl rfl) (passFire_data _ ha),
      List.forall_mem_singleton.2 (h.fires (exec_repl s) (.inl rfl) (passFire_data _ ha))⟩
  · exact h.firesSome hmerge (.inl rfl) (by rw [if_pos (merge_mode0 hm)]; exact merge0Fire_data _ ha hlock hturn)
  · have hpass : ∃ f, passFire (s.fenv 0 0) x = some f ∧ f.e.a = [] ∧
        f.out = if x.ids.contains id then [] else [leaves s.cur.w (.ctl c id)] :=
      ⟨_, passFire_ctl _ ha hc, takeCtl_slot (f := fired _ x) (o := .a) _ ha .a, takeCtl_out (f := fired _ x) (o := .a) _ ha⟩
    exact List.forall_mem_cons.2 ⟨h.firesSome (exec_pass s) (.inl rfl) hpass,
      List.forall_mem_singleton.2 (h.firesSome (exec_repl s) (.inl rfl) hpass)⟩
  · refine h.firesSome (exec_tokq s) (.inl rfl) ⟨_, tokqFire_ctl _ ha hc hb hk, ?_⟩
    exact ⟨takeCtl_slot (f := { fired _ x with e := { x with b := [] } }) (o := .a) _ ha .a,
      takeCtl_slot (f := { fired _ x with e := { x with b := [] } }) (o := .a) _ ha .b,
      takeCtl_out (f := { fired _ x with e := { x with b := [] } }) (o := .a) _ ha⟩
  · intro i hi ha hb
    simp only [List.mem_cons, List.not_mem_nil, or_false] at hi
    rcases hi with rfl | rfl | rfl
    · exact h.waits (exec_pass s) (passFire_nil _ ha)
    · exact h.waits (exec_repl s) (passFire_nil _ ha)
    · exact h.waits (exec_tokq s) (tokqFire_nil _ ha hb)
  · exact h.firesSome (exec_join s) (.inl rfl) (joinFire_pairs _ ha hla hda hma hb hlb hdb hmb hst hstB hab)
  · exact h.firesSome (exec_join s) (.inl rfl) (joinFire_skipsA _ ha hla hda hma hb hlb hdb hmb hst hab)
  · exact h.firesSome (exec_join s) (.inl rfl) (joinFire_skipsB _ ha hla hda hma hb hlb hdb hmb hst hab)
  · exact h.firesSome hmerge (.inl rfl) (by rw [if_neg (merge_mode1 hm)]; exact merge1Fire_tie _ hb hlb hdb hmb hst ht)
  · exact h.firesSome hmerge (.inl rfl) (by rw [if_neg (merge_mode1 hm)]; exact merge1Fire_takesA _ ha hla hda hma hb hlb hdb hmb hst ht hab)
  · exact h.firesSome hmerge (.inl rfl) (by rw [if_neg (merge_mode1 hm)]; exact merge1Fire_takesB _ ha hla hda hma hb hlb hdb hmb hst ht hab)
  · obtain ⟨f, hf, hfa, hfo, hstage⟩ := filtFire_data (s.fenv 0 0) ha hla hda hma hst
    refine h.firesSome (exec_filt s) (.inl rfl) ⟨f, hf, hfa, hfo, fun hm => ?_, fun hm => ?_, fun hm => ?_⟩
    · rw [hstage, filtKeeps_below (v := s.fenv 0 0) _ _ _ hm]
      simp only [decide_eq_true_eq]
      rfl
    · rw [hstage, filtKeeps_from (v := s.fenv 0 0) _ _ _ hm]
      simp only [decide_eq_true_eq]
      rfl
    · have hz := filtKeeps_zero (v := s.fenv 0 0) x.ia.hdr (a.toNat % 2 ^ 32) (a.toNat / 2 ^ 32) hm
      rw [hla] at hz
      rw [hstage]
      simp only [hz]
      exact ite_not ..

end Sys2Proof.Machine

end

/-!
SUPPORT. Element-wise operations and conversions (R29, R72, R73, R86, R316 to R319).
-/
section

namespace Sys2Proof.Machine

/-! ## Element-wise operations (R317, R318) -/

theorem needsBus_of_bolter {op : Nat} (hop : isBolter op = true) (h8 : op ≠ 8) (x y : Elem) : needsBus op x y = true := by
  unfold needsBus
  rw [hop, bne_iff_ne.2 h8]
  rfl

/-- Operands and output are word streams. -/
def FEnv.words (v : FEnv) : Prop := (∀ o, opdAtoms v o = false) ∧ v.bits 3 1 = 0

theorem words_of_param {v : FEnv} (h : v.w.param.extractLsb' 0 4 = 0) : v.words := by
  have hbit (i : Nat) (hi : i < 4) : v.bits i 1 = 0 := by
    have hb := congrArg (fun y => y.getLsbD i) h
    rw [bits_one, ← Nat.zero_add i, ← Bool.true_and (v.w.param.getLsbD (0 + i)), ← decide_eq_true hi,
      ← BitVec.getLsbD_extractLsb', hb]
    exact congrArg Bool.toNat BitVec.getLsbD_zero
  refine ⟨fun o => ?_, hbit 3 (by decide)⟩
  cases o with
  | a => exact congrArg (· == 1) (hbit 0 (by decide))
  | b => exact congrArg (· == 1) (hbit 1 (by decide))
  | c => exact congrArg (· == 1) (hbit 2 (by decide))

/-- The operands of an operation are its first one, two or three. -/
theorem elementOpds_mem {op : Nat} : Opd.a ∈ elementOpds op := by
  unfold elementOpds
  split
  · decide
  · split <;> decide

section

variable {x : Elem} {v : FEnv} {op : Nat}

/-- An element-wise operation fires on data at the heads of its operands as one element does. -/
theorem elementFire_data (hv : v.words) (hdata : ∀ o ∈ elementOpds op, ∃ y n l, x.slot o = ⟨.data y, n⟩ :: l) :
    elementFire op v x = elementOne op v (fired v x) := by
  have hhdr : (elementOpds op).any x.atHdr = false := List.any_eq_false.2 fun o ho => by
    obtain ⟨y, n, l, h⟩ := hdata o ho
    rw [atHdr_data h]
    exact Bool.false_ne_true
  have hctl : (elementOpds op).find? (fun o => (x.ctl? o).isSome) = none := List.find?_eq_none.2 fun o ho => by
    obtain ⟨y, n, l, h⟩ := hdata o ho
    rw [ctl?_data h]
    exact Bool.false_ne_true
  have hall : (elementOpds op).all (opdAtoms v) = false := by
    refine Bool.eq_false_iff.2 fun h => ?_
    have ha := List.all_eq_true.1 h .a elementOpds_mem
    rw [hv.1 .a] at ha
    exact Bool.false_ne_true ha
  unfold elementFire
  dsimp only
  rw [hhdr, if_neg Bool.false_ne_true, hctl, hall]
  dsimp only
  cases elementOne op v (fired v x) <;> rfl

/-- An operand with nothing at its head leaves the operation without an element. -/
theorem elementFire_waits {o : Opd} (ho : o ∈ elementOpds op) (hempty : x.slot o = [])
    (hrest : ∀ q ∈ elementOpds op, x.slot q = [] ∨ ∃ y n l, x.slot q = ⟨.data y, n⟩ :: l) : elementFire op v x = none := by
  have hhdr : (elementOpds op).any x.atHdr = false := List.any_eq_false.2 fun q hq => by
    rcases hrest q hq with h | ⟨y, n, l, h⟩
    · rw [atHdr_nil h]
      exact Bool.false_ne_true
    · rw [atHdr_data h]
      exact Bool.false_ne_true
  have hctl : (elementOpds op).find? (fun q => (x.ctl? q).isSome) = none := List.find?_eq_none.2 fun q hq => by
    rcases hrest q hq with h | ⟨y, n, l, h⟩
    · rw [ctl?_nil h]
      exact Bool.false_ne_true
    · rw [ctl?_data h]
      exact Bool.false_ne_true
  have hone : elementOne op v (fired v x) = none := by
    have hget : (if (elementOpds op).contains o = true then (fired v x).e.value? o (opdAtoms v o) else some (0, 0)) = none := by
      rw [if_pos (List.contains_iff_mem.2 ho)]
      exact value?_nil hempty _
    unfold elementOne
    dsimp only
    cases o with
    | a => rw [hget]
    | b =>
      rw [hget]
      split <;> simp_all
    | c =>
      rw [hget]
      split <;> simp_all
  unfold elementFire
  dsimp only
  rw [hhdr, if_neg Bool.false_ne_true, hctl, hone]

/-- The value of an operand that an operation uses; 0 of another. -/
def Elem.operand (x : Elem) (op : Nat) (o : Opd) : Option (Nat × Nat) :=
  if (elementOpds op).contains o then x.value? o false else some (0, 0)

/-- One element of word streams: the heads of the operands go, and the result leaves. -/
theorem elementOne_words (hv : v.words) {f : Fired} {a b c : Nat} (ha : f.e.operand op .a = some (a, 0))
    (hb : f.e.operand op .b = some (b, 0)) (hc : f.e.operand op .c = some (c, 0)) :
    elementOne op v f = some (((elementOpds op).foldl (fun (g : Fired) o => g.consume v o) f).emit
      [v.outTok (.data (BitVec.ofNat 64 (elementOp op (v.bits 5 3) a b c)))]) := by
  unfold Elem.operand at ha hb hc
  unfold elementOne
  simp only [hv.1, hv.2, ha, hb, hc, Nat.or_zero]
  rfl

variable (hv : v.words) {a b c : Word} {ta tb tc : Nat} {la lb lc : List InTok} (ha : x.a = ⟨.data a, ta⟩ :: la)

include hv ha

theorem elementFire_one (hop : elementOpds op = [.a]) : elementFire op v x = some ⟨{ x with a := la },
    [v.outTok (.data (BitVec.ofNat 64 (elementOp op (v.bits 5 3) (a.toNat % 2 ^ 32) 0 0)))], 0, [], v.ident,
    [(v.w.ina.toNat, ta)]⟩ := by
  rw [elementFire_data hv (by simpa [hop] using ⟨a, ta, la, ha⟩),
    elementOne_words (f := fired v x) hv (a := a.toNat % 2 ^ 32) (b := 0) (c := 0)]
  · rw [hop, List.foldl_cons, consume_cons (f := fired v x) (o := .a) v ha]
    rfl
  · rw [Elem.operand, hop]
    exact value?_data (o := .a) ha
  · rw [Elem.operand, hop]
    rfl
  · rw [Elem.operand, hop]
    rfl

variable (hb : x.b = ⟨.data b, tb⟩ :: lb)

include hb

theorem elementFire_two (hop : elementOpds op = [.a, .b]) : elementFire op v x = some ⟨{ x with a := la, b := lb },
    [v.outTok (.data (BitVec.ofNat 64 (elementOp op (v.bits 5 3) (a.toNat % 2 ^ 32) (b.toNat % 2 ^ 32) 0)))], 0, [], v.ident,
    [(v.w.ina.toNat, ta), (v.w.inb.toNat, tb)]⟩ := by
  rw [elementFire_data hv (by simpa [hop] using ⟨⟨a, ta, la, ha⟩, b, tb, lb, hb⟩),
    elementOne_words (f := fired v x) hv (a := a.toNat % 2 ^ 32) (b := b.toNat % 2 ^ 32) (c := 0)]
  · rw [hop, List.foldl_cons, consume_cons (f := fired v x) (o := .a) v ha, List.foldl_cons,
      consume_cons (t := .data b) (n := tb) (l := lb) (o := .b) v]
    · rfl
    · exact hb
  · rw [Elem.operand, hop]
    exact value?_data (o := .a) ha
  · rw [Elem.operand, hop]
    exact value?_data (o := .b) hb
  · rw [Elem.operand, hop]
    rfl

theorem elementFire_three (hc : x.c = ⟨.data c, tc⟩ :: lc) (hop : elementOpds op = [.a, .b, .c]) :
    elementFire op v x = some ⟨{ x with a := la, b := lb, c := lc }, [v.outTok (.data (BitVec.ofNat 64
      (elementOp op (v.bits 5 3) (a.toNat % 2 ^ 32) (b.toNat % 2 ^ 32) (c.toNat % 2 ^ 32))))], 0, [], v.ident,
      [(v.w.ina.toNat, ta), (v.w.inb.toNat, tb), (v.w.inc.toNat, tc)]⟩ := by
  rw [elementFire_data hv (by simpa [hop] using ⟨⟨a, ta, la, ha⟩, ⟨b, tb, lb, hb⟩, c, tc, lc, hc⟩),
    elementOne_words (f := fired v x) hv (a := a.toNat % 2 ^ 32) (b := b.toNat % 2 ^ 32) (c := c.toNat % 2 ^ 32)]
  · rw [hop, List.foldl_cons, consume_cons (f := fired v x) (o := .a) v ha, List.foldl_cons,
      consume_cons (t := .data b) (n := tb) (l := lb) (o := .b) v, List.foldl_cons,
      consume_cons (t := .data c) (n := tc) (l := lc) (o := .c) v]
    · rfl
    · exact hc
    · exact hb
  · rw [Elem.operand, hop]
    exact value?_data (o := .a) ha
  · rw [Elem.operand, hop]
    exact value?_data (o := .b) hb
  · rw [Elem.operand, hop]
    exact value?_data (o := .c) hc

end

/-- The element-wise instructions of two operands or more. -/
def elementPairs : List Instr := [.eadd, .esub, .emul, .efma, .emin, .emax, .ecmp, .esel]

/-- The element-wise instructions. -/
def elementInstrs : List Instr := [.eadd, .esub, .emul, .efma, .emin, .emax, .ecmp, .esel, .eexp2, .elog2, .ercp, .ersq]

theorem exec_elementPairs (s : State) {i : Instr} (hi : i ∈ elementPairs) :
    ∃ op, .b ∈ elementOpds op ∧ exec i s = fireWith op s 0 0 (elementFire op) := by
  simp only [elementPairs, List.mem_cons, List.not_mem_nil, or_false] at hi
  rcases hi with rfl | rfl | rfl | rfl | rfl | rfl | rfl | rfl
  · exact ⟨0x10, by decide, exec_eadd s⟩
  · exact ⟨0x11, by decide, exec_esub s⟩
  · exact ⟨0x12, by decide, exec_emul s⟩
  · exact ⟨0x13, by decide, exec_efma s⟩
  · exact ⟨0x14, by decide, exec_emin s⟩
  · exact ⟨0x15, by decide, exec_emax s⟩
  · exact ⟨0x16, by decide, exec_ecmp s⟩
  · exact ⟨0x17, by decide, exec_esel s⟩

theorem exec_elementInstrs (s : State) {i : Instr} (hi : i ∈ elementInstrs) :
    ∃ op, isBolter op = true ∧ op ≠ 8 ∧ exec i s = fireWith op s 0 0 (elementFire op) := by
  simp only [elementInstrs, List.mem_cons, List.not_mem_nil, or_false] at hi
  rcases hi with rfl | rfl | rfl | rfl | rfl | rfl | rfl | rfl | rfl | rfl | rfl | rfl
  · exact ⟨0x10, rfl, by decide, exec_eadd s⟩
  · exact ⟨0x11, rfl, by decide, exec_esub s⟩
  · exact ⟨0x12, rfl, by decide, exec_emul s⟩
  · exact ⟨0x13, rfl, by decide, exec_efma s⟩
  · exact ⟨0x14, rfl, by decide, exec_emin s⟩
  · exact ⟨0x15, rfl, by decide, exec_emax s⟩
  · exact ⟨0x16, rfl, by decide, exec_ecmp s⟩
  · exact ⟨0x17, rfl, by decide, exec_esel s⟩
  · exact ⟨0x18, rfl, by decide, exec_eexp2 s⟩
  · exact ⟨0x19, rfl, by decide, exec_elog2 s⟩
  · exact ⟨0x1A, rfl, by decide, exec_ercp s⟩
  · exact ⟨0x1B, rfl, by decide, exec_ersq s⟩

/-! ## Codes in a word (R319) -/

/-- A packed word holds each code in its place. -/
theorem packCodes_digit (w : Nat) {l : List Word} (hl : ∀ y ∈ l, y.toNat < 2 ^ w) {j : Nat} (h : j < l.length) :
    packCodes w l / 2 ^ (w * j) % 2 ^ w = l[j].toNat := by
  induction l generalizing j with
  | nil => exact absurd h (Nat.not_lt_zero j)
  | cons y l ih =>
    have hy : y.toNat < 2 ^ w := hl y (List.mem_cons_self ..)
    unfold packCodes
    cases j with
    | zero =>
      rw [Nat.mul_zero, Nat.pow_zero, Nat.div_one, Nat.add_mul_mod_self_left, Nat.mod_eq_of_lt hy]
      rfl
    | succ j =>
      rw [Nat.mul_succ, Nat.pow_add, Nat.mul_comm (2 ^ (w * j)), ← Nat.div_div_eq_div_mul,
        Nat.add_mul_div_left _ _ (Nat.two_pow_pos w), Nat.div_eq_of_lt hy, Nat.zero_add]
      exact ih (fun z hz => hl z (List.mem_cons_of_mem _ hz)) (Nat.lt_of_succ_lt_succ h)

/-! ## Conversions (R319, R72, R73) -/

section

variable {x : Elem} {v : FEnv} {f : Nat}

theorem cvtToFire_nil (h : x.a = []) : cvtToFire f v x = none := by
  unfold cvtToFire cvtOne
  dsimp only
  rw [atHdr_nil (o := .a) h, ctl?_nil (o := .a) h, show (fired v x).e = x from rfl, value?_nil (o := .a) h]
  rfl

theorem cvtFromFire_nil (h : x.a = []) : cvtFromFire f v x = none := by
  unfold cvtFromFire
  dsimp only
  rw [head_nil (o := .a) h]

variable {a : Word} {ta : Nat} {la : List InTok} (ha : x.a = ⟨.data a, ta⟩ :: la)

include ha

/-- The firing that takes the head of A and emits tokens. -/
def Elem.yields (x : Elem) (v : FEnv) (ta : Nat) (la : List InTok) (stage : List Word) (out : List OutTok) (fl : Nat) : Fired :=
  ⟨{ x with a := la, stage := stage }, out, fl, [], v.ident, [(v.w.ina.toNat, ta)]⟩

theorem cvtToFire_data (hv : v.bits 0 1 = 0) : cvtToFire f v x = some
    (if 32 ≤ (x.stage.length + 1) * cvtWidth f then x.yields v ta la [] [v.outTok (.data (BitVec.ofNat 64
      (packCodes (cvtWidth f) (x.stage ++ [BitVec.ofNat 64 (toFormat f (a.toNat % 2 ^ 32))]))))] 0
    else x.yields v ta la (x.stage ++ [BitVec.ofNat 64 (toFormat f (a.toNat % 2 ^ 32))]) [] 0) := by
  have hat : (v.bits 0 1 == 1) = false := by rw [hv]; rfl
  have hnot : ¬ v.bits 0 1 = 1 := by rw [hv]; decide
  have htake : (fired v x).takeValue v .a false = x.yields v ta la x.stage [] 0 := consume_cons (f := fired v x) (o := .a) v ha
  have hval : (fired v x).e.value? .a false = some (a.toNat % 2 ^ 32, 0) := value?_data (o := .a) ha
  unfold cvtToFire cvtOne
  dsimp only
  rw [atHdr_data (o := .a) ha, ctl?_data (o := .a) ha, hat, hval]
  dsimp only
  rw [if_neg Bool.false_ne_true, if_neg hnot, Nat.or_zero, htake]
  unfold Elem.yields Fired.flushWord
  dsimp only
  rw [List.length_append, List.length_singleton]
  split
  · rw [if_neg (by simp)]
    rfl
  · rfl

theorem cvtFromFire_data : cvtFromFire f v x = some (x.yields v ta la x.stage
    ((List.range (32 / cvtWidth f)).map fun j => v.outTok (.data (BitVec.ofNat 64
      (fromFormat f (a.toNat / 2 ^ (cvtWidth f * j) % 2 ^ cvtWidth f)).1)))
    (if (List.range (32 / cvtWidth f)).any fun j => (fromFormat f (a.toNat / 2 ^ (cvtWidth f * j) % 2 ^ cvtWidth f)).2 then 16
      else 0)) := by
  unfold cvtFromFire
  dsimp only
  rw [head_data (o := .a) ha]
  dsimp only
  rw [consume_cons (t := .data a) (n := ta) (l := la) (o := .a) v, List.map_map, List.any_map]
  · rfl
  · exact ha

end

/-- The conversions. -/
def cvtInstrs : List Instr := [.cvtBf16Fp32, .cvtFp16Fp32, .cvtE4m3Fp32, .cvtE5m2Fp32, .cvtInt8Fp32, .cvtI4sFp32, .cvtFp32Bf16,
  .cvtFp32Fp16, .cvtFp32E4m3, .cvtFp32E5m2, .cvtFp32Int8, .cvtFp32I4s]

theorem exec_cvtInstrs (s : State) {i : Instr} (hi : i ∈ cvtInstrs) : ∃ op k, isBolter op = true ∧ op ≠ 8 ∧
    exec i s = fireWith op s 0 0 k ∧ ∀ v x, x.a = [] → k v x = none := by
  have hto (f : Nat) : ∀ v x, x.a = [] → cvtToFire f v x = none := fun _ _ => cvtToFire_nil
  have hfrom (f : Nat) : ∀ v x, x.a = [] → cvtFromFire f v x = none := fun _ _ => cvtFromFire_nil
  simp only [cvtInstrs, List.mem_cons, List.not_mem_nil, or_false] at hi
  rcases hi with rfl | rfl | rfl | rfl | rfl | rfl | rfl | rfl | rfl | rfl | rfl | rfl
  · exact ⟨0x20, _, rfl, by decide, exec_cvtBf16Fp32 s, hto 0⟩
  · exact ⟨0x21, _, rfl, by decide, exec_cvtFp16Fp32 s, hto 1⟩
  · exact ⟨0x22, _, rfl, by decide, exec_cvtE4m3Fp32 s, hto 2⟩
  · exact ⟨0x23, _, rfl, by decide, exec_cvtE5m2Fp32 s, hto 3⟩
  · exact ⟨0x24, _, rfl, by decide, exec_cvtInt8Fp32 s, hto 4⟩
  · exact ⟨0x25, _, rfl, by decide, exec_cvtI4sFp32 s, hto 5⟩
  · exact ⟨0x28, _, rfl, by decide, exec_cvtFp32Bf16 s, hfrom 0⟩
  · exact ⟨0x29, _, rfl, by decide, exec_cvtFp32Fp16 s, hfrom 1⟩
  · exact ⟨0x2A, _, rfl, by decide, exec_cvtFp32E4m3 s, hfrom 2⟩
  · exact ⟨0x2B, _, rfl, by decide, exec_cvtFp32E5m2 s, hfrom 3⟩
  · exact ⟨0x2C, _, rfl, by decide, exec_cvtFp32Int8 s, hfrom 4⟩
  · exact ⟨0x2D, _, rfl, by decide, exec_cvtFp32I4s s, hfrom 5⟩

/-! ## The clauses of the conversions -/

section

variable {s : State} {x : Elem} {a : Word} {ta : Nat} {la : List InTok} {i : Instr} {op f width : Nat} (h : s.Clear x)
  (hgr : s.me.run.grant.contains s.cur.elem = true) (ha : x.a = ⟨.data a, ta⟩ :: la) (hw : cvtWidth f = width)

include h hgr ha hw

/-- A conversion from FP32 stages the code of its value, or completes a word. -/
theorem cvtTo_fires (hp : s.cur.w.param = 0) {code : Nat} (hi : exec i s = fireWith op s 0 0 (cvtToFire f))
    (hcode : toFormat f (a.toNat % 2 ^ 32) = code) :
    ((x.stage.length + 1) * width < 32 → exec i s = .next (s.fire op
      ⟨{ x with a := la, stage := x.stage ++ [BitVec.ofNat 64 code] }, [], 0, [], s.me.run.ident, [(s.cur.w.ina.toNat, ta)]⟩)) ∧
    ((x.stage.length + 1) * width = 32 → ∃ v, exec i s = .next (s.fire op
        ⟨{ x with a := la, stage := [] }, [leavesWord s.cur.w v], 0, [], s.me.run.ident, [(s.cur.w.ina.toNat, ta)]⟩) ∧
      ((∀ y ∈ x.stage, y.toNat < 2 ^ width) → code < 2 ^ width →
        ∀ j, (h : j < (x.stage ++ [BitVec.ofNat 64 code]).length) →
          v / 2 ^ (width * j) % 2 ^ width = ((x.stage ++ [BitVec.ofNat 64 code])[j]).toNat)) := by
  have hbits : (s.fenv 0 0).bits 0 1 = 0 := by
    rw [bits_one, show (s.fenv 0 0).w.param = 0 from hp]
    rfl
  have hk := cvtToFire_data (f := f) ha hbits
  rw [hw, hcode] at hk
  refine ⟨fun hlt => ?_, fun heq => ⟨_, ?_, fun hst hc j hj => packCodes_digit width ?_ hj⟩⟩
  · rw [if_neg (by omega)] at hk
    exact h.fires hi (.inr hgr) hk
  · rw [if_pos (by omega)] at hk
    exact h.fires hi (.inr hgr) hk
  · intro y hy
    rcases List.mem_append.1 hy with hy | hy
    · exact hst y hy
    · rw [List.mem_singleton.1 hy, BitVec.toNat_ofNat]
      exact Nat.lt_of_le_of_lt (Nat.mod_le ..) hc

/-- A conversion to FP32 yields every value of its word; only one of I4S sets a flag. -/
theorem cvtFrom_fires {g : Nat → Nat} (hi : exec i s = fireWith op s 0 0 (cvtFromFire f)) (hg : ∀ v, (fromFormat f v).1 = g v)
    (hfl : i ≠ .cvtFp32I4s → ∀ v, (fromFormat f v).2 = false) :
    ∃ fl, exec i s = .next (s.fire op ⟨{ x with a := la },
        (List.range (32 / width)).map fun j => leavesWord s.cur.w (g (a.toNat / 2 ^ (width * j) % 2 ^ width)),
        fl, [], s.me.run.ident, [(s.cur.w.ina.toNat, ta)]⟩) ∧
      (i ≠ .cvtFp32I4s → fl = 0) := by
  have hk := cvtFromFire_data (v := s.fenv 0 0) (f := f) ha
  simp only [hw, hg] at hk
  exact ⟨_, h.fires hi (.inr hgr) hk, fun hne => by simp [hfl hne]⟩

end

/-- ESEL looks at a control value without its sign. -/
theorem elementOp_esel (cond a b c : Nat) :
    elementOp 0x17 cond a b (c % 2 ^ 32) = canonNan (if c % 2 ^ 31 = 0 then b else a) := by
  show canonNan (if c % 2 ^ 32 % 2 ^ 31 = 0 then b else a) = _
  rw [Nat.mod_mod_of_dvd c (by decide)]

/-- Settles O40: the operands of each operation and the format of each conversion. -/
theorem elementArithmetic : Obligations.ElementArithmetic := by
  unfold Obligations.ElementArithmetic
  refine ⟨?_, ?_⟩
  · rintro s x w a b c ta tb tc la lb lc hx rfl hg hemit hout hparam
    have hv : (s.fenv 0 0).words := words_of_param hparam
    refine ⟨fun hgr ha => ?_, ⟨fun ha hb hc i hi => ?_, fun t ha hb hc i hi => ?_⟩, fun hgr i hi => ?_⟩
    · have fires {i : Instr} {op : Nat} {f : Fired} (hi : exec i s = fireWith op s 0 0 (elementFire op))
          (hk : elementFire op (s.fenv 0 0) x = some f) (hlen : f.out.length = 1) : exec i s = .next (s.fire op f) :=
        hi.trans (fireWith_fires hx hg hk (fits_one hemit hout hlen) fun _ => hgr)
      refine ⟨?_, fun hb => ⟨?_, fun hc => ?_⟩⟩
      · simp only [List.forall_mem_cons, List.not_mem_nil, false_implies, implies_true, and_true]
        exact ⟨fires (exec_eexp2 s) (elementFire_one hv ha rfl) rfl, fires (exec_elog2 s) (elementFire_one hv ha rfl) rfl,
          fires (exec_ercp s) (elementFire_one hv ha rfl) rfl, fires (exec_ersq s) (elementFire_one hv ha rfl) rfl⟩
      · simp only [List.forall_mem_cons, List.not_mem_nil, false_implies, implies_true, and_true]
        have hcmp := fires (exec_ecmp s) (elementFire_two hv ha hb rfl) rfl
        rw [bits_eq] at hcmp
        exact ⟨fires (exec_eadd s) (elementFire_two hv ha hb rfl) rfl, fires (exec_esub s) (elementFire_two hv ha hb rfl) rfl,
          fires (exec_emul s) (elementFire_two hv ha hb rfl) rfl, fires (exec_emin s) (elementFire_two hv ha hb rfl) rfl,
          fires (exec_emax s) (elementFire_two hv ha hb rfl) rfl, hcmp⟩
      · simp only [List.forall_mem_cons, List.not_mem_nil, false_implies, implies_true, and_true]
        have hsel := fires (exec_esel s) (elementFire_three hv ha hb hc rfl) rfl
        rw [elementOp_esel] at hsel
        exact ⟨fires (exec_efma s) (elementFire_three hv ha hb hc rfl) rfl, hsel⟩
    · obtain ⟨op, -, -, hi⟩ := exec_elementInstrs s hi
      refine hi.trans (fireWith_waits hx (elementFire_waits elementOpds_mem ha fun q _ => .inl ?_))
      cases q with
      | a => exact ha
      | b => exact hb
      | c => exact hc
    · obtain ⟨op, hmem, hi⟩ := exec_elementPairs s hi
      refine hi.trans (fireWith_waits hx (elementFire_waits hmem hb fun q _ => ?_))
      cases q with
      | a => exact .inr ⟨a, t, la, ha⟩
      | b => exact .inl hb
      | c => exact .inl hc
    · obtain ⟨op, hop, h8, hi⟩ := exec_elementInstrs s hi
      exact hi.trans (fireWith_no_bus hx (fun f _ => needsBus_of_bolter hop h8 _ _) hgr)
  · rintro s x w a ta n la hx rfl hg hemit hout hparam rfl
    have h : s.Clear x := ⟨hx, hg, hemit, hout⟩
    refine ⟨fun hgr ha => ⟨?_, ?_⟩, fun hno i hi => ?_⟩
    · simp only [List.forall_mem_cons, List.not_mem_nil, false_implies, implies_true, and_true]
      exact ⟨cvtTo_fires h hgr ha rfl hparam (exec_cvtBf16Fp32 s) rfl, cvtTo_fires h hgr ha rfl hparam (exec_cvtFp16Fp32 s) rfl,
        cvtTo_fires h hgr ha rfl hparam (exec_cvtE4m3Fp32 s) rfl, cvtTo_fires h hgr ha rfl hparam (exec_cvtE5m2Fp32 s) rfl,
        cvtTo_fires h hgr ha rfl hparam (exec_cvtInt8Fp32 s) rfl, cvtTo_fires h hgr ha rfl hparam (exec_cvtI4sFp32 s) rfl⟩
    · refine List.forall_mem_cons.2 ⟨cvtFrom_fires (f := 0) h hgr ha rfl (exec_cvtFp32Bf16 s) (fun _ => rfl) fun _ _ => rfl,
        List.forall_mem_cons.2 ⟨cvtFrom_fires (f := 1) h hgr ha rfl (exec_cvtFp32Fp16 s) (fun _ => rfl) fun _ _ => rfl,
        List.forall_mem_cons.2 ⟨cvtFrom_fires (f := 2) h hgr ha rfl (exec_cvtFp32E4m3 s) (fun _ => rfl) fun _ _ => rfl,
        List.forall_mem_cons.2 ⟨cvtFrom_fires (f := 3) h hgr ha rfl (exec_cvtFp32E5m2 s) (fun _ => rfl) fun _ _ => rfl,
        List.forall_mem_cons.2 ⟨cvtFrom_fires (f := 4) h hgr ha rfl (exec_cvtFp32Int8 s) (fun _ => rfl) fun _ _ => rfl,
        List.forall_mem_singleton.2 (cvtFrom_fires (f := 5) h hgr ha rfl (exec_cvtFp32I4s s) (fun v => ?_) fun hne => absurd rfl hne)⟩⟩⟩⟩⟩
      by_cases hv : v = 8
      · exact (congrArg Prod.fst (if_pos hv)).trans (if_pos hv).symm
      · exact (congrArg Prod.fst (if_neg hv)).trans (if_neg hv).symm
    · obtain ⟨op, k, hop, h8, hi, hk⟩ := exec_cvtInstrs s hi
      rcases hno with ha | hgr
      · exact h.waits hi (hk _ _ ha)
      · exact hi.trans (fireWith_no_bus hx (fun f _ => needsBus_of_bolter hop h8 _ _) hgr)

end Sys2Proof.Machine

end

/-!
SUPPORT. Pulse cells (R83, R84, R302 to R306).
-/
section

namespace Sys2Proof.Machine

/-! ## Forwarding (R302) -/

/-- A token forwarded in the direction that two bits name, where a bit asks for it. -/
theorem fwdTok_dir (b : Bool) (n : BitVec 2) (t : Tok) : fwdTok (if b.toNat = 1 then BitVec.ofNat 4 (2 ^ n.toNat) else 0) t =
    if b then [⟨t, BitVec.ofNat 4 (2 ^ n.toNat), false, false⟩] else [] := by
  cases b with
  | false => rfl
  | true =>
    refine if_neg ?_
    revert n
    decide

theorem fwdTok_a (v : FEnv) (t : Tok) : fwdTok (cellFwd v .a) t = if v.w.param.getLsbD 2 then
    [⟨t, BitVec.ofNat 4 (2 ^ (v.w.param.extractLsb' 0 2).toNat), false, false⟩] else [] := by
  rw [← fwdTok_dir, ← bits_one, ← bits_eq]
  rfl

theorem fwdTok_b (v : FEnv) (t : Tok) : fwdTok (cellFwd v .b) t = if v.w.param.getLsbD 5 then
    [⟨t, BitVec.ofNat 4 (2 ^ (v.w.param.extractLsb' 3 2).toNat), false, false⟩] else [] := by
  rw [← fwdTok_dir, ← bits_one, ← bits_eq]
  rfl

/-! ## One accumulation step (R303, R304) -/

/-- A step of the accumulating plane counts once at most. -/
theorem step_steps_le (p : AccPlane) (st : Step) : (p.step st).steps ≤ p.steps + 1 := by
  cases st with
  | poison => exact Nat.le_refl _
  | none => exact Nat.le_refl _
  | add f w clamp =>
    show (if h : f < 8 then _ else p : AccPlane).steps ≤ p.steps + 1
    split
    · exact Nat.le_refl _
    · exact Nat.le_succ _

/-- An element after a step that takes a pair. -/
def Elem.stepped (x : Elem) (st : Step) (la lb : List InTok) : Elem :=
  { (x.took .a la).took .b lb with acc := x.acc.step st }

theorem cellTake_data {f : Fired} {o : Opd} {a : Word} {n : Nat} {l : List InTok} (v : FEnv) (h : f.e.slot o = ⟨.data a, n⟩ :: l) :
    cellTake v o true f = { f with
      e := f.e.took o l, used := f.used ++ [(srcCode v.w o, n)], out := f.out ++ fwdTok (cellFwd v o) (.data a) } := by
  unfold cellTake
  rw [head_data h, takeAtom_cons v h]
  rfl

section

variable {g : Fired} {a b : Word} {ta tb : Nat} {la lb : List InTok} (v : FEnv) (mask : Nat)

theorem cellStep_none (h : g.e.a = []) : cellStep v mask g = none := by
  unfold cellStep
  rw [atom?_nil (o := .a) h]
  exact ite_self _

/-- A pair of long atoms gives a step, and its tokens are forwarded. -/
theorem cellStep_pair (ha : g.e.a = ⟨.data a, ta⟩ :: la) (hb : g.e.b = ⟨.data b, tb⟩ :: lb) (hla : hdrLong g.e.ia.hdr = true)
    (hlb : hdrLong g.e.ib.hdr = true) (hda : g.e.ia.due ≠ 0) (hdb : g.e.ib.due ≠ 0) (hs : g.e.acc.steps < maxSteps) {da db : AtomV}
    (hra : atomRead g.e.ia.hdr (a.toNat % 2 ^ 32) = da) (hrb : atomRead g.e.ib.hdr (b.toNat % 2 ^ 32) = db) :
    ∃ k evs us, cellStep v mask g = some { g with
      e := g.e.stepped (pdotStep da db mask v.anc) la lb
      out := g.out ++ (fwdTok (cellFwd v .a) (.data a) ++ fwdTok (cellFwd v .b) (.data b))
      flags := g.flags ||| bool1 (da.bad || db.bad) ||| k * 8
      evs := evs, used := us } := by
  unfold cellStep
  rw [if_neg (Nat.not_le.2 hs), atom?_long (o := .a) ha hla hda, atom?_long (o := .b) hb hlb hdb]
  dsimp only
  rw [hra, hrb, cellTake_data (o := .a) (a := a) (n := ta) (l := la) v, cellTake_data (o := .b) (a := b) (n := tb) (l := lb) v,
    List.append_assoc]
  · exact ⟨_, _, _, rfl⟩
  · exact hb
  · exact ha

end

/-! ## A cell's firing (R303, R305) -/

theorem slot_of_ctl? {e : Elem} {o : Opd} {t : Tok} (h : e.ctl? o = some t) : ∃ n l, e.slot o = ⟨t, n⟩ :: l := by
  unfold Elem.ctl? Elem.head at h
  cases hs : e.slot o with
  | nil => simp [hs] at h
  | cons y l =>
    obtain ⟨tok, n⟩ := y
    rw [hs] at h
    dsimp only at h
    split at h
    · rename_i heq
      split at heq
      · exact absurd heq nofun
      · cases heq
        cases h
        exact ⟨n, l, rfl⟩
    · exact absurd h nofun

section

variable {x : Elem} (v : FEnv) (two masked : Bool) (mask : Nat)

/-- What a cell masks (R304). -/
def cellMask (v : FEnv) (masked : Bool) : Nat := if masked then (v.w.param.extractLsb' 6 8).toNat else 0

theorem cellFire_main (hc : x.c = []) :
    cellFire two masked v x = cellFire.main two v x (fired v x) (cellMask v masked) := by
  unfold cellFire cellMask
  dsimp only
  rw [head_nil (o := .c) hc, bits_eq]

theorem cellMain_swap {id : BitVec 16} {n : Nat} {la : List InTok} (ha : x.a = ⟨.ctl .accsw id, n⟩ :: la)
    (hb : x.atHdr .b = false) (f : Fired) :
    cellFire.main two v x f mask = if x.draining then none else some (cellSwap v (.ctl .accsw id) f) := by
  unfold cellFire.main
  rw [atHdr_ctl (o := .a) ha rfl, ctl?_ctl (o := .a) ha rfl, hb]
  exact ite_self _

/-- A cell with its steps taken takes nothing but an ACCSW. -/
theorem cellMain_full (hs : maxSteps ≤ x.acc.steps) (ha : ∀ id, x.ctl? .a ≠ some (.ctl .accsw id)) (f : Fired) :
    cellFire.main two v x f mask = none := by
  unfold cellFire.main
  rw [if_pos hs]
  split
  · exact absurd ‹_› (ha _)
  · rfl

section

variable (hs : x.acc.steps < maxSteps) {a b : Word} {ta tb : Nat} {la lb : List InTok} (ha : x.a = ⟨.data a, ta⟩ :: la)
  (hb : x.b = ⟨.data b, tb⟩ :: lb) {f f1 : Fired} (h1 : cellStep v mask f = some f1)

include hs ha hb h1

theorem cellMain_one (h2 : two = true → cellStep v mask f1 = none) : cellFire.main two v x f mask = some f1 := by
  unfold cellFire.main
  rw [if_neg (Nat.not_le.2 hs), atHdr_data (o := .a) ha, atHdr_data (o := .b) hb, ctl?_data (o := .a) ha, ctl?_data (o := .b) hb,
    h1]
  cases two with
  | false => rfl
  | true =>
    dsimp only
    rw [h2 rfl]
    rfl

theorem cellMain_two {f2 : Fired} (h2 : cellStep v mask f1 = some f2) : cellFire.main true v x f mask = some f2 := by
  unfold cellFire.main
  rw [if_neg (Nat.not_le.2 hs), atHdr_data (o := .a) ha, atHdr_data (o := .b) hb, ctl?_data (o := .a) ha, ctl?_data (o := .b) hb,
    h1]
  dsimp only
  rw [h2]
  rfl

end

/-- ACCSW swaps the planes, and leaves behind the value that is to drain. -/
theorem cellSwap_eq {id : BitVec 16} {n : Nat} {la : List InTok} (ha : x.a = ⟨.ctl .accsw id, n⟩ :: la) (hq : x.queue = []) :
    (cellSwap v (.ctl .accsw id) (fired v x)).e.drn = x.acc ∧ (cellSwap v (.ctl .accsw id) (fired v x)).e.acc = x.drn ∧
      (cellSwap v (.ctl .accsw id) (fired v x)).e.a = la ∧ (cellSwap v (.ctl .accsw id) (fired v x)).e.b = x.b ∧
      (cellSwap v (.ctl .accsw id) (fired v x)).e.queue =
        none :: (if x.ids.contains id then [] else [some (.ctl .accsw id)]) := by
  unfold cellSwap cellForward Elem.forwards
  rw [consume_cons (f := fired v x) (o := .a) v ha]
  dsimp only
  rw [ids_setSlot]
  cases hid : x.ids.contains id with
  | true =>
    rw [show (fired v x).e = x from rfl, hid]
    exact ⟨rfl, rfl, rfl, rfl, congrArg (· ++ [none]) hq⟩
  | false =>
    rw [show (fired v x).e = x from rfl, hid]
    exact ⟨rfl, rfl, rfl, rfl, congrArg (fun l => l ++ [none] ++ [some (Tok.ctl .accsw id)]) hq⟩

end

/-! ## A cell in focus -/

section

variable {s : State} {x : Elem} (h : s.Clear x)

include h

/-- A cell with no control token that waits for the drain output fires as its operands have it. -/
theorem cell_fires (op : Nat) (hq : x.queue = [] ∨ ∃ q, x.queue = none :: q) :
    cell op s = fireWith op s (s.me.run.act.chainFmt s.me.lanes s.cur.elem) (s.me.run.act.upstream s.me.lanes 2048 s.cur.elem)
      (cellFire (op == 2) (op == 3)) := by
  have hun (v : FEnv) : x.unqueue v = none := by
    unfold Elem.unqueue
    rcases hq with hq | ⟨q, hq⟩ <;> rw [hq]
  unfold cell
  dsimp only
  rw [h.open_, if_neg Bool.false_ne_true, ← h.elem, hun]

theorem planeDrain_waits (hq : x.queue = []) : exec .planeDrain s = .next s := by
  rw [exec_planeDrain, execPlaneDrain]
  dsimp only
  rw [← h.elem, hq]
  exact if_pos (by simp)

theorem planeDrain_drains {q : List (Option Tok)} (hq : x.queue = none :: q) (hfwd : x.fwdLeft = 0) {v : FEnv}
    (hv : v = s.fenv (s.me.run.act.chainFmt s.me.lanes s.cur.elem) (s.me.run.act.upstream s.me.lanes 2048 s.cur.elem)) :
    exec .planeDrain s = .next (s.mapRun fun r => r.mapElem s.cur.elem fun e => { e with
      queue := q, drn := .zero, fwdLeft := v.up, out := [leavesWord s.cur.w
        (drainValue x.drn.acc.toList x.drn.poison (drainFmt v.fmt) v.anc)] }) := by
  subst hv
  rw [exec_planeDrain, execPlaneDrain]
  dsimp only
  rw [if_neg (by simp [h.open_, ← h.elem, hq, hfwd, h.emit, h.out]), ← h.elem]
  refine congrArg (fun r => Host.Outcome.next (s.mapRun fun _ => r)) (mapElem_congr ?_)
  rw [← h.elem, hq, h.out]
  rfl

end

/-- A flag of ATOMINV among the flags of a step. -/
theorem stepFlags_inv (b c : Bool) (k : Nat) : (0 ||| bool1 (b || c) ||| k * 8) % 2 = 1 ↔ b = true ∨ c = true := by
  have hk : (k * 8).testBit 0 = false := by
    rw [Nat.testBit_zero]
    exact decide_eq_false (by omega)
  rw [Nat.mod_two_eq_one_iff_testBit_zero, Nat.testBit_or, Nat.testBit_or, hk]
  cases b <;> cases c <;> decide

section

variable {s : State} {x : Elem} (h : s.Clear x) {i : Instr} {op fmt up : Nat} {two masked : Bool}
  (hi : exec i s = fireWith op s fmt up (cellFire two masked)) (hop : isBolter op = false) (hq : x.queue = []) (hc : x.c = [])

include h hi

theorem cell_draining {q : List (Option Tok)} (hc : x.c = []) (hq : x.queue = none :: q) (hb : x.atHdr .b = false) {n : Nat}
    {id : BitVec 16} {la : List InTok} (ha : x.a = ⟨.ctl .accsw id, n⟩ :: la) : exec i s = .next s := by
  refine h.waits hi ?_
  rw [cellFire_main _ _ _ hc, cellMain_swap _ _ _ ha hb]
  exact if_pos (by simp [Elem.draining, hq])

include hc

theorem cell_full (hs : maxSteps ≤ x.acc.steps) {t : Tok} {n : Nat} {la : List InTok} (ht : ∀ id, t ≠ .ctl .accsw id)
    (ha : x.a = ⟨t, n⟩ :: la) : exec i s = .next s := by
  refine h.waits hi ?_
  rw [cellFire_main _ _ _ hc]
  refine cellMain_full _ _ _ hs (fun id he => ?_) _
  obtain ⟨m, l, hslot⟩ := slot_of_ctl? he
  exact ht id (congrArg InTok.tok (List.head_eq_of_cons_eq (ha.symm.trans hslot)))

include hop hq

theorem cell_swaps (hb : x.atHdr .b = false) {n : Nat} {id : BitVec 16} {la : List InTok}
    (ha : x.a = ⟨.ctl .accsw id, n⟩ :: la) : ∃ f, exec i s = .next (s.fire op f) ∧ f.e.drn = x.acc ∧ f.e.acc = x.drn ∧
      f.e.a = la ∧ f.e.b = x.b ∧ f.e.queue = none :: (if x.ids.contains id then [] else [some (.ctl .accsw id)]) := by
  refine h.firesSome hi (.inl hop) ⟨_, ?_, cellSwap_eq (s.fenv fmt up) ha hq⟩
  rw [cellFire_main _ _ _ hc, cellMain_swap _ _ _ ha hb]
  exact if_neg (by simp [Elem.draining, hq])

variable {a b : Word} {ta tb : Nat} {la lb : List InTok} (ha : x.a = ⟨.data a, ta⟩ :: la) (hb : x.b = ⟨.data b, tb⟩ :: lb)
  (hla : hdrLong x.ia.hdr = true) (hlb : hdrLong x.ib.hdr = true)

include ha hb hla hlb

omit hq in
theorem cell_pair (hda : x.ia.due ≠ 0) (hdb : x.ib.due ≠ 0) (hs : x.acc.steps < maxSteps) (hone : two = true → la = [])
    {da db : AtomV} (hra : da = atomRead x.ia.hdr (a.toNat % 2 ^ 32)) (hrb : db = atomRead x.ib.hdr (b.toNat % 2 ^ 32)) :
    ∃ f, exec i s = .next (s.fire op f) ∧
      f.e.acc = x.acc.step (pdotStep da db (cellMask (s.fenv fmt up) masked) (s.fenv fmt up).anc) ∧ f.e.drn = x.drn ∧
      f.e.a = la ∧ f.e.b = lb ∧ f.e.ia.due = x.ia.due - 1 ∧ f.e.ib.due = x.ib.due - 1 ∧
      f.out = (if s.cur.w.param.getLsbD 2 then
          [⟨.data a, BitVec.ofNat 4 (2 ^ (s.cur.w.param.extractLsb' 0 2).toNat), false, false⟩] else []) ++
        (if s.cur.w.param.getLsbD 5 then
          [⟨.data b, BitVec.ofNat 4 (2 ^ (s.cur.w.param.extractLsb' 3 2).toNat), false, false⟩] else []) ∧
      (f.flags % 2 = 1 ↔ da.bad = true ∨ db.bad = true) := by
  obtain ⟨k, evs, us, h1⟩ := cellStep_pair (g := fired (s.fenv fmt up) x) (s.fenv fmt up) (cellMask (s.fenv fmt up) masked) ha hb
    hla hlb hda hdb hs hra.symm hrb.symm
  rw [fwdTok_a, fwdTok_b] at h1
  have hk := (cellFire_main _ two masked hc).trans (cellMain_one _ two _ hs ha hb h1 fun ht => cellStep_none _ _ (hone ht))
  exact h.firesSome hi (.inl hop) ⟨_, hk, rfl, rfl, rfl, rfl, rfl, rfl, rfl, stepFlags_inv da.bad db.bad k⟩

end

/-- Two pairs give two steps of PDOTS. -/
theorem pdots_pairs {s : State} {x : Elem} (h : s.Clear x) {fmt up : Nat}
    (hi : exec .pdots s = fireWith 2 s fmt up (cellFire true false)) (hc : x.c = []) {a b a' b' : Word} {ta tb ta' tb' : Nat}
    {la lb : List InTok} (ha : x.a = ⟨.data a, ta⟩ :: ⟨.data a', ta'⟩ :: la) (hb : x.b = ⟨.data b, tb⟩ :: ⟨.data b', tb'⟩ :: lb)
    (hla : hdrLong x.ia.hdr = true) (hlb : hdrLong x.ib.hdr = true) (hda : 2 ≤ x.ia.due) (hdb : 2 ≤ x.ib.due)
    (hs : x.acc.steps + 1 < maxSteps) : ∃ f, exec .pdots s = .next (s.fire 2 f) ∧ f.e.a = la ∧ f.e.b = lb ∧ f.e.drn = x.drn ∧
      f.e.acc = (x.acc.step (pdotStep (atomRead x.ia.hdr (a.toNat % 2 ^ 32)) (atomRead x.ib.hdr (b.toNat % 2 ^ 32)) 0
        (s.fenv fmt up).anc)).step (pdotStep (atomRead x.ia.hdr (a'.toNat % 2 ^ 32)) (atomRead x.ib.hdr (b'.toNat % 2 ^ 32)) 0
        (s.fenv fmt up).anc) := by
  obtain ⟨k, evs, us, h1⟩ := cellStep_pair (g := fired (s.fenv fmt up) x) (s.fenv fmt up) 0 ha hb hla hlb
    (Nat.ne_of_gt (Nat.zero_lt_of_lt hda)) (Nat.ne_of_gt (Nat.zero_lt_of_lt hdb)) (Nat.lt_of_succ_lt hs) rfl rfl
  obtain ⟨k', evs', us', h2⟩ := cellStep_pair (a := a') (b := b') (ta := ta') (tb := tb') (la := la) (lb := lb) (s.fenv fmt up) 0
    (g := { fired (s.fenv fmt up) x with
      e := x.stepped (pdotStep (atomRead x.ia.hdr (a.toNat % 2 ^ 32)) (atomRead x.ib.hdr (b.toNat % 2 ^ 32)) 0
        (s.fenv fmt up).anc) (⟨.data a', ta'⟩ :: la) (⟨.data b', tb'⟩ :: lb)
      out := [] ++ (fwdTok (cellFwd (s.fenv fmt up) .a) (.data a) ++ fwdTok (cellFwd (s.fenv fmt up) .b) (.data b))
      flags := 0 ||| bool1 ((atomRead x.ia.hdr (a.toNat % 2 ^ 32)).bad || (atomRead x.ib.hdr (b.toNat % 2 ^ 32)).bad) ||| k * 8
      evs := evs, used := us }) rfl rfl hla hlb
    (Nat.ne_of_gt (Nat.sub_pos_of_lt hda)) (Nat.ne_of_gt (Nat.sub_pos_of_lt hdb))
    (Nat.lt_of_le_of_lt (step_steps_le ..) hs) rfl rfl
  have hk := (cellFire_main _ true false hc).trans (cellMain_two _ _ (Nat.lt_of_succ_lt hs) ha hb h1 h2)
  exact h.firesSome hi (.inl rfl) ⟨_, hk, rfl, rfl, rfl, rfl⟩

/-- Settles O41: what heads A and B, and what the planes hold. -/
theorem pulseCells : Obligations.PulseCells := by
  unfold Obligations.PulseCells
  rintro s x w a b ta tb la lb fmt v da db hx rfl hg hemit hout rfl rfl
  have h : s.Clear x := ⟨hx, hg, hemit, hout⟩
  have hpdot (hq : x.queue = [] ∨ ∃ q, x.queue = none :: q) := (exec_pdot s).trans (cell_fires h 1 hq)
  have hpdots (hq : x.queue = [] ∨ ∃ q, x.queue = none :: q) := (exec_pdots s).trans (cell_fires h 2 hq)
  have hpdotm (hq : x.queue = [] ∨ ∃ q, x.queue = none :: q) := (exec_pdotm s).trans (cell_fires h 3 hq)
  refine ⟨fun hq hc => ⟨?_, ?_, ?_, ?_⟩, ?_, fun q hq hfwd => planeDrain_drains h hq hfwd rfl, planeDrain_waits h⟩
  · intro ha hb hla hlb hda hdb hs hra hrb
    refine List.forall_mem_cons.2 ⟨fun _ => ?_, List.forall_mem_cons.2 ⟨fun hone => ?_, List.forall_mem_singleton.2 fun _ => ?_⟩⟩
    · exact cell_pair h (hpdot (.inl hq)) rfl hc ha hb hla hlb hda hdb hs nofun hra hrb
    · exact cell_pair h (hpdots (.inl hq)) rfl hc ha hb hla hlb hda hdb hs (fun _ => hone rfl) hra hrb
    · exact cell_pair h (hpdotm (.inl hq)) rfl hc ha hb hla hlb hda hdb hs nofun hra hrb
  · intro a' b' ta' tb' la' lb' ha hb hla hlb hda hdb hs
    exact pdots_pairs h (hpdots (.inl hq)) hc ha hb hla hlb hda hdb hs
  · intro hs t n ht ha
    exact List.forall_mem_cons.2 ⟨cell_full h (hpdot (.inl hq)) hc hs ht ha, List.forall_mem_cons.2
      ⟨cell_full h (hpdots (.inl hq)) hc hs ht ha, List.forall_mem_singleton.2 (cell_full h (hpdotm (.inl hq)) hc hs ht ha)⟩⟩
  · intro n id ha hb
    exact List.forall_mem_cons.2 ⟨cell_swaps h (hpdot (.inl hq)) rfl hq hc hb ha, List.forall_mem_cons.2
      ⟨cell_swaps h (hpdots (.inl hq)) rfl hq hc hb ha,
        List.forall_mem_singleton.2 (cell_swaps h (hpdotm (.inl hq)) rfl hq hc hb ha)⟩⟩
  · intro q hq hc hb n id ha
    exact List.forall_mem_cons.2 ⟨cell_draining h (hpdot (.inr ⟨q, hq⟩)) hc hq hb ha, List.forall_mem_cons.2
      ⟨cell_draining h (hpdots (.inr ⟨q, hq⟩)) hc hq hb ha,
        List.forall_mem_singleton.2 (cell_draining h (hpdotm (.inr ⟨q, hq⟩)) hc hq hb ha)⟩⟩

end Sys2Proof.Machine

end

/-!
SUPPORT. ACCSW and the re-latch tokens of its cycle (R293, R307).
-/
section

namespace Sys2Proof.Machine

theorem tokenCame_me (s : State) (e : Nat) (c : Ctl) : (s.tokenCame e c).me = s.me := by
  unfold State.tokenCame
  split
  · dsimp only
    split <;> rfl
  · rfl

theorem enterRelatch_relq (now : Nat) (r : Run) (x : Nat × Ctl × BitVec 4) : (r.enterRelatch now x).relq = r.relq := by
  unfold Run.enterRelatch
  dsimp only
  split <;> rfl

/-- The re-latch tokens below a place enter; those from it on still wait. -/
theorem flushRelatch_relq (s : State) (k : Nat) : (s.flushRelatch k).me.run.relq = s.me.run.relq.filter fun x => k ≤ x.1 := by
  unfold State.flushRelatch
  by_cases he : s.me.run.relq.isEmpty = true
  · rw [if_pos he, List.isEmpty_iff.1 he]
    rfl
  · rw [if_neg he]
    dsimp only
    generalize hu : List.foldl (fun (st : State) (x : Nat × Ctl × BitVec 4) => st.tokenCame (x.1 - 64) x.2.1) s _ = u
    have hme : u.me = s.me := by
      rw [← hu]
      exact foldl_keeps (P := fun st : State => st.me = s.me) (fun st x h => (tokenCame_me ..).trans h) _ rfl
    rw [mapRun_me, hme]
    exact foldl_keeps (P := fun r : Run => r.relq = s.me.run.relq.filter fun x => k ≤ x.1)
      (fun r x h => (enterRelatch_relq ..).trans h) _ rfl

theorem fire_relq (s : State) (op : Nat) (f : Fired) : (s.fire op f).me.run.relq = s.me.run.relq := by
  obtain ⟨src, stop, set, ps, hfire⟩ := fire_eq s op f
  rw [hfire]
  rfl

theorem fireWith_relq {op fmt up : Nat} {s t : State} {k : FEnv → Elem → Option Fired} (h : fireWith op s fmt up k = .next t) :
    t.me.run.relq = s.me.run.relq := by
  unfold fireWith at h
  dsimp only at h
  split at h
  · cases h
    rfl
  · split at h
    · cases h
      rfl
    · split at h
      · cases h
        exact fire_relq ..
      · cases h
        rfl

/-- An ACCSW lets the re-latch tokens that are numbered before its own enter. -/
theorem accsw_relq {s t : State} (h : exec .accsw s = .next t) :
    t.me.run.relq = s.me.run.relq.filter fun x => 64 + s.cur.elem ≤ x.1 :=
  (fireWith_relq ((exec_accsw s).symm.trans h)).trans (flushRelatch_relq ..)

/-- An element that counts the atoms of a long burst, with one atom at the head of A. -/
def countingElem : Elem := { Elem.zero with a := [⟨.data 0, 0⟩], ia := ⟨0x40, 2, false, 0, false⟩ }

/-- An ACCSW of k = 2 in focus, in a cycle in which a re-latch token is to enter at port 0. -/
def relatchingState : State := { State.reset with
  me := { State.reset.me with run := { State.reset.me.run with elems := [countingElem], relq := [(0, .relatch 0 0, 0)] } }
  cur := { State.reset.cur with w := ⟨1, 0, 0, 4, 0, 2⟩ } }

/-- Refutes O42: ACCSW enters the re-latch tokens of its cycle before it fires, and the statement, which puts no condition on them,
says that it fires and does nothing else. In `relatchingState` one waits to enter; ACCSW leaves none, the firing alone would leave it. -/
theorem not_atomOperations : ¬ Obligations.AtomOperations := by
  unfold Obligations.AtomOperations
  intro h
  obtain ⟨haccsw, -⟩ := h relatchingState countingElem relatchingState.cur.w 0 0 0 0 [] [] (relatchingState.fenv 0 0)
    (atomRead countingElem.ia.hdr 0) (atomRead countingElem.ib.hdr 0) rfl rfl rfl rfl rfl rfl rfl rfl rfl
  obtain ⟨hcounts, -⟩ := haccsw (by decide) rfl
  obtain ⟨f, hf, -⟩ := hcounts (by decide)
  have hafter : (relatchingState.fire 4 f).me.run.relq = [] := accsw_relq hf
  have hbefore : (relatchingState.fire 4 f).me.run.relq = [(0, .relatch 0 0, 0)] := fire_relq ..
  exact absurd (hbefore.symm.trans hafter) (List.cons_ne_nil _ _)

end Sys2Proof.Machine

end

/-!
SUPPORT. Address generators (R327 to R334).
-/
section

namespace Sys2Proof.Machine

/-! ## What a read keeps in focus -/

theorem translate_cur (s : State) (va : Word) : (s.translate va).2.cur = s.cur := by
  unfold State.translate
  dsimp only
  split
  · generalize hu : (if (Option.isSome _) = true then s else s.count 0x026 1) = u
    have hcur : u.cur = s.cur := by
      rw [← hu]
      split <;> rfl
    split
    · split
      · exact hcur
      · split <;> exact hcur
    · split <;> exact hcur
  · split <;> rfl

theorem leaves_latchPlace (e : Nat) (s : State) (va : Word) (kind : Kind) :
    (latchPlace e s va kind).Leaves fun u => u.cur = s.cur := by
  have huse {u : State} (hu : u.cur = s.cur) (p : Word) (sz : Nat) :
      (latchUse u va kind p sz).Leaves fun u => u.cur = s.cur := by
    unfold latchUse
    split
    · exact hu
    · exact leaves_placePage hu va 1 kind p sz
  have ht := translate_cur s va
  unfold latchPlace
  split
  · rfl
  · split
    · exact leaves_placeWindow (P := fun u => u.cur = s.cur) rfl va
    · split
      · rfl
      · split
        · exact huse rfl _ _
        · generalize s.translate va = r at ht
          obtain ⟨_ | ⟨p, sz⟩, u⟩ := r
          · exact ht
          · exact huse (u := u.mapRun _) ht p sz

section

variable {pl : Placer} (hpl : ∀ s va kind, (pl s va kind).Leaves fun u => u.cur = s.cur)

include hpl

theorem placeAll_cur {kind : Kind} {l : List (Word × Nat)} {s u : State} {ps : List (Word × Nat × Target)}
    (h : placeAll pl kind l s = .ok ps u) : u.cur = s.cur := by
  induction l generalizing s ps with
  | nil =>
    cases h
    rfl
  | cons p l ih =>
    obtain ⟨va, n⟩ := p
    unfold placeAll at h
    split at h
    · exact absurd h nofun
    · exact absurd h nofun
    · rename_i s1 t h1
      split at h
      · exact absurd h nofun
      · exact absurd h nofun
      · rename_i s2 t2 h2
        split at h
        · rename_i l3 s3 h3
          cases h
          exact (ih h3).trans (((hpl ..).ok h2).trans ((hpl ..).ok h1))
        · rename_i r hr
          exact absurd h (hr _ _)

end

theorem accessEvent_cur (s : State) (t : Target) (n : Nat) (va : Word) (wr : Bool) : (s.accessEvent t n va wr).cur = s.cur := by
  have hpond (u : State) (k : Nat) : (u.pondEvent k wr).cur = u.cur := by
    unfold State.pondEvent
    split <;> rfl
  have hfold (f : State → Nat → RsvLine × Bool) (ls : List Nat) :
      (ls.foldl (fun (st : State) l => st.cacheEvent (f st l)) s).cur = s.cur :=
    foldl_keeps (P := fun st : State => st.cur = s.cur) (f := fun (st : State) l => st.cacheEvent (f st l)) (fun _ _ h => h) ls rfl
  unfold State.accessEvent
  split
  · split
    · exact hpond ..
    · split
      · exact hfold ..
      · rfl
  · split
    · exact hpond ..
    · exact hfold ..
  · rfl

theorem plainBytes_cur (s : State) (k : Nat) (slot : BitVec 7) (n : Nat) : (s.plainBytes k slot n).2.cur = s.cur := by
  unfold State.plainBytes
  dsimp only
  repeat' split
  all_goals rfl

theorem leased_cur (s : State) (k n : Nat) : (s.leased k n).cur = s.cur := by
  obtain ⟨L, m, h⟩ := loadTimes_eq s k n s.me.ctx.clock
  have hcur := congrArg State.cur h
  exact hcur

theorem loadTarget_cur (s : State) (va : Word) (t : Target) (n : Nat) : (loadTarget s va t n).2.cur = s.cur := by
  unfold loadTarget
  split
  · rfl
  · rfl
  · obtain ⟨L, m, h⟩ := hostTimes_eq s _ n s.me.ctx.clock
    have hcur := congrArg State.cur h
    exact hcur
  · exact leased_cur ..
  · split
    · rfl
    · exact (leased_cur ..).trans (plainBytes_cur ..)
  · rename_i fill
    dsimp only
    generalize hu : (if fill = true then s else _ : State) = u
    have hcur : u.cur = s.cur := by
      rw [← hu]
      split <;> rfl
    split
    · exact hcur
    · exact (leased_cur ..).trans hcur

theorem engLoad_cur (s : State) (va : Word) (t : Target) (n : Nat) (seed : Word) (step : BitVec 32) :
    (engLoad s va t n seed step).2.cur = s.cur := by
  unfold engLoad
  split
  · rfl
  · exact (loadTarget_cur ..).trans (accessEvent_cur ..)

/-- A read through a placer that keeps what is in focus keeps it. -/
theorem engRead_cur {pl : Placer} (hpl : ∀ s va kind, (pl s va kind).Leaves fun u => u.cur = s.cur) {s u : State} {va : Word}
    {n : Nat} {seed : Word} {step : BitVec 32} {bs : List Byte} (h : engRead pl s va n seed step = .ok bs u) : u.cur = s.cur := by
  unfold engRead at h
  split at h
  · exact absurd h nofun
  · exact absurd h nofun
  · rename_i ps s1 h1
    split at h
    · exact absurd h nofun
    · cases h
      refine foldl_keeps (P := fun acc : List Byte × State => acc.2.cur = s.cur) (fun acc p hacc => ?_) ps (placeAll_cur hpl h1)
      exact (engLoad_cur ..).trans hacc

/-! ## Passes (R327) -/

theorem fitsOut_of_free {x : Elem} (hemit : x.emit = []) (hout : x.out = []) (n : Nat) : x.fitsOut n = true := by
  unfold Elem.fitsOut
  rw [hemit, hout]
  by_cases h : n ≤ 2
  · simp [h]
  · simp [show 2 < n by omega]

/-- An address generator in focus, of an entry of the loop table, in a run that is not stopped. -/
structure State.Generates (s : State) (x : Elem) (l : LoopEntry) : Prop extends s.Clear x where
  loop : s.me.run.act.loops[agEntry s.cur.w]? = some l
  going : x.stopped = false

section

variable {s : State} {x : Elem} {l : LoopEntry} (h : s.Generates x l) {op : Nat} {k : LoopEntry → Elem → Res}

include h

theorem agStep_runs (hw : x.waiting = false) : agStep op s k = k l x := by
  unfold agStep
  dsimp only
  rw [h.loop, ← h.elem, h.open_, h.going, hw]
  rfl

theorem agStep_ended (hw : x.waiting = true) (hp : l.passes ≠ 0) (hb : l.passes ≤ x.bursts) : agStep op s k = .next s := by
  unfold agStep
  dsimp only
  rw [h.loop, ← h.elem, h.open_, h.going, hw]
  dsimp only
  rw [if_neg (by decide), if_neg (by decide)]
  exact if_pos (by simp [hp, hb])

theorem agStep_begins (hw : x.waiting = true) (hp : l.passes = 0 ∨ x.bursts < l.passes) (ht : s.cur.w.param.getLsbD 9 = false) :
    agStep op s k = .next (s.mapRun fun r => r.mapElem s.cur.elem fun _ => x.begin l s.me.ctx.nseed s.me.ctx.nstep) := by
  unfold agStep
  dsimp only
  rw [h.loop, ← h.elem, h.open_, h.going, hw, ht]
  dsimp only
  rw [if_neg (by decide), if_neg (by decide)]
  refine if_neg ?_
  rcases hp with hp | hp
  · simp [hp]
  · simp [Nat.not_le.2 hp]

end

/-! ## Units that are read: AGLOOP, AGLD and AGGATH -/

theorem consume_out (f : Fired) (v : FEnv) (o : Opd) : (f.consume v o).out = f.out := by
  unfold Fired.consume
  split <;> rfl

theorem dataToks_fenv {u s : State} (h : u.cur = s.cur) (ws : List (BitVec 32)) :
    dataToks (u.fenv 0 0) ws = ws.map fun y => leaves s.cur.w (.data (y.setWidth 64)) := by
  rw [← h]
  rfl

section

variable {s : State} {x : Elem} {l : LoopEntry} (h : s.Generates x l) (hw : x.waiting = false)

include h hw

theorem agloop_emits : exec .agloop s = .next (s.fire 0x38 ⟨x.nextUnit l,
    [leaves s.cur.w (.data ((BitVec.ofInt 32 (x.offset l)).setWidth 64))], 0, [], s.me.run.ident, []⟩) := by
  rw [exec_agloop, execAgloop, agStep_runs h hw]
  exact if_pos (fits_of_free h.emit h.out _)

theorem agld_misaligned (ha : (agAddr s l x).toNat % 4 ≠ 0) :
    exec .agld s = .next (s.elemFault s.cur.elem 0x03 (agAddr s l x) x.ctr) := by
  rw [exec_agld, execAgld, agStep_runs h hw]
  dsimp only
  rw [fitsOut_of_free h.emit h.out, if_neg (by decide)]
  exact if_pos ha

/-- AGLD emits the words of the unit that it has read. -/
theorem agld_reads (ha : (agAddr s l x).toNat % 4 = 0) (hat : s.cur.w.param.getLsbD 8 = false) {bs : List Byte} {u : State}
    (hr : engRead (latchPlace s.cur.elem) s (agAddr s l x) (4 * l.usz) x.nseed x.nstep = .ok bs u) :
    ∃ f, exec .agld s = .next (u.fire 0x39 f) ∧
      f.out = (words32 bs).map fun y => leaves s.cur.w (.data (y.setWidth 64)) := by
  refine ⟨(fired (u.fenv 0 0) ((u.me.run.elem s.cur.elem).nextUnit l)).emit (dataToks (u.fenv 0 0) (words32 bs)), ?_,
    dataToks_fenv (engRead_cur (leaves_latchPlace _) hr) _⟩
  rw [exec_agld, execAgld, agStep_runs h hw]
  dsimp only
  rw [fitsOut_of_free h.emit h.out, if_neg (by decide), if_neg (not_not.2 ha), hr]
  exact if_neg (by rw [hat]; decide)

theorem aggath_waits (ha : x.a = []) : exec .aggath s = .next s := by
  rw [exec_aggath, execAggath, agStep_runs h hw]
  dsimp only
  rw [head_nil (o := .a) ha]

section

variable {a : Word} {ta : Nat} {la : List InTok} (ha : x.a = ⟨.data a, ta⟩ :: la) {va : Word}
  (hva : va = s.me.run.act.base + BitVec.ofInt 64 (l.offset + ((a.toNat % 2 ^ 32 * 2 ^ l.esz : Nat) : Int)))

include ha hva

theorem aggath_beyond (hlim : l.lim ≤ a.toNat % 2 ^ 32) :
    exec .aggath s = .next (s.elemFault s.cur.elem 0x05 va [x.cnt]) := by
  subst hva
  rw [exec_aggath, execAggath, agStep_runs h hw]
  dsimp only
  rw [head_data (o := .a) ha]
  dsimp only [tokWord]
  rw [fitsOut_of_free h.emit h.out, if_neg (by decide), BitVec.toNat_setWidth]
  exact if_pos hlim

/-- AGGATH emits the words of the element that its index names. -/
theorem aggath_reads (hlim : a.toNat % 2 ^ 32 < l.lim) (hal : va.toNat % min (2 ^ l.esz) 8 = 0) {bs : List Byte} {u : State}
    (hr : engRead (latchPlace s.cur.elem) s va (2 ^ l.esz) x.nseed x.nstep = .ok bs u) :
    ∃ f, exec .aggath s = .next (u.fire 0x3C f) ∧
      f.out = (words32 bs).map fun y => leaves s.cur.w (.data (y.setWidth 64)) := by
  subst hva
  refine ⟨((fired (s.fenv 0 0) ((u.me.run.elem s.cur.elem).nextIndex l)).consume (s.fenv 0 0) .a).emit
    (dataToks (s.fenv 0 0) (words32 bs)), ?_, ?_⟩
  · rw [exec_aggath, execAggath, agStep_runs h hw]
    dsimp only
    rw [head_data (o := .a) ha]
    dsimp only [tokWord]
    rw [fitsOut_of_free h.emit h.out, if_neg (by decide), BitVec.toNat_setWidth, if_neg (Nat.not_le.2 hlim), if_neg (not_not.2 hal),
      hr]
  · exact (congrArg (· ++ dataToks (s.fenv 0 0) (words32 bs)) (consume_out ..)).trans (dataToks_fenv rfl _)

end

end

/-! ## Units that are collected: AGST and AGRED -/

section

variable {s : State} {x : Elem} {l : LoopEntry} (h : s.Generates x l) {op align : Nat} {atoms : Bool}
  {wr : State → Word → List Byte → EngRes Unit}

include h

theorem agSink_steps (hctl : x.ctl? .a = none) {r : Res} (hr : ∀ k, agStep op s k = r) :
    agSink op atoms align s wr = r := by
  unfold agSink
  dsimp only
  rw [← h.elem, hctl]
  exact hr _

variable (hw : x.waiting = false)

include hw

section

variable (hctl : x.ctl? .a = none) (hfull : l.usz ≤ x.stage.length)

include hctl hfull

theorem agSink_misaligned (ha : (agAddr s l x).toNat % align ≠ 0) :
    agSink op atoms align s wr = .next (s.elemFault s.cur.elem tcALIGN (agAddr s l x) x.ctr) := by
  unfold agSink
  dsimp only
  rw [← h.elem, hctl]
  dsimp only
  rw [agStep_runs h hw, if_pos hfull]
  exact congrArg Host.Outcome.next (if_pos ha)

theorem agSink_writes (ha : (agAddr s l x).toNat % align = 0) {u : State}
    (hwr : wr s (agAddr s l x) (stageBytes x.stage l.usz) = .ok () u) : agSink op atoms align s wr =
      .next (u.mapRun fun r => r.mapElem s.cur.elem fun y => { y.nextUnit l with stage := [] }) := by
  unfold agSink
  dsimp only
  rw [← h.elem, hctl]
  dsimp only
  rw [agStep_runs h hw, if_pos hfull, if_neg (not_not.2 ha), hwr]

end

theorem agSink_waits (ha : x.a = []) (hshort : x.stage.length < l.usz) : agSink op atoms align s wr = .next s := by
  unfold agSink
  dsimp only
  rw [← h.elem, ctl?_nil (o := .a) ha]
  dsimp only
  rw [agStep_runs h hw, if_neg (Nat.not_le.2 hshort), head_nil (o := .a) ha]

/-- A word that does not complete the unit is collected. -/
theorem agSink_takes {a : Word} {ta : Nat} {la : List InTok} (ha : x.a = ⟨.data a, ta⟩ :: la)
    (hshort : x.stage.length + 1 < l.usz) : ∃ f, agSink op atoms align s wr = .next (s.fire op f) ∧ f.e.a = la ∧ f.out = [] ∧
      f.e.stage = x.stage ++ [if (atoms && !hdrLong x.ia.hdr && x.ia.due == 1) = true then (a.setWidth 16).setWidth 64 else a] := by
  obtain ⟨y, hy, hya, hst⟩ : ∃ y, agTake atoms (.data a) x = some y ∧ y.a = x.a ∧ y.stage = x.stage ++
      [if (atoms && !hdrLong x.ia.hdr && x.ia.due == 1) = true then (a.setWidth 16).setWidth 64 else a] := ⟨_, rfl, rfl, rfl⟩
  have hlen : y.stage.length = x.stage.length + 1 := by rw [hst, List.length_append, List.length_singleton]
  have hcons := consume_cons (f := fired (s.fenv 0 0) y) (o := .a) (s.fenv 0 0) (hya.trans ha)
  refine ⟨(fired (s.fenv 0 0) y).consume (s.fenv 0 0) .a, ?_, by rw [hcons]; rfl, by rw [hcons]; rfl, by rw [hcons]; exact hst⟩
  unfold agSink
  dsimp only
  rw [← h.elem, ctl?_data (o := .a) ha]
  dsimp only
  rw [agStep_runs h hw, if_neg (by omega), head_data (o := .a) ha]
  dsimp only
  rw [hy]
  dsimp only
  exact if_neg (by simp [hlen, hshort])

end

theorem agWrite_ordinary {s : State} {e : Nat} {va : Word} {bs : List Byte} (hdet : s.me.eff.det = false) :
    agWrite e s va bs = engWrite (latchPlace e) s va bs := by
  unfold agWrite
  exact if_pos (by rw [hdet]; rfl)

/-- AGST collects for a write of its unit. -/
theorem agst_sinks (s : State) : ∃ wr : State → Word → List Byte → EngRes Unit,
    exec .agst s = agSink 0x3A (s.cur.w.param.getLsbD 8) 4 s wr ∧
      ∀ {va bs c u}, agWrite s.cur.elem s va bs = .ok c u → wr s va bs = .ok () u := by
  rw [exec_agst, execAgst]
  refine ⟨_, rfl, fun h => ?_⟩
  simp only [h]

/-- AGRED collects for a combination of its unit. -/
theorem agred_sinks (s : State) : ∃ wr : State → Word → List Byte → EngRes Unit,
    exec .agred s = agSink 0x3B false (ropAlign (agRop s.cur.w)) s wr ∧
      ∀ {va bs r u}, engReduce (latchPlace s.cur.elem) s va (agRop s.cur.w) 0 bs = .ok r u → wr s va bs = .ok () u := by
  rw [exec_agred, execAgred]
  refine ⟨_, rfl, fun h => ?_⟩
  simp only [h]

/-- The address generators. -/
def agInstrs : List Instr := [.agloop, .agld, .agst, .agred, .aggath]

/-- With nothing at A, an address generator whose pass has not begun does as its pass has it. -/
theorem exec_agInstrs {s : State} {x : Elem} {l : LoopEntry} (h : s.Generates x l) (ha : x.a = [])
    {r : Res} (hr : ∀ op k, agStep op s k = r) {i : Instr} (hi : i ∈ agInstrs) : exec i s = r := by
  have hctl : x.ctl? .a = none := ctl?_nil (o := .a) ha
  obtain ⟨wst, hst, -⟩ := agst_sinks s
  obtain ⟨wrd, hrd, -⟩ := agred_sinks s
  simp only [agInstrs, List.mem_cons, List.not_mem_nil, or_false] at hi
  rcases hi with rfl | rfl | rfl | rfl | rfl
  · exact (exec_agloop s).trans (hr ..)
  · exact (exec_agld s).trans (hr ..)
  · exact hst.trans (agSink_steps h hctl (hr 0x3A))
  · exact hrd.trans (agSink_steps h hctl (hr 0x3B))
  · exact (exec_aggath s).trans (hr ..)

theorem nextUnit_eq (x : Elem) (l : LoopEntry) : x.nextUnit l =
    if (nextIter x.ctr l.counts).2 then { x with waiting := true, ctr := [], cnt := 0, bursts := x.bursts + 1 }
    else { x with ctr := (nextIter x.ctr l.counts).1 } := rfl

/-- Settles O44: a pass that begins or has ended, then each generator by its unit. -/
theorem addressGenerators : Obligations.AddressGenerators := by
  unfold Obligations.AddressGenerators
  rintro s x w l off va next hx rfl hl hg hstop hemit hout rfl rfl rfl
  have h : s.Generates x l := ⟨⟨hx, hg, hemit, hout⟩, hl, hstop⟩
  rw [← nextUnit_eq]
  obtain ⟨wst, hst, hst'⟩ := agst_sinks s
  obtain ⟨wrd, hrd, hrd'⟩ := agred_sinks s
  refine ⟨fun hw hp ht ha i hi => exec_agInstrs h ha (fun _ _ => agStep_begins h hw hp ht) hi,
    fun hw hp hb ha i hi => exec_agInstrs h ha (fun _ _ => agStep_ended h hw hp hb) hi,
    fun hw => ⟨agloop_emits h hw, agld_misaligned h hw, fun ha hat bs u hr => agld_reads h hw ha hat hr, fun ha hfull => ?_,
      fun ha hshort => ⟨hst.trans (agSink_waits h hw ha hshort), hrd.trans (agSink_waits h hw ha hshort), aggath_waits h hw ha⟩,
      fun a ta la ia ha hia => ⟨aggath_beyond h hw ha hia, fun hlim hal bs u hr => aggath_reads h hw ha hia hlim hal hr,
        fun hshort => ?_⟩⟩⟩
  · have hctl : x.ctl? .a = none := ctl?_nil (o := .a) ha
    exact ⟨fun hal => hst.trans (agSink_misaligned h hw hctl hfull hal),
      fun hal hdet clk u hwr => hst.trans (agSink_writes h hw hctl hfull hal (hst' ((agWrite_ordinary hdet).trans hwr))),
      fun hal r u hred => hrd.trans (agSink_writes h hw hctl hfull hal (hrd' hred))⟩
  · obtain ⟨f, hf, hfa, hfo, hstage⟩ := agSink_takes (op := 0x3A) (align := 4) (wr := wst) h hw ha hshort
    obtain ⟨g, hg, hga, hgo, hgstage⟩ := agSink_takes (op := 0x3B) (wr := wrd) h hw ha hshort
    refine ⟨⟨f, hst.trans hf, hfa, hfo, hstage.trans ?_⟩, ⟨g, hrd.trans hg, hga, hgo, hgstage⟩⟩
    simp [and_assoc]

end Sys2Proof.Machine

end

/-!
SUPPORT. Control tokens, links, tags and the ingress meter (R279, R294 to R298, R389).
-/
section

namespace Sys2Proof.Machine

/-! ## Control tokens (R297, R298) -/

/-- The outputs of an element, one bit a direction. -/
def sides (w : Word) : BitVec 4 := (outDirs w).foldl (fun a d => a ||| BitVec.ofNat 4 (2 ^ d)) 0

theorem getLsbD_sideBit {d i : Nat} (hi : i < 4) : (BitVec.ofNat 4 (2 ^ d)).getLsbD i = (i == d) := by
  rw [BitVec.getLsbD_ofNat, Nat.testBit_two_pow, decide_eq_true hi, Bool.true_and]
  exact decide_eq_decide.2 eq_comm

theorem getLsbD_foldl_sideBit (l : List Nat) (a : BitVec 4) {i : Nat} (hi : i < 4) :
    (l.foldl (fun a d => a ||| BitVec.ofNat 4 (2 ^ d)) a).getLsbD i = (a.getLsbD i || l.contains i) := by
  induction l generalizing a with
  | nil => exact (Bool.or_false _).symm
  | cons d l ih => rw [List.foldl_cons, ih, BitVec.getLsbD_or, getLsbD_sideBit hi, List.contains_cons, Bool.or_assoc]

theorem getLsbD_sides (w : Word) {d : Nat} (hd : d < 4) : (sides w).getLsbD d = (outDirs w).contains d :=
  (getLsbD_foldl_sideBit _ _ hd).trans (by simp)

theorem outDirs_lt {w : Word} {d : Nat} (h : d ∈ outDirs w) : d < 4 := by
  have hdirs {d : Nat} (h : d ∈ (List.range 4).filter fun i => (eFields w).dirs.getLsbD i) : d < 4 :=
    List.mem_range.1 (List.mem_filter.1 h).1
  have hfwd {b : Bool} {n d : Nat} (h : d ∈ if b = true then [n % 4] else []) : d < 4 := by
    cases b with
    | false => exact absurd h List.not_mem_nil
    | true => exact (List.mem_singleton.1 h).trans_lt (Nat.mod_lt _ (by decide))
  unfold outDirs at h
  dsimp only at h
  split at h
  · rcases List.mem_append.1 h with h | h
    · exact (List.mem_append.1 h).elim hdirs hfwd
    · exact hfwd h
  · split at h
    · exact (List.mem_append.1 h).elim hdirs (hfwd (b := true))
    · exact hdirs h

theorem sides_ne_zero {w : Word} (h : outDirs w ≠ []) : sides w ≠ 0#4 := by
  obtain ⟨d, hd⟩ := List.exists_mem_of_ne_nil _ h
  intro h0
  have hbit := getLsbD_sides w (outDirs_lt hd)
  rw [h0, BitVec.getLsbD_zero, List.contains_iff_mem.2 hd] at hbit
  exact Bool.false_ne_true hbit

/-- A control token that passes an element, on all of its outputs. -/
def FEnv.passed (v : FEnv) (op : Nat) (w : Word) (t : Tok) : List OutTok :=
  if sides w = 0 && !(isBolter op && v.w.dirs == 0) then [] else [⟨t, sides w, isBolter op && v.w.dirs == 0, (opdOf v.w 7).isSome⟩]

theorem passed_sides {w : Word} (h : outDirs w ≠ []) (v : FEnv) (op : Nat) (t : Tok) :
    v.passed op w t = [⟨t, sides w, isBolter op && v.w.dirs == 0, (opdOf v.w 7).isSome⟩] :=
  if_neg (by simp [sides_ne_zero h])

theorem passed_length (v : FEnv) (op : Nat) (w : Word) (t : Tok) : (v.passed op w t).length ≤ 2 := by
  unfold FEnv.passed
  split
  · exact Nat.zero_le _
  · exact Nat.le_succ 1

theorem passOut_ctl {v : FEnv} {op : Nat} (hcell : isCell op = false) (w : Word) {f : Fired} {o : Opd} {c : Ctl} {id : BitVec 16}
    {n : Nat} {l : List InTok} (h : f.e.slot o = ⟨.ctl c id, n⟩ :: l) : passOut v op w (.ctl c id) (f.consume v o) =
      if f.e.ids.contains id then { f with e := f.e.setSlot o l }
      else { f with e := (f.e.setSlot o l).noteId id, out := f.out ++ v.passed op w (.ctl c id) } := by
  unfold passOut Fired.forward Elem.forwards
  rw [hcell, consume_cons v h]
  dsimp only
  rw [if_neg Bool.false_ne_true, ids_setSlot]
  cases f.e.ids.contains id <;> rfl

theorem placed_nil {f : Fired} (h : f.out = []) : f.placed = f.e := by
  unfold Fired.placed
  simp [h]

theorem placed_clear {f : Fired} (hout : f.e.out = []) (hemit : f.e.emit = []) (h : f.out.length ≤ 2) :
    f.placed = { f.e with out := f.out } := by
  unfold Fired.placed
  simp [hout, hemit, List.take_of_length_le h, List.drop_of_length_le h]

theorem out_setSlot (e : Elem) (o : Opd) (l : List InTok) : (e.setSlot o l).out = e.out := by
  cases o <;> rfl

theorem emit_setSlot (e : Elem) (o : Opd) (l : List InTok) : (e.setSlot o l).emit = e.emit := by
  cases o <;> rfl

theorem latches_setSlot (e : Elem) (o : Opd) (l : List InTok) : (e.setSlot o l).latches = e.latches := by
  cases o <;> rfl

theorem slot_setSlot_self (e : Elem) (o : Opd) (l : List InTok) : (e.setSlot o l).slot o = l := by
  cases o <;> rfl

theorem tokenCame_mem (s : State) (e : Nat) (c : Ctl) : (s.tokenCame e c).mem = s.mem := by
  unfold State.tokenCame
  split
  · dsimp only
    split <;> rfl
  · rfl

theorem ctlAct_mem (s : State) (e : Nat) (c : Ctl) (id : BitVec 16) : (s.ctlAct e c id).mem = s.mem := by
  cases c with
  | relatch page sz => exact tokenCame_mem ..
  | _ => rfl

theorem ctlAct_relatch (s : State) (e : Nat) (page : Word) (sz : BitVec 2) (id : BitVec 16) :
    (s.ctlAct e (.relatch page sz) id).me.run =
      s.me.run.mapElem e fun x => { x with latches := x.latches.filter fun l => !inPage page sz l } :=
  congrArg (fun m : Task => m.run.mapElem e fun x => { x with latches := x.latches.filter fun l => !inPage page sz l })
    (tokenCame_me s e (.relatch page sz))

theorem ctlAct_relatch_deps (s : State) (e : Nat) (page : Word) (sz : BitVec 2) (id : BitVec 16) :
    (s.ctlAct e (.relatch page sz) id).me.run.deps = s.me.run.deps :=
  (congrArg Run.deps (ctlAct_relatch ..)).trans rfl

theorem ctlAct_elems (s : State) (e : Nat) (c : Ctl) (id : BitVec 16) :
    (s.ctlAct e c id).me.run.elems.length = s.me.run.elems.length := by
  cases c with
  | relatch page sz => rw [ctlAct_relatch, mapElem_elems_length]
  | _ => rfl

section

variable {s : State} {e : Nat} {x : Elem} (he : e = s.cur.elem) (hx : x = s.me.run.elem e) (hg : s.me.run.gated = false)
  {c : Ctl} {id : BitVec 16} {ta : Nat} {rest : List InTok} (hslot : x.slot s.cur.arg.opd = ⟨.ctl c id, ta⟩ :: rest)
  (hobs : (Tok.ctl c id).observes = true) (hout : x.out = []) (hemit : x.emit = [])
  (hcell : isCell (eOp (s.me.run.act.wordOf e)).toNat = false)

include he hx hg hslot hobs hout hemit hcell

theorem controlTokenPass_takes {f : Fired} {v : FEnv} (hv : v = { s.fenv 0 0 with w := eFields (s.me.run.act.wordOf e) })
    (hf : f = if x.ids.contains id then ⟨x.setSlot s.cur.arg.opd rest, [], 0, [], s.me.run.ident, []⟩
      else ⟨(x.setSlot s.cur.arg.opd rest).noteId id, v.passed (eOp (s.me.run.act.wordOf e)).toNat (s.me.run.act.wordOf e)
        (.ctl c id), 0, [], s.me.run.ident, []⟩) :
    exec .controlTokenPass s = .next ((if x.forwards id then s.ctlAct e c id else s).mapRun fun r =>
      r.mapElem e fun y => { f.placed with latches := y.latches }) := by
  have hpass : passOut v (eOp (s.me.run.act.wordOf e)).toNat (s.me.run.act.wordOf e) (.ctl c id)
      ((fired v x).consume v s.cur.arg.opd) = f := by
    rw [hf, passOut_ctl hcell _ (f := fired v x) hslot, hv]
    rfl
  subst he
  rw [exec_controlTokenPass, execControlTokenPass]
  dsimp only
  rw [← hx, hslot]
  dsimp only
  rw [hg, hobs, ← hv, hpass, fits_of_free hemit hout]
  rfl

/-- A token of an identity that the element has forwarded is taken and goes no further. -/
theorem controlTokenPass_ends (hid : x.ids.contains id = true) : exec .controlTokenPass s = .next (s.mapRun fun r =>
    r.mapElem e fun y => { x.setSlot s.cur.arg.opd rest with latches := y.latches }) := by
  rw [controlTokenPass_takes he hx hg hslot hobs hout hemit hcell rfl rfl, hid, if_pos rfl, placed_nil rfl, Elem.forwards, hid]
  rfl

/-- A token of a new identity acts on the element and leaves by all of its outputs. -/
theorem controlTokenPass_forwards (hid : x.ids.contains id = false) : ∃ v : FEnv, exec .controlTokenPass s =
    .next ((s.ctlAct e c id).mapRun fun r => r.mapElem e fun y => { (x.setSlot s.cur.arg.opd rest).noteId id with
      out := v.passed (eOp (s.me.run.act.wordOf e)).toNat (s.me.run.act.wordOf e) (.ctl c id), latches := y.latches }) := by
  refine ⟨{ s.fenv 0 0 with w := eFields (s.me.run.act.wordOf e) }, ?_⟩
  rw [controlTokenPass_takes he hx hg hslot hobs hout hemit hcell rfl rfl, hid, if_neg Bool.false_ne_true,
    placed_clear ((out_setSlot ..).trans hout) ((emit_setSlot ..).trans hemit) (passed_length ..), Elem.forwards, hid]
  rfl

end

/-! ## Links (R294) -/

theorem deliver_full {r : Run} {x src : Nat} {t : Tok} {now : Nat} {o : Opd} (ho : opdOf (eFields (r.act.wordOf x)) src = some o)
    (h : 2 ≤ ((r.elem x).slot o).length) : r.deliver x src t now = none := by
  unfold Run.deliver
  rw [ho]
  exact if_neg fun hroom => Nat.not_lt.2 h (of_decide_eq_true hroom)

theorem deliver_room {r : Run} {x src : Nat} {t : Tok} {now : Nat} {o : Opd} (ho : opdOf (eFields (r.act.wordOf x)) src = some o)
    (h : ((r.elem x).slot o).length < 2) : r.deliver x src t now = some (r.mapElem x fun y => y.arrive o t now) := by
  unfold Run.deliver
  rw [ho]
  exact if_pos (decide_eq_true h)

theorem slot_arrive (e : Elem) (o : Opd) (t : Tok) (now : Nat) : (e.arrive o t now).slot o = e.slot o ++ [⟨t, now⟩] :=
  slot_setSlot_self ..

theorem slot_sent (r : Run) (e i : Nat) (f : OutTok → Option OutTok) (now : Nat) {k : Nat} (hk : k < r.elems.length) (o : Opd) :
    ((r.sent e i f now).elem k).slot o = (r.elem k).slot o := by
  unfold Run.sent
  by_cases h : k = e
  · subst h
    rw [elem_mapElem_self _ hk]
    cases o <;> rfl
  · rw [elem_mapElem_ne _ _ h]

/-- The only token of an element's outputs has left by its last direction: what waited takes the slots. -/
theorem out_sent {r : Run} {e : Nat} (he : e < r.elems.length) {o : OutTok} (ho : (r.elem e).out = [o]) {f : OutTok → Option OutTok}
    (hf : f o = none) (now : Nat) : ((r.sent e 0 f now).elem e).out = (r.elem e).emit.take 2 := by
  unfold Run.sent
  rw [elem_mapElem_self _ he]
  unfold Elem.refill
  dsimp only
  rw [ho, updTok, hf]
  rfl

/-- An arrival leaves the outputs of every element. -/
theorem arrive_outputs (r : Run) (x e : Nat) (o : Opd) (t : Tok) (now : Nat) (he : e < r.elems.length) :
    ((r.mapElem x fun y => y.arrive o t now).elem e).out = (r.elem e).out ∧
      ((r.mapElem x fun y => y.arrive o t now).elem e).emit = (r.elem e).emit := by
  by_cases h : e = x
  · subst h
    rw [elem_mapElem_self _ he]
    exact ⟨out_setSlot .., emit_setSlot ..⟩
  · rw [elem_mapElem_ne _ _ h]
    exact ⟨rfl, rfl⟩

theorem without_last {o : OutTok} {d : Nat} (hd : o.dirs = BitVec.ofNat 4 (2 ^ d)) (hq : o.quad = false) (hs : o.self = false) :
    o.without d = none := by
  unfold OutTok.without
  rw [hd, hq, hs, BitVec.and_not_self]
  rfl

section

variable {s : State} {e nb : Nat} {dir : BitVec 2} {o : OutTok} (hg : s.me.run.gated = false) (hl : s.cur.arg.lend = .out e dir)
  (ho : (s.me.run.elem e).out = [o]) (hd : o.dirs = BitVec.ofNat 4 (2 ^ dir.toNat))
  (hnb : neighbour s.me.lanes e dir.toNat = some nb)

include hg hl ho hd hnb

/-- The token of the element's one output slot goes where its neighbour takes it. -/
theorem linkTransfer_out : exec .tokenLinkTransfer s =
    .next (((s.me.run.deliver nb (opposite dir.toNat + 1) o.tok s.time).map fun r =>
      s.mapRun fun _ => r.sent e 0 (fun y => y.without dir.toNat) s.time).getD s) := by
  have hbit : o.dirs.getLsbD dir.toNat = true := by
    rw [hd, getLsbD_sideBit dir.isLt]
    exact beq_self_eq_true _
  have hfind : findOut (fun t => t.dirs.getLsbD dir.toNat) [o] = some (0, o) := by
    unfold findOut findIdx
    rw [if_pos hbit]
    rfl
  rw [exec_tokenLinkTransfer, execTokenLinkTransfer]
  dsimp only
  rw [hg, hl, if_neg Bool.false_ne_true]
  dsimp only
  rw [ho, hfind]
  dsimp only
  rw [hnb]
  dsimp only
  cases s.me.run.deliver nb (opposite dir.toNat + 1) o.tok s.time <;> rfl

theorem linkTransfer_stays {p : Opd} (hp : opdOf (eFields (s.me.run.act.wordOf nb)) (opposite dir.toNat + 1) = some p)
    (hfull : 2 ≤ ((s.me.run.elem nb).slot p).length) : exec .tokenLinkTransfer s = .next s := by
  rw [linkTransfer_out hg hl ho hd hnb, deliver_full hp hfull, Option.map_none, Option.getD_none]

theorem linkTransfer_crosses {p : Opd} (hp : opdOf (eFields (s.me.run.act.wordOf nb)) (opposite dir.toNat + 1) = some p)
    (hroom : ((s.me.run.elem nb).slot p).length < 2) : exec .tokenLinkTransfer s = .next (s.mapRun fun _ =>
      (s.me.run.mapElem nb fun y => y.arrive p o.tok s.time).sent e 0 (fun y => y.without dir.toNat) s.time) := by
  rw [linkTransfer_out hg hl ho hd hnb, deliver_room hp hroom, Option.map_some, Option.getD_some]

end

theorem fromPort_one {s : State} {p nb : Nat} {tok : Tok} {o : Opd} (hq : (s.me.run.port p).inq = [(tok, 1)])
    (hdeal : (s.me.run.decl p).deal = false) (hfed : s.me.run.act.fed s.me.lanes p 0 false = some nb)
    (ho : opdOf (eFields (s.me.run.act.wordOf nb)) 5 = some o) (hroom : ((s.me.run.elem nb).slot o).length < 2) :
    s.fromPort p = s.mapRun fun _ => ((s.me.run.mapElem nb fun y => y.arrive o tok s.time).mapPort p fun x =>
      { x with inq := [] }).enterFree (s.die (dieOf s.me.mill)) := by
  unfold State.fromPort
  dsimp only
  rw [hq, hdeal]
  dsimp only
  rw [if_neg Bool.false_ne_true, List.foldl_cons, List.foldl_nil]
  simp only [hfed, deliver_room ho hroom]
  rfl

/-- A token at an input port that is not dealt goes to the operand that the port feeds. -/
theorem linkTransfer_port {s : State} {p nb : Nat} {tok : Tok} {o : Opd} (hg : s.me.run.gated = false)
    (hl : s.cur.arg.lend = .port p) (hq : (s.me.run.port p).inq = [(tok, 1)]) (hdeal : (s.me.run.decl p).deal = false)
    (hfed : s.me.run.act.fed s.me.lanes p 0 false = some nb) (ho : opdOf (eFields (s.me.run.act.wordOf nb)) 5 = some o)
    (hroom : ((s.me.run.elem nb).slot o).length < 2) : exec .tokenLinkTransfer s = .next (s.mapRun fun _ =>
      ((s.me.run.mapElem nb fun y => y.arrive o tok s.time).mapPort p fun x => { x with inq := [] }).enterFree
        (s.die (dieOf s.me.mill))) := by
  rw [exec_tokenLinkTransfer, execTokenLinkTransfer]
  dsimp only
  rw [hg, hl, if_neg Bool.false_ne_true]
  exact congrArg Host.Outcome.next (fromPort_one hq hdeal hfed ho hroom)

/-! ## Tags (R279) -/

section

variable {s : State} {ch : BitVec 12} {tag : Word} {seq : BitVec 32} {ipc : Word} {id : BitVec 16} {rest : List (Nat × Tok)}
  {h : Chan} (hq : (s.me.run.port s.cur.arg.n).ctlq = (0, .ctl (.tag ch tag seq ipc) id) :: rest)

include hq

theorem tokenChannelPush_held (hc : ∃ c ∈ s.me.cmds, c.portNo = s.cur.arg.n ∧ c.slotInFlight = true) :
    exec .tokenChannelPush s = .next s := by
  obtain ⟨c, hc, hp, hf⟩ := hc
  rw [exec_tokenChannelPush, execTokenChannelPush]
  dsimp only
  rw [hq]
  exact if_pos (List.any_eq_true.2 ⟨c, hc, by rw [hp, hf, beq_self_eq_true]; rfl⟩)

/-- A tag that no slot holds back pushes where the channel has room. -/
theorem tokenChannelPush_due (hx : s.myChan ch = some h) (hopen : s.consumerClosed h = false)
    (hc : ∀ c ∈ s.me.cmds, c.portNo = s.cur.arg.n → c.slotInFlight = false) : ∃ k, exec .tokenChannelPush s =
      if s.chanRoom h 1 then .next ((s.push ch [⟨tag, false, k⟩]).mapRun fun r =>
        r.mapPort s.cur.arg.n fun y => { y with ctlq := rest })
      else .next s := by
  have hnone : (s.me.cmds.any fun c => c.portNo == s.cur.arg.n && c.slotInFlight) = false :=
    List.any_eq_false.2 fun c hm hb => by
      obtain ⟨hp, hf⟩ := (Bool.and_eq_true ..).mp hb
      exact Bool.false_ne_true ((hc c hm (eq_of_beq hp)).symm.trans hf)
  refine ⟨s.me.cmds.foldl (fun m c => if c.ports.contains s.cur.arg.n then max m c.wclk else m) 0, ?_⟩
  rw [exec_tokenChannelPush, execTokenChannelPush]
  dsimp only
  simp only [hq, hnone, Bool.false_eq_true, if_false, pushTag_open hx hopen]
  cases s.chanRoom h 1 <;> rfl

end

/-! ## The ingress meter (R389) -/

theorem igCost_eq (d : Die) (cls : BitVec 2) : igCost d cls =
    256 * min (d.igwt.extractLsb' (8 * cls.toNat) 8).toNat (d.igctl.extractLsb' 32 24).toNat := by
  rw [toNat_slice, toNat_slice]
  rfl

theorem die_mapTask (s : State) (t : TaskId) (f : Task → Task) (n : Nat) : (s.mapTask t f).die n = s.die n := rfl

theorem toNat_sub_ofNat {w n : Nat} {v : BitVec w} (h : n ≤ v.toNat) : (v - BitVec.ofNat w n).toNat = v.toNat - n := by
  have hn : (BitVec.ofNat w n).toNat = n := by rw [BitVec.toNat_ofNat, Nat.mod_eq_of_lt (h.trans_lt v.isLt)]
  rw [BitVec.toNat_sub_of_le (BitVec.le_def.2 (hn.trans_le h)), hn]

/-- One offer: a port that LEVEL does not cover keeps the turn, one that it covers takes its tokens and passes the turn on. -/
theorem igRun_one {s : State} {n k p : Nat} {i : TaskId} {y : Task} {u : Die} (hy : s.task? i = some y) (hu : s.die n = u)
    {cost : Nat} (hc : cost = igCost u (y.run.port p).cls) : ∃ t, igRun n [(k, i, p)] s = t ∧ t.mem = s.mem ∧
      (u.iglevel.toNat < cost → (t.die n).iglevel = u.iglevel ∧ (t.die n).igptr = k) ∧
      (cost ≤ u.iglevel.toNat → (t.die n).iglevel.toNat = u.iglevel.toNat - cost ∧ (t.die n).igptr = k + 1) := by
  have hrun : igRun n [(k, i, p)] s = if u.iglevel.toNat < cost then
        (s.setDie n { u with igptr := k }).mapTask i fun x => { x with ctx := x.ctx.count 0x016 1 }
      else (s.setDie n { u with iglevel := u.iglevel - BitVec.ofNat 48 cost, igptr := k + 1 }).mapTask i fun x =>
        { x with run := x.run.mapPort p fun y => y.meterWord (x.run.decl p).deal } := by
    rw [igRun, hu, hy, hc]
    rfl
  rw [hrun]
  refine ⟨_, rfl, ?_⟩
  by_cases h : u.iglevel.toNat < cost
  · rw [if_pos h, die_mapTask, die_setDie]
    exact ⟨rfl, fun _ => ⟨rfl, rfl⟩, fun hge => absurd h (Nat.not_lt.2 hge)⟩
  · rw [if_neg h, die_mapTask, die_setDie]
    exact ⟨rfl, fun hlt => absurd hlt h, fun hge => ⟨toNat_sub_ofNat hge, rfl⟩⟩

/-- One cycle of the meter: what is free enters, LEVEL grows by RATE, and the offers are metered. -/
theorem ingressMeter_on {s : State} {n : Nat} {d u : Die} {r : State} (hn : n = s.cur.arg.n) (hd : d = s.die n)
    (hr : r = s.mapTasks (fun y => y.isPlaced && dieOf y.mill == n && !y.run.gated) (fun y => { y with run := y.run.enterFree d }))
    (hen : d.igctl.getLsbD 0 = true) (hu : u = { d with
      iglevel := BitVec.ofNat 48 (min (d.iglevel.toNat + (d.igctl.extractLsb' 16 16).toNat)
        (256 * (d.igctl.extractLsb' 32 24).toNat)) }) :
    exec .ingressMeter s = .next (igRun n (igOffers (r.setDie n u) n u) (r.setDie n u)) := by
  rw [toNat_slice, toNat_slice] at hu
  subst hn hd hr hu
  rw [exec_ingressMeter, execIngressMeter]
  exact if_neg (by rw [igEn, bitAt, hen]; decide)

theorem ingressMeter_off {s : State} (hen : (s.die s.cur.arg.n).igctl.getLsbD 0 = false) : exec .ingressMeter s =
    .next (s.mapTasks (fun y => y.isPlaced && dieOf y.mill == s.cur.arg.n && !y.run.gated) fun y =>
      { y with run := y.run.enterFree (s.die s.cur.arg.n) }) := by
  rw [exec_ingressMeter, execIngressMeter]
  exact if_pos (by rw [igEn, bitAt, hen]; rfl)

/-- Settles O46: control tokens, links, ports, tags and the meter, each by its own rule. -/
theorem tokensInMotion : Obligations.TokensInMotion := by
  unfold Obligations.TokensInMotion
  rintro s e x w he hx rfl hg hlen
  refine ⟨fun c id ta rest hslot hobs hout hemit hcell => ?_,
    fun dir o nb p hl ho hd hq hs hnb hnlen hp => ⟨fun hfull => ?_, fun hroom => ?_⟩,
    fun p nb tok o hl hq hdeal hfed hnlen ho hroom => ?_,
    fun ch tag seq ipc id rest h hq hx hopen => ⟨fun hheld => ?_, fun hc hroom => ?_⟩,
    fun n d u r hn hd hr => ⟨fun hen => ?_, fun hen hu => ⟨fun hoff => ?_, fun k i p y hoff hy => ?_⟩⟩⟩
  · cases hid : x.ids.contains id with
    | true =>
      refine ⟨_, controlTokenPass_ends he hx hg hslot hobs hout hemit hcell hid, rfl, ?_, fun _ => ⟨?_, ?_, rfl⟩, nofun⟩
      · rw [mapRun_me, elem_mapElem_self _ hlen]
        exact slot_setSlot_self ..
      · rw [mapRun_me, elem_mapElem_self _ hlen]
        exact (out_setSlot ..).trans hout
      · rw [mapRun_me, elem_mapElem_self _ hlen, hx]
    | false =>
      obtain ⟨v, hv⟩ := controlTokenPass_forwards he hx hg hslot hobs hout hemit hcell hid
      have hlen' : e < (s.ctlAct e c id).me.run.elems.length := hlen.trans_eq (ctlAct_elems ..).symm
      refine ⟨_, hv, ctlAct_mem .., ?_, nofun, fun _ => ?_⟩ <;> rw [mapRun_me, elem_mapElem_self _ hlen']
      · exact slot_setSlot_self ..
      · refine ⟨congrArg (fun l => (id :: l).take 8) (ids_setSlot ..), fun hdirs => ?_, ?_, ?_⟩
        · exact ⟨_, passed_sides hdirs .., rfl, fun d hd => getLsbD_sides _ hd⟩
        · rintro n rfl
          exact ⟨by rw [hx]; rfl, by rw [hx]; rfl⟩
        · rintro page sz rfl
          refine ⟨ctlAct_relatch_deps s e page sz id, ?_⟩
          rw [ctlAct_relatch, elem_mapElem_self _ hlen, hx]
  · exact linkTransfer_stays hg hl (hx ▸ ho) hd hnb hp hfull
  · obtain ⟨harr, hemit⟩ := arrive_outputs s.me.run nb e p o.tok s.time hlen
    refine ⟨_, linkTransfer_crosses hg hl (hx ▸ ho) hd hnb hp hroom, ?_, ?_, rfl⟩
    · rw [mapRun_me, slot_sent _ _ _ _ _ (hnlen.trans_eq (mapElem_elems_length ..).symm), elem_mapElem_self _ hnlen]
      exact slot_arrive ..
    · rw [mapRun_me, out_sent (hlen.trans_eq (mapElem_elems_length ..).symm) (harr.trans (hx ▸ ho)) (without_last hd hq hs), hemit, hx]
  · refine ⟨_, linkTransfer_port hg hl hq hdeal hfed ho hroom, ?_, rfl⟩
    exact (congrArg (Elem.slot · o) (elem_mapElem_self _ hnlen)).trans (slot_arrive ..)
  · by_cases hc : ∃ c ∈ s.me.cmds, c.portNo = s.cur.arg.n ∧ c.slotInFlight = true
    · exact tokenChannelPush_held hq hc
    · obtain ⟨k, hk⟩ := tokenChannelPush_due hq hx hopen fun c hm hp => Bool.eq_false_iff.2 fun hf => hc ⟨c, hm, hp, hf⟩
      rw [hk, hheld.resolve_left hc]
      rfl
  · obtain ⟨k, hk⟩ := tokenChannelPush_due hq hx hopen hc
    exact ⟨k, hk.trans (if_pos hroom)⟩
  · subst hn hd hr
    exact ingressMeter_off hen
  · rw [ingressMeter_on hn hd hr hen hu, hoff, igRun]
  · obtain ⟨t, ht, hmem, hmeter⟩ := igRun_one (s := r.setDie n u) (k := k) hy (die_setDie ..) (p := p) rfl
    rw [igCost_eq, show u.igwt = d.igwt by rw [hu], show u.igctl = d.igctl by rw [hu]] at hmeter
    rw [ingressMeter_on hn hd hr hen hu, hoff]
    exact ⟨t, congrArg _ ht, hmem.trans (by rw [hr]; rfl), hmeter⟩

end Sys2Proof.Machine

end
